-- ==== Sys2Proof/Word.lean ====
section
/-!
DEFINITION. The machine's word types (spec 00_scope.md R10, R12): a register is 32 bits, the stores are bytes.
-/

namespace Sys2Proof

/-- A register value (R10: every register is 32 bits wide). -/
abbrev Word := BitVec 32

/-- A byte of a store. -/
abbrev Byte := BitVec 8

end Sys2Proof
end

