-- ==== Sys2Proof/Operand.lean ====
section
/-!
DEFINITION. The kinds of operand that the commands of Syntax.lean carry: access paths, widths, register pairs, and the
values that the outside world supplies (log entry 11).
-/

namespace Sys2Proof

/-- The path of a register access, as HOST.LOCK_ADDR numbers them (R547): the PCIe port, the SPI target, and the
tackler's debug access. -/
inductive Path where
  | pcie | spi | tackler
  deriving DecidableEq, Repr

/-- The width of an access (R10). -/
inductive Width where
  | w8 | w16 | w32 | w64
  deriving DecidableEq, Repr

/-- The register pairs that hold a 64-bit quantity (R11): those whose register table says so. -/
inductive RegPair where
  | pickno
  | pickT
  | trdTtime (t : Fin 4)
  | posLatT (i : Fin 16)
  | bobSrc (b : Fin 32)
  | bobDst (b : Fin 32)
  | bobErrAddr (b : Fin 32)
  | chgSwT
  deriving DecidableEq, Repr

/-- The two contexts of a shuttle engine (R82). -/
inductive Ctx where
  | normal | express
  deriving DecidableEq, Repr

/-- The two compares of a channel (R137). -/
inductive Cmp where
  | a | b
  deriving DecidableEq, Repr

/-- The four staged registers of a channel (R144). -/
inductive Staged where
  | rlds | cmpas | cmpbs | fines
  deriving DecidableEq, Repr

/-- The two sides of a pair of pins: A is W(2k), B is W(2k + 1) (R171). -/
inductive Side where
  | a | b
  deriving DecidableEq, Repr

/-- The two lines of a pin that are calibrated (R173): its output delay line, its input time-to-digital line. -/
inductive CalLine where
  | out | tdc
  deriving DecidableEq, Repr

/-- One step of the calibration of a line (R173), and whether the line left its range. -/
inductive CalMove where
  | up | down | stay | lost
  deriving DecidableEq, Repr

/-- What a step of the calibration does to a pin (R173): to which of its lines, and how. -/
structure CalStep where
  line : CalLine
  move : CalMove
  deriving DecidableEq, Repr

/-- The registers of the completion ring (R242). -/
inductive RingCfg where
  | base | size | mark
  deriving DecidableEq, Repr

/-- The registers of a tooth record ring (R277). -/
inductive TrCfg where
  | ctl | base
  deriving DecidableEq, Repr

/-- Where an analogue input lies against a comparator's threshold (R347, R348). -/
inductive Analog where
  | above | below | band
  deriving DecidableEq, Repr

/-- What a bobbin transaction brings back (R386, R390): read data, a write acknowledgement, or a host error. -/
inductive BobReturn where
  | data (bytes : List (BitVec 8))
  | ack
  | hostError
  deriving DecidableEq, Repr

/-- The two Selvedge ports of a device (R490). -/
inductive Port where
  | up | dn
  deriving DecidableEq, Repr

/-- What the receiver saw of a train on its link beside the bytes (R514): nothing amiss, a code or disparity violation, or
an end by K30.7. -/
inductive TrainLink where
  | clean | codeViolation | poisoned
  deriving DecidableEq, Repr

/-- A PCIe memory request to the port (R526, R527): its address, its first and last byte enables, and what is wrong
with it, if anything. -/
structure PcieReq where
  addr     : BitVec 32
  firstBe  : BitVec 4
  lastBe   : BitVec 4
  bar      : Fin 3        -- 0 = BAR0, 1 = BAR2, 2 = any other target
  defect   : Fin 4        -- 0 = none, 1 = unsupported kind, 2 = malformed, 3 = poisoned
  deriving DecidableEq, Repr

/-- The resets of the host port alone (R530). -/
inductive HostResetKind where
  | perst | hotReset | functionLevel | linkLoss
  deriving DecidableEq, Repr

/-- The two lanes of the mailbox (R540). -/
inductive Lane where
  | foreground | background
  deriving DecidableEq, Repr

/-- The two checker shuttles SHU[32] and SHU[33] (R587). -/
inductive Checker where
  | c32 | c33
  deriving DecidableEq, Repr

end Sys2Proof
end

