-- ==== Sys2Proof/Syntax.lean ====
section
/-!
DEFINITION. The commands: one constructor per row of spec/opcode_table.json, in the table's order. Operands: `p` the path of a
register access; `v` the value written; `e` a shuttle or heddle engine; `n` a channel or its warp pin; `h` a harness; `k` a
reed; `s` a card slot or a converter slot; `t` a tracker; `i` a position interface or an index of the row's own; `c` a
comparator; `w` a window; `b` a bobbin; `j` a vector or a queue. What the outside world supplies is an operand too.
-/

namespace Sys2Proof

/-- A command to the device, or a step of one of its own engines (spec/opcode_table.json). -/
inductive Instr where
  | registerWrite (p : Path) (addr : BitVec 32) (width : Width) (v : BitVec 64)
  | pairLoRead (p : Path) (pr : RegPair)
  | pairLoWrite (p : Path) (pr : RegPair) (v : BitVec 32)
  | pairHiWrite (p : Path) (pr : RegPair) (v : BitVec 32)
  | timeLoRead (p : Path)
  | commit (p : Path)
  | cntClr (p : Path)
  | pickStart
  | scanPoint
  | taskStart (e : Fin 34)
  | expressStart (e : Fin 34)
  | expressLimit (e : Fin 34)
  | contextResume (e : Fin 34)
  | shedCntClr (p : Path)
  | ill (e : Fin 34)
  | nop (e : Fin 34)
  | aluAdd (e : Fin 34) (d : Fin 16) (a : Fin 16) (b : Fin 16)
  | aluSub (e : Fin 34) (d : Fin 16) (a : Fin 16) (b : Fin 16)
  | aluAdc (e : Fin 34) (d : Fin 16) (a : Fin 16) (b : Fin 16)
  | aluSbc (e : Fin 34) (d : Fin 16) (a : Fin 16) (b : Fin 16)
  | aluAnd (e : Fin 34) (d : Fin 16) (a : Fin 16) (b : Fin 16)
  | aluOr (e : Fin 34) (d : Fin 16) (a : Fin 16) (b : Fin 16)
  | aluXor (e : Fin 34) (d : Fin 16) (a : Fin 16) (b : Fin 16)
  | aluShl (e : Fin 34) (d : Fin 16) (a : Fin 16) (b : Fin 16)
  | aluShr (e : Fin 34) (d : Fin 16) (a : Fin 16) (b : Fin 16)
  | aluSar (e : Fin 34) (d : Fin 16) (a : Fin 16) (b : Fin 16)
  | aluMul (e : Fin 34) (d : Fin 16) (a : Fin 16) (b : Fin 16)
  | aluMulh (e : Fin 34) (d : Fin 16) (a : Fin 16) (b : Fin 16)
  | aluMulhu (e : Fin 34) (d : Fin 16) (a : Fin 16) (b : Fin 16)
  | aluDivs (e : Fin 34) (d : Fin 16) (a : Fin 16) (b : Fin 16)
  | aluDivu (e : Fin 34) (d : Fin 16) (a : Fin 16) (b : Fin 16)
  | aluMin (e : Fin 34) (d : Fin 16) (a : Fin 16) (b : Fin 16)
  | aluMax (e : Fin 34) (d : Fin 16) (a : Fin 16) (b : Fin 16)
  | cmp (e : Fin 34) (a : Fin 16) (b : Fin 16)
  | addi (e : Fin 34) (d : Fin 16) (a : Fin 16) (imm : BitVec 14)
  | andi (e : Fin 34) (d : Fin 16) (a : Fin 16) (imm : BitVec 14)
  | ori (e : Fin 34) (d : Fin 16) (a : Fin 16) (imm : BitVec 14)
  | xori (e : Fin 34) (d : Fin 16) (a : Fin 16) (imm : BitVec 14)
  | shli (e : Fin 34) (d : Fin 16) (a : Fin 16) (imm : BitVec 14)
  | shri (e : Fin 34) (d : Fin 16) (a : Fin 16) (imm : BitVec 14)
  | sari (e : Fin 34) (d : Fin 16) (a : Fin 16) (imm : BitVec 14)
  | cmpi (e : Fin 34) (a : Fin 16) (imm : BitVec 14)
  | sel (e : Fin 34) (d : Fin 16) (a : Fin 16) (b : Fin 16) (cond : BitVec 4)
  | lui (e : Fin 34) (d : Fin 16) (imm : BitVec 18)
  | li (e : Fin 34) (d : Fin 16) (imm : BitVec 18)
  | padd (e : Fin 34) (d : Fin 16) (a : Fin 16) (b : Fin 16)
  | pdif (e : Fin 34) (d : Fin 16) (a : Fin 16) (b : Fin 16)
  | ld (e : Fin 34) (d : Fin 16) (a : Fin 16) (imm : BitVec 14)
  | ldh (e : Fin 34) (d : Fin 16) (a : Fin 16) (imm : BitVec 14)
  | ldhu (e : Fin 34) (d : Fin 16) (a : Fin 16) (imm : BitVec 14)
  | ldbu (e : Fin 34) (d : Fin 16) (a : Fin 16) (imm : BitVec 14)
  | ldd (e : Fin 34) (d : Fin 16) (a : Fin 16) (imm : BitVec 14)
  | st (e : Fin 34) (a : Fin 16) (b : Fin 16) (imm : BitVec 14)
  | sth (e : Fin 34) (a : Fin 16) (b : Fin 16) (imm : BitVec 14)
  | stb (e : Fin 34) (a : Fin 16) (b : Fin 16) (imm : BitVec 14)
  | std (e : Fin 34) (a : Fin 16) (b : Fin 16) (imm : BitVec 14)
  | ldc (e : Fin 34) (d : Fin 16) (a : Fin 16) (imm : BitVec 14)
  | stc (e : Fin 34) (a : Fin 16) (b : Fin 16) (imm : BitVec 14)
  | fence (e : Fin 34)
  | br (e : Fin 34) (cond : BitVec 4) (imm : BitVec 14)
  | jmp (e : Fin 34) (imm : BitVec 18)
  | jal (e : Fin 34) (d : Fin 16) (imm : BitVec 18)
  | jr (e : Fin 34) (a : Fin 16)
  | endTask (e : Fin 34) (imm : BitVec 18)
  | sig (e : Fin 34) (imm : BitVec 18)
  | evr (e : Fin 34) (a : Fin 16) (imm : BitVec 14)
  | softwareEvent (e : Fin 34)
  | rds (e : Fin 34) (d : Fin 16) (imm : BitVec 14)
  | rdl (e : Fin 34) (d : Fin 16) (imm : BitVec 14)
  | chr (e : Fin 34) (d : Fin 16) (a : Fin 16) (imm : BitVec 14)
  | chw (e : Fin 34) (a : Fin 16) (b : Fin 16) (imm : BitVec 14)
  | chwLand (e : Fin 34)
  | edge (e : Fin 34) (a : Fin 16) (b : Fin 16) (imm : BitVec 14)
  | shuttleEdgeOut (n : Fin 512)
  | arm (e : Fin 34) (d : Fin 16) (a : Fin 16)
  | disarm (e : Fin 34) (d : Fin 16) (a : Fin 16)
  | lerp (e : Fin 34) (d : Fin 16) (a : Fin 16) (b : Fin 16) (imm : BitVec 14)
  | loadResult (e : Fin 34) (x : Ctx)
  | storeAck (e : Fin 34) (x : Ctx)
  | correctedWriteBack (word : Fin 1572864)
  | halt (p : Path) (e : Fin 34)
  | halted (e : Fin 34)
  | resume (p : Path) (e : Fin 34)
  | shuStep (p : Path) (e : Fin 34)
  | breakpointHit (e : Fin 34)
  | shuCntClr (p : Path) (e : Fin 34)
  | harnessTick (h : Fin 64)
  | leaveOff (p : Path) (n : Fin 512) (v : BitVec 32)
  | enterOff (p : Path) (n : Fin 512) (v : BitVec 32)
  | start (p : Path) (n : Fin 512)
  | rldWrite (p : Path) (n : Fin 512) (v : BitVec 32)
  | compareWrite (p : Path) (n : Fin 512) (q : Cmp) (v : BitVec 32)
  | fineWrite (p : Path) (n : Fin 512) (v : BitVec 32)
  | stagedWrite (p : Path) (n : Fin 512) (q : Staged) (v : BitVec 32)
  | capRead (p : Path) (n : Fin 512)
  | filtWrite (p : Path) (n : Fin 512) (v : BitVec 32)
  | evcfgWrite (p : Path) (n : Fin 512) (v : BitVec 32)
  | prescWrite (p : Path) (h : Fin 64) (v : BitVec 32)
  | chCntClr (p : Path) (n : Fin 512)
  | pinTransition (n : Fin 512) (level : Bool) (fine : Fin 32)
  | filterSample (n : Fin 512)
  | load (p : Path) (h : Fin 64)
  | loadAll (p : Path)
  | loadNow (p : Path) (h : Fin 64)
  | tripCut (h : Fin 64) (i : Fin 4)
  | blankingEnd (k : Fin 256)
  | deadTimeEnd (k : Fin 256) (side : Side)
  | tripWrite (p : Path) (h : Fin 64) (i : Fin 4) (v : BitVec 32)
  | tripfClear (p : Path) (h : Fin 64) (mask : BitVec 4)
  | harnCntClr (p : Path) (h : Fin 64)
  | reedCntClr (p : Path) (k : Fin 256)
  | calibrationStep (n : Fin 512) (mv : CalStep)
  | cardPlace
  | nearPromotion (s : Fin 131072)
  | cardSet (s : Fin 131072)
  | cardClear (s : Fin 131072)
  | cardToggle (s : Fin 131072)
  | cardPulse (s : Fin 131072)
  | loadCmpa (s : Fin 131072)
  | loadCmpb (s : Fin 131072)
  | userEvent (s : Fin 131072)
  | express (s : Fin 131072)
  | pulseEnd (s : Fin 131072)
  | capEnd (s : Fin 131072)
  | crRdWrite (p : Path) (v : BitVec 32)
  | ringConfigWrite (p : Path) (q : RingCfg) (v : BitVec 32)
  | cardCntClr (p : Path)
  | tooth (t : Fin 4) (instant : Nat)
  | cycleStart (t : Fin 4)
  | secondaryEdge (t : Fin 4) (instant : Nat)
  | secondaryWindowMiss (t : Fin 4) (i : Fin 8)
  | stall (t : Fin 4)
  | beaconMiss (t : Fin 4)
  | trackerEnable (p : Path) (t : Fin 4) (v : BitVec 32)
  | trackerDisable (p : Path) (t : Fin 4)
  | phaseRead (p : Path) (t : Fin 4)
  | trRdWrite (p : Path) (t : Fin 4) (v : BitVec 32)
  | trConfigWrite (p : Path) (t : Fin 4) (q : TrCfg) (v : BitVec 32)
  | trdCntClr (p : Path) (t : Fin 4)
  | posEnable (p : Path) (i : Fin 16) (v : BitVec 32)
  | posDisable (p : Path) (i : Fin 16)
  | posFilterSample (i : Fin 16)
  | posLoad (p : Path) (i : Fin 16)
  | latch (p : Path) (i : Fin 16)
  | eventLatch (i : Fin 16)
  | latPosRead (p : Path) (i : Fin 16)
  | standstill (i : Fin 16)
  | serStart (p : Path) (i : Fin 16)
  | frameStart (i : Fin 16)
  | wordLanding (i : Fin 16) (bits : BitVec 64)
  | dataTimeout (i : Fin 16)
  | posCntClr (p : Path) (i : Fin 16)
  | hedJmp (e : Fin 64) (f : BitVec 12)
  | hedWait (e : Fin 64) (f : BitVec 12)
  | waitLimit (e : Fin 64)
  | hedOut (e : Fin 64) (f : BitVec 12)
  | hedIn (e : Fin 64) (f : BitVec 12)
  | hedPull (e : Fin 64) (f : BitVec 12)
  | hedPush (e : Fin 64) (f : BitVec 12)
  | hedSet (e : Fin 64) (f : BitVec 12)
  | hedMov (e : Fin 64) (f : BitVec 12)
  | hedCrc (e : Fin 64) (f : BitVec 12)
  | hedStamp (e : Fin 64) (f : BitVec 12)
  | hedInvalidOpcode (e : Fin 64)
  | hedTriggerPending (e : Fin 64)
  | txdata (p : Path) (e : Fin 64) (v : BitVec 32)
  | rxdata (p : Path) (e : Fin 64)
  | hedStart (p : Path) (e : Fin 64)
  | hedStop (p : Path) (e : Fin 64)
  | fifoClr (p : Path) (e : Fin 64)
  | cleanSwap (e : Fin 64)
  | forcedSwap (e : Fin 64)
  | hedHalt (p : Path) (e : Fin 64)
  | hedResume (p : Path) (e : Fin 64)
  | hedStep (p : Path) (e : Fin 64)
  | hedCntClr (p : Path) (e : Fin 64)
  | comparatorChange (c : Fin 64) (out : Bool) (instant : Nat)
  | comparatorEnable (p : Path) (c : Fin 64) (v : BitVec 32)
  | comparatorDisable (p : Path) (c : Fin 64)
  | indetEvaluation (c : Fin 64) (x : Analog)
  | settleEnd (c : Fin 64) (x : Analog)
  | threshWrite (p : Path) (c : Fin 64) (v : BitVec 32)
  | adcTriggerPending (i : Fin 4)
  | sequenceStart
  | readbackDue
  | conversionStart
  | conversionResult (code : BitVec 12)
  | slotRead (p : Path) (s : Fin 32)
  | rqRdWrite (p : Path) (v : BitVec 32)
  | winCntClr (p : Path) (w : Fin 32)
  | adcCntClr (p : Path)
  | scrubRead
  | preservingTest (p : Path) (bank : BitVec 6)
  | destructiveTest (p : Path) (bank : BitVec 6)
  | copyEnd
  | testEnd (pass : Bool)
  | restoreEnd
  | storeCntClr (p : Path)
  | bobStart (p : Path) (b : Fin 32) (v : BitVec 32)
  | bobAbort (p : Path) (b : Fin 32)
  | gateOpen (b : Fin 32)
  | gateClose (b : Fin 32)
  | transactionIssue (b : Fin 32)
  | transactionReturn (b : Fin 32) (x : BobReturn)
  | hostCompletionTimeout (b : Fin 32)
  | hqPtrWrite (p : Path) (j : Fin 8) (v : BitVec 32)
  | bobCntClr (p : Path) (b : Fin 32)
  | bobcCntClr (p : Path)
  | raiseArrival (j : Fin 64)
  | coalesceTimeout (j : Fin 64)
  | msixHandover (j : Fin 64)
  | irqAssert (j : Fin 64)
  | pendClear (p : Path) (j : Fin 64)
  | maskClear (p : Path) (j : Fin 64)
  | vecCtlWrite (p : Path) (j : Fin 64) (v : BitVec 32)
  | evmCntClr (p : Path)
  | vecCntClr (p : Path) (j : Fin 64)
  | powerOnReset
  | pinReset
  | brownOut
  | resetRelease (hostSel : Bool) (high : BitVec 8)
  | pllLock
  | flashDiscovery (code : Fin 7) (density : BitVec 8) (dummy : BitVec 8)
  | firmwareSelection
  | selfTestEnd (bad : List (Fin 52)) (logicOk : Bool)
  | bootDraftApplied (unreadable : BitVec 3)
  | referenceLoss
  | restore (p : Path)
  | latencyNsWrite (p : Path) (v : BitVec 32)
  | dozeEntry
  | dozeExit
  | slumberEntry
  | wakeComplete
  | bankSleep (bank : Fin 48)
  | supplyLow (m : Fin 6)
  | supplyRecovery (m : Fin 6)
  | pwrCntClr (p : Path)
  | verifyComplete (readable : Bool)
  | switchInstant
  | channelApplication (n : Fin 512)
  | forcedApplication (n : Fin 512)
  | changeoverEnd
  | nonhitlessApply
  | slotTableCommit
  | chgCntClr (p : Path)
  | portDown (q : Port)
  | portLock (q : Port)
  | portMeasure (q : Port)
  | portUp (q : Port)
  | echoRequest (instant : Nat)
  | echoAnswer (turn : BitVec 16)
  | echoReply (instant : Nat) (turn : BitVec 16)
  | trainSend
  | trainReceive (bytes : List (BitVec 8)) (link : TrainLink) (instant : Nat)
  | trainReturn (bytes : List (BitVec 8)) (link : TrainLink)
  | ringTimeout
  | lineDeadline
  | selCntClr (p : Path)
  | pcieWrite (req : PcieReq) (data : List (BitVec 32))
  | pcieRead (req : PcieReq) (n : Nat)
  | readCompletion
  | configRequest (write : Bool) (reg : Fin 1024) (v : BitVec 32)
  | hostReset (q : HostResetKind)
  | spiWrite (bytes : List (BitVec 8))
  | spiRead (bytes : List (BitVec 8))
  | spiQuadWrite (bytes : List (BitVec 8))
  | spiQuadRead (bytes : List (BitVec 8))
  | doorbell (p : Path) (i : Fin 64)
  | commandStart (l : Lane)
  | commandCompletion (l : Lane)
  | echo
  | armCmd
  | stop
  | hold
  | clearHold
  | maintEnter
  | maintLeave
  | deviceReset
  | commandReset
  | draftWrite
  | draftVerify
  | draftAbort
  | changeover
  | revert
  | lineChangeover
  | hedLoad
  | fwWrite
  | fwActivate
  | logRead
  | keyEnrol
  | keyRevoke
  | secureEnable
  | epochRaise
  | mbxCntClr (p : Path)
  | hostCntClr (p : Path)
  | tempSample (temps : Vector (BitVec 11) 8)
  | supplySample (mv : Vector (BitVec 12) 7)
  | logFlashCopy
  | tacklerClockFault
  | pllLockLoss
  | watchdogExpiry
  | restart (p : Path)
  | restartEnd
  | flashProgramDone
  | flashError
  | extest
  | idcode
  | samplePreload (cells : BitVec 512)
  | clamp
  | highz
  | bypass
  | dbgAccRead (addr : BitVec 32)
  | dbgAccWrite (addr : BitVec 32) (v : BitVec 32)
  | readWord (addr : BitVec 32)
  | loadWord (addr : BitVec 32) (v : BitVec 32)
  | programPage (addr : BitVec 32)
  | eraseSector (addr : BitVec 32)
  | readStatus
  | dbgUnlock (key : BitVec 8) (r : BitVec 256) (s : BitVec 256)
  | unlock (p : Path)
  | openWrite (p : Path) (isOpen : Bool)
  | testReset
  | tackCntClr (p : Path)
  | replayEnd (q : Checker) (w : BitVec 32) (endOk : Bool)
  | arbitrationEnd (w : BitVec 32) (endOk : Bool)
  | substituteLoaded (q : Checker)
  | lockstepMismatch
  | readbackMismatch (n : Fin 512)
  | faultReset
  | injectEnd (p : Path)
  | injectSingleBit (p : Path)
  | injectDoubleBit (p : Path)
  | injectShedState (p : Path)
  | injectResidue (p : Path)
  | injectSignature (p : Path)
  | injectCardCheck (p : Path)
  | injectSensedLevel (p : Path)
  | injectReferenceLoss (p : Path)
  | injectReadbackOffset (p : Path)
  | fltCntClr (p : Path)
  | referenceReturn
  | restoreOk
  | pcieLinkTrained (rate : Fin 3) (width : Fin 2)
  | indetBandExit (c : Fin 64) (above : Bool)
  | edgeCountAction (n : Fin 512)
  | firmwareRestartRequest
  deriving DecidableEq, Repr

end Sys2Proof
end

