-- ==== Sys2Proof/Decode.lean ====
section
/-!
DEFINITION. Decoding. The rows of spec/opcode_table.json give no bits, so no word of the table spells a command. The
device itself decodes two kinds of word: shuttle instructions (03_shuttle_engines.md R85, R86) and heddle instructions
(09_heddle_engines.md R315). Each is decoded to the command that its engine then performs, and encoded back.
-/

namespace Sys2Proof

/-- The command that a word of the table's bits spells: none, since no row of spec/opcode_table.json gives bits. -/
def decodeTableWord (_nbits _w : Nat) : Option Instr := none

/-! ### Shuttle instruction words (R85) -/

/-- Bits [31:26], the opcode. -/
def shuOpcode (w : BitVec 32) : Nat := w.toNat / 2 ^ 26

/-- Register fields d [25:22], a [21:18], b [17:14]. -/
def shuD (w : BitVec 32) : Fin 16 := Fin.ofNat 16 (w.toNat / 2 ^ 22)
def shuA (w : BitVec 32) : Fin 16 := Fin.ofNat 16 (w.toNat / 2 ^ 18)
def shuB (w : BitVec 32) : Fin 16 := Fin.ofNat 16 (w.toNat / 2 ^ 14)

/-- imm14 [13:0], imm18 [17:0], and the conditions of BR [25:22] and SEL [3:0]. -/
def shuImm14 (w : BitVec 32) : BitVec 14 := BitVec.ofNat 14 w.toNat
def shuImm18 (w : BitVec 32) : BitVec 18 := BitVec.ofNat 18 w.toNat
def shuCond (w : BitVec 32) : BitVec 4 := BitVec.ofNat 4 (w.toNat / 2 ^ 22)
def shuSelCond (w : BitVec 32) : BitVec 4 := BitVec.ofNat 4 w.toNat

/-- The instruction of a word (R86), as the command of engine `e`. Fields a form leaves unused are ignored. Opcodes 0x00
and 0x3C to 0x3F are ILL. -/
def shuDecode (e : Fin 34) (w : BitVec 32) : Instr :=
  match shuOpcode w with
  | 0x01 => .nop e
  | 0x02 => .aluAdd e (shuD w) (shuA w) (shuB w)
  | 0x03 => .aluSub e (shuD w) (shuA w) (shuB w)
  | 0x04 => .aluAdc e (shuD w) (shuA w) (shuB w)
  | 0x05 => .aluSbc e (shuD w) (shuA w) (shuB w)
  | 0x06 => .aluAnd e (shuD w) (shuA w) (shuB w)
  | 0x07 => .aluOr e (shuD w) (shuA w) (shuB w)
  | 0x08 => .aluXor e (shuD w) (shuA w) (shuB w)
  | 0x09 => .aluShl e (shuD w) (shuA w) (shuB w)
  | 0x0A => .aluShr e (shuD w) (shuA w) (shuB w)
  | 0x0B => .aluSar e (shuD w) (shuA w) (shuB w)
  | 0x0C => .aluMul e (shuD w) (shuA w) (shuB w)
  | 0x0D => .aluMulh e (shuD w) (shuA w) (shuB w)
  | 0x0E => .aluMulhu e (shuD w) (shuA w) (shuB w)
  | 0x0F => .aluDivs e (shuD w) (shuA w) (shuB w)
  | 0x10 => .aluDivu e (shuD w) (shuA w) (shuB w)
  | 0x11 => .aluMin e (shuD w) (shuA w) (shuB w)
  | 0x12 => .aluMax e (shuD w) (shuA w) (shuB w)
  | 0x13 => .cmp e (shuA w) (shuB w)
  | 0x14 => .addi e (shuD w) (shuA w) (shuImm14 w)
  | 0x15 => .andi e (shuD w) (shuA w) (shuImm14 w)
  | 0x16 => .ori e (shuD w) (shuA w) (shuImm14 w)
  | 0x17 => .xori e (shuD w) (shuA w) (shuImm14 w)
  | 0x18 => .shli e (shuD w) (shuA w) (shuImm14 w)
  | 0x19 => .shri e (shuD w) (shuA w) (shuImm14 w)
  | 0x1A => .sari e (shuD w) (shuA w) (shuImm14 w)
  | 0x1B => .cmpi e (shuA w) (shuImm14 w)
  | 0x1C => .sel e (shuD w) (shuA w) (shuB w) (shuSelCond w)
  | 0x1D => .lui e (shuD w) (shuImm18 w)
  | 0x1E => .li e (shuD w) (shuImm18 w)
  | 0x1F => .padd e (shuD w) (shuA w) (shuB w)
  | 0x20 => .pdif e (shuD w) (shuA w) (shuB w)
  | 0x21 => .ld e (shuD w) (shuA w) (shuImm14 w)
  | 0x22 => .ldh e (shuD w) (shuA w) (shuImm14 w)
  | 0x23 => .ldhu e (shuD w) (shuA w) (shuImm14 w)
  | 0x24 => .ldbu e (shuD w) (shuA w) (shuImm14 w)
  | 0x25 => .ldd e (shuD w) (shuA w) (shuImm14 w)
  | 0x26 => .st e (shuA w) (shuB w) (shuImm14 w)
  | 0x27 => .sth e (shuA w) (shuB w) (shuImm14 w)
  | 0x28 => .stb e (shuA w) (shuB w) (shuImm14 w)
  | 0x29 => .std e (shuA w) (shuB w) (shuImm14 w)
  | 0x2A => .ldc e (shuD w) (shuA w) (shuImm14 w)
  | 0x2B => .stc e (shuA w) (shuB w) (shuImm14 w)
  | 0x2C => .fence e
  | 0x2D => .br e (shuCond w) (shuImm14 w)
  | 0x2E => .jmp e (shuImm18 w)
  | 0x2F => .jal e (shuD w) (shuImm18 w)
  | 0x30 => .jr e (shuA w)
  | 0x31 => .endTask e (shuImm18 w)
  | 0x32 => .sig e (shuImm18 w)
  | 0x33 => .evr e (shuA w) (shuImm14 w)
  | 0x34 => .rds e (shuD w) (shuImm14 w)
  | 0x35 => .rdl e (shuD w) (shuImm14 w)
  | 0x36 => .chr e (shuD w) (shuA w) (shuImm14 w)
  | 0x37 => .chw e (shuA w) (shuB w) (shuImm14 w)
  | 0x38 => .edge e (shuA w) (shuB w) (shuImm14 w)
  | 0x39 => .arm e (shuD w) (shuA w)
  | 0x3A => .disarm e (shuD w) (shuA w)
  | 0x3B => .lerp e (shuD w) (shuA w) (shuB w) (shuImm14 w)
  | _ => .ill e

/-- A word of its opcode, register fields and immediate (R85). -/
def shuWord (op d a b imm : Nat) : Nat := op * 2 ^ 26 + d * 2 ^ 22 + a * 2 ^ 18 + b * 2 ^ 14 + imm

/-- The word of a shuttle instruction, unused fields 0 (R85, R86); none for every other command. -/
def shuEncode : Instr → Option Nat
  | .ill _ => some 0
  | .nop _ => some (shuWord 1 0 0 0 0)
  | .aluAdd _ d a b => some (shuWord 2 d.val a.val b.val 0)
  | .aluSub _ d a b => some (shuWord 3 d.val a.val b.val 0)
  | .aluAdc _ d a b => some (shuWord 4 d.val a.val b.val 0)
  | .aluSbc _ d a b => some (shuWord 5 d.val a.val b.val 0)
  | .aluAnd _ d a b => some (shuWord 6 d.val a.val b.val 0)
  | .aluOr _ d a b => some (shuWord 7 d.val a.val b.val 0)
  | .aluXor _ d a b => some (shuWord 8 d.val a.val b.val 0)
  | .aluShl _ d a b => some (shuWord 9 d.val a.val b.val 0)
  | .aluShr _ d a b => some (shuWord 10 d.val a.val b.val 0)
  | .aluSar _ d a b => some (shuWord 11 d.val a.val b.val 0)
  | .aluMul _ d a b => some (shuWord 12 d.val a.val b.val 0)
  | .aluMulh _ d a b => some (shuWord 13 d.val a.val b.val 0)
  | .aluMulhu _ d a b => some (shuWord 14 d.val a.val b.val 0)
  | .aluDivs _ d a b => some (shuWord 15 d.val a.val b.val 0)
  | .aluDivu _ d a b => some (shuWord 16 d.val a.val b.val 0)
  | .aluMin _ d a b => some (shuWord 17 d.val a.val b.val 0)
  | .aluMax _ d a b => some (shuWord 18 d.val a.val b.val 0)
  | .cmp _ a b => some (shuWord 19 0 a.val b.val 0)
  | .addi _ d a imm => some (shuWord 20 d.val a.val 0 imm.toNat)
  | .andi _ d a imm => some (shuWord 21 d.val a.val 0 imm.toNat)
  | .ori _ d a imm => some (shuWord 22 d.val a.val 0 imm.toNat)
  | .xori _ d a imm => some (shuWord 23 d.val a.val 0 imm.toNat)
  | .shli _ d a imm => some (shuWord 24 d.val a.val 0 imm.toNat)
  | .shri _ d a imm => some (shuWord 25 d.val a.val 0 imm.toNat)
  | .sari _ d a imm => some (shuWord 26 d.val a.val 0 imm.toNat)
  | .cmpi _ a imm => some (shuWord 27 0 a.val 0 imm.toNat)
  | .sel _ d a b cond => some (shuWord 28 d.val a.val b.val cond.toNat)
  | .lui _ d imm => some (shuWord 29 d.val 0 0 imm.toNat)
  | .li _ d imm => some (shuWord 30 d.val 0 0 imm.toNat)
  | .padd _ d a b => some (shuWord 31 d.val a.val b.val 0)
  | .pdif _ d a b => some (shuWord 32 d.val a.val b.val 0)
  | .ld _ d a imm => some (shuWord 33 d.val a.val 0 imm.toNat)
  | .ldh _ d a imm => some (shuWord 34 d.val a.val 0 imm.toNat)
  | .ldhu _ d a imm => some (shuWord 35 d.val a.val 0 imm.toNat)
  | .ldbu _ d a imm => some (shuWord 36 d.val a.val 0 imm.toNat)
  | .ldd _ d a imm => some (shuWord 37 d.val a.val 0 imm.toNat)
  | .st _ a b imm => some (shuWord 38 0 a.val b.val imm.toNat)
  | .sth _ a b imm => some (shuWord 39 0 a.val b.val imm.toNat)
  | .stb _ a b imm => some (shuWord 40 0 a.val b.val imm.toNat)
  | .std _ a b imm => some (shuWord 41 0 a.val b.val imm.toNat)
  | .ldc _ d a imm => some (shuWord 42 d.val a.val 0 imm.toNat)
  | .stc _ a b imm => some (shuWord 43 0 a.val b.val imm.toNat)
  | .fence _ => some (shuWord 44 0 0 0 0)
  | .br _ cond imm => some (shuWord 45 cond.toNat 0 0 imm.toNat)
  | .jmp _ imm => some (shuWord 46 0 0 0 imm.toNat)
  | .jal _ d imm => some (shuWord 47 d.val 0 0 imm.toNat)
  | .jr _ a => some (shuWord 48 0 a.val 0 0)
  | .endTask _ imm => some (shuWord 49 0 0 0 imm.toNat)
  | .sig _ imm => some (shuWord 50 0 0 0 imm.toNat)
  | .evr _ a imm => some (shuWord 51 0 a.val 0 imm.toNat)
  | .rds _ d imm => some (shuWord 52 d.val 0 0 imm.toNat)
  | .rdl _ d imm => some (shuWord 53 d.val 0 0 imm.toNat)
  | .chr _ d a imm => some (shuWord 54 d.val a.val 0 imm.toNat)
  | .chw _ a b imm => some (shuWord 55 0 a.val b.val imm.toNat)
  | .edge _ a b imm => some (shuWord 56 0 a.val b.val imm.toNat)
  | .arm _ d a => some (shuWord 57 d.val a.val 0 0)
  | .disarm _ d a => some (shuWord 58 d.val a.val 0 0)
  | .lerp _ d a b imm => some (shuWord 59 d.val a.val b.val imm.toNat)
  | _ => none

/-! ### Heddle instruction words (R315) -/

/-- The fields of a heddle instruction: bits [15:4]. -/
def hedFields (w : BitVec 16) : BitVec 12 := BitVec.ofNat 12 (w.toNat / 16)

/-- The instruction of a heddle word, as the command of engine `e` (R315). Opcodes 0 and 11 to 15 are invalid. -/
def hedDecode (e : Fin 64) (w : BitVec 16) : Instr :=
  match w.toNat % 16 with
  | 1 => .hedJmp e (hedFields w)
  | 2 => .hedWait e (hedFields w)
  | 3 => .hedOut e (hedFields w)
  | 4 => .hedIn e (hedFields w)
  | 5 => .hedPull e (hedFields w)
  | 6 => .hedPush e (hedFields w)
  | 7 => .hedSet e (hedFields w)
  | 8 => .hedMov e (hedFields w)
  | 9 => .hedCrc e (hedFields w)
  | 10 => .hedStamp e (hedFields w)
  | _ => .hedInvalidOpcode e

/-- The word of a heddle instruction (R315); none for every other command. -/
def hedEncode : Instr → Option Nat
  | .hedJmp _ f => some (f.toNat * 16 + 1)
  | .hedWait _ f => some (f.toNat * 16 + 2)
  | .hedOut _ f => some (f.toNat * 16 + 3)
  | .hedIn _ f => some (f.toNat * 16 + 4)
  | .hedPull _ f => some (f.toNat * 16 + 5)
  | .hedPush _ f => some (f.toNat * 16 + 6)
  | .hedSet _ f => some (f.toNat * 16 + 7)
  | .hedMov _ f => some (f.toNat * 16 + 8)
  | .hedCrc _ f => some (f.toNat * 16 + 9)
  | .hedStamp _ f => some (f.toNat * 16 + 10)
  | _ => none

end Sys2Proof
end

