-- ==== Sys2Proof/Machine/Bits.lean ====
section
/-!
DEFINITION. Bit fields of words, as the field tables of spec/ write them: [hi:lo] of a register, and their updates.
-/

namespace Sys2Proof.Machine

/-- Bit `i` of a word. -/
def bit (w : Word) (i : Nat) : Bool := w.getLsbD i

/-- The field [lo + n - 1 : lo] of a word, as a number. -/
def fld (w : Word) (lo n : Nat) : Nat := (w.toNat >>> lo) % 2 ^ n

/-- A word of a number (modulo 2^32). -/
def wd (x : Nat) : Word := BitVec.ofNat 32 x

/-- A bit as a number. -/
def b2n (b : Bool) : Nat := if b then 1 else 0

/-- The mask of the field [lo + n - 1 : lo]. -/
def fmask (lo n : Nat) : Word := wd ((2 ^ n - 1) <<< lo)

/-- The word with field [lo + n - 1 : lo] set to `x`. -/
def setFld (w : Word) (lo n x : Nat) : Word := (w &&& ~~~ fmask lo n) ||| wd ((x % 2 ^ n) <<< lo)

/-- The word with bit `i` set to `b`. -/
def setBit (w : Word) (i : Nat) (b : Bool) : Word := setFld w i 1 (b2n b)

/-- A counter of 32 bits that stops at 0xFFFF_FFFF (R42). -/
def satInc (w : Word) : Word := if w = 0xFFFFFFFF#32 then w else w + 1#32

/-- A number of 2's complement of width `n` as an integer. -/
def toSigned (n x : Nat) : Int := if x % 2 ^ n < 2 ^ (n - 1) then (x % 2 ^ n : Nat) else (x % 2 ^ n : Nat) - (2 ^ n : Nat)

/-- An integer as a number of 2's complement of width `n`. -/
def ofSigned (n : Nat) (x : Int) : Nat := (x % (2 ^ n : Nat)).toNat

/-- A list of little-endian bytes as a number (R12). -/
def leNat : List Byte → Nat
  | [] => 0
  | b :: bs => b.toNat + 256 * leNat bs

/-- The `n` little-endian bytes of a number (R12). -/
def leBytes : Nat → Nat → List Byte
  | 0, _ => []
  | n + 1, x => BitVec.ofNat 8 x :: leBytes n (x / 256)

/-- The numbers `k`, `k + 1`, …, `k + n - 1`. -/
def upto : Nat → Nat → List Nat
  | _, 0 => []
  | k, n + 1 => k :: upto (k + 1) n

end Sys2Proof.Machine
end

