-- ==== Sys2Proof/Machine/Crypto.lean ====
section
/-!
DEFINITION. SHA-256 (FIPS 180-4) and the verification of an ECDSA P-256 signature (FIPS 186-4), which the device's hardware
computes (17_tackler.md R550; 14_drafts_and_changeover.md R462 to R464).
-/

namespace Sys2Proof.Machine

/-! ### SHA-256 -/

namespace Sha

/-- The first `n` primes from `k` on, at most `fuel` numbers tried. -/
def primes : Nat → Nat → Nat → List Nat
  | 0, _, _ => []
  | fuel + 1, n, k =>
    if n = 0 then []
    else if (upto 2 (k - 2)).any fun d => k % d == 0 then primes fuel n (k + 1)
    else k :: primes fuel (n - 1) (k + 1)

/-- The largest number below 2^`bits` whose power `e` does not exceed `x`, bit by bit from the root found so far. -/
def root (e x : Nat) : Nat → Nat → Nat
  | 0, r => r
  | bits + 1, r => root e x bits (if (r + 2 ^ bits) ^ e ≤ x then r + 2 ^ bits else r)

/-- The first 32 bits of the fraction of the root of order `e` of a number. -/
def rootWord (e x : Nat) : Word := wd (root e (x * 2 ^ (32 * e)) 38 0)

/-- The constants of FIPS 180-4: of the rounds, from the cube roots of the first 64 primes; the initial hash value, from the square
roots of the first 8. -/
def roundWords : List Word := (primes 320 64 2).map (rootWord 3)
def start : List Word := (primes 20 8 2).map (rootWord 2)

/-- The exclusive or of a word turned right by several amounts. -/
def turned (rs : List Nat) (x : Word) : Word := rs.foldl (fun y r => y ^^^ x.rotateRight r) 0

/-- The schedule keeps the 16 words to come: the oldest leaves, and one made of four of them enters. -/
def slide (w : List Word) : List Word :=
  let x := w.getD 1 0
  let y := w.getD 14 0
  w.drop 1 ++ [w.headD 0 + w.getD 9 0 + (turned [7, 18] x ^^^ (x >>> 3)) + (turned [17, 19] y ^^^ (y >>> 10))]

/-- A round with constant `k`: the working variables, and the words to come. -/
def turn (x : List Word × List Word) (k : Word) : List Word × List Word :=
  match x.1 with
  | [a, b, c, d, e, f, g, h] =>
    let t := k + x.2.headD 0 + h + (g ^^^ (e &&& (f ^^^ g))) + turned [6, 11, 25] e
    ([t + turned [2, 13, 22] a + ((a &&& (b ||| c)) ||| (b &&& c)), a, b, c, t + d, e, f, g], slide x.2)
  | _ => x

/-- A big-endian word of four bytes. -/
def beWord (bs : List Byte) : Word := wd (bs.foldl (fun a b => 256 * a + b.toNat) 0)

/-- The 16 words of a block of 64 bytes. -/
def blockWords (b : List Byte) : List Word := (upto 0 16).map fun i => beWord ((b.drop (4 * i)).take 4)

/-- One block enters the hash. -/
def compress (h : List Word) (b : List Byte) : List Word :=
  (h.zip (roundWords.foldl turn (h, blockWords b)).1).map fun x => x.1 + x.2

/-- The padded message's blocks enter the hash, `n` of them. -/
def blocks : Nat → List Byte → List Word → List Word
  | 0, _, h => h
  | n + 1, bs, h => blocks n (bs.drop 64) (compress h (bs.take 64))

end Sha

/-- The bytes of a number, big-endian. -/
def beBytes (n x : Nat) : List Byte := (leBytes n x).reverse

/-- SHA-256 of a list of bytes, as 32 bytes. -/
def sha256 (bs : List Byte) : List Byte :=
  let z := (119 - bs.length % 64) % 64
  let m := bs ++ [0x80#8] ++ List.replicate z 0 ++ beBytes 8 (8 * bs.length)
  (Sha.blocks (m.length / 64) m Sha.start).flatMap fun w => beBytes 4 w.toNat

/-- A big-endian number of bytes. -/
def beNat (bs : List Byte) : Nat := bs.foldl (fun a b => 256 * a + b.toNat) 0

/-! ### P-256 -/

namespace P256

def p : Nat := 0xffffffff00000001000000000000000000000000ffffffffffffffffffffffff
def n : Nat := 0xffffffff00000000ffffffffffffffffbce6faada7179e84f3b9cac2fc632551
def b : Nat := 0x5ac635d8aa3a93e7b3ebbd55769886bc651d06b0cc53b0f63bce3c3e27d2604b
def gx : Nat := 0x6b17d1f2e12c4247f8bce6e563a440f277037d812deb33a0f4a13945d898c296
def gy : Nat := 0x4fe342e2fe1a7f9b8ee7eb4a7c0f9e162bce33576b315ececbb6406837bf51f5

/-- x^e mod m, by the `k` low bits of e. -/
def powMod (m : Nat) : Nat → Nat → Nat → Nat
  | 0, _, _ => 1 % m
  | k + 1, x, e =>
    let r := powMod m k (x * x % m) (e / 2)
    if e % 2 = 1 then r * x % m else r

/-- The inverse modulo a prime, 0 of 0. -/
def inv (m x : Nat) : Nat := powMod m 256 (x % m) (m - 2)

/-- A point of the curve: none at infinity. -/
abbrev Point := Option (Nat × Nat)

def onCurve (x y : Nat) : Bool :=
  decide (x < p ∧ y < p) && decide ((y * y) % p = (x * x * x + (p - 3) * x + b) % p)

def add : Point → Point → Point
  | none, q => q
  | q, none => q
  | some (x1, y1), some (x2, y2) =>
    if x1 = x2 ∧ (y1 + y2) % p = 0 then none
    else
      let l := if x1 = x2 then (3 * x1 * x1 + (p - 3)) * inv p (2 * y1) % p
               else (y2 + p - y1) * inv p (x2 + p - x1) % p
      let x3 := (l * l + 2 * p - x1 - x2) % p
      some (x3, (l * (x1 + p - x3) + p - y1) % p)

/-- k times a point, by the `f` low bits of k. -/
def mul : Nat → Nat → Point → Point
  | 0, _, _ => none
  | f + 1, k, q =>
    let r := mul f (k / 2) (add q q)
    if k % 2 = 1 then add r q else r

/-- The signature (r, s) over a message digest verifies with the public key (x, y). -/
def verify (key : Nat × Nat) (digest : List Byte) (r s : Nat) : Bool :=
  if r = 0 ∨ n ≤ r ∨ s = 0 ∨ n ≤ s ∨ !onCurve key.1 key.2 then false
  else
    let w := inv n s
    let z := beNat digest
    match add (mul 256 (z * w % n) (some (gx, gy))) (mul 256 (r * w % n) (some key)) with
    | none => false
    | some (x, _) => decide (x % n = r)

end P256

end Sys2Proof.Machine
end

