-- ==== Sys2Proof/Config.lean ====
section
/-!
DEFINITION. What the spec leaves open and the hardware fixes by itself: FREE VALUES, constants without a body, so that
nothing in Lean can evaluate one. Each is applied to a plain counter of State (`freeN`) or to the operands it may
depend on. See the assumption log.
-/

namespace Sys2Proof

/-- A fresh word whose value the spec does not give (log entry 1). -/
opaque Config.freeWord : Nat → BitVec 64

/-- A fresh bit whose value the spec does not give, such as the level seen for a pulse of 1 to 2 ns (R630) or the
output of a comparator for a voltage inside its band (R348) (log entry 1). -/
opaque Config.freeBit : Nat → Bool

/-- The random challenge words of TACK.CHAL (R577), word `k` of draw `n` (log entry 10). -/
opaque Config.challenge : Nat → Nat → BitVec 32

end Sys2Proof
end

