-- ==== Sys2Proof/Machine/Flags.lean ====
section
/-!
DEFINITION. The arithmetic of the shuttle instruction set and its flags (03_shuttle_engines.md R86 to R90, R108), as
pure functions: a result and the flags after it.
-/

namespace Sys2Proof.Machine

/-- The flags of a context (R82): negative, zero, carry, overflow. -/
structure Flags where
  n : Bool := false
  z : Bool := false
  c : Bool := false
  v : Bool := false
  deriving DecidableEq, Repr

/-- N and Z of a result; C and V as they were. -/
def flagsNZ (f : Flags) (r : Word) : Flags := { f with n := r.msb, z := decide (r = 0) }

/-- a + b + carry with N, Z, C and V (R86): C is the carry out of bit 31, V signed overflow. -/
def addFlags (a b : Word) (cin : Nat) : Word × Flags :=
  let r := wd (a.toNat + b.toNat + cin)
  (r, { n := r.msb, z := decide (r = 0), c := decide (2 ^ 32 ≤ a.toNat + b.toNat + cin),
        v := decide (a.toInt + b.toInt + cin ≠ r.toInt) })

/-- a − b − borrow with N, Z, C and V (R86): C = 1 means that no borrow occurred. -/
def subFlags (a b : Word) (borrow : Nat) : Word × Flags :=
  let r := a - b - wd borrow
  (r, { n := r.msb, z := decide (r = 0), c := decide (b.toNat + borrow ≤ a.toNat),
        v := decide (a.toInt - b.toInt - borrow ≠ r.toInt) })

/-- Shift left (R86): C is the last bit shifted out, unchanged for amount 0. -/
def shlFlags (f : Flags) (a : Word) (k : Nat) : Word × Flags :=
  let r := a <<< k
  (r, { flagsNZ f r with c := if k = 0 then f.c else a.getLsbD (32 - k) })

/-- Logical shift right (R86). -/
def shrFlags (f : Flags) (a : Word) (k : Nat) : Word × Flags :=
  let r := a >>> k
  (r, { flagsNZ f r with c := if k = 0 then f.c else a.getLsbD (k - 1) })

/-- Arithmetic shift right (R86). -/
def sarFlags (f : Flags) (a : Word) (k : Nat) : Word × Flags :=
  let r := a.sshiftRight k
  (r, { flagsNZ f r with c := if k = 0 then f.c else a.getLsbD (k - 1) })

/-- DIVU (R89). -/
def divuFlags (f : Flags) (a b : Word) : Word × Flags :=
  if b = 0 then (0xFFFFFFFF#32, { flagsNZ f 0xFFFFFFFF#32 with v := true })
  else let r := wd (a.toNat / b.toNat); (r, { flagsNZ f r with v := false })

/-- DIVS, truncated toward zero (R89). -/
def divsFlags (f : Flags) (a b : Word) : Word × Flags :=
  let lim := fun r : Word => (r, { flagsNZ f r with v := true })
  if b = 0 then (if a.msb then lim 0x80000000#32 else lim 0x7FFFFFFF#32)
  else if a = 0x80000000#32 ∧ b = 0xFFFFFFFF#32 then lim 0x7FFFFFFF#32
  else let r := BitVec.ofInt 32 (Int.tdiv a.toInt b.toInt); (r, { flagsNZ f r with v := false })

/-- The phase sum (R90). -/
def paddFlags (f : Flags) (a b : Word) : Word × Flags :=
  let s := fld a 0 24 + fld b 0 24
  let r := wd (s % 2 ^ 24)
  (r, { f with c := decide (2 ^ 24 ≤ s), z := decide (r = 0) })

/-- The signed phase difference (R90). -/
def pdifFlags (f : Flags) (a b : Word) : Word × Flags :=
  let r := (fld a 0 24 + 2 ^ 24 - fld b 0 24) % 2 ^ 24
  let x := BitVec.ofInt 32 (toSigned 24 r)
  (x, flagsNZ f x)

/-- A condition of BR or SEL holds (R87). -/
def condHolds (c : BitVec 4) (f : Flags) : Bool :=
  match c.toNat with
  | 0 => true
  | 1 => f.z
  | 2 => !f.z
  | 3 => f.n != f.v
  | 4 => f.n == f.v
  | 5 => f.z || (f.n != f.v)
  | 6 => !f.z && (f.n == f.v)
  | 7 => !f.c
  | 8 => f.c
  | 9 => !f.c || f.z
  | 10 => f.c && !f.z
  | 11 => f.n
  | 12 => !f.n
  | 13 => f.v
  | 14 => !f.v
  | _ => false

/-- The interpolated value of LERP (R108): samples y0 and y1, fraction f of 2^s. -/
def lerpValue (y0 y1 : Word) (f s : Nat) : Word :=
  let p := (y1.toInt - y0.toInt) * f
  BitVec.ofInt 32 (y0.toInt + Int.fdiv (p + 2 ^ (s - 1)) (2 ^ s))

/-- One bit fed to a CRC of 32 bits, most significant first, polynomial 0x04C11DB7 (R112). -/
def crc32Bit (crc : Word) (b : Bool) : Word :=
  if crc.msb != b then (crc <<< 1) ^^^ 0x04C11DB7#32 else crc <<< 1

/-- One 32-bit word fed to W, most significant bit first (R112). -/
def crcWord (crc w : Word) : Word := (upto 0 32).foldl (fun c i => crc32Bit c (w.getLsbD (31 - i))) crc

/-- Sign extension of a 14-bit and of an 18-bit immediate (R85). -/
def sext14 (x : BitVec 14) : Word := x.signExtend 32
def zext14 (x : BitVec 14) : Word := x.zeroExtend 32
def sext18 (x : BitVec 18) : Word := x.signExtend 32

end Sys2Proof.Machine
end

