-- ==== Sys2Proof/Machine/Tbl.lean ====
section
/-!
DEFINITION. A sparse table: a list of (key, value) in rising keys; a key that is not listed has the default that the
reader names. Registers and the per-instance states of a block are held so.
-/

namespace Sys2Proof.Machine

/-- A sparse table with number keys. -/
abbrev Tbl (α : Type) := List (Nat × α)

/-- The value at a key; an unlisted key has the default `d`. -/
def tget {α : Type} (d : α) : Tbl α → Nat → α
  | [], _ => d
  | (k, v) :: t, j => if j = k then v else if j < k then d else tget d t j

/-- The table with the value at a key replaced, keys kept rising. -/
def tset {α : Type} : Tbl α → Nat → α → Tbl α
  | [], j, x => [(j, x)]
  | (k, v) :: t, j, x =>
    if j = k then (k, x) :: t
    else if j < k then (j, x) :: (k, v) :: t
    else (k, v) :: tset t j x

end Sys2Proof.Machine
end

