-- ==== Sys2Proof/Machine/Map.lean ====
section
/-!
DEFINITION. The register map (spec 01_architecture.md R34, R35 and the register tables of the other chapters): the
address of every register, and for every register its reset value and which bits a write may store (RW and WO), clear
(W1C), set (W1S) or start (SC).
-/

namespace Sys2Proof.Machine

namespace Reg

/-! GCTL (R37, R604). -/
def gctlId : Nat := 0x0
def gctlMode : Nat := 0x4
def gctlState : Nat := 0x8
def gctlCtl : Nat := 0xC
def gctlTimeLo : Nat := 0x10
def gctlTimeHi : Nat := 0x14
def gctlLoadall : Nat := 0x18
def gctlRsvCnt : Nat := 0x1C
def gctlHoleCnt : Nat := 0x20
def gctlPinctl : Nat := 0x24
def gctlPinlvl (i : Nat) : Nat := 0x100 + 0x4 * i
def gctlCfg : Nat := 0x400
def gctlSts : Nat := 0x404
def gctlInj : Nat := 0x408
def gctlInjArg : Nat := 0x40C
def gctlChksts : Nat := 0x410
def gctlLsCnt : Nat := 0x414
def gctlChkCnt : Nat := 0x418
def gctlMismCnt : Nat := 0x41C
def gctlEmptyCnt : Nat := 0x420
def gctlSubstCnt : Nat := 0x424
def gctlRbCnt : Nat := 0x428
def gctlPol (i : Nat) : Nat := 0x440 + 0x4 * i

/-! PINOWN (R24). -/
def pinown (i : Nat) : Nat := 0x1000 + 0x4 * i

/-! EVM (R419). -/
def evmCtl : Nat := 0x10000
def evmSts : Nat := 0x10004
def evmPendLo : Nat := 0x10008
def evmPendHi : Nat := 0x1000C
def evmMaskLo : Nat := 0x10010
def evmMaskHi : Nat := 0x10014
def evmMergeCnt : Nat := 0x10018
def evmRedoCnt : Nat := 0x1001C
def evmDiscCnt : Nat := 0x10020

/-! VEC (R420). -/
def vecCtl (n : Nat) : Nat := 0x10100 + 0x10 * n
def vecSts (n : Nat) : Nat := 0x10104 + 0x10 * n
def vecSrc (n : Nat) : Nat := 0x10108 + 0x10 * n
def vecDelivCnt (n : Nat) : Nat := 0x1010C + 0x10 * n

/-! SRCT (R407). -/
def srct (i : Nat) : Nat := 0x14000 + 0x4 * i

/-! CH (R163). -/
def chCtl (n : Nat) : Nat := 0x100000 + 0x100 * n
def chSts (n : Nat) : Nat := 0x100004 + 0x100 * n
def chStage (n : Nat) : Nat := 0x100008 + 0x100 * n
def chCnt (n : Nat) : Nat := 0x10000C + 0x100 * n
def chRld (n : Nat) : Nat := 0x100010 + 0x100 * n
def chCmpa (n : Nat) : Nat := 0x100014 + 0x100 * n
def chCmpb (n : Nat) : Nat := 0x100018 + 0x100 * n
def chFine (n : Nat) : Nat := 0x10001C + 0x100 * n
def chRlds (n : Nat) : Nat := 0x100020 + 0x100 * n
def chCmpas (n : Nat) : Nat := 0x100024 + 0x100 * n
def chCmpbs (n : Nat) : Nat := 0x100028 + 0x100 * n
def chFines (n : Nat) : Nat := 0x10002C + 0x100 * n
def chCap (n : Nat) : Nat := 0x100030 + 0x100 * n
def chCapt (n : Nat) : Nat := 0x100034 + 0x100 * n
def chInsel (n : Nat) : Nat := 0x100038 + 0x100 * n
def chFilt (n : Nat) : Nat := 0x10003C + 0x100 * n
def chEvcfg (n : Nat) : Nat := 0x100040 + 0x100 * n
def chAct0 (n : Nat) : Nat := 0x100044 + 0x100 * n
def chAct1 (n : Nat) : Nat := 0x100048 + 0x100 * n
def chGlitchCnt (n : Nat) : Nat := 0x10004C + 0x100 * n
def chOvrCnt (n : Nat) : Nat := 0x100050 + 0x100 * n

/-! HARN (R170). -/
def harnPresc (n : Nat) : Nat := 0x120000 + 0x100 * n
def harnLoad (n : Nat) : Nat := 0x120004 + 0x100 * n
def harnLoadnow (n : Nat) : Nat := 0x120008 + 0x100 * n
def harnLdsts (n : Nat) : Nat := 0x12000C + 0x100 * n
def harnTrip (n : Nat) (i : Nat) : Nat := 0x120010 + 0x100 * n + 0x4 * i
def harnTripsts (n : Nat) : Nat := 0x120020 + 0x100 * n
def harnSuppCnt (n : Nat) : Nat := 0x120024 + 0x100 * n

/-! REED (R199). -/
def reedCtl (n : Nat) : Nat := 0x128000 + 0x40 * n
def reedDt (n : Nat) : Nat := 0x128004 + 0x40 * n
def reedBlank (n : Nat) : Nat := 0x128008 + 0x40 * n
def reedPina (n : Nat) : Nat := 0x12800C + 0x40 * n
def reedPinb (n : Nat) : Nat := 0x128010 + 0x40 * n
def reedSts (n : Nat) : Nat := 0x128014 + 0x40 * n
def reedLvl (n : Nat) : Nat := 0x128018 + 0x40 * n
def reedCutCnt (n : Nat) : Nat := 0x12801C + 0x40 * n
def reedBlnkCnt (n : Nat) : Nat := 0x128020 + 0x40 * n
def reedSwlCnt (n : Nat) : Nat := 0x128024 + 0x40 * n

/-! TRD (R274). -/
def trdCtl (n : Nat) : Nat := 0x140000 + 0x1000 * n
def trdInpin (n : Nat) : Nat := 0x140004 + 0x1000 * n
def trdWheel (n : Nat) : Nat := 0x140008 + 0x1000 * n
def trdOffset (n : Nat) : Nat := 0x14000C + 0x1000 * n
def trdConfirm (n : Nat) : Nat := 0x140010 + 0x1000 * n
def trdRatioOrd (n : Nat) : Nat := 0x140014 + 0x1000 * n
def trdRatioGap (n : Nat) : Nat := 0x140018 + 0x1000 * n
def trdStall (n : Nat) : Nat := 0x14001C + 0x1000 * n
def trdStallMax (n : Nat) : Nat := 0x140020 + 0x1000 * n
def trdSettle (n : Nat) : Nat := 0x140024 + 0x1000 * n
def trdHyst (n : Nat) : Nat := 0x140028 + 0x1000 * n
def trdCycInit (n : Nat) : Nat := 0x14002C + 0x1000 * n
def trdSec (n : Nat) : Nat := 0x140030 + 0x1000 * n
def trdSecTol (n : Nat) : Nat := 0x140034 + 0x1000 * n
def trdEnc (n : Nat) : Nat := 0x140038 + 0x1000 * n
def trdOrigin (n : Nat) : Nat := 0x14003C + 0x1000 * n
def trdBcn (n : Nat) : Nat := 0x140040 + 0x1000 * n
def trdSecang (n : Nat) (i : Nat) : Nat := 0x140060 + 0x1000 * n + 0x4 * i
def trdSts (n : Nat) : Nat := 0x140100 + 0x1000 * n
def trdPhase (n : Nat) : Nat := 0x140104 + 0x1000 * n
def trdPhaseFr (n : Nat) : Nat := 0x140108 + 0x1000 * n
def trdCycle (n : Nat) : Nat := 0x14010C + 0x1000 * n
def trdRate (n : Nat) : Nat := 0x140110 + 0x1000 * n
def trdTper (n : Nat) : Nat := 0x140114 + 0x1000 * n
def trdTpos (n : Nat) : Nat := 0x140118 + 0x1000 * n
def trdTtimeLo (n : Nat) : Nat := 0x14011C + 0x1000 * n
def trdTtimeHi (n : Nat) : Nat := 0x140120 + 0x1000 * n
def trdLoss (n : Nat) : Nat := 0x140124 + 0x1000 * n
def trdTrCtl (n : Nat) : Nat := 0x140140 + 0x1000 * n
def trdTrBase (n : Nat) : Nat := 0x140144 + 0x1000 * n
def trdTrWr (n : Nat) : Nat := 0x140148 + 0x1000 * n
def trdTrRd (n : Nat) : Nat := 0x14014C + 0x1000 * n
def trdLossCnt (n : Nat) : Nat := 0x140180 + 0x1000 * n
def trdAnomCnt (n : Nat) : Nat := 0x140184 + 0x1000 * n
def trdStallCnt (n : Nat) : Nat := 0x140188 + 0x1000 * n
def trdLimpCnt (n : Nat) : Nat := 0x14018C + 0x1000 * n
def trdJumpCnt (n : Nat) : Nat := 0x140190 + 0x1000 * n
def trdRevCnt (n : Nat) : Nat := 0x140194 + 0x1000 * n
def trdTrLostCnt (n : Nat) : Nat := 0x140198 + 0x1000 * n
def trdPresent (n : Nat) (i : Nat) : Nat := 0x140800 + 0x1000 * n + 0x4 * i

/-! POS (R304). -/
def posCtl (n : Nat) : Nat := 0x150000 + 0x100 * n
def posFilt (n : Nat) : Nat := 0x150004 + 0x100 * n
def posSts (n : Nat) : Nat := 0x150008 + 0x100 * n
def posPosn (n : Nat) : Nat := 0x15000C + 0x100 * n
def posSpeed (n : Nat) : Nat := 0x150010 + 0x100 * n
def posSetpos (n : Nat) : Nat := 0x150014 + 0x100 * n
def posLimLo (n : Nat) : Nat := 0x150018 + 0x100 * n
def posLimHi (n : Nat) : Nat := 0x15001C + 0x100 * n
def posMon (n : Nat) : Nat := 0x150020 + 0x100 * n
def posStillTmo (n : Nat) : Nat := 0x150024 + 0x100 * n
def posIdx (n : Nat) : Nat := 0x150028 + 0x100 * n
def posIdxRev (n : Nat) : Nat := 0x15002C + 0x100 * n
def posIdxVal (n : Nat) : Nat := 0x150030 + 0x100 * n
def posIdxDev (n : Nat) : Nat := 0x150034 + 0x100 * n
def posLatcfg (n : Nat) : Nat := 0x150038 + 0x100 * n
def posLatPos (n : Nat) : Nat := 0x15003C + 0x100 * n
def posLatTLo (n : Nat) : Nat := 0x150040 + 0x100 * n
def posLatTHi (n : Nat) : Nat := 0x150044 + 0x100 * n
def posLatFine (n : Nat) : Nat := 0x150048 + 0x100 * n
def posLatSpd (n : Nat) : Nat := 0x15004C + 0x100 * n
def posLatAge (n : Nat) : Nat := 0x150050 + 0x100 * n
def posSer0 (n : Nat) : Nat := 0x150060 + 0x100 * n
def posSer1 (n : Nat) : Nat := 0x150064 + 0x100 * n
def posCrc (n : Nat) : Nat := 0x150068 + 0x100 * n
def posTrig (n : Nat) : Nat := 0x15006C + 0x100 * n
def posPeriod (n : Nat) : Nat := 0x150070 + 0x100 * n
def posMinIdle (n : Nat) : Nat := 0x150074 + 0x100 * n
def posTmo (n : Nat) : Nat := 0x150078 + 0x100 * n
def posZero (n : Nat) : Nat := 0x15007C + 0x100 * n
def posJumpMax (n : Nat) : Nat := 0x150080 + 0x100 * n
def posLastword (n : Nat) : Nat := 0x150084 + 0x100 * n
def posLatchAdj (n : Nat) : Nat := 0x150088 + 0x100 * n
def posQerrCnt (n : Nat) : Nat := 0x1500C0 + 0x100 * n
def posSerErrCnt (n : Nat) : Nat := 0x1500C4 + 0x100 * n
def posIdxErrCnt (n : Nat) : Nat := 0x1500C8 + 0x100 * n
def posLimCnt (n : Nat) : Nat := 0x1500CC + 0x100 * n
def posGlitchCnt (n : Nat) : Nat := 0x1500D0 + 0x100 * n
def posLatOvrCnt (n : Nat) : Nat := 0x1500D4 + 0x100 * n
def posWordCnt (n : Nat) : Nat := 0x1500D8 + 0x100 * n
def posSkipCnt (n : Nat) : Nat := 0x1500DC + 0x100 * n

/-! HED (R335). -/
def hedCtl (n : Nat) : Nat := 0x160000 + 0x100 * n
def hedSts (n : Nat) : Nat := 0x160004 + 0x100 * n
def hedExec (n : Nat) : Nat := 0x160008 + 0x100 * n
def hedDbg (n : Nat) : Nat := 0x16000C + 0x100 * n
def hedK (n : Nat) : Nat := 0x160010 + 0x100 * n
def hedV (n : Nat) : Nat := 0x160014 + 0x100 * n
def hedTsr (n : Nat) : Nat := 0x160018 + 0x100 * n
def hedRsr (n : Nat) : Nat := 0x16001C + 0x100 * n
def hedShcnt (n : Nat) : Nat := 0x160020 + 0x100 * n
def hedCrcval (n : Nat) : Nat := 0x160024 + 0x100 * n
def hedTxdata (n : Nat) : Nat := 0x160028 + 0x100 * n
def hedRxdata (n : Nat) : Nat := 0x16002C + 0x100 * n
def hedFifo (n : Nat) : Nat := 0x160030 + 0x100 * n
def hedMarks (n : Nat) : Nat := 0x160034 + 0x100 * n
def hedTrig (n : Nat) : Nat := 0x160038 + 0x100 * n
def hedFault (n : Nat) : Nat := 0x16003C + 0x100 * n
def hedShiftDbg (n : Nat) : Nat := 0x160040 + 0x100 * n
def hedShiftTsr (n : Nat) : Nat := 0x160044 + 0x100 * n
def hedShiftRsr (n : Nat) : Nat := 0x160048 + 0x100 * n
def hedShiftK (n : Nat) : Nat := 0x16004C + 0x100 * n
def hedShiftV (n : Nat) : Nat := 0x160050 + 0x100 * n
def hedTxufCnt (n : Nat) : Nat := 0x160054 + 0x100 * n
def hedRxofCnt (n : Nat) : Nat := 0x160058 + 0x100 * n
def hedForcedCnt (n : Nat) : Nat := 0x16005C + 0x100 * n
def hedHdr0 (n : Nat) (i : Nat) : Nat := 0x160060 + 0x100 * n + 0x4 * i
def hedHdr1 (n : Nat) (i : Nat) : Nat := 0x160070 + 0x100 * n + 0x4 * i
def hedProg0 (n : Nat) (i : Nat) : Nat := 0x160080 + 0x100 * n + 0x4 * i
def hedProg1 (n : Nat) (i : Nat) : Nat := 0x1600C0 + 0x100 * n + 0x4 * i

/-! WIN (R361). -/
def winCtl (n : Nat) : Nat := 0x170000 + 0x40 * n
def winSts (n : Nat) : Nat := 0x170004 + 0x40 * n
def winCmpl (n : Nat) : Nat := 0x170008 + 0x40 * n
def winCmph (n : Nat) : Nat := 0x17000C + 0x40 * n
def winThl (n : Nat) : Nat := 0x170010 + 0x40 * n
def winThh (n : Nat) : Nat := 0x170014 + 0x40 * n
def winExitCnt (n : Nat) : Nat := 0x170018 + 0x40 * n

/-! ADC (R363). -/
def adcCtl : Nat := 0x171000
def adcSts : Nat := 0x171004
def adcChk : Nat := 0x171008
def adcChkLast : Nat := 0x17100C
def adcTrg (i : Nat) : Nat := 0x171010 + 0x4 * i
def adcRqBase : Nat := 0x171020
def adcRqSize : Nat := 0x171024
def adcRqWr : Nat := 0x171028
def adcRqRd : Nat := 0x17102C
def adcRqMark : Nat := 0x171030
def adcMergeCnt : Nat := 0x171034
def adcLostCnt : Nat := 0x171038
def adcDacerrCnt : Nat := 0x17103C
def adcConvCnt : Nat := 0x171040
def adcDacerr : Nat := 0x171044
def adcSlot (i : Nat) : Nat := 0x171080 + 0x4 * i

/-! BOB (R397). -/
def bobCtl (n : Nat) : Nat := 0x180000 + 0x40 * n
def bobSts (n : Nat) : Nat := 0x180004 + 0x40 * n
def bobSrcLo (n : Nat) : Nat := 0x180008 + 0x40 * n
def bobSrcHi (n : Nat) : Nat := 0x18000C + 0x40 * n
def bobDstLo (n : Nat) : Nat := 0x180010 + 0x40 * n
def bobDstHi (n : Nat) : Nat := 0x180014 + 0x40 * n
def bobCnt (n : Nat) : Nat := 0x180018 + 0x40 * n
def bobRemain (n : Nat) : Nat := 0x18001C + 0x40 * n
def bobFillv (n : Nat) : Nat := 0x180020 + 0x40 * n
def bobMismOff (n : Nat) : Nat := 0x180024 + 0x40 * n
def bobMismData (n : Nat) : Nat := 0x180028 + 0x40 * n
def bobErr (n : Nat) : Nat := 0x18002C + 0x40 * n
def bobErrAddrLo (n : Nat) : Nat := 0x180030 + 0x40 * n
def bobErrAddrHi (n : Nat) : Nat := 0x180034 + 0x40 * n
def bobXferCnt (n : Nat) : Nat := 0x180038 + 0x40 * n
def bobOtl (n : Nat) : Nat := 0x18003C + 0x40 * n

/-! BOBC (R399). -/
def bobcCtl : Nat := 0x181000
def bobcRun : Nat := 0x181004
def bobcOtTotal : Nat := 0x181008
def bobcErrSum : Nat := 0x18100C
def bobcLinkdropCnt : Nat := 0x181010
def bobcQm (i : Nat) : Nat := 0x181040 + 0x4 * i
def bobcHqCfg (i : Nat) : Nat := 0x1810C0 + 0x8 * i
def bobcHqPtr (i : Nat) : Nat := 0x1810C4 + 0x8 * i

/-! STORE (R394). -/
def storeCtl : Nat := 0x188000
def storeSts : Nat := 0x188004
def storeCeCnt : Nat := 0x188008
def storeUeCnt : Nat := 0x18800C
def storeCeAddr : Nat := 0x188010
def storeUeAddr : Nat := 0x188014
def storeUeSrc : Nat := 0x188018
def storeScrubPass : Nat := 0x18801C
def storeMtCtl : Nat := 0x188020
def storeMtSts : Nat := 0x188024
def storeMtCnt : Nat := 0x188028
def storeSpare (i : Nat) : Nat := 0x188030 + 0x4 * i
def storePhalf : Nat := 0x188040
def storeCbwBase (i : Nat) : Nat := 0x188080 + 0x8 * i
def storeCbwSize (i : Nat) : Nat := 0x188084 + 0x8 * i

/-! SHED (R74). -/
def shedCtl : Nat := 0x190000
def shedPicklen : Nat := 0x190004
def shedPicknoLo : Nat := 0x190008
def shedPicknoHi : Nat := 0x19000C
def shedPickTLo : Nat := 0x190010
def shedPickTHi : Nat := 0x190014
def shedTtsel : Nat := 0x190018
def shedCrsel : Nat := 0x19001C
def shedOvrSum : Nat := 0x190020
def shedExpAbtSum : Nat := 0x190024
def shedDescErr : Nat := 0x190028
def shedMergeCnt : Nat := 0x19002C
def shedExpMergeCnt : Nat := 0x190030
def shedAlignCnt : Nat := 0x190034

/-! ENG (R79). -/
def engEsts (n : Nat) : Nat := 0x190400 + 0x20 * n
def engUsed (n : Nat) : Nat := 0x190404 + 0x20 * n
def engExpResv (n : Nat) : Nat := 0x190408 + 0x20 * n
def engServesLo (n : Nat) : Nat := 0x19040C + 0x20 * n
def engServesHi (n : Nat) : Nat := 0x190410 + 0x20 * n
def engOvrCnt (n : Nat) : Nat := 0x190414 + 0x20 * n
def engSkipCnt (n : Nat) : Nat := 0x190418 + 0x20 * n
def engExpLat (n : Nat) : Nat := 0x19041C + 0x20 * n

/-! SHU (R128). -/
def shuDbg (n : Nat) : Nat := 0x191000 + 0x100 * n
def shuPc (n : Nat) : Nat := 0x191004 + 0x100 * n
def shuFlags (n : Nat) : Nat := 0x191008 + 0x100 * n
def shuCsig (n : Nat) : Nat := 0x19100C + 0x100 * n
def shuWsig (n : Nat) : Nat := 0x191010 + 0x100 * n
def shuWsigLast (n : Nat) : Nat := 0x191014 + 0x100 * n
def shuPwsig (n : Nat) : Nat := 0x191018 + 0x100 * n
def shuSb (n : Nat) : Nat := 0x19101C + 0x100 * n
def shuFsts (n : Nat) : Nat := 0x191020 + 0x100 * n
def shuFpc (n : Nat) : Nat := 0x191024 + 0x100 * n
def shuFaddr (n : Nat) : Nat := 0x191028 + 0x100 * n
def shuReexecCnt (n : Nat) : Nat := 0x19102C + 0x100 * n
def shuEndfailCnt (n : Nat) : Nat := 0x191030 + 0x100 * n
def shuDropCnt (n : Nat) : Nat := 0x191034 + 0x100 * n
def shuCtl (n : Nat) : Nat := 0x191038 + 0x100 * n
def shuG (n : Nat) (i : Nat) : Nat := 0x191040 + 0x100 * n + 0x4 * i
def shuBrk (n : Nat) (i : Nat) : Nat := 0x191080 + 0x100 * n + 0x4 * i

/-! CARD (R238). -/
def cardCtl : Nat := 0x1A0000
def cardSts : Nat := 0x1A0004
def cardUsed : Nat := 0x1A0008
def cardPeak : Nat := 0x1A000C
def cardNear : Nat := 0x1A0010
def cardCrBase : Nat := 0x1A0014
def cardCrSize : Nat := 0x1A0018
def cardCrWr : Nat := 0x1A001C
def cardCrRd : Nat := 0x1A0020
def cardCrMark : Nat := 0x1A0024
def cardSlotsel : Nat := 0x1A0028
def cardSlotsts : Nat := 0x1A002C
def cardLateCnt : Nat := 0x1A0030
def cardPastCnt : Nat := 0x1A0034
def cardLimpSkipCnt : Nat := 0x1A0038
def cardSyncDisarmCnt : Nat := 0x1A003C
def cardSafeEndCnt : Nat := 0x1A0040
def cardRecLostCnt : Nat := 0x1A0044
def cardNearFullCnt : Nat := 0x1A0048
def cardRefuseCnt : Nat := 0x1A004C
def cardErrCnt : Nat := 0x1A0050

/-! SEL (R517). -/
def selCtl : Nat := 0x1B0000
def selSts : Nat := 0x1B0004
def selRper : Nat := 0x1B0008
def selRing : Nat := 0x1B000C
def selOfs : Nat := 0x1B0010
def selDlyDn : Nat := 0x1B0014
def selFwd : Nat := 0x1B0018
def selLevOut : Nat := 0x1B001C
def selLevIn : Nat := 0x1B0020
def selBsrc : Nat := 0x1B0024
def selLco : Nat := 0x1B0028
def selLevsrc (i : Nat) : Nat := 0x1B0040 + 0x4 * i
def selCvCnt : Nat := 0x1B0080
def selCrcCnt : Nat := 0x1B0084
def selPoisonCnt : Nat := 0x1B0088
def selLostCnt : Nat := 0x1B008C
def selProtCnt : Nat := 0x1B0090
def selLinkdnCnt : Nat := 0x1B0094
def selStepCnt : Nat := 0x1B0098
def selLcoAbortCnt : Nat := 0x1B009C

/-! MBX (R545). -/
def mbxDb : Nat := 0x1C0000
def mbxSts : Nat := 0x1C0004
def mbxPendLo : Nat := 0x1C0008
def mbxPendHi : Nat := 0x1C000C
def mbxDoneLo : Nat := 0x1C0010
def mbxDoneHi : Nat := 0x1C0014
def mbxCmdCnt : Nat := 0x1C0018
def mbxRejCnt : Nat := 0x1C001C
def mbxErrCnt : Nat := 0x1C0020
def mbxCtl : Nat := 0x1C0024

/-! CHG (R487). -/
def chgSts : Nat := 0x1C0800
def chgSwCtl : Nat := 0x1C0804
def chgSwA : Nat := 0x1C0808
def chgSwB : Nat := 0x1C080C
def chgSwTLo : Nat := 0x1C0810
def chgSwTHi : Nat := 0x1C0814
def chgNewVer : Nat := 0x1C0818
def chgNewCc : Nat := 0x1C081C
def chgActVer : Nat := 0x1C0820
def chgActCc : Nat := 0x1C0824
def chgLinkv : Nat := 0x1C0828
def chgDrainMax : Nat := 0x1C082C
def chgForcedCnt : Nat := 0x1C0830
def chgChgCnt : Nat := 0x1C0834
def chgAbortCnt : Nat := 0x1C0838
def chgKeysts : Nat := 0x1C083C
def chgCtl : Nat := 0x1C0840

/-! PWR (R448). -/
def pwrCtl : Nat := 0x1C1000
def pwrLatencyNs : Nat := 0x1C1004
def pwrSts : Nat := 0x1C1008
def pwrDwell : Nat := 0x1C100C
def pwrRstcause : Nat := 0x1C1010
def pwrBootsts : Nat := 0x1C1014
def pwrBootT : Nat := 0x1C1018
def pwrClksts : Nat := 0x1C101C
def pwrClkctl : Nat := 0x1C1020
def pwrSupply : Nat := 0x1C1024
def pwrHoldLo : Nat := 0x1C1028
def pwrHoldHi : Nat := 0x1C102C
def pwrDozeRes : Nat := 0x1C1030
def pwrSlumberRes : Nat := 0x1C1034
def pwrBankslpLo : Nat := 0x1C1038
def pwrBankslpHi : Nat := 0x1C103C

/-! HOST (R547). -/
def hostSts : Nat := 0x1C2000
def hostCfg : Nat := 0x1C2004
def hostIds : Nat := 0x1C2008
def hostLockCnt : Nat := 0x1C200C
def hostLockAddr : Nat := 0x1C2010
def hostLinkrstCnt : Nat := 0x1C2014
def hostDropCnt : Nat := 0x1C2018
def hostUrCnt : Nat := 0x1C201C
def hostMalfCnt : Nat := 0x1C2020
def hostSpiCrcCnt : Nat := 0x1C2024
def hostSpiErrCnt : Nat := 0x1C2028
def hostCtl : Nat := 0x1C202C

/-! TACK (R579). -/
def tackCtl : Nat := 0x1C3000
def tackSts : Nat := 0x1C3004
def tackFwver : Nat := 0x1C3008
def tackTempCfg : Nat := 0x1C3010
def tackTempMax : Nat := 0x1C3014
def tackFlash : Nat := 0x1C3018
def tackLogCtl : Nat := 0x1C301C
def tackTemp (i : Nat) : Nat := 0x1C3020 + 0x4 * i
def tackSup (i : Nat) : Nat := 0x1C3040 + 0x4 * i
def tackLogSeq : Nat := 0x1C3058
def tackLogFlseq : Nat := 0x1C305C
def tackRestartCnt : Nat := 0x1C3060
def tackLogLostCnt : Nat := 0x1C3064
def tackFlashErrCnt : Nat := 0x1C3068
def tackChal (i : Nat) : Nat := 0x1C3070 + 0x4 * i
def tackUnlk (i : Nat) : Nat := 0x1C3080 + 0x4 * i
def tackDbgctl : Nat := 0x1C30C0

end Reg

/-- One register of a block, or an array of `count` registers `stride` apart: its offset, its reset value, and the
bits of each access code of R4 that a write acts on. Every other bit is RO, RCLR or reserved. -/
structure RegDesc where
  off    : Nat
  count  : Nat
  stride : Nat
  reset  : Nat
  rw     : Nat
  w1c    : Nat
  sc     : Nat
  deriving DecidableEq, Repr

/-- A block of the map of R35: base, stride, number of instances, and its registers. -/
structure BlockDesc where
  base   : Nat
  stride : Nat
  count  : Nat
  regs   : List RegDesc
  deriving DecidableEq, Repr

/-- The registers of GCTL (R37, R604). -/
def regsGctl : List RegDesc :=
  [⟨0x0, 1, 4, 0x512000A1, 0x0, 0x0, 0x0⟩,  -- ID
   ⟨0x4, 1, 4, 0x0, 0x0, 0x0, 0x0⟩,  -- MODE
   ⟨0x8, 1, 4, 0x0, 0x0, 0x0, 0x0⟩,  -- STATE
   ⟨0xC, 1, 4, 0x3, 0x3, 0x0, 0x100⟩,  -- CTL
   ⟨0x10, 1, 4, 0x0, 0x0, 0x0, 0x0⟩,  -- TIME_LO
   ⟨0x14, 1, 4, 0x0, 0x0, 0x0, 0x0⟩,  -- TIME_HI
   ⟨0x18, 1, 4, 0x0, 0x1, 0x0, 0x0⟩,  -- LOADALL
   ⟨0x1C, 1, 4, 0x0, 0x0, 0x0, 0x0⟩,  -- RSV_CNT
   ⟨0x20, 1, 4, 0x0, 0x0, 0x0, 0x0⟩,  -- HOLE_CNT
   ⟨0x24, 1, 4, 0x0, 0x0, 0x0, 0x1⟩,  -- PINCTL
   ⟨0x100, 16, 4, 0x0, 0x0, 0x0, 0x0⟩,  -- PINLVL
   ⟨0x400, 1, 4, 0x1001, 0x8000FF01, 0x0, 0x0⟩,  -- CFG
   ⟨0x404, 1, 4, 0x0, 0x0, 0x3F, 0x80000000⟩,  -- STS
   ⟨0x408, 1, 4, 0x0, 0xF, 0x0, 0x80000000⟩,  -- INJ
   ⟨0x40C, 1, 4, 0x0, 0xFFFFFFFF, 0x0, 0x0⟩,  -- INJ_ARG
   ⟨0x410, 1, 4, 0x3, 0x0, 0x0, 0x0⟩,  -- CHKSTS
   ⟨0x414, 1, 4, 0x0, 0x0, 0x0, 0x0⟩,  -- LS_CNT
   ⟨0x418, 1, 4, 0x0, 0x0, 0x0, 0x0⟩,  -- CHK_CNT
   ⟨0x41C, 1, 4, 0x0, 0x0, 0x0, 0x0⟩,  -- MISM_CNT
   ⟨0x420, 1, 4, 0x0, 0x0, 0x0, 0x0⟩,  -- EMPTY_CNT
   ⟨0x424, 1, 4, 0x0, 0x0, 0x0, 0x0⟩,  -- SUBST_CNT
   ⟨0x428, 1, 4, 0x0, 0x0, 0x0, 0x0⟩,  -- RB_CNT
   ⟨0x440, 16, 4, 0x0, 0x13, 0x0, 0x0⟩]  -- POL

/-- The registers of PINOWN (R24). -/
def regsPinown : List RegDesc :=
  [⟨0x0, 512, 4, 0x0, 0x73F03, 0x0, 0x0⟩]  -- OWN

/-- The registers of EVM (R419). -/
def regsEvm : List RegDesc :=
  [⟨0x0, 1, 4, 0x0, 0x0, 0x0, 0x100⟩,  -- CTL
   ⟨0x4, 1, 4, 0x0, 0x0, 0x0, 0x0⟩,  -- STS
   ⟨0x8, 1, 4, 0x0, 0x0, 0xFFFFFFFF, 0x0⟩,  -- PEND_LO
   ⟨0xC, 1, 4, 0x0, 0x0, 0xFFFFFFFF, 0x0⟩,  -- PEND_HI
   ⟨0x10, 1, 4, 0x0, 0xFFFFFFFF, 0x0, 0x0⟩,  -- MASK_LO
   ⟨0x14, 1, 4, 0x0, 0xFFFFFFFF, 0x0, 0x0⟩,  -- MASK_HI
   ⟨0x18, 1, 4, 0x0, 0x0, 0x0, 0x0⟩,  -- MERGE_CNT
   ⟨0x1C, 1, 4, 0x0, 0x0, 0x0, 0x0⟩,  -- REDO_CNT
   ⟨0x20, 1, 4, 0x0, 0x0, 0x0, 0x0⟩]  -- DISC_CNT

/-- The registers of VEC (R420). -/
def regsVec : List RegDesc :=
  [⟨0x0, 1, 4, 0x0, 0xFFFFFF37, 0x0, 0x0⟩,  -- CTL
   ⟨0x4, 1, 4, 0x0, 0x0, 0x3, 0x80000000⟩,  -- STS
   ⟨0x8, 1, 4, 0x0, 0x0, 0x0, 0x0⟩,  -- SRC
   ⟨0xC, 1, 4, 0x0, 0x0, 0x0, 0x0⟩]  -- DELIV_CNT

/-- The registers of SRCT (R407). -/
def regsSrct : List RegDesc :=
  [⟨0x0, 4096, 4, 0x0, 0xBF, 0x10000, 0x0⟩]  -- SRCT

/-- The registers of CH (R163). -/
def regsCh : List RegDesc :=
  [⟨0x0, 1, 4, 0x0, 0x1FFF, 0x0, 0x10000⟩,  -- CTL
   ⟨0x4, 1, 4, 0x80000, 0x0, 0xFFE, 0x80000000⟩,  -- STS
   ⟨0x8, 1, 4, 0x0, 0x0, 0x0, 0x0⟩,  -- STAGE
   ⟨0xC, 1, 4, 0x0, 0x0, 0x0, 0x0⟩,  -- CNT
   ⟨0x10, 1, 4, 0xFFFFFFFF, 0xFFFFFFFF, 0x0, 0x0⟩,  -- RLD
   ⟨0x14, 1, 4, 0x0, 0xFFFFFFFF, 0x0, 0x0⟩,  -- CMPA
   ⟨0x18, 1, 4, 0x0, 0xFFFFFFFF, 0x0, 0x0⟩,  -- CMPB
   ⟨0x1C, 1, 4, 0x0, 0x1F1F, 0x0, 0x0⟩,  -- FINE
   ⟨0x20, 1, 4, 0xFFFFFFFF, 0xFFFFFFFF, 0x0, 0x0⟩,  -- RLDS
   ⟨0x24, 1, 4, 0x0, 0xFFFFFFFF, 0x0, 0x0⟩,  -- CMPAS
   ⟨0x28, 1, 4, 0x0, 0xFFFFFFFF, 0x0, 0x0⟩,  -- CMPBS
   ⟨0x2C, 1, 4, 0x0, 0x1F1F, 0x0, 0x0⟩,  -- FINES
   ⟨0x30, 1, 4, 0x0, 0x0, 0x0, 0x0⟩,  -- CAP
   ⟨0x34, 1, 4, 0x0, 0x0, 0x0, 0x0⟩,  -- CAPT
   ⟨0x38, 1, 4, 0x0, 0x3F03, 0x0, 0x0⟩,  -- INSEL
   ⟨0x3C, 1, 4, 0x1, 0x3FF, 0x0, 0x0⟩,  -- FILT
   ⟨0x40, 1, 4, 0x0, 0xFFFF, 0x0, 0x0⟩,  -- EVCFG
   ⟨0x44, 1, 4, 0x0, 0x8FFF8FFF, 0x0, 0x0⟩,  -- ACT0
   ⟨0x48, 1, 4, 0x0, 0x8FFF, 0x0, 0x0⟩,  -- ACT1
   ⟨0x4C, 1, 4, 0x0, 0x0, 0x0, 0x0⟩,  -- GLITCH_CNT
   ⟨0x50, 1, 4, 0x0, 0x0, 0x0, 0x0⟩]  -- OVR_CNT

/-- The registers of HARN (R170). -/
def regsHarn : List RegDesc :=
  [⟨0x0, 1, 4, 0x0, 0xFF, 0x0, 0x0⟩,  -- PRESC
   ⟨0x4, 1, 4, 0x0, 0xFFFFFFFF, 0x0, 0x0⟩,  -- LOAD
   ⟨0x8, 1, 4, 0x0, 0xFFFFFFFF, 0x0, 0x0⟩,  -- LOADNOW
   ⟨0xC, 1, 4, 0x0, 0x0, 0x0, 0x0⟩,  -- LDSTS
   ⟨0x10, 4, 4, 0x0, 0x7FF1FF7, 0x0, 0x0⟩,  -- TRIP
   ⟨0x20, 1, 4, 0x0, 0x0, 0xF, 0x80000000⟩,  -- TRIPSTS
   ⟨0x24, 1, 4, 0x0, 0x0, 0x0, 0x0⟩]  -- SUPP_CNT

/-- The registers of REED (R199). -/
def regsReed : List RegDesc :=
  [⟨0x0, 1, 4, 0x0, 0x1, 0x0, 0x100⟩,  -- CTL
   ⟨0x4, 1, 4, 0x0, 0x3FF03FF, 0x0, 0x0⟩,  -- DT
   ⟨0x8, 1, 4, 0x0, 0x3FF, 0x0, 0x0⟩,  -- BLANK
   ⟨0xC, 1, 4, 0x2, 0x37, 0x0, 0x0⟩,  -- PINA
   ⟨0x10, 1, 4, 0x2, 0x37, 0x0, 0x0⟩,  -- PINB
   ⟨0x14, 1, 4, 0x0, 0x0, 0x7F, 0x0⟩,  -- STS
   ⟨0x18, 1, 4, 0x0, 0x0, 0x0, 0x0⟩,  -- LVL
   ⟨0x1C, 1, 4, 0x0, 0x0, 0x0, 0x0⟩,  -- CUT_CNT
   ⟨0x20, 1, 4, 0x0, 0x0, 0x0, 0x0⟩,  -- BLNK_CNT
   ⟨0x24, 1, 4, 0x0, 0x0, 0x0, 0x0⟩]  -- SWL_CNT

/-- The registers of TRD (R274). -/
def regsTrd : List RegDesc :=
  [⟨0x0, 1, 4, 0x0, 0x1FFF, 0x0, 0x0⟩,  -- CTL
   ⟨0x4, 1, 4, 0x0, 0x3FF03FF, 0x0, 0x0⟩,  -- INPIN
   ⟨0x8, 1, 4, 0x0, 0x107FF, 0x0, 0x0⟩,  -- WHEEL
   ⟨0xC, 1, 4, 0x0, 0xFFFFFF, 0x0, 0x0⟩,  -- OFFSET
   ⟨0x10, 1, 4, 0x8, 0x3FF, 0x0, 0x0⟩,  -- CONFIRM
   ⟨0x14, 1, 4, 0x23330733, 0xFFFFFFFF, 0x0, 0x0⟩,  -- RATIO_ORD
   ⟨0x18, 1, 4, 0x16660B33, 0xFFFFFFFF, 0x0, 0x0⟩,  -- RATIO_GAP
   ⟨0x1C, 1, 4, 0x4, 0xF, 0x0, 0x0⟩,  -- STALL
   ⟨0x20, 1, 4, 0x2625A00, 0xFFFFFFFF, 0x0, 0x0⟩,  -- STALL_MAX
   ⟨0x24, 1, 4, 0x0, 0xFFF, 0x0, 0x0⟩,  -- SETTLE
   ⟨0x28, 1, 4, 0x100, 0xFFFFFF, 0x0, 0x0⟩,  -- HYST
   ⟨0x2C, 1, 4, 0x0, 0xFFFFFFFF, 0x0, 0x0⟩,  -- CYC_INIT
   ⟨0x30, 1, 4, 0x0, 0xF, 0x0, 0x0⟩,  -- SEC
   ⟨0x34, 1, 4, 0x8000, 0xFFFFFF, 0x0, 0x0⟩,  -- SEC_TOL
   ⟨0x38, 1, 4, 0x0, 0x1FFFFFF, 0x0, 0x0⟩,  -- ENC
   ⟨0x3C, 1, 4, 0x0, 0xFFFFFFFF, 0x0, 0x0⟩,  -- ORIGIN
   ⟨0x40, 1, 4, 0x300, 0xF03, 0x0, 0x0⟩,  -- BCN
   ⟨0x60, 8, 4, 0x0, 0xFFFFFF, 0x0, 0x0⟩,  -- SECANG
   ⟨0x100, 1, 4, 0x0, 0x0, 0x7F0000, 0x80000000⟩,  -- STS
   ⟨0x104, 1, 4, 0x0, 0x0, 0x0, 0x0⟩,  -- PHASE
   ⟨0x108, 1, 4, 0x0, 0x0, 0x0, 0x0⟩,  -- PHASE_FR
   ⟨0x10C, 1, 4, 0x0, 0x0, 0x0, 0x0⟩,  -- CYCLE
   ⟨0x110, 1, 4, 0x0, 0x0, 0x0, 0x0⟩,  -- RATE
   ⟨0x114, 1, 4, 0x0, 0x0, 0x0, 0x0⟩,  -- TPER
   ⟨0x118, 1, 4, 0x0, 0x0, 0x0, 0x0⟩,  -- TPOS
   ⟨0x11C, 1, 4, 0x0, 0x0, 0x0, 0x0⟩,  -- TTIME_LO
   ⟨0x120, 1, 4, 0x0, 0x0, 0x0, 0x0⟩,  -- TTIME_HI
   ⟨0x124, 1, 4, 0x0, 0x0, 0x0, 0x0⟩,  -- LOSS
   ⟨0x140, 1, 4, 0x0, 0x3FF0007, 0x0, 0x0⟩,  -- TR_CTL
   ⟨0x144, 1, 4, 0x1A00000, 0xFFFFFFFF, 0x0, 0x0⟩,  -- TR_BASE
   ⟨0x148, 1, 4, 0x0, 0x0, 0x0, 0x0⟩,  -- TR_WR
   ⟨0x14C, 1, 4, 0x0, 0x3FF, 0x0, 0x0⟩,  -- TR_RD
   ⟨0x180, 1, 4, 0x0, 0x0, 0x0, 0x0⟩,  -- LOSS_CNT
   ⟨0x184, 1, 4, 0x0, 0x0, 0x0, 0x0⟩,  -- ANOM_CNT
   ⟨0x188, 1, 4, 0x0, 0x0, 0x0, 0x0⟩,  -- STALL_CNT
   ⟨0x18C, 1, 4, 0x0, 0x0, 0x0, 0x0⟩,  -- LIMP_CNT
   ⟨0x190, 1, 4, 0x0, 0x0, 0x0, 0x0⟩,  -- JUMP_CNT
   ⟨0x194, 1, 4, 0x0, 0x0, 0x0, 0x0⟩,  -- REV_CNT
   ⟨0x198, 1, 4, 0x0, 0x0, 0x0, 0x0⟩,  -- TR_LOST_CNT
   ⟨0x800, 32, 4, 0xFFFFFFFF, 0xFFFFFFFF, 0x0, 0x0⟩]  -- PRESENT

/-- The registers of POS (R304). -/
def regsPos : List RegDesc :=
  [⟨0x0, 1, 4, 0x0, 0x1F, 0x0, 0x700⟩,  -- CTL
   ⟨0x4, 1, 4, 0x1, 0x33F, 0x0, 0x0⟩,  -- FILT
   ⟨0x8, 1, 4, 0x0, 0x0, 0x1FE, 0x80000000⟩,  -- STS
   ⟨0xC, 1, 4, 0x0, 0x0, 0x0, 0x0⟩,  -- POSN
   ⟨0x10, 1, 4, 0x0, 0x0, 0x0, 0x0⟩,  -- SPEED
   ⟨0x14, 1, 4, 0x0, 0xFFFFFFFF, 0x0, 0x0⟩,  -- SETPOS
   ⟨0x18, 1, 4, 0x80000000, 0xFFFFFFFF, 0x0, 0x0⟩,  -- LIM_LO
   ⟨0x1C, 1, 4, 0x7FFFFFFF, 0xFFFFFFFF, 0x0, 0x0⟩,  -- LIM_HI
   ⟨0x20, 1, 4, 0x2310, 0x7FF1, 0x0, 0x0⟩,  -- MON
   ⟨0x24, 1, 4, 0x2625A00, 0xFFFFFFFF, 0x0, 0x0⟩,  -- STILL_TMO
   ⟨0x28, 1, 4, 0x0, 0x77, 0x0, 0x0⟩,  -- IDX
   ⟨0x2C, 1, 4, 0x0, 0xFFFFFFFF, 0x0, 0x0⟩,  -- IDX_REV
   ⟨0x30, 1, 4, 0x0, 0xFFFFFFFF, 0x0, 0x0⟩,  -- IDX_VAL
   ⟨0x34, 1, 4, 0x0, 0x0, 0x0, 0x0⟩,  -- IDX_DEV
   ⟨0x38, 1, 4, 0x0, 0xFFF1FF7, 0x0, 0x0⟩,  -- LATCFG
   ⟨0x3C, 1, 4, 0x0, 0x0, 0x0, 0x0⟩,  -- LAT_POS
   ⟨0x40, 1, 4, 0x0, 0x0, 0x0, 0x0⟩,  -- LAT_T_LO
   ⟨0x44, 1, 4, 0x0, 0x0, 0x0, 0x0⟩,  -- LAT_T_HI
   ⟨0x48, 1, 4, 0x0, 0x0, 0x0, 0x0⟩,  -- LAT_FINE
   ⟨0x4C, 1, 4, 0x0, 0x0, 0x0, 0x0⟩,  -- LAT_SPD
   ⟨0x50, 1, 4, 0x0, 0x0, 0x0, 0x0⟩,  -- LAT_AGE
   ⟨0x60, 1, 4, 0x8, 0x1FFF0FFF, 0x0, 0x0⟩,  -- SER0
   ⟨0x64, 1, 4, 0x0, 0xFFFF7F07, 0x0, 0x0⟩,  -- SER1
   ⟨0x68, 1, 4, 0x0, 0xFFFFFFFF, 0x0, 0x0⟩,  -- CRC
   ⟨0x6C, 1, 4, 0x0, 0x3FFF, 0x0, 0x0⟩,  -- TRIG
   ⟨0x70, 1, 4, 0x0, 0xFFFFFFFF, 0x0, 0x0⟩,  -- PERIOD
   ⟨0x74, 1, 4, 0x0, 0xFFFF, 0x0, 0x0⟩,  -- MIN_IDLE
   ⟨0x78, 1, 4, 0xFFFF, 0xFFFF, 0x0, 0x0⟩,  -- TMO
   ⟨0x7C, 1, 4, 0x0, 0xFFFFFFFF, 0x0, 0x0⟩,  -- ZERO
   ⟨0x80, 1, 4, 0x0, 0xFFFFFFFF, 0x0, 0x0⟩,  -- JUMP_MAX
   ⟨0x84, 1, 4, 0x0, 0x0, 0x0, 0x0⟩,  -- LASTWORD
   ⟨0x88, 1, 4, 0x0, 0xFFFFFFFF, 0x0, 0x0⟩,  -- LATCH_ADJ
   ⟨0xC0, 1, 4, 0x0, 0x0, 0x0, 0x0⟩,  -- QERR_CNT
   ⟨0xC4, 1, 4, 0x0, 0x0, 0x0, 0x0⟩,  -- SER_ERR_CNT
   ⟨0xC8, 1, 4, 0x0, 0x0, 0x0, 0x0⟩,  -- IDX_ERR_CNT
   ⟨0xCC, 1, 4, 0x0, 0x0, 0x0, 0x0⟩,  -- LIM_CNT
   ⟨0xD0, 1, 4, 0x0, 0x0, 0x0, 0x0⟩,  -- GLITCH_CNT
   ⟨0xD4, 1, 4, 0x0, 0x0, 0x0, 0x0⟩,  -- LAT_OVR_CNT
   ⟨0xD8, 1, 4, 0x0, 0x0, 0x0, 0x0⟩,  -- WORD_CNT
   ⟨0xDC, 1, 4, 0x0, 0x0, 0x0, 0x0⟩]  -- SKIP_CNT

/-- The registers of HED (R335). -/
def regsHed : List RegDesc :=
  [⟨0x0, 1, 4, 0x0, 0x1, 0x0, 0x2⟩,  -- CTL
   ⟨0x4, 1, 4, 0x0, 0x0, 0xF, 0x80000000⟩,  -- STS
   ⟨0x8, 1, 4, 0x0, 0x1F, 0x0, 0x0⟩,  -- EXEC
   ⟨0xC, 1, 4, 0x0, 0x1, 0x0, 0x2⟩,  -- DBG
   ⟨0x10, 1, 4, 0x0, 0xFFFFFFFF, 0x0, 0x0⟩,  -- K
   ⟨0x14, 1, 4, 0x0, 0xFFFFFFFF, 0x0, 0x0⟩,  -- V
   ⟨0x18, 1, 4, 0x0, 0x0, 0x0, 0x0⟩,  -- TSR
   ⟨0x1C, 1, 4, 0x0, 0x0, 0x0, 0x0⟩,  -- RSR
   ⟨0x20, 1, 4, 0x0, 0x0, 0x0, 0x0⟩,  -- SHCNT
   ⟨0x24, 1, 4, 0x0, 0x0, 0x0, 0x0⟩,  -- CRCVAL
   ⟨0x28, 1, 4, 0x0, 0xFFFFFFFF, 0x0, 0x0⟩,  -- TXDATA
   ⟨0x2C, 1, 4, 0x0, 0x0, 0x0, 0x0⟩,  -- RXDATA
   ⟨0x30, 1, 4, 0x0, 0x0, 0x0, 0x0⟩,  -- FIFO
   ⟨0x34, 1, 4, 0x0, 0xF0F, 0x0, 0x0⟩,  -- MARKS
   ⟨0x38, 1, 4, 0x0, 0x8FFF, 0x0, 0x0⟩,  -- TRIG
   ⟨0x3C, 1, 4, 0x0, 0x0, 0x0, 0x0⟩,  -- FAULT
   ⟨0x40, 1, 4, 0x0, 0x0, 0x0, 0x0⟩,  -- SHIFT_DBG
   ⟨0x44, 1, 4, 0x0, 0x0, 0x0, 0x0⟩,  -- SHIFT_TSR
   ⟨0x48, 1, 4, 0x0, 0x0, 0x0, 0x0⟩,  -- SHIFT_RSR
   ⟨0x4C, 1, 4, 0x0, 0x0, 0x0, 0x0⟩,  -- SHIFT_K
   ⟨0x50, 1, 4, 0x0, 0x0, 0x0, 0x0⟩,  -- SHIFT_V
   ⟨0x54, 1, 4, 0x0, 0x0, 0x0, 0x0⟩,  -- TXUF_CNT
   ⟨0x58, 1, 4, 0x0, 0x0, 0x0, 0x0⟩,  -- RXOF_CNT
   ⟨0x5C, 1, 4, 0x0, 0x0, 0x0, 0x0⟩,  -- FORCED_CNT
   ⟨0x60, 4, 4, 0x0, 0x0, 0x0, 0x0⟩,  -- HDR0
   ⟨0x70, 4, 4, 0x0, 0x0, 0x0, 0x0⟩,  -- HDR1
   ⟨0x80, 16, 4, 0x0, 0x0, 0x0, 0x0⟩,  -- PROG0
   ⟨0xC0, 16, 4, 0x0, 0x0, 0x0, 0x0⟩]  -- PROG1

/-- The registers of WIN (R361). -/
def regsWin : List RegDesc :=
  [⟨0x0, 1, 4, 0x0, 0x1, 0x0, 0x0⟩,  -- CTL
   ⟨0x4, 1, 4, 0x0, 0x0, 0x700, 0x80000000⟩,  -- STS
   ⟨0x8, 1, 4, 0x0, 0x3FFF, 0x0, 0x0⟩,  -- CMPL
   ⟨0xC, 1, 4, 0x0, 0x3FFF, 0x0, 0x0⟩,  -- CMPH
   ⟨0x10, 1, 4, 0x0, 0x3FF, 0x0, 0x0⟩,  -- THL
   ⟨0x14, 1, 4, 0x0, 0x3FF, 0x0, 0x0⟩,  -- THH
   ⟨0x18, 1, 4, 0x0, 0x0, 0x0, 0x0⟩]  -- EXIT_CNT

/-- The registers of ADC (R363). -/
def regsAdc : List RegDesc :=
  [⟨0x0, 1, 4, 0x0, 0x3, 0x0, 0x100⟩,  -- CTL
   ⟨0x4, 1, 4, 0x0, 0x0, 0x700, 0x0⟩,  -- STS
   ⟨0x8, 1, 4, 0x300028, 0xFFFFFF, 0x0, 0x0⟩,  -- CHK
   ⟨0xC, 1, 4, 0x0, 0x0, 0x0, 0x0⟩,  -- CHK_LAST
   ⟨0x10, 4, 4, 0x0, 0x1F1F8FFF, 0x0, 0x0⟩,  -- TRG
   ⟨0x20, 1, 4, 0x1A10000, 0xFFFFFFFF, 0x0, 0x0⟩,  -- RQ_BASE
   ⟨0x24, 1, 4, 0x400, 0xFFFFFFFF, 0x0, 0x0⟩,  -- RQ_SIZE
   ⟨0x28, 1, 4, 0x0, 0x0, 0x0, 0x0⟩,  -- RQ_WR
   ⟨0x2C, 1, 4, 0x0, 0xFFFF, 0x0, 0x0⟩,  -- RQ_RD
   ⟨0x30, 1, 4, 0x100, 0xFFFF, 0x0, 0x0⟩,  -- RQ_MARK
   ⟨0x34, 1, 4, 0x0, 0x0, 0x0, 0x0⟩,  -- MERGE_CNT
   ⟨0x38, 1, 4, 0x0, 0x0, 0x0, 0x0⟩,  -- LOST_CNT
   ⟨0x3C, 1, 4, 0x0, 0x0, 0x0, 0x0⟩,  -- DACERR_CNT
   ⟨0x40, 1, 4, 0x0, 0x0, 0x0, 0x0⟩,  -- CONV_CNT
   ⟨0x44, 1, 4, 0x0, 0x0, 0x0, 0x0⟩,  -- DACERR
   ⟨0x80, 32, 4, 0x0, 0xFF, 0x0, 0x0⟩]  -- SLOT

/-- The registers of BOB (R397). -/
def regsBob : List RegDesc :=
  [⟨0x0, 1, 4, 0xFF00000, 0x3FFFFFFC, 0x0, 0x3⟩,  -- CTL
   ⟨0x4, 1, 4, 0x0, 0x0, 0xF, 0x80000000⟩,  -- STS
   ⟨0x8, 1, 4, 0x0, 0xFFFFFFFF, 0x0, 0x0⟩,  -- SRC_LO
   ⟨0xC, 1, 4, 0x0, 0xFFFFFFFF, 0x0, 0x0⟩,  -- SRC_HI
   ⟨0x10, 1, 4, 0x0, 0xFFFFFFFF, 0x0, 0x0⟩,  -- DST_LO
   ⟨0x14, 1, 4, 0x0, 0xFFFFFFFF, 0x0, 0x0⟩,  -- DST_HI
   ⟨0x18, 1, 4, 0x0, 0xFFFFFFFF, 0x0, 0x0⟩,  -- CNT
   ⟨0x1C, 1, 4, 0x0, 0x0, 0x0, 0x0⟩,  -- REMAIN
   ⟨0x20, 1, 4, 0x0, 0xFFFFFFFF, 0x0, 0x0⟩,  -- FILLV
   ⟨0x24, 1, 4, 0x0, 0x0, 0x0, 0x0⟩,  -- MISM_OFF
   ⟨0x28, 1, 4, 0x0, 0x0, 0x0, 0x0⟩,  -- MISM_DATA
   ⟨0x2C, 1, 4, 0x0, 0x0, 0x0, 0x0⟩,  -- ERR
   ⟨0x30, 1, 4, 0x0, 0x0, 0x0, 0x0⟩,  -- ERR_ADDR_LO
   ⟨0x34, 1, 4, 0x0, 0x0, 0x0, 0x0⟩,  -- ERR_ADDR_HI
   ⟨0x38, 1, 4, 0x0, 0x0, 0x0, 0x0⟩,  -- XFER_CNT
   ⟨0x3C, 1, 4, 0x8, 0xF, 0x0, 0x0⟩]  -- OTL

/-- The registers of BOBC (R399). -/
def regsBobc : List RegDesc :=
  [⟨0x0, 1, 4, 0x0, 0x0, 0x0, 0x100⟩,  -- CTL
   ⟨0x4, 1, 4, 0x0, 0x0, 0x0, 0x0⟩,  -- RUN
   ⟨0x8, 1, 4, 0x40, 0x7F, 0x0, 0x0⟩,  -- OT_TOTAL
   ⟨0xC, 1, 4, 0x0, 0x0, 0xFFFFFFFF, 0x0⟩,  -- ERR_SUM
   ⟨0x10, 1, 4, 0x0, 0x0, 0x0, 0x0⟩,  -- LINKDROP_CNT
   ⟨0x40, 32, 4, 0x1, 0xFFFFFFFF, 0x0, 0x0⟩,  -- QM
   ⟨0xC0, 8, 8, 0x0, 0x9FFFFFFF, 0x0, 0x0⟩,  -- HQ_CFG
   ⟨0xC4, 8, 8, 0x0, 0xFFFFFFFF, 0x0, 0x0⟩]  -- HQ_PTR

/-- The registers of STORE (R394). -/
def regsStore : List RegDesc :=
  [⟨0x0, 1, 4, 0x1, 0x1, 0x0, 0x100⟩,  -- CTL
   ⟨0x4, 1, 4, 0x0, 0x0, 0xB, 0x0⟩,  -- STS
   ⟨0x8, 1, 4, 0x0, 0x0, 0x0, 0x0⟩,  -- CE_CNT
   ⟨0xC, 1, 4, 0x0, 0x0, 0x0, 0x0⟩,  -- UE_CNT
   ⟨0x10, 1, 4, 0x0, 0x0, 0x0, 0x0⟩,  -- CE_ADDR
   ⟨0x14, 1, 4, 0x0, 0x0, 0x0, 0x0⟩,  -- UE_ADDR
   ⟨0x18, 1, 4, 0x0, 0x0, 0x0, 0x0⟩,  -- UE_SRC
   ⟨0x1C, 1, 4, 0x0, 0x0, 0x0, 0x0⟩,  -- SCRUB_PASS
   ⟨0x20, 1, 4, 0x0, 0x33F, 0x0, 0x10000⟩,  -- MT_CTL
   ⟨0x24, 1, 4, 0x0, 0x0, 0x0, 0x0⟩,  -- MT_STS
   ⟨0x28, 1, 4, 0x0, 0x0, 0x0, 0x0⟩,  -- MT_CNT
   ⟨0x30, 4, 4, 0x0, 0x0, 0x0, 0x0⟩,  -- SPARE
   ⟨0x40, 1, 4, 0x0, 0x0, 0x0, 0x0⟩,  -- PHALF
   ⟨0x80, 16, 8, 0x0, 0xFFFFFFFF, 0x0, 0x0⟩,  -- CBW_BASE
   ⟨0x84, 16, 8, 0x0, 0xFFFFF8, 0x0, 0x0⟩]  -- CBW_SIZE

/-- The registers of SHED (R74). -/
def regsShed : List RegDesc :=
  [⟨0x0, 1, 4, 0x1, 0x1, 0x0, 0x100⟩,  -- CTL
   ⟨0x4, 1, 4, 0x190, 0x1FFF1FFF, 0x0, 0x0⟩,  -- PICKLEN
   ⟨0x8, 1, 4, 0x0, 0x0, 0x0, 0x0⟩,  -- PICKNO_LO
   ⟨0xC, 1, 4, 0x0, 0x0, 0x0, 0x0⟩,  -- PICKNO_HI
   ⟨0x10, 1, 4, 0x0, 0x0, 0x0, 0x0⟩,  -- PICK_T_LO
   ⟨0x14, 1, 4, 0x0, 0x0, 0x0, 0x0⟩,  -- PICK_T_HI
   ⟨0x18, 1, 4, 0x0, 0x13, 0x0, 0x0⟩,  -- TTSEL
   ⟨0x1C, 1, 4, 0x0, 0x13F, 0x0, 0x0⟩,  -- CRSEL
   ⟨0x20, 1, 4, 0x0, 0x0, 0xFFFFFFFF, 0x0⟩,  -- OVR_SUM
   ⟨0x24, 1, 4, 0x0, 0x0, 0xFFFFFFFF, 0x0⟩,  -- EXP_ABT_SUM
   ⟨0x28, 1, 4, 0x0, 0x0, 0x0, 0x0⟩,  -- DESC_ERR
   ⟨0x2C, 1, 4, 0x0, 0x0, 0x0, 0x0⟩,  -- MERGE_CNT
   ⟨0x30, 1, 4, 0x0, 0x0, 0x0, 0x0⟩,  -- EXP_MERGE_CNT
   ⟨0x34, 1, 4, 0x0, 0x0, 0x0, 0x0⟩]  -- ALIGN_CNT

/-- The registers of ENG (R79). -/
def regsEng : List RegDesc :=
  [⟨0x0, 1, 4, 0x0, 0x0, 0x300, 0x0⟩,  -- ESTS
   ⟨0x4, 1, 4, 0x0, 0x0, 0x0, 0x0⟩,  -- USED
   ⟨0x8, 1, 4, 0x0, 0x1FFF, 0x0, 0x0⟩,  -- EXP_RESV
   ⟨0xC, 1, 4, 0x0, 0xFFFFFFFF, 0x0, 0x0⟩,  -- SERVES_LO
   ⟨0x10, 1, 4, 0x0, 0xFFFFFFFF, 0x0, 0x0⟩,  -- SERVES_HI
   ⟨0x14, 1, 4, 0x0, 0x0, 0x0, 0x0⟩,  -- OVR_CNT
   ⟨0x18, 1, 4, 0x0, 0x0, 0x0, 0x0⟩,  -- SKIP_CNT
   ⟨0x1C, 1, 4, 0x0, 0x0, 0x0, 0x0⟩]  -- EXP_LAT

/-- The registers of SHU (R128). -/
def regsShu : List RegDesc :=
  [⟨0x0, 1, 4, 0x0, 0x5, 0x1000, 0x2⟩,  -- DBG
   ⟨0x4, 1, 4, 0x0, 0x7FF, 0x0, 0x0⟩,  -- PC
   ⟨0x8, 1, 4, 0x0, 0xF, 0x0, 0x0⟩,  -- FLAGS
   ⟨0xC, 1, 4, 0x0, 0x0, 0x0, 0x0⟩,  -- CSIG
   ⟨0x10, 1, 4, 0xFFFFFFFF, 0x0, 0x0, 0x0⟩,  -- WSIG
   ⟨0x14, 1, 4, 0x0, 0x0, 0x0, 0x0⟩,  -- WSIG_LAST
   ⟨0x18, 1, 4, 0x0, 0x0, 0x0, 0x0⟩,  -- PWSIG
   ⟨0x1C, 1, 4, 0x0, 0x0, 0x0, 0x0⟩,  -- SB
   ⟨0x20, 1, 4, 0x0, 0x0, 0xFF, 0x0⟩,  -- FSTS
   ⟨0x24, 1, 4, 0x0, 0x0, 0x0, 0x0⟩,  -- FPC
   ⟨0x28, 1, 4, 0x0, 0x0, 0x0, 0x0⟩,  -- FADDR
   ⟨0x2C, 1, 4, 0x0, 0x0, 0x0, 0x0⟩,  -- REEXEC_CNT
   ⟨0x30, 1, 4, 0x0, 0x0, 0x0, 0x0⟩,  -- ENDFAIL_CNT
   ⟨0x34, 1, 4, 0x0, 0x0, 0x0, 0x0⟩,  -- DROP_CNT
   ⟨0x38, 1, 4, 0x0, 0x0, 0x0, 0x100⟩,  -- CTL
   ⟨0x40, 16, 4, 0x0, 0xFFFFFFFF, 0x0, 0x0⟩,  -- G
   ⟨0x80, 4, 4, 0x0, 0x800107FF, 0x0, 0x0⟩]  -- BRK

/-- The registers of CARD (R238). -/
def regsCard : List RegDesc :=
  [⟨0x0, 1, 4, 0x1, 0x1, 0x0, 0x100⟩,  -- CTL
   ⟨0x4, 1, 4, 0x0, 0x0, 0xF00, 0x0⟩,  -- STS
   ⟨0x8, 1, 4, 0x0, 0x0, 0x0, 0x0⟩,  -- USED
   ⟨0xC, 1, 4, 0x0, 0x0, 0x0, 0x0⟩,  -- PEAK
   ⟨0x10, 1, 4, 0x0, 0x0, 0x0, 0x0⟩,  -- NEAR
   ⟨0x14, 1, 4, 0x1A00000, 0xFFFFFFFF, 0x0, 0x0⟩,  -- CR_BASE
   ⟨0x18, 1, 4, 0x400, 0xFFFFFFFF, 0x0, 0x0⟩,  -- CR_SIZE
   ⟨0x1C, 1, 4, 0x0, 0x0, 0x0, 0x0⟩,  -- CR_WR
   ⟨0x20, 1, 4, 0x0, 0xFFFF, 0x0, 0x0⟩,  -- CR_RD
   ⟨0x24, 1, 4, 0x100, 0xFFFF, 0x0, 0x0⟩,  -- CR_MARK
   ⟨0x28, 1, 4, 0x0, 0x1FFFF, 0x0, 0x0⟩,  -- SLOTSEL
   ⟨0x2C, 1, 4, 0x0, 0x0, 0x0, 0x0⟩,  -- SLOTSTS
   ⟨0x30, 1, 4, 0x0, 0x0, 0x0, 0x0⟩,  -- LATE_CNT
   ⟨0x34, 1, 4, 0x0, 0x0, 0x0, 0x0⟩,  -- PAST_CNT
   ⟨0x38, 1, 4, 0x0, 0x0, 0x0, 0x0⟩,  -- LIMP_SKIP_CNT
   ⟨0x3C, 1, 4, 0x0, 0x0, 0x0, 0x0⟩,  -- SYNC_DISARM_CNT
   ⟨0x40, 1, 4, 0x0, 0x0, 0x0, 0x0⟩,  -- SAFE_END_CNT
   ⟨0x44, 1, 4, 0x0, 0x0, 0x0, 0x0⟩,  -- REC_LOST_CNT
   ⟨0x48, 1, 4, 0x0, 0x0, 0x0, 0x0⟩,  -- NEAR_FULL_CNT
   ⟨0x4C, 1, 4, 0x0, 0x0, 0x0, 0x0⟩,  -- REFUSE_CNT
   ⟨0x50, 1, 4, 0x0, 0x0, 0x0, 0x0⟩]  -- ERR_CNT

/-- The registers of SEL (R517). -/
def regsSel : List RegDesc :=
  [⟨0x0, 1, 4, 0x200000, 0xF33F03, 0x0, 0x80000000⟩,  -- CTL
   ⟨0x4, 1, 4, 0x0, 0x0, 0x7000000, 0x0⟩,  -- STS
   ⟨0x8, 1, 4, 0x190, 0x1FFF, 0x0, 0x0⟩,  -- RPER
   ⟨0xC, 1, 4, 0x0, 0x0, 0x0, 0x0⟩,  -- RING
   ⟨0x10, 1, 4, 0x0, 0x0, 0x0, 0x0⟩,  -- OFS
   ⟨0x14, 1, 4, 0x0, 0x0, 0x0, 0x0⟩,  -- DLY_DN
   ⟨0x18, 1, 4, 0x0, 0x0, 0x0, 0x0⟩,  -- FWD
   ⟨0x1C, 1, 4, 0x0, 0xFF, 0x0, 0x0⟩,  -- LEV_OUT
   ⟨0x20, 1, 4, 0x0, 0x0, 0x0, 0x0⟩,  -- LEV_IN
   ⟨0x24, 1, 4, 0x0, 0xBBBB, 0x0, 0x0⟩,  -- BSRC
   ⟨0x28, 1, 4, 0x0, 0x0, 0x0, 0x0⟩,  -- LCO
   ⟨0x40, 8, 4, 0x0, 0x8FFF, 0x0, 0x0⟩,  -- LEVSRC
   ⟨0x80, 1, 4, 0x0, 0x0, 0x0, 0x0⟩,  -- CV_CNT
   ⟨0x84, 1, 4, 0x0, 0x0, 0x0, 0x0⟩,  -- CRC_CNT
   ⟨0x88, 1, 4, 0x0, 0x0, 0x0, 0x0⟩,  -- POISON_CNT
   ⟨0x8C, 1, 4, 0x0, 0x0, 0x0, 0x0⟩,  -- LOST_CNT
   ⟨0x90, 1, 4, 0x0, 0x0, 0x0, 0x0⟩,  -- PROT_CNT
   ⟨0x94, 1, 4, 0x0, 0x0, 0x0, 0x0⟩,  -- LINKDN_CNT
   ⟨0x98, 1, 4, 0x0, 0x0, 0x0, 0x0⟩,  -- STEP_CNT
   ⟨0x9C, 1, 4, 0x0, 0x0, 0x0, 0x0⟩]  -- LCO_ABORT_CNT

/-- The registers of MBX (R545). -/
def regsMbx : List RegDesc :=
  [⟨0x0, 1, 4, 0x0, 0x0, 0x0, 0x0⟩,  -- DB
   ⟨0x4, 1, 4, 0x0, 0x0, 0x1, 0x0⟩,  -- STS
   ⟨0x8, 1, 4, 0x0, 0x0, 0x0, 0x0⟩,  -- PEND_LO
   ⟨0xC, 1, 4, 0x0, 0x0, 0x0, 0x0⟩,  -- PEND_HI
   ⟨0x10, 1, 4, 0x0, 0x0, 0xFFFFFFFF, 0x0⟩,  -- DONE_LO
   ⟨0x14, 1, 4, 0x0, 0x0, 0xFFFFFFFF, 0x0⟩,  -- DONE_HI
   ⟨0x18, 1, 4, 0x0, 0x0, 0x0, 0x0⟩,  -- CMD_CNT
   ⟨0x1C, 1, 4, 0x0, 0x0, 0x0, 0x0⟩,  -- REJ_CNT
   ⟨0x20, 1, 4, 0x0, 0x0, 0x0, 0x0⟩,  -- ERR_CNT
   ⟨0x24, 1, 4, 0x0, 0x0, 0x0, 0x100⟩]  -- CTL

/-- The registers of CHG (R487). -/
def regsChg : List RegDesc :=
  [⟨0x0, 1, 4, 0x0, 0x0, 0x60000, 0x0⟩,  -- STS
   ⟨0x4, 1, 4, 0x0, 0x0, 0x0, 0x0⟩,  -- SW_CTL
   ⟨0x8, 1, 4, 0x0, 0x0, 0x0, 0x0⟩,  -- SW_A
   ⟨0xC, 1, 4, 0x0, 0x0, 0x0, 0x0⟩,  -- SW_B
   ⟨0x10, 1, 4, 0x0, 0x0, 0x0, 0x0⟩,  -- SW_T_LO
   ⟨0x14, 1, 4, 0x0, 0x0, 0x0, 0x0⟩,  -- SW_T_HI
   ⟨0x18, 1, 4, 0x0, 0x0, 0x0, 0x0⟩,  -- NEW_VER
   ⟨0x1C, 1, 4, 0x0, 0x0, 0x0, 0x0⟩,  -- NEW_CC
   ⟨0x20, 1, 4, 0x0, 0x0, 0x0, 0x0⟩,  -- ACT_VER
   ⟨0x24, 1, 4, 0x0, 0x0, 0x0, 0x0⟩,  -- ACT_CC
   ⟨0x28, 1, 4, 0x0, 0x0, 0x0, 0x0⟩,  -- LINKV
   ⟨0x2C, 1, 4, 0xBEBC200, 0xFFFFFFFF, 0x0, 0x0⟩,  -- DRAIN_MAX
   ⟨0x30, 1, 4, 0x0, 0x0, 0x0, 0x0⟩,  -- FORCED_CNT
   ⟨0x34, 1, 4, 0x0, 0x0, 0x0, 0x0⟩,  -- CHG_CNT
   ⟨0x38, 1, 4, 0x0, 0x0, 0x0, 0x0⟩,  -- ABORT_CNT
   ⟨0x3C, 1, 4, 0x0, 0x0, 0x0, 0x0⟩,  -- KEYSTS
   ⟨0x40, 1, 4, 0x0, 0x0, 0x0, 0x100⟩]  -- CTL

/-- The registers of PWR (R448). -/
def regsPwr : List RegDesc :=
  [⟨0x0, 1, 4, 0x0, 0xF, 0x0, 0x80000000⟩,  -- CTL
   ⟨0x4, 1, 4, 0x0, 0xFFFFFFFF, 0x0, 0x0⟩,  -- LATENCY_NS
   ⟨0x8, 1, 4, 0x0, 0x0, 0x0, 0x0⟩,  -- STS
   ⟨0xC, 1, 4, 0x2710, 0xFFFFFF, 0x0, 0x0⟩,  -- DWELL
   ⟨0x10, 1, 4, 0x1, 0x0, 0x3F, 0x0⟩,  -- RSTCAUSE
   ⟨0x14, 1, 4, 0x0, 0x0, 0x0, 0x0⟩,  -- BOOTSTS
   ⟨0x18, 1, 4, 0x0, 0x0, 0x0, 0x0⟩,  -- BOOT_T
   ⟨0x1C, 1, 4, 0x0, 0x0, 0x0, 0x0⟩,  -- CLKSTS
   ⟨0x20, 1, 4, 0x0, 0x0, 0x0, 0x1⟩,  -- CLKCTL
   ⟨0x24, 1, 4, 0x0, 0x0, 0x0, 0x0⟩,  -- SUPPLY
   ⟨0x28, 1, 4, 0x0, 0x0, 0x0, 0x0⟩,  -- HOLD_LO
   ⟨0x2C, 1, 4, 0x0, 0x0, 0x0, 0x0⟩,  -- HOLD_HI
   ⟨0x30, 1, 4, 0x0, 0x0, 0x0, 0x0⟩,  -- DOZE_RES
   ⟨0x34, 1, 4, 0x0, 0x0, 0x0, 0x0⟩,  -- SLUMBER_RES
   ⟨0x38, 1, 4, 0x0, 0xFFFFFFFF, 0x0, 0x0⟩,  -- BANKSLP_LO
   ⟨0x3C, 1, 4, 0x0, 0xFFFF, 0x0, 0x0⟩]  -- BANKSLP_HI

/-- The registers of HOST (R547). -/
def regsHost : List RegDesc :=
  [⟨0x0, 1, 4, 0x0, 0x0, 0x70000, 0x0⟩,  -- STS
   ⟨0x4, 1, 4, 0x0, 0x1, 0x0, 0x0⟩,  -- CFG
   ⟨0x8, 1, 4, 0x1EB7, 0x0, 0x0, 0x0⟩,  -- IDS
   ⟨0xC, 1, 4, 0x0, 0x0, 0x0, 0x0⟩,  -- LOCK_CNT
   ⟨0x10, 1, 4, 0x0, 0x0, 0x0, 0x0⟩,  -- LOCK_ADDR
   ⟨0x14, 1, 4, 0x0, 0x0, 0x0, 0x0⟩,  -- LINKRST_CNT
   ⟨0x18, 1, 4, 0x0, 0x0, 0x0, 0x0⟩,  -- DROP_CNT
   ⟨0x1C, 1, 4, 0x0, 0x0, 0x0, 0x0⟩,  -- UR_CNT
   ⟨0x20, 1, 4, 0x0, 0x0, 0x0, 0x0⟩,  -- MALF_CNT
   ⟨0x24, 1, 4, 0x0, 0x0, 0x0, 0x0⟩,  -- SPI_CRC_CNT
   ⟨0x28, 1, 4, 0x0, 0x0, 0x0, 0x0⟩,  -- SPI_ERR_CNT
   ⟨0x2C, 1, 4, 0x0, 0x0, 0x0, 0x100⟩]  -- CTL

/-- The registers of TACK (R579). -/
def regsTack : List RegDesc :=
  [⟨0x0, 1, 4, 0x0, 0x0, 0x0, 0x101⟩,  -- CTL
   ⟨0x4, 1, 4, 0x0, 0x0, 0x700, 0x0⟩,  -- STS
   ⟨0x8, 1, 4, 0x0, 0x0, 0x0, 0x0⟩,  -- FWVER
   ⟨0x10, 1, 4, 0x7D6E, 0xFFFF, 0x0, 0x0⟩,  -- TEMP_CFG
   ⟨0x14, 1, 4, 0x0, 0x0, 0x0, 0x0⟩,  -- TEMP_MAX
   ⟨0x18, 1, 4, 0x0, 0x0, 0x0, 0x0⟩,  -- FLASH
   ⟨0x1C, 1, 4, 0x32, 0x77, 0x0, 0x0⟩,  -- LOG_CTL
   ⟨0x20, 8, 4, 0x0, 0x0, 0x0, 0x0⟩,  -- TEMP
   ⟨0x40, 6, 4, 0x0, 0x0, 0x0, 0x0⟩,  -- SUP
   ⟨0x58, 1, 4, 0x0, 0x0, 0x0, 0x0⟩,  -- LOG_SEQ
   ⟨0x5C, 1, 4, 0x0, 0x0, 0x0, 0x0⟩,  -- LOG_FLSEQ
   ⟨0x60, 1, 4, 0x0, 0x0, 0x0, 0x0⟩,  -- RESTART_CNT
   ⟨0x64, 1, 4, 0x0, 0x0, 0x0, 0x0⟩,  -- LOG_LOST_CNT
   ⟨0x68, 1, 4, 0x0, 0x0, 0x0, 0x0⟩,  -- FLASH_ERR_CNT
   ⟨0x70, 4, 4, 0x0, 0x0, 0x0, 0x0⟩,  -- CHAL
   ⟨0x80, 16, 4, 0x0, 0xFFFFFFFF, 0x0, 0x0⟩,  -- UNLK
   ⟨0xC0, 1, 4, 0x0, 0x31, 0x0, 0x2⟩]  -- DBGCTL

/-- The blocks, in the order of their addresses (R35). Instances of a block with one instance have stride 0. -/
def blocks : List BlockDesc :=
  [⟨0x0, 0x0, 1, regsGctl⟩,
   ⟨0x1000, 0x0, 1, regsPinown⟩,
   ⟨0x10000, 0x0, 1, regsEvm⟩,
   ⟨0x10100, 0x10, 64, regsVec⟩,
   ⟨0x14000, 0x0, 1, regsSrct⟩,
   ⟨0x100000, 0x100, 512, regsCh⟩,
   ⟨0x120000, 0x100, 64, regsHarn⟩,
   ⟨0x128000, 0x40, 256, regsReed⟩,
   ⟨0x140000, 0x1000, 4, regsTrd⟩,
   ⟨0x150000, 0x100, 16, regsPos⟩,
   ⟨0x160000, 0x100, 64, regsHed⟩,
   ⟨0x170000, 0x40, 32, regsWin⟩,
   ⟨0x171000, 0x0, 1, regsAdc⟩,
   ⟨0x180000, 0x40, 32, regsBob⟩,
   ⟨0x181000, 0x0, 1, regsBobc⟩,
   ⟨0x188000, 0x0, 1, regsStore⟩,
   ⟨0x190000, 0x0, 1, regsShed⟩,
   ⟨0x190400, 0x20, 34, regsEng⟩,
   ⟨0x191000, 0x100, 34, regsShu⟩,
   ⟨0x1A0000, 0x0, 1, regsCard⟩,
   ⟨0x1B0000, 0x0, 1, regsSel⟩,
   ⟨0x1C0000, 0x0, 1, regsMbx⟩,
   ⟨0x1C0800, 0x0, 1, regsChg⟩,
   ⟨0x1C1000, 0x0, 1, regsPwr⟩,
   ⟨0x1C2000, 0x0, 1, regsHost⟩,
   ⟨0x1C3000, 0x0, 1, regsTack⟩]

/-- The size of one instance of a block: the stride, or for one instance the range up to the next block. -/
def BlockDesc.span (b : BlockDesc) : Nat := if b.stride = 0 then 0x8000 else b.stride

/-- The register of a block at an offset. -/
def regAt (off : Nat) : List RegDesc → Option RegDesc
  | [] => none
  | r :: rs =>
    if r.off ≤ off ∧ (off - r.off) % r.stride = 0 ∧ (off - r.off) / r.stride < r.count then some r else regAt off rs

/-- The register at an address, found in the block whose instances cover it. -/
def descIn (a : Nat) : List BlockDesc → Option RegDesc
  | [] => none
  | b :: bs =>
    if b.base ≤ a ∧ a < b.base + b.span * b.count then
      match regAt (if b.stride = 0 then a - b.base else (a - b.base) % b.stride) b.regs with
      | some r => some r
      | none => descIn a bs
    else descIn a bs

/-- The register at an address of BAR0, if there is one. -/
def descAt (a : Nat) : Option RegDesc := descIn a blocks

/-- What a register that nothing has written yet holds: its reset value (R37 and the other register tables; log entry
3 where the table gives none). -/
def resetWord (a : Nat) : Word :=
  match descAt a with
  | some r => wd r.reset
  | none => 0

/-- The listed ranges of BAR0 (R35), as (first, last) address. Ranges not listed are holes. -/
def ranges : List (Nat × Nat) :=
  [(0x0, 0xFFF), (0x1000, 0x17FF), (0x10000, 0x100FF), (0x10100, 0x104FF), (0x14000, 0x17FFF), (0x100000, 0x11FFFF),
   (0x120000, 0x123FFF), (0x128000, 0x12BFFF), (0x140000, 0x143FFF), (0x150000, 0x150FFF), (0x160000, 0x163FFF),
   (0x170000, 0x1707FF), (0x171000, 0x1710FF), (0x180000, 0x1807FF), (0x181000, 0x1810FF), (0x188000, 0x188FFF),
   (0x190000, 0x190FFF), (0x191000, 0x1931FF), (0x194000, 0x195FFF), (0x198000, 0x19BFFF), (0x1A0000, 0x1A0FFF),
   (0x1B0000, 0x1B0FFF), (0x1C0000, 0x1C0FFF), (0x1C1000, 0x1C10FF), (0x1C2000, 0x1C20FF), (0x1C3000, 0x1C30FF),
   (0x1000000, 0x17FFFFF), (0x1800000, 0x19FFFFF), (0x1A00000, 0x1AFFFFF), (0x1B00000, 0x1BFFFFF)]

/-- An address lies in no listed range (R35, R36). -/
def isHole (a : Nat) : Bool := !(ranges.any fun r => decide (r.1 ≤ a ∧ a ≤ r.2))

/-- An address lies in one of the stores (R35). -/
def inStore (a : Nat) : Bool := decide (0x1000000 ≤ a ∧ a ≤ 0x1BFFFFF)

/-- The 2,048 words of the code RAM window (R35, R120). -/
def inCodeWin (a : Nat) : Bool := decide (0x194000 ≤ a ∧ a ≤ 0x195FFF)

/-- The 16 KiB page of the task table window (R35, R56). -/
def inTaskWin (a : Nat) : Bool := decide (0x198000 ≤ a ∧ a ≤ 0x19BFFF)

end Sys2Proof.Machine
end

