-- ==== Sys2Proof/Machine/State.lean ====
section
/-!
DEFINITION. The state of the device, as plain data: the register file of the map (Map.lean), the stores, and what the
spec gives each block beside its registers. A register has one home, here in `regs`; a field of a block's own structure
is state that the spec names and no register shows. Reset values: spec where it gives them, else log entries 3 to 10.
-/

namespace Sys2Proof.Machine

/-- An instant: a loom cycle and a fine step of 1/32 lc (R15). -/
structure Inst where
  lc   : Nat := 0
  fine : Nat := 0
  deriving DecidableEq, Repr

/-! ### Events (12_event_matrix.md) -/

/-- A consumer of a raised source and what it does with it (R406). -/
inductive Dest where
  | vec (j : Nat)
  | chStart (n : Nat)
  | chRst (n : Nat)
  | chCap (n : Nat)
  | hedTrig (e : Nat)
  | adcTrig (i : Nat)
  | posLatch (i : Nat)
  | posFrame (i : Nat)
  deriving DecidableEq, Repr

/-- A raise on its way to a consumer: when it gets there (R406, R408). -/
structure Wire where
  at_ : Nat
  src : Nat
  dst : Dest
  deriving DecidableEq, Repr

/-- The event matrix beside its registers: which sources have been raised in cycle `raisedAt` (R402), and raises on
their way. -/
structure EvSt where
  raisedAt : Nat := 0
  raised   : List Nat := []
  wires    : List Wire := []
  deriving DecidableEq, Repr

/-- A message handed to the host port (R412): the instant, in ps, at which it has left the port (R529), its address and its
data. -/
structure MsixMsg where
  at_  : Nat
  addr : Nat
  data : Word
  deriving DecidableEq, Repr

/-- One interrupt vector beside its registers (R409): ACC; the raise cycle and the lowest source of the first cycle counted;
the highest source of the last; the cycle after the last arrival, its raises, their lowest source, and the last source before it; the cycle after
the last readiness; the pin that the vector has begun to hold low (R412), whether that pin is low for it, and which; the pin
that it held last, and the first cycle in which that one is free of it (R416); the cycles from which IRQ_SEL and IRQ, and NUM
and TIME, as written last apply (R415); and the messages handed over that have not left the port, newest first (R414). -/
structure VecSt where
  acc      : Nat := 0
  first    : Nat := 0
  firstSrc : Nat := 0
  lastSrc  : Nat := 0
  arrAt    : Nat := 0
  arrN     : Nat := 0
  arrMin   : Nat := 0
  prevLast : Nat := 0
  readyAt  : Nat := 0
  begun    : Option Nat := none
  pinLow   : Bool := false
  pinIrq   : Nat := 0
  lowIrq   : Nat := 0
  lowTill  : Nat := 0
  selAt    : Nat := 0
  numAt    : Nat := 0
  sent     : List MsixMsg := []
  deriving DecidableEq, Repr

/-! ### Channels, harnesses and reeds (04, 05) -/

/-- A transition of a warp pin that is seen (R618, R630): its instant, the level after it, and the count of the pin's
channel in its loom cycle (R153). -/
structure Trans where
  t     : Inst
  level : Bool
  cnt   : Word
  deriving DecidableEq, Repr

/-- An edge placed in the queue of a SHUTTLE_OUT channel (R103). -/
structure PlacedEdge where
  t    : Inst
  act  : Nat
  late : Bool
  deriving DecidableEq, Repr

/-- The angle pulse that holds a CARD_OUT channel active (R227, R228): its tracker, HOLD_TO_CAP, its time cap, the slot of
the card that made the channel active, whether it now waits for its cap, and whether it ends within 8 lc. -/
structure AnglePulse where
  trk  : Nat
  hold : Bool
  cap  : Option Inst
  slot : Nat
  ends : Bool := false
  soon : Bool := false
  deriving DecidableEq, Repr

/-- Channel n and the input of pin Wn beside their registers. -/
structure ChSt where
  /-- level of the pin before the transitions of `trans` (log entry 6) -/
  level     : Bool := false
  /-- transitions of the last cycles, newest first -/
  trans     : List Trans := []
  /-- filter: candidate level, its consecutive samples, the transition that began them, the cycle after the last
  sample (R149) -/
  cand      : Bool := false
  run       : Nat := 0
  runStart  : Trans := ⟨{}, false, 0⟩
  sampled   : Nat := 0
  /-- the channel has left OFF and its first lap has not begun (R138) -/
  firstLap  : Bool := false
  /-- an ONE_SHOT lap runs (R141) -/
  lap       : Bool := false
  /-- a START awaits its tick (R141) -/
  startPend : Bool := false
  /-- occurrences of WRAP, MATCHA, MATCHB, CAP since the last raise (R162) -/
  occ       : Tbl Nat := []
  /-- the capture's companion, copied to CAPT by a read of CAP (R153) -/
  capt      : Word := 0
  /-- cycle after the last read of CAP, and after the last capture (R155) -/
  capRead   : Nat := 0
  capLand   : Nat := 0
  /-- a measurement in progress: its first edge (R157, R158) -/
  meas      : Option Inst := none
  /-- cycle of the landing that restarts the counter at the next tick (R157) -/
  restart   : Option Nat := none
  /-- the edge queue of a SHUTTLE_OUT channel (R103), at most 8 -/
  edges     : List PlacedEdge := []
  /-- the pin has been released from its SAFE level (R191) -/
  released  : Bool := false
  /-- the pin's owner has changed and the new one is not enabled (R28) -/
  handover  : Bool := false
  /-- pin time of the last edge that the filter passed on (R149) -/
  edgeT     : Inst := {}
  /-- the angle pulse of a CARD_OUT channel (R227) -/
  pulse     : Option AnglePulse := none
  /-- the level that the synchroniser of the pin presents (R630) -/
  sync      : Bool := false
  /-- the cycle after the pin's last cut, or its last switch to or from SAFE (R173, R191) -/
  swAt      : Nat := 0
  /-- the cycle after the last transfer and the live registers that it wrote, by their STAGE bits (R144) -/
  xferAt    : Nat := 0
  xferM     : Nat := 0
  deriving DecidableEq, Repr

/-- Who owns a warp pin (R22, R24): its channel, a heddle engine or a position interface, with the role. -/
inductive Owner where
  | channel
  | heddle (e : Nat) (role : Nat)
  | position (i : Nat) (role : Nat)
  deriving DecidableEq, Repr

/-- An onset of a trip input that is not yet judged against the blanking windows (R184, R186): the input, its cycle, the
channels of its harness on which it can act, the pairs whose window was open when it came, and the cycle in which the input
became inactive again. -/
structure Onset where
  i     : Nat
  at_   : Nat
  chs   : Nat
  open_ : Nat
  ended : Option Nat := none
  deriving DecidableEq, Repr

/-- Harness h beside its registers: the cycle after its last tick (R133), a tick in device time that a step has skipped
(R502), the cycle in which a LOADNOW landed (R178), the cycle after the last write of PRESC and the division before it
(R148), onsets of its trip inputs not yet judged (R186), and the channels that each input is about to cut (R184). -/
structure HarnSt where
  ticked   : Nat := 0
  late     : Bool := false
  nowAt    : Nat := 0
  prescAt  : Nat := 0
  prescWas : Nat := 1
  onsets   : List Onset := []
  cutDue   : Tbl Nat := []
  deriving DecidableEq, Repr

/-- A delay line or a time-to-digital line (R173): its setting, in internal steps from where BOOT left it, the cycle from
which its next step may come, and whether it has left its range. -/
structure CalSet where
  pos  : Int := 0
  next : Nat := 0
  lost : Bool := false
  deriving DecidableEq, Repr

/-- One side of a reed (R180): the request, the instant at which its dead time ends (R181), the output of the
dead-time stage before its last edge, that edge while the narrow rule may still remove it (R174), and the cycle after
the change before it with the change's fine part (R172, R186). -/
structure SideSt where
  req   : Bool := false
  due   : Option Inst := none
  level : Bool := false
  edge  : Option (Inst × Bool) := none
  chg   : Nat := 0
  fine  : Nat := 0
  deriving DecidableEq, Repr

/-- Reed k beside its registers: its two sides, the trip inputs of its harness whose onset its blanking window ignores
(R186), the output delay lines and the input time-to-digital lines of its pins (R173). -/
structure ReedSt where
  a    : SideSt := {}
  b    : SideSt := {}
  ign  : BitVec 4 := 0
  outA : CalSet := {}
  outB : CalSet := {}
  inA  : CalSet := {}
  inB  : CalSet := {}
  deriving DecidableEq, Repr

/-! ### Position interfaces (08_position_interfaces.md) -/

/-- One input of the interface filter (R281): its adopted level (none in INDET), the pin time of its last edge in fine
steps, and the run of samples in progress. -/
structure PosIn where
  level : Option Bool := none
  t     : Nat := 0
  cand  : Bool := false
  run   : Nat := 0
  deriving DecidableEq, Repr

/-- The record of a latch that no read has returned (R294, R295): its instant in fine steps, SPEED and age. -/
structure Latch where
  pos : Word := 0
  t   : Nat := 0
  spd : Word := 0
  age : Word := 0
  deriving DecidableEq, Repr

/-- Position interface i beside its registers. -/
structure PosSt where
  ins     : Tbl PosIn := []
  sampled : Nat := 0
  /-- changes of position, newest first: time in fine steps and position (R291); the measured speed; the last change -/
  hist    : List (Nat × Int) := []
  meas    : Int := 0
  lastT   : Option Nat := none
  back    : Bool := false
  /-- consecutive counts against STS.DIR (R293) -/
  dirRun  : Nat := 0
  /-- the position at the last index event, after any load there, and the directions counted since (R287; log entry 20) -/
  idxPos  : Option Int := none
  idxFwd  : Bool := false
  idxBack : Bool := false
  /-- the record in LAT_POS, and the cycles after the last latch and the last read of LAT_POS (R295) -/
  lat     : Latch := {}
  latLand : Nat := 0
  latRead : Nat := 0
  /-- the cycle after the last load or clamp, and the position before it (R285) -/
  loadAt  : Nat := 0
  preLoad : Word := 0
  /-- a frame start requested by CTL.START (R300), the start of the frame in progress, the cycle after the last frame
  start by PERIOD; the starts of the frames whose words have not landed, oldest first (R297) -/
  startAt : Option Nat := none
  frame   : Option Nat := none
  perAt   : Nat := 0
  words   : List Nat := []
  /-- the level of the data input and the device times of its changes since the oldest of those frames, newest first (R297) -/
  dat     : List (Nat × Bool) := []
  /-- the last valid word (R299), consecutive faulty words, the last sample of a word whose data line has not returned,
  and the faulty words in a row before that word (R298) -/
  word    : Option Nat := none
  fails   : Nat := 0
  retWait : Option Nat := none
  retFails : Nat := 0
  deriving DecidableEq, Repr

/-! ### Heddle engines (09_heddle_engines.md) -/

/-- Heddle engine e beside its registers: its FIFOs, oldest word first (R322); the divider's accumulator and the cycle it
belongs to (R313); ticks that the instruction begun still occupies; ticks of the present stall (R321); the pin edge that
ended the last WAIT, in fine steps (R320); latches and directions written, newest first, with the cycle in which they
appear (R311); an instruction to be executed by STEP (R331); the cycle of a forced swap, or while debug halts the engine
the lc left until it, whether the new draft enables the engine, and whether the idle bank holds a staged image (R328). -/
structure HedSt where
  tx     : List Word := []
  rx     : List Word := []
  acc    : Nat := 0
  accAt  : Nat := 0
  occ    : Nat := 0
  stall  : Option Nat := none
  edge   : Option Nat := none
  outs   : List (Nat × Nat × Nat) := []
  step   : Bool := false
  swapAt : Option Nat := none
  swapEn : Bool := false
  staged : Bool := false
  /-- program and header words with an uncorrectable error, 32 × bank + instruction (R326) -/
  bad    : List Nat := []
  deriving DecidableEq, Repr

/-! ### What is due at a known cycle -/

/-- Something that the device does in a cycle already fixed. -/
inductive Timed where
  /-- the filter of pin n adopts a level (R149, R150) -/
  | edgeLand (n : Nat) (level : Bool) (start : Trans)
  /-- an edge that landed at pin n in a cycle whose tick is still to come, which goes first (R136, R157) -/
  | edgeLate (n : Nat) (level : Bool) (start : Trans)
  /-- the synchroniser of pin n presents the level of a cycle (R630) -/
  | present (n c : Nat)
  /-- onsets of trip inputs of harness h are judged (R186), and input i cuts at its bound (R21, R184) -/
  | tripJudge (h : Nat)
  | tripCut (h i : Nat)
  /-- the angle pulse of channel n that the card of a slot made ends (R228) -/
  | angleEnd (n slot : Nat)
  /-- a period of channel n has started (R171): the trip inputs decide on it when the cycle ends (R185) -/
  | period (n : Nat)
  /-- an input that blanking has ignored acts at its bound after the window of reed k (R21, R186) -/
  | blankEnd (k : Nat)
  /-- a line of pin n is calibrated, unless an edge of the pin falls in the cycle (R173) -/
  | calStep (n : Nat) (mv : CalStep)
  /-- a capture of channel n falls due; it lands when the cycle ends (R155) -/
  | capDue (n : Nat) (cap capt : Word)
  /-- an RDL or CHR of engine e samples for its slot (R99, R101) -/
  | sample (e : Nat) (x : Ctx) (slot : Nat)
  /-- inputs of position interface i whose filter adopts a level: input, level, pin time (R281, R282) -/
  | posLand (i : Nat) (es : List (Nat × Bool × Nat))
  /-- a pin edge latches position interface i, after the counts of the cycle (R285, R294): instant in fine steps -/
  | posLatch (i t : Nat)
  /-- an edge has landed that is a tooth of tracker t, or an edge of its secondary wheel: instant in fine steps (R247, R248) -/
  | tooth (t i : Nat)
  | second (t i : Nat)
  /-- the stall limit of tracker t lies in this cycle: a stall, unless a tooth has come when the cycle ends (R263) -/
  | stall (t : Nat)
  /-- a frame of position interface i that started at t0 ends (R296), and its word lands at its bound (R297) -/
  | frameEnd (i t0 : Nat)
  | wordDue (i t0 : Nat)
  /-- a latch of position interface i falls due; it lands when the cycle ends (R295) -/
  | latDue (i : Nat) (l : Latch)
  /-- a bobbin with REPEAT starts again at its running addresses (R389) -/
  | bobRestart (b src dst : Nat)
  /-- the march test goes from REDIRECT to TEST, and from RELEASE to its end with a result (R379, R381) -/
  | mtTest
  | mtEnd (result : Nat)
  /-- effects of engine e reach their targets at their bound (R101, R107) -/
  | effDue (e : Nat)
  /-- an express request of engine e starts at its bound (R63, R64) -/
  | expressDue (e : Nat)
  /-- cards submitted by ARM reach the chain at their bound (R212) -/
  | cardPlace
  /-- cards and pulse ends that have come within reach enter the near window (R216, R217, R219) -/
  | nearDue
  /-- the chain dispatches what is due: catch-up actions and slipped ones (R222, R226) -/
  | dispatch
  /-- port B of the banks grants the requests that wait (R371) -/
  | grantB
  /-- the ownership table is checked and applied (R26) -/
  | commit
  /-- vector j is delivered at its bound (R416) -/
  | deliver (j : Nat)
  /-- raises reach a consumer (R406, R408): they are taken when the cycle ends at the latest -/
  | arrive (d : Dest)
  /-- heddle engine e halts at its tick (R331), and its swap timer expires (R329) -/
  | hedHalt (e : Nat)
  | hedSwap (e : Nat)
  /-- the corrected word of a store is written back at its bound (R374) -/
  | fixWord (w : Nat)
  /-- 64 × RPER lc have passed since a train, or since the deadline of a line changeover (R500, R503, R511) -/
  | ringTimeout
  | lineTimeout
  /-- a port has been in LOCK for 256 symbols (R493) -/
  | portMeasure (q : Port)
  /-- DRAIN_MAX lc have passed since the switch instant (R482) -/
  | drain
  /-- a wake from SLUMBER is complete at its bound (R443) -/
  | wake
  /-- vector j is judged for readiness (R409, R415) -/
  | vecReady (j : Nat)
  /-- a further DW of a write request or frame lands (R629): path, address, byte enables, value -/
  | busWrite (p : Path) (a be : Nat) (v : Word)
  /-- a further DW of a read request or frame samples (R629): path, address, byte enables, number of the read -/
  | busRead (p : Path) (a be id : Nat)
  deriving DecidableEq, Repr

/-! ### The shed (02_pick_and_shed.md) -/

/-- The checkpoint the shed takes at each pick start (R52). -/
structure Checkpoint where
  pickno  : Nat := 0
  pickT   : Nat := 0
  due     : Tbl (List Nat) := []
  carried : Tbl Nat := []
  ovrRun  : Tbl Nat := []
  scanPos : Nat := 0
  deriving DecidableEq, Repr

/-- The pick snapshot, or the snapshot of an express task (R50, R98): device time, pick number, and phase, fraction and cycle
of each tracker. -/
structure Snap where
  time  : Nat := 0
  pick  : Nat := 0
  phase : Tbl Word := []
  frac  : Tbl Word := []
  cycle : Tbl Word := []
  deriving DecidableEq, Repr

/-- An express request that waits (R62, R64): its descriptor, what g1 and g2 start with (R84, R225). -/
structure ExReq where
  desc : Nat
  g1   : Word
  g2   : Word
  deriving DecidableEq, Repr

/-- The shed beside its registers. Descriptors are named by 4,096 × half + index. -/
structure ShedSt where
  /-- a pick has started since BOOT (R51) -/
  started  : Bool := false
  /-- the next pick starts at the first boundary from here on (R46, R48) -/
  nextMin  : Nat := 0
  /-- pick length in force (R47) -/
  len      : Nat := 400
  /-- pick start for which the scan has been made -/
  scanned  : Option Nat := none
  /-- pending bits of TRIG 2 descriptors (R55) and express requests with their raise (R62, R64) -/
  evPend   : List Nat := []
  exPend   : List ExReq := []
  /-- half that serves express requests, the cycle after the switch point that set it, and the half before (R70) -/
  exHalf   : Nat := 0
  exAt     : Nat := 0
  exWas    : Nat := 0
  /-- a switch point has passed whose new half the next scan takes into force (R70) -/
  halfNext : Option Nat := none
  snap     : Snap := {}
  ckpt     : Checkpoint := {}
  /-- cycle after the last pick that held an alignment correction (R72) -/
  aligned  : Bool := false
  /-- the task table as the last scan read it (R56) -/
  table    : Tbl Word := []
  /-- the cycle after the last scan point, and event tasks requested in its cycle after the scan (R55) -/
  scanAt   : Nat := 0
  lateEv   : List Nat := []
  /-- after a lockstep restart: the first pick start with a scan again, and the last mismatch's pick (R594) -/
  resume   : Nat := 0
  lsPick   : Option Nat := none
  deriving DecidableEq, Repr

/-- What the shed holds for one engine (R57, R68): tasks of the pick not started, how many of them are carried, tasks
scanned for the next pick, and the lc its normal context has used in the pick. -/
structure EngSt where
  due     : List Nat := []
  carried : Nat := 0
  next    : List Nat := []
  used    : Nat := 0
  held    : Bool := false
  newBank : Option Nat := none
  /-- the cycle from which the next task may issue its first instruction (R49, R58) -/
  readyAt : Nat := 0
  /-- normal tasks of the pick have been dispatched and one may be running (R68) -/
  busy    : Bool := false
  deriving DecidableEq, Repr

/-! ### The test access port (17_tackler.md R573 to R576) -/

/-- The test access port: its instruction, the boundary cells, the word that the next scan brings out (R575, R576), and
whether RST_N is held low (R574). -/
structure TapSt where
  ir     : Nat := 1
  cells  : BitVec 512 := 0
  out    : Word := 0
  rstLow : Bool := false
  deriving DecidableEq, Repr

/-! ### Stores (11_stores_and_bobbins.md) -/

/-- What a request for port B of a bank is for (R371): a write of bytes, a read of DWs of one 64-bit word with their byte
enables for a host read, a read of a word for an SPI frame or for a scan of the test port, a transaction of a bobbin. -/
inductive PortItem where
  | write (p : Path) (a : Nat) (bytes : List Byte)
  | read (dws : List (Nat × Nat)) (id : Nat)
  | spiRead (a : Nat)
  | tapRead (a : Nat)
  | bob
  deriving DecidableEq, Repr

/-- An access of a shuttle through port A of a bank (R370): the bank, the engine and its slot, when it was asked and when it is
granted, and the lc from grant to result. -/
structure PortA where
  bank  : Nat
  eng   : Nat
  slot  : Nat
  asked : Nat
  at_   : Nat
  lat   : Nat
  deriving DecidableEq, Repr

/-- A request that waits for port B of a bank (R371): the requester is 0 for the host, 1 for the tackler, 2 + b for BOB[b]. -/
structure PortReq where
  bank : Nat
  who  : Nat
  item : PortItem
  deriving DecidableEq, Repr

/-- The stores beside their bytes and registers: error marks of 64-bit words (R374, R375), words due to be written back
(R374), the next word of the scrub (R376), the bank test in progress and the cycles that its copy has waited (R379); of port B,
the requests that wait, oldest first, and of each bank the requester served last and the cycle after its last grant (R371); the
accesses of the shuttles under way through port A, by age and engine (R370). -/
structure StoreSt where
  marks     : Tbl Nat := []
  writeBack : List Nat := []
  scrubWord : Nat := 0
  scrubAt   : Nat := 0
  mtKind    : Nat := 0
  mtAt      : Nat := 0
  mtWait    : Nat := 0
  reqs      : List PortReq := []
  lastB     : Tbl Nat := []
  takenB    : Tbl Nat := []
  portA     : List PortA := []
  deriving DecidableEq, Repr

/-! ### Shuttle engines (03_shuttle_engines.md) -/

/-- What an access slot waits for (R94). -/
inductive Access where
  | load (value : List (Nat × Word))          -- registers and the values loaded
  | rdl (d item : Nat) (value : Option Word)   -- a live item, once sampled (R99)
  | chr (d n sel : Nat) (value : Option Word)  -- a channel register, once sampled (R100)
  | arm (d : Nat) (value : Option Word)        -- the handle or refusal of ARM, once placed (R105)
  | disarm (d : Nat) (value : Word)
  | store
  deriving DecidableEq, Repr

/-- One access in flight: its number, its earliest completion, the slots it holds (R94). -/
structure Slot where
  id   : Nat
  at_  : Nat
  held : Nat
  acc  : Access
  deriving DecidableEq, Repr

/-- An effect on its way from an engine to its target, in issue order (R101). -/
inductive Effect where
  | chw (n sel : Nat) (v : Word)
  | edge (n act : Nat) (t : Inst) (late : Bool)
  | evr (src : Nat)
  deriving DecidableEq, Repr

/-- The task a context runs (R83, R84): its descriptor, start, bank and budget, the instructions retired, whether it is
a re-execution (R116), the lc that express runs have taken from it, and the lc charged to the picks so far (R58). -/
structure Run where
  desc    : Nat
  start   : Nat
  bank    : Nat
  budget  : Nat
  retired : Nat := 0
  rerun   : Bool := false
  lost    : Nat := 0
  paid    : Nat := 0
  deriving DecidableEq, Repr

/-- One context of an engine (R82): registers, flags, PC, S and W; the cycle from which each result may be used (R86);
the error bits of R114, and the registers, 16 for the flags, whose parity is wrong; its slots; the live-time capture of
R99; held load commands (R102); cards armed by the run (R115); code words as they were when its task started, with their
error marks, where they have been written since (R121). -/
structure CtxSt where
  g     : Tbl Word := []
  flags : Flags := {}
  pc    : Nat := 0
  sig   : BitVec 18 := 0
  w     : Word := 0xFFFFFFFF#32
  ready : Tbl Nat := []
  err   : Bool := false
  par   : List Nat := []
  slots : List Slot := []
  liveT : Nat := 0
  loads : List (Nat × Nat × Word) := []
  cards : List Word := []
  shadow : Tbl (Word × Bool) := []
  task  : Option Run := none
  deriving DecidableEq, Repr

/-- A shuttle engine: its contexts, the cycle from which it may issue (R88), the context before a division that an
express start abandons, with its result register and end (R109), effects in flight with the cycle of issue, the express snapshot,
the return to the normal context (R63), the exclusive or of the pick's write signatures (R113), and debug state, with the
cycle from which HALTED stops task time and whether a breakpoint has stopped the engine where it stands (R124 to R126);
picks in a row with a failed end check, one in this pick (R586), and a normal task completed in this pick (R587). -/
structure ShuSt where
  nrm     : CtxSt := {}
  exp     : CtxSt := {}
  issueAt : Nat := 0
  divSave : Option (CtxSt × Nat × Nat) := none
  eff     : List (Nat × Effect) := []
  snap    : Snap := {}
  back    : Option Nat := none
  pw      : Word := 0
  step    : Bool := false
  haltAt  : Nat := 0
  skipBrk : Bool := false
  brkStop : Bool := false
  slotId  : Nat := 0
  fails   : Nat := 0
  failed  : Bool := false
  ran     : Bool := false
  deriving DecidableEq, Repr

/-! ### Drafts (14_drafts_and_changeover.md) -/

/-- An entry of a card preload (R459): the four words of its card, and PARKED. -/
structure Pre where
  words  : List Word
  parked : Bool
  deriving DecidableEq, Repr

/-- A draft as the device holds it beside the stores (R453 to R460): header fields, the key that verified it, register
writes in order, pin ownership, reed and trip words by harness, fault policy, power policy, heddle words by engine, cards,
and whether it is changeover-ready (R475). -/
structure Draft where
  ver    : Nat
  epoch  : Nat
  cclass : Nat
  link   : Nat
  key    : Nat
  ssid   : Nat
  regs   : List (Nat × Word) := []
  pins   : List Word := []
  reeds  : List (Nat × List Word) := []
  fault  : List Word := []
  power  : List Word := []
  heds   : List (Nat × List Word) := []
  cards  : List Pre := []
  ready  : Bool := false
  deriving DecidableEq, Repr

/-- Drafts beside their registers: the draft in force and the staged one (R474), their regions; the mode from which
CHANGEOVER was entered (R483); channels and harnesses still under the old draft, and old-generation CLEARs kept (R232,
R480, R481); an application of a whole image that is awaited (R484). -/
structure ChgSt where
  /-- the draft in force is changeover-ready (R475) -/
  actReady : Bool := false
  act      : Option Draft := none
  staged   : Option Draft := none
  region   : Nat := 0
  fromMode : Nat := 3
  chans    : List Nat := []
  harns    : List Nat := []
  kept     : List Nat := []
  swLc     : Nat := 0
  swWait   : Bool := false
  /-- the slot-table commit that is outstanding exchanges ACTIVE and PREVIOUS (R485), or rotates the roles (R483) -/
  commitRevert : Bool := false
  deriving DecidableEq, Repr

/-! ### Fault containment (18_fault_containment.md) -/

/-- A fault detected in this cycle (R598, R599): its class, INST, affected harnesses, and whether it was injected. -/
structure Detection where
  cls  : Nat
  inst : Nat
  hs   : List Nat
  inj  : Bool := false
  deriving DecidableEq, Repr

/-- A mismatch under arbitration (R589): the engine, the first checker, its result and whether its end checks passed, the
engine's PWSIG, and the pick of the first replay. -/
structure Arb where
  eng   : Nat
  first : Nat
  w     : Word
  ok    : Bool
  sig   : Word
  pick  : Nat
  deriving DecidableEq, Repr

/-- Fault containment beside its registers. -/
structure FltSt where
  /-- detections that the policy has still to act on in this cycle -/
  det : List Detection := []
  /-- engines that await an out-of-rotation check (R586) -/
  oor : List Nat := []
  /-- replays that the checkers have to make in this pick: checker and engine (R586, R587) -/
  slots : List (Nat × Nat) := []
  arb : Option Arb := none
  /-- the substitute's copy of the bank in force is awaited (R590); banks still to be copied (R590, R592) -/
  copying : Bool := false
  copies : List Nat := []
  /-- a reset ordered by the policy (R599) -/
  resetAt : Option Nat := none
  /-- persistent and armed injections (R602): engines of KIND 5, pins of KIND 7, engine of KIND 4, comparator of KIND 9 -/
  injW : List Nat := []
  injPin : List Nat := []
  injRes : Option Nat := none
  injDac : Option Nat := none
  injRef : Bool := false
  /-- pins whose mismatch is to be declared at the next pick start (R595), comparators whose last readback mismatched
  (R598) -/
  rbPins : List Nat := []
  dacBad : List Nat := []
  deriving DecidableEq, Repr

/-! ### Treadle trackers (07_treadle_trackers.md) -/

/-- One stretch of a tracker's position (R257): it holds for the cycles after `since`, at which the position is `base`;
the anchor's instant and interval in fine steps, its position, rate and acceleration, and the highest position. Positions
are in 2^-16 pu, CYCLE not wrapped. -/
structure Seg where
  since  : Nat := 0
  base   : Int := 0
  moving : Bool := false
  t      : Nat := 0
  a      : Int := 0
  rate   : Nat := 0
  acc    : Int := 0
  T      : Nat := 0
  cap    : Int := 0
  deriving DecidableEq, Repr

/-- A tooth accepted or screened: its instant in fine steps, the index of its position round the machine cycle, its
interval in fine steps where one was measured, the span of that interval in positions, and its rate (R252, R257). -/
structure Tooth where
  t    : Nat
  k    : Nat := 0
  T    : Option Nat := none
  n    : Nat := 1
  rate : Nat := 0
  deriving DecidableEq, Repr

/-- The screening of a primary wheel for sync (R255): the last tooth, whether a hypothesis is set, teeth passed in
CONFIRM, whether the revolution is resolved, whether a secondary edge fell after the last tooth, and the secondary edge
that the next tooth follows as a sync mark. -/
structure Screen where
  prev   : Option Tooth := none
  hypo   : Bool := false
  conf   : Nat := 0
  revOk  : Bool := false
  secHit : Bool := false
  mark   : Option Nat := none
  deriving DecidableEq, Repr

/-- Tracker t beside its registers. -/
structure TrdSt where
  /-- stretches of the position, newest first -/
  segs    : List Seg := []
  /-- the last accepted tooth and its position in pu, CYCLE not wrapped -/
  prev    : Option Tooth := none
  a       : Int := 0
  /-- screening in LOST, CONFIRM, and of the primary during LIMP (R255, R262) -/
  scr     : Screen := {}
  /-- sync has been gained since EN was written 1, and CYCLE at the last loss (R256) -/
  synced  : Bool := false
  held    : Int := 0
  /-- highest CYCLE for which the cycle start was raised (R245) -/
  seen    : Int := 0
  /-- last edges of the two inputs, for the records, with SRC = 1 the last count or word and the last index (R268) -/
  lastPri : Option Nat := none
  lastSec : Option Nat := none
  /-- a secondary edge has come since EN was written 1, and the primary teeth since the last one (R255) -/
  secSeen : Bool := false
  secN    : Nat := 0
  /-- next centre of each secondary window, in pu, CYCLE not wrapped (R251) -/
  wins    : Tbl Int := []
  /-- secondary edges seen in LIMP: instant and position of the last (R261) -/
  limpSec : Option (Nat × Int) := none
  /-- the rate in LIMP until two of them have been seen (R261) -/
  limpRate : Nat := 0
  /-- LIMP was the state stalled from, and the cycle after the last stall was declared (R254) -/
  limpStall : Bool := false
  stallAt : Nat := 0
  /-- SRC = 1: the origin taken at the last index, and the position that the interface last gave (R266) -/
  origin  : Int := 0
  x       : Int := 0
  /-- highest position before a reversal (R229) -/
  pmax    : Option Int := none
  /-- picks without a valid beacon, and a beacon in this pick (R267) -/
  bcnMiss : Nat := 0
  bcnSeen : Bool := false
  /-- accepted teeth until interpolation resumes after SLUMBER (R270) -/
  cold    : Nat := 0
  deriving DecidableEq, Repr

/-! ### The card chain (06_card_chain.md) -/

/-- Card slot s beside the words of its card in the store (R209, R210): the relative words 1 and 2 of a preload card
(R213), how a passed card catches up (R226), and its running pulse. -/
structure SlotSt where
  st      : Nat := 0
  gen     : Bool := false
  seq     : Nat := 0
  chained : Bool := false
  rel     : Option (Word × Word) := none
  /-- a REPEAT card that waits for the first cycle after sync (R214) -/
  rearm   : Bool := false
  /-- a card of a staged draft that waits for a switch point, and whether it is to be parked there (R232, R459) -/
  staged  : Bool := false
  parked  : Bool := false
  /-- passed: it fires as a catch-up action from this cycle on (R226) -/
  catchUp : Option Nat := none
  /-- a RUNNING pulse: its end by time or by position (2^-16 pu), its cap, its end in the near window (R219), and its
  end already passed (R226) -/
  endT    : Option Inst := none
  endP    : Option Int := none
  capT    : Option Inst := none
  endNear : Bool := false
  /-- the instant at which it started (R223) -/
  start   : Option Inst := none
  /-- its channel has left CARD_OUT (R225) -/
  left    : Bool := false
  deriving DecidableEq, Repr

/-- A card submitted by ARM on its way to the chain (R105, R212): its words, the engine, context and access slot that
await the handle, the generation of the code bank, and the cycle of issue. -/
structure Submit where
  words : List Word
  e     : Nat
  ctx   : Ctx
  id    : Nat
  gen   : Bool
  at_   : Nat
  deriving DecidableEq, Repr

/-- A reed just before card actions changed an output of its pair at some instant (R223): the instant, its sides, its
SWALLOW and NARROW flags, its SWL_CNT, and the outputs of the pair. Later changes at the same fine step start from here. -/
structure LastOut where
  t   : Inst
  a   : SideSt
  b   : SideSt
  sts : Nat
  swl : Word
  was : Bool × Bool
  deriving DecidableEq, Repr

/-- What card actions have done to one channel at one fine step (R223): the instant, the output and the angle pulse before it,
whether a CLEAR or a pulse end acted, the angle pulse of a SET or PULSE start, and the TOGGLEs by slot with theirs. -/
structure FineStep where
  t    : Inst
  was  : Bool
  mark : Option AnglePulse
  clr  : Bool := false
  set  : Option (Option AnglePulse) := none
  tog  : List (Nat × Option AnglePulse) := []
  deriving DecidableEq, Repr

/-- The card chain beside its registers: slots, submissions, the dispatches of the present cycle, and the
first cycle and the cycle after the last of the latest run of cycles without room for more (R222). -/
structure ChainSt where
  slots  : Tbl SlotSt := []
  submit : List Submit := []
  dispAt : Nat := 0
  dispN  : Nat := 0
  fullFrom : Nat := 0
  fullTo : Nat := 0
  last   : Tbl LastOut := []
  /-- the latest fine step of each channel on which card actions fell (R223) -/
  fine   : Tbl FineStep := []
  deriving DecidableEq, Repr

/-! ### The log (17_tackler.md) -/

/-- A log record (R568): its number, device time, class, severity, QUEUED, instance, count and data. -/
structure LogRec where
  seq    : Word := 0
  time   : Nat
  cls    : Nat
  sev    : Nat
  queued : Bool := false
  inst   : Nat := 0
  cnt    : Nat := 0
  d0     : Word := 0
  d1     : Word := 0
  deriving DecidableEq, Repr

/-- The log beside its registers: the RAM ring, newest first (R570); the hardware queue and the causes lost from it
(R559); of each limited class and instance, the time of its last record and the causes suppressed since (R569); times of
the last LOCKED_WRITE records (R535); the next entry of the flash log region (R571); the device wakes from SLUMBER
(R559). -/
structure LogSt where
  ring   : List LogRec := []
  queue  : List LogRec := []
  lost   : Nat := 0
  limit  : Tbl (Nat × Nat) := []
  locks  : List Nat := []
  entry  : Nat := 0
  waking : Bool := false
  deriving DecidableEq, Repr

/-! ### Comparators and the converter (10_window_monitors.md) -/

/-- Comparator c beside its registers: the cycle up to which its output is held (R345, R346), the cycle of its first
evaluation in INDET, until then (R347), and the cycle after its last THRESH write (R356). -/
structure CmpSt where
  hold   : Option Nat := none
  evalAt : Option Nat := none
  thAt   : Nat := 0
  deriving DecidableEq, Repr

/-- A conversion whose result has not come (R352): its start; its slot, selector, trigger and whether it is the last of
its sequence, or the comparator it reads back with the THRESH and the last THRESH write that its sample meets (R356). -/
inductive Conv where
  | slot (start i sel trg : Nat) (last : Bool)
  | readback (start c th thAt : Nat)
  deriving DecidableEq, Repr

/-- The converter beside its registers: the sequence that runs, its trigger and the slots with selectors still to be
started (R353, R365); pending triggers; the cycle from which the next conversion may start; conversions under way;
a readback that waits, the cycle after the last time one fell due, and the comparator read back last (R355). -/
structure AdcSt where
  seq    : Option (Nat × List (Nat × Nat)) := none
  pend   : BitVec 4 := 0
  freeAt : Nat := 0
  convs  : List Conv := []
  rbDue  : Bool := false
  rbAt   : Nat := 0
  rbLast : Nat := 63
  deriving DecidableEq, Repr

/-! ### Bobbins (11_stores_and_bobbins.md) -/

/-- What a bobbin transaction does (R383, R389). -/
inductive BobKind where
  | srcRead | dstRead | write | flush
  deriving DecidableEq, Repr

/-- A transaction outstanding (R392): its address and length, the bytes it carries or brings back, its issue cycle, and
an uncorrectable error that it met. -/
structure BobTxn where
  kind : BobKind
  host : Bool
  addr : Nat
  n    : Nat
  data : List Byte := []
  at_  : Nat
  bad  : Bool := false
  /-- the physical address, and whether it still waits for port B of its bank (R367, R371) -/
  pa   : Nat := 0
  wait : Bool := false
  deriving DecidableEq, Repr

/-- Bobbin b beside its registers: its running start addresses; bytes read from the source, returned from it, read from
the destination, written, acknowledged; the funnel and the bytes compared against (R384, R388); transactions, oldest
first; elements accounted and past levels of its queue (R386); the end that awaits them (R390); a difference found; the
last byte written and its read back (R389). -/
structure BobSt where
  src     : Nat := 0
  dst     : Nat := 0
  rd      : Nat := 0
  ret     : Nat := 0
  drd     : Nat := 0
  wr      : Nat := 0
  ack     : Nat := 0
  got     : List Byte := []
  dgot    : List Byte := []
  txns    : List BobTxn := []
  acct    : Nat := 0
  hist    : List (Nat × Nat) := []
  issueAt : Nat := 0
  ending  : Option (Nat × Nat × Bool) := none
  mism    : Bool := false
  lastW   : Nat := 0
  flushed : Bool := false
  deriving DecidableEq, Repr

/-! ### The host port (16_host_port.md) -/

/-- A read request on its way (R437): its number, the words it asks for, those sampled, and the cycle of the last sample. -/
structure HostRead where
  id    : Nat
  want  : Nat
  words : List Word := []
  at_   : Nat := 0
  deriving DecidableEq, Repr

/-- An SPI frame as the device answers it (R532, R533): STS.CODE, the DROP and IRQ bits, and for a read frame the words
it asks for and those sampled. -/
structure SpiFrame where
  code  : Nat := 0
  drop  : Bool := false
  irq   : Bool := false
  want  : Nat := 0
  words : List Word := []
  deriving DecidableEq, Repr

/-- A mailbox command that runs (R540): its slot, OP, TAG and arguments, and once it is decided, STATUS, DETAIL and RET
(R541). `begun` is set when its effect has begun that other events complete (R474, R544). -/
structure Cmd where
  slot  : Nat
  op    : Nat
  narg  : Nat
  tag   : Word := 0
  args  : List Word := []
  rsv   : Bool := false
  out   : Option (Nat × Nat × Word) := none
  begun : Bool := false
  deriving DecidableEq, Repr

/-- The host port and the mailbox beside their registers: the configuration space by DW, the words of the MSI-X table
(R523); the commands of the two lanes that wait, first in first out, and those that run (R540); the cycle of the reset
that DEVICE_RESET ordered (R543). -/
structure HostSt where
  cfg  : Tbl Word := []
  msix : Tbl Word := []
  /-- the instant, in ps, up to which posted writes occupy the link (R529) -/
  txFree : Nat := 0
  /-- read requests whose completion is still to go out (R437), and the number of the next read -/
  reads  : List HostRead := []
  readNo : Nat := 0
  /-- the last SPI frame, and a write of that path dropped since (R533) -/
  spi    : SpiFrame := {}
  spiDrop : Bool := false
  fg     : List Cmd := []
  bg     : List Cmd := []
  fgRun  : Option Cmd := none
  bgRun  : Option Cmd := none
  resetAt : Option Nat := none
  deriving DecidableEq, Repr

/-! ### Holds and power (13_modes_clocks_power.md) -/

/-- Holds and power beside their registers: the holds in force as (harness, or 64 for the whole device; cause) (R427): cause 1
the HOLD command, 100 + e overrun escalation of engine e, 200 + c fault class c; the cycle since which the present level
holds, and time at DOZE and SLUMBER not yet counted (R448); the cycle since which SLUMBER is allowed (R442); banks in light
sleep and the last access of a bank (R441); a wake from SLUMBER is under way. -/
structure PwrSt where
  holds   : List (Nat × Nat) := []
  since   : Nat := 0
  accDoze : Nat := 0
  accSlum : Nat := 0
  okSince : Option Nat := none
  asleep  : List Nat := []
  touched : Tbl Nat := []
  /-- VDDIO rails of 3.3 V nominal, as read at boot (R445) -/
  vddio   : BitVec 8 := 0
  /-- the cycle since which the reference is within tolerance (R436), and those in which monitors last saw their rail low (R445) -/
  refSince : Nat := 0
  lowAt    : Tbl Nat := []
  deriving DecidableEq, Repr

/-! ### Flash and fuses (14_drafts_and_changeover.md R463, R469; 17_tackler.md R560 to R567) -/

/-- A step of a flash job: sectors of 4 KiB to erase, or bytes to program page by page (R561, R563). -/
inductive FlashStep where
  | erase (addr n : Nat)
  | program (addr : Nat) (bytes : List Byte)
  deriving DecidableEq, Repr

/-- Whom a flash job serves: the running background command, a commit of the repair table, the debug port (R575). -/
inductive FlashWhy where
  | command | repair | debug
  deriving DecidableEq, Repr

/-- A flash job: what is still to be done, and whether its first page or sector has been issued (R563). -/
structure FlashJob where
  why    : FlashWhy
  steps  : List FlashStep
  issued : Bool := false
  deriving DecidableEq, Repr

/-- The configuration flash: its bytes, where they differ from 0xFF (log entry 9), the jobs, the first under way, and the
page buffer of the debug port (R575). -/
structure FlashSt where
  bytes : List Host.Cell := []
  jobs  : List FlashJob := []
  page  : Tbl Word := []
  deriving DecidableEq, Repr

/-- A region of the slot table (R470): VERSION, EPOCH, CCLASS, LEN and STATE. -/
structure Region where
  ver    : Nat := 0
  epoch  : Nat := 0
  cclass : Nat := 0
  len    : Nat := 0
  st     : Nat := 0
  deriving DecidableEq, Repr

/-- The slot table (R470): SEQ, the regions of the four roles (255 = none), the regions, and the copy it stands in. -/
structure SlotTable where
  seq      : Nat := 0
  active   : Nat := 0
  previous : Nat := 1
  staged   : Nat := 2
  factory  : Nat := 3
  regions  : Tbl Region := []
  copy     : Nat := 1
  deriving DecidableEq, Repr

/-- The tackler beside its registers: the steps of R429 that are done (1 PLL locked, 2 flash discovered, 3 firmware runs,
4 SELF-TEST passed), random challenges drawn and attempts failed (R577), the slot table, SEQ and copy of the repair table,
the end of the last write to draft regions 0 to 3 and firmware regions 4 and 5, and those whose next write must begin
them anew (R544, R558). -/
structure TackSt where
  boot    : Nat := 0
  draws   : Nat := 0
  fails   : Nat := 0
  slots   : SlotTable := {}
  repSeq  : Nat := 0
  repCopy : Nat := 1
  wrEnd   : Tbl Nat := []
  broken  : List Nat := []
  deriving DecidableEq, Repr

/-- The one-time fuses (R463): keys as points (x, y), fused and revoked bits, SECURE, the minimum epoch, the variant; and the
two keys of the ROM (R564) (log entry 8). -/
structure FuseSt where
  romKeys  : Tbl (Nat × Nat) := []
  keys     : Tbl (Nat × Nat) := []
  fused    : BitVec 4 := 0
  revoked  : BitVec 4 := 0
  secure   : Bool := false
  minEpoch : Nat := 0
  variant  : Nat := 0
  deriving DecidableEq, Repr

/-! ### The Selvedge link (15_selvedge_link.md) -/

/-- The announcement that the root sends (R509, R511): OP, FORM, TRK, TGT_CC, SW_A, SW_B; the device time at which its
deadline passed; ABORT trains still to be sent, and the AGG bits that they carry. -/
structure Announce where
  op    : Nat := 0
  form  : Bool := false
  trk   : Nat := 0
  tgt   : Nat := 0
  swA   : Nat := 0
  swB   : Nat := 0
  dl    : Option Nat := none
  left  : Nat := 0
  agg   : Nat := 0
  deriving DecidableEq, Repr

/-- The Selvedge link beside its registers. -/
structure SelSt where
  /-- loom cycles for which device time still holds, the step it takes in the next cycle, and the first device time
  that the last step skipped while its cycle lasts (R502, R503) -/
  hold    : Nat := 0
  skip    : Nat := 0
  skipLo  : Option Nat := none
  /-- an echo request under way, in fine steps; twice the last values of d, newest first (R494); requests answered -/
  echoReq : Option Nat := none
  echoes  : List Int := []
  answers : Nat := 0
  /-- since when the UP and the DN port have been in their link states; the cycles of the last trains with a code violation
  (R493) -/
  upAt    : Nat := 0
  dnAt    : Nat := 0
  viols   : List Nat := []
  /-- the cycle of the last echo request, and the TURN of the last reply (R494) -/
  echoAt  : Option Nat := none
  turn    : Nat := 0
  /-- the last values of E, newest first (R501); consecutive trains within 32 fine steps and beyond 8 lc (R503) -/
  es      : List Int := []
  near    : Nat := 0
  far     : Nat := 0
  /-- consecutive trains whose class differs, and agrees (R508) -/
  ccBad   : Nat := 0
  ccGood  : Nat := 0
  /-- T_ROOT of the last valid train and the cycle in which it was received (R495, R500); at the root the cycle after the
  last train was sent -/
  lastT   : Option Nat := none
  lastAt  : Nat := 0
  /-- the data symbols of the last train sent by the DN port, and whether it ended with K30.7 (R499, R514) -/
  sent    : List Byte := []
  poison  : Bool := false
  /-- at the root: T_ROOT of trains not yet returned, oldest first; consecutive returns valid and missing (R500) -/
  outs    : List Nat := []
  retGood : Nat := 0
  retBad  : Nat := 0
  /-- at the root: what the last valid return carried (R499) -/
  minv    : Nat := 1
  levt    : Nat := 0
  ahead   : Nat := 0
  agg     : Nat := 0
  /-- at the root: trains sent since the last step (R503), and the step due at the next pick -/
  since   : Nat := 64
  step    : Nat := 0
  ann     : Announce := {}
  /-- the pending changeover is the announced one (R510) -/
  line    : Bool := false
  deriving DecidableEq, Repr

/-- Reasons for which the machine stops. No rule of the spec stops the device, so none is raised. -/
inductive Fault where
  /-- Raised by no meaning: every command of the spec leaves the device in a next state. Safe. -/
  | none_
  deriving DecidableEq, Repr

/-- Refusals. -/
inductive Refusal where
  /-- A command without a meaning in Dispatch.lean; raised by `exec` alone. Safe: nothing can be proved of it. -/
  | notModelled (mnemonic : String)
  deriving DecidableEq, Repr

/-- The present loom cycle: what falls in it together and has an order by rule. Stamps of another cycle count for nothing. -/
structure CycleSt where
  /-- the cycle that the stamps belong to -/
  at_    : Nat := 0
  /-- bits that the device has set in it, by register (R5) -/
  sets   : Tbl Word := []
  /-- what each counter has counted in it (R42) -/
  counts : Tbl Nat := []
  /-- place in the order of R101 of the last access made in it -/
  rank   : Nat := 0
  /-- harnesses, or 64 for the device, whose pins went to SAFE or left it in it (R173, R191) -/
  safeSw : List Nat := []
  /-- bytes written in it through port A and port B of a bank, as they stood before (R372) -/
  byA    : List Host.Cell := []
  byB    : List Host.Cell := []
  /-- source-table entries written in it, as they stood before (R408) -/
  srct   : Tbl Word := []
  /-- registers that a result has reached in it, as they stood before (R5) -/
  old    : Tbl Word := []
  deriving DecidableEq, Repr

/-- The state of the device. -/
structure State where
  /-- device time in loom cycles (R15) -/
  time    : Nat := 0
  /-- the register file: the word at each register address of BAR0; unlisted registers hold their reset value -/
  regs    : Tbl Word := []
  /-- captured high words and held low words of register pairs, by the address of the low word (R11) -/
  pairHi  : Tbl Word := []
  pairLo  : Tbl Word := []
  /-- words returned by the last read command -/
  rdata   : List Word := []
  ev      : EvSt := {}
  vec     : Tbl VecSt := []
  ch      : Tbl ChSt := []
  owner   : Tbl Owner := []
  harn    : Tbl HarnSt := []
  reed    : Tbl ReedSt := []
  /-- the task table: word w of descriptor d at 4 d + w (R53) -/
  tasks   : Tbl Word := []
  shed    : ShedSt := {}
  eng     : Tbl EngSt := []
  /-- what is due at a known cycle, earliest first -/
  timed   : List (Nat × Timed) := []
  pos     : Tbl PosSt := []
  /-- the bytes of the stores (R366), in canonical form -/
  mem     : List Host.Cell := []
  store   : StoreSt := {}
  /-- code RAM: word i of bank b of engine e at 4,096 e + 2,048 b + i (R82) -/
  code    : Tbl Word := []
  /-- words of code RAM with an uncorrectable error (R123) -/
  codeBad : List Nat := []
  shu     : Tbl ShuSt := []
  chg     : ChgSt := {}
  flt     : FltSt := {}
  trd     : Tbl TrdSt := []
  chain   : ChainSt := {}
  log     : LogSt := {}
  hed     : Tbl HedSt := []
  cmp     : Tbl CmpSt := []
  adc     : AdcSt := {}
  bob     : Tbl BobSt := []
  host    : HostSt := {}
  pwr     : PwrSt := {}
  flash   : FlashSt := {}
  fuse    : FuseSt := {}
  sel     : SelSt := {}
  tack    : TackSt := {}
  tap     : TapSt := {}
  cyc     : CycleSt := {}
  /-- index of the next free value (log entry 1) -/
  freeN   : Nat := 0
  /-- the commands that wait, first in, first out -/
  pending : List Instr := []
  deriving DecidableEq, Repr

/-- The device right after a reset: every register at its reset value, device time 0, every queue empty. -/
def State.reset : State := {}

end Sys2Proof.Machine
end

