-- ==== Sys2Proof/Machine/Ops.lean ====
section
/-!
DEFINITION. The named operations over the state that every block uses: registers and their fields, counters, free
values, per-instance state, the mode, and raising an event source (12_event_matrix.md R402 to R408).
-/

namespace Sys2Proof.Machine

/-! ### Registers -/

/-- The word of the register at an address. -/
def rget (s : State) (a : Nat) : Word := tget (resetWord a) s.regs a

/-- The state with the word of a register replaced. -/
def rset (a : Nat) (v : Word) (s : State) : State := { s with regs := tset s.regs a v }

/-! ### The present cycle -/

/-- The stamps of the present loom cycle. -/
def cycNow (s : State) : CycleSt := if s.cyc.at_ = s.time then s.cyc else { at_ := s.time }

/-- A change of the stamps of the present cycle. -/
def modCyc (f : CycleSt → CycleSt) (s : State) : State := { s with cyc := f (cycNow s) }

/-- The bits of a register that the device has set in this cycle: a clear by software in the same cycle leaves them (R5). -/
def setNow (s : State) (a : Nat) : Word := tget 0 (cycNow s).sets a

/-- What a counter has counted in this cycle: CNT_CLR in the same cycle leaves it (R42). -/
def countNow (s : State) (a : Nat) : Nat := tget 0 (cycNow s).counts a

/-- The device sets the bits `m` of a register in this cycle (R5). -/
def noteSet (a : Nat) (m : Word) : State → State :=
  modCyc fun c => { c with sets := tset c.sets a (tget 0 c.sets a ||| m) }

/-- A counter counts `k` in this cycle (R42). -/
def noteCount (a k : Nat) : State → State :=
  modCyc fun c => { c with counts := tset c.counts a (tget 0 c.counts a + k) }

/-- Pins of harness h, or of the device for 64, go to SAFE or leave it in this cycle (R191). -/
def noteSafe (h : Nat) : State → State := modCyc fun c => { c with safeSw := h :: c.safeSw }

/-- The source-table entry of a source as it stands for a raise of this cycle: a write that lands in it comes later (R408). -/
def entryNow (src : Nat) (s : State) : Word := tget (rget s (Reg.srct src)) (cycNow s).srct src

/-- A write of the source-table entry of `src` lands in this cycle (R408). -/
def noteEntry (src : Nat) (s : State) : State := modCyc (fun c => { c with srct := tset c.srct src (entryNow src s) }) s

/-- A register as it stood before the results of this cycle: what a read that clears a flag of it returns (R5). -/
def oldNow (s : State) (a : Nat) : Word := tget (rget s a) (cycNow s).old a

/-- A result reaches a register in this cycle (R5). -/
def noteOld (a : Nat) (s : State) : State := modCyc (fun c => { c with old := tset c.old a (oldNow s a) }) s

/-- The place of a path in the order of the accesses of one cycle (R101). -/
def pathRank : Path → Nat
  | .pcie => 1
  | .spi => 2
  | .tackler => 3

/-- The places of bobbins and of shuttle e in the order of R101. -/
def bobRank : Nat := 4
def shuRank (e : Nat) : Nat := 5 + e

/-! ### Fields -/

/-- Field [lo + n - 1 : lo] of a register, as a number. -/
def rf (s : State) (a lo n : Nat) : Nat := fld (rget s a) lo n

/-- Bit `i` of a register. -/
def rb (s : State) (a i : Nat) : Bool := bit (rget s a) i

/-- Field [lo + n - 1 : lo] of a register set to `x`. -/
def setf (a lo n x : Nat) (s : State) : State := rset a (setFld (rget s a) lo n x) s

/-- Bit `i` of a register set to `b` by the device. -/
def setb (a i : Nat) (b : Bool) (s : State) : State :=
  rset a (setBit (rget s a) i b) (if b then noteSet a (setBit 0 i true) s else s)

/-- Bits of a register cleared by software: those that the device has set in this cycle stay (R5). -/
def clearBits (a : Nat) (m : Word) (s : State) : State := rset a (rget s a &&& ~~~ (m &&& ~~~ setNow s a)) s

/-- A register as a number. -/
def rn (s : State) (a : Nat) : Nat := (rget s a).toNat

/-- A counter register counts one (R42). -/
def count (a : Nat) (s : State) : State := rset a (satInc (rget s a)) (noteCount a 1 s)

/-- A counter register counts `k` (R42). -/
def countN (a k : Nat) (s : State) : State := rset a (wd (min 0xFFFFFFFF (rn s a + k))) (noteCount a k s)

/-- A register is set to 0. -/
def zero (a : Nat) (s : State) : State := rset a 0 s

/-- Several registers are set to 0. -/
def zeroAll (as : List Nat) (s : State) : State := as.foldl (fun t a => zero a t) s

/-- A counter register is cleared by its CNT_CLR: what arrives in the same cycle is kept (R42). -/
def clr (a : Nat) (s : State) : State := rset a (wd (min 0xFFFFFFFF (countNow s a))) s

/-- Several counters are cleared by their CNT_CLR (R42). -/
def clrAll (as : List Nat) (s : State) : State := as.foldl (fun t a => clr a t) s

/-- `f` if `c` holds, else the state as it is. -/
def when_ (c : Bool) (f : State → State) (s : State) : State := if c then f s else s

/-- `f` for each element, in order. -/
def forEach {α : Type} (l : List α) (f : α → State → State) (s : State) : State := l.foldl (fun t x => f x t) s

/-- An item due at a known cycle, kept in the order of the cycles. -/
def schedule (at_ : Nat) (x : Timed) (s : State) : State :=
  { s with timed := s.timed.takeWhile (fun y => decide (y.1 ≤ at_)) ++ (at_, x) ::
      s.timed.dropWhile (fun y => decide (y.1 ≤ at_)) }

/-- The loom cycle of now, with fine part 0. -/
def nowInst (s : State) : Inst := ⟨s.time, 0⟩

/-! ### Per-instance state -/

def chSt (s : State) (n : Nat) : ChSt := tget {} s.ch n
def modCh (n : Nat) (f : ChSt → ChSt) (s : State) : State := { s with ch := tset s.ch n (f (chSt s n)) }
def harnSt (s : State) (h : Nat) : HarnSt := tget {} s.harn h
def modHarn (h : Nat) (f : HarnSt → HarnSt) (s : State) : State := { s with harn := tset s.harn h (f (harnSt s h)) }
def reedSt (s : State) (k : Nat) : ReedSt := tget {} s.reed k
def modReed (k : Nat) (f : ReedSt → ReedSt) (s : State) : State := { s with reed := tset s.reed k (f (reedSt s k)) }
def engSt (s : State) (e : Nat) : EngSt := tget {} s.eng e
def modEng (e : Nat) (f : EngSt → EngSt) (s : State) : State := { s with eng := tset s.eng e (f (engSt s e)) }
def vecSt (s : State) (j : Nat) : VecSt := tget {} s.vec j
def modVec (j : Nat) (f : VecSt → VecSt) (s : State) : State := { s with vec := tset s.vec j (f (vecSt s j)) }
def ownerOf (s : State) (n : Nat) : Owner := tget .channel s.owner n

/-- A fresh free bit (log entry 1). -/
def freshBit (s : State) : Bool × State := (Config.freeBit s.freeN, { s with freeN := s.freeN + 1 })

/-- A fresh free word of at most 64 bits (log entry 1). -/
def freshWord (s : State) : Nat × State := ((Config.freeWord s.freeN).toNat, { s with freeN := s.freeN + 1 })

/-- Register `a` takes a number; one that 32 bits cannot hold leaves a free value there, since no rule says what it then
reads (log entry 1). -/
def setNum (a x : Nat) (s : State) : State :=
  if x < 2 ^ 32 then rset a (wd x) s else rset a (wd (freshWord s).1) (freshWord s).2

/-! ### The mode (R32, R38) -/

/-- GCTL.MODE.MODE: 0 RESET, 1 BOOT, 2 SELF-TEST, 3 IDLE, 4 ARMED, 5 RUN, 6 LIMP, 7 CHANGEOVER, 8 SAFE-HOLD,
9 MAINTENANCE (R38). -/
def mode (s : State) : Nat := rf s Reg.gctlMode 0 4

/-- GCTL.MODE.POWER: 0 full, 1 DOZE, 2 SLUMBER (R38). -/
def power (s : State) : Nat := rf s Reg.gctlMode 4 2

/-- The device has left RESET, BOOT and SELF-TEST (R30). -/
def live (s : State) : Bool := decide (3 ≤ mode s)

/-- The loom clock runs and the blocks with it: after BOOT, and not in SLUMBER (R16, R443). -/
def running (s : State) : Bool := live s && decide (power s ≠ 2)

/-- IDLE or MAINTENANCE, the modes in which configuration registers accept writes. -/
def idleOrMaint (s : State) : Bool := decide (mode s = 3 ∨ mode s = 9)

/-- Base mode RUN: MODE reads RUN or LIMP (R425). -/
def inRun (s : State) : Bool := decide (mode s = 5 ∨ mode s = 6)

/-! ### Raising a source (R402 to R408) -/

/-- A source number that the spec reserves: it is never raised (R403). -/
def reservedSource (src : Nat) : Bool :=
  decide (2764 ≤ src ∧ src ≤ 2783 ∨ 2888 ≤ src ∧ src ≤ 2895 ∨ 2904 ≤ src ∧ src ≤ 2911 ∨ 2955 ≤ src ∧ src ≤ 3007 ∨
    4069 ≤ src)

/-- The action inputs that a register names source `src` for, with the delay from the raise to the action: START, RST
and CAP of a channel (R160), a heddle trigger (R321), a converter trigger (R354), the latch and the frame start of a
position interface (R294, R300). -/
def actionInputs (src : Nat) (e : Nat × Word) : List (Nat × Dest) :=
  let a := e.1
  let v := e.2
  if 0x100000 ≤ a ∧ a < 0x120000 then
    let n := (a - 0x100000) / 0x100
    if a % 0x100 = 0x44 then
      (if bit v 15 && fld v 0 12 == src then [(2, .chStart n)] else []) ++
      (if bit v 31 && fld v 16 12 == src then [(2, .chRst n)] else [])
    else if a % 0x100 = 0x48 then (if bit v 15 && fld v 0 12 == src then [(2, .chCap n)] else [])
    else []
  else if 0x160000 ≤ a ∧ a < 0x164000 then
    if a % 0x100 = 0x38 && bit v 15 && fld v 0 12 == src then [(2, .hedTrig ((a - 0x160000) / 0x100))] else []
  else if 0x171010 ≤ a ∧ a ≤ 0x17101C then
    if bit v 15 && fld v 0 12 == src then [(2, .adcTrig ((a - 0x171010) / 4))] else []
  else if 0x150000 ≤ a ∧ a < 0x151000 then
    let i := (a - 0x150000) / 0x100
    if a % 0x100 = 0x38 then (if fld v 0 2 == 1 && fld v 16 12 == src then [(2, .posLatch i)] else [])
    else if a % 0x100 = 0x6C then (if fld v 12 2 == 2 && fld v 0 12 == src then [(2, .posFrame i)] else [])
    else []
  else []

/-- The descriptors of a task-table half that a source triggers with a given TRIG (R55, R62): the valid ones that name it, in
the table as the last scan read it (R56). One that is invalid by its FRAME alone still answers (DESIGN CHOICE, log entry
31). -/
def triggered (s : State) (half trig src : Nat) : List Nat :=
  (s.shed.table.filter fun e =>
    e.1 % 4 == 0 && e.1 / 16384 == half && bit e.2 31 && fld e.2 6 2 == trig && fld e.2 12 12 == src &&
    decide (fld e.2 0 6 ≤ 31)).map fun e => e.1 / 4

/-- An express request for descriptor `d`, whose task starts with g1 (R62, R64, R67, R84): it waits for its engine,
merges into the request that waits, or is dropped by a held engine or one whose substitute is loading (R593). What it raises in turn is answered beside the
state. -/
def expressRequest (d : Nat) (g1 : Word) (p : State × List Nat) : State × List Nat :=
  let s := p.1
  let e := fld (tget 0 s.shed.table (4 * d)) 0 6
  if (engSt s e).held || (rf s (Reg.engEsts e) 0 3 == 5 && s.flt.copying) then (count (Reg.engSkipCnt e) s, p.2 ++ [2763])
  else if s.shed.exPend.any (fun x => x.desc == d) then (count Reg.shedExpMergeCnt s, p.2 ++ [2757])
  else (setb (Reg.engEsts e) 10 true <| schedule (s.time + 16 + if power s = 1 then 800 else 0) (.expressDue e)
    { s with shed := { s.shed with exPend := s.shed.exPend ++ [⟨d, g1, wd s.time⟩] } }, p.2)

/-- A raise for the event task of descriptor `d` (R55): its pending bit is set, or the raise merges. In the cycle of a scan
point it still counts for the pick that the scan prepares. -/
def taskRequest (d : Nat) (p : State × List Nat) : State × List Nat :=
  let s := p.1
  if s.shed.evPend.contains d then (count Reg.shedMergeCnt s, p.2 ++ [2758])
  else ({ s with shed := { s.shed with
    evPend := s.shed.evPend ++ [d]
    lateEv := if s.shed.scanAt = s.time + 1 then s.shed.lateEv ++ [d] else s.shed.lateEv } }, p.2)

/-- The half that serves an express request raised now: in the cycle of the switch point still the old one (R70). -/
def exHalfNow (s : State) : Nat := if s.shed.exAt = s.time + 1 then s.shed.exWas else s.shed.exHalf

/-- The next cycle in which the matrix advances: in SLUMBER it goes in steps of 16 lc (R417, R16). -/
def matrixNext (s : State) : Nat := if power s = 2 then (s.time / 16 + 1) * 16 else s.time + 1

/-- One raise of a source in this loom cycle, and the sources it raises in turn (R402, R406, R408, R506): SEEN is set,
the vector it is routed to and every action input that names it get it on their way, event tasks and express tasks are
requested, and a line event that names it is asserted. -/
def raiseOne (src : Nat) (s : State) : State × List Nat :=
  if !live s || reservedSource src || (s.ev.raisedAt == s.time && s.ev.raised.contains src) then (s, [])
  else
    let entry := entryNow src s
    let toVec := if bit entry 7 then [Wire.mk (matrixNext s) src (.vec (fld entry 0 6))] else []
    let toAct := (s.regs.flatMap (actionInputs src)).map fun x => Wire.mk (s.time + x.1) src x.2
    let seen := if s.ev.raisedAt == s.time then s.ev.raised else []
    let s := { s with ev := { raisedAt := s.time, raised := src :: seen, wires := s.ev.wires ++ toVec ++ toAct } }
    let s := forEach (toVec ++ toAct) (fun w => schedule w.at_ (.arrive w.dst)) s
    let s := setb (Reg.srct src) 16 true s
    let s := forEach (upto 0 8) (fun i => when_ (rb s (Reg.selLevsrc i) 15 && rf s (Reg.selLevsrc i) 0 12 == src)
      (setb Reg.selLevOut i true)) s
    let p := (triggered s (rf s Reg.shedTtsel 8 1) 2 src).foldl (fun p d => taskRequest d p) (s, [])
    (triggered s (exHalfNow s) 3 src).foldl (fun p d => expressRequest d (wd src) p) p

/-- Raises a list of sources and what they raise in turn, at most `fuel` raises. -/
def raiseList : Nat → List Nat → State → State
  | 0, _, s => s
  | _, [], s => s
  | fuel + 1, src :: l, s => let p := raiseOne src s; raiseList fuel (l ++ p.2) p.1

/-- Raises a source in this loom cycle (R402). -/
def raise (src : Nat) (s : State) : State := raiseList 64 [src] s

/-- The raises that have reached a consumer by now, and the state without them. -/
def takeWires (d : Dest) (s : State) : List Wire × State :=
  let due := fun w : Wire => w.dst == d && decide (w.at_ ≤ s.time)
  (s.ev.wires.filter due, { s with ev := { s.ev with wires := s.ev.wires.filter fun w => !due w } })

/-- A raise has reached a consumer by now. -/
def wireDue (d : Dest) (s : State) : Bool := s.ev.wires.any fun w => w.dst == d && decide (w.at_ ≤ s.time)

/-- The earliest raise on its way to a consumer. -/
def wireAt (s : State) (d : Dest) : Option Nat := ((s.ev.wires.filter fun w => w.dst == d).map fun w => w.at_).min?

/-- Sets a write-one-to-clear flag and raises a source. -/
def flagRaise (a i src : Nat) (s : State) : State := raise src (setb a i true s)

/-! ### Outcomes -/

/-- The outcome of a command whose effect takes place: the next state. -/
abbrev Result := Host.Outcome State Fault Refusal

/-- The next state. -/
def ok (s : State) : Result := .next s

/-- The effect of a command whose condition holds, and no effect where it does not (log entry 12). -/
def guarded (c : Bool) (f : State → State) (s : State) : Result := .next (if c then f s else s)

end Sys2Proof.Machine
end

