-- ==== Sys2Proof/Machine/Log.lean ====
section
/-!
DEFINITION. The event log of the tackler (17_tackler.md R559, R568 to R572): causes, their limits, the hardware queue and
the RAM ring.
-/

namespace Sys2Proof.Machine

/-- One second in loom cycles: an lc is 2.5 ns (R15). -/
def secondLc : Nat := 400000000

/-- A record is due to be copied to flash (R570): its severity, and its number not before the stored pointer. -/
def flashDue (s : State) (r : LogRec) : Bool :=
  decide (rf s Reg.tackLogCtl 0 3 ≤ r.sev) && decide (rn s Reg.tackLogFlseq ≤ r.seq.toNat)

/-- A record enters the RAM ring with the next number; the record that it overwrites may be lost to flash (R568, R570). -/
def logWrite (r : LogRec) (s : State) : State :=
  let r := { r with seq := rget s Reg.tackLogSeq }
  let lost := match s.log.ring[2047]? with | some o => flashDue s o | none => false
  let s := when_ lost (count Reg.tackLogLostCnt) s
  let s := { s with log := { s.log with ring := (r :: s.log.ring).take 2048 } }
  let s := rset Reg.tackLogSeq (rget s Reg.tackLogSeq + 1#32) s
  when_ (decide (rf s Reg.tackLogCtl 4 3 ≤ r.sev)) (raise 2914) s

/-- The processor cannot take a log cause: during a tackler restart or in SLUMBER wake (R559), and before the firmware runs
at boot. -/
def logBusy (s : State) : Bool := rb s Reg.tackSts 2 || s.log.waking || decide (s.tack.boot < 3)

/-- A log cause is lost (R559). -/
def logLose (s : State) : State :=
  let s := count Reg.tackLogLostCnt { s with log := { s.log with lost := s.log.lost + 1 } }
  flagRaise Reg.tackSts 8 2915 s

/-- A record of a cause is written, or queued while the processor cannot take it (R559). -/
def logPut (r : LogRec) (s : State) : State :=
  if !logBusy s then logWrite r s
  else if s.log.queue.length < 64 then { s with log := { s.log with queue := s.log.queue ++ [{ r with queued := true }] } }
  else logLose s

/-- A log cause of a class without a limit (R569). -/
def logCause (cls sev inst : Nat) (d0 d1 : Word) (s : State) : State :=
  logPut { time := s.time, cls := cls, sev := sev, inst := inst, d0 := d0, d1 := d1 } s

/-- A log cause of a class with a limit: at most one record per second and instance, further causes counted (R569). -/
def logLimited (cls sev inst : Nat) (d0 d1 : Word) (s : State) : State :=
  let key := cls * 65536 + inst
  match s.log.limit.find? fun e => e.1 == key with
  | some (_, (t, n)) =>
    if s.time < t + secondLc then
      { s with log := { s.log with limit := tset s.log.limit key (t, min 65535 (n + 1)) } }
    else
      logPut { time := s.time, cls := cls, sev := sev, inst := inst, cnt := n, d0 := d0, d1 := d1 }
        { s with log := { s.log with limit := tset s.log.limit key (s.time, 0) } }
  | none =>
    logPut { time := s.time, cls := cls, sev := sev, inst := inst, d0 := d0, d1 := d1 }
      { s with log := { s.log with limit := tset s.log.limit key (s.time, 0) } }

/-- The record of a write to a locked register: at most 16 per second (R535). -/
def logLocked (d0 d1 : Word) (s : State) : State :=
  let recent := s.log.locks.filter fun t => decide (s.time < t + secondLc)
  if 16 ≤ recent.length then s
  else logCause 0x0E01 1 0 d0 d1 { s with log := { s.log with locks := s.time :: recent } }

/-- The processor takes the queue, and reports what was lost (R559). -/
def logDrain (s : State) : State :=
  let q := s.log.queue
  let n := s.log.lost
  let s := forEach q logWrite { s with log := { s.log with queue := [], lost := 0 } }
  when_ (decide (0 < n)) (logWrite { time := s.time, cls := 0x0F09, sev := 2, d0 := wd n }) s

/-- A fault is detected (R597 to R599): the policy acts on it in this cycle. -/
def detect (c inst : Nat) (hs : List Nat) (inj : Bool) (s : State) : State :=
  { s with flt := { s.flt with det := s.flt.det ++ [⟨c, inst, hs, inj⟩] } }

/-- The harnesses that engine e serves (R69, R79); a substitute serves those of its engine (R590). -/
def serves (s : State) (e : Nat) : List Nat :=
  let e := if rb s (Reg.engEsts e) 23 then rf s (Reg.engEsts e) 16 6 else e
  (upto 0 64).filter fun h => if h < 32 then rb s (Reg.engServesLo e) h else rb s (Reg.engServesHi e) (h - 32)

/-! ### The bytes of a record (R568) -/

/-- The bits of a byte reversed, for the reflected CRC of R470. -/
def crcByte (crc : Word) (b : Byte) : Word :=
  (upto 0 8).foldl (fun c _ => if c.getLsbD 0 then (c >>> 1) ^^^ 0xEDB88320#32 else c >>> 1) (crc ^^^ b.zeroExtend 32)

/-- The CRC-32 of R470: polynomial 0x04C1_1DB7 reflected, initial value and final inversion of all ones. -/
def crc32 (bs : List Byte) : Word := ~~~ (bs.foldl crcByte 0xFFFFFFFF#32)

/-- The 32 bytes of a log record (R568). -/
def LogRec.bytes (r : LogRec) : List Byte :=
  let b := leBytes 4 r.seq.toNat ++ leBytes 8 r.time ++ leBytes 2 r.cls ++ leBytes 1 r.sev ++ leBytes 1 (b2n r.queued) ++
    leBytes 2 r.inst ++ leBytes 2 r.cnt ++ leBytes 4 r.d0.toNat ++ leBytes 4 r.d1.toNat
  b ++ leBytes 4 (crc32 b).toNat

end Sys2Proof.Machine
end

