-- ==== Sys2Proof/Machine/Phase.lean ====
section
/-!
DEFINITION. The interpolated position of a tracker (07_treadle_trackers.md R244 to R246, R257 to R259) and the crossing of
a position (06_card_chain.md R221). Positions are integers in 2^-16 pu, CYCLE × 2^40 + PHASE × 2^16 + fraction, CYCLE not
wrapped.
-/

namespace Sys2Proof.Machine

/-! ### Rate and acceleration (R257) -/

/-- rate = floor(span × 2^24 / T), span in pu, T in fine steps. -/
def segRate (span T : Nat) : Nat := if T = 0 then 0 else span * 2 ^ 29 / T

/-- acc: the change of rate over the mean of two intervals, truncated, limited so that the rate predicted one interval
after the anchoring tooth lies between half and twice the rate. Intervals in fine steps. -/
def segAcc (rate ratePrev T Tprev : Nat) : Int :=
  if T = 0 then 0
  else
    let acc := Int.tdiv (((rate : Int) - ratePrev) * 2 ^ 30) ((T : Int) + Tprev)
    let lo := -((rate * 2 ^ 29 / (3 * T) : Nat) : Int)
    let hi := ((rate * 2 ^ 30 / (3 * T) : Nat) : Int)
    max lo (min hi acc)

/-! ### The position -/

/-- phi_lin at the start of cycle c (R257). -/
def Seg.lin (g : Seg) (c : Nat) : Int :=
  let tau : Int := 32 * (c : Int) - g.t
  g.a + tau * ((g.rate : Int) * 2 ^ 30 + g.acc * (tau + g.T)) / 2 ^ 43

/-- The last cycle before the interpolation of a falling rate turns, for acc < 0: the zero of its derivative. -/
def Seg.turn (g : Seg) : Nat := (((((g.rate : Int) * 2 ^ 30) / (-g.acc) - g.T) / 2 + g.t) / 32).toNat

/-- phi at cycle c of one stretch: the highest value of the interpolation since the stretch began, not above the clamp,
and not below the position at its beginning (R246, R257). -/
def Seg.phi (g : Seg) (c : Nat) : Int :=
  if !g.moving || decide (c ≤ g.since) then g.base
  else
    let at_ := fun c' => g.lin (max (g.since + 1) (min c c'))
    let top := if g.acc < 0 then max (at_ c) (max (at_ g.turn) (at_ (g.turn + 1))) else g.lin c
    max g.base (min g.cap top)

/-- phi at cycle c of a list of stretches, newest first: the stretch that held then. -/
def segsPhi : List Seg → Nat → Int
  | [], _ => 0
  | [g], c => g.phi c
  | g :: rest, c => if c < g.since then segsPhi rest c else g.phi c

def trdSt (s : State) (t : Nat) : TrdSt := tget {} s.trd t
def modTrd (t : Nat) (f : TrdSt → TrdSt) (s : State) : State := { s with trd := tset s.trd t (f (trdSt s t)) }

/-- TRD[t].STS.STATE (R253): 0 OFF, 1 LOST, 2 CONFIRM, 3 SYNCED, 4 LIMP, 5 STALLED, 6 REVERSING. -/
def trdState (s : State) (t : Nat) : Nat := rf s (Reg.trdSts t) 0 3

/-- The tracker is lost in the sense of R208 (R253). -/
def trdLost (s : State) (t : Nat) : Bool := decide (trdState s t ≤ 2)

/-- The position of tracker t at the start of cycle c (R244); OFF reads 0 (R253). -/
def phi (s : State) (t c : Nat) : Int := if trdState s t = 0 then 0 else segsPhi (trdSt s t).segs c

/-- PHASE, its fraction bits and CYCLE of a position (R244). -/
def posPhase (p : Int) : Word := wd ((p / 2 ^ 16) % 2 ^ 24).toNat
def posFrac (p : Int) : Word := wd (p % 2 ^ 16).toNat
def posCycle (p : Int) : Word := wd ((p / 2 ^ 40) % 2 ^ 32).toNat

/-- The position of tracker t at an instant in fine steps, interpolated within its cycle as R221 does (R251), in 2^-21 pu, in
which it is exact. -/
def phiAt (s : State) (t i : Nat) : Int :=
  let a := phi s t (i / 32)
  let b := phi s t (i / 32 + 1)
  32 * a + (b - a) * (i % 32 : Nat)

/-- The rate of R217 at the present cycle (R259): the derivative of the interpolation, not below 0, and 0 while the
position is clamped or held. -/
def rateNow (s : State) (t : Nat) : Nat :=
  match (trdSt s t).segs with
  | [] => 0
  | g :: _ =>
    let c := s.time
    let lin := g.lin c
    if !g.moving || trdState s t < 3 || decide (g.cap ≤ lin) || decide (lin < g.phi c) then 0
    else
      let tau : Int := 32 * (c : Int) - g.t
      ((g.rate : Int) + g.acc * (2 * tau + g.T) / 2 ^ 30).toNat

/-- RATE is published (R259). -/
def publishRate (t : Nat) (s : State) : State := setNum (Reg.trdRate t) (rateNow s t) s

/-- A new stretch of the position, replacing what the earlier ones say from now on; those are kept as long as an edge
still on its way through a filter may ask for them (R251). -/
def pushSeg (t : Nat) (g : Seg) (s : State) : State :=
  let old := (trdSt s t).segs.span fun h => decide (s.time < h.since + 300000)
  modTrd t (fun x => { x with segs := g :: old.1 ++ old.2.take 1 }) s

/-- The position stops, or is set, at `p` (R246, R260, R263). -/
def holdAt (t : Nat) (p : Int) (s : State) : State := pushSeg t { since := s.time, base := p } s

/-! ### Crossings (R221) -/

/-- The first cycle c in [lo, lo + 2^k) with phi(c + 1) at or above p, by halving; phi does not fall (R246). -/
def crossSearch (f : Nat → Int) (p : Int) : Nat → Nat → Nat
  | 0, lo => lo
  | k + 1, lo => if f (lo + 2 ^ k) < p then crossSearch f p k (lo + 2 ^ k) else crossSearch f p k lo

/-- The instant at which the position of tracker t crosses p, from the present cycle on (R221): none where the present
stretch does not reach it, or where it lies behind; a step of device time that is due comes with the next cycle (R502). -/
def crossing (s : State) (t : Nat) (p : Int) : Option Inst :=
  let dev := fun c => if s.time < c then c + s.sel.skip else c
  let f := fun c => phi s t (dev c)
  if p ≤ f s.time || f (s.time + 2 ^ 40) < p then none
  else
    let c := crossSearch f p 40 s.time
    let a := f c
    let d := f (c + 1) - a
    let x := ((32 * (p - a) + d - 1) / d).toNat
    some (if x = 32 then ⟨dev (c + 1), 0⟩ else ⟨dev c, x⟩)

/-! ### Live items -/

/-- TRD[t].STS as it reads: the flag LOWRATE is the SLUMBER form (R276). -/
def trdStsView (s : State) (t : Nat) : Word :=
  setBit (rget s (Reg.trdSts t)) 7 (decide (power s = 2) && decide (0 < trdState s t))

/-- A read of PHASE captures PHASE_FR and CYCLE (R274). -/
def phaseReadOp (t : Nat) (s : State) : Word × State :=
  let p := phi s t s.time
  (posPhase p, rset (Reg.trdPhaseFr t) (posFrac p) (rset (Reg.trdCycle t) (posCycle p) s))

/-! ### The mode and the trackers (R32, R423) -/

/-- Tracker t is required for RUN: CTL.REQ (R423). -/
def trdReq (s : State) (t : Nat) : Bool := rb s (Reg.trdCtl t) 7

/-- A mode in which every pin shows SAFE (R190). -/
def safeMode (m : Nat) : Bool := decide (m = 3 ∨ m = 8 ∨ m = 9)

/-- GCTL.MODE.MODE takes a value; a change raises 2,885 (R426). -/
def modeReport (m : Nat) (s : State) : State :=
  if mode s = m then s
  else raise 2885 (when_ (safeMode m != safeMode (mode s)) (noteSafe 64) (setf Reg.gctlMode 0 4 m s))

/-- RUN as it reports itself: LIMP while a tracker limps (R32). -/
def runMode (s : State) : Nat := if (upto 0 4).any fun t => trdState s t == 4 then 6 else 5

/-- The automatic transitions between ARMED and RUN, and the report of LIMP (R423, R32). -/
def modeAuto (s : State) : State :=
  let req := (upto 0 4).filter fun t => trdReq s t
  if mode s = 4 then
    if req.all fun t => trdState s t == 3 then modeReport (runMode s) s else s
  else if inRun s then
    if req.any fun t => decide (trdState s t ≤ 2) then modeReport 4 s else modeReport (runMode s) s
  else s

end Sys2Proof.Machine
end

