-- ==== Sys2Proof/Machine/Reed.lean ====
section
/-!
DEFINITION. Operations of the reed output stage (05_pulse_trains_and_reed.md): the level of a pin (R189 to R193), dead
time and the narrow rule (R174, R181), trip inputs, cuts, suppression and blanking (R182 to R188), SAFE release (R191).
-/

namespace Sys2Proof.Machine

/-- A level at a pin: driver off, or driven. -/
inductive PinOut where
  | z
  | drv (high : Bool)
  deriving DecidableEq, Repr

/-- CH[n].CTL.MODE (R137). -/
def chMode (s : State) (n : Nat) : Nat := rf s (Reg.chCtl n) 0 4

/-- An output mode (R184): PWM_EDGE, PWM_PAIR, ONE_SHOT, COMPARE_OUT, CARD_OUT, SHUTTLE_OUT. -/
def outputMode (m : Nat) : Bool := decide (1 ≤ m ∧ m ≤ 4 ∨ m = 9 ∨ m = 10)

/-- Pin n is owned by its channel (R22). -/
def chOwned (s : State) (n : Nat) : Bool := ownerOf s n == .channel

/-- Both pins of reed k are channel-owned (R19). -/
def bothOwned (s : State) (k : Nat) : Bool := chOwned s (2 * k) && chOwned s (2 * k + 1)

/-- REED[k].PINA or PINB of pin n. -/
def pinReg (n : Nat) : Nat := if n % 2 = 0 then Reg.reedPina (n / 2) else Reg.reedPinb (n / 2)

/-- The SAFE level of pin n (R190). -/
def safeLevel (s : State) (n : Nat) : PinOut :=
  match rf s (pinReg n) 0 2 with
  | 0 => .drv false
  | 1 => .drv true
  | _ => .z

/-- Harness h is in SAFE-HOLD (R427): its bit of PWR.HOLD_LO or HOLD_HI. -/
def harnHeld (s : State) (h : Nat) : Bool :=
  if h < 32 then rb s Reg.pwrHoldLo h else rb s Reg.pwrHoldHi (h - 32)

/-- A condition of R190 holds for pin n, the ownership interval and a pulse ended at SAFE apart. -/
def safeCond (s : State) (n : Nat) : Bool :=
  decide (mode s = 3 ∨ mode s = 9 ∨ mode s = 8 ∨ power s = 2) || harnHeld s (n / 8)

/-- The channel of reed k's PWM_PAIR drives both pins (R139). -/
def isPair (s : State) (k : Nat) : Bool := decide (chMode s (2 * k) = 2)

/-- The latches and directions of heddle engine e as they show at its pins now (R311). -/
def hedPins (s : State) (e : Nat) : Nat × Nat :=
  match (tget ({} : HedSt) s.hed e).outs.find? fun x => decide (x.1 ≤ s.time) with
  | some x => x.2
  | none => (0, 0)

/-- The owner of pin n drives it (R143, R193.4): an output mode, a heddle pin whose direction is output (R310), the
clock of a serial position interface (R296). -/
def ownerDrives (s : State) (n : Nat) : Bool :=
  match ownerOf s n with
  | .channel => outputMode (chMode s n) || (n % 2 == 1 && isPair s (n / 2) && chOwned s (n - 1))
  | .heddle e r => (hedPins s e).2.testBit r
  | .position i r => decide (r = 1) && rb s (Reg.posCtl i) 0 && rf s (Reg.posCtl i) 1 1 == 1

/-- SWAP acts on reed k: both pins channel-owned and CTL.SWAP = 1 (R19, R180). -/
def swapped (s : State) (k : Nat) : Bool := bothOwned s k && rb s (Reg.reedCtl k) 0

/-- The channel whose request pin n carries after SWAP (R180, R191), channel 2k for a PWM_PAIR. -/
def carrier (s : State) (n : Nat) : Nat :=
  let k := n / 2
  let c := if swapped s k then (if n % 2 = 0 then n + 1 else n - 1) else n
  if isPair s k && bothOwned s k then 2 * k else c

/-- The pins that channel c feeds at step 4 of R180. -/
def feeds (s : State) (c : Nat) : List Nat :=
  [2 * (c / 2), 2 * (c / 2) + 1].filter fun n => chOwned s n && carrier s n == c

/-- Bit of HARN[h].TRIPSTS.CUT: channel c is cut or suppressed in its present period (R198). -/
def isCut (s : State) (c : Nat) : Bool := rb s (Reg.harnTripsts (c / 8)) (16 + c % 8)

/-- An instant in fine steps. -/
def Inst.steps (t : Inst) : Nat := 32 * t.lc + t.fine

/-- The last edge of a side has passed the narrow rule: 2 lc lie behind it (R174). -/
def SideSt.settled (d : SideSt) (now : Nat) : Bool :=
  match d.edge with
  | none => true
  | some (t, _) => decide (t.steps + 64 ≤ 32 * now)

/-- The output of the dead-time stage of a side: an edge shows once the narrow rule can no longer remove it (R174; log
entry 13). -/
def SideSt.out (d : SideSt) (now : Nat) : Bool :=
  match d.edge with
  | none => d.level
  | some (_, lv) => if d.settled now then lv else d.level

/-- A side of a reed. -/
def side (s : State) (n : Nat) : SideSt := if n % 2 = 0 then (reedSt s (n / 2)).a else (reedSt s (n / 2)).b

def modSide (n : Nat) (f : SideSt → SideSt) (s : State) : State :=
  modReed (n / 2) (fun r => if n % 2 = 0 then { r with a := f r.a } else { r with b := f r.b }) s

/-- Rising edges of a frame of position interface i: B = LEAD + LEN + ERR_EN + CRC_W (R296). -/
def frameBits (s : State) (i : Nat) : Nat :=
  let r := Reg.posSer1 i
  rf s r 0 3 + rf s r 16 6 + rf s r 22 1 + rf s r 26 5

/-- The level of the serial clock of interface i (R296): high when idle; low from the frame start, rising after HALF lc,
and so on to the last rising edge. -/
def posClk (s : State) (i : Nat) : Bool :=
  match (tget {} s.pos i).frame with
  | none => true
  | some t0 =>
    let half := max 1 (rf s (Reg.posSer0 i) 0 12)
    let d := (s.time - t0) / half
    decide (2 * frameBits s i ≤ d + 1) || d % 2 == 1

/-- The level of a heddle or position pin by its owner (R310, R296). -/
def unitLevel (s : State) (n : Nat) : Bool :=
  match ownerOf s n with
  | .channel => false
  | .heddle e r => (hedPins s e).1.testBit r
  | .position i _ => posClk s i

/-- The boundary register acts on the pins (R574): EXTEST, CLAMP or HIGHZ is loaded, debug is open, and the device is in
MAINTENANCE or RST_N is held low. -/
def bscanActs (s : State) : Bool :=
  decide (s.tap.ir = 0 ∨ s.tap.ir = 4 ∨ s.tap.ir = 5) && rb s Reg.tackDbgctl 0 && (decide (mode s = 9) || s.tap.rstLow)

/-- Pin n was cut, or went to SAFE or left it, in this cycle (R173, R191). -/
def switchedNow (s : State) (n : Nat) : Bool :=
  decide ((chSt s n).swAt = s.time + 1) || (cycNow s).safeSw.any fun h => h == 64 || h == n / 8

/-- Pin n is switched in this cycle (R173, R191). -/
def noteSwitch (n : Nat) (s : State) : State := modCh n (fun x => { x with swAt := s.time + 1 }) s

/-- The owner of pin n is enabled: the interval of R28 ends. -/
def endHandover (n : Nat) (s : State) : State :=
  if (chSt s n).handover then noteSwitch n (modCh n (fun x => { x with handover := false }) s) else s

/-- Pin n is not yet released: a channel-owned pin until the period start, another in the cycle in which its last SAFE
condition ends (R191). -/
def unreleased (s : State) (n : Nat) : Bool := if chOwned s n then !(chSt s n).released else switchedNow s n

/-- The level of warp pin n (R193), the first rule of eight that applies. -/
def pinOut (s : State) (n : Nat) : PinOut :=
  if bscanActs s then (if s.tap.ir = 5 then .z else .drv (s.tap.cells.getLsbD n))
  else if mode s < 3 then .z
  else if (chSt s n).handover then safeLevel s n
  else if !ownerDrives s n then .z
  else if safeCond s n || unreleased s n then safeLevel s n
  else if !chOwned s n then .drv (unitLevel s n)
  else
    let inv := rb s (pinReg n) 2
    if isCut s (carrier s n) then .drv inv else .drv ((side s n).out s.time ^^ inv)

/-- The level sensed at pad n: what the world last put there (R194, log entry 6). -/
def padLevel (s : State) (n : Nat) : Bool :=
  match (chSt s n).trans with
  | [] => (chSt s n).level
  | t :: _ => t.level

/-- REED[k].LVL as it reads (R194, R201). -/
def reedLvl (s : State) (k : Nat) : Word :=
  let int := fun n => match pinOut s n with | .drv b => b2n b | .z => 0
  wd (int (2 * k) + 2 * int (2 * k + 1) + 16 * b2n (padLevel s (2 * k)) + 32 * b2n (padLevel s (2 * k + 1)))

/-- Pin n shows its SAFE level (R201 SAFE_A, SAFE_B). -/
def showsSafe (s : State) (n : Nat) : Bool :=
  decide (3 ≤ mode s) && !bscanActs s &&
    ((chSt s n).handover || (ownerDrives s n && (safeCond s n || unreleased s n)))

/-- REED[k].STS as it reads: the stored flags and the live bits (R201). -/
def reedStsView (s : State) (k : Nat) : Word :=
  let cutBit := fun n => chOwned s n && isCut s (carrier s n)
  let drvBit := fun n => pinOut s n != .z
  let w := rget s (Reg.reedSts k)
  setBit (setBit (setBit (setBit (setBit (setBit w 8 (cutBit (2 * k))) 9 (cutBit (2 * k + 1)))
    10 (showsSafe s (2 * k))) 11 (showsSafe s (2 * k + 1))) 12 (drvBit (2 * k))) 13 (drvBit (2 * k + 1))

/-! ### Dead time and the narrow rule -/

/-- An edge at the output of the dead-time stage (R174): it removes the edge before it, and itself, when less than 2 lc
lie between them; otherwise that edge stands and this one is last. -/
def stageEdge (n : Nat) (t : Inst) (lv : Bool) (s : State) : State :=
  let d := side s n
  match d.edge with
  | some (t0, lv0) =>
    if lv = lv0 then s
    else if t.steps < t0.steps + 64 then
      count (Reg.reedSwlCnt (n / 2)) (setb (Reg.reedSts (n / 2)) 4 true (modSide n (fun d => { d with edge := none }) s))
    else modSide n (fun d => { d with level := lv0, chg := t0.lc + 1, fine := t0.fine, edge := some (t, lv) }) s
  | none => if lv = d.level then s else modSide n (fun d => { d with edge := some (t, lv) }) s

/-- The dead time of pin n in lc: DTA or DTB of its reed, where both pins are channel-owned (R19, R181). -/
def deadTime (s : State) (n : Nat) : Nat :=
  if bothOwned s (n / 2) then rf s (Reg.reedDt (n / 2)) (if n % 2 = 0 then 0 else 16) 10 else 0

/-- The request of a side changes at an instant (R181): an active edge waits for its dead time, an inactive edge is
not delayed, and a request that ends inside its dead time is swallowed. Where one pin alone is channel-owned, the edge stands as
it is, with its fine part (R172, R180). -/
def requestEdge (n : Nat) (t : Inst) (lv : Bool) (s : State) : State :=
  if (side s n).req = lv then s
  else
    let s := modSide n (fun d => { d with req := lv }) s
    if !bothOwned s (n / 2) then
      modSide n (fun d => { d with due := none, edge := none, level := lv, chg := t.lc + 1, fine := t.fine }) s
    else if lv then
      if deadTime s n = 0 then stageEdge n t true s
      else modSide n (fun d => { d with due := some { t with lc := t.lc + deadTime s n } }) s
    else if ((side s n).due).isSome then
      count (Reg.reedSwlCnt (n / 2)) (setb (Reg.reedSts (n / 2)) 3 true (modSide n (fun d => { d with due := none }) s))
    else stageEdge n t false s

/-- The channel output before the reed, STS.OUT (R165). -/
def chOut (s : State) (n : Nat) : Bool := rb s (Reg.chSts n) 17

/-- The request that pin n carries (R180 steps 1 and 2; R19 where only one pin is channel-owned). -/
def requestOf (s : State) (n : Nat) : Bool :=
  let k := n / 2
  let a := chOut s (2 * k)
  let b := if isPair s k then !a else chOut s (2 * k + 1)
  if !bothOwned s k then chOut s n
  else if (n % 2 == 0) != swapped s k then a else b

/-- The requests of a pair are taken anew after an output or the pairing changed (R180). -/
def refreshPair (k : Nat) (t : Inst) (s : State) : State :=
  let s := if chOwned s (2 * k) then requestEdge (2 * k) t (requestOf s (2 * k)) s else s
  if chOwned s (2 * k + 1) then requestEdge (2 * k + 1) t (requestOf s (2 * k + 1)) s else s

/-! ### Trip inputs -/

/-- Comparator c's output and INDET, as WIN[c / 2].STS shows them (R362). -/
def cmpOut (s : State) (c : Nat) : Bool := rb s (Reg.winSts (c / 2)) (c % 2)
def cmpIndet (s : State) (c : Nat) : Bool := rb s (Reg.winSts (c / 2)) (3 + c % 2)

/-- Trip input i of harness h counts as active because of INDET (R182). -/
def tripIndet (s : State) (h i : Nat) : Bool :=
  let r := Reg.harnTrip h i
  match rf s r 0 2 with
  | 1 => rb s (Reg.chSts (rf s r 4 9)) 19
  | 2 => cmpIndet s (rf s r 4 9)
  | 3 => (upto (rf s r 4 9) (rf s r 24 3 + 1)).any fun w => rb s (Reg.winSts w) 5
  | _ => false

/-- The effective level of trip input i of harness h (R182): its kind, inverted by POL, or INDET. -/
def tripLevel (s : State) (h i : Nat) : Bool :=
  let r := Reg.harnTrip h i
  match rf s r 0 2 with
  | 1 => tripIndet s h i || ((chSt s (rf s r 4 9)).sync ^^ rb s r 2)
  | 2 => tripIndet s h i || (cmpOut s (rf s r 4 9) ^^ rb s r 2)
  | 3 => tripIndet s h i ||
      (((upto (rf s r 4 9) (rf s r 24 3 + 1)).any fun w => rb s (Reg.winSts w) 2) ^^ rb s r 2)
  | _ => false

/-- A blanking window of reed k is open in cycle `now` (R186): a change of either request at the output of the
dead-time stage, out of those that `c` admits, lies less than LEN lc back. -/
def blankBy (c : SideSt → Bool) (s : State) (k : Nat) (now : Nat) : Bool :=
  let len := rf s (Reg.reedBlank k) 0 10
  let inWin := fun t : Nat => decide (t ≤ now ∧ now < t + len)
  let sideOpen := fun d : SideSt =>
    (decide (0 < d.chg) && inWin (d.chg - 1)) || (match d.edge with | some (t, _) => c d && inWin t.lc | none => false)
  sideOpen (reedSt s k).a || sideOpen (reedSt s k).b

/-- A blanking window of reed k is open in cycle `now`, or would be by an edge that the narrow rule may still remove. -/
def blankOpen (s : State) (k : Nat) (now : Nat) : Bool := blankBy (fun _ => true) s k now

/-- A blanking window of reed k is open in cycle `now` by edges that the narrow rule has let stand (R174, R186). -/
def blankStands (s : State) (k : Nat) (now : Nat) : Bool := blankBy (fun d => d.settled s.time) s k now

/-- A trip input acts on channel c: an output mode that feeds a channel-owned pin (R184). -/
def tripEligible (s : State) (c : Nat) : Bool := outputMode (chMode s c) && !(feeds s c).isEmpty

/-- The channels of the MASK of trip input i of harness h on which it can act (R184). -/
def tripChannels (s : State) (h i : Nat) : List Nat :=
  ((upto 0 8).filter fun j => rb s (Reg.harnTrip h i) (16 + j) && tripEligible s (8 * h + j)).map fun j => 8 * h + j

/-- Trip input i of harness h acts on channels (R184, R188): those not yet cut in their period are cut; TRIPF is set
and the trip's source raised when the input acts on any. -/
def tripAct (h i : Nat) (cs : List Nat) (s : State) : State :=
  if cs.isEmpty then s
  else
    let s := forEach cs (fun c s =>
      if isCut s c then s
      else count (Reg.reedCutCnt (c / 2)) (setb (Reg.reedSts (c / 2)) 0 true
        (setb (Reg.harnTripsts h) (16 + c % 8) true (forEach (feeds s c) noteSwitch s)))) s
    flagRaise (Reg.harnTripsts h) i (2048 + 4 * h + i) s

/-- Input i of the harness is ignored for reed k by blanking (R186). -/
def ignored (s : State) (k i : Nat) : Bool := (reedSt s k).ign.getLsbD i

def setIgn (k i : Nat) (b : Bool) (s : State) : State :=
  modReed k (fun r => { r with ign := if b then r.ign ||| (1#4 <<< i) else r.ign &&& ~~~ (1#4 <<< i) }) s

/-- The first cycle from now on in which no blanking window of reed k is open (R186). -/
def blankEnd (s : State) (k : Nat) : Nat :=
  let len := rf s (Reg.reedBlank k) 0 10
  let last := fun d : SideSt =>
    max (if d.chg = 0 then 0 else d.chg - 1 + len) (match d.edge with | some (t, _) => t.lc + len | none => 0)
  max s.time (max (last (reedSt s k).a) (last (reedSt s k).b))

/-- Input i is ignored for reed k until its windows have closed (R186), and what it then does comes within the bound of R21. -/
def ignoreInput (k i : Nat) (s : State) : State := schedule (blankEnd s k + 8) (.blankEnd k) (setIgn k i true s)

/-- The mask of the channels of harness h that a test admits, bit j for channel 8h + j. -/
def chanMask (h : Nat) (c : Nat → Bool) : Nat := (upto 0 8).foldl (fun m j => if c (8 * h + j) then m + 2 ^ j else m) 0

/-- The MASK of trip input i of harness h. -/
def tripMask (s : State) (h i : Nat) : Nat := rf s (Reg.harnTrip h i) 16 8

/-- A new onset of trip input i of harness h on channels of its MASK (R184): the narrow rule decides within 3 lc which edges
of its pairs stand, and then the onset is judged against their windows (R186; log entry 13). -/
def tripOnset (h i chs : Nat) (s : State) : State :=
  let open_ := (upto 0 4).foldl (fun m j => if blankStands s (4 * h + j) s.time then m + 2 ^ j else m) 0
  modHarn h (fun x => { x with onsets := x.onsets ++ [{ i, at_ := s.time, chs, open_ }] })
    (schedule (s.time + 3) (.tripJudge h) s)

/-- The edges of harness h up to the cycle of an onset are decided (R174). -/
def onsetRipe (s : State) (h : Nat) (o : Onset) : Bool :=
  let done := fun d : SideSt => match d.edge with | some (t, _) => d.settled s.time || decide (o.at_ < t.lc) | none => true
  decide (o.at_ < s.time) && (upto (4 * h) 4).all fun k => done (reedSt s k).a && done (reedSt s k).b

/-- An onset acts on pair j of harness h (R186): a cycle from the onset on, the input still active, in which no window of the
pair is open. -/
def onsetActs (s : State) (h j : Nat) (o : Onset) : Bool :=
  let k := 4 * h + j
  let last := max (o.at_ + 1) (o.ended.getD (s.time + 1))
  (!o.open_.testBit j && !blankStands s k o.at_) ||
    (upto (o.at_ + 1) (last - (o.at_ + 1))).any fun c => !blankOpen s k c

/-- The bound of an onset's cut (R21): 8 lc from the change, 3 of which the synchroniser has taken for a pin (R183). -/
def cutBound (s : State) (h i : Nat) (o : Onset) : Nat := o.at_ + if rf s (Reg.harnTrip h i) 0 2 = 1 then 5 else 8

/-- An onset is judged pair by pair (R184, R186): ignored, with BLNKF and BLNK_CNT where the input has become inactive, or
its channels are about to be cut, at the latest at the bound of R21. -/
def onsetJudge (h : Nat) (o : Onset) (s : State) : State :=
  let chs := fun j => (o.chs / 4 ^ j) % 4 * 4 ^ j
  let mine := (upto 0 4).filter fun j => [8 * h + 2 * j, 8 * h + 2 * j + 1].any fun c => o.chs.testBit (c % 8) && tripEligible s c
  let acts := mine.filter fun j => onsetActs s h j o
  let s := forEach (mine.filter fun j => !onsetActs s h j o) (fun j s =>
    let k := 4 * h + j
    if o.ended.isSome then count (Reg.reedBlnkCnt k) (setb (Reg.reedSts k) 2 true s) else ignoreInput k o.i s) s
  let m := acts.foldl (fun m j => m ||| chs j) 0
  if m = 0 then s
  else schedule (max s.time (cutBound s h o.i o)) (.tripCut h o.i)
    (modHarn h (fun x => { x with cutDue := tset x.cutDue o.i (tget 0 x.cutDue o.i ||| m) }) s)

/-- The onsets of harness h whose edges are decided are judged. -/
def tripJudgeOp (h : Nat) (s : State) : State :=
  let now := (harnSt s h).onsets.filter fun o => onsetRipe s h o
  forEach now (onsetJudge h) (modHarn h (fun x => { x with onsets := x.onsets.filter fun o => !onsetRipe s h o }) s)

/-- The cut of trip input i of harness h (R184): it acts on the channels that await it. -/
def tripCutOp (h i : Nat) (s : State) : State :=
  let m := tget 0 (harnSt s h).cutDue i
  if m = 0 then s
  else tripAct h i (((upto 0 8).filter fun j => m.testBit j && tripEligible s (8 * h + j)).map fun j => 8 * h + j)
    (modHarn h (fun x => { x with cutDue := tset x.cutDue i 0 }) s)

/-- Trip input i of harness h has become inactive (R186): onsets still ignored end without effect. -/
def tripEnd (h i : Nat) (s : State) : State :=
  let s := modHarn h (fun x => { x with onsets := x.onsets.map fun o =>
    if o.i = i ∧ o.ended = none then { o with ended := some s.time } else o }) s
  forEach (upto (4 * h) 4) (fun k s =>
    if ignored s k i then count (Reg.reedBlnkCnt k) (setb (Reg.reedSts k) 2 true (setIgn k i false s)) else s) s

/-- The live level of trip input i of harness h is taken anew after a pin, a comparator or its selection changed:
TRIP_LIVE and INDET of TRIPSTS (R188, R198), an onset or an end. -/
def refreshTrip (h i : Nat) (s : State) : State :=
  let was := rb s (Reg.harnTripsts h) (8 + i)
  let now := tripLevel s h i
  let s := setb (Reg.harnTripsts h) (12 + i) (tripIndet s h i) (setb (Reg.harnTripsts h) (8 + i) now s)
  if now && !was then tripOnset h i (tripMask s h i) s else if was && !now then tripEnd h i s else s

/-- Trip input i of channel c's harness, active until now with MASK `mask`, acts on c, or is about to or ignored (R182, R186). -/
def tripActing (s : State) (i mask c : Nat) : Bool :=
  let x := harnSt s (c / 8)
  mask.testBit (c % 8) && (isCut s c || ignored s (c / 2) i || (tget 0 x.cutDue i).testBit (c % 8) ||
    x.onsets.any fun o => o.i == i && o.chs.testBit (c % 8))

/-- TRIP[i] of harness h has been written, its MASK before being `mask` (R182): an input that stays active acts as an onset on
the channels of its MASK on which it is not acting already. -/
def tripRewrite (h i mask : Nat) (was : Bool) (s : State) : State :=
  let new := chanMask h fun c => (tripMask s h i).testBit (c % 8) && !tripActing s i mask c
  let s := refreshTrip h i s
  if was && rb s (Reg.harnTripsts h) (8 + i) && decide (new ≠ 0) then tripOnset h i new s else s

/-- The trip inputs whose selection is not none. -/
def tripsInUse (s : State) : List (Nat × Nat) :=
  (s.regs.filter fun e =>
    decide (0x120000 ≤ e.1 ∧ e.1 < 0x124000 ∧ 0x10 ≤ e.1 % 0x100 ∧ e.1 % 0x100 ≤ 0x1C) && fld e.2 0 2 != 0).map
    fun e => ((e.1 - 0x120000) / 0x100, (e.1 % 0x100 - 0x10) / 4)

/-- All trip inputs in use are taken anew. -/
def refreshTrips (s : State) : State := forEach (tripsInUse s) (fun x => refreshTrip x.1 x.2) s

/-! ### Periods -/

/-- The SAFE level of a channel's pins is released at its period start, unless a condition of R190 still holds
(R191). -/
def releasePins (c : Nat) (s : State) : State :=
  forEach (feeds s c) (fun n s =>
    if safeCond s n || (chSt s n).handover || (chSt s n).released then s
    else noteSwitch n (modCh n (fun x => { x with released := true }) s)) s

/-- An onset of input i that is not yet judged fell inside a window of channel c's pair (R185, R186; log entry 13). -/
def onsetBlanked (s : State) (c i : Nat) : Bool :=
  (harnSt s (c / 8)).onsets.any fun o => o.i == i && (blankOpen s (c / 2) o.at_ || o.open_.testBit (c % 8 / 2))

/-- Trip input i of harness h is about to cut channel c no longer. -/
def cutDone (i c : Nat) : State → State :=
  modHarn (c / 8) fun x => { x with
    cutDue := tset x.cutDue i ((upto 0 8).foldl (fun m j => if (tget 0 x.cutDue i).testBit j && j != c % 8 then m + 2 ^ j else m) 0) }

/-- An onset from before this cycle acts on channel c in the period that ends now (R184, R186). -/
def onsetInPeriod (s : State) (c : Nat) (o : Onset) : Bool :=
  decide (o.at_ < s.time) && o.chs.testBit (c % 8) &&
    onsetActs s (c / 8) (c % 8 / 2) { o with ended := some (min s.time (o.ended.getD s.time)) }

/-- The period of channel c ends before trips that act in it have cut it (R184): they count in it, and touch no later one. -/
def periodFlush (c : Nat) (s : State) : State :=
  let h := c / 8
  let pend := (upto 0 4).filter fun i => (tget 0 (harnSt s h).cutDue i).testBit (c % 8)
  let s := forEach pend (fun i s => cutDone i c (tripAct h i (if tripEligible s c then [c] else []) s)) s
  let acts := (harnSt s h).onsets.filter fun o => onsetInPeriod s c o
  let past := fun o : Onset => if onsetInPeriod s c o then { o with chs := o.chs - 2 ^ (c % 8) } else o
  let s := modHarn h (fun x => { x with onsets := x.onsets.map past }) s
  forEach acts (fun o s => tripAct h o.i (if tripEligible s c then [c] else []) s) s

/-- A period of channel c starts (R171): what the trip inputs do about it goes by their level in this cycle (R185), at whose end it
is taken, behind every edge of the pair that falls in it (R186). -/
def periodStart (c : Nat) (s : State) : State := schedule s.time (.period c) s

/-- The period of channel c that started in this cycle: the one before it ends, the trip inputs of its MASK suppress it or end
a cut (R185), its pins leave their SAFE level (R191), and STS.WAIT ends (R228). -/
def periodOp (c : Nat) (s : State) : State :=
  let s := periodFlush c s
  let h := c / 8
  let acting := (upto 0 4).filter fun i => rb s (Reg.harnTrip h i) (16 + c % 8) && rb s (Reg.harnTripsts h) (8 + i) &&
    !ignored s (c / 2) i && !onsetBlanked s c i
  let s :=
    if !tripEligible s c || acting.isEmpty then
      setb (Reg.harnTripsts h) (16 + c % 8) false (if isCut s c then forEach (feeds s c) noteSwitch s else s)
    else
      let s := setb (Reg.harnTripsts h) (16 + c % 8) true (if isCut s c then s else forEach (feeds s c) noteSwitch s)
      let s := setb (Reg.reedSts (c / 2)) 1 true (count (Reg.harnSuppCnt h) s)
      forEach acting (fun i => flagRaise (Reg.harnTripsts h) i (2048 + 4 * h + i)) s
  releasePins c (setb (Reg.chSts c) 20 false s)

/-- The output of channel n becomes active or inactive at an instant (R137); in CARD_OUT and SHUTTLE_OUT an active edge
starts a period (R171). -/
def setOut (n : Nat) (lv : Bool) (t : Inst) (s : State) : State :=
  if chOut s n = lv then s
  else
    let s := refreshPair (n / 2) t (setb (Reg.chSts n) 17 lv s)
    if lv && decide (9 ≤ chMode s n) then periodStart n s else s

/-- The pins of the device show SAFE and wait for a release (R190, R191). -/
def unreleaseAll (s : State) : State :=
  noteSafe 64 { s with ch := s.ch.map fun x => (x.1, { x.2 with released := false }) }

/-- The pins of harness h show SAFE and wait for a release (R190, R191). -/
def unreleaseHarness (h : Nat) (s : State) : State :=
  noteSafe h (forEach (upto (8 * h) 8) (fun n => modCh n fun x => { x with released := false }) s)

end Sys2Proof.Machine
end

