-- ==== Sys2Proof/Machine/Channel.lean ====
section
/-!
DEFINITION. Operations of the channel counters (04_channel_counters.md): events and their prescalers (R161, R162),
transfers (R175 to R179), ticks (R135 to R142), captures and measurements (R152 to R159), live writes (R145, R146), mode
changes (R138), and the input filters (R149, R150, R630).
-/

namespace Sys2Proof.Machine

/-- HARN[h].PRESC's division P (R133); in the cycle in which a write of it lands, the one before (R148). -/
def prescP (s : State) (h : Nat) : Nat :=
  if (harnSt s h).prescAt = s.time + 1 then (harnSt s h).prescWas else rf s (Reg.harnPresc h) 0 8 + 1

/-- A write of HARN[h].PRESC: a tick in the landing cycle follows the old P (R148). -/
def writePresc (h : Nat) (v : Word) (s : State) : State :=
  rset (Reg.harnPresc h) (v &&& 0xFF#32)
    (modHarn h (fun x => { x with prescAt := s.time + 1, prescWas := prescP s h }) s)

/-- The fine part of an A or B edge: it acts at P = 1 only (R140), and not at a tick in skipped device time (R502). -/
def fineActs (s : State) (n : Nat) : Bool := decide (prescP s (n / 8) = 1) && !(harnSt s (n / 8)).late
def fineA (s : State) (n : Nat) : Nat := if fineActs s n then rf s (Reg.chFine n) 0 5 else 0
def fineB (s : State) (n : Nat) : Nat := if fineActs s n then rf s (Reg.chFine n) 8 5 else 0

/-- An occurrence of event i of channel n: 0 WRAP, 1 MATCHA, 2 MATCHB, 3 CAP (R161). Its source is raised on every D-th
occurrence (R162). -/
def chEvent (n i : Nat) (s : State) : State :=
  if chMode s n = 0 then s
  else
    let s := when_ (decide (i < 3)) (setb (Reg.chSts n) (2 + i) true) s
    let c := tget 0 (chSt s n).occ i + 1
    if rf s (Reg.chEvcfg n) (4 * i) 4 < c then raise (4 * n + i) (modCh n (fun x => { x with occ := tset x.occ i 0 }) s)
    else modCh n (fun x => { x with occ := tset x.occ i c }) s

/-- The arm of channel n, in HARN[n / 8].LDSTS.ARMED (R175). -/
def armed (s : State) (n : Nat) : Bool := rb s (Reg.harnLdsts (n / 8)) (n % 8)
def setArmed (n : Nat) (b : Bool) (s : State) : State := setb (Reg.harnLdsts (n / 8)) (n % 8) b s

/-- A load command arms channel n: not in OFF, with a staged value (R175). -/
def armOne (n : Nat) (s : State) : State :=
  if chMode s n ≠ 0 ∧ rf s (Reg.chStage n) 0 4 ≠ 0 then setArmed n true s else s

/-- One staged register is copied to its live register where its STAGE bit is set (R176). -/
def copyStaged (n i live staged : Nat) (s : State) : State :=
  if rb s (Reg.chStage n) i then rset live (rget s staged) s else s

/-- A transfer of channel n writes the live registers of its STAGE bits: live writes of its cycle come before (R144). -/
def noteTransfer (n : Nat) (s : State) : State :=
  modCh n (fun x => { x with xferAt := s.time + 1, xferM := rf s (Reg.chStage n) 0 4 }) s

/-- A live write of the register of STAGE bit i takes effect: no transfer of the same cycle overrides it (R144). -/
def liveWrite (n i a : Nat) (v : Word) (s : State) : State :=
  if (chSt s n).xferAt = s.time + 1 ∧ (chSt s n).xferM.testBit i = true then s else rset a v s

/-- The transfer of channel n (R176, R179): torn, or every staged value becomes live. -/
def transfer (n : Nat) (s : State) : State :=
  let s := setArmed n false s
  if rb s (Reg.chCtl n) 12 && (rb s (Reg.chStage n) 0 != rb s (Reg.chStage n) 1) then
    raise (2896 + n / 64) (setb (Reg.harnLdsts (n / 8)) (16 + n % 8) true (setb (Reg.chSts n) 7 true s))
  else
    let s := copyStaged n 0 (Reg.chRld n) (Reg.chRlds n) (noteTransfer n s)
    let s := copyStaged n 1 (Reg.chCmpa n) (Reg.chCmpas n) s
    let s := copyStaged n 2 (Reg.chCmpb n) (Reg.chCmpbs n) s
    let s := copyStaged n 3 (Reg.chFine n) (Reg.chFines n) s
    setb (Reg.harnLdsts (n / 8)) (16 + n % 8) false (setf (Reg.chStage n) 0 4 0 s)

/-- The level after the COMPARE_OUT action of a match (R142): 0 none, 1 set, 2 clear, 3 toggle. -/
def actLevel (a : Nat) (lv : Bool) : Bool :=
  match a with
  | 1 => true
  | 2 => false
  | 3 => !lv
  | _ => lv

/-- The COMPARE_OUT action of a match, at its fine step (R142). -/
def compareAct (n a fine : Nat) (s : State) : State := setOut n (actLevel a (chOut s n)) ⟨s.time, fine⟩ s

/-- The output edges that matches of A and B produce in the channel's mode (R140, R141, R142). -/
def matchOut (n v : Nat) (mA mB : Bool) (s : State) : State :=
  match chMode s n with
  | 1 => when_ (mA && decide (v ≠ 0)) (setOut n false ⟨s.time, fineA s n⟩) s
  | 2 => when_ (mA && decide (v ≠ 0)) (setOut n false ⟨s.time, fineA s n⟩) s
  | 3 =>
    let s := when_ (mB && decide (rn s (Reg.chCmpb n) < rn s (Reg.chCmpa n))) (setOut n true ⟨s.time, fineB s n⟩) s
    when_ mA (setOut n false ⟨s.time, fineA s n⟩) s
  | 4 =>
    let actA := rf s (Reg.chCtl n) 8 2
    let actB := rf s (Reg.chCtl n) 10 2
    let a := when_ mA (compareAct n actA (fineA s n))
    let b := when_ mB (compareAct n actB (fineB s n))
    if mA && mB && decide (fineA s n = fineB s n) then
      setOut n (actLevel actB (actLevel actA (chOut s n))) ⟨s.time, fineA s n⟩ s
    else if mA && mB && decide (fineB s n < fineA s n) then a (b s)
    else b (a s)
  | _ => s

/-- The count of channel n would match a compare at value v (R137). -/
def matchA (s : State) (n v : Nat) : Bool := decide (rn s (Reg.chCmpa n) = v)
def matchB (s : State) (n v : Nat) : Bool := decide (rn s (Reg.chCmpb n) = v)

/-- The count takes a value: MATCHA and MATCHB are raised (R137). -/
def countTo (n v : Nat) (s : State) : State :=
  let s := rset (Reg.chCnt n) (wd v) s
  when_ (matchB s n v) (chEvent n 2) (when_ (matchA s n v) (chEvent n 1) s)

/-- The count takes a value (R137): MATCHA and MATCHB, and the edges they produce. -/
def takeCount (n v : Nat) (s : State) : State := matchOut n v (matchA s n v) (matchB s n v) (countTo n v s)

/-- A lap of a mode that laps for ever begins at count 0 (R140, R171). -/
def lapStart (n : Nat) (s : State) : State :=
  let m := chMode s n
  let s := when_ (decide (m = 1 ∨ m = 2)) (setOut n (decide (rn s (Reg.chCmpa n) ≠ 0)) (nowInst s)) s
  when_ (decide (m = 1 ∨ m = 2 ∨ m = 4)) (periodStart n) (takeCount n 0 s)

/-- An ONE_SHOT lap ends, by its wrap or by RST (R141, R160): the count takes 0, the output is inactive and the counter waits
there. -/
def oneShotEnd (n : Nat) (s : State) : State :=
  let s := setOut n false (nowInst s) (countTo n 0 s)
  let s := modCh n (fun x => { x with lap := false }) s
  setb (Reg.chSts n) 16 (chSt s n).startPend s

/-- A wrap (R135, R145, R159) or a RST action (R160), which is as a wrap: WRAP, a timeout of a measurement, the
transfer of an armed channel, and the lap that begins. -/
def wrap (n : Nat) (isRst : Bool) (s : State) : State :=
  let s := when_ (!isRst && decide (rn s (Reg.chRld n) < rn s (Reg.chCnt n))) (setb (Reg.chSts n) 5 true) s
  let s := chEvent n 0 s
  let s := when_ (!isRst && (chSt s n).meas.isSome) (setb (Reg.chSts n) 9 true) s
  let s := modCh n (fun x => { x with meas := none, firstLap := false, restart := none }) s
  let s := when_ (armed s n) (transfer n) s
  if chMode s n = 3 then
    let s := when_ isRst (fun s => setb (Reg.chCtl n) 16 false (modCh n (fun x => { x with startPend := false }) s)) s
    oneShotEnd n s
  else lapStart n s

/-- A pending START begins an ONE_SHOT lap, or restarts it under RETRIG (R141). -/
def oneShotBegin (n : Nat) (s : State) : State :=
  let s := setb (Reg.chCtl n) 16 false (modCh n (fun x => { x with startPend := false, lap := true }) s)
  let s := when_ (decide (rn s (Reg.chCmpb n) ≠ 0)) (setOut n false (nowInst s)) s
  periodStart n (takeCount n 0 s)

/-- One step of the counter at a tick without RST (R136). A measuring restart goes before a wrap of the same tick (DESIGN CHOICE,
log entry 73). -/
def countStep (n : Nat) (s : State) : State :=
  let x := chSt s n
  let cnt := rn s (Reg.chCnt n)
  if chMode s n = 3 then
    if x.startPend then oneShotBegin n s
    else if x.lap && decide (rn s (Reg.chRld n) ≤ cnt) then wrap n false s
    else if x.lap then takeCount n (cnt + 1) s
    else s
  else if x.firstLap then 
    lapStart n (modCh n (fun x => { x with firstLap := false, restart := x.restart.filter fun c => decide (s.time ≤ c) }) s)
  else if (match x.restart with | some c => decide (c < s.time) | none => false) then
    takeCount n 0 (modCh n (fun x => { x with restart := none }) s)
  else if rn s (Reg.chRld n) ≤ cnt then wrap n false s
  else takeCount n (cnt + 1) s

/-- A START reaches an ONE_SHOT channel, from CTL.START or from its action (R141). -/
def startArrives (n : Nat) (s : State) : State :=
  if (chSt s n).lap && !rb s (Reg.chCtl n) 7 then setb (Reg.chSts n) 11 true (setb (Reg.chCtl n) 16 false s)
  else setb (Reg.chSts n) 16 true (modCh n (fun x => { x with startPend := true }) s)

/-! ### Captures -/

/-- A capture lands (R154); in OFF none does (R137). -/
def captureNow (n : Nat) (cap capt : Word) (s : State) : State :=
  if chMode s n = 0 then s
  else
  let s := when_ (rb s (Reg.chSts n) 0) (fun s => count (Reg.chOvrCnt n) (setb (Reg.chSts n) 1 true s)) s
  let s := setb (Reg.chSts n) 0 true (rset (Reg.chCap n) cap s)
  chEvent n 3 (modCh n (fun x => { x with capt := capt, capLand := s.time + 1 }) s)

/-- A capture falls due in this cycle, at whose end it lands (R155). -/
def capture (n : Nat) (cap capt : Word) (s : State) : State := schedule s.time (.capDue n cap capt) s

/-- A capture lands at the end of its cycle, or falls due again in the next one when CAP was read in it (R155). -/
def captureEnd (n : Nat) (cap capt : Word) (s : State) : State :=
  if (chSt s n).capRead = s.time + 1 then schedule (s.time + 1) (.capDue n cap capt) s else captureNow n cap capt s

/-- The captures of channel n that have fallen due in this cycle land, before a write of the cycle takes the channel to OFF
(R136). -/
def captureFlush (n : Nat) (s : State) : State :=
  let mine := fun y : Nat × Timed => match y.2 with | .capDue m _ _ => m == n | _ => false
  forEach (s.timed.filter mine) (fun y s => match y.2 with | .capDue _ cap capt => captureEnd n cap capt s | _ => s)
    { s with timed := s.timed.filter fun y => !mine y }

/-- CAP and CAPT of a capture in CAPTURE (R153): of the device time of the edge, or of the count it met. -/
def captureEdge (n : Nat) (t : Inst) (cnt : Word) (s : State) : State :=
  if rb s (Reg.chCtl n) 6 then capture n cnt (wd t.fine) s
  else capture n (wd t.lc) (setFld (wd t.fine) 16 16 (t.lc / 2 ^ 32)) s

/-- CAP and CAPT of a measured time (R157): saturated at 0xFFFF_FFFF lc and 31 fine steps. -/
def captureSpan (n : Nat) (t0 t1 : Inst) (s : State) : State :=
  let d := t1.steps - t0.steps
  if 2 ^ 32 ≤ d / 32 then capture n 0xFFFFFFFF#32 31 s else capture n (wd (d / 32)) (wd (d % 32)) s

/-- An edge of CTL.EDGE's selection (R152): 0 rising, 1 falling, 2 both. -/
def edgeSelected (s : State) (n : Nat) (rising : Bool) : Bool :=
  match rf s (Reg.chCtl n) 4 2 with
  | 0 => rising
  | 1 => !rising
  | _ => true

/-- A measurement begins at an edge (R157, R158). -/
def measBegin (n : Nat) (t : Inst) (s : State) : State :=
  modCh n (fun x => { x with meas := some t, restart := some s.time }) s

/-- The counter of an EDGE_COUNT channel advances by one (R159); its first edge, the first tick of its first lap, starts that
lap at 0 before (R137, R138; log entry 17). -/
def edgeStep (n : Nat) (s : State) : State :=
  let s := when_ (chSt s n).firstLap (fun s => takeCount n 0 (modCh n (fun x => { x with firstLap := false }) s)) s
  let cnt := rn s (Reg.chCnt n)
  if rn s (Reg.chRld n) ≤ cnt then wrap n false s else takeCount n (cnt + 1) s

/-- The raises of an action input that have reached it; raises made before the action applies merge into it (R160). -/
def takeAction (d : Dest) (s : State) : List Wire × State :=
  let r := takeWires d s
  if r.1.isEmpty then r
  else (r.1, { r.2 with ev := { r.2.ev with
    wires := r.2.ev.wires.filter fun w => !(w.dst == d && decide (w.at_ < s.time + 2)) } })

/-- The action inputs of an EDGE_COUNT channel that are due (R159, R160): CAP takes the count, then RST clears it. -/
def edgeActs (n : Nat) (s : State) : State :=
  let r := takeAction (.chRst n) s
  let cp := takeAction (.chCap n) r.2
  let s := (takeAction (.chStart n) cp.2).2
  let s := when_ (!cp.1.isEmpty) (fun s => capture n (rget s (Reg.chCnt n)) 0 s) s
  when_ (!r.1.isEmpty) (wrap n true) s

/-- An edge of the channel's selected input lands, with the instant and the count of the edge (R153, R157 to R159). -/
def channelEdge (n : Nat) (rising : Bool) (t : Inst) (cnt : Word) (s : State) : State :=
  let sel := edgeSelected s n rising
  match chMode s n with
  | 5 => when_ sel (captureEdge n t cnt) s
  | 6 =>
    if !sel then s
    else
      let s := match (chSt s n).meas with | some t0 => captureSpan n t0 t s | none => s
      measBegin n t s
  | 7 =>
    match rf s (Reg.chCtl n) 4 2 with
    | 2 =>
      let s := match (chSt s n).meas with | some t0 => captureSpan n t0 t s | none => s
      measBegin n t s
    | e =>
      if rising == decide (e = 0) then measBegin n t s
      else
        match (chSt s n).meas with
        | some t0 => modCh n (fun x => { x with meas := none }) (captureSpan n t0 t s)
        | none => s
  | 8 => when_ sel (edgeStep n) (edgeActs n s)
  | _ => s

/-- A read of CAP (R153, R154): it returns the capture, loads the CAPT copy, and clears CAPF. -/
def capReadOp (n : Nat) (s : State) : Word × State :=
  (rget s (Reg.chCap n),
    modCh n (fun x => { x with capRead := s.time + 1 })
      (setb (Reg.chSts n) 0 false (rset (Reg.chCapt n) (chSt s n).capt s)))

/-- The next tick of harness h from the present cycle on, and whether it lies in device time that a step has skipped (R133,
R502); after a write of PRESC the new P applies from the next cycle (R148). -/
def harnTickAt (s : State) (h : Nat) : Nat × Bool :=
  let lo := max (harnSt s h).ticked ((s.sel.skipLo.getD s.time) |> min s.time)
  let at_ := fun p l => (l + p - 1) / p * p
  let m := at_ (prescP s h) lo
  let m := if s.time < m ∧ (harnSt s h).prescAt = s.time + 1 then at_ (rf s (Reg.harnPresc h) 0 8 + 1) (s.time + 1) else m
  (max m s.time, decide (m < s.time))

/-- A LOADNOW that landed before acts at the next tick of harness h (R178). -/
def nowDue (s : State) (h : Nat) : Bool := rb s (Reg.harnLdsts h) 8 && decide ((harnSt s h).nowAt < s.time)

/-- The edges that landed at channel n in this cycle, before its tick (R136, R157). -/
def lateEdges (n : Nat) (s : State) : State :=
  let mine := fun y : Nat × Timed => match y.2 with | .edgeLate m _ _ => m == n | _ => false
  forEach (s.timed.filter mine) (fun y s => match y.2 with | .edgeLate _ lv st => channelEdge n lv st.t st.cnt s | _ => s)
    { s with timed := s.timed.filter fun y => !mine y }

/-- One tick of channel n (R136, R160): a RST that is due or one step, then a START and a CAP that are due (a START begins
its lap on the next tick), then the edges that landed in this cycle; EDGE_COUNT takes none but a restart by LOADNOW. -/
def chTick (forceRst : Bool) (n : Nat) (s : State) : State :=
  if chMode s n = 0 then (takeAction (.chCap n) (takeAction (.chStart n) (takeAction (.chRst n) s).2).2).2
  else if chMode s n = 8 then when_ forceRst (fun s => lateEdges n (wrap n true s)) s
  else
    let r := takeAction (.chRst n) s
    let st := takeAction (.chStart n) r.2
    let cp := takeAction (.chCap n) st.2
    let s := if forceRst || !r.1.isEmpty then wrap n true cp.2 else countStep n cp.2
    let s := when_ (!st.1.isEmpty && decide (chMode s n = 3)) (startArrives n) s
    let s := when_ (!cp.1.isEmpty && decide (chMode s n = 5)) (captureEdge n (nowInst s) (rget s (Reg.chCnt n))) s
    lateEdges n s

/-- A tick of harness h (R133, R178): a LOADNOW that landed before transfers and restarts its channels; every channel
takes one step. -/
def harnTick (h : Nat) (s : State) : State :=
  let now := nowDue s h
  let s := if !now then s
    else forEach (upto (8 * h) 8) (fun n s =>
        setArmed n false (when_ (decide (rf s (Reg.chStage n) 0 4 ≠ 0)) (transfer n) s))
      (setb (Reg.harnLdsts h) 8 false s)
  modHarn h (fun x => { x with ticked := s.time + 1 }) (forEach (upto (8 * h) 8) (chTick now) s)

/-! ### Live writes and mode changes -/

/-- A lap runs in channel n (R146). -/
def lapRuns (s : State) (n : Nat) : Bool :=
  let m := chMode s n
  decide (m ≠ 0) && !(chSt s n).firstLap && (decide (m ≠ 3) || (chSt s n).lap)

/-- A live write of CMPA or CMPB (R146): a value not greater than the count is passed. -/
def writeCompare (n a : Nat) (v : Word) (s : State) : State :=
  liveWrite n (if a = Reg.chCmpa n then 1 else 2) a v
    (when_ (lapRuns s n && decide (v.toNat ≤ rn s (Reg.chCnt n))) (setb (Reg.chSts n) 6 true) s)

/-- A write of EVCFG: the occurrence counters restart (R162). -/
def writeEvcfg (n : Nat) (v : Word) (s : State) : State :=
  modCh n (fun x => { x with occ := [] }) (rset (Reg.chEvcfg n) (v &&& 0xFFFF#32) s)

/-- A write of a staged register, whose bit of STAGE is i (R144). -/
def writeStaged (n i a : Nat) (v : Word) (s : State) : State := setb (Reg.chStage n) i true (rset a v s)

/-- Channel n enters OFF (R138, R177). -/
def enterOffOp (n : Nat) (ctl : Word) (s : State) : State :=
  let s := captureFlush n s
  let s := setOut n false (nowInst s) (rset (Reg.chCtl n) (setBit ctl 16 false) s)
  let s := setb (Reg.chSts n) 16 false (rset (Reg.chCnt n) 0 (setArmed n false s))
  let s := modCh n (fun x => { x with
    lap := false, startPend := false, firstLap := false, meas := none, restart := none, edges := [] }) s
  refreshPair (n / 2) (nowInst s) s

/-- Channel n leaves OFF (R138, R162, R28): its first lap begins at its first tick. -/
def leaveOffOp (n : Nat) (ctl : Word) (s : State) : State :=
  let m := fld ctl 0 4
  let s := rset (Reg.chCtl n) (setBit ctl 16 false) s
  let s := setb (Reg.chSts n) 17 false (setb (Reg.chSts n) 16 (decide (m ≠ 3)) (rset (Reg.chCnt n) 0 s))
  let s := modCh n (fun x => { x with
    firstLap := decide (m ≠ 3), lap := false, startPend := false, meas := none, restart := none, occ := [],
    handover := if chOwned s n then false else x.handover }) s
  let s := refreshPair (n / 2) (nowInst s) s
  when_ (decide (m = 3) && bit ctl 16) (fun s => startArrives n (setb (Reg.chCtl n) 16 true s)) s

/-- A write of CH[n].CTL that the refusal rules let through (R138, R141, R164). -/
def writeChCtl (n : Nat) (v : Word) (s : State) : State :=
  let old := chMode s n
  let v := v &&& 0x11FFF#32
  if old ≠ 0 ∧ fld v 0 4 = 0 then enterOffOp n v s
  else if old = 0 ∧ fld v 0 4 ≠ 0 then leaveOffOp n v s
  else
    let started := rb s (Reg.chCtl n) 16
    let s := rset (Reg.chCtl n) (setBit v 16 started) s
    if bit v 16 && !started && decide (old = 3) then startArrives n (setb (Reg.chCtl n) 16 true s) else s

/-- A write of CH[n].CTL carries a reserved encoding (R164, R138, R139). -/
def chCtlReserved (s : State) (n : Nat) (v : Word) : Bool :=
  let m := fld v 0 4
  let old := chMode s n
  let k := n / 2
  decide (10 < m) || decide (fld v 4 2 = 3) || decide (old ≠ 0 ∧ m ≠ 0 ∧ m ≠ old) ||
    (decide (m = 2) && (decide (n % 2 = 1) || decide (chMode s (2 * k + 1) ≠ 0))) ||
    (decide (m ≠ 0) && decide (n % 2 = 1) && isPair s k)

/-! ### Input filters -/

/-- The level that the synchroniser of pin n presents for loom cycle c with at most one pulse in it (R630): the level at the end
of the cycle, or the pulse that came and went in it. -/
def presented (x : ChSt) (c : Nat) : Bool :=
  let upTo := x.trans.filter fun t => decide (t.t.lc ≤ c)
  let inC := upTo.filter fun t => decide (t.t.lc = c)
  let before := match upTo.filter (fun t => decide (t.t.lc < c)) with | t :: _ => t.level | [] => x.level
  let atEnd := match upTo with | t :: _ => t.level | [] => x.level
  if !inC.isEmpty && atEnd == before then !before else atEnd

/-- Transitions of pin n in cycle c. -/
def transIn (x : ChSt) (c : Nat) : Nat := (x.trans.filter fun t => decide (t.t.lc = c)).length

/-- The synchroniser of pin n presents the level of cycle c to the trips and to the filter (R183, R630); with more than one
pulse in the cycle which level that is, is open (log entry 1). -/
def presentOp (n c : Nat) (s : State) : State :=
  let p := if 3 ≤ transIn (chSt s n) c then freshBit s else (presented (chSt s n) c, s)
  refreshTrips (modCh n (fun x => { x with sync := p.1 }) p.2)

/-- The synchroniser will present the level of cycle c of pin n 3 lc after it (R630). -/
def schedulePresent (n c : Nat) (s : State) : State :=
  if s.timed.any fun y => y.2 == .present n c then s else schedule (c + 3) (.present n c) s

/-- The transition to level `lv` that the pin last made up to cycle c. -/
def lastTransTo (x : ChSt) (lv : Bool) (c : Nat) : Trans :=
  match x.trans.filter fun t => decide (t.t.lc ≤ c) && t.level == lv with
  | t :: _ => t
  | [] => ⟨⟨c, 0⟩, lv, 0⟩

/-- Transitions that no later sample can reach are forgotten; the newest always stays. -/
def pruneTrans (now : Nat) (x : ChSt) : ChSt :=
  match x.trans.span (fun t => decide (now < t.t.lc + 600)) with
  | (recent, t :: _) => { x with trans := recent ++ [t], level := t.level }
  | (recent, []) => { x with trans := recent }

/-- The sample interval of the filter of pin n: 1, 8, 64 or 512 lc (R149), and at least 16 lc in SLUMBER (R16; log entry 27). -/
def filtInterval (s : State) (n : Nat) : Nat :=
  let p := 8 ^ rf s (Reg.chFilt n) 8 2
  if power s = 2 then max 16 p else p

/-- A run of samples ends short (R149). -/
def glitch (n : Nat) (s : State) : State := count (Reg.chGlitchCnt n) (setb (Reg.chSts n) 10 true s)

/-- One sample of the filter of pin n (R149, R150): the level that the synchroniser presents, 3 lc after its cycle; a level
adopted with the N-th sample lands in the next cycle (R21; log entry 15). -/
def filterSampleOp (n : Nat) (s : State) : State :=
  let c := s.time - 3
  let x := chSt s n
  let lv := x.sync
  let indet := rb s (Reg.chSts n) 19
  let s := modCh n (fun x => { x with sampled := s.time + 1 }) s
  let N := rf s (Reg.chFilt n) 0 8
  let fresh := decide (x.run = 0) || (x.cand != lv)
  if !indet && lv == rb s (Reg.chSts n) 18 then
    when_ (decide (0 < x.run)) (glitch n) (modCh n (fun x => { x with run := 0 }) s)
  else
    let s := when_ (decide (0 < x.run) && (x.cand != lv)) (glitch n) s
    let run := if fresh then 1 else x.run + 1
    let start := if fresh then lastTransTo x lv c else x.runStart
    if run < N then modCh n (fun x => { x with cand := lv, run := run, runStart := start }) s
    else schedule (s.time + 1) (.edgeLand n lv start)
      (modCh n (fun x => pruneTrans s.time { x with cand := lv, run := 0, runStart := start }) s)

/-- The time that a capture gets in SLUMBER, at a resolution of 16 lc (R16, R360). -/
def slumberTime (s : State) (t : Inst) : Inst := if power s = 2 then ⟨t.lc / 16 * 16, 0⟩ else t

/-- A level adopted by the filter of pin n lands (R149, R150): without an edge while in INDET, else as an edge of the
channel's input where INSEL selects the pin (R152); a measuring edge
waits for the tick of its cycle, which goes first (R157), and a counted edge for the RST of a LOADNOW (R159, R178). In SLUMBER
only captures go on (log entry 27). -/
def edgeLandOp (n : Nat) (lv : Bool) (start : Trans) (s : State) : State :=
  let indet := rb s (Reg.chSts n) 19
  let s := modCh n (fun x => { x with edgeT := start.t }) (setb (Reg.chSts n) 18 lv (setb (Reg.chSts n) 19 false s))
  if indet then refreshTrips s
  else if rf s (Reg.chInsel n) 0 2 ≠ 0 then s
  else if power s = 2 then when_ (decide (chMode s n = 5)) (channelEdge n lv (slumberTime s start.t) start.cnt) s
  else if (decide (chMode s n = 6 ∨ chMode s n = 7) || (decide (chMode s n = 8) && nowDue s (n / 8))) &&
      (harnTickAt s (n / 8)).1 == s.time then
    schedule s.time (.edgeLate n lv start) s
  else channelEdge n lv start.t start.cnt s

/-- After INDET the next measuring edge is a first edge (R157). -/
def endMeas (n : Nat) : State → State := modCh n fun x => { x with meas := none }

/-- The filter of pin n enters INDET (R150): after a write of FILT. -/
def enterIndet (n : Nat) (s : State) : State :=
  let s := setb (Reg.chSts n) 18 false (setb (Reg.chSts n) 19 true s)
  let s := { s with timed := s.timed.filter fun y => match y.2 with | .edgeLand m _ _ => m != n | _ => true }
  refreshTrips (when_ (decide (rf s (Reg.chInsel n) 0 2 = 0)) (endMeas n) (modCh n (fun x => { x with run := 0 }) s))

/-- A transition of the level at pin n (R618, R630): with the one before it less than 1 ns back it is not seen, between
1 ns and 2 ns back a free bit says whether the pulse is seen, from 2 ns on it is. -/
def pinTransitionOp (n : Nat) (lv : Bool) (t : Inst) (s : State) : State :=
  let x := chSt s n
  let put := fun s : State => schedulePresent n (t.lc + 1) (schedulePresent n t.lc
    (modCh n (fun x => { x with trans := ⟨t, lv, rget s (Reg.chCnt n)⟩ :: x.trans }) s))
  match x.trans with
  | [] => put s
  | last :: older =>
    let d := t.steps - last.t.steps
    let drop := fun s : State => modCh n (fun x => { x with trans := older }) s
    if d * 5 < 64 then drop s
    else if 128 ≤ d * 5 then put s
    else
      let f := freshBit s
      if f.1 then put f.2 else drop f.2

end Sys2Proof.Machine
end

