-- ==== Sys2Proof/Machine/Mem.lean ====
section
/-!
DEFINITION. The stores (11_stores_and_bobbins.md R366 to R375): bytes at physical addresses 0x0100_0000 to 0x01BF_FFFF,
kept as a canonical list, and the ECC marks of 64-bit words.
-/

namespace Sys2Proof.Machine

/-- What a byte of a store that nothing has written reads as (R432 leaves it undefined; log entry 4). -/
def memDefault : Byte := 0

/-- The byte at an address. -/
def mget : List Host.Cell → Nat → Byte
  | [], _ => memDefault
  | (k, v) :: t, a => if a = k then v else if a < k then memDefault else mget t a

/-- The memory with one byte replaced, in canonical form: addresses rising, no byte listed that equals the default. -/
def mset : List Host.Cell → Nat → Byte → List Host.Cell
  | [], a, b => if b = memDefault then [] else [(a, b)]
  | (k, v) :: t, a, b =>
    if a = k then (if b = memDefault then t else (k, b) :: t)
    else if a < k then (if b = memDefault then (k, v) :: t else (a, b) :: (k, v) :: t)
    else (k, v) :: mset t a b

/-- The canonical form of a memory: addresses strictly rising, no listed byte equal to the default. -/
def Memory.wf (m : List Host.Cell) : Bool :=
  decide (m.Pairwise fun x y => x.1 < y.1) && m.all fun x => x.2 != memDefault

/-- Bytes written from an address upward, plainly. -/
def putBytes (a : Nat) : List Byte → List Host.Cell → List Host.Cell
  | [], m => m
  | b :: bs, m => putBytes (a + 1) bs (mset m a b)

/-! ### ECC (R373 to R375) -/

/-- GCTL.CTL.ECC_EN (R40). -/
def eccOn (s : State) : Bool := rb s Reg.gctlCtl 1

/-- The 64-bit word of the stores that holds an address. -/
def wordOf (a : Nat) : Nat := (a - 0x1000000) / 8

/-- The stored bits of a word that are wrong, as a mask: 1 and 2 its data bits 0 and 1, 4 a check bit (R602). -/
def eccMark (s : State) (w : Nat) : Nat := tget 0 s.store.marks w

/-- The word holds more errors than one (R375): it is uncorrectable. -/
def eccBad (m : Nat) : Bool := decide (2 ≤ b2n (m.testBit 0) + b2n (m.testBit 1) + b2n (m.testBit 2))
def setMark (w m : Nat) (s : State) : State := { s with store := { s.store with marks := tset s.store.marks w m } }

/-- A byte as it is stored: an injected error inverts bit 0, or bits 0 and 1, of its word (R602). -/
def storedByte (s : State) (a : Nat) : Byte :=
  let b := mget s.mem a
  if a % 8 ≠ 0 then b else b ^^^ BitVec.ofNat 8 (eccMark s (wordOf a) % 4)

/-- A byte as a read returns it: corrected while ECC is on, as stored while it is off (R374). -/
def readByte (s : State) (a : Nat) : Byte := if eccOn s then mget s.mem a else storedByte s a

/-- The kinds of reader of R375, as STORE.UE_SRC numbers them. -/
inductive Reader where
  | shuttle (e : Nat) | shed | card | host | tackler | bobbin (b : Nat) | scrub
  deriving DecidableEq, Repr

/-- The readers behind port A of a bank (R369); the others are behind port B. -/
def Reader.portA : Reader → Bool
  | .shuttle _ => true
  | .shed => true
  | .card => true
  | _ => false

/-- The bytes that the other port has written in this cycle, as they stood before (R372). -/
def otherPort (r : Reader) (s : State) : List Host.Cell := if r.portA then (cycNow s).byB else (cycNow s).byA

/-- A byte as a reader gets it: of a byte that the other port writes in this cycle what stood before (R372). -/
def portByte (r : Reader) (s : State) (a : Nat) : Byte :=
  match (otherPort r s).find? fun c => c.1 == a with
  | some c => c.2
  | none => readByte s a

/-- The `n` bytes from an address as a reader gets them, and their little-endian number (R12, R372). -/
def portBytes (r : Reader) (s : State) (a n : Nat) : List Byte := (upto a n).map (portByte r s)
def portN (r : Reader) (s : State) (a n : Nat) : Nat := leNat (portBytes r s a n)

/-- The bytes that a write leaves: through port B none where port A writes in this cycle (R372). -/
def portLanding (r : Reader) (a : Nat) (bs : List Byte) (s : State) : List Byte :=
  if r.portA || (cycNow s).byA.isEmpty then bs
  else ((upto a bs.length).zip bs).map fun c => if (cycNow s).byA.any (fun x => x.1 == c.1) then mget s.mem c.1 else c.2

/-- An access of a port has written in this cycle: what stood before is kept for the other port (R372). -/
def notePort (r : Reader) (a n : Nat) (s : State) : State :=
  if 8 < n then s
  else
    let old := (upto a n).map fun k => (k, readByte s k)
    if r.portA then modCyc (fun c => { c with byA := c.byA ++ old }) s else modCyc (fun c => { c with byB := c.byB ++ old }) s

/-- The `n` bytes from an address, and their little-endian number (R12). -/
def readBytes (s : State) (a n : Nat) : List Byte := (upto a n).map (readByte s)
def readN (s : State) (a n : Nat) : Nat := leNat (readBytes s a n)

/-- The bank of a store address (R366). -/
def bankOf (a : Nat) : Nat := (a - 0x1000000) / 0x40000

/-- A bank is accessed: it is awake, and its sleep counts from now (R441). -/
def touchBank (a : Nat) (s : State) : State :=
  let i := bankOf a
  { s with pwr := { s.pwr with touched := tset s.pwr.touched i s.time, asleep := s.pwr.asleep.filter fun b => b != i } }

/-- The words that `n` bytes at an address touch. -/
def wordsOf (a n : Nat) : List Nat := upto (wordOf a) (wordOf (a + n - 1) + 1 - wordOf a)

/-- The reader of a store by its path (R375). -/
def pathReader : Path → Reader
  | .tackler => .tackler
  | _ => .host

/-- STORE.UE_SRC of a reader (R394). -/
def Reader.code : Reader → Nat
  | .shuttle e => 256 * e
  | .shed => 1
  | .card => 2
  | .host => 3
  | .tackler => 4
  | .bobbin b => 5 + 256 * b
  | .scrub => 6

/-- A single-bit error is found and corrected (R374): counted, recorded, and due to be written back. -/
def correctable (w : Nat) (s : State) : State :=
  let s := setb Reg.storeSts 0 true (rset Reg.storeCeAddr (wd (0x1000000 + 8 * w)) (count Reg.storeCeCnt s))
  let s := { s with store := { s.store with writeBack := if s.store.writeBack.contains w then s.store.writeBack
                                                else s.store.writeBack ++ [w] } }
  schedule (s.time + 64) (.fixWord w) s

/-- A corrected word is written back (R374), unless a write has come first. -/
def writeBackOp (w : Nat) (s : State) : State :=
  let s := { s with store := { s.store with writeBack := s.store.writeBack.filter fun x => x != w } }
  if eccBad (eccMark s w) then s else setMark w 0 s

/-- The harnesses that an uncorrectable error affects by its reader (R598 class 0): those that the engine serves, or that
of the card's channel. -/
def ueAffected (s : State) (r : Reader) (w : Nat) : List Nat :=
  match r with
  | .shuttle e => serves s e
  | .card =>
    let a := 0x1000000 + 16 * (w / 2)
    [((mget s.mem a).toNat + 256 * ((mget s.mem (a + 1)).toNat % 2)) / 8]
  | _ => []

/-- An uncorrectable error is found (R375): counted, recorded, raised, logged and detected; an error in a store has been injected
(R602). -/
def uncorrectable (r : Reader) (w : Nat) (s : State) : State :=
  let s := rset Reg.storeUeAddr (wd (0x1000000 + 8 * w)) (count Reg.storeUeCnt s)
  let s := flagRaise Reg.storeSts 1 2883 (rset Reg.storeUeSrc (wd r.code) s)
  let s := logCause 0x0A01 3 (w / 32768) (rget s Reg.storeUeAddr) (rget s Reg.storeUeSrc) s
  detect 0 (w / 32768) (ueAffected s r w) true s

/-- A read of `n` bytes checks their words (R374, R375): whether one is uncorrectable, and the state after. -/
def checkRead (r : Reader) (a n : Nat) (s : State) : Bool × State :=
  let s := touchBank a s
  if !eccOn s then (false, s)
  else (wordsOf a n).foldl (fun p w =>
    let m := eccMark p.2 w
    if m = 0 then p
    else if eccBad m then (true, uncorrectable r w p.2)
    else (p.1, correctable w p.2)) (false, s)

/-- The other port has written this word in this cycle through a read-modify-write: it stays closed to writes until the next (R373). -/
def wordClosed (r : Reader) (w : Nat) (s : State) : Bool :=
  let b := fun i => (otherPort r s).any fun c => c.1 == 0x1000000 + 8 * w + i
  (upto 0 8).any b && !(upto 0 8).all b

/-- Bytes cut at the 64-bit words of the stores, with their addresses; at most `fuel` words. -/
def wordParts : Nat → Nat → List Byte → List (Nat × List Byte)
  | 0, _, _ => []
  | _, _, [] => []
  | fuel + 1, a, b :: bs =>
    let n := 8 - a % 8
    (a, (b :: bs).take n) :: wordParts fuel (a + n) ((b :: bs).drop n)

/-- The error mark of a word ends with a write: a corrected word is not written back any more (R374), and with ECC off the bytes that
stay are those stored. -/
def rewritten (w : Nat) (s : State) : State :=
  if eccMark s w = 0 then s
  else
    let b := 0x1000000 + 8 * w
    let s := setMark w 0 (if eccOn s then s else { s with mem := mset s.mem b (storedByte s b) })
    { s with store := { s.store with writeBack := s.store.writeBack.filter fun x => x != w } }

/-- A write within one word (R373): one of 64 bits sets new check bits; a narrower one reads its word first, and is discarded at an
uncorrectable word and counted as R375, or keeps the other bytes of its word as the read returned them. -/
def writeWord (r : Reader) (a : Nat) (bs : List Byte) (s : State) : State :=
  let w := wordOf a
  if decide (bs.length < 8) && eccOn s && eccBad (eccMark s w) then uncorrectable r w s
  else
    let s := rewritten w (when_ (decide (bs.length < 8) && eccOn s && eccMark s w != 0) (correctable w) s)
    let s' := notePort r a bs.length s
    { s' with mem := putBytes a (portLanding r a bs s) s.mem }

/-- A write of bytes, word by word (R373). -/
def writeBytes (r : Reader) (a : Nat) (bs : List Byte) (s : State) : State :=
  forEach (wordParts bs.length a bs) (fun p => writeWord r p.1 p.2) (touchBank a s)

/-- `n` bytes of a number, written little-endian. -/
def writeN (r : Reader) (a n x : Nat) (s : State) : State := writeBytes r a (leBytes n x) s

/-! ### Regions and mapping (R366, R367, R92) -/

/-- The physical pattern-store half in force (R367). -/
def patHalf (s : State) : Nat := rf s Reg.storePhalf 0 1

/-- A pattern-store address. -/
def inPattern (a : Nat) : Bool := decide (0x1000000 ≤ a ∧ a ≤ 0x17FFFFF)

/-- A logical address of a shuttle, or of a bobbin with LOGICAL = 1, as a physical one: while the draft in force is
changeover-ready, the lower half of the pattern store is the half in force (R92, R367). -/
def physical (s : State) (a : Nat) : Nat :=
  if s.chg.actReady && inPattern a && decide (patHalf s = 1) then
    (if a < 0x1400000 then a + 0x400000 else a - 0x400000)
  else a

/-- A pattern-store address of a shuttle task as a physical one: mapped by the generation of its code bank, which has the
number of its half (R92, R475, R479). -/
def shuPhysical (s : State) (bank a : Nat) : Nat :=
  if s.chg.actReady && inPattern a && decide (bank = 1) then (if a < 0x1400000 then a + 0x400000 else a - 0x400000) else a

/-- An address that shuttles may access (R91): pattern, tally and exchange stores. -/
def shuAddr (a : Nat) : Bool := inPattern a || decide (0x1A00000 ≤ a ∧ a ≤ 0x1BFFFFF)

/-- A logical address of the idle pattern-store half (R92). -/
def idleHalf (s : State) (a : Nat) : Bool := s.chg.actReady && decide (0x1400000 ≤ a ∧ a ≤ 0x17FFFFF)

/-- An address written into physical half `h`. -/
def inPhysHalf (h a : Nat) : Bool := inPattern a && decide ((a - 0x1000000) / 0x400000 = h)

/-- The base and size of circular-buffer window w (R377). -/
def cbwBase (s : State) (w : Nat) : Nat := rn s (Reg.storeCbwBase w)
def cbwSize (s : State) (w : Nat) : Nat := rn s (Reg.storeCbwSize w)

/-- The region of R366 that holds an address: 1 and 5 the halves of the pattern store, 2 card, 3 tally, 4 exchange, 0 none. -/
def region (a : Nat) : Nat :=
  if 0x1000000 ≤ a ∧ a < 0x1400000 then 1
  else if 0x1400000 ≤ a ∧ a < 0x1800000 then 5
  else if 0x1800000 ≤ a ∧ a < 0x1A00000 then 2
  else if 0x1A00000 ≤ a ∧ a < 0x1B00000 then 3
  else if 0x1B00000 ≤ a ∧ a < 0x1C00000 then 4
  else 0

/-- A window is valid (R377). -/
def cbwValid (base size : Nat) : Bool :=
  decide (base % 8 = 0 ∧ size % 8 = 0 ∧ 8 ≤ size ∧ size ≤ 0x800000) &&
    decide (region base ≠ 0 ∧ region base = region (base + size - 1))

end Sys2Proof.Machine
end

