-- ==== Sys2Proof/Machine/ShuttleOps.lean ====
section
/-!
DEFINITION. Operations of the shuttle engines (03_shuttle_engines.md): contexts and their registers, the fetch and the
issue conditions (R88, R94), write signatures (R112), task faults (R118), drops (R100), effects in flight (R101) and
channel writes (R100).
-/

namespace Sys2Proof.Machine

/-! ### Contexts -/

def shuSt (s : State) (e : Nat) : ShuSt := tget {} s.shu e
def modShu (e : Nat) (f : ShuSt → ShuSt) (s : State) : State := { s with shu := tset s.shu e (f (shuSt s e)) }

/-- A context of engine e. -/
def ctx (s : State) (e : Nat) (x : Ctx) : CtxSt :=
  match x with | .normal => (shuSt s e).nrm | .express => (shuSt s e).exp

def modCtx (e : Nat) (x : Ctx) (f : CtxSt → CtxSt) (s : State) : State :=
  modShu e (fun u => match x with | .normal => { u with nrm := f u.nrm } | .express => { u with exp := f u.exp }) s

/-- The context that issues next, DBG.ACT_CTX (R129). -/
def active (s : State) (e : Nat) : Ctx := if rb s (Reg.shuDbg e) 9 then .express else .normal

/-- General register i of a context; g0 reads as 0 (R82). -/
def gget (c : CtxSt) (i : Nat) : Word := if i = 0 then 0 else tget 0 c.g i

/-- General register i of a context written; writes to g0 are discarded (R82). -/
def gset (i : Nat) (v : Word) (c : CtxSt) : CtxSt := if i = 0 then c else { c with g := tset c.g i v }

def gr (s : State) (e : Nat) (x : Ctx) (i : Nat) : Word := gget (ctx s e x) i

/-- The number that stands for the flags among the registers a parity bit guards (R114). -/
def flagsNo : Nat := 16

/-- A result of `d`, usable from cycle `r` on (R86); its parity is right again. -/
def setG (e : Nat) (x : Ctx) (d : Nat) (v : Word) (r : Nat) (s : State) : State :=
  modCtx e x (fun c => { gset d v c with ready := tset c.ready d r, par := c.par.filter fun i => i != d }) s

def setFlags (e : Nat) (x : Ctx) (f : Flags) (s : State) : State :=
  modCtx e x (fun c => { c with flags := f, par := c.par.filter fun i => i != flagsNo }) s

/-- Words fed to the write signature W of a context (R112). -/
def feedW (e : Nat) (x : Ctx) (ws : List Word) (s : State) : State :=
  modCtx e x (fun c => { c with w := ws.foldl crcWord c.w }) s

/-! ### Fetch and issue (R82, R88, R94, R123) -/

/-- The code bank of the run in a context (R82). -/
def runBank (c : CtxSt) : Nat := match c.task with | some r => r.bank | none => 0

/-- The key of code RAM word i of bank b of engine e. -/
def codeKey (e b i : Nat) : Nat := 4096 * e + 2048 * b + i

/-- Word k of code RAM, and whether it has an uncorrectable error (R123). -/
def codeNow (s : State) (k : Nat) : Word × Bool := (tget 0 s.code k, s.codeBad.contains k)

/-- The instruction word at the PC of a context, with its error mark: the one that stood there when its task started (R121). -/
def codeAt (s : State) (e : Nat) (x : Ctx) : Word × Bool :=
  let c := ctx s e x
  let k := codeKey e (runBank c) c.pc
  tget (codeNow s k) c.shadow k

/-- The instruction word at the PC of a context. -/
def fetchWord (s : State) (e : Nat) (x : Ctx) : Word := (codeAt s e x).1

/-- A word of code RAM is written: a task that runs in its bank goes on with the old one (R121). -/
def writeCode (k : Nat) (v : Word) (s : State) : State :=
  let e := k / 4096
  let keep := fun (c : CtxSt) =>
    if c.task.isSome && runBank c == k / 2048 % 2 then { c with shadow := tset c.shadow k (tget (codeNow s k) c.shadow k) } else c
  let s := modCtx e .express keep (modCtx e .normal keep s)
  { s with code := tset s.code k v, codeBad := s.codeBad.filter fun j => j != k }

/-- Registers for which an access in flight will write a result (R94). -/
def Access.dests : Access → List Nat
  | .load vs => vs.map fun v => v.1
  | .rdl d _ _ => [d]
  | .chr d _ _ _ => [d]
  | .arm d _ => [d]
  | .disarm d _ => [d]
  | .store => []

/-- A register of the context is pending (R94). -/
def isPending (c : CtxSt) (i : Nat) : Bool := decide (i ≠ 0) && c.slots.any fun k => k.acc.dests.contains i

/-- What stays of the accesses of a task that has ended: loads in flight are discarded (R118), a store holds its slot until it
acknowledges (R94). -/
def storeSlots (l : List Slot) : List Slot := l.filter fun k => k.acc == .store

/-- Access slots held by the engine (R94). -/
def slotsHeld (u : ShuSt) : Nat :=
  (u.nrm.slots.map fun k => k.held).foldl (· + ·) 0 + (u.exp.slots.map fun k => k.held).foldl (· + ·) 0

/-- An enabled breakpoint matches the PC and bank of the active context (R126): its number, the lowest where several match, which the
specification leaves open (DESIGN CHOICE, log entry 33). -/
def breakpoint (s : State) (e : Nat) : Option Nat :=
  let c := ctx s e (active s e)
  (upto 0 4).find? fun i =>
    rb s (Reg.shuBrk e i) 31 && rf s (Reg.shuBrk e i) 0 11 == c.pc && rf s (Reg.shuBrk e i) 16 1 == runBank c

/-- The engine whose descriptors engine e runs (R590). -/
def logicalEng (s : State) (e : Nat) : Nat := if rb s (Reg.engEsts e) 23 then rf s (Reg.engEsts e) 16 6 else e

/-- An express task of engine e must start within 2 lc, so that the normal context, at an instruction boundary, issues no more
(R63): no instruction but a division, which a start abandons, holds the issue for longer than 3 lc. -/
def expressNear (s : State) (e : Nat) : Bool :=
  !rb s (Reg.shuDbg e) 0 && (s.timed.any fun x => decide (x.1 ≤ s.time + 2) && x.2 == .expressDue (logicalEng s e)) &&
    (s.shed.exPend.any fun x => fld (tget 0 s.shed.table (4 * x.desc)) 0 6 == logicalEng s e)

/-- The engine may issue: a task runs in the active context, no express task is about to take the place of the normal one, and debug
does not stop it (R124 to R126). A STEP issues its instruction also where an enabled breakpoint matches: R125 and R126 do not say which goes first (DESIGN
CHOICE, log entry 33). -/
def mayIssue (s : State) (e : Nat) : Bool :=
  let u := shuSt s e
  running s && !s.chg.swWait && (ctx s e (active s e)).task.isSome && u.back.isNone &&
    !(active s e == .normal && expressNear s e) &&
    (u.step || (!rb s (Reg.shuDbg e) 0 && !rb s (Reg.shuDbg e) 8)) &&
    (u.step || u.skipBrk || (breakpoint s e).isNone)

/-- The cycle in which an instruction that uses the registers `uses` issues (R86, R88). -/
def issueTime (s : State) (e : Nat) (uses : List Nat) : Nat :=
  let c := ctx s e (active s e)
  (uses.map fun i => if i = 0 then 0 else tget 0 c.ready i).foldl max (max s.time (shuSt s e).issueAt)

/-- The instruction has issued: it occupies `occ` lc and execution goes on at `pc` (R88, R125). -/
def retireTo (e : Nat) (x : Ctx) (pc occ : Nat) (s : State) : State :=
  let s := modCtx e x (fun c => { c with
    pc := pc, task := c.task.map fun r => { r with retired := r.retired + 1 } }) s
  modShu e (fun u => { u with issueAt := s.time + occ, step := false, skipBrk := false, brkStop := false }) s

/-- The instruction has issued and execution goes on with the next one. -/
def retire (e : Nat) (x : Ctx) (occ : Nat) (s : State) : State := retireTo e x ((ctx s e x).pc + 1) occ s

/-- A new access of a context, due `lat` lc after issue at the earliest, holding `held` slots (R94). -/
def takeSlot (e : Nat) (x : Ctx) (lat held : Nat) (a : Access) (s : State) : State :=
  let id := (shuSt s e).slotId
  let s := modCtx e x (fun c => { c with slots := c.slots ++ [⟨id, s.time + lat, held, a⟩] }) s
  modShu e (fun u => { u with slotId := id + 1 }) s

/-! ### Port A of the banks (R369, R370) -/

/-- Shuttle accesses to a bank that are in flight: until 6 lc after their grant (R369, R370). -/
def inFlight (s : State) (bank : Nat) : Nat :=
  (s.store.portA.filter fun g => g.bank == bank && decide (s.time < g.at_ + 6)).length

/-- An access to an address must wait before its instruction issues (R370). -/
def bankFull (s : State) (a : Nat) : Bool := decide (33 ≤ inFlight s (bankOf a))

/-- Requests of one bank, in the order of R370, are granted one in each cycle, from `n` on. -/
def grantsA : Nat → List PortA → List PortA
  | _, [] => []
  | n, g :: l => { g with at_ := max n g.asked } :: grantsA (max n g.asked + 1) l

/-- A shuttle asks port A of a bank for an access (R370): oldest first, then by engine number. -/
def askA (r : PortA) (s : State) : State :=
  let live := s.store.portA.filter fun g => decide (s.time < g.at_ + g.lat)
  let mine := live.filter fun g => g.bank == r.bank
  let first := fun g : PortA => decide (g.asked < r.asked ∨ g.asked = r.asked ∧ g.eng ≤ r.eng)
  let new := grantsA 0 (mine.filter first ++ r :: mine.filter fun g => !first g)
  { s with store := { s.store with portA := (live.filter fun g => g.bank != r.bank) ++ new } }

/-- The cycle in which an access slot of engine e completes at the earliest: with the waits for its grants (R96, R370). -/
def slotDue (s : State) (e : Nat) (k : Slot) : Nat :=
  (s.store.portA.filter fun g => g.eng == e && g.slot == k.id).foldl (fun t g => max t (g.at_ + g.lat)) k.at_

/-! ### Faults and drops -/

/-- The descriptor index of a task, without its half. -/
def descIndex (d : Nat) : Nat := d % 4096

/-- SHED.ENG[e].ESTS.STATE (R80). -/
def setEsts (e st : Nat) (s : State) : State := setf (Reg.engEsts e) 0 3 st s

/-- An express request that waits for engine e starts at most 24 lc from now, 8 of them for the switch of contexts (R63, R64,
R67). -/
def expressSoon (e : Nat) (s : State) : State := schedule (s.time + 16) (.expressDue (logicalEng s e)) s

/-- HALTED ends (R124): the time since it began counts for no task, and ESTS shows what the engine does again. -/
def unhalt (e : Nat) (s : State) : State :=
  let d := s.time - (shuSt s e).haltAt
  let late := fun c : CtxSt => { c with task := c.task.map fun r => { r with lost := r.lost + d } }
  let s := expressSoon e (modCtx e .express late (modCtx e .normal late (setb (Reg.shuDbg e) 8 false s)))
  if rf s (Reg.engEsts e) 0 3 ≠ 4 then s
  else setEsts e (if (engSt s e).held then 3 else if rb s (Reg.shuDbg e) 9 || (shuSt s e).back.isSome then 2
                  else if (ctx s e .normal).task.isSome then 1 else 0) s

/-- An express run ends before cycle `fin` (R58, R60, R63): the normal context resumes 4 lc later, and it is what issues next (R129); the engine is charged with the run and
12 lc; EXP_LAT keeps the longest duration (R79), and a budget exceeded is raised. -/
def expressEndAt (e fin : Nat) (s : State) : State :=
  match (shuSt s e).exp.task with
  | none => s
  | some r =>
    let dur := fin - r.start - r.lost
    let s := modCtx e .express (fun c => { c with task := none, slots := storeSlots c.slots }) s
    let s := modCtx e .normal (fun c => { c with task := c.task.map fun t => { t with lost := t.lost + dur + 12 } }) s
    let s := modEng e (fun g => { g with used := g.used + dur + 12 }) s
    let s := setf (Reg.engExpLat e) 16 9 (max (rf s (Reg.engExpLat e) 16 9) (min 511 dur)) s
    let s := when_ (decide (r.budget ≠ 0 ∧ r.budget < dur)) (raise 2762) s
    let s := setb (Reg.shuDbg e) 9 false s
    expressSoon e (modShu e (fun u => { u with back := some (fin + 4), skipBrk := false, brkStop := false }) s)

/-- An express run ends with the instruction that issues now. -/
def expressEnd (e : Nat) (s : State) : State := expressEndAt e (s.time + 1) s

/-- The lc that a normal task of engine e has used before cycle `fin` (R58): express runs are not its own. -/
def runTime (e fin : Nat) (r : Run) (s : State) : Nat :=
  fin - r.start - r.lost - (match (shuSt s e).exp.task with | some x => fin + 8 - x.start - x.lost | none => 0)

/-- What engine e has used for its normal task so far is charged to the present pick (R58). -/
def payRun (e fin : Nat) (s : State) : State :=
  match (shuSt s e).nrm.task with
  | none => s
  | some r =>
    let n := runTime e fin r s
    modCtx e .normal (fun c => { c with task := c.task.map fun r => { r with paid := max r.paid n } })
      (modEng e (fun g => { g with used := g.used + (n - r.paid) }) s)

/-- A normal task ends before cycle `fin` (R58, R60): its time is charged, with 2 lc where another task follows, a budget
exceeded is raised, and the next task may start 2 lc later. -/
def normalEndAt (e fin : Nat) (s : State) : State :=
  match (shuSt s e).nrm.task with
  | none => s
  | some r =>
    let used := runTime e fin r s
    let s := payRun e fin s
    let s := modCtx e .normal (fun c => { c with task := none, slots := storeSlots c.slots, loads := [], cards := [] }) s
    let s := modEng e (fun g => { g with
      used := g.used + (if g.due.isEmpty then 0 else 2), readyAt := max g.readyAt (fin + 2), busy := false }) s
    let s := when_ (decide (rf s (Reg.engEsts e) 0 3 = 1)) (setEsts e (if (engSt s e).held then 3 else 0)) s
    when_ (decide (r.budget ≠ 0 ∧ r.budget < used)) (raise 2762) s

/-- A normal task ends with the instruction that issues now. -/
def normalEnd (e : Nat) (s : State) : State := normalEndAt e (s.time + 1) s

/-- What FPC.PC shows of a PC (R118): past instruction 2,047 the specification states no value, and it is a free one. -/
def faultPc (pc : Nat) (s : State) : Nat × State :=
  if pc < 2048 then (pc, s) else ((freshWord s).1 % 2048, (freshWord s).2)

/-- The task of a context ends at the faulting instruction, which has no effect and takes no cycle of it (R118). FADDR becomes 0 at a fault
without an access (DESIGN CHOICE, log entry 33). -/
def taskFault (e : Nat) (code addr : Nat) (s : State) : State :=
  let x := active s e
  let c := ctx s e x
  let desc := match c.task with | some r => descIndex r.desc | none => 0
  let s := setf (Reg.shuFsts e) 8 4 code (setb (Reg.shuFsts e) 0 true s)
  let r := faultPc c.pc s
  let s := r.2
  let fpc := setBit (setFld (setBit (wd r.1) 11 (decide (runBank c = 1))) 16 12 desc) 31 (x == .express)
  let s := rset (Reg.shuFaddr e) (wd addr) (rset (Reg.shuFpc e) fpc s)
  let s := modShu e (fun u => { u with step := false, skipBrk := false, brkStop := false }) s
  let s := raise (4032 + e) s
  match x with | .normal => normalEndAt e s.time s | .express => expressEndAt e s.time s

/-- An effect is dropped with a code (R100, R104). -/
def dropEffect (e code : Nat) (s : State) : State :=
  raise 4068 (count (Reg.shuDropCnt e) (setf (Reg.shuFsts e) 16 3 code (setb (Reg.shuFsts e) 7 true s)))

/-! ### Channel access (R100) -/

/-- The channel of CHR and CHW (R100). -/
def chanOf (g : Word) (imm : BitVec 14) : Nat := (fld g 0 9 + imm.toNat / 32) % 512

/-- A write of CH[n].STS: its W1C bits, and CNT_CLR (R165, R168). -/
def writeChSts (n : Nat) (v : Word) (s : State) : State :=
  let s := clearBits (Reg.chSts n) (v &&& 0xFFE#32) s
  when_ (bit v 31) (clrAll [Reg.chGlitchCnt n, Reg.chOvrCnt n]) s

/-- A load command with the scope of a harness (R175). -/
def loadHarness (h : Nat) (s : State) : State := forEach (upto (8 * h) 8) armOne s

/-- The device-wide load command (R175): every channel that holds a staged value. -/
def loadEvery (s : State) : State := forEach (upto 0 64) loadHarness s

/-- A LOADNOW lands (R178): NOW_PEND is set; a second one merges. -/
def loadNowOp (h : Nat) (s : State) : State :=
  if rb s (Reg.harnLdsts h) 8 then s
  else modHarn h (fun x => { x with nowAt := s.time }) (setb (Reg.harnLdsts h) 8 true s)

/-- A channel write of an engine reaches its register (R100): selects 0 to 7, 11 and 16 to 18; every other select is
dropped with code 4. -/
def chwLandOp (e n sel : Nat) (v : Word) (s : State) : State :=
  match sel with
  | 0 => writeStaged n 0 (Reg.chRlds n) v s
  | 1 => writeStaged n 1 (Reg.chCmpas n) v s
  | 2 => writeStaged n 2 (Reg.chCmpbs n) v s
  | 3 => writeStaged n 3 (Reg.chFines n) (v &&& 0x1F1F#32) s
  | 4 => liveWrite n 0 (Reg.chRld n) v s
  | 5 => writeCompare n (Reg.chCmpa n) v s
  | 6 => writeCompare n (Reg.chCmpb n) v s
  | 7 => liveWrite n 3 (Reg.chFine n) (v &&& 0x1F1F#32) s
  | 11 => writeChSts n v s
  | 16 => loadHarness (n / 8) s
  | 17 => loadNowOp (n / 8) s
  | 18 => if bit v 0 then loadEvery s else s
  | _ => dropEffect e 4 s

/-- The selects of R100 that are reserved encodings: 14, 15 and 19 to 31. -/
def selReserved (sel : Nat) : Bool := decide (sel = 14 ∨ sel = 15 ∨ 19 ≤ sel)

/-- The register of a CHR select that returns a value as it stands (R100); CAP is read by `capReadOp`. -/
def chrReg (n sel : Nat) : Option Nat :=
  match sel with
  | 0 => some (Reg.chRlds n)
  | 1 => some (Reg.chCmpas n)
  | 2 => some (Reg.chCmpbs n)
  | 3 => some (Reg.chFines n)
  | 4 => some (Reg.chRld n)
  | 5 => some (Reg.chCmpa n)
  | 6 => some (Reg.chCmpb n)
  | 7 => some (Reg.chFine n)
  | 8 => some (Reg.chCnt n)
  | 10 => some (Reg.chCapt n)
  | 11 => some (Reg.chSts n)
  | 12 => some (Reg.chStage n)
  | 13 => some (Reg.chCtl n)
  | _ => none

/-- An edge arrives at the queue of its channel, or is dropped (R104); where several conditions hold, code 2 goes before 1 and 1 before 3
(DESIGN CHOICE, log entry 33). -/
def edgeArrive (e n act : Nat) (t : Inst) (late : Bool) (s : State) : State :=
  let q := (chSt s n).edges
  if chMode s n ≠ 10 then dropEffect e 2 s
  else if 8 ≤ q.length then dropEffect e 1 s
  else if (match q.getLast? with | some y => decide (t.steps < y.t.steps) | none => false) then dropEffect e 3 s
  else when_ late (setb (Reg.chSts n) 8 true)
    (modCh n (fun x => { x with edges := x.edges ++ [⟨t, act, late⟩] }) s)

/-- An effect reaches its target (R101, R104, R107). -/
def landEffect (e : Nat) (f : Effect) (s : State) : State :=
  match f with
  | .chw n sel v => chwLandOp e n sel v s
  | .edge n act t late => edgeArrive e n act t late s
  | .evr src => raise src s

/-- Edges at the head of the effects in flight arrive: no earlier effect waits before them (R101). -/
def drainEdges : Nat → Nat → State → State
  | 0, _, s => s
  | k + 1, e, s =>
    match (shuSt s e).eff with
    | (_, .edge n act t late) :: rest => drainEdges k e (edgeArrive e n act t late (modShu e (fun u => { u with eff := rest }) s))
    | _ => s

/-- The effect that stands first among those of engine e reaches its target, and edges behind it theirs. -/
def landHead (e : Nat) (s : State) : State :=
  match (shuSt s e).eff with
  | [] => s
  | f :: rest => drainEdges 64 e (landEffect e f.2 (modShu e (fun u => { u with eff := rest }) s))

/-- The bound within which an effect reaches its target (R101, R107). -/
def Effect.bound : Effect → Nat
  | .evr _ => 4
  | _ => 16

/-- The effects of engine e that have come to their bound reach their targets, and those issued before them (R101). -/
def effDueOp (e : Nat) (s : State) : State :=
  let due := fun f : Nat × Effect => decide (f.1 + f.2.bound ≤ s.time)
  let q := (shuSt s e).eff
  let k := (q.reverse.dropWhile fun f => !due f).length
  (upto 0 k).foldl (fun t _ => if (shuSt t e).eff.length + k ≤ q.length then t else landHead e t) s

/-- An effect is issued toward its target, behind the engine's earlier ones (R101). -/
def pushEffect (e : Nat) (f : Effect) (s : State) : State :=
  drainEdges 64 e (schedule (s.time + f.bound) (.effDue e) (modShu e (fun u => { u with eff := u.eff ++ [(s.time, f)] }) s))

end Sys2Proof.Machine
end

