-- ==== Sys2Proof/Machine/Card.lean ====
section
/-!
DEFINITION. Operations of the card chain (06_card_chain.md): card words and their validity (R204 to R208), slots (R209 to
R211), completion records (R233 to R236), placing, chaining, passing and firing (R212 to R226), the ends of pulses (R224,
R228), and disarming (R227 to R232).
-/

namespace Sys2Proof.Machine

/-! ### The card in a slot -/

/-- The address of slot n in the card store, and word w of its card (R204). -/
def cardAddr (n : Nat) : Nat := 0x1800000 + 16 * n
def cardWord (s : State) (n w : Nat) : Word := wd (readN s (cardAddr n + 4 * w) 4)
def setCardWord (n w : Nat) (v : Word) (s : State) : State := writeN .card (cardAddr n + 4 * w) 4 v.toNat s

/-- Fields of word 0 (R204). -/
def cChan (w : Word) : Nat := fld w 0 9
def cAct (w : Word) : Nat := fld w 9 3
def cAngle (w : Word) : Bool := bit w 12
def cTrk (w : Word) : Nat := fld w 13 2
def cLimpOk (w : Word) : Bool := bit w 16
def cCatchUp (w : Word) : Bool := bit w 17
def cHold (w : Word) : Bool := bit w 18
def cChain (w : Word) : Bool := bit w 19
def cFine (w : Word) : Nat := fld w 20 5
def cRepeat (w : Word) : Bool := bit w 25
def cQuiet (w : Word) : Bool := bit w 26

/-- A channel action or a load action (R208). -/
def cOnChannel (w : Word) : Bool := decide (cAct w ≤ 5)

def slotSt (s : State) (n : Nat) : SlotSt := tget {} s.chain.slots n
def cw0 (s : State) (n : Nat) : Word := cardWord s n 0

/-- A number modulo 2^56 as a signed distance (R207). -/
def signed56 (x : Int) : Int := if x % 2 ^ 56 < 2 ^ 55 then x % 2 ^ 56 else x % 2 ^ 56 - 2 ^ 56

/-- The instant that a time card's stamp names (R207). -/
def cardTime (s : State) (n : Nat) : Inst :=
  let st : Int := (cardWord s n 1).toNat + 2 ^ 32 * (fld (cardWord s n 2) 0 24 : Nat)
  ⟨((s.time : Int) + signed56 (st - s.time)).toNat, cFine (cw0 s n)⟩

/-- The position that an angle card names, in 2^-16 pu, nearest to its tracker's position (R207). -/
def cardPos (s : State) (n : Nat) : Int :=
  let now := phi s (cTrk (cw0 s n)) s.time
  let p : Int := 2 ^ 24 * (cardWord s n 1).toNat + (fld (cardWord s n 2) 0 24 : Nat)
  (now / 2 ^ 16 + signed56 (p - now / 2 ^ 16)) * 2 ^ 16

/-! ### Validity (R208) -/

/-- The checks of R208 that need only the card. -/
def cardWellFormed (w0 w2 w3 : Word) : Bool :=
  let a := cAct w0
  !bit w0 15 && decide (fld w0 27 5 = 0) && decide (fld w2 24 8 = 0) &&
  (if cAngle w0 then decide (cFine w0 = 0) else decide (cTrk w0 = 0)) &&
  (if a = 6 then decide (cChan w0 ≤ 55) else true) &&
  (if a = 7 then decide (cChan w0 = 0 ∧ fld w3 12 20 = 0) else true) &&
  (if a = 3 then (if bit w3 31 then cAngle w0 && decide (fld w3 0 24 ≠ 0) else decide (fld w3 0 31 ≠ 0)) else true) &&
  (if cHold w0 then
    (decide (a = 0 ∨ a = 2) && decide (w3 ≠ 0) && !cChain w0) ||
    (decide (a = 3) && (!bit w3 31 || decide (fld w3 24 7 ≠ 0)))
   else true) &&
  (if cChain w0 then decide (a = 0 ∨ a = 1 ∨ a = 2 ∨ a = 6) && decide (fld w3 17 15 = 0) else true) &&
  (if cRepeat w0 then cAngle w0 else true)

/-- A card is valid now (R208): well formed, its tracker enabled and not lost, its harness not in SAFE-HOLD. -/
def cardValid (s : State) (w0 w2 w3 : Word) : Bool :=
  cardWellFormed w0 w2 w3 && (!cAngle w0 || !trdLost s (cTrk w0)) &&
    (!cOnChannel w0 || !(harnHeld s (cChan w0 / 8) || decide (mode s = 8)))

/-! ### Slots and their counts (R211, R219, R238) -/

/-- Entries of a slot in the near window: the card, or the end of its pulse (R219). -/
def SlotSt.near (x : SlotSt) : Nat := if x.st = 3 ∨ (x.st = 4 ∧ x.endNear) then 1 else 0

/-- Entries in the near window, CARD.NEAR[10:0]. -/
def nearCount (s : State) : Nat := rf s Reg.cardNear 0 11

/-- The near window is filled in cycle c (R216, R217). -/
def nearAt (c : Nat) (s : State) : State := if s.timed.contains (c, .nearDue) then s else schedule c .nearDue s

/-- The near window takes `d` entries more (R219): its high mark, NEAR_FULL, and source 2,750 on the onset. When room comes, what
waits follows. -/
def nearTo (k : Nat) (s : State) : State :=
  let was := nearCount s
  let s := if 1024 ≤ was ∧ k < 1024 then nearAt (s.time + 1) s else s
  let s := setf Reg.cardNear 16 11 (max k (rf s Reg.cardNear 16 11)) (setf Reg.cardNear 0 11 k s)
  let s := setb Reg.cardSts 0 (decide (1024 ≤ k)) s
  when_ (decide (was < 1024 ∧ 1024 ≤ k)) (raise 2750) s

/-- A slot changes: USED, PEAK and NEAR follow. -/
def setSlot (n : Nat) (x : SlotSt) (s : State) : State :=
  let old := slotSt s n
  let used := rn s Reg.cardUsed + (if x.st = 0 then 0 else 1) - (if old.st = 0 then 0 else 1)
  let near := nearCount s + x.near - old.near
  let s := { s with chain := { s.chain with slots := tset s.chain.slots n x } }
  let s := rset Reg.cardPeak (wd (max used (rn s Reg.cardPeak))) (rset Reg.cardUsed (wd used) s)
  if near = nearCount s then s else nearTo near s

def modSlot (n : Nat) (f : SlotSt → SlotSt) (s : State) : State := setSlot n (f (slotSt s n)) s

/-- A slot becomes FREE; its sequence number and generation stay (R210). -/
def freeSlot (n : Nat) (s : State) : State := modSlot n (fun x => { seq := x.seq, gen := x.gen }) s

/-- The first number at or above `k`, of `fuel` in all, that the rising list of keys does not hold. -/
def firstGap : Nat → Nat → List Nat → Nat
  | 0, k, _ => k
  | _, k, [] => k
  | fuel + 1, k, x :: xs => if x = k then firstGap fuel (k + 1) xs else if x < k then firstGap fuel k xs else k

/-- The lowest-numbered FREE slot (R211). -/
def lowestFree (s : State) : Option Nat :=
  let busy := (s.chain.slots.filter fun e => e.2.st != 0).map fun e => e.1
  let k := firstGap (busy.length + 1) 0 busy
  if k < 131072 then some k else none

/-- A FREE slot takes a card (R210, R211): its sequence number rises. -/
def takeFree (n st : Nat) (gen chained : Bool) (ws : List Word) (s : State) : State :=
  let s := setSlot n { st := st, gen := gen, seq := ((slotSt s n).seq + 1) % 2048, chained := chained } s
  forEach (upto 0 4) (fun w => setCardWord n w (ws.getD w 0)) s

/-- The slots whose card satisfies a test, in rising order. -/
def slotsWhere (s : State) (p : Nat → SlotSt → Bool) : List Nat :=
  (s.chain.slots.filter fun e => p e.1 e.2).map fun e => e.1

/-- A slot holds a card that has not fired: WHEEL, NEAR or WAITING. -/
def SlotSt.pending (x : SlotSt) : Bool := decide (x.st = 2 ∨ x.st = 3 ∨ x.st = 5)

/-! ### Completion records (R233 to R236) -/

/-- Fill of the completion ring (R236). -/
def ringFill (s : State) : Nat :=
  let size := rn s Reg.cardCrSize
  (rn s Reg.cardCrWr + size - rn s Reg.cardCrRd) % size

/-- STS.RING_FULL follows the fill (R239). -/
def ringSts (s : State) : State := setb Reg.cardSts 1 (decide (ringFill s + 1 = rn s Reg.cardCrSize)) s

/-- How an outcome came about (R233): its instant, the instant at which it first was due, LATE, CATCHUP and the cycles slipped. -/
structure How where
  t     : Inst
  due   : Inst := t
  late  : Bool := false
  catch_ : Bool := false
  slip  : Nat := 0
  deriving DecidableEq, Repr

/-- The four words of a completion record (R233). -/
def recordWords (s : State) (n outcome : Nat) (h : How) : List Word :=
  let x := slotSt s n
  let w := cw0 s n
  [setFld (setFld (setFld 0 0 17 n) 17 11 x.seq) 28 4 outcome,
   setFld (setFld (setBit (setBit (setBit (setBit (w &&& 0x7FFF#32) 15 h.late) 16 x.gen) 17 h.catch_) 18 x.chained)
     19 1 (b2n (cRepeat w))) 20 5 h.t.fine ||| setFld 0 25 7 (min 127 h.slip),
   wd h.t.lc, wd (h.t.lc / 2 ^ 32)]

/-- A completion record is written, or lost when the ring is full (R235, R236). -/
def cardRecord (n outcome : Nat) (h : How) (s : State) : State :=
  if !rb s Reg.cardCtl 0 || (cQuiet (cw0 s n) && decide (outcome ≤ 2)) then s
  else
    let size := rn s Reg.cardCrSize
    let fill := ringFill s
    if size ≤ fill + 1 then flagRaise Reg.cardSts 10 2745 (count Reg.cardRecLostCnt s)
    else
      let s := writeBytes .card (rn s Reg.cardCrBase + 16 * rn s Reg.cardCrWr)
        ((recordWords s n outcome h).flatMap fun w => leBytes 4 w.toNat) s
      let s := ringSts (rset Reg.cardCrWr (wd ((rn s Reg.cardCrWr + 1) % size)) s)
      when_ (decide (fill + 1 = rn s Reg.cardCrMark)) (raise 2744) s

/-- The outcome of the present cycle without an action (R233). -/
def decidedNow (s : State) : How := { t := ⟨s.time, 0⟩ }

/-! ### Placing a card -/

/-- The pick length in force (R44, R47). -/
def pickLen (s : State) : Nat := s.shed.len

/-- A position of tracker t lies within 2 × LEN × r of the tracker's, at the rate r last published (R217, R259). -/
def reach (s : State) (t : Nat) (p : Int) : Bool :=
  decide ((p - phi s t s.time) * 2 ^ 8 ≤ 2 * pickLen s * (rn s (Reg.trdRate t) : Int))

/-- A card lies within 2 × LEN of now (R216, R217). -/
def withinNear (s : State) (n : Nat) : Bool :=
  if cAngle (cw0 s n) then reach s (cTrk (cw0 s n)) (cardPos s n) else decide ((cardTime s n).lc ≤ s.time + 2 * pickLen s)

/-- The end of the running pulse of slot n lies within 2 × LEN of now (R219). -/
def endWithin (s : State) (n : Nat) : Bool :=
  match (slotSt s n).endT, (slotSt s n).endP with
  | some t, _ => decide (t.lc ≤ s.time + 2 * pickLen s)
  | none, some p => reach s (cTrk (cw0 s n)) p
  | none, none => false

/-- The instant at which tracker t is projected to reach a position, at the rate last published (R219), in fine steps; far
off where the rate is 0. -/
def projected (s : State) (t : Nat) (p : Int) : Nat :=
  let d := (p - phi s t s.time) * 2 ^ 8
  let r := rn s (Reg.trdRate t)
  if d ≤ 0 then 32 * s.time
  else if r = 0 then 2 ^ 80
  else 32 * s.time + (32 * d.toNat + r - 1) / r

/-- The instant by which slot n enters the near window (R219), in fine steps: of its card, or of the end of its pulse. -/
def nearKey (s : State) (n : Nat) : Nat :=
  let k := cTrk (cw0 s n)
  if (slotSt s n).st = 4 then
    match (slotSt s n).endT, (slotSt s n).endP with
    | some t, _ => t.steps
    | none, some p => projected s k p
    | none, none => 2 ^ 80
  else if cAngle (cw0 s n) then projected s k (cardPos s n)
  else (cardTime s n).steps

/-- Slot n holds a card in the wheel, or a pulse whose end is in the wheel, within reach of the near window. -/
def waitsNear (s : State) (n : Nat) : Bool :=
  let x := slotSt s n
  (x.st == 2 && withinNear s n) || (x.st == 4 && !x.endNear && endWithin s n)

/-- Slot n has its place in the near window: there is room for it and for all that enter before it, the earlier instant first
and the lower slot at a tie (R219). -/
def hasPlace (s : State) (n : Nat) : Bool :=
  let k := nearKey s n
  let ahead := (slotsWhere s fun m _ => m != n && waitsNear s m &&
    decide (nearKey s m < k ∨ nearKey s m = k ∧ m < n)).length
  decide (nearCount s + ahead < 1024)

/-- A card is passed when it reaches the chain: its stamp lies before the earliest instant that the chain can still place,
or its tracker's position is at or beyond its own (R207). A position that the tracker reaches before that instant counts as
passed too: the tracker is just passing it (R218), and no edge can come earlier (R105). -/
def cardPassed (s : State) (n : Nat) (first : Inst) : Bool :=
  if cAngle (cw0 s n) then
    let k := cTrk (cw0 s n)
    decide (cardPos s n ≤ phi s k s.time) ||
      (decide (trdState s k = 3 ∨ trdState s k = 4) &&
        match crossing s k (cardPos s n) with | some t => decide (t.steps < first.steps) | none => false)
  else decide ((cardTime s n).steps < first.steps)

/-- The earliest instant of a card that is not armed by ARM: the next loom cycle (R628). -/
def nextCycle (s : State) : Inst := ⟨s.time + 1, 0⟩

/-- A REPEAT angle card counts as the one of the next machine cycle (R214). -/
def bumpCycle (n : Nat) (s : State) : State := setCardWord n 1 (cardWord s n 1 + 1#32) s

/-- A card whose tracker limps and that may not fire there (R227). -/
def limpSkips (s : State) (n : Nat) : Bool :=
  cAngle (cw0 s n) && decide (trdState s (cTrk (cw0 s n)) = 4) && !cLimpOk (cw0 s n)

/-- The chain is to dispatch in cycle c (R222, R226). -/
def dispatchAt (c : Nat) (s : State) : State :=
  if s.timed.contains (c, .dispatch) then s else schedule c .dispatch s

/-- The card of slot n waits as a catch-up action, due from cycle c on (R226); in the wheel while the near window is full
(R219). -/
def catchUpFrom (c n : Nat) (s : State) : State :=
  dispatchAt (max c (s.time + 1)) (modSlot n (fun x => { x with
    st := if x.st = 3 ∨ nearCount s < 1024 then 3 else 2, catchUp := some c, rearm := false }) s)

/-- The cycle in which slot n comes within 2 × LEN of now, as far as it can be told now (R216, R217). -/
def reachAt (s : State) (n : Nat) : Option Nat :=
  let k := nearKey s n
  if 2 ^ 80 ≤ k then none else some (max (s.time + 1) (k / 32 - 2 * pickLen s))

/-- What slot n holds in the wheel enters the near window when it comes within reach (R216, R217). -/
def nearLater (n : Nat) (s : State) : State :=
  let x := slotSt s n
  if (x.st == 2 && x.catchUp.isNone) || (x.st == 4 && !x.endNear) then
    match reachAt s n with | some c => nearAt c s | none => s
  else s

/-- An armed card is held in the wheel or the near window (R216, R217, R219). -/
def holdCard (n : Nat) (s : State) : State :=
  nearLater n (modSlot n (fun x => { x with st := if withinNear s n && hasPlace s n then 3 else 2,
                                            catchUp := none, rel := if cRepeat (cw0 s n) then none else x.rel, rearm := false }) s)

/-- A card or pulse end enters the near window (R216, R217, R219). -/
def promote (n : Nat) (s : State) : State :=
  modSlot n (fun x => if x.st = 2 then { x with st := 3 } else { x with endNear := true }) s

/-- The slots with a card or a pulse end in the wheel. -/
def inWheel (s : State) : List Nat :=
  slotsWhere s fun _ x => (x.st == 2 && x.catchUp.isNone) || (x.st == 4 && !x.endNear)

/-- Cards and pulse ends within reach enter the near window in their order, as far as there is room; the others follow when
they come within reach (R216, R217, R219). In MAINTENANCE the chain rests. -/
def nearFill (s : State) : State :=
  if !running s || mode s == 9 then s
  else
    let ns := ((inWheel s).filter (waitsNear s)).map fun n => (nearKey s n, n)
    let ns := ns.mergeSort fun x y => decide (x.1 < y.1 ∨ x.1 = y.1 ∧ x.2 ≤ y.2)
    let s := forEach ns (fun x s => if nearCount s < 1024 then promote x.2 s else s) s
    forEach ((inWheel s).filter fun n => !waitsNear s n) nearLater s

/-- The chain re-evaluates what lies within reach (R217): at pick starts and accepted teeth. -/
def nearAgain (s : State) : State := if (inWheel s).isEmpty then s else nearAt (s.time + 1) s

/-- What a passed card counts and raises when it is dropped (R226, R227). -/
def dropCard (n outcome : Nat) (s : State) : State :=
  let s := count (if outcome = 4 then Reg.cardPastCnt else Reg.cardLimpSkipCnt) s
  cardRecord n outcome (decidedNow s) (flagRaise Reg.cardSts 9 2747 s)

/-- A card is armed (R207, R226, R214): it is held for its stamp, waits as a catch-up action, or is dropped; a REPEAT
card that is dropped is armed again for the next machine cycle, up to `fuel` times in one cycle. -/
def armCard : Nat → Inst → Nat → State → State
  | 0, _, n, s => holdCard n s
  | fuel + 1, first, n, s =>
    if !cardPassed s n first then holdCard n s
    else if limpSkips s n || !cCatchUp (cw0 s n) then
      let s := dropCard n (if limpSkips s n then 5 else 4) s
      if cRepeat (cw0 s n) then armCard fuel first n (bumpCycle n s) else freeSlot n s
    else catchUpFrom (max (s.time + 1) first.lc) n s

/-- The task-table half and the code bank of the draft in force (R70, R82): the generation of new cards. After a switch
instant it is the new one at once. -/
def genHalf (s : State) : Nat := s.shed.halfNext.getD (rf s Reg.shedTtsel 8 1)
def curGen (s : State) : Bool := decide (genHalf s = 1)

/-- A card completes (R209, R214): a REPEAT card with DONE, PULSE_END, PAST or LIMP_SKIP is armed for the next machine
cycle, every other card leaves its slot FREE. -/
def completeCard (n outcome : Nat) (h : How) (s : State) : State :=
  let s := cardRecord n outcome h s
  if cRepeat (cw0 s n) && (slotSt s n).gen == curGen s && decide (outcome = 0 ∨ outcome = 2 ∨ outcome = 4 ∨ outcome = 5) then
    let s := bumpCycle n s
    let s := modSlot n (fun x => { x with st := 2, catchUp := none, endT := none, endP := none, capT := none,
                                          endNear := false, left := false }) s
    if trdLost s (cTrk (cw0 s n)) then modSlot n (fun x => { x with st := 5, rearm := true }) s
    else armCard 8 (nextCycle s) n s
  else freeSlot n s

/-- A card that a phase jump passes, or that is reached before it is in the near window (R226, R218). After a stall it
fires whatever its CATCHUP_OK (R264). -/
def passCard (forced : Bool) (n : Nat) (s : State) : State :=
  if limpSkips s n then
    let s := flagRaise Reg.cardSts 9 2747 (count Reg.cardLimpSkipCnt s)
    completeCard n 5 (decidedNow s) s
  else if forced || cCatchUp (cw0 s n) then catchUpFrom (s.time + 1) n s
  else
    let s := flagRaise Reg.cardSts 9 2747 (count Reg.cardPastCnt s)
    completeCard n 4 (decidedNow s) s

/-- An uncorrectable error in the card store is met in reading a card (R234): ERROR, and the card is discarded. -/
def readCard (n : Nat) (s : State) : Bool × State :=
  let r := checkRead .card (cardAddr n) 16 s
  if !r.1 then (true, r.2)
  else
    let s := detect 7 n [cChan (cw0 s n) / 8] true (flagRaise Reg.cardSts 11 2751 (count Reg.cardErrCnt r.2))
    (false, freeSlot n (cardRecord n 13 (decidedNow s) s))

/-! ### ARM and DISARM (R105, R106, R212, R215) -/

/-- A card is refused (R211, R238). -/
def refuseCard (s : State) : State := count Reg.cardRefuseCnt s

/-- The handle of slot n (R105, R210). -/
def cardHandle (s : State) (n : Nat) : Word := setFld (setFld 0 0 17 n) 17 11 (slotSt s n).seq

/-- The result of ARM is given to the access slot that awaits it (R105); a run that has ended meanwhile receives no handle
(R115, R118). -/
def giveHandle (u : Submit) (h : Word) (s : State) : State :=
  modCtx u.e u.ctx (fun c =>
    let waits := c.slots.any fun k => k.id == u.id && (match k.acc with | .arm _ none => true | _ => false)
    if !waits then c
    else { c with
      slots := c.slots.map fun k => if k.id = u.id then
        { k with acc := match k.acc with | .arm d _ => .arm d (some h) | a => a } else k
      cards := if bit h 31 ∨ 128 ≤ c.cards.length then c.cards else c.cards ++ [h] }) s

/-- A card reaches the chain (R212): checked, given a slot and placed. -/
def placeSubmit (u : Submit) (s : State) : State :=
  let w := fun k => u.words.getD k 0
  if mode s = 9 ∨ u.gen ≠ curGen s ∨ !cardValid s (w 0) (w 2) (w 3) then
    giveHandle u 0x80000002#32 (refuseCard s)
  else
    match lowestFree s with
    | none => giveHandle u 0x80000001#32 (refuseCard s)
    | some n =>
      let s := takeFree n 2 u.gen false u.words s
      giveHandle u (cardHandle s n) (armCard 8 ⟨u.at_ + 24, 0⟩ n s)

/-- The card submitted first reaches the chain. -/
def placeFirst (s : State) : State :=
  match s.chain.submit with
  | [] => s
  | u :: rest => placeSubmit u { s with chain := { s.chain with submit := rest } }

/-- The cards whose bound of 8 lc has come reach the chain (R212). -/
def placeDue (s : State) : State :=
  let k := (s.chain.submit.filter fun u => decide (u.at_ + 8 ≤ s.time)).length
  if running s then (upto 0 k).foldl (fun s _ => placeFirst s) s else s

/-! ### Chained copies (R214) -/

/-- The words of a chained copy, its stamp made relative to the firing card at instant `t` (R214). -/
def chainWords (s : State) (n m : Nat) (t : Inst) : List Word :=
  let w0 := cw0 s m
  let w1 := cardWord s m 1
  let w2 := cardWord s m 2
  if cAngle w0 then
    let base := if cAngle (cw0 s n) then cardWord s n 1 else posCycle (phi s (cTrk w0) t.lc)
    [w0, w1 + base, w2, cardWord s m 3]
  else
    let st := w1.toNat + 2 ^ 32 * fld w2 0 24
    let x := t.steps + 32 * st + cFine w0
    [setFld w0 20 5 (x % 32), wd (x / 32), setFld w2 0 24 (x / 2 ^ 37), cardWord s m 3]

/-- A firing CHAIN card copies its parked card into a FREE slot and arms it, or writes CHAIN_FAIL (R214). -/
def chainCopy (n : Nat) (t : Inst) (s : State) : State :=
  if !cChain (cw0 s n) then s
  else
    let m := fld (cardWord s n 3) 0 17
    let fail := cardRecord n 12 (decidedNow s)
    let r := readCard m s
    if (slotSt s m).st ≠ 1 then fail s
    else if !r.1 then fail r.2
    else
      let ws := chainWords s n m t
      if !cardValid s (ws.getD 0 0) (ws.getD 2 0) (ws.getD 3 0) then fail r.2
      else
        match lowestFree s with
        | none => fail r.2
        | some k => armCard 8 (nextCycle s) k (takeFree k 2 (slotSt s n).gen true ws r.2)

/-! ### Outputs (R223, R224, R227) -/

/-- The output of a CARD_OUT channel becomes active or inactive; of several changes of a pair at one fine step only the
net levels count, so that a change taken back leaves no gap, no pulse and no period start (R223). -/
def cardOut (n : Nat) (lv : Bool) (t : Inst) (s : State) : State :=
  let k := n / 2
  let first := fun s : State =>
    let l : LastOut := ⟨t, (reedSt s k).a, (reedSt s k).b, rf s (Reg.reedSts k) 3 2, rget s (Reg.reedSwlCnt k),
      (chOut s (2 * k), chOut s (2 * k + 1))⟩
    setOut n lv t { s with chain := { s.chain with last := tset s.chain.last k l } }
  if chOut s n = lv then s
  else
    match s.chain.last.find? fun e => e.1 == k with
    | some (_, l) =>
      if l.t = t then
        let s := modReed k (fun r => { r with a := l.a, b := l.b }) (setb (Reg.chSts n) 17 lv s)
        let s := rset (Reg.reedSwlCnt k) l.swl (setf (Reg.reedSts k) 3 2 l.sts s)
        let s := if lv && !(if n % 2 = 0 then l.was.1 else l.was.2) then periodStart n s else s
        refreshPair k t s
      else first s
    | none => first s

/-- The running pulses of channel c (R224). -/
def runningOn (s : State) (c : Nat) : List Nat :=
  slotsWhere s fun n x => x.st == 4 && !x.left && cChan (cw0 s n) == c

/-- The output and the angle pulse of a channel after the actions of a fine step (R223): CLEAR and pulse ends, then SET and
PULSE starts, then TOGGLE in slot order. -/
def FineStep.net (x : FineStep) : Bool × Option AnglePulse :=
  let a := if x.clr then (false, none) else (x.was, x.mark)
  let b := match x.set with | some m => (true, m) | none => a
  (x.tog.mergeSort fun y z => decide (y.1 ≤ z.1)).foldl (fun a y => if a.1 then (false, none) else (true, y.2)) b

/-- A card action on the output of channel c at an instant: the net effect of its fine step stands (R223). -/
def outStep (c : Nat) (t : Inst) (f : FineStep → FineStep) (s : State) : State :=
  let fresh : FineStep := { t := t, was := chOut s c, mark := (chSt s c).pulse }
  let x := f <| match s.chain.fine.find? fun e => e.1 == c with
    | some (_, x) => if x.t = t then x else fresh
    | none => fresh
  let s := { s with chain := { s.chain with fine := tset s.chain.fine c x } }
  cardOut c x.net.1 t (modCh c (fun y => { y with pulse := x.net.2 }) s)

/-- The angle pulse that the card of slot n makes of an active output, with its cap (R227). -/
def angleMark (s : State) (n : Nat) (cap : Option Inst) : Option AnglePulse :=
  let w := cw0 s n
  if cAngle w then some { trk := cTrk w, hold := cHold w, cap := cap, slot := n } else none

/-- The output of the channel of slot n is made active, with the card's cap (R205, R227), or inverted. -/
def setOutput (n : Nat) (cap : Option Inst) (t : Inst) (s : State) : State :=
  outStep (cChan (cw0 s n)) t (fun x => { x with set := some (angleMark s n cap) }) s
def toggleOutput (n : Nat) (cap : Option Inst) (t : Inst) (s : State) : State :=
  outStep (cChan (cw0 s n)) t (fun x => { x with tog := x.tog ++ [(n, angleMark s n cap)] }) s

/-- The output of channel c is made inactive by a CLEAR or a pulse end (R224). -/
def endOutput (c : Nat) (t : Inst) (s : State) : State := outStep c t (fun x => { x with clr := true }) s

/-- An instant later by a number of loom cycles. -/
def Inst.plus (t : Inst) (lc : Nat) : Inst := { t with lc := t.lc + lc }

/-- A PULSE of slot n starts at an instant (R206, R224, R226). -/
def startPulse (n : Nat) (h : How) (s : State) : State :=
  let w3 := cardWord s n 3
  let s := cardRecord n 1 h s
  if bit w3 31 then
    let endP := cardPos s n + (fld w3 0 24 : Nat) * 2 ^ 16
    let cap := if fld w3 24 7 = 0 then none else some (h.t.plus (fld w3 24 7 * 131072))
    let past := if endP ≤ phi s (cTrk (cw0 s n)) s.time then some ⟨max h.t.lc s.time + 1, 0⟩ else none
    let s := modSlot n (fun x => { x with st := 4, catchUp := none, endT := past, endP := some endP, capT := cap, start := some h.t }) s
    setOutput n cap h.t (nearLater n (modSlot n (fun x => { x with endNear := endWithin s n && hasPlace s n }) s))
  else
    let e := h.t.plus (fld w3 0 31)
    let s := modSlot n (fun x => { x with st := 4, catchUp := none, endT := some e, capT := some e, start := some h.t }) s
    setOutput n (some e) h.t (nearLater n (modSlot n (fun x => { x with endNear := endWithin s n && hasPlace s n }) s))

/-- An action marked LATE counts and is raised (R237 to R239). -/
def noteLate (h : How) (s : State) : State :=
  when_ h.late (fun s => flagRaise Reg.cardSts 8 2746 (count Reg.cardLateCnt s)) s

/-- A running pulse ends (R224): its record, and the output unless another pulse of the channel runs. -/
def endPulse (n outcome : Nat) (h : How) (s : State) : State :=
  let c := cChan (cw0 s n)
  let left := (slotSt s n).left
  let s := noteLate h s
  let s := completeCard n (if left then 11 else outcome) (if left then { h with t := ⟨h.t.lc, 0⟩ } else h) s
  if left || !(runningOn s c).isEmpty then s else endOutput c h.t s

/-! ### Firing (R205, R222, R225) -/

/-- The action of slot n is performed at an instant (R205, R225); an action whose target does not fit has no effect and
completes as INAPPLICABLE. The record of a chain that fails precedes the card's own, an order that R214 leaves open (DESIGN CHOICE, log
entry 37). -/
def fireCard (n : Nat) (h : How) (s : State) : State :=
  let w := cw0 s n
  let c := cChan w
  let s := chainCopy n h.t s
  let s := noteLate h s
  let cap := if cHold w then some (h.t.plus (cardWord s n 3).toNat) else none
  let done := completeCard n 0 h
  let none_ := completeCard n 11 { h with t := ⟨h.t.lc, 0⟩ }
  match cAct w with
  | 0 =>
    if chMode s c ≠ 9 then none_ s
    else done (setOutput n cap h.t s)
  | 1 =>
    if chMode s c ≠ 9 then none_ s
    else
      let ms := (runningOn s c).filter fun m => (slotSt s m).start != some h.t
      done (endOutput c h.t (forEach ms (fun m => completeCard m 2 { t := h.t }) s))
  | 2 =>
    if chMode s c ≠ 9 then none_ s
    else done (toggleOutput n cap h.t s)
  | 3 => if chMode s c ≠ 9 then none_ s else startPulse n h s
  | 4 => if chMode s c = 0 then none_ s else done (writeCompare c (Reg.chCmpa c) (cardWord s n 3) s)
  | 5 => if chMode s c = 0 then none_ s else done (writeCompare c (Reg.chCmpb c) (cardWord s n 3) s)
  | 6 => done (raise (2688 + c) s)
  | _ =>
    let d := 4096 * exHalfNow s + fld (cardWord s n 3) 0 12
    let d0 := tget 0 s.shed.table (4 * d)
    if !bit d0 31 || decide (fld d0 6 2 ≠ 3) || decide (31 < fld d0 0 6) then none_ s
    else
      let p := expressRequest d (0x80000000#32 + wd n) (s, [])
      done (forEach p.2 raise p.1)

/-- The chain fires cards in these modes (R230, R231): from IDLE on, but not in MAINTENANCE. -/
def chainRuns (s : State) : Bool := running s && decide (mode s ≠ 9)

/-- Whether and when an action is due, from the present cycle on (R220, R221, R226, R229): how it fires, or
that it has been passed before it could. A card that R219 keeps out of the near window at its instant is passed (R218). -/
inductive Due where
  | no
  | at_ (h : How)
  | passed
  deriving DecidableEq, Repr

/-- An instant in device time that the last step has skipped (R502). -/
def skipped (s : State) (lc : Nat) : Bool :=
  match s.sel.skipLo with | some lo => decide (lo ≤ lc ∧ lc < s.time) | none => false

/-- An instant not earlier than the present cycle, with what it then slips (R222); one in skipped device time slips
nothing (R502). -/
def lateBy (s : State) (t : Inst) : How :=
  if t.lc < s.time then
    { t := ⟨s.time, 0⟩, due := t, late := true, slip := if skipped s t.lc then 0 else s.time - t.lc }
  else { t := t }

/-- The instant at which the position of tracker k crossed p (R221), within the last 1,024 cycles. -/
def crossed (s : State) (k : Nat) (p : Int) : Option Inst :=
  let f := phi s k
  let lo := s.time - 1024
  if p ≤ f lo || f s.time < p then none
  else
    let c := crossSearch f p 10 lo
    let a := f c
    let d := f (c + 1) - a
    let x := ((32 * (p - a) + d - 1) / d).toNat
    some (if x = 32 then ⟨c + 1, 0⟩ else ⟨c, x⟩)

/-- An angle card of slot n whose position has been reached (R218, R221, R222): one in the near window fires, at its instant
or slipped; one in the wheel fires if its instant is the present one or lies in the run of full cycles up to now, else it
is passed. -/
def reachedDue (s : State) (n k : Nat) (p : Int) : Due :=
  match crossed s k p with
  | none => .passed
  | some t =>
    if (slotSt s n).st = 3 ∨ t.lc = s.time ∨ (s.time ≤ s.chain.fullTo ∧ s.chain.fullFrom ≤ t.lc) then .at_ (lateBy s t) else .passed

/-- A card at or below p_max is due where the position first exceeds its own by HYST (R229): LATE and CATCHUP, slipped where
that lies behind. -/
def hystDue (s : State) (k : Nat) (q : Int) (full : Bool) : Due :=
  let how := fun h : How => Due.at_ { h with late := true, catch_ := true }
  if q ≤ phi s k s.time then
    if full then .passed
    else how (match crossed s k q with | some t => lateBy s t | none => { t := nowInst s, slip := 1024 })
  else match crossing s k q with | some t => if full then .no else how { t := t } | none => .no

/-- The position at which an angle card fires that lies at or below p_max (R229): beyond its own by the hysteresis of its tracker. -/
def hystPos (s : State) (n : Nat) : Int := cardPos s n + (rf s (Reg.trdHyst (cTrk (cw0 s n))) 0 24 : Nat) * 2 ^ 16

/-- The angle card of slot n lies at or below the p_max on record (R229). -/
def belowMax (s : State) (n : Nat) : Bool :=
  match (trdSt s (cTrk (cw0 s n))).pmax with | some pm => decide (cardPos s n ≤ pm) | none => false

def cardDue (s : State) (n : Nat) : Due :=
  let x := slotSt s n
  let w := cw0 s n
  if !chainRuns s || (decide (x.st ≠ 2) && decide (x.st ≠ 3)) then .no
  else
    match x.catchUp with
    | some c =>
      if cAngle w && decide (trdState s (cTrk w) ≠ 3 ∧ trdState s (cTrk w) ≠ 4) then .no
      else if cAngle w && belowMax s n then hystDue s (cTrk w) (hystPos s n) false
      else .at_ { t := ⟨max c s.time, 0⟩, due := ⟨c, 0⟩, late := true, catch_ := true, slip := s.time - c }
    | none =>
      let full := x.st == 2 && decide (1024 ≤ nearCount s)
      if !cAngle w then
        let t := cardTime s n
        if full then (if t.lc ≤ s.time then .passed else .no) else .at_ (lateBy s t)
      else
        let k := cTrk w
        let p := cardPos s n
        if trdState s k ≠ 3 ∧ trdState s k ≠ 4 then .no
        else
          match (trdSt s k).pmax with
          | some pm =>
            if p ≤ pm then hystDue s k (hystPos s n) full
            else if p ≤ phi s k s.time then (if full then .passed else reachedDue s n k p)
            else match crossing s k p with | some t => if full then .no else .at_ { t := t } | none => .no
          | none =>
            if p ≤ phi s k s.time then (if full then .passed else reachedDue s n k p)
            else match crossing s k p with | some t => if full then .no else .at_ { t := t } | none => .no

/-- The running pulse of slot n ends by a state of its tracker (R228), and not by its width. -/
def endsByState (s : State) (n : Nat) : Bool :=
  let w := cw0 s n
  match (chSt s (cChan w)).pulse with
  | some p => (p.soon || p.ends) && cAngle w && cTrk w == p.trk && !(slotSt s n).left
  | none => false

/-- When the running pulse of slot n ends (R206, R221, R224, R226). -/
def pulseDue (s : State) (n : Nat) : Due :=
  let x := slotSt s n
  if !chainRuns s || decide (x.st ≠ 4) || endsByState s n then .no
  else
    match x.endT, x.endP with
    | some t, _ => .at_ (lateBy s t)
    | none, some p =>
      let k := cTrk (cw0 s n)
      if p ≤ phi s k s.time then
        .at_ (match crossed s k p with | some t => lateBy s t | none => { t := nowInst s, late := true, slip := 1024 })
      else if trdState s k ≠ 3 ∧ trdState s k ≠ 4 then .no
      else match crossing s k p with | some t => .at_ { t := t } | none => .no
    | none, none => .no

/-- Card actions dispatched so far in the present cycle (R222). -/
def dispatched (s : State) : Nat := if s.chain.dispAt = s.time then s.chain.dispN else 0

/-- One more card action is dispatched in the present cycle; the 16th leaves no room (R222). -/
def dispatchOne (s : State) : State :=
  let k := dispatched s + 1
  let c := { s.chain with dispAt := s.time, dispN := k }
  { s with chain := if k < 16 then c else
      { c with fullFrom := if c.fullTo = s.time ∨ c.fullTo = s.time + 1 then c.fullFrom else s.time, fullTo := s.time + 1 } }

/-- DISARM of a handle (R106, R215): the result, and the state with the card cancelled. A card that is due in this cycle fires. -/
def disarmOp (h : Word) (s : State) : Word × State :=
  let n := fld h 0 17
  let x := slotSt s n
  if x.seq ≠ fld h 17 11 ∨ x.st = 1 then (2, s)
  else if !x.pending then (1, s)
  else if (match cardDue s n with | .at_ h => decide (h.t.lc = s.time) | _ => false) then (1, dispatchAt s.time s)
  else (0, freeSlot n (cardRecord n 3 (decidedNow s) s))

/-- The cards of a failed run that have not fired are cancelled (R115). -/
def cancelCards (hs : List Word) (s : State) : State := forEach hs (fun h s => (disarmOp h s).2) s

/-! ### Tracker states (R227 to R229) -/

/-- The pins that channel c feeds show SAFE until its next period start (R190, R228), and STS.WAIT is 1. -/
def safeUntilPeriod (c : Nat) (s : State) : State :=
  let s := forEach (feeds s c) (fun n => modCh n fun x => { x with released := false }) s
  setb (Reg.chSts c) 20 true s

/-- The active angle pulse of channel c ends as SAFE_END or CAP_END (R228): the running pulses of its tracker's cards
complete, and each end is counted; an output that a SET or TOGGLE made active is one pulse. -/
def endAngle (c outcome : Nat) (h : How) (s : State) : State :=
  match (chSt s c).pulse with
  | none => s
  | some p =>
    let s := noteLate h s
    let mine := (runningOn s c).filter fun n => cAngle (cw0 s n) && cTrk (cw0 s n) == p.trk
    let s := forEach mine (fun n s => freeSlot n (cardRecord n outcome h s)) s
    let s := raise 2749 (countN Reg.cardSafeEndCnt (max 1 mine.length) (endOutput c h.t s))
    when_ (decide (outcome = 7)) (safeUntilPeriod c) s

/-- The angle pulse of channel c ends some cycles later, at most 8 and at least one (R228, R628): a free value. -/
def endAngleSoon (c : Nat) (p : AnglePulse) (s : State) : State :=
  let x := freshWord s
  schedule (s.time + 1 + x.1 % 8) (.angleEnd c p.slot) (modCh c (fun y => { y with pulse := some { p with soon := true } }) x.2)

/-- The angle pulse of channel c that a state of its tracker ends has its end now (R228). -/
def angleEndNow (c slot : Nat) (s : State) : State :=
  match (chSt s c).pulse with
  | some p => if p.soon && p.slot == slot then endAngle c (if p.hold then 8 else 7) (decidedNow s) s else s
  | none => s

/-- The active angle pulses of tracker t end (R228): at once, or at their cap where HOLD_TO_CAP is set and the cap is
still to come. -/
def endAngles (t : Nat) (s : State) : State :=
  forEach ((s.ch.filter fun e => match e.2.pulse with | some p => p.trk == t | none => false).map fun e => e.1)
    (fun c s =>
      match (chSt s c).pulse with
      | none => s
      | some p =>
        if p.soon || p.ends then s
        else if p.hold && (match p.cap with | some q => decide (s.time < q.lc) | none => true) then
          modCh c (fun x => { x with pulse := some { p with ends := true } }) s
        else endAngleSoon c p s) s

/-- Pending angle cards of tracker t are disarmed on loss of sync (R228, R214): REPEAT and preload cards wait. -/
def syncDisarm (t : Nat) (s : State) : State :=
  let mine := slotsWhere s fun n x => (x.st == 2 || x.st == 3) && cAngle (cw0 s n) && cTrk (cw0 s n) == t
  let s := forEach mine (fun n s =>
    if cRepeat (cw0 s n) then modSlot n (fun x => { x with st := 5, rearm := true, catchUp := none }) s
    else
      match (slotSt s n).rel with
      | some (w1, w2) => modSlot n (fun x => { x with st := 5, catchUp := none }) (setCardWord n 1 w1 (setCardWord n 2 w2 s))
      | none => freeSlot n (cardRecord n 6 (decidedNow s) (count Reg.cardSyncDisarmCnt s))) s
  when_ (!mine.isEmpty) (raise 2748) s

/-- An angle card's relative stamp is counted from a reference position (R213). -/
def armAngleRel (ref : Int) (n : Nat) (s : State) : State :=
  let ph := (fld (cardWord s n 2) 0 24 : Nat)
  let k := posCycle ref + cardWord s n 1 + (if (ref / 2 ^ 16) % 2 ^ 24 ≤ (ph : Int) then 0 else 1)
  armCard 8 (nextCycle s) n (modSlot n (fun x => { x with st := 2 }) (setCardWord n 1 k s))

/-- Waiting cards of tracker t are armed when sync is gained (R213, R214, R228): preload cards relative to the cycle and
phase of that instant, REPEAT cards for the first cycle that starts after it. -/
def armWaiting (t : Nat) (s : State) : State :=
  let ref := phi s t s.time
  let mine := slotsWhere s fun n x => x.st == 5 && !x.staged && cAngle (cw0 s n) && cTrk (cw0 s n) == t
  forEach mine (fun n s =>
    if (slotSt s n).rearm then
      armCard 8 (nextCycle s) n (modSlot n (fun x => { x with st := 2, rearm := false })
        (setCardWord n 1 (posCycle ref + 1#32) s))
    else armAngleRel ref n s) s

/-- Catch-up actions of tracker t that its state has kept back are due again once it moves on (R227). -/
def resumeCatchUps (t : Nat) (s : State) : State :=
  if trdState s t ≠ 3 ∧ trdState s t ≠ 4 then s
  else
    forEach (slotsWhere s fun n x => x.catchUp.isSome && cAngle (cw0 s n) && cTrk (cw0 s n) == t && !belowMax s n)
      (catchUpFrom (s.time + 1)) s

/-- Cards at or below p_max that have not fired when its record is dropped follow as slipped (R222, R229). -/
def slipReversed (t : Nat) (pm : Int) (s : State) : State :=
  let ns := slotsWhere s fun n x => (x.st == 2 || x.st == 3) && cAngle (cw0 s n) && cTrk (cw0 s n) == t && decide (cardPos s n ≤ pm)
  forEach ns (fun n s => catchUpFrom ((crossed s t (hystPos s n)).getD (nowInst s)).lc n s) s

/-- The cards of tracker t that a step of its position from `a` to `b` passes (R258): up to the anchoring tooth's position
less SETTLE, in phase order. -/
def passedBy (s : State) (t : Nat) (a b : Int) : List Nat :=
  let mine := slotsWhere s fun n x =>
    (x.st == 2 || x.st == 3) && x.catchUp.isNone && cAngle (cw0 s n) && cTrk (cw0 s n) == t &&
      decide (a < cardPos s n ∧ cardPos s n ≤ b)
  (mine.map fun n => (cardPos s n, n)).mergeSort (fun x y => decide (x.1 ≤ y.1)) |>.map fun x => x.2

/-- Pulses whose angle end a step of the position passes end at once (R226). -/
def endsPassed (t : Nat) (a b : Int) (s : State) : State :=
  let ns := slotsWhere s fun n x => x.st == 4 && x.endT.isNone && cTrk (cw0 s n) == t &&
    (match x.endP with | some p => decide (a < p ∧ p ≤ b) | none => false)
  forEach ns (fun n s => modSlot n (fun x => { x with endT := some ⟨s.time + 1, 0⟩ }) s) s

/-! ### Holds, MAINTENANCE, mode changes of a channel (R225, R230, R231) -/

/-- Channel c has left CARD_OUT: its running pulses act no more (R225). -/
def leftCardOut (c : Nat) (s : State) : State :=
  let s := forEach (runningOn s c) (fun n => modSlot n fun x => { x with left := true }) s
  let s := { s with chain := { s.chain with fine := s.chain.fine.filter fun e => e.1 != c } }
  modCh c (fun x => { x with pulse := none }) s

/-- Cards and running pulses are disarmed as HOLD_DISARM (R230, R231). Where any is, source 2,748 is raised, on entry to MAINTENANCE
too, for which R237 does not say it (DESIGN CHOICE, log entry 37). -/
def holdDisarm (ns : List Nat) (s : State) : State :=
  let cs := (ns.filter fun n => (slotSt s n).st == 4 && !(slotSt s n).left).map fun n => cChan (cw0 s n)
  let s := forEach ns (fun n s => freeSlot n (cardRecord n 9 (decidedNow s) s)) s
  let s := forEach cs (fun c s => if (runningOn s c).isEmpty then endOutput c ⟨s.time, 0⟩ s else s) s
  when_ (!ns.isEmpty) (raise 2748) s

/-- The cards of harness h that a hold disarms (R231); those of a staged draft stay (R474). -/
def cardsOfHarness (s : State) (h : Nat) : List Nat :=
  slotsWhere s fun n x => (x.pending || x.st == 4) && !x.staged && cOnChannel (cw0 s n) && cChan (cw0 s n) / 8 == h

/-- The cards that a hold of the whole device disarms (R231). -/
def cardsOfDevice (s : State) : List Nat := slotsWhere s fun _ x => (x.pending || x.st == 4) && !x.staged

/-! ### Dispatch (R222) -/

/-- A card action: the card of a slot, the end of its pulse, or the cap end of the angle pulse of a channel (R222, R228). -/
inductive Act where
  | card (n : Nat)
  | pulseEnd (n : Nat)
  | capEnd (c : Nat)
  deriving DecidableEq, Repr

/-- An action that is due, with its place in the order of R222: the cycle in which it first was due, catch-up actions before the
others of that cycle, then phase or instant, then the slot. -/
structure Action where
  act  : Act
  how  : How
  norm : Bool
  key  : Int
  slot : Nat
  deriving DecidableEq, Repr

/-- Action x goes before action y (R222). -/
def Action.before (x y : Action) : Bool :=
  decide (x.how.due.lc < y.how.due.lc ∨ x.how.due.lc = y.how.due.lc ∧
    (x.norm = false ∧ y.norm = true ∨ x.norm = y.norm ∧ (x.key < y.key ∨ x.key = y.key ∧ x.slot < y.slot)))

/-- The actions due by now. -/
def dueActions (s : State) : List Action :=
  let due := fun (d : Due) (f : How → Action) => match d with
    | .at_ h => if h.t.lc ≤ s.time then [f h] else []
    | _ => []
  let slot := fun e : Nat × SlotSt =>
    due (cardDue s e.1) (fun h =>
      let up := e.2.catchUp.isSome
      ⟨.card e.1, h, !up, if up then (if cAngle (cw0 s e.1) then cardPos s e.1 else 0) else h.due.steps, e.1⟩) ++
    due (pulseDue s e.1) (fun h => ⟨.pulseEnd e.1, h, true, h.due.steps, e.1⟩)
  let cap := fun e : Nat × ChSt => match e.2.pulse with
    | some p => match p.cap with
      | some q => if p.ends && decide (q.lc ≤ s.time) then [⟨.capEnd e.1, lateBy s q, true, q.steps, p.slot⟩] else []
      | none => []
    | none => []
  s.chain.slots.flatMap slot ++ s.ch.flatMap cap

/-- The action that the chain dispatches next. -/
def firstAction (s : State) : Option Action :=
  (dueActions s).foldl (fun b x => match b with | some y => if x.before y then some x else b | none => some x) none

/-- The card of slot n is dispatched: it is read, skipped where its tracker limps, or fires. -/
def dispatchCard (n : Nat) (h : How) (s : State) : State :=
  let r := readCard n (dispatchOne s)
  if !r.1 then r.2
  else if limpSkips r.2 n then passCard false n r.2
  else fireCard n h r.2

/-- An action is dispatched. -/
def dispatch (x : Action) (s : State) : State :=
  match x.act with
  | .card n => dispatchCard n x.how s
  | .pulseEnd n => endPulse n 2 x.how (dispatchOne s)
  | .capEnd c => endAngle c 8 x.how (dispatchOne s)

/-- The chain dispatches the actions due in their order (R222), up to `a` where one is named; what finds no room slips to the
next cycle. -/
def dispatchUpTo (a : Option Act) : Nat → State → State
  | 0, s => s
  | fuel + 1, s =>
    match firstAction s with
    | none => s
    | some x =>
      if 16 ≤ dispatched s then dispatchAt (s.time + 1) s
      else if a = some x.act then dispatch x s
      else dispatchUpTo a fuel (dispatch x s)

/-- What is due is dispatched (R222, R226). -/
def dispatchDue (s : State) : State := dispatchUpTo none 17 s

/-! ### Registers (R239 to R242) -/

/-- CARD.STS as it reads: GATED shows the trackers that are stalled, reversing or lost (R239). -/
def cardStsView (s : State) : Word :=
  (upto 0 4).foldl (fun w t => setBit w (4 + t) (decide (trdState s t ≠ 3 ∧ trdState s t ≠ 4))) (rget s Reg.cardSts)

/-- CARD.SLOTSTS as it reads (R240). -/
def slotStsView (s : State) : Word :=
  let x := slotSt s (rf s Reg.cardSlotsel 0 17)
  setFld (setBit (wd x.st) 4 x.gen) 8 11 x.seq

/-- A write of CR_RD names a record between CR_RD and CR_WR (R242). -/
def crRdValid (s : State) (v : Nat) : Bool :=
  let size := rn s Reg.cardCrSize
  decide (v < size ∧ (v + size - rn s Reg.cardCrRd) % size ≤ ringFill s)

/-- A completion ring that CR_BASE and CR_SIZE may describe (R242). -/
def crRingValid (base size : Nat) : Bool :=
  decide (0x1A00000 ≤ base ∧ base % 4096 = 0 ∧ base + 16 * size ≤ 0x1B00000) &&
    ((upto 4 13).any fun k => size == 2 ^ k)

/-- CARD.CTL.CNT_CLR (R239). -/
def cardCntClrOp (s : State) : State :=
  let s := clrAll [Reg.cardLateCnt, Reg.cardPastCnt, Reg.cardLimpSkipCnt, Reg.cardSyncDisarmCnt, Reg.cardSafeEndCnt,
    Reg.cardRecLostCnt, Reg.cardNearFullCnt, Reg.cardRefuseCnt, Reg.cardErrCnt] s
  setf Reg.cardNear 16 11 (nearCount s) (rset Reg.cardPeak (rget s Reg.cardUsed) s)

end Sys2Proof.Machine
end

