-- ==== Sys2Proof/Machine/Track.lean ====
section
/-!
DEFINITION. Operations of the treadle trackers (07_treadle_trackers.md): wheel patterns (R249 to R251), ratio checks
(R252), screening and the gaining of sync (R255, R256), accepted teeth (R257 to R259), loss of sync, LIMP, stall and
reversal (R260 to R265), position-interface masters (R266) and tooth records (R268, R269).
-/

namespace Sys2Proof.Machine

/-! ### Fields and sources -/

def trdSrc (s : State) (t : Nat) : Nat := rf s (Reg.trdCtl t) 1 2
def secEn (s : State) (t : Nat) : Bool := rb s (Reg.trdCtl t) 3
def nsec (s : State) (t : Nat) : Nat := rf s (Reg.trdSec t) 0 4
def secTol (s : State) (t : Nat) : Nat := rf s (Reg.trdSecTol t) 0 24
def secAngle (s : State) (t i : Nat) : Nat := rf s (Reg.trdSecang t i) 0 24

/-- Source 2,304 + 16 t + i is raised (R273). -/
def trdRaise (t i : Nat) : State → State := raise (2304 + 16 * t + i)

/-- STS.STATE and STS.SYNC of tracker t (R253), and what follows from them in CARD.STS.GATED and in the mode (R423). -/
def setTrdState (t st : Nat) (s : State) : State :=
  modeAuto <| resumeCatchUps t (setb (Reg.trdSts t) 3 (decide (3 ≤ st)) (setf (Reg.trdSts t) 0 3 st s))

/-! ### The wheel pattern (R249, R250) -/

def wheelN (s : State) (t : Nat) : Nat := rf s (Reg.trdWheel t) 0 11
def wheelRevs (s : State) (t : Nat) : Nat := rf s (Reg.trdWheel t) 16 1

/-- Positions round the machine cycle. -/
def wheelM (s : State) (t : Nat) : Nat := wheelN s t * (wheelRevs s t + 1)

/-- Position k of the cycle carries a tooth: bit j of PRESENT, j = k mod NPOS. -/
def present (s : State) (t k : Nat) : Bool :=
  let j := k % wheelN s t
  rb s (Reg.trdPresent t (j / 32)) (j % 32)

/-- The angle of position k = j + NPOS × v (R249). -/
def wheelAngle (s : State) (t k : Nat) : Nat :=
  let n := wheelN s t
  let rev := 2 ^ (24 - wheelRevs s t)
  (rf s (Reg.trdOffset t) 0 24 + (k / n) * rev + (k % n) * rev / n) % 2 ^ 24

/-- Positions from k to the next tooth, at least 1. -/
def toNext (s : State) (t : Nat) : Nat → Nat → Nat → Nat
  | 0, _, m => m
  | fuel + 1, k, m => if present s t (k + m) then m else toNext s t fuel k (m + 1)

/-- The number of positions that the interval from tooth k spans, and the tooth that ends it. -/
def spanN (s : State) (t k : Nat) : Nat := toNext s t (wheelN s t) k 1
def nextK (s : State) (t k : Nat) : Nat := (k + spanN s t k) % wheelM s t

/-- The span in pu of the interval from position k over n positions (R249). -/
def spanPu (s : State) (t k n : Nat) : Nat :=
  (wheelAngle s t ((k + n) % wheelM s t) + 2 ^ 24 - wheelAngle s t k) % 2 ^ 24

/-- Positions back from k to the tooth before it. -/
def toPrev (s : State) (t : Nat) : Nat → Nat → Nat → Nat
  | 0, _, m => m
  | fuel + 1, k, m => if present s t (k + wheelM s t - m) then m else toPrev s t fuel k (m + 1)

def backN (s : State) (t k : Nat) : Nat := toPrev s t (wheelN s t) k 1

/-- The positions of one revolution that carry a tooth. -/
def teethOf (s : State) (t : Nat) : List Nat := (upto 0 (wheelN s t)).filter fun k => present s t k

/-- The intervals that close a gap, as (positions spanned, closing position) (R249). -/
def gapsOf (s : State) (t : Nat) : List (Nat × Nat) :=
  ((teethOf s t).filter fun k => spanN s t k != 1).map fun k => (spanN s t k, (k + spanN s t k) % wheelN s t)

/-- The gaps have pairwise different lengths. -/
def gapsDistinct (s : State) (t : Nat) : Bool := decide ((gapsOf s t).map fun g => g.1).Nodup

/-- The secondary edges serve as the sync mark (R255): no gap, or gaps of equal length. -/
def secIsMark (s : State) (t : Nat) : Bool := (gapsOf s t).isEmpty || !gapsDistinct s t

/-- Position k lies after secondary angle a and not after angle b, round the cycle. -/
def between (s : State) (t a b k : Nat) : Bool :=
  let d := (wheelAngle s t k + 2 ^ 24 - a) % 2 ^ 24
  decide (0 < d ∧ d ≤ (b + 2 ^ 24 - a) % 2 ^ 24) || decide (a = b ∧ 0 < d)

/-- Tooth positions between the secondary angle before i and angle i (R250). -/
def secPositions (s : State) (t i : Nat) : Nat :=
  let j := (i + nsec s t - 1) % nsec s t
  ((upto 0 (wheelM s t)).filter (between s t (secAngle s t j) (secAngle s t i))).length

/-- Teeth between the secondary angle before i and angle i (R255). -/
def secTeeth (s : State) (t i : Nat) : Nat :=
  let j := (i + nsec s t - 1) % nsec s t
  ((upto 0 (wheelM s t)).filter fun k => present s t k && between s t (secAngle s t j) (secAngle s t i) k).length

/-- The conditions of R250 on the secondary wheel. -/
def secValid (s : State) (t : Nat) : Bool :=
  let n := nsec s t
  let tol := secTol s t
  let angs := (upto 0 n).map (secAngle s t)
  let far := fun a b : Nat => decide (2 * tol < (b + 2 ^ 24 - a) % 2 ^ 24 ∧ 2 * tol < (a + 2 ^ 24 - b) % 2 ^ 24)
  decide (1 ≤ n ∧ n ≤ 8 ∧ 0 < tol ∧ tol < 2 ^ 23) && decide (angs.Pairwise (· < ·)) &&
    decide (angs.Pairwise fun a b => far a b = true) &&
    (!secIsMark s t || decide (n = 1) || decide (((upto 0 n).map (secPositions s t)).Nodup))

/-- STS.CFG_ERR that a write of EN = 1 finds (R250, R276). -/
def cfgErr (s : State) (t : Nat) : Nat :=
  match trdSrc s t with
  | 0 =>
    if wheelN s t < 2 ∨ 1024 < wheelN s t then 1
    else if 3 < (gapsOf s t).length ∨ (teethOf s t).length < 2 then 2
    else if !secEn s t && (decide (wheelRevs s t = 1) || secIsMark s t) then 3
    else if secEn s t && !secValid s t then 4
    else 0
  | 1 => if rf s (Reg.trdEnc t) 0 25 < 2 ∨ 2 ^ 24 < rf s (Reg.trdEnc t) 0 25 then 5 else 0
  | _ => 0

/-! ### Tooth records (R268, R269) -/

/-- A tooth record is written, or lost when the queue is full. `kind`, `pos`, `rev`, `sec` as in word 3; the period is
the time since the last edge of the same input, `i` and `last` in fine steps; DESIGN CHOICE (log entry 21): 0xFFFF_FFFF for the
first edge of an input after EN = 1, which has none before it. -/
def toothRecord (t kind pos rev : Nat) (sec : Bool) (i : Nat) (last : Option Nat) (s : State) : State :=
  if !rb s (Reg.trdTrCtl t) 0 || (sec && !rb s (Reg.trdTrCtl t) 2) then s
  else
    let queue := rb s (Reg.trdTrCtl t) 1
    let wr := rn s (Reg.trdTrWr t)
    let fill := (wr + 1024 - rn s (Reg.trdTrRd t)) % 1024
    if queue && decide (fill = 1023) then
      trdRaise t 15 (count (Reg.trdTrLostCnt t) (setb (Reg.trdSts t) 22 true s))
    else
      let period := match last with | some j => min 0xFFFFFFFF (i - j) | none => 0xFFFFFFFF
      let w1 := setFld (setFld 0 0 16 (i / 32 / 2 ^ 32)) 16 5 (i % 32)
      let w3 := setFld (setFld (setFld (setFld 0 0 10 pos) 10 1 rev) 11 1 (b2n sec)) 12 3 kind
      let w3 := setFld (setFld w3 16 3 (trdState s t)) 19 13 (posCycle (phi s t s.time)).toNat
      let put := fun (k : Nat) (w : Word) (s : State) => writeN .card (rn s (Reg.trdTrBase t) + 16 * wr + 4 * k) 4 w.toNat s
      let s := put 3 w3 (put 2 (wd period) (put 1 w1 (put 0 (wd (i / 32)) s)))
      let s := rset (Reg.trdTrWr t) (wd ((wr + 1) % 1024)) s
      let mark := rf s (Reg.trdTrCtl t) 16 10
      when_ (queue && decide (mark ≠ 0 ∧ fill + 1 = mark)) (trdRaise t 14) s

/-- The record of a primary edge at wheel position k, 0 in LOST. -/
def primaryRecord (t kind k i : Nat) (s : State) : State :=
  let n := wheelN s t
  let x := trdSt s t
  let lost := decide (trdState s t ≤ 1)
  let s := toothRecord t kind (if lost then 0 else if trdSrc s t = 0 then k % n else k % 1024)
    (if lost || trdSrc s t != 0 then 0 else k / n) false i x.lastPri s
  modTrd t (fun x => { x with lastPri := some i }) s

/-- The revolution in which secondary angle i0 lies (R249). -/
def secRev (s : State) (t i0 : Nat) : Nat :=
  (secAngle s t i0 + 2 ^ 24 - rf s (Reg.trdOffset t) 0 24) % 2 ^ 24 / 2 ^ (24 - wheelRevs s t)

/-- The record of secondary edge number i0. -/
def secondaryRecord (t kind i0 i : Nat) (s : State) : State :=
  let lost := decide (trdState s t = 1)
  let s := toothRecord t kind (if lost then 0 else i0) (if lost then 0 else secRev s t i0) true i (trdSt s t).lastSec s
  modTrd t (fun x => { x with lastSec := some i }) s

/-! ### Anomalies and ratio checks (R252) -/

/-- An anomaly is counted and raised, in any state (R252, R273). -/
def anomaly (t : Nat) (s : State) : State :=
  trdRaise t 12 (count (Reg.trdAnomCnt t) (setb (Reg.trdSts t) 17 true s))

/-- The check of an interval T of n positions against the accepted interval before it (R252): 0 passes, else the
LOSS_CODE of the kind of anomaly (R260). -/
def ratioCode (s : State) (t T n Tprev nprev : Nat) : Nat :=
  let r := if 1 < n ∨ 1 < nprev then Reg.trdRatioGap t else Reg.trdRatioOrd t
  let num := 4096 * T * nprev
  let den := Tprev * n
  if num < rf s r 0 16 * den then (if 1 < n then 3 else 2)
  else if rf s r 16 16 * den < num then (if 1 < n then 4 else 1)
  else 0

/-- The ratio check of the interval that a tooth at `i` ends, over n positions (R252); none before an interval has been
measured (R264). A count of a position interface is checked with RATIO_ORD (R266). -/
def toothCode (s : State) (t : Nat) (p : Tooth) (i n : Nat) : Nat :=
  match p.T with
  | none => 0
  | some Tp =>
    if trdSrc s t = 0 then ratioCode s t (i - p.t) n Tp p.n
    else
      let num := 4096 * (i - p.t) * p.n
      let den := Tp * n
      if num < rf s (Reg.trdRatioOrd t) 0 16 * den then 2
      else if rf s (Reg.trdRatioOrd t) 16 16 * den < num then 1
      else 0

/-! ### Loss of sync (R260) -/

/-- The tracker loses sync with a code (R260, R228); from LIMP it leaves LIMP (R261). -/
def lose (t code : Nat) (s : State) : State :=
  let p := phi s t s.time
  let pos := match (trdSt s t).prev with | some q => if trdSrc s t = 0 then q.k % wheelN s t else q.k % 1024 | none => 0
  let limp := decide (trdState s t = 4)
  let s := setf (Reg.trdLoss t) 16 10 pos (setf (Reg.trdLoss t) 0 4 code s)
  let s := setb (Reg.trdSts t) 16 true (count (Reg.trdLossCnt t) s)
  let s := when_ limp (trdRaise t 6) (trdRaise t 4 s)
  let s := setb (Reg.trdSts t) 6 false (setb (Reg.trdSts t) 8 false s)
  let s := modTrd t (fun x => { x with held := p / 2 ^ 40, scr := {}, pmax := none, prev := none, limpSec := none }) s
  let s := rset (Reg.trdRate t) 0 (holdAt t p (setTrdState t 1 s))
  syncDisarm t (endAngles t s)

/-! ### Secondary windows (R251) -/

/-- The next centre of each window when sync is gained at position `a`: a window already open is not judged. -/
def initWindows (t : Nat) (a : Int) (s : State) : State :=
  if !secEn s t || decide (trdSrc s t ≠ 0) then modTrd t (fun x => { x with wins := [] }) s
  else
    let next := fun i : Nat =>
      let c : Int := a / 2 ^ 24 * 2 ^ 24 + (secAngle s t i : Nat)
      let d := c - (secTol s t : Nat) - a
      if 0 < d then c else if 0 < d + 2 ^ 24 then c + 2 ^ 24 else c + 2 ^ 25
    let w := (upto 0 (nsec s t)).map fun i => (i, next i)
    modTrd t (fun x => { x with wins := w }) s

/-- The signed way from an angle in pu to a position in 2^-21 pu, round the machine cycle. -/
def angleWay (p : Int) (a : Nat) : Int := (p - (a * 2 ^ 21 : Nat) + 2 ^ 44) % 2 ^ 45 - 2 ^ 44

/-- A way in 2^-21 pu lies within SEC_TOL. -/
def inTol (s : State) (t : Nat) (d : Int) : Bool := decide (d.natAbs ≤ secTol s t * 2 ^ 21)

/-- The window that holds a position in 2^-21 pu, with its centre in pu (R251). -/
def windowAt (s : State) (t : Nat) (p : Int) : Option (Nat × Int) :=
  (upto 0 (nsec s t)).findSome? fun i =>
    let d := angleWay p (secAngle s t i)
    if inTol s t d then some (i, (p - d) / 2 ^ 21) else none

/-- An edge fell in window i at centre c: SEC_OK is set, and the next window of that angle is one cycle on. -/
def windowHit (t i : Nat) (c : Int) (s : State) : State :=
  let x := trdSt s t
  let s := if tget c x.wins i ≤ c then modTrd t (fun x => { x with wins := tset x.wins i (c + 2 ^ 24) }) s else s
  setb (Reg.trdSts t) 4 true s

/-- A secondary edge out of window, or a window passed without its edge (R251). -/
def windowBad (t : Nat) (s : State) : State :=
  let s := trdRaise t 13 (setb (Reg.trdSts t) 4 false s)
  if rb s (Reg.trdCtl t) 5 then lose t 5 s else s

/-- The window of secondary angle i has been passed without its edge (R251). DESIGN CHOICE (log entry 21): it has as soon as the
position exceeds its end, also where an edge with its pin instant in the window is still in the filter; no rule names the
cycle. -/
def windowPassed (s : State) (t i : Nat) : Bool :=
  match (trdSt s t).wins.find? fun e => e.1 == i with
  | some (_, c) => decide ((c + (secTol s t : Nat)) * 2 ^ 16 < phi s t s.time)
  | none => false

/-- A window passed in SYNCED with SEC_STRICT = 1: its loss of sync comes before LIMP and stall (R251, R254). -/
def strictMiss (s : State) (t : Nat) : Bool :=
  decide (trdState s t = 3) && rb s (Reg.trdCtl t) 5 && (upto 0 8).any (windowPassed s t)

/-- The next expected secondary angle with its number, in pu, CYCLE not wrapped (R261). -/
def nextSecondary (s : State) (t : Nat) : Option (Nat × Int) :=
  (trdSt s t).wins.foldl (fun b w => match b with | some x => if w.2 < x.2 then some w else b | none => some w) none

/-! ### Accepted positions (R257 to R259, R264) -/

/-- TPOS, TTIME and the rate are published, and the sources of an accepted tooth raised (R259, R273, R274). -/
def publishTooth (t k i n : Nat) (s : State) : State :=
  let teeth := min 65535 (rf s (Reg.trdTpos t) 16 16 + 1)
  let w := if trdSrc s t = 0 then setFld (wd (k % wheelN s t)) 10 1 (k / wheelN s t) else wd (k % 1024)
  let s := rset (Reg.trdTpos t) (setFld w 16 16 teeth) s
  let s := rset (Reg.trdTtimeHi t) (wd (i / 32 / 2 ^ 32)) (rset (Reg.trdTtimeLo t) (wd (i / 32)) s)
  when_ (decide (1 < n) && decide (trdSrc s t = 0)) (trdRaise t 2) (trdRaise t 1 (nearAgain (publishRate t s)))

/-- The new stretch after an anchor, and the cards that its first step passes (R258): their catch-up or drop, and the
phase jump. `forced` after a stall (R264). -/
def anchorAt (t : Nat) (g : Seg) (forced : Bool) (s : State) : State :=
  let old := phi s t s.time
  let s := pushSeg t { g with since := s.time, base := old } s
  let hi := min (phi s t (s.time + 1)) (g.a - (rf s (Reg.trdSettle t) 0 12 : Nat) * 2 ^ 16)
  let lo := match (trdSt s t).pmax with | some pm => max old pm | none => old
  let s := endsPassed t lo hi s
  let ns := passedBy s t lo hi
  if ns.isEmpty then s
  else
    let s := trdRaise t 11 (count (Reg.trdJumpCnt t) (setb (Reg.trdSts t) 19 true s))
    forEach ns (passCard forced) s

/-- The cycle start in SLUMBER is raised at the first tooth beyond phase 0 (R270). -/
def slumberCycle (t : Nat) (s : State) : State :=
  let c := phi s t (s.time + 1) / 2 ^ 40
  if decide (power s = 2) && decide ((trdSt s t).seen < c) then
    trdRaise t 0 (modTrd t (fun x => { x with seen := c }) s)
  else s

/-- A tooth at position `a` (pu, CYCLE not wrapped), index k, n positions and `span` pu after the last one, is accepted
(R257): with its interval measured it starts interpolation up to `next`, else the position moves to it alone (R264,
R270). -/
def acceptTooth (t i k n span : Nat) (a next : Int) (T : Option Nat) (s : State) : State :=
  let x := trdSt s t
  let forced := rb s (Reg.trdSts t) 5
  let cold := decide (power s = 2) || decide (1 < x.cold)
  let rate := match T with | some T => segRate span T | none => 0
  let acc := match T, x.prev with
    | some T, some p =>
      (match p.T with
       | some Tp => if rb s (Reg.trdCtl t) 6 && !cold then segAcc rate p.rate T Tp else 0
       | none => 0)
    | _, _ => 0
  let A := a * 2 ^ 16
  let g : Seg :=
    match T with
    | some T => if cold then { moving := true, t := i, a := A, cap := A }
                else { moving := true, t := i, a := A, rate := rate, acc := acc, T := T, cap := next * 2 ^ 16 - 1 }
    | none => { moving := true, t := i, a := A, cap := A }
  let s := anchorAt t g forced s
  let s := modTrd t (fun x => { x with
    prev := some { t := i, k := k, T := T, n := n, rate := rate }, a := a, cold := if power s = 2 then 2 else x.cold - 1 }) s
  let s := match T with
    | some T => setb (Reg.trdSts t) 5 false (setNum (Reg.trdTper t) (T / (32 * n)) s)
    | none => s
  slumberCycle t (publishTooth t k i n s)

/-- Sync is gained at a tooth (R256): CYCLE, the position, the windows, and the cards that wait. -/
def gainSync (t i k n span phase : Nat) (next : Nat) (T Tp : Option Nat) (ratePrev : Nat) (s : State) : State :=
  let x := trdSt s t
  let cyc : Int := if x.synced then x.held + 1 else (rn s (Reg.trdCycInit t) : Nat)
  let a : Int := cyc * 2 ^ 24 + (phase : Nat)
  let s := modTrd t (fun x => { x with
    synced := true, seen := cyc, scr := {}, pmax := none, segs := { since := s.time, base := a * 2 ^ 16 } :: x.segs.take 8,
    prev := some { t := 0, k := k, T := Tp, rate := ratePrev } }) s
  let s := setf (Reg.trdTpos t) 16 16 0 (setTrdState t 3 (setb (Reg.trdSts t) 5 false s))
  let s := initWindows t a (trdRaise t 3 s)
  armWaiting t (acceptTooth t i k n span a (a + (next : Nat)) T s)

/-! ### LIMP (R261, R262) -/

/-- The clamp in LIMP: below the next expected secondary angle (R261). -/
def limpCap (s : State) (t : Nat) : Int :=
  match nextSecondary s t with | some p => p.2 * 2 ^ 16 - 1 | none => phi s t s.time

/-- The state LIMP is entered: its counter, flag and source (R261). -/
def limpEntry (t : Nat) (s : State) : State :=
  trdRaise t 5 (count (Reg.trdLimpCnt t) (setb (Reg.trdSts t) 20 true (setTrdState t 4 s)))

/-- LIMP is entered (R261): the position goes on from the last primary anchor at the last rate, up to the next secondary angle; in
SLUMBER it moves at edges alone (R270). -/
def enterLimp (t : Nat) (s : State) : State :=
  let rate := match (trdSt s t).prev with | some p => p.rate | none => 0
  let s := modTrd t (fun x => { x with scr := {}, limpSec := none, limpRate := rate }) (limpEntry t s)
  let p := phi s t s.time
  match (trdSt s t).prev with
  | some q =>
    if power s = 2 then holdAt t p s
    else pushSeg t { since := s.time, base := p, moving := true, t := q.t, a := (trdSt s t).a * 2 ^ 16, rate := q.rate,
                     cap := limpCap s t } s
  | none => holdAt t p s

/-- An in-window secondary edge anchors the LIMP position to centre c at its instant (R261). The first edge after a stall
measures nothing, and the cards that it passes fire whatever their CATCHUP_OK (R264); in SLUMBER the position moves at
edges alone (R270). -/
def limpAnchor (t i : Nat) (c : Int) (s : State) : State :=
  let x := trdSt s t
  let forced := rb s (Reg.trdSts t) 5
  let rate := match x.limpSec with | some (j, p) => segRate (c - p).toNat (i - j) | none => if forced then 0 else x.limpRate
  let still := decide (power s = 2) || decide (1 < x.cold) || (forced && x.limpSec.isNone)
  let A := c * 2 ^ 16
  let g : Seg := { moving := true, t := i, a := A, rate := if still then 0 else rate, cap := if still then A else limpCap s t }
  let s := anchorAt t g forced s
  let s := when_ x.limpSec.isSome (setb (Reg.trdSts t) 5 false) s
  let s := modTrd t (fun x => { x with
    limpSec := some (i, c), limpRate := rate, cold := if power s = 2 then 2 else x.cold - 1 }) s
  slumberCycle t (publishRate t s)

/-! ### Screening (R255) -/

/-- What a screened tooth shows. -/
inductive Verdict where
  | nothing
  | anomaly
  | conflict
  | confirmed
  deriving DecidableEq, Repr

/-- Two screened teeth enclose a whole secondary window without an edge between them (R255); before the revolution is
resolved, in both revolutions. -/
def encloses (s : State) (t k : Nat) (revOk : Bool) : Bool :=
  let whole := fun k : Nat =>
    let a := wheelAngle s t k
    let sp := spanPu s t k (spanN s t k)
    (upto 0 (nsec s t)).any fun i =>
      let d := (secAngle s t i + 2 ^ 25 - secTol s t - a) % 2 ^ 24
      decide (0 < d ∧ d + 2 * secTol s t < sp)
  if revOk || decide (wheelRevs s t = 0) then whole k
  else whole (k % wheelN s t) && whole (k % wheelN s t + wheelN s t)

/-- The gap that an interval T after an ordinary interval Tp shows in LOST (R255): among the gaps whose length exceeds
ORD_HI and whose window holds it, the one whose q lies nearest to 1, at equal nearness the longer. -/
def gapHit (s : State) (t T Tp : Nat) : Option (Nat × Nat) :=
  let r := Reg.trdRatioGap t
  let fits := (gapsOf s t).filter fun g =>
    decide (rf s (Reg.trdRatioOrd t) 16 16 < 4096 * g.1 ∧ rf s r 0 16 * (Tp * g.1) ≤ 4096 * T ∧
      4096 * T ≤ rf s r 16 16 * (Tp * g.1))
  -- the larger of q and 1/q, as a fraction
  let far := fun g : Nat × Nat => (max T (Tp * g.1), min T (Tp * g.1))
  fits.foldl (fun b g =>
    match b with
    | none => some g
    | some h =>
      let x := (far g).1 * (far h).2
      let y := (far h).1 * (far g).2
      if x < y ∨ (x = y ∧ h.1 < g.1) then some g else some h) none

/-- The first tooth whose angle exceeds secondary angle m (R255). -/
def toothAfter (s : State) (t m : Nat) : Nat :=
  (((upto 0 (wheelM s t)).filter fun k => present s t k).foldl (fun b k =>
    let d := (wheelAngle s t k + 2 ^ 24 - secAngle s t m - 1) % 2 ^ 24
    if d < b.1 then (d, k) else b) (2 ^ 24, 0)).2

/-- The last screened tooth, with its place and rate where a secondary edge after it was the sync mark (R255, R256). -/
def placedPrev (s : State) (t : Nat) (c : Screen) : Option Tooth :=
  match c.prev, c.mark with
  | some p, some m =>
    let M := wheelM s t
    let k := toothAfter s t m
    let kp := (k + M - backN s t k) % M
    let n := backN s t kp
    some { p with k := kp, n := n, rate := match p.T with | some T => segRate (spanPu s t (kp + M - n) n) T | none => 0 }
  | p, _ => p

/-- One primary tooth is screened in LOST, CONFIRM, or behind LIMP (R255). -/
def screenTooth (s : State) (t i : Nat) (c : Screen) : Screen × Verdict :=
  let M := wheelM s t
  match placedPrev s t c with
  | none =>
    ({ c with prev := some { t := i, k := match c.mark with | some m => toothAfter s t m | none => 0 }, mark := none }, .nothing)
  | some p =>
    let T := i - p.t
    if !c.hypo then
      match (if secIsMark s t then none else match p.T with | some Tp => gapHit s t T Tp | none => none) with
      | some (n, k) =>
        ({ c with prev := some { t := i, k := k, T := some T, n := n, rate := segRate (spanPu s t (k + M - n) n) T },
                  hypo := true, conf := 0, revOk := decide (wheelRevs s t = 0), secHit := false }, .nothing)
      | none => ({ c with prev := some { t := i, T := some T } }, .nothing)
    else
      let n := spanN s t p.k
      let k := nextK s t p.k
      let lost : Screen := { prev := some { t := i, T := some T } }
      if toothCode s t p i n ≠ 0 then (lost, .anomaly)
      else if secEn s t && !c.secHit && c.mark.isNone && encloses s t p.k c.revOk then (lost, .conflict)
      else
        let q : Tooth := { t := i, k := k, T := some T, n := n, rate := segRate (spanPu s t p.k n) T }
        let c' := { c with prev := some q, conf := c.conf + 1, secHit := false, mark := none }
        (c', if rf s (Reg.trdConfirm t) 0 10 ≤ c'.conf ∧ c'.revOk then .confirmed else .nothing)

/-- A secondary edge is checked against the hypothesis (R255): it resolves the revolution, conflicts, or fits. The second part says
whether it conflicts, the third which edge it is, 0 where none is known. -/
def screenSecondary (s : State) (t i : Nat) (c : Screen) : Screen × Bool × Nat :=
  match c.prev with
  | none => (c, false, 0)
  | some p =>
    if !c.hypo || c.mark.isSome then (c, false, 0)
    else
      let M := wheelM s t
      let n0 := wheelN s t
      let holds := fun k : Nat =>
        let k := if p.t ≤ i then k else (k + M - backN s t k) % M
        let a := wheelAngle s t k
        let sp := spanPu s t k (spanN s t k)
        let tol := secTol s t
        (upto 0 (nsec s t)).find? fun j =>
          let d := (secAngle s t j + 2 ^ 24 - a) % 2 ^ 24
          decide (d ≤ sp + tol ∨ 2 ^ 24 - tol ≤ d)
      let c := { c with secHit := true }
      if c.revOk then (c, (holds p.k).isNone, (holds p.k).getD 0)
      else
        match holds (p.k % n0), holds (p.k % n0 + n0) with
        | some j, some _ => (c, false, j)
        | some j, none => ({ c with revOk := true, prev := some { p with k := p.k % n0 } }, false, j)
        | none, some j => ({ c with revOk := true, prev := some { p with k := p.k % n0 + n0 } }, false, j)
        | none, none => (c, true, 0)

/-- The secondary edge as a sync mark in LOST (R255): which edge it is, by the teeth since the last one. -/
def secondaryMark (s : State) (t : Nat) : Option Nat :=
  let x := trdSt s t
  if nsec s t = 1 then some 0
  else if !x.secSeen then none
  else (upto 0 (nsec s t)).find? fun i => secTeeth s t i == x.secN

/-! ### Primary teeth of a wheel (SRC = 0) -/

/-- The tooth before the one that completes CONFIRM, for its interval and rate (R256). -/
def screenedBefore (s : State) (t : Nat) : Option Nat × Nat :=
  match placedPrev s t (trdSt s t).scr with | some p => (p.T, p.rate) | none => (none, 0)

/-- Secondary edge j is the sync mark: the next primary tooth is the first whose angle exceeds its own (R255). -/
def markScreen (t j : Nat) : State → State :=
  modTrd t fun x => { x with scr := { prev := x.scr.prev, hypo := true, mark := some j, revOk := true } }

/-- A primary tooth in LOST or CONFIRM (R254, R255, R256). -/
def toothScreened (t i : Nat) (s : State) : State :=
  let before := screenedBefore s t
  let was := trdState s t
  let r := screenTooth s t i (trdSt s t).scr
  let s := modTrd t (fun x => { x with scr := r.1 }) s
  let k := match r.1.prev with | some p => p.k | none => 0
  match r.2 with
  | .anomaly => primaryRecord t 3 k i (anomaly t (setTrdState t 1 s))
  | .conflict => primaryRecord t 2 k i (setTrdState t 1 s)
  | .nothing => primaryRecord t 2 k i (if r.1.hypo && decide (was = 1) then setTrdState t 2 s else s)
  | .confirmed =>
    match r.1.prev with
    | none => s
    | some p =>
      let n' := spanN s t k
      let s := gainSync t i k p.n (spanPu s t (k + wheelM s t - p.n) p.n) (wheelAngle s t k) (spanPu s t k n') p.T
        before.1 before.2 s
      primaryRecord t (if 1 < p.n then 1 else 0) k i s

/-- A primary tooth in SYNCED (R252, R254, R257). -/
def toothSynced (t i : Nat) (s : State) : State :=
  match (trdSt s t).prev with
  | none => s
  | some p =>
    let n := spanN s t p.k
    let k := nextK s t p.k
    let code := toothCode s t p i n
    if code ≠ 0 then
      let s := anomaly t s
      let s :=
        if rb s (Reg.trdCtl t) 4 && rb s (Reg.trdSts t) 4 then (if strictMiss s t then windowBad t s else enterLimp t s)
        else lose t code s
      primaryRecord t 3 p.k i (modTrd t (fun x => { x with scr := { prev := some { t := i, T := some (i - p.t) } } }) s)
    else
      let span := spanPu s t p.k n
      let a := (trdSt s t).a + (span : Nat)
      let s := acceptTooth t i k n span a (a + (spanPu s t k (spanN s t k) : Nat)) (some (i - p.t)) s
      primaryRecord t (if 1 < n then 1 else 0) k i s

/-- A primary tooth behind LIMP (R262): the primary is screened; confirmed, it is compared with the LIMP position. -/
def toothLimp (t i : Nat) (s : State) : State :=
  let before := placedPrev s t (trdSt s t).scr
  let r := screenTooth s t i (trdSt s t).scr
  let s := modTrd t (fun x => { x with scr := r.1 }) s
  let s := setb (Reg.trdSts t) 8 r.1.hypo s
  let k := match r.1.prev with | some p => p.k | none => 0
  match r.2 with
  | .anomaly => primaryRecord t 3 k i (anomaly t (setb (Reg.trdSts t) 8 false s))
  | .conflict => primaryRecord t 2 k i (setb (Reg.trdSts t) 8 false s)
  | .nothing => primaryRecord t 2 k i s
  | .confirmed =>
    if trdState s t ≠ 4 then primaryRecord t 2 k i s
    else
    let s := setb (Reg.trdSts t) 8 false s
    let p := phiAt s t i
    let d := angleWay p (wheelAngle s t k)
    if !inTol s t d then primaryRecord t 2 k i (lose t 8 s)
    else
      match r.1.prev with
      | none => s
      | some q =>
        let s := modTrd t (fun x => { x with scr := {}, limpSec := none, prev := before }) s
        let s := trdRaise t 6 (setTrdState t 3 s)
        let a := (p - d) / 2 ^ 21
        let s := acceptTooth t i k q.n (spanPu s t (k + wheelM s t - q.n) q.n) a (a + (spanPu s t k (spanN s t k) : Nat)) q.T s
        primaryRecord t (if 1 < q.n then 1 else 0) k i s

/-- The first tooth after a stall is the next expected position (R264). -/
def toothResume (t i : Nat) (s : State) : State :=
  match (trdSt s t).prev with
  | none => s
  | some p =>
    let n := spanN s t p.k
    let k := nextK s t p.k
    let span := spanPu s t p.k n
    let a := (trdSt s t).a + (span : Nat)
    let s := setb (Reg.trdSts t) 5 true (setTrdState t 3 s)
    let s := acceptTooth t i k n span a a none s
    primaryRecord t 4 k i (trdRaise t 8 s)

/-- An edge instant at the resolution of 16 lc that it has in SLUMBER (R270). -/
def slumberInst (s : State) (i : Nat) : Nat := if power s = 2 then i / 512 * 512 else i

/-- A tooth event of a wheel master, at instant i in fine steps (R248, R254); in SLUMBER instants have a resolution of
16 lc (R270). DESIGN CHOICE (log entry 21): the primary goes on being screened, and PRI_CAND with it, while the tracker stands
stalled from LIMP. -/
def toothWheel (t i : Nat) (s : State) : State :=
  let i := slumberInst s i
  let s := modTrd t (fun x => { x with secN := x.secN + 1 }) s
  match trdState s t with
  | 1 => toothScreened t i s
  | 2 => toothScreened t i s
  | 3 => toothSynced t i s
  | 4 => toothLimp t i s
  | 5 => if (trdSt s t).limpStall then toothLimp t i s else toothResume t i s
  | _ => s

/-! ### Secondary edges (R251, R254, R255, R261) -/

/-- A secondary edge in LOST (R255): it may be the sync mark. -/
def secondaryLost (t i : Nat) (s : State) : State :=
  match secondaryMark s t with
  | some j => if secIsMark s t then secondaryRecord t 6 j i (setTrdState t 2 (markScreen t j s)) else secondaryRecord t 6 0 i s
  | none => secondaryRecord t 6 0 i s

/-- A secondary edge in CONFIRM (R255). -/
def secondaryConfirm (t i : Nat) (s : State) : State :=
  let r := screenSecondary s t i (trdSt s t).scr
  if r.2.1 then
    let p := match r.1.prev with | some p => some { t := p.t, T := p.T } | none => none
    secondaryRecord t 6 r.2.2 i (setTrdState t 1 (modTrd t (fun x => { x with scr := { prev := p } }) s))
  else secondaryRecord t 5 r.2.2 i (modTrd t (fun x => { x with scr := r.1 }) s)

/-- Secondary edge j in LIMP and the primary that is screened behind it (R262): it is a sync mark where the pattern has no other,
or is checked against the hypothesis. -/
def secondaryScreen (t j i : Nat) (s : State) : State :=
  let c := (trdSt s t).scr
  if secIsMark s t && !c.hypo then setb (Reg.trdSts t) 8 true (markScreen t j s)
  else
    let r := screenSecondary s t i c
    if r.2.1 then setb (Reg.trdSts t) 8 false (modTrd t (fun x => { x with scr := {} }) s)
    else modTrd t (fun x => { x with scr := r.1 }) s

/-- The position of LIMP moves at secondary edges alone: after a stall (R264), in SLUMBER and until the second edge after it
(R270). -/
def limpRests (s : State) (t : Nat) : Bool :=
  let x := trdSt s t
  let still := match x.segs with | g :: _ => decide (g.rate = 0) | [] => true
  (decide (trdState s t = 5) && x.limpStall) || (decide (trdState s t = 4) && (still || decide (power s = 2) || decide (1 < x.cold)))

/-- The angle that a secondary edge at instant i is taken for, with its number (R251): the window that holds it, and where the
position moves at edges alone the next expected angle (R264; log entry 21), but for an edge out of window after a stall with
SEC_STRICT = 1 (R254). An angle that has had its edge is not the next one. -/
def secondaryHit (s : State) (t i : Nat) : Option (Nat × Int) :=
  if limpRests s t then
    match windowAt s t (phiAt s t i) with
    | some (j, c) => if tget c (trdSt s t).wins j ≤ c then some (j, c) else nextSecondary s t
    | none => if trdState s t = 5 ∧ rb s (Reg.trdCtl t) 5 then none else nextSecondary s t
  else windowAt s t (phiAt s t i)

/-- A secondary edge while the position is known (R251, R254, R261, R264). -/
def secondaryKnown (t i : Nat) (s : State) : State :=
  let st := trdState s t
  match secondaryHit s t i with
  | some (j, c) =>
    let s := windowHit t j c s
    let s :=
      if st = 4 then limpAnchor t i c (secondaryScreen t j i s)
      else if st = 5 then
        if (trdSt s t).limpStall then trdRaise t 8 (limpAnchor t i c (setb (Reg.trdSts t) 5 true (limpEntry t s)))
        else if rb s (Reg.trdCtl t) 4 then limpAnchor t i c (enterLimp t s)
        else s
      else s
    secondaryRecord t 5 j i s
  | none =>
    let s :=
      if st = 4 then lose t 9 (trdRaise t 13 (setb (Reg.trdSts t) 4 false s))
      else windowBad t s
    secondaryRecord t 6 0 i s

/-- A secondary edge at instant i (R254). -/
def secondaryOp (t i : Nat) (s : State) : State :=
  let i := slumberInst s i
  match trdState s t with
  | 0 => s
  | st =>
    let s := match st with
      | 1 => secondaryLost t i s
      | 2 => secondaryConfirm t i s
      | _ => secondaryKnown t i s
    modTrd t (fun x => { x with secSeen := true, secN := 0 }) s

/-! ### Edges that have landed (R247, R248) -/

/-- An edge of tracker t's wheels is judged. -/
def judgeEdge (x : Timed) (s : State) : State :=
  match x with
  | .tooth t i => toothWheel t i s
  | .second t i => secondaryOp t i s
  | _ => s

/-- An edge of a tracker's wheels. -/
def isEdge : Timed → Bool
  | .tooth .. => true
  | .second .. => true
  | _ => false

/-- An edge of tracker t. -/
def trdEdgeOf (t : Nat) : Timed → Bool
  | .tooth u _ => u == t
  | .second u _ => u == t
  | _ => false

/-- The edges of tracker t that have landed in this cycle are judged. -/
def judgeEdges (t : Nat) (s : State) : State :=
  forEach (s.timed.filter fun y => trdEdgeOf t y.2) (fun y => judgeEdge y.2) { s with timed := s.timed.filter fun y => !trdEdgeOf t y.2 }

/-- An edge that the filter of pin n passes on, of the polarity that INPIN selects, has landed at the trackers that read the pin,
whatever its owner (R247). -/
def trackPin (n : Nat) (rising : Bool) (t0 : Inst) (s : State) : State :=
  forEach (upto 0 4) (fun t s =>
    let r := Reg.trdInpin t
    if trdState s t = 0 ∨ trdSrc s t ≠ 0 then s
    else
      let s := if rf s r 0 9 = n ∧ rb s r 9 ≠ rising then schedule s.time (.tooth t t0.steps) s else s
      if secEn s t ∧ rf s r 16 9 = n ∧ rb s r 25 ≠ rising then schedule s.time (.second t t0.steps) s else s) s

/-! ### Stall (R263) -/

/-- The loom cycle of the stall limit (R263). -/
def stallCycle (s : State) (t : Nat) : Option Nat :=
  let x := trdSt s t
  let lim := rn s (Reg.trdStallMax t)
  match trdState s t with
  | 3 =>
    match x.prev with
    | none => none
    | some p =>
      let n := if trdSrc s t = 0 then spanN s t p.k else p.n
      let d := min lim (rf s (Reg.trdStall t) 0 4 * rn s (Reg.trdTper t) * n)
      some ((p.t + 32 * d) / 32)
  | 4 => x.lastSec.map fun i => (i + 32 * lim) / 32
  | _ => none

/-- The stall limit has passed by now. -/
def stallDue (s : State) (t : Nat) : Bool := match stallCycle s t with | some c => decide (c ≤ s.time) | none => false

/-- The tracker stands stalled where it is (R263, R228); from LIMP it leaves LIMP (R261). -/
def stallHere (t : Nat) (s : State) : State :=
  let limp := decide (trdState s t = 4)
  let s := modTrd t (fun x => { x with limpStall := limp, limpSec := none, stallAt := s.time + 1 }) (setTrdState t 5 s)
  let s := when_ limp (trdRaise t 6) s
  let s := trdRaise t 7 (count (Reg.trdStallCnt t) (setb (Reg.trdSts t) 18 true s))
  endAngles t (rset (Reg.trdRate t) 0 s)

/-- A stall is declared (R263): the position holds. A loss of sync known in the same cycle takes precedence (R254). -/
def declareStall (t : Nat) (s : State) : State :=
  if strictMiss s t then windowBad t s else stallHere t (holdAt t (phi s t s.time) s)

/-- The stall of tracker t whose limit lies in this cycle is declared, unless an accepted tooth has moved the limit (R263). -/
def stallEnd (t : Nat) (s : State) : State := when_ (stallDue s t) (declareStall t) s

/-! ### Directional masters (R229, R265, R266) -/

/-- Reversal begins (R265, R228): the position follows the master down, and p_max is recorded; from LIMP it leaves LIMP (R261). A
stall known in the same cycle takes precedence (R254). -/
def beginReverse (t : Nat) (s : State) : State :=
  if (trdSt s t).stallAt = s.time + 1 then s
  else if stallDue s t then declareStall t s
  else
  let p := phi s t s.time
  let limp := decide (trdState s t = 4)
  let s := modTrd t (fun x => { x with limpSec := none }) (setb (Reg.trdSts t) 6 true (setTrdState t 6 s))
  let s := when_ limp (fun s => trdRaise t 6 (setb (Reg.trdSts t) 8 false s)) s
  let s := trdRaise t 9 (count (Reg.trdRevCnt t) (setb (Reg.trdSts t) 21 true s))
  let s := modTrd t (fun x => { x with pmax := some (match x.pmax with | some q => max p q | none => p) }) s
  endAngles t (rset (Reg.trdRate t) 0 (holdAt t p s))

/-- The position follows a backward count or beacon to `a` pu (R265). -/
def followDown (t i k : Nat) (a : Int) (s : State) : State :=
  let s := holdAt t (a * 2 ^ 16) s
  modTrd t (fun x => { x with a := a, seen := min x.seen (a / 2 ^ 24), prev := some { t := i, k := k } }) s

/-- Forward motion resumes (R265). -/
def forwardAgain (t : Nat) (s : State) : State :=
  trdRaise t 10 (setb (Reg.trdSts t) 6 false (setTrdState t 3 s))

/-- The record of p_max is dropped once the position exceeds it plus the hysteresis (R229). -/
def dropPmax (t : Nat) (s : State) : State :=
  match (trdSt s t).pmax with
  | some pm =>
    if trdState s t = 3 ∧ pm + (rf s (Reg.trdHyst t) 0 24 : Nat) * 2 ^ 16 < phi s t s.time then
      modTrd t (fun x => { x with pmax := none }) (slipReversed t pm s)
    else s
  | none => s

/-- CPC, and the phase of count u in pu (R266). -/
def encCpc (s : State) (t : Nat) : Nat := rf s (Reg.trdEnc t) 0 25
def encPhase (s : State) (t : Nat) (u : Int) : Int := if encCpc s t = 0 then 0 else u * 2 ^ 24 / (encCpc s t : Nat)

/-- The position of POS[POSNUM], a signed number of 32 bits (R266). -/
def encX (s : State) (t : Nat) : Int := toSigned 32 (rn s (Reg.posPosn (rf s (Reg.trdCtl t) 8 4)))

/-- The count within the cycle of position x (R266). -/
def encU (s : State) (t : Nat) (x : Int) : Int := if encCpc s t = 0 then 0 else (x - (trdSt s t).origin) % (encCpc s t : Nat)

/-- A count or position word of a position interface is a tooth event, at instant i; `d` is its way, signed (R247, R265, R266). A
position that a load has moved since the last one corrects the phase, which follows the position (R266). DESIGN CHOICE (log
entry 21): a backward count in CONFIRM is an anomaly; a backward count while the position is known is recorded with KIND 0,
and raises no source 1 and publishes no TPOS and TTIME. -/
def toothEncoder (t i : Nat) (d : Int) (s : State) : State :=
  let i := slumberInst s i
  let x := encX s t
  let z := trdSt s t
  let st := trdState s t
  if d = 0 ∧ st ≠ 1 then s
  else
    let u0 := encU s t (x - d)
    let u1 := encU s t x
    let k := u1.toNat
    let n := d.natAbs
    let T := match z.prev with | some p => some (i - p.t) | none => none
    let span := encPhase s t (u0 + d) - encPhase s t u0
    let nxt := (encPhase s t (u1 + d) - encPhase s t u1).toNat
    let moved := (encPhase s t u0 - encPhase s t (encU s t z.x) + 2 ^ 23) % 2 ^ 24 - 2 ^ 23
    let a := z.a + moved + span
    let s := modTrd t (fun z => { z with x := x }) (dropPmax t s)
    let seen := modTrd t (fun z => { z with lastPri := some i })
    let toothAt := fun (T : Option Nat) => acceptTooth t i k n span.toNat a (a + (nxt : Nat)) T
    if st = 1 then
      if rb s (Reg.trdCtl t) 12 then modTrd t (fun z => { z with prev := some { t := i } }) (seen s)
      else setTrdState t 2 (modTrd t (fun z => { z with prev := some { t := i, k := k }, scr := { hypo := true } }) (seen s))
    else if st = 2 then
      match z.prev with
      | none => modTrd t (fun z => { z with prev := some { t := i, k := k } }) (seen s)
      | some p =>
        if d < 0 ∨ toothCode s t p i n ≠ 0 then
          primaryRecord t 3 k i (anomaly t (setTrdState t 1 (modTrd t (fun z => { z with scr := {}, prev := none }) s)))
        else
          let rate := segRate span.toNat (i - p.t)
          let q : Tooth := { t := i, k := k, T := T, n := n, rate := rate }
          let s := modTrd t (fun z => { z with prev := some q, scr := { z.scr with conf := z.scr.conf + 1 } }) s
          if (trdSt s t).scr.conf < rf s (Reg.trdConfirm t) 0 10 then seen s
          else primaryRecord t 0 k i (gainSync t i k n span.toNat (encPhase s t u1).toNat nxt T p.T p.rate s)
    else if d < 0 then
      let s := if st = 6 then s else beginReverse t s
      if trdState s t = 6 then primaryRecord t 0 k i (followDown t i k a s)
      else modTrd t (fun y => { y with x := z.x }) s
    else if st = 6 then primaryRecord t 0 k i (toothAt none (forwardAgain t s))
    else if st = 5 then
      primaryRecord t 4 k i (trdRaise t 8 (toothAt none (setb (Reg.trdSts t) 5 true (setTrdState t 3 s))))
    else
      match z.prev with
      | none => s
      | some p =>
        let code := toothCode s t p i n
        if code ≠ 0 then primaryRecord t 3 k i (lose t code (anomaly t s))
        else primaryRecord t 0 k i (toothAt T s)

/-- A count or a word of position interface i0 reaches the trackers that follow it, at instant i, with its way (R247, R282). -/
def trackCount (i0 i : Nat) (d : Int) (s : State) : State :=
  forEach (upto 0 4) (fun t s =>
    if trdState s t ≠ 0 ∧ trdSrc s t = 1 ∧ rf s (Reg.trdCtl t) 8 4 = i0 then toothEncoder t i d s else s) s

/-- An index of position interface i0, at position x0 before any load, reaches the trackers that follow it with IDX = 1, at
instant i (R255, R266): the origin is taken anew; the index is a sync mark, or its phase is checked. -/
def trackIndex (i0 i : Nat) (x0 : Int) (s : State) : State :=
  forEach (upto 0 4) (fun t s =>
    if trdState s t = 0 ∨ trdSrc s t ≠ 1 ∨ !rb s (Reg.trdCtl t) 12 ∨ rf s (Reg.trdCtl t) 8 4 ≠ i0 then s
    else
      let x := encX s t
      let org := rf s (Reg.trdOrigin t) 0 24
      let u : Int := ((org * encCpc s t + 2 ^ 24 - 1) / 2 ^ 24 : Nat)
      let ph := encPhase s t (encU s t x0)
      let d := (ph - (org : Nat) + 2 ^ 23) % 2 ^ 24 - 2 ^ 23
      let bad := decide (d < -(secTol s t : Int) ∨ (secTol s t : Int) < d)
      let s := toothRecord t 7 (if trdState s t = 1 then 0 else (encU s t x0).toNat % 1024) 0 false i (trdSt s t).lastSec s
      let s := modTrd t (fun z => { z with lastSec := some i }) s
      let take := modTrd t (fun z => { z with origin := x - u, x := x })
      match trdState s t with
      | 1 => setTrdState t 2 (modTrd t (fun z => { z with scr := { hypo := true } }) (take s))
      | 2 => if bad then setTrdState t 1 (modTrd t (fun z => { z with scr := {}, prev := none }) s) else take s
      | _ => if bad then lose t 6 s
             else modTrd t (fun z => { z with a := z.a - d }) (take s)) s

/-- A word that the interface flags as faulty is an anomaly, code 6 (R266). -/
def trackFault (i0 : Nat) (s : State) : State :=
  forEach (upto 0 4) (fun t s =>
    if trdState s t = 0 ∨ trdSrc s t ≠ 1 ∨ rf s (Reg.trdCtl t) 8 4 ≠ i0 then s
    else
      let k := match (trdSt s t).prev with | some p => p.k | none => 0
      let s := anomaly t s
      let s := if 3 ≤ trdState s t then lose t 6 s
        else if trdState s t = 2 then setTrdState t 1 (modTrd t (fun z => { z with scr := {}, prev := none }) s)
        else s
      primaryRecord t 3 k (32 * s.time) s) s

/-- A standstill timeout of the interface declares a stall in the same cycle (R266). -/
def trackStandstill (i0 : Nat) (s : State) : State :=
  forEach (upto 0 4) (fun t s =>
    if trdState s t = 3 ∧ trdSrc s t = 1 ∧ rf s (Reg.trdCtl t) 8 4 = i0 then declareStall t s else s) s

/-! ### Enable and disable (R254) -/

/-- EN is written 1 (R250, R254): the pattern is checked, and a valid tracker becomes LOST. -/
def trackEnable (t : Nat) (s : State) : State :=
  let e := cfgErr s t
  let s := setf (Reg.trdSts t) 12 3 e s
  if e ≠ 0 then setb (Reg.trdCtl t) 0 false s
  else
    let s := { s with trd := tset s.trd t {} }
    setTrdState t 1 (modTrd t (fun z => { z with
      origin := toSigned 32 (rn s (Reg.trdOrigin t)), x := encX s t }) s)

/-- EN is written 0 (R253, R254): a loss of sync with code 0, then OFF, whose registers read 0. -/
def trackDisable (t : Nat) (s : State) : State :=
  let s := if 3 ≤ trdState s t then lose t 0 s else s
  let s := setTrdState t 0 { s with trd := tset s.trd t {} }
  let s := setb (Reg.trdSts t) 4 false (setb (Reg.trdSts t) 5 false s)
  zeroAll [Reg.trdPhaseFr t, Reg.trdCycle t, Reg.trdRate t, Reg.trdTper t, Reg.trdTpos t, Reg.trdTtimeLo t,
    Reg.trdTtimeHi t] s

/-! ### Registers -/

/-- A write of TR_RD names a record between TR_RD and TR_WR (R269, R242). -/
def trRdValid (s : State) (t v : Nat) : Bool :=
  decide (v < 1024 ∧ (v + 1024 - rn s (Reg.trdTrRd t)) % 1024 ≤ (rn s (Reg.trdTrWr t) + 1024 - rn s (Reg.trdTrRd t)) % 1024)

/-- TRD[t].STS.CNT_CLR (R278). -/
def trdCntClrOp (t : Nat) : State → State :=
  clrAll [Reg.trdLossCnt t, Reg.trdAnomCnt t, Reg.trdStallCnt t, Reg.trdLimpCnt t, Reg.trdJumpCnt t, Reg.trdRevCnt t,
    Reg.trdTrLostCnt t]

end Sys2Proof.Machine
end

