-- ==== Sys2Proof/Machine/Pos.lean ====
section
/-!
DEFINITION. Operations of the position interfaces (08_position_interfaces.md): enabling (R279), the interface filter
(R281, R282), quadrature counting and the index (R283 to R287), limits (R288), speed (R291 to R293), latches (R294, R295)
and serial frames (R296 to R300).
-/

namespace Sys2Proof.Machine

def posSt (s : State) (i : Nat) : PosSt := tget {} s.pos i
def modPos (i : Nat) (f : PosSt → PosSt) (s : State) : State := { s with pos := tset s.pos i (f (posSt s i)) }

/-- Source 2,368 + 4 i + k is raised (R301). -/
def posRaise (i k : Nat) : State → State := raise (2368 + 4 * i + k)

def posSerial (s : State) (i : Nat) : Bool := rb s (Reg.posCtl i) 1
def posOn (s : State) (i : Nat) : Bool := rb s (Reg.posCtl i) 0

/-- The pin that interface i owns in a role (R279). -/
def posPin (s : State) (i r : Nat) : Option Nat := (s.owner.find? fun e => e.2 == Owner.position i r).map fun e => e.1

/-- The position of interface i, a signed number of 32 bits (R288). -/
def posX (s : State) (i : Nat) : Int := toSigned 32 (rn s (Reg.posPosn i))

def posIn (s : State) (i k : Nat) : PosIn := tget {} (posSt s i).ins k
def posLevel (s : State) (i k : Nat) : Bool := (posIn s i k).level.getD false

/-! ### Speed (R291) -/

/-- The speed at cycle c: the measured one, bounded by the time since the last change, 0 from STILL_TMO on. -/
def posSpeedAt (s : State) (i c : Nat) : Int :=
  let x := posSt s i
  match x.lastT with
  | none => 0
  | some t =>
    let age := 32 * c - t
    if 32 * rn s (Reg.posStillTmo i) ≤ age then 0
    else
      let m := if age = 0 then x.meas.natAbs else min x.meas.natAbs (2 ^ 37 / age)
      if x.meas < 0 then -(min m (2 ^ 31) : Nat) else (min m (2 ^ 31 - 1) : Nat)

def posSpeed (s : State) (i : Nat) : Word := wd (ofSigned 32 (posSpeedAt s i s.time))

/-- The speed history restarts; the measured speed stands until the next change (R291). -/
def restartHist (i : Nat) (s : State) : State := modPos i (fun x => { x with hist := [] }) s

/-! ### Position and limits (R288) -/

def limEn (s : State) (i : Nat) : Bool := rb s (Reg.posMon i) 0
def limLo (s : State) (i : Nat) : Int := toSigned 32 (rn s (Reg.posLimLo i))
def limHi (s : State) (i : Nat) : Int := toSigned 32 (rn s (Reg.posLimHi i))

/-- An alarm of interface i (R301). -/
def posAlarm (i : Nat) : State → State := posRaise i 3

/-- The limit at which a position lies: the lower one, the upper one, or none. -/
def limSide (s : State) (i : Nat) (x : Int) : Option Bool :=
  if x ≤ limLo s i then some false else if limHi s i ≤ x then some true else none

/-- STS.AT_LIM follows the position, which was x0; an arrival at a limit is counted and raised. -/
def limitSts (i : Nat) (x0 : Int) (s : State) : State :=
  let side := limSide s i (posX s i)
  let at_ := limEn s i && side.isSome
  let new := at_ && (!rb s (Reg.posSts i) 20 || side != limSide s i x0)
  let s := setb (Reg.posSts i) 20 at_ s
  if new then posAlarm i (count (Reg.posLimCnt i) (setb (Reg.posSts i) 5 true s)) else s

/-- The position is set, clamped to the limits in force, which LIMF shows; with LIM_EN = 0 it wraps modulo 2^32. -/
def setPosition (i : Nat) (x : Int) (s : State) : State :=
  let x0 := posX s i
  let y := if limEn s i then max (limLo s i) (min (limHi s i) x) else x
  limitSts i x0 (rset (Reg.posPosn i) (wd (ofSigned 32 y)) (when_ (decide (y ≠ x)) (setb (Reg.posSts i) 5 true) s))

/-- The way from position x0 to x1: with LIM_EN = 0 positions wrap modulo 2^32. -/
def posWay (s : State) (i : Nat) (x0 x1 : Int) : Int :=
  if limEn s i then x1 - x0 else toSigned 32 (ofSigned 32 (x1 - x0))

/-- A load or a clamp of this cycle comes after its latches (R285): the position before it is kept for them. -/
def noteLoad (i : Nat) (s : State) : State :=
  if (posSt s i).loadAt = s.time + 1 then s
  else modPos i (fun x => { x with loadAt := s.time + 1, preLoad := rget s (Reg.posPosn i) }) s

/-- The position after the counts of this cycle (R285). -/
def countedPos (s : State) (i : Nat) : Word :=
  if (posSt s i).loadAt = s.time + 1 then (posSt s i).preLoad else rget s (Reg.posPosn i)

/-- The position is loaded, and the speed history restarts (R286, R289, R291). -/
def loadPosition (i : Nat) (x : Int) (s : State) : State := setPosition i x (restartHist i (noteLoad i s))

/-- The position is clamped to limits that a write has changed (R288). -/
def clampPosition (i : Nat) (s : State) : State := setPosition i (posX s i) (noteLoad i s)

/-! ### Counts, changes and direction (R283, R291, R293) -/

/-- A change of position at a time in fine steps enters the speed history (R291), and clears STILL (R292). DESIGN CHOICE (log
entry 20): two changes of the history at equal times measure 0. -/
def recordChange (i t : Nat) (back : Bool) (s : State) : State :=
  let x := posSt s i
  let old := if x.lastT.isSome && x.back != back then [] else x.hist
  let avg := 2 ^ rf s (Reg.posMon i) 12 3
  let now := posX s i
  let prior := old.take avg
  let meas := match prior.getLast? with
    | none => 0
    | some (t0, x0) => if t = t0 then 0 else Int.tdiv (posWay s i x0 now * 2 ^ 37) ((t : Int) - t0)
  let s := modPos i (fun x => { x with hist := (t, now) :: prior, meas := meas, lastT := some t, back := back }) s
  setb (Reg.posSts i) 18 false s

/-- A count or change in a direction moves STS.DIR after DIR_HYST of them (R293). -/
def directionStep (i : Nat) (back : Bool) (s : State) : State :=
  if rb s (Reg.posSts i) 17 == back then modPos i (fun x => { x with dirRun := 0 }) s
  else
    let k := (posSt s i).dirRun + 1
    if k < rf s (Reg.posMon i) 4 4 then modPos i (fun x => { x with dirRun := k }) s
    else posRaise i 1 (setb (Reg.posSts i) 8 true (setb (Reg.posSts i) 17 back (modPos i (fun x => { x with dirRun := 0 }) s)))

/-- One count at a pin time (R283, R288): a tracker that follows the interface receives it in the same cycle (R282); a count
that would leave the range is discarded and is no tooth (R290). -/
def posCount (i t : Nat) (back : Bool) (s : State) : State :=
  let x := posX s i + (if back then -1 else 1)
  if limEn s i && decide (x < limLo s i ∨ limHi s i < x) then limitSts i (posX s i) (setb (Reg.posSts i) 5 true s)
  else
    let s := recordChange i t back (setPosition i x s)
    let s := modPos i (fun x => { x with idxFwd := x.idxFwd || !back, idxBack := x.idxBack || back }) s
    trackCount i t (if back then -1 else 1) (directionStep i back s)

/-! ### Latches (R294, R295) -/

/-- A latch record is stored (R295). -/
def storeLatch (i : Nat) (l : Latch) (s : State) : State :=
  let s := when_ (rb s (Reg.posSts i) 0) (fun s => count (Reg.posLatOvrCnt i) (setb (Reg.posSts i) 1 true s)) s
  let s := modPos i (fun x => { x with lat := l, latLand := s.time + 1 }) (rset (Reg.posLatPos i) l.pos s)
  posRaise i 2 (setb (Reg.posSts i) 0 true s)

/-- A latch lands at the end of its cycle, or one cycle later when LAT_POS was read in it (R155, R295). -/
def latchEnd (i : Nat) (l : Latch) (s : State) : State :=
  if (posSt s i).latRead = s.time + 1 then schedule (s.time + 1) (.latDue i l) s else storeLatch i l s

/-- A latch is taken in this cycle with its instant in fine steps (R294); it lands when the cycle ends (R295). -/
def takeLatch (i t : Nat) (s : State) : State :=
  let age : Int := match (posSt s i).lastT with | some u => (t : Int) - u | none => 2 ^ 31
  let age := max (-(2 ^ 31)) (min (2 ^ 31 - 1) age)
  let l : Latch := { pos := countedPos s i, t := t, spd := posSpeed s i, age := wd (ofSigned 32 age) }
  schedule s.time (.latDue i l) s

/-- A read of LAT_POS (R295): it clears LATF and loads the companions. -/
def latPosReadOp (i : Nat) (s : State) : Word × State :=
  let l := (posSt s i).lat
  let s' := rset (Reg.posLatTLo i) (wd (l.t / 32)) (rset (Reg.posLatTHi i) (wd (l.t / 32 / 2 ^ 32)) s)
  let s' := rset (Reg.posLatFine i) (wd (l.t % 32)) (rset (Reg.posLatSpd i) l.spd (rset (Reg.posLatAge i) l.age s'))
  (rget s (Reg.posLatPos i), modPos i (fun x => { x with latRead := s.time + 1 }) (setb (Reg.posSts i) 0 false s'))

/-- An edge that the filter of pin n passes on is a latch of the interfaces that name it (R294), taken after the counts of its
cycle (R285). -/
def pinLatches (n : Nat) (rising : Bool) (t : Inst) (s : State) : State :=
  forEach (upto 0 16) (fun i s =>
    let r := Reg.posLatcfg i
    if posOn s i && decide (rf s r 0 2 = 2 ∧ rf s r 4 9 = n) && (rb s r 2 != rising) then schedule s.time (.posLatch i t.steps) s else s) s

/-! ### The index (R286, R287) -/

/-- An index event at a pin time: its latch, its check, its load, its source, and the tracker that follows it. -/
def indexEvent (i t : Nat) (s : State) : State :=
  let r := Reg.posIdx i
  let s := when_ (decide (rf s (Reg.posLatcfg i) 0 2 = 3)) (takeLatch i t) s
  let x := posSt s i
  let rev := rf s (Reg.posIdxRev i) 0 24
  let s := match x.idxPos with
    | some p =>
      let d := posWay s i p (posX s i)
      if rev ≠ 0 ∧ !(x.idxFwd && x.idxBack) then
        let dev : Int := (d.natAbs : Int) - rev
        let s := rset (Reg.posIdxDev i) (wd (ofSigned 32 dev)) s
        if rf s (Reg.posIdxRev i) 24 8 < dev.natAbs then
          let s := posAlarm i (count (Reg.posIdxErrCnt i) (setb (Reg.posSts i) 4 true s))
          logLimited 0x0702 2 i (rget s (Reg.posIdxDev i)) (rget s (Reg.posIdxErrCnt i)) s
        else s
      else s
    | none => s
  let x0 := posX s i
  let load := decide (rf s r 0 2 = 2) || (decide (rf s r 0 2 = 1) && x.idxPos.isNone)
  let s := when_ load (loadPosition i (toSigned 32 (rn s (Reg.posIdxVal i)))) s
  let s := modPos i (fun x => { x with idxPos := some (posX s i), idxFwd := false, idxBack := false }) s
  let s := setb (Reg.posSts i) 16 true s
  trackIndex i t x0 (posRaise i 0 s)

/-! ### Quadrature landings (R282 to R285) -/

/-- The inputs of the interface with their pins (R281): the serial clock, role 1, is an output (R280). -/
def posInputs (s : State) (i : Nat) : List (Nat × Nat) :=
  (if posSerial s i then [0, 2] else [0, 1, 2]).filterMap fun k => (posPin s i k).map fun n => (k, n)

/-- STS.INDET: an input of the interface is in INDET (R281). -/
def posIndetSts (i : Nat) (s : State) : State :=
  let ks := (posInputs s i).map fun x => x.1
  setb (Reg.posSts i) 22 (ks.any fun k => (posIn s i k).level.isNone) s

/-- A faulty word or an illegal transition restarts the speed history and is an anomaly of the tracker (R291, R284). -/
def posFault (i : Nat) (s : State) : State := trackFault i (restartHist i s)

/-- The counts of one landing cycle (R283, R284): the levels of A and B before and after, and the edges' pin times. -/
def quadLand (i : Nat) (a b a' b' : Bool) (ta tb : Nat) (s : State) : State :=
  if a != a' && b != b' then
    let s := posFault i (posAlarm i (count (Reg.posQerrCnt i) (setb (Reg.posSts i) 2 true s)))
    logLimited 0x0701 2 i (rget s (Reg.posPosn i)) (rget s (Reg.posQerrCnt i)) s
  else if a == a' && b == b' then s
  else
    let onA := a != a'
    let back := (if onA then a' == b' else a' != b') != rb s (Reg.posCtl i) 4
    let t := if onA then ta else tb
    match rf s (Reg.posCtl i) 2 2 with
    | 0 => posCount i t back s
    | 1 => if onA then posCount i t back s else s
    | _ => if onA && (if back then !a' else a') then posCount i t back s else s

/-- Inputs of interface i whose filter adopts a level land (R281 to R286). -/
def posLandOp (i : Nat) (es : List (Nat × Bool × Nat)) (s : State) : State :=
  if !posOn s i then s
  else
    let old := fun k => (posIn s i k).level
    let s' := forEach es (fun e s => modPos i (fun x =>
      { x with ins := tset x.ins e.1 { tget {} x.ins e.1 with level := some e.2.1, t := e.2.2 } }) s) s
    let s' := posIndetSts i s'
    let lv := fun k => posLevel s' i k
    if posSerial s i then
      let s' := modPos i (fun x => { x with dat := if x.words.isEmpty then [] else (s.time, lv 0) :: x.dat }) s'
      when_ (lv 0) (modPos i (fun x => { x with retWait := none })) s'
    else
      let s' := match old 0, old 1 with
        | some a, some b => quadLand i a b (lv 0) (lv 1) (posIn s' i 0).t (posIn s' i 1).t s'
        | _, _ => s'
      match old 2, es.find? fun e => e.1 == 2 with
      | some _, some (_, l, t) =>
        let r := Reg.posIdx i
        let gate := !rb s r 4 || (lv 0 == rb s r 5 && lv 1 == rb s r 6)
        if (l != rb s r 2) && gate then indexEvent i t s' else s'
      | _, _ => s'

/-- The sample interval of the interface filter: 1, 2, 4 or 8 lc, and 16 lc in SLUMBER (R281, R280). -/
def posInterval (s : State) (i : Nat) : Nat := if power s = 2 then 16 else 2 ^ rf s (Reg.posFilt i) 8 2

/-- One sample of input k of the interface filter (R281): the input with its run, the edge it adopts, a run ended
short. -/
def posSampleIn (s : State) (i k n : Nat) : PosIn × Option (Nat × Bool × Nat) × Bool :=
  let x := posIn s i k
  if rb s (Reg.chSts n) 19 then ({ x with run := 0 }, none, false)
  else
    let lv := rb s (Reg.chSts n) 18
    if x.level == some lv then ({ x with run := 0 }, none, decide (0 < x.run))
    else
      let same := decide (0 < x.run) && (x.cand == lv)
      let run := if same then x.run + 1 else 1
      let short := decide (0 < x.run) && (x.cand != lv)
      let t := (chSt s n).edgeT.steps
      let t := if power s = 2 then t / 512 * 512 else t
      if run < rf s (Reg.posFilt i) 0 6 then ({ x with cand := lv, run := run }, none, short)
      else ({ x with cand := lv, run := 0 }, some (k, lv, t), short)

/-- One sample of the interface filter (R281): adopted levels land together in the next cycle (R282). -/
def posSampleOp (i : Nat) (s : State) : State :=
  let s := modPos i (fun x => { x with sampled := s.time + 1 }) s
  let r := (posInputs s i).foldl (fun (p : State × List (Nat × Bool × Nat)) kn =>
    let y := posSampleIn p.1 i kn.1 kn.2
    let s := modPos i (fun x => { x with ins := tset x.ins kn.1 y.1 }) p.1
    let s := when_ y.2.2 (fun s => count (Reg.posGlitchCnt i) (setb (Reg.posSts i) 6 true s)) s
    (s, match y.2.1 with | some e => p.2 ++ [e] | none => p.2)) (s, [])
  if r.2.isEmpty then r.1 else schedule (s.time + 1) (.posLand i r.2) r.1

/-! ### Enabling (R279) -/

/-- STS.CFG_ERR that a write of EN = 1 finds (R279, R305). -/
def posCfgErr (s : State) (i : Nat) : Nat :=
  let has := fun r => (posPin s i r).isSome
  if !posSerial s i then
    if !has 0 || !has 1 || ((decide (rf s (Reg.posIdx i) 0 2 ≠ 0) || decide (rf s (Reg.posLatcfg i) 0 2 = 3)) && !has 2)
    then 1 else 0
  else
    let half := rf s (Reg.posSer0 i) 0 12
    let len := rf s (Reg.posSer1 i) 16 6
    let b := frameBits s i
    if !has 0 || !has 1 then 1
    else if half < 8 ∨ len < 8 ∨ 32 < len ∨ 16 < rf s (Reg.posSer1 i) 26 5 ∨ b < 9 ∨ 64 < b then 2
    else if 2 * half ≤ rf s (Reg.posSer0 i) 16 13 then 3
    else if rf s (Reg.posTrig i) 12 2 = 1 ∧ rn s (Reg.posPeriod i) < 2 * half * b + rf s (Reg.posMinIdle i) 0 16 then 4
    else 0

/-- EN is written 1 (R279, R28): raises that came while EN = 0 start nothing (R294, R300), an unread latch stays (R295), and DIR
waits for counts (R293). -/
def posEnableOp (i : Nat) (s : State) : State :=
  let e := posCfgErr s i
  let s := setf (Reg.posSts i) 24 3 e s
  if e ≠ 0 then setb (Reg.posCtl i) 0 false s
  else
    let x := posSt s i
    let s := { s with pos := tset s.pos i { lat := x.lat, latLand := x.latLand, latRead := x.latRead } }
    let s := (takeWires (.posFrame i) (takeWires (.posLatch i) s).2).2
    let s := forEach (upto 0 3) (fun k s => match posPin s i k with
      | some n => endHandover n s
      | none => s) s
    let s := setb (Reg.posSts i) 21 false (setb (Reg.posSts i) 18 false (setb (Reg.posSts i) 19 false s))
    let s := setb (Reg.posSts i) 22 true s
    let s := setb (Reg.posSts i) 16 (posSerial s i || decide (rf s (Reg.posIdx i) 0 2 ≠ 1)) s
    setPosition i (toSigned 32 (rn s (Reg.posSetpos i))) (setb (Reg.posSts i) 20 false s)

/-- EN is written 0 (R279): counting, frames and latches stop, and the registers hold; SPEED keeps its value. -/
def posDisableOp (i : Nat) (s : State) : State :=
  let s := rset (Reg.posSpeed i) (posSpeed s i) s
  setb (Reg.posSts i) 21 false (setb (Reg.posCtl i) 8 false <| setb (Reg.posCtl i) 0 false (modPos i (fun x => { x with
    frame := none, startAt := none, words := [], dat := [], retWait := none, ins := [] }) s))

/-- SPEED as it reads (R291). -/
def posSpeedView (s : State) (i : Nat) : Word := if posOn s i then posSpeed s i else rget s (Reg.posSpeed i)

/-- CTL.LOAD (R289). -/
def posLoadOp (i : Nat) (s : State) : State := loadPosition i (toSigned 32 (rn s (Reg.posSetpos i))) s

/-- Standstill is declared (R292). -/
def posStandstill (i : Nat) (s : State) : State := trackStandstill i (posAlarm i (setb (Reg.posSts i) 18 true s))

/-- The cycle in which age reaches STILL_TMO (R292). DESIGN CHOICE (log entry 20): none before the first change of position since
EN was written 1, which no age counts from. -/
def stillCycle (s : State) (i : Nat) : Option Nat :=
  (posSt s i).lastT.map fun t => (t + 32 * rn s (Reg.posStillTmo i) + 31) / 32

/-! ### Serial frames (R296 to R300) -/

/-- A frame start is skipped, or a frame is abandoned (R300). -/
def posSkip (i : Nat) (s : State) : State := count (Reg.posSkipCnt i) (setb (Reg.posSts i) 7 true s)

/-- A frame may start now (R300). -/
def frameFree (s : State) (i : Nat) : Bool :=
  let d := posIn s i 0
  let safe := match posPin s i 1 with | some n => showsSafe s n | none => true
  (posSt s i).frame.isNone && d.level == some true && decide (d.t + 32 * rf s (Reg.posMinIdle i) 0 16 ≤ 32 * s.time) && !safe

/-- The cycle of the last sample of a frame that started at `t0` (R297). -/
def lastSample (s : State) (i t0 : Nat) : Nat :=
  t0 + rf s (Reg.posSer0 i) 0 12 * (2 * frameBits s i - 1) + rf s (Reg.posSer0 i) 16 13

/-- A frame starts, or its start is skipped (R296, R300): it occupies 2 × HALF × B lc, and its word lands 4 lc after the last
sample at the latest (R297). -/
def frameBegin (i : Nat) (s : State) : State :=
  if !frameFree s i then posSkip i s
  else
    let t := s.time
    let lv := posLevel s i 0
    let s := modPos i (fun x => { x with
      frame := some t, retWait := none, words := x.words ++ [t], dat := if x.words.isEmpty then [(t, lv)] else x.dat }) s
    let s := schedule (t + 2 * rf s (Reg.posSer0 i) 0 12 * frameBits s i) (.frameEnd i t) s
    setb (Reg.posSts i) 21 true (schedule (lastSample s i t + 4) (.wordDue i t) s)

/-- The frame of interface i that started at t0 has ended (R296). -/
def frameOver (i t0 : Nat) (s : State) : State :=
  if (posSt s i).frame = some t0 then setb (Reg.posSts i) 21 false (modPos i (fun x => { x with frame := none }) s) else s

/-- What asked for a frame is taken: its start, the period, the events. -/
def takeFrame (i : Nat) (s : State) : State :=
  let s := (takeWires (.posFrame i) s).2
  let s := when_ (match (posSt s i).startAt with | some t => decide (t ≤ s.time) | none => false) (setb (Reg.posCtl i) 8 false) s
  modPos i (fun x => { x with
    startAt := (match x.startAt with | some t => if t ≤ s.time then none else some t | none => none)
    perAt := s.time + 1 }) s

/-- A raise, or a CTL.START, that has come to its cycle starts a frame (R300); what comes while EN = 0 starts none. -/
def frameArrive (i : Nat) (s : State) : State :=
  if posOn s i && posSerial s i then
    when_ (wireDue (.posFrame i) s || (posSt s i).startAt.any (· ≤ s.time)) (fun s => frameBegin i (takeFrame i s)) s
  else (takeWires (.posFrame i) s).2

/-- The raises of LAT_SRC before this cycle, which the latch of the first of them takes together (R294). -/
def latchRaises (i : Nat) (s : State) : State :=
  { s with ev := { s.ev with wires := s.ev.wires.filter fun w => !(w.dst == .posLatch i && decide (w.at_ ≤ s.time + 1)) } }

/-- A raise of LAT_SRC that has come to its cycle latches (R294); what comes while EN = 0 latches nothing. -/
def latchArrive (i : Nat) (s : State) : State :=
  if !wireDue (.posLatch i) s then s
  else when_ (posOn s i) (takeLatch i (32 * s.time)) (latchRaises i s)

/-- Frames in progress whose clock pin shows its SAFE level are abandoned (R300). -/
def abandonFrames (s : State) : State :=
  forEach (upto 0 16) (fun i s =>
    match (posSt s i).frame, posPin s i 1 with
    | some _, some n =>
      if showsSafe s n then
        posSkip i (setb (Reg.posSts i) 21 false (modPos i (fun x => { x with
          frame := none, words := x.words.filter fun t => some t != x.frame }) s))
      else s
    | _, _ => s) s

/-- The level of the data input in cycle c, from its changes, newest first (R297). -/
def dataLevel (dat : List (Nat × Bool)) (c : Nat) : Bool :=
  match dat.find? fun e => decide (e.1 ≤ c) with | some e => e.2 | none => true

/-- The bits of the frame that started at t0 (R297): bit k is the level of the data input SDLY lc after rising edge k + 1. -/
def frameSample (s : State) (i t0 : Nat) : BitVec 64 :=
  let half := rf s (Reg.posSer0 i) 0 12
  let bits := upto 0 (frameBits s i)
  BitVec.ofNat 64 (bits.foldl (fun a k =>
    a + b2n (dataLevel (posSt s i).dat (t0 + half * (2 * k + 1) + rf s (Reg.posSer0 i) 16 13)) * 2 ^ k) 0)

/-- The data input has returned to high since cycle c (R298). -/
def dataReturned (s : State) (i c : Nat) : Bool :=
  let dat := (posSt s i).dat
  dataLevel dat c || dat.any fun e => decide (c < e.1) && e.2

/-- Bits `k`, `k + 1`, … of a frame as a number, the first the most significant. -/
def frameField (bits : BitVec 64) (k n : Nat) : Nat :=
  (upto k n).foldl (fun a j => 2 * a + b2n (bits.getLsbD j)) 0

/-- A Gray code of n bits as a number (R299). -/
def grayDecode (n x : Nat) : Nat :=
  ((upto 1 n).foldl (fun (a : Nat) j => a ^^^ (x >>> j)) x) % 2 ^ n

/-- The CRC of R298 over a list of bits. -/
def serCrc (w poly init : Nat) (bs : List Bool) : Nat :=
  bs.foldl (fun c b =>
    let top := decide (c / 2 ^ (w - 1) % 2 = 1)
    let c' := (2 * c) % 2 ^ w
    if w = 0 then 0 else if top != b then (c' ^^^ poly) % 2 ^ w else c') (init % 2 ^ w)

/-- The fault code of a word (R298), the jump check apart; its data bits. -/
def wordCheck (s : State) (i : Nat) (bits : BitVec 64) : Nat × Nat :=
  let r := Reg.posSer1 i
  let lead := rf s r 0 3
  let len := rf s r 16 6
  let err := rf s r 22 1
  let cw := rf s r 26 5
  let data := frameField bits lead len
  let badLead := (upto 0 lead).any fun j => bits.getLsbD j != rb s r (8 + j)
  let badErr := decide (err = 1) && (bits.getLsbD (lead + len) == rb s r 23)
  let covered := (upto lead (len + err)).map fun j => bits.getLsbD j
  let got := frameField bits (lead + len + err) cw
  let got := if rb s r 31 then (2 ^ cw - 1) - got else got
  let crc := serCrc cw (rf s (Reg.posCrc i) 0 16) (rf s (Reg.posCrc i) 16 16) covered
  (if badLead then 1 else if badErr then 2 else if crc ≠ got then 3 else 0, data)

/-- A faulty word (R298, R299): the position stands, and the speed history restarts (R291; log entry 20). -/
def faultyWord (i code : Nat) (s : State) : State :=
  let s := setf (Reg.posSts i) 10 3 code (setb (Reg.posSts i) 3 true s)
  let s := posFault i (posAlarm i (count (Reg.posSerErrCnt i) s))
  let s := logLimited 0x0703 2 i (wd code) (rget s (Reg.posLastword i)) s
  let s := modPos i (fun x => { x with fails := x.fails + 1 }) s
  if rf s (Reg.posMon i) 8 4 ≤ (posSt s i).fails ∧ !rb s (Reg.posSts i) 19 then
    let s := modPos i (fun x => { x with word := none }) (setb (Reg.posSts i) 19 true (setb (Reg.posSts i) 16 false s))
    logLimited 0x0704 3 i (rget s (Reg.posLastword i)) (rget s (Reg.posSerErrCnt i)) (posAlarm i s)
  else s

/-- The word of the oldest frame whose word has not landed lands (R297 to R299). -/
def wordLand (i : Nat) (s : State) : State :=
  match (posSt s i).words with
  | [] => s
  | t0 :: rest =>
    let last := lastSample s i t0
    let c := wordCheck s i (frameSample s i t0)
    let ret := if dataReturned s i last then none else some last
    let s := modPos i (fun x => { x with words := rest, dat := if rest.isEmpty then [] else x.dat }) s
    let len := rf s (Reg.posSer1 i) 16 6
    let s := rset (Reg.posLastword i) (wd c.2) s
    let w := if rb s (Reg.posSer1 i) 24 then grayDecode len c.2 else c.2
    let diff : Int := match (posSt s i).word with | some v => toSigned len (w + 2 ^ len - v) | none => 0
    let jump := rn s (Reg.posJumpMax i)
    if c.1 ≠ 0 then faultyWord i c.1 s
    else if jump ≠ 0 ∧ (posSt s i).word.isSome ∧ jump < diff.natAbs then faultyWord i 5 s
    else
      let zero := toSigned 32 (rn s (Reg.posZero i))
      let x0 := posX s i
      let x1 := if rb s (Reg.posSer1 i) 25 && (posSt s i).word.isSome then x0 + diff else toSigned 32 (ofSigned 32 (w - zero))
      let t := ((32 * t0 : Nat) + toSigned 32 (rn s (Reg.posLatchAdj i))).toNat
      let s := setPosition i x1 s
      let way := posWay s i x0 (posX s i)
      let back := decide (way < 0)
      let s := when_ (decide (way ≠ 0)) (fun s => directionStep i back (recordChange i t back s)) s
      let s := modPos i (fun x => { x with word := some w, fails := 0, retWait := ret, retFails := x.fails }) s
      let s := setb (Reg.posSts i) 19 false (setb (Reg.posSts i) 16 true s)
      trackCount i t way (posRaise i 0 (count (Reg.posWordCnt i) s))

/-- The oldest word may land: its last sample lies behind (R297). -/
def wordReady (s : State) (i : Nat) : Bool :=
  match (posSt s i).words with | t0 :: _ => decide (lastSample s i t0 < s.time) | [] => false

/-- The bound of the word of the frame that started at t0 has come (R297). -/
def wordDueOp (i t0 : Nat) (s : State) : State := when_ (running s && decide ((posSt s i).words.head? = some t0)) (wordLand i) s

/-- The cycle in which the data line must have returned to high (R298). -/
def returnLimit (s : State) (i : Nat) : Option Nat := (posSt s i).retWait.map fun l => l + rf s (Reg.posTmo i) 0 16

/-! ### Registers -/

/-- POS[p].STS.CNT_CLR (R308). -/
def posCntClrOp (i : Nat) : State → State :=
  clrAll [Reg.posQerrCnt i, Reg.posSerErrCnt i, Reg.posIdxErrCnt i, Reg.posLimCnt i, Reg.posGlitchCnt i,
    Reg.posLatOvrCnt i, Reg.posWordCnt i, Reg.posSkipCnt i]

end Sys2Proof.Machine
end

