-- ==== Sys2Proof/Machine/Hed.lean ====
section
/-!
DEFINITION. Operations of the heddle engines (09_heddle_engines.md): pins (R310 to R312), ticks (R313), program words,
FIFOs (R322 to R324), start, stop and faults (R325, R326), swaps (R328, R329), and the effects of the instructions (R316
to R320).
-/

namespace Sys2Proof.Machine

def hedSt (s : State) (e : Nat) : HedSt := tget {} s.hed e
def modHed (e : Nat) (f : HedSt → HedSt) (s : State) : State := { s with hed := tset s.hed e (f (hedSt s e)) }

/-- The data and alarm sources of engine e (R333). -/
def hedData (e : Nat) : State → State := raise (2432 + 2 * e)
def hedAlarm (e : Nat) : State → State := raise (2433 + 2 * e)

/-! ### Registers as the engine sees them (R314, R335) -/

def hedPc (s : State) (e : Nat) : Nat := rf s (Reg.hedExec e) 0 5
def hedBank (s : State) (e : Nat) : Nat := rf s (Reg.hedExec e) 8 1
def hedF (s : State) (e : Nat) : Bool := rb s (Reg.hedSts e) 14
def setHedF (e : Nat) (b : Bool) : State → State := setb (Reg.hedSts e) 14 b
def tcnt (s : State) (e : Nat) : Nat := rf s (Reg.hedShcnt e) 0 6
def rcnt (s : State) (e : Nat) : Nat := rf s (Reg.hedShcnt e) 8 6
def latches (s : State) (e : Nat) : Nat := rf s (Reg.hedShcnt e) 16 8
def dirs (s : State) (e : Nat) : Nat := rf s (Reg.hedShcnt e) 24 8

/-- STS.STATE: 0 stopped, 1 running, 2 stalled, 3 halted, 4 faulted (R336). -/
def hedState (s : State) (e : Nat) : Nat := rf s (Reg.hedSts e) 8 3
def setHedState (e x : Nat) : State → State := setf (Reg.hedSts e) 8 3 x

/-- Header word j of bank b, and of the bank in force (R338). -/
def hdrReg (e b j : Nat) : Nat := if b = 0 then Reg.hedHdr0 e j else Reg.hedHdr1 e j
/-- The bits that header word j has; all others read 0 (R338, R8). -/
def hdrBits : Nat → Word
  | 0 => 0x00079F1F#32
  | 1 => 0x00FFFFFF#32
  | 2 => 0xFFFFFFFF#32
  | _ => 0xFFFFFF0F#32

def hdr (s : State) (e j : Nat) : Word := rget s (hdrReg e (hedBank s e) j)

/-- Instruction word i of bank b (R335). -/
def progWord (s : State) (e b i : Nat) : BitVec 16 :=
  let r := if b = 0 then Reg.hedProg0 e (i / 2) else Reg.hedProg1 e (i / 2)
  BitVec.ofNat 16 (rf s r (16 * (i % 2)) 16)

/-- The CRC width of the program (R319). -/
def crcWidth (s : State) (e : Nat) : Nat := fld (hdr s e 3) 0 4 + 1

/-! ### Pins (R310 to R312) -/

/-- The number of pins that the engine owns, L. -/
def hedL (s : State) (e : Nat) : Nat :=
  (s.owner.filter fun x => match x.2 with | .heddle e' _ => e' == e | _ => false).length

/-- The warp pin of the engine's pin i. -/
def hedPin (s : State) (e i : Nat) : Option Nat := (s.owner.find? fun x => x.2 == Owner.heddle e i).map fun x => x.1

/-- The level of pin n at the start of cycle c: its last transition before. -/
def levelAt (s : State) (n c : Nat) : Bool :=
  match (chSt s n).trans.filter fun t => decide (t.t.steps ≤ 32 * c) with
  | t :: _ => t.level
  | [] => (chSt s n).level

/-- The level that an instruction at the present tick reads of the engine's pin i (R312). -/
def hedRead (s : State) (e i : Nat) : Bool :=
  match hedPin s e i with
  | none => false
  | some n => if bit (hdr s e 0) 18 then rb s (Reg.chSts n) 18 && !rb s (Reg.chSts n) 19 else levelAt s n (s.time - 3)

/-- The levels of all owned pins, bit i = pin i. -/
def hedReadAll (s : State) (e : Nat) : Nat :=
  (upto 0 (hedL s e)).foldl (fun a i => if hedRead s e i then a + 2 ^ i else a) 0

/-- Latches and directions are written; they show at the pins in cycle `at_` (R311). -/
def setPins (e at_ lat dir : Nat) (s : State) : State :=
  let s := setf (Reg.hedShcnt e) 24 8 dir (setf (Reg.hedShcnt e) 16 8 lat s)
  let keep := ((hedSt s e).outs.filter fun x => decide (x.1 < at_)).take 3
  modHed e (fun x => { x with outs := (at_, lat, dir) :: keep }) s

/-- Bits BASE to BASE + N − 1 of a byte replaced by the low bits of v. -/
def putBits (old base n v : Nat) : Nat :=
  (setFld (wd old) base n v).toNat % 256

/-! ### Ticks (R313) -/

/-- 256 × DIV + FRAC of the bank in force. -/
def hedDiv (s : State) (e : Nat) : Nat := 256 * fld (hdr s e 1) 8 16 + fld (hdr s e 1) 0 8

/-- Ticks from the accumulator's cycle up to cycle c, and the accumulator after them. -/
def ticksTo (s : State) (e c : Nat) : Nat × Nat :=
  let x := hedSt s e
  let d := max 256 (hedDiv s e)
  let a := x.acc + 256 * (c - x.accAt)
  (a / d, a % d)

/-- The cycle of the j-th tick after the accumulator's cycle. -/
def tickCycle (s : State) (e j : Nat) : Nat :=
  let x := hedSt s e
  let d := max 256 (hedDiv s e)
  x.accAt + (j * d - x.acc + 255) / 256

/-- The number of the first tick not before the present cycle, from the accumulator's cycle on. -/
def tickNo (s : State) (e : Nat) : Nat := if s.time = 0 then 1 else (ticksTo s e (s.time - 1)).1 + 1

/-- The number, from the accumulator's cycle on, of the tick at which the next instruction executes: the first that is
not occupied and not before the present cycle. -/
def nextTick (s : State) (e : Nat) : Nat := max ((hedSt s e).occ + 1) (tickNo s e)

/-- The loom cycle of that tick. -/
def tickAt (s : State) (e : Nat) : Nat := tickCycle s e (nextTick s e)

/-- The engine is halted by debug (R331). -/
def hedHalted (s : State) (e : Nat) : Bool := rb s (Reg.hedDbg e) 8

/-- The number of the tick, from the accumulator's cycle on, of the next attempt: for a halted engine the next tick, its
WAIT not advancing (R331). -/
def hedTickNo (s : State) (e : Nat) : Nat := if hedHalted s e then tickNo s e else nextTick s e

/-- The loom cycle of the engine's next attempt. -/
def hedTickAt (s : State) (e : Nat) : Nat := tickCycle s e (hedTickNo s e)

/-- The accumulator is taken to the present cycle, `j` ticks later; a stall in progress has lasted them. -/
def syncTicks (e j : Nat) (s : State) : State :=
  let d := max 256 (hedDiv s e)
  modHed e (fun x => { x with
    acc := x.acc + 256 * (s.time - x.accAt) - j * d, accAt := s.time, occ := x.occ - j, stall := x.stall.map (· + j) }) s

/-- The accumulator is taken to the cycle before the present one; the ticks until then count (R331). -/
def holdTicks (e : Nat) (s : State) : State :=
  let x := hedSt s e
  let j := tickNo s e - 1
  let c := if j = 0 then x.accAt else tickCycle s e j
  modHed e (fun y => { y with
    acc := x.acc + 256 * (c - x.accAt) - j * max 256 (hedDiv s e), accAt := c, occ := x.occ - j,
    stall := x.stall.map (· + j) }) s

/-- The divider restarts (R313). -/
def restartDivider (e : Nat) (s : State) : State :=
  modHed e (fun x => { x with acc := 0, accAt := s.time, occ := 0, stall := none }) s

/-! ### FIFOs (R322 to R324, R333) -/

/-- FIFO shows the fills. -/
def fifoSts (e : Nat) (s : State) : State :=
  let x := hedSt s e
  rset (Reg.hedFifo e) (wd (x.tx.length + 256 * x.rx.length)) s

/-- A sticky FIFO flag is set: its counter and the alarm (R322, R333), and the log (R334). -/
def fifoFlag (e i : Nat) (s : State) : State :=
  let s := setb (Reg.hedSts e) i true s
  let s := if i = 0 then count (Reg.hedTxufCnt e) s else if i = 1 then count (Reg.hedRxofCnt e) s else s
  hedAlarm e (logLimited 0x0803 1 e (rget s (Reg.hedSts e) &&& 0xF#32) (rget s (Reg.hedTxufCnt e)) s)

/-- A word enters the RX FIFO; the data source is raised when its fill rises to RX_MARK. -/
def rxPush (e : Nat) (w : Word) (s : State) : State :=
  let s := fifoSts e (modHed e (fun x => { x with rx := x.rx ++ [w] }) s)
  let m := Reg.hedMarks e
  when_ (rb s m 11 && decide ((hedSt s e).rx.length = rf s m 8 3)) (hedData e) s

/-- The oldest word leaves the TX FIFO; the data source is raised when its fill falls to TX_MARK. -/
def txPop (e : Nat) (s : State) : State :=
  let s := fifoSts e (modHed e (fun x => { x with tx := x.tx.drop 1 }) s)
  let m := Reg.hedMarks e
  when_ (rb s m 3 && decide ((hedSt s e).tx.length = rf s m 0 3)) (hedData e) s

/-- The TX FIFO is emptied; its fill falls to 0, and past TX_MARK where it was above (R333). -/
def txClear (e : Nat) (s : State) : State :=
  let had := (hedSt s e).tx.length
  let s := fifoSts e (modHed e (fun x => { x with tx := [] }) s)
  let m := Reg.hedMarks e
  when_ (rb s m 3 && decide (rf s m 0 3 < had)) (hedData e) s

/-- A write of TXDATA (R322). -/
def txWrite (e : Nat) (w : Word) (s : State) : State :=
  if 4 ≤ (hedSt s e).tx.length then fifoFlag e 2 s
  else fifoSts e (modHed e (fun x => { x with tx := x.tx ++ [w] }) s)

/-- A read of RXDATA (R322). -/
def rxRead (e : Nat) (s : State) : Word × State :=
  match (hedSt s e).rx with
  | [] => (0, fifoFlag e 3 s)
  | w :: _ => (w, fifoSts e (modHed e (fun x => { x with rx := x.rx.drop 1 }) s))

/-! ### Start, stop and faults (R325, R326) -/

/-- The engine is stopped: STATE 0 or 4 (R327). -/
def hedStopped (s : State) (e : Nat) : Bool := hedState s e == 0 || hedState s e == 4

/-- The registers that a start and a swap clear (R325, R328). -/
def clearRegs (e : Nat) (s : State) : State :=
  let s := zeroAll [Reg.hedK e, Reg.hedV e, Reg.hedTsr e, Reg.hedRsr e] (setHedF e false s)
  let s := setf (Reg.hedShcnt e) 8 6 0 (setf (Reg.hedShcnt e) 0 6 0 s)
  let w := crcWidth s e
  let s := rset (Reg.hedCrcval e) (wd (fld (hdr s e 2) 16 16 % 2 ^ w)) s
  restartDivider e (setf (Reg.hedExec e) 0 5 (fld (hdr s e 0) 0 5) s)

/-- The engine's pins are no longer between owners (R28). -/
def hedEnablePins (e : Nat) (s : State) : State :=
  forEach (upto 0 8) (fun i s => match hedPin s e i with
    | some n => endHandover n s
    | none => s) s

/-- The engine halts at its next tick: HALTED becomes 1 in the cycle of the tick, before its instruction (R331). -/
def haltSoon (e : Nat) (s : State) : State :=
  schedule (tickCycle s e (ticksTo s e s.time).1.succ) (.hedHalt e) s

/-- A start (R325); it is refused where DIV = 0. A start under HALT halts at the first tick (R331). -/
def hedStartOp (e : Nat) (s : State) : State :=
  if fld (hdr s e 1) 8 16 = 0 then setb (Reg.hedCtl e) 0 false (setb (Reg.hedSts e) 16 true s)
  else
    let s := setb (Reg.hedCtl e) 0 true (setb (Reg.hedSts e) 16 false s)
    let s := setb (Reg.hedSts e) 13 false (clearRegs e s)
    let m := 2 ^ hedL s e - 1
    let s := setPins e s.time (fld (hdr s e 3) 8 8 &&& m) (fld (hdr s e 3) 16 8 &&& m) s
    let s := modHed e (fun x => { x with edge := none, step := false }) s
    let s := hedEnablePins e s
    when_ (rb s (Reg.hedDbg e) 0) (haltSoon e) (setHedState e 1 s)

/-- A swap of a stopped engine (R328): it starts if the new draft enables it. -/
def swapStopped (e : Nat) (s : State) : State :=
  let s := setf (Reg.hedExec e) 8 1 (1 - hedBank s e) s
  let s := setHedState e 0 (setb (Reg.hedSts e) 12 false s)
  let s := modHed e (fun x => { x with swapAt := none, staged := false }) s
  if (hedSt s e).swapEn then hedStartOp e s else s

/-- The engine has stopped: a pending swap is taken in the same cycle (R328). -/
def afterStop (e : Nat) (s : State) : State := when_ (running s && rb s (Reg.hedSts e) 12) (swapStopped e) s

/-- A stop (R325): EN = 0, everything else holds. -/
def hedStopOp (e : Nat) (s : State) : State :=
  let s := setb (Reg.hedDbg e) 8 false (setHedState e 0 (setb (Reg.hedCtl e) 0 false s))
  afterStop e (modHed e (fun x => { x with stall := none, occ := 0, step := false }) s)

/-- An engine fault (R326). -/
def hedFault (e code : Nat) (s : State) : State :=
  let f := setFld (setFld (wd code) 8 5 (hedPc s e)) 16 1 (hedBank s e)
  let s := setHedState e 4 (setb (Reg.hedCtl e) 0 false (rset (Reg.hedFault e) f s))
  let s := setb (Reg.hedDbg e) 8 false (modHed e (fun x => { x with stall := none, occ := 0, step := false }) s)
  afterStop e (logCause 0x0801 3 e f 0 (hedAlarm e s))

/-! ### Swaps (R328, R329) -/

/-- The incoming bank's header is in force and the registers are set as at a clean swap. -/
def swapBank (e : Nat) (s : State) : State :=
  let s := setf (Reg.hedExec e) 8 1 (1 - hedBank s e) s
  let s := setb (Reg.hedSts e) 12 false (clearRegs e s)
  modHed e (fun x => { x with swapAt := none, staged := false, edge := none }) s

/-- The engine is at its swap point: SWAP_EN, and PC = SWAP_PC (R328). -/
def atSwapPoint (s : State) (e : Nat) : Bool :=
  rb s (Reg.hedSts e) 12 && bit (hdr s e 0) 15 && hedPc s e == fld (hdr s e 0) 8 5

/-- A clean swap at the swap point (R328). -/
def swapClean (e : Nat) (s : State) : State :=
  let s := swapBank e s
  if (hedSt s e).swapEn then setHedState e 1 s else hedStopOp e s

/-- A forced swap (R329). -/
def swapForced (e : Nat) (s : State) : State :=
  let n := (hedSt s e).tx.length
  let d := setFld (setFld (setFld (setFld (setFld 0 0 5 (hedPc s e)) 5 1 (hedBank s e)) 8 6 (tcnt s e)) 16 6 (rcnt s e)) 24 3 n
  let s := rset (Reg.hedShiftDbg e) (setBit d 31 true) s
  let s := rset (Reg.hedShiftV e) (rget s (Reg.hedV e)) (rset (Reg.hedShiftK e) (rget s (Reg.hedK e))
    (rset (Reg.hedShiftRsr e) (rget s (Reg.hedRsr e)) (rset (Reg.hedShiftTsr e) (rget s (Reg.hedTsr e)) s)))
  let s := hedAlarm e (count (Reg.hedForcedCnt e) (txClear e s))
  let s := logCause 0x0802 2 e (rget s (Reg.hedShiftDbg e)) (rget s (Reg.hedShiftK e)) s
  let s := swapBank e s
  if (hedSt s e).swapEn then setHedState e 1 s else hedStopOp e s

/-- The timer of a pending swap runs out at a cycle known (R328). -/
def swapLater (e : Nat) (s : State) : State :=
  match (hedSt s e).swapAt with
  | some t => schedule t (.hedSwap e) s
  | none => s

/-- The swap may be taken (R328): pending, not halted by debug; stopped, or at the swap point at a tick. -/
def cleanSwapDue (s : State) (e : Nat) : Bool :=
  running s && rb s (Reg.hedSts e) 12 && !hedHalted s e &&
    (hedStopped s e || (atSwapPoint s e && s.time == hedTickAt s e))

/-- A swap of a stopped engine, or a clean one. -/
def cleanSwapOp (e : Nat) (s : State) : State := if hedStopped s e then swapStopped e s else swapClean e s

/-- A forced swap is due (R328, R329). -/
def forcedSwapDue (s : State) (e : Nat) : Bool :=
  running s && rb s (Reg.hedSts e) 12 && !hedHalted s e && (hedSt s e).swapAt.any (· ≤ s.time)

/-- The timer of a swap has run out (R328, R329): in a cycle that allows a clean swap that one is taken. -/
def swapTimeout (e : Nat) (s : State) : State :=
  when_ (forcedSwapDue s e) (fun s => if cleanSwapDue s e then cleanSwapOp e s else swapForced e s) s

/-! ### Executing an instruction -/

/-- Bits [hi:lo] of an instruction word, from its fields [15:4]. -/
def hf (f : BitVec 12) (hi lo : Nat) : Nat := (f.toNat >>> (lo - 4)) % 2 ^ (hi - lo + 1)

/-- The engine executes instructions: enabled, running or stalled, and not stopped by debug except for a STEP (R331);
ticks occur outside SLUMBER (R332); an engine at its swap point swaps instead (R328), but no swap is taken while debug halts
it. -/
def hedMayExec (s : State) (e : Nat) : Bool :=
  running s && rb s (Reg.hedCtl e) 0 && if hedHalted s e then (hedSt s e).step else !atSwapPoint s e

/-- The word at PC is the instruction of opcode `op` with fields `f` (R315). -/
def hedAt (s : State) (e op : Nat) (f : BitVec 12) : Bool :=
  (progWord s e (hedBank s e) (hedPc s e)).toNat == f.toNat * 16 + op

/-- The word at PC has an uncorrectable error (R326). -/
def hedBadWord (s : State) (e : Nat) : Bool :=
  (hedSt s e).bad.contains (32 * hedBank s e + hedPc s e)

/-- The instruction is complete: execution goes on at `pc`. A STEP halts again (R331). -/
def hedGo (e pc : Nat) (s : State) : State :=
  let s := modHed e (fun x => { x with stall := none, step := false }) (setf (Reg.hedExec e) 0 5 (pc % 32) s)
  setHedState e (if rb s (Reg.hedDbg e) 8 then 3 else 1) s

/-- The instruction is complete: execution goes on with the next one. -/
def hedNext (e : Nat) (s : State) : State := hedGo e (hedPc s e + 1) s

/-- The instruction stalls (R321); `first` happens once per stall. -/
def hedStall (e : Nat) (first : State → State) (s : State) : State :=
  let s := when_ (hedSt s e).stall.isNone first s
  let s := modHed e (fun x => { x with stall := some (x.stall.getD 0), step := false }) s
  setHedState e (if rb s (Reg.hedDbg e) 8 then 3 else 2) s

/-- A pin group reaches pin L or beyond, or is wider than 8 (R310, R326). -/
def pinsBad (s : State) (e base n : Nat) : Bool := decide (8 < n ∨ hedL s e < base + n)

/-- JMP (R316, R317). -/
def hedJmpOp (e : Nat) (f : BitVec 12) (s : State) : State :=
  let addr := hf f 15 11
  let pin := hf f 7 5
  let go := fun (b : Bool) (s : State) => if b then hedGo e addr s else hedNext e s
  match hf f 10 8 with
  | 0 => go true s
  | 1 =>
    let s := rset (Reg.hedK e) (rget s (Reg.hedK e) - 1#32) s
    go (rget s (Reg.hedK e) != 0) s
  | 2 => go (rget s (Reg.hedK e) == 0) s
  | 3 => go (hedF s e) s
  | 4 => go (!hedF s e) s
  | 5 => if hedL s e ≤ pin then hedFault e 3 s else go (hedRead s e pin) s
  | 6 => if hedL s e ≤ pin then hedFault e 3 s else go (!hedRead s e pin) s
  | _ => go (decide (tcnt s e ≠ 0)) s

/-- The pin-referred time of the level that ends a WAIT on pin i (R320). -/
def edgeOf (s : State) (e i : Nat) : Nat :=
  match hedPin s e i with
  | none => 0
  | some n =>
    if bit (hdr s e 0) 18 then (chSt s n).edgeT.steps
    else match (chSt s n).trans.filter fun t => decide (t.t.steps ≤ 32 * (s.time - 3)) with
      | t :: _ => t.t.steps
      | [] => 0

/-- One attempt of a WAIT (R316, R321): a limit that passes is WAIT_LIMIT. -/
def hedWaitOp (e : Nat) (f : BitVec 12) (s : State) : State :=
  match hf f 15 14 with
  | 0 =>
    let pin := hf f 12 10
    if hedL s e ≤ pin then hedFault e 3 s
    else if hedRead s e pin == decide (hf f 13 13 = 1) then
      let s := when_ (decide (0 < (hedSt s e).stall.getD 0)) (modHed e fun x => { x with edge := some (edgeOf s e pin) }) s
      hedNext e (setHedF e false s)
    else hedStall e id s
  | 1 =>
    if rb s (Reg.hedSts e) 13 then hedNext e (setHedF e false (setb (Reg.hedSts e) 13 false s))
    else hedStall e id s
  | 2 => hedNext e (modHed e (fun x => { x with occ := hf f 13 4 }) s)
  | _ => hedFault e 2 s

/-- The limit of a WAIT in ticks; 0 for none (R316). -/
def waitLimitOf (s : State) (e : Nat) : Nat :=
  let w := (progWord s e (hedBank s e) (hedPc s e)).toNat
  if w % 16 = 2 ∧ w / 2 ^ 14 < 2 then w / 16 % 64 * 64 else 0

/-- OUT (R316, R318). -/
def hedOutOp (e : Nat) (f : BitVec 12) (s : State) : State :=
  let n := hf f 13 9 + 1
  let base := hf f 8 6
  let dst := hf f 15 14
  if (dst = 0 ∨ dst = 3) ∧ pinsBad s e base n then hedFault e 3 s
  else
    let tsr := (rget s (Reg.hedTsr e)).toNat
    let lsb := bit (hdr s e 0) 16
    let v := if lsb then tsr % 2 ^ n else tsr / 2 ^ (32 - n)
    let s := rset (Reg.hedTsr e) (wd (if lsb then tsr / 2 ^ n else tsr * 2 ^ n)) s
    let s := setf (Reg.hedShcnt e) 0 6 (tcnt s e - n) s
    let s := match dst with
      | 0 => setPins e (s.time + 2) (putBits (latches s e) base n v) (dirs s e) s
      | 1 => rset (Reg.hedK e) (wd v) s
      | 2 => rset (Reg.hedV e) (wd v) s
      | _ => setPins e (s.time + 2) (latches s e) (putBits (dirs s e) base n v) s
    hedNext e s

/-- IN (R316, R318). -/
def hedInOp (e : Nat) (f : BitVec 12) (s : State) : State :=
  let n := hf f 13 9 + 1
  let base := hf f 8 6
  let src := hf f 15 14
  if src = 0 ∧ pinsBad s e base n then hedFault e 3 s
  else
    let v := (match src with
      | 0 => hedReadAll s e / 2 ^ base
      | 1 => (rget s (Reg.hedK e)).toNat
      | 2 => (rget s (Reg.hedV e)).toNat
      | _ => 0) % 2 ^ n
    let rsr := (rget s (Reg.hedRsr e)).toNat
    let rsr' := if bit (hdr s e 0) 17 then rsr / 2 ^ n + v * 2 ^ (32 - n) else rsr * 2 ^ n % 2 ^ 32 + v
    let s := setf (Reg.hedShcnt e) 8 6 (min 32 (rcnt s e + n)) (rset (Reg.hedRsr e) (wd rsr') s)
    hedNext e (when_ (decide (hf f 5 5 = 1)) (setHedF e (v.testBit (n - 1))) s)

/-- PULL (R316, R322). -/
def hedPullOp (e : Nat) (f : BitVec 12) (s : State) : State :=
  match (hedSt s e).tx with
  | w :: _ => hedNext e (setHedF e false (setf (Reg.hedShcnt e) 0 6 32 (rset (Reg.hedTsr e) w (txPop e s))))
  | [] => if hf f 15 15 = 1 then hedStall e (fifoFlag e 0) s else hedNext e (setHedF e true (fifoFlag e 0 s))

/-- PUSH (R316, R322). -/
def hedPushOp (e : Nat) (f : BitVec 12) (s : State) : State :=
  if (hedSt s e).rx.length < 4 then
    let s := rxPush e (rget s (Reg.hedRsr e)) s
    hedNext e (setHedF e false (setf (Reg.hedShcnt e) 8 6 0 (rset (Reg.hedRsr e) 0 s)))
  else if hf f 15 15 = 1 then hedStall e (fifoFlag e 1) s
  else hedNext e (setHedF e true (fifoFlag e 1 s))

/-- SET (R316). -/
def hedSetOp (e : Nat) (f : BitVec 12) (s : State) : State :=
  let base := hf f 9 7
  let n := hf f 6 5 + 1
  let v := hf f 13 10
  match hf f 15 14 with
  | 0 => if pinsBad s e base n || decide (8 < base + n) then hedFault e 3 s
         else hedNext e (setPins e (s.time + 2) (putBits (latches s e) base n v) (dirs s e) s)
  | 1 => if pinsBad s e base n || decide (8 < base + n) then hedFault e 3 s
         else hedNext e (setPins e (s.time + 2) (latches s e) (putBits (dirs s e) base n v) s)
  | 2 => hedNext e (rset (Reg.hedK e) (wd (hf f 13 4)) s)
  | _ => hedNext e (rset (Reg.hedV e) (wd (hf f 13 4)) s)

/-- The bytes of a word in reverse order, and its bits in reverse order. -/
def revBytes (w : Word) : Word :=
  wd (w.toNat % 256 * 2 ^ 24 + w.toNat / 2 ^ 8 % 256 * 2 ^ 16 + w.toNat / 2 ^ 16 % 256 * 2 ^ 8 + w.toNat / 2 ^ 24)
def revBits (w : Word) : Word := wd ((upto 0 32).foldl (fun a i => 2 * a + b2n (bit w i)) 0)

/-- MOV (R316). -/
def hedMovOp (e : Nat) (f : BitVec 12) (s : State) : State :=
  let src := match hf f 12 10 with
    | 0 => rget s (Reg.hedK e)
    | 1 => rget s (Reg.hedV e)
    | 2 => rget s (Reg.hedRsr e)
    | 3 => rget s (Reg.hedTsr e)
    | 4 => wd (hedReadAll s e)
    | 5 => rget s (Reg.hedCrcval e)
    | 6 => wd s.time
    | _ => 0
  let v := match hf f 9 8 with
    | 0 => src
    | 1 => ~~~src
    | 2 => revBytes src
    | _ => revBits src
  let m := v.toNat % 2 ^ hedL s e
  match hf f 15 13 with
  | 0 => hedNext e (rset (Reg.hedK e) v s)
  | 1 => hedNext e (rset (Reg.hedV e) v s)
  | 2 => hedNext e (setf (Reg.hedShcnt e) 8 6 0 (rset (Reg.hedRsr e) v s))
  | 3 => hedNext e (setf (Reg.hedShcnt e) 0 6 32 (rset (Reg.hedTsr e) v s))
  | 4 => hedNext e (setPins e (s.time + 2) (putBits (latches s e) 0 (hedL s e) m) (dirs s e) s)
  | 5 => hedNext e (setPins e (s.time + 2) (latches s e) (putBits (dirs s e) 0 (hedL s e) m) s)
  | 6 => hedNext e (rset (Reg.hedCrcval e) (wd (v.toNat % 2 ^ crcWidth s e)) s)
  | _ => hedFault e 2 s

/-- CRC over the n low bits of a word, most significant first (R319). -/
def hedCrcFeed (w poly n crc src : Nat) : Nat := serCrc w poly crc ((upto 0 n).map fun i => src.testBit (n - 1 - i))

/-- CRC (R316, R319). -/
def hedCrcOp (e : Nat) (f : BitVec 12) (s : State) : State :=
  let w := crcWidth s e
  let poly := fld (hdr s e 2) 0 16 % 2 ^ w
  let crc := if hf f 8 8 = 1 then fld (hdr s e 2) 16 16 % 2 ^ w else (rget s (Reg.hedCrcval e)).toNat
  let src := match hf f 15 14 with
    | 0 => rget s (Reg.hedRsr e)
    | 1 => rget s (Reg.hedTsr e)
    | 2 => rget s (Reg.hedK e)
    | _ => rget s (Reg.hedV e)
  hedNext e (rset (Reg.hedCrcval e) (wd (hedCrcFeed w poly (hf f 13 9 + 1) crc src.toNat)) s)

/-- STAMP (R316, R320, R322). -/
def hedStampOp (e : Nat) (f : BitVec 12) (s : State) : State :=
  let w := if hf f 15 15 = 0 then wd (32 * s.time) else match (hedSt s e).edge with | some t => wd t | none => 0
  if hf f 13 13 = 1 then hedNext e (setHedF e false (rset (Reg.hedV e) w s))
  else if (hedSt s e).rx.length < 4 then hedNext e (setHedF e false (rxPush e w s))
  else if hf f 14 14 = 1 then hedStall e (fifoFlag e 1) s
  else hedNext e (setHedF e true (fifoFlag e 1 s))

/-! ### Registers -/

/-- The pending bit of the engine's trigger is set; raises merge (R321). -/
def hedTriggerOp (e : Nat) (s : State) : State := setb (Reg.hedSts e) 13 true (takeWires (.hedTrig e) s).2

/-- Raises of the engine's trigger that have come to their cycle; with TRIG.EN = 0 they set nothing (R321). -/
def hedTrigArrive (e : Nat) (s : State) : State :=
  if wireDue (.hedTrig e) s && rb s (Reg.hedTrig e) 15 then hedTriggerOp e s else (takeWires (.hedTrig e) s).2

/-- HED[e].STS.CNT_CLR (R340). -/
def hedCntClrOp (e : Nat) : State → State := clrAll [Reg.hedTxufCnt e, Reg.hedRxofCnt e, Reg.hedForcedCnt e]

/-- CTL.FIFO_CLR (R324). -/
def fifoClrOp (e : Nat) (s : State) : State := fifoSts e (modHed e (fun x => { x with rx := [] }) (txClear e s))

/-- HALT is set (R331). -/
def hedHaltOp (e : Nat) (s : State) : State :=
  let s := setb (Reg.hedDbg e) 0 true s
  when_ (rb s (Reg.hedCtl e) 0 && !hedHalted s e) (haltSoon e) s

/-- The engine halts at the tick of this cycle, before its instruction (R331): the ticks until now count, and the timer of a
swap stands. Where the ticks have moved it halts at the next. -/
def hedHaltNow (e : Nat) (s : State) : State :=
  if !(rb s (Reg.hedDbg e) 0 && rb s (Reg.hedCtl e) 0 && !hedHalted s e && running s) then s
  else if tickCycle s e (tickNo s e) = s.time then
    let s := modHed e (fun x => { x with swapAt := x.swapAt.map fun t => t - s.time }) (holdTicks e s)
    setHedState e 3 (setb (Reg.hedDbg e) 8 true s)
  else schedule (tickCycle s e (tickNo s e)) (.hedHalt e) s

/-- HALT is cleared (R331). -/
def hedResumeOp (e : Nat) (s : State) : State :=
  let s := setb (Reg.hedDbg e) 0 false s
  if rb s (Reg.hedDbg e) 8 then
    let r := (ticksTo s e s.time).2
    let s := modHed e (fun x => { x with acc := r, accAt := s.time, step := false, swapAt := x.swapAt.map fun t => s.time + t }) s
    swapLater e (setHedState e (if (hedSt s e).stall.isSome then 2 else 1) (setb (Reg.hedDbg e) 8 false s))
  else s

/-- SLUMBER is entered: the ticks until now count for a WAIT, and none until the wake (R332). -/
def hedSleep (s : State) : State :=
  forEach (upto 0 64) (fun e s => when_ (rb s (Reg.hedCtl e) 0 && !hedHalted s e) (syncTicks e (ticksTo s e s.time).1) s) s

/-- A wake from SLUMBER restarts the divider of every enabled engine (R332). -/
def hedWake (s : State) : State :=
  forEach (upto 0 64) (fun e s => when_ (rb s (Reg.hedCtl e) 0) (fun s =>
    let s := modHed e (fun x => { x with acc := 0, accAt := s.time }) s
    when_ (rb s (Reg.hedDbg e) 0 && !hedHalted s e) (haltSoon e) s) s) s

end Sys2Proof.Machine
end

