-- ==== Sys2Proof/Machine/Win.lean ====
section
/-!
DEFINITION. Operations of the window monitors and the main converter (10_window_monitors.md R341 to R365): comparators with
INDET and settling, window outputs and their events, triggers, conversions, readbacks and the converter ring.
-/

namespace Sys2Proof.Machine

def cmpSt (s : State) (c : Nat) : CmpSt := tget {} s.cmp c
def modCmp (c : Nat) (f : CmpSt → CmpSt) (s : State) : State := { s with cmp := tset s.cmp c (f (cmpSt s c)) }
def modAdc (f : AdcSt → AdcSt) (s : State) : State := { s with adc := f s.adc }

/-- CMPL or CMPH, and THL or THH, of comparator c (R341). -/
def cmpReg (c : Nat) : Nat := if c % 2 = 0 then Reg.winCmpl (c / 2) else Reg.winCmph (c / 2)
def thReg (c : Nat) : Nat := if c % 2 = 0 then Reg.winThl (c / 2) else Reg.winThh (c / 2)
def cmpEn (s : State) (c : Nat) : Bool := rb s (cmpReg c) 0

/-! ### Mode, settling and output of a comparator -/

/-- The response of a mode in lc, its bound of R343 rounded up to a whole lc (log entry 22). -/
def cmpResponse (m : Nat) : Nat :=
  match m with
  | 0 => 5
  | 1 => 20
  | 2 => 160
  | _ => 1600

/-- The ceiling of R344 by PWR.CTL.CMP_SLOW and LATENCY_NS (R444): the slowest mode that answers within it. -/
def cmpCeiling (s : State) : Nat :=
  let lat := rn s Reg.pwrLatencyNs
  if !rb s Reg.pwrCtl 2 then 0
  else if 4000 ≤ lat then 3
  else if 400 ≤ lat then 2
  else if 50 ≤ lat then 1
  else 0

/-- The effective mode of comparator c (R344). -/
def cmpMode (s : State) (c : Nat) : Nat :=
  let m := rf s (cmpReg c) 1 2
  if power s = 2 then max m 2
  else if rb s (cmpReg c) 3 then 0
  else max m (cmpCeiling s)

/-- STS.WOUT, WINDET and SETTLE of window w follow its comparators (R349, R362). -/
def winLevels (w : Nat) (s : State) : State :=
  let lo := cmpEn s (2 * w)
  let hi := cmpEn s (2 * w + 1)
  let indet := (lo && cmpIndet s (2 * w)) || (hi && cmpIndet s (2 * w + 1))
  let out := (lo && !cmpOut s (2 * w)) || (hi && cmpOut s (2 * w + 1)) || indet
  let held := (cmpSt s (2 * w)).hold.isSome || (cmpSt s (2 * w + 1)).hold.isSome
  setb (Reg.winSts w) 6 held (setb (Reg.winSts w) 5 indet (setb (Reg.winSts w) 2 out s))

/-- The window of comparator c and the trip inputs take its new level, which is no output change (R347, R349). -/
def cmpLevel (c : Nat) (s : State) : State := refreshTrips (winLevels (c / 2) s)

/-- The output of comparator c is held for `n` lc from now (R345, R346). -/
def cmpHold (c n : Nat) (s : State) : State :=
  winLevels (c / 2) (modCmp c (fun x => { x with hold := some (max (s.time + n) (x.hold.getD 0)) }) s)

/-- The effective mode is taken anew; an enabled comparator settles when it changes (R344, R345). -/
def cmpModeSet (c : Nat) (s : State) : State :=
  let m := cmpMode s c
  if m = rf s (cmpReg c) 16 2 then s
  else
    let s := setf (cmpReg c) 16 2 m s
    when_ (cmpEn s c) (cmpHold c (cmpResponse m)) s

/-- The effective modes of all comparators after the power level or the ceiling changed (R344). -/
def cmpModesSet (s : State) : State := forEach (upto 0 64) cmpModeSet s

/-- The two events of window w by CTL.EVMODE, and an exit (R351), after an output change of comparator c. -/
def winEvents (c : Nat) (was : Bool) (s : State) : State :=
  let w := c / 2
  let now := rb s (Reg.winSts w) 2
  let exits := now && !was
  let s := when_ exits (fun s => count (Reg.winExitCnt w) (setb (Reg.winSts w) 8 true s)) s
  if rb s (Reg.winCtl w) 0 then raise (2560 + c) s
  else if exits then raise (2560 + 2 * w) s
  else when_ (was && !now) (raise (2561 + 2 * w)) s

/-- An output change of comparator c to `lv`, whose analogue instant is `t` (R349 to R351, R156): window output, events,
captures of the channels that select it, trip inputs. In SLUMBER counts hold (R133), and only captures go on (log entry 27). -/
def cmpChange (c : Nat) (lv : Bool) (t : Inst) (s : State) : State :=
  let was := rb s (Reg.winSts (c / 2)) 2
  let s := winEvents c was (winLevels (c / 2) (setb (Reg.winSts (c / 2)) (c % 2) lv s))
  let s := forEach (upto 0 512) (fun n s =>
    when_ (decide (rf s (Reg.chInsel n) 0 2 = 1 ∧ rf s (Reg.chInsel n) 8 6 = c ∧ (power s = 2 → chMode s n = 5)))
      (channelEdge n lv t (rget s (Reg.chCnt n))) s) s
  refreshTrips s

/-- Comparator c adopts a level and leaves INDET, which is no output change (R347). -/
def cmpAdopt (c : Nat) (lv : Bool) (s : State) : State :=
  let r := Reg.winSts (c / 2)
  cmpLevel c (modCmp c (fun x => { x with evalAt := none }) (setb r (c % 2) lv (setb r (3 + c % 2) false s)))

/-- Comparator c is evaluated on its input now (R342, R345 to R347). -/
def cmpEvaluate (c : Nat) (x : Analog) (s : State) : State :=
  if cmpIndet s c then
    match x with
    | .above => cmpAdopt c true s
    | .below => cmpAdopt c false s
    | .band =>
      if rf s (cmpReg c) 4 4 = 0 then let f := freshBit s; cmpAdopt c f.1 f.2
      else modCmp c (fun x => { x with evalAt := none }) s
  else
    match x with
    | .above => when_ (!cmpOut s c) (cmpChange c true (slumberTime s (nowInst s))) s
    | .below => when_ (cmpOut s c) (cmpChange c false (slumberTime s (nowInst s))) s
    | .band => s

/-- Comparator c enters INDET (R347); a channel measuring its edges starts anew (R157). -/
def cmpEnterIndet (c : Nat) (s : State) : State :=
  let r := Reg.winSts (c / 2)
  let s := modCmp c (fun x => { x with hold := none, evalAt := some (s.time + cmpResponse (cmpMode s c)) }) s
  let s := forEach (upto 0 512) (fun n s =>
    when_ (decide (rf s (Reg.chInsel n) 0 2 = 1 ∧ rf s (Reg.chInsel n) 8 6 = c)) (endMeas n) s) s
  cmpLevel c (setb r (c % 2) false (setb r (3 + c % 2) true s))

/-- A write of CMPL or CMPH (R342, R345, R347): EN may enter INDET or clear the output; a changed AIN, MODE or HYST of an
enabled comparator settles. -/
def writeCmp (c : Nat) (v : Word) (s : State) : State :=
  let old := rget s (cmpReg c)
  let v := v &&& 0x3FFF#32
  let s := rset (cmpReg c) (v ||| (old &&& 0x30000#32)) s
  if bit v 0 && !bit old 0 then cmpEnterIndet c (setf (cmpReg c) 16 2 (cmpMode s c) s)
  else if !bit v 0 then
    let r := Reg.winSts (c / 2)
    let s := modCmp c (fun x => { x with hold := none, evalAt := none }) (setf (cmpReg c) 16 2 (cmpMode s c) s)
    cmpLevel c (setb r (c % 2) false (setb r (3 + c % 2) false s))
  else
    let s := cmpModeSet c s
    when_ (fld v 1 2 != fld old 1 2 || fld v 4 4 != fld old 4 4 || fld v 8 6 != fld old 8 6)
      (cmpHold c (cmpResponse (cmpMode s c))) s

/-- The readbacks under way whose sample is still to come meet the THRESH just written (R352, R356). -/
def convThresh (c th now : Nat) : Conv → Conv
  | .readback t c' th' a => if c' = c ∧ now ≤ t + 64 then .readback t c th (now + 1) else .readback t c' th' a
  | x => x

/-- A write of THRESH (R346): the DAC takes it and the output of an enabled comparator is held for 80 lc. -/
def writeThresh (c : Nat) (v : Word) (s : State) : State :=
  let s := modCmp c (fun x => { x with thAt := s.time + 1 }) (rset (thReg c) (v &&& 0x3FF#32) s)
  let s := modAdc (fun a => { a with convs := a.convs.map (convThresh c (fld v 0 10) s.time) }) s
  when_ (cmpEn s c) (cmpHold c 80) s

/-! ### The converter -/

/-- Slots of trigger i's sequence with their selectors (R353). -/
def sequenceOf (s : State) (i : Nat) : List (Nat × Nat) :=
  (upto (rf s (Reg.adcTrg i) 16 5) (rf s (Reg.adcTrg i) 24 5 + 1)).map fun k => (k, rf s (Reg.adcSlot k) 0 8)

/-- The converter runs (R360, R363). -/
def adcRuns (s : State) : Bool := running s && rb s Reg.adcCtl 0

/-- One raise of trigger i arrives (R354): it becomes pending, or merges. -/
def adcArrive (i : Nat) (s : State) : State :=
  if s.adc.pend.getLsbD i then raise (2948 + i) (count Reg.adcMergeCnt (setb Reg.adcSts 8 true s))
  else modAdc (fun a => { a with pend := a.pend ||| (1#4 <<< i) }) s

/-- The readback falls due at this multiple of CHK_INTV × 256 lc (R355), the first not before now. -/
def rbInterval (s : State) : Nat := max 1 (rf s Reg.adcChk 0 16) * 256
def rbNext (s : State) : Nat := (max s.adc.rbAt s.time + rbInterval s - 1) / rbInterval s * rbInterval s

/-- The enabled comparator after `c` in ascending order, round robin (R355). -/
def nextEnabled (s : State) (c : Nat) : Option Nat :=
  ((upto (c + 1) 64).map fun x => x % 64).find? fun x => cmpEn s x

/-- A conversion starts now (R352): it takes 200 lc. -/
def convStart (x : Conv) (s : State) : State :=
  modAdc (fun a => { a with convs := a.convs ++ [x], freeAt := s.time + 200 }) s

/-- The start of a conversion. -/
def Conv.start : Conv → Nat
  | .slot t .. => t
  | .readback t .. => t

/-- ADC.STS as it reads (R363): BUSY, RUN_TRG and RUN_CHK beside the flags. -/
def adcStsView (s : State) : Word :=
  let busy := decide (s.time < s.adc.freeAt)
  let w := setBit (rget s Reg.adcSts) 0 (busy || s.adc.seq.isSome)
  match s.adc.seq, s.adc.convs.getLast? with
  | some (i, _), _ => setFld w 1 2 i
  | none, some (.slot _ _ _ i _) => if busy then setFld w 1 2 i else w
  | none, some (.readback ..) => setBit w 3 busy
  | none, none => w

/-! ### The converter ring (R357, R358) -/

def rqFill (s : State) : Nat :=
  let size := rn s Reg.adcRqSize
  (rn s Reg.adcRqWr + size - rn s Reg.adcRqRd) % size

/-- A record of a sequence conversion (R357, R358). -/
def adcRecord (start i sel trg code : Nat) (s : State) : State :=
  let size := rn s Reg.adcRqSize
  let fill := rqFill s
  if size ≤ fill + 1 then flagRaise Reg.adcSts 9 2953 (count Reg.adcLostCnt s)
  else
    let a := rn s Reg.adcRqBase + 8 * rn s Reg.adcRqWr
    let w0 := setFld (setFld (setFld (wd code) 12 5 i) 17 2 trg) 24 8 sel
    let s := writeN .tackler a 8 (w0.toNat + 2 ^ 32 * ((start + 64) % 2 ^ 32)) s
    let s := rset Reg.adcRqWr (wd ((rn s Reg.adcRqWr + 1) % size)) s
    when_ (decide (fill + 1 = rn s Reg.adcRqMark)) (raise 2952) s

/-- The result of a sequence conversion (R357): slot, ring, and the end of its sequence (R354). -/
def slotResult (start i sel trg : Nat) (last : Bool) (code : Nat) (s : State) : State :=
  let s := setb (Reg.adcSlot i) 31 true (setf (Reg.adcSlot i) 16 12 code (noteOld (Reg.adcSlot i) s))
  let s := adcRecord start i sel trg code (count Reg.adcConvCnt s)
  when_ last (raise (2944 + trg)) s

/-- A readback meets the hold of a THRESH write and is not compared (R356). -/
def rbDiscard (start thAt : Nat) : Bool := decide (0 < thAt ∧ start + 64 < thAt + 79)

/-- A readback lies outside CHK.TOL (R356). -/
def rbMismatch (s : State) (th code : Nat) : Bool :=
  decide (rf s Reg.adcChk 16 8 < (max code (4 * th) - min code (4 * th)))

/-- A readback mismatch of comparator c (R356). -/
def dacMismatch (c code : Nat) (s : State) : State :=
  let s := setb (Reg.winSts (c / 2)) (9 + c % 2) true (count Reg.adcDacerrCnt s)
  let s := rset Reg.adcDacerr (setFld (wd code) 16 6 c) s
  let s := flagRaise Reg.adcSts 10 2954 s
  logCause 0x0901 3 c (rget s Reg.adcDacerr) (rget s (thReg c)) s

/-- A read of SLOT[i] returns what stood there before the cycle, and clears FRESH of that (R5, R363). -/
def slotReadOp (i : Nat) (s : State) : Word × State :=
  (oldNow s (Reg.adcSlot i), clearBits (Reg.adcSlot i) (setBit 0 31 true) s)

/-- A value that RQ_RD may take (R364, R242). -/
def rqRdValid (s : State) (v : Nat) : Bool :=
  let size := rn s Reg.adcRqSize
  decide (v < size ∧ (v + size - rn s Reg.adcRqRd) % size ≤ rqFill s)

/-- A converter ring that RQ_BASE and RQ_SIZE may describe (R363, R364, R242). -/
def rqRingValid (base size : Nat) : Bool :=
  decide (0x1A00000 ≤ base ∧ base % 4096 = 0 ∧ base + 8 * size ≤ 0x1B00000) &&
    ((upto 4 13).any fun k => size == 2 ^ k)

/-- The raises of a trigger's source arrive; a converter that does not run discards them (R354, R360). -/
def adcTriggerOp (i : Nat) (s : State) : State :=
  let r := takeWires (.adcTrig i) s
  if adcRuns r.2 then forEach r.1 (fun _ => adcArrive i) r.2 else r.2

def adcCntClrOp : State → State := clrAll [Reg.adcMergeCnt, Reg.adcLostCnt, Reg.adcDacerrCnt, Reg.adcConvCnt]

end Sys2Proof.Machine
end

