-- ==== Sys2Proof/Machine/Bob.lean ====
section
/-!
DEFINITION. Operations of the bobbins and of the march test (11_stores_and_bobbins.md R376 to R401): cuts, queues and gates,
transactions, completion and errors; scrub, tests and spare banks.
-/

namespace Sys2Proof.Machine

def bobSt (s : State) (b : Nat) : BobSt := tget {} s.bob b
def modBob (b : Nat) (f : BobSt → BobSt) (s : State) : State := { s with bob := tset s.bob b (f (bobSt s b)) }

/-! ### Registers of a bobbin (R397, R398) -/

def bobRuns (s : State) (b : Nat) : Bool := rb s (Reg.bobCtl b) 0
def bobOp (s : State) (b : Nat) : Nat := rf s (Reg.bobCtl b) 2 2
def bobHostSpace (s : State) (b : Nat) (src : Bool) : Bool := rb s (Reg.bobCtl b) (if src then 4 else 5)
def bobFixed (s : State) (b : Nat) (src : Bool) : Bool := rb s (Reg.bobCtl b) (if src then 6 else 7)
def bobWin (s : State) (b : Nat) (src : Bool) : Option Nat :=
  if rb s (Reg.bobCtl b) (if src then 9 else 10) then some (rf s (Reg.bobCtl b) (if src then 12 else 16) 4) else none
def bobQ (s : State) (b : Nat) : Nat := rf s (Reg.bobCtl b) 20 8
def bobFixW (s : State) (b : Nat) : Nat := 2 ^ rf s (Reg.bobCtl b) 28 2
def bobCount (s : State) (b : Nat) : Nat := rn s (Reg.bobCnt b)

/-- A 64-bit address of a register pair. -/
def pair64 (s : State) (lo hi : Nat) : Nat := rn s lo + 2 ^ 32 * rn s hi

/-! ### Queues (R385) -/

/-- HQ_CFG[j] describes a queue (R400). -/
def hqValid (cfg : Word) : Bool := decide (2 ≤ fld cfg 0 16 ∧ 1 ≤ fld cfg 16 13 ∧ fld cfg 16 13 ≤ 4096)

/-- Fill of host queue j: (WR − RD) mod SIZE. -/
def hqFill (s : State) (j : Nat) : Nat :=
  let size := max 1 (rf s (Reg.bobcHqCfg j) 0 16)
  (rf s (Reg.bobcHqPtr j) 0 16 + size - rf s (Reg.bobcHqPtr j) 16 16 % size) % size

/-- The queue's level in elements. -/
def qLevel (s : State) (q : Nat) : Nat :=
  if q < 64 then 4 - (hedSt s q).tx.length
  else if q < 128 then (hedSt s (q - 64)).rx.length
  else if q = 128 then ringFill s
  else if q = 129 then rqFill s
  else if q < 134 then (rn s (Reg.trdTrWr (q - 130)) + 1024 - rn s (Reg.trdTrRd (q - 130))) % 1024
  else if q < 142 then
    if rb s (Reg.bobcHqCfg (q - 134)) 31 then rf s (Reg.bobcHqCfg (q - 134)) 0 16 - 1 - hqFill s (q - 134)
    else hqFill s (q - 134)
  else 0

/-- The queue's element in bytes. -/
def qElem (s : State) (q : Nat) : Nat :=
  if q < 128 then 4
  else if q = 129 then 8
  else if q < 134 then 16
  else max 1 (rf s (Reg.bobcHqCfg (q - 134)) 16 13)

/-- The bobbin reads from its queue (R385). -/
def qSource (s : State) (q : Nat) : Bool :=
  decide (64 ≤ q) && (decide (q < 134) || !rb s (Reg.bobcHqCfg (q - 134)) 31)

/-- A queue paces the bobbin. -/
def bobPaced (s : State) (b : Nat) : Bool := decide (bobQ s b < 142)

/-- The named pointer advances by 1 (R385, R386). -/
def qAdvance (q : Nat) (s : State) : State :=
  let step := fun (a size : Nat) (s : State) => rset a (wd ((rn s a + 1) % max 1 size)) s
  if q < 128 then s
  else if q = 128 then ringSts (step Reg.cardCrRd (rn s Reg.cardCrSize) s)
  else if q = 129 then step Reg.adcRqRd (rn s Reg.adcRqSize) s
  else if q < 134 then step (Reg.trdTrRd (q - 130)) 1024 s
  else if q < 142 then
    let r := Reg.bobcHqPtr (q - 134)
    let size := max 1 (rf s (Reg.bobcHqCfg (q - 134)) 0 16)
    let lo := if rb s (Reg.bobcHqCfg (q - 134)) 31 then 0 else 16
    setf r lo 16 ((rf s r lo 16 + 1) % size) s
  else s

/-- The level of a queue as the gate sees it: 2 lc late (R386). -/
def levelSeen (s : State) (b : Nat) : Nat :=
  match (bobSt s b).hist.find? fun x => decide (x.1 + 2 ≤ s.time) with
  | some x => x.2
  | none => match (bobSt s b).hist.getLast? with | some x => x.2 | none => qLevel s (bobQ s b)

/-- The levels of this cycle are kept for the gates of paced bobbins (R386); time passes after. -/
def bobSnap (s : State) : State :=
  (upto 0 32).foldl (fun s b =>
    if bobPaced s b then
      modBob b (fun x => { x with hist := (s.time, qLevel s (bobQ s b)) :: (x.hist.filter fun e => decide (e.1 ≠ s.time)).take 4 }) s
    else s) s

/-! ### Cuts (R384) -/

/-- The length of the access at address `a` with `left` bytes to go: the head and the tail in naturally aligned 1-, 2-
and 4-byte accesses, the body in 8-byte words or, in host space, in bursts of at most `burst` bytes within 4 KiB. -/
def cut (a left burst : Nat) : Nat :=
  if a % 8 = 0 ∧ 8 ≤ left then min (min (max 8 burst) (left / 8 * 8)) (4096 - a % 4096)
  else if a % 4 = 0 ∧ 4 ≤ left then 4
  else if a % 2 = 0 ∧ 2 ≤ left then 2
  else 1

/-- Max_Payload_Size and Max_Read_Request_Size as programmed, in bytes (R523). -/
def burstOf (s : State) (write : Bool) : Nat :=
  let f := fld (tget 0x2000#32 s.host.cfg 0x1E) (if write then 5 else 12) 3
  if write then min 256 (128 * 2 ^ f) else min 512 (128 * 2 ^ f)

/-- The time per byte on the link, in ps (R529). -/
def psPerByte (s : State) : Nat :=
  match rf s Reg.hostSts 2 2, rf s Reg.hostSts 4 2 with
  | 3, 2 => 510
  | 3, _ => 1020
  | 2, 2 => 1000
  | 2, _ => 2000
  | _, 2 => 2000
  | _, _ => 4000

/-- A posted write of `n` bytes occupies the link (R529). -/
def postWrite (n : Nat) (s : State) : State :=
  { s with host := { s.host with txFree := max s.host.txFree (2500 * s.time) + (n + 28) * psPerByte s } }

/-- The running address of a side, `off` bytes into the transfer, before its window (R383). -/
def bobAddr (s : State) (b : Nat) (src : Bool) (off : Nat) : Nat :=
  let a0 := if src then (bobSt s b).src else (bobSt s b).dst
  if bobFixed s b src then a0 else (a0 + off) % 2 ^ 64

/-- The address through its window (R377). -/
def bobEa (s : State) (b : Nat) (src : Bool) (off : Nat) : Nat :=
  match bobWin s b src with
  | none => bobAddr s b src off
  | some w => if cbwSize s w = 0 then 0 else cbwBase s w + bobAddr s b src off % cbwSize s w

/-- The length of the next access of a side, `left` bytes before its end (R383, R384). -/
def bobLen (s : State) (b : Nat) (src write : Bool) (off left : Nat) : Nat :=
  if bobFixed s b src then bobFixW s b
  else
    let ea := bobEa s b src off
    let left := match bobWin s b src with
      | some w => min left (cbwSize s w - bobAddr s b src off % max 1 (cbwSize s w))
      | none => left
    cut ea left (if bobHostSpace s b src then burstOf s write else 8)

/-- A device address that a bobbin may access with `n` bytes (R382): in the stores, or in the fixed 32-bit form the RXDATA of an engine as
a source or its TXDATA as a destination, which is written and not compared. -/
def bobReach (s : State) (b : Nat) (src write : Bool) (ea n : Nat) : Bool :=
  decide (0x1000000 ≤ ea ∧ ea + n ≤ 0x1C00000) ||
    (decide (0x160000 ≤ ea ∧ ea < 0x164000) && bobFixed s b src && decide (n = 4) && (bobWin s b src).isNone &&
      src != write && decide (ea % 0x100 = (if write then 0x28 else 0x2C)))

/-- The error of an access before it issues (R382, R368, R377), if it has one. -/
def bobRefuse (s : State) (b : Nat) (src write : Bool) (ea n : Nat) : Option Nat :=
  let badWin := match bobWin s b src with | some w => !cbwValid (cbwBase s w) (cbwSize s w) | none => false
  if badWin then some 7
  else if bobHostSpace s b src then (if rb s Reg.hostSts 6 then none else some 3)
  else if decide (rn s (if src then Reg.bobSrcHi b else Reg.bobDstHi b) ≠ 0) || !bobReach s b src write ea n then some 1
  else
    let pa := if rb s (Reg.bobCtl b) 8 then physical s ea else ea
    let card := decide (0x1800000 ≤ pa ∧ pa < 0x1A00000 ∧ mode s ≠ 9)
    let idle := rb s Reg.gctlState 5 && inPhysHalf (1 - patHalf s) pa
    if write && (card || idle) then some 8 else none

/-! ### Ends (R389, R390) -/

/-- A bobbin stops with START = 0: its sequence and gate are cleared. -/
def bobStop (b : Nat) (s : State) : State :=
  setb Reg.bobcRun b false (setb (Reg.bobSts b) 8 false (setb (Reg.bobCtl b) 0 false s))

/-- A bobbin that was ended has no transaction left (R390): an error, or an abort with code 0. -/
def bobFail (b code addr : Nat) (abort : Bool) (s : State) : State :=
  let s := rset (Reg.bobRemain b) (wd (bobCount s b - (bobSt s b).ack)) (bobStop b s)
  let s := setb (Reg.bobSts b) (if abort then 2 else 1) true s
  let s := rset (Reg.bobErr b) (wd code) (rset (Reg.bobErrAddrLo b) (wd addr) (rset (Reg.bobErrAddrHi b) (wd (addr / 2 ^ 32)) s))
  let s := raise (2625 + 2 * b) (setb Reg.bobcErrSum b true (modBob b (fun x => { hist := x.hist }) s))
  logCause 0x0B01 2 b (rget s (Reg.bobErr b)) (rget s (Reg.bobErrAddrLo b)) s

/-- A bobbin begins at its running addresses, its gate closed (R386, R389). -/
def bobBegin (b src dst : Nat) (s : State) : State :=
  let s := setb Reg.bobcRun b true (setb (Reg.bobSts b) 8 false (setb (Reg.bobCtl b) 0 true s))
  rset (Reg.bobRemain b) (rget s (Reg.bobCnt b)) (modBob b (fun x => { src := src, dst := dst, hist := x.hist }) s)

/-- A bobbin completes (R388, R389); with REPEAT it starts again in the next cycle, where its addresses ended: after a difference at those
that it had read up to (DESIGN CHOICE, log entry 71). -/
def bobComplete (b : Nat) (s : State) : State :=
  let x := bobSt s b
  let on := fun (src : Bool) (n : Nat) => (if src then x.src else x.dst) + (if bobFixed s b src then 0 else n)
  let s := when_ (bobOp s b == 2 && !x.mism) (setb (Reg.bobSts b) 3 false) s
  let s := setb (Reg.bobSts b) 0 true (bobStop b s)
  let s := raise (2624 + 2 * b) (count (Reg.bobXferCnt b) (modBob b (fun x => { hist := x.hist }) s))
  if rb s (Reg.bobCtl b) 11 then
    schedule (s.time + 1) (.bobRestart b (on true (if x.mism then x.rd else bobCount s b))
      (on false (if x.mism then x.drd else bobCount s b))) s
  else s

/-- A bobbin is ended by an error or an abort (R390): it issues nothing more, and ends when nothing is outstanding. -/
def bobEnd (b code addr : Nat) (abort : Bool) (s : State) : State :=
  if (bobSt s b).ending.isSome then s
  else if (bobSt s b).txns.isEmpty then bobFail b code addr abort s
  else modBob b (fun x => { x with ending := some (code, addr, abort) }) s

/-- All bytes are moved, or a compare has found a difference (R388, R389); host writes await their read back. -/
def bobDone (s : State) (b : Nat) : Bool :=
  let x := bobSt s b
  x.txns.isEmpty && (x.mism || (decide (x.ack = bobCount s b) &&
    (decide (bobOp s b = 2) || !bobHostSpace s b false || x.flushed)))

/-- What follows a return: the bobbin ends, completes, or goes on. -/
def bobSettle (b : Nat) (s : State) : State :=
  match (bobSt s b).ending with
  | some (code, addr, abort) => if (bobSt s b).txns.isEmpty then bobFail b code addr abort s else s
  | none => if bobDone s b then bobComplete b s else s

/-! ### Start (R387, R392) -/

/-- The start check of R387 fails. -/
def bobCheckFails (s : State) (b : Nat) : Bool :=
  let cnt := bobCount s b
  let q := bobQ s b
  let fixBad := fun src : Bool => bobFixed s b src &&
    (decide (cnt % bobFixW s b ≠ 0) || decide ((pair64 s (if src then Reg.bobSrcLo b else Reg.bobDstLo b)
      (if src then Reg.bobSrcHi b else Reg.bobDstHi b)) % bobFixW s b ≠ 0))
  let fifoBad :=
    if q < 64 then bobHostSpace s b false || decide (pair64 s (Reg.bobDstLo b) (Reg.bobDstHi b) ≠ Reg.hedTxdata q)
    else if q < 128 then
      bobHostSpace s b true || decide (pair64 s (Reg.bobSrcLo b) (Reg.bobSrcHi b) ≠ Reg.hedRxdata (q - 64))
    else false
  let ringBad :=
    if 130 ≤ q ∧ q < 134 then !rb s (Reg.trdTrCtl (q - 130)) 0
    else if 134 ≤ q ∧ q < 142 then !hqValid (rget s (Reg.bobcHqCfg (q - 134)))
    else false
  (bobPaced s b && decide (cnt % qElem s q ≠ 0)) || (decide (bobOp s b ≠ 1) && fixBad true) || fixBad false ||
    fifoBad || ringBad

/-- START of a stopped bobbin whose CTL is written (R386, R387). -/
def bobStartOp (b : Nat) (s : State) : State :=
  let s := modBob b (fun x => { hist := x.hist }) s
  if bobCheckFails s b then bobFail b 2 0 false s
  else bobBegin b (pair64 s (Reg.bobSrcLo b) (Reg.bobSrcHi b)) (pair64 s (Reg.bobDstLo b) (Reg.bobDstHi b)) s

/-! ### Port B (R369, R371) -/

def mtPhase (s : State) : Nat := rf s Reg.storeMtSts 0 3
def mtBank (s : State) : Nat := rf s Reg.storeMtSts 16 6
def mtSet (phase : Nat) (s : State) : State := setf Reg.storeMtSts 0 3 phase s

/-- The cycle of the next scrub read (R376). -/
def scrubNext (s : State) : Nat := (max s.time s.store.scrubAt + 16383) / 16384 * 16384

/-- The requester of port B behind a path (R371). -/
def pathPort : Path → Nat
  | .tackler => 1
  | _ => 0

/-- The scrub read of this cycle: still due, or made (R371, R376). -/
def scrubDue (s : State) : Bool := running s && rb s Reg.storeCtl 0 && eccOn s && scrubNext s == s.time
def scrubTook (s : State) : Bool := s.store.scrubAt == s.time + 1

/-- Port B of a bank is free in this cycle, with nothing that waits for it (R371). -/
def portFree (bank : Nat) (s : State) : Bool :=
  decide (tget 0 s.store.takenB bank ≤ s.time) && !scrubDue s && !scrubTook s && !(s.store.reqs.any fun r => r.bank == bank)

/-- Port B of the bank under test is used: the copy of the test waits (R371, R379). -/
def copyWaits (bank : Nat) (s : State) : State :=
  when_ (decide (mtPhase s = 1 ∨ mtPhase s = 4) && mtBank s == bank)
    (fun s => { s with store := { s.store with mtWait := s.store.mtWait + 1 } }) s

/-- Port B of a bank grants a requester in this cycle (R371). -/
def portTake (bank who : Nat) (s : State) : State :=
  copyWaits bank { s with store := { s.store with
    lastB := tset s.store.lastB bank who, takenB := tset s.store.takenB bank (s.time + 1) } }

/-- The port-B access of bobbin b's oldest transaction that waits for the bank (R371, R375): it returns 6 lc later (R369). -/
def bobServe (b bank : Nat) (s : State) : State :=
  match (bobSt s b).txns.find? fun t => t.wait && bankOf t.pa == bank with
  | none => s
  | some t =>
    let put := fun (t' : BobTxn) => modBob b fun x => { x with txns := x.txns.map fun y => if y = t then t' else y }
    if t.kind = .write then put { t with wait := false, at_ := s.time } (writeBytes (.bobbin b) t.pa t.data s)
    else
      let r := checkRead (.bobbin b) t.pa t.n s
      put { t with wait := false, at_ := s.time, data := portBytes (.bobbin b) s t.pa t.n, bad := r.1 } r.2

/-- Words sampled for a host read (R437). -/
def hostWords (id : Nat) (ws : List Word) (s : State) : State :=
  { s with host := { s.host with reads := s.host.reads.map fun r => if r.id = id then { r with words := r.words ++ ws, at_ := s.time } else r } }

/-- A word sampled for the SPI frame in progress (R533). -/
def spiWord (w : Word) (s : State) : State :=
  { s with host := { s.host with spi := { s.host.spi with words := s.host.spi.words ++ [w] } } }

/-- DWs of one 64-bit word of a store for a host read (R375, R526): the word is read once, or not where no byte is enabled. -/
def storeDws (dws : List (Nat × Nat)) (id : Nat) (s : State) : State :=
  let a := (dws.headD (0, 0)).1
  if isHole a || dws.all (fun d => d.2 == 0) then hostWords id (dws.map fun _ => 0) s
  else
    let r := checkRead .host a (4 * dws.length) s
    hostWords id (dws.map fun d => if d.2 = 0 then 0 else if r.1 then 0xFFFFFFFF#32 else wd (portN .host r.2 d.1 4)) r.2

/-- A granted request is served. -/
def portServe (r : PortReq) (s : State) : State :=
  match r.item with
  | .write p a bytes => writeBytes (pathReader p) a bytes s
  | .read dws id => storeDws dws id s
  | .spiRead a => let c := checkRead .host a 4 s; spiWord (if c.1 then 0xFFFFFFFF#32 else wd (portN .host c.2 a 4)) c.2
  | .tapRead a => let c := checkRead .tackler a 4 s; { c.2 with tap := { c.2.tap with out := wd (portN .tackler c.2 a 4) } }
  | .bob => bobServe (r.who - 2) r.bank s

/-- A write of a word that port A holds closed in this cycle (R373). -/
def portClosed (r : PortReq) (s : State) : Bool :=
  let at_ := fun (a n : Nat) => (wordsOf a n).any fun w => wordClosed .host w s
  match r.item with
  | .write _ a bs => at_ a bs.length
  | .bob => (bobSt s (r.who - 2)).txns.any fun t => t.wait && bankOf t.pa == r.bank && t.kind == .write && at_ t.pa t.n
  | _ => false

/-- A request comes to port B of its bank (R371): it is granted now, or waits. -/
def portAsk (r : PortReq) (s : State) : State :=
  if portFree r.bank s && !portClosed r s then portServe r (portTake r.bank r.who s)
  else
    let s := if s.store.reqs.isEmpty then schedule (s.time + 1) .grantB s else s
    { s with store := { s.store with reqs := s.store.reqs ++ [r] } }

/-- The request that port B of a bank grants next (R371): of the oldest of each requester, the one whose turn comes first after
the requester served last; host and tackler keep the order of their own requests. -/
def portNext (s : State) (bank : Nat) : Option PortReq :=
  let turn := fun r : PortReq => (r.who + 33 - tget 33 s.store.lastB bank) % 34
  let first := fun r : PortReq =>
    (s.store.reqs.find? fun q => q.who == r.who && (decide (r.who < 2) || q.bank == bank)) == some r
  (s.store.reqs.filter fun r => r.bank == bank && first r).foldl
    (fun b r => match b with | some q => if turn r < turn q then some r else b | none => some r) none

/-- Port B of every bank grants one request (R371), where no scrub read is due. -/
def grantOp (s : State) : State :=
  let s := if scrubDue s || scrubTook s then s
    else forEach (s.store.reqs.map fun r => r.bank).eraseDups (fun bank s =>
      match portNext s bank with
      | none => s
      | some r =>
        if decide (s.time < tget 0 s.store.takenB bank) || portClosed r s then s
        else portServe r (portTake bank r.who { s with store := { s.store with reqs := s.store.reqs.erase r } })) s
  when_ (!s.store.reqs.isEmpty) (schedule (s.time + 1) .grantB) s

/-! ### Transactions (R386, R392) -/

/-- The queue side may issue at byte `off` (R386): inside an element begun, or a new element while the gate is open and
the level leaves one beyond the elements begun and not accounted. -/
def elementFree (s : State) (b : Nat) (src : Bool) (off : Nat) : Bool :=
  if !bobPaced s b || qSource s (bobQ s b) != src then true
  else
    let el := qElem s (bobQ s b)
    decide (off % el ≠ 0) ||
      (rb s (Reg.bobSts b) 8 && decide (off / el - (bobSt s b).acct + 1 ≤ qLevel s (bobQ s b)))

/-- Bytes to the end of the transfer, or of the element on the queue side, from byte `off`. -/
def bobLeft (s : State) (b : Nat) (src : Bool) (off : Nat) : Nat :=
  let left := bobCount s b - off
  if bobPaced s b && qSource s (bobQ s b) == src then min left (qElem s (bobQ s b) - off % qElem s (bobQ s b)) else left

/-- The next transaction: a write once its bytes are there, else a read (R383, R389): its kind, side, offset and
length. -/
def bobNext (s : State) (b : Nat) : Option (BobKind × Bool × Nat × Nat) :=
  let x := bobSt s b
  let cnt := bobCount s b
  let rd := fun (k : BobKind) (src : Bool) (off : Nat) =>
    if off < cnt ∧ elementFree s b src off then some (k, src, off, bobLen s b src false off (bobLeft s b src off)) else none
  let wr : Option (BobKind × Bool × Nat × Nat) :=
    if x.wr < cnt ∧ elementFree s b false x.wr then
      let n := bobLen s b false true x.wr (bobLeft s b false x.wr)
      if bobOp s b = 1 ∨ n ≤ x.got.length then some (.write, false, x.wr, n) else none
    else none
  let flush : Option (BobKind × Bool × Nat × Nat) :=
    if x.ack = cnt ∧ bobHostSpace s b false ∧ !x.flushed ∧ x.txns.isEmpty then
      some (.flush, false, cnt, 4) else none
  match bobOp s b with
  | 0 => match wr with
    | some w => some w
    | none => match rd .srcRead true x.rd with | some r => some r | none => flush
  | 1 => match wr with | some w => some w | none => flush
  | _ => if x.rd ≤ x.drd then (match rd .srcRead true x.rd with | some r => some r | none => rd .dstRead false x.drd)
         else rd .dstRead false x.drd

/-- Transactions outstanding of all bobbins (R392). -/
def bobOutstanding (s : State) : Nat := (s.bob.map fun x => x.2.txns.length).foldl (· + ·) 0

/-- Pointers of the queue side advance for the elements now accounted (R386). -/
def bobAccount (b done : Nat) (s : State) : State :=
  let el := qElem s (bobQ s b)
  let n := done / el - (bobSt s b).acct
  (upto 0 n).foldl (fun s _ => qAdvance (bobQ s b) s) (modBob b (fun x => { x with acct := x.acct + n }) s)

/-- The bytes a write carries: from the funnel, or the fill pattern by address (R383). -/
def bobBytes (s : State) (b n ea : Nat) : List Byte :=
  if bobOp s b = 1 then (upto ea n).map fun a => BitVec.ofNat 8 (fld (rget s (Reg.bobFillv b)) (8 * (a % 4)) 8)
  else (bobSt s b).got.take n

/-- A transaction issues (R392): an access of a FIFO takes place now, one of a store asks for port B of its bank (R371). -/
def bobIssue (b : Nat) (k : BobKind) (src : Bool) (off n : Nat) (s : State) : State :=
  let ea := match k with
    | .flush => (bobSt s b).lastW / 4 * 4
    | _ => bobEa s b src off
  let host := bobHostSpace s b src
  match bobRefuse s b src (k == .write) ea n with
  | some code => bobEnd b code ea false s
  | none =>
    let pa := if rb s (Reg.bobCtl b) 8 then physical s ea else ea
    let bytes := if k == .write then bobBytes s b n ea else []
    let fifo := !host && decide (pa < 0x1000000)
    let e := (pa - 0x160000) / 0x100
    let rdFifo := rxRead e s
    let r : List Byte × State :=
      if host then (bytes, if k == .write then postWrite n s else s)
      else if fifo then
        if k == .write then (bytes, txWrite e (wd (leNat bytes)) s) else (leBytes 4 rdFifo.1.toNat, rdFifo.2)
      else (bytes, s)
    let txn : BobTxn := { kind := k, host := host, addr := ea, n := n, data := r.1, at_ := s.time, pa := pa, wait := !host && !fifo }
    let s := modBob b (fun x => { x with
      txns := x.txns ++ [txn], issueAt := s.time + 1,
      rd := if k == .srcRead then off + n else x.rd, drd := if k == .dstRead then off + n else x.drd,
      wr := if k == .write then off + n else x.wr, lastW := if k == .write then ea + n - 1 else x.lastW,
      got := if k == .write then x.got.drop n else x.got }) r.2
    let s := when_ txn.wait (portAsk ⟨bankOf pa, 2 + b, .bob⟩) s
    when_ (fifo && bobPaced s b && decide (bobQ s b < 128) && (qSource s (bobQ s b) == src))
      (bobAccount b (off + n)) s

/-- A compare takes the bytes that both sides have returned (R388). -/
def bobCompare (b : Nat) (s : State) : State :=
  let x := bobSt s b
  let n := min x.got.length x.dgot.length
  match ((upto 0 n).find? fun i => x.got.getD i 0 != x.dgot.getD i 0) with
  | none => modBob b (fun x => { x with ack := x.ack + n, got := x.got.drop n, dgot := x.dgot.drop n }) s
  | some i =>
    let s := rset (Reg.bobMismOff b) (wd (x.ack + i)) (setb (Reg.bobSts b) 3 true s)
    let s := rset (Reg.bobMismData b) (wd ((x.got.getD i 0).toNat + 256 * (x.dgot.getD i 0).toNat)) s
    modBob b (fun x => { x with ack := x.ack + i, mism := true }) s

/-- The transaction `t` of bobbin b is no longer outstanding. -/
def bobDrop (b : Nat) (t : BobTxn) (s : State) : State := modBob b (fun x => { x with txns := x.txns.erase t }) s

/-- What follows an error of a transaction that is over (R390); nothing, where the bobbin has ended already. -/
def bobError (b code : Nat) (t : BobTxn) (s : State) : State :=
  if (bobSt s b).ending.isSome || (bobSt s b).mism then bobSettle b s else bobSettle b (bobEnd b code t.addr false s)

/-- Transaction `t` of bobbin b, no longer outstanding, has brought back its bytes (R386, R388 to R390). A bobbin that is being ended
still accounts what its transactions have moved. -/
def bobTake (b : Nat) (t : BobTxn) (s : State) : State :=
  if t.bad then bobError b 5 t s
  else
    let open_ := (bobSt s b).ending.isNone && !(bobSt s b).mism
    let srcQ := bobPaced s b && qSource s (bobQ s b) && decide (128 ≤ bobQ s b)
    let dstQ := bobPaced s b && !qSource s (bobQ s b) && decide (128 ≤ bobQ s b)
    let s := match t.kind with
      | .srcRead =>
        let s := modBob b (fun x => { x with got := x.got ++ t.data, ret := x.ret + t.n }) s
        let s := when_ srcQ (fun s => bobAccount b (bobSt s b).ret s) s
        when_ (open_ && decide (bobOp s b = 2)) (bobCompare b) s
      | .dstRead => when_ open_ (bobCompare b) (modBob b (fun x => { x with dgot := x.dgot ++ t.data }) s)
      | .write =>
        let s := modBob b (fun x => { x with ack := x.ack + t.n }) s
        when_ dstQ (fun s => bobAccount b (bobSt s b).ack s) s
      | .flush => modBob b (fun x => { x with flushed := true }) s
    let s := rset (Reg.bobRemain b) (wd (bobCount s b - (bobSt s b).ack)) s
    bobSettle b s

/-- The host port drops every host-space transaction (R391): link reset, function-level reset, link loss. -/
def bobLinkDrop (s : State) : State :=
  forEach (upto 0 32) (fun b s =>
    let h := (bobSt s b).txns.filter fun t => t.host
    match h with
    | [] => s
    | t :: _ =>
      let s := countN Reg.bobcLinkdropCnt h.length s
      let s := modBob b (fun x => { x with txns := x.txns.filter fun t => !t.host }) s
      bobSettle b (bobEnd b 6 t.addr false s)) s

/-- STS.CNT_CLR of BOB[b], CTL.CNT_CLR of BOBC and of STORE (R401). -/
def bobCntClrOp (b : Nat) : State → State := clr (Reg.bobXferCnt b)
def storeCntClrOp : State → State := clrAll [Reg.storeCeCnt, Reg.storeUeCnt, Reg.storeScrubPass, Reg.storeMtCnt]

/-- A write of BOB[b].CTL that carries a reserved encoding (R398, R385, R397). -/
def bobCtlReserved (s : State) (b : Nat) (v : Word) : Bool :=
  decide (fld v 2 2 = 3) || decide (142 ≤ fld v 20 8 ∧ fld v 20 8 ≠ 255) || (bit v 0 && decide (rn s (Reg.bobCnt b) = 0))

/-- A write of HQ_CFG carries a reserved encoding (R400). -/
def hqCfgReserved (v : Word) : Bool := decide (fld v 0 16 ≠ 0) && !hqValid v

/-- A running bobbin names host queue j (R400). -/
def hqBusy (s : State) (j : Nat) : Bool := (upto 0 32).any fun b => bobRuns s b && bobQ s b == 134 + j

/-- A host write of HQ_PTR[j] (R400): the pointer of the bobbin's side keeps its value. -/
def writeHqPtr (j : Nat) (v : Word) (s : State) : State :=
  if rb s (Reg.bobcHqCfg j) 31 then setf (Reg.bobcHqPtr j) 16 16 (fld v 16 16) s
  else setf (Reg.bobcHqPtr j) 0 16 (fld v 0 16) s

/-! ### Scrub and march test (R376 to R381) -/

/-- The spare of group g is in use (R380). -/
def spareUsed (s : State) (g : Nat) : Bool := rb s (Reg.storeSpare g) 31

/-- The bytes of a bank are set to 0 with valid check bits (R379). -/
def clearBank (bank : Nat) (s : State) : State :=
  let lo := 0x1000000 + 0x40000 * bank
  { s with
    mem := s.mem.filter fun c => !decide (lo ≤ c.1 ∧ c.1 < lo + 0x40000)
    store := { s.store with marks := s.store.marks.filter fun m => !decide (wordOf lo ≤ m.1 ∧ m.1 < wordOf lo + 32768) } }

/-- A request for a test with MT_CTL.GO (R379, R381). The spec does not say whether GO stays 1 while the test runs, so that a second
write of it has no effect (R7), or clears when the request is accepted: here it clears, and a further request has RESULT 2
(DESIGN CHOICE, log entry 71). -/
def mtRequest (kind bank : Nat) (s : State) : State :=
  let refuse := fun r : Nat => setf Reg.storeMtSts 8 3 r s
  if mtPhase s ≠ 0 then refuse 2
  else if 47 < bank then refuse 5
  else if kind = 0 ∧ spareUsed s (bank / 12) then refuse 3
  else if kind = 1 ∧ mode s ≠ 9 then refuse 4
  else
    let s := setb Reg.storeSts 2 true (setf Reg.storeMtSts 16 6 bank s)
    let s := { s with store := { s.store with mtKind := kind, mtAt := s.time, mtWait := 0 } }
    mtSet (if kind = 0 then 1 else 3) s

/-- A bank has failed a test (R380): its group's spare replaces it, unless that spare serves already. True where the bank
stays unrepaired. -/
def bankFailed (bank : Nat) (s : State) : Bool × State :=
  let g := bank / 12
  let s := flagRaise Reg.storeSts 3 2883 s
  if spareUsed s g then (true, setb (Reg.storeSpare g) 30 (rb s (Reg.storeSpare g) 30 || rf s (Reg.storeSpare g) 0 6 == bank) s)
  else
    let s := setb Reg.storeSts (4 + g) true (rset (Reg.storeSpare g) (setBit (wd bank) 31 true) s)
    (false, logCause 0x0A02 3 bank (wd g) (rget s (Reg.storeSpare g)) s)

/-- A requested test has finished with a result (R381). -/
def mtFinish (result : Nat) (s : State) : State :=
  mtSet 0 (setb Reg.storeSts 2 false (setf Reg.storeMtSts 8 3 result (count Reg.storeMtCnt s)))

/-- One scrub read of all banks (R376), an access of each (R441). -/
def scrubOp (s : State) : State :=
  let w := s.store.scrubWord
  let s := forEach (s.store.marks.filter fun m => decide (m.1 % 32768 = w ∧ m.2 ≠ 0))
    (fun m s => (checkRead .scrub (0x1000000 + 8 * m.1) 8 s).2) s
  let s := { s with store := { s.store with scrubWord := (w + 1) % 32768, scrubAt := s.time + 1 }
                    pwr := { s.pwr with touched := (upto 0 48).map fun b => (b, s.time), asleep := [] } }
  let s := copyWaits (mtBank s) s
  when_ (decide (w = 32767)) (count Reg.storeScrubPass) s

end Sys2Proof.Machine
end

