-- ==== Sys2Proof/Machine/Vec.lean ====
section
/-!
DEFINITION. Operations of the interrupt vectors (12_event_matrix.md R408 to R422) and the start of a wake from SLUMBER
(13_modes_clocks_power.md R443).
-/

namespace Sys2Proof.Machine

/-- A wake from SLUMBER starts with a cause (R443, R449): it is recorded; a wake under way goes on. -/
def wakeBegin (cause : Nat) (s : State) : State :=
  if power s ≠ 2 ∨ s.log.waking then s
  else setf Reg.pwrSts 16 4 cause (schedule (s.time + 160000) .wake { s with log := { s.log with waking := true } })

/-! ### Readiness (R409, R410, R415) -/

def vecEn (s : State) (j : Nat) : Bool := rb s (Reg.vecCtl j) 0
def vecMask (s : State) (j : Nat) : Bool := rb s (Reg.vecCtl j) 1
def vecIrq (s : State) (j : Nat) : Bool := rb s (Reg.vecCtl j) 2
def vecPend (s : State) (j : Nat) : Bool := rb s (Reg.vecSts j) 0
def vecPin (s : State) (j : Nat) : Nat := rf s (Reg.vecCtl j) 4 2
def vecNum (s : State) (j : Nat) : Nat := rf s (Reg.vecCtl j) 8 8 + 1
def vecTime (s : State) (j : Nat) : Nat := rf s (Reg.vecCtl j) 16 16

/-- The cycle in which the time limit of the raises counted sets PEND (R409). -/
def vecLimit (s : State) (j : Nat) : Option Nat :=
  if (vecSt s j).acc = 0 ∨ vecTime s j = 0 then none else some ((vecSt s j).first + 2 + 64 * vecTime s j)

/-- The raises in ACC before those that arrived in this cycle. -/
def accBefore (s : State) (j : Nat) : Nat :=
  let x := vecSt s j
  if x.arrAt = s.time + 1 then x.acc - x.arrN else x.acc

/-- Vector j is judged again when its time limit comes (R409). -/
def limitLater (j : Nat) (s : State) : State :=
  match vecLimit s j with
  | some t => when_ (decide (s.time < t)) (schedule t (.vecReady j)) s
  | none => s

/-! ### Pins (R412, R415, R416) -/

/-- The pin that vector j holds low: IRQ_SEL = 1, PEND = 1 and MASK = 0 (R412). -/
def irqWant (s : State) (j : Nat) : Option Nat :=
  if vecIrq s j && vecPend s j && !vecMask s j then some (vecPin s j) else none

/-- The pin that vector j held low is high 1 to 12 lc later, a free value (R412, R415, R416, R628). -/
def irqRelease (j : Nat) (s : State) : State :=
  if (vecSt s j).pinLow then
    let x := freshWord s
    modVec j (fun v => { v with pinLow := false, lowIrq := v.pinIrq, lowTill := s.time + 1 + x.1 % 12 }) x.2
  else s

/-- Vector j begins to hold a pin low, which is a delivery (R412), or ends to; a change of IRQ_SEL or IRQ waits for its cycle
(R415). -/
def irqJudge (j : Nat) (s : State) : State :=
  let want := irqWant s j
  if s.time < (vecSt s j).selAt || want == (vecSt s j).begun then s
  else
    let s := modVec j (fun v => { v with begun := want }) (irqRelease j s)
    when_ want.isSome (count (Reg.vecDelivCnt j)) s

/-- The cycle of the raises that reach a vector now (R408). -/
def raisedBefore (s : State) : Nat := s.time - if power s = 2 then 16 else 1

/-- Vector j becomes ready now (R409, R410): PEND, or a readiness merged; raises that arrive in this cycle stay. -/
def vecReadyNow (j : Nat) (s : State) : State :=
  let x := vecSt s j
  let inCycle := decide (x.arrAt = s.time + 1) && decide (0 < x.arrN)
  let last := if inCycle then x.prevLast else x.lastSrc
  let s :=
    if vecPend s j then
      setf (Reg.vecSrc j) 16 12 last (count Reg.evmMergeCnt (setb (Reg.vecSts j) 1 true s))
    else irqJudge j <| setb (Reg.vecSts j) 0 true (rset (Reg.vecSrc j) (setFld (wd x.firstSrc) 16 12 last) s)
  let left := if inCycle then x.arrN else 0
  let s := schedule (s.time + if vecIrq s j then 12 else 40) (.deliver j) s
  let s := modVec j (fun y => { y with
    acc := left, first := if inCycle then raisedBefore s else y.first,
    firstSrc := if inCycle then y.arrMin else y.firstSrc, readyAt := s.time + 1 }) s
  wakeBegin 4 (limitLater j s)

/-- Vector j is judged (R409, R415): its pin by its destination, and ready when ACC has reached NUM or the time limit has been
reached. -/
def vecJudge (j : Nat) (s : State) : State :=
  let s := irqJudge j s
  let n := accBefore s j
  let timeUp := match vecLimit s j with | some t => decide (t ≤ s.time) && decide (0 < n) | none => false
  if decide (vecNum s j ≤ n) || timeUp then vecReadyNow j s else limitLater j s

/-- The sources that reach vector j in one cycle `t` (R408): discarded at a disabled vector, else counted; NUM reached
makes it ready in the next cycle. -/
def vecArrive (j : Nat) (srcs : List Nat) (s : State) : State :=
  if srcs.isEmpty then s
  else if !vecEn s j then countN Reg.evmDiscCnt srcs.length s
  else
    let x := vecSt s j
    let lo := srcs.foldl min 4096
    let hi := srcs.foldl max 0
    let acc := min 65535 (x.acc + srcs.length)
    let s := modVec j (fun x => { x with
      acc := acc, first := if x.acc = 0 then raisedBefore s else x.first, firstSrc := if x.acc = 0 then lo else x.firstSrc,
      prevLast := x.lastSrc, lastSrc := hi, arrAt := s.time + 1, arrN := srcs.length, arrMin := lo }) s
    if vecNum s j ≤ acc then schedule (matrixNext s) (.vecReady j) s else limitLater j s

/-- The raises that reached vector j in the earliest cycle are taken (R408, R409). -/
def raiseArrivalOp (j : Nat) (s : State) : State :=
  match wireAt s (.vec j) with
  | none => s
  | some t =>
    let mine := fun w : Wire => w.dst == .vec j && w.at_ == t
    let srcs := (s.ev.wires.filter mine).map fun w => w.src
    vecArrive j srcs { s with ev := { s.ev with wires := s.ev.wires.filter fun w => !mine w } }

/-! ### Delivery (R411, R412, R414) -/

/-- Message Control is DW 0x14 of the configuration space (log entry 23): MSI-X is enabled. -/
def msixOn (s : State) : Bool := bit (tget 0 s.host.cfg 0x14) 31

/-- An MSI-X mask holds vector j (R411): the function mask, or the one of entry j. -/
def msixMask (s : State) (j : Nat) : Bool := bit (tget 0 s.host.cfg 0x14) 30 || bit (tget 1 s.host.msix (4 * j + 3)) 0

/-- MSI-X is disabled, or a mask of it holds vector j (R411). -/
def msixHeld (s : State) (j : Nat) : Bool := !msixOn s || msixMask s j

/-- Bit j of the pending bit array (R411, R529). -/
def msixPending (s : State) (j : Nat) : Bool := vecPend s j && !vecIrq s j && msixMask s j

/-- Vector j is held (R411). -/
def vecHeld (s : State) (j : Nat) : Bool :=
  vecMask s j || (!vecIrq s j && (!rb s Reg.hostSts 6 || msixHeld s j))

/-- VEC[j].STS as it reads (R421). -/
def vecStsView (s : State) (j : Nat) : Word :=
  setFld (setBit (rget s (Reg.vecSts j)) 2 (vecPend s j && vecHeld s j)) 16 15 (min 32767 (vecSt s j).acc)

/-- EVM.PEND and EVM.MASK as they read (R419): bit i of word k is vector 32 k + i. -/
def vecBits (f : Nat → Bool) (k : Nat) : Word :=
  (upto 0 32).foldl (fun w i => if f (32 * k + i) then setBit w i true else w) 0

/-- EVM.STS.IRQ_LVL (R419): the pins that a vector holds low. -/
def irqLevels (s : State) : Nat :=
  (upto 0 64).foldl (fun w j =>
    let x := vecSt s j
    let w := if x.pinLow then w ||| 2 ^ x.pinIrq else w
    if s.time < x.lowTill then w ||| 2 ^ x.lowIrq else w) 0

/-- A write of 1 to the PEND bit of vector j (R412, R415): it clears unless the vector became ready in this cycle. -/
def vecClear (j : Nat) (s : State) : State :=
  if (vecSt s j).readyAt = s.time + 1 then s else irqJudge j (setb (Reg.vecSts j) 0 false s)

/-- A write of VEC[j].STS (R421): PEND, MERGED, CNT_CLR. -/
def writeVecSts (j : Nat) (v : Word) (s : State) : State :=
  let s := when_ (bit v 0) (vecClear j) s
  let s := clearBits (Reg.vecSts j) (v &&& 2#32) s
  when_ (bit v 31) (clr (Reg.vecDelivCnt j)) s

/-- A pending vector whose mask or destination has been written is delivered at its bound (R415, R416). -/
def redeliver (j : Nat) (s : State) : State := when_ (vecPend s j) (schedule (s.time + 40) (.deliver j)) s

/-- A write of VEC[j].CTL (R415): MASK acts now; a change of IRQ_SEL and IRQ, and of NUM and TIME, is judged in the next
cycle. -/
def writeVecCtl (j : Nat) (v : Word) (s : State) : State :=
  let was := rget s (Reg.vecCtl j)
  let s := rset (Reg.vecCtl j) (v &&& 0xFFFFFF37#32) s
  let next := matrixNext s
  let diff := v ^^^ was
  let s := modVec j (fun x => { x with
    selAt := if diff &&& 0x34#32 = 0 then x.selAt else next
    numAt := if diff &&& 0xFFFFFF00#32 = 0 then x.numAt else next }) s
  redeliver j (schedule next (.vecReady j) (irqJudge j s))

/-- A write of EVM.MASK_LO or MASK_HI, word k (R419). -/
def writeMask (k : Nat) (v : Word) (s : State) : State :=
  forEach (upto 0 32) (fun i s =>
    let j := 32 * k + i
    if vecMask s j == bit v i then s else redeliver j (irqJudge j (setb (Reg.vecCtl j) 1 (bit v i) s))) s

/-- Pending vectors that were held in state `old` and are no longer are delivered at their bound (R411, R414). -/
def redeliverFrom (old s : State) : State :=
  forEach (upto 0 64) (fun j s => when_ (vecHeld old j && !vecHeld s j) (redeliver j) s) s

/-- Time in ps at the start of a loom cycle (R15). -/
def psOf (t : Nat) : Nat := 2500 * t

/-- The message of entry j of the MSI-X table (R412): address and data, leaving the port at an instant in ps. -/
def msixMsg (s : State) (j t : Nat) : MsixMsg :=
  let w := fun k => tget 0 s.host.msix (4 * j + k)
  { at_ := t, addr := (w 0).toNat + 2 ^ 32 * (w 1).toNat, data := w 2 }

/-- A message of vector j is handed to the host port (R412, R529): a posted write of 4 bytes, which leaves after those before it. -/
def msixSend (j : Nat) (s : State) : State :=
  let s := postWrite 4 (count (Reg.vecDelivCnt j) (setb (Reg.vecSts j) 0 false s))
  let m := msixMsg s j s.host.txFree
  modVec j (fun x => { x with sent := m :: x.sent.filter fun y => decide (psOf s.time < y.at_) }) s

/-- The pin of vector j goes low (R412, R416). -/
def irqAssertOp (j : Nat) (s : State) : State := modVec j (fun x => { x with pinLow := true, pinIrq := x.begun.getD 0 }) s

/-- Vector j has begun to hold a pin that is not low for it yet. -/
def irqDue (s : State) (j : Nat) : Bool := (vecSt s j).begun.isSome && !(vecSt s j).pinLow

/-- The bound of R416 for vector j has come: what is still to be delivered is, but not in SLUMBER. -/
def deliverOp (j : Nat) (s : State) : State :=
  if power s = 2 then s
  else if irqDue s j then irqAssertOp j s
  else when_ (vecPend s j && !vecIrq s j && !vecHeld s j) (msixSend j) s

/-- The messages in flight when the host port is reset are pending again (R414). -/
def msixRedo (s : State) : State :=
  forEach (upto 0 64) (fun j s =>
    let lost := (vecSt s j).sent.filter fun m => decide (psOf s.time < m.at_)
    let s := modVec j (fun x => { x with sent := [] }) s
    if lost.isEmpty then s
    else redeliver j (irqJudge j (setb (Reg.vecSts j) 0 true (countN Reg.evmRedoCnt lost.length s)))) s

def evmCntClrOp : State → State := clrAll [Reg.evmMergeCnt, Reg.evmRedoCnt, Reg.evmDiscCnt]

end Sys2Proof.Machine
end

