-- ==== Sys2Proof/Machine/Mode.lean ====
section
/-!
DEFINITION. Operations of the modes (13_modes_clocks_power.md R423 to R451, 06_card_chain.md R213, R230, R231): mode changes,
SAFE-HOLD, the card preload, the end of a changeover by an abort, power levels, clocks, supplies and the device reset.
-/

namespace Sys2Proof.Machine

/-- GCTL.MODE.MODE takes a value; entering IDLE, SAFE-HOLD or MAINTENANCE shows SAFE at every pin (R190, R191). -/
def setMode (m : Nat) (s : State) : State :=
  if mode s = m then s
  else
    let s := modeReport m s
    if m = 3 ∨ m = 8 ∨ m = 9 then abandonFrames (unreleaseAll s) else s

/-- A mode is entered and the automatic transitions follow in the same cycle (R423). -/
def enterMode (m : Nat) (s : State) : State := modeAuto (setMode m s)

/-! ### The card preload (R213) -/

/-- A card of the preload is placed: WAITING with its relative stamp, or armed. -/
def preArm (gen : Bool) (p : Pre) (s : State) : State :=
  match lowestFree s with
  | none => refuseCard s
  | some n =>
    let w := fun k => p.words.getD k 0
    if cAngle (w 0) then
      let s := modSlot n (fun x => { x with rel := some (w 1, w 2) }) (takeFree n 5 gen false p.words s)
      let t := cTrk (w 0)
      if trdLost s t then s else armAngleRel (phi s t s.time) n s
    else
      let x := 32 * s.time + 32 * ((w 1).toNat + 2 ^ 32 * fld (w 2) 0 24) + cFine (w 0)
      let ws := [setFld (w 0) 20 5 (x % 32), wd (x / 32), setFld (w 2) 0 24 (x / 2 ^ 37), w 3]
      armCard 8 (nextCycle s) n (takeFree n 2 gen false ws s)

/-- The harness of a preload card's channel, where its action names a channel. -/
def preHarness (p : Pre) : Option Nat :=
  let w := p.words.getD 0 0
  if cOnChannel w then some (cChan w / 8) else none

/-- The armed preload of the draft in force is applied again to the entries that a test admits (R213, R428), those whose
harness is held apart. -/
def applyPreload (p : Pre → Bool) (s : State) : State :=
  match s.chg.act with
  | none => s
  | some d =>
    forEach d.cards (fun c s =>
      let held := match preHarness c with | some h => harnHeld s h | none => false
      if c.parked || held || !p c then s else preArm (curGen s) c s) s

/-! ### Staged drafts and aborts (R474, R478) -/

def stageState (s : State) : Nat := rf s Reg.chgSts 0 3
def setStage (n : Nat) : State → State := setf Reg.chgSts 0 3 n

/-- The staged preload is discarded: new-generation cards are freed, STAGE_STATE and GCTL.STATE.CHG return to 0 (R474). -/
def discardStaged (s : State) : State :=
  let s := forEach (slotsWhere s fun _ x => x.staged) freeSlot s
  let s := setb Reg.chgSts 4 false (setb Reg.chgSts 3 false (setf Reg.chgSts 12 4 0 (setStage 0 s)))
  let s := forEach (upto 0 64) (fun e s => if (hedSt s e).staged then modHed e (fun x => { x with staged := false }) s else s)
    (setb Reg.gctlState 5 false s)
  { s with chg := { s.chg with staged := none } }

/-- A changeover is aborted before its switch instant (R478): the caller then sets the mode. -/
def chgAbort (code : Nat) (s : State) : State :=
  let s := setf Reg.chgSts 20 4 code (setb Reg.chgSts 17 true (count Reg.chgAbortCnt s))
  let s := logCause 0x1001 2 0 (wd code) (rget s Reg.chgSwA) s
  if code = 1 ∨ code = 3 then discardStaged s else setStage 3 s

/-- An abort that returns the mode to the one from which CHANGEOVER was entered (R478). -/
def chgAbortBack (code : Nat) (s : State) : State := enterMode s.chg.fromMode (chgAbort code s)

/-- A changeover is pending: accepted, and its switch instant has not come. -/
def chgPending (s : State) : Bool := decide (stageState s = 4)

/-! ### Holds (R427, R428) -/

/-- A hold is in force: on harness h for its own causes, on the whole device for key 64. -/
def heldBy (s : State) (key : Nat) : Bool := s.pwr.holds.any fun x => x.1 == key
def wholeHeld (s : State) : Bool := heldBy s 64

/-- PWR.HOLD and GCTL.STATE.HOLD_ANY follow the holds (R427, R39). -/
def holdRegs (s : State) : State :=
  let w := fun k => vecBits (fun h => wholeHeld s || heldBy s h) k
  setb Reg.gctlState 4 (!s.pwr.holds.isEmpty) (rset Reg.pwrHoldLo (w 0) (rset Reg.pwrHoldHi (w 1) s))

/-- Engine e receives no task (R427, R69): every harness that it serves is held; an engine that serves none, after its own
escalation alone, since tasks go on in SAFE-HOLD (R48). -/
def engShouldHold (s : State) (e : Nat) : Bool :=
  let hs := serves s e
  s.chg.swWait || if hs.isEmpty then s.pwr.holds.contains (64, 100 + e) else hs.all fun h => harnHeld s h

/-- The engines follow the holds (R427, R69): a released engine counts no overrun and resumes. -/
def engHolds (s : State) : State :=
  forEach (upto 0 34) (fun e s =>
    let now := engShouldHold s e
    let st := rf s (Reg.engEsts e) 0 3
    if now == (engSt s e).held then s
    else
      let s := modEng e (fun x => { x with held := now }) s
      if now then when_ (decide (st = 0)) (setEsts e 3) s
      else setf (Reg.engEsts e) 4 2 0 (when_ (decide (st = 3)) (setEsts e 0) s)) s

/-- Harnesses `hs` and, where `whole` is set, the whole device are held for a cause (R427, R231). -/
def addHold (hs : List Nat) (whole : Bool) (cause : Nat) (s : State) : State :=
  let new := hs.filter fun h => !harnHeld s h
  let newWhole := whole && !wholeHeld s
  let keys := (hs ++ (if whole then [64] else [])).map fun k => (k, cause)
  let s := { s with pwr := { s.pwr with holds := s.pwr.holds ++ keys.filter fun k => !s.pwr.holds.contains k } }
  let s := holdRegs s
  let s := forEach new (fun h s => unreleaseHarness h (if mode s = 9 then s else holdDisarm (cardsOfHarness s h) s)) s
  let s :=
    if !newWhole then s
    else
      let s := if mode s = 9 then s
        else holdDisarm (slotsWhere s fun _ x => x.pending || x.st == 4) s
      let s := if chgPending s then chgAbort 3 s else s
      when_ (decide (mode s ≠ 9)) (setMode 8) s
  engHolds (abandonFrames s)

/-- A hold may be released by CLEAR_HOLD (R428): its own or an escalation hold; a hold of the fault policy by its class. -/
def clearable (polOk : Nat → Nat → Bool) (x : Nat × Nat) : Bool := decide (x.2 < 200) || polOk (x.2 - 200) x.1

/-- CLEAR_HOLD is accepted (R428): something named is held, and every named hold can be cleared. -/
def clearHoldOk (polOk : Nat → Nat → Bool) (hs : List Nat) (whole : Bool) (s : State) : Bool :=
  let named := s.pwr.holds.filter fun x => hs.contains x.1 || (whole && x.1 == 64)
  !named.isEmpty && named.all (clearable polOk)

/-- CLEAR_HOLD releases what it names (R428). -/
def clearHoldOp (hs : List Nat) (whole : Bool) (s : State) : State :=
  let was := s
  let s := { s with pwr := { s.pwr with holds := s.pwr.holds.filter fun x => !(hs.contains x.1 || (whole && x.1 == 64)) } }
  let s := engHolds (holdRegs s)
  let freed := fun h => harnHeld was h && !harnHeld s h
  let s := forEach ((upto 0 64).filter freed) noteSafe s
  let wholeFreed := wholeHeld was && !wholeHeld s
  let s := if wholeFreed && decide (mode s = 8) then enterMode 4 s else s
  if mode s = 9 then s
  else applyPreload (fun c => match preHarness c with | some h => freed h | none => wholeFreed) s

/-! ### MAINTENANCE, ARM, STOP (R423, R230) -/

/-- MAINTENANCE is entered (R423, R230, R474). The disarming of cards raises source 2,748 here too, for which R237 names loss of sync and holds
alone (DESIGN CHOICE, log entry 37). -/
def enterMaint (s : State) : State :=
  let s := holdDisarm (slotsWhere s fun _ x => x.pending || x.st == 4) s
  let s := when_ (decide (stageState s = 2 ∨ stageState s = 3)) discardStaged s
  setMode 9 (setb Reg.shedCtl 0 false s)

/-- CHANGEOVER is entered with a switch point (R477): angle form with tracker, cycle and phase, or time form. -/
def enterChangeover (time : Bool) (trk a b : Nat) (s : State) : State :=
  let from_ := if mode s = 6 then 5 else mode s
  let s := { s with chg := { s.chg with fromMode := from_ } }
  let s := rset Reg.chgSwCtl (setBit (wd (if time then 0 else trk)) 2 time) (rset Reg.chgSwA (wd a) (rset Reg.chgSwB (wd b) s))
  setMode 7 (setStage 4 s)

/-- MAINTENANCE is left for IDLE, or for SAFE-HOLD while the whole device is held (R423, R230, R32; log entry 24). -/
def leaveMaint (s : State) : State :=
  let s := setMode 3 (setb Reg.shedCtl 0 true s)
  let s := forEach (slotsWhere s fun _ x => x.st != 0 && x.st != 1) freeSlot s
  let s := applyPreload (fun _ => true) s
  if wholeHeld s then setMode 8 (holdDisarm (cardsOfDevice s) s) else s

/-! ### Power levels (R440 to R444) -/

/-- The flash writes (R442, R446). -/
def flashBusy (s : State) : Bool := s.flash.jobs.any fun j => j.issued

/-- PWR.STS.BLOCK (R449): the SLUMBER conditions of R442 that fail. -/
def slumberBlock (s : State) : Nat :=
  let cards := !(slotsWhere s fun _ x => x.st == 2 || x.st == 3 || x.st == 4).isEmpty
  let conv := s.adc.seq.isSome || (s.adc.convs.any fun c => match c with | .slot .. => true | .readback .. => false) || decide (mtPhase s ≠ 0) || flashBusy s
  b2n (mode s != 3 || rb s Reg.gctlState 5 || decide (2 ≤ stageState s)) + 2 * b2n cards + 4 * b2n (rget s Reg.bobcRun != 0) +
    8 * b2n (!s.host.reads.isEmpty || rget s Reg.mbxPendLo != 0 || rget s Reg.mbxPendHi != 0) +
    16 * b2n (rb s Reg.selCtl 0) + 32 * b2n conv + 64 * b2n (decide (rn s Reg.pwrLatencyNs < 400000)) +
    128 * b2n (!rb s Reg.pwrCtl 1)

def slumberOk (s : State) : Bool := slumberBlock s == 0

/-- DOZE is allowed (R441). -/
def dozeOk (s : State) : Bool :=
  rb s Reg.pwrCtl 0 && decide (2000 ≤ rn s Reg.pwrLatencyNs) && decide (mode s = 3 ∨ mode s = 5 ∨ mode s = 6)

/-- PWR.STS as it reads (R449). -/
def pwrStsView (s : State) : Word :=
  let w := setFld (setFld (rget s Reg.pwrSts) 0 2 (power s)) 2 2 (cmpCeiling s)
  if !live s then w else setFld (setBit (setBit w 4 (dozeOk s)) 5 (slumberOk s)) 8 8 (slumberBlock s)

/-- A residency counter counts `k` units that have ended by now, with `rest` cycles over: with none the last ended in this cycle
(R42). -/
def resCount (a k rest : Nat) (s : State) : State :=
  when_ (decide (0 < k ∧ rest = 0)) (noteCount a 1) (rset a (wd (min 0xFFFFFFFF (rn s a + k))) s)

/-- The time at the present level is added to DOZE_RES or SLUMBER_RES (R448). -/
def resSync (s : State) : State :=
  let d := s.time - s.pwr.since
  let s := { s with pwr := { s.pwr with since := s.time } }
  match power s with
  | 1 =>
    let a := s.pwr.accDoze + d
    resCount Reg.pwrDozeRes (a / 65536) (a % 65536) { s with pwr := { s.pwr with accDoze := a % 65536 } }
  | 2 =>
    let a := s.pwr.accSlum + d
    resCount Reg.pwrSlumberRes (a / 65536) (a % 65536) { s with pwr := { s.pwr with accSlum := a % 65536 } }
  | _ => s

/-- GCTL.MODE.POWER changes (R426, R38). -/
def setPower (p : Nat) (s : State) : State :=
  let s := resSync s
  if power s = p then s else raise 2886 (when_ (decide (p = 2 ∨ power s = 2)) (noteSafe 64) (setf Reg.gctlMode 4 2 p s))

/-- SLUMBER is entered (R443): trackers hold and count teeth, comparators take their slower mode, pins show SAFE, the PLL
stops. -/
def enterSlumber (s : State) : State :=
  let s := forEach (upto 0 4) (fun t s =>
    when_ (decide (trdState s t ≠ 0)) (fun s => modTrd t (fun x => { x with cold := 2 }) (holdAt t (phi s t s.time) s)) s) s
  setb Reg.pwrClksts 2 false (cmpModesSet (abandonFrames (unreleaseAll (hedSleep (setPower 2 s)))))

/-- A wake is complete (R443, R48): the loom clock runs at full power again. -/
def wakeDone (s : State) : State :=
  let s := hedWake (forEach (upto 0 64) redeliver (setPower 0 (setb Reg.pwrClksts 2 true s)))
  let s := { s with shed := { s.shed with nextMin := s.time + 200, scanned := none }
                    log := { s.log with waking := false }
                    pwr := { s.pwr with okSince := none } }
  logDrain (cmpModesSet s)

/-- SLUMBER conditions are followed from cycle to cycle (R442); time passes after. -/
def powerSnap (s : State) : State :=
  let c := if slumberOk s then some (s.pwr.okSince.getD s.time) else none
  if c == s.pwr.okSince then s else { s with pwr := { s.pwr with okSince := c } }

/-- A change of PWR.CLKSTS that clock monitor m sees (R553): source 2,919 and a record; GCTL.STATE.CLK_SUB follows (R435). -/
def clkChange (m bits : Nat) (s : State) : State :=
  if rf s Reg.pwrClksts 0 3 = bits % 8 then rset Reg.pwrClksts (wd bits) s
  else
    let s := raise 2919 (setb Reg.gctlState 8 (bits.testBit 1) (rset Reg.pwrClksts (wd bits) s))
    logCause 0x0F03 3 m (rget s Reg.pwrClksts) 0 s

/-- The reference is judged lost (R435): the internal oscillator takes over. -/
def refLost (inj : Bool) (s : State) : State :=
  let bits := rf s Reg.pwrClksts 0 3
  if bits.testBit 1 then setb Reg.pwrClksts 3 false (clkChange 0 (bits / 2 * 2) s)
  else detect 9 0 [] inj (clkChange 0 (bits / 4 * 4 + 2) s)

/-- The harnesses with a trip input of KIND 2 or 3 that uses comparator c (R598 class 10). -/
def cmpHarnesses (s : State) (c : Nat) : List Nat :=
  (upto 0 64).filter fun h => (upto 0 4).any fun i =>
    let r := Reg.harnTrip h i
    let lo := rf s r 4 9
    (rf s r 0 2 == 2 && lo == c) || (rf s r 0 2 == 3 && decide (lo ≤ c / 2 ∧ c / 2 ≤ lo + rf s r 24 3))

/-- The harnesses that a supply monitor affects (R598 class 12). -/
def supplyHarnesses (s : State) (m : Nat) : List Nat :=
  match m with
  | 1 => upto 0 32
  | 2 => upto 32 32
  | 4 => (upto 0 64).filter fun h => (upto 0 64).any fun c => (cmpHarnesses s c).contains h
  | _ => []

/-- A monitor's LOW bit changes (R445, R446, R555). -/
def supplyChange (m : Nat) (low : Bool) (s : State) : State :=
  let s := if low then { s with pwr := { s.pwr with lowAt := tset s.pwr.lowAt m s.time } } else s
  if rb s Reg.pwrSupply m == low then s
  else
    let s := setb Reg.pwrSupply m low s
    let s := setb Reg.pwrSupply 8 (rb s Reg.pwrSupply 0 || rb s Reg.pwrSupply 5) s
    let s := raise 2918 s
    let s := logCause 0x0F02 3 m (rget s Reg.pwrSupply) (rget s (Reg.tackSup m)) s
    when_ low (detect 12 m (supplyHarnesses s m) false) s

/-! ### Device reset (R431, R432) -/

/-- The device resets with a cause bit of RSTCAUSE: what is left is what survives (R432), and what is not the device's:
the levels at its pads, the test access port, the commands that wait; debug access opens unless SECURE
is blown, and CHAL takes a new value (R577). -/
def deviceReset (cause : Nat) (s : State) : State :=
  let rc := if cause = 0 then 1#32 else setBit (rget s Reg.pwrRstcause) cause true
  rset Reg.pwrRstcause rc (setb Reg.tackDbgctl 0 (!s.fuse.secure) { State.reset with
    ch := s.ch.map fun x => (x.1, { level := padLevel s x.1 ^^ s.flt.injPin.contains x.1 })
    mem := s.mem
    tap := s.tap
    tack := { draws := s.tack.draws + 1 }
    flash := { bytes := s.flash.bytes }
    fuse := s.fuse
    freeN := s.freeN
    pending := s.pending })

end Sys2Proof.Machine
end

