-- ==== Sys2Proof/Machine/Shed.lean ====
section
/-!
DEFINITION. Operations of the shed (02_pick_and_shed.md): pick length and boundaries, scan, pick start with overruns and
snapshot, dispatch of normal and express tasks, and the restart after a lockstep mismatch (18_fault_containment.md R594).
-/

namespace Sys2Proof.Machine

def modShed (f : ShedSt → ShedSt) (s : State) : State := { s with shed := f s.shed }

/-- A 64-bit quantity of a register pair. -/
def set64 (lo hi x : Nat) (s : State) : State := rset hi (wd (x / 2 ^ 32)) (rset lo (wd x) s)

def pickNo (s : State) : Nat := pair64 s Reg.shedPicknoLo Reg.shedPicknoHi
def pickT (s : State) : Nat := pair64 s Reg.shedPickTLo Reg.shedPickTHi

/-! ### Pick boundaries (R44 to R48) -/

/-- The pick length selected now (R44, R47). -/
def pickLenNow (s : State) : Nat :=
  let d := rf s Reg.shedPicklen 16 13
  if power s = 1 ∧ d ≠ 0 then d else max 1 (rf s Reg.shedPicklen 0 13)

/-- Picks start (R48). -/
def picksRun (s : State) : Bool := running s

/-- The next pick start: the first multiple of the length in force from `nextMin` on (R45, R46). -/
def nextPick (s : State) : Nat :=
  let len := pickLenNow s
  let t := max s.shed.nextMin (s.time + (if pickT s = s.time ∧ s.shed.started then 1 else 0))
  (t + len - 1) / len * len

/-- The number that the next pick gets (R51). -/
def nextPickNo (s : State) : Nat := if s.shed.started then pickNo s + 1 else 0

/-! ### The scan (R54, R55, R70) -/

/-- A word of a descriptor, in the table as the last scan read it (R56). -/
def descWord (s : State) (d w : Nat) : Word := tget 0 s.shed.table (4 * d + w)

/-- A word of the task table is written; its reserved fields keep nothing (R8, R53). -/
def putTask (k : Nat) (v : Word) (s : State) : State :=
  let m : Word := match k % 4 with | 0 => 0x80FFFFFF#32 | 1 => 0x1FFF07FF#32 | _ => 0xFFFFFFFF#32
  { s with tasks := tset s.tasks k (v &&& m) }

/-- The code of DESC_ERR for a valid descriptor that is invalid (R54, R78), 0 where it is not. -/
def descCode (s : State) (d : Nat) : Nat :=
  let frame := (descWord s d 2).toNat
  if 31 < fld (descWord s d 0) 0 6 then 1
  else if fld (descWord s d 0) 6 2 = 1 ∧ fld (descWord s d 3) 0 16 < fld (descWord s d 3) 16 16 then 2
  else if frame < 0x1000000 ∨ 0x17FFFFF < frame ∨ frame % 8 ≠ 0 then 3
  else 0

/-- A descriptor is due in pick p (R55). -/
def descDue (s : State) (d p : Nat) : Bool :=
  match fld (descWord s d 0) 6 2 with
  | 0 => true
  | 1 => decide (p % (fld (descWord s d 3) 0 16 + 1) = fld (descWord s d 3) 16 16)
  | 2 => s.shed.evPend.contains d
  | _ => false

/-- The valid descriptors of a half, in rising order. -/
def descsOf (s : State) (half : Nat) : List Nat :=
  (s.shed.table.filter fun e => e.1 % 4 == 0 && e.1 / 16384 == half && bit e.2 31).map fun e => e.1 / 4

/-- The engine that runs the descriptors of engine e: its substitute once loaded (R61, R590). -/
def workEng (s : State) (e : Nat) : Option Nat :=
  if rf s (Reg.engEsts e) 0 3 ≠ 5 then some e
  else if rb s Reg.gctlChksts 14 && rf s Reg.gctlChksts 8 6 == e && !s.flt.copying then
    (if rb s (Reg.engEsts 32) 23 && rf s (Reg.engEsts 32) 16 6 == e then some 32 else some 33)
  else none

/-- The tasks of a list in the order of R57: by PRIO, then by index. -/
def taskOrder (s : State) (ds : List Nat) : List Nat :=
  ds.mergeSort fun a b => decide (fld (descWord s a 0) 8 4 * 8192 + a % 4096 ≤ fld (descWord s b 0) 8 4 * 8192 + b % 4096)

/-- A task of engine e is skipped (R61, R70). -/
def skipTask (e : Nat) (s : State) : State := raise 2763 (count (Reg.engSkipCnt e) s)

/-- The half in force changes with this scan (R70): pending bits of the old half are discarded and counted. -/
def switchHalf (h : Nat) (s : State) : State :=
  let old := s.shed.evPend.filter fun d => decide (d / 4096 ≠ h)
  let s := forEach old (fun d s => skipTask (fld (descWord s d 0) 0 6 % 32) s) s
  let s := modShed (fun x => { x with halfNext := none, evPend := x.evPend.filter fun d => decide (d / 4096 = h) }) s
  let s := forEach (upto 0 34) (fun e s => modEng e (fun g => { g with newBank := some h }) s) s
  setf Reg.shedTtsel 8 1 h s

/-- The scan of the next pick (R49, R54 to R56): it reads the table, and finds the due lists and the invalid descriptors. -/
def scanOp (s : State) : State :=
  let p := nextPickNo s
  let at_ := nextPick s
  let s := modShed (fun x => { x with table := s.tasks, lateEv := [] }) (raise 2753 s)
  let s := match s.shed.halfNext with | some h => switchHalf h s | none => s
  let half := rf s Reg.shedTtsel 8 1
  let ds := descsOf s half
  let bad := ds.filter fun d => descCode s d != 0
  let s := match bad with
    | [] => s
    | d :: _ =>
      let s := if rb s Reg.shedDescErr 31 then s
        else rset Reg.shedDescErr (setBit (setFld (setFld (wd (d % 4096)) 12 3 (descCode s d)) 15 1 half) 31 true) s
      raise 2759 s
  let due := ds.filter fun d => descCode s d == 0 && descDue s d p
  let s := forEach (upto 0 32) (fun e s =>
    let mine := taskOrder s (due.filter fun d => fld (descWord s d 0) 0 6 == e)
    match workEng s e with
    | some w => modEng w (fun g => { g with next := mine }) s
    | none =>
      let lost := mine.filter fun d => fld (descWord s d 0) 6 2 != 2
      forEach lost (fun _ s => skipTask e s) s) s
  modShed (fun x => { x with scanned := some at_, scanAt := s.time + 1 }) s

/-- Event tasks requested in the cycle of the scan point, after the scan, join the due lists (R55). -/
def joinLate (s : State) : State :=
  let half := rf s Reg.shedTtsel 8 1
  let ok := fun d => decide (d / 4096 = half ∧ descCode s d = 0) && bit (descWord s d 0) 31
  let s := forEach (s.shed.lateEv.filter ok) (fun d s =>
    match workEng s (fld (descWord s d 0) 0 6) with
    | some w => modEng w (fun g => { g with next := taskOrder s ((g.next.filter fun k => k != d) ++ [d]) }) s
    | none => s) s
  modShed (fun x => { x with lateEv := [] }) s

/-! ### Pick start (R46, R50, R51, R68, R69) -/

/-- A snapshot of device time and the trackers at the present cycle (R50). -/
def takeSnap (s : State) : Snap :=
  let p := fun t => phi s t s.time
  { time := s.time
    pick := pickNo s
    phase := (upto 0 4).map fun t => (t, posPhase (p t))
    frac := (upto 0 4).map fun t => (t, posFrac (p t))
    cycle := (upto 0 4).map fun t => (t, posCycle (p t)) }

/-- Engine e is halted by debug. -/
def engHalted (s : State) (e : Nat) : Bool := rb s (Reg.shuDbg e) 0 || rb s (Reg.shuDbg e) 8

/-- The running normal task of engine e is abandoned (R69, R590): effects stand, held load commands are discarded. -/
def abandonTask (e : Nat) (s : State) : State := normalEndAt e s.time s

/-- Overruns of engine e reach 3 (R69). -/
def escalate (e : Nat) (s : State) : State :=
  let hs := serves s e
  let s := modEng e (fun g => { g with due := [], carried := 0, next := [] }) (abandonTask e s)
  setEsts e 3 (raise 2755 (addHold hs hs.isEmpty (100 + e) s))

/-- Whether the tasks that engine e was given for the last pick have not all completed (R68). -/
def engBehind (s : State) (e : Nat) : Bool := (ctx s e .normal).task.isSome || !(engSt s e).due.isEmpty

/-- The overrun check of engine e at a pick start (R68, R69). -/
def overrunCheck (e : Nat) (s : State) : State :=
  if engHalted s e || decide (s.time < s.shed.resume) then s
  else if !engBehind s e then when_ (!(engSt s e).held) (setf (Reg.engEsts e) 4 2 0) s
  else
    let n := min 3 (rf s (Reg.engEsts e) 4 2 + 1)
    let s := count (Reg.engOvrCnt e) (setf (Reg.engEsts e) 4 2 n (setb (Reg.engEsts e) 8 true s))
    let s := raise 2754 (if e < 32 then raise (2784 + e) s else s)
    if n = 3 && !(engSt s e).held then escalate e s else s

/-- Tasks are dispatched to their engine (R55, R61): the pending bits of event tasks clear, and later raises count for a later pick. -/
def tasksDispatched (ds : List Nat) : State → State := modShed fun x => { x with evPend := x.evPend.filter fun k => !ds.contains k }

/-- Engine e takes its tasks of the pick (R57, R61, R67, R70). What it has used is charged to the pick that ends, up to where a debug halt
stopped task time (R58, R124). While SHED.CTL.EN = 0 its tasks are dropped without a count, and tasks that it had before a debug
halt stay its first ones (DESIGN CHOICE, log entry 31). -/
def takeDue (e : Nat) (s : State) : State :=
  let s := payRun e (if rb s (Reg.shuDbg e) 8 then (shuSt s e).haltAt else s.time) s
  let g := engSt s e
  let new := g.next
  let used := min 8191 g.used
  let s := setf (Reg.engUsed e) 16 13 (max used (rf s (Reg.engUsed e) 16 13)) (setf (Reg.engUsed e) 0 13 used s)
  let s := modEng e (fun g => { g with used := 0, next := [] }) s
  let polled := fun d => decide (fld (descWord s d 0) 6 2 ≠ 2)
  let half := rf s Reg.shedTtsel 8 1
  let kept := g.due.filter fun d => decide (d / 4096 = half)
  let s := forEach (g.due.filter fun d => decide (d / 4096 ≠ half)) (fun _ s => skipTask e s) s
  if g.held || !rb s Reg.shedCtl 0 then modEng e (fun g => { g with due := [], carried := 0 }) s
  else if engHalted s e then
    let s := forEach (g.next.filter polled) (fun _ s => skipTask e s) s
    modEng e (fun g => { g with due := kept, carried := kept.length }) s
  else
    tasksDispatched new (modEng e (fun g => { g with
      due := kept ++ new, carried := kept.length, readyAt := max g.readyAt (s.time + 24) }) s)

/-- SHU[e].PWSIG at a pick start (R113), and picks in a row with a failed end check (R586). -/
def latchSig (e : Nat) (s : State) : State :=
  let u := shuSt s e
  let s := rset (Reg.shuPwsig e) u.pw s
  let fails := if u.failed then u.fails + 1 else 0
  let s := modShu e (fun u => { u with pw := 0, fails := fails, failed := false, ran := false }) s
  if 3 ≤ fails && !s.flt.oor.contains e && decide (e < 32) then { s with flt := { s.flt with oor := s.flt.oor ++ [e] } } else s

/-- The replays of the checkers in the pick that starts (R586, R587, R589, R591): rotation slots, empty ones counted, and
checks out of rotation. -/
def rotate (ran : List Nat) (p : Nat) (s : State) : State :=
  let ok := fun q => rb s Reg.gctlChksts (q - 32) && !rb s (Reg.engEsts q) 23
  if !rb s Reg.gctlCtl 0 then { s with flt := { s.flt with slots := [], arb := none, oor := [] } }
  else
    let busy := s.flt.arb.map fun a => if a.first = 32 then 33 else 32
    let two := ok 32 && ok 33
    let eng := fun q => if two then 16 * (q - 32) + p % 16 else p % 32
    let qs := ([32, 33].filter ok).filter fun q => busy != some q
    let home := fun e => if two then 32 + e / 16 else if ok 32 then 32 else 33
    let work := fun e => ran.contains e || (rf s (Reg.engEsts e) 0 3 == 5 && (ran.contains 32 || ran.contains 33))
    let s := countN Reg.gctlEmptyCnt (qs.filter fun q => !work (eng q)).length s
    let oor := if qs.isEmpty then [] else s.flt.oor.map fun e => (home e, e)
    { s with flt := { s.flt with slots := oor ++ (qs.filter fun q => work (eng q)).map (fun q => (q, eng q)), oor := [] } }

/-- A pick starts (R46, R50 to R52, R68). -/
def pickStartOp (s : State) : State :=
  let len := pickLenNow s
  let p := nextPickNo s
  let s := set64 Reg.shedPickTLo Reg.shedPickTHi s.time (set64 Reg.shedPicknoLo Reg.shedPicknoHi p s)
  let s := when_ (decide (len ≠ s.shed.len)) (raise 2760) s
  let s := modShed (fun x => { x with started := true, nextMin := s.time + 200, len := len, scanned := none }) s
  let ran := (upto 0 34).filter fun e => (shuSt s e).ran
  let s := forEach (upto 0 34) latchSig (joinLate s)
  let s := forEach (upto 0 34) overrunCheck s
  let s := forEach (upto 0 34) takeDue s
  let s := rotate ran (p - 1) s
  let c : Checkpoint := { pickno := p, pickT := s.time, due := s.eng.map fun x => (x.1, x.2.due)
                          carried := s.eng.map fun x => (x.1, x.2.carried)
                          ovrRun := (upto 0 34).map fun e => (e, rf s (Reg.engEsts e) 4 2)
                          scanPos := 4096 * s.shed.halfNext.getD (rf s Reg.shedTtsel 8 1) }
  raise 2752 (modShed (fun x => { x with snap := takeSnap s, ckpt := c }) s)

/-! ### Dispatch (R57, R58, R83, R84) -/

/-- The state in which a run begins at the descriptor's ENTRY (R83, R84). -/
def beginRun (d : Nat) (w1 w2 : Word) (regs : Tbl Word) (now : Nat) (rerun : Bool) : CtxSt :=
  { g := regs ++ [(14, wd (d % 4096)), (15, w2)], pc := fld w1 0 11
    task := some { desc := d, start := now, bank := d / 4096, budget := fld w1 16 13, rerun := rerun } }

/-- Engine e starts its next normal task now (R57, R83, R70). -/
def startTask (e : Nat) (s : State) : State :=
  match (engSt s e).due with
  | [] => s
  | d :: rest =>
    let w := fun k => tget 0 s.shed.table (4 * d + k)
    let s := modEng e (fun g => { g with due := rest, carried := g.carried - 1, newBank := none, busy := true }) s
    let s := setb (Reg.engEsts e) 11 (decide (d / 4096 = 1)) (setEsts e 1 s)
    let id := (shuSt s e).slotId
    modShu e (fun u => { u with
      nrm := { beginRun d (w 1) (w 2) [] s.time false with slots := storeSlots u.nrm.slots, liveT := u.nrm.liveT }
      issueAt := s.time, slotId := id, skipBrk := false, brkStop := false }) s

/-- The express request of engine e that starts next (R64): by PRIO, then by index. -/
def nextExpress (s : State) (e : Nat) : Option ExReq :=
  let mine := s.shed.exPend.filter fun x => fld (descWord s x.desc 0) 0 6 == e
  match taskOrder s (mine.map fun x => x.desc) with
  | [] => none
  | d :: _ => mine.find? fun x => x.desc == d

/-- ESTS.EXP_PEND follows the requests that wait (R80). -/
def expPendSts (e : Nat) (s : State) : State :=
  setb (Reg.engEsts e) 10 (s.shed.exPend.any fun x => fld (descWord s x.desc 0) 0 6 == e) s

/-- An express task starts on engine `w` (R63, R84, R109): the normal context stops at an instruction boundary, a division
in progress is abandoned, and the first express instruction may issue 8 lc later. Where the normal context has not resumed
after an earlier express run, its return is given up (R64). -/
def startExpress (w e : Nat) (x : ExReq) (s : State) : State :=
  let d := x.desc
  let s := modShed (fun h => { h with exPend := h.exPend.filter fun y => y.desc != d }) s
  let s := expPendSts e s
  let s := match (shuSt s w).divSave with
    | some (c, r, t) =>
      if s.time < t then modShu w (fun u => { u with divSave := none, nrm := { u.nrm with
        g := tset u.nrm.g r (gget c r), flags := c.flags, pc := c.pc, ready := c.ready, task := c.task } }) s
      else s
    | none => s
  let s := match (shuSt s w).back with
    | some b => modCtx w .normal (fun c => { c with task := c.task.map fun r => { r with lost := r.lost - (b - s.time) } }) s
    | none => s
  let at_ := s.time + 8
  let lat := min 255 (wd at_ - x.g2).toNat
  let s := setf (Reg.engExpLat e) 0 8 (max lat (rf s (Reg.engExpLat e) 0 8)) s
  let s := setb (Reg.engEsts w) 11 (decide (d / 4096 = 1)) (setb (Reg.shuDbg w) 9 true (setEsts w 2 s))
  modShu w (fun u => { u with
    skipBrk := false
    brkStop := false
    exp := { beginRun d (descWord s d 1) (descWord s d 2) [(1, x.g1), (2, x.g2)] at_ false with
      slots := storeSlots u.exp.slots }, issueAt := at_, back := none }) s

/-- Engine e may be given a task: the shed dispatches, and the engine is neither held, halted nor failed (R48, R61, R67, R69, R593). -/
def engOpen (s : State) (e : Nat) : Bool :=
  running s && rb s Reg.shedCtl 0 && !(engSt s e).held && !engHalted s e && !s.chg.swWait &&
    decide (rf s (Reg.engEsts e) 0 3 ≠ 5)

/-- The cycle in which the normal context of engine e reaches an instruction boundary (R63, R109). -/
def boundary (s : State) (e : Nat) : Nat :=
  match (shuSt s e).divSave with
  | some (_, _, t) => if s.time < t then s.time else max s.time (shuSt s e).issueAt
  | none => max s.time (shuSt s e).issueAt

/-- An express task may start on engine e: its express context is idle, and a request waits (R63, R64). -/
def mayExpress (s : State) (e : Nat) : Bool :=
  engOpen s e && (ctx s e .express).task.isNone && (nextExpress s (logicalEng s e)).isSome

/-- The next express task starts on engine e. -/
def expressStartOp (e : Nat) (s : State) : State :=
  match nextExpress s (logicalEng s e) with
  | some x => startExpress e (logicalEng s e) x s
  | none => s

/-- An express request for the tasks of engine e has come to its bound (R63, R64): its task starts, once the normal context
stands at an instruction boundary. -/
def expressDueOp (e : Nat) (s : State) : State :=
  match workEng s e with
  | none => s
  | some w =>
    if !mayExpress s w then s
    else if s.time < boundary s w then schedule (boundary s w) (.expressDue e) s
    else expressStartOp w s

/-- The normal context resumes after an express task (R63). -/
def resumeNormal (e : Nat) (s : State) : State :=
  let s := modShu e (fun u => { u with back := none, issueAt := max u.issueAt s.time }) s
  setEsts e (if (engSt s e).held then 3 else if (ctx s e .normal).task.isSome then 1 else 0) s

/-! ### Lockstep (R594) -/

/-- The shed copies diverge (R594): both restart from the checkpoint; tasks not dispatched are skipped and counted. -/
def lockstepRestart (s : State) : State :=
  let polled := fun d => decide (fld (descWord s d 0) 6 2 ≠ 2)
  let s := forEach (upto 0 34) (fun e s =>
    let s := forEach (((engSt s e).due ++ (engSt s e).next).filter polled) (fun _ s => skipTask e s) s
    modEng e (fun g => { g with due := [], next := [], carried := 0 }) s) s
  let s := forEach s.shed.ckpt.ovrRun (fun x s => setf (Reg.engEsts x.1) 4 2 x.2 s) s
  let len := pickLenNow s
  modShed (fun x => { x with scanned := none, resume := (s.time + 1 + 2 * len - 1) / len * len }) s

end Sys2Proof.Machine
end

