-- ==== Sys2Proof/Machine/Flt.lean ====
section
/-!
DEFINITION. Operations of fault containment (18_fault_containment.md): checker replays and arbitration (R587 to R589),
substitution (R590 to R593), lockstep (R594), output readback (R595), the fault policy (R597 to R600) and fault injection
(R602).
-/

namespace Sys2Proof.Machine

def modFlt (f : FltSt → FltSt) (s : State) : State := { s with flt := f s.flt }

/-- GCTL.CTL.CHECK_EN (R40). -/
def checkOn (s : State) : Bool := rb s Reg.gctlCtl 0

/-! ### The policy (R597 to R600) -/

/-- SEV of a fault class (R598). -/
def faultSev (c : Nat) : Nat := [3, 4, 3, 4, 3, 4, 3, 3, 3, 3, 3, 3, 3, 2].getD c 3

/-- FLT.POL[c].ACTION. -/
def polAction (s : State) (c : Nat) : Nat := rf s (Reg.gctlPol c) 0 2

/-- The policy acts on a detection (R597 to R599): the record, whose data are not stated but for DATA1[31] (log entry 1), and
the action. -/
def policyOne (d : Detection) (s : State) : State :=
  let s := setf Reg.gctlSts 8 4 d.cls s
  let x := freshWord s
  let s := logCause (0x1100 + d.cls) (faultSev d.cls) d.inst (wd x.1) (setBit (wd (x.1 / 2 ^ 32)) 31 d.inj) x.2
  match polAction s d.cls with
  | 0 => s
  | 1 => if d.hs.isEmpty then s else addHold d.hs false (200 + d.cls) s
  | 2 => addHold [] true (200 + d.cls) s
  | _ => modFlt (fun f => { f with resetAt := some (min (s.time + 1024) (f.resetAt.getD (s.time + 1024))) }) s

/-- The policy acts on the detections of this cycle, at most `k`, and on those that its own actions bring. -/
def policyDrain : Nat → State → State
  | 0, s => s
  | k + 1, s =>
    match s.flt.det with
    | [] => s
    | d :: ds => policyDrain k (policyOne d (modFlt (fun f => { f with det := ds }) s))

/-- A pending changeover in angle form ends with the loss of sync of its tracker (R478). -/
def lossAbort (s : State) : State :=
  if chgPending s && !rb s Reg.chgSwCtl 2 && trdLost s (rf s Reg.chgSwCtl 0 2) then chgAbortBack 2 s else s

/-- What a meaning leaves to the end of its cycle: the abort of a changeover, and the fault policy. -/
def settle (s : State) : State :=
  let s := lossAbort s
  policyDrain (s.flt.det.length + 256) s

/-- The intended level of pin n and its filtered level differ now, its driver on (R595). -/
def readbackDiffers (s : State) (n : Nat) : Bool :=
  match pinOut s n with
  | .z => false
  | .drv b => rb s (Reg.chSts n) 18 != b

/-- The cause of class c is present for a hold on harness `key`, or on the device for key 64 (R598). -/
def causePresent (s : State) (c key : Nat) : Bool :=
  let at_ := fun h => decide (key = 64 ∨ key = h)
  match c with
  | 1 | 3 | 5 => true
  | 8 => (upto 0 512).any fun n => at_ (n / 8) && readbackDiffers s n && rb s (Reg.reedSts (n / 2)) (5 + n % 2)
  | 9 => rb s Reg.pwrClksts 1
  | 10 => s.flt.dacBad.any fun x => (cmpHarnesses s x).any at_ || decide (key = 64)
  | 11 => rb s Reg.tackSts 4
  | 12 => (upto 0 6).any fun m => rb s Reg.pwrSupply m && (decide (key = 64) || (supplyHarnesses s m).contains key)
  | 13 => (upto 0 256).any fun k => at_ (k / 4) && !rb s (Reg.reedSts k) 16
  | _ => false

/-- A hold of class c on a key may be cleared (R600). -/
def polOk (s : State) (c key : Nat) : Bool := !rb s (Reg.gctlPol c) 4 && !causePresent s c key

/-- FLT.POL[c] as it reads: HELD (R605). -/
def polView (s : State) (c : Nat) : Word :=
  setBit (rget s (Reg.gctlPol c)) 8 (s.pwr.holds.any fun x => x.2 == 200 + c)

/-- A write of FLT.POL[c] carries a reserved encoding (R605). -/
def polReserved (c : Nat) (v : Word) : Bool := decide (14 ≤ c) && (decide (fld v 0 2 ≠ 0) || bit v 4)

/-! ### Checkers (R587 to R593) -/

/-- SHU[q] checks: CHK32_OK or CHK33_OK, and it substitutes for no engine. -/
def checks (s : State) (q : Nat) : Bool := rb s Reg.gctlChksts (q - 32) && !rb s (Reg.engEsts q) 23

/-- The engine that does the work of engine e: its substitute after a failure (R591). -/
def worker (s : State) (e : Nat) : Nat :=
  if rf s (Reg.engEsts e) 0 3 ≠ 5 then e
  else if rb s (Reg.engEsts 32) 23 && rf s (Reg.engEsts 32) 16 6 == e then 32
  else 33

/-- The write signature that a replay of engine e is compared with (R588, R591). -/
def sigOf (s : State) (e : Nat) : Word := rget s (Reg.shuPwsig (worker s e))

/-- The signatures of engine e are wrong by injection (R602). -/
def sigInjected (s : State) (e : Nat) : Bool := s.flt.injW.contains (worker s e)

/-- The mismatch of engine e is unresolved (R589). -/
def unresolved (e : Nat) (s : State) : State :=
  let hs := serves s e
  detect 5 e (if hs.isEmpty then upto 0 64 else hs) (sigInjected s e) (setb Reg.gctlSts 3 true s)

/-- The second checker for an arbitration after checker q found a mismatch, if one checks. -/
def otherChecker (s : State) (q : Nat) : Option Nat := if checks s (65 - q) then some (65 - q) else none

/-- Checker q ends the replay of engine e (R588, R589). -/
def replayEndOp (q e : Nat) (w : Word) (endOk : Bool) (s : State) : State :=
  let s := modFlt (fun f => { f with slots := f.slots.filter fun x => x != (q, e) }) (count Reg.gctlChkCnt s)
  if endOk && w == sigOf s e then s
  else
    let s := count Reg.gctlMismCnt s
    match otherChecker s q, s.flt.arb with
    | some _, none => modFlt (fun f => { f with
        arb := some { eng := e, first := q, w := w, ok := endOk, sig := sigOf s e, pick := pickNo s } }) s
    | _, _ => unresolved e s

/-- A task of engine e is lost with the engine (R590, R593): TRIG 0 and TRIG 1 tasks are counted, event tasks keep their
pending bit. -/
def loseTask (e d : Nat) (s : State) : State :=
  if fld (descWord s d 0) 6 2 = 2 then s else skipTask e s

/-- Engine e has failed and checker q substitutes (R590, R592, R593). -/
def substitute (q e : Nat) (s : State) : State :=
  let s := forEach ((engSt s e).due ++ (engSt s e).next) (loseTask e) s
  let s := modEng e (fun g => { g with due := [], next := [], carried := 0 }) (abandonTask e s)
  let s := expressEndAt e s.time s
  let mine := s.shed.exPend.filter fun x => fld (descWord s x.desc 0) 0 6 == e
  let s := forEach mine (fun _ s => skipTask e s) s
  let s := modShed (fun h => { h with exPend := h.exPend.filter fun x => fld (descWord s x.desc 0) 0 6 != e }) s
  let s := setEsts e 5 (expPendSts e s)
  let s := setf (Reg.engEsts q) 16 6 e (setb (Reg.engEsts q) 23 true s)
  let s := setb Reg.gctlChksts 15 true (setb Reg.gctlChksts 14 true (setf Reg.gctlChksts 8 6 e s))
  let s := setb Reg.gctlState 9 true (setb Reg.gctlSts 1 true (count Reg.gctlSubstCnt s))
  let half := rf s Reg.shedTtsel 8 1
  let banks := if stageState s = 3 ∨ stageState s = 4 then [half, 1 - half] else [half]
  detect 4 e [] (sigInjected s e) (modFlt (fun f => { f with copying := true, copies := banks }) s)

/-- Checker q has failed and stops checking (R589). -/
def checkerFails (q : Nat) (s : State) : State :=
  detect 6 q [] false (setb Reg.gctlSts 2 true (setb Reg.gctlChksts (q - 32) false s))

/-- The second checker's replay decides (R589). -/
def arbitrate (a : Arb) (w : Word) (endOk : Bool) (s : State) : State :=
  let s := modFlt (fun f => { f with arb := none }) s
  if w = a.w ∧ endOk = a.ok then substitute a.first a.eng s
  else if w = a.sig ∧ endOk then checkerFails a.first s
  else unresolved a.eng s

/-- A bank of code RAM of engine e is copied into that of engine q (R590). -/
def copyCode (e q bank : Nat) (s : State) : State :=
  let lo := codeKey e bank 0
  let dst := codeKey q bank 0
  let mine := fun k : Nat => decide (lo ≤ k ∧ k < lo + 2048)
  let other := fun k : Nat => !decide (dst ≤ k ∧ k < dst + 2048)
  let words := (s.code.filter fun x => mine x.1).map fun x => (dst + (x.1 - lo), x.2)
  { s with
    code := words.foldl (fun t x => tset t x.1 x.2) (s.code.filter fun x => other x.1)
    codeBad := s.codeBad.filter other ++ (s.codeBad.filter mine).map fun k => dst + (k - lo) }

/-- The copy of the bank in force is complete, or that of the idle bank after it (R590, R592). -/
def substituteLoadedOp (q : Nat) (s : State) : State :=
  match s.flt.copies with
  | [] => s
  | b :: bs =>
    let s := modFlt (fun f => { f with copying := false, copies := bs }) (copyCode (rf s (Reg.engEsts q) 16 6) q b s)
    setb Reg.gctlChksts 15 (!bs.isEmpty) s

/-! ### Lockstep and readback (R594, R595) -/

/-- The shed copies diverge (R594): class 2, or class 3 within 1,024 picks of the last time. -/
def lockstepOp (inj : Bool) (s : State) : State :=
  let again := match s.shed.lsPick with | some p => decide (pickNo s ≤ p + 1024) | none => false
  let s := setb Reg.gctlSts 0 true (count Reg.gctlLsCnt (lockstepRestart s))
  let s := modShed (fun x => { x with lsPick := some (pickNo s) }) s
  if again then detect 3 0 (upto 0 64) inj s else detect 2 0 [] inj s

/-- A mismatch of pin n has lasted RB_MIN lc (R595): it is declared at the next pick start. -/
def readbackNote (n : Nat) (s : State) : State :=
  if s.flt.rbPins.contains n then s else modFlt (fun f => { f with rbPins := f.rbPins ++ [n] }) s

/-- The mismatches noted are declared at a pick start (R595). -/
def readbackDeclare (s : State) : State :=
  let ns := s.flt.rbPins
  let s := modFlt (fun f => { f with rbPins := [] }) s
  forEach ns (fun n s =>
    let s := setb Reg.gctlSts 4 true (count Reg.gctlRbCnt (setb (Reg.reedSts (n / 2)) (5 + n % 2) true s))
    detect 8 n [n / 8] (s.flt.injPin.contains n) s) s

/-! ### Injection (R602) -/

/-- KIND and INJ_ARG of an injection are not reserved (R602). -/
def injValid (kind arg : Nat) : Bool :=
  match kind with
  | 0 | 3 | 8 => decide (arg = 0)
  | 1 | 2 => decide (arg % 8 = 0 ∧ 0x1000000 ≤ arg ∧ arg < 0x1C00000)
  | 4 | 5 => decide (arg < 32)
  | 6 => decide (arg < 131072)
  | 7 => decide (arg < 512)
  | 9 => decide (arg < 64)
  | _ => false

/-- The sensed level of pin n changes over (R602). -/
def flipSensed (n : Nat) (s : State) : State := pinTransitionOp n (!padLevel s n) (nowInst s) s

/-- Stored bits of a word are inverted (R602). -/
def flipBits (w mask : Nat) (s : State) : State := setMark w (eccMark s w ^^^ mask) s

/-- One fault is injected (R602, R603). -/
def injectOp (kind arg : Nat) (s : State) : State :=
  let s := setb Reg.gctlSts 5 true s
  match kind with
  | 0 => modFlt (fun f => { f with injW := [], injPin := [] }) (forEach s.flt.injPin flipSensed s)
  | 1 => flipBits (wordOf arg) 1 s
  | 2 => flipBits (wordOf arg) 3 s
  | 3 => if checkOn s then lockstepOp true s else s
  | 4 => modFlt (fun f => { f with injRes := some arg }) s
  | 5 => modFlt (fun f => { f with injW := f.injW.filter (· != arg) ++ [arg] }) s
  | 6 => flipBits (wordOf (cardAddr arg)) 4 s
  | 7 => if s.flt.injPin.contains arg then s
         else flipSensed arg (modFlt (fun f => { f with injPin := f.injPin ++ [arg] }) s)
  | 8 => refLost true (modFlt (fun f => { f with injRef := true }) s)
  | _ => modFlt (fun f => { f with injDac := some arg }) s

/-- FLT.STS.CNT_CLR (R605). -/
def fltCntClrOp : State → State :=
  clrAll [Reg.gctlLsCnt, Reg.gctlChkCnt, Reg.gctlMismCnt, Reg.gctlEmptyCnt, Reg.gctlSubstCnt, Reg.gctlRbCnt]

end Sys2Proof.Machine
end

