-- ==== Sys2Proof/Machine/Sel.lean ====
section
/-!
DEFINITION. Operations of the Selvedge link (15_selvedge_link.md): ports and delays (R493, R494), trains (R495 to R499),
ring states (R500), alignment (R501 to R503), beacons (R505, R267), line events (R506), versions and classes (R507,
R508), line-wide changeover (R509 to R512) and train faults (R514).
-/

namespace Sys2Proof.Machine

def modSel (f : SelSt → SelSt) (s : State) : State := { s with sel := f s.sel }

/-! ### Registers (R517, R518) -/

def selOn (s : State) : Bool := rb s Reg.selCtl 0
def selRoot (s : State) : Bool := rb s Reg.selCtl 1
def selNode (s : State) : Nat := rf s Reg.selCtl 8 6
def selSlots (s : State) : Nat := 2 ^ rf s Reg.selCtl 16 2
def selVmax (s : State) : Nat := rf s Reg.selCtl 20 4
def selRper (s : State) : Nat := max 1 (rf s Reg.selRper 0 13)
def selNeg (s : State) : Nat := rf s Reg.selSts 12 4
def aligned (s : State) : Bool := rb s Reg.selSts 10
def classErr (s : State) : Bool := rb s Reg.selSts 16
def ringState (s : State) : Nat := rf s Reg.selSts 8 2
def dlyDn (s : State) : Nat := rn s Reg.selDlyDn

/-- Field of STS that holds the link state of a port: UPL or DNL (R493). -/
def portLo : Port → Nat
  | .up => 0
  | .dn => 4

def portState (s : State) (q : Port) : Nat := rf s Reg.selSts (portLo q) 3
def setPort (q : Port) (x : Nat) : State → State := setf Reg.selSts (portLo q) 3 x

/-- Since when a port has been in its link state (R493). -/
def portAt (s : State) : Port → Nat
  | .up => s.sel.upAt
  | .dn => s.sel.dnAt

/-- A port enters a link state (R493). -/
def enterPort (q : Port) (x : Nat) (s : State) : State :=
  modSel (fun y => match q with | .up => { y with upAt := s.time } | .dn => { y with dnAt := s.time }) (setPort q x s)

/-- An RPER that R495 allows with the slots in force. -/
def rperValid (s : State) (r : Nat) : Bool :=
  decide (r % 8 = 0 ∧ 8 * (38 + 12 * selSlots s) ≤ r ∧ r ≤ 6400)

/-- A quotient rounded to the nearest whole number, halves up. -/
def roundDiv (x : Int) (n : Nat) : Int := (2 * x + n) / (2 * (n : Int))

/-! ### Ring and port states (R493, R500) -/

/-- RSTATE changes: sources 2,832 and 2,833. -/
def setRing (x : Nat) (s : State) : State :=
  let was := ringState s
  let s := setf Reg.selSts 8 2 x s
  if was ≠ 2 ∧ x = 2 then raise 2832 s else if was = 2 ∧ x ≠ 2 then raise 2833 s else s

/-- TSTATE changes: sources 2,839 and 2,840 (R503). -/
def setAligned (b : Bool) (s : State) : State :=
  if aligned s == b then s
  else if b then raise 2839 (setb Reg.selSts 10 true s)
  else raise 2840 (setb Reg.selSts 25 true (setb Reg.selSts 10 false s))

/-- A port is not UP: the ring of R500 is broken; a root's ring that has not closed goes on forming. -/
def ringBreak (s : State) : State :=
  let s := modSel (fun x => { x with retGood := 0 }) s
  if selRoot s && decide (ringState s ≠ 2) then s else setRing 3 s

/-- A port goes DOWN (R493). -/
def portDownOp (q : Port) (s : State) : State :=
  let was := portState s q
  let s := when_ (decide (2 ≤ was)) (count Reg.selLinkdnCnt) (enterPort q 1 s)
  let s := raise (match q with | .up => 2836 | .dn => 2837) s
  let s := modSel (fun x => match q with | .up => { x with answers := 0, viols := [] } | .dn => { x with echoReq := none, echoes := [], echoAt := none }) s
  when_ (decide (was = 4)) ringBreak s

/-- SEL.CTL.EN is written 1 (R493, R500). -/
def selEnable (s : State) : State :=
  modSel (fun x => { hold := x.hold, skip := x.skip, skipLo := x.skipLo, lastAt := s.time, upAt := s.time, dnAt := s.time }) <|
    schedule (s.time + 64 * selRper s) .ringTimeout (setRing 1 (setPort .up 1 (setPort .dn 1 s)))

/-- SEL.CTL.EN is written 0 (R493, R500): ports and ring OFF. -/
def selDisable (s : State) : State :=
  let s := setAligned false (setRing 0 (setPort .up 0 (setPort .dn 0 s)))
  modSel (fun x => { hold := x.hold, skip := x.skip, skipLo := x.skipLo }) s

/-- The link runs (R515). -/
def selRuns (s : State) : Bool := running s && selOn s

/-- Device time at which LOCK has held for 256 symbols of 8 lc (R493). -/
def measureAt (s : State) (q : Port) : Nat := portAt s q + 2048

/-- LOCK has held for 256 symbols: the port measures (R493). -/
def portMeasureDue (q : Port) (s : State) : State :=
  when_ (selRuns s && decide (portState s q = 2) && decide (measureAt s q ≤ s.time)) (enterPort q 3) s

/-- A port has met 8 aligned commas (R493): LOCK, and MEASURE once it has held. -/
def portLockOp (q : Port) (s : State) : State := schedule (s.time + 2048) (.portMeasure q) (enterPort q 2 s)

/-- An echo reply (R494): one value of d, and DLY_DN. Beyond 400 lc the port does not go UP. -/
def echoReplyOp (instant turn : Nat) (s : State) : State :=
  match s.sel.echoReq with
  | none => s
  | some t =>
    let es := (((instant : Int) - t - turn) :: s.sel.echoes).take 16
    let dly := (roundDiv (es.foldl (· + ·) 0) (2 * es.length)).toNat
    let s := rset Reg.selDlyDn (wd dly) (modSel (fun x => { x with echoReq := none, echoes := es }) s)
    when_ (decide (es.length = 16 ∧ 12800 < dly ∧ portState s .dn = 3)) (setb Reg.selSts 26 true) s

/-- A port may become UP (R493). -/
def portReady (s : State) (q : Port) : Bool :=
  match q with
  | .up => decide (16 ≤ s.sel.answers)
  | .dn => decide (s.sel.echoes.length = 16 ∧ dlyDn s ≤ 12800)

/-! ### Trains (R495 to R498) -/

/-- A beacon slot (R497). -/
structure Beacon where
  mstate : Nat := 0
  back   : Bool := false
  cycle  : Nat := 0
  phase  : Nat := 0
  rate   : Nat := 0
  deriving DecidableEq, Repr

def Beacon.bytes (b : Beacon) : List Byte :=
  leBytes 1 (b.mstate + 8 * b2n b.back) ++ leBytes 4 b.cycle ++ leBytes 3 b.phase ++ leBytes 4 b.rate

/-- The fields of a train (R496, R498), CRC apart. -/
structure Train where
  node   : Nat := 0
  ringUp : Bool := false
  hops   : Nat := 0
  neg    : Nat := 1
  minv   : Nat := 1
  levt   : Nat := 0
  leva   : Nat := 0
  cc     : Nat := 0
  t      : Nat := 0
  acc    : Nat := 0
  ahead  : Nat := 0
  op     : Nat := 0
  form   : Bool := false
  trk    : Nat := 0
  id     : Nat := 0
  tgt    : Nat := 0
  swA    : Nat := 0
  swB    : Nat := 0
  agg    : Nat := 0
  slots  : List Beacon := []
  deriving DecidableEq, Repr

/-- The CRC of R496 over bytes, most significant bit of a byte first. -/
def crc16 (bs : List Byte) : Nat :=
  serCrc 16 0x1021 0xFFFF (bs.flatMap fun b => (upto 0 8).map fun i => b.getLsbD (7 - i))

/-- The data symbols of a train (R496). -/
def Train.bytes (x : Train) : List Byte :=
  let b :=
    leBytes 1 (x.node + 64 * b2n x.ringUp) ++ leBytes 1 x.hops ++ leBytes 1 (x.neg + 16 * x.minv) ++
    leBytes 1 x.levt ++ leBytes 1 x.leva ++ leBytes 2 x.cc ++ leBytes 8 x.t ++ leBytes 3 x.acc ++
    leBytes 3 (min x.ahead 0xFFFFFF) ++ leBytes 1 (x.op + 8 * b2n x.form + 16 * x.trk) ++ leBytes 1 x.id ++ leBytes 2 x.tgt ++
    leBytes 4 x.swA ++ leBytes 3 x.swB ++ leBytes 1 x.agg ++ x.slots.flatMap Beacon.bytes
  b ++ leBytes 2 (crc16 b)

/-- A number of `n` bytes at an offset. -/
def at_ (bs : List Byte) (off n : Nat) : Nat := leNat ((bs.drop off).take n)

/-- The beacon slot at an offset. -/
def Beacon.ofBytes (bs : List Byte) (o : Nat) : Beacon :=
  { mstate := at_ bs o 1 % 8, back := (at_ bs o 1).testBit 3, cycle := at_ bs (o + 1) 4, phase := at_ bs (o + 5) 3,
    rate := at_ bs (o + 8) 4 }

/-- The fields of a train of S slots (R496). -/
def Train.ofBytes (slots : Nat) (bs : List Byte) : Train :=
  { node := at_ bs 0 1 % 64, ringUp := (at_ bs 0 1).testBit 6, hops := at_ bs 1 1 % 64, neg := at_ bs 2 1 % 16
    minv := at_ bs 2 1 / 16, levt := at_ bs 3 1, leva := at_ bs 4 1, cc := at_ bs 5 2, t := at_ bs 7 8
    acc := at_ bs 0x0F 3, ahead := at_ bs 0x12 3, op := at_ bs 0x15 1 % 8, form := (at_ bs 0x15 1).testBit 3
    trk := at_ bs 0x15 1 / 16 % 4, id := at_ bs 0x16 1, tgt := at_ bs 0x17 2, swA := at_ bs 0x19 4, swB := at_ bs 0x1D 3
    agg := at_ bs 0x20 1 % 4, slots := (upto 0 slots).map fun i => Beacon.ofBytes bs (0x21 + 12 * i) }

/-- The fault of a train (R514, R495): 0 code violation, 1 CRC, 2 poisoned, 3 protocol. -/
def trainFault (s : State) (bs : List Byte) (link : TrainLink) : Option Nat :=
  match link with
  | .codeViolation => some 0
  | .poisoned => some 2
  | .clean =>
    let x := Train.ofBytes (selSlots s) bs
    let n := 33 + 12 * selSlots s
    let spacing := match s.sel.lastT with
      | some t => !selRoot s && (decide (x.t ≤ t) || decide ((x.t - t) % selRper s ≠ 0))
      | none => false
    if bs.length ≠ n + 2 then some 3
    else if crc16 (bs.take n) ≠ at_ bs n 2 then some 1
    else if x.hops = 63 ∨ 3 < x.op ∨ selVmax s < x.neg || (x.slots.any fun b => decide (4 < b.mstate)) || spacing then some 3
    else none

/-- A train fault is counted, flagged, raised and logged (R514). -/
def faultCount (port kind : Nat) (s : State) : State :=
  let r := match kind with
    | 0 => Reg.selCvCnt
    | 1 => Reg.selCrcCnt
    | 2 => Reg.selPoisonCnt
    | _ => Reg.selProtCnt
  let s := when_ (decide (kind = 3)) (setb Reg.selSts 26 true) (count r s)
  logLimited 0x0D01 2 port (wd kind) (rget s r) (flagRaise Reg.selSts 24 2838 s)

/-- A train with a code violation is one of the violations of R493: the fourth within 256 symbols takes the UP port DOWN. -/
def noteViolation (kind : Nat) (s : State) : State :=
  if kind ≠ 0 then s
  else
    let s := modSel (fun x => { x with viols := s.time :: x.viols.filter fun t => decide (s.time < t + 2048) }) s
    when_ (decide (4 ≤ s.sel.viols.length)) (portDownOp .up) s

/-- A train fault at the UP port (R514, R493). -/
def trainFaulty (kind : Nat) (s : State) : State := noteViolation kind (faultCount 0 kind s)

/-! ### Alignment (R501 to R503) -/

/-- E_avg: the mean of E over the last 8 valid trains (R501), in fine steps. -/
def eAvg (s : State) : Int :=
  if s.sel.es.isEmpty then 0 else roundDiv (s.sel.es.foldl (· + ·) 0) s.sel.es.length

/-- A member's own lead in lc (R503). -/
def ownLead (s : State) : Nat := (roundDiv (eAvg s) 32).toNat

/-- A valid train's E enters the mean; TSTATE follows (R501, R503). -/
def alignTrain (e : Int) (s : State) : State :=
  let s := modSel (fun x => { x with es := (e :: x.es).take 8 }) s
  let s := rset Reg.selOfs (wd (ofSigned 32 (eAvg s))) s
  let s := modSel (fun x => { x with
    near := if (eAvg s).natAbs ≤ 32 then x.near + 1 else 0, far := if 256 < e.natAbs then x.far + 1 else 0 }) s
  if 4 ≤ s.sel.far then setAligned false s
  else if 16 ≤ s.sel.near then setAligned true s
  else s

/-- Device time steps forward by `n` lc with this pick start (R503, R46): the re-origin rule. -/
def stepTime (n : Nat) (s : State) : State :=
  let s := modSel (fun x => { x with skip := n, es := [], near := 0, far := 0 }) s
  raise 2846 (count Reg.selStepCnt (modShed (fun x => { x with nextMin := s.time + n + 200 }) s))

/-- The correction that this pick start applies (R502, R503, R72). -/
def alignPick (s : State) : State :=
  if !selRuns s then s
  else if selRoot s then
    if s.sel.step = 0 then s
    else
      let n := s.sel.step
      let s := modSel (fun x => { x with step := 0 }) s
      when_ (idleOrMaint s) (fun s => stepTime n (modSel (fun x => { x with since := 0 }) s)) s
  else if s.sel.es.isEmpty then s
  else if !aligned s && decide (eAvg s < -128) && idleOrMaint s then stepTime (roundDiv (-eAvg s) 32).toNat s
  else
    let c := max (-4) (min 4 (roundDiv (eAvg s) 32))
    if c = 0 then s
    else
      let s := raise 2761 (count Reg.shedAlignCnt s)
      modSel (fun x => if 0 < c then { x with hold := c.toNat } else { x with skip := (-c).toNat }) s

/-! ### Beacons (R505, R267) -/

/-- The beacon of stream i that the root latches now (R505, R507). -/
def latchBeacon (s : State) (neg i : Nat) : Beacon :=
  let t := rf s Reg.selBsrc (4 * i) 2
  let st := trdState s t
  if !rb s Reg.selBsrc (4 * i + 3) || st < 3 then {}
  else
    let p := phi s t s.time
    let m := match st with | 3 => 1 | 4 => if neg = 2 then 2 else 1 | 5 => 3 | _ => 4
    { mstate := m, back := rb s (Reg.trdSts t) 6, cycle := (posCycle p).toNat, phase := (posPhase p).toNat
      rate := rn s (Reg.trdRate t) }

/-- The position of a beacon nearest to a position, in pu. -/
def beaconPos (s : State) (t : Nat) (b : Beacon) : Int :=
  let now := phi s t s.time / 2 ^ 16
  now + signed56 ((b.cycle : Int) * 2 ^ 24 + (b.phase : Nat) - now)

/-- The stretch that a beacon at device time T anchors (R267); the position holds with a stalled master (R254). -/
def beaconSeg (s : State) (b : Beacon) (T : Nat) (p : Int) : Seg :=
  if b.mstate = 3 then { moving := true, t := 32 * T, a := p * 2 ^ 16, cap := p * 2 ^ 16 }
  else { moving := true, t := 32 * T, a := p * 2 ^ 16, rate := b.rate, cap := p * 2 ^ 16 + (2 * pickLen s * b.rate / 2 ^ 8 : Nat) }

/-- A valid beacon is accepted as a tooth of tracker t (R267, R273); `forced` for the first after a stall, whose interval measures
nothing (R264, R268), while position and rate are those that it carries (log entry 21). -/
def beaconTooth (t T : Nat) (b : Beacon) (p : Int) (forced : Bool) (s : State) : State :=
  let tp := match (trdSt s t).prev with | some q => T - q.t / 32 | none => 0
  let s := anchorAt t (beaconSeg s b T p) forced s
  let s := modTrd t (fun x => { x with
    prev := some { t := 32 * T, T := if forced then none else some (32 * tp), rate := b.rate }, a := p }) s
  let s := if forced then setb (Reg.trdSts t) 5 true s else setb (Reg.trdSts t) 5 false (setNum (Reg.trdTper t) tp s)
  primaryRecord t (if forced then 4 else 0) 0 (32 * T) (slumberCycle t (publishTooth t 0 (32 * T) 1 s))

/-- Sync is gained from a beacon (R255, R256, R267): the position is the beacon's, which is then accepted as the first tooth. -/
def beaconGain (t : Nat) (b : Beacon) (s : State) : State :=
  let p : Int := (b.cycle : Int) * 2 ^ 24 + (b.phase : Nat)
  let s := modTrd t (fun x => { x with
    synced := true, seen := b.cycle, scr := {}, pmax := none
    segs := { since := s.time, base := p * 2 ^ 16 } :: x.segs.take 8 }) s
  trdRaise t 3 (setf (Reg.trdTpos t) 16 16 0 (setTrdState t 3 (setb (Reg.trdSts t) 5 false s)))

/-- A tracker that knows its position follows the state of its master (R267, R254, R261). -/
def beaconKnown (t T : Nat) (b : Beacon) (s : State) : State :=
  let st := trdState s t
  let p := beaconPos s t b
  let back := b.back || decide (b.mstate = 4)
  if back then
    let s := if st = 6 then s else beginReverse t s
    if trdState s t = 6 then primaryRecord t 0 0 (32 * T) (followDown t (32 * T) 0 p s) else s
  else if b.mstate = 3 then
    let s := beaconTooth t T b p false (if st = 6 then forwardAgain t s else s)
    if trdState s t = 5 then s else stallHere t s
  else
    let s := dropPmax t s
    let s := if st = 6 then forwardAgain t s else when_ (decide (st = 5)) (trdRaise t 8) s
    let s :=
      if b.mstate = 2 then (if st = 4 then s else limpEntry t s)
      else if st = 4 then trdRaise t 6 (setTrdState t 3 s)
      else if st = 5 then setTrdState t 3 s
      else s
    beaconTooth t T b p (decide (st = 5)) s

/-- Tracker t meets a beacon (R505, R267, R255, R254). -/
def beaconOp (t T : Nat) (b : Beacon) (s : State) : State :=
  match trdState s t with
  | 0 => s
  | 1 =>
    if b.mstate = 1 then
      setTrdState t 2 (modTrd t (fun x => { x with
        bcnSeen := true, prev := some { t := 32 * T }, lastPri := some (32 * T), scr := { hypo := true } }) s)
    else s
  | 2 =>
    if b.mstate = 0 then setTrdState t 1 (modTrd t (fun x => { x with scr := {}, prev := none }) s)
    else
      let s := modTrd t (fun x => { x with bcnSeen := true, scr := { x.scr with conf := x.scr.conf + 1 } }) s
      if (trdSt s t).scr.conf < rf s (Reg.trdConfirm t) 0 10 then
        modTrd t (fun x => { x with prev := some { t := 32 * T }, lastPri := some (32 * T) }) s
      else
        armWaiting t (beaconKnown t T b (beaconGain t b s))
  | _ =>
    if b.mstate = 0 then lose t 7 s
    else beaconKnown t T b (modTrd t (fun x => { x with bcnSeen := true }) s)

/-- The beacons of a train anchor the trackers that follow their streams (R505). -/
def takeBeacons (T : Nat) (bs : List Beacon) (s : State) : State :=
  if !aligned s || classErr s then s
  else forEach (upto 0 4) (fun t s =>
    if trdSrc s t ≠ 2 then s
    else match bs[rf s (Reg.trdBcn t) 0 2]? with
      | some b => beaconOp t T b s
      | none => s) s

/-- Picks without a valid beacon are counted at a pick start (R267), and RATE is published (R259). -/
def trackPick (s : State) : State :=
  forEach (upto 0 4) (fun t s =>
    let s := when_ (decide (3 ≤ trdState s t)) (publishRate t) s
    when_ (decide (2 ≤ trdState s t ∧ trdSrc s t = 2))
      (modTrd t (fun x => { x with bcnMiss := if x.bcnSeen then 0 else x.bcnMiss + 1, bcnSeen := false })) s) s

/-! ### Line events, versions and classes (R506 to R508) -/

/-- LEV_IN takes a value; each change of a bit is raised (R506). -/
def setLevIn (v : Nat) (s : State) : State :=
  let was := rf s Reg.selLevIn 0 8
  let s := rset Reg.selLevIn (wd (v % 256)) s
  forEach (upto 0 8) (fun i s =>
    if was.testBit i == v.testBit i then s else raise (if v.testBit i then 2816 + i else 2824 + i) s) s

/-- NEG changes (R507). -/
def setNeg (v : Nat) (s : State) : State :=
  if selNeg s = v then s else raise 2841 (setf Reg.selSts 12 4 v s)

/-- The class check of a member (R508). -/
def classTrain (cc : Nat) (s : State) : State :=
  let same := decide (rf s Reg.chgActCc 0 16 = cc)
  let s := modSel (fun x => { x with ccBad := if same then 0 else x.ccBad + 1, ccGood := if same then x.ccGood + 1 else 0 }) s
  if 16 ≤ s.sel.ccBad && !classErr s then raise 2842 (setb Reg.selSts 16 true s)
  else if 16 ≤ s.sel.ccGood then setb Reg.selSts 16 false s
  else s

/-! ### Line-wide changeover (R509 to R512) -/

/-- LCO.STATE: 0 none, 1 announced, 2 ready, 3 GO, 4 aborted. -/
def lcoState (s : State) : Nat := rf s Reg.selLco 0 3
def setLco (x : Nat) : State → State := setf Reg.selLco 0 3 x

/-- The conditions of R510 apart from the class. -/
def lineReady (s : State) (form : Bool) (trk : Nat) : Bool :=
  let m := mode s
  decide (stageState s = 3) && decide (3 ≤ m ∧ m ≤ 6) && (aligned s || selRoot s) &&
    (form || decide (trdState s trk = 3 ∨ trdState s trk = 4))

/-- A device in CHANGEOVER for the announcement stays ready (R510). -/
def lineHolds (s : State) (form : Bool) (trk : Nat) : Bool :=
  s.sel.line && chgPending s && decide (lcoState s = 2 ∨ lcoState s = 3) && (aligned s || selRoot s) &&
    (form || decide (trdState s trk = 3 ∨ trdState s trk = 4))

/-- The device time that a time stamp of 56 bits names (R207). -/
def nearTime (s : State) (x : Nat) : Nat := ((s.time : Int) + signed56 ((x : Int) - s.time)).toNat

/-- The device is ready for the first time, or stops being ready (R510): the AGG bits that it sets. -/
def lineAnnounce (form : Bool) (trk tgt a b : Nat) (s : State) : Nat × State :=
  let s := if s.sel.line && !lineHolds s form trk then
      let s := when_ (chgPending s) (chgAbortBack 4) s
      setLco 1 (modSel (fun x => { x with line := false }) s)
    else s
  if s.sel.line then (0, s)
  else if !lineReady s form trk then (1, s)
  else if rf s Reg.chgNewCc 0 16 ≠ tgt then (2, s)
  else
    let t := nearTime s (a + 2 ^ 32 * b)
    let s := if form then enterChangeover true 0 (t % 2 ^ 32) (t / 2 ^ 32) s else enterChangeover false trk a b s
    (0, setLco 2 (modSel (fun x => { x with line := true }) s))

/-- The line changeover aborts here with a reason (R512). -/
def lineAbort (reason : Nat) (s : State) : State :=
  if lcoState s = 0 ∨ lcoState s = 4 then s
  else
    let s := when_ (s.sel.line && chgPending s) (chgAbortBack 4) s
    let s := setf Reg.selLco 4 4 reason (setLco 4 (modSel (fun x => { x with line := false }) s))
    logCause 0x0D02 2 0 (rget s Reg.selLco) 0 (raise 2845 (count Reg.selLcoAbortCnt s))

/-- The reason that the AGG bits of a train give (R512). -/
def aggReason (agg : Nat) : Nat := if agg.testBit 1 then 2 else if agg.testBit 0 then 1 else 4

/-- A member takes the CHG field of a train: the AGG bits that it adds when it forwards it (R510, R512). -/
def lineTrain (x : Train) (s : State) : Nat × State :=
  match x.op with
  | 1 =>
    let new := decide (lcoState s = 0 ∨ lcoState s = 4 ∨ rf s Reg.selLco 8 8 ≠ x.id)
    let s := if new then
        raise 2843 (setLco 1 (setf Reg.selLco 4 4 0 (setf Reg.selLco 8 8 x.id
          (modSel (fun y => { y with line := false }) s))))
      else s
    lineAnnounce x.form x.trk x.tgt x.swA x.swB s
  | 2 =>
    let known := decide (rf s Reg.selLco 8 8 = x.id) && decide (lcoState s ≠ 0)
    (0, if known && decide (3 ≤ lcoState s) then s
      else raise 2844 (setLco 3 (when_ (!known) (fun s => setf Reg.selLco 4 4 0 (setf Reg.selLco 8 8 x.id s)) s)))
  | 3 => (0, if rf s Reg.selLco 8 8 = x.id then lineAbort (aggReason x.agg) s else s)
  | _ => (0, if lcoState s = 1 then setLco 0 s else s)

/-- LINE_CHANGEOVER is accepted at the root (R509): the announcement begins, and the root is ready or not. -/
def lineStart (form : Bool) (trk a b : Nat) (s : State) : State :=
  let tgt := rf s Reg.chgNewCc 0 16
  let s := modSel (fun x => { x with
    ann := { op := 1, form := form, trk := trk, tgt := tgt, swA := a, swB := b % 2 ^ 24 }, line := false }) s
  let s := setLco 1 (setf Reg.selLco 4 4 0 (setf Reg.selLco 8 8 ((rf s Reg.selLco 8 8 + 1) % 256) s))
  (lineAnnounce form trk tgt a (b % 2 ^ 24) s).2

/-- The deadline of R511 as a position of the root's tracker in 2^-16 pu, or a device time. -/
def deadlinePos (s : State) : Int :=
  let now := phi s s.sel.ann.trk s.time
  now / 2 ^ 16 * 2 ^ 16 + signed56 (((s.sel.ann.swA : Int) - 2) * 2 ^ 24 - now / 2 ^ 16) * 2 ^ 16
def deadlineTime (s : State) : Nat := nearTime s (s.sel.ann.swA + 2 ^ 32 * s.sel.ann.swB) - 4000000

/-- The root decides for GO, or for ABORT with a reason (R511, R512). -/
def rootGo (s : State) : State :=
  setLco 3 (modSel (fun x => { x with ann := { x.ann with op := 2 } }) s)
def rootAbort (reason agg : Nat) (s : State) : State :=
  lineAbort reason (modSel (fun x => { x with ann := { x.ann with op := 3, left := 256, agg := agg } }) s)

/-- The switch point that the root announced has passed (R511), by its own tracker in the angle form; one that has lost its phase
has no such point left (log entry 64). -/
def lineSwitchPast (s : State) : Bool :=
  let a := s.sel.ann
  if a.form then decide (nearTime s (a.swA + 2 ^ 32 * a.swB) ≤ s.time)
  else
    let now := phi s a.trk s.time / 2 ^ 16
    decide (trdState s a.trk < 3) || decide (signed56 ((a.swA : Int) * 2 ^ 24 + a.swB - now) ≤ 0)

/-- A line changeover is in progress at the root (R509): announced, GO until its switch point has passed, or its ABORT trains. -/
def lineOpen (s : State) : Bool :=
  let a := s.sel.ann
  a.op == 1 || (a.op == 2 && !lineSwitchPast s) || (a.op == 3 && decide (0 < a.left))

/-- The cycle in which the deadline of the announcement passes, or 64 × RPER lc after it (R511). -/
def deadlineAt (s : State) : Option Nat :=
  match s.sel.ann.dl with
  | some d => some (d + 64 * selRper s)
  | none =>
    if s.sel.ann.form then some (max s.time (deadlineTime s))
    else if deadlinePos s ≤ phi s s.sel.ann.trk s.time then some s.time
    else (crossing s s.sel.ann.trk (deadlinePos s)).map fun x => if x.fine = 0 then x.lc else x.lc + 1

/-- The root's announcement has had no valid return within 64 × RPER lc of its deadline (R511). -/
def noReturn (s : State) : State := rootAbort 4 0 s

/-- The deadline passes: the root decides on a train sent from here on; or none has returned in time (R511). -/
def lineDeadlineOp (s : State) : State :=
  match s.sel.ann.dl with
  | none => schedule (s.time + 64 * selRper s) .lineTimeout (modSel (fun x => { x with ann := { x.ann with dl := some s.time } }) s)
  | some _ => noReturn s

/-- The root's announcement is past its deadline, and 64 × RPER lc have gone (R511). -/
def lineTimeoutOp (s : State) : State :=
  when_ (selRuns s && selRoot s && decide (s.sel.ann.op = 1) && (s.sel.ann.dl.isSome && (deadlineAt s).any (· ≤ s.time))) noReturn s

/-! ### Sending, receiving, returning -/

/-- The root's train of this device time (R495, R496, R505, R509 to R511). -/
def trainSendOp (s : State) : State :=
  let s := when_ (!lineOpen s) (modSel fun x => { x with ann := {} }) s
  let s := when_ (s.sel.ann.op = 1 && s.sel.ann.dl.isNone && (deadlineAt s).any (· ≤ s.time)) lineDeadlineOp s
  let a := s.sel.ann
  let r := if a.op = 1 then lineAnnounce a.form a.trk a.tgt a.swA a.swB s else (a.agg, s)
  let s := setNeg (min s.sel.minv (selVmax s)) r.2
  let x : Train :=
    { node := selNode s, ringUp := decide (ringState s = 2), neg := selNeg s, minv := selVmax s
      levt := rf s Reg.selLevOut 0 8, leva := s.sel.levt, cc := rf s Reg.chgActCc 0 16, t := s.time
      acc := dlyDn s, op := a.op, form := a.form, trk := a.trk
      id := if a.op = 0 then 0 else rf s Reg.selLco 8 8, tgt := a.tgt, swA := a.swA, swB := a.swB, agg := r.1
      slots := (upto 0 (selSlots s)).map (latchBeacon s (selNeg s)) }
  schedule (s.time + 64 * selRper s) .ringTimeout <| modSel (fun y => { y with
    sent := x.bytes, poison := false, outs := y.outs ++ [s.time], since := y.since + 1, lastAt := s.time + 1
    ann := { y.ann with left := y.ann.left - 1 } }) s

/-- The forwarding time of a train received at an instant (R496): its SOT leaves at the first multiple of 8 lc at least
28 lc later, as in the worked example of R504. -/
def fwdTime (instant : Nat) : Nat := (instant + 896 + 255) / 256 * 256 - instant

/-- The copy of a train that a member sends on (R496). -/
def forwardTrain (x : Train) (instant agg : Nat) (s : State) : State :=
  let fwd := fwdTime instant
  let y := { x with
    hops := x.hops + 1, minv := min x.minv (selVmax s), levt := x.levt ||| rf s Reg.selLevOut 0 8
    acc := (x.acc + fwd + dlyDn s) % 2 ^ 24, ahead := max x.ahead (ownLead s), agg := x.agg ||| agg }
  rset Reg.selFwd (wd fwd) (modSel (fun z => { z with sent := y.bytes, poison := false }) s)

/-- Both ports are UP: a member forwards (R499). -/
def forwards (s : State) : Bool := decide (portState s .up = 4 ∧ portState s .dn = 4)

/-- A member receives a train (R495, R499 to R508, R514). -/
def trainReceiveOp (bs : List Byte) (link : TrainLink) (instant : Nat) (s : State) : State :=
  match trainFault s bs link with
  | some k =>
    trainFaulty k (when_ (forwards s) (modSel fun x => { x with sent := bs, poison := true }) s)
  | none =>
    let x := Train.ofBytes (selSlots s) bs
    let gap := match s.sel.lastT with | some t => (x.t - t) / selRper s - 1 | none => 0
    let s := schedule (s.time + 64 * selRper s) .ringTimeout s
    let s := countN Reg.selLostCnt gap (modSel (fun y => { y with lastT := some x.t, lastAt := s.time }) s)
    let s := setf Reg.selRing 16 6 x.hops (setf Reg.selRing 8 6 x.node s)
    let s := setRing (if !forwards s then 3 else if x.ringUp then 2 else 1) s
    let s := alignTrain ((instant : Int) - (32 * x.t + x.acc : Nat)) s
    let s := classTrain x.cc (setNeg x.neg s)
    let s := setLevIn (if classErr s then 0 else x.levt ||| x.leva) s
    let s := takeBeacons x.t x.slots s
    let r := lineTrain x s
    when_ (forwards r.2) (forwardTrain x instant r.1) r.2

/-- One train of the root is not returned valid (R500). -/
def returnMissing (s : State) : State :=
  let s := modSel (fun x => { x with retBad := x.retBad + 1, retGood := 0 }) s
  if 4 ≤ s.sel.retBad ∧ ringState s = 2 then setRing 3 s else s

/-- The root has received a train of another root, which it absorbs (R513): its ring does not come up. -/
def dualRoot (s : State) : State :=
  let s := modSel (fun y => { y with retGood := 0 }) s
  if rb s Reg.selSts 17 then s else raise 2847 (setb Reg.selSts 17 true s)

/-- The root receives a train (R499, R500, R503, R506, R507, R511, R513). -/
def trainReturnOp (bs : List Byte) (link : TrainLink) (s : State) : State :=
  let x := Train.ofBytes (selSlots s) bs
  match trainFault s bs link with
  | some k =>
    returnMissing (modSel (fun y => { y with outs := y.outs.drop 1 }) (trainFaulty k s))
  | none =>
    if x.node ≠ selNode s then
      dualRoot s
    else
      let lost := s.sel.outs.filter fun t => decide (t < x.t)
      let s := modSel (fun y => { y with outs := y.outs.filter fun t => decide (x.t < t) }) (forEach lost (fun _ => returnMissing) s)
      let s := modSel (fun y => { y with
        retBad := 0, retGood := y.retGood + 1, minv := x.minv, levt := x.levt, ahead := x.ahead, agg := x.agg }) s
      let s := setf Reg.selRing 16 6 x.hops (setf Reg.selRing 8 6 x.node s)
      let up := decide (16 ≤ s.sel.retGood) && forwards s && !rb s Reg.selSts 17
      let s := if up then setf Reg.selRing 0 7 (x.hops + 1) (setRing 2 s) else s
      let s := setLevIn (x.levt ||| x.leva) s
      let s := when_ (idleOrMaint s && decide (4 < x.ahead ∧ 64 ≤ s.sel.since ∧ s.sel.step = 0))
        (modSel fun y => { y with step := x.ahead }) s
      match s.sel.ann.op, s.sel.ann.dl with
      | 1, some d =>
        if x.t < d then s
        else if x.op = 1 ∧ x.id = rf s Reg.selLco 8 8 ∧ x.agg = 0 then rootGo s
        else rootAbort (aggReason x.agg) x.agg s
      | _, _ => s

/-- No valid train for 64 × RPER lc (R500, R503). -/
def ringTimeoutOp (s : State) : State :=
  if selRoot s then
    let old := s.sel.outs.filter fun t => decide (t + 64 * selRper s ≤ s.time)
    let s := modSel (fun y => { y with outs := y.outs.filter fun t => decide (s.time < t + 64 * selRper s) }) s
    forEach old (fun _ => returnMissing) s
  else
    modSel (fun x => { x with es := [], near := 0, far := 0, lastT := none }) (setAligned false (setRing 3 s))

/-- The cycle in which 64 × RPER lc have passed without the train that is awaited (R500). -/
def ringTimeoutAt (s : State) : Option Nat :=
  if selRoot s then s.sel.outs.head?.map (· + 64 * selRper s)
  else if ringState s = 3 ∧ !aligned s then none
  else some (s.sel.lastAt + 64 * selRper s)

/-- A train that is awaited has not come for 64 × RPER lc (R500, R503). -/
def ringTimeoutDue (s : State) : State :=
  when_ (selRuns s && (ringTimeoutAt s).any (· ≤ s.time)) ringTimeoutOp s

/-- SEL.CTL.CNT_CLR (R520). -/
def selCntClrOp : State → State :=
  clrAll [Reg.selCvCnt, Reg.selCrcCnt, Reg.selPoisonCnt, Reg.selLostCnt, Reg.selProtCnt, Reg.selLinkdnCnt,
    Reg.selStepCnt, Reg.selLcoAbortCnt]

end Sys2Proof.Machine
end

