-- ==== Sys2Proof/Machine/Pins.lean ====
section
/-!
DEFINITION. Operations of pin ownership (01_architecture.md R22 to R29): the check of an ownership table and its
application.
-/

namespace Sys2Proof.Machine

/-- OWNER, UNIT and ROLE of an entry (R24). -/
def ownKind (w : Word) : Nat := fld w 0 2
def ownUnit (w : Word) : Nat := fld w 8 6
def ownRole (w : Word) : Nat := fld w 16 3

/-- The owner that an entry names (R24). -/
def ownerOfWord (w : Word) : Owner :=
  match ownKind w with
  | 1 => .heddle (ownUnit w) (ownRole w)
  | 2 => .position (ownUnit w) (ownRole w)
  | _ => .channel

/-- The owner that n's entry and the entries below it of the same unit give it: the code of the first rule of R25 that pin n
breaks, as R29 numbers them, or 0 (log entry 25). -/
def ownErr (serial : Nat → Bool) (tbl : Nat → Word) (n : Nat) : Nat :=
  let w := tbl n
  let mine := (upto 0 n).filter fun m => ownKind (tbl m) == ownKind w && ownUnit (tbl m) == ownUnit w
  match ownKind w with
  | 1 =>
    match mine with
    | [] => if ownRole w = 0 then 0 else 2
    | lo :: _ => if n - lo ≠ mine.length ∨ 8 ≤ n - lo then 1 else if ownRole w ≠ n - lo then 2 else 0
  | 2 =>
    if 15 < ownUnit w then 3
    else if 2 < ownRole w ∨ (serial (ownUnit w) = true ∧ ownRole w = 2) then 2
    else if mine.any fun m => ownRole (tbl m) == ownRole w then 4
    else 0
  | _ => 0

/-- The lowest pin that breaks R25, with its code. -/
def ownCheck (serial : Nat → Bool) (tbl : Nat → Word) : Option (Nat × Nat) :=
  (((upto 0 512).filter fun n => ownKind (tbl n) != 0).map fun n => (n, ownErr serial tbl n)).find? fun x => x.2 != 0

/-- The owner of a pin is enabled: its channel is not OFF, its heddle engine runs, its position interface is enabled
(R28). -/
def ownerEnabled (s : State) (n : Nat) (o : Owner) : Bool :=
  match o with
  | .channel => chMode s n != 0
  | .heddle e _ => !hedStopped s e
  | .position i _ => posOn s i

/-- The same channel, heddle engine or position interface, whatever the role (R22). -/
def sameOwner : Owner → Owner → Bool
  | .channel, .channel => true
  | .heddle e _, .heddle f _ => e == f
  | .position i _, .position j _ => i == j
  | _, _ => false

/-- Pin n takes an owner (R26, R28): where it changes, the pin shows SAFE until the new owner is enabled, and a channel's pin
waits for its release anew (R191). -/
def takeOwner (n : Nat) (o : Owner) (s : State) : State :=
  if ownerOf s n = o then s
  else
    let same := sameOwner (ownerOf s n) o
    let s := { s with owner := tset s.owner n o }
    if same then s
    else refreshPair (n / 2) (nowInst s)
      (noteSwitch n (modCh n (fun x => { x with handover := !ownerEnabled s n o, released := false }) s))

/-- Every pin takes the owner of a table. -/
def takeOwners (tbl : Nat → Word) (s : State) : State :=
  refreshTrips (forEach (upto 0 512) (fun n s => takeOwner n (ownerOfWord (tbl n)) s) s)

/-- The staged table is checked as it stands, and a valid one applied to every pin at once; COMMIT clears (R26; log entry 25). -/
def commitDone (s : State) : State :=
  let s := setb Reg.gctlPinctl 0 false s
  let tbl := fun n => rget s (Reg.pinown n)
  match ownCheck (posSerial s) tbl with
  | some (n, code) =>
    raise 2887 (setf Reg.gctlPinctl 16 9 n (setf Reg.gctlPinctl 4 3 code (setb Reg.gctlPinctl 1 true s)))
  | none => rset Reg.gctlPinctl 0 (takeOwners tbl s)

/-- A write of 1 to PINCTL.COMMIT (R26, R628): the check and the switch come 1 to 1,024 lc later, a free value; a second write
until then has no effect (R7). -/
def commitOp (s : State) : State :=
  if rb s Reg.gctlPinctl 0 then s
  else
    let x := freshWord s
    schedule (s.time + 1 + x.1 % 1024) .commit (setb Reg.gctlPinctl 0 true x.2)

/-- GCTL.PINOWN[n] as it reads: ACT_OWNER (R24). -/
def pinownView (s : State) (n : Nat) : Word :=
  let k := match ownerOf s n with | .channel => 0 | .heddle _ _ => 1 | .position _ _ => 2
  setFld (rget s (Reg.pinown n)) 24 2 k

/-- GCTL.PINLVL[i] as it reads: bit b is the filtered level of W(32 i + b) (R37). -/
def pinlvlView (s : State) (i : Nat) : Word :=
  wd ((upto 0 32).foldl (fun x b => x + b2n (rb s (Reg.chSts (32 * i + b)) 18) * 2 ^ b) 0)

end Sys2Proof.Machine
end

