-- ==== Sys2Proof/Machine/Tack.lean ====
section
/-!
DEFINITION. Operations of the tackler (17_tackler.md): the configuration flash and its tables (R469 to R471, R560 to R567), firmware
images (R564 to R566), restarts (R556 to R559), sensors (R554), the log in flash (R570 to R572), debug access (R577) and the
fuses (R463 to R465).
-/

namespace Sys2Proof.Machine

def modTack (f : TackSt → TackSt) (s : State) : State := { s with tack := f s.tack }
def modFlash (f : FlashSt → FlashSt) (s : State) : State := { s with flash := f s.flash }

/-! ### The flash (R469, R560 to R563) -/

/-- A byte of the flash: erased bytes read 0xFF (log entry 9). -/
def flashGet : List Host.Cell → Nat → Byte
  | [], _ => 0xFF#8
  | (k, v) :: t, a => if a = k then v else if a < k then 0xFF#8 else flashGet t a

/-- A byte of the flash replaced, in rising addresses, no erased byte listed. -/
def flashSet : List Host.Cell → Nat → Byte → List Host.Cell
  | [], a, b => if b = 0xFF#8 then [] else [(a, b)]
  | (k, v) :: t, a, b =>
    if a = k then (if b = 0xFF#8 then t else (k, b) :: t)
    else if a < k then (if b = 0xFF#8 then (k, v) :: t else (a, b) :: (k, v) :: t)
    else (k, v) :: flashSet t a b

/-- The `n` bytes of the flash from an address, and their little-endian number. -/
def flashRead (s : State) (a n : Nat) : List Byte := (upto a n).map (flashGet s.flash.bytes)
def flashN (s : State) (a n : Nat) : Nat := leNat (flashRead s a n)

/-- Bytes are programmed: programming clears bits and sets none (log entry 9). -/
def flashProg : Nat → List Byte → List Host.Cell → List Host.Cell
  | _, [], m => m
  | a, b :: bs, m => flashProg (a + 1) bs (flashSet m a (b &&& flashGet m a))

def flashProgram (a : Nat) (bs : List Byte) (s : State) : State := modFlash (fun f => { f with bytes := flashProg a bs f.bytes }) s

/-- Sectors of 4 KiB are erased. -/
def flashErase (a n : Nat) (s : State) : State :=
  modFlash (fun f => { f with bytes := f.bytes.filter fun c => !decide (a ≤ c.1 ∧ c.1 < a + 4096 * n) }) s

/-- SUPPLY.NVM_INH (R446). -/
def nvmInh (s : State) : Bool := rb s Reg.pwrSupply 8

/-- The first page or sector of a job that is left. -/
def FlashStep.first : FlashStep → State → State
  | .erase a _, s => flashErase (a / 4096 * 4096) 1 s
  | .program a bs, s => flashProgram a (bs.take (256 - a % 256)) s

/-- What is left of a job's steps after that. -/
def stepsAfter : List FlashStep → List FlashStep
  | [] => []
  | .erase a n :: rest => if n ≤ 1 then rest else .erase (a + 4096) (n - 1) :: rest
  | .program a bs :: rest =>
    let k := 256 - a % 256
    if bs.length ≤ k then rest else .program (a + k) (bs.drop k) :: rest

/-- A job is put to the flash. -/
def addJob (j : FlashJob) (s : State) : State := modFlash (fun f => { f with jobs := f.jobs ++ [j] }) s

/-- The running background command is decided (R541). -/
def bgOut (st detail : Nat) (ret : Word) (s : State) : State :=
  { s with host := { s.host with bgRun := s.host.bgRun.map fun c => { c with out := some (st, detail, ret) } } }

/-- The region that the running DRAFT_WRITE or FW_WRITE writes: 0 to 3 a draft region, 4 and 5 a firmware region. -/
def writeRegion (s : State) : Option Nat :=
  match s.host.bgRun with
  | none => none
  | some c =>
    let t := fld (c.args.getD 0 0) 0 1
    if c.op = 0x20 then some (if t = 1 then s.tack.slots.factory else s.tack.slots.staged)
    else if c.op = 0x40 then some (4 + t)
    else none

/-- A write of a region has ended before its end: the next one must begin it anew (R558). -/
def breakRegion (s : State) : State :=
  match writeRegion s with
  | none => s
  | some r => modTack (fun t => { t with broken := if t.broken.contains r then t.broken else r :: t.broken }) s

/-- The command that the flash works for ends with a status before its end (R558, R562, R563). -/
def cutCommand (st : Nat) (s : State) : State := bgOut st 0 0 (breakRegion s)

/-- The job at the head of the flash issues its first page or sector, unless NVM_INH holds it (R563): a command ends with
NVM_INHIBIT, a commit waits, an operation of the debug port is not performed. -/
def issueJob : Nat → State → State
  | 0, s => s
  | k + 1, s =>
    match s.flash.jobs with
    | [] => s
    | j :: rest =>
      if j.issued then s
      else if !nvmInh s then modFlash (fun f => { f with jobs := { j with issued := true } :: rest }) s
      else
        match j.why with
        | .command => issueJob k (cutCommand 8 (modFlash (fun f => { f with jobs := rest }) s))
        | .repair => s
        | .debug => issueJob k (modFlash (fun f => { f with jobs := rest }) s)

def issueNext (s : State) : State := issueJob 8 s

/-! ### Tables with two copies (R470, R471, R567) -/

/-- A copy at `a` with MAGIC and a CRC over `n` bytes is intact. -/
def copyIntact (s : State) (a magic n : Nat) : Bool :=
  flashN s a 4 == magic && flashN s (a + n) 4 == (crc32 (flashRead s a n)).toNat

/-- The copy in force of two, with the intact bits: the intact one with the higher SEQ, copy 0 of equals. -/
def copyInForce (s : State) (a magic n : Nat) : Option Nat × Nat :=
  let i := fun c => copyIntact s (a + 4096 * c) magic n
  let seq := fun c => flashN s (a + 4096 * c + 4) 4
  let pick := if i 0 && i 1 then (if seq 0 < seq 1 then some 1 else some 0)
    else if i 0 then some 0 else if i 1 then some 1 else none
  (pick, b2n (i 0) + 2 * b2n (i 1))

/-- A table's bytes with its CRC are committed to the other copy: its sector is erased, and MAGIC is programmed last (R471). -/
def commitCopy (a copy : Nat) (bs : List Byte) (s : State) : State :=
  let t := a + 4096 * copy
  let bs := bs ++ leBytes 4 (crc32 bs).toNat
  flashProgram t (bs.take 4) (flashProgram (t + 4) (bs.drop 4) (flashErase t 1 s))

def slotMagic : Nat := 0x54535448
def repairMagic : Nat := 0x50525448

/-- The bytes of the slot table (R470). -/
def SlotTable.bytes (x : SlotTable) : List Byte :=
  let reg := fun i =>
    let r := tget {} x.regions i
    leBytes 4 r.ver ++ leBytes 2 r.epoch ++ leBytes 2 r.cclass ++ leBytes 4 r.len ++ leBytes 4 r.st
  leBytes 4 slotMagic ++ leBytes 4 x.seq ++ leBytes 4 (x.active + 256 * x.previous + 65536 * x.staged + 16777216 * x.factory) ++
    leBytes 4 0 ++ (upto 0 4).flatMap reg

/-- The slot table of a copy (R470). -/
def slotTableAt (s : State) (c : Nat) : SlotTable :=
  let a := 4096 * c
  let b := fun o n => flashN s (a + o) n
  { seq := b 4 4, active := b 8 1, previous := b 9 1, staged := b 10 1, factory := b 11 1, copy := c
    regions := (upto 0 4).map fun i =>
      let o := 0x10 + 16 * i
      (i, { ver := b o 4, epoch := b (o + 4) 2, cclass := b (o + 6) 2, len := b (o + 8) 4, st := b (o + 12) 1 }) }

/-- The slot table is read (R471); with no intact copy a record is written. -/
def readSlots (s : State) : State :=
  match copyInForce s 0 slotMagic 0x50 with
  | (some c, _) => modTack (fun t => { t with slots := slotTableAt s c }) s
  | (none, bits) => logCause 0x0F08 2 0 (wd bits) 0 (modTack (fun t => { t with slots := {} }) s)

/-- The repair table is read and its replacements applied (R380, R567). -/
def readRepairs (s : State) : State :=
  match (copyInForce s 0x2000 repairMagic 0x1C).1 with
  | none => s
  | some c =>
    let a := 0x2000 + 4096 * c
    let s := modTack (fun t => { t with repSeq := flashN s (a + 4) 4, repCopy := c }) s
    forEach (upto 0 4) (fun g s =>
      let v := wd (flashN s (a + 8 + 4 * g) 4) &&& 0xC000003F#32
      setb Reg.storeSts (4 + g) (bit v 31) (rset (Reg.storeSpare g) v s)) s

/-- The repair table as it is to be committed (R567). -/
def repairBytes (s : State) : List Byte :=
  leBytes 4 repairMagic ++ leBytes 4 (s.tack.repSeq + 1) ++ (upto 0 4).flatMap (fun g => leBytes 4 (rn s (Reg.storeSpare g))) ++
    leBytes 4 0

/-- A commit of the repair table waits or runs. -/
def repairPending (s : State) : Bool := s.flash.jobs.any fun j => j.why == .repair

/-- A replacement is to be committed (R567); one that arises during a commit follows it. -/
def repairJob (s : State) : State :=
  if repairPending s then s
  else
    let a := 0x2000 + 4096 * (1 - s.tack.repCopy)
    let bs := repairBytes s
    let bs := bs ++ leBytes 4 (crc32 bs).toNat
    issueNext (addJob { why := .repair, steps := [.erase a 1, .program (a + 4) (bs.drop 4), .program a (bs.take 4)] } s)

/-- The first page or sector of the job at the head is done (R562), and the next is issued. -/
def flashDoneOp (ended : FlashWhy → State → State) (s : State) : State :=
  match s.flash.jobs with
  | [] => s
  | j :: rest =>
    if !j.issued then s
    else
      let s := match j.steps with | x :: _ => x.first s | [] => s
      match stepsAfter j.steps with
      | [] => issueNext (ended j.why (modFlash (fun f => { f with jobs := rest }) s))
      | more => issueNext (modFlash (fun f => { f with jobs := { j with steps := more, issued := false } :: rest }) s)

/-- A commit of the repair table is complete (R567, R578); a replacement that it does not hold is committed next. -/
def repairDone (s : State) : State :=
  let s := raise 2924 (modTack (fun t => { t with repSeq := t.repSeq + 1, repCopy := 1 - t.repCopy }) s)
  if flashRead s (0x2008 + 4096 * s.tack.repCopy) 16 == ((repairBytes s).drop 8).take 16 then s else repairJob s

/-- The address and kind (1 program, 2 erase) of a step, for the record of R569. -/
def FlashStep.info : FlashStep → Nat × Nat
  | .erase a _ => (a, 2)
  | .program a _ => (a, 1)

/-- A flash error of the page or sector under way (R562): a command ends as ABORTED; a commit starts again. -/
def flashErrorOp (s : State) : State :=
  match s.flash.jobs with
  | [] => s
  | j :: rest =>
    let x := match j.steps with | x :: _ => x.info | [] => (0, 1)
    let s := flagRaise Reg.tackSts 9 2922 (count Reg.tackFlashErrCnt s)
    let s := logCause 0x0F07 3 x.2 (wd x.1) (rget s Reg.tackFlash) s
    let s := modFlash (fun f => { f with jobs := rest }) s
    match j.why with
    | .command => issueNext (cutCommand 10 s)
    | .repair => repairJob s
    | .debug => issueNext s

/-! ### Firmware images (R564 to R566) -/

def fwBase (i : Nat) : Nat := 0x100000 + 0x80000 * i

/-- Programmed marks of image i (R565), and whether it is superseded. -/
def fwMarks (s : State) (i : Nat) : Nat :=
  ((upto 0 1024).filter fun k => flashN s (fwBase i + 0x7F000 + 4 * k) 4 == 0).length
def superseded (s : State) (i : Nat) : Bool := fwMarks s i % 2 == 1

/-- A number of `n` bytes at an offset of image i. -/
def fwN (s : State) (i o n : Nat) : Nat := flashN s (fwBase i + o) n
def fwLen (s : State) (i : Nat) : Nat := fwN s i 0x10 4

/-- The header of image i is correct (R564), with its trailer's MAGIC and reserved bytes (R462). -/
def fwHeader (s : State) (i : Nat) : Bool :=
  let l := fwLen s i
  fwN s i 0 4 == 0x57465448 && fwN s i 4 2 == 1 && fwN s i 6 2 == 256 && decide (l % 8 = 0 ∧ 352 ≤ l ∧ l ≤ 0x7F000) &&
    fwN s i 0x14 2 == 0x5120 && decide (fwN s i 0x16 1 ≤ 0xA1) && fwN s i 0x17 9 == 0 && fwN s i 0x20 192 == 0 &&
    fwN s i (l - 96) 4 == 0x47535448 && fwN s i (l - 91) 3 == 0 && fwN s i (l - 24) 24 == 0

/-- The digest of an image of `len` bytes at `a` with its DIGEST counted as 0, of the bytes before the trailer (R461). -/
def imageDigest (s : State) (a len : Nat) : List Byte :=
  sha256 (flashRead s a 0xE0 ++ List.replicate 32 0 ++ flashRead s (a + 0x100) (len - 96 - 0x100))

def fwDigest (s : State) (i : Nat) : Bool := imageDigest s (fwBase i) (fwLen s i) == flashRead s (fwBase i + 0xE0) 32

/-- A signature in a trailer at `t` verifies with a key (R462). -/
def trailerVerifies (s : State) (t : Nat) (key : Nat × Nat) (digest : List Byte) : Bool :=
  P256.verify key digest (flashN s (t + 8) 32) (flashN s (t + 0x28) 32)

/-- The signature of image i verifies with the ROM key that it names (R564). -/
def fwSigned (s : State) (i : Nat) : Bool :=
  let t := fwBase i + fwLen s i - 96
  let k := flashN s (t + 4) 1
  decide (k = 0x80 ∨ k = 0x81) && trailerVerifies s t (tget (0, 0) s.fuse.romKeys (k - 0x80)) (flashRead s (fwBase i + 0xE0) 32)

def fwPasses (s : State) (i : Nat) : Bool := fwHeader s i && fwDigest s i && fwSigned s i

/-- The image that the ROM starts (R565). -/
def fwSelect (s : State) : Option Nat :=
  let fresh := [0, 1].filter fun i => !superseded s i
  let old := [0, 1].filter fun i => superseded s i
  (fresh ++ old).find? (fwPasses s)

/-- Image i runs (R565): BOOTSTS.FW, TACK.STS.FW_IMG and FWVER name it. -/
def fwStart (i : Nat) (s : State) : State :=
  setb Reg.pwrBootsts 2 (i == 1) (setb Reg.tackSts 0 (i == 1) (setb Reg.tackSts 1 false
    (rset Reg.tackFwver (wd (fwN s i 8 4)) s)))

def fwInUse (s : State) : Nat := rf s Reg.tackSts 0 1

/-- FW_ACTIVATE's checks of image i (R566; log entry 26): STATUS and DETAIL. -/
def fwCheck (s : State) (i : Nat) (readable : Bool) : Nat × Nat :=
  if !readable then (10, 1)
  else if !fwHeader s i || decide (i = fwInUse s) || superseded s (fwInUse s) || 1024 ≤ fwMarks s i || 1024 ≤ fwMarks s (1 - i) then (3, 2)
  else if !fwDigest s i then (4, 3)
  else if !fwSigned s i then (6, 4)
  else if fwN s i 8 4 < fwN s (fwInUse s) 0xC 4 then (7, 5)
  else (0, 0)

/-- The next free word for a mark of image i: the first that is not programmed. -/
def markAddr (s : State) (i : Nat) : Nat :=
  let k := ((upto 0 1024).find? fun k => flashN s (fwBase i + 0x7F000 + 4 * k) 4 != 0).getD 0
  fwBase i + 0x7F000 + 4 * k

/-- The steps that activate image i: the mark that leaves it not superseded, then the one that supersedes the image in use
(R566; log entry 26). -/
def activateSteps (s : State) (i : Nat) : List FlashStep :=
  (if superseded s i then [FlashStep.program (markAddr s i) (leBytes 4 0)] else []) ++
    [.program (markAddr s (1 - i)) (leBytes 4 0)]

/-- Image i is activated (R566). -/
def fwActivated (i : Nat) (s : State) : State :=
  let s := raise 2923 (setb Reg.tackSts 1 true s)
  logCause 0x0F05 1 i (wd (fwN s i 8 4)) (rget s Reg.tackFwver) s

/-! ### Restarts (R556 to R559) -/

def restarting (s : State) : Bool := rb s Reg.tackSts 2

/-- The firmware runs. -/
def fwRuns (s : State) : Bool := decide (3 ≤ s.tack.boot) && !restarting s

/-- Commands at the start of a restart (R542, R557): one that has not landed completes as ABORTED; flash jobs of commands
stop after what is under way. -/
def restartCommands (s : State) : State :=
  let ab := fun c : Cmd => { c with out := some (c.out.getD (10, 0, 0)) }
  let s := match s.host.bgRun with
    | some c => if c.out.isNone then breakRegion s else s
    | none => s
  let keep := fun j : FlashJob => match j.why with
    | .command => if j.issued then (match j.steps with
        | .erase a _ :: _ => [{ j with why := FlashWhy.debug, steps := [FlashStep.erase a 1] }]
        | .program a bs :: _ => [{ j with why := FlashWhy.debug, steps := [FlashStep.program a (bs.take (256 - a % 256))] }]
        | [] => []) else []
    | _ => [j]
  { s with
    host := { s.host with fgRun := s.host.fgRun.map ab, bgRun := s.host.bgRun.map ab }
    flash := { s.flash with jobs := s.flash.jobs.flatMap keep } }

/-- A tackler restart starts with a cause (R556, R557). -/
def restartBegin (cause : Nat) (s : State) : State :=
  let s := setb Reg.gctlState 7 true (setf Reg.tackSts 16 3 cause (setb Reg.tackSts 2 true s))
  let s := raise 2920 (count Reg.tackRestartCnt s)
  let s := restartCommands (setb Reg.mbxSts 1 true s)
  if stageState s = 2 then discardStaged s else s

/-- The watchdog expires (R556): a restart, or a device reset when one has not ended. -/
def watchdogOp (cause : Nat) (s : State) : State := if restarting s then deviceReset 3 s else restartBegin cause s

/-- The firmware declares itself ready (R556). -/
def restartEndOp (s : State) : State :=
  match fwSelect s with
  | none => s
  | some i =>
    let s := setb Reg.mbxSts 1 false (setb Reg.gctlState 7 false (setb Reg.tackSts 2 false (fwStart i s)))
    let s := logCause 0x0F04 2 (rf s Reg.tackSts 16 3) (rget s Reg.tackFwver) (rget s Reg.tackRestartCnt) (raise 2921 s)
    issueNext (logDrain s)

/-! ### Sensors (R552, R554) -/

/-- A temperature as a signed number of quarter degrees. -/
def tempOf (x : Nat) : Int := toSigned 11 x

/-- A threshold bit of STS follows TEMP_MAX (R554). -/
def tempLevel (b src sev : Nat) (thr max_ : Int) (sensor : Nat) (s : State) : State :=
  if rb s Reg.tackSts b then (if max_ ≤ 4 * thr - 8 then setb Reg.tackSts b false s else s)
  else if 4 * thr ≤ max_ then
    let s := raise src (setb Reg.tackSts b true s)
    let s := logCause 0x0F01 sev sensor (rget s (Reg.tackTemp sensor)) (rget s Reg.tackTempCfg) s
    when_ (b == 4) (detect 11 sensor (upto 0 64) false) s
  else s

/-- The die sensors are sampled (R554). -/
def tempSampleOp (ts : List Nat) (s : State) : State :=
  let s := forEach (upto 0 8) (fun i s => rset (Reg.tackTemp i) (wd (ts.getD i 0)) s) s
  let best := (upto 0 8).foldl (fun b i => if tempOf (ts.getD b 0) < tempOf (ts.getD i 0) then i else b) 0
  let m := tempOf (ts.getD best 0)
  let s := rset Reg.tackTempMax (wd (ts.getD best 0 + 65536 * best)) s
  let th := fun lo => toSigned 8 (rf s Reg.tackTempCfg lo 8)
  tempLevel 4 2917 3 (th 8) m best (tempLevel 3 2916 2 (th 0) m best s)

/-! ### The log in flash (R570 to R572) -/

/-- The records of the ring, oldest first. -/
def logOldest (s : State) : List LogRec := s.log.ring.reverse

/-- The next record to be copied, if any. -/
def logNextCopy (s : State) : Option LogRec := (logOldest s).find? (flashDue s)

/-- LOG_FLSEQ as it reads (R570). -/
def logFlseqView (s : State) : Word :=
  match logNextCopy s with | some r => r.seq | none => rget s Reg.tackLogSeq

/-- The next record is copied, twice, into the next entry; the sector is erased before its first entry (R570). -/
def logCopyOp (s : State) : State :=
  match logNextCopy s with
  | none => s
  | some r =>
    let a := 0x200000 + 64 * s.log.entry
    let s := if s.log.entry % 64 = 0 then flashErase a 1 s else s
    let s := flashProgram a (r.bytes ++ r.bytes) s
    rset Reg.tackLogFlseq (r.seq + 1#32) { s with log := { s.log with entry := (s.log.entry + 1) % 16384 } }

/-- The first intact copy of the record of flash entry k (R570). -/
def flashRecord (s : State) (k : Nat) : Option (List Byte) :=
  let a := 0x200000 + 64 * k
  let okAt := fun o => leNat ((flashRead s (a + o) 32).drop 28) == (crc32 (flashRead s (a + o) 28)).toNat
  if okAt 0 then some (flashRead s a 32) else if okAt 32 then some (flashRead s (a + 32) 32) else none

/-- The entries of the flash log that hold anything. -/
def flashEntries (s : State) : List Nat :=
  ((s.flash.bytes.filter fun c => decide (0x200000 ≤ c.1 ∧ c.1 < 0x300000)).map fun c => (c.1 - 0x200000) / 64).eraseDups

/-- The records of the flash log: entry and bytes. -/
def flashRecords (s : State) : List (Nat × List Byte) :=
  (flashEntries s).filterMap fun k => (flashRecord s k).map fun b => (k, b)

/-- At a device reset the log goes on after the entry with the highest SEQ (R571). -/
def logResume (s : State) : State :=
  let best := (flashRecords s).foldl (fun b x => if (b.map fun y => leNat (y.2.take 4)).getD 0 ≤ leNat (x.2.take 4) then some x else b) none
  match best with
  | none => s
  | some (k, b) =>
    let q := wd (leNat (b.take 4) + 1)
    rset Reg.tackLogSeq q (rset Reg.tackLogFlseq q { s with log := { s.log with entry := (k + 1) % 16384 } })

/-- The records that LOG_READ copies (R572): at most `n`, in SEQ order, from the oldest still held at `first` or above. -/
def logRecords (s : State) (first n : Nat) : List (List Byte) :=
  let ram := (logOldest s).map fun r => (r.seq.toNat, r.bytes)
  let lo := match ram with | x :: _ => x.1 | [] => rn s Reg.tackLogSeq
  let old := ((flashRecords s).map fun x => (leNat (x.2.take 4), x.2)).filter fun x => decide (x.1 < lo)
  let old := old.mergeSort fun a b => decide (a.1 ≤ b.1)
  (((old ++ ram).filter fun x => decide (first ≤ x.1)).map fun x => x.2).take n

/-! ### Debug access (R576, R577) -/

/-- DBGCTL.OPEN. -/
def dbgOpen (s : State) : Bool := rb s Reg.tackDbgctl 0

/-- SHU[e].DBG.HALT is cleared (R124, R126): the engine goes on at the preserved PC, past a breakpoint that has stopped it there;
a step that waits is dropped. -/
def shuResumeOp (e : Nat) (s : State) : State :=
  let was := rb s (Reg.shuDbg e) 8
  let s := modShu e (fun u => { u with step := false, skipBrk := u.brkStop, brkStop := false }) (setb (Reg.shuDbg e) 0 false s)
  if was then unhalt e (modShu e (fun u => { u with issueAt := max u.issueAt s.time }) s) else s

/-- DBGCTL.OPEN takes a value (R577). -/
def setOpen (o : Bool) (s : State) : State :=
  if dbgOpen s == o then s
  else
    let s := raise 2925 (setb Reg.tackDbgctl 0 o s)
    let s := logCause 0x0F0A 1 0 (rget s Reg.tackDbgctl) (if o then 0 else 1) s
    if o then s
    else
      let s := forEach (upto 0 34) (fun e s =>
        let s := if rb s (Reg.shuDbg e) 0 || rb s (Reg.shuDbg e) 8 then shuResumeOp e s else s
        forEach (upto 0 4) (fun i s => when_ (rb s (Reg.shuBrk e i) 31) (setb (Reg.shuBrk e i) 31 false) s) s) s
      forEach (upto 0 64) (fun e s => if rb s (Reg.hedDbg e) 0 || rb s (Reg.hedDbg e) 8 then hedResumeOp e s else s) s

/-- The ASCII bytes of a name. -/
def ascii (x : String) : List Byte := x.toList.map fun c => BitVec.ofNat 8 c.toNat

/-- CHAL[i] as it reads (R577). -/
def chalView (s : State) (i : Nat) : Word := Config.challenge s.tack.draws i

/-- GCTL.ID as it reads: VARIANT from the fuses (R3, R463). -/
def idView (s : State) : Word := setFld (rget s Reg.gctlId) 8 8 s.fuse.variant

/-- The digest that an unlock signs (R577). -/
def unlockDigest (s : State) : List Byte :=
  sha256 (ascii "HTDEBUG!" ++ leBytes 4 (idView s).toNat ++ (upto 0 4).flatMap fun i => leBytes 4 (chalView s i).toNat)

/-- Fused key k may sign: it is fused and not revoked (R464). -/
def keyUsable (s : State) (k : Nat) : Bool := decide (k < 4) && s.fuse.fused.getLsbD k && !s.fuse.revoked.getLsbD k

/-- A signature by fused key k over a digest verifies. -/
def keyVerifies (s : State) (k : Nat) (digest : List Byte) (r t : Nat) : Bool :=
  keyUsable s k && P256.verify (tget (0, 0) s.fuse.keys k) digest r t

/-- An unlock attempt (R577): with LOCKOUT it is refused; CHAL takes a new value at each. -/
def unlockOp (k r t : Nat) (s : State) : State :=
  if rb s Reg.tackDbgctl 9 then s
  else
    let good := keyVerifies s k (unlockDigest s) r t
    let s := modTack (fun x => { x with draws := x.draws + 1 }) s
    if good then setOpen true s
    else
      let s := modTack (fun x => { x with fails := x.fails + 1 }) (flagRaise Reg.tackSts 10 2926 s)
      let s := logCause 0x0F0A 1 0 (rget s Reg.tackDbgctl) 2 s
      when_ (decide (3 ≤ s.tack.fails)) (setb Reg.tackDbgctl 9 true) s

/-- DBGCTL as it reads: BSCAN_ACT (R574). -/
def dbgctlView (s : State) : Word := setBit (rget s Reg.tackDbgctl) 8 (bscanActs s)

/-- CHG.KEYSTS as it reads (R488). -/
def keystsView (s : State) : Word :=
  wd (s.fuse.fused.toNat + 16 * s.fuse.revoked.toNat + 256 * b2n s.fuse.secure + 65536 * s.fuse.minEpoch)

/-- TACK.CTL.CNT_CLR (R581). -/
def tackCntClrOp : State → State := clrAll [Reg.tackRestartCnt, Reg.tackLogLostCnt, Reg.tackFlashErrCnt]

end Sys2Proof.Machine
end

