-- ==== Sys2Proof/Machine/Access.lean ====
section
/-!
DEFINITION. Reads of the register space and of the stores (01_architecture.md R8, R10, R11, R30, R36; 11_stores_and_bobbins.md
R375; 13_modes_clocks_power.md R443; the register tables of every chapter): what each address reads as, and what a read
does.
-/

namespace Sys2Proof.Machine

/-! ### What a register reads as -/

/-- The instance of a block with `stride` that an address lies in, and the offset in it. -/
def inst (a base stride : Nat) : Nat := (a - base) / stride
def offs (a base stride : Nat) : Nat := (a - base) % stride

/-- A shuttle or heddle engine is halted by debug (R39). -/
def dbgHalt (s : State) : Bool :=
  ((upto 0 34).any fun e => rb s (Reg.shuDbg e) 8) || (upto 0 64).any fun e => rb s (Reg.hedDbg e) 8

/-- GCTL.STATE as it reads (R39). -/
def stateView (s : State) : Word :=
  setBit (wd ((upto 0 4).foldl (fun x t => x + b2n (trdState s t == 4) * 2 ^ t) 0 + (rget s Reg.gctlState).toNat / 16 * 16))
    6 (dbgHalt s)

/-- GCTL and FLT (R37, R604). -/
def gctlView (s : State) (a : Nat) : Word :=
  if a = Reg.gctlId then idView s
  else if a = Reg.gctlState then stateView s
  else if a = Reg.gctlTimeLo then wd s.time
  else if a = Reg.gctlTimeHi then wd (s.time / 2 ^ 32)
  else if 0x100 ≤ a ∧ a < 0x140 then pinlvlView s ((a - 0x100) / 4)
  else if 0x440 ≤ a ∧ a < 0x480 then polView s ((a - 0x440) / 4)
  else rget s a

/-- EVM (R419). -/
def evmView (s : State) (a : Nat) : Word :=
  if a = Reg.evmSts then wd (irqLevels s)
  else if a = Reg.evmPendLo then vecBits (vecPend s) 0
  else if a = Reg.evmPendHi then vecBits (vecPend s) 1
  else if a = Reg.evmMaskLo then vecBits (vecMask s) 0
  else if a = Reg.evmMaskHi then vecBits (vecMask s) 1
  else rget s a

/-- The context that SHU[e] shows (R129). -/
def viewCtx (s : State) (e : Nat) : Ctx := if rb s (Reg.shuDbg e) 2 then .express else .normal

/-- SHU[e] (R128, R130). -/
def shuView (s : State) (a : Nat) : Word :=
  let e := inst a 0x191000 0x100
  let o := offs a 0x191000 0x100
  let c := ctx s e (viewCtx s e)
  if o = 0x00 then setBit (rget s a) 1 (shuSt s e).step
  else if o = 0x04 then wd (c.pc % 2048)
  else if o = 0x08 then wd (b2n c.flags.v + 2 * b2n c.flags.c + 4 * b2n c.flags.z + 8 * b2n c.flags.n)
  else if o = 0x0C then c.sig.zeroExtend 32
  else if o = 0x10 then c.w
  else if o = 0x1C then
    wd (slotsHeld (shuSt s e) + (upto 0 16).foldl (fun x j => x + b2n (isPending c j) * 2 ^ (16 + j)) 0)
  else if 0x40 ≤ o ∧ o < 0x80 then gget c ((o - 0x40) / 4)
  else rget s a

/-- The descriptor word that an address of the task table window shows (R56, R77). -/
def taskKey (s : State) (a : Nat) : Nat := 16384 * rf s Reg.shedTtsel 4 1 + 4096 * rf s Reg.shedTtsel 0 2 + (a - 0x198000) / 4

/-- The code RAM word that an address of the code window shows (R120). -/
def codeWinKey (s : State) (a : Nat) : Nat := codeKey (rf s Reg.shedCrsel 0 6) (rf s Reg.shedCrsel 8 1) ((a - 0x194000) / 4)

/-- The tackler cannot execute commands (R542). -/
def tckBusy (s : State) : Bool := decide (mode s < 3) || restarting s || s.log.waking || decide (power s = 2)

/-- MBX.STS as it reads (R546). -/
def mbxStsView (s : State) : Word :=
  let h := s.host
  let w := setBit (rget s Reg.mbxSts) 1 (tckBusy s)
  let w := setFld (setFld w 8 7 (h.fg.length + b2n h.fgRun.isSome)) 16 7 (h.bg.length + b2n h.bgRun.isSome)
  setBit (setFld w 24 6 (match h.bgRun with | some c => c.slot | none => 0)) 30 h.bgRun.isSome

/-- TACK (R579): CTL.RESTART stays 1 until the restart that it began is over (R4). -/
def tackView (s : State) (a : Nat) : Word :=
  if a = Reg.tackLogFlseq then logFlseqView s
  else if Reg.tackChal 0 ≤ a ∧ a < Reg.tackUnlk 0 then chalView s ((a - Reg.tackChal 0) / 4)
  else if Reg.tackUnlk 0 ≤ a ∧ a < Reg.tackDbgctl then 0
  else if a = Reg.tackDbgctl then dbgctlView s
  else if a = Reg.tackCtl then setBit (rget s a) 0 (restarting s && rf s Reg.tackSts 16 3 == 3)
  else rget s a

/-- SHED.OVR_SUM and EXP_ABT_SUM (R74): bit e is bit `i` of SHED.ENG[e].ESTS. -/
def estsSum (s : State) (i : Nat) : Word := wd ((upto 0 32).foldl (fun x e => x + b2n (rb s (Reg.engEsts e) i) * 2 ^ e) 0)

/-- BOB[b].CTL as it reads: ABORT stays 1 until the transactions have returned that it waits for (R4, R390). -/
def bobCtlView (s : State) (b : Nat) : Word :=
  setBit (rget s (Reg.bobCtl b)) 1 (match (bobSt s b).ending with | some x => x.2.2 | none => false)

/-- The blocks below the channels' end (R35). -/
def viewLow (s : State) (a : Nat) : Word :=
  if a < 0x1000 then gctlView s a
  else if a < 0x1800 then pinownView s ((a - 0x1000) / 4)
  else if a < 0x10100 then evmView s a
  else if a < 0x14000 then (if offs a 0x10100 0x10 = 4 then vecStsView s (inst a 0x10100 0x10) else rget s a)
  else rget s a

/-- The blocks from the reed to the shed (R35). -/
def viewMid (s : State) (a : Nat) : Word :=
  if a < 0x140000 then
    let o := offs a 0x128000 0x40
    let k := inst a 0x128000 0x40
    if 0x128000 ≤ a ∧ o = 0x14 then reedStsView s k
    else if 0x128000 ≤ a ∧ o = 0x18 then reedLvl s k
    else rget s a
  else if a < 0x150000 then
    let t := inst a 0x140000 0x1000
    let o := offs a 0x140000 0x1000
    if o = 0x100 then trdStsView s t else if o = 0x104 then posPhase (phi s t s.time) else rget s a
  else if a < 0x160000 then
    (if offs a 0x150000 0x100 = 0x10 then posSpeedView s (inst a 0x150000 0x100) else rget s a)
  else if a < 0x170000 then
    let x := hedSt s (inst a 0x160000 0x100)
    match offs a 0x160000 0x100 with
    | 0x0C => setBit (rget s a) 1 x.step
    | 0x2C => x.rx.headD 0
    | _ => rget s a
  else if a = Reg.adcSts then adcStsView s
  else if 0x180000 ≤ a ∧ a < 0x181000 ∧ offs a 0x180000 0x40 = 0 then bobCtlView s (inst a 0x180000 0x40)
  else rget s a

/-- What the register at an address holds as a read shows it, without what the read does (R8, R36). -/
def regView (s : State) (a : Nat) : Word :=
  if (descAt a).isNone then 0
  else if a < 0x120000 then viewLow s a
  else if a < 0x190000 then viewMid s a
  else if a = Reg.shedOvrSum then estsSum s 8
  else if a = Reg.shedExpAbtSum then estsSum s 9
  else if 0x191000 ≤ a ∧ a < 0x194000 then shuView s a
  else if a = Reg.cardSts then cardStsView s
  else if a = Reg.cardSlotsts then slotStsView s
  else if a = Reg.mbxSts then mbxStsView s
  else if a = Reg.chgKeysts then keystsView s
  else if a = Reg.pwrSts then pwrStsView s
  else if 0x1C3000 ≤ a then tackView s a
  else rget s a

/-! ### Register pairs (R11) -/

/-- The registers that hold the low words of 64-bit quantities, as the register tables name them: the base of the low
register, stride and count. -/
def pairs : List (Nat × Nat × Nat) :=
  [(Reg.gctlTimeLo, 4, 1), (Reg.trdTtimeLo 0, 0x1000, 4), (Reg.posLatTLo 0, 0x100, 16), (Reg.bobSrcLo 0, 0x40, 32),
   (Reg.bobDstLo 0, 0x40, 32), (Reg.bobErrAddrLo 0, 0x40, 32), (Reg.shedPicknoLo, 4, 1), (Reg.shedPickTLo, 4, 1),
   (Reg.chgSwTLo, 4, 1)]

def isPairLo (a : Nat) : Bool :=
  pairs.any fun p => decide (p.1 ≤ a ∧ (a - p.1) % p.2.1 = 0 ∧ (a - p.1) / p.2.1 < p.2.2)
def isPairHi (a : Nat) : Bool := decide (4 ≤ a) && isPairLo (a - 4)

/-- The address of the low register of a pair of Operand.lean. -/
def pairAddr : RegPair → Nat
  | .pickno => Reg.shedPicknoLo
  | .pickT => Reg.shedPickTLo
  | .trdTtime t => Reg.trdTtimeLo t.val
  | .posLatT i => Reg.posLatTLo i.val
  | .bobSrc b => Reg.bobSrcLo b.val
  | .bobDst b => Reg.bobDstLo b.val
  | .bobErrAddr b => Reg.bobErrAddrLo b.val
  | .chgSwT => Reg.chgSwTLo

/-- A read of the low word captures the high one (R11). -/
def pairLoReadOp (a : Nat) (s : State) : Word × State :=
  (regView s a, { s with pairHi := tset s.pairHi a (regView s (a + 4)) })

/-- A read of the high word returns the captured one (R11). -/
def pairHiView (s : State) (a : Nat) : Word := tget (resetWord a) s.pairHi (a - 4)

/-! ### Blocks that are served -/

/-- The block of an address is served in the present mode and power level (R30, R443): GCTL and the mailbox with its slots
(R536) before IDLE, GCTL and PWR in SLUMBER (log entry 27). -/
def served (s : State) (a : Nat) : Bool :=
  let gctl := decide (a < 0x1800)
  if mode s = 0 then false
  else if mode s < 3 then
    gctl || decide (0x1C0000 ≤ a ∧ a < 0x1C0800) || decide (0x1B00000 ≤ a ∧ a < 0x1B01000)
  else if power s = 2 then gctl || decide (0x1C1000 ≤ a ∧ a < 0x1C2000)
  else true

/-- A host access in SLUMBER starts a wake (R443). -/
def hostWake (p : Path) (cause : Nat) (s : State) : State := if p = .tackler then s else wakeBegin cause s

/-! ### Reads -/

/-- A read of a register by its side effects: captures of R11, R274, R154, R295, R322, R363; else its view. -/
def sideRead (a : Nat) (s : State) : Word × State :=
  if isPairLo a then pairLoReadOp a s
  else if isPairHi a then (pairHiView s a, s)
  else if 0x100000 ≤ a ∧ a < 0x120000 ∧ a % 0x100 = 0x30 then capReadOp (inst a 0x100000 0x100) s
  else if 0x140000 ≤ a ∧ a < 0x144000 ∧ a % 0x1000 = 0x104 then phaseReadOp (inst a 0x140000 0x1000) s
  else if 0x150000 ≤ a ∧ a < 0x151000 ∧ a % 0x100 = 0x3C then latPosReadOp (inst a 0x150000 0x100) s
  else if 0x160000 ≤ a ∧ a < 0x164000 ∧ a % 0x100 = 0x2C then rxRead (inst a 0x160000 0x100) s
  else if Reg.adcSlot 0 ≤ a ∧ a < 0x171100 then slotReadOp ((a - Reg.adcSlot 0) / 4) s
  else if a = Reg.pwrDozeRes ∨ a = Reg.pwrSlumberRes then let s := resSync s; (rget s a, s)
  else (regView s a, s)

/-- A read of one word at an address (R10, R30, R36, R56, R120, R375, R443). -/
def readDw (p : Path) (a : Nat) (s : State) : Word × State :=
  let s := if power s = 2 then hostWake p 3 s else s
  if !served s a || isHole a then (0, s)
  else if inStore a then
    let r := checkRead (pathReader p) a 4 s
    if r.1 && p != .tackler then (0xFFFFFFFF#32, r.2) else (wd (portN (pathReader p) s a 4), r.2)
  else if inTaskWin a then (tget 0 s.tasks (taskKey s a), s)
  else if inCodeWin a then (tget 0 s.code (codeWinKey s a), s)
  else if (descAt a).isNone then (0, s)
  else sideRead a s

end Sys2Proof.Machine
end

