-- ==== Sys2Proof/Machine/Locks.lean ====
section
/-!
DEFINITION. Writes that are refused (16_host_port.md R535, R536): holes, narrow writes, writes to a locked register in a
mode or state in which its rule does not accept them, and reserved encodings (01_architecture.md R9).
-/

namespace Sys2Proof.Machine

/-- A write would change a bit of the mask `m` of the register. -/
def changes (s : State) (a : Nat) (v m : Word) : Bool := (v ^^^ rget s a) &&& m != 0

/-! ### Locked registers -/

/-- GCTL with FLT, and PINOWN, in every mode (R27, R30, R41, R602, R606). -/
def lockGctl (s : State) (a : Nat) (v : Word) : Bool :=
  if 0x1000 ≤ a then false
  else if a = Reg.gctlCtl then changes s a v 3 && !idleOrMaint s
  else if a = Reg.gctlPinctl then bit v 0 && !idleOrMaint s
  else if a = Reg.gctlCfg then
    (changes s a v 0xFF01 && !idleOrMaint s) ||
      (changes s a v 0x80000000 && !(decide (mode s = 9) && (!s.fuse.secure || dbgOpen s)))
  else if a = Reg.gctlInj then bit v 31 && !rb s Reg.gctlCfg 31
  else if 0x440 ≤ a ∧ a < 0x480 then !idleOrMaint s
  else false

/-- CH[n] (R151, R169): CTL outside IDLE and MAINTENANCE only with its fields as they are. -/
def lockCh (s : State) (a : Nat) (v : Word) : Bool :=
  let o := offs a 0x100000 0x100
  !idleOrMaint s && (if o = 0 then changes s a v 0x1FFF else decide (o = 0x38 ∨ o = 0x3C ∨ o = 0x40 ∨ o = 0x44 ∨ o = 0x48))

/-- HARN[h] (R133, R202). -/
def lockHarn (s : State) (a : Nat) : Bool :=
  let o := offs a 0x120000 0x100
  let h := inst a 0x120000 0x100
  if o = 0 then !idleOrMaint s || (upto (8 * h) 8).any fun n => chMode s n != 0
  else decide (0x10 ≤ o ∧ o < 0x20) && !idleOrMaint s

/-- REED[k] (R202). -/
def lockReed (s : State) (a : Nat) (v : Word) : Bool :=
  let o := offs a 0x128000 0x40
  !idleOrMaint s && (if o = 0 then changes s a v 1 else decide (o ≤ 0x10))

/-- TRD[t] (R272). -/
def lockTrd (s : State) (a : Nat) (v : Word) : Bool :=
  let t := inst a 0x140000 0x1000
  let o := offs a 0x140000 0x1000
  let en := rb s (Reg.trdCtl t) 0
  if o = 0 then !idleOrMaint s || (en && changes s a v 0x1FFE)
  else if o ∈ [0x04, 0x08, 0x0C, 0x2C, 0x30, 0x38, 0x3C, 0x40] ∨ 0x60 ≤ o ∧ o < 0x80 ∨ 0x800 ≤ o then !idleOrMaint s || en
  else if o = 0x140 then changes s a v 7 && !idleOrMaint s
  else decide (o = 0x144) && !idleOrMaint s

/-- POS[p] (R289, R303). -/
def lockPos (s : State) (a : Nat) (v : Word) : Bool :=
  let i := inst a 0x150000 0x100
  let o := offs a 0x150000 0x100
  let en := rb s (Reg.posCtl i) 0
  if o = 0 then (changes s a v 0x1E && (!idleOrMaint s || en)) || ((changes s a v 1 || bit v 9) && !idleOrMaint s)
  else o ∈ [0x04, 0x28, 0x2C, 0x30, 0x60, 0x64, 0x68, 0x6C, 0x70, 0x74, 0x78, 0x7C, 0x88] && (!idleOrMaint s || en)

/-- HED[e] (R324, R331, R339, R577). -/
def lockHed (s : State) (a : Nat) (v : Word) : Bool :=
  let e := inst a 0x160000 0x100
  let o := offs a 0x160000 0x100
  if o = 0 then bit v 1 && !hedStopped s e
  else if o = 0x08 ∨ o = 0x10 ∨ o = 0x14 then !dbgOpen s || !(rb s (Reg.hedDbg e) 8 || hedStopped s e)
  else if o = 0x0C then !dbgOpen s
  else decide (o = 0x34 ∨ o = 0x38) && !idleOrMaint s

/-- WIN[w] and ADC (R365). -/
def lockWin (s : State) (a : Nat) (v : Word) : Bool :=
  !idleOrMaint s &&
    (if a < 0x171000 then offs a 0x170000 0x40 ∈ [0x00, 0x08, 0x0C]
     else if a = Reg.adcCtl then changes s a v 3
     else if a = Reg.adcChk ∨ a = Reg.adcRqBase ∨ a = Reg.adcRqSize then true
     else decide (Reg.adcTrg 0 ≤ a ∧ a < Reg.adcRqBase ∨ Reg.adcSlot 0 ≤ a))

/-- BOB[b] and BOBC (R392, R400): while START = 1 only ABORT, and a START that changes nothing, which has no further
effect (R7). -/
def lockBob (s : State) (a : Nat) (v : Word) : Bool :=
  if a < 0x181000 then
    let b := inst a 0x180000 0x40
    bobRuns s b && (decide (offs a 0x180000 0x40 ≠ 0) || !(bit v 1 || (bit v 0 && !changes s a v 0x3FFFFFFC)))
  else decide (Reg.bobcHqCfg 0 ≤ a ∧ a % 8 = 0) && hqBusy s ((a - Reg.bobcHqCfg 0) / 8)

/-- STORE (R396). -/
def lockStore (s : State) (a : Nat) (v : Word) : Bool :=
  !idleOrMaint s && (if a = Reg.storeCtl then changes s a v 1 else decide (Reg.storeCbwBase 0 ≤ a))

/-- SHED, ENG[e] and SHU[e] (R46, R75, R79, R124, R127, R577). -/
def lockShed (s : State) (a : Nat) (v : Word) : Bool :=
  if a = Reg.shedCtl then changes s a v 1 && decide (mode s ≠ 9)
  else if a = Reg.shedPicklen then !idleOrMaint s
  else if a < 0x190400 then false
  else if a < 0x191000 then offs a 0x190400 0x20 ∈ [0x08, 0x0C, 0x10] && !idleOrMaint s
  else
    let e := inst a 0x191000 0x100
    let o := offs a 0x191000 0x100
    if o = 0 then !dbgOpen s || (bit v 0 && decide (32 ≤ e))
    else if o = 0x04 ∨ o = 0x08 ∨ 0x40 ≤ o ∧ o < 0x80 then !dbgOpen s || !rb s (Reg.shuDbg e) 8
    else decide (0x80 ≤ o) && !dbgOpen s

/-- CARD (R242). -/
def lockCard (s : State) (a : Nat) (v : Word) : Bool :=
  !idleOrMaint s && (if a = Reg.cardCtl then changes s a v 1 else decide (a = Reg.cardCrBase ∨ a = Reg.cardCrSize))

/-- SEL (R519). -/
def lockSel (s : State) (a : Nat) (v : Word) : Bool :=
  let shut := !idleOrMaint s || selOn s
  if a = Reg.selCtl then (changes s a v 1 && !idleOrMaint s) || (changes s a v 0xF33F02 && shut)
  else decide (a = Reg.selRper ∨ a = Reg.selBsrc ∨ (Reg.selLevsrc 0 ≤ a ∧ a < Reg.selCvCnt)) && shut

/-- MBX, CHG, PWR, HOST and TACK (R436, R451, R489, R549, R577, R581). -/
def lockTop (s : State) (a : Nat) (v : Word) : Bool :=
  if a = Reg.pwrCtl then changes s a v 0xF && !idleOrMaint s
  else if a = Reg.pwrClkctl then bit v 0 && !(idleOrMaint s && rb s Reg.pwrClksts 3)
  else if a = Reg.tackCtl then bit v 0 && !idleOrMaint s
  else if a = Reg.tackDbgctl then s.fuse.secure && bit v 0 && !dbgOpen s
  else a ∈ [Reg.chgDrainMax, Reg.pwrDwell, Reg.pwrBankslpLo, Reg.pwrBankslpHi, Reg.hostCfg, Reg.tackTempCfg, Reg.tackLogCtl] &&
    !idleOrMaint s

/-- The task table window (R56) and the code window (R120). -/
def lockWindow (s : State) (a : Nat) : Bool :=
  let chg := rb s Reg.gctlState 5
  if inTaskWin a then
    if rf s Reg.shedTtsel 4 1 = rf s Reg.shedTtsel 8 1 then decide (mode s ≠ 9) else !idleOrMaint s || chg
  else
    let e := rf s Reg.shedCrsel 0 6
    if 32 ≤ e then true
    else if rf s Reg.shedCrsel 8 1 = rf s (Reg.engEsts e) 11 1 then
      decide (mode s ≠ 9) || !(rb s (Reg.shuDbg e) 8 || !rb s Reg.shedCtl 0)
    else !idleOrMaint s || chg

/-- A store write of a path is refused (R368, R243). -/
def lockMem (s : State) (a : Nat) : Bool :=
  (decide (0x1800000 ≤ a ∧ a < 0x1A00000) && decide (mode s ≠ 9)) ||
    (rb s Reg.gctlState 5 && inPhysHalf (1 - patHalf s) a)

/-- Before IDLE, only these writes outside GCTL are accepted: MBX.DB, STS, DONE and CTL, HOST.STS and CTL, the slots (R30,
R549). -/
def early (a : Nat) : Bool :=
  decide (0x1C0000 ≤ a ∧ a < 0x1C0800) || decide (a = Reg.hostSts ∨ a = Reg.hostCtl) ||
    decide (0x1B00000 ≤ a ∧ a < 0x1B01000)

/-- A reserved offset of a listed range: no register and no word of a window (R8). -/
def reservedOffset (a : Nat) : Bool := (descAt a).isNone && !inTaskWin a && !inCodeWin a

/-- A write of a full register or word at an address that is no hole is locked (R535, and R30, R443). A reserved offset
ignores what is written to it (R8). -/
def locked (s : State) (a : Nat) (v : Word) : Bool :=
  if mode s = 0 then true
  else if a < 0x1800 then lockGctl s a v
  else if !live s then !early a
  else if power s = 2 ∧ !(served s a) ∧ a ≠ Reg.mbxDb then true
  else if inStore a then lockMem s a
  else if reservedOffset a ∨ a < 0x100000 then false
  else if a < 0x120000 then lockCh s a v
  else if a < 0x128000 then lockHarn s a
  else if a < 0x140000 then lockReed s a v
  else if a < 0x150000 then lockTrd s a v
  else if a < 0x160000 then lockPos s a v
  else if a < 0x170000 then lockHed s a v
  else if a < 0x180000 then lockWin s a v
  else if a < 0x188000 then lockBob s a v
  else if a < 0x190000 then lockStore s a v
  else if a < 0x194000 then lockShed s a v
  else if a < 0x1A0000 then lockWindow s a
  else if a < 0x1B0000 then lockCard s a v
  else if a < 0x1C0000 then lockSel s a v
  else lockTop s a v

/-! ### Reserved encodings (R9) -/

/-- FLT (R602, R605) and PINOWN (R24). -/
def rsvGctl (s : State) (a : Nat) (v : Word) : Bool :=
  if a = Reg.gctlCfg then decide (fld v 8 8 < 4)
  else if a = Reg.gctlInj then
    decide (9 < fld v 0 4) || (bit v 31 && !injValid (fld v 0 4) (rn s Reg.gctlInjArg))
  else if 0x440 ≤ a ∧ a < 0x480 then polReserved ((a - 0x440) / 4) v
  else decide (0x1000 ≤ a ∧ fld v 0 2 = 3)

/-- CH[n] (R164, R166, R149). -/
def rsvCh (s : State) (a : Nat) (v : Word) : Bool :=
  let o := offs a 0x100000 0x100
  if o = 0 then chCtlReserved s (inst a 0x100000 0x100) v
  else if o = 0x38 then decide (2 ≤ fld v 0 2)
  else decide (o = 0x3C ∧ fld v 0 8 = 0)

/-- HARN[h].TRIP (R182, R197). -/
def tripReserved (v : Word) : Bool :=
  match fld v 0 2 with
  | 2 => decide (63 < fld v 4 9)
  | 3 => decide (31 < fld v 4 9 + fld v 24 3)
  | _ => false

/-- REED[k].PINA and PINB (R200). -/
def pinReserved (v : Word) : Bool := decide (fld v 0 2 = 3 ∨ fld v 4 2 = 3)

/-- TRD[t] (R247, R252, R255, R263, R269). -/
def rsvTrd (s : State) (a : Nat) (v : Word) : Bool :=
  let t := inst a 0x140000 0x1000
  match offs a 0x140000 0x1000 with
  | 0x00 => decide (fld v 1 2 = 3)
  | 0x10 => decide (fld v 0 10 = 0)
  | 0x18 => decide (fld v 16 16 < fld v 0 16)
  | 0x1C => decide (fld v 0 4 < 2)
  | 0x144 => !decide (0x1A00000 ≤ v.toNat ∧ v.toNat % 16384 = 0 ∧ v.toNat + 16384 ≤ 0x1B00000)
  | 0x14C => rb s (Reg.trdTrCtl t) 1 && !trRdValid s t (fld v 0 10)
  | _ => false

/-- POS[p] (R288, R292, R305 to R307). -/
def rsvPos (s : State) (a : Nat) (v : Word) : Bool :=
  let i := inst a 0x150000 0x100
  match offs a 0x150000 0x100 with
  | 0x00 => decide (fld v 2 2 = 3)
  | 0x04 => decide (fld v 0 6 = 0)
  | 0x18 => decide (limHi s i < toSigned 32 v.toNat)
  | 0x1C => decide (toSigned 32 v.toNat < limLo s i)
  | 0x24 => decide (v.toNat < 16)
  | 0x20 => decide (fld v 4 4 = 0 ∨ fld v 8 4 = 0 ∨ 4 < fld v 12 3)
  | 0x28 => decide (fld v 0 2 = 3)
  | 0x60 => decide (fld v 0 12 < 8)
  | 0x64 => decide (16 < fld v 26 5)
  | 0x6C => decide (fld v 12 2 = 3)
  | _ => false

/-- HED[e].MARKS (R336). -/
def rsvHed (a : Nat) (v : Word) : Bool :=
  decide (offs a 0x160000 0x100 = 0x34) &&
    (decide (3 < fld v 0 3) || (bit v 11 && decide (fld v 8 3 = 0 ∨ 4 < fld v 8 3)))

/-- ADC (R363, R364). -/
def rsvAdc (s : State) (a : Nat) (v : Word) : Bool :=
  if a = Reg.adcChk then decide (fld v 0 16 = 0)
  else if a = Reg.adcRqBase then !rqRingValid v.toNat (rn s Reg.adcRqSize)
  else if a = Reg.adcRqSize then !rqRingValid (rn s Reg.adcRqBase) v.toNat
  else if a = Reg.adcRqRd then !rqRdValid s (fld v 0 16)
  else if Reg.adcTrg 0 ≤ a ∧ a < Reg.adcRqBase then decide (31 < fld v 16 5 + fld v 24 5)
  else decide (Reg.adcSlot 0 ≤ a ∧ 0x82 < fld v 0 8)

/-- BOB[b] and BOBC (R397 to R400). -/
def rsvBob (s : State) (a : Nat) (v : Word) : Bool :=
  if a < 0x181000 then
    let b := inst a 0x180000 0x40
    match offs a 0x180000 0x40 with
    | 0x00 => !bobRuns s b && bobCtlReserved s b v
    | 0x3C => decide (fld v 0 4 = 0 ∨ 8 < fld v 0 4)
    | _ => false
  else if a = Reg.bobcOtTotal then decide (fld v 0 7 = 0 ∨ 64 < fld v 0 7)
  else if Reg.bobcQm 0 ≤ a ∧ a < Reg.bobcHqCfg 0 then decide (fld v 0 16 = 0 ∨ fld v 0 16 ≤ fld v 16 16)
  else decide (Reg.bobcHqCfg 0 ≤ a ∧ a % 8 = 0) && hqCfgReserved v

/-- STORE (R377, R394): a window that is neither unused nor valid, in either register of it. -/
def rsvStore (s : State) (a : Nat) (v : Word) : Bool :=
  if a = Reg.storeMtCtl then decide (2 ≤ fld v 8 2)
  else if Reg.storeCbwBase 0 ≤ a then
    let w := (a - Reg.storeCbwBase 0) / 8
    if a % 8 = 0 then decide (cbwSize s w ≠ 0) && !cbwValid v.toNat (cbwSize s w)
    else decide (fld v 3 21 ≠ 0) && !cbwValid (cbwBase s w) (8 * fld v 3 21)
  else false

/-- A pick length (R44): 200 to 6,400 in steps of 8. -/
def lenValid (x : Nat) : Bool := decide (200 ≤ x ∧ x ≤ 6400 ∧ x % 8 = 0)

/-- SHED (R76, R77). -/
def rsvShed (a : Nat) (v : Word) : Bool :=
  if a = Reg.shedPicklen then !lenValid (fld v 0 13) || (decide (fld v 16 13 ≠ 0) && !lenValid (fld v 16 13))
  else decide (a = Reg.shedCrsel ∧ 33 < fld v 0 6)

/-- CARD (R242). -/
def rsvCard (s : State) (a : Nat) (v : Word) : Bool :=
  if a = Reg.cardCrBase then !crRingValid v.toNat (rn s Reg.cardCrSize)
  else if a = Reg.cardCrSize then !crRingValid (rn s Reg.cardCrBase) v.toNat
  else decide (a = Reg.cardCrRd) && !crRdValid s (fld v 0 16)

/-- SEL (R518, R519). -/
def rsvSel (s : State) (a : Nat) (v : Word) : Bool :=
  decide (a = Reg.selCtl) &&
    (decide (fld v 16 2 = 3) || decide (fld v 20 4 ≠ 1 ∧ fld v 20 4 ≠ 2) ||
      (bit v 0 && !rperValid (rset Reg.selCtl v s) (rf s Reg.selRper 0 13)))

/-- A write carries a reserved encoding (R9). -/
def reserved (s : State) (a : Nat) (v : Word) : Bool :=
  if reservedOffset a then false
  else if a < 0x1800 then rsvGctl s a v
  else if a < 0x100000 then false
  else if a < 0x120000 then rsvCh s a v
  else if a < 0x128000 then decide (0x10 ≤ offs a 0x120000 0x100 ∧ offs a 0x120000 0x100 < 0x20) && tripReserved v
  else if a < 0x140000 then decide (offs a 0x128000 0x40 = 0x0C ∨ offs a 0x128000 0x40 = 0x10) && pinReserved v
  else if a < 0x150000 then rsvTrd s a v
  else if a < 0x160000 then rsvPos s a v
  else if a < 0x170000 then rsvHed a v
  else if a < 0x171000 then false
  else if a < 0x180000 then rsvAdc s a v
  else if a < 0x188000 then rsvBob s a v
  else if a < 0x190000 then rsvStore s a v
  else if a < 0x1A0000 then rsvShed a v
  else if a < 0x1B0000 then rsvCard s a v
  else if a < 0x1C0000 then rsvSel s a v
  else false

/-! ### What a refusal does -/

/-- LOCK_ADDR's path numbers (R547). -/
def pathCode : Path → Nat
  | .pcie => 0
  | .spi => 1
  | .tackler => 2

/-- A write of path p has been dropped or has failed: DROP of the next SPI frame reports one of its own path (R533). -/
def dropNote (p : Path) (s : State) : State :=
  if p = .spi then { s with host := { s.host with spiDrop := true } } else s

/-- A write to a locked register (R535). -/
def lockDrop (p : Path) (a : Nat) (v : Word) (s : State) : State :=
  let s := count Reg.hostLockCnt s
  let s := rset Reg.hostLockAddr (wd (a % 2 ^ 26 + 2 ^ 28 * pathCode p)) s
  let s := flagRaise Reg.hostSts 16 2882 s
  dropNote p (logLocked (rget s Reg.hostLockAddr) v s)

/-- A write at a hole (R36). -/
def holeDrop (p : Path) (s : State) : State := dropNote p (raise 2881 (count Reg.gctlHoleCnt s))

/-- A write with a reserved encoding (R9). -/
def rsvDrop (p : Path) (s : State) : State := dropNote p (raise 2880 (count Reg.gctlRsvCnt s))

end Sys2Proof.Machine
end

