-- ==== Sys2Proof/Machine/Bus.lean ====
section
/-!
DEFINITION. Writes of registers and stores from the outside (16_host_port.md R526, R535, R536; the register tables of every
chapter): what an accepted write does, and the order of the checks.
-/

namespace Sys2Proof.Machine

/-! ### Storing a write -/

/-- The write is stored by the access codes of the register (R4 to R8): RW bits take the value, W1C bits are cleared by a 1;
SC bits are not stored here. -/
def storeWord (a : Nat) (v : Word) (s : State) : State :=
  match descAt a with
  | none => s
  | some d =>
    let rw := wd d.rw
    clearBits a (v &&& wd d.w1c) (rset a ((rget s a &&& ~~~ rw) ||| (v &&& rw)) s)

/-- Bits [hi:lo] of a W1C write, as the list of those that are 1. -/
def ones (v : Word) (n : Nat) : List Nat := (upto 0 n).filter fun i => bit v i

/-! ### GCTL, FLT, PINOWN -/

/-- GCTL and FLT. With CHECK_EN = 0 the checks under way are off too (R40, R584). -/
def writeGctl (a : Nat) (v : Word) (s : State) : State :=
  if a = Reg.gctlCtl then
    let s := when_ (bit v 8) (clrAll [Reg.gctlRsvCnt, Reg.gctlHoleCnt]) (storeWord a v s)
    when_ (!checkOn s) (modFlt fun f => { f with slots := [], arb := none, oor := [], rbPins := [] }) s
  else if a = Reg.gctlLoadall then when_ (bit v 0) loadEvery s
  else if a = Reg.gctlPinctl then when_ (bit v 0) commitOp s
  else if a = Reg.gctlSts then when_ (bit v 31) fltCntClrOp (storeWord a v s)
  else if a = Reg.gctlInj then
    let s := storeWord a v s
    when_ (bit v 31) (injectOp (fld v 0 4) (rn s Reg.gctlInjArg)) s
  else storeWord a v s

/-! ### EVM, VEC, SRCT -/

def writeEvm (a : Nat) (v : Word) (s : State) : State :=
  if a = Reg.evmCtl then when_ (bit v 8) evmCntClrOp s
  else if a = Reg.evmPendLo then forEach (ones v 32) vecClear s
  else if a = Reg.evmPendHi then forEach (ones v 32) (fun j => vecClear (32 + j)) s
  else if a = Reg.evmMaskLo then writeMask 0 v s
  else if a = Reg.evmMaskHi then writeMask 1 v s
  else if 0x10100 ≤ a ∧ a < 0x10500 then
    let j := inst a 0x10100 0x10
    match offs a 0x10100 0x10 with
    | 0 => writeVecCtl j v s
    | 4 => writeVecSts j v s
    | _ => s
  else storeWord a v s

/-! ### CH, HARN, REED -/

/-- CH[n].CTL: leaving CARD_OUT ends what its running pulses do (R225). -/
def chCtlWrite (n : Nat) (v : Word) (s : State) : State :=
  writeChCtl n v (when_ (decide (chMode s n = 9 ∧ fld v 0 4 = 0)) (leftCardOut n) s)

def writeCh (a : Nat) (v : Word) (s : State) : State :=
  let n := inst a 0x100000 0x100
  match offs a 0x100000 0x100 with
  | 0x00 => chCtlWrite n v s
  | 0x04 => writeChSts n v s
  | 0x10 => liveWrite n 0 a v s
  | 0x14 => writeCompare n a v s
  | 0x18 => writeCompare n a v s
  | 0x1C => liveWrite n 3 a (v &&& 0x1F1F#32) s
  | 0x20 => writeStaged n 0 a v s
  | 0x24 => writeStaged n 1 a v s
  | 0x28 => writeStaged n 2 a v s
  | 0x2C => writeStaged n 3 a (v &&& 0x1F1F#32) s
  | 0x3C => enterIndet n (storeWord a v s)
  | 0x40 => writeEvcfg n v s
  | _ => storeWord a v s

/-- TRIPSTS (R188, R198): a flag whose input is active is not cleared; CNT_CLR. -/
def tripStsWrite (h : Nat) (v : Word) (s : State) : State :=
  let live := fld (rget s (Reg.harnTripsts h)) 8 4
  let s := storeWord (Reg.harnTripsts h) (setFld v 0 4 (fld v 0 4 &&& (15 - live))) s
  when_ (bit v 31) (clr (Reg.harnSuppCnt h)) s

def writeHarn (a : Nat) (v : Word) (s : State) : State :=
  let h := inst a 0x120000 0x100
  let o := offs a 0x120000 0x100
  let i := (o - 0x10) / 4
  if o = 0x00 then writePresc h v s
  else if o = 0x04 then when_ (bit v 0) (loadHarness h) s
  else if o = 0x08 then when_ (bit v 0) (loadNowOp h) s
  else if o = 0x20 then tripStsWrite h v s
  else if 0x10 ≤ o ∧ o < 0x20 then
    tripRewrite h i (tripMask s h i) (rb s (Reg.harnTripsts h) (8 + i)) (storeWord a v s)
  else storeWord a v s

def writeReed (a : Nat) (v : Word) (s : State) : State :=
  let k := inst a 0x128000 0x40
  if offs a 0x128000 0x40 = 0 then
    let s := refreshPair k (nowInst s) (storeWord a v s)
    when_ (bit v 8) (clrAll [Reg.reedCutCnt k, Reg.reedBlnkCnt k, Reg.reedSwlCnt k]) s
  else storeWord a v s

/-! ### TRD, POS -/

/-- TRD[t].CTL: EN starts or stops the tracker (R254). -/
def trdCtlWrite (t : Nat) (v : Word) (s : State) : State :=
  let was := rb s (Reg.trdCtl t) 0
  let s := storeWord (Reg.trdCtl t) v s
  if bit v 0 && !was then trackEnable t s else if !bit v 0 && was then trackDisable t s else s

/-- A ring starts anew: its pointers are 0 (R272, R242). -/
def ringZero (wr rd : Nat) (s : State) : State := zeroAll [wr, rd] s

def writeTrd (a : Nat) (v : Word) (s : State) : State :=
  let t := inst a 0x140000 0x1000
  match offs a 0x140000 0x1000 with
  | 0x000 => trdCtlWrite t v s
  | 0x100 => when_ (bit v 31) (trdCntClrOp t) (storeWord a v s)
  | 0x140 =>
    let new := changes s a v 7
    when_ new (ringZero (Reg.trdTrWr t) (Reg.trdTrRd t)) (storeWord a v s)
  | 0x144 => ringZero (Reg.trdTrWr t) (Reg.trdTrRd t) (storeWord a v s)
  | _ => storeWord a v s

/-- POS[p].CTL: EN, START, LOAD and LATCH (R279, R289, R294, R300). START reads 1 until the start, and a second one until then has
no effect (R4, R7). -/
def posCtlWrite (i : Nat) (v : Word) (s : State) : State :=
  let was := posOn s i
  let s := storeWord (Reg.posCtl i) v s
  let s := if bit v 0 && !was then posEnableOp i s else if !bit v 0 && was then posDisableOp i (setb (Reg.posCtl i) 0 true s) else s
  let s := when_ (bit v 9) (posLoadOp i) s
  let s := when_ (bit v 8 && posOn s i && posSerial s i && !rb s (Reg.posCtl i) 8)
    (fun s => setb (Reg.posCtl i) 8 true (schedule (s.time + 2) (.arrive (.posFrame i))
      (modPos i (fun x => { x with startAt := some (s.time + 2) }) s))) s
  when_ (bit v 10 && posOn s i) (takeLatch i (32 * s.time)) s

def writePos (a : Nat) (v : Word) (s : State) : State :=
  let i := inst a 0x150000 0x100
  match offs a 0x150000 0x100 with
  | 0x00 => posCtlWrite i v s
  | 0x08 => when_ (bit v 31) (posCntClrOp i) (storeWord a v s)
  | 0x18 => clampPosition i (storeWord a v s)
  | 0x1C => clampPosition i (storeWord a v s)
  | 0x20 => clampPosition i (restartHist i (storeWord a v s))
  | _ => storeWord a v s

/-! ### HED, WIN, ADC -/

/-- HED[e].CTL (R324, R325). -/
def hedCtlWrite (e : Nat) (v : Word) (s : State) : State :=
  let s := when_ (bit v 1) (fifoClrOp e) s
  let was := rb s (Reg.hedCtl e) 0
  if bit v 0 && !was then hedStartOp e s else if !bit v 0 && was then hedStopOp e s else s

/-- HED[e].DBG (R331): HALT and STEP. -/
def hedDbgWrite (e : Nat) (v : Word) (s : State) : State :=
  let was := rb s (Reg.hedDbg e) 0
  let s := if bit v 0 && !was then hedHaltOp e s else if !bit v 0 && was then hedResumeOp e s else s
  when_ (bit v 1 && rb s (Reg.hedDbg e) 8) (modHed e fun x => { x with step := true }) s

/-- HED[e].EXEC (R331): another PC ends the stall of the instruction that was there. -/
def hedExecWrite (e : Nat) (v : Word) (s : State) : State :=
  let s' := storeWord (Reg.hedExec e) v s
  if hedPc s' e = hedPc s e then s' else modHed e (fun x => { x with stall := none }) s'

def writeHed (a : Nat) (v : Word) (s : State) : State :=
  let e := inst a 0x160000 0x100
  match offs a 0x160000 0x100 with
  | 0x00 => hedCtlWrite e v s
  | 0x04 => when_ (bit v 31) (hedCntClrOp e) (storeWord a v s)
  | 0x08 => hedExecWrite e v s
  | 0x0C => hedDbgWrite e v s
  | 0x10 => rset a v s
  | 0x14 => rset a v s
  | 0x28 => txWrite e v s
  | _ => storeWord a v s

/-- WIN[w].STS (R362): its W1C bits and CNT_CLR. -/
def winStsWrite (w : Nat) (v : Word) (s : State) : State :=
  when_ (bit v 31) (clr (Reg.winExitCnt w)) (storeWord (Reg.winSts w) v s)

def writeWin (a : Nat) (v : Word) (s : State) : State :=
  let w := inst a 0x170000 0x40
  match offs a 0x170000 0x40 with
  | 0x04 => winStsWrite w v s
  | 0x08 => writeCmp (2 * w) v s
  | 0x0C => writeCmp (2 * w + 1) v s
  | 0x10 => writeThresh (2 * w) v s
  | 0x14 => writeThresh (2 * w + 1) v s
  | _ => storeWord a v s

def writeAdc (a : Nat) (v : Word) (s : State) : State :=
  if a = Reg.adcCtl then
    let was := rb s a 1
    let s := when_ (bit v 8) adcCntClrOp (storeWord a v s)
    when_ (bit v 1 && !was) (modAdc fun x => { x with rbAt := s.time + 1 }) s
  else if a = Reg.adcRqBase ∨ a = Reg.adcRqSize then ringZero Reg.adcRqWr Reg.adcRqRd (storeWord a v s)
  else storeWord a v s

/-! ### BOB, BOBC, STORE -/

/-- BOB[b].CTL (R387, R390, R392): a running bobbin takes ABORT alone. -/
def bobCtlWrite (b : Nat) (v : Word) (s : State) : State :=
  if bobRuns s b then when_ (bit v 1) (bobEnd b 0 0 true) s
  else when_ (bit v 0) (bobStartOp b) (storeWord (Reg.bobCtl b) v s)

def writeBob (a : Nat) (v : Word) (s : State) : State :=
  let b := inst a 0x180000 0x40
  match offs a 0x180000 0x40 with
  | 0x00 => bobCtlWrite b v s
  | 0x04 => when_ (bit v 31) (bobCntClrOp b) (storeWord a v s)
  | _ => storeWord a v s

def writeBobc (a : Nat) (v : Word) (s : State) : State :=
  if a = Reg.bobcCtl then when_ (bit v 8) (clr Reg.bobcLinkdropCnt) s
  else if Reg.bobcHqCfg 0 ≤ a ∧ a % 8 = 4 then writeHqPtr ((a - Reg.bobcHqPtr 0) / 8) v s
  else storeWord a v s

def writeStore (a : Nat) (v : Word) (s : State) : State :=
  if a = Reg.storeCtl then when_ (bit v 8) storeCntClrOp (storeWord a v s)
  else if a = Reg.storeMtCtl then
    when_ (bit v 16) (mtRequest (fld v 8 2) (fld v 0 6)) (storeWord a v s)
  else storeWord a v s

/-! ### SHED, SHU, CARD -/

/-- SHED.CTL.CNT_CLR (R75, R81). -/
def shedCntClrOp (s : State) : State :=
  let s := clrAll [Reg.shedMergeCnt, Reg.shedExpMergeCnt, Reg.shedAlignCnt, Reg.shedDescErr] s
  forEach (upto 0 34) (fun e s =>
    setf (Reg.engUsed e) 16 13 0 (clrAll [Reg.engOvrCnt e, Reg.engSkipCnt e, Reg.engExpLat e] s)) s

def writeShed (a : Nat) (v : Word) (s : State) : State :=
  let sum := fun i => forEach (ones v 32) (fun e => clearBits (Reg.engEsts e) (setBit 0 i true)) s
  if a = Reg.shedCtl then when_ (bit v 8) shedCntClrOp (storeWord a v s)
  else if a = Reg.shedOvrSum then sum 8
  else if a = Reg.shedExpAbtSum then sum 9
  else storeWord a v s

/-- HALT of SHU[e] is set (R124): ESTS shows it, and the halt itself comes at the next instruction boundary. -/
def shuHaltOp (e : Nat) (s : State) : State := setb (Reg.shuDbg e) 0 true s

/-- SHU[e].DBG (R124, R125, R129). DESIGN CHOICE (log entry 33): a STEP on an engine whose active context has no task ends HALTED and waits
for its next instruction; a write with STEP = 1 and HALT = 0 resumes and makes no step; BRK_HIT stays over a later halt by
HALT until it is cleared. -/
def shuDbgWrite (e : Nat) (v : Word) (s : State) : State :=
  let was := rb s (Reg.shuDbg e) 0
  let halted := rb s (Reg.shuDbg e) 8
  let s := setb (Reg.shuDbg e) 2 (bit v 2) s
  let s := when_ (bit v 12) (clearBits (Reg.shuDbg e) (setBit 0 12 true)) s
  let s := if bit v 0 && !was then shuHaltOp e s else if !bit v 0 && was then shuResumeOp e s else s
  when_ (bit v 1 && bit v 0 && halted)
    (fun s => unhalt e (modShu e (fun u => { u with step := true }) s)) s

def writeShu (a : Nat) (v : Word) (s : State) : State :=
  let e := inst a 0x191000 0x100
  let o := offs a 0x191000 0x100
  let x := viewCtx s e
  if o = 0 then shuDbgWrite e v s
  else if o = 0x04 then
    let s := when_ (x == active s e) (modShu e fun u => { u with skipBrk := false, brkStop := false }) s
    modCtx e x (fun c => { c with pc := fld v 0 11 }) s
  else if o = 0x08 then
    setFlags e x { v := bit v 0, c := bit v 1, z := bit v 2, n := bit v 3 } s
  else if o = 0x38 then
    when_ (bit v 8) (clrAll [Reg.shuReexecCnt e, Reg.shuEndfailCnt e, Reg.shuDropCnt e]) s
  else if 0x40 ≤ o ∧ o < 0x80 then setG e x ((o - 0x40) / 4) v s.time s
  else storeWord a v s

def writeCard (a : Nat) (v : Word) (s : State) : State :=
  if a = Reg.cardCtl then when_ (bit v 8) cardCntClrOp (storeWord a v s)
  else if a = Reg.cardCrBase ∨ a = Reg.cardCrSize then
    ringSts (ringZero Reg.cardCrWr Reg.cardCrRd (storeWord a v s))
  else if a = Reg.cardCrRd then ringSts (storeWord a v s)
  else storeWord a v s

/-! ### SEL, MBX, CHG, PWR, HOST, TACK -/

def writeSel (a : Nat) (v : Word) (s : State) : State :=
  if a = Reg.selCtl then
    let was := selOn s
    let s := when_ (bit v 31) selCntClrOp (storeWord a v s)
    if bit v 0 && !was then selEnable s else if !bit v 0 && was then selDisable s else s
  else storeWord a v s

/-- A doorbell (R539): the slot is copied and its command waits in its lane, or the doorbell is discarded. -/
def mbxPend (s : State) (i : Nat) : Bool := if i < 32 then rb s Reg.mbxPendLo i else rb s Reg.mbxPendHi (i - 32)
def setPend (i : Nat) (b : Bool) : State → State :=
  if i < 32 then setb Reg.mbxPendLo i b else setb Reg.mbxPendHi (i - 32) b
def setDone (i : Nat) (b : Bool) : State → State :=
  if i < 32 then setb Reg.mbxDoneLo i b else setb Reg.mbxDoneHi (i - 32) b

def slotAddr (i : Nat) : Nat := 0x1B00000 + 0x40 * i

/-- The commands of the background lane (R540, R543): DRAFT_WRITE, DRAFT_VERIFY, REVERT, HED_LOAD, FW_WRITE, FW_ACTIVATE,
LOG_READ and the fuse commands. -/
def background (op : Nat) : Bool :=
  op ∈ [0x20, 0x21, 0x24, 0x30, 0x40, 0x41, 0x42, 0x50, 0x51, 0x52, 0x53]

/-- The command in slot i as it stands (R537). -/
def slotCmd (s : State) (i : Nat) : Cmd :=
  let w := fun k => wd (readN s (slotAddr i + 4 * k) 4)
  { slot := i, op := fld (w 0) 0 8, narg := fld (w 0) 16 8, tag := w 1, args := (upto 2 12).map w
    rsv := decide (fld (w 0) 8 8 ≠ 0 ∨ fld (w 0) 24 8 ≠ 0) }

/-- A command completes (R541): STATUS, DETAIL and RET are written, PEND and DONE change, 2,912 is raised. -/
def completeCmd (c : Cmd) (s : State) : State :=
  let o := c.out.getD (0, 0, 0)
  let s := writeBytes .tackler (slotAddr c.slot + 0x38)
    (leBytes 1 o.1 ++ leBytes 1 o.2.1 ++ leBytes 2 0 ++ leBytes 4 o.2.2.toNat) s
  raise 2912 (setDone c.slot true (setPend c.slot false (count Reg.mbxCmdCnt s)))

def doorbellOp (i : Nat) (s : State) : State :=
  if mbxPend s i then raise 2913 (count Reg.mbxErrCnt (setb Reg.mbxSts 0 true s))
  else
    let s := (checkRead .tackler (slotAddr i) 0x38 s).2
    let c := slotCmd s i
    let s := setDone i false (setPend i true s)
    if background c.op then
      if 8 ≤ s.host.bg.length then completeCmd { c with out := some (9, 0, 0) } s
      else { s with host := { s.host with bg := s.host.bg ++ [c] } }
    else { s with host := { s.host with fg := s.host.fg ++ [c] } }

def writePwr (a : Nat) (v : Word) (s : State) : State :=
  if a = Reg.pwrCtl then
    let s := storeWord a v s
    cmpModesSet (when_ (bit v 31) (fun s => clrAll [Reg.pwrDozeRes, Reg.pwrSlumberRes] (resSync s)) s)
  else if a = Reg.pwrLatencyNs then cmpModesSet (storeWord a v s)
  else if a = Reg.pwrClkctl then
    when_ (bit v 0) (fun s =>
      modFlt (fun f => { f with injRef := false }) (setb Reg.pwrClksts 3 false (clkChange 0 5 s))) s
  else storeWord a v s

def writeHost (a : Nat) (v : Word) (s : State) : State :=
  if a = Reg.hostCtl then
    when_ (bit v 8) (clrAll [Reg.hostLockCnt, Reg.hostLinkrstCnt, Reg.hostDropCnt, Reg.hostUrCnt, Reg.hostMalfCnt,
      Reg.hostSpiCrcCnt, Reg.hostSpiErrCnt]) s
  else storeWord a v s

/-- The numbers r and s of an unlock signature (R577): UNLK[0] to UNLK[7] and UNLK[8] to UNLK[15]. -/
def unlkN (s : State) (k : Nat) : Nat := leNat ((upto (8 * k) 8).flatMap fun i => leBytes 4 (rn s (Reg.tackUnlk i)))

/-- TACK.DBGCTL (R577): KEY, OPEN and UNLOCK. -/
def dbgctlWrite (v : Word) (s : State) : State :=
  let s := setOpen (bit v 0) (setf Reg.tackDbgctl 4 2 (fld v 4 2) s)
  when_ (bit v 1) (unlockOp (fld v 4 2) (unlkN s 0) (unlkN s 1)) s

def writeTack (a : Nat) (v : Word) (s : State) : State :=
  if a = Reg.tackCtl then
    let s := when_ (bit v 8) tackCntClrOp s
    when_ (bit v 0 && !restarting s) (restartBegin 3) s
  else if a = Reg.tackDbgctl then dbgctlWrite v s
  else storeWord a v s

def writeTop (a : Nat) (v : Word) (s : State) : State :=
  if a < 0x1C0800 then
    if a = Reg.mbxDb then doorbellOp (fld v 0 6) s
    else if a = Reg.mbxCtl then when_ (bit v 8) (clrAll [Reg.mbxCmdCnt, Reg.mbxRejCnt, Reg.mbxErrCnt]) s
    else storeWord a v s
  else if a < 0x1C1000 then
    if a = Reg.chgCtl then when_ (bit v 8) (clrAll [Reg.chgForcedCnt, Reg.chgChgCnt, Reg.chgAbortCnt]) s
    else storeWord a v s
  else if a < 0x1C2000 then writePwr a v s
  else if a < 0x1C3000 then writeHost a v s
  else writeTack a v s

/-! ### The write of one register -/

/-- What an accepted write of a register does. -/
def applyWrite (a : Nat) (v : Word) (s : State) : State :=
  if (descAt a).isNone then s
  else if a < 0x10000 then writeGctl a v s
  else if a < 0x14000 then writeEvm a v s
  else if a < 0x18000 then storeWord a v (noteEntry ((a - 0x14000) / 4) s)
  else if a < 0x100000 then storeWord a v s
  else if a < 0x120000 then writeCh a v s
  else if a < 0x128000 then writeHarn a v s
  else if a < 0x140000 then writeReed a v s
  else if a < 0x150000 then writeTrd a v s
  else if a < 0x160000 then writePos a v s
  else if a < 0x170000 then writeHed a v s
  else if a < 0x171000 then writeWin a v s
  else if a < 0x180000 then writeAdc a v s
  else if a < 0x181000 then writeBob a v s
  else if a < 0x188000 then writeBobc a v s
  else if a < 0x190000 then writeStore a v s
  else if a < 0x191000 then writeShed a v s
  else if a < 0x1A0000 then writeShu a v s
  else if a < 0x1B0000 then writeCard a v s
  else if a < 0x1C0000 then writeSel a v s
  else writeTop a v s

/-- A low word of a pair of R11 is held; the pair takes effect with its high word. -/
def pairWrite (a : Nat) (v : Word) (s : State) : State :=
  if isPairLo a then { s with pairLo := tset s.pairLo a v }
  else applyWrite a v (applyWrite (a - 4) (tget (rget s (a - 4)) s.pairLo (a - 4)) s)

/-- A doorbell that lands during a wake from SLUMBER: its command answers BUSY, ECHO apart (R542). -/
def lateDoorbell (i : Nat) (s : State) : State :=
  if mbxPend s i then doorbellOp i s
  else
    let s := doorbellOp i s
    let busy := fun c : Cmd => if c.slot = i ∧ c.op ≠ 1 then { c with out := some (1, 0, 0) } else c
    { s with host := { s.host with fg := s.host.fg.map busy, bg := s.host.bg.map busy } }

/-- A write of a full word to a register or a window word at `a` (R4 to R11, R535, R536). -/
def writeReg (p : Path) (a : Nat) (v : Word) (s : State) : State :=
  let late := s.log.waking
  let s := if power s = 2 then
      hostWake p (if a = Reg.mbxDb then 2 else if a = Reg.pwrLatencyNs ∧ v.toNat < 400000 then 1 else 3) s
    else s
  if isHole a then holeDrop p s
  else if locked s a v then lockDrop p a v s
  else if inTaskWin a then putTask (taskKey s a) v s
  else if inCodeWin a then
    writeCode (codeWinKey s a) v s
  else if reserved s a v then rsvDrop p s
  else if isPairLo a || isPairHi a then pairWrite a v s
  else if a = Reg.mbxDb && late then lateDoorbell (fld v 0 6) s
  else applyWrite a v s

/-- A register write narrower than 32 bits (R10, R536). -/
def narrowWrite (p : Path) (a : Nat) (v : Word) (s : State) : State :=
  let s := if power s = 2 then hostWake p 3 s else s
  if isHole a then holeDrop p s else lockDrop p a v s

/-- Bytes written to a store from a path (R368, R371, R373): of a word of 8 bytes or less, in one region. -/
def writeMemBytes (p : Path) (a : Nat) (bs : List Byte) (s : State) : State :=
  let s := if power s = 2 then hostWake p 3 s else s
  if bs.isEmpty then s
  else if locked s a 0 then lockDrop p a (wd (leNat (bs.take 4))) s
  else portAsk ⟨bankOf a, pathPort p, .write p a bs⟩ s

/-- A write of one word anywhere in BAR0. -/
def writeDw (p : Path) (a : Nat) (v : Word) (s : State) : State :=
  if inStore a then writeMemBytes p a (leBytes 4 v.toNat) s else writeReg p a v s

/-- A write of the enabled bytes of a register DW (R10, R526): with none of them no access, with some a narrow write. -/
def writeBe (p : Path) (a be : Nat) (v : Word) (s : State) : State :=
  if be = 0 then s else if be = 15 then writeDw p a v s else narrowWrite p a v s

/-- A read of the enabled bytes of a register DW (R10, R526): bytes that are not enabled are not read, and what their places
carry is open (log entry 1). -/
def readBe (p : Path) (a be : Nat) (s : State) : Word × State :=
  if be = 15 then readDw p a s
  else
    let r := if be = 0 then (0#32, s) else readDw p a s
    let x := freshWord r.2
    let m := wd ((upto 0 4).foldl (fun m i => if be.testBit i then m + 255 * 2 ^ (8 * i) else m) 0)
    ((r.1 &&& m) ||| (wd x.1 &&& ~~~ m), x.2)

end Sys2Proof.Machine
end

