-- ==== Sys2Proof/Machine/Draft.lean ====
section
/-!
DEFINITION. Drafts (14_drafts_and_changeover.md): the checks of an image in flash (R452 to R468), what a load writes (R472, R474),
whether a changeover is hitless (R476), the switch instant (R477 to R479), the application of channels and reeds (R480 to
R482), the end and the commit (R483 to R485).
-/

namespace Sys2Proof.Machine

/-! ### The image (R452 to R462) -/

/-- The flash address of draft region i (R469). -/
def regionBase (i : Nat) : Nat := 0x400000 + 0xF00000 * i

/-- An entry of the section table, with the flash address of its payload (R454). -/
structure Sec where
  ty  : Nat
  opt : Nat
  unit : Nat
  off : Nat
  len : Nat
  tgt : Nat
  at_ : Nat
  deriving DecidableEq, Repr

/-- A little-endian number of an image at flash address `b` (R453). -/
def imgN (s : State) (b o n : Nat) : Nat := flashN s (b + o) n
def imgLen (s : State) (b : Nat) : Nat := imgN s b 0x18 4
def imgNsec (s : State) (b : Nat) : Nat := imgN s b 0x16 2

/-- The section table (R454). -/
def sections (s : State) (b : Nat) : List Sec :=
  (upto 0 (imgNsec s b)).map fun k =>
    let o := 0x100 + 16 * k
    { ty := imgN s b o 1, opt := imgN s b (o + 1) 1, unit := imgN s b (o + 2) 2, off := imgN s b (o + 4) 4
      len := imgN s b (o + 8) 4, tgt := imgN s b (o + 12) 4, at_ := b + imgN s b (o + 4) 4 }

/-- The words of a payload. -/
def leWords : Nat → List Byte → List Word
  | 0, _ => []
  | n + 1, bs => wd (leNat (bs.take 4)) :: leWords n (bs.drop 4)
def secBytes (s : State) (x : Sec) : List Byte := flashRead s x.at_ x.len
def secWords (s : State) (x : Sec) : List Word := leWords (x.len / 4) (secBytes s x)

/-- The header and the trailer's fixed fields are correct (R467 code 2). -/
def headerOk (s : State) (b : Nat) : Bool :=
  let l := imgLen s b
  imgN s b 0 4 == 0x52445448 && imgN s b 4 2 == 1 && imgN s b 6 2 == 256 && imgN s b 0x12 2 == 0x5120 &&
    decide (imgN s b 0x11 1 < 2) && decide (imgN s b 0x14 1 ≤ 0xA1) && imgN s b 0x15 1 == 0 && imgN s b 0x30 176 == 0 &&
    decide (1 ≤ imgNsec s b ∧ imgNsec s b ≤ 256) &&
    decide (l % 8 = 0 ∧ 256 + 16 * imgNsec s b + 96 ≤ l ∧ l ≤ 15728640) &&
    imgN s b (l - 96) 4 == 0x47535448 && imgN s b (l - 91) 3 == 0 && imgN s b (l - 24) 24 == 0

/-- KEY of the trailer (R462). -/
def imgKey (s : State) (b : Nat) : Nat := imgN s b (imgLen s b - 92) 1

def imgDigest (s : State) (b : Nat) : List Byte := flashRead s (b + 0xE0) 32

/-- The signature rule (R464). -/
def signatureOk (s : State) (b : Nat) : Bool :=
  let k := imgKey s b
  let t := b + imgLen s b - 96
  if k = 0xFF then !s.fuse.secure else keyVerifies s k (imgDigest s b) (flashN s (t + 8) 32) (flashN s (t + 0x28) 32)

/-- The version rules (R466, R468). -/
def versionOk (s : State) (b : Nat) : Bool :=
  decide (s.fuse.minEpoch ≤ imgN s b 0xC 2) && decide (imgN s b 0x10 1 = 1 ∨ imgN s b 0x10 1 = 2)

/-! ### Sections (R455 to R460, R601) -/

/-- Offsets ascend, payloads lie in their range and do not overlap, bytes outside them are 0 (R455). -/
def layoutOk (s : State) (b : Nat) : Nat → List Sec → Bool
  | e, [] => flashN s (b + e) (imgLen s b - 96 - e) == 0
  | e, x :: xs =>
    decide (x.off % 8 = 0 ∧ e ≤ x.off ∧ x.off + x.len ≤ imgLen s b - 96) && flashN s (b + e) (x.off - e) == 0 &&
      layoutOk s b (x.off + x.len) xs

/-- The register writes of a REG_RUN payload, in order (R457). -/
def records : Nat → List Byte → Option (List (Nat × Word))
  | _, [] => some []
  | 0, _ => none
  | fuel + 1, bs =>
    let a := leNat (bs.take 4)
    let n := leNat ((bs.drop 4).take 4)
    let size := 8 + 4 * n + (if n % 2 = 1 then 4 else 0)
    if n = 0 ∨ 1024 < n ∨ bs.length < size ∨ leNat ((bs.take size).drop (8 + 4 * n)) ≠ 0 then none
    else (records fuel (bs.drop size)).map fun rest =>
      ((upto 0 n).zip (leWords n (bs.drop 8))).map (fun x => (a + 4 * x.1, x.2)) ++ rest

/-- A register that REG_RUN may write (R457): RW, and none of those that other sections give. -/
def runReg (a : Nat) : Bool :=
  match descAt a with
  | none => false
  | some d =>
    (decide (d.rw ≠ 0) || decide (d.w1c ≠ 0) || decide (d.sc ≠ 0)) &&
    !decide (0x1000 ≤ a ∧ a < 0x1800 ∨ 0x128000 ≤ a ∧ a < 0x12C000 ∨ 0x1C3080 ≤ a ∧ a < 0x1C30C0) &&
    !decide (0x120000 ≤ a ∧ a < 0x124000 ∧ (a % 0x100 = 0x04 ∨ a % 0x100 = 0x08 ∨ 0x10 ≤ a % 0x100 ∧ a % 0x100 < 0x20)) &&
    !decide (0x160000 ≤ a ∧ a < 0x164000 ∧ a % 0x100 = 0x28) &&
    !decide (a ∈ [Reg.gctlLoadall, Reg.evmPendLo, Reg.evmPendHi, Reg.shedOvrSum, Reg.shedExpAbtSum, Reg.bobcErrSum, Reg.mbxDb,
      Reg.mbxDoneLo, Reg.mbxDoneHi, Reg.pwrCtl, Reg.pwrDwell, Reg.pwrBankslpLo, Reg.pwrBankslpHi])

/-- A value sets a W1C, W1S or SC bit (R457). -/
def runBits (a : Nat) (v : Word) : Bool :=
  match descAt a with
  | none => true
  | some d => v &&& (wd d.w1c ||| wd d.sc) != 0

/-- The writes are valid one after another, from the registers in `s` (R457, R9). -/
def runOk : State → List (Nat × Word) → Bool
  | _, [] => true
  | s, x :: xs => runReg x.1 && !runBits x.1 x.2 && !reserved s x.1 x.2 && runOk (storeWord x.1 x.2 s) xs

/-- The words of a REED_TRIP payload are valid (R460). -/
def reedTripOk (ws : List Word) : Bool :=
  ws.length == 26 && (ws.take 4).all (fun w => !tripReserved w) && (ws.drop 24).all (fun w => w == 0) &&
    (upto 0 4).all fun j =>
      let w := fun k => ws.getD (4 + 5 * j + k) 0
      w 0 &&& ~~~ 1#32 == 0 && !pinReserved (w 3) && !pinReserved (w 4)

/-- The words of the FAULT payload are valid (R601). -/
def faultOk (ws : List Word) : Bool :=
  ws.length == 18 && !bit (ws.getD 0 0) 31 && !rsvGctl {} Reg.gctlCfg (ws.getD 0 0) && ws.getD 17 0 == 0 &&
    (upto 0 16).all fun c => !polReserved c (ws.getD (1 + c) 0)

/-- The entries of a CARDS payload (R459). -/
def cardEntries : Nat → List Byte → List (Pre × Word)
  | 0, _ => []
  | n + 1, bs =>
    let attr := wd (leNat ((bs.drop 16).take 4))
    ({ words := leWords 4 bs, parked := bit attr 0 }, attr) :: cardEntries n (bs.drop 20)

/-- The entries are valid: R208 apart from trackers and holds, and links to PARKED entries (R459). -/
def cardsOk (es : List (Pre × Word)) : Bool :=
  es.all fun e =>
    let w := fun k => e.1.words.getD k 0
    cardWellFormed (w 0) (w 2) (w 3) && decide (e.2.toNat < 2) &&
      (!cChain (w 0) || ((es[fld (w 3) 0 17]?).map fun x => x.1.parked) == some true)

/-- The known sections of a type. -/
def ofType (xs : List Sec) (t : Nat) : List Sec := xs.filter fun x => x.ty == t

/-- Two of a list of (unit, first, count) ranges of one unit overlap. -/
def rangesDisjoint : List (Nat × Nat × Nat) → Bool
  | [] => true
  | x :: xs => (xs.all fun y => x.1 != y.1 || decide (x.2.1 + x.2.2 ≤ y.2.1 ∨ y.2.1 + y.2.2 ≤ x.2.1)) && rangesDisjoint xs

/-- One section obeys the row of its type (R456); an unknown type is skipped if it is optional. -/
def sectionOk (s : State) (x : Sec) : Bool :=
  let plain := decide (x.unit = 0 ∧ x.tgt = 0)
  decide (x.opt < 2) &&
  match x.ty with
  | 0x01 => plain && (records (x.len / 8 + 1) (secBytes s x)).isSome
  | 0x02 => plain && decide (x.len = 2048) && (secWords s x).all fun w => decide (fld w 0 2 ≠ 3)
  | 0x03 => decide (x.unit = 0 ∧ x.len % 16 = 0 ∧ x.tgt + x.len / 16 ≤ 4096)
  | 0x04 => decide (x.unit ≤ 31 ∧ x.len % 4 = 0 ∧ x.tgt + x.len / 4 ≤ 2048)
  | 0x05 => decide (x.unit = 0 ∧ 0x1000000 ≤ x.tgt ∧ x.tgt + x.len ≤ 0x1800000)
  | 0x06 => plain && decide (x.len % 20 = 0) && cardsOk (cardEntries (x.len / 20) (secBytes s x))
  | 0x07 => decide (x.unit ≤ 63 ∧ x.tgt = 0 ∧ x.len = 80)
  | 0x08 => decide (x.unit ≤ 63 ∧ x.tgt = 0 ∧ x.len = 104) && reedTripOk (secWords s x)
  | 0x09 => plain && decide (x.len = 72) && faultOk (secWords s x)
  | 0x0A => plain && decide (x.len = 16)
  | _ => x.opt == 1

/-- Sections of one type agree with the last column of R456. -/
def countsOk (xs : List Sec) : Bool :=
  [0x02, 0x06, 0x09, 0x0A].all (fun t => decide ((ofType xs t).length ≤ 1)) &&
  [0x07, 0x08].all (fun t => let us := (ofType xs t).map fun x => x.unit; us.eraseDups.length == us.length) &&
  rangesDisjoint ((ofType xs 0x03).map fun x => (0, x.tgt, x.len / 16)) &&
  rangesDisjoint ((ofType xs 0x04).map fun x => (x.unit, x.tgt, x.len / 4)) &&
  rangesDisjoint ((ofType xs 0x05).map fun x => (0, x.tgt, x.len))

/-- The words of the first section of a type. -/
def firstWords (s : State) (xs : List Sec) (t : Nat) : List Word :=
  match ofType xs t with | [] => [] | x :: _ => secWords s x

/-- The draft in an image (R453, R456). -/
def draftOf (s : State) (b : Nat) : Draft :=
  let xs := sections s b
  { ver := imgN s b 8 4, epoch := imgN s b 0xC 2, cclass := imgN s b 0xE 2, link := imgN s b 0x10 1, key := imgKey s b
    ssid := imgN s b 0x1C 4
    regs := (ofType xs 0x01).flatMap fun x => (records (x.len / 8 + 1) (secBytes s x)).getD []
    pins := firstWords s xs 0x02
    reeds := (ofType xs 0x08).map fun x => (x.unit, secWords s x)
    fault := firstWords s xs 0x09
    power := firstWords s xs 0x0A
    heds := (ofType xs 0x07).map fun x => (x.unit, secWords s x)
    cards := (ofType xs 0x06).flatMap fun x => (cardEntries (x.len / 20) (secBytes s x)).map fun e => e.1
    ready := (ofType xs 0x05).all fun x => decide (x.tgt + x.len ≤ 0x1400000) }

/-- What a draft last writes to a register, as the register stores it. -/
def written (d : Draft) (a : Nat) : Option Word :=
  (d.regs.reverse.find? fun x => x.1 == a).map fun x =>
    match descAt a with
    | none => x.2
    | some r => (wd r.reset &&& ~~~ wd r.rw) ||| (x.2 &&& wd r.rw)

/-- The sections of an image are valid (R467 code 6). -/
def sectionsOk (s : State) (b : Nat) (d : Draft) : Bool :=
  let xs := sections s b
  let serial := fun i => bit ((written d (Reg.posCtl i)).getD (rget s (Reg.posCtl i))) 1
  layoutOk s b (256 + 16 * imgNsec s b) xs && xs.all (sectionOk s) && countsOk xs && runOk {} d.regs &&
    (d.pins.isEmpty || (ownCheck serial fun n => d.pins.getD n 0).isNone)

/-- The slots that no card takes (R211). -/
def freeSlots (s : State) : Nat := 131072 - rn s Reg.cardUsed

/-- The checks of R467 on the image of region i: its error code, 0 where it passes. -/
def draftCheck (s : State) (i : Nat) (readable : Bool) : Nat :=
  let b := regionBase i
  if !readable then 1
  else if !headerOk s b then 2
  else if imageDigest s b (imgLen s b) ≠ imgDigest s b then 3
  else if !signatureOk s b then 4
  else if !versionOk s b then 5
  else if !sectionsOk s b (draftOf s b) then 6
  else if freeSlots s < (draftOf s b).cards.length then 7
  else 0

/-- The STATUS of a failed check (R474). -/
def checkStatus (code : Nat) : Nat :=
  match code with | 1 => 10 | 3 => 4 | 4 => 6 | 5 => 7 | _ => 3

/-! ### What a load writes (R472, R474) -/

/-- Shuttle code of every section into a bank of each engine, the rest of the bank ILL (R456, R458). -/
def loadCode (xs : List Sec) (bank : Nat) (s : State) : State :=
  let inBank := fun k => decide (k / 2048 % 2 = bank ∧ k / 4096 < 32)
  let s := { s with code := s.code.filter (fun e => !inBank e.1), codeBad := s.codeBad.filter fun k => !inBank k }
  forEach (ofType xs 0x04) (fun x s =>
    forEach ((upto 0 (x.len / 4)).zip (secWords s x)) (fun y s =>
      { s with code := tset s.code (codeKey x.unit bank (x.tgt + y.1)) y.2 }) s) s

/-- The task table half, descriptors that no section gives invalid (R456, R458). -/
def loadTasks (xs : List Sec) (half : Nat) (s : State) : State :=
  let s := { s with tasks := s.tasks.filter fun e => e.1 / 16384 != half }
  forEach (ofType xs 0x03) (fun x s =>
    forEach ((upto 0 (x.len / 4)).zip (secWords s x)) (fun y s =>
      putTask (16384 * half + 4 * x.tgt + y.1) y.2 s) s) s

/-- Pattern data at an offset from its own addresses (R472, R474). -/
def loadPattern (xs : List Sec) (shift : Nat) (s : State) : State :=
  forEach (ofType xs 0x05) (fun x s => writeBytes .tackler (x.tgt + shift) (secBytes s x) s) s

/-- A heddle bank of engine e takes the words of an image (R327, R456). -/
def loadHedBank (e b : Nat) (ws : List Word) (s : State) : State :=
  let s := forEach (upto 0 4) (fun j => rset (hdrReg e b j) (ws.getD j 0 &&& hdrBits j)) s
  let s := forEach (upto 0 16) (fun j => rset (if b = 0 then Reg.hedProg0 e j else Reg.hedProg1 e j) (ws.getD (4 + j) 0)) s
  modHed e (fun x => { x with bad := x.bad.filter fun k => k / 32 != b }) s

/-- The entries of a card preload take slots in section order as WAITING, links translated to slots (R213, R232, R459); the
draft with its links so translated is answered beside the state. -/
def stageCards (gen : Bool) (d : Draft) (s : State) : Draft × State :=
  let p := d.cards.foldl (fun p c =>
    match lowestFree p.2 with
    | none => p
    | some n =>
      let s := takeFree n 5 gen false c.words p.2
      (p.1 ++ [n], modSlot n (fun x => { x with staged := true, parked := c.parked, rel := some (c.words.getD 1 0, c.words.getD 2 0) }) s))
    (([] : List Nat), s)
  let link := fun c : Pre =>
    if cChain (c.words.getD 0 0) then
      let w3 := c.words.getD 3 0
      { c with words := c.words.set 3 (setFld w3 0 17 (p.1.getD (fld w3 0 17) 0)) }
    else c
  let cs := d.cards.map link
  ({ d with cards := cs }, forEach (p.1.zip cs) (fun x => setCardWord x.1 3 (x.2.words.getD 3 0)) p.2)

/-- Staged cards are parked or armed (R213, R232): angle cards relative to a reference position of their tracker; those of a
held harness are disarmed (R231). -/
def armStaged (ref : Nat → Int) (s : State) : State :=
  forEach (slotsWhere s fun _ x => x.staged) (fun n s =>
    let x := slotSt s n
    let w0 := cw0 s n
    if x.parked then modSlot n (fun x => { x with st := 1, staged := false, rel := none }) s
    else if harnHeld s (cChan w0 / 8) && cOnChannel w0 then holdDisarm [n] s
    else
      let s := modSlot n (fun x => { x with staged := false }) s
      if cAngle w0 then (if trdLost s (cTrk w0) then s else armAngleRel (ref (cTrk w0)) n s)
      else
        let w2 := cardWord s n 2
        let t := 32 * s.time + 32 * ((cardWord s n 1).toNat + 2 ^ 32 * fld w2 0 24) + cFine w0
        let s := setCardWord n 0 (setFld w0 20 5 (t % 32)) (setCardWord n 1 (wd (t / 32)) (setCardWord n 2 (setFld w2 0 24 (t / 2 ^ 37)) s))
        armCard 8 (nextCycle s) n (modSlot n (fun x => { x with st := 2 }) s)) s

/-- The registers that show the draft in force follow it (R487). -/
def draftRegs (d : Draft) (s : State) : State :=
  rset Reg.chgActVer (wd d.ver) (rset Reg.chgActCc (wd (d.cclass + 65536 * d.epoch)) (setf Reg.chgLinkv 0 8 d.link s))

/-- Draft d is in force. -/
def inForce (d : Draft) (s : State) : State :=
  draftRegs d { s with chg := { s.chg with act := some d, actReady := d.ready } }

/-- The state as the lock rules see a draft's writes: they count as landing in IDLE (R472). -/
def asIdle (s : State) : State := setf Reg.gctlMode 0 4 3 s

/-- The bits of a register that a write keeps (R4). -/
def rwBits (a : Nat) : Word := match descAt a with | some d => wd d.rw | none => 0

/-- A value differs from what a register shows, in the bits that a write keeps. -/
def differs (s : State) (a : Nat) (v : Word) : Bool := (v ^^^ regView s a) &&& rwBits a != 0

/-- A register write of a draft load (R457, R472). -/
def loadWrite (a : Nat) (v : Word) (s : State) : State :=
  if locked (asIdle s) a v then when_ (differs s a v) (lockDrop .tackler a v) s
  else if isPairLo a || isPairHi a then pairWrite a v s
  else applyWrite a v s

/-- The pin ownership of a draft (R26, R472): entries and owners. -/
def loadPins (d : Draft) (s : State) : State :=
  if d.pins.isEmpty then s
  else
    let tbl := fun n => d.pins.getD n 0
    takeOwners tbl (forEach (upto 0 512) (fun n => storeWord (Reg.pinown n) (tbl n)) s)

/-- A register takes a value of the draft where it differs from what it shows (R479); no flag is cleared with it (R4). -/
def putChanged (a : Nat) (v : Word) (s : State) : State :=
  if differs s a v then applyWrite a (v &&& rwBits a) s else s

/-- Trip and reed registers of harness h take the words of a payload (R460, R481). -/
def putReeds (h : Nat) (ws : List Word) (s : State) : State :=
  let s := forEach (upto 0 4) (fun i => applyWrite (Reg.harnTrip h i) (ws.getD i 0 &&& rwBits (Reg.harnTrip h i))) s
  forEach (upto 0 4) (fun j s =>
    forEach (upto 0 5) (fun k => putChanged (Reg.reedCtl (4 * h + j) + 4 * k) (ws.getD (4 + 5 * j + k) 0)) s) s

/-- The payload that holds the reset values of a harness (R460). -/
def reedReset (h : Nat) : List Word :=
  ((upto 0 4).map fun i => resetWord (Reg.harnTrip h i)) ++
    (upto 0 4).flatMap fun j => (upto 0 5).map fun k => resetWord (Reg.reedCtl (4 * h + j) + 4 * k)

/-- Trip and reed registers of harness h at a switch (R460, R481). -/
def loadReeds (d : Draft) (h : Nat) (s : State) : State :=
  match d.reeds.find? fun x => x.1 == h with
  | none => s
  | some (_, ws) => putReeds h ws s

/-- Trip and reed registers of harness h at a load, where one that no section names has its reset values (R460). -/
def loadReedsAll (d : Draft) (h : Nat) (s : State) : State :=
  putReeds h (match d.reeds.find? fun x => x.1 == h with | some x => x.2 | none => reedReset h) s

/-- The fault policy (R601, R606); INJ_EN keeps its value. -/
def loadFault (d : Draft) (s : State) : State :=
  match d.fault with
  | [] => s
  | cfg :: pol =>
    let s := storeWord Reg.gctlCfg (setBit cfg 31 (rb s Reg.gctlCfg 31)) s
    forEach ((upto 0 16).zip pol) (fun x => storeWord (Reg.gctlPol x.1) x.2) s

/-- The power policy (R451, R456). -/
def loadPower (d : Draft) (s : State) : State :=
  match d.power with
  | [] => s
  | w =>
    cmpModesSet (storeWord Reg.pwrCtl (w.getD 0 0) (storeWord Reg.pwrDwell (w.getD 1 0)
      (storeWord Reg.pwrBankslpLo (w.getD 2 0) (storeWord Reg.pwrBankslpHi (w.getD 3 0) s))))

/-- The image of region i is applied (R472): the draft is in force, in banks and halves 0. -/
def loadDraft (i : Nat) (s : State) : State :=
  let b := regionBase i
  let d := draftOf s b
  let xs := sections s b
  let s := setf Reg.storePhalf 0 1 0 (modShed (fun x => { x with halfNext := none, exHalf := 0 }) (setf Reg.shedTtsel 8 1 0 s))
  let s := forEach (upto 0 34) (fun e => setb (Reg.engEsts e) 11 false) s
  let s := loadPins d s
  let s := forEach d.regs (fun x => loadWrite x.1 x.2) s
  let s := forEach (upto 0 64) (loadReedsAll d) s
  let s := loadPower d (loadFault d s)
  let s := loadTasks xs 0 (loadCode xs 0 s)
  let s := forEach d.heds (fun x s => loadHedBank x.1 (hedBank s x.1) x.2 s) s
  let s := loadPattern xs 0 s
  let p := stageCards false d s
  let s := inForce p.1 p.2
  let s := { s with chg := { s.chg with region := i } }
  armStaged (fun t => phi s t s.time) s

/-! ### Staging (R474 to R476) -/

/-- The value that a draft gives a register against the draft in force: what it does not write it leaves as it is. -/
def oldVal (s : State) (a : Nat) : Word :=
  match s.chg.act with | none => resetWord a | some d => (written d a).getD (resetWord a)
def newVal (s : State) (d : Draft) (a : Nat) : Word := (written d a).getD (oldVal s a)
def oldPin (s : State) (n : Nat) : Word :=
  match s.chg.act with | none => 0 | some d => d.pins.getD n 0
def newPin (s : State) (d : Draft) (n : Nat) : Word := if d.pins.isEmpty then oldPin s n else d.pins.getD n 0

/-- The bits of a register that a draft sets at its changeover switch point (R476). -/
def switchBits (a : Nat) : Word :=
  let all := 0xFFFFFFFF#32
  if 0x10000 ≤ a ∧ a < 0x18000 then all
  else if 0x100000 ≤ a ∧ a < 0x120000 then all
  else if 0x140000 ≤ a ∧ a < 0x144000 then
    let o := a % 0x1000
    if o ∈ [0x10, 0x14, 0x18, 0x1C, 0x20, 0x24, 0x28, 0x34, 0x14C] then all else if o = 0x140 then 0x3FF0000 else 0
  else if 0x150000 ≤ a ∧ a < 0x151000 then
    if a % 0x100 + 0x150000 ∈ [Reg.posMon 0, Reg.posLimLo 0, Reg.posLimHi 0, Reg.posStillTmo 0, Reg.posJumpMax 0,
      Reg.posLatcfg 0, Reg.posSetpos 0] then all else 0
  else if 0x160000 ≤ a ∧ a < 0x164000 then (if a % 0x100 = 0x34 ∨ a % 0x100 = 0x38 then all else 0)
  else if 0x170000 ≤ a ∧ a < 0x171100 then all
  else if Reg.storeCbwBase 0 ≤ a ∧ a < 0x189000 then all
  else if a = Reg.shedPicklen then all
  else if 0x190400 ≤ a ∧ a < 0x190840 then (if a % 0x20 ∈ [0x08, 0x0C, 0x10] then all else 0)
  else 0

/-- The registers of the first group of R272 and EN of tracker t, and of R303 and EN of interface i. -/
def trdFirst (t : Nat) : List Nat :=
  ([0x00, 0x04, 0x08, 0x0C, 0x2C, 0x30, 0x38, 0x3C, 0x40] ++ (upto 0 8).map (fun i => 0x60 + 4 * i) ++
    (upto 0 32).map fun i => 0x800 + 4 * i).map fun o => 0x140000 + 0x1000 * t + o
def posFirst (i : Nat) : List Nat :=
  [0x00, 0x04, 0x28, 0x2C, 0x30, 0x60, 0x64, 0x68, 0x6C, 0x70, 0x74, 0x78, 0x7C, 0x88].map fun o => 0x150000 + 0x100 * i + o

/-- The first condition of R476 that fails, 0 where none does. -/
def notHitless (s : State) (d : Draft) : Nat :=
  let o := oldVal s
  let n := newVal s d
  let op := oldPin s
  let np := newPin s d
  let same := fun a => o a == n a
  let moded := fun f : Nat → Word => fun c => fld (f (Reg.chCtl c)) 0 4
  let pinsSame := fun p : Word → Bool => (upto 0 512).all fun k => (!p (op k) && !p (np k)) || op k == np k
  if !(s.chg.actReady && d.ready) then 1
  else if !((upto 0 64).all fun h => same (Reg.harnPresc h) || (upto (8 * h) 8).all fun c => moded o c == 0 && moded n c == 0) then 2
  else if !((upto 0 4).all fun t => (!bit (o (Reg.trdCtl t)) 0 && !bit (n (Reg.trdCtl t)) 0) || (trdFirst t).all same) then 3
  else if !((upto 0 16).all fun i => (!bit (o (Reg.posCtl i)) 0 && !bit (n (Reg.posCtl i)) 0) ||
      ((posFirst i).all same && pinsSame fun w => ownKind w == 2 && ownUnit w == i)) then 4
  else if !(pinsSame fun w => ownKind w == 1) then 5
  else if !(d.regs.all fun x => (o x.1 ^^^ n x.1) &&& ~~~ switchBits x.1 == 0) then 6
  else if !((upto 0 512).all fun c => moded o c == 0 || moded n c == 0 || moded o c == moded n c) then 7
  else 0

/-- A verification starts (R474, R485): of the STAGED region, or of PREVIOUS for a REVERT. -/
def verifyBegin (revert : Bool) (s : State) : State :=
  let s := when_ (decide (stageState s = 3)) discardStaged s
  let i := if revert then s.tack.slots.previous else s.tack.slots.staged
  let s := { s with chg := { s.chg with region := i } }
  setb Reg.gctlState 5 true (setb Reg.chgSts 4 revert (setStage 2 s))

/-- The image that has passed is loaded into the idle halves (R474). -/
def stageDraft (s : State) : State :=
  let b := regionBase s.chg.region
  let xs := sections s b
  let d := draftOf s b
  let idle := 1 - genHalf s
  let s := loadTasks xs idle (loadCode xs idle s)
  let s := if d.ready then loadPattern xs (0x400000 * (1 - patHalf s)) s else s
  let s := forEach d.heds (fun x s =>
    modHed x.1 (fun h => { h with staged := true }) (loadHedBank x.1 (1 - hedBank s x.1) x.2 s)) s
  let p := stageCards (decide (idle = 1)) d s
  let why := notHitless p.2 p.1
  let s := { p.2 with chg := { p.2.chg with staged := some p.1 } }
  let s := rset Reg.chgNewVer (wd d.ver) (rset Reg.chgNewCc (wd (d.cclass + 65536 * d.epoch)) (setf Reg.chgLinkv 8 8 d.link s))
  setStage 3 (setb Reg.chgSts 3 (decide (why = 0)) (setf Reg.chgSts 12 4 why (setf Reg.chgSts 8 4 0 s)))

/-- The slot table's entry of region i after a check: its image, valid or only written (R470). -/
def noteRegion (i : Nat) (valid : Bool) (s : State) : State :=
  let d := draftOf s (regionBase i)
  let r : Region :=
    if valid then { ver := d.ver, epoch := d.epoch, cclass := d.cclass, len := imgLen s (regionBase i), st := 2 }
    else { tget {} s.tack.slots.regions i with st := min 1 (tget ({} : Region) s.tack.slots.regions i).st }
  if i < 4 then modTack (fun t => { t with slots := { t.slots with regions := tset t.slots.regions i r } }) s else s

/-- The check and load end (R474, R485): the code of the check, and the state. -/
def verifyOp (readable : Bool) (s : State) : Nat × State :=
  let code := draftCheck s s.chg.region readable
  let s := noteRegion s.chg.region (decide (code = 0)) s
  (code, if code = 0 then stageDraft s else setf Reg.chgSts 8 4 code (discardStaged s))

/-! ### The switch point (R477, R478) -/

/-- A 64-bit number in two words. -/
def two (lo hi : Word) : Nat := lo.toNat + 2 ^ 32 * hi.toNat

/-- The position of a switch point in angle form nearest to the tracker's, in 2^-16 pu. -/
def switchPos (s : State) (t k ph : Nat) : Int :=
  let now := phi s t s.time
  (now / 2 ^ 16 + signed56 ((2 ^ 24 * k + ph : Nat) - now / 2 ^ 16)) * 2 ^ 16

/-- A switch point lies within the limits of R477. -/
def switchOk (s : State) (time : Bool) (t k x : Nat) : Bool :=
  if time then decide (s.time + 2 * pickLen s ≤ k + 2 ^ 32 * x)
  else decide ((2 * pickLen s * rn s (Reg.trdRate t) : Nat) ≤ (switchPos s t k x - phi s t s.time) * 2 ^ 8)

/-- The cycle of the switch instant (R478): where it is known. -/
def switchTime (s : State) : Option Nat :=
  if rb s Reg.chgSwCtl 2 then some (max s.time (two (rget s Reg.chgSwA) (rget s Reg.chgSwB)))
  else
    let t := rf s Reg.chgSwCtl 0 2
    let p := switchPos s t (rn s Reg.chgSwA) (rf s Reg.chgSwB 0 24)
    if trdLost s t then none
    else if p ≤ phi s t s.time then some s.time
    else (crossing s t p).map fun x => if x.fine = 0 then x.lc else x.lc + 1

/-! ### Channels and harnesses (R480 to R482) -/

/-- Slot n holds a card of the old generation. -/
def oldGen (s : State) (x : SlotSt) : Bool := x.gen != curGen s

/-- Old-generation cards of channel c that run or are kept (R480). -/
def oldCardsOf (s : State) (c : Nat) : List Nat :=
  slotsWhere s fun n x => oldGen s x && (x.st == 4 || s.chg.kept.contains n) && x.st != 0 && cOnChannel (cw0 s n) &&
    cChan (cw0 s n) == c

/-- An RST action or a LOADNOW restarts channel n at this tick (R160, R178). -/
def rstDue (s : State) (n : Nat) : Bool :=
  wireDue (.chRst n) s || nowDue s (n / 8)

/-- Channel n is at its application instant in this cycle, before the cycle's tick (R480). -/
def applyDue (s : State) (n : Nat) : Bool :=
  match chMode s n with
  | 1 | 2 | 4 =>
    (harnTickAt s (n / 8)).1 == s.time &&
      ((chSt s n).firstLap || rstDue s n || decide (rn s (Reg.chRld n) ≤ rn s (Reg.chCnt n)))
  | 3 => !(chSt s n).lap
  | 9 | 10 => !chOut s n && (oldCardsOf s n).isEmpty
  | _ => true

/-- The new CTL of channel n (R480). -/
def applyCtl (n : Nat) (v : Word) (s : State) : State :=
  if chMode s n = fld v 0 4 then rset (Reg.chCtl n) (setBit (v &&& 0x1FFF#32) 16 (rb s (Reg.chCtl n) 16)) s else chCtlWrite n v s

/-- Channel n takes the draft's registers (R480). -/
def applyRegs (d : Draft) (n : Nat) (s : State) : State :=
  let put := fun a (f : Word → State → State) (s : State) => match written d a with | some v => f v s | none => s
  let s := modCh n (fun x => { x with edges := [] }) s
  let s := put (Reg.chCtl n) (applyCtl n) s
  let s := put (Reg.chEvcfg n) (writeEvcfg n) s
  let s := forEach [Reg.chInsel n, Reg.chAct0 n, Reg.chAct1 n, Reg.chRld n, Reg.chCmpa n, Reg.chCmpb n,
    Reg.chFine n] (fun a => put a (rset a)) s
  let s := setb (Reg.harnLdsts (n / 8)) (16 + n % 8) false (setf (Reg.chStage n) 0 4 0 (setArmed n false s))
  forEach [(0, Reg.chRlds n), (1, Reg.chCmpas n), (2, Reg.chCmpbs n), (3, Reg.chFines n)] (fun x => put x.2 (writeStaged n x.1 x.2)) s

/-- The wrap at which a lapping channel takes the new registers (R480, R135): its old lap ends, the new one begins at this
tick. -/
def applyWrap (n : Nat) (s : State) : State :=
  if (chSt s n).firstLap || rstDue s n then s
  else
    let s := when_ (decide (rn s (Reg.chRld n) < rn s (Reg.chCnt n))) (setb (Reg.chSts n) 5 true) s
    modCh n (fun x => { x with firstLap := true, restart := none }) (chEvent n 0 s)

/-- Channel n has been applied; its harness follows with the last of its channels (R481). -/
def appliedOne (d : Draft) (n : Nat) (s : State) : State :=
  let s := { s with chg := { s.chg with chans := s.chg.chans.filter fun c => c != n } }
  let h := n / 8
  if s.chg.harns.contains h && !(s.chg.chans.any fun c => c / 8 == h) then
    loadReeds d h { s with chg := { s.chg with harns := s.chg.harns.filter fun k => k != h } }
  else s

/-- Channel n is applied at its instant (R480). -/
def channelApply (n : Nat) (s : State) : State :=
  match s.chg.act with
  | none => s
  | some d =>
    let m := chMode s n
    appliedOne d n (applyRegs d n (if m = 1 ∨ m = 2 ∨ m = 4 then applyWrap n s else s))

/-- An active output of channel n ends as under a cut, at pins that change at once (R184, R482). -/
def forceOff (n : Nat) (s : State) : State :=
  let s := when_ (chOut s n) (fun s => setb (Reg.harnTripsts (n / 8)) (16 + n % 8) true (forEach (feeds s n) noteSwitch s)) s
  setOut n false (nowInst s) s

/-- Channel n is applied by force (R482). -/
def channelForce (n : Nat) (s : State) : State :=
  match s.chg.act with
  | none => s
  | some d =>
    let old := oldCardsOf s n
    let s := forEach old (fun k s => freeSlot k (cardRecord k 10 (decidedNow s) s)) s
    let s := forceOff n (modCh n (fun x => { x with pulse := none, lap := false }) s)
    let s := setb Reg.chgSts 18 true (count Reg.chgForcedCnt s)
    let s := logCause 0x1002 2 n (rget s Reg.chgForcedCnt) 0 s
    let m := chMode s n
    appliedOne d n (applyRegs d n (modCh n (fun x => { x with firstLap := x.firstLap || decide (m = 1 ∨ m = 2 ∨ m = 4) }) s))

/-! ### The switch instant (R232, R479, R484) -/

/-- When a pending card is due, for the choice of the earliest CLEAR (R232). -/
def dueKey (s : State) (n : Nat) : Nat := 
  match cardDue s n with
  | .at_ h => h.due.steps
  | _ => if (slotSt s n).st = 5 then 2 ^ 81 else nearKey s n

/-- The old CLEAR that is kept for each active CARD_OUT channel (R232). -/
def keptClears (s : State) : List Nat :=
  (upto 0 512).flatMap fun c =>
    if chMode s c ≠ 9 ∨ !chOut s c then []
    else
      let ns := slotsWhere s fun n x => oldGen s x && x.pending && cAct (cw0 s n) == 1 && cChan (cw0 s n) == c
      match ns with
      | [] => []
      | n :: rest => [rest.foldl (fun b k => if dueKey s k < dueKey s b then k else b) n]

/-- The chain at a switch instant (R232): old cards are discarded, the kept ones apart. -/
def discardOld (kept : List Nat) (s : State) : State :=
  let s := forEach (slotsWhere s fun n x => oldGen s x && x.pending && !kept.contains n) (fun n s =>
    freeSlot n (cardRecord n 10 (decidedNow s) s)) s
  forEach (slotsWhere s fun _ x => oldGen s x && x.st == 1) freeSlot s

/-- Every heddle engine with a staged image awaits its swap (R328). -/
def swapsBegin (d : Draft) (s : State) : State :=
  forEach (upto 0 64) (fun e s =>
    if !(hedSt s e).staged then s
    else
      let tmo := 65536 * fld (rget s (hdrReg e (1 - hedBank s e) 3)) 24 8
      let t := if rb s (Reg.hedDbg e) 8 then tmo else s.time + tmo
      let s := modHed e (fun x => { x with swapAt := some t, swapEn := bit ((written d (Reg.hedCtl e)).getD 0) 0 })
        (setb (Reg.hedSts e) 12 true s)
      if hedStopped s e && !rb s (Reg.hedDbg e) 8 then swapStopped e s
      else when_ (!rb s (Reg.hedDbg e) 8) (swapLater e) s) s

/-- The switch-point registers outside channels and reeds (R479), and the filters of pins (R169). -/
def switchRegs (d : Draft) (s : State) : State :=
  let as := (d.regs.map fun x => x.1).eraseDups.filter fun a =>
    switchBits a != 0 && (!decide (0x100000 ≤ a ∧ a < 0x120000) || a % 0x100 == 0x3C)
  forEach as (fun a s => match written d a with
    | some v => putChanged a ((regView s a &&& ~~~ switchBits a) ||| (v &&& switchBits a)) s
    | none => s) s

/-- The reference position of tracker t for the new angle cards (R213): the switch point's, or where that is of another
tracker or of time the tracker's own. -/
def switchRef (s : State) (t : Nat) : Int :=
  if !rb s Reg.chgSwCtl 2 && rf s Reg.chgSwCtl 0 2 == t then switchPos s t (rn s Reg.chgSwA) (rf s Reg.chgSwB 0 24)
  else phi s t s.time

/-- The hitless switch instant (R479). -/
def switchHitless (d : Draft) (s : State) : State :=
  let half := 1 - genHalf s
  let s := modShed (fun x => { x with halfNext := some half, exHalf := half, exAt := s.time + 1, exWas := x.exHalf })
    (setf Reg.storePhalf 0 1 (1 - patHalf s) s)
  let kept := keptClears s
  let ref := switchRef s
  let s := armStaged ref (discardOld kept s)
  let s := swapsBegin d (loadPins d s)
  let s := loadPower d (loadFault d (switchRegs d s))
  let s := inForce d { s with chg := { s.chg with staged := none, chans := upto 0 512, harns := upto 0 64, kept := kept } }
  forEach (upto 0 512) (fun n s =>
    if decide (chMode s n ∈ [1, 2, 4]) || !applyDue s n then s else channelApply n s) s

/-- The switch instant of a changeover that is not hitless (R484): engines are held until the image is applied. -/
def switchCold (s : State) : State :=
  let s := { s with chg := { s.chg with swWait := true } }
  let old := slotsWhere s fun _ x => !x.staged && (x.pending || x.st == 4)
  let cs := (old.filter fun n => (slotSt s n).st == 4).map fun n => cChan (cw0 s n)
  let s := forEach old (fun n s => freeSlot n (cardRecord n 10 (decidedNow s) s)) s
  let s := forEach cs (fun c s => endOutput c (nowInst s) s) s
  engHolds (setMode 3 (forEach (slotsWhere s fun _ x => x.st == 1) freeSlot s))

/-- The switch instant (R478, R479, R484). -/
def switchOp (s : State) : State :=
  match s.chg.staged with
  | none => s
  | some d =>
    let s := set64 Reg.chgSwTLo Reg.chgSwTHi s.time (setStage 5 s)
    let s := { s with chg := { s.chg with swLc := s.time } }
    if rb s Reg.chgSts 3 then schedule (s.time + rn s Reg.chgDrainMax) .drain (switchHitless d s) else switchCold s

/-- The switch instant: a line changeover without GO ends instead (R478, R479, R512). -/
def switchInstantOp (s : State) : State := if s.sel.line && decide (lcoState s ≠ 3) then lineAbort 5 s else switchOp s

/-- Channel n awaits its application (R480). -/
def applyWaits (s : State) (n : Nat) : Bool := decide (stageState s = 5) && !s.chg.swWait && s.chg.chans.contains n

/-- The channels of harness h whose first wrap is the tick of this cycle are applied before it (R480). -/
def applyAtTick (h : Nat) (s : State) : State :=
  forEach (upto (8 * h) 8) (fun n s =>
    when_ (applyWaits s n && decide (chMode s n ∈ [1, 2, 4]) && applyDue s n) (channelApply n) s) s

/-- The channels without laps to wait for that are at their application instant in this cycle are applied (R480). -/
def applyReady (s : State) : State :=
  forEach s.chg.chans (fun n s =>
    when_ (applyWaits s n && !decide (chMode s n ∈ [1, 2, 4]) && applyDue s n) (channelApply n) s) s

/-- DRAIN_MAX has passed: the channels left are applied by force (R482). -/
def drainOp (s : State) : State :=
  when_ (decide (s.chg.swLc + rn s Reg.chgDrainMax ≤ s.time))
    (forEach s.chg.chans fun n s => when_ (applyWaits s n) (channelForce n) s) s

/-! ### The end (R483 to R485) -/

/-- Every engine has ended its last task of the old draft (R483). -/
def enginesNew (s : State) : Bool :=
  let h := genHalf s
  let old := fun d => decide (d / 4096 ≠ h)
  s.shed.halfNext.isNone && !(s.shed.exPend.any fun x => old x.desc) &&
    (upto 0 34).all fun e =>
      !((engSt s e).due.any old) && !((engSt s e).next.any old) &&
      [Ctx.normal, Ctx.express].all fun x => match (ctx s e x).task with | some r => decide (r.bank = h) | none => true

/-- CHANGEOVER may end (R483). -/
def chgMayEnd (s : State) : Bool :=
  decide (stageState s = 5) && !s.chg.swWait && s.chg.chans.isEmpty && s.chg.harns.isEmpty && enginesNew s &&
    (slotsWhere s fun n x => oldGen s x && (x.st == 4 || (x.pending && s.chg.kept.contains n))).isEmpty

/-- A changeover is over: the commit of the slot table is outstanding (R483). -/
def commitBegin (s : State) : State :=
  let s := count Reg.chgChgCnt { s with chg := { s.chg with commitRevert := rb s Reg.chgSts 4, kept := [] } }
  setb Reg.chgSts 16 true (setStage 6 s)

/-- The changeover ends, and the CHANGEOVER mode with it (R423, R483): a hold since the switch instant keeps SAFE-HOLD. -/
def chgEnd (s : State) : State :=
  let s := commitBegin s
  if mode s = 7 then enterMode s.chg.fromMode s else s

/-- What a changeover brings in a cycle when it ends, where no command has: the switch instant, applications, its end (R478, R480,
R483). -/
def chgCycle (s : State) : State :=
  let s := when_ (chgPending s && (switchTime s).any (· ≤ s.time)) switchInstantOp s
  if stageState s = 5 then
    let s := applyReady s
    when_ (chgMayEnd s) chgEnd s
  else s

/-- The cycle at which a changeover that is pending stops time on its way to `t` (R478). -/
def switchStop (s : State) (t : Nat) : Nat := if chgPending s then (switchTime s).getD t else t

/-- What the old draft still has waiting is dropped and counted (R70): tasks of the picks, pending bits, express requests. -/
def dropOldTasks (s : State) : State :=
  let s := forEach (upto 0 34) (fun e s =>
    let polled := ((engSt s e).due ++ (engSt s e).next).filter fun d => decide (fld (descWord s d 0) 6 2 ≠ 2)
    forEach polled (fun _ s => skipTask e s) s) s
  let s := forEach (s.shed.evPend ++ s.shed.exPend.map fun x => x.desc) (fun d s => skipTask (fld (descWord s d 0) 0 6 % 32) s) s
  let s := modShed (fun x => { x with evPend := [], exPend := [], lateEv := [], scanned := none }) s
  forEach (upto 0 34) expPendSts s

/-- The control registers that stop what keeps register `a` from being written in IDLE: of a tracker (R272), a position interface
(R303), the channels of a harness (R148). -/
def barsOf (a : Nat) : List Nat :=
  if 0x120000 ≤ a ∧ a < 0x124000 then (upto (8 * inst a 0x120000 0x100) 8).map Reg.chCtl
  else if 0x140000 ≤ a ∧ a < 0x144000 then [Reg.trdCtl (inst a 0x140000 0x1000)]
  else if 0x150000 ≤ a ∧ a < 0x151000 then [Reg.posCtl (inst a 0x150000 0x100)]
  else []

/-- The control registers of the units that a draft changes and that run (R476 reasons 2 to 4). -/
def coldBars (d : Draft) (s : State) : List Nat :=
  ((d.regs.filter fun x => locked (asIdle s) x.1 x.2 && differs s x.1 x.2).flatMap fun x => barsOf x.1).eraseDups

/-- A unit is stopped for the changes that pass through IDLE: MODE OFF, or EN = 0. -/
def coldStop (a : Nat) (s : State) : State :=
  applyWrite a (rget s a &&& rwBits a &&& if a < 0x120000 then ~~~ 0xF#32 else ~~~ 1#32) s

/-- The staged image is applied from flash (R484): running tasks of the old draft are gone, and units in which the draft changes
what accepts writes only while they stand are stopped, and go on as they were where the draft does not say. -/
def coldApply (s : State) : State :=
  let s := dropOldTasks (forEach (slotsWhere s fun _ x => x.staged) freeSlot s)
  let s := forEach (upto 0 34) (fun e s =>
    let s := modCtx e .express (fun _ => {}) (modCtx e .normal (fun _ => {}) s)
    let s := setb (Reg.shuDbg e) 9 false (modShu e (fun u => { u with back := none, divSave := none, eff := [] }) s)
    modEng e (fun g => { g with due := [], carried := 0, next := [], newBank := none, busy := false })
      (setEsts e (if rf s (Reg.engEsts e) 0 3 = 1 ∨ rf s (Reg.engEsts e) 0 3 = 2 then 0 else rf s (Reg.engEsts e) 0 3) s)) s
  let d := draftOf s (regionBase s.chg.region)
  let bars := coldBars d s
  let was := bars.map fun a => (a, rget s a &&& rwBits a)
  let s := loadDraft s.chg.region (forEach bars coldStop { s with chg := { s.chg with staged := none, swWait := false } })
  let s := forEach (was.filter fun x => (written d x.1).isNone) (fun x => applyWrite x.1 x.2) s
  let s := forEach (upto 0 64) (fun e s => if (hedSt s e).staged then modHed e (fun x => { x with staged := false }) s else s) s
  commitBegin (engHolds s)

/-- The slot table with the roles of the draft that has come into force (R483, R485). -/
def nextTable (s : State) : SlotTable :=
  let x := s.tack.slots
  let x := { x with seq := x.seq + 1, copy := 1 - x.copy }
  if s.chg.commitRevert then { x with active := x.previous, previous := x.active }
  else { x with active := x.staged, previous := x.active, staged := x.previous }

/-- The commit of the slot table is complete (R471, R483). -/
def commitOpSlots (s : State) : State :=
  let x := nextTable s
  let s := modTack (fun t => { t with slots := x }) (commitCopy 0 x.copy x.bytes s)
  setb Reg.gctlState 5 false (setb Reg.chgSts 16 false (setb Reg.chgSts 4 false (setb Reg.chgSts 3 false (setStage 0 s))))

end Sys2Proof.Machine
end

