-- ==== Sys2Proof/Machine/Time.lean ====
section
/-!
DEFINITION. Time (01_architecture.md R15 to R17; log entry 16): device time moves forward to the instant of a command, and what falls
due on the way takes place in its cycle; the live items of a shuttle (R98 to R100); the requests of the host port that
reach further words in later cycles (R629).
-/

namespace Sys2Proof.Machine

/-! ### Live items (R99, R100) -/

/-- A selector of RDL that is not a reserved encoding (R99). -/
def rdlValid (k : Nat) : Bool :=
  decide (k ≤ 1 ∨ 0x10 ≤ k ∧ k < 0x20 ∨ 0x40 ≤ k ∧ k < 0x80 ∧ k % 4 ≠ 3 ∨ 0x80 ≤ k ∧ k < 0xB2)

/-- A live item as engine e's context samples it (R99). -/
def liveItem (e : Nat) (x : Ctx) (k : Nat) (s : State) : Word × State :=
  if k = 0 then (wd s.time, modCtx e x (fun c => { c with liveT := s.time }) s)
  else if k = 1 then (wd ((ctx s e x).liveT / 2 ^ 32), s)
  else if k < 0x20 then
    let t := (k - 0x10) / 4
    let p := phi s t s.time
    (match k % 4 with
      | 0 => posPhase p
      | 1 => posCycle p
      | 2 => regView s (Reg.trdSts t)
      | _ => rget s (Reg.trdTper t), s)
  else if k < 0x80 then
    let i := (k - 0x40) / 4
    (regView s (match k % 4 with | 0 => Reg.posPosn i | 1 => Reg.posSpeed i | _ => Reg.posSts i), s)
  else if k < 0xA0 then (regView s (Reg.winSts (k - 0x80)), s)
  else if k < 0xB0 then (regView s (Reg.gctlPinlvl (k - 0xA0)), s)
  else if k = 0xB0 then (regView s Reg.gctlMode, s)
  else (regView s Reg.gctlState, s)

/-- A channel register as a CHR samples it (R100): CAP as a host read does. -/
def chrItem (e n sel : Nat) (s : State) : Word × State :=
  if sel = 9 then capReadOp n s
  else match chrReg n sel with
    | some a => (rget s a, s)
    | none => (0, dropEffect e 4 s)

/-- The access of a slot takes its sample (R99, R101). -/
def sampleSlot (e : Nat) (x : Ctx) (id : Nat) (s : State) : State :=
  let put := fun (a : Access) => modCtx e x (fun c => { c with slots := c.slots.map fun k => if k.id = id then { k with acc := a } else k })
  match (ctx s e x).slots.find? fun k => k.id == id with
  | some ⟨_, _, _, .rdl d k none⟩ => let r := liveItem e x k s; put (.rdl d k (some r.1)) r.2
  | some ⟨_, _, _, .chr d n sel none⟩ => let r := chrItem e n sel s; put (.chr d n sel (some r.1)) r.2
  | _ => s

/-! ### Ticks (R133 to R136) -/

/-- The tick of harness h that `harnTickAt` names, with the changeover of channels that await their wrap (R480); no further one
comes in its cycle (R134). -/
def harnTickOp (h : Nat) (s : State) : State :=
  let s := applyAtTick h s
  harnTick h (modHarn h (fun x => { x with late := (harnTickAt s h).2 }) s)

/-- The tick of harness h that falls in this cycle, where it has not come yet: before what else lands in the cycle (R136). -/
def tickFirst (h : Nat) (s : State) : State :=
  if running s && (harnTickAt s h).1 == s.time then harnTickOp h s else s

/-- The register at an address makes ticks of harness h count: CTL of a channel that is not OFF, a LOADNOW that is pending. -/
def ticking (h : Nat) (e : Nat × Word) : Bool :=
  (decide (Reg.chCtl (8 * h) ≤ e.1 ∧ e.1 < Reg.chCtl (8 * h + 8)) && decide (e.1 % 0x100 = 0) && fld e.2 0 4 != 0) ||
    (e.1 == Reg.harnLdsts h && bit e.2 8)

/-- The ticks of this cycle come before the accesses that land in it (R136), for every harness on which they have an effect. -/
def ticksFirst (s : State) : State :=
  forEach ((upto 0 64).filter fun h => s.regs.any (ticking h)) tickFirst s

/-! ### Calibration and blanking (R173, R186) -/

/-- A line of pin n (R173). -/
def calSet (s : State) (n : Nat) : CalLine → CalSet
  | .out => if n % 2 = 0 then (reedSt s (n / 2)).outA else (reedSt s (n / 2)).outB
  | .tdc => if n % 2 = 0 then (reedSt s (n / 2)).inA else (reedSt s (n / 2)).inB

def modCal (n : Nat) (l : CalLine) (c : CalSet) : State → State :=
  modReed (n / 2) fun r => match l with
    | .out => if n % 2 = 0 then { r with outA := c } else { r with outB := c }
    | .tdc => if n % 2 = 0 then { r with inA := c } else { r with inB := c }

/-- The owner of pin n, which is not its channel, has put an edge there in this cycle (R296, R311). -/
def unitEdge (s : State) (n : Nat) : Bool :=
  match ownerOf s n with
  | .channel => false
  | .heddle e r =>
    let was := hedPins { s with time := s.time - 1 } e
    let now := hedPins s e
    was.1.testBit r != now.1.testBit r || was.2.testBit r != now.2.testBit r
  | .position i _ => posClk s i != posClk { s with time := s.time - 1 } i || (tget ({} : PosSt) s.pos i).frame == some s.time

/-- No edge of pin n lies in the present cycle (R173): none sensed, none of its side of the reed, none by a cut or a switch to
or from SAFE, none of another owner. -/
def noEdgeNow (s : State) (n : Nat) : Bool :=
  ((chSt s n).trans.all fun t => t.t.lc != s.time) && (side s n).chg != s.time + 1 &&
    (match (side s n).edge with | some (t, _) => t.lc != s.time | none => true) && !switchedNow s n && !unitEdge s n

/-- A step of the calibration of a line of pin n (R173): the setting moves by one step at most; the line leaves its range, which is
noted once for each line; a line out of its range keeps its last valid setting. -/
def calibrate (n : Nat) (l : CalLine) (mv : CalMove) (s : State) : State :=
  let c := calSet s n l
  let by_ : Int := if c.lost then 0 else match mv with | .up => 1 | .down => -1 | _ => 0
  let s := modCal n l { pos := c.pos + by_, next := s.time + 4096, lost := c.lost || mv == .lost } s
  if mv == .lost && !c.lost then detect 13 n [n / 8] false (setb (Reg.reedSts (n / 2)) 16 false s) else s

/-- The step that calibration asked for in this cycle is made, unless an edge of the pin has fallen in it (R173). -/
def calStepOp (n : Nat) (mv : CalStep) (s : State) : State :=
  when_ (noEdgeNow s n && decide ((calSet s n mv.line).next ≤ s.time)) (calibrate n mv.line mv.move) s

/-- The blanking window of reed k has closed (R186): inputs still active act on its channels as new onsets. -/
def blankingEndOp (k : Nat) (s : State) : State :=
  let h := k / 4
  forEach ((upto 0 4).filter fun i => ignored s k i) (fun i s =>
    let s := setIgn k i false s
    when_ (rb s (Reg.harnTripsts h) (8 + i)) (tripAct h i ((tripChannels s h i).filter fun c => c / 2 == k)) s) s

/-- The bound after the window of reed k has come (R21, R186), if no change has opened it anew. -/
def blankDue (k : Nat) (s : State) : State :=
  if (reedSt s k).ign = 0 then s
  else if blankOpen s k s.time then schedule (blankEnd s k + 8) (.blankEnd k) s
  else blankingEndOp k s

/-! ### Requests that reach further words in later cycles (R629) -/

/-- A DW of a read request is sampled (R437, R533): a store's when port B of its bank grants the read (R371). -/
def sampleDw (p : Path) (a be id : Nat) (s : State) : State :=
  if p == .spi && inStore a && served s a then portAsk ⟨bankOf a, 0, .spiRead a⟩ s
  else
    let r := readBe p a be s
    match p with | .spi => spiWord r.1 r.2 | _ => hostWords id [r.1] r.2

/-! ### What falls due -/

/-- A level of pin n lands (R149): the channel, the position latches that follow the pin (R294), and the trackers (R247). -/
def edgeLands (n : Nat) (lv : Bool) (start : Trans) (s : State) : State :=
  let indet := rb s (Reg.chSts n) 19
  let s := edgeLandOp n lv start s
  if indet then s else trackPin n lv start.t (pinLatches n lv start.t s)

/-- Raises have come to the cycle in which their consumer takes them (R294, R300, R321, R354, R408). Those of a channel's action
inputs wait for its tick or its edge (R160). -/
def arrive (d : Dest) (s : State) : State :=
  match d with
  | .vec j => when_ (wireDue (.vec j) s) (raiseArrivalOp j) s
  | .hedTrig e => hedTrigArrive e s
  | .adcTrig i => adcTriggerOp i s
  | .posLatch i => latchArrive i s
  | .posFrame i => frameArrive i s
  | .chStart _ => s
  | .chRst _ => s
  | .chCap _ => s

/-- Something due takes place. -/
def performTimed (x : Timed) (s : State) : State :=
  match x with
  | .edgeLand n lv start => edgeLands n lv start s
  | .edgeLate n lv start => channelEdge n lv start.t start.cnt s
  | .angleEnd n slot => angleEndNow n slot s
  | .present n c => presentOp n c s
  | .tripJudge h => tripJudgeOp h s
  | .tripCut h i => tripCutOp h i s
  | .period n => periodOp n s
  | .blankEnd k => blankDue k s
  | .calStep n mv => calStepOp n mv s
  | .capDue n cap capt => captureEnd n cap capt s
  | .sample e x slot => sampleSlot e x slot s
  | .posLand i es => posLandOp i es s
  | .posLatch i t => when_ (posOn s i) (takeLatch i t) s
  | .tooth t i => judgeEdge (.tooth t i) s
  | .second t i => judgeEdge (.second t i) s
  | .stall t => stallEnd t s
  | .frameEnd i t0 => frameOver i t0 s
  | .wordDue i t0 => wordDueOp i t0 s
  | .latDue i l => latchEnd i l s
  | .bobRestart b src dst => bobBegin b src dst s
  | .mtTest => mtSet 3 s
  | .mtEnd r => mtFinish r s
  | .effDue e => effDueOp e s
  | .expressDue e => expressDueOp e s
  | .cardPlace => placeDue s
  | .nearDue => nearFill s
  | .dispatch => dispatchDue s
  | .grantB => grantOp s
  | .commit => commitDone s
  | .deliver j => deliverOp j s
  | .vecReady j => vecJudge j s
  | .arrive d => arrive d s
  | .hedHalt e => hedHaltNow e s
  | .hedSwap e => swapTimeout e s
  | .fixWord w => when_ (s.store.writeBack.contains w) (writeBackOp w) s
  | .drain => drainOp s
  | .ringTimeout => ringTimeoutDue s
  | .lineTimeout => lineTimeoutOp s
  | .portMeasure q => portMeasureDue q s
  | .wake => when_ (decide (power s = 2) && s.log.waking) wakeDone s
  | .busWrite p a be v => writeBe p a be v s
  | .busRead p a be id => sampleDw p a be id s

/-- A DW of an earlier request on path p is still to land or to sample (R629). -/
def onPath (p : Path) : Timed → Bool
  | .busWrite q _ _ _ => q == p
  | .busRead q _ _ _ => q == p
  | _ => false

/-- The sample of an access of a shuttle: it returns what stood before the writes of its cycle (R101). -/
def isSample : Timed → Bool
  | .sample .. => true
  | _ => false

/-- Effects of engine e at their bound. -/
def effOf (e : Nat) : Timed → Bool
  | .effDue d => d == e
  | _ => false

def isEff : Timed → Bool
  | .effDue _ => true
  | _ => false

/-- A capture or a latch that lands when its cycle ends (R155, R295), and a calibration that looks for edges in it (R173). -/
def landsLast : Timed → Bool
  | .capDue .. => true
  | .latDue .. => true
  | .calStep .. => true
  | _ => false

/-- Edges that follow the tick of their cycle (R136), and the periods that have started in it (R185). -/
def isLateEdge : Timed → Bool
  | .edgeLate .. => true
  | _ => false
def isPeriod : Timed → Bool
  | .period _ => true
  | _ => false

/-- A stall, which a tooth of its cycle prevents (R263). -/
def isStall : Timed → Bool
  | .stall _ => true
  | _ => false

/-- A pin latch of a position interface, which follows the counts of its cycle (R285). -/
def isPinLatch : Timed → Bool
  | .posLatch .. => true
  | _ => false

/-- The chain's dispatch of what has slipped or been passed, after the card commands of the cycle (R222, R226). -/
def isDispatch : Timed → Bool
  | .dispatch => true
  | _ => false

/-- A raise that its consumer has not taken by command, a swap whose timer has run out, a serial word at its bound, and trains that
have not come. -/
def isArrival : Timed → Bool
  | .arrive _ => true
  | .hedSwap _ => true
  | .wordDue .. => true
  | .ringTimeout => true
  | .lineTimeout => true
  | .portMeasure _ => true
  | _ => false

/-- An access that lands at the end of its cycle. -/
def isAccess (x : Timed) : Bool := isSample x || isEff x || onPath .pcie x || onPath .spi x || onPath .tackler x

/-- What belongs to the end of its cycle: the chain's dispatch, edges of the trackers, for TOOTH and SECONDARY_EDGE of the cycle,
accesses, which follow the tick of a cycle (R136), and captures and latches, which a read of the cycle does not meet (R155, R295). -/
def atEnd (x : Timed) : Bool :=
  isArrival x || isLateEdge x || isPeriod x || isDispatch x || isEdge x || isStall x || isAccess x || landsLast x

/-- What is due by now and answers to `c` takes place, in the order of its cycles. -/
def performIf (c : Timed → Bool) (s : State) : State :=
  let due := fun x : Nat × Timed => decide (x.1 ≤ s.time) && c x.2
  forEach (s.timed.filter due) (fun x => performTimed x.2) { s with timed := s.timed.filter fun x => !due x }

/-- What is due by now takes place, but for what belongs to the end of the cycle. -/
def performDue (s : State) : State := performIf isPinLatch (performIf (fun x => !atEnd x && !isPinLatch x) s)

/-- An access is due. -/
def accessDue (s : State) : Bool := s.timed.any fun x => decide (x.1 ≤ s.time) && isAccess x.2

/-- The accesses of this cycle whose place in the order of R101 is at most `r` take place, after the samples of the shuttles, which
follow the ticks of the cycle (R136). -/
def performAccesses (r : Nat) (s : State) : State :=
  let s := performIf isPeriod (when_ (accessDue s) ticksFirst s)
  let s := forEach [.pcie, .spi, .tackler] (fun p => when_ (decide (pathRank p ≤ r)) (performIf (onPath p))) (performIf isSample s)
  forEach (upto 0 34) (fun e => when_ (decide (shuRank e ≤ r)) (performIf (effOf e))) s

/-- The cycle ends: the chain dispatches what has slipped or been passed (R222, R226), the trackers judge the edges that have
landed (R248), its accesses follow in the order of R101, then the captures and latches that fell due in it, and what a
changeover brings (R478, R480, R483). -/
def endCycle (s : State) : State :=
  chgCycle <| performIf landsLast <| performAccesses (shuRank 33) <|
    performIf isStall <| performIf isEdge <| performIf isDispatch <| performIf isLateEdge <| performIf isArrival s

/-- The cycle in which an access of place `r` can take place: the present one, unless an access of a later place has been made in
it (R101). -/
def turnAt (r : Nat) (s : State) : Nat := if r < (cycNow s).rank then s.time + 1 else s.time

/-- An access of place `r` is made in this cycle, after its ticks (R136) and the accesses of earlier places (R101). -/
def takeTurn (r : Nat) (s : State) : State := modCyc (fun c => { c with rank := r }) (performAccesses r (ticksFirst s))

/-- Loom cycles that begin with the near window full are counted (R219). -/
def nearFullCycles (n : Nat) : State → State := fun s => when_ (rb s Reg.cardSts 0) (countN Reg.cardNearFullCnt n) s

/-- `n` loom cycles pass, up to device time `t`: what follows the passing of time is noted (R219, R386, R442). -/
def passTo (t n : Nat) (s : State) : State :=
  let s := nearFullCycles n s
  { powerSnap (bobSnap s) with time := t }

/-- The device reset that has been asked for, by a DEVICE_RESET (R431, R543) or by the fault policy (R599): its cycle and its
cause bit. -/
def resetNext (s : State) : Option (Nat × Nat) :=
  match s.host.resetAt, s.flt.resetAt with
  | some h, some f => some (if h ≤ f then (h, 5) else (f, 4))
  | some h, none => some (h, 5)
  | none, some f => some (f, 4)
  | none, none => none

/-- The cause of the reset that has come, if one has. -/
def resetDue (s : State) : Option Nat :=
  match resetNext s with
  | some x => if x.1 ≤ s.time then some x.2 else none
  | none => none

/-- The cycle of a reset stops time on its way to `t`. -/
def resetStop (s : State) (t : Nat) : Nat := match resetNext s with | some x => min t x.1 | none => t

/-- The stamps of a context, a shuttle, a heddle engine, a channel, a vector, a position interface and a bobbin that count loom
cycles, moved by `f` (R502). -/
def CtxSt.shift (f : Nat → Nat) (c : CtxSt) : CtxSt :=
  { c with ready := c.ready.map (fun x => (x.1, f x.2)), slots := c.slots.map fun k => { k with at_ := f k.at_ } }
def ShuSt.shift (f : Nat → Nat) (u : ShuSt) : ShuSt :=
  { u with nrm := u.nrm.shift f, exp := u.exp.shift f, issueAt := f u.issueAt, eff := u.eff.map (fun x => (f x.1, x.2))
           back := u.back.map f }
def HedSt.shift (f : Nat → Nat) (x : HedSt) : HedSt :=
  { x with accAt := f x.accAt, outs := x.outs.map (fun y => (f y.1, y.2)), swapAt := x.swapAt.map f }
def ChSt.shift (f : Nat → Nat) (x : ChSt) : ChSt :=
  { x with capRead := f x.capRead, capLand := f x.capLand, swAt := f x.swAt, xferAt := f x.xferAt }
def VecSt.shift (f : Nat → Nat) (x : VecSt) : VecSt :=
  { x with first := f x.first, arrAt := f x.arrAt, readyAt := f x.readyAt, lowTill := f x.lowTill, selAt := f x.selAt
           numAt := f x.numAt }
def PosSt.shift (f : Nat → Nat) (x : PosSt) : PosSt :=
  { x with latLand := f x.latLand, latRead := f x.latRead, loadAt := f x.loadAt, startAt := x.startAt.map f }
def BobSt.shift (f : Nat → Nat) (x : BobSt) : BobSt :=
  { x with issueAt := f x.issueAt, hist := x.hist.map (fun y => (f y.1, y.2)), txns := x.txns.map fun y => { y with at_ := f y.at_ } }

/-- Each entry of a table, changed. -/
def Tbl.each {α : Type} (f : α → α) (t : Tbl α) : Tbl α := t.map fun x => (x.1, f x.2)

/-- Stamps of loom cycles move by `f` against device time, where the two do not advance together (R502). -/
def shiftLoom (f : Nat → Nat) (s : State) : State :=
  { s with
    timed := s.timed.map fun x => (f x.1, x.2)
    ev := { s.ev with raisedAt := f s.ev.raisedAt, wires := s.ev.wires.map fun w => { w with at_ := f w.at_ } }
    ch := Tbl.each (·.shift f) s.ch
    vec := Tbl.each (·.shift f) s.vec
    shu := Tbl.each (·.shift f) s.shu
    hed := Tbl.each (·.shift f) s.hed
    pos := Tbl.each (·.shift f) s.pos
    bob := Tbl.each (·.shift f) s.bob
    cmp := Tbl.each (fun x => { x with hold := x.hold.map f, evalAt := x.evalAt.map f, thAt := f x.thAt }) s.cmp
    adc := { s.adc with freeAt := f s.adc.freeAt }
    sel := { s.sel with upAt := f s.sel.upAt, dnAt := f s.sel.dnAt, viols := s.sel.viols.map f, echoAt := s.sel.echoAt.map f }
    store := { s.store with takenB := Tbl.each f s.store.takenB,
                             portA := s.store.portA.map fun g => { g with asked := f g.asked, at_ := f g.at_ } }
    cyc := {} }

/-- The accumulators of the heddle engines and the time limits of the vectors count loom cycles (R313, R409): `n` lc of device
time that are stepped over add nothing. -/
def skipTicks (n : Nat) (s : State) : State :=
  { s with hed := Tbl.each (fun x => { x with accAt := x.accAt + n }) s.hed
           vec := Tbl.each (fun x => { x with first := x.first + n }) s.vec }

/-- A loom cycle passes in which device time holds (R502). -/
def heldCycle (s : State) : State :=
  let s := nearFullCycles 1 (shiftLoom (fun t => t - 1) (endCycle s))
  performDue { s with sel := { s.sel with hold := s.sel.hold - 1 } }

/-- Device time goes on to the next cycle at or before `t` in which something is due, or to `t`; held cycles pass first, one at a
time, and a step of device time comes with the next cycle (R502). -/
def passNext (t : Nat) (s : State) : State :=
  if s.sel.hold ≠ 0 then heldCycle s
  else
    let s := endCycle s
    let skip := s.sel.skip
    let lo := s.time + 1
    let s := if skip = 0 then s else skipTicks skip (shiftLoom (fun c => if c < lo then c else c + skip) s)
    let next := match s.timed with | x :: _ => max lo (min t x.1) | [] => t
    let next := max lo (min (resetStop s next) (switchStop s t))
    let next := if skip = 0 then next else max lo (lo + skip)
    let s := passTo next (if skip = 0 then next - s.time else 1) s
    performDue { s with sel := { s.sel with skip := 0, skipLo := if skip = 0 then none else some lo } }

/-- Device time goes on to cycle `t`, at most `fuel` stops on the way. A reset that falls due ends the run: the device stands as it
leaves it (R431). -/
def passUntil : Nat → Nat → State → State
  | 0, _, s => s
  | fuel + 1, t, s =>
    if t ≤ s.time then s
    else match resetDue s with
      | some c => deviceReset c s
      | none => passUntil fuel t (passNext t s)

/-- The state at cycle `t`, or as it is where `t` has passed. -/
def advanceTo (t : Nat) (s : State) : State := if t ≤ s.time then s else passUntil (t - s.time + s.sel.hold) t s

/-- One loom cycle passes, or one of SLUMBER's steps of 16 lc (R16, R443, R502). -/
def idleCycle (s : State) : State :=
  if mode s < 2 ∧ s.tack.boot = 0 then s
  else if s.sel.hold ≠ 0 then heldCycle s
  else advanceTo (s.time + if power s = 2 then 16 else 1) s

/-- A meaning at the instant `t` of its event: time goes on to it, the effect takes place where its condition then holds,
and the fault policy acts (R597). -/
def atTime (t : Nat) (c : State → Bool) (f : State → State) (s : State) : Result :=
  let s' := advanceTo t s
  .next (if c s' then settle (f s') else s)

/-- A meaning in the present cycle: the effect where its condition holds, and the fault policy. -/
def nowIf (c : Bool) (f : State → State) (s : State) : Result := .next (if c then settle (f s) else s)

/-- A meaning at an instant that may not be known: without one the event cannot take place. -/
def atOpt (t : Option Nat) (c : State → Bool) (f : State → State) (s : State) : Result :=
  match t with
  | none => .next s
  | some t => atTime t c f s

end Sys2Proof.Machine
end

