-- ==== Sys2Proof/Machine/Register.lean ====
section
/-!
DEFINITION. Register commands in common, and the commands of 01_architecture.md (R4 to R11, R18, R26, R42).
-/

namespace Sys2Proof.Machine

/-- The cycle in which the last request of port-B requester `who` is granted (R371), some cycles on at most. -/
def portClear (who : Nat) : Nat → State → Nat
  | 0, s => s.time
  | fuel + 1, s =>
    if !(s.store.reqs.any fun r => r.who == who) then s.time
    else portClear who fuel (advanceTo (s.time + 1) s)

/-- The cycle from which path p takes a further access: accesses of one path keep their order (R438). -/
def pathFree (p : Path) (s : State) : Nat :=
  let t := (s.timed.filter fun x => onPath p x.2).foldl (fun t x => max t x.1) 0
  let k := (s.store.reqs.filter fun r => r.who == pathPort p).length
  if k = 0 then t else max t (portClear (pathPort p) (36 * k) s)

/-- An access on path p in its turn (R101), and the fault policy. The device in RESET takes none. -/
def accessCmd (p : Path) (f : State → State) (s : State) : Result :=
  atTime (max (pathFree p s) (turnAt (pathRank p) s)) (fun s' => mode s' != 0) (fun s' => f (takeTurn (pathRank p) s')) s

/-- A register write that a command stands for. -/
def writeCmd (p : Path) (a : Nat) (v : Word) (s : State) : Result := accessCmd p (writeReg p a v) s

/-- A register read: the word goes to `rdata`. -/
def readWordOp (p : Path) (a : Nat) (s : State) : State :=
  let r := readDw p a s
  { r.2 with rdata := [r.1] }

/-- A register read that a command stands for. -/
def readCmd (p : Path) (a : Nat) (s : State) : Result := accessCmd p (readWordOp p a) s

/-- The RW fields of a register as they are, every other bit 0: what a command writes back that changes one field. -/
def keepWord (s : State) (a : Nat) : Word :=
  match descAt a with
  | some d => rget s a &&& wd d.rw
  | none => 0

/-- A write that sets bit `i` and keeps the RW fields. -/
def setBitCmd (p : Path) (a i : Nat) (s : State) : Result := writeCmd p a (setBit (keepWord s a) i true) s

/-- A write that clears bit `i` and keeps the other RW fields. -/
def clearBitCmd (p : Path) (a i : Nat) (s : State) : Result := writeCmd p a (setBit (keepWord s a) i false) s

/-- The bytes of an access width (R10). -/
def widthBytes : Width → Nat
  | .w8 => 1 | .w16 => 2 | .w32 => 4 | .w64 => 8

/-- REGISTER_WRITE on the address space (R4 to R10, R368, R629): stores take any width at natural alignment; a register takes
a full aligned word, two in consecutive cycles for 64 bits, and refuses a narrower one. -/
def accessWrite (p : Path) (a : Nat) (w : Width) (v : BitVec 64) (s : State) : State :=
  let lo := wd v.toNat
  if a % widthBytes w ≠ 0 ∨ 0x4000000 ≤ a then s
  else if inStore a then writeMemBytes p a (leBytes (widthBytes w) v.toNat) s
  else match w with
    | .w8 => narrowWrite p (a / 4 * 4) lo s
    | .w16 => narrowWrite p (a / 4 * 4) lo s
    | .w32 => writeReg p a lo s
    | .w64 => if p = .tackler then s else schedule (s.time + 1) (.busWrite p (a + 4) 15 (wd (v.toNat / 2 ^ 32))) (writeReg p a lo s)

/-- REGISTER_WRITE (R4). -/
def execRegisterWrite (p : Path) (addr : BitVec 32) (width : Width) (v : BitVec 64) (s : State) : Result :=
  accessCmd p (accessWrite p addr.toNat width v) s

/-- PAIR_LO_READ (R11). -/
def execPairLoRead (p : Path) (pr : RegPair) (s : State) : Result := readCmd p (pairAddr pr) s

/-- PAIR_LO_WRITE (R11). -/
def execPairLoWrite (p : Path) (pr : RegPair) (v : BitVec 32) (s : State) : Result := writeCmd p (pairAddr pr) v s

/-- PAIR_HI_WRITE (R11). -/
def execPairHiWrite (p : Path) (pr : RegPair) (v : BitVec 32) (s : State) : Result := writeCmd p (pairAddr pr + 4) v s

/-- TIME_LO_READ (R18). -/
def execTimeLoRead (p : Path) (s : State) : Result := readCmd p Reg.gctlTimeLo s

/-- COMMIT (R26). -/
def execCommit (p : Path) (s : State) : Result := writeCmd p Reg.gctlPinctl 1 s

/-- CNT_CLR of GCTL.CTL (R42). -/
def execCntClr (p : Path) (s : State) : Result := setBitCmd p Reg.gctlCtl 8 s

end Sys2Proof.Machine
end

