-- ==== Sys2Proof/Machine/ExecShed.lean ====
section
/-!
DEFINITION. Meanings of the commands of 02_pick_and_shed.md: pick starts, scans, and the dispatch of normal and express
tasks.
-/

namespace Sys2Proof.Machine

/-! ### Picks (R45, R49) -/

/-- The scan of the pick that starts at `p` has been made, or is not made (R49, R594): a pick that a change of LEN has brought nearer than
160 lc starts without a scan of its own (DESIGN CHOICE, log entry 31). -/
def scanDone (s : State) (p : Nat) : Bool :=
  decide (s.shed.scanned = some p ∨ p < s.shed.resume ∨ p < s.time + 160)

/-- What a pick start brings with it (R46, R50 to R52, R68, R217, R267, R502, R595). -/
def pickEffect (s : State) : State := alignPick (nearAgain (trackPick (readbackDeclare (pickStartOp s))))

/-- PICK_START (R45). -/
def execPickStart (s : State) : Result :=
  atTime (nextPick s) (fun s' => picksRun s' && scanDone s (nextPick s) && s'.time % pickLenNow s' == 0) pickEffect s

/-- SCAN_POINT (R49). -/
def execScanPoint (s : State) : Result :=
  atTime (nextPick s - 160)
    (fun s' => picksRun s' && decide (s'.time < nextPick s') && !scanDone s (nextPick s)) scanOp s

/-! ### Tasks (R57, R63 to R65) -/

/-- The express context of engine e is idle and the normal one is the active one. -/
def expressIdle (s : State) (e : Nat) : Bool :=
  (ctx s e .express).task.isNone && (shuSt s e).back.isNone

/-- TASK_START (R57). -/
def execTaskStart (e : Fin 34) (s : State) : Result :=
  atTime (engSt s e).readyAt
    (fun s' => engOpen s' e && expressIdle s' e && (ctx s' e .normal).task.isNone && !(engSt s' e).due.isEmpty)
    (startTask e) s

/-- EXPRESS_START (R63, R64): at an instruction boundary of the normal context, or after an earlier express run. -/
def execExpressStart (e : Fin 34) (s : State) : Result :=
  atTime (boundary s e)
    (fun s' => mayExpress s' e)
    (expressStartOp e) s

/-- The end of an express run by R65. -/
def expressLimitOp (e : Nat) (s : State) : State :=
  let s := setb (Reg.engEsts e) 9 true s
  expressEndAt e s.time (raise 2756 s)

/-- The cycle in which the express run of engine e reaches a limit of R65. -/
def expressLimitAt (s : State) (e : Nat) : Option Nat :=
  match (ctx s e .express).task with
  | none => none
  | some r => some (if 256 ≤ r.retired then max s.time (shuSt s e).issueAt else r.start + 352 + r.lost)

/-- EXPRESS_LIMIT (R65). -/
def execExpressLimit (e : Fin 34) (s : State) : Result :=
  atOpt (expressLimitAt s e) (fun s' => (ctx s' e .express).task.isSome && !rb s' (Reg.shuDbg e) 8) (expressLimitOp e) s

/-- CONTEXT_RESUME (R63). -/
def execContextResume (e : Fin 34) (s : State) : Result :=
  atOpt (shuSt s e).back (fun s' => (shuSt s' e).back.isSome) (resumeNormal e) s

/-- SHED_CNT_CLR (R81). -/
def execShedCntClr (p : Path) (s : State) : Result := setBitCmd p Reg.shedCtl 8 s

end Sys2Proof.Machine
end

