-- ==== Sys2Proof/Machine/ExecShuttle.lean ====
section
/-!
DEFINITION. Meanings of the commands of 03_shuttle_engines.md: the instruction set, effects on their way, results, and
debug control.
-/

namespace Sys2Proof.Machine

/-! ### Issue (R88, R94, R118, R123) -/

/-- The express context has not reached a limit of R65. -/
def withinLimit (s : State) (e : Nat) : Bool :=
  match active s e, (shuSt s e).exp.task with
  | .express, some r => decide (r.retired < 256 ∧ s.time < r.start + 352 + r.lost)
  | _, _ => true

/-- The first instruction of an express task takes its snapshot (R50, R98). -/
def expressSnap (e : Nat) (x : Ctx) (s : State) : State :=
  match x, (shuSt s e).exp.task with
  | .express, some r => if r.retired = 0 then modShu e (fun u => { u with snap := takeSnap s }) s else s
  | _, _ => s

/-- The registers, and for `flagsNo` the flags, that an instruction reads pass their parity check (R114): a mismatch is noted and
execution goes on. -/
def parity (e : Nat) (x : Ctx) (reads : List Nat) (s : State) : State :=
  if checkOn s && reads.any fun i => (ctx s e x).par.contains i then
    modCtx e x (fun c => { c with err := true }) (setb (Reg.shuFsts e) 4 true s)
  else s

/-- An uncorrectable error in code RAM (R123): its detection under class 0, and task fault 6. -/
def codeFault (e : Nat) (s : State) : State := taskFault e 6 0 (detect 0 0 (serves s e) false s)

/-- What stands at the PC of the active context is the instruction `i`, and neither a fault of fetching it nor a wait of
R94 stands before it. -/
def atInstr (s : State) (e : Fin 34) (i : Instr) (uses : List Nat) (need : Nat) (free : Bool) : Bool :=
  let x := active s e
  let c := ctx s e x
  decide (shuDecode e (fetchWord s e x) = i) && !(uses.any (isPending c)) && decide (slotsHeld (shuSt s e) + need ≤ 4) &&
    (!free || c.slots.isEmpty)

/-- The PC of the active context is past the last instruction (R118). -/
def pcPast (s : State) (e : Nat) : Bool := decide (2048 ≤ (ctx s e (active s e)).pc)

/-- The word at the PC of the active context has an uncorrectable error (R123). -/
def codeBadAt (s : State) (e : Nat) : Bool := (codeAt s e (active s e)).2

/-- The instruction `i` of engine e issues (R88, R94): once the registers in `uses` are available, `need` slots are free and,
where `free` is set, its context holds no slot. `uses` names its `dsts` result registers first, then what it reads.
Execution past instruction 2,047 is task fault 5, an uncorrectable word task fault 6. -/
def issue (e : Fin 34) (i : Instr) (uses : List Nat) (dsts need : Nat) (free : Bool) (body : Ctx → State → State) (s : State) :
    Result :=
  let s' := advanceTo (issueTime s e uses) s
  if !mayIssue s' e || !withinLimit s' e then .next s
  else if pcPast s' e then .next (settle (taskFault e 5 0 s'))
  else if codeBadAt s' e then .next (settle (codeFault e s'))
  else if !atInstr s' e i uses need free then .next s
  else
    let x := active s' e
    .next (settle (body x (parity e x (uses.drop dsts) (expressSnap e x s'))))

/-! ### Arithmetic (R86, R89, R90, R114) -/

/-- The residue check of an arithmetic result (R114, R584, R602): an injected error latches the error bit of the run, while checking is
on. -/
def residue (e : Nat) (x : Ctx) (s : State) : State :=
  if x = .normal ∧ s.flt.injRes = some e then
    let s := modFlt (fun f => { f with injRes := none }) s
    if checkOn s then modCtx e x (fun c => { c with err := true }) (setb (Reg.shuFsts e) 5 true s) else s
  else s

/-- A result and flags (R86): the result may be used `lat` lc after issue, the flags by the next instruction, those of MUL, MULH and MULHU
too (DESIGN CHOICE, log entry 33). -/
def putResult (e : Nat) (x : Ctx) (d lat : Nat) (r : Word × Flags) (s : State) : State :=
  setFlags e x r.2 (setG e x d r.1 (s.time + lat) s)

/-- An arithmetic or logic instruction of two operands. -/
def aluBody (e d a b lat : Nat) (chk : Bool) (f : Flags → Word → Word → Word × Flags) (x : Ctx) (s : State) : State :=
  retire e x 1 (when_ chk (residue e x) (putResult e x d lat (f (ctx s e x).flags (gr s e x a) (gr s e x b)) s))

/-- The same with an immediate in place of the second operand. -/
def immBody (e d a : Nat) (v : Word) (chk : Bool) (f : Flags → Word → Word → Word × Flags) (x : Ctx) (s : State) : State :=
  retire e x 1 (when_ chk (residue e x) (putResult e x d 1 (f (ctx s e x).flags (gr s e x a) v) s))

/-- A comparison: flags alone. -/
def cmpBody (e a : Nat) (v : State → Ctx → Word) (x : Ctx) (s : State) : State :=
  retire e x 1 (residue e x (setFlags e x (subFlags (gr s e x a) (v s x) 0).2 s))

/-- A division (R88, R89): it holds the issue for 20 lc, and an express start may abandon it meanwhile (R109). -/
def divBody (e d a b : Nat) (f : Flags → Word → Word → Word × Flags) (x : Ctx) (s : State) : State :=
  let save := match x with | .normal => some (ctx s e x, d, s.time + 20) | .express => none
  let s := residue e x (putResult e x d 20 (f (ctx s e x).flags (gr s e x a) (gr s e x b)) s)
  retire e x 20 (modShu e (fun u => { u with divSave := save }) s)

/-- A logic result: N and Z. -/
def logicFlags (g : Word → Word → Word) (f : Flags) (a b : Word) : Word × Flags := (g a b, flagsNZ f (g a b))

/-- The products of R86. -/
def mulLow (a b : Word) : Word := a * b
def mulHigh (a b : Word) : Word := BitVec.ofInt 32 (a.toInt * b.toInt / 2 ^ 32)
def mulHighU (a b : Word) : Word := wd (a.toNat * b.toNat / 2 ^ 32)

/-- Signed minimum and maximum; flags unchanged. -/
def minResult (f : Flags) (a b : Word) : Word × Flags := (if a.toInt ≤ b.toInt then a else b, f)
def maxResult (f : Flags) (a b : Word) : Word × Flags := (if a.toInt ≤ b.toInt then b else a, f)

/-- ILL (R118): task fault 1. -/
def execIll (e : Fin 34) (s : State) : Result := issue e (.ill e) [] 0 0 false (fun _ => taskFault e 1 0) s

/-- NOP (R86). -/
def execNop (e : Fin 34) (s : State) : Result := issue e (.nop e) [] 0 0 false (fun x => retire e x 1) s

/-- ADD (R86). -/
def execAluAdd (e : Fin 34) (d a b : Fin 16) (s : State) : Result :=
  issue e (.aluAdd e d a b) [d, a, b] 1 0 false (aluBody e d a b 1 true fun _ u v => addFlags u v 0) s

/-- SUB (R86). -/
def execAluSub (e : Fin 34) (d a b : Fin 16) (s : State) : Result :=
  issue e (.aluSub e d a b) [d, a, b] 1 0 false (aluBody e d a b 1 true fun _ u v => subFlags u v 0) s

/-- ADC (R86). -/
def execAluAdc (e : Fin 34) (d a b : Fin 16) (s : State) : Result :=
  issue e (.aluAdc e d a b) [d, a, b, flagsNo] 1 0 false (aluBody e d a b 1 true fun f u v => addFlags u v (b2n f.c)) s

/-- SBC (R86). -/
def execAluSbc (e : Fin 34) (d a b : Fin 16) (s : State) : Result :=
  issue e (.aluSbc e d a b) [d, a, b, flagsNo] 1 0 false (aluBody e d a b 1 true fun f u v => subFlags u v (1 - b2n f.c)) s

/-- AND (R86). -/
def execAluAnd (e : Fin 34) (d a b : Fin 16) (s : State) : Result :=
  issue e (.aluAnd e d a b) [d, a, b] 1 0 false (aluBody e d a b 1 false (logicFlags (· &&& ·))) s

/-- OR (R86). -/
def execAluOr (e : Fin 34) (d a b : Fin 16) (s : State) : Result :=
  issue e (.aluOr e d a b) [d, a, b] 1 0 false (aluBody e d a b 1 false (logicFlags (· ||| ·))) s

/-- XOR (R86). -/
def execAluXor (e : Fin 34) (d a b : Fin 16) (s : State) : Result :=
  issue e (.aluXor e d a b) [d, a, b] 1 0 false (aluBody e d a b 1 false (logicFlags (· ^^^ ·))) s

/-- SHL (R86). -/
def execAluShl (e : Fin 34) (d a b : Fin 16) (s : State) : Result :=
  issue e (.aluShl e d a b) [d, a, b] 1 0 false (aluBody e d a b 1 false fun f u v => shlFlags f u (fld v 0 5)) s

/-- SHR (R86). -/
def execAluShr (e : Fin 34) (d a b : Fin 16) (s : State) : Result :=
  issue e (.aluShr e d a b) [d, a, b] 1 0 false (aluBody e d a b 1 false fun f u v => shrFlags f u (fld v 0 5)) s

/-- SAR (R86). -/
def execAluSar (e : Fin 34) (d a b : Fin 16) (s : State) : Result :=
  issue e (.aluSar e d a b) [d, a, b] 1 0 false (aluBody e d a b 1 false fun f u v => sarFlags f u (fld v 0 5)) s

/-- MUL (R86). -/
def execAluMul (e : Fin 34) (d a b : Fin 16) (s : State) : Result :=
  issue e (.aluMul e d a b) [d, a, b] 1 0 false (aluBody e d a b 2 true (logicFlags mulLow)) s

/-- MULH (R86). -/
def execAluMulh (e : Fin 34) (d a b : Fin 16) (s : State) : Result :=
  issue e (.aluMulh e d a b) [d, a, b] 1 0 false (aluBody e d a b 2 true (logicFlags mulHigh)) s

/-- MULHU (R86). -/
def execAluMulhu (e : Fin 34) (d a b : Fin 16) (s : State) : Result :=
  issue e (.aluMulhu e d a b) [d, a, b] 1 0 false (aluBody e d a b 2 true (logicFlags mulHighU)) s

/-- DIVS (R89). -/
def execAluDivs (e : Fin 34) (d a b : Fin 16) (s : State) : Result :=
  issue e (.aluDivs e d a b) [d, a, b] 1 0 false (divBody e d a b divsFlags) s

/-- DIVU (R89). -/
def execAluDivu (e : Fin 34) (d a b : Fin 16) (s : State) : Result :=
  issue e (.aluDivu e d a b) [d, a, b] 1 0 false (divBody e d a b divuFlags) s

/-- MIN (R86). -/
def execAluMin (e : Fin 34) (d a b : Fin 16) (s : State) : Result :=
  issue e (.aluMin e d a b) [d, a, b] 1 0 false (aluBody e d a b 1 false minResult) s

/-- MAX (R86). -/
def execAluMax (e : Fin 34) (d a b : Fin 16) (s : State) : Result :=
  issue e (.aluMax e d a b) [d, a, b] 1 0 false (aluBody e d a b 1 false maxResult) s

/-- CMP (R86). -/
def execCmp (e : Fin 34) (a b : Fin 16) (s : State) : Result :=
  issue e (.cmp e a b) [a, b] 0 0 false (cmpBody e a fun s x => gr s e x b) s

/-- ADDI (R86). -/
def execAddi (e : Fin 34) (d a : Fin 16) (imm : BitVec 14) (s : State) : Result :=
  issue e (.addi e d a imm) [d, a] 1 0 false (immBody e d a (sext14 imm) true fun _ u v => addFlags u v 0) s

/-- ANDI (R86). -/
def execAndi (e : Fin 34) (d a : Fin 16) (imm : BitVec 14) (s : State) : Result :=
  issue e (.andi e d a imm) [d, a] 1 0 false (immBody e d a (zext14 imm) false (logicFlags (· &&& ·))) s

/-- ORI (R86). -/
def execOri (e : Fin 34) (d a : Fin 16) (imm : BitVec 14) (s : State) : Result :=
  issue e (.ori e d a imm) [d, a] 1 0 false (immBody e d a (zext14 imm) false (logicFlags (· ||| ·))) s

/-- XORI (R86). -/
def execXori (e : Fin 34) (d a : Fin 16) (imm : BitVec 14) (s : State) : Result :=
  issue e (.xori e d a imm) [d, a] 1 0 false (immBody e d a (zext14 imm) false (logicFlags (· ^^^ ·))) s

/-- SHLI (R86). -/
def execShli (e : Fin 34) (d a : Fin 16) (imm : BitVec 14) (s : State) : Result :=
  issue e (.shli e d a imm) [d, a] 1 0 false
    (immBody e d a (zext14 imm) false fun f u v => shlFlags f u (fld v 0 5)) s

/-- SHRI (R86). -/
def execShri (e : Fin 34) (d a : Fin 16) (imm : BitVec 14) (s : State) : Result :=
  issue e (.shri e d a imm) [d, a] 1 0 false
    (immBody e d a (zext14 imm) false fun f u v => shrFlags f u (fld v 0 5)) s

/-- SARI (R86). -/
def execSari (e : Fin 34) (d a : Fin 16) (imm : BitVec 14) (s : State) : Result :=
  issue e (.sari e d a imm) [d, a] 1 0 false
    (immBody e d a (zext14 imm) false fun f u v => sarFlags f u (fld v 0 5)) s

/-- CMPI (R86). -/
def execCmpi (e : Fin 34) (a : Fin 16) (imm : BitVec 14) (s : State) : Result :=
  issue e (.cmpi e a imm) [a] 0 0 false (cmpBody e a fun _ _ => sext14 imm) s

/-- SEL (R86, R87). -/
def execSel (e : Fin 34) (d a b : Fin 16) (cond : BitVec 4) (s : State) : Result :=
  issue e (.sel e d a b cond) [d, a, b, flagsNo] 1 0 false
    (aluBody e d a b 1 false fun f u v => (if condHolds cond f then u else v, f)) s

/-- A constant in a register. -/
def constBody (e d : Nat) (v : Word) (x : Ctx) (s : State) : State := retire e x 1 (setG e x d v (s.time + 1) s)

/-- LUI (R86). -/
def execLui (e : Fin 34) (d : Fin 16) (imm : BitVec 18) (s : State) : Result :=
  issue e (.lui e d imm) [d] 1 0 false (constBody e d (wd (imm.toNat * 2 ^ 14))) s

/-- LI (R86). -/
def execLi (e : Fin 34) (d : Fin 16) (imm : BitVec 18) (s : State) : Result :=
  issue e (.li e d imm) [d] 1 0 false (constBody e d (sext18 imm)) s

/-- PADD (R90). -/
def execPadd (e : Fin 34) (d a b : Fin 16) (s : State) : Result :=
  issue e (.padd e d a b) [d, a, b] 1 0 false (aluBody e d a b 1 true paddFlags) s

/-- PDIF (R90). -/
def execPdif (e : Fin 34) (d a b : Fin 16) (s : State) : Result :=
  issue e (.pdif e d a b) [d, a, b] 1 0 false (aluBody e d a b 1 true pdifFlags) s

/-! ### Memory access (R91 to R97) -/

/-- The task fault of an access of `n` bytes at an address (R91 to R93), if any. -/
def memFault (s : State) (ea n : Nat) (store : Bool) : Option Nat :=
  if ea % n ≠ 0 then some 3
  else if !shuAddr ea || (store && idleHalf s ea) then some 4
  else none

/-- The access slot taken last asks port A for an address `d` lc from now (R370). -/
def portUse (e p d lat : Nat) (s : State) : State :=
  askA ⟨bankOf p, e, (shuSt s e).slotId - 1, s.time + d, s.time + d, lat⟩ s

/-- A load of `n` bytes at `ea` (R91 to R96): the value taken from its bytes goes to the registers that `put` names 6 lc
later at the earliest; an uncorrectable error is task fault 7. While its bank is full the instruction waits (R370). The data are those of the cycle of issue,
also where a conflict delays the grant (DESIGN CHOICE, log entry 33). -/
def loadAt (e : Nat) (x : Ctx) (ea n : Nat) (put : Nat → List (Nat × Word)) (s : State) : State :=
  match memFault s ea n false with
  | some c => taskFault e c ea s
  | none =>
    let p := shuPhysical s (runBank (ctx s e x)) ea
    if bankFull s p then s
    else
      let r := checkRead (.shuttle e) p n s
      if r.1 then taskFault e 7 ea r.2
      else
        let s := takeSlot e x 6 1 (.load (put (portN (.shuttle e) r.2 p n))) r.2
        retire e x 1 (portUse e p 0 6 s)

/-- A store of the `n` low bytes of `v` at `ea` (R91 to R95), with the words that enter W (R112). -/
def storeAt (e : Nat) (x : Ctx) (ea n v : Nat) (fed : List Word) (s : State) : State :=
  match memFault s ea n true with
  | some c => taskFault e c ea s
  | none =>
    let p := shuPhysical s (runBank (ctx s e x)) ea
    if bankFull s p then s
    else
      let lat := if wordClosed (.shuttle e) (wordOf p) s then 7 else 6
      let s := writeN (.shuttle e) p n v s
      retire e x 1 (portUse e p 0 lat (takeSlot e x lat 1 .store (feedW e x (wd ea :: fed) s)))

/-- The effective address g[a] + sext(imm14). -/
def effAddr (s : State) (e : Nat) (x : Ctx) (a : Nat) (imm : BitVec 14) : Nat := (gr s e x a + sext14 imm).toNat

/-- LD (R86). -/
def execLd (e : Fin 34) (d a : Fin 16) (imm : BitVec 14) (s : State) : Result :=
  issue e (.ld e d a imm) [d, a] 1 1 false
    (fun x s => loadAt e x (effAddr s e x a imm) 4 (fun v => [(d.val, wd v)]) s) s

/-- LDH (R86). -/
def execLdh (e : Fin 34) (d a : Fin 16) (imm : BitVec 14) (s : State) : Result :=
  issue e (.ldh e d a imm) [d, a] 1 1 false
    (fun x s => loadAt e x (effAddr s e x a imm) 2 (fun v => [(d.val, BitVec.ofInt 32 (toSigned 16 v))]) s) s

/-- LDHU (R86). -/
def execLdhu (e : Fin 34) (d a : Fin 16) (imm : BitVec 14) (s : State) : Result :=
  issue e (.ldhu e d a imm) [d, a] 1 1 false
    (fun x s => loadAt e x (effAddr s e x a imm) 2 (fun v => [(d.val, wd v)]) s) s

/-- LDBU (R86). -/
def execLdbu (e : Fin 34) (d a : Fin 16) (imm : BitVec 14) (s : State) : Result :=
  issue e (.ldbu e d a imm) [d, a] 1 1 false
    (fun x s => loadAt e x (effAddr s e x a imm) 1 (fun v => [(d.val, wd v)]) s) s

/-- LDD (R86, R93). -/
def execLdd (e : Fin 34) (d a : Fin 16) (imm : BitVec 14) (s : State) : Result :=
  issue e (.ldd e d a imm) [d, d + 1, a] 2 1 false
    (fun x s => if d.val % 2 = 1 then taskFault e 2 0 s
      else loadAt e x (effAddr s e x a imm) 8 (fun v => [(d.val, wd v), (d.val + 1, wd (v / 2 ^ 32))]) s) s

/-- ST (R86). -/
def execSt (e : Fin 34) (a b : Fin 16) (imm : BitVec 14) (s : State) : Result :=
  issue e (.st e a b imm) [a, b] 0 1 false
    (fun x s => storeAt e x (effAddr s e x a imm) 4 (gr s e x b).toNat [gr s e x b] s) s

/-- STH (R86). -/
def execSth (e : Fin 34) (a b : Fin 16) (imm : BitVec 14) (s : State) : Result :=
  issue e (.sth e a b imm) [a, b] 0 1 false
    (fun x s => storeAt e x (effAddr s e x a imm) 2 (gr s e x b).toNat [gr s e x b &&& 0xFFFF#32] s) s

/-- STB (R86). -/
def execStb (e : Fin 34) (a b : Fin 16) (imm : BitVec 14) (s : State) : Result :=
  issue e (.stb e a b imm) [a, b] 0 1 false
    (fun x s => storeAt e x (effAddr s e x a imm) 1 (gr s e x b).toNat [gr s e x b &&& 0xFF#32] s) s

/-- STD (R86, R93). -/
def execStd (e : Fin 34) (a b : Fin 16) (imm : BitVec 14) (s : State) : Result :=
  issue e (.std e a b imm) [a, b, b + 1] 0 1 false
    (fun x s => if b.val % 2 = 1 then taskFault e 2 0 s
      else
        let lo := gr s e x b
        let hi := gr s e x (b.val + 1)
        storeAt e x (effAddr s e x a imm) 8 (lo.toNat + 2 ^ 32 * hi.toNat) [lo, hi] s) s

/-- The effective address in a circular-buffer window (R97); none where the window's size is 0. The sum g[a] + 4 × imm wraps at 2^32 before
the modulo (DESIGN CHOICE, log entry 33). -/
def windowAddr (s : State) (g : Word) (imm : BitVec 14) : Option Nat :=
  let w := imm.toNat / 1024
  if cbwSize s w = 0 then none
  else some ((cbwBase s w + (g + wd (4 * (imm.toNat % 1024))).toNat % cbwSize s w) % 2 ^ 32)

/-- LDC (R97). -/
def execLdc (e : Fin 34) (d a : Fin 16) (imm : BitVec 14) (s : State) : Result :=
  issue e (.ldc e d a imm) [d, a] 1 1 false
    (fun x s => match windowAddr s (gr s e x a) imm with
      | none => taskFault e 2 0 s
      | some ea => loadAt e x ea 4 (fun v => [(d.val, wd v)]) s) s

/-- STC (R97). -/
def execStc (e : Fin 34) (a b : Fin 16) (imm : BitVec 14) (s : State) : Result :=
  issue e (.stc e a b imm) [a, b] 0 1 false
    (fun x s => match windowAddr s (gr s e x a) imm with
      | none => taskFault e 2 0 s
      | some ea => storeAt e x ea 4 (gr s e x b).toNat [gr s e x b] s) s

/-- FENCE (R86). -/
def execFence (e : Fin 34) (s : State) : Result := issue e (.fence e) [] 0 0 true (fun x => retire e x 1) s

/-! ### Control transfers (R86, R87) -/

/-- BR (R86, R118). -/
def execBr (e : Fin 34) (cond : BitVec 4) (imm : BitVec 14) (s : State) : Result :=
  issue e (.br e cond imm) [flagsNo] 0 0 false
    (fun x s =>
      let target : Int := (ctx s e x).pc + (sext14 imm).toInt
      if !condHolds cond (ctx s e x).flags then retire e x 1 s
      else if target < 0 ∨ 2047 < target then taskFault e 5 0 s
      else retireTo e x target.toNat 2 s) s

/-- JMP (R86). -/
def execJmp (e : Fin 34) (imm : BitVec 18) (s : State) : Result :=
  issue e (.jmp e imm) [] 0 0 false (fun x => retireTo e x (imm.toNat % 2048) 2) s

/-- JAL (R86). -/
def execJal (e : Fin 34) (d : Fin 16) (imm : BitVec 18) (s : State) : Result :=
  issue e (.jal e d imm) [d] 1 0 false
    (fun x s => retireTo e x (imm.toNat % 2048) 2 (setG e x d (wd ((ctx s e x).pc + 1)) (s.time + 2) s)) s

/-- JR (R86). -/
def execJr (e : Fin 34) (a : Fin 16) (s : State) : Result :=
  issue e (.jr e a) [a] 0 0 false (fun x s => retireTo e x (fld (gr s e x a) 0 11) 2 s) s

/-! ### The end of a task (R113 to R116) -/

/-- The write signature of a run as the device keeps it: inverted in bit 0 under injection (R602). -/
def runW (s : State) (e : Nat) : Word := (shuSt s e).nrm.w ^^^ (if s.flt.injW.contains e then 1#32 else 0#32)

/-- The write signature of a normal task that completed enters the pick's (R113). -/
def addSig (e : Nat) (s : State) : State :=
  let w := runW s e
  modShu e (fun u => { u with pw := u.pw ^^^ w, ran := true }) s

/-- END passes (R115): held load commands go out, WSIG_LAST is latched. -/
def endPass (e : Nat) (x : Ctx) (s : State) : State :=
  match x with
  | .express => expressEnd e s
  | .normal =>
    let s := forEach (ctx s e .normal).loads (fun l => pushEffect e (.chw l.1 l.2.1 l.2.2)) s
    normalEnd e (addSig e (rset (Reg.shuWsigLast e) (runW s e) s))

/-- Engine e awaits an out-of-rotation check (R586). -/
def askCheck (e : Nat) (s : State) : State :=
  if s.flt.oor.contains e || decide (32 ≤ e) then s else modFlt (fun f => { f with oor := f.oor ++ [e] }) s

/-- The task is executed again from ENTRY (R116, R83), 2 lc after its first run. -/
def reexecute (e : Nat) (r : Run) (s : State) : State :=
  let s := count (Reg.shuReexecCnt e) (setb (Reg.shuFsts e) 2 true s)
  let s := modEng e (fun g => { g with used := g.used + (runTime e (s.time + 3) r s - r.paid) }) s
  let w := fun k => tget 0 s.shed.table (4 * r.desc + k)
  modShu e (fun u => { u with
    nrm := { beginRun r.desc (w 1) (w 2) [] (s.time + 3) true with liveT := u.nrm.liveT }, issueAt := s.time + 3 }) s

/-- What is left of the capacity of R58 in this pick, the run that ends now included (R116). -/
def capacityLeft (e : Nat) (r : Run) (s : State) : Nat :=
  (s.shed.len - 24) - ((engSt s e).used + (runTime e (s.time + 1) r s - r.paid))

/-- END fails (R115, R116, R586). -/
def endFail (e : Nat) (x : Ctx) (sigOk : Bool) (s : State) : State :=
  let c := ctx s e x
  let s := count (Reg.shuEndfailCnt e) (setb (Reg.shuFsts e) 1 true s)
  let s := raise 4066 (when_ (!sigOk) (setb (Reg.shuFsts e) 6 true) s)
  let s := cancelCards c.cards (modCtx e x (fun c => { c with loads := [] }) s)
  match x, c.task with
  | .express, _ => expressEnd e s
  | .normal, none => s
  | .normal, some r =>
    let s := modShu e (fun u => { u with failed := true }) s
    if !r.rerun && decide (r.budget ≠ 0 ∧ r.budget + 2 ≤ capacityLeft e r s) then reexecute e r s
    else
      let s := when_ r.rerun (fun s => askCheck e (raise 4067 (setb (Reg.shuFsts e) 3 true s))) s
      normalEnd e (addSig e s)

/-- END (R115). -/
def execEndTask (e : Fin 34) (imm : BitVec 18) (s : State) : Result :=
  issue e (.endTask e imm) [] 0 0 true
    (fun x s =>
      let c := ctx s e x
      let s := retire e x 1 s
      if c.sig = imm ∧ !c.err then endPass e x s else endFail e x (c.sig == imm) s) s

/-- SIG (R111). -/
def execSig (e : Fin 34) (imm : BitVec 18) (s : State) : Result :=
  issue e (.sig e imm) [] 0 0 false (fun x s => retire e x 1 (modCtx e x (fun c => { c with sig := c.sig ^^^ imm }) s)) s

/-! ### Events, snapshots, live items (R98 to R101, R107) -/

/-- EVR (R107). -/
def execEvr (e : Fin 34) (a : Fin 16) (imm : BitVec 14) (s : State) : Result :=
  issue e (.evr e a imm) [a] 0 0 false
    (fun x s =>
      let src := 3008 + effAddr s e x a imm % 1024
      retire e x 1 (feedW e x [wd (0xC1000000 + src)] (pushEffect e (.evr src) s))) s

/-- The first effect of engine e, with the cycle of its issue. -/
def headEffect (s : State) (e : Nat) : Option (Nat × Effect) := (shuSt s e).eff.head?

def Effect.isEvr : Effect → Bool
  | .evr _ => true
  | _ => false

def Effect.isChw : Effect → Bool
  | .chw .. => true
  | _ => false

/-- SOFTWARE_EVENT (R107, R628): the event that stands first among the engine's effects, at the earliest in the cycle after its issue. -/
def execSoftwareEvent (e : Fin 34) (s : State) : Result :=
  atOpt ((headEffect s e).map fun f => f.1 + 1) (fun s' => headEffect s' e == headEffect s e && (headEffect s e).any fun f => f.2.isEvr)
    (landHead e) s

/-- A snapshot item (R98). -/
def snapItem (s : State) (e : Nat) (x : Ctx) (k : Nat) : Word :=
  let p := match x with | .normal => s.shed.snap | .express => (shuSt s e).snap
  match k with
  | 0 => wd p.time
  | 1 => wd (p.time / 2 ^ 32)
  | 2 => wd p.pick
  | 3 => wd (p.pick / 2 ^ 32)
  | k => if k % 2 = 0 then tget 0 p.phase ((k - 4) / 2) else tget 0 p.cycle ((k - 4) / 2)

/-- RDS (R98). -/
def execRds (e : Fin 34) (d : Fin 16) (imm : BitVec 14) (s : State) : Result :=
  issue e (.rds e d imm) [d] 1 0 false
    (fun x s => if 11 < imm.toNat then taskFault e 2 0 s else constBody e d (snapItem s e x imm.toNat) x s) s

/-- An access that samples 4 lc after issue and returns 8 lc after it (R99, R100). -/
def sampleAccess (e : Nat) (x : Ctx) (a : Access) (s : State) : State :=
  let id := (shuSt s e).slotId
  retire e x 1 (schedule (s.time + 4) (.sample e x id) (takeSlot e x 8 1 a s))

/-- RDL (R99). -/
def execRdl (e : Fin 34) (d : Fin 16) (imm : BitVec 14) (s : State) : Result :=
  issue e (.rdl e d imm) [d] 1 1 false
    (fun x s => if !rdlValid imm.toNat then taskFault e 2 0 s else sampleAccess e x (.rdl d imm.toNat none) s) s

/-- CHR (R100). -/
def execChr (e : Fin 34) (d a : Fin 16) (imm : BitVec 14) (s : State) : Result :=
  issue e (.chr e d a imm) [d, a] 1 1 false
    (fun x s => if selReserved (imm.toNat % 32) then taskFault e 2 0 s
      else sampleAccess e x (.chr d (chanOf (gr s e x a) imm) (imm.toNat % 32) none) s) s

/-- A channel write is issued (R100, R102): a normal task holds its load commands until its end check. -/
def chwIssue (e : Nat) (x : Ctx) (n sel : Nat) (v : Word) (s : State) : State :=
  if x = .normal ∧ 16 ≤ sel then
    if 8 ≤ (ctx s e x).loads.length then dropEffect e 5 s
    else modCtx e x (fun c => { c with loads := c.loads ++ [(n, sel, v)] }) s
  else pushEffect e (.chw n sel v) s

/-- CHW (R100, R102). -/
def execChw (e : Fin 34) (a b : Fin 16) (imm : BitVec 14) (s : State) : Result :=
  issue e (.chw e a b imm) [a, b] 0 0 false
    (fun x s =>
      let sel := imm.toNat % 32
      let n := chanOf (gr s e x a) imm
      let v := gr s e x b
      if selReserved sel then taskFault e 2 0 s
      else retire e x 1 (feedW e x [wd (0x40000000 + 256 * n + sel), v] (chwIssue e x n sel v s))) s

/-- CHW_LAND (R101, R628): the channel write that stands first among the engine's effects, at the earliest in the cycle after its
issue, and in its place among the writes of the cycle. -/
def execChwLand (e : Fin 34) (s : State) : Result :=
  atOpt ((headEffect s e).map fun f => max (f.1 + 1) (turnAt (shuRank e) s))
    (fun s' => headEffect s' e == headEffect s e && (headEffect s e).any fun f => f.2.isChw)
    (fun s' =>
      let u := takeTurn (shuRank e) s'
      if headEffect u e == headEffect s' e then landHead e u else u) s

/-! ### Edges (R103, R104) -/

/-- An instant of a number of fine steps. -/
def instOf (x : Nat) : Inst := ⟨x / 32, x % 32⟩

/-- EDGE (R103). -/
def execEdge (e : Fin 34) (a b : Fin 16) (imm : BitVec 14) (s : State) : Result :=
  issue e (.edge e a b imm) [a, b] 0 0 false
    (fun x s =>
      let act := imm.toNat % 4
      let n := fld (gr s e x a) 0 9
      let snap := match x with | .normal => s.shed.snap | .express => (shuSt s e).snap
      let first := 32 * (s.time + 24)
      let want := 32 * snap.time + (gr s e x b).toNat
      let early := imm.getLsbD 2 || decide (want < first)
      if act = 3 then taskFault e 2 0 s
      else retire e x 1 (feedW e x [wd (0x80000000 + 256 * n + imm.toNat % 256), gr s e x b]
        (pushEffect e (.edge n act (instOf (if early then first else want)) (early && !imm.getLsbD 2)) s))) s

/-- The first edge of a channel's queue appears at its output (R104); one in skipped device time in the skip cycle, with fine
part 0 (R502). -/
def edgeOutOp (n : Nat) (s : State) : State :=
  match (chSt s n).edges with
  | [] => s
  | y :: rest =>
    let lv := match y.act with | 0 => true | 1 => false | _ => !chOut s n
    setOut n lv (if skipped s y.t.lc then nowInst s else y.t) (modCh n (fun x => { x with edges := rest }) s)

/-- SHUTTLE_EDGE_OUT (R104). -/
def execShuttleEdgeOut (n : Fin 512) (s : State) : Result :=
  atOpt ((chSt s n).edges.head?.map fun y => y.t.lc) (fun s' => running s' && decide (chMode s' n = 10)) (edgeOutOp n) s

/-! ### Cards (R105, R106) -/

/-- ARM (R105). -/
def execArm (e : Fin 34) (d a : Fin 16) (s : State) : Result :=
  issue e (.arm e d a) [d, a, a + 1, a + 2, a + 3] 1 1 false
    (fun x s =>
      if 12 < a.val then taskFault e 2 0 s
      else
        let ws := (upto a 4).map (gr s e x)
        let id := (shuSt s e).slotId
        let gen := decide (runBank (ctx s e x) = 1)
        let s := { s with chain := { s.chain with submit := s.chain.submit ++ [⟨ws, e, x, id, gen, s.time⟩] } }
        retire e x 1 (schedule (s.time + 8) .cardPlace (takeSlot e x 8 1 (.arm d none) (feedW e x (0xC0000000#32 :: ws) s)))) s

/-- DISARM (R106). -/
def execDisarm (e : Fin 34) (d a : Fin 16) (s : State) : Result :=
  issue e (.disarm e d a) [d, a] 1 1 false
    (fun x s =>
      let h := gr s e x a
      let r := disarmOp h s
      retire e x 1 (takeSlot e x 8 1 (.disarm d r.1) (feedW e x [0xC2000000#32, h] r.2))) s

/-! ### LERP (R108) -/

/-- The addresses of the two samples of LERP. -/
def lerpAddrs (g : Word) (phase k : Nat) (cyc : Bool) : Nat × Nat :=
  let i := phase / 2 ^ (24 - k)
  let j := if cyc then (i + 1) % 2 ^ k else i + 1
  ((g + wd (4 * i)).toNat, (g + wd (4 * j)).toNat)

/-- LERP (R108): its samples are asked for in two cycles, so that without conflicts it takes 9 lc also where both lie in one bank
(DESIGN CHOICE, log entry 33). -/
def execLerp (e : Fin 34) (d a b : Fin 16) (imm : BitVec 14) (s : State) : Result :=
  issue e (.lerp e d a b imm) [d, a, b] 1 2 false
    (fun x s =>
      let k := imm.toNat % 32
      let phase := fld (gr s e x b) 0 24
      let ad := lerpAddrs (gr s e x a) phase k (imm.getLsbD 5)
      if k = 0 ∨ 16 < k then taskFault e 2 0 s
      else match memFault s ad.1 4 false, memFault s ad.2 4 false with
        | some c, _ => taskFault e c ad.1 s
        | _, some c => taskFault e c ad.2 s
        | none, none =>
          let bank := runBank (ctx s e x)
          let p0 := shuPhysical s bank ad.1
          let p1 := shuPhysical s bank ad.2
          let r0 := checkRead (.shuttle e) p0 4 s
          let r1 := checkRead (.shuttle e) p1 4 r0.2
          if bankFull s p0 || bankFull s p1 then s
          else if r0.1 then taskFault e 7 ad.1 r1.2
          else if r1.1 then taskFault e 7 ad.2 r1.2
          else
            let s := r1.2
            let y := fun p => wd (portN (.shuttle e) s p 4)
            let v := lerpValue (y p0) (y p1) (phase % 2 ^ (24 - k)) (24 - k)
            let s := takeSlot e x 9 2 (.load [(d.val, v)]) s
            retire e x 1 (residue e x (portUse e p1 1 8 (portUse e p0 0 9 s)))) s

/-! ### Results and acknowledgements (R94) -/

/-- The registers that an access writes, once it has its values. -/
def Access.values : Access → Option (List (Nat × Word))
  | .load vs => some vs
  | .rdl d _ v => v.map fun w => [(d, w)]
  | .chr d _ _ v => v.map fun w => [(d, w)]
  | .arm d v => v.map fun w => [(d, w)]
  | .disarm d w => some [(d, w)]
  | .store => none

/-- The oldest access of a context that returns a result: results are written in issue order (R94). -/
def nextResult (c : CtxSt) : Option Slot := c.slots.find? fun k => k.acc != .store

/-- The oldest store of a context that has not acknowledged. -/
def nextStore (c : CtxSt) : Option Slot := c.slots.find? fun k => k.acc == .store

/-- An access frees its slots and writes its registers (R94). -/
def finishAccess (e : Nat) (x : Ctx) (k : Slot) (s : State) : State :=
  let s := modCtx e x (fun c => { c with slots := c.slots.filter fun y => y.id != k.id }) s
  forEach (k.acc.values.getD []) (fun v s => setG e x v.1 v.2 s.time s) s

/-- LOAD_RESULT (R94). -/
def execLoadResult (e : Fin 34) (x : Ctx) (s : State) : Result :=
  atOpt ((nextResult (ctx s e x)).map (slotDue s e))
    (fun s' => running s' && match nextResult (ctx s' e x) with | some k => k.acc.values.isSome | none => false)
    (fun s' => match nextResult (ctx s' e x) with | some k => finishAccess e x k s' | none => s') s

/-- STORE_ACK (R94). -/
def execStoreAck (e : Fin 34) (x : Ctx) (s : State) : Result :=
  atOpt ((nextStore (ctx s e x)).map (slotDue s e))
    (fun s' => running s' && (nextStore (ctx s' e x)).isSome)
    (fun s' => match nextStore (ctx s' e x) with | some k => finishAccess e x k s' | none => s') s

/-- CORRECTED_WRITE_BACK (R374). -/
def execCorrectedWriteBack (word : Fin 1572864) (s : State) : Result :=
  nowIf (running s && s.store.writeBack.contains word.val)
    (writeBackOp word) s

/-! ### Debug control (R124 to R126, R132) -/

/-- HALT (R124). -/
def execHalt (p : Path) (e : Fin 34) (s : State) : Result := setBitCmd p (Reg.shuDbg e) 0 s

/-- HALTED becomes 1: task time stands still from now on. -/
def haltedOp (e : Nat) (s : State) : State :=
  let s := setb (Reg.shuDbg e) 8 true (modShu e (fun u => { u with haltAt := s.time }) s)
  when_ (decide (rf s (Reg.engEsts e) 0 3 ≠ 5)) (setEsts e 4) s

/-- HALTED (R124, R125): the engine has halted at an instruction boundary, its accesses complete. -/
def execHalted (e : Fin 34) (s : State) : Result :=
  atTime (shuSt s e).issueAt
    (fun s' => running s' && rb s' (Reg.shuDbg e) 0 && !rb s' (Reg.shuDbg e) 8 && !(shuSt s' e).step &&
      decide (slotsHeld (shuSt s' e) = 0))
    (haltedOp e) s

/-- RESUME (R124). -/
def execResume (p : Path) (e : Fin 34) (s : State) : Result := clearBitCmd p (Reg.shuDbg e) 0 s

/-- STEP (R125). -/
def execShuStep (p : Path) (e : Fin 34) (s : State) : Result := setBitCmd p (Reg.shuDbg e) 1 s

/-- The engine stands before a breakpoint (R126). -/
def atBreak (s : State) (e : Nat) : Bool :=
  let u := shuSt s e
  running s && (ctx s e (active s e)).task.isSome && u.back.isNone && !u.step && !u.skipBrk && !rb s (Reg.shuDbg e) 0 &&
    withinLimit s e && !(active s e == .normal && expressNear s e) && (breakpoint s e).isSome

/-- BREAKPOINT_HIT (R126). -/
def execBreakpointHit (e : Fin 34) (s : State) : Result :=
  atTime (shuSt s e).issueAt (fun s' => atBreak s' e)
    (fun s' =>
      let i := (breakpoint s' e).getD 0
      let s := setf (Reg.shuDbg e) 13 2 i (setb (Reg.shuDbg e) 12 true (setb (Reg.shuDbg e) 0 true s'))
      let s := modShu e (fun u => { u with brkStop := true }) s
      when_ (decide (slotsHeld (shuSt s e) = 0)) (haltedOp e) s) s

/-- SHU_CNT_CLR (R132). -/
def execShuCntClr (p : Path) (e : Fin 34) (s : State) : Result := setBitCmd p (Reg.shuCtl e) 8 s

end Sys2Proof.Machine
end

