-- ==== Sys2Proof/Machine/ExecChannel.lean ====
section
/-!
DEFINITION. Meanings of the commands of 04_channel_counters.md and 05_pulse_trains_and_reed.md: ticks, channel registers,
input filters, loads, trips, dead time and calibration.
-/

namespace Sys2Proof.Machine

/-! ### Ticks (R133, R134, R502) -/

/-- HARNESS_TICK (R133): a channel that awaits its wrap for a changeover is applied at it (R480). -/
def execHarnessTick (h : Fin 64) (s : State) : Result :=
  atTime (harnTickAt s h).1 (fun s' => running s' && (harnTickAt s' h).1 == s'.time) 
    (harnTickOp h) s

/-- EDGE_COUNT_ACTION (R160). -/
def execEdgeCountAction (n : Fin 512) (s : State) : Result :=
  let due := (s.ev.wires.filter fun w => w.dst == .chRst n || w.dst == .chCap n).map fun w => w.at_
  atOpt due.min? (fun s' => running s' && decide (chMode s' n = 8) && (wireDue (.chRst n) s' || wireDue (.chCap n) s'))
    (edgeActs n) s

/-! ### Channel registers (R138, R141, R144 to R146, R154) -/

/-- LEAVE_OFF (R138). -/
def execLeaveOff (p : Path) (n : Fin 512) (v : BitVec 32) (s : State) : Result := writeCmd p (Reg.chCtl n) v s

/-- ENTER_OFF (R138). -/
def execEnterOff (p : Path) (n : Fin 512) (v : BitVec 32) (s : State) : Result := writeCmd p (Reg.chCtl n) v s

/-- START (R141). -/
def execStart (p : Path) (n : Fin 512) (s : State) : Result := setBitCmd p (Reg.chCtl n) 16 s

/-- RLD_WRITE (R145). -/
def execRldWrite (p : Path) (n : Fin 512) (v : BitVec 32) (s : State) : Result := writeCmd p (Reg.chRld n) v s

/-- COMPARE_WRITE (R146). -/
def execCompareWrite (p : Path) (n : Fin 512) (q : Cmp) (v : BitVec 32) (s : State) : Result :=
  writeCmd p (match q with | .a => Reg.chCmpa n | .b => Reg.chCmpb n) v s

/-- FINE_WRITE (R147). -/
def execFineWrite (p : Path) (n : Fin 512) (v : BitVec 32) (s : State) : Result := writeCmd p (Reg.chFine n) v s

/-- STAGED_WRITE (R144). -/
def execStagedWrite (p : Path) (n : Fin 512) (q : Staged) (v : BitVec 32) (s : State) : Result :=
  writeCmd p (match q with
    | .rlds => Reg.chRlds n | .cmpas => Reg.chCmpas n | .cmpbs => Reg.chCmpbs n | .fines => Reg.chFines n) v s

/-- CAP_READ (R154). -/
def execCapRead (p : Path) (n : Fin 512) (s : State) : Result := readCmd p (Reg.chCap n) s

/-- FILT_WRITE (R150). -/
def execFiltWrite (p : Path) (n : Fin 512) (v : BitVec 32) (s : State) : Result := writeCmd p (Reg.chFilt n) v s

/-- EVCFG_WRITE (R162). -/
def execEvcfgWrite (p : Path) (n : Fin 512) (v : BitVec 32) (s : State) : Result := writeCmd p (Reg.chEvcfg n) v s

/-- PRESC_WRITE (R148). -/
def execPrescWrite (p : Path) (h : Fin 64) (v : BitVec 32) (s : State) : Result := writeCmd p (Reg.harnPresc h) v s

/-- CH_CNT_CLR (R168). -/
def execChCntClr (p : Path) (n : Fin 512) (s : State) : Result := setBitCmd p (Reg.chSts n) 31 s

/-! ### Pins and filters (R149, R150, R194, R602, R630) -/

/-- The level that the device senses where the pin has `level`: inverted under injection (R602). -/
def sensed (s : State) (n : Nat) (level : Bool) : Bool := level ^^ s.flt.injPin.contains n

/-- The last transition at pin n lies before an instant. -/
def transBefore (s : State) (n : Nat) (t : Inst) : Bool :=
  match (chSt s n).trans with
  | [] => true
  | x :: _ => decide (x.t.steps ≤ t.steps)

/-- PIN_TRANSITION (R630): the count that it meets is the one after the tick of its cycle (R136, R153). -/
def execPinTransition (n : Fin 512) (level : Bool) (fine : Fin 32) (s : State) : Result :=
  let t : Inst := ⟨s.time, fine⟩
  let lv := sensed s n level
  nowIf (lv != padLevel s n && transBefore s n t) (fun s => pinTransitionOp n lv t (tickFirst (n / 8) s)) s

/-- The cycle of the next sample of the filter of pin n (R149). -/
def sampleAt (s : State) (n : Nat) : Nat :=
  let p := filtInterval s n
  let lo := max (chSt s n).sampled ((s.sel.skipLo.getD s.time) |> min s.time)
  max ((lo + p - 1) / p * p) s.time

/-- FILTER_SAMPLE (R149). -/
def execFilterSample (n : Fin 512) (s : State) : Result :=
  atTime (sampleAt s n) (fun s' => live s' && sampleAt s' n == s'.time) (filterSampleOp n) s

/-! ### Loads (R175, R178) -/

/-- LOAD (R175). -/
def execLoad (p : Path) (h : Fin 64) (s : State) : Result := writeCmd p (Reg.harnLoad h) 1 s

/-- LOAD_ALL (R175). -/
def execLoadAll (p : Path) (s : State) : Result := writeCmd p Reg.gctlLoadall 1 s

/-- LOADNOW (R178). -/
def execLoadNow (p : Path) (h : Fin 64) (s : State) : Result := writeCmd p (Reg.harnLoadnow h) 1 s

/-! ### Trips (R184 to R188) -/

/-- TRIP_CUT (R184): a cut whose onset has been judged, by its bound at the latest (`cutBound`). -/
def execTripCut (h : Fin 64) (i : Fin 4) (s : State) : Result :=
  nowIf (running s && decide (tget 0 (harnSt (tripJudgeOp h s) h).cutDue i.val ≠ 0)) (fun s => tripCutOp h i (tripJudgeOp h s)) s

/-- BLANKING_END (R186). -/
def execBlankingEnd (k : Fin 256) (s : State) : Result :=
  atTime (blankEnd s k) (fun s' => running s' && decide ((reedSt s' k).ign ≠ 0) && !blankOpen s' k s'.time) (blankingEndOp k) s

/-- TRIP_WRITE (R183). -/
def execTripWrite (p : Path) (h : Fin 64) (i : Fin 4) (v : BitVec 32) (s : State) : Result :=
  writeCmd p (Reg.harnTrip h i) v s

/-- TRIPF_CLEAR (R188). -/
def execTripfClear (p : Path) (h : Fin 64) (mask : BitVec 4) (s : State) : Result :=
  writeCmd p (Reg.harnTripsts h) (mask.zeroExtend 32) s

/-- HARN_CNT_CLR (R198). -/
def execHarnCntClr (p : Path) (h : Fin 64) (s : State) : Result := setBitCmd p (Reg.harnTripsts h) 31 s

/-! ### The reed (R173, R181) -/

/-- The pin of a side of reed k. -/
def sidePin (k : Nat) : Side → Nat
  | .a => 2 * k
  | .b => 2 * k + 1

/-- A dead time ends (R181). -/
def deadTimeEndOp (n : Nat) (s : State) : State :=
  match (side s n).due with
  | none => s
  | some t => stageEdge n t true (modSide n (fun d => { d with due := none }) s)

/-- DEAD_TIME_END (R181). -/
def execDeadTimeEnd (k : Fin 256) (q : Side) (s : State) : Result :=
  atOpt ((side s (sidePin k q)).due.map fun t => t.lc) (fun s' => running s' && (side s' (sidePin k q)).due.isSome)
    (deadTimeEndOp (sidePin k q)) s

/-- REED_CNT_CLR (R202). -/
def execReedCntClr (p : Path) (k : Fin 256) (s : State) : Result := setBitCmd p (Reg.reedCtl k) 8 s

/-- CALIBRATION_STEP (R173): the step is made when the cycle ends, should no edge of the pin fall in it. -/
def execCalibrationStep (n : Fin 512) (mv : CalStep) (s : State) : Result :=
  nowIf (running s && decide ((calSet s n mv.line).next ≤ s.time) && noEdgeNow s n) (schedule s.time (.calStep n mv)) s

end Sys2Proof.Machine
end

