-- ==== Sys2Proof/Machine/ExecCard.lean ====
section
/-!
DEFINITION. Meanings of the commands of 06_card_chain.md: cards placed, promoted and fired, the ends of pulses, and the
completion ring.
-/

namespace Sys2Proof.Machine

/-- CARD_PLACE (R212, R628): the card submitted first, at the earliest in the cycle after its ARM. -/
def execCardPlace (s : State) : Result :=
  atOpt (s.chain.submit.head?.map fun u => u.at_ + 1) (fun s' => running s' && s'.chain.submit.head? == s.chain.submit.head?) placeFirst s

/-! ### The near window (R216, R217, R219) -/

/-- The cycle in which slot n is to be promoted, where it follows from a time (R216). -/
def promoteAt (s : State) (n : Nat) : Nat :=
  let x := slotSt s n
  let from_ := fun t : Inst => t.lc - 2 * pickLen s
  if x.st = 4 then (match x.endT with | some t => from_ t | none => s.time)
  else if cAngle (cw0 s n) then s.time
  else from_ (cardTime s n)

/-- Slot n enters the near window now: it is within reach, and has its place there (R219). -/
def promotes (s : State) (n : Nat) : Bool := chainRuns s && waitsNear s n && hasPlace s n

/-- NEAR_PROMOTION (R216). -/
def execNearPromotion (n : Fin 131072) (s : State) : Result :=
  atTime (promoteAt s n) (fun s' => promotes s' n) (promote n) s

/-! ### Firing (R205, R218, R222, R225 to R229) -/

/-- The chain comes to action `a`, due at `h` (R222): the actions of that cycle are dispatched in their order up to it. -/
def actAt (a : Act) (h : How) (s : State) : Result :=
  let s' := advanceTo h.t.lc s
  .next (if (dueActions s').any fun x => x.act == a then settle (dispatchUpTo (some a) 17 s') else s)

/-- The card of slot n acts with action `k` at its instant (R220 to R222), or is passed (R218). -/
def fireAt (k n : Nat) (s : State) : Result :=
  if cAct (cw0 s n) ≠ k then .next s
  else match cardDue s n with
  | .no => .next s
  | .passed => .next (settle (passCard false n s))
  | .at_ h => actAt (.card n) h s

/-- SET (R205). -/
def execCardSet (n : Fin 131072) (s : State) : Result := fireAt 0 n s

/-- CLEAR (R205). -/
def execCardClear (n : Fin 131072) (s : State) : Result := fireAt 1 n s

/-- TOGGLE (R205). -/
def execCardToggle (n : Fin 131072) (s : State) : Result := fireAt 2 n s

/-- PULSE (R205). -/
def execCardPulse (n : Fin 131072) (s : State) : Result := fireAt 3 n s

/-- LOAD_CMPA (R205). -/
def execLoadCmpa (n : Fin 131072) (s : State) : Result := fireAt 4 n s

/-- LOAD_CMPB (R205). -/
def execLoadCmpb (n : Fin 131072) (s : State) : Result := fireAt 5 n s

/-- USER_EVENT (R205). -/
def execUserEvent (n : Fin 131072) (s : State) : Result := fireAt 6 n s

/-- EXPRESS (R205). -/
def execExpress (n : Fin 131072) (s : State) : Result := fireAt 7 n s

/-- PULSE_END (R224). -/
def execPulseEnd (n : Fin 131072) (s : State) : Result :=
  match pulseDue s n with
  | .at_ h => actAt (.pulseEnd n) h s
  | _ => .next s

/-- The channel whose angle pulse, made by the card of slot n, waits for its cap (R228), and the cap. -/
def capWaits (s : State) (n : Nat) : Option (Nat × Inst) :=
  s.ch.findSome? fun e => match e.2.pulse with
    | some p => if p.slot = n ∧ p.ends then p.cap.map fun q => (e.1, q) else none
    | none => none

/-- CAP_END (R228). -/
def execCapEnd (n : Fin 131072) (s : State) : Result :=
  match capWaits s n with
  | some (c, q) => if running s then actAt (.capEnd c) (lateBy s q) s else .next s
  | none => .next s

/-! ### The completion ring and the counters (R236, R239, R242) -/

/-- CR_RD_WRITE (R242). -/
def execCrRdWrite (p : Path) (v : BitVec 32) (s : State) : Result := writeCmd p Reg.cardCrRd v s

/-- RING_CONFIG_WRITE (R242). -/
def execRingConfigWrite (p : Path) (q : RingCfg) (v : BitVec 32) (s : State) : Result :=
  writeCmd p (match q with | .base => Reg.cardCrBase | .size => Reg.cardCrSize | .mark => Reg.cardCrMark) v s

/-- CARD_CNT_CLR (R239). -/
def execCardCntClr (p : Path) (s : State) : Result := setBitCmd p Reg.cardCtl 8 s

end Sys2Proof.Machine
end

