-- ==== Sys2Proof/Machine/ExecTrack.lean ====
section
/-!
DEFINITION. Meanings of the commands of 07_treadle_trackers.md: teeth, secondary edges, cycle starts, stalls, lost beacons and
the tracker registers.
-/

namespace Sys2Proof.Machine

/-- The edge `x` of a wheel has landed in this cycle and is still to be judged (R248). -/
def landed (s : State) (x : Timed) : Bool := live s && s.timed.contains (s.time, x)

/-- The edge `x` that has landed is judged. -/
def takeEdge (x : Timed) (s : State) : State := judgeEdge x { s with timed := s.timed.erase (s.time, x) }

/-- TOOTH (R252): a primary edge at `instant` has landed at tracker t. Counts, words and beacons come to the tracker with the sample,
word or train that brings them (R247). -/
def execTooth (t : Fin 4) (instant : Nat) (s : State) : Result := nowIf (landed s (.tooth t instant)) (takeEdge (.tooth t instant)) s

/-- The position of the next cycle start of tracker t, in 2^-16 pu (R245). -/
def nextCycleStart (s : State) (t : Nat) : Int := ((trdSt s t).seen + 1) * 2 ^ 40

/-- The first loom cycle at whose start the position has reached p. -/
def reachCycle (s : State) (t : Nat) (p : Int) : Option Nat :=
  if p ≤ phi s t s.time then some s.time
  else (crossing s t p).map fun x => if x.fine = 0 then x.lc else x.lc + 1

/-- CYCLE_START (R245). -/
def execCycleStart (t : Fin 4) (s : State) : Result :=
  if trdState s t < 3 then .next s
  else atOpt (reachCycle s t (nextCycleStart s t))
    (fun s' => running s' && decide (3 ≤ trdState s' t) && decide (nextCycleStart s' t ≤ phi s' t s'.time))
    (fun s' => trdRaise t 0 (modTrd t (fun x => { x with seen := x.seen + 1 }) s')) s

/-- SECONDARY_EDGE (R251). -/
def execSecondaryEdge (t : Fin 4) (instant : Nat) (s : State) : Result :=
  nowIf (landed s (.second t instant)) (takeEdge (.second t instant)) s

/-- SECONDARY_WINDOW_MISS (R251). -/
def execSecondaryWindowMiss (t : Fin 4) (i : Fin 8) (s : State) : Result :=
  nowIf (live s && decide (trdState s t = 3) && windowPassed s t i)
    (fun s => windowBad t (modTrd t (fun x => { x with wins := tset x.wins i (tget 0 x.wins i + 2 ^ 24) }) s)) s

/-- STALL (R263): a tooth that lands in the cycle of the limit comes first; where words or beacons are the teeth, those of the
whole cycle do. -/
def execStall (t : Fin 4) (s : State) : Result :=
  atOpt (stallCycle s t) (fun s' => live s' && stallDue (judgeEdges t s') t)
    (fun s' => if trdSrc s' t = 0 then declareStall t (judgeEdges t s') else schedule s'.time (.stall t) s') s

/-- Picks enough have passed without a valid beacon (R267). -/
def beaconMissed (s : State) (t : Nat) : Bool :=
  decide (trdSrc s t = 2 ∧ 2 ≤ trdState s t ∧ rf s (Reg.trdBcn t) 8 4 ≤ (trdSt s t).bcnMiss)

/-- The beacons are missed: a loss of sync, or LOST from CONFIRM (R254, R267). -/
def beaconMissOp (t : Nat) (s : State) : State :=
  let s := modTrd t (fun x => { x with bcnMiss := 0 }) s
  if 3 ≤ trdState s t then lose t 7 s
  else setTrdState t 1 (modTrd t (fun x => { x with scr := {}, prev := none }) s)

/-- BEACON_MISS (R267). -/
def execBeaconMiss (t : Fin 4) (s : State) : Result := nowIf (live s && beaconMissed s t) (beaconMissOp t) s

/-- TRACKER_ENABLE (R250). -/
def execTrackerEnable (p : Path) (t : Fin 4) (v : BitVec 32) (s : State) : Result := writeCmd p (Reg.trdCtl t) v s

/-- TRACKER_DISABLE (R254). -/
def execTrackerDisable (p : Path) (t : Fin 4) (s : State) : Result := clearBitCmd p (Reg.trdCtl t) 0 s

/-- PHASE_READ (R274). -/
def execPhaseRead (p : Path) (t : Fin 4) (s : State) : Result := readCmd p (Reg.trdPhase t) s

/-- TR_RD_WRITE (R269). -/
def execTrRdWrite (p : Path) (t : Fin 4) (v : BitVec 32) (s : State) : Result := writeCmd p (Reg.trdTrRd t) v s

/-- TR_CONFIG_WRITE (R269). -/
def execTrConfigWrite (p : Path) (t : Fin 4) (q : TrCfg) (v : BitVec 32) (s : State) : Result :=
  writeCmd p (match q with | .ctl => Reg.trdTrCtl t | .base => Reg.trdTrBase t) v s

/-- TRD_CNT_CLR (R278). -/
def execTrdCntClr (p : Path) (t : Fin 4) (s : State) : Result := setBitCmd p (Reg.trdSts t) 31 s

end Sys2Proof.Machine
end

