-- ==== Sys2Proof/Machine/ExecPos.lean ====
section
/-!
DEFINITION. Meanings of the commands of 08_position_interfaces.md: enabling, filter samples, latches, standstill and serial
frames.
-/

namespace Sys2Proof.Machine

/-- POS_ENABLE (R279). -/
def execPosEnable (p : Path) (i : Fin 16) (v : BitVec 32) (s : State) : Result := writeCmd p (Reg.posCtl i) v s

/-- POS_DISABLE (R279). -/
def execPosDisable (p : Path) (i : Fin 16) (s : State) : Result := clearBitCmd p (Reg.posCtl i) 0 s

/-- The cycle of the next sample of the filter of interface i (R281). -/
def posSampleAt (s : State) (i : Nat) : Nat :=
  let p := posInterval s i
  let lo := max (posSt s i).sampled ((s.sel.skipLo.getD s.time) |> min s.time)
  max ((lo + p - 1) / p * p) s.time

/-- POS_FILTER_SAMPLE (R281). -/
def execPosFilterSample (i : Fin 16) (s : State) : Result :=
  atTime (posSampleAt s i) (fun s' => live s' && posOn s' i && posSampleAt s' i == s'.time) (posSampleOp i) s

/-- POS_LOAD (R289). -/
def execPosLoad (p : Path) (i : Fin 16) (s : State) : Result := setBitCmd p (Reg.posCtl i) 9 s

/-- LATCH (R294). -/
def execLatch (p : Path) (i : Fin 16) (s : State) : Result := setBitCmd p (Reg.posCtl i) 10 s

/-- EVENT_LATCH (R294): an event that LATCFG names latches at the start of its cycle. -/
def execEventLatch (i : Fin 16) (s : State) : Result :=
  atOpt (wireAt s (.posLatch i)) (fun s' => live s' && posOn s' i && wireDue (.posLatch i) s')
    (latchArrive i) s

/-- LAT_POS_READ (R295). -/
def execLatPosRead (p : Path) (i : Fin 16) (s : State) : Result := readCmd p (Reg.posLatPos i) s

/-- STANDSTILL (R292). -/
def execStandstill (i : Fin 16) (s : State) : Result :=
  atOpt (stillCycle s i)
    (fun s' => live s' && posOn s' i && !rb s' (Reg.posSts i) 18 &&
      match stillCycle s' i with | some c => decide (c ≤ s'.time) | none => false) (posStandstill i) s

/-- SER_START (R300). -/
def execSerStart (p : Path) (i : Fin 16) (s : State) : Result := setBitCmd p (Reg.posCtl i) 8 s

/-- The cycle of the next frame start of interface i by its trigger (R300): START requested, a multiple of PERIOD, or an event. -/
def frameDue (s : State) (i : Nat) : Option Nat :=
  let per := rn s (Reg.posPeriod i)
  let byPeriod :=
    if rf s (Reg.posTrig i) 12 2 = 1 ∧ per ≠ 0 then [(max s.time (posSt s i).perAt + per - 1) / per * per] else []
  ((posSt s i).startAt.toList ++ byPeriod ++ (wireAt s (.posFrame i)).toList).min?

/-- FRAME_START (R296). -/
def execFrameStart (i : Fin 16) (s : State) : Result :=
  atOpt (frameDue s i) (fun s' => live s' && posOn s' i && posSerial s' i && (frameDue s' i).any (· ≤ s'.time))
    (fun s' => frameBegin i (takeFrame i s')) s

/-- WORD_LANDING (R297): the word `bits`, as sampled from the data input, after the last sample and 4 lc after it at the latest. -/
def execWordLanding (i : Fin 16) (bits : BitVec 64) (s : State) : Result :=
  atOpt ((posSt s i).words.head?.map fun t => max s.time (lastSample s i t + 1))
    (fun s' => running s' && wordReady s' i && match (posSt s' i).words with
      | t0 :: _ => frameSample s' i t0 == bits
      | [] => false) (wordLand i) s

/-- The data line has not returned in time (R298): the fault is charged to the word just received, and the next one is the first
after a fault. -/
def dataTimeoutOp (i : Nat) (s : State) : State :=
  faultyWord i 4 (modPos i (fun x => { x with retWait := none, word := none, fails := x.retFails }) s)

/-- DATA_TIMEOUT (R298). -/
def execDataTimeout (i : Fin 16) (s : State) : Result :=
  atOpt (returnLimit s i) (fun s' => running s' && posOn s' i && (posSt s' i).retWait.isSome) (dataTimeoutOp i) s

/-- POS_CNT_CLR (R308). -/
def execPosCntClr (p : Path) (i : Fin 16) (s : State) : Result := setBitCmd p (Reg.posSts i) 31 s

end Sys2Proof.Machine
end

