-- ==== Sys2Proof/Machine/ExecHed.lean ====
section
/-!
DEFINITION. Meanings of the commands of 09_heddle_engines.md: the instructions at their ticks, triggers, FIFOs, start, stop,
swaps and debug.
-/

namespace Sys2Proof.Machine

/-- The divider is taken to the tick of the attempt; halted ticks do not count for a WAIT (R331). -/
def hedSync (e : Nat) (s : State) : State :=
  let x := hedSt s e
  let s' := syncTicks e (hedTickNo s e) s
  when_ (hedHalted s e) (modHed e (fun y => { y with occ := x.occ, stall := x.stall })) s'

/-- A WAIT whose stall has lasted its limit (R316). -/
def waitPast (s : State) (e : Nat) : Bool :=
  let l := waitLimitOf s e
  decide (l ≠ 0) && decide (l ≤ (hedSt s e).stall.getD 0)

/-- The state in which the engine attempts an instruction: its divider synchronised. A word with an uncorrectable error
faults (R326). -/
def hedAttempt (e : Nat) (f : State → State) (s : State) : State :=
  let bad := hedBadWord s e
  let s := hedSync e s
  if bad then hedFault e 4 s else f s

/-- An instruction at its tick (R313 to R316): the word at PC is opcode `op` with fields `f`. -/
def hedExec (e op : Nat) (f : BitVec 12) (effect : State → State) (s : State) : Result :=
  atTime (hedTickAt s e)
    (fun s' => hedMayExec s' e && hedAt s' e op f && s'.time == hedTickAt s' e) (hedAttempt e effect) s

/-- HED_JMP (R316, R317). -/
def execHedJmp (e : Fin 64) (f : BitVec 12) (s : State) : Result := hedExec e 1 f (hedJmpOp e f) s

/-- The limit ends the stall: F := 1, and a pending trigger stays (R316). -/
def waitLimitEnd (e : Nat) (s : State) : State := hedNext e (setHedF e true s)

/-- A WAIT at a tick: where its limit has passed with its condition false, the limit ends it (R316). -/
def hedWaitAt (e : Nat) (f : BitVec 12) (s : State) : State :=
  let s' := hedWaitOp e f s
  if waitPast s e && (hedSt s' e).stall.isSome then waitLimitEnd e s else s'

/-- HED_WAIT (R316, R321). -/
def execHedWait (e : Fin 64) (f : BitVec 12) (s : State) : Result := hedExec e 2 f (hedWaitAt e f) s

/-- The condition of the WAIT at PC does not hold (R316). -/
def waitFalse (s : State) (e : Nat) : Bool :=
  let f := BitVec.ofNat 12 ((progWord s e (hedBank s e) (hedPc s e)).toNat / 16)
  (hedSt (hedWaitOp e f s) e).stall.isSome

/-- WAIT_LIMIT (R316). -/
def execWaitLimit (e : Fin 64) (s : State) : Result :=
  atTime (hedTickAt s e)
    (fun s' => hedMayExec s' e && s'.time == hedTickAt s' e && !hedBadWord s' e &&
      waitPast (hedSync e s') e && waitFalse (hedSync e s') e)
    (fun s' => waitLimitEnd e (hedSync e s')) s

/-- HED_OUT (R316, R318). -/
def execHedOut (e : Fin 64) (f : BitVec 12) (s : State) : Result := hedExec e 3 f (hedOutOp e f) s

/-- HED_IN (R316, R318). -/
def execHedIn (e : Fin 64) (f : BitVec 12) (s : State) : Result := hedExec e 4 f (hedInOp e f) s

/-- HED_PULL (R316, R322). -/
def execHedPull (e : Fin 64) (f : BitVec 12) (s : State) : Result := hedExec e 5 f (hedPullOp e f) s

/-- HED_PUSH (R316, R322). -/
def execHedPush (e : Fin 64) (f : BitVec 12) (s : State) : Result := hedExec e 6 f (hedPushOp e f) s

/-- HED_SET (R316). -/
def execHedSet (e : Fin 64) (f : BitVec 12) (s : State) : Result := hedExec e 7 f (hedSetOp e f) s

/-- HED_MOV (R316). -/
def execHedMov (e : Fin 64) (f : BitVec 12) (s : State) : Result := hedExec e 8 f (hedMovOp e f) s

/-- HED_CRC (R316, R319). -/
def execHedCrc (e : Fin 64) (f : BitVec 12) (s : State) : Result := hedExec e 9 f (hedCrcOp e f) s

/-- HED_STAMP (R316, R320). -/
def execHedStamp (e : Fin 64) (f : BitVec 12) (s : State) : Result := hedExec e 10 f (hedStampOp e f) s

/-- The opcode at PC is 0 or 11 to 15 (R326). -/
def hedNoOpcode (s : State) (e : Nat) : Bool :=
  let op := (progWord s e (hedBank s e) (hedPc s e)).toNat % 16
  decide (op = 0 ∨ 11 ≤ op)

/-- HED_INVALID_OPCODE (R326). -/
def execHedInvalidOpcode (e : Fin 64) (s : State) : Result :=
  atTime (hedTickAt s e) (fun s' => hedMayExec s' e && hedNoOpcode s' e && s'.time == hedTickAt s' e)
    (hedAttempt e (hedFault e 1)) s

/-- HED_TRIGGER_PENDING (R321). -/
def execHedTriggerPending (e : Fin 64) (s : State) : Result :=
  atOpt (wireAt s (.hedTrig e)) (fun s' => live s' && wireDue (.hedTrig e) s' && rb s' (Reg.hedTrig e) 15) (hedTriggerOp e) s

/-- TXDATA (R322). -/
def execTxdata (p : Path) (e : Fin 64) (v : BitVec 32) (s : State) : Result := writeCmd p (Reg.hedTxdata e) v s

/-- RXDATA (R322). -/
def execRxdata (p : Path) (e : Fin 64) (s : State) : Result := readCmd p (Reg.hedRxdata e) s

/-- HED_START (R325). -/
def execHedStart (p : Path) (e : Fin 64) (s : State) : Result := setBitCmd p (Reg.hedCtl e) 0 s

/-- HED_STOP (R325). -/
def execHedStop (p : Path) (e : Fin 64) (s : State) : Result := clearBitCmd p (Reg.hedCtl e) 0 s

/-- FIFO_CLR (R324). -/
def execFifoClr (p : Path) (e : Fin 64) (s : State) : Result := setBitCmd p (Reg.hedCtl e) 1 s

/-- The cycle at which the engine can take a clean swap: at once where it is stopped, else its next tick (R328). -/
def cleanSwapAt (s : State) (e : Nat) : Nat := if hedStopped s e then s.time else hedTickAt s e

/-- CLEAN_SWAP (R328). -/
def execCleanSwap (e : Fin 64) (s : State) : Result :=
  atTime (cleanSwapAt s e) (fun s' => cleanSwapDue s' e) (cleanSwapOp e) s

/-- FORCED_SWAP (R329). -/
def execForcedSwap (e : Fin 64) (s : State) : Result :=
  atOpt (hedSt s e).swapAt
    (fun s' => forcedSwapDue s' e && !cleanSwapDue s' e) (swapForced e) s

/-- HED_HALT (R331). -/
def execHedHalt (p : Path) (e : Fin 64) (s : State) : Result := setBitCmd p (Reg.hedDbg e) 0 s

/-- HED_RESUME (R331). -/
def execHedResume (p : Path) (e : Fin 64) (s : State) : Result := clearBitCmd p (Reg.hedDbg e) 0 s

/-- HED_STEP (R331). -/
def execHedStep (p : Path) (e : Fin 64) (s : State) : Result := setBitCmd p (Reg.hedDbg e) 1 s

/-- HED_CNT_CLR (R340). -/
def execHedCntClr (p : Path) (e : Fin 64) (s : State) : Result := setBitCmd p (Reg.hedSts e) 31 s

end Sys2Proof.Machine
end

