-- ==== Sys2Proof/Machine/ExecWin.lean ====
section
/-!
DEFINITION. Meanings of the commands of 10_window_monitors.md: comparators, and the main converter.
-/

namespace Sys2Proof.Machine

/-- The output of comparator c can change now to `out` by a change at `t` (R342, R345, R347, R349): enabled, neither in
INDET nor held, and registered at most 3 lc later. -/
def cmpMayChange (s : State) (c : Nat) (out : Bool) (t : Inst) : Bool :=
  live s && cmpEn s c && !cmpIndet s c && (cmpSt s c).hold.isNone && cmpOut s c != out &&
    decide (t.lc ≤ s.time ∧ s.time ≤ t.lc + 3)

/-- COMPARATOR_CHANGE (R342, R349 to R351): it falls behind the ticks of its cycle (R136, R153, R157). -/
def execComparatorChange (c : Fin 64) (out : Bool) (instant : Nat) (s : State) : Result :=
  let t := instOf instant
  atTime t.lc (fun s' => cmpMayChange s' c out t) (fun s' => cmpChange c out (slumberTime s' t) (ticksFirst s')) s

/-- COMPARATOR_ENABLE (R347). -/
def execComparatorEnable (p : Path) (c : Fin 64) (v : BitVec 32) (s : State) : Result := writeCmd p (cmpReg c) v s

/-- COMPARATOR_DISABLE (R347). -/
def execComparatorDisable (p : Path) (c : Fin 64) (s : State) : Result := clearBitCmd p (cmpReg c) 0 s

/-- The cycle in which comparator c evaluates after its enable; a hold of THRESH delays it (R346, R347). -/
def indetEvalAt (s : State) (c : Nat) : Option Nat :=
  (cmpSt s c).evalAt.map fun t => max t ((cmpSt s c).hold.getD 0)

/-- INDET_EVALUATION (R347). -/
def execIndetEvaluation (c : Fin 64) (x : Analog) (s : State) : Result :=
  atOpt (indetEvalAt s c)
    (fun s' => live s' && cmpEn s' c && cmpIndet s' c && (indetEvalAt s' c).any (· ≤ s'.time)) (cmpEvaluate c x) s

/-- The hold ends; the output takes the value for the input (R345, R346). In INDET the first evaluation may still be to come
(R347); after it the comparator leaves INDET as the input lies. It falls behind the ticks of its cycle (R136). -/
def settleEndOp (c : Nat) (x : Analog) (s : State) : State :=
  let s := winLevels (c / 2) (modCmp c (fun y => { y with hold := none }) s)
  if cmpIndet s c && (cmpSt s c).evalAt.isSome then s else cmpEvaluate c x (ticksFirst s)

/-- SETTLE_END (R345, R346). -/
def execSettleEnd (c : Fin 64) (x : Analog) (s : State) : Result :=
  atOpt (cmpSt s c).hold
    (fun s' => live s' && cmpEn s' c && (cmpSt s' c).hold.any (· ≤ s'.time)) (settleEndOp c x) s

/-- INDET_BAND_EXIT (R347): the input leaves the band of a comparator that has been evaluated and stayed in INDET; while its output
is held, the end of the hold evaluates it (R345, R346). -/
def execIndetBandExit (c : Fin 64) (above : Bool) (s : State) : Result :=
  nowIf (live s && cmpEn s c && cmpIndet s c && (cmpSt s c).evalAt.isNone && (cmpSt s c).hold.isNone) (cmpAdopt c above) s

/-- THRESH_WRITE (R346). -/
def execThreshWrite (p : Path) (c : Fin 64) (v : BitVec 32) (s : State) : Result := writeCmd p (thReg c) v s

/-! ### The converter -/

/-- ADC_TRIGGER_PENDING (R354). -/
def execAdcTriggerPending (i : Fin 4) (s : State) : Result :=
  atOpt (wireAt s (.adcTrig i)) (fun s' => live s' && wireDue (.adcTrig i) s') (adcTriggerOp i) s

/-- The lowest pending trigger. -/
def adcNextTrig (s : State) : Option Nat := (upto 0 4).find? fun i => s.adc.pend.getLsbD i

/-- The pending sequence of the lowest index begins (R354). -/
def sequenceStartOp (s : State) : State :=
  match adcNextTrig s with
  | none => s
  | some i => modAdc (fun a => { a with seq := some (i, sequenceOf s i), pend := a.pend &&& ~~~(1#4 <<< i) }) s

/-- SEQUENCE_START (R354). -/
def execSequenceStart (s : State) : Result :=
  atTime s.adc.freeAt
    (fun s' => adcRuns s' && s'.adc.seq.isNone && decide (s'.adc.freeAt ≤ s'.time) && (adcNextTrig s').isSome) sequenceStartOp s

/-- A readback falls due, or merges into one that waits (R355). -/
def readbackDueOp (s : State) : State := modAdc (fun a => { a with rbDue := true, rbAt := s.time + 1 }) s

/-- READBACK_DUE (R355). -/
def execReadbackDue (s : State) : Result :=
  atTime (rbNext s) (fun s' => adcRuns s' && rb s' Reg.adcCtl 1 && rbNext s' == s'.time) readbackDueOp s

/-- What the free converter converts next (R354, R355): the next slot of the sequence that runs, else, with no trigger
pending, a readback that waits. -/
def convNext (s : State) : Option Conv :=
  match s.adc.seq with
  | some (i, (k, sel) :: rest) => some (.slot s.time k sel i rest.isEmpty)
  | _ =>
    if s.adc.rbDue && s.adc.pend == 0 then
      (nextEnabled s s.adc.rbLast).map fun c => .readback s.time c (rf s (thReg c) 0 10) (cmpSt s c).thAt
    else none

/-- The conversion starts; the sequence or the readback goes on from it. -/
def conversionStartOp (s : State) : State :=
  match convNext s with
  | none => s
  | some x =>
    let s := convStart x s
    match x with
    | .slot .. => modAdc (fun a => { a with seq := match a.seq with
        | some (i, _ :: y :: ys) => some (i, y :: ys)
        | _ => none }) s
    | .readback _ c _ _ => modAdc (fun a => { a with rbDue := false, rbLast := c }) s

/-- CONVERSION_START (R352). -/
def execConversionStart (s : State) : Result :=
  atTime s.adc.freeAt (fun s' => adcRuns s' && decide (s'.adc.freeAt ≤ s'.time) && (convNext s').isSome) conversionStartOp s

/-- The result of a readback with the offset of an injection (R602). -/
def injectedCode (s : State) (c code : Nat) : Nat :=
  if s.flt.injDac = some c then
    let o := rf s Reg.adcChk 16 8 + 1
    if code + o < 4096 then code + o else code - o
  else code

/-- The result of a readback of comparator c (R355, R356, R598): discarded, or shown and compared. -/
def readbackResult (start c th thAt code : Nat) (s : State) : State :=
  if rbDiscard start thAt then s
  else
    let inj := s.flt.injDac == some c
    let code := injectedCode s c code
    let s := when_ inj (modFlt fun f => { f with injDac := none }) s
    let s := rset Reg.adcChkLast (setFld (wd code) 16 6 c) s
    let others := s.flt.dacBad.filter (· != c)
    if rbMismatch s th code then
      detect 10 c (cmpHarnesses s c) inj (dacMismatch c code (modFlt (fun f => { f with dacBad := c :: others }) s))
    else modFlt (fun f => { f with dacBad := others }) s

/-- The oldest conversion gives its result. -/
def conversionResultOp (code : Nat) (s : State) : State :=
  match s.adc.convs with
  | [] => s
  | x :: xs =>
    let s := modAdc (fun a => { a with convs := xs }) s
    match x with
    | .slot start i sel trg last => slotResult start i sel trg last code s
    | .readback start c th thAt => readbackResult start c th thAt code s

/-- CONVERSION_RESULT (R352, R356, R357): 204 lc after the start. -/
def execConversionResult (code : BitVec 12) (s : State) : Result :=
  atOpt (s.adc.convs.head?.map fun x => x.start + 204) (fun s' => running s' && !s'.adc.convs.isEmpty)
    (conversionResultOp code.toNat) s

/-- SLOT_READ (R363). -/
def execSlotRead (p : Path) (sl : Fin 32) (s : State) : Result := readCmd p (Reg.adcSlot sl) s

/-- RQ_RD_WRITE (R364). -/
def execRqRdWrite (p : Path) (v : BitVec 32) (s : State) : Result := writeCmd p Reg.adcRqRd v s

/-- WIN_CNT_CLR (R362). -/
def execWinCntClr (p : Path) (w : Fin 32) (s : State) : Result := setBitCmd p (Reg.winSts w) 31 s

/-- ADC_CNT_CLR (R363). -/
def execAdcCntClr (p : Path) (s : State) : Result := setBitCmd p Reg.adcCtl 8 s

end Sys2Proof.Machine
end

