-- ==== Sys2Proof/Machine/ExecStore.lean ====
section
/-!
DEFINITION. Meanings of the commands of 11_stores_and_bobbins.md: scrub, march tests, and bobbins.
-/

namespace Sys2Proof.Machine

/-! ### Scrub and march test (R376 to R381) -/

/-- SCRUB_READ (R376). -/
def execScrubRead (s : State) : Result :=
  atTime (scrubNext s) (fun s' => running s' && rb s' Reg.storeCtl 0 && eccOn s' && scrubNext s' == s'.time) scrubOp s

/-- PRESERVING_TEST (R379, R381). -/
def execPreservingTest (p : Path) (bank : BitVec 6) (s : State) : Result :=
  writeCmd p Reg.storeMtCtl (setBit (wd bank.toNat) 16 true) s

/-- DESTRUCTIVE_TEST (R379, R381). -/
def execDestructiveTest (p : Path) (bank : BitVec 6) (s : State) : Result :=
  writeCmd p Reg.storeMtCtl (setBit (setFld (wd bank.toNat) 8 2 1) 16 true) s

/-- A phase of a test begins at cycle `t` (R379). -/
def mtPhaseAt (phase t : Nat) (s : State) : State :=
  mtSet phase { s with store := { s.store with mtAt := t, mtWait := 0 } }

/-- The copy of a preserving test is over: 32,768 cycles in which no other requester used port B (R371, R379). -/
def copyDone (s : State) : Nat := s.store.mtAt + 32768 + s.store.mtWait

/-- The bank under test is being released (R379). -/
def mtReleasing (s : State) : Bool := s.timed.any fun x => match x.2 with | .mtEnd _ => true | _ => false

/-- The end of phase `k` of a preserving test, a copy, in its cycle. -/
def copyPhase (k : Nat) (f : State → State) (s : State) : Result :=
  atTime (copyDone (advanceTo (copyDone s) s))
    (fun s' => live s' && decide (mtPhase s' = k) && decide (copyDone s' ≤ s'.time) && !mtReleasing s') f s

/-- COPY ends: REDIRECT, and TEST in the next cycle (R379). -/
def copyEndOp (s : State) : State := schedule (s.time + 1) .mtTest (mtPhaseAt 2 (s.time + 1) s)

/-- COPY_END (R379). -/
def execCopyEnd (s : State) : Result :=
  copyPhase 1 copyEndOp s

/-- A tested bank has failed (R380): its spare replaces it and the repair table follows, or the bank stays unrepaired. -/
def testFails (bank : Nat) (s : State) : State :=
  let r := bankFailed bank s
  if r.1 then detect 1 bank [] false r.2 else repairJob r.2

/-- RELEASE (R379): 1 lc later the test has finished. PHASE has no code for it and shows RESTORE meanwhile (DESIGN CHOICE, log entry
71). -/
def mtRelease (result : Nat) (s : State) : State := mtSet 4 (schedule (s.time + 1) (.mtEnd result) s)

/-- The march test of the bank ends (R379, R380): a destructive one leaves the bank at 0; a preserving one goes on with
RESTORE, unless the bank failed. -/
def testEndOp (pass : Bool) (s : State) : State :=
  let bank := mtBank s
  if s.store.mtKind = 0 then
    if pass then mtPhaseAt 4 s.time s else mtRelease 1 (testFails bank s)
  else
    let s := clearBank bank s
    if pass then mtFinish 0 s else mtFinish 1 (testFails bank s)

/-- TEST_END (R378, R380). -/
def execTestEnd (pass : Bool) (s : State) : Result :=
  atTime (s.store.mtAt + 1310720) (fun s' => live s' && decide (mtPhase s' = 3)) (testEndOp pass) s

/-- RESTORE_END (R379). -/
def execRestoreEnd (s : State) : Result :=
  copyPhase 4 (mtRelease 0) s

/-- STORE_CNT_CLR (R394). -/
def execStoreCntClr (p : Path) (s : State) : Result := setBitCmd p Reg.storeCtl 8 s

/-! ### Bobbins (R382 to R393) -/

/-- BOB_START (R387, R392). -/
def execBobStart (p : Path) (b : Fin 32) (v : BitVec 32) (s : State) : Result := writeCmd p (Reg.bobCtl b) (setBit v 0 true) s

/-- BOB_ABORT (R390). -/
def execBobAbort (p : Path) (b : Fin 32) (s : State) : Result := setBitCmd p (Reg.bobCtl b) 1 s

/-- The first cycle, at most 2 lc from now, in which the gate of bobbin b sees a level that satisfies `c` (R386). -/
def gateAt (s : State) (b : Nat) (c : Nat → Bool) : Option Nat :=
  (upto s.time 3).find? fun t => c (levelSeen (if t = s.time then s else { bobSnap s with time := t }) b)

/-- A level opens the gate, or closes it (R386). -/
def gateHigh (s : State) (b lv : Nat) : Bool := decide (rf s (Reg.bobcQm b) 0 16 ≤ lv)
def gateLow (s : State) (b lv : Nat) : Bool := decide (lv ≤ rf s (Reg.bobcQm b) 16 16)

/-- The gate of bobbin b can go from `was`. -/
def gateMoves (s : State) (b : Nat) (was : Bool) : Bool :=
  running s && bobRuns s b && bobPaced s b && rb s (Reg.bobSts b) 8 == was

/-- GATE_OPEN (R386). -/
def execGateOpen (b : Fin 32) (s : State) : Result :=
  atOpt (gateAt s b (gateHigh s b)) (fun s' => gateMoves s' b false && gateHigh s' b (levelSeen s' b))
    (setb (Reg.bobSts b) 8 true) s

/-- GATE_CLOSE (R386). -/
def execGateClose (b : Fin 32) (s : State) : Result :=
  atOpt (gateAt s b (gateLow s b)) (fun s' => gateMoves s' b true && gateLow s' b (levelSeen s' b))
    (setb (Reg.bobSts b) 8 false) s

/-- Bobbin b may issue a transaction now (R390, R392). -/
def bobMayIssue (s : State) (b : Nat) : Bool :=
  let x := bobSt s b
  running s && bobRuns s b && x.ending.isNone && !x.mism && decide (x.issueAt ≤ s.time) &&
    decide (x.txns.length < rf s (Reg.bobOtl b) 0 4) && decide (bobOutstanding s < rf s Reg.bobcOtTotal 0 7) && (bobNext s b).isSome

/-- The next transaction of bobbin b issues. -/
def transactionIssueOp (b : Nat) (s : State) : State :=
  match bobNext s b with
  | some (k, src, off, n) => bobIssue b k src off n s
  | none => s

/-- The next transaction of bobbin b is an access of a register, a FIFO, which has its place among those of its cycle (R101). -/
def bobFifoNext (s : State) (b : Nat) : Bool :=
  match bobNext s b with
  | some (k, src, off, _) => k != .flush && !bobHostSpace s b src && decide (bobEa s b src off < 0x1000000)
  | none => false

/-- TRANSACTION_ISSUE (R392). -/
def execTransactionIssue (b : Fin 32) (s : State) : Result :=
  let fifo := bobFifoNext s b
  atTime (max (bobSt s b).issueAt (if fifo then turnAt bobRank s else 0)) (fun s' => bobMayIssue s' b)
    (fun s' => transactionIssueOp b (if fifo then takeTurn bobRank s' else s')) s

/-- The transaction that a return belongs to: the oldest write for an acknowledgement, the oldest read for data, the
oldest host read for an error. -/
def returnOf (s : State) (b : Nat) (x : BobReturn) : Option BobTxn :=
  (bobSt s b).txns.find? fun t => match x with
    | .ack => t.kind == .write
    | .data _ => t.kind != .write
    | .hostError => t.kind != .write && t.host

/-- Data from the host are as long as the read asked for (R523). -/
def returnFits (x : BobReturn) (t : BobTxn) : Bool :=
  match x with
  | .data bs => !t.host || decide (bs.length = t.n)
  | _ => true

/-- A transaction returns (R386 to R390): a device read with the bytes that the store gave it at its issue, a host read
with those of the host, or an error of the host. -/
def transactionReturnOp (b : Nat) (x : BobReturn) (t : BobTxn) (s : State) : State :=
  let s := bobDrop b t s
  match x with
  | .ack => bobTake b t s
  | .data bs => bobTake b (if t.host then { t with data := bs } else t) s
  | .hostError => bobError b 4 t s

/-- TRANSACTION_RETURN (R369, R386, R390): a device access 6 lc after its grant, a host access when the host answers. The
advance of a queue's pointer follows the host's writes of its cycle (R386, R101). -/
def execTransactionReturn (b : Fin 32) (x : BobReturn) (s : State) : Result :=
  match returnOf s b x with
  | none => .next s
  | some t =>
    let ptr := bobPaced s b && decide (128 ≤ bobQ s b)
    atTime (max (if t.host then s.time else t.at_ + 6) (if ptr then turnAt bobRank s else 0))
      (fun s' => live s' && !t.wait && returnOf s' b x == some t && returnFits x t)
      (fun s' => transactionReturnOp b x t (if ptr then takeTurn bobRank s' else s')) s

/-- HOST_COMPLETION_TIMEOUT (R390): code 4. -/
def execHostCompletionTimeout (b : Fin 32) (s : State) : Result :=
  match returnOf s b .hostError with
  | none => .next s
  | some t =>
    atTime (t.at_ + 20000) (fun s' => live s' && returnOf s' b .hostError == some t)
      (fun s' => bobError b 4 t (bobDrop b t s')) s

/-- HQ_PTR_WRITE (R400). -/
def execHqPtrWrite (p : Path) (j : Fin 8) (v : BitVec 32) (s : State) : Result := writeCmd p (Reg.bobcHqPtr j) v s

/-- BOB_CNT_CLR (R398). -/
def execBobCntClr (p : Path) (b : Fin 32) (s : State) : Result := setBitCmd p (Reg.bobSts b) 31 s

/-- BOBC_CNT_CLR (R399). -/
def execBobcCntClr (p : Path) (s : State) : Result := setBitCmd p Reg.bobcCtl 8 s

end Sys2Proof.Machine
end

