-- ==== Sys2Proof/Machine/ExecVec.lean ====
section
/-!
DEFINITION. Meanings of the commands of 12_event_matrix.md: arrivals, coalescing and delivery.
-/

namespace Sys2Proof.Machine

/-- RAISE_ARRIVAL (R408). -/
def execRaiseArrival (j : Fin 64) (s : State) : Result :=
  atOpt (wireAt s (.vec j)) (fun s' => live s' && wireDue (.vec j) s') (raiseArrivalOp j) s

/-- The time limit of vector j has been reached, with raises counted before this cycle (R409); a TIME just written applies from
the next one (R415). -/
def limitDue (s : State) (j : Nat) : Bool :=
  (vecLimit s j).any (· ≤ s.time) && decide (0 < accBefore s j) && decide ((vecSt s j).numAt ≤ s.time)

/-- COALESCE_TIMEOUT (R409). -/
def execCoalesceTimeout (j : Fin 64) (s : State) : Result :=
  atOpt ((vecLimit s j).map (max (vecSt s j).numAt)) (fun s' => live s' && limitDue s' j) (vecReadyNow j) s

/-- MSIX_HANDOVER (R411, R412, R628): at the earliest in the cycle after PEND is set, or a destination is written (R415). -/
def execMsixHandover (j : Fin 64) (s : State) : Result :=
  atTime (max (vecSt s j).readyAt (vecSt s j).selAt) (fun s' => live s' && vecPend s' j && !vecIrq s' j && !vecHeld s' j) (msixSend j) s

/-- IRQ_ASSERT (R411, R412, R628). -/
def execIrqAssert (j : Fin 64) (s : State) : Result :=
  atTime (vecSt s j).readyAt
    (fun s' => live s' && irqDue s' j) (irqAssertOp j) s

/-- PEND_CLEAR (R412, R415). -/
def execPendClear (p : Path) (j : Fin 64) (s : State) : Result := setBitCmd p (Reg.vecSts j) 0 s

/-- MASK_CLEAR (R412, R415). -/
def execMaskClear (p : Path) (j : Fin 64) (s : State) : Result := clearBitCmd p (Reg.vecCtl j) 1 s

/-- VEC_CTL_WRITE (R415). -/
def execVecCtlWrite (p : Path) (j : Fin 64) (v : BitVec 32) (s : State) : Result := writeCmd p (Reg.vecCtl j) v s

/-- EVM_CNT_CLR (R419). -/
def execEvmCntClr (p : Path) (s : State) : Result := setBitCmd p Reg.evmCtl 8 s

/-- VEC_CNT_CLR (R421). -/
def execVecCntClr (p : Path) (j : Fin 64) (s : State) : Result := setBitCmd p (Reg.vecSts j) 31 s

end Sys2Proof.Machine
end

