-- ==== Sys2Proof/Machine/ExecMode.lean ====
section
/-!
DEFINITION. Meanings of the commands of 13_modes_clocks_power.md: resets, boot, clocks, power levels and supplies.
-/

namespace Sys2Proof.Machine

/-! ### Resets (R431, R447) -/

/-- POWER_ON_RESET (R431). -/
def execPowerOnReset (s : State) : Result := nowIf true (deviceReset 0) s

/-- RST_N is low: the device is reset (R431). -/
def pinResetOp (s : State) : State :=
  let s := deviceReset 1 s
  { s with tap := { s.tap with rstLow := true } }

/-- PIN_RESET (R431). -/
def execPinReset (s : State) : Result := nowIf true pinResetOp s

/-- BROWN_OUT (R447). -/
def execBrownOut (s : State) : Result := nowIf true (deviceReset 2) s

/-- Reset is released: HOST_SEL is sampled, the VDDIO rails are read (R423, R445). -/
def releaseOp (hostSel : Bool) (high : BitVec 8) (s : State) : State :=
  let s := setb Reg.hostSts 0 hostSel { s with tap := { s.tap with rstLow := false }, pwr := { s.pwr with vddio := high } }
  setMode 1 s

/-- RESET_RELEASE (R423). -/
def execResetRelease (hostSel : Bool) (high : BitVec 8) (s : State) : Result := nowIf (mode s == 0) (releaseOp hostSel high) s

/-! ### Boot (R429, R430) -/

/-- The boot has reached a step, in BOOT. -/
def bootAt (s : State) (n : Nat) : Bool := mode s == 1 && s.tack.boot == n
def setBoot (n : Nat) (s : State) : State := modTack (fun t => { t with boot := n }) s

/-- The loom PLL locks: device time starts (R15, R429). -/
def pllLockOp (s : State) : State := setBoot 1 (clkChange 1 5 { s with time := 0 })

/-- PLL_LOCK (R429). -/
def execPllLock (s : State) : Result := nowIf (bootAt s 0) pllLockOp s

/-- Flash discovery ends with a code (R560, R561), and the log goes on after what is in flash (R571). -/
def discoveryOp (code : Nat) (density dummy : BitVec 8) (s : State) : State :=
  let single := decide (code ≠ 0)
  let w := setFld (setFld (setFld (wd (b2n single)) 1 3 code) 8 8 density.toNat) 16 8 dummy.toNat
  let s := setb Reg.pwrBootsts 3 single (rset Reg.tackFlash w s)
  let s := logResume (setBoot 2 s)
  when_ single (logCause 0x0F07 3 0 0 w) s

/-- FLASH_DISCOVERY (R560). -/
def execFlashDiscovery (code : Fin 7) (density : BitVec 8) (dummy : BitVec 8) (s : State) : Result :=
  nowIf (bootAt s 1) (discoveryOp code density dummy) s

/-- The ROM starts image i: the repair table is applied and SELF-TEST entered (R423, R565). -/
def firmwareOp (i : Nat) (s : State) : State :=
  let s := setMode 2 (readRepairs (logDrain (setBoot 3 (fwStart i s))))
  { s with store := { s.store with mtAt := s.time } }

/-- FIRMWARE_SELECTION (R565): with no image that passes the device stays in BOOT. -/
def execFirmwareSelection (s : State) : Result :=
  match fwSelect s with
  | some i => nowIf (bootAt s 2) (firmwareOp i) s
  | none => .next s

/-- A bank, or the spare in its place, has failed the boot test (R380): whether one stays unrepaired, and the state. -/
def bootBank (bad : List Nat) (bank : Nat) (p : Bool × State) : Bool × State :=
  let g := bank / 12
  let mine := spareUsed p.2 g && rf p.2 (Reg.storeSpare g) 0 6 == bank
  let spareBad := bad.contains (48 + g)
  if mine then (if spareBad then (true, (bankFailed bank p.2).2) else p)
  else if !bad.contains bank then p
  else
    let r := bankFailed bank p.2
    if !r.1 && spareBad then (true, (bankFailed bank r.2).2) else (p.1 || r.1, r.2)

/-- The record of a boot (R430, R432). -/
def bootRecord (s : State) : State := logCause 0x0001 1 0 (rget s Reg.pwrBootsts) (rget s Reg.pwrRstcause) s

/-- The march tests of SELF-TEST leave nothing of the stores' contents (R378). -/
def marched (s : State) : State := { s with mem := [], store := { s.store with marks := [] } }

/-- SELF-TEST has ended (R379, R380, R423): the contents of the stores are undefined; what failed is replaced; the boot goes
on, or ends in MAINTENANCE. -/
def selfTestOp (bad : List Nat) (logicOk : Bool) (s : State) : State :=
  let was := (upto 0 4).map fun g => rget s (Reg.storeSpare g)
  let r := (upto 0 48).foldl (fun p b => bootBank bad b p) (false, marched s)
  let s := forEach (upto 0 4) (fun g => when_ (bad.contains (48 + g)) (setb (Reg.storeSpare g) 30 true)) r.2
  let s := if (upto 0 4).map (fun g => rget s (Reg.storeSpare g)) == was then s else repairJob s
  if r.1 || !logicOk then
    setMode 9 (bootRecord (setb Reg.shedCtl 0 false (setb Reg.pwrBootsts 24 true (setf Reg.pwrBootsts 0 2 3 s))))
  else setMode 1 (setBoot 4 s)

/-- SELF_TEST_END (R378, R423): not before the march test of the banks is over. -/
def execSelfTestEnd (bad : List (Fin 52)) (logicOk : Bool) (s : State) : Result :=
  atTime (s.store.mtAt + 1310720) (fun s' => mode s' == 2) (selfTestOp (bad.map fun b => b.val) logicOk) s

/-- The regions of ACTIVE, PREVIOUS and FACTORY with the result of each: the code of R450. -/
def bootSlots (unreadable : BitVec 3) (s : State) : List (Nat × Nat) :=
  let x := s.tack.slots
  ([x.active, x.previous, x.factory].zip (upto 0 3)).map fun y =>
    (y.1, if 4 ≤ y.1 then 1 else draftCheck s y.1 (!unreadable.getLsbD y.2))

/-- The slots are tried in order (R430): the fields of BOOTSTS, and the region that passes. -/
def bootTry (xs : List (Nat × Nat)) (w : Word) : Word × Option Nat :=
  match xs.findIdx? fun x => x.2 == 0 with
  | none => (setFld ((xs.zip (upto 0 3)).foldl (fun w x => setFld w (8 + 4 * x.2) 4 x.1.2) w) 0 2 3, none)
  | some k => (setFld (((xs.take k).zip (upto 0 3)).foldl (fun w x => setFld w (8 + 4 * x.2) 4 x.1.2) w) 0 2 k,
      (xs[k]?).map fun x => x.1)

/-- PWR.BOOT_T takes the time that the boot took, in µs (R429): device time, and the PLL's lock before it, at most 350 µs and otherwise open
(log entry 1). -/
def bootTimed (s : State) : State :=
  let x := freshWord s
  rset Reg.pwrBootT (wd (x.1 % 351 + s.time / 400)) x.2

/-- The subsystem identification of the draft in force (R523). -/
def bootIds (s : State) : State :=
  let ssid := match s.chg.act with | some d => wd d.ssid | none => 0
  rset Reg.hostIds ssid { s with host := { s.host with cfg := tset s.host.cfg 0x0B ssid } }

/-- The slot that passes is loaded, or none does (R430). -/
def bootApply (slot : Option Nat) (s : State) : State :=
  match slot with
  | none => setMode 9 (bootRecord (setb Reg.shedCtl 0 false (setb Reg.pwrBootsts 25 true s)))
  | some i =>
    let s := noteRegion i true (bootIds (bootRecord (loadDraft i s)))
    if rb s Reg.pwrCtl 3 then enterMode 4 s else setMode 3 s

/-- BOOT ends (R423, R430, R432): the first slot that passes is applied, or the device enters MAINTENANCE without a
draft. The calibration is complete (R173). -/
def bootDraftOp (unreadable : BitVec 3) (s : State) : State :=
  let s := readSlots s
  let r := bootTry (bootSlots unreadable s) (rget s Reg.pwrBootsts)
  bootApply r.2 (bootTimed (forEach (upto 0 256) (fun k => setb (Reg.reedSts k) 16 true) (rset Reg.pwrBootsts r.1 s)))

/-- BOOT_DRAFT_APPLIED (R430). -/
def execBootDraftApplied (unreadable : BitVec 3) (s : State) : Result := nowIf (bootAt s 4) (bootDraftOp unreadable) s

/-! ### Clocks (R435, R436, R553) -/

/-- REFERENCE_LOSS (R435). -/
def execReferenceLoss (s : State) : Result := nowIf (rb s Reg.pwrClksts 0) (refLost false) s

/-- The reference is within tolerance again (R553). -/
def refReturnOp (s : State) : State :=
  let s := clkChange 0 (rf s Reg.pwrClksts 0 4 + 1) s
  { s with pwr := { s.pwr with refSince := s.time } }

/-- REFERENCE_RETURN (R553). -/
def execReferenceReturn (s : State) : Result := nowIf (mode s != 0 && (rb s Reg.pwrClksts 2 || decide (power s = 2)) && !rb s Reg.pwrClksts 0) refReturnOp s

/-- The cycles of 10 ms (R436, R445). -/
def tenMs : Nat := 4000000

/-- RESTORE_OK (R436): the reference has been within tolerance for 10 ms. -/
def execRestoreOk (s : State) : Result :=
  atTime (s.pwr.refSince + tenMs) (fun s' => rb s' Reg.pwrClksts 0 && rb s' Reg.pwrClksts 1 && !rb s' Reg.pwrClksts 3 &&
    decide (s'.pwr.refSince + tenMs ≤ s'.time)) (setb Reg.pwrClksts 3 true) s

/-- RESTORE (R436). -/
def execRestore (p : Path) (s : State) : Result := writeCmd p Reg.pwrClkctl 1 s

/-- PLL_LOCK_LOSS (R431, R553): a reset with cause FAULT. -/
def execPllLockLoss (s : State) : Result := nowIf (rb s Reg.pwrClksts 2 && decide (power s ≠ 2)) (deviceReset 4) s

/-! ### Power levels (R440 to R443) -/

/-- LATENCY_NS_WRITE (R440). -/
def execLatencyNsWrite (p : Path) (v : BitVec 32) (s : State) : Result := writeCmd p Reg.pwrLatencyNs v s

/-- DOZE_ENTRY (R440, R441). -/
def execDozeEntry (s : State) : Result := nowIf (decide (power s = 0) && dozeOk s) (setPower 1) s

/-- Full power returns from DOZE: the banks wake. -/
def dozeExitOp (s : State) : State :=
  let s := setPower 0 s
  { s with pwr := { s.pwr with asleep := [] } }

/-- DOZE_EXIT (R440, R441). -/
def execDozeExit (s : State) : Result := nowIf (decide (power s = 1) && !dozeOk s) dozeExitOp s

/-- The cycle in which the SLUMBER conditions have held for DWELL µs (R442). -/
def slumberAt (s : State) : Nat := s.pwr.okSince.getD s.time + 400 * rf s Reg.pwrDwell 0 24

/-- SLUMBER_ENTRY (R442, R443). -/
def execSlumberEntry (s : State) : Result :=
  if slumberOk s then
    atTime (slumberAt s) (fun s' => slumberOk s' && decide (power s' ≠ 2) && decide (slumberAt s' ≤ s'.time)) enterSlumber s
  else .next s

/-- WAKE_COMPLETE (R443). -/
def execWakeComplete (s : State) : Result := nowIf (decide (power s = 2) && s.log.waking) wakeDone s

/-- Bank i may sleep (R441, R448): marked, and not of the card store. -/
def bankMaySleep (s : State) (i : Nat) : Bool :=
  (if i < 32 then rb s Reg.pwrBankslpLo i else rb s Reg.pwrBankslpHi (i - 32)) && !decide (32 ≤ i ∧ i < 40)

/-- A bank enters light sleep. -/
def bankSleepOp (i : Nat) (s : State) : State := { s with pwr := { s.pwr with asleep := s.pwr.asleep ++ [i] } }

/-- BANK_SLEEP (R441). -/
def execBankSleep (bank : Fin 48) (s : State) : Result :=
  if power s = 1 then
    atTime (tget 0 s.pwr.touched bank + 65536)
      (fun s' => decide (power s' = 1) && bankMaySleep s' bank && !s'.pwr.asleep.contains bank.val &&
        decide (tget 0 s'.pwr.touched bank + 65536 ≤ s'.time)) (bankSleepOp bank) s
  else .next s

/-- PWR_CNT_CLR (R449). -/
def execPwrCntClr (p : Path) (s : State) : Result := setBitCmd p Reg.pwrCtl 31 s

/-! ### Supplies (R445, R446) -/

/-- SUPPLY_LOW (R445). -/
def execSupplyLow (m : Fin 6) (s : State) : Result := nowIf (mode s != 0) (supplyChange m true) s

/-- A rail has recovered; flash work that NVM_INH held goes on (R446). -/
def recoveryOp (m : Nat) (s : State) : State := issueNext (supplyChange m false s)

/-- SUPPLY_RECOVERY (R445): the rail has stayed above its threshold for 10 ms. -/
def execSupplyRecovery (m : Fin 6) (s : State) : Result :=
  if rb s Reg.pwrSupply m then
    atTime (tget 0 s.pwr.lowAt m + tenMs) (fun s' => mode s' != 0 && rb s' Reg.pwrSupply m &&
      decide (tget 0 s'.pwr.lowAt m + tenMs ≤ s'.time)) (recoveryOp m) s
  else .next s

end Sys2Proof.Machine
end

