-- ==== Sys2Proof/Machine/ExecDraft.lean ====
section
/-!
DEFINITION. Meanings of the commands of 14_drafts_and_changeover.md that the device takes by itself: the end of a verification,
the switch instant, the application of channels, the end and the commit.
-/

namespace Sys2Proof.Machine

/-! ### What CHANGEOVER, REVERT and LINE_CHANGEOVER have in common (R477, R543) -/

/-- Argument k of a command. -/
def Cmd.arg (c : Cmd) (k : Nat) : Word := c.args.getD k 0

/-- FORM and TRK of a switch point. -/
def Cmd.time (c : Cmd) : Bool := bit (c.arg 0) 8
def Cmd.trk (c : Cmd) : Nat := fld (c.arg 0) 0 2
def Cmd.swA (c : Cmd) : Nat := (c.arg 1).toNat
def Cmd.swB (c : Cmd) : Nat := (c.arg 2).toNat

/-- The tracker that a switch point in angle form names is in SYNCED or LIMP (R477). -/
def trkReady (s : State) (c : Cmd) : Bool := c.time || decide (trdState s c.trk = 3 ∨ trdState s c.trk = 4)

/-- The staged class differs from the one in force while the link is enabled (R486). -/
def classBars (s : State) : Bool := selOn s && decide (rf s Reg.chgNewCc 0 16 ≠ rf s Reg.chgActCc 0 16)

/-- The modes from which a changeover may begin (R477). -/
def chgModes (s : State) : Bool := decide (3 ≤ mode s ∧ mode s ≤ 6)

/-- DETAIL of a STATE_REJECT (R541). -/
def rejectDetail (s : State) : Nat := mode s + 16 * stageState s

/-- REJ_CNT and the record of a STATE_REJECT (R542). -/
def rejectNote (c : Cmd) (s : State) : State :=
  logCause 0x0E04 1 c.slot (wd (c.op + 256 * rejectDetail s)) c.tag (count Reg.mbxRejCnt s)

/-- A REVERT whose image has passed changes over, or discards the image with a status (R477, R485, R486). -/
def revertOp (c : Cmd) (s : State) : State :=
  if !(chgModes s && trkReady s c) then
    bgOut 2 (rejectDetail s) 0 (rejectNote c (discardStaged s))
  else if classBars s then bgOut 7 0 0 (discardStaged s)
  else if !switchOk s c.time c.trk c.swA c.swB then bgOut 3 2 0 (discardStaged s)
  else bgOut 0 0 (wd s.time) (enterChangeover c.time c.trk c.swA c.swB s)

/-- The check of a verification ends (R474, R485); the region may be none, or may not have been read. -/
def verifyEnd (readable : Bool) (s : State) : State :=
  let r := verifyOp (readable && decide (s.chg.region < 4)) s
  match s.host.bgRun with
  | none => r.2
  | some c =>
    if r.1 ≠ 0 then bgOut (checkStatus r.1) r.1 0 r.2
    else if c.op = 0x24 then revertOp c r.2
    else bgOut 0 0 (rget r.2 Reg.chgNewVer) r.2

/-- VERIFY_COMPLETE (R474, R485). -/
def execVerifyComplete (readable : Bool) (s : State) : Result := nowIf (decide (stageState s = 2)) (verifyEnd readable) s

/-- SWITCH_INSTANT (R478). -/
def execSwitchInstant (s : State) : Result :=
  if chgPending s then
    atOpt (switchTime s) (fun s' => chgPending s' && (switchTime s').any (· ≤ s'.time)) switchInstantOp s
  else .next s

/-- The cycle of an application instant: a tick of the harness for a channel with laps, else now (R480). -/
def applyAt (s : State) (n : Nat) : Nat :=
  if chMode s n ∈ [1, 2, 4] then (harnTickAt s (n / 8)).1 else s.time

/-- CHANNEL_APPLICATION (R480). -/
def execChannelApplication (n : Fin 512) (s : State) : Result :=
  atTime (applyAt s n) (fun s' => applyWaits s' n && applyDue s' n) (channelApply n) s

/-- FORCED_APPLICATION (R482). -/
def execForcedApplication (n : Fin 512) (s : State) : Result :=
  atTime (s.chg.swLc + rn s Reg.chgDrainMax) (fun s' => applyWaits s' n) (channelForce n) s

/-- CHANGEOVER_END (R483). -/
def execChangeoverEnd (s : State) : Result := nowIf (chgMayEnd s) chgEnd s

/-- NONHITLESS_APPLY (R484). -/
def execNonhitlessApply (s : State) : Result :=
  nowIf (decide (stageState s = 5) && s.chg.swWait && !restarting s) coldApply s

/-- SLOT_TABLE_COMMIT (R471, R483, R557). -/
def execSlotTableCommit (s : State) : Result :=
  nowIf (rb s Reg.chgSts 16 && !nvmInh s && !restarting s) commitOpSlots s

/-- CHG_CNT_CLR (R487). -/
def execChgCntClr (p : Path) (s : State) : Result := setBitCmd p Reg.chgCtl 8 s

end Sys2Proof.Machine
end

