-- ==== Sys2Proof/Machine/ExecSel.lean ====
section
/-!
DEFINITION. Meanings of the commands of 15_selvedge_link.md: ports, echoes, trains, and the line-wide changeover.
-/

namespace Sys2Proof.Machine

/-- PORT_DOWN (R493): the violation that takes a port DOWN is in a symbol after those that locked it. -/
def execPortDown (q : Port) (s : State) : Result :=
  nowIf (selRuns s && decide (2 ≤ portState s q) && decide (portAt s q + 8 ≤ s.time)) (portDownOp q) s

/-- PORT_LOCK (R493): 8 commas take 64 lc. -/
def execPortLock (q : Port) (s : State) : Result :=
  nowIf (selRuns s && decide (portState s q = 1) && decide (portAt s q + 64 ≤ s.time)) (portLockOp q) s

/-- PORT_MEASURE (R493): when LOCK has held for 256 symbols. -/
def execPortMeasure (q : Port) (s : State) : Result :=
  atTime (measureAt s q) (fun s' => selRuns s' && decide (portState s' q = 2) && decide (measureAt s' q ≤ s'.time)) (enterPort q 3) s

/-- A port becomes UP (R493, R516). -/
def portUpOp (q : Port) (s : State) : State := raise (match q with | .up => 2834 | .dn => 2835) (enterPort q 4 s)

/-- PORT_UP (R493). -/
def execPortUp (q : Port) (s : State) : Result :=
  nowIf (selRuns s && decide (portState s q = 3) && portReady s q) (portUpOp q) s

/-- An echo request leaves the DN pins at an instant in fine steps. -/
def echoRequestOp (instant : Nat) (s : State) : State :=
  modSel (fun x => { x with echoReq := some instant, echoAt := some s.time }) s

/-- Trains leave by the DN port (R495, R499). -/
def trainsRun (s : State) : Bool := if selRoot s then decide (portState s .dn = 4) else forwards s

/-- The DN side may send an echo request (R494): in the 256th train period from that of the last one, or 256 symbols after it
while no trains run. -/
def echoMay (s : State) : Bool :=
  match s.sel.echoAt with
  | none => true
  | some t => if trainsRun s then decide (t / selRper s + 256 ≤ s.time / selRper s) else decide (t + 2048 ≤ s.time)

/-- ECHO_REQUEST (R494). -/
def execEchoRequest (instant : Nat) (s : State) : Result :=
  nowIf (selRuns s && decide (3 ≤ portState s .dn) && echoMay s) (echoRequestOp instant) s

/-- The UP side answers a request (R494): the reply and the two data symbols of TURN leave by the reverse lane. -/
def echoAnswerOp (turn : Nat) (s : State) : State := modSel (fun x => { x with answers := x.answers + 1, turn := turn }) s

/-- The next symbol boundary of a transmitter (R491, R494). -/
def symbolAt (s : State) : Nat := (s.time + 7) / 8 * 8

/-- ECHO_ANSWER (R494): the reply leaves at the next symbol boundary. -/
def execEchoAnswer (turn : BitVec 16) (s : State) : Result :=
  atTime (symbolAt s) (fun s' => selRuns s' && decide (2 ≤ portState s' .up)) (echoAnswerOp turn.toNat) s

/-- ECHO_REPLY (R494). -/
def execEchoReply (instant : Nat) (turn : BitVec 16) (s : State) : Result :=
  nowIf (selRuns s && decide (3 ≤ portState s .dn) && s.sel.echoReq.isSome) (echoReplyOp instant turn.toNat) s

/-- The next multiple of RPER at which the root has not yet sent (R495). -/
def trainAt (s : State) : Nat := (max s.time s.sel.lastAt + selRper s - 1) / selRper s * selRper s

/-- TRAIN_SEND (R495). -/
def execTrainSend (s : State) : Result :=
  atTime (trainAt s)
    (fun s' => selRuns s' && selRoot s' && decide (portState s' .dn = 4) && trainAt s' == s'.time) trainSendOp s

/-- The cycle in which a train that began at an instant has been received whole: SOT, data symbols and EOT of 8 lc
each. -/
def trainEnd (bytes : List Byte) (instant : Nat) : Nat := instant / 32 + 8 * (bytes.length + 2)

/-- TRAIN_RECEIVE (R499, R501). -/
def execTrainReceive (bytes : List (BitVec 8)) (link : TrainLink) (instant : Nat) (s : State) : Result :=
  atTime (trainEnd bytes instant) (fun s' => selRuns s' && !selRoot s' && decide (portState s' .up = 4))
    (trainReceiveOp bytes link instant) s

/-- TRAIN_RETURN (R499). -/
def execTrainReturn (bytes : List (BitVec 8)) (link : TrainLink) (s : State) : Result :=
  nowIf (selRuns s && selRoot s && decide (portState s .up = 4)) (trainReturnOp bytes link) s

/-- RING_TIMEOUT (R500, R503). -/
def execRingTimeout (s : State) : Result :=
  atOpt (ringTimeoutAt s) (fun s' => selRuns s' && (ringTimeoutAt s').any (· ≤ s'.time)) ringTimeoutOp s

/-- LINE_DEADLINE (R511). -/
def execLineDeadline (s : State) : Result :=
  atOpt (deadlineAt s)
    (fun s' => selRuns s' && selRoot s' && decide (s'.sel.ann.op = 1) && (deadlineAt s').any (· ≤ s'.time)) lineDeadlineOp s

/-- SEL_CNT_CLR (R518). -/
def execSelCntClr (p : Path) (s : State) : Result := setBitCmd p Reg.selCtl 31 s

end Sys2Proof.Machine
end

