-- ==== Sys2Proof/Machine/Port.lean ====
section
/-!
DEFINITION. Operations of the host port (16_host_port.md): the PCIe function (R523 to R530) and the SPI target (R531 to
R534).
-/

namespace Sys2Proof.Machine

def modHost (f : HostSt → HostSt) (s : State) : State := { s with host := f s.host }

/-! ### The configuration space (R523; log entry 23) -/

/-- Reset value, RW bits and W1C bits of a DW of the configuration space. -/
def cfgRow (k : Nat) : Word × Word × Word :=
  match k with
  | 0x00 => (0x51201EB7#32, 0, 0)
  | 0x01 => (0x00100000#32, 0x146#32, 0)
  | 0x02 => (0x118000A1#32, 0, 0)
  | 0x03 => (0, 0xFF#32, 0)
  | 0x04 => (0, 0xFC000000#32, 0)
  | 0x06 => (0, 0xFFFFE000#32, 0)
  | 0x0B => (0x1EB7#32, 0, 0)
  | 0x0D => (0x40#32, 0, 0)
  | 0x0F => (0, 0xFF#32, 0)
  | 0x10 => (0x00035001#32, 0, 0)
  | 0x11 => (0x8#32, 3#32, 0)
  | 0x14 => (0x003F7011#32, 0xC0000000#32, 0)
  | 0x15 => (0x2#32, 0, 0)
  | 0x16 => (0x1002#32, 0, 0)
  | 0x1C => (0x00020010#32, 0, 0)
  | 0x1D => (0x10008021#32, 0, 0)
  | 0x1E => (0x2000#32, 0x71EF#32, 0xF0000#32)
  | 0x1F => (0x00410823#32, 0, 0)
  | 0x20 => (0, 0xC3#32, 0)
  | 0x27 => (0xE#32, 0, 0)
  | 0x40 => (0x00020001#32, 0, 0)
  | 0x41 => (0, 0, 0x0017F010#32)
  | 0x42 => (0, 0x0017F010#32, 0)
  | 0x43 => (0x00062010#32, 0x0017F010#32, 0)
  | 0x44 => (0, 0, 0x31C1#32)
  | 0x45 => (0x2000#32, 0x31C1#32, 0)
  | _ => (0, 0, 0)

def cfgGet (s : State) (k : Nat) : Word := tget (cfgRow k).1 s.host.cfg k
def cfgSet (k : Nat) (v : Word) : State → State := modHost fun h => { h with cfg := tset h.cfg k v }

/-- A DW as a read shows it: the link status follows HOST.STS. -/
def cfgView (s : State) (k : Nat) : Word :=
  if k = 0x20 then setFld (setFld (cfgGet s k) 16 4 (rf s Reg.hostSts 2 2)) 20 6 (rf s Reg.hostSts 4 2) else cfgGet s k

/-- HOST.STS.D3 and RUN_PCIE (R525, R548). -/
def portRun (s : State) : State :=
  let d3 := decide (fld (cfgGet s 0x11) 0 2 = 3)
  let s := setb Reg.hostSts 7 d3 s
  setb Reg.hostSts 6 (!rb s Reg.hostSts 0 && rb s Reg.hostSts 1 && !d3 && bit (cfgGet s 1) 2) s

/-- A configuration write of a DW. -/
def cfgWrite (k : Nat) (v : Word) (s : State) : State :=
  let r := cfgRow k
  redeliverFrom s (portRun (cfgSet k (((cfgGet s k &&& ~~~ r.2.1) ||| (v &&& r.2.1)) &&& ~~~ (v &&& r.2.2)) s))

/-- Configuration requests are retried until BOOT has applied a draft or found none (R524). -/
def cfgRetry (s : State) : Bool := decide (mode s < 3)

/-- The PCIe link is up, on a device that runs the PCIe port (R521, R548). -/
def pcieUp (s : State) : Bool := decide (mode s ≠ 0) && !rb s Reg.hostSts 0 && rb s Reg.hostSts 1

/-- CONFIG_REQUEST's effect: a read answers a word, a write none. -/
def cfgOp (write : Bool) (k : Nat) (v : Word) (s : State) : State :=
  if cfgRetry s then { s with rdata := [] }
  else if write then { cfgWrite k v s with rdata := [] }
  else { s with rdata := [cfgView s k] }

/-! ### Refused requests (R527) -/

/-- A refused request: its counter, STS.PROTF, a record of its kind, and what AER reports (log entry 23). -/
def protCount (kind ctr aer : Nat) (s : State) : State :=
  let s := setb Reg.hostSts 17 true (count ctr s)
  let s := logLimited 0x0E02 2 kind (rget s ctr) 0 s
  if aer = 32 then s else cfgSet 0x41 (setBit (cfgGet s 0x41) aer true) s

/-- A request answered with Unsupported Request. -/
def urOp (s : State) : State :=
  let s := protCount 0 Reg.hostUrCnt 20 s
  cfgSet 0x1E (setBit (cfgGet s 0x1E) 19 true) s

/-- A malformed TLP. -/
def malformedOp : State → State := protCount 1 Reg.hostMalfCnt 18

/-- A poisoned write, an advisory non-fatal error. -/
def poisonedOp (s : State) : State :=
  let s := protCount 2 Reg.hostMalfCnt 12 s
  cfgSet 0x44 (setBit (cfgGet s 0x44) 13 true) s

/-- A BAR2 access of another width or alignment. -/
def bar2Bad : State → State := protCount 3 Reg.hostUrCnt 32

/-- A request of `n` DWs that is refused as a whole before it is looked at (R525 to R527), if it is: defects of the request
itself, a target that is none, D3hot, a range that mixes registers and stores or leaves BAR0. -/
def pcieRefuse (q : PcieReq) (n : Nat) (s : State) : Option (State → State) :=
  let a := q.addr.toNat / 4 * 4
  if q.defect = 1 then some urOp
  else if q.defect = 2 then some malformedOp
  else if q.defect = 3 then some poisonedOp
  else if q.bar = 2 ∨ rb s Reg.hostSts 7 then some urOp
  else if q.bar = 0 ∧ (0x4000000 < a + 4 * n ∨ (a < 0x1000000 ∧ 0x1000000 < a + 4 * n)) then some urOp
  else none

/-- The byte enables of DW k of `n`. -/
def beOf (q : PcieReq) (n k : Nat) : Nat :=
  if k = 0 then q.firstBe.toNat else if k + 1 = n then q.lastBe.toNat else 15

/-! ### Requests to BAR0 (R526, R629) -/

/-- The bytes of DWs, each with its enable. -/
def enableBytes (q : PcieReq) (data : List Word) : List (Bool × Byte) :=
  ((upto 0 data.length).zip data).flatMap fun x =>
    ((upto 0 4).zip (leBytes 4 x.2.toNat)).map fun y => ((beOf q data.length x.1).testBit y.1, y.2)

/-- The runs of enabled bytes within one 64-bit word: address and bytes. -/
def beRuns : Nat → List (Bool × Byte) → List (Nat × List Byte)
  | _, [] => []
  | a, (false, _) :: bs => beRuns (a + 1) bs
  | a, (true, b) :: bs =>
    match beRuns (a + 1) bs with
    | (a', run) :: rest =>
      if a' = a + 1 ∧ a' % 8 ≠ 0 then (a, b :: run) :: rest else (a, [b]) :: (a', run) :: rest
    | [] => [(a, [b])]

/-- A write request to the stores lands (R368, R526), holes between them apart (R36). -/
def storeWrite (a : Nat) (bs : List (Bool × Byte)) (s : State) : State :=
  forEach (beRuns a bs) (fun x s => if isHole x.1 then holeDrop .pcie s else writeMemBytes .pcie x.1 x.2 s) s

/-- A write request to the register space: its first DW lands, the others in the cycles that follow (R629). -/
def regsWrite (q : PcieReq) (data : List Word) (s : State) : State :=
  let a := q.addr.toNat / 4 * 4
  let n := data.length
  let later := ((upto 0 n).zip data).drop 1
  let s := writeBe .pcie a (beOf q n 0) (data.headD 0) s
  forEach later (fun x s => schedule (s.time + x.1) (.busWrite .pcie (a + 4 * x.1) (beOf q n x.1) x.2) s) s

/-- A read request is on its way with the words sampled so far (R437). -/
def newRead (want : Nat) (ws : List Word) (s : State) : State :=
  modHost (fun h => { h with
    reads := h.reads ++ [{ id := h.readNo, want := want, words := ws, at_ := s.time }], readNo := h.readNo + 1 }) s

/-- The DWs of a read request, with their byte enables, by 64-bit words. -/
def dwWords : List (Nat × Nat) → List (List (Nat × Nat))
  | [] => []
  | [d] => [[d]]
  | d :: e :: ds => if d.1 % 8 = 0 then [d, e] :: dwWords ds else [d] :: dwWords (e :: ds)

/-- A read request to the stores (R371, R375, R526): each 64-bit word is read once, as port B of its bank grants it. -/
def storeRead (q : PcieReq) (n : Nat) (s : State) : State :=
  let a := q.addr.toNat / 4 * 4
  let s := if power s = 2 then hostWake .pcie 3 s else s
  let id := s.host.readNo
  if !served s a then newRead n (List.replicate n 0) s
  else
    forEach (dwWords ((upto 0 n).map fun k => (a + 4 * k, beOf q n k)))
      (fun ds s => portAsk ⟨bankOf (ds.headD (0, 0)).1, 0, .read ds id⟩ s) (newRead n [] s)

/-- A read request to the register space: its first DW is sampled, the others in the cycles that follow (R629). -/
def regsRead (q : PcieReq) (n : Nat) (s : State) : State :=
  let a := q.addr.toNat / 4 * 4
  let id := s.host.readNo
  let r := readBe .pcie a (beOf q n 0) s
  forEach ((upto 0 n).drop 1) (fun k s => schedule (s.time + k) (.busRead .pcie (a + 4 * k) (beOf q n k) id) s) (newRead n [r.1] r.2)

/-! ### Requests to BAR2 (R523, R527, R529) -/

/-- A BAR2 request is 32 or 64 bits wide, naturally aligned. -/
def bar2Ok (q : PcieReq) (n : Nat) : Bool :=
  let a := q.addr.toNat / 4 * 4
  decide (q.firstBe = 15) && (decide (n = 1) || (decide (n = 2) && decide (q.lastBe = 15) && decide (a % 8 = 0)))

/-- A DW of BAR2: the MSI-X table, the pending bit array. -/
def bar2Word (s : State) (a : Nat) : Word :=
  if a < 0x400 then tget (if a % 16 = 12 then 1 else 0) s.host.msix (a / 4)
  else if a = 0x1000 ∨ a = 0x1004 then vecBits (msixPending s) ((a - 0x1000) / 4)
  else 0

/-- A write of a DW of BAR2: the pending bit array discards it. -/
def bar2Put (a : Nat) (v : Word) : State → State :=
  if a < 0x400 then
    let v := if a % 16 = 12 then v &&& 1#32 else if a % 16 = 0 then v &&& ~~~ 3#32 else v
    modHost fun h => { h with msix := tset h.msix (a / 4) v }
  else id

/-! ### Requests -/

/-- A memory write request (R526, R527). -/
def pcieWriteOp (q : PcieReq) (data : List Word) (s : State) : State :=
  let a := q.addr.toNat / 4 * 4
  match pcieRefuse q data.length s with
  | some f => f s
  | none =>
    if q.bar = 1 then
      if bar2Ok q data.length then redeliverFrom s (forEach ((upto 0 data.length).zip data) (fun x => bar2Put (a + 4 * x.1) x.2) s)
      else bar2Bad s
    else if 0x1000000 ≤ a then storeWrite a (enableBytes q data) s
    else regsWrite q data s

/-- A memory read request (R526, R527): what is refused is answered without data. -/
def pcieReadOp (q : PcieReq) (n : Nat) (s : State) : State :=
  let a := q.addr.toNat / 4 * 4
  match pcieRefuse q n s with
  | some f => { f s with rdata := [] }
  | none =>
    if q.bar = 1 then
      if bar2Ok q n then newRead n ((upto 0 n).map fun k => bar2Word s (a + 4 * k)) s
      else newRead n (List.replicate n 0) (bar2Bad s)
    else if 0x1000000 ≤ a then storeRead q n s
    else regsRead q n s

/-- The oldest read has all its words. -/
def readReady (s : State) : Bool := match s.host.reads with | r :: _ => decide (r.words.length = r.want) | [] => false

/-- The completion of the oldest read goes out (R437). -/
def readCompleteOp (s : State) : State :=
  match s.host.reads with
  | r :: rest => { modHost (fun h => { h with reads := rest }) s with rdata := r.words }
  | [] => s

/-! ### Resets and the link (R530, R548) -/

/-- The host port alone is reset (R391, R414, R530): the subsystem identification stays that of the draft (R523). -/
def hostResetOp (q : HostResetKind) (s : State) : State :=
  let s := countN Reg.hostDropCnt s.host.reads.length s
  let gone := fun x : Nat × Timed => match x.2 with | .busRead .pcie _ _ _ => false | _ => true
  let keep := fun r : PortReq => match r.item with | .read _ _ => false | _ => true
  let s := { s with timed := s.timed.filter gone, store := { s.store with reqs := s.store.reqs.filter keep } }
  let s := modHost (fun h => { h with
    reads := [], msix := [], cfg := h.cfg.filter (fun x => x.1 == 0x0B), txFree := psOf s.time }) s
  let s := msixRedo (bobLinkDrop s)
  let s := if q = .functionLevel then s else setf Reg.hostSts 1 5 0 s
  raise 2884 (count Reg.hostLinkrstCnt (portRun s))

/-- The link has trained (R548). -/
def linkTrainedOp (rate width : Nat) (s : State) : State :=
  redeliverFrom s <| portRun (setf Reg.hostSts 4 2 (width + 1) (setf Reg.hostSts 2 2 (rate + 1) (setb Reg.hostSts 1 true s)))

/-! ### SPI frames (R531 to R534) -/

/-- A little-endian field of a frame. -/
def frameN (bs : List Byte) (off n : Nat) : Nat := leNat ((bs.drop off).take n)

/-- A frame is faulty: its counter, STS.SPIERRF and a record of its kind (R534). -/
def spiFault (kind ctr : Nat) (s : State) : State :=
  let s := setb Reg.hostSts 18 true (count ctr s)
  logLimited 0x0E03 2 kind (rget s ctr) 0 s

/-- A frame may address `n` words at `a` (R522, R533). -/
def spiReach (s : State) (a n : Nat) : Bool :=
  let e := a + 4 * n
  decide (e ≤ 0x4000000) &&
    (rb s Reg.hostSts 0 || decide (e ≤ 0x1800 ∨ 0x1C0000 ≤ a ∧ e ≤ 0x1C4000 ∨ 0x1B00000 ≤ a ∧ e ≤ 0x1C00000))

/-- What a frame of the target comes to (R531 to R534): a fault that carries no STS, or its status code. -/
inductive SpiCheck where
  | silent (kind : Nat)
  | code (c : Nat)
  deriving DecidableEq, Repr

/-- A frame is a write. -/
def spiIsWrite (bs : List Byte) : Bool := bs.head? == some 0x02#8 || bs.head? == some 0x32#8
def spiIsRead (bs : List Byte) : Bool := bs.head? == some 0x03#8 || bs.head? == some 0x6B#8

/-- The words of a frame by its LEN. -/
def spiN (bs : List Byte) : Nat := frameN bs 1 1 + 1

/-- The bytes that a frame's CRC covers. -/
def spiBody (bs : List Byte) : Nat := if spiIsWrite bs then 6 + 4 * spiN bs else 6

/-- The checks of a frame in their order. -/
def spiCheck (s : State) (bs : List Byte) : SpiCheck :=
  let n := spiBody bs
  if !spiIsWrite bs && !spiIsRead bs then .silent (if bs.isEmpty then 1 else 0)
  else if bs.length < 2 then .silent 1
  else if 64 < spiN bs then .code 3
  else if bs.length < n + 2 then .silent 1
  else if crc16 (bs.take n) ≠ frameN bs n 2 then .code 4
  else if frameN bs 2 4 % 4 ≠ 0 then .code 3
  else if !spiReach s (frameN bs 2 4) (spiN bs) then .code 5
  else .code 0

/-- The STS byte (R533). -/
def SpiFrame.sts (f : SpiFrame) : Nat := f.code + 16 * b2n f.drop + 32 * b2n f.irq

/-- What the device sends in a read frame whose words are all sampled: STS, DATA and the CRC over both (R532). -/
def SpiFrame.reply (f : SpiFrame) : List Byte :=
  let b := leBytes 1 f.sts ++ f.words.flatMap fun w => leBytes 4 w.toNat
  b ++ leBytes 2 (crc16 b)

/-- The frame is answered with a code: DROP tells of the writes since the last frame (R533). -/
def spiAnswer (c want : Nat) (ws : List Word) (s : State) : State :=
  let f : SpiFrame := { code := c, drop := s.host.spiDrop, irq := decide (irqLevels s ≠ 0), want := want, words := ws }
  { modHost (fun h => { h with spi := f, spiDrop := false }) s with rdata := [wd f.sts] }

/-- The words of a write frame land in consecutive cycles (R533, R629). -/
def spiLand (a : Nat) (ws : List Word) (s : State) : State :=
  let s := writeDw .spi a (ws.headD 0) s
  forEach (((upto 0 ws.length).zip ws).drop 1) (fun x s => schedule (s.time + x.1) (.busWrite .spi (a + 4 * x.1) 15 x.2) s) s

/-- The words of a read frame are sampled in consecutive cycles (R533, R629). -/
def spiSample (a n : Nat) (s : State) : State :=
  let s := sampleDw .spi a 15 0 s
  forEach ((upto 0 n).drop 1) (fun k s => schedule (s.time + k) (.busRead .spi (a + 4 * k) 15 0) s) s

/-- An SPI frame (R531 to R534). -/
def spiFrameOp (bs : List Byte) (s : State) : State :=
  match spiCheck s bs with
  | .silent k => { spiFault k Reg.hostSpiErrCnt s with rdata := [] }
  | .code 0 =>
    let a := frameN bs 2 4
    let n := spiN bs
    if spiIsWrite bs then spiLand a (leWords n (bs.drop 6)) (spiAnswer 0 0 [] s)
    else spiSample a n (spiAnswer 0 n [] s)
  | .code c =>
    let s := if c = 3 then spiFault 2 Reg.hostSpiErrCnt s else if c = 4 then spiFault 3 Reg.hostSpiCrcCnt s else s
    let n := min 64 (spiN bs)
    if spiIsWrite bs then spiAnswer c 0 [] s else spiAnswer c n (List.replicate n 0) s

end Sys2Proof.Machine
end

