-- ==== Sys2Proof/Machine/Mail.lean ====
section
/-!
DEFINITION. The mailbox (16_host_port.md R536 to R544; 14_drafts_and_changeover.md R465, R473 to R477, R485, R486, R509): the lanes,
the checks of a command at its start, what each command does when it lands, its completion.
-/

namespace Sys2Proof.Machine

/-! ### Lanes (R540) -/

/-- The running command of a lane, and the commands that wait. -/
def laneRun (s : State) : Lane → Option Cmd
  | .foreground => s.host.fgRun
  | .background => s.host.bgRun
def laneWait (s : State) : Lane → List Cmd
  | .foreground => s.host.fg
  | .background => s.host.bg
def setRun (l : Lane) (c : Option Cmd) : State → State :=
  modHost fun h => match l with | .foreground => { h with fgRun := c } | .background => { h with bgRun := c }
def setWait (l : Lane) (cs : List Cmd) : State → State :=
  modHost fun h => match l with | .foreground => { h with fg := cs } | .background => { h with bg := cs }

/-- STATUS, DETAIL and RET of the command that runs in a lane. -/
abbrev Out := Nat × Nat × Word
def laneOut (l : Lane) (o : Out) (s : State) : State := setRun l ((laneRun s l).map fun c => { c with out := some o }) s

/-- OK, with device time of the landing cycle (R541). -/
def laneOk (l : Lane) (s : State) : State := laneOut l (0, 0, wd s.time) s

/-! ### The check of the form (R542 order 2, R543) -/

/-- The argument count of an OP, if R543 lists it. -/
def argCount (op : Nat) : Option Nat :=
  if op = 0x01 ∨ op = 0x41 ∨ op = 0x53 then some 1
  else if op ∈ [0x10, 0x11, 0x14, 0x15, 0x16, 0x21, 0x22, 0x52] then some 0
  else if op ∈ [0x12, 0x13, 0x23, 0x24, 0x25, 0x42] then some 3
  else if op = 0x20 ∨ op = 0x40 then some 4
  else if op = 0x30 ∨ op = 0x50 ∨ op = 0x51 then some 2
  else none

/-- The bits of argument k that are not reserved (R543). -/
def argBits (c : Cmd) (k : Nat) : Word :=
  let all := 0xFFFFFFFF#32
  if c.op = 0x12 ∨ c.op = 0x13 then (if k = 2 then 1#32 else all)
  else if c.op = 0x20 ∨ c.op = 0x40 ∨ c.op = 0x41 then (if k = 0 then 1#32 else all)
  else if c.op ∈ [0x23, 0x24, 0x25] then
    (if k = 0 then 0x103#32 else if k = 2 ∧ !c.time then 0xFFFFFF#32 else all)
  else if c.op = 0x50 ∨ c.op = 0x51 then (if k = 0 then 0x303#32 else all)
  else all

/-- OP, NARG and what is reserved (R542 order 2): the DETAIL of a BAD_ARG. -/
def formError (c : Cmd) : Option Nat :=
  if argCount c.op ≠ some c.narg ∨ c.rsv then some 0
  else ((upto 0 c.narg).find? fun k => c.arg k &&& ~~~ argBits c k != 0).map (· + 1)

/-! ### The check of mode and state (R542 order 3, R543) -/

/-- The harnesses that HOLD and CLEAR_HOLD name, and WHOLE. -/
def Cmd.mask (c : Cmd) : List Nat := (upto 0 64).filter fun h => if h < 32 then bit (c.arg 0) h else bit (c.arg 1) (h - 32)
def Cmd.whole (c : Cmd) : Bool := bit (c.arg 2) 0

/-- An announcement of a line changeover is in progress here (R510): not ready, ready, or GO with its switch still to come. -/
def lineBusy (s : State) : Bool :=
  decide (lcoState s = 1 ∨ lcoState s = 2) || (decide (lcoState s = 3) && s.sel.line && chgPending s)

/-- A copy to a substitute is in progress (R592). -/
def loading (s : State) : Bool := rb s Reg.gctlChksts 15

/-- The region of a role, if it has one. -/
def hasRegion (i : Nat) : Bool := decide (i < 4)

/-- A command is legal in the present mode and state (R423, R424, R473, R474, R477, R485, R509, R543). -/
def cmdLegal (s : State) (c : Cmd) : Bool :=
  let m := mode s
  let st := stageState s
  match c.op with
  | 0x01 => true
  | 0x10 => decide (m = 3)
  | 0x11 => decide (4 ≤ m ∧ m ≤ 6)
  | 0x12 => decide (3 ≤ m ∧ m ≤ 8)
  | 0x13 => (c.mask.isEmpty && !c.whole) || clearHoldOk (polOk s) c.mask c.whole s
  | 0x14 => decide (3 ≤ m ∧ m ≤ 6 ∨ m = 8)
  | 0x15 => decide (m = 9) && s.chg.act.isSome && !bscanActs s
  | 0x16 => idleOrMaint s
  | 0x20 => decide (3 ≤ m ∧ st < 2) && (!bit (c.arg 0) 0 || decide (m = 9)) &&
      (bit (c.arg 0) 0 || decide (c.arg 1 = 0 ∨ st = 1))
  | 0x21 => decide (st < 2) && decide (3 ≤ m ∧ m ≤ 6 ∨ m = 8)
  | 0x22 => decide (st = 1 ∨ st = 3 ∨ st = 4)
  | 0x23 => chgModes s && decide (st = 3) && trkReady s c && !loading s && !lineBusy s
  | 0x24 => chgModes s && decide (st = 0 ∨ st = 3) && trkReady s c && !loading s && !lineBusy s
  | 0x25 => selOn s && selRoot s && decide (ringState s = 2 ∧ st = 3) && trkReady s c && !loading s && !lineBusy s && !lineOpen s
  | 0x30 => decide (64 ≤ (c.arg 0).toNat) || (hedStopped s (c.arg 0).toNat && !rb s Reg.gctlState 5)
  | 0x40 => decide (m = 9)
  | 0x41 => decide (m = 9)
  | 0x42 => decide (3 ≤ m)
  | _ => decide (m = 9)

/-! ### The check of the arguments (R542 order 4, R544) -/

/-- `n` bytes at an address lie in the exchange store above the slots (R542). -/
def srcOk (a n : Nat) : Bool := decide (0x1B01000 ≤ a ∧ a + n ≤ 0x1C00000)

/-- `n` bytes of the exchange store, and the state after the tackler has read them. -/
def fetchBytes (a n : Nat) (s : State) : List Byte × State := (readBytes s a n, (checkRead .tackler a n s).2)

/-- The flash address, the size and the number of the region that DRAFT_WRITE or FW_WRITE names (R544); 4 and 5 are the
firmware images. -/
def Cmd.region (c : Cmd) (s : State) : Nat :=
  let t := fld (c.arg 0) 0 1
  if c.op = 0x40 then 4 + t else if t = 1 then s.tack.slots.factory else s.tack.slots.staged
def regionFlash (r : Nat) : Nat := if r < 4 then regionBase r else fwBase (r - 4)
def regionSize (r : Nat) : Nat := if r < 4 then 0xF00000 else 0x7F000

/-- FLAGS.FACTORY of the image that a DRAFT_WRITE to FACTORY writes, where the bytes written or in flash tell (R473). -/
def factoryOk (s : State) (c : Cmd) : Bool :=
  let o := (c.arg 1).toNat
  let n := (c.arg 3).toNat
  if o ≤ 0x11 ∧ 0x11 < o + n then bit (wd (readN s ((c.arg 2).toNat + (0x11 - o)) 1)) 0
  else o = 0 || bit (wd (flashN s (regionFlash (c.region s) + 0x11) 1)) 0

/-- The first wrong argument of DRAFT_WRITE or FW_WRITE (R544, R558): STATUS and DETAIL. -/
def writeError (s : State) (c : Cmd) : Option (Nat × Nat) :=
  let r := c.region s
  let o := (c.arg 1).toNat
  let a := (c.arg 2).toNat
  let n := (c.arg 3).toNat
  let draft := decide (c.op = 0x20)
  if (if draft then !hasRegion r else decide (r = 4 + fwInUse s)) then some (3, 1)
  else if o % 8 ≠ 0 ∨ regionSize r ≤ o ∨ (o ≠ 0 ∧ (o < tget 0 s.tack.wrEnd r ∨ s.tack.broken.contains r)) then some (3, 2)
  else if !srcOk a 0 then some (5, 3)
  else if n < 8 ∨ 65536 < n ∨ n % 8 ≠ 0 then some (3, 4)
  else if regionSize r < o + n then some (3, 2)
  else if !srcOk a n then some (5, 3)
  else if draft && bit (c.arg 0) 0 && !factoryOk s c then some (3, 1)
  else none

/-- The first wrong argument of a command (R542 order 4): STATUS and DETAIL. -/
def argError (s : State) (c : Cmd) : Option (Nat × Nat) :=
  match c.op with
  | 0x12 => if c.mask.isEmpty && !c.whole then some (3, 1) else none
  | 0x13 => if c.mask.isEmpty && !c.whole then some (3, 1) else none
  | 0x20 => writeError s c
  | 0x23 => if classBars s then some (7, 0) else none
  | 0x30 =>
    if 64 ≤ (c.arg 0).toNat then some (3, 1)
    else if !srcOk (c.arg 1).toNat 80 then some (5, 2)
    else if fld (wd (readN s ((c.arg 1).toNat + 4) 4)) 8 16 = 0 then some (3, 2)
    else none
  | 0x40 => writeError s c
  | 0x42 =>
    let a := (c.arg 1).toNat
    let n := (c.arg 2).toNat
    if !srcOk a 0 then some (5, 2)
    else if n = 0 ∨ 1024 < n then some (3, 3)
    else if !srcOk a (32 * n) then some (5, 2)
    else none
  | 0x50 => if srcOk (c.arg 1).toNat 128 then none else some (5, 2)
  | 0x51 => if srcOk (c.arg 1).toNat 64 then none else some (5, 2)
  | 0x53 => if c.arg 0 = 0 ∨ 32 < (c.arg 0).toNat then some (3, 1) else none
  | _ => none

/-! ### Start and completion (R540 to R542) -/

/-- The tackler can execute this command now (R542 order 1). -/
def mayExecute (s : State) (c : Cmd) : Bool := c.op == 1 || !(decide (mode s < 3) || restarting s)

/-- A command is refused in the present mode or state (R541, R542). -/
def rejectOp (l : Lane) (c : Cmd) (s : State) : State :=
  laneOut l (2, rejectDetail s, 0) (rejectNote c s)

/-- The checks of R542 in their order: a decided command, or one that is to land. -/
def startChecks (l : Lane) (c : Cmd) (s : State) : State :=
  if c.out.isSome then s
  else if !mayExecute s c then laneOut l (1, 0, 0) s
  else match formError c with
    | some d => laneOut l (3, d, 0) s
    | none =>
      if !cmdLegal s c then rejectOp l c s
      else match argError s c with
        | some e => laneOut l (e.1, e.2, 0) s
        | none => s

/-- A lane can start its next command (R540, R542). -/
def mayStart (s : State) (l : Lane) : Bool :=
  (laneRun s l).isNone && !(laneWait s l).isEmpty && decide (mode s ≠ 0 ∧ power s ≠ 2)

/-- A lane starts its next command (R540). -/
def startOp (l : Lane) (s : State) : State :=
  match laneWait s l with
  | c :: cs => startChecks l c (setRun l (some c) (setWait l cs s))
  | [] => s

/-- The running command of a lane is decided. -/
def mayComplete (s : State) (l : Lane) : Bool := match laneRun s l with | some c => c.out.isSome | none => false

/-- The running command of a lane completes (R541); DEVICE_RESET resets the device 1 ms later (R543). -/
def completeOp (l : Lane) (s : State) : State :=
  match laneRun s l with
  | none => s
  | some c =>
    let s := completeCmd c (setRun l none s)
    when_ (c.op == 0x16 && (c.out.map fun o => o.1) == some 0) (modHost fun h => { h with resetAt := some (s.time + 400000) }) s

/-! ### Landing (R424, R540) -/

/-- The command of a lane that may land as `op`. -/
def landing (s : State) (l : Lane) (op : Nat) : Option Cmd :=
  match laneRun s l with
  | some c => if c.op = op ∧ c.out.isNone ∧ !c.begun ∧ mayExecute s c ∧ mode s ≠ 0 then some c else none
  | none => none

/-- A command lands, judged against the mode of that cycle (R424). -/
def landOp (l : Lane) (op : Nat) (f : Cmd → State → State) (s : State) : State :=
  match landing s l op with
  | some c => if cmdLegal s c then f c s else rejectOp l c s
  | none => s

/-- A command row of the mailbox. -/
def landCmd (l : Lane) (op : Nat) (f : Cmd → State → State) (s : State) : Result :=
  nowIf (landing s l op).isSome (landOp l op f) s

/-- The effect of a foreground command that answers OK. -/
def fgLand (op : Nat) (f : State → State) : State → Result :=
  landCmd .foreground op fun _ s => laneOk .foreground (f s)

/-- A background command has begun: other events end it. -/
def bgBegun (s : State) : State := setRun .background (s.host.bgRun.map fun c => { c with begun := true }) s

/-! ### Foreground commands (R543) -/

def echoOp (c : Cmd) (s : State) : State := laneOut .foreground (0, 0, c.arg 0) s

def holdCmdOp (c : Cmd) (s : State) : State := laneOk .foreground (addHold c.mask c.whole 1 s)

def clearCmdOp (c : Cmd) (s : State) : State := laneOk .foreground (clearHoldOp c.mask c.whole s)

/-- MAINT_ENTER (R423, R474): a verification in progress completes as ABORTED. -/
def maintEnterOp (s : State) : State := enterMaint (if stageState s = 2 then bgOut 10 0 0 s else s)

/-- DRAFT_ABORT (R478, R543). -/
def draftAbortOp (s : State) : State :=
  match stageState s with
  | 1 => setStage 0 s
  | 3 => discardStaged s
  | 4 => chgAbortBack 1 s
  | _ => s

/-- CHANGEOVER (R477): the switch point is judged as the command lands. -/
def changeoverOp (c : Cmd) (s : State) : State :=
  if !switchOk s c.time c.trk c.swA c.swB then laneOut .foreground (3, 2, 0) s
  else laneOk .foreground (enterChangeover c.time c.trk c.swA c.swB s)

/-- The switch point of LINE_CHANGEOVER (R477, R509). -/
def lineSwitchOk (s : State) (c : Cmd) : Bool :=
  switchOk s c.time c.trk c.swA c.swB &&
    if c.time then decide (s.time + 8000000 ≤ c.swA + 2 ^ 32 * c.swB)
    else decide (3 ≤ toSigned 32 (c.arg 1 - posCycle (phi s c.trk s.time)).toNat)

/-- LINE_CHANGEOVER (R509): the time form needs link version 2. -/
def lineCmdOp (c : Cmd) (s : State) : State :=
  if c.time && decide (selNeg s < 2) then laneOut .foreground (7, 0, 0) s
  else if !lineSwitchOk s c then laneOut .foreground (3, 2, 0) s
  else laneOk .foreground (lineStart c.time c.trk c.swA c.swB s)

/-! ### Writes of flash regions (R473, R544, R558) -/

/-- The steps of a write: at OFFSET 0 the region is erased first, a firmware region without its activation sector. -/
def writeSteps (r o : Nat) (bs : List Byte) : List FlashStep :=
  (if o = 0 then [FlashStep.erase (regionFlash r) (if r < 4 then 3840 else 127)] else []) ++
    [.program (regionFlash r + o) bs]

/-- What the tackler notes of a region that a write begins. -/
def writeNotes (r o n : Nat) (s : State) : State :=
  modTack (fun t => { t with
    wrEnd := tset t.wrEnd r (o + n)
    broken := if o = 0 then t.broken.filter (fun x => x != r) else t.broken
    slots :=
      let was := if o = 0 then {} else tget {} t.slots.regions r
      if r < 4 then { t.slots with regions := tset t.slots.regions r { was with st := 1 } } else t.slots }) s

/-- DRAFT_WRITE and FW_WRITE put their job to the flash (R544, R563). -/
def regionWriteOp (c : Cmd) (s : State) : State :=
  match writeError s c with
  | some e => bgOut e.1 e.2 0 s
  | none =>
    if nvmInh s then bgOut 8 0 0 s
    else
      let r := c.region s
      let o := (c.arg 1).toNat
      let x := fetchBytes (c.arg 2).toNat (c.arg 3).toNat s
      let s := writeNotes r o (c.arg 3).toNat x.2
      let s := when_ (c.op == 0x20 && !bit (c.arg 0) 0 && decide (o = 0)) (setStage 1) s
      issueNext (addJob { why := .command, steps := writeSteps r o x.1 } (bgBegun s))

/-! ### Other background commands (R327, R465, R566, R572) -/

/-- HED_LOAD (R327). -/
def hedLoadOp (c : Cmd) (s : State) : State :=
  let e := (c.arg 0).toNat
  let x := fetchBytes (c.arg 1).toNat 80 s
  laneOk .background (loadHedBank e (hedBank s e) (leWords 20 x.1) x.2)

/-- FW_ACTIVATE (R566): the checks, then the marks. -/
def fwActivateOp (c : Cmd) (s : State) : State :=
  let i := fld (c.arg 0) 0 1
  let r := fwCheck s i true
  if r.1 ≠ 0 then bgOut r.1 r.2 0 s
  else if nvmInh s then bgOut 8 0 0 s
  else issueNext (addJob { why := .command, steps := activateSteps s i } (bgBegun s))

/-- LOG_READ (R572). -/
def logReadOp (c : Cmd) (s : State) : State :=
  let rs := logRecords s (c.arg 0).toNat (c.arg 2).toNat
  let s := forEach ((upto 0 rs.length).zip rs) (fun x s => writeBytes .tackler ((c.arg 1).toNat + 32 * x.1) x.2 s) s
  laneOut .background (0, 0, wd rs.length) s

/-- A fuse command is decided: its fuses are blown where nothing fails, and a record is written (R446, R465). -/
def fuseOp (c : Cmd) (may : Bool) (blow : FuseSt → FuseSt) (s : State) : State :=
  let st := if !may then 6 else if nvmInh s then 8 else 0
  let s := if st = 0 then { s with fuse := blow s.fuse } else s
  let s := logCause 0x0F06 1 c.op (wd st) (keystsView s) s
  if st = 0 then laneOk .background s else bgOut st 0 0 s

/-- A little-endian number of `n` bytes in the exchange store. -/
def numAt (bs : List Byte) (o n : Nat) : Nat := leNat ((bs.drop o).take n)

/-- KEY_ENROL (R465). -/
def keyEnrolOp (c : Cmd) (s : State) : State :=
  let k := fld (c.arg 0) 0 2
  let x := fetchBytes (c.arg 1).toNat 128 s
  let bs := x.1
  let digest := sha256 (leBytes 4 k ++ bs.take 64)
  let may := !x.2.fuse.fused.getLsbD k &&
    (!s.fuse.secure || keyVerifies s (fld (c.arg 0) 8 2) digest (numAt bs 64 32) (numAt bs 96 32))
  fuseOp c may (fun f => { f with keys := tset f.keys k (numAt bs 0 32, numAt bs 32 32), fused := f.fused ||| BitVec.ofNat 4 (2 ^ k) }) x.2

/-- KEY_REVOKE (R465). -/
def keyRevokeOp (c : Cmd) (s : State) : State :=
  let k := fld (c.arg 0) 0 2
  let q := fld (c.arg 0) 8 2
  let x := fetchBytes (c.arg 1).toNat 64 s
  let digest := sha256 (ascii "HTREVOKE" ++ leBytes 4 k ++ leBytes 4 (idView s).toNat)
  let may := !s.fuse.secure || (decide (q ≠ k) && keyVerifies s q digest (numAt x.1 0 32) (numAt x.1 32 32))
  fuseOp c may (fun f => { f with revoked := f.revoked ||| BitVec.ofNat 4 (2 ^ k) }) x.2

/-- SECURE_ENABLE (R465). -/
def secureEnableOp (c : Cmd) (s : State) : State :=
  let may := (upto 0 4).any (keyUsable s) && match s.chg.act with | some d => keyUsable s d.key | none => false
  fuseOp c may (fun f => { f with secure := true }) s

/-- EPOCH_RAISE (R465). -/
def epochRaiseOp (c : Cmd) (s : State) : State :=
  let n := (c.arg 0).toNat
  let may := decide (n ≤ 32) && match s.chg.act with | some d => decide (n ≤ d.epoch) | none => false
  fuseOp c may (fun f => { f with minEpoch := max f.minEpoch n }) s

/-- The flash has done the job of the running command (R544, R566). -/
def flashCommandDone (s : State) : State :=
  match s.host.bgRun with
  | none => s
  | some c =>
    if c.op = 0x41 then laneOk .background (fwActivated (fld (c.arg 0) 0 1) s) else laneOk .background s

end Sys2Proof.Machine
end

