-- ==== Sys2Proof/Machine/ExecHost.lean ====
section
/-!
DEFINITION. Meanings of the commands of 16_host_port.md: PCIe requests, SPI frames, the mailbox and its commands.
-/

namespace Sys2Proof.Machine

/-! ### PCIe (R523 to R530) -/

/-- A PCIe request takes its turn among the accesses of a cycle (R101), after the path's earlier one. -/
def pcieCmd (f : State → State) (s : State) : Result :=
  atTime (max (pathFree .pcie s) (turnAt (pathRank .pcie) s)) pcieUp (fun s' => f (takeTurn (pathRank .pcie) s')) s

/-- PCIE_WRITE (R526). -/
def execPcieWrite (req : PcieReq) (data : List (BitVec 32)) (s : State) : Result := pcieCmd (pcieWriteOp req data) s

/-- PCIE_READ (R526). -/
def execPcieRead (req : PcieReq) (n : Nat) (s : State) : Result := pcieCmd (pcieReadOp req n) s

/-- The cycle in which the completion of the oldest read may go out: 40 lc after its last sample at the earliest (R437). -/
def completionAt (s : State) : Nat := match s.host.reads with | r :: _ => r.at_ + 40 | [] => 0

/-- READ_COMPLETION (R437). -/
def execReadCompletion (s : State) : Result :=
  atTime (let s' := advanceTo (pathFree .pcie s) s; completionAt s')
    (fun s' => readReady s' && decide (completionAt s' ≤ s'.time)) readCompleteOp s

/-- CONFIG_REQUEST (R524). -/
def execConfigRequest (write : Bool) (reg : Fin 1024) (v : BitVec 32) (s : State) : Result :=
  nowIf (pcieUp s) (cfgOp write reg v) s

/-- HOST_RESET (R530). -/
def execHostReset (q : HostResetKind) (s : State) : Result :=
  nowIf (mode s != 0 && !rb s Reg.hostSts 0) (hostResetOp q) s

/-- PCIE_LINK_TRAINED (R548). -/
def execPcieLinkTrained (rate : Fin 3) (width : Fin 2) (s : State) : Result :=
  nowIf (mode s != 0 && !rb s Reg.hostSts 0) (linkTrainedOp rate width) s

/-! ### SPI frames (R531 to R534): the opcode of the frame names its kind and its lanes -/

/-- SPI_WRITE (R533). -/
def execSpiWrite (bytes : List (BitVec 8)) (s : State) : Result := accessCmd .spi (spiFrameOp bytes) s

/-- SPI_READ (R533). -/
def execSpiRead (bytes : List (BitVec 8)) (s : State) : Result := accessCmd .spi (spiFrameOp bytes) s

/-- SPI_QUAD_WRITE (R531, R533). -/
def execSpiQuadWrite (bytes : List (BitVec 8)) (s : State) : Result := accessCmd .spi (spiFrameOp bytes) s

/-- SPI_QUAD_READ (R531, R533). -/
def execSpiQuadRead (bytes : List (BitVec 8)) (s : State) : Result := accessCmd .spi (spiFrameOp bytes) s

/-! ### The mailbox (R539 to R542) -/

/-- DOORBELL (R539). -/
def execDoorbell (p : Path) (i : Fin 64) (s : State) : Result := writeCmd p Reg.mbxDb (wd i) s

/-- COMMAND_START (R540, R542). -/
def execCommandStart (l : Lane) (s : State) : Result := nowIf (mayStart s l) (startOp l) s

/-- COMMAND_COMPLETION (R541). -/
def execCommandCompletion (l : Lane) (s : State) : Result := nowIf (mayComplete s l) (completeOp l) s

/-! ### Commands of the foreground lane (R543) -/

/-- ECHO (R543). -/
def execEcho (s : State) : Result := landCmd .foreground 0x01 echoOp s

/-- ARM_CMD (R423). -/
def execArmCmd (s : State) : Result := fgLand 0x10 (enterMode 4) s

/-- STOP (R423). -/
def execStop (s : State) : Result := fgLand 0x11 (setMode 3) s

/-- HOLD (R427). -/
def execHold (s : State) : Result := landCmd .foreground 0x12 holdCmdOp s

/-- CLEAR_HOLD (R428). -/
def execClearHold (s : State) : Result := landCmd .foreground 0x13 clearCmdOp s

/-- MAINT_ENTER (R423). -/
def execMaintEnter (s : State) : Result := fgLand 0x14 maintEnterOp s

/-- MAINT_LEAVE (R423). -/
def execMaintLeave (s : State) : Result := fgLand 0x15 leaveMaint s

/-- DEVICE_RESET (R543). -/
def execDeviceReset (s : State) : Result := fgLand 0x16 id s

/-- COMMAND_RESET (R431). -/
def execCommandReset (s : State) : Result := atOpt s.host.resetAt (fun s' => s'.host.resetAt.isSome) (deviceReset 5) s

/-- DRAFT_ABORT (R478). -/
def execDraftAbort (s : State) : Result := fgLand 0x22 draftAbortOp s

/-- CHANGEOVER (R477). -/
def execChangeover (s : State) : Result := landCmd .foreground 0x23 changeoverOp s

/-- LINE_CHANGEOVER (R509). -/
def execLineChangeover (s : State) : Result := landCmd .foreground 0x25 lineCmdOp s

/-! ### Commands of the background lane (R543) -/

/-- DRAFT_WRITE (R473, R544). -/
def execDraftWrite (s : State) : Result := landCmd .background 0x20 regionWriteOp s

/-- DRAFT_VERIFY (R474). -/
def execDraftVerify (s : State) : Result := landCmd .background 0x21 (fun _ s => bgBegun (verifyBegin false s)) s

/-- REVERT (R485). -/
def execRevert (s : State) : Result := landCmd .background 0x24 (fun _ s => bgBegun (verifyBegin true s)) s

/-- HED_LOAD (R327). -/
def execHedLoad (s : State) : Result := landCmd .background 0x30 hedLoadOp s

/-- FW_WRITE (R544). -/
def execFwWrite (s : State) : Result := landCmd .background 0x40 regionWriteOp s

/-- FW_ACTIVATE (R566). -/
def execFwActivate (s : State) : Result := landCmd .background 0x41 fwActivateOp s

/-- LOG_READ (R572). -/
def execLogRead (s : State) : Result := landCmd .background 0x42 logReadOp s

/-- KEY_ENROL (R465). -/
def execKeyEnrol (s : State) : Result := landCmd .background 0x50 keyEnrolOp s

/-- KEY_REVOKE (R465). -/
def execKeyRevoke (s : State) : Result := landCmd .background 0x51 keyRevokeOp s

/-- SECURE_ENABLE (R465). -/
def execSecureEnable (s : State) : Result := landCmd .background 0x52 secureEnableOp s

/-- EPOCH_RAISE (R465). -/
def execEpochRaise (s : State) : Result := landCmd .background 0x53 epochRaiseOp s

/-! ### Counters (R549) -/

/-- MBX_CNT_CLR (R545). -/
def execMbxCntClr (p : Path) (s : State) : Result := setBitCmd p Reg.mbxCtl 8 s

/-- HOST_CNT_CLR (R547). -/
def execHostCntClr (p : Path) (s : State) : Result := setBitCmd p Reg.hostCtl 8 s

end Sys2Proof.Machine
end

