-- ==== Sys2Proof/Machine/ExecTack.lean ====
section
/-!
DEFINITION. Meanings of the commands of 17_tackler.md: sensors, the log in flash, restarts, the flash, the test access port
and debug access.
-/

namespace Sys2Proof.Machine

/-! ### Sensors (R552, R554) -/

/-- TEMP_SAMPLE (R554). -/
def execTempSample (temps : Vector (BitVec 11) 8) (s : State) : Result :=
  nowIf (mode s != 0) (tempSampleOp (temps.toList.map fun t => t.toNat)) s

/-- The supply voltages are sampled (R552): monitors 0 to 5, then the 1.8 V rail of monitor 3. -/
def supplySampleOp (mv : List Nat) (s : State) : State :=
  let s := forEach (upto 0 6) (fun i s => rset (Reg.tackSup i) (wd (mv.getD i 0)) s) s
  setf (Reg.tackSup 3) 16 12 (mv.getD 6 0) s

/-- SUPPLY_SAMPLE (R552). -/
def execSupplySample (mv : Vector (BitVec 12) 7) (s : State) : Result :=
  nowIf (mode s != 0) (supplySampleOp (mv.toList.map fun v => v.toNat)) s

/-! ### Log and restarts (R556, R570) -/

/-- LOG_FLASH_COPY (R563, R570). -/
def execLogFlashCopy (s : State) : Result := nowIf ((logNextCopy s).isSome && !nvmInh s && fwRuns s) logCopyOp s

/-- The firmware has been started since the last device reset (R556). -/
def fwStarted (s : State) : Bool := decide (3 ≤ s.tack.boot)

/-- TACKLER_CLOCK_FAULT (R553): it forces a watchdog expiry. -/
def execTacklerClockFault (s : State) : Result := nowIf (fwStarted s) (watchdogOp 4) s

/-- WATCHDOG_EXPIRY (R556). -/
def execWatchdogExpiry (s : State) : Result := nowIf (fwStarted s) (watchdogOp 1) s

/-- FIRMWARE_RESTART_REQUEST (R556). -/
def execFirmwareRestartRequest (s : State) : Result := nowIf (fwRuns s) (restartBegin 2) s

/-- RESTART (R556). -/
def execRestart (p : Path) (s : State) : Result := setBitCmd p Reg.tackCtl 0 s

/-- RESTART_END (R556). -/
def execRestartEnd (s : State) : Result := nowIf (restarting s) restartEndOp s

/-! ### The flash (R562, R563) -/

/-- A page program or sector erase is under way. -/
def flashWorks (s : State) : Bool := match s.flash.jobs with | j :: _ => j.issued | [] => false

/-- What the end of a job brings. -/
def jobEnded (w : FlashWhy) (s : State) : State :=
  match w with
  | .command => flashCommandDone s
  | .repair => repairDone s
  | .debug => s

/-- FLASH_PROGRAM_DONE (R562). -/
def execFlashProgramDone (s : State) : Result := nowIf (flashWorks s) (flashDoneOp jobEnded) s

/-- FLASH_ERROR (R562). -/
def execFlashError (s : State) : Result := nowIf (flashWorks s) flashErrorOp s

/-! ### The test access port (R573 to R577) -/

def modTap (f : TapSt → TapSt) (s : State) : State := { s with tap := f s.tap }

/-- An instruction is loaded. -/
def loadIr (c : Nat) : State → State := modTap fun t => { t with ir := c }

/-- EXTEST (R574). -/
def execExtest (s : State) : Result := nowIf true (loadIr 0x00) s

/-- The identification register is selected and read (R573). -/
def idcodeOp (s : State) : State := { loadIr 0x01 s with rdata := [0xA5120B4D#32] }

/-- IDCODE (R573). -/
def execIdcode (s : State) : Result := nowIf true idcodeOp s

/-- The boundary register samples the pads and takes new cells (R573). -/
def preloadOp (cells : BitVec 512) (s : State) : State :=
  let word := fun i => wd ((upto 0 32).foldl (fun x b => x + b2n (padLevel s (32 * i + b)) * 2 ^ b) 0)
  { modTap (fun t => { t with ir := 0x02, cells := cells }) s with rdata := (upto 0 16).map word }

/-- SAMPLE_PRELOAD (R573). -/
def execSamplePreload (cells : BitVec 512) (s : State) : Result := nowIf true (preloadOp cells) s

/-- CLAMP (R574). -/
def execClamp (s : State) : Result := nowIf true (loadIr 0x04) s

/-- HIGHZ (R574). -/
def execHighz (s : State) : Result := nowIf true (loadIr 0x05) s

/-- BYPASS (R573). -/
def execBypass (s : State) : Result := nowIf true (loadIr 0x3F) s

/-- TEST_RESET (R431): the test logic alone; IDCODE is selected. -/
def execTestReset (s : State) : Result := nowIf true (modTap fun t => { t with ir := 0x01, out := 0 }) s

/-- A scan brings out what the one before it read, and takes the data of its own access. -/
def scanOut (ir : Nat) (r : Word × State) : State :=
  { modTap (fun t => { t with ir := ir, out := r.1 }) r.2 with rdata := [r.2.tap.out] }

/-- A DBG_ACC scan with a read (R576); what the next scan brings after a refused one is not stated (log entry 1). -/
def dbgReadOp (a : Nat) (s : State) : State :=
  if mode s = 0 then scanOut 0x10 (s.tap.out, s)
  else if dbgOpen s then
    if inStore a && served s a then portAsk ⟨bankOf a, 1, .tapRead a⟩ (scanOut 0x10 (s.tap.out, s))
    else scanOut 0x10 (readDw .tackler a s)
  else
    let x := freshWord (lockDrop .tackler a 0 s)
    scanOut 0x10 (wd x.1, x.2)

/-- A DBG_ACC scan takes its turn among the tackler's accesses of the cycle (R101). -/
def dbgAccess (f : State → State) (s : State) : Result := if mode s = 0 then nowIf true f s else accessCmd .tackler f s

/-- DBG_ACC_READ (R576). -/
def execDbgAccRead (addr : BitVec 32) (s : State) : Result := dbgAccess (dbgReadOp addr.toNat) s

/-- A DBG_ACC scan with a write (R576). -/
def dbgWriteOp (a : Nat) (v : Word) (s : State) : State :=
  if mode s = 0 then scanOut 0x10 (s.tap.out, s)
  else
    let t := if dbgOpen s then writeDw .tackler a v s else lockDrop .tackler a v s
    scanOut 0x10 (s.tap.out, t)

/-- DBG_ACC_WRITE (R576). -/
def execDbgAccWrite (addr : BitVec 32) (v : BitVec 32) (s : State) : Result := dbgAccess (dbgWriteOp addr.toNat v) s

/-- FLASH_ACC acts (R575): in BOOT with no passing image, or in MAINTENANCE with OPEN = 1. -/
def flashAccActs (s : State) : Bool :=
  (decide (mode s = 1 ∧ s.tack.boot = 2) && (fwSelect s).isNone) || (decide (mode s = 9) && dbgOpen s)

/-- A FLASH_ACC scan: its effect where it acts. -/
def flashAcc (f : State → Word × State) (s : State) : State :=
  scanOut 0x11 (if flashAccActs s then f s else (s.tap.out, s))

/-- READ_WORD (R575). -/
def execReadWord (addr : BitVec 32) (s : State) : Result :=
  nowIf true (flashAcc fun s => (wd (flashN s addr.toNat 4), s)) s

/-- A word goes to the page buffer. -/
def loadWordOp (a : Nat) (v : Word) (s : State) : State := modFlash (fun f => { f with page := tset f.page (a % 256 / 4) v }) s

/-- LOAD_WORD (R575). -/
def execLoadWord (addr : BitVec 32) (v : BitVec 32) (s : State) : Result :=
  nowIf true (flashAcc fun s => (s.tap.out, loadWordOp addr.toNat v s)) s

/-- The bytes of the page buffer; a word not loaded is erased (log entry 9). -/
def pageBytes (s : State) : List Byte := (upto 0 64).flatMap fun k => leBytes 4 (tget 0xFFFFFFFF#32 s.flash.page k).toNat

/-- A step of the debug port is put to the flash. -/
def debugJob (x : FlashStep) (s : State) : State := issueNext (addJob { why := .debug, steps := [x] } s)

/-- PROGRAM_PAGE (R575). -/
def execProgramPage (addr : BitVec 32) (s : State) : Result :=
  nowIf true (flashAcc fun s => (s.tap.out, debugJob (.program (addr.toNat / 256 * 256) (pageBytes s)) s)) s

/-- ERASE_SECTOR (R575). -/
def execEraseSector (addr : BitVec 32) (s : State) : Result :=
  nowIf true (flashAcc fun s => (s.tap.out, debugJob (.erase (addr.toNat / 4096 * 4096) 1) s)) s

/-- READ_STATUS (R575): the layout of the flash status is not stated (log entry 1). -/
def execReadStatus (s : State) : Result :=
  nowIf true (flashAcc fun s => let x := freshWord s; (wd x.1, x.2)) s

/-- DBG_UNLOCK (R573, R577). -/
def execDbgUnlock (key : BitVec 8) (r : BitVec 256) (t : BitVec 256) (s : State) : Result :=
  nowIf (mode s != 0) (fun s => unlockOp key.toNat r.toNat t.toNat (loadIr 0x12 s)) s

/-- UNLOCK (R577). -/
def execUnlock (p : Path) (s : State) : Result := setBitCmd p Reg.tackDbgctl 1 s

/-- OPEN_WRITE (R577). -/
def execOpenWrite (p : Path) (isOpen : Bool) (s : State) : Result :=
  if isOpen then setBitCmd p Reg.tackDbgctl 0 s else clearBitCmd p Reg.tackDbgctl 0 s

/-- TACK_CNT_CLR (R581). -/
def execTackCntClr (p : Path) (s : State) : Result := setBitCmd p Reg.tackCtl 8 s

end Sys2Proof.Machine
end

