-- ==== Sys2Proof/Machine/ExecFlt.lean ====
section
/-!
DEFINITION. Meanings of the commands of 18_fault_containment.md: the ends of replays and arbitrations, substitution, lockstep and
readback mismatches, the reset of the policy, and the injections.
-/

namespace Sys2Proof.Machine

/-- The engine number of a checker (R587). -/
def checkerNo : Checker → Nat
  | .c32 => 32
  | .c33 => 33

/-! ### Checkers (R588 to R590) -/

/-- The engine whose replay a checker has to make in this pick (R587). -/
def replayOf (s : State) (q : Checker) : Option Nat := (s.flt.slots.find? fun x => x.1 == checkerNo q).map fun x => x.2

/-- The replay of a checker ends. -/
def replayDone (q : Checker) (w : Word) (endOk : Bool) (s : State) : State :=
  match replayOf s q with
  | some e => replayEndOp (checkerNo q) e w endOk s
  | none => s

/-- REPLAY_END (R588). -/
def execReplayEnd (q : Checker) (w : BitVec 32) (endOk : Bool) (s : State) : Result :=
  nowIf (replayOf s q).isSome (replayDone q w endOk) s

/-- An arbitration is due: its replay is made in the pick after the mismatch (R589). -/
def arbDue (s : State) : Bool := match s.flt.arb with | some a => decide (a.pick < pickNo s) | none => false

/-- The second checker's replay ends. -/
def arbDone (w : Word) (endOk : Bool) (s : State) : State :=
  match s.flt.arb with
  | some a => arbitrate a w endOk s
  | none => s

/-- ARBITRATION_END (R589). -/
def execArbitrationEnd (w : BitVec 32) (endOk : Bool) (s : State) : Result := nowIf (arbDue s) (arbDone w endOk) s

/-- Checker q copies code for the engine that it substitutes (R590, R592). -/
def copies (s : State) (q : Checker) : Bool :=
  rb s Reg.gctlChksts 15 && rb s (Reg.engEsts (checkerNo q)) 23 && !s.flt.copies.isEmpty

/-- SUBSTITUTE_LOADED (R590). -/
def execSubstituteLoaded (q : Checker) (s : State) : Result := nowIf (copies s q) (substituteLoadedOp (checkerNo q)) s

/-! ### Lockstep and readback (R594, R595) -/

/-- LOCKSTEP_MISMATCH (R594). -/
def execLockstepMismatch (s : State) : Result := nowIf (checkOn s && running s) (lockstepOp false) s

/-- The readback compare of pin n finds a difference: the compare is on, and the pin is driven to a level that is not the
one sensed (R40, R194, R595). -/
def readbackOn (s : State) (n : Nat) : Bool :=
  rb s Reg.gctlCfg 0 && checkOn s && running s &&
    (match pinOut s n with | .z => false | .drv b => b != padLevel s n || readbackDiffers s n)

/-- READBACK_MISMATCH (R595). -/
def execReadbackMismatch (n : Fin 512) (s : State) : Result := nowIf (readbackOn s n) (readbackNote n) s

/-! ### The policy (R599) -/

/-- FAULT_RESET (R599). -/
def execFaultReset (s : State) : Result := atOpt s.flt.resetAt (fun s' => s'.flt.resetAt.isSome) (deviceReset 4) s

/-! ### Injection (R602) -/

/-- A write of FLT.INJ with GO and a KIND. -/
def injectCmd (p : Path) (kind : Nat) (s : State) : Result := writeCmd p Reg.gctlInj (setBit (wd kind) 31 true) s

/-- INJECT_END: KIND 0. -/
def execInjectEnd (p : Path) (s : State) : Result := injectCmd p 0 s

/-- INJECT_SINGLE_BIT: KIND 1. -/
def execInjectSingleBit (p : Path) (s : State) : Result := injectCmd p 1 s

/-- INJECT_DOUBLE_BIT: KIND 2. -/
def execInjectDoubleBit (p : Path) (s : State) : Result := injectCmd p 2 s

/-- INJECT_SHED_STATE: KIND 3. -/
def execInjectShedState (p : Path) (s : State) : Result := injectCmd p 3 s

/-- INJECT_RESIDUE: KIND 4. -/
def execInjectResidue (p : Path) (s : State) : Result := injectCmd p 4 s

/-- INJECT_SIGNATURE: KIND 5. -/
def execInjectSignature (p : Path) (s : State) : Result := injectCmd p 5 s

/-- INJECT_CARD_CHECK: KIND 6. -/
def execInjectCardCheck (p : Path) (s : State) : Result := injectCmd p 6 s

/-- INJECT_SENSED_LEVEL: KIND 7. -/
def execInjectSensedLevel (p : Path) (s : State) : Result := injectCmd p 7 s

/-- INJECT_REFERENCE_LOSS: KIND 8. -/
def execInjectReferenceLoss (p : Path) (s : State) : Result := injectCmd p 8 s

/-- INJECT_READBACK_OFFSET: KIND 9. -/
def execInjectReadbackOffset (p : Path) (s : State) : Result := injectCmd p 9 s

/-- FLT_CNT_CLR (R605). -/
def execFltCntClr (p : Path) (s : State) : Result := setBitCmd p Reg.gctlSts 31 s

end Sys2Proof.Machine
end

