-- ==== Sys2Proof/Machine/Dispatch.lean ====
section
/-!
DEFINITION. The meaning of every command (spec/opcode_table.json): one arm per constructor of Instr, each a direct call of its
meaning in the file of its family.
-/

namespace Sys2Proof.Machine

/-- The effect of a command on everything but the queue. -/
def exec (i : Instr) (s : State) : Host.Outcome State Fault Refusal :=
  match i with
  | .registerWrite p addr width v => Sys2Proof.Machine.execRegisterWrite p addr width v s
  | .pairLoRead p pr => Sys2Proof.Machine.execPairLoRead p pr s
  | .pairLoWrite p pr v => Sys2Proof.Machine.execPairLoWrite p pr v s
  | .pairHiWrite p pr v => Sys2Proof.Machine.execPairHiWrite p pr v s
  | .timeLoRead p => Sys2Proof.Machine.execTimeLoRead p s
  | .commit p => Sys2Proof.Machine.execCommit p s
  | .cntClr p => Sys2Proof.Machine.execCntClr p s
  | .pickStart => Sys2Proof.Machine.execPickStart s
  | .scanPoint => Sys2Proof.Machine.execScanPoint s
  | .taskStart e => Sys2Proof.Machine.execTaskStart e s
  | .expressStart e => Sys2Proof.Machine.execExpressStart e s
  | .expressLimit e => Sys2Proof.Machine.execExpressLimit e s
  | .contextResume e => Sys2Proof.Machine.execContextResume e s
  | .shedCntClr p => Sys2Proof.Machine.execShedCntClr p s
  | .ill e => Sys2Proof.Machine.execIll e s
  | .nop e => Sys2Proof.Machine.execNop e s
  | .aluAdd e d a b => Sys2Proof.Machine.execAluAdd e d a b s
  | .aluSub e d a b => Sys2Proof.Machine.execAluSub e d a b s
  | .aluAdc e d a b => Sys2Proof.Machine.execAluAdc e d a b s
  | .aluSbc e d a b => Sys2Proof.Machine.execAluSbc e d a b s
  | .aluAnd e d a b => Sys2Proof.Machine.execAluAnd e d a b s
  | .aluOr e d a b => Sys2Proof.Machine.execAluOr e d a b s
  | .aluXor e d a b => Sys2Proof.Machine.execAluXor e d a b s
  | .aluShl e d a b => Sys2Proof.Machine.execAluShl e d a b s
  | .aluShr e d a b => Sys2Proof.Machine.execAluShr e d a b s
  | .aluSar e d a b => Sys2Proof.Machine.execAluSar e d a b s
  | .aluMul e d a b => Sys2Proof.Machine.execAluMul e d a b s
  | .aluMulh e d a b => Sys2Proof.Machine.execAluMulh e d a b s
  | .aluMulhu e d a b => Sys2Proof.Machine.execAluMulhu e d a b s
  | .aluDivs e d a b => Sys2Proof.Machine.execAluDivs e d a b s
  | .aluDivu e d a b => Sys2Proof.Machine.execAluDivu e d a b s
  | .aluMin e d a b => Sys2Proof.Machine.execAluMin e d a b s
  | .aluMax e d a b => Sys2Proof.Machine.execAluMax e d a b s
  | .cmp e a b => Sys2Proof.Machine.execCmp e a b s
  | .addi e d a imm => Sys2Proof.Machine.execAddi e d a imm s
  | .andi e d a imm => Sys2Proof.Machine.execAndi e d a imm s
  | .ori e d a imm => Sys2Proof.Machine.execOri e d a imm s
  | .xori e d a imm => Sys2Proof.Machine.execXori e d a imm s
  | .shli e d a imm => Sys2Proof.Machine.execShli e d a imm s
  | .shri e d a imm => Sys2Proof.Machine.execShri e d a imm s
  | .sari e d a imm => Sys2Proof.Machine.execSari e d a imm s
  | .cmpi e a imm => Sys2Proof.Machine.execCmpi e a imm s
  | .sel e d a b cond => Sys2Proof.Machine.execSel e d a b cond s
  | .lui e d imm => Sys2Proof.Machine.execLui e d imm s
  | .li e d imm => Sys2Proof.Machine.execLi e d imm s
  | .padd e d a b => Sys2Proof.Machine.execPadd e d a b s
  | .pdif e d a b => Sys2Proof.Machine.execPdif e d a b s
  | .ld e d a imm => Sys2Proof.Machine.execLd e d a imm s
  | .ldh e d a imm => Sys2Proof.Machine.execLdh e d a imm s
  | .ldhu e d a imm => Sys2Proof.Machine.execLdhu e d a imm s
  | .ldbu e d a imm => Sys2Proof.Machine.execLdbu e d a imm s
  | .ldd e d a imm => Sys2Proof.Machine.execLdd e d a imm s
  | .st e a b imm => Sys2Proof.Machine.execSt e a b imm s
  | .sth e a b imm => Sys2Proof.Machine.execSth e a b imm s
  | .stb e a b imm => Sys2Proof.Machine.execStb e a b imm s
  | .std e a b imm => Sys2Proof.Machine.execStd e a b imm s
  | .ldc e d a imm => Sys2Proof.Machine.execLdc e d a imm s
  | .stc e a b imm => Sys2Proof.Machine.execStc e a b imm s
  | .fence e => Sys2Proof.Machine.execFence e s
  | .br e cond imm => Sys2Proof.Machine.execBr e cond imm s
  | .jmp e imm => Sys2Proof.Machine.execJmp e imm s
  | .jal e d imm => Sys2Proof.Machine.execJal e d imm s
  | .jr e a => Sys2Proof.Machine.execJr e a s
  | .endTask e imm => Sys2Proof.Machine.execEndTask e imm s
  | .sig e imm => Sys2Proof.Machine.execSig e imm s
  | .evr e a imm => Sys2Proof.Machine.execEvr e a imm s
  | .softwareEvent e => Sys2Proof.Machine.execSoftwareEvent e s
  | .rds e d imm => Sys2Proof.Machine.execRds e d imm s
  | .rdl e d imm => Sys2Proof.Machine.execRdl e d imm s
  | .chr e d a imm => Sys2Proof.Machine.execChr e d a imm s
  | .chw e a b imm => Sys2Proof.Machine.execChw e a b imm s
  | .chwLand e => Sys2Proof.Machine.execChwLand e s
  | .edge e a b imm => Sys2Proof.Machine.execEdge e a b imm s
  | .shuttleEdgeOut n => Sys2Proof.Machine.execShuttleEdgeOut n s
  | .arm e d a => Sys2Proof.Machine.execArm e d a s
  | .disarm e d a => Sys2Proof.Machine.execDisarm e d a s
  | .lerp e d a b imm => Sys2Proof.Machine.execLerp e d a b imm s
  | .loadResult e x => Sys2Proof.Machine.execLoadResult e x s
  | .storeAck e x => Sys2Proof.Machine.execStoreAck e x s
  | .correctedWriteBack word => Sys2Proof.Machine.execCorrectedWriteBack word s
  | .halt p e => Sys2Proof.Machine.execHalt p e s
  | .halted e => Sys2Proof.Machine.execHalted e s
  | .resume p e => Sys2Proof.Machine.execResume p e s
  | .shuStep p e => Sys2Proof.Machine.execShuStep p e s
  | .breakpointHit e => Sys2Proof.Machine.execBreakpointHit e s
  | .shuCntClr p e => Sys2Proof.Machine.execShuCntClr p e s
  | .harnessTick h => Sys2Proof.Machine.execHarnessTick h s
  | .leaveOff p n v => Sys2Proof.Machine.execLeaveOff p n v s
  | .enterOff p n v => Sys2Proof.Machine.execEnterOff p n v s
  | .start p n => Sys2Proof.Machine.execStart p n s
  | .rldWrite p n v => Sys2Proof.Machine.execRldWrite p n v s
  | .compareWrite p n q v => Sys2Proof.Machine.execCompareWrite p n q v s
  | .fineWrite p n v => Sys2Proof.Machine.execFineWrite p n v s
  | .stagedWrite p n q v => Sys2Proof.Machine.execStagedWrite p n q v s
  | .capRead p n => Sys2Proof.Machine.execCapRead p n s
  | .filtWrite p n v => Sys2Proof.Machine.execFiltWrite p n v s
  | .evcfgWrite p n v => Sys2Proof.Machine.execEvcfgWrite p n v s
  | .prescWrite p h v => Sys2Proof.Machine.execPrescWrite p h v s
  | .chCntClr p n => Sys2Proof.Machine.execChCntClr p n s
  | .pinTransition n level fine => Sys2Proof.Machine.execPinTransition n level fine s
  | .filterSample n => Sys2Proof.Machine.execFilterSample n s
  | .load p h => Sys2Proof.Machine.execLoad p h s
  | .loadAll p => Sys2Proof.Machine.execLoadAll p s
  | .loadNow p h => Sys2Proof.Machine.execLoadNow p h s
  | .tripCut h k => Sys2Proof.Machine.execTripCut h k s
  | .blankingEnd k => Sys2Proof.Machine.execBlankingEnd k s
  | .deadTimeEnd k side => Sys2Proof.Machine.execDeadTimeEnd k side s
  | .tripWrite p h k v => Sys2Proof.Machine.execTripWrite p h k v s
  | .tripfClear p h mask => Sys2Proof.Machine.execTripfClear p h mask s
  | .harnCntClr p h => Sys2Proof.Machine.execHarnCntClr p h s
  | .reedCntClr p k => Sys2Proof.Machine.execReedCntClr p k s
  | .calibrationStep n mv => Sys2Proof.Machine.execCalibrationStep n mv s
  | .cardPlace => Sys2Proof.Machine.execCardPlace s
  | .nearPromotion x => Sys2Proof.Machine.execNearPromotion x s
  | .cardSet x => Sys2Proof.Machine.execCardSet x s
  | .cardClear x => Sys2Proof.Machine.execCardClear x s
  | .cardToggle x => Sys2Proof.Machine.execCardToggle x s
  | .cardPulse x => Sys2Proof.Machine.execCardPulse x s
  | .loadCmpa x => Sys2Proof.Machine.execLoadCmpa x s
  | .loadCmpb x => Sys2Proof.Machine.execLoadCmpb x s
  | .userEvent x => Sys2Proof.Machine.execUserEvent x s
  | .express x => Sys2Proof.Machine.execExpress x s
  | .pulseEnd x => Sys2Proof.Machine.execPulseEnd x s
  | .capEnd x => Sys2Proof.Machine.execCapEnd x s
  | .crRdWrite p v => Sys2Proof.Machine.execCrRdWrite p v s
  | .ringConfigWrite p q v => Sys2Proof.Machine.execRingConfigWrite p q v s
  | .cardCntClr p => Sys2Proof.Machine.execCardCntClr p s
  | .tooth t instant => Sys2Proof.Machine.execTooth t instant s
  | .cycleStart t => Sys2Proof.Machine.execCycleStart t s
  | .secondaryEdge t instant => Sys2Proof.Machine.execSecondaryEdge t instant s
  | .secondaryWindowMiss t k => Sys2Proof.Machine.execSecondaryWindowMiss t k s
  | .stall t => Sys2Proof.Machine.execStall t s
  | .beaconMiss t => Sys2Proof.Machine.execBeaconMiss t s
  | .trackerEnable p t v => Sys2Proof.Machine.execTrackerEnable p t v s
  | .trackerDisable p t => Sys2Proof.Machine.execTrackerDisable p t s
  | .phaseRead p t => Sys2Proof.Machine.execPhaseRead p t s
  | .trRdWrite p t v => Sys2Proof.Machine.execTrRdWrite p t v s
  | .trConfigWrite p t q v => Sys2Proof.Machine.execTrConfigWrite p t q v s
  | .trdCntClr p t => Sys2Proof.Machine.execTrdCntClr p t s
  | .posEnable p k v => Sys2Proof.Machine.execPosEnable p k v s
  | .posDisable p k => Sys2Proof.Machine.execPosDisable p k s
  | .posFilterSample k => Sys2Proof.Machine.execPosFilterSample k s
  | .posLoad p k => Sys2Proof.Machine.execPosLoad p k s
  | .latch p k => Sys2Proof.Machine.execLatch p k s
  | .eventLatch k => Sys2Proof.Machine.execEventLatch k s
  | .latPosRead p k => Sys2Proof.Machine.execLatPosRead p k s
  | .standstill k => Sys2Proof.Machine.execStandstill k s
  | .serStart p k => Sys2Proof.Machine.execSerStart p k s
  | .frameStart k => Sys2Proof.Machine.execFrameStart k s
  | .wordLanding k bits => Sys2Proof.Machine.execWordLanding k bits s
  | .dataTimeout k => Sys2Proof.Machine.execDataTimeout k s
  | .posCntClr p k => Sys2Proof.Machine.execPosCntClr p k s
  | .hedJmp e f => Sys2Proof.Machine.execHedJmp e f s
  | .hedWait e f => Sys2Proof.Machine.execHedWait e f s
  | .waitLimit e => Sys2Proof.Machine.execWaitLimit e s
  | .hedOut e f => Sys2Proof.Machine.execHedOut e f s
  | .hedIn e f => Sys2Proof.Machine.execHedIn e f s
  | .hedPull e f => Sys2Proof.Machine.execHedPull e f s
  | .hedPush e f => Sys2Proof.Machine.execHedPush e f s
  | .hedSet e f => Sys2Proof.Machine.execHedSet e f s
  | .hedMov e f => Sys2Proof.Machine.execHedMov e f s
  | .hedCrc e f => Sys2Proof.Machine.execHedCrc e f s
  | .hedStamp e f => Sys2Proof.Machine.execHedStamp e f s
  | .hedInvalidOpcode e => Sys2Proof.Machine.execHedInvalidOpcode e s
  | .hedTriggerPending e => Sys2Proof.Machine.execHedTriggerPending e s
  | .txdata p e v => Sys2Proof.Machine.execTxdata p e v s
  | .rxdata p e => Sys2Proof.Machine.execRxdata p e s
  | .hedStart p e => Sys2Proof.Machine.execHedStart p e s
  | .hedStop p e => Sys2Proof.Machine.execHedStop p e s
  | .fifoClr p e => Sys2Proof.Machine.execFifoClr p e s
  | .cleanSwap e => Sys2Proof.Machine.execCleanSwap e s
  | .forcedSwap e => Sys2Proof.Machine.execForcedSwap e s
  | .hedHalt p e => Sys2Proof.Machine.execHedHalt p e s
  | .hedResume p e => Sys2Proof.Machine.execHedResume p e s
  | .hedStep p e => Sys2Proof.Machine.execHedStep p e s
  | .hedCntClr p e => Sys2Proof.Machine.execHedCntClr p e s
  | .comparatorChange c out instant => Sys2Proof.Machine.execComparatorChange c out instant s
  | .comparatorEnable p c v => Sys2Proof.Machine.execComparatorEnable p c v s
  | .comparatorDisable p c => Sys2Proof.Machine.execComparatorDisable p c s
  | .indetEvaluation c x => Sys2Proof.Machine.execIndetEvaluation c x s
  | .settleEnd c x => Sys2Proof.Machine.execSettleEnd c x s
  | .threshWrite p c v => Sys2Proof.Machine.execThreshWrite p c v s
  | .adcTriggerPending k => Sys2Proof.Machine.execAdcTriggerPending k s
  | .sequenceStart => Sys2Proof.Machine.execSequenceStart s
  | .readbackDue => Sys2Proof.Machine.execReadbackDue s
  | .conversionStart => Sys2Proof.Machine.execConversionStart s
  | .conversionResult code => Sys2Proof.Machine.execConversionResult code s
  | .slotRead p x => Sys2Proof.Machine.execSlotRead p x s
  | .rqRdWrite p v => Sys2Proof.Machine.execRqRdWrite p v s
  | .winCntClr p w => Sys2Proof.Machine.execWinCntClr p w s
  | .adcCntClr p => Sys2Proof.Machine.execAdcCntClr p s
  | .scrubRead => Sys2Proof.Machine.execScrubRead s
  | .preservingTest p bank => Sys2Proof.Machine.execPreservingTest p bank s
  | .destructiveTest p bank => Sys2Proof.Machine.execDestructiveTest p bank s
  | .copyEnd => Sys2Proof.Machine.execCopyEnd s
  | .testEnd pass => Sys2Proof.Machine.execTestEnd pass s
  | .restoreEnd => Sys2Proof.Machine.execRestoreEnd s
  | .storeCntClr p => Sys2Proof.Machine.execStoreCntClr p s
  | .bobStart p b v => Sys2Proof.Machine.execBobStart p b v s
  | .bobAbort p b => Sys2Proof.Machine.execBobAbort p b s
  | .gateOpen b => Sys2Proof.Machine.execGateOpen b s
  | .gateClose b => Sys2Proof.Machine.execGateClose b s
  | .transactionIssue b => Sys2Proof.Machine.execTransactionIssue b s
  | .transactionReturn b x => Sys2Proof.Machine.execTransactionReturn b x s
  | .hostCompletionTimeout b => Sys2Proof.Machine.execHostCompletionTimeout b s
  | .hqPtrWrite p j v => Sys2Proof.Machine.execHqPtrWrite p j v s
  | .bobCntClr p b => Sys2Proof.Machine.execBobCntClr p b s
  | .bobcCntClr p => Sys2Proof.Machine.execBobcCntClr p s
  | .raiseArrival j => Sys2Proof.Machine.execRaiseArrival j s
  | .coalesceTimeout j => Sys2Proof.Machine.execCoalesceTimeout j s
  | .msixHandover j => Sys2Proof.Machine.execMsixHandover j s
  | .irqAssert j => Sys2Proof.Machine.execIrqAssert j s
  | .pendClear p j => Sys2Proof.Machine.execPendClear p j s
  | .maskClear p j => Sys2Proof.Machine.execMaskClear p j s
  | .vecCtlWrite p j v => Sys2Proof.Machine.execVecCtlWrite p j v s
  | .evmCntClr p => Sys2Proof.Machine.execEvmCntClr p s
  | .vecCntClr p j => Sys2Proof.Machine.execVecCntClr p j s
  | .powerOnReset => Sys2Proof.Machine.execPowerOnReset s
  | .pinReset => Sys2Proof.Machine.execPinReset s
  | .brownOut => Sys2Proof.Machine.execBrownOut s
  | .resetRelease hostSel high => Sys2Proof.Machine.execResetRelease hostSel high s
  | .pllLock => Sys2Proof.Machine.execPllLock s
  | .flashDiscovery code density dummy => Sys2Proof.Machine.execFlashDiscovery code density dummy s
  | .firmwareSelection => Sys2Proof.Machine.execFirmwareSelection s
  | .selfTestEnd bad logicOk => Sys2Proof.Machine.execSelfTestEnd bad logicOk s
  | .bootDraftApplied unreadable => Sys2Proof.Machine.execBootDraftApplied unreadable s
  | .referenceLoss => Sys2Proof.Machine.execReferenceLoss s
  | .restore p => Sys2Proof.Machine.execRestore p s
  | .latencyNsWrite p v => Sys2Proof.Machine.execLatencyNsWrite p v s
  | .dozeEntry => Sys2Proof.Machine.execDozeEntry s
  | .dozeExit => Sys2Proof.Machine.execDozeExit s
  | .slumberEntry => Sys2Proof.Machine.execSlumberEntry s
  | .wakeComplete => Sys2Proof.Machine.execWakeComplete s
  | .bankSleep bank => Sys2Proof.Machine.execBankSleep bank s
  | .supplyLow m => Sys2Proof.Machine.execSupplyLow m s
  | .supplyRecovery m => Sys2Proof.Machine.execSupplyRecovery m s
  | .pwrCntClr p => Sys2Proof.Machine.execPwrCntClr p s
  | .verifyComplete readable => Sys2Proof.Machine.execVerifyComplete readable s
  | .switchInstant => Sys2Proof.Machine.execSwitchInstant s
  | .channelApplication n => Sys2Proof.Machine.execChannelApplication n s
  | .forcedApplication n => Sys2Proof.Machine.execForcedApplication n s
  | .changeoverEnd => Sys2Proof.Machine.execChangeoverEnd s
  | .nonhitlessApply => Sys2Proof.Machine.execNonhitlessApply s
  | .slotTableCommit => Sys2Proof.Machine.execSlotTableCommit s
  | .chgCntClr p => Sys2Proof.Machine.execChgCntClr p s
  | .portDown q => Sys2Proof.Machine.execPortDown q s
  | .portLock q => Sys2Proof.Machine.execPortLock q s
  | .portMeasure q => Sys2Proof.Machine.execPortMeasure q s
  | .portUp q => Sys2Proof.Machine.execPortUp q s
  | .echoRequest instant => Sys2Proof.Machine.execEchoRequest instant s
  | .echoAnswer turn => Sys2Proof.Machine.execEchoAnswer turn s
  | .echoReply instant turn => Sys2Proof.Machine.execEchoReply instant turn s
  | .trainSend => Sys2Proof.Machine.execTrainSend s
  | .trainReceive bytes link instant => Sys2Proof.Machine.execTrainReceive bytes link instant s
  | .trainReturn bytes link => Sys2Proof.Machine.execTrainReturn bytes link s
  | .ringTimeout => Sys2Proof.Machine.execRingTimeout s
  | .lineDeadline => Sys2Proof.Machine.execLineDeadline s
  | .selCntClr p => Sys2Proof.Machine.execSelCntClr p s
  | .pcieWrite req data => Sys2Proof.Machine.execPcieWrite req data s
  | .pcieRead req n => Sys2Proof.Machine.execPcieRead req n s
  | .readCompletion => Sys2Proof.Machine.execReadCompletion s
  | .configRequest write reg v => Sys2Proof.Machine.execConfigRequest write reg v s
  | .hostReset q => Sys2Proof.Machine.execHostReset q s
  | .spiWrite bytes => Sys2Proof.Machine.execSpiWrite bytes s
  | .spiRead bytes => Sys2Proof.Machine.execSpiRead bytes s
  | .spiQuadWrite bytes => Sys2Proof.Machine.execSpiQuadWrite bytes s
  | .spiQuadRead bytes => Sys2Proof.Machine.execSpiQuadRead bytes s
  | .doorbell p k => Sys2Proof.Machine.execDoorbell p k s
  | .commandStart l => Sys2Proof.Machine.execCommandStart l s
  | .commandCompletion l => Sys2Proof.Machine.execCommandCompletion l s
  | .echo => Sys2Proof.Machine.execEcho s
  | .armCmd => Sys2Proof.Machine.execArmCmd s
  | .stop => Sys2Proof.Machine.execStop s
  | .hold => Sys2Proof.Machine.execHold s
  | .clearHold => Sys2Proof.Machine.execClearHold s
  | .maintEnter => Sys2Proof.Machine.execMaintEnter s
  | .maintLeave => Sys2Proof.Machine.execMaintLeave s
  | .deviceReset => Sys2Proof.Machine.execDeviceReset s
  | .commandReset => Sys2Proof.Machine.execCommandReset s
  | .draftWrite => Sys2Proof.Machine.execDraftWrite s
  | .draftVerify => Sys2Proof.Machine.execDraftVerify s
  | .draftAbort => Sys2Proof.Machine.execDraftAbort s
  | .changeover => Sys2Proof.Machine.execChangeover s
  | .revert => Sys2Proof.Machine.execRevert s
  | .lineChangeover => Sys2Proof.Machine.execLineChangeover s
  | .hedLoad => Sys2Proof.Machine.execHedLoad s
  | .fwWrite => Sys2Proof.Machine.execFwWrite s
  | .fwActivate => Sys2Proof.Machine.execFwActivate s
  | .logRead => Sys2Proof.Machine.execLogRead s
  | .keyEnrol => Sys2Proof.Machine.execKeyEnrol s
  | .keyRevoke => Sys2Proof.Machine.execKeyRevoke s
  | .secureEnable => Sys2Proof.Machine.execSecureEnable s
  | .epochRaise => Sys2Proof.Machine.execEpochRaise s
  | .mbxCntClr p => Sys2Proof.Machine.execMbxCntClr p s
  | .hostCntClr p => Sys2Proof.Machine.execHostCntClr p s
  | .tempSample temps => Sys2Proof.Machine.execTempSample temps s
  | .supplySample mv => Sys2Proof.Machine.execSupplySample mv s
  | .logFlashCopy => Sys2Proof.Machine.execLogFlashCopy s
  | .tacklerClockFault => Sys2Proof.Machine.execTacklerClockFault s
  | .pllLockLoss => Sys2Proof.Machine.execPllLockLoss s
  | .watchdogExpiry => Sys2Proof.Machine.execWatchdogExpiry s
  | .restart p => Sys2Proof.Machine.execRestart p s
  | .restartEnd => Sys2Proof.Machine.execRestartEnd s
  | .flashProgramDone => Sys2Proof.Machine.execFlashProgramDone s
  | .flashError => Sys2Proof.Machine.execFlashError s
  | .extest => Sys2Proof.Machine.execExtest s
  | .idcode => Sys2Proof.Machine.execIdcode s
  | .samplePreload cells => Sys2Proof.Machine.execSamplePreload cells s
  | .clamp => Sys2Proof.Machine.execClamp s
  | .highz => Sys2Proof.Machine.execHighz s
  | .bypass => Sys2Proof.Machine.execBypass s
  | .dbgAccRead addr => Sys2Proof.Machine.execDbgAccRead addr s
  | .dbgAccWrite addr v => Sys2Proof.Machine.execDbgAccWrite addr v s
  | .readWord addr => Sys2Proof.Machine.execReadWord addr s
  | .loadWord addr v => Sys2Proof.Machine.execLoadWord addr v s
  | .programPage addr => Sys2Proof.Machine.execProgramPage addr s
  | .eraseSector addr => Sys2Proof.Machine.execEraseSector addr s
  | .readStatus => Sys2Proof.Machine.execReadStatus s
  | .dbgUnlock key r x => Sys2Proof.Machine.execDbgUnlock key r x s
  | .unlock p => Sys2Proof.Machine.execUnlock p s
  | .openWrite p isOpen => Sys2Proof.Machine.execOpenWrite p isOpen s
  | .testReset => Sys2Proof.Machine.execTestReset s
  | .tackCntClr p => Sys2Proof.Machine.execTackCntClr p s
  | .replayEnd q w endOk => Sys2Proof.Machine.execReplayEnd q w endOk s
  | .arbitrationEnd w endOk => Sys2Proof.Machine.execArbitrationEnd w endOk s
  | .substituteLoaded q => Sys2Proof.Machine.execSubstituteLoaded q s
  | .lockstepMismatch => Sys2Proof.Machine.execLockstepMismatch s
  | .readbackMismatch n => Sys2Proof.Machine.execReadbackMismatch n s
  | .faultReset => Sys2Proof.Machine.execFaultReset s
  | .injectEnd p => Sys2Proof.Machine.execInjectEnd p s
  | .injectSingleBit p => Sys2Proof.Machine.execInjectSingleBit p s
  | .injectDoubleBit p => Sys2Proof.Machine.execInjectDoubleBit p s
  | .injectShedState p => Sys2Proof.Machine.execInjectShedState p s
  | .injectResidue p => Sys2Proof.Machine.execInjectResidue p s
  | .injectSignature p => Sys2Proof.Machine.execInjectSignature p s
  | .injectCardCheck p => Sys2Proof.Machine.execInjectCardCheck p s
  | .injectSensedLevel p => Sys2Proof.Machine.execInjectSensedLevel p s
  | .injectReferenceLoss p => Sys2Proof.Machine.execInjectReferenceLoss p s
  | .injectReadbackOffset p => Sys2Proof.Machine.execInjectReadbackOffset p s
  | .fltCntClr p => Sys2Proof.Machine.execFltCntClr p s
  | .referenceReturn => Sys2Proof.Machine.execReferenceReturn s
  | .restoreOk => Sys2Proof.Machine.execRestoreOk s
  | .pcieLinkTrained rate width => Sys2Proof.Machine.execPcieLinkTrained rate width s
  | .indetBandExit c above => Sys2Proof.Machine.execIndetBandExit c above s
  | .edgeCountAction n => Sys2Proof.Machine.execEdgeCountAction n s
  | .firmwareRestartRequest => Sys2Proof.Machine.execFirmwareRestartRequest s

end Sys2Proof.Machine
end

