-- ==== Sys2Proof/Machine/Step.lean ====
section
/-!
DEFINITION. One step of the device: the command at the front of the queue takes place; on an empty queue a loom cycle passes
(log entry 16).
-/

namespace Sys2Proof.Machine

/-- One step (log entry 16). -/
def step (s : State) : Host.Outcome State Fault Refusal :=
  match s.pending with
  | [] => .next (settle (idleCycle s))
  | c :: rest => exec c { s with pending := rest }

/-- The state with the command that a word of the table's bits spells put at the front of the queue; no word spells one,
since the table gives no bits. -/
def State.withFetchWord (s : State) (nbits w : Nat) : State :=
  match decodeTableWord nbits w with
  | some c => { s with pending := c :: s.pending }
  | none => s

end Sys2Proof.Machine
end

