-- ==== Sys2Proof/Safety.lean ====
section
/-!
DEFINITION. What claims about the device are stated in: the canonical form of its memories, the fuses that only grow
(14_drafts_and_changeover.md R463, R465), and what every step keeps.
-/

namespace Sys2Proof.Machine

/-- The canonical form of the flash: addresses strictly rising, no erased byte listed (log entry 9). -/
def Flash.wf (m : List Host.Cell) : Bool :=
  decide (m.Pairwise fun x y => x.1 < y.1) && m.all fun x => x.2 != 0xFF#8

/-- The fuses `g` come from `f` by blowing alone (R465): a fused key keeps its value, no fused or revoked bit, SECURE
or part of the minimum epoch is unblown, and the variant stays. -/
def FuseSt.le (f g : FuseSt) : Prop :=
  (∀ k, f.fused.getLsbD k = true → g.fused.getLsbD k = true ∧ tget (0, 0) g.keys k = tget (0, 0) f.keys k) ∧
  (∀ k, f.revoked.getLsbD k = true → g.revoked.getLsbD k = true) ∧
  (f.secure = true → g.secure = true) ∧ f.minEpoch ≤ g.minEpoch ∧ g.variant = f.variant

/-- What `Inv` says of the fields it is about. -/
def InvOf (f : FuseSt) (q : List Instr) (mem flash : List Host.Cell) (g : FuseSt) (p : List Instr) : Prop :=
  Memory.wf mem = true ∧ Flash.wf flash = true ∧ f.le g ∧ p = q

/-- The stores and the flash are in canonical form, the fuses come from `f` by blowing alone, and the queue is `q`. -/
def Inv (f : FuseSt) (q : List Instr) (s : State) : Prop := InvOf f q s.mem s.flash.bytes s.fuse s.pending

/-- What is left to the end of a cycle has nothing to do: no detection waits, and no changeover is pending (R597, R478). -/
def Quiet (s : State) : Prop := s.flt.det = [] ∧ chgPending s = false

/-- A register that a raise may write: the source table, LEV_OUT of the Selvedge link, the merge counters of the shed, and
SKIP_CNT and ESTS of an engine (R407, R506, R55, R64, R67). -/
def RaiseReg (a : Nat) : Prop :=
  0x14000 ≤ a ∧ a < 0x18000 ∨ a = Reg.selLevOut ∨ a = Reg.shedMergeCnt ∨ a = Reg.shedExpMergeCnt ∨
    0x190400 ≤ a ∧ a < 0x190C00 ∧ (a % 0x20 = 0 ∨ a % 0x20 = 0x18)

/-- An address is that of a register proper: no hole, store, window or register of a pair (R11, R35). -/
def plainReg (a : Nat) : Bool :=
  (descAt a).isSome && !isHole a && !inStore a && !inTaskWin a && !inCodeWin a && !isPairLo a && !isPairHi a

/-- An address is that of a register that a read returns by itself: no hole, store or window (R35). -/
def readableReg (a : Nat) : Bool := (descAt a).isSome && !isHole a && !inStore a && !inTaskWin a && !inCodeWin a

/-- The state that an access of path p meets: the accesses that come before it in the order of its cycle have been made (R101). -/
def inTurn (p : Path) (s : State) : State := takeTurn (pathRank p) s

/-- The device takes an access of path p now: it is out of RESET, no earlier access of the path is on its way (R438), and none of a
later place has been made in this cycle (R101). -/
def TakesNow (p : Path) (s : State) : Prop := mode s ≠ 0 ∧ pathFree p s ≤ s.time ∧ turnAt (pathRank p) s ≤ s.time

/-- The same, outside SLUMBER (R443). -/
def Takes (p : Path) (s : State) : Prop := TakesNow p s ∧ power (inTurn p s) ≠ 2

/-- A write of a full word to a register is accepted now: it meets none of the causes of refusal of R536. -/
def Accepts (p : Path) (a : Nat) (v : Word) (s : State) : Prop :=
  Takes p s ∧ plainReg a = true ∧ locked (inTurn p s) a v = false ∧ reserved (inTurn p s) a v = false ∧
    (a = Reg.mbxDb → (inTurn p s).log.waking = false)

/-- The register write that a command stands for on state `s`: its path, the address, and the word. A command that sets or
clears one field writes back the RW fields of the register as they are. -/
def regWrite (s : State) : Instr → Option (Path × Nat × Word)
  | .registerWrite p a .w32 v => if a.toNat % 4 = 0 ∧ a.toNat < 0x1000000 then some (p, a.toNat, wd v.toNat) else none
  | .commit p => some (p, Reg.gctlPinctl, 1)
  | .cntClr p => some (p, Reg.gctlCtl, setBit (keepWord s Reg.gctlCtl) 8 true)
  | .shedCntClr p => some (p, Reg.shedCtl, setBit (keepWord s Reg.shedCtl) 8 true)
  | .halt p e => some (p, Reg.shuDbg e, setBit (keepWord s (Reg.shuDbg e)) 0 true)
  | .resume p e => some (p, Reg.shuDbg e, setBit (keepWord s (Reg.shuDbg e)) 0 false)
  | .shuStep p e => some (p, Reg.shuDbg e, setBit (keepWord s (Reg.shuDbg e)) 1 true)
  | .shuCntClr p e => some (p, Reg.shuCtl e, setBit (keepWord s (Reg.shuCtl e)) 8 true)
  | .leaveOff p n v => some (p, Reg.chCtl n, v)
  | .enterOff p n v => some (p, Reg.chCtl n, v)
  | .start p n => some (p, Reg.chCtl n, setBit (keepWord s (Reg.chCtl n)) 16 true)
  | .rldWrite p n v => some (p, Reg.chRld n, v)
  | .compareWrite p n .a v => some (p, Reg.chCmpa n, v)
  | .compareWrite p n .b v => some (p, Reg.chCmpb n, v)
  | .fineWrite p n v => some (p, Reg.chFine n, v)
  | .stagedWrite p n .rlds v => some (p, Reg.chRlds n, v)
  | .stagedWrite p n .cmpas v => some (p, Reg.chCmpas n, v)
  | .stagedWrite p n .cmpbs v => some (p, Reg.chCmpbs n, v)
  | .stagedWrite p n .fines v => some (p, Reg.chFines n, v)
  | .filtWrite p n v => some (p, Reg.chFilt n, v)
  | .evcfgWrite p n v => some (p, Reg.chEvcfg n, v)
  | .prescWrite p h v => some (p, Reg.harnPresc h, v)
  | .chCntClr p n => some (p, Reg.chSts n, setBit (keepWord s (Reg.chSts n)) 31 true)
  | .load p h => some (p, Reg.harnLoad h, 1)
  | .loadAll p => some (p, Reg.gctlLoadall, 1)
  | .loadNow p h => some (p, Reg.harnLoadnow h, 1)
  | .tripWrite p h i v => some (p, Reg.harnTrip h i, v)
  | .tripfClear p h m => some (p, Reg.harnTripsts h, m.zeroExtend 32)
  | .harnCntClr p h => some (p, Reg.harnTripsts h, setBit (keepWord s (Reg.harnTripsts h)) 31 true)
  | .reedCntClr p k => some (p, Reg.reedCtl k, setBit (keepWord s (Reg.reedCtl k)) 8 true)
  | .crRdWrite p v => some (p, Reg.cardCrRd, v)
  | .ringConfigWrite p .base v => some (p, Reg.cardCrBase, v)
  | .ringConfigWrite p .size v => some (p, Reg.cardCrSize, v)
  | .ringConfigWrite p .mark v => some (p, Reg.cardCrMark, v)
  | .cardCntClr p => some (p, Reg.cardCtl, setBit (keepWord s Reg.cardCtl) 8 true)
  | .trackerEnable p t v => some (p, Reg.trdCtl t, v)
  | .trackerDisable p t => some (p, Reg.trdCtl t, setBit (keepWord s (Reg.trdCtl t)) 0 false)
  | .trRdWrite p t v => some (p, Reg.trdTrRd t, v)
  | .trConfigWrite p t .ctl v => some (p, Reg.trdTrCtl t, v)
  | .trConfigWrite p t .base v => some (p, Reg.trdTrBase t, v)
  | .trdCntClr p t => some (p, Reg.trdSts t, setBit (keepWord s (Reg.trdSts t)) 31 true)
  | .posEnable p i v => some (p, Reg.posCtl i, v)
  | .posDisable p i => some (p, Reg.posCtl i, setBit (keepWord s (Reg.posCtl i)) 0 false)
  | .posLoad p i => some (p, Reg.posCtl i, setBit (keepWord s (Reg.posCtl i)) 9 true)
  | .latch p i => some (p, Reg.posCtl i, setBit (keepWord s (Reg.posCtl i)) 10 true)
  | .serStart p i => some (p, Reg.posCtl i, setBit (keepWord s (Reg.posCtl i)) 8 true)
  | .posCntClr p i => some (p, Reg.posSts i, setBit (keepWord s (Reg.posSts i)) 31 true)
  | .txdata p e v => some (p, Reg.hedTxdata e, v)
  | .hedStart p e => some (p, Reg.hedCtl e, setBit (keepWord s (Reg.hedCtl e)) 0 true)
  | .hedStop p e => some (p, Reg.hedCtl e, setBit (keepWord s (Reg.hedCtl e)) 0 false)
  | .fifoClr p e => some (p, Reg.hedCtl e, setBit (keepWord s (Reg.hedCtl e)) 1 true)
  | .hedHalt p e => some (p, Reg.hedDbg e, setBit (keepWord s (Reg.hedDbg e)) 0 true)
  | .hedResume p e => some (p, Reg.hedDbg e, setBit (keepWord s (Reg.hedDbg e)) 0 false)
  | .hedStep p e => some (p, Reg.hedDbg e, setBit (keepWord s (Reg.hedDbg e)) 1 true)
  | .hedCntClr p e => some (p, Reg.hedSts e, setBit (keepWord s (Reg.hedSts e)) 31 true)
  | .comparatorEnable p c v => some (p, cmpReg c, v)
  | .comparatorDisable p c => some (p, cmpReg c, setBit (keepWord s (cmpReg c)) 0 false)
  | .threshWrite p c v => some (p, thReg c, v)
  | .rqRdWrite p v => some (p, Reg.adcRqRd, v)
  | .winCntClr p w => some (p, Reg.winSts w, setBit (keepWord s (Reg.winSts w)) 31 true)
  | .adcCntClr p => some (p, Reg.adcCtl, setBit (keepWord s Reg.adcCtl) 8 true)
  | .preservingTest p b => some (p, Reg.storeMtCtl, setBit (wd b.toNat) 16 true)
  | .destructiveTest p b => some (p, Reg.storeMtCtl, setBit (setFld (wd b.toNat) 8 2 1) 16 true)
  | .storeCntClr p => some (p, Reg.storeCtl, setBit (keepWord s Reg.storeCtl) 8 true)
  | .bobStart p b v => some (p, Reg.bobCtl b, setBit v 0 true)
  | .bobAbort p b => some (p, Reg.bobCtl b, setBit (keepWord s (Reg.bobCtl b)) 1 true)
  | .hqPtrWrite p j v => some (p, Reg.bobcHqPtr j, v)
  | .bobCntClr p b => some (p, Reg.bobSts b, setBit (keepWord s (Reg.bobSts b)) 31 true)
  | .bobcCntClr p => some (p, Reg.bobcCtl, setBit (keepWord s Reg.bobcCtl) 8 true)
  | .pendClear p j => some (p, Reg.vecSts j, setBit (keepWord s (Reg.vecSts j)) 0 true)
  | .maskClear p j => some (p, Reg.vecCtl j, setBit (keepWord s (Reg.vecCtl j)) 1 false)
  | .vecCtlWrite p j v => some (p, Reg.vecCtl j, v)
  | .evmCntClr p => some (p, Reg.evmCtl, setBit (keepWord s Reg.evmCtl) 8 true)
  | .vecCntClr p j => some (p, Reg.vecSts j, setBit (keepWord s (Reg.vecSts j)) 31 true)
  | .restore p => some (p, Reg.pwrClkctl, 1)
  | .latencyNsWrite p v => some (p, Reg.pwrLatencyNs, v)
  | .pwrCntClr p => some (p, Reg.pwrCtl, setBit (keepWord s Reg.pwrCtl) 31 true)
  | .chgCntClr p => some (p, Reg.chgCtl, setBit (keepWord s Reg.chgCtl) 8 true)
  | .selCntClr p => some (p, Reg.selCtl, setBit (keepWord s Reg.selCtl) 31 true)
  | .doorbell p i => some (p, Reg.mbxDb, wd i.val)
  | .mbxCntClr p => some (p, Reg.mbxCtl, setBit (keepWord s Reg.mbxCtl) 8 true)
  | .hostCntClr p => some (p, Reg.hostCtl, setBit (keepWord s Reg.hostCtl) 8 true)
  | .restart p => some (p, Reg.tackCtl, setBit (keepWord s Reg.tackCtl) 0 true)
  | .unlock p => some (p, Reg.tackDbgctl, setBit (keepWord s Reg.tackDbgctl) 1 true)
  | .openWrite p b => some (p, Reg.tackDbgctl, setBit (keepWord s Reg.tackDbgctl) 0 b)
  | .tackCntClr p => some (p, Reg.tackCtl, setBit (keepWord s Reg.tackCtl) 8 true)
  | .injectEnd p => some (p, Reg.gctlInj, 0x80000000)
  | .injectSingleBit p => some (p, Reg.gctlInj, 0x80000001)
  | .injectDoubleBit p => some (p, Reg.gctlInj, 0x80000002)
  | .injectShedState p => some (p, Reg.gctlInj, 0x80000003)
  | .injectResidue p => some (p, Reg.gctlInj, 0x80000004)
  | .injectSignature p => some (p, Reg.gctlInj, 0x80000005)
  | .injectCardCheck p => some (p, Reg.gctlInj, 0x80000006)
  | .injectSensedLevel p => some (p, Reg.gctlInj, 0x80000007)
  | .injectReferenceLoss p => some (p, Reg.gctlInj, 0x80000008)
  | .injectReadbackOffset p => some (p, Reg.gctlInj, 0x80000009)
  | .fltCntClr p => some (p, Reg.gctlSts, setBit (keepWord s Reg.gctlSts) 31 true)
  | _ => none

/-- The register read that a command stands for: its path and the address. -/
def regRead : Instr → Option (Path × Nat)
  | .pairLoRead p q => some (p, pairAddr q)
  | .timeLoRead p => some (p, Reg.gctlTimeLo)
  | .capRead p n => some (p, Reg.chCap n)
  | .phaseRead p t => some (p, Reg.trdPhase t)
  | .latPosRead p i => some (p, Reg.posLatPos i)
  | .rxdata p e => some (p, Reg.hedRxdata e)
  | .slotRead p k => some (p, Reg.adcSlot k)
  | _ => none

/-! ### The shuttle engines -/

/-- What an instruction needs to issue (R86, R94): the registers, with the flags among them, that it reads or writes, the slots, and
whether its context must hold no slot. -/
def shuNeeds : Instr → Option (List Nat × Nat × Bool)
  | .ill _ => some ([], 0, false)
  | .nop _ => some ([], 0, false)
  | .aluAdd _ d a b => some ([d, a, b], 0, false)
  | .aluSub _ d a b => some ([d, a, b], 0, false)
  | .aluAdc _ d a b => some ([d, a, b, flagsNo], 0, false)
  | .aluSbc _ d a b => some ([d, a, b, flagsNo], 0, false)
  | .aluAnd _ d a b => some ([d, a, b], 0, false)
  | .aluOr _ d a b => some ([d, a, b], 0, false)
  | .aluXor _ d a b => some ([d, a, b], 0, false)
  | .aluShl _ d a b => some ([d, a, b], 0, false)
  | .aluShr _ d a b => some ([d, a, b], 0, false)
  | .aluSar _ d a b => some ([d, a, b], 0, false)
  | .aluMul _ d a b => some ([d, a, b], 0, false)
  | .aluMulh _ d a b => some ([d, a, b], 0, false)
  | .aluMulhu _ d a b => some ([d, a, b], 0, false)
  | .aluDivs _ d a b => some ([d, a, b], 0, false)
  | .aluDivu _ d a b => some ([d, a, b], 0, false)
  | .aluMin _ d a b => some ([d, a, b], 0, false)
  | .aluMax _ d a b => some ([d, a, b], 0, false)
  | .cmp _ a b => some ([a, b], 0, false)
  | .addi _ d a _ => some ([d, a], 0, false)
  | .andi _ d a _ => some ([d, a], 0, false)
  | .ori _ d a _ => some ([d, a], 0, false)
  | .xori _ d a _ => some ([d, a], 0, false)
  | .shli _ d a _ => some ([d, a], 0, false)
  | .shri _ d a _ => some ([d, a], 0, false)
  | .sari _ d a _ => some ([d, a], 0, false)
  | .cmpi _ a _ => some ([a], 0, false)
  | .sel _ d a b _ => some ([d, a, b, flagsNo], 0, false)
  | .lui _ d _ => some ([d], 0, false)
  | .li _ d _ => some ([d], 0, false)
  | .padd _ d a b => some ([d, a, b], 0, false)
  | .pdif _ d a b => some ([d, a, b], 0, false)
  | .ld _ d a _ => some ([d, a], 1, false)
  | .ldh _ d a _ => some ([d, a], 1, false)
  | .ldhu _ d a _ => some ([d, a], 1, false)
  | .ldbu _ d a _ => some ([d, a], 1, false)
  | .ldd _ d a _ => some ([d, d + 1, a], 1, false)
  | .st _ a b _ => some ([a, b], 1, false)
  | .sth _ a b _ => some ([a, b], 1, false)
  | .stb _ a b _ => some ([a, b], 1, false)
  | .std _ a b _ => some ([a, b, b + 1], 1, false)
  | .ldc _ d a _ => some ([d, a], 1, false)
  | .stc _ a b _ => some ([a, b], 1, false)
  | .fence _ => some ([], 0, true)
  | .br _ _ _ => some ([flagsNo], 0, false)
  | .jmp _ _ => some ([], 0, false)
  | .jal _ d _ => some ([d], 0, false)
  | .jr _ a => some ([a], 0, false)
  | .endTask _ _ => some ([], 0, true)
  | .sig _ _ => some ([], 0, false)
  | .evr _ a _ => some ([a], 0, false)
  | .rds _ d _ => some ([d], 0, false)
  | .rdl _ d _ => some ([d], 1, false)
  | .chr _ d a _ => some ([d, a], 1, false)
  | .chw _ a b _ => some ([a, b], 0, false)
  | .edge _ a b _ => some ([a, b], 0, false)
  | .arm _ d a => some ([d, a, a + 1, a + 2, a + 3], 1, false)
  | .disarm _ d a => some ([d, a], 1, false)
  | .lerp _ d a b _ => some ([d, a, b], 2, false)
  | _ => none

/-- No register of the active context of engine e, nor its flags, has a parity error that is looked for (R114, R584). -/
def parityFine (s : State) (e : Nat) : Bool := !checkOn s || (ctx s e (active s e)).par.isEmpty

/-- The instruction `i` of engine e issues now (R88, R94): the engine may issue, `i` stands at the program counter of its active
context, the registers that it uses are available, and so are the slots it needs. -/
def Issues (e : Fin 34) (i : Instr) (s : State) : Prop :=
  match shuNeeds i with
  | some (uses, need, free) =>
    issueTime s e uses ≤ s.time ∧ mayIssue s e = true ∧ withinLimit s e = true ∧ pcPast s e = false ∧ codeBadAt s e = false ∧
      atInstr s e i uses need free = true ∧ parityFine s e = true
  | none => False

/-- The arithmetic instructions of R114 whose results a residue check covers, LERP apart. -/
def residueChecked : Instr → Bool
  | .aluAdd .. | .aluSub .. | .aluAdc .. | .aluSbc .. | .aluMul .. | .aluMulh .. | .aluMulhu .. | .aluDivs .. | .aluDivu ..
  | .cmp .. | .cmpi .. | .addi .. | .padd .. | .pdif .. => true
  | _ => false

/-- What an instruction of engine e that issues and occupies `occ` lc leaves, execution going on at `pc`: nothing outside the
engines changes, nor the other engines, the other context, or the signatures, slots, held loads, cards and effects of its own. -/
structure IssueFrame (e occ pc : Nat) (s t : State) : Prop where
  outside : t = { s with shu := t.shu }
  engines : ∀ k, k ≠ e → shuSt t k = shuSt s k
  context : ∀ y, y ≠ active s e → ctx t e y = ctx s e y
  atPc : (ctx t e (active s e)).pc = pc
  marks : (ctx t e (active s e)).sig = (ctx s e (active s e)).sig ∧ (ctx t e (active s e)).w = (ctx s e (active s e)).w ∧
    (ctx t e (active s e)).err = (ctx s e (active s e)).err
  inFlight : (ctx t e (active s e)).slots = (ctx s e (active s e)).slots ∧
    (ctx t e (active s e)).loads = (ctx s e (active s e)).loads ∧ (ctx t e (active s e)).cards = (ctx s e (active s e)).cards ∧
    (shuSt t e).eff = (shuSt s e).eff
  occupies : (shuSt t e).issueAt = s.time + occ

/-- General register `d` of the active context of engine e takes `v`, usable `lat` lc later, and the flags become `f`; every other
register stays, and g0 reads as 0 (R82, R86). -/
def Writes (e d lat : Nat) (v : Word) (f : Flags) (s t : State) : Prop :=
  (∀ r, gr t e (active s e) r = if r = d ∧ d ≠ 0 then v else gr s e (active s e) r) ∧ (ctx t e (active s e)).flags = f ∧
    ∀ r, tget 0 (ctx t e (active s e)).ready r = if r = d then s.time + lat else tget 0 (ctx s e (active s e)).ready r

/-- No general register of the active context of engine e changes, and its flags become `f`. -/
def Sets (e : Nat) (f : Flags) (s t : State) : Prop :=
  (∀ r, gr t e (active s e) r = gr s e (active s e) r) ∧ (ctx t e (active s e)).flags = f ∧
    (ctx t e (active s e)).ready = (ctx s e (active s e)).ready

/-- `v` is x + y + cin of 32 bits, and `f` its flags (R86): C the carry out of bit 31, V signed overflow. -/
def SumOf (x y : Word) (cin : Nat) (v : Word) (f : Flags) : Prop :=
  v.toNat = (x.toNat + y.toNat + cin) % 2 ^ 32 ∧ f.n = v.msb ∧ f.z = decide (v = 0) ∧
    f.c = decide (2 ^ 32 ≤ x.toNat + y.toNat + cin) ∧
    f.v = decide (x.toInt + y.toInt + cin < -2 ^ 31 ∨ 2 ^ 31 ≤ x.toInt + y.toInt + cin)

/-- `v` is x − y − borrow of 32 bits, and `f` its flags (R86): C = 1 where no borrow occurred. -/
def DifferenceOf (x y : Word) (borrow : Nat) (v : Word) (f : Flags) : Prop :=
  v = BitVec.ofInt 32 (x.toNat - y.toNat - borrow) ∧ f.n = v.msb ∧ f.z = decide (v = 0) ∧
    f.c = decide (y.toNat + borrow ≤ x.toNat) ∧
    f.v = decide (x.toInt - y.toInt - borrow < -2 ^ 31 ∨ 2 ^ 31 ≤ x.toInt - y.toInt - borrow)

/-- What an instruction of engine e leaves that issues with an access (R94): a new slot that completes `lat` lc later at the
earliest, the words `ws` in W, and execution at the next instruction; no general register, flag, other context or other
engine changes. -/
structure AccessFrame (e lat held : Nat) (acc : Access) (ws : List Word) (s t : State) : Prop where
  engines : ∀ k, k ≠ e → shuSt t k = shuSt s k
  context : ∀ y, y ≠ active s e → ctx t e y = ctx s e y
  slots : (ctx t e (active s e)).slots = (ctx s e (active s e)).slots ++ [⟨(shuSt s e).slotId, s.time + lat, held, acc⟩]
  registers : ∀ r, gr t e (active s e) r = gr s e (active s e) r
  flags : (ctx t e (active s e)).flags = (ctx s e (active s e)).flags
  atPc : (ctx t e (active s e)).pc = (ctx s e (active s e)).pc + 1
  signature : (ctx t e (active s e)).w = ws.foldl crcWord (ctx s e (active s e)).w ∧
    (ctx t e (active s e)).sig = (ctx s e (active s e)).sig

/-- What an instruction of engine e leaves that issues with an effect and no access: the words `ws` in W, and execution at
the next instruction; no general register, flag, slot, other context or other engine changes. -/
structure EffectFrame (e : Nat) (ws : List Word) (s t : State) : Prop where
  engines : ∀ k, k ≠ e → shuSt t k = shuSt s k
  context : ∀ y, y ≠ active s e → ctx t e y = ctx s e y
  slots : (ctx t e (active s e)).slots = (ctx s e (active s e)).slots
  registers : ∀ r, gr t e (active s e) r = gr s e (active s e) r
  flags : (ctx t e (active s e)).flags = (ctx s e (active s e)).flags
  atPc : (ctx t e (active s e)).pc = (ctx s e (active s e)).pc + 1
  signature : (ctx t e (active s e)).w = ws.foldl crcWord (ctx s e (active s e)).w ∧
    (ctx t e (active s e)).sig = (ctx s e (active s e)).sig

/-- The little-endian number of the `n` bytes of the stores from an address (R12). -/
def loaded (s : State) (p n : Nat) : Nat := leNat ((upto p n).map (mget s.mem))

/-- The access of a load or store: its address register and immediate, its size in bytes, and whether it stores. -/
def shuAccess : Instr → Option (Fin 16 × BitVec 14 × Nat × Bool)
  | .ld _ _ a imm => some (a, imm, 4, false)
  | .ldh _ _ a imm => some (a, imm, 2, false)
  | .ldhu _ _ a imm => some (a, imm, 2, false)
  | .ldbu _ _ a imm => some (a, imm, 1, false)
  | .ldd _ d a imm => if d.val % 2 = 0 then some (a, imm, 8, false) else none
  | .st _ a _ imm => some (a, imm, 4, true)
  | .sth _ a _ imm => some (a, imm, 2, true)
  | .stb _ a _ imm => some (a, imm, 1, true)
  | .std _ a b imm => if b.val % 2 = 0 then some (a, imm, 8, true) else none
  | _ => none

/-- No edge stands first among the effects of engine e: edges arrive in the cycle in which they come to stand there (R101). -/
def noEdgeFirst (s : State) (e : Nat) : Bool :=
  match (shuSt s e).eff with
  | (_, .edge _ _ _ _) :: _ => false
  | _ => true

/-! ### The card chain -/

/-- Action `a` is the one that the chain dispatches next, as `h` says, and the cycle has room for it (R222). -/
def ActsNext (a : Act) (h : How) (s : State) : Prop :=
  (firstAction s).map (fun x => (x.act, x.how)) = some (a, h) ∧ h.t.lc ≤ s.time ∧ dispatched s < 16

/-- The card of slot n, whose action is `k`, fires now as `h` says: it is due, the chain comes to it next, and the cycle has room for
it (R220 to R222). -/
def Fires (k n : Nat) (h : How) (s : State) : Prop :=
  cAct (cw0 s n) = k ∧ cardDue s n = .at_ h ∧ ActsNext (.card n) h s

/-- Slot n holds a plain card that fires now as `h` says, its store without error marks: no chained copy, and no tracker in LIMP that
keeps it from firing. -/
def FiresPlain (k n : Nat) (h : How) (s : State) : Prop :=
  Fires k n h s ∧ s.store.marks = [] ∧ cChain (cw0 s n) = false ∧ limpSkips s n = false

/-- No action on the output of channel c has been taken at instant `t` yet (R223): the first of its fine step. -/
def firstOfStep (c : Nat) (t : Inst) (s : State) : Bool :=
  (s.chain.fine.find? fun e => e.1 == c).all fun x => decide (x.2.t ≠ t)

/-- Completion records, where they are written, lie outside the card store (R242), and the memory is in canonical form. -/
def RecordsApart (s : State) : Prop := Memory.wf s.mem = true ∧ (rb s Reg.cardCtl 0 = true → 0x1A00000 ≤ rn s Reg.cardCrBase)

/-- The state in which the card of slot n acts: its action counts, its store has been read, and a late action is noted (R222, R237). -/
def acting (n : Nat) (h : How) (s : State) : State := noteLate h (readCard n (dispatchOne s)).2

/-! ### The heddle engines -/

/-- Heddle engine e executes the instruction of opcode `op` with fields `f` now: its tick has come, it may execute, and the word at
its PC is that instruction and without error (R313, R326, R331). -/
def HedExecutes (e : Fin 64) (op : Nat) (f : BitVec 12) (s : State) : Prop :=
  hedTickAt s e = s.time ∧ hedMayExec s e = true ∧ hedAt s e op f = true ∧ hedBadWord s e = false

/-- A heddle instruction of engine e is complete and execution goes on at `pc`: the engine runs, or is halted again after a STEP;
the other engines and the stores stay. -/
structure HedFrame (e pc : Nat) (s t : State) : Prop where
  atPc : hedPc t e = pc % 32
  state : hedState t e = if rb s (Reg.hedDbg e) 8 then 3 else 1
  engines : ∀ k, k ≠ e → hedSt t k = hedSt s k
  mem : t.mem = s.mem

/-- An outcome that is a next state with `Inv`, or no next state. -/
def InvR (f : FuseSt) (q : List Instr) (r : Result) : Prop :=
  match r with
  | .next t => Inv f q t
  | _ => True

end Sys2Proof.Machine
end

