-- ==== Sys2Proof/Certificates/Slice0/Obligations.lean ====
section
/-!
DEFINITION. The statements for the provers: what the commands of each family do, when each takes place, and what every step
keeps.
-/

open Sys2Proof Sys2Proof.Machine

/-- A step takes the command at the front of the queue and runs it on the state with the rest of the queue. The queue is
the form of the model (log entry 16). -/
def Obligations.FrontCommandRuns : Prop :=
  ∀ (c : Instr) (rest : List Instr) (s : State), step { s with pending := c :: rest } = exec c { s with pending := rest }

/-- With no command waiting and nothing due, one loom cycle passes (R16). That an empty queue idles by one cycle is the
choice of the model (log entry 16). -/
def Obligations.EmptyQueuePassesOneCycle : Prop :=
  ∀ s : State, s.pending = [] → running s = true → s.timed = [] → resetNext s = none → s.sel.hold = 0 → s.sel.skip = 0 → Quiet s →
    ∃ t, step s = .next t ∧ t.time = s.time + 1 ∧ t.mem = s.mem ∧ t.pending = []

/-- The reset values of GCTL.MODE (R38), GCTL.CTL (R40) and SHED.PICKLEN (R76), device time 0 and empty queues. That the
stores list nothing is the choice of the model (log entry 4). -/
def Obligations.ResetState : Prop :=
  State.reset.time = 0 ∧ mode State.reset = 0 ∧ power State.reset = 0 ∧ rget State.reset Reg.gctlCtl = 3 ∧
    rget State.reset Reg.shedPicklen = 400 ∧ rget State.reset Reg.gctlRsvCnt = 0 ∧ rget State.reset Reg.gctlHoleCnt = 0 ∧
    State.reset.mem = [] ∧ State.reset.ev.wires = [] ∧ State.reset.pending = []

/-- No command ends in a fault or a refusal. This says that nothing stops, not that every command has its effect: the
statements of the families say when it has. -/
def Obligations.EveryCommandAnswersANextState : Prop :=
  ∀ (c : Instr) (s : State), ∃ t, exec c s = .next t

/-- An invariant of every step: the stores and the flash stay in canonical form, so that equal memories are equal data,
and no effect touches the commands that wait. -/
def Obligations.StepKeepsMemoriesCanonical : Prop :=
  ∀ s t : State, Memory.wf s.mem = true → Flash.wf s.flash.bytes = true → step s = .next t →
    Memory.wf t.mem = true ∧ Flash.wf t.flash.bytes = true ∧ t.pending = s.pending.tail

/-- No fuse can be unblown (R465), by any command, a device reset among them. -/
def Obligations.NoFuseIsUnblown : Prop :=
  ∀ s t : State, Memory.wf s.mem = true → Flash.wf s.flash.bytes = true → step s = .next t → s.fuse.le t.fuse

/-- The stores and the flash of the state at reset are in canonical form. -/
def Obligations.ResetMeetsTheInvariants : Prop :=
  Memory.wf State.reset.mem = true ∧ Flash.wf State.reset.flash.bytes = true

/-- Every shuttle instruction, at every value of its operands, decodes from its word for its engine; and the instruction
of every word, for every engine, has a word that decodes to the same instruction. -/
def Obligations.ShuttleWordsRoundTrip : Prop :=
  (∀ (i : Instr) (w : Nat), shuEncode i = some w → w < 2 ^ 32 ∧ ∃ e, shuDecode e (BitVec.ofNat 32 w) = i) ∧
  (∀ (e : Fin 34) (w : BitVec 32), ∃ n, shuEncode (shuDecode e w) = some n ∧ shuDecode e (BitVec.ofNat 32 n) = shuDecode e w)

/-- Every heddle instruction, at every value of its fields, decodes from its word for its engine; and a word of opcode 1
to 10 is the word of the instruction that it decodes to. -/
def Obligations.HeddleWordsRoundTrip : Prop :=
  (∀ (i : Instr) (w : Nat), hedEncode i = some w → w < 2 ^ 16 ∧ ∃ e, hedDecode e (BitVec.ofNat 16 w) = i) ∧
  (∀ (e : Fin 64) (w : BitVec 16), 1 ≤ w.toNat % 16 ∧ w.toNat % 16 ≤ 10 → hedEncode (hedDecode e w) = some w.toNat)

/-- The canonical NOP, a word of each form of R85, an erased word and a heddle word of each kind decode to the instruction
that the encoding tables give. -/
def Obligations.SampleWordsDecode : Prop :=
  shuDecode 0 0x04000000#32 = .nop 0 ∧ shuDecode 3 0x00000000#32 = .ill 3 ∧ shuDecode 1 0x08508000#32 = .aluAdd 1 1 4 2 ∧
  shuDecode 2 0x50D03FFF#32 = .addi 2 3 4 0x3FFF ∧ shuDecode 2 0x98088010#32 = .st 2 2 2 0x10 ∧
  shuDecode 5 0xB4400005#32 = .br 5 1 5 ∧ shuDecode 4 0x7BC00007#32 = .li 4 15 7 ∧ shuDecode 0 0xF0000000#32 = .ill 0 ∧
  hedDecode 7 0x0001#16 = .hedJmp 7 0 ∧ hedDecode 7 0xABC3#16 = .hedOut 7 0xABC ∧ hedDecode 7 0x000B#16 = .hedInvalidOpcode 7

/-- What the other statements call settle acts on detections (R597) and on a pending changeover whose tracker is lost
(R478), and on nothing else. -/
def Obligations.NothingLeftToSettle : Prop :=
  ∀ s : State, s.flt.det = [] → stageState s ≠ 4 → settle s = s

/-- REGISTER_WRITE of a register, COMMIT, the CNT_CLR commands, HALT, RESUME and STEP, the channel, harness, reed, card,
tracker, position, heddle, window, converter, store, bobbin, vector, power, mailbox, host, tackler and fault register
commands: an accepted write has its effect. -/
def Obligations.RegisterCommandsLand : Prop :=
  ∀ (c : Instr) (s : State) (p : Path) (a : Nat) (v : Word), regWrite s c = some (p, a, v) → Accepts p a v s →
    exec c s = .next (settle (applyWrite a v (inTurn p s)))

/-- PAIR_LO_READ, TIME_LO_READ, CAP_READ, PHASE_READ, LAT_POS_READ, RXDATA and SLOT_READ return the word of their register
and have the side effect of the read in the cycle in which it samples. -/
def Obligations.RegisterReadsAnswer : Prop :=
  ∀ (c : Instr) (s : State) (p : Path) (a : Nat), regRead c = some (p, a) → Takes p s →
    live (inTurn p s) = true → readableReg a = true →
    exec c s = .next (settle { (sideRead a (inTurn p s)).2 with rdata := [(sideRead a (inTurn p s)).1] })

/-- For each command named, an accepted CNT_CLR leaves in each counter of its block what it has counted in the cycle of
the clear, saturating, and so 0 where nothing was counted in it. Here: GCTL, SHED, SHU, CH, HARN, REED, CARD, TRD,
POS, HED, WIN and ADC. -/
def Obligations.CounterClearsOfTheLoom : Prop :=
  (∀ (p : Path) s, Accepts p (Reg.gctlCtl) (setBit (keepWord s (Reg.gctlCtl)) 8 true) s →
    ∃ u, exec (.cntClr p) s = .next (settle u) ∧ ∀ a ∈ [Reg.gctlRsvCnt, Reg.gctlHoleCnt],
      rget u a = wd (min 0xFFFFFFFF (countNow (inTurn p s) a))) ∧
  (∀ (p : Path) s, Accepts p (Reg.shedCtl) (setBit (keepWord s (Reg.shedCtl)) 8 true) s →
    ∃ u, exec (.shedCntClr p) s = .next (settle u) ∧ ∀ a ∈ [Reg.shedMergeCnt, Reg.shedExpMergeCnt, Reg.shedAlignCnt, Reg.shedDescErr],
      rget u a = wd (min 0xFFFFFFFF (countNow (inTurn p s) a))) ∧
  (∀ (p : Path) (e : Fin 34) s, Accepts p (Reg.shedCtl) (setBit (keepWord s (Reg.shedCtl)) 8 true) s →
    ∃ u, exec (.shedCntClr p) s = .next (settle u) ∧ ∀ a ∈ [Reg.engOvrCnt e, Reg.engSkipCnt e, Reg.engExpLat e],
      rget u a = wd (min 0xFFFFFFFF (countNow (inTurn p s) a))) ∧
  (∀ (p : Path) (e : Fin 34) s, Accepts p (Reg.shuCtl e) (setBit (keepWord s (Reg.shuCtl e)) 8 true) s →
    ∃ u, exec (.shuCntClr p e) s = .next (settle u) ∧ ∀ a ∈ [Reg.shuReexecCnt e, Reg.shuEndfailCnt e, Reg.shuDropCnt e],
      rget u a = wd (min 0xFFFFFFFF (countNow (inTurn p s) a))) ∧
  (∀ (p : Path) (n : Fin 512) s, Accepts p (Reg.chSts n) (setBit (keepWord s (Reg.chSts n)) 31 true) s →
    ∃ u, exec (.chCntClr p n) s = .next (settle u) ∧ ∀ a ∈ [Reg.chGlitchCnt n, Reg.chOvrCnt n],
      rget u a = wd (min 0xFFFFFFFF (countNow (inTurn p s) a))) ∧
  (∀ (p : Path) (h : Fin 64) s, Accepts p (Reg.harnTripsts h) (setBit (keepWord s (Reg.harnTripsts h)) 31 true) s →
    ∃ u, exec (.harnCntClr p h) s = .next (settle u) ∧ ∀ a ∈ [Reg.harnSuppCnt h],
      rget u a = wd (min 0xFFFFFFFF (countNow (inTurn p s) a))) ∧
  (∀ (p : Path) (k : Fin 256) s, Accepts p (Reg.reedCtl k) (setBit (keepWord s (Reg.reedCtl k)) 8 true) s →
    ∃ u, exec (.reedCntClr p k) s = .next (settle u) ∧ ∀ a ∈ [Reg.reedCutCnt k, Reg.reedBlnkCnt k, Reg.reedSwlCnt k],
      rget u a = wd (min 0xFFFFFFFF (countNow (inTurn p s) a))) ∧
  (∀ (p : Path) s, Accepts p (Reg.cardCtl) (setBit (keepWord s (Reg.cardCtl)) 8 true) s →
    ∃ u, exec (.cardCntClr p) s = .next (settle u) ∧ ∀ a ∈ [Reg.cardLateCnt, Reg.cardPastCnt, Reg.cardLimpSkipCnt, Reg.cardSyncDisarmCnt, Reg.cardSafeEndCnt, Reg.cardRecLostCnt, Reg.cardNearFullCnt, Reg.cardRefuseCnt, Reg.cardErrCnt],
      rget u a = wd (min 0xFFFFFFFF (countNow (inTurn p s) a))) ∧
  (∀ (p : Path) (t : Fin 4) s, Accepts p (Reg.trdSts t) (setBit (keepWord s (Reg.trdSts t)) 31 true) s →
    ∃ u, exec (.trdCntClr p t) s = .next (settle u) ∧ ∀ a ∈ [Reg.trdLossCnt t, Reg.trdAnomCnt t, Reg.trdStallCnt t, Reg.trdLimpCnt t, Reg.trdJumpCnt t, Reg.trdRevCnt t, Reg.trdTrLostCnt t],
      rget u a = wd (min 0xFFFFFFFF (countNow (inTurn p s) a))) ∧
  (∀ (p : Path) (i : Fin 16) s, Accepts p (Reg.posSts i) (setBit (keepWord s (Reg.posSts i)) 31 true) s →
    ∃ u, exec (.posCntClr p i) s = .next (settle u) ∧ ∀ a ∈ [Reg.posQerrCnt i, Reg.posSerErrCnt i, Reg.posIdxErrCnt i, Reg.posLimCnt i, Reg.posGlitchCnt i, Reg.posLatOvrCnt i, Reg.posWordCnt i, Reg.posSkipCnt i],
      rget u a = wd (min 0xFFFFFFFF (countNow (inTurn p s) a))) ∧
  (∀ (p : Path) (e : Fin 64) s, Accepts p (Reg.hedSts e) (setBit (keepWord s (Reg.hedSts e)) 31 true) s →
    ∃ u, exec (.hedCntClr p e) s = .next (settle u) ∧ ∀ a ∈ [Reg.hedTxufCnt e, Reg.hedRxofCnt e, Reg.hedForcedCnt e],
      rget u a = wd (min 0xFFFFFFFF (countNow (inTurn p s) a))) ∧
  (∀ (p : Path) (w : Fin 32) s, Accepts p (Reg.winSts w) (setBit (keepWord s (Reg.winSts w)) 31 true) s →
    ∃ u, exec (.winCntClr p w) s = .next (settle u) ∧ ∀ a ∈ [Reg.winExitCnt w],
      rget u a = wd (min 0xFFFFFFFF (countNow (inTurn p s) a))) ∧
  (∀ (p : Path) s, Accepts p (Reg.adcCtl) (setBit (keepWord s (Reg.adcCtl)) 8 true) s →
    ∃ u, exec (.adcCntClr p) s = .next (settle u) ∧ ∀ a ∈ [Reg.adcMergeCnt, Reg.adcLostCnt, Reg.adcDacerrCnt, Reg.adcConvCnt],
      rget u a = wd (min 0xFFFFFFFF (countNow (inTurn p s) a)))

/-- For each command named, an accepted CNT_CLR leaves in each counter of its block what it has counted in the cycle of
the clear, saturating, and so 0 where nothing was counted in it. Here: STORE, BOB, BOBC, EVM, VEC, PWR, CHG, SEL, MBX,
HOST, TACK and FLT. -/
def Obligations.CounterClearsOfTheOuterBlocks : Prop :=
  (∀ (p : Path) s, Accepts p (Reg.storeCtl) (setBit (keepWord s (Reg.storeCtl)) 8 true) s →
    ∃ u, exec (.storeCntClr p) s = .next (settle u) ∧ ∀ a ∈ [Reg.storeCeCnt, Reg.storeUeCnt, Reg.storeScrubPass, Reg.storeMtCnt],
      rget u a = wd (min 0xFFFFFFFF (countNow (inTurn p s) a))) ∧
  (∀ (p : Path) (b : Fin 32) s, Accepts p (Reg.bobSts b) (setBit (keepWord s (Reg.bobSts b)) 31 true) s →
    ∃ u, exec (.bobCntClr p b) s = .next (settle u) ∧ ∀ a ∈ [Reg.bobXferCnt b],
      rget u a = wd (min 0xFFFFFFFF (countNow (inTurn p s) a))) ∧
  (∀ (p : Path) s, Accepts p (Reg.bobcCtl) (setBit (keepWord s (Reg.bobcCtl)) 8 true) s →
    ∃ u, exec (.bobcCntClr p) s = .next (settle u) ∧ ∀ a ∈ [Reg.bobcLinkdropCnt],
      rget u a = wd (min 0xFFFFFFFF (countNow (inTurn p s) a))) ∧
  (∀ (p : Path) s, Accepts p (Reg.evmCtl) (setBit (keepWord s (Reg.evmCtl)) 8 true) s →
    ∃ u, exec (.evmCntClr p) s = .next (settle u) ∧ ∀ a ∈ [Reg.evmMergeCnt, Reg.evmRedoCnt, Reg.evmDiscCnt],
      rget u a = wd (min 0xFFFFFFFF (countNow (inTurn p s) a))) ∧
  (∀ (p : Path) (j : Fin 64) s, Accepts p (Reg.vecSts j) (setBit (keepWord s (Reg.vecSts j)) 31 true) s →
    ∃ u, exec (.vecCntClr p j) s = .next (settle u) ∧ ∀ a ∈ [Reg.vecDelivCnt j],
      rget u a = wd (min 0xFFFFFFFF (countNow (inTurn p s) a))) ∧
  (∀ (p : Path) s, Accepts p (Reg.pwrCtl) (setBit (keepWord s (Reg.pwrCtl)) 31 true) s →
    ∃ u, exec (.pwrCntClr p) s = .next (settle u) ∧ ∀ a ∈ [Reg.pwrDozeRes, Reg.pwrSlumberRes],
      rget u a = wd (min 0xFFFFFFFF (countNow (resSync (inTurn p s)) a))) ∧
  (∀ (p : Path) s, Accepts p (Reg.chgCtl) (setBit (keepWord s (Reg.chgCtl)) 8 true) s →
    ∃ u, exec (.chgCntClr p) s = .next (settle u) ∧ ∀ a ∈ [Reg.chgForcedCnt, Reg.chgChgCnt, Reg.chgAbortCnt],
      rget u a = wd (min 0xFFFFFFFF (countNow (inTurn p s) a))) ∧
  (∀ (p : Path) s, Accepts p (Reg.selCtl) (setBit (keepWord s (Reg.selCtl)) 31 true) s →
    ∃ u, exec (.selCntClr p) s = .next (settle u) ∧ ∀ a ∈ [Reg.selCvCnt, Reg.selCrcCnt, Reg.selPoisonCnt, Reg.selLostCnt, Reg.selProtCnt, Reg.selLinkdnCnt, Reg.selStepCnt, Reg.selLcoAbortCnt],
      rget u a = wd (min 0xFFFFFFFF (countNow (inTurn p s) a))) ∧
  (∀ (p : Path) s, Accepts p (Reg.mbxCtl) (setBit (keepWord s (Reg.mbxCtl)) 8 true) s →
    ∃ u, exec (.mbxCntClr p) s = .next (settle u) ∧ ∀ a ∈ [Reg.mbxCmdCnt, Reg.mbxRejCnt, Reg.mbxErrCnt],
      rget u a = wd (min 0xFFFFFFFF (countNow (inTurn p s) a))) ∧
  (∀ (p : Path) s, Accepts p (Reg.hostCtl) (setBit (keepWord s (Reg.hostCtl)) 8 true) s →
    ∃ u, exec (.hostCntClr p) s = .next (settle u) ∧ ∀ a ∈ [Reg.hostLockCnt, Reg.hostLinkrstCnt, Reg.hostDropCnt, Reg.hostUrCnt, Reg.hostMalfCnt, Reg.hostSpiCrcCnt, Reg.hostSpiErrCnt],
      rget u a = wd (min 0xFFFFFFFF (countNow (inTurn p s) a))) ∧
  (∀ (p : Path) s, Accepts p (Reg.tackCtl) (setBit (keepWord s (Reg.tackCtl)) 8 true) s →
    ∃ u, exec (.tackCntClr p) s = .next (settle u) ∧ ∀ a ∈ [Reg.tackRestartCnt, Reg.tackLogLostCnt, Reg.tackFlashErrCnt],
      rget u a = wd (min 0xFFFFFFFF (countNow (inTurn p s) a))) ∧
  (∀ (p : Path) s, Accepts p (Reg.gctlSts) (setBit (keepWord s (Reg.gctlSts)) 31 true) s →
    ∃ u, exec (.fltCntClr p) s = .next (settle u) ∧ ∀ a ∈ [Reg.gctlLsCnt, Reg.gctlChkCnt, Reg.gctlMismCnt, Reg.gctlEmptyCnt, Reg.gctlSubstCnt, Reg.gctlRbCnt],
      rget u a = wd (min 0xFFFFFFFF (countNow (inTurn p s) a)))

/-- For every register pair: a read of the low word returns it and captures the high word, which reads of the high word
return until the next read of the low word; a write of the low word is held and changes nothing else; a write of the
high word makes both take effect. PAIR_LO_WRITE and PAIR_HI_WRITE do so when the write is not refused. -/
def Obligations.RegisterPairs : Prop :=
  (∀ (a : Nat) (s t : State), isPairLo a = true → (sideRead a s).1 = regView s a ∧
    (t.pairHi = (sideRead a s).2.pairHi → (sideRead (a + 4) t).1 = regView s (a + 4))) ∧
  (∀ (a : Nat) (v : Word) (s : State), isPairLo a = true → ∃ h, pairWrite a v s = { s with pairLo := h } ∧
    ∀ (w : Word) (t : State), t.pairLo = h → pairWrite (a + 4) w t = applyWrite (a + 4) w (applyWrite a v t)) ∧
  (∀ (p : Path) (q : RegPair) (v : Word) (s : State), Takes p s → locked (inTurn p s) (pairAddr q) v = false →
    reserved (inTurn p s) (pairAddr q) v = false →
    exec (.pairLoWrite p q v) s = .next (settle (pairWrite (pairAddr q) v (inTurn p s)))) ∧
  (∀ (p : Path) (q : RegPair) (v : Word) (s : State), Takes p s → locked (inTurn p s) (pairAddr q + 4) v = false →
    reserved (inTurn p s) (pairAddr q + 4) v = false →
    exec (.pairHiWrite p q v) s = .next (settle (pairWrite (pairAddr q + 4) v (inTurn p s))))

/-- An aligned write of 8, 16, 32 or 64 bits to a store that holds no error mark, when it is not refused, port B of its
bank is free, port A does not hold its words closed (R373) and no shuttle has written to the stores in this cycle,
answers a next state in which the bytes written read as the little-endian bytes of the value, every other byte reads
as before, and no register changes. -/
def Obligations.StoreWritesTheirBytes : Prop :=
  ∀ (p : Path) (a : BitVec 32) (w : Width) (v : BitVec 64) (s : State), Takes p s → Quiet (inTurn p s) →
    Memory.wf (inTurn p s).mem = true → inStore a.toNat = true → a.toNat % widthBytes w = 0 →
    locked (inTurn p s) a.toNat 0 = false → (inTurn p s).store.marks = [] → portFree (bankOf a.toNat) (inTurn p s) = true →
    (wordsOf a.toNat (widthBytes w)).all (fun x => !wordClosed .host x (inTurn p s)) = true →
    (cycNow (inTurn p s)).byA = [] →
    ∃ t, exec (.registerWrite p a w v) s = .next t ∧ t.regs = (inTurn p s).regs ∧
      (∀ i, i < widthBytes w → mget t.mem (a.toNat + i) = BitVec.ofNat 8 (v.toNat / 256 ^ i)) ∧
      (∀ c, c < a.toNat ∨ a.toNat + widthBytes w ≤ c → mget t.mem c = mget (inTurn p s).mem c)

/-- A write that the device takes to an aligned address outside the stores is refused under the first cause that applies:
at a hole as a hole, then a narrow register write as a locked one, then a locked register, then a reserved encoding.
Each refusal counts in its own counter alone. -/
def Obligations.RefusedOnceInOrder : Prop :=
  (∀ (p : Path) (a : BitVec 32) (v : BitVec 64) (s : State), Takes p s → a.toNat % 4 = 0 → a.toNat < 0x4000000 →
    inStore a.toNat = false →
    (∀ w, w = Width.w8 ∨ w = Width.w16 → exec (.registerWrite p a w v) s =
      .next (settle (if isHole a.toNat then holeDrop p (inTurn p s) else lockDrop p a.toNat (wd v.toNat) (inTurn p s)))) ∧
    (isHole a.toNat = true → exec (.registerWrite p a .w32 v) s = .next (settle (holeDrop p (inTurn p s)))) ∧
    (isHole a.toNat = false → locked (inTurn p s) a.toNat (wd v.toNat) = true →
      exec (.registerWrite p a .w32 v) s = .next (settle (lockDrop p a.toNat (wd v.toNat) (inTurn p s)))) ∧
    (isHole a.toNat = false → locked (inTurn p s) a.toNat (wd v.toNat) = false → inTaskWin a.toNat = false → inCodeWin a.toNat = false →
      reserved (inTurn p s) a.toNat (wd v.toNat) = true → exec (.registerWrite p a .w32 v) s = .next (settle (rsvDrop p (inTurn p s))))) ∧
  (∀ (p : Path) (a : Nat) (v : Word) (s : State),
    (rget (holeDrop p s) Reg.gctlHoleCnt = satInc (rget s Reg.gctlHoleCnt) ∧
      rget (holeDrop p s) Reg.hostLockCnt = rget s Reg.hostLockCnt ∧ rget (holeDrop p s) Reg.gctlRsvCnt = rget s Reg.gctlRsvCnt) ∧
    (rget (lockDrop p a v s) Reg.hostLockCnt = satInc (rget s Reg.hostLockCnt) ∧
      rget (lockDrop p a v s) Reg.gctlHoleCnt = rget s Reg.gctlHoleCnt ∧
      rget (lockDrop p a v s) Reg.gctlRsvCnt = rget s Reg.gctlRsvCnt) ∧
    (rget (rsvDrop p s) Reg.gctlRsvCnt = satInc (rget s Reg.gctlRsvCnt) ∧
      rget (rsvDrop p s) Reg.gctlHoleCnt = rget s Reg.gctlHoleCnt ∧ rget (rsvDrop p s) Reg.hostLockCnt = rget s Reg.hostLockCnt))

/-- Outside SLUMBER a read of a hole returns 0 and changes nothing; a write to a hole is discarded, HOLE_CNT increments
and source 2,881 is raised, and no other state changes but what the raise and the note of the path do. In a mode from
IDLE on, a reserved offset of a listed range reads 0, ignores what is written to it and is not counted. -/
def Obligations.HolesAreEmpty : Prop :=
  (∀ (p : Path) (a : Nat) (s : State), power s ≠ 2 → isHole a = true → readDw p a s = (0, s)) ∧
  (∀ (p : Path) (a : Nat) (v : Word) (s : State), power s ≠ 2 → isHole a = true →
    writeReg p a v s = dropNote p (raise 2881 (count Reg.gctlHoleCnt s)) ∧
    rget (writeReg p a v s) Reg.gctlHoleCnt = satInc (rget s Reg.gctlHoleCnt) ∧ (writeReg p a v s).mem = s.mem) ∧
  (∀ (p : Path) (a : Nat) (v : Word) (s : State), power s ≠ 2 → live s = true → isHole a = false → inStore a = false →
    reservedOffset a = true → isPairLo a = false → isPairHi a = false →
    readDw p a s = (0, s) ∧ writeReg p a v s = s)

/-- A write that the device takes to a register, neither locked nor in a window, that places a reserved encoding leaves
every register outside the source table, the shed and LEV_OUT of the link but RSV_CNT as it was, the register written
among them, increments RSV_CNT and raises source 2,880. A channel MODE of 11 to 15 is such an encoding. -/
def Obligations.ReservedEncodingsAreDiscarded : Prop :=
  (∀ (p : Path) (a : Nat) (v : Word) (s : State), power s ≠ 2 → isHole a = false → locked s a v = false →
    inTaskWin a = false → inCodeWin a = false → reserved s a v = true →
    writeReg p a v s = dropNote p (raise 2880 (count Reg.gctlRsvCnt s)) ∧
    rget (writeReg p a v s) Reg.gctlRsvCnt = satInc (rget s Reg.gctlRsvCnt) ∧
    (∀ b, ¬ RaiseReg b → b ≠ Reg.gctlRsvCnt → rget (writeReg p a v s) b = rget s b)) ∧
  (∀ (n : Fin 512) (v : Word) (s : State), 11 ≤ fld v 0 4 → reserved s (Reg.chCtl n) v = true)

/-- A write to a locked register leaves every register as it was but HOST.LOCK_CNT, LOCK_ADDR, HOST.STS and what a raise
and the log write; LOCK_CNT increments, LOCK_ADDR holds the address and the path, and LOCKF is set. -/
def Obligations.LockedWritesAreDropped : Prop :=
  ∀ (p : Path) (a : Nat) (v : Word) (s : State), power s ≠ 2 → isHole a = false → locked s a v = true →
    writeReg p a v s = lockDrop p a v s ∧
    rget (lockDrop p a v s) Reg.hostLockCnt = satInc (rget s Reg.hostLockCnt) ∧
    rget (lockDrop p a v s) Reg.hostLockAddr = wd (a % 2 ^ 26 + 2 ^ 28 * pathCode p) ∧
    rb (lockDrop p a v s) Reg.hostSts 16 = true ∧ (lockDrop p a v s).mem = s.mem ∧
    (∀ b, ¬ RaiseReg b → b < 0x1C2000 → rget (lockDrop p a v s) b = rget s b)

/-- Each, when it issues, writes the sum or difference of its operands to its destination one lc later, sets N, Z, C and V
by it, goes on with the next instruction, and leaves all else. An injected residue error of the normal context is the
subject of ShuttleTaskFaults. -/
def Obligations.ShuttleSums : Prop :=
  (∀ (e : Fin 34) (d a b : Fin 16) (s : State), let x := gr s e (active s e) a; let y := gr s e (active s e) b; Issues e (.aluAdd e d a b) s → Quiet s → active s e = .express ∨ s.flt.injRes ≠ some e.val → ∃ t, exec (.aluAdd e d a b) s = .next t ∧
      IssueFrame e 1 ((ctx s e (active s e)).pc + 1) s t ∧ ∃ v g, SumOf x y 0 v g ∧ Writes e d 1 v g s t) ∧
  (∀ (e : Fin 34) (d a b : Fin 16) (s : State), let x := gr s e (active s e) a; let y := gr s e (active s e) b; Issues e (.aluSub e d a b) s → Quiet s → active s e = .express ∨ s.flt.injRes ≠ some e.val → ∃ t, exec (.aluSub e d a b) s = .next t ∧
      IssueFrame e 1 ((ctx s e (active s e)).pc + 1) s t ∧ ∃ v g, DifferenceOf x y 0 v g ∧ Writes e d 1 v g s t) ∧
  (∀ (e : Fin 34) (d a b : Fin 16) (s : State), let x := gr s e (active s e) a; let y := gr s e (active s e) b; let f := (ctx s e (active s e)).flags
    Issues e (.aluAdc e d a b) s → Quiet s → active s e = .express ∨ s.flt.injRes ≠ some e.val → ∃ t, exec (.aluAdc e d a b) s = .next t ∧
      IssueFrame e 1 ((ctx s e (active s e)).pc + 1) s t ∧ ∃ v g, SumOf x y (if f.c then 1 else 0) v g ∧ Writes e d 1 v g s t) ∧
  (∀ (e : Fin 34) (d a b : Fin 16) (s : State), let x := gr s e (active s e) a; let y := gr s e (active s e) b; let f := (ctx s e (active s e)).flags
    Issues e (.aluSbc e d a b) s → Quiet s → active s e = .express ∨ s.flt.injRes ≠ some e.val → ∃ t, exec (.aluSbc e d a b) s = .next t ∧
      IssueFrame e 1 ((ctx s e (active s e)).pc + 1) s t ∧ ∃ v g, DifferenceOf x y (if f.c then 0 else 1) v g ∧ Writes e d 1 v g s t) ∧
  (∀ (e : Fin 34) (d a : Fin 16) (imm : BitVec 14) (s : State), let x := gr s e (active s e) a; Issues e (.addi e d a imm) s → Quiet s → active s e = .express ∨ s.flt.injRes ≠ some e.val → ∃ t, exec (.addi e d a imm) s = .next t ∧
      IssueFrame e 1 ((ctx s e (active s e)).pc + 1) s t ∧ ∃ v g, SumOf x (imm.signExtend 32) 0 v g ∧ Writes e d 1 v g s t)

/-- Each, when it issues, writes its result to its destination one lc later; the logic instructions set N and Z by it, the
others leave the flags; SEL takes its first operand where its condition holds; NOP changes no register; all else
stays. -/
def Obligations.ShuttleLogic : Prop :=
  (∀ (e : Fin 34) (d a b : Fin 16) (s : State), let x := gr s e (active s e) a; let y := gr s e (active s e) b; let f := (ctx s e (active s e)).flags
    Issues e (.aluAnd e d a b) s → Quiet s → ∃ t, exec (.aluAnd e d a b) s = .next t ∧
      IssueFrame e 1 ((ctx s e (active s e)).pc + 1) s t ∧ Writes e d 1 (x &&& y) ({ f with n := (x &&& y).msb, z := decide (x &&& y = 0) }) s t) ∧
  (∀ (e : Fin 34) (d a b : Fin 16) (s : State), let x := gr s e (active s e) a; let y := gr s e (active s e) b; let f := (ctx s e (active s e)).flags
    Issues e (.aluOr e d a b) s → Quiet s → ∃ t, exec (.aluOr e d a b) s = .next t ∧
      IssueFrame e 1 ((ctx s e (active s e)).pc + 1) s t ∧ Writes e d 1 (x ||| y) ({ f with n := (x ||| y).msb, z := decide (x ||| y = 0) }) s t) ∧
  (∀ (e : Fin 34) (d a b : Fin 16) (s : State), let x := gr s e (active s e) a; let y := gr s e (active s e) b; let f := (ctx s e (active s e)).flags
    Issues e (.aluXor e d a b) s → Quiet s → ∃ t, exec (.aluXor e d a b) s = .next t ∧
      IssueFrame e 1 ((ctx s e (active s e)).pc + 1) s t ∧ Writes e d 1 (x ^^^ y) ({ f with n := (x ^^^ y).msb, z := decide (x ^^^ y = 0) }) s t) ∧
  (∀ (e : Fin 34) (d a : Fin 16) (imm : BitVec 14) (s : State), let x := gr s e (active s e) a; let f := (ctx s e (active s e)).flags
    Issues e (.andi e d a imm) s → Quiet s → ∃ t, exec (.andi e d a imm) s = .next t ∧
      IssueFrame e 1 ((ctx s e (active s e)).pc + 1) s t ∧ Writes e d 1 (x &&& imm.zeroExtend 32) ({ f with n := (x &&& imm.zeroExtend 32).msb, z := decide (x &&& imm.zeroExtend 32 = 0) }) s t) ∧
  (∀ (e : Fin 34) (d a : Fin 16) (imm : BitVec 14) (s : State), let x := gr s e (active s e) a; let f := (ctx s e (active s e)).flags
    Issues e (.ori e d a imm) s → Quiet s → ∃ t, exec (.ori e d a imm) s = .next t ∧
      IssueFrame e 1 ((ctx s e (active s e)).pc + 1) s t ∧ Writes e d 1 (x ||| imm.zeroExtend 32) ({ f with n := (x ||| imm.zeroExtend 32).msb, z := decide (x ||| imm.zeroExtend 32 = 0) }) s t) ∧
  (∀ (e : Fin 34) (d a : Fin 16) (imm : BitVec 14) (s : State), let x := gr s e (active s e) a; let f := (ctx s e (active s e)).flags
    Issues e (.xori e d a imm) s → Quiet s → ∃ t, exec (.xori e d a imm) s = .next t ∧
      IssueFrame e 1 ((ctx s e (active s e)).pc + 1) s t ∧ Writes e d 1 (x ^^^ imm.zeroExtend 32) ({ f with n := (x ^^^ imm.zeroExtend 32).msb, z := decide (x ^^^ imm.zeroExtend 32 = 0) }) s t) ∧
  (∀ (e : Fin 34) (d a b : Fin 16) (s : State), let x := gr s e (active s e) a; let y := gr s e (active s e) b; let f := (ctx s e (active s e)).flags
    Issues e (.aluMin e d a b) s → Quiet s → ∃ t, exec (.aluMin e d a b) s = .next t ∧
      IssueFrame e 1 ((ctx s e (active s e)).pc + 1) s t ∧ ∃ v : Word, v.toInt = min x.toInt y.toInt ∧ Writes e d 1 v f s t) ∧
  (∀ (e : Fin 34) (d a b : Fin 16) (s : State), let x := gr s e (active s e) a; let y := gr s e (active s e) b; let f := (ctx s e (active s e)).flags
    Issues e (.aluMax e d a b) s → Quiet s → ∃ t, exec (.aluMax e d a b) s = .next t ∧
      IssueFrame e 1 ((ctx s e (active s e)).pc + 1) s t ∧ ∃ v : Word, v.toInt = max x.toInt y.toInt ∧ Writes e d 1 v f s t) ∧
  (∀ (e : Fin 34) (d a b : Fin 16) (c : BitVec 4) (s : State), let x := gr s e (active s e) a; let y := gr s e (active s e) b; let f := (ctx s e (active s e)).flags
    Issues e (.sel e d a b c) s → Quiet s → ∃ t, exec (.sel e d a b c) s = .next t ∧
      IssueFrame e 1 ((ctx s e (active s e)).pc + 1) s t ∧ Writes e d 1 (if condHolds c f then x else y) (f) s t) ∧
  (∀ (e : Fin 34) (d : Fin 16) (imm : BitVec 18) (s : State), let f := (ctx s e (active s e)).flags
    Issues e (.lui e d imm) s → Quiet s → ∃ t, exec (.lui e d imm) s = .next t ∧
      IssueFrame e 1 ((ctx s e (active s e)).pc + 1) s t ∧ Writes e d 1 (imm.zeroExtend 32 <<< 14) (f) s t) ∧
  (∀ (e : Fin 34) (d : Fin 16) (imm : BitVec 18) (s : State), let f := (ctx s e (active s e)).flags
    Issues e (.li e d imm) s → Quiet s → ∃ t, exec (.li e d imm) s = .next t ∧
      IssueFrame e 1 ((ctx s e (active s e)).pc + 1) s t ∧ Writes e d 1 (imm.signExtend 32) (f) s t) ∧
  (∀ (e : Fin 34)  (s : State), let f := (ctx s e (active s e)).flags
    Issues e (.nop e) s → Quiet s → ∃ t, exec (.nop e) s = .next t ∧
      IssueFrame e 1 ((ctx s e (active s e)).pc + 1) s t ∧ Sets e f s t)

/-- SHL, SHR, SAR and their forms with an immediate, when they issue, shift by the low five bits of the amount, set N and
Z by the result and C to the last bit shifted out, C staying for the amount 0; V and all else stay. -/
def Obligations.ShuttleShifts : Prop :=
  (∀ (e : Fin 34) (d a b : Fin 16) (s : State), let x := gr s e (active s e) a; let y := gr s e (active s e) b; let f := (ctx s e (active s e)).flags
    Issues e (.aluShl e d a b) s → Quiet s → ∃ t, exec (.aluShl e d a b) s = .next t ∧
      IssueFrame e 1 ((ctx s e (active s e)).pc + 1) s t ∧ ∃ v : Word, let k := fld y 0 5; v.toNat = x.toNat * 2 ^ k % 2 ^ 32 ∧ Writes e d 1 v { n := v.msb, z := decide (v = 0), c := if k = 0 then f.c else x.getLsbD (32 - k), v := f.v } s t) ∧
  (∀ (e : Fin 34) (d a b : Fin 16) (s : State), let x := gr s e (active s e) a; let y := gr s e (active s e) b; let f := (ctx s e (active s e)).flags
    Issues e (.aluShr e d a b) s → Quiet s → ∃ t, exec (.aluShr e d a b) s = .next t ∧
      IssueFrame e 1 ((ctx s e (active s e)).pc + 1) s t ∧ ∃ v : Word, let k := fld y 0 5; v.toNat = x.toNat / 2 ^ k ∧ Writes e d 1 v { n := v.msb, z := decide (v = 0), c := if k = 0 then f.c else x.getLsbD (k - 1), v := f.v } s t) ∧
  (∀ (e : Fin 34) (d a b : Fin 16) (s : State), let x := gr s e (active s e) a; let y := gr s e (active s e) b; let f := (ctx s e (active s e)).flags
    Issues e (.aluSar e d a b) s → Quiet s → ∃ t, exec (.aluSar e d a b) s = .next t ∧
      IssueFrame e 1 ((ctx s e (active s e)).pc + 1) s t ∧ ∃ v : Word, let k := fld y 0 5; v.toInt = x.toInt / 2 ^ k ∧ Writes e d 1 v { n := v.msb, z := decide (v = 0), c := if k = 0 then f.c else x.getLsbD (k - 1), v := f.v } s t) ∧
  (∀ (e : Fin 34) (d a : Fin 16) (imm : BitVec 14) (s : State), let x := gr s e (active s e) a; let f := (ctx s e (active s e)).flags
    Issues e (.shli e d a imm) s → Quiet s → ∃ t, exec (.shli e d a imm) s = .next t ∧
      IssueFrame e 1 ((ctx s e (active s e)).pc + 1) s t ∧ ∃ v : Word, let k := imm.toNat % 32; v.toNat = x.toNat * 2 ^ k % 2 ^ 32 ∧ Writes e d 1 v { n := v.msb, z := decide (v = 0), c := if k = 0 then f.c else x.getLsbD (32 - k), v := f.v } s t) ∧
  (∀ (e : Fin 34) (d a : Fin 16) (imm : BitVec 14) (s : State), let x := gr s e (active s e) a; let f := (ctx s e (active s e)).flags
    Issues e (.shri e d a imm) s → Quiet s → ∃ t, exec (.shri e d a imm) s = .next t ∧
      IssueFrame e 1 ((ctx s e (active s e)).pc + 1) s t ∧ ∃ v : Word, let k := imm.toNat % 32; v.toNat = x.toNat / 2 ^ k ∧ Writes e d 1 v { n := v.msb, z := decide (v = 0), c := if k = 0 then f.c else x.getLsbD (k - 1), v := f.v } s t) ∧
  (∀ (e : Fin 34) (d a : Fin 16) (imm : BitVec 14) (s : State), let x := gr s e (active s e) a; let f := (ctx s e (active s e)).flags
    Issues e (.sari e d a imm) s → Quiet s → ∃ t, exec (.sari e d a imm) s = .next t ∧
      IssueFrame e 1 ((ctx s e (active s e)).pc + 1) s t ∧ ∃ v : Word, let k := imm.toNat % 32; v.toInt = x.toInt / 2 ^ k ∧ Writes e d 1 v { n := v.msb, z := decide (v = 0), c := if k = 0 then f.c else x.getLsbD (k - 1), v := f.v } s t)

/-- Each product, when it issues, is usable two lc later and sets N and Z; the comparisons set the flags of the difference
and change no register; all else stays. -/
def Obligations.ShuttleProductsAndComparisons : Prop :=
  (∀ (e : Fin 34) (d a b : Fin 16) (s : State), let x := gr s e (active s e) a; let y := gr s e (active s e) b; let f := (ctx s e (active s e)).flags
    Issues e (.aluMul e d a b) s → Quiet s → active s e = .express ∨ s.flt.injRes ≠ some e.val → ∃ t, exec (.aluMul e d a b) s = .next t ∧
      IssueFrame e 1 ((ctx s e (active s e)).pc + 1) s t ∧ ∃ v : Word, v.toNat = x.toNat * y.toNat % 2 ^ 32 ∧ Writes e d 2 v { f with n := v.msb, z := decide (v = 0) } s t) ∧
  (∀ (e : Fin 34) (d a b : Fin 16) (s : State), let x := gr s e (active s e) a; let y := gr s e (active s e) b; let f := (ctx s e (active s e)).flags
    Issues e (.aluMulh e d a b) s → Quiet s → active s e = .express ∨ s.flt.injRes ≠ some e.val → ∃ t, exec (.aluMulh e d a b) s = .next t ∧
      IssueFrame e 1 ((ctx s e (active s e)).pc + 1) s t ∧ ∃ v : Word, v.toInt = x.toInt * y.toInt / 2 ^ 32 ∧ Writes e d 2 v { f with n := v.msb, z := decide (v = 0) } s t) ∧
  (∀ (e : Fin 34) (d a b : Fin 16) (s : State), let x := gr s e (active s e) a; let y := gr s e (active s e) b; let f := (ctx s e (active s e)).flags
    Issues e (.aluMulhu e d a b) s → Quiet s → active s e = .express ∨ s.flt.injRes ≠ some e.val → ∃ t, exec (.aluMulhu e d a b) s = .next t ∧
      IssueFrame e 1 ((ctx s e (active s e)).pc + 1) s t ∧ ∃ v : Word, v.toNat = x.toNat * y.toNat / 2 ^ 32 ∧ Writes e d 2 v { f with n := v.msb, z := decide (v = 0) } s t) ∧
  (∀ (e : Fin 34) (a b : Fin 16) (s : State), let x := gr s e (active s e) a; let y := gr s e (active s e) b; Issues e (.cmp e a b) s → Quiet s → active s e = .express ∨ s.flt.injRes ≠ some e.val → ∃ t, exec (.cmp e a b) s = .next t ∧
      IssueFrame e 1 ((ctx s e (active s e)).pc + 1) s t ∧ ∃ v g, DifferenceOf x y 0 v g ∧ Sets e g s t) ∧
  (∀ (e : Fin 34) (a : Fin 16) (imm : BitVec 14) (s : State), let x := gr s e (active s e) a; Issues e (.cmpi e a imm) s → Quiet s → active s e = .express ∨ s.flt.injRes ≠ some e.val → ∃ t, exec (.cmpi e a imm) s = .next t ∧
      IssueFrame e 1 ((ctx s e (active s e)).pc + 1) s t ∧ ∃ v g, DifferenceOf x (imm.signExtend 32) 0 v g ∧ Sets e g s t)

/-- Each, when it issues, writes the quotient truncated toward zero and sets V = 0, except for the four cases of R89,
which write the value of its table and set V = 1; N and Z follow the value, C and all else stay, and the engine is
held for 20 lc. -/
def Obligations.ShuttleDivision : Prop :=
  (∀ (e : Fin 34) (d a b : Fin 16) (s : State), let x := gr s e (active s e) a; let y := gr s e (active s e) b; let f := (ctx s e (active s e)).flags
    Issues e (.aluDivu e d a b) s → Quiet s → active s e = .express ∨ s.flt.injRes ≠ some e.val → ∃ t, exec (.aluDivu e d a b) s = .next t ∧
      IssueFrame e 20 ((ctx s e (active s e)).pc + 1) s t ∧ ∃ v o, Writes e d 20 v { f with n := v.msb, z := decide (v = 0), v := o } s t ∧
      (if y = 0 then v = 0xFFFFFFFF#32 ∧ o = true else v.toNat = x.toNat / y.toNat ∧ o = false)) ∧
  (∀ (e : Fin 34) (d a b : Fin 16) (s : State), let x := gr s e (active s e) a; let y := gr s e (active s e) b; let f := (ctx s e (active s e)).flags
    Issues e (.aluDivs e d a b) s → Quiet s → active s e = .express ∨ s.flt.injRes ≠ some e.val → ∃ t, exec (.aluDivs e d a b) s = .next t ∧
      IssueFrame e 20 ((ctx s e (active s e)).pc + 1) s t ∧ ∃ v o, Writes e d 20 v { f with n := v.msb, z := decide (v = 0), v := o } s t ∧
      (if y = 0 ∧ 0 ≤ x.toInt then v = 0x7FFFFFFF#32 ∧ o = true
       else if y = 0 then v = 0x80000000#32 ∧ o = true
       else if x = 0x80000000#32 ∧ y.toInt = -1 then v = 0x7FFFFFFF#32 ∧ o = true
       else v.toInt = Int.tdiv x.toInt y.toInt ∧ o = false))

/-- PADD writes the sum of the two phases modulo 2^24, sets C where it reaches 2^24 and Z where the result is 0. PDIF
writes the difference of the phases as the signed number from -2^23 to 2^23 - 1 that is congruent to it, and sets N
and Z by it. Other flags and all else stay. -/
def Obligations.ShuttlePhaseArithmetic : Prop :=
  (∀ (e : Fin 34) (d a b : Fin 16) (s : State), let x := gr s e (active s e) a; let y := gr s e (active s e) b; let f := (ctx s e (active s e)).flags
    Issues e (.padd e d a b) s → Quiet s → active s e = .express ∨ s.flt.injRes ≠ some e.val → ∃ t, exec (.padd e d a b) s = .next t ∧
      IssueFrame e 1 ((ctx s e (active s e)).pc + 1) s t ∧ ∃ v : Word, v.toNat = (x.toNat % 2 ^ 24 + y.toNat % 2 ^ 24) % 2 ^ 24 ∧
      Writes e d 1 v { f with c := decide (2 ^ 24 ≤ x.toNat % 2 ^ 24 + y.toNat % 2 ^ 24), z := decide (v = 0) } s t) ∧
  (∀ (e : Fin 34) (d a b : Fin 16) (s : State), let x := gr s e (active s e) a; let y := gr s e (active s e) b; let f := (ctx s e (active s e)).flags
    Issues e (.pdif e d a b) s → Quiet s → active s e = .express ∨ s.flt.injRes ≠ some e.val → ∃ t, exec (.pdif e d a b) s = .next t ∧
      IssueFrame e 1 ((ctx s e (active s e)).pc + 1) s t ∧ ∃ v : Word, -2 ^ 23 ≤ v.toInt ∧ v.toInt < 2 ^ 23 ∧
      (v.toInt - ((x.toNat % 2 ^ 24 : Nat) - (y.toNat % 2 ^ 24 : Nat) : Int)) % 2 ^ 24 = 0 ∧
      Writes e d 1 v { f with n := v.msb, z := decide (v = 0) } s t)

/-- A condition of R87 holds as its table says. BR not taken occupies one lc and goes on; taken to an instruction of the
bank it occupies two lc and goes on there; taken outside it is task fault 5. JMP, JAL and JR go on at their target
after two lc; JAL writes the address of the next instruction. Flags and all else stay. -/
def Obligations.ShuttleBranches : Prop :=
  (∀ f : Flags, condHolds 0 f = true ∧ condHolds 1 f = f.z ∧ condHolds 2 f = !f.z ∧ condHolds 3 f = decide (f.n ≠ f.v) ∧
    condHolds 4 f = decide (f.n = f.v) ∧ condHolds 5 f = decide (f.z ∨ f.n ≠ f.v) ∧ condHolds 6 f = decide (f.z = false ∧ f.n = f.v) ∧
    condHolds 7 f = !f.c ∧ condHolds 8 f = f.c ∧ condHolds 9 f = decide (f.c = false ∨ f.z) ∧
    condHolds 10 f = decide (f.c ∧ f.z = false) ∧ condHolds 11 f = f.n ∧ condHolds 12 f = !f.n ∧ condHolds 13 f = f.v ∧
    condHolds 14 f = !f.v ∧ condHolds 15 f = false) ∧
  (∀ (e : Fin 34) (w : BitVec 32), (w.extractLsb' 26 6 = 0x2D#6 → shuDecode e w = .br e (w.extractLsb' 22 4) (w.extractLsb' 0 14)) ∧
    (w.extractLsb' 26 6 = 0x1C#6 → ∃ d a b, shuDecode e w = .sel e d a b (w.extractLsb' 0 4))) ∧
  (∀ (e : Fin 34) (d a b : Fin 16) (c : BitVec 4) (s : State), let x := gr s e (active s e) a; let y := gr s e (active s e) b; let f := (ctx s e (active s e)).flags
    Issues e (.sel e d a b c) s → Quiet s → ∃ t, exec (.sel e d a b c) s = .next t ∧
      IssueFrame e 1 ((ctx s e (active s e)).pc + 1) s t ∧ Writes e d 1 (if condHolds c f then x else y) (f) s t) ∧
  (∀ (e : Fin 34) (c : BitVec 4) (imm : BitVec 14) (s : State), let f := (ctx s e (active s e)).flags
    Issues e (.br e c imm) s → Quiet s → condHolds c f = false → ∃ t, exec (.br e c imm) s = .next t ∧
      IssueFrame e 1 ((ctx s e (active s e)).pc + 1) s t ∧ Sets e f s t) ∧
  (∀ (e : Fin 34) (c : BitVec 4) (imm : BitVec 14) (k : Nat) (s : State), let f := (ctx s e (active s e)).flags
    Issues e (.br e c imm) s → Quiet s → condHolds c f = true → k < 2048 → (k : Int) = (ctx s e (active s e)).pc + imm.toInt → ∃ t, exec (.br e c imm) s = .next t ∧
      IssueFrame e 2 (k) s t ∧ Sets e f s t) ∧
  (∀ (e : Fin 34) (c : BitVec 4) (imm : BitVec 14) (s : State), Issues e (.br e c imm) s →
    condHolds c (ctx s e (active s e)).flags = true → (((ctx s e (active s e)).pc : Int) + imm.toInt < 0 ∨ 2048 ≤ ((ctx s e (active s e)).pc : Int) + imm.toInt) →
    exec (.br e c imm) s = .next (settle (taskFault e 5 0 (expressSnap e (active s e) s)))) ∧
  (∀ (e : Fin 34) (imm : BitVec 18) (s : State), let f := (ctx s e (active s e)).flags
    Issues e (.jmp e imm) s → Quiet s → ∃ t, exec (.jmp e imm) s = .next t ∧
      IssueFrame e 2 (imm.toNat % 2048) s t ∧ Sets e f s t) ∧
  (∀ (e : Fin 34) (d : Fin 16) (imm : BitVec 18) (s : State), let f := (ctx s e (active s e)).flags
    Issues e (.jal e d imm) s → Quiet s → ∃ t, exec (.jal e d imm) s = .next t ∧
      IssueFrame e 2 (imm.toNat % 2048) s t ∧ Writes e d 2 (BitVec.ofNat 32 ((ctx s e (active s e)).pc + 1)) (f) s t) ∧
  (∀ (e : Fin 34) (a : Fin 16) (s : State), let f := (ctx s e (active s e)).flags
    Issues e (.jr e a) s → Quiet s → ∃ t, exec (.jr e a) s = .next t ∧
      IssueFrame e 2 ((gr s e (active s e) a).toNat % 2048) s t ∧ Sets e f s t)

/-- Each load, when it issues at an aligned address of R91 of stores without error marks, in a cycle without a write of
the other port, its bank taking another access (R370), takes one slot with the little-endian bytes at the physical
address, six lc away at the earliest, and changes no register or memory; LOAD_RESULT writes the oldest result of its
context to its destination registers alone, g0 staying 0, and frees the slot. That the sum of R97 wraps at 2^32 before
the modulo is the choice of the model (log entry 33). -/
def Obligations.ShuttleLoads : Prop :=
  (∀ (e : Fin 34) (d a : Fin 16) (imm : BitVec 14) (s : State), let ea := (gr s e (active s e) a + imm.signExtend 32).toNat
    let p := shuPhysical s (runBank (ctx s e (active s e))) ea; let v := loaded s p 4
    Issues e (.ld e d a imm) s → Quiet s → s.store.marks = [] → (cycNow s).byB = [] → ea % 4 = 0 → shuAddr ea = true → bankFull s p = false →
    ∃ t, exec (.ld e d a imm) s = .next t ∧ t.mem = s.mem ∧ t.regs = s.regs ∧ AccessFrame e 6 1 (.load [(d.val, wd v)]) [] s t) ∧
  (∀ (e : Fin 34) (d a : Fin 16) (imm : BitVec 14) (s : State), let ea := (gr s e (active s e) a + imm.signExtend 32).toNat
    let p := shuPhysical s (runBank (ctx s e (active s e))) ea; let v := loaded s p 2
    Issues e (.ldh e d a imm) s → Quiet s → s.store.marks = [] → (cycNow s).byB = [] → ea % 2 = 0 → shuAddr ea = true → bankFull s p = false →
    ∃ t, exec (.ldh e d a imm) s = .next t ∧ t.mem = s.mem ∧ t.regs = s.regs ∧ AccessFrame e 6 1 (.load [(d.val, (BitVec.ofNat 16 v).signExtend 32)]) [] s t) ∧
  (∀ (e : Fin 34) (d a : Fin 16) (imm : BitVec 14) (s : State), let ea := (gr s e (active s e) a + imm.signExtend 32).toNat
    let p := shuPhysical s (runBank (ctx s e (active s e))) ea; let v := loaded s p 2
    Issues e (.ldhu e d a imm) s → Quiet s → s.store.marks = [] → (cycNow s).byB = [] → ea % 2 = 0 → shuAddr ea = true → bankFull s p = false →
    ∃ t, exec (.ldhu e d a imm) s = .next t ∧ t.mem = s.mem ∧ t.regs = s.regs ∧ AccessFrame e 6 1 (.load [(d.val, wd v)]) [] s t) ∧
  (∀ (e : Fin 34) (d a : Fin 16) (imm : BitVec 14) (s : State), let ea := (gr s e (active s e) a + imm.signExtend 32).toNat
    let p := shuPhysical s (runBank (ctx s e (active s e))) ea; let v := loaded s p 1
    Issues e (.ldbu e d a imm) s → Quiet s → s.store.marks = [] → (cycNow s).byB = [] → ea % 1 = 0 → shuAddr ea = true → bankFull s p = false →
    ∃ t, exec (.ldbu e d a imm) s = .next t ∧ t.mem = s.mem ∧ t.regs = s.regs ∧ AccessFrame e 6 1 (.load [(d.val, wd v)]) [] s t) ∧
  (∀ (e : Fin 34) (d a : Fin 16) (imm : BitVec 14) (s : State), let ea := (gr s e (active s e) a + imm.signExtend 32).toNat
    let p := shuPhysical s (runBank (ctx s e (active s e))) ea; let v := loaded s p 8
    Issues e (.ldd e d a imm) s → Quiet s → s.store.marks = [] → (cycNow s).byB = [] → d.val % 2 = 0 → ea % 8 = 0 → shuAddr ea = true → bankFull s p = false →
    ∃ t, exec (.ldd e d a imm) s = .next t ∧ t.mem = s.mem ∧ t.regs = s.regs ∧ AccessFrame e 6 1 (.load [(d.val, wd v), (d.val + 1, wd (v / 2 ^ 32))]) [] s t) ∧
  (∀ (e : Fin 34) (d a : Fin 16) (imm : BitVec 14) (s : State), let w := imm.toNat / 1024
    let ea := (cbwBase s w + (gr s e (active s e) a + wd (4 * (imm.toNat % 1024))).toNat % cbwSize s w) % 2 ^ 32
    let p := shuPhysical s (runBank (ctx s e (active s e))) ea
    Issues e (.ldc e d a imm) s → Quiet s → s.store.marks = [] → (cycNow s).byB = [] → cbwSize s w ≠ 0 → ea % 4 = 0 →
    shuAddr ea = true → bankFull s p = false → ∃ t, exec (.ldc e d a imm) s = .next t ∧ t.mem = s.mem ∧ t.regs = s.regs ∧
      AccessFrame e 6 1 (.load [(d.val, wd (loaded s p 4))]) [] s t) ∧
  (∀ (e : Fin 34) (x : Ctx) (k : Slot) (vs : List (Nat × Word)) (s : State), nextResult (ctx s e x) = some k →
    slotDue s e k ≤ s.time → running s = true → k.acc.values = some vs → Quiet s →
    ∃ t, exec (.loadResult e x) s = .next t ∧ t = { s with shu := t.shu } ∧
      (ctx t e x).slots = (ctx s e x).slots.filter (fun y => y.id != k.id) ∧
      (∀ r, r = 0 ∨ r ∉ vs.map (fun v => v.1) → gr t e x r = gr s e x r) ∧
      (∀ d w, vs = [(d, w)] → d ≠ 0 → gr t e x d = w) ∧
      (∀ d w v, vs = [(d, w), (d + 1, v)] → gr t e x (d + 1) = v ∧ (d ≠ 0 → gr t e x d = w)))

/-- Each store, when it issues at an aligned address of R91 outside the idle half, in stores without error marks, its bank
taking another access and port B not holding its word closed (R370, R373), writes the low bytes of its register at the
physical address, little-endian, and no other byte, feeds W with the address and the data, and takes one slot;
STORE_ACK frees the slot and changes nothing else; CORRECTED_WRITE_BACK rewrites a correctable word. That the sum of
R97 wraps at 2^32 before the modulo is the choice of the model (log entry 33). -/
def Obligations.ShuttleStores : Prop :=
  (∀ (e : Fin 34) (a b : Fin 16) (imm : BitVec 14) (s : State), let ea := (gr s e (active s e) a + imm.signExtend 32).toNat
    let p := shuPhysical s (runBank (ctx s e (active s e))) ea
    let v := gr s e (active s e) b
    Issues e (.st e a b imm) s → Quiet s → Memory.wf s.mem = true → s.store.marks = [] → ea % 4 = 0 → shuAddr ea = true →
    idleHalf s ea = false → bankFull s p = false → wordClosed (.shuttle e) (wordOf p) s = false →
    ∃ t, exec (.st e a b imm) s = .next t ∧ t.regs = s.regs ∧ AccessFrame e 6 1 .store [wd ea, v] s t ∧
      (∀ i, i < 4 → mget t.mem (p + i) = BitVec.ofNat 8 (v.toNat / 256 ^ i)) ∧
      (∀ c, c < p ∨ p + 4 ≤ c → mget t.mem c = mget s.mem c)) ∧
  (∀ (e : Fin 34) (a b : Fin 16) (imm : BitVec 14) (s : State), let ea := (gr s e (active s e) a + imm.signExtend 32).toNat
    let p := shuPhysical s (runBank (ctx s e (active s e))) ea
    let v := gr s e (active s e) b
    Issues e (.sth e a b imm) s → Quiet s → Memory.wf s.mem = true → s.store.marks = [] → ea % 2 = 0 → shuAddr ea = true →
    idleHalf s ea = false → bankFull s p = false → wordClosed (.shuttle e) (wordOf p) s = false →
    ∃ t, exec (.sth e a b imm) s = .next t ∧ t.regs = s.regs ∧ AccessFrame e 6 1 .store [wd ea, v &&& 0xFFFF#32] s t ∧
      (∀ i, i < 2 → mget t.mem (p + i) = BitVec.ofNat 8 (v.toNat / 256 ^ i)) ∧
      (∀ c, c < p ∨ p + 2 ≤ c → mget t.mem c = mget s.mem c)) ∧
  (∀ (e : Fin 34) (a b : Fin 16) (imm : BitVec 14) (s : State), let ea := (gr s e (active s e) a + imm.signExtend 32).toNat
    let p := shuPhysical s (runBank (ctx s e (active s e))) ea
    let v := gr s e (active s e) b
    Issues e (.stb e a b imm) s → Quiet s → Memory.wf s.mem = true → s.store.marks = [] → ea % 1 = 0 → shuAddr ea = true →
    idleHalf s ea = false → bankFull s p = false → wordClosed (.shuttle e) (wordOf p) s = false →
    ∃ t, exec (.stb e a b imm) s = .next t ∧ t.regs = s.regs ∧ AccessFrame e 6 1 .store [wd ea, v &&& 0xFF#32] s t ∧
      (∀ i, i < 1 → mget t.mem (p + i) = BitVec.ofNat 8 (v.toNat / 256 ^ i)) ∧
      (∀ c, c < p ∨ p + 1 ≤ c → mget t.mem c = mget s.mem c)) ∧
  (∀ (e : Fin 34) (a b : Fin 16) (imm : BitVec 14) (s : State), let ea := (gr s e (active s e) a + imm.signExtend 32).toNat
    let p := shuPhysical s (runBank (ctx s e (active s e))) ea
    let v := gr s e (active s e) b
    Issues e (.std e a b imm) s → Quiet s → Memory.wf s.mem = true → s.store.marks = [] → b.val % 2 = 0 → ea % 8 = 0 → shuAddr ea = true →
    idleHalf s ea = false → bankFull s p = false → wordClosed (.shuttle e) (wordOf p) s = false →
    ∃ t, exec (.std e a b imm) s = .next t ∧ t.regs = s.regs ∧ AccessFrame e 6 1 .store [wd ea, v, gr s e (active s e) (b.val + 1)] s t ∧
      (∀ i, i < 8 → mget t.mem (p + i) = BitVec.ofNat 8 ((v.toNat + 2 ^ 32 * (gr s e (active s e) (b.val + 1)).toNat) / 256 ^ i)) ∧
      (∀ c, c < p ∨ p + 8 ≤ c → mget t.mem c = mget s.mem c)) ∧
  (∀ (e : Fin 34) (a b : Fin 16) (imm : BitVec 14) (s : State), let w := imm.toNat / 1024
    let ea := (cbwBase s w + (gr s e (active s e) a + wd (4 * (imm.toNat % 1024))).toNat % cbwSize s w) % 2 ^ 32
    let p := shuPhysical s (runBank (ctx s e (active s e))) ea
    let v := gr s e (active s e) b
    Issues e (.stc e a b imm) s → Quiet s → Memory.wf s.mem = true → s.store.marks = [] → cbwSize s w ≠ 0 → ea % 4 = 0 →
    shuAddr ea = true → idleHalf s ea = false → bankFull s p = false → wordClosed (.shuttle e) (wordOf p) s = false →
    ∃ t, exec (.stc e a b imm) s = .next t ∧ t.regs = s.regs ∧ AccessFrame e 6 1 .store [wd ea, v] s t ∧
      (∀ i, i < 4 → mget t.mem (p + i) = BitVec.ofNat 8 (v.toNat / 256 ^ i)) ∧
      (∀ c, c < p ∨ p + 4 ≤ c → mget t.mem c = mget s.mem c)) ∧
  (∀ (e : Fin 34) (x : Ctx) (k : Slot) (s : State), nextStore (ctx s e x) = some k → slotDue s e k ≤ s.time → running s = true →
    Quiet s → ∃ t, exec (.storeAck e x) s = .next t ∧ t = { s with shu := t.shu } ∧
      (ctx t e x).slots = (ctx s e x).slots.filter (fun y => y.id != k.id) ∧ ∀ r, gr t e x r = gr s e x r) ∧
  (∀ (w : Fin 1572864) (s : State), running s = true → s.store.writeBack.contains w.val = true → Quiet s →
    eccBad (eccMark s w) = false → ∃ t, exec (.correctedWriteBack w) s = .next t ∧ eccMark t w = 0 ∧ t.mem = s.mem ∧
      t.regs = s.regs ∧ t.store.writeBack.contains w.val = false ∧ ∀ k, k ≠ w.val → eccMark t k = eccMark s k)

/-- A task fault sets FSTS.TASKFLT and CODE, latches FPC and FADDR, ends the task of its context and changes no store. The
instruction ILL, a misaligned or disallowed access, a window of size 0, an odd register of LDD or STD, a reserved
selector, action, k or register number, and an uncorrectable code word are task faults with the codes of R118. A
residue error injected into an arithmetic instruction of the normal context latches, while checking is on, the error
bit of its run and FSTS, and changes no result. That FADDR becomes 0 at a fault without an access is the choice of the
model (log entry 33). -/
def Obligations.ShuttleTaskFaults : Prop :=
  (∀ (e : Fin 34) (code addr : Nat) (r : Run) (s : State), let t := taskFault e code addr s
    (ctx s e (active s e)).task = some r → code < 16 → rb t (Reg.shuFsts e) 0 = true ∧ rf t (Reg.shuFsts e) 8 4 = code ∧
    rget t (Reg.shuFaddr e) = wd addr ∧ ((ctx s e (active s e)).pc < 2048 → rf t (Reg.shuFpc e) 0 11 = (ctx s e (active s e)).pc) ∧
    rb t (Reg.shuFpc e) 11 = decide (r.bank = 1) ∧ rf t (Reg.shuFpc e) 16 12 = r.desc % 4096 ∧
    rb t (Reg.shuFpc e) 31 = (active s e == Ctx.express) ∧ (ctx t e (active s e)).task = none ∧
    (ctx t e (active s e)).slots = (ctx s e (active s e)).slots.filter (fun k => k.acc == .store) ∧ t.mem = s.mem) ∧
  (∀ (e : Fin 34) (s : State), Issues e (.ill e) s → exec (.ill e) s = .next (settle (taskFault e 1 0 (expressSnap e (active s e) s)))) ∧
  (∀ (e : Fin 34) (i : Instr) (a : Fin 16) (imm : BitVec 14) (n : Nat) (st : Bool) (s : State),
    let ea := (gr s e (active s e) a + imm.signExtend 32).toNat
    shuAccess i = some (a, imm, n, st) → Issues e i s →
    (ea % n ≠ 0 → exec i s = .next (settle (taskFault e 3 ea (expressSnap e (active s e) s)))) ∧
    (ea % n = 0 → shuAddr ea = false ∨ (st = true ∧ idleHalf s ea = true) →
      exec i s = .next (settle (taskFault e 4 ea (expressSnap e (active s e) s))))) ∧
  (∀ (e : Fin 34) (d a : Fin 16) (imm : BitVec 14) (s : State), Issues e (.ldc e d a imm) s → cbwSize s (imm.toNat / 1024) = 0 →
    exec (.ldc e d a imm) s = .next (settle (taskFault e 2 0 (expressSnap e (active s e) s)))) ∧
  (∀ (e : Fin 34) (a b : Fin 16) (imm : BitVec 14) (s : State), Issues e (.stc e a b imm) s → cbwSize s (imm.toNat / 1024) = 0 →
    exec (.stc e a b imm) s = .next (settle (taskFault e 2 0 (expressSnap e (active s e) s)))) ∧
  (∀ (e : Fin 34) (d a : Fin 16) (imm : BitVec 14) (s : State), Issues e (.ldd e d a imm) s → d.val % 2 = 1 →
    exec (.ldd e d a imm) s = .next (settle (taskFault e 2 0 (expressSnap e (active s e) s)))) ∧
  (∀ (e : Fin 34) (a b : Fin 16) (imm : BitVec 14) (s : State), Issues e (.std e a b imm) s → b.val % 2 = 1 →
    exec (.std e a b imm) s = .next (settle (taskFault e 2 0 (expressSnap e (active s e) s)))) ∧
  (∀ (e : Fin 34) (d : Fin 16) (imm : BitVec 14) (s : State), Issues e (.rds e d imm) s → 11 < imm.toNat →
    exec (.rds e d imm) s = .next (settle (taskFault e 2 0 (expressSnap e (active s e) s)))) ∧
  (∀ (e : Fin 34) (d : Fin 16) (imm : BitVec 14) (s : State), Issues e (.rdl e d imm) s → rdlValid imm.toNat = false →
    exec (.rdl e d imm) s = .next (settle (taskFault e 2 0 (expressSnap e (active s e) s)))) ∧
  (∀ (e : Fin 34) (d a : Fin 16) (imm : BitVec 14) (s : State), Issues e (.chr e d a imm) s → selReserved (imm.toNat % 32) = true →
    exec (.chr e d a imm) s = .next (settle (taskFault e 2 0 (expressSnap e (active s e) s)))) ∧
  (∀ (e : Fin 34) (a b : Fin 16) (imm : BitVec 14) (s : State), Issues e (.chw e a b imm) s → selReserved (imm.toNat % 32) = true →
    exec (.chw e a b imm) s = .next (settle (taskFault e 2 0 (expressSnap e (active s e) s)))) ∧
  (∀ (e : Fin 34) (a b : Fin 16) (imm : BitVec 14) (s : State), Issues e (.edge e a b imm) s → imm.toNat % 4 = 3 →
    exec (.edge e a b imm) s = .next (settle (taskFault e 2 0 (expressSnap e (active s e) s)))) ∧
  (∀ (e : Fin 34) (d a : Fin 16) (s : State), Issues e (.arm e d a) s → 12 < a.val →
    exec (.arm e d a) s = .next (settle (taskFault e 2 0 (expressSnap e (active s e) s)))) ∧
  (∀ (e : Fin 34) (d a b : Fin 16) (imm : BitVec 14) (s : State), Issues e (.lerp e d a b imm) s → (imm.toNat % 32 = 0 ∨ 16 < imm.toNat % 32) →
    exec (.lerp e d a b imm) s = .next (settle (taskFault e 2 0 (expressSnap e (active s e) s)))) ∧
  (∀ (e : Fin 34) (i : Instr) (s : State), let s0 := { s with flt := { s.flt with injRes := none } }
    residueChecked i = true → Issues e i s → Quiet s → active s e = .normal → s.flt.injRes = some e.val →
    checkOn s = true → ∃ t u, exec i s = .next t ∧ exec i s0 = .next u ∧ (∀ r, gr t e .normal r = gr u e .normal r) ∧
      (ctx t e .normal).flags = (ctx u e .normal).flags ∧ (ctx t e .normal).pc = (ctx u e .normal).pc ∧
      (ctx t e .normal).err = true ∧ rb t (Reg.shuFsts e) 5 = true ∧ t.flt.injRes = none ∧ t.mem = s.mem) ∧
  (∀ (e : Fin 34) (s : State), issueTime s e [] ≤ s.time → mayIssue s e = true → withinLimit s e = true →
    (pcPast s e = true → exec (.nop e) s = .next (settle (taskFault e 5 0 s))) ∧
    (pcPast s e = false → codeBadAt s e = true → exec (.nop e) s = .next (settle (codeFault e s))))

/-- LERP with k from 1 to 16, when it issues with both samples at addresses of R91 in stores without error marks, takes
two slots with the interpolated value of R108, nine lc away at the earliest, their banks taking another access (R370).
FENCE issues when its context holds no slot and changes no register. The samples are those that no other port writes
in the cycle. -/
def Obligations.ShuttleLerp : Prop :=
  (∀ (e : Fin 34) (d a b : Fin 16) (imm : BitVec 14) (s : State), let x := active s e; let k := imm.toNat % 32
    let ph := (gr s e x b).toNat % 2 ^ 24; let sh := 24 - k; let i := ph / 2 ^ sh
    let j := if imm.getLsbD 5 then (i + 1) % 2 ^ k else i + 1
    let a0 := (gr s e x a + wd (4 * i)).toNat; let a1 := (gr s e x a + wd (4 * j)).toNat
    let p0 := shuPhysical s (runBank (ctx s e x)) a0; let p1 := shuPhysical s (runBank (ctx s e x)) a1
    let y0 := wd (loaded s p0 4); let y1 := wd (loaded s p1 4)
    Issues e (.lerp e d a b imm) s → Quiet s → (active s e = .express ∨ s.flt.injRes ≠ some e.val) →
    s.store.marks = [] → (cycNow s).byB = [] → 1 ≤ k → k ≤ 16 →
    a0 % 4 = 0 → a1 % 4 = 0 → shuAddr a0 = true → shuAddr a1 = true → bankFull s p0 = false → bankFull s p1 = false →
    ∃ t, exec (.lerp e d a b imm) s = .next t ∧ t.mem = s.mem ∧ t.regs = s.regs ∧ ∃ v : Word,
      v.toInt = y0.toInt + ((y1.toInt - y0.toInt) * (ph % 2 ^ sh : Nat) + 2 ^ (sh - 1)) / 2 ^ sh ∧
      min y0.toInt y1.toInt ≤ v.toInt ∧ v.toInt ≤ max y0.toInt y1.toInt ∧
      AccessFrame e 9 2 (.load [(d.val, v)]) [] s t) ∧
  (∀ (e : Fin 34) (d a b : Fin 16) (imm : BitVec 14) (s : State), let x := active s e; let k := imm.toNat % 32
    let ph := (gr s e x b).toNat % 2 ^ 24; let i := ph / 2 ^ (24 - k)
    let j := if imm.getLsbD 5 then (i + 1) % 2 ^ k else i + 1
    let a0 := (gr s e x a + wd (4 * i)).toNat; let a1 := (gr s e x a + wd (4 * j)).toNat
    Issues e (.lerp e d a b imm) s →
    (k = 0 ∨ 16 < k → exec (.lerp e d a b imm) s = .next (settle (taskFault e 2 0 (expressSnap e (active s e) s)))) ∧
    (1 ≤ k ∧ k ≤ 16 → (a0 % 4 ≠ 0 → exec (.lerp e d a b imm) s = .next (settle (taskFault e 3 a0 (expressSnap e (active s e) s)))) ∧
      (a0 % 4 = 0 → shuAddr a0 = false → exec (.lerp e d a b imm) s = .next (settle (taskFault e 4 a0 (expressSnap e (active s e) s)))) ∧
      (a0 % 4 = 0 → shuAddr a0 = true → shuAddr a1 = false →
        exec (.lerp e d a b imm) s = .next (settle (taskFault e 4 a1 (expressSnap e (active s e) s)))))) ∧
  (∀ (e : Fin 34) (d a b : Fin 16) (imm : BitVec 14) (s : State), let x := active s e; let k := imm.toNat % 32
    let ph := (gr s e x b).toNat % 2 ^ 24; let i := ph / 2 ^ (24 - k)
    let j := if imm.getLsbD 5 then (i + 1) % 2 ^ k else i + 1
    let a0 := (gr s e x a + wd (4 * i)).toNat; let a1 := (gr s e x a + wd (4 * j)).toNat
    Issues e (.lerp e d a b imm) s → Quiet s → x = .normal → s.flt.injRes = some e.val → checkOn s = true → s.store.marks = [] → 1 ≤ k → k ≤ 16 →
    a0 % 4 = 0 → a1 % 4 = 0 → shuAddr a0 = true → shuAddr a1 = true →
    bankFull s (shuPhysical s (runBank (ctx s e x)) a0) = false → bankFull s (shuPhysical s (runBank (ctx s e x)) a1) = false →
    ∃ t, exec (.lerp e d a b imm) s = .next t ∧ (ctx t e .normal).err = true ∧ rb t (Reg.shuFsts e) 5 = true ∧
      t.flt.injRes = none) ∧
  (∀ (e : Fin 34) (s : State), Issues e (.fence e) s → Quiet s →
    (ctx s e (active s e)).slots = [] ∧ ∃ t, exec (.fence e) s = .next t ∧
      IssueFrame e 1 ((ctx s e (active s e)).pc + 1) s t ∧ Sets e (ctx s e (active s e)).flags s t)

/-- EVR and CHW, when they issue, feed W and send their effect toward its target behind the engine earlier ones; a load
command of a normal task is held, up to eight. EDGE places its edge at the requested time, no earlier than 24 lc after
issue. From the cycle after its issue on, SOFTWARE_EVENT raises the source of the first effect, and CHW_LAND performs
the first channel write in its place among the writes of the cycle; SHUTTLE_EDGE_OUT lets the first edge of a channel
appear. -/
def Obligations.ShuttleEffects : Prop :=
  (∀ (e : Fin 34) (a : Fin 16) (imm : BitVec 14) (s : State),
    let src := 3008 + (gr s e (active s e) a + imm.signExtend 32).toNat % 1024
    Issues e (.evr e a imm) s → Quiet s → noEdgeFirst s e = true →
    ∃ t, exec (.evr e a imm) s = .next t ∧ t = { s with shu := t.shu, timed := t.timed } ∧
      EffectFrame e [wd (0xC1000000 + src)] s t ∧ (shuSt t e).eff = (shuSt s e).eff ++ [(s.time, .evr src)] ∧
      (s.time + 4, Timed.effDue e) ∈ t.timed) ∧
  (∀ (e : Fin 34) (a b : Fin 16) (imm : BitVec 14) (s : State), let sel := imm.toNat % 32
    let n := ((gr s e (active s e) a).toNat % 512 + imm.toNat / 32) % 512; let v := gr s e (active s e) b
    Issues e (.chw e a b imm) s → Quiet s → noEdgeFirst s e = true → selReserved sel = false →
    (active s e = .normal → 16 ≤ sel → (ctx s e .normal).loads.length < 8) →
    ∃ t, exec (.chw e a b imm) s = .next t ∧ t = { s with shu := t.shu, timed := t.timed } ∧
      EffectFrame e [wd (0x40000000 + 256 * n + sel), v] s t ∧
      (if active s e = .normal ∧ 16 ≤ sel then
        (ctx t e .normal).loads = (ctx s e .normal).loads ++ [(n, sel, v)] ∧ (shuSt t e).eff = (shuSt s e).eff
       else (shuSt t e).eff = (shuSt s e).eff ++ [(s.time, .chw n sel v)] ∧ (s.time + 16, Timed.effDue e) ∈ t.timed)) ∧
  (∀ (e : Fin 34) (a b : Fin 16) (imm : BitVec 14) (s : State), let n := (gr s e (active s e) a).toNat % 512
    let want := 32 * (match active s e with | .normal => s.shed.snap | .express => (shuSt (expressSnap e (active s e) s) e).snap).time + (gr s e (active s e) b).toNat; let first := 32 * (s.time + 24)
    let early := imm.getLsbD 2 || decide (want < first)
    Issues e (.edge e a b imm) s → Quiet s → imm.toNat % 4 ≠ 3 → (shuSt s e).eff ≠ [] → noEdgeFirst s e = true →
    ∃ t, exec (.edge e a b imm) s = .next t ∧ t = { s with shu := t.shu, timed := t.timed } ∧
      EffectFrame e [wd (0x80000000 + 256 * n + imm.toNat % 256), gr s e (active s e) b] s t ∧
      (shuSt t e).eff = (shuSt s e).eff ++
        [(s.time, .edge n (imm.toNat % 4) (instOf (if early then first else want)) (early && !imm.getLsbD 2))]) ∧
  (∀ (e : Fin 34) (a b : Fin 16) (imm : BitVec 14) (s : State), let n := (gr s e (active s e) a).toNat % 512
    let first := 32 * (s.time + 24)
    Issues e (.edge e a b imm) s → imm.toNat % 4 ≠ 3 → imm.getLsbD 2 = true → (shuSt s e).eff = [] → chMode s n = 10 →
    (chSt s n).edges = [] → Quiet s → ∃ t, exec (.edge e a b imm) s = .next t ∧
      (chSt t n).edges = [⟨instOf first, imm.toNat % 4, false⟩] ∧ (shuSt t e).eff = [] ∧ t.regs = s.regs ∧
      ∀ r, gr t e (active s e) r = gr s e (active s e) r) ∧
  (∀ (e n act : Nat) (i : Inst) (late : Bool) (s : State), 
    (chMode s n ≠ 10 → edgeArrive e n act i late s = dropEffect e 2 s) ∧
    (chMode s n = 10 → 8 ≤ (chSt s n).edges.length → edgeArrive e n act i late s = dropEffect e 1 s) ∧
    (∀ y, chMode s n = 10 → (chSt s n).edges.length < 8 → (chSt s n).edges.getLast? = some y → i.steps < y.t.steps →
      edgeArrive e n act i late s = dropEffect e 3 s)) ∧
  (∀ (e : Fin 34) (src : Nat) (c : Nat) (rest : List (Nat × Effect)) (s : State), (shuSt s e).eff = (c, .evr src) :: rest →
    c + 1 ≤ s.time →
    ∃ t, exec (.softwareEvent e) s = .next (settle t) ∧
      t = drainEdges 64 e (raise src (modShu e (fun u => { u with eff := rest }) s)) ∧
      (rest = [] → (shuSt t e).eff = [] ∧ t.mem = s.mem ∧ ∀ b, ¬ RaiseReg b → rget t b = rget s b)) ∧
  (∀ (e : Fin 34) (n sel : Nat) (v : Word) (c : Nat) (rest : List (Nat × Effect)) (s : State), let u := takeTurn (shuRank e) s
    headEffect s e = some (c, .chw n sel v) → c + 1 ≤ s.time → turnAt (shuRank e) s ≤ s.time →
    (shuSt u e).eff = (c, .chw n sel v) :: rest →
    exec (.chwLand e) s = .next (settle (drainEdges 64 e (chwLandOp e n sel v (modShu e (fun x => { x with eff := rest }) u))))) ∧
  (∀ (e n : Nat) (v : Word) (s : State), ((chSt s n).xferAt ≠ s.time + 1 → rget (chwLandOp e n 4 v s) (Reg.chRld n) = v ∧
      rget (chwLandOp e n 7 v s) (Reg.chFine n) = v &&& 0x1F1F#32) ∧
    chwLandOp e n 16 v s = loadHarness (n / 8) s ∧ chwLandOp e n 17 v s = loadNowOp (n / 8) s ∧
    chwLandOp e n 18 v s = (if bit v 0 then loadEvery s else s) ∧
    ∀ sel, (sel = 8 ∨ sel = 9 ∨ sel = 10 ∨ sel = 12 ∨ sel = 13) → chwLandOp e n sel v s = dropEffect e 4 s) ∧
  (∀ (n : Fin 512) (y : PlacedEdge) (rest : List PlacedEdge) (s : State), (chSt s n).edges = y :: rest → y.t.lc ≤ s.time →
    running s = true → chMode s n = 10 → ∃ t, exec (.shuttleEdgeOut n) s = .next (settle t) ∧
      (chSt t n).edges = rest ∧ rb t (Reg.chSts n) 17 = (if y.act = 0 then true else if y.act = 1 then false else !rb s (Reg.chSts n) 17))

/-- RDS, when it issues, writes the item of the snapshot of its context. RDL and CHR take a slot, sample four lc later and
return eight lc later. A sample of device time captures all 64 bits for selector 1. -/
def Obligations.ShuttleReads : Prop :=
  (∀ (e : Fin 34) (d : Fin 16) (imm : BitVec 14) (s : State), let f := (ctx s e (active s e)).flags
    Issues e (.rds e d imm) s → Quiet s → imm.toNat ≤ 11 → ∃ t, exec (.rds e d imm) s = .next t ∧
      IssueFrame e 1 ((ctx s e (active s e)).pc + 1) s t ∧ Writes e d 1 (snapItem (expressSnap e (active s e) s) e (active s e) imm.toNat) f s t) ∧
  (∀ (e : Nat) (x : Ctx) (s : State), let p := (match x with | .normal => s.shed.snap | .express => (shuSt s e).snap)
    snapItem s e x 0 = wd p.time ∧ snapItem s e x 1 = wd (p.time / 2 ^ 32) ∧ snapItem s e x 2 = wd p.pick ∧
    snapItem s e x 3 = wd (p.pick / 2 ^ 32) ∧
    ∀ t, t < 4 → snapItem s e x (4 + 2 * t) = tget 0 p.phase t ∧ snapItem s e x (5 + 2 * t) = tget 0 p.cycle t) ∧
  (∀ (e : Fin 34) (d : Fin 16) (imm : BitVec 14) (s : State), Issues e (.rdl e d imm) s → Quiet s →
    rdlValid imm.toNat = true → ∃ t, exec (.rdl e d imm) s = .next t ∧ t.regs = s.regs ∧ t.mem = s.mem ∧
      AccessFrame e 8 1 (.rdl d imm.toNat none) [] s t ∧
      (s.time + 4, Timed.sample e (active s e) (shuSt s e).slotId) ∈ t.timed) ∧
  (∀ (e : Fin 34) (d a : Fin 16) (imm : BitVec 14) (s : State), Issues e (.chr e d a imm) s → Quiet s →
    selReserved (imm.toNat % 32) = false → ∃ t, exec (.chr e d a imm) s = .next t ∧ t.regs = s.regs ∧ t.mem = s.mem ∧
      AccessFrame e 8 1 (.chr d (((gr s e (active s e) a).toNat % 512 + imm.toNat / 32) % 512) (imm.toNat % 32) none) [] s t ∧
      (s.time + 4, Timed.sample e (active s e) (shuSt s e).slotId) ∈ t.timed) ∧
  (∀ (e : Nat) (x : Ctx) (s : State), (liveItem e x 0 s).1 = wd s.time ∧
    (∀ t, ctx t e x = ctx (liveItem e x 0 s).2 e x → (liveItem e x 1 t).1 = wd (s.time / 2 ^ 32)) ∧
    (∀ w, w < 32 → liveItem e x (0x80 + w) s = (regView s (Reg.winSts w), s)) ∧
    (∀ j, j < 16 → liveItem e x (0xA0 + j) s = (regView s (Reg.gctlPinlvl j), s)) ∧
    (∀ p, p < 16 → liveItem e x (0x40 + 4 * p) s = (regView s (Reg.posPosn p), s) ∧
      liveItem e x (0x41 + 4 * p) s = (regView s (Reg.posSpeed p), s) ∧
      liveItem e x (0x42 + 4 * p) s = (regView s (Reg.posSts p), s)) ∧
    liveItem e x 0xB0 s = (regView s Reg.gctlMode, s) ∧ liveItem e x 0xB1 s = (regView s Reg.gctlState, s))

/-- ARM with a register number up to 12, when it issues, submits the four words of its card, feeds W, and takes a slot
that returns the handle or refusal. DISARM takes a slot with its result: 2 where the slot number or sequence does not
match or the slot is PARKED, 0 where the card was armed and is now cancelled, 1 where it is due in this very cycle or
has fired or completed. -/
def Obligations.ShuttleCards : Prop :=
  (∀ (e : Fin 34) (d a : Fin 16) (s : State), let g := fun i => gr s e (active s e) (a.val + i)
    Issues e (.arm e d a) s → Quiet s → a.val ≤ 12 → ∃ t, exec (.arm e d a) s = .next t ∧ t.regs = s.regs ∧ t.mem = s.mem ∧
      AccessFrame e 8 1 (.arm d none) [0xC0000000#32, g 0, g 1, g 2, g 3] s t ∧
      t.chain.submit = s.chain.submit ++
        [⟨[g 0, g 1, g 2, g 3], e, active s e, (shuSt s e).slotId, decide (runBank (ctx s e (active s e)) = 1), s.time⟩]) ∧
  (∀ (e : Fin 34) (d a : Fin 16) (s : State), let h := gr s e (active s e) a
    Issues e (.disarm e d a) s → ∃ t, exec (.disarm e d a) s = .next (settle t) ∧
      AccessFrame e 8 1 (.disarm d (disarmOp h (expressSnap e (active s e) s)).1) [0xC2000000#32, h] s t) ∧
  (∀ (h : Word) (s : State), let x := slotSt s (h.toNat % 2 ^ 17)
    ((x.seq ≠ h.toNat / 2 ^ 17 % 2 ^ 11 ∨ x.st = 1) → disarmOp h s = (2, s)) ∧
    (x.seq = h.toNat / 2 ^ 17 % 2 ^ 11 → x.pending = true →
      (∀ y, cardDue s (h.toNat % 2 ^ 17) = .at_ y → y.t.lc ≠ s.time) →
      disarmOp h s = (0, freeSlot (h.toNat % 2 ^ 17) (cardRecord (h.toNat % 2 ^ 17) 3 (decidedNow s) s))) ∧
    (∀ y, x.seq = h.toNat / 2 ^ 17 % 2 ^ 11 → x.pending = true → cardDue s (h.toNat % 2 ^ 17) = .at_ y → y.t.lc = s.time →
      (disarmOp h s).1 = 1) ∧
    (x.seq = h.toNat / 2 ^ 17 % 2 ^ 11 → x.st ≠ 1 → x.pending = false → disarmOp h s = (1, s)))

/-- SIG, when it issues, replaces S by its exclusive or with the immediate and changes nothing else of the context. END
passes where S equals its immediate and no error bit is latched: a normal task then ends with W in WSIG_LAST.
Otherwise it fails: FSTS.ENDFAIL is set, SIGMIS where S differed, ENDFAIL_CNT increments, and a task with a budget
that still fits is executed again. -/
def Obligations.ShuttleEndCheck : Prop :=
  (∀ (e : Fin 34) (imm : BitVec 18) (s : State), Issues e (.sig e imm) s → Quiet s →
    ∃ t, exec (.sig e imm) s = .next t ∧ t = { s with shu := t.shu } ∧
      (ctx t e (active s e)).sig = (ctx s e (active s e)).sig ^^^ imm ∧ (ctx t e (active s e)).w = (ctx s e (active s e)).w ∧
      (ctx t e (active s e)).pc = (ctx s e (active s e)).pc + 1 ∧ (∀ r, gr t e (active s e) r = gr s e (active s e) r) ∧
      (ctx t e (active s e)).flags = (ctx s e (active s e)).flags ∧ ∀ k, k ≠ e.val → shuSt t k = shuSt s k) ∧
  (∀ (e : Fin 34) (imm : BitVec 18) (s : State), Issues e (.endTask e imm) s → active s e = .normal →
    (ctx s e .normal).sig = imm → (ctx s e .normal).err = false → (ctx s e .normal).loads = [] →
    ∃ t, exec (.endTask e imm) s = .next (settle t) ∧ (ctx t e .normal).task = none ∧
      rget t (Reg.shuWsigLast e) = runW s e ∧ (shuSt t e).pw = (shuSt s e).pw ^^^ runW s e ∧ t.mem = s.mem) ∧
  (∀ (e : Fin 34) (imm : BitVec 18) (s : State), Issues e (.endTask e imm) s → active s e = .express →
    (ctx s e .express).sig = imm → (ctx s e .express).err = false →
    ∃ t, exec (.endTask e imm) s = .next (settle t) ∧ (ctx t e .express).task = none ∧ t.mem = s.mem ∧
      (shuSt t e).back = some (s.time + 5) ∧ rget t (Reg.shuWsigLast e) = rget s (Reg.shuWsigLast e)) ∧
  (∀ (e : Fin 34) (imm : BitVec 18) (r : Run) (s : State), Issues e (.endTask e imm) s → active s e = .normal →
    (ctx s e .normal).task = some r → ((ctx s e .normal).sig ≠ imm ∨ (ctx s e .normal).err = true) →
    (ctx s e .normal).cards = [] →
    ∃ t, exec (.endTask e imm) s = .next (settle t) ∧ rb t (Reg.shuFsts e) 1 = true ∧
      rget t (Reg.shuEndfailCnt e) = satInc (rget s (Reg.shuEndfailCnt e)) ∧
      ((ctx s e .normal).sig ≠ imm → rb t (Reg.shuFsts e) 6 = true) ∧
      (if r.rerun = false ∧ r.budget ≠ 0 ∧ r.budget + 2 ≤ capacityLeft e r s then
        rget t (Reg.shuReexecCnt e) = satInc (rget s (Reg.shuReexecCnt e)) ∧ rb t (Reg.shuFsts e) 2 = true ∧
        (ctx t e .normal).task.map (fun q => (q.desc, q.rerun)) = some (r.desc, true)
       else (ctx t e .normal).task = none ∧ (r.rerun = true → rb t (Reg.shuFsts e) 3 = true)))

/-- An engine that is to halt, its accesses complete, halts at an instruction boundary and DBG.HALTED becomes 1. An engine
that stands before an enabled breakpoint, its express run within its limits and no express task about to start, sets
HALT, BRKHIT and the number of the breakpoint, and halts there once its accesses are complete. No general register or
memory changes. -/
def Obligations.ShuttleDebugStops : Prop :=
  (∀ (e : Fin 34) (s : State), (shuSt s e).issueAt ≤ s.time → running s = true → rb s (Reg.shuDbg e) 0 = true →
    rb s (Reg.shuDbg e) 8 = false → (shuSt s e).step = false → slotsHeld (shuSt s e) = 0 →
    ∃ t, exec (.halted e) s = .next (settle t) ∧ rb t (Reg.shuDbg e) 8 = true ∧ t.mem = s.mem ∧
      ∀ x r, gr t e x r = gr s e x r) ∧
  (∀ (e : Fin 34) (i : Nat) (s : State), (shuSt s e).issueAt ≤ s.time → running s = true →
    (ctx s e (active s e)).task.isSome = true → (shuSt s e).back = none → (shuSt s e).step = false →
    (shuSt s e).skipBrk = false → rb s (Reg.shuDbg e) 0 = false → withinLimit s e = true →
    (active s e = .normal → expressNear s e = false) → breakpoint s e = some i →
    ∃ t, exec (.breakpointHit e) s = .next (settle t) ∧ rb t (Reg.shuDbg e) 0 = true ∧ rb t (Reg.shuDbg e) 12 = true ∧
      rf t (Reg.shuDbg e) 13 2 = i ∧ (slotsHeld (shuSt s e) = 0 → rb t (Reg.shuDbg e) 8 = true) ∧ t.mem = s.mem ∧
      ∀ x r, gr t e x r = gr s e x r)

/-- TASK_START, when the engine may be given a task and has one due, begins it: g1 to g13 are 0, g14 is the descriptor
index, g15 the FRAME of the descriptor, the flags and S are 0, W is 0xFFFF_FFFF and the PC is ENTRY. A re-execution
begins in the same state. -/
def Obligations.TaskContext : Prop :=
  (∀ (e : Fin 34) (d : Nat) (rest : List Nat) (s : State), (engSt s e).due = d :: rest → (engSt s e).readyAt ≤ s.time →
    engOpen s e = true → expressIdle s e = true → (ctx s e .normal).task = none → Quiet s →
    ∃ t, exec (.taskStart e) s = .next t ∧ (engSt t e).due = rest ∧ (shuSt t e).issueAt = s.time ∧ t.mem = s.mem ∧
      ctx t e .express = ctx s e .express ∧ rf t (Reg.engEsts e) 0 3 = 1 ∧
      (let c := ctx t e .normal
       (∀ r, r < 14 → gr t e .normal r = 0) ∧ gr t e .normal 14 = wd (d % 4096) ∧
       gr t e .normal 15 = tget 0 s.shed.table (4 * d + 2) ∧ c.flags = {} ∧ c.sig = 0 ∧ c.w = 0xFFFFFFFF#32 ∧
       c.pc = (tget 0 s.shed.table (4 * d + 1)).toNat % 2048)) ∧
  (∀ (e : Nat) (r : Run) (s : State), let t := reexecute e r s; let c := ctx t e .normal
    (∀ k, k < 14 → gr t e .normal k = 0) ∧ gr t e .normal 14 = wd (r.desc % 4096) ∧
    gr t e .normal 15 = tget 0 s.shed.table (4 * r.desc + 2) ∧ c.flags = {} ∧ c.sig = 0 ∧ c.w = 0xFFFFFFFF#32 ∧
    c.pc = (tget 0 s.shed.table (4 * r.desc + 1)).toNat % 2048)

/-- SCAN_POINT at 160 lc before a pick start scans for it; PICK_START at a multiple of LEN starts the pick, with a
checkpoint of its number and instant. EXPRESS_START switches to the express context, whose g1 and g2 hold what the
request carries, 8 lc before its first instruction, and leaves the normal context where no division was in progress;
EXPRESS_LIMIT ends an express run that reached its limit and sets the flag of its engine; CONTEXT_RESUME returns to
the normal context. -/
def Obligations.ShedEvents : Prop :=
  (∀ s : State, picksRun s = true → s.time = nextPick s - 160 → s.time < nextPick s → scanDone s (nextPick s) = false →
    exec .scanPoint s = .next (settle (scanOp s)) ∧ (scanOp s).shed.scanned = some (nextPick s)) ∧
  (∀ s : State, picksRun s = true → nextPick s = s.time → scanDone s (nextPick s) = true → s.time % pickLenNow s = 0 →
    exec .pickStart s = .next (settle (pickEffect s)) ∧ (pickStartOp s).shed.started = true ∧ (pickStartOp s).shed.scanned = none ∧
    (pickStartOp s).shed.ckpt.pickno = nextPickNo s ∧ (pickStartOp s).shed.ckpt.pickT = s.time) ∧
  (∀ s : State, 0 < pickLenNow s ∧ nextPick s % pickLenNow s = 0 ∧ s.time ≤ nextPick s) ∧
  (∀ (e : Fin 34) (x : ExReq) (s : State), engOpen s e = true → expressIdle s e = true → boundary s e = s.time →
    nextExpress s (logicalEng s e) = some x → Quiet s →
    ∃ t, exec (.expressStart e) s = .next t ∧ active t e = .express ∧ gr t e .express 1 = x.g1 ∧ gr t e .express 2 = x.g2 ∧
      gr t e .express 14 = wd (x.desc % 4096) ∧ (ctx t e .express).flags = {} ∧
      (ctx t e .express).pc = (descWord s x.desc 1).toNat % 2048 ∧ (shuSt t e).issueAt = s.time + 8 ∧
      ((shuSt s e).divSave = none → ctx t e .normal = ctx s e .normal) ∧ t.mem = s.mem) ∧
  (∀ (e : Fin 34) (r : Run) (s : State), (ctx s e .express).task = some r → expressLimitAt s e = some s.time →
    rb s (Reg.shuDbg e) 8 = false → ∃ t, exec (.expressLimit e) s = .next (settle t) ∧ (ctx t e .express).task = none ∧
      rb t (Reg.engEsts e) 9 = true ∧ (shuSt t e).back = some (s.time + 4) ∧ t.mem = s.mem) ∧
  (∀ (e : Fin 34) (c : Nat) (s : State), (shuSt s e).back = some c → c ≤ s.time → Quiet s →
    ∃ t, exec (.contextResume e) s = .next t ∧ active t e = .normal ∧ (shuSt t e).back = none ∧
      ctx t e .normal = ctx s e .normal ∧ ctx t e .express = ctx s e .express ∧ t.mem = s.mem)

/-- A transition that the device can see changes the level of the pad; a sample of the filter, of the level that the
synchroniser presents, that equals the adopted level ends a run; the N-th sample in a row lands one cycle later. A
tick gives every channel of its harness one step; a step below RLD counts one. An RST that is due clears an EDGE_COUNT
channel. -/
def Obligations.ChannelEvents : Prop :=
  (∀ (n : Fin 512) (level : Bool) (fine : Fin 32) (s : State), let lv := level ^^ s.flt.injPin.contains n.val
    lv ≠ padLevel s n → transBefore s n ⟨s.time, fine⟩ = true →
    ((chSt s n).trans.head?.all fun y => decide (128 ≤ (32 * s.time + fine.val - y.t.steps) * 5)) = true →
    ∃ t, exec (.pinTransition n level fine) s = .next (settle t) ∧ padLevel t n = lv ∧ t.time = s.time ∧
      (∀ k, k ≠ n.val → padLevel t k = padLevel s k)) ∧
  (∀ (n : Fin 512) (s : State), live s = true → sampleAt s n = s.time → rb s (Reg.chSts n) 19 = false →
    (chSt s n).sync = rb s (Reg.chSts n) 18 →
    ∃ t, exec (.filterSample n) s = .next (settle t) ∧ (chSt t n).run = 0 ∧ (chSt t n).sampled = s.time + 1 ∧
      rget t (Reg.chGlitchCnt n) = (if 0 < (chSt s n).run then satInc (rget s (Reg.chGlitchCnt n))
        else rget s (Reg.chGlitchCnt n))) ∧
  (∀ (n : Fin 512) (s : State), let lv := (chSt s n).sync
    live s = true → sampleAt s n = s.time → (chSt s n).cand = lv → 0 < (chSt s n).run →
    lv ≠ rb s (Reg.chSts n) 18 → rf s (Reg.chFilt n) 0 8 ≤ (chSt s n).run + 1 →
    ∃ t, exec (.filterSample n) s = .next (settle t) ∧ (chSt t n).run = 0 ∧
      (s.time + 1, Timed.edgeLand n lv (chSt s n).runStart) ∈ t.timed) ∧
  (∀ (h : Fin 64) (s : State), running s = true → (harnTickAt s h).1 = s.time →
    exec (.harnessTick h) s = .next (settle (harnTickOp h s))) ∧
  (∀ (n : Fin 512) (s : State), chMode s n ≠ 3 → (chSt s n).firstLap = false → (chSt s n).restart = none →
    rn s (Reg.chCnt n) < rn s (Reg.chRld n) → rget (countStep n s) (Reg.chCnt n) = rget s (Reg.chCnt n) + 1) ∧
  (∀ (n : Fin 512) (s : State), running s = true → chMode s n = 8 →
    wireDue (.chRst n) s = true → ∃ t, exec (.edgeCountAction n) s = .next (settle t) ∧ t = edgeActs n s ∧
      rget t (Reg.chCnt n) = 0)

/-- TRIP_CUT cuts every channel that awaits the cut of its input, once its onset has been judged. BLANKING_END ends what
blanking ignored. DEAD_TIME_END lets an active edge through. A calibration step is made when its cycle ends, should no
edge of the pin fall in it: it moves one of the two delay lines of a pin by one, and the next step of that line may
follow 4,096 lc later; a line that leaves its range is noted once and keeps its last setting. -/
def Obligations.ReedEvents : Prop :=
  (∀ (h : Fin 64) (i : Fin 4) (s : State), let u := tripJudgeOp h s; let m := tget 0 (harnSt u h).cutDue i.val
    running s = true → m ≠ 0 → ∃ t, exec (.tripCut h i) s = .next (settle t) ∧ tget 0 (harnSt t h).cutDue i.val = 0 ∧
      (∀ j, j < 8 → m.testBit j = true → tripEligible u (8 * h + j) = true → isCut t (8 * h + j) = true) ∧ t.mem = s.mem ∧
      (∀ n : Fin 512, rget t (Reg.chCnt n) = rget s (Reg.chCnt n))) ∧
  (∀ (k : Fin 256) (s : State), running s = true → (reedSt s k).ign ≠ 0 → blankEnd s k ≤ s.time →
    blankOpen s k s.time = false → ∃ t, exec (.blankingEnd k) s = .next (settle t) ∧ (reedSt t k).ign = 0 ∧
      (∀ i c, i < 4 → ignored s k i = true → rb s (Reg.harnTripsts (k / 4)) (8 + i) = true →
        c ∈ tripChannels s (k / 4) i → c / 2 = k.val → isCut t c = true)) ∧
  (∀ (k : Fin 256) (q : Side) (i : Inst) (s : State), let n := sidePin k q
    (side s n).due = some i → i.lc ≤ s.time → running s = true → (side s n).edge = none → (side s n).level = false →
    ∃ t, exec (.deadTimeEnd k q) s = .next (settle t) ∧ (side t n).due = none ∧ (side t n).edge = some (i, true) ∧
      t.regs = s.regs) ∧
  (∀ (n : Fin 512) (mv : CalStep) (s : State), running s = true → (calSet s n mv.line).next ≤ s.time → noEdgeNow s n = true →
    exec (.calibrationStep n mv) s = .next (settle (schedule s.time (.calStep n mv) s))) ∧
  (∀ (n : Fin 512) (l : CalLine) (mv : CalMove) (s : State), let t := calStepOp n ⟨l, mv⟩ s
    let by_ : Int := match mv with | .up => 1 | .down => -1 | _ => 0
    (calSet s n l).next ≤ s.time → noEdgeNow s n = true →
    (calSet t n l).pos = (calSet s n l).pos + (if (calSet s n l).lost then 0 else by_) ∧
    (calSet t n l).next = s.time + 4096 ∧ (calSet t n l).lost = ((calSet s n l).lost || mv == .lost) ∧
    (∀ k, k ≠ l → calSet t n k = calSet s n k) ∧ (∀ k, k ≠ n.val / 2 → reedSt t k = reedSt s k) ∧
    (if mv = .lost ∧ (calSet s n l).lost = false then
      rb t (Reg.reedSts (n / 2)) 16 = false ∧ t.flt.det.length = s.flt.det.length + 1 else t.regs = s.regs)) ∧
  (∀ (n : Fin 512) (mv : CalStep) (s : State), noEdgeNow s n = false → calStepOp n mv s = s)

/-- For each of the eight actions, the card of a slot that is due in this cycle is dispatched, and one that has been
passed is passed. A plain card of SET, CLEAR, TOGGLE or PULSE sets, clears or inverts the output of its CARD_OUT
channel where it is the first action of its fine step there, and a PULSE then runs; LOAD_CMPA and LOAD_CMPB write the
live compare value of a channel that is not in OFF; USER_EVENT raises its source; EXPRESS makes the express request of
its descriptor. -/
def Obligations.CardsFire : Prop :=
  (∀ (n : Fin 131072) (h : How) (s : State), Fires 0 n h s → exec (.cardSet n) s = .next (settle (dispatchCard n h s))) ∧
  (∀ (n : Fin 131072) (h : How) (s : State), Fires 1 n h s → exec (.cardClear n) s = .next (settle (dispatchCard n h s))) ∧
  (∀ (n : Fin 131072) (h : How) (s : State), Fires 2 n h s → exec (.cardToggle n) s = .next (settle (dispatchCard n h s))) ∧
  (∀ (n : Fin 131072) (h : How) (s : State), Fires 3 n h s → exec (.cardPulse n) s = .next (settle (dispatchCard n h s))) ∧
  (∀ (n : Fin 131072) (h : How) (s : State), Fires 4 n h s → exec (.loadCmpa n) s = .next (settle (dispatchCard n h s))) ∧
  (∀ (n : Fin 131072) (h : How) (s : State), Fires 5 n h s → exec (.loadCmpb n) s = .next (settle (dispatchCard n h s))) ∧
  (∀ (n : Fin 131072) (h : How) (s : State), Fires 6 n h s → exec (.userEvent n) s = .next (settle (dispatchCard n h s))) ∧
  (∀ (n : Fin 131072) (h : How) (s : State), Fires 7 n h s → exec (.express n) s = .next (settle (dispatchCard n h s))) ∧
  (∀ (n : Fin 131072) (s : State), cAct (cw0 s n) = 0 → cardDue s n = .passed →
    exec (.cardSet n) s = .next (settle (passCard false n s))) ∧
  (∀ (n : Fin 131072) (s : State), cAct (cw0 s n) = 1 → cardDue s n = .passed →
    exec (.cardClear n) s = .next (settle (passCard false n s))) ∧
  (∀ (n : Fin 131072) (s : State), cAct (cw0 s n) = 2 → cardDue s n = .passed →
    exec (.cardToggle n) s = .next (settle (passCard false n s))) ∧
  (∀ (n : Fin 131072) (s : State), cAct (cw0 s n) = 3 → cardDue s n = .passed →
    exec (.cardPulse n) s = .next (settle (passCard false n s))) ∧
  (∀ (n : Fin 131072) (s : State), cAct (cw0 s n) = 4 → cardDue s n = .passed →
    exec (.loadCmpa n) s = .next (settle (passCard false n s))) ∧
  (∀ (n : Fin 131072) (s : State), cAct (cw0 s n) = 5 → cardDue s n = .passed →
    exec (.loadCmpb n) s = .next (settle (passCard false n s))) ∧
  (∀ (n : Fin 131072) (s : State), cAct (cw0 s n) = 6 → cardDue s n = .passed →
    exec (.userEvent n) s = .next (settle (passCard false n s))) ∧
  (∀ (n : Fin 131072) (s : State), cAct (cw0 s n) = 7 → cardDue s n = .passed →
    exec (.express n) s = .next (settle (passCard false n s))) ∧
  (∀ (n : Fin 131072) (h : How) (s : State), let c := cChan (cw0 s n); FiresPlain 0 n h s → chMode s c = 9 → firstOfStep c h.t s = true →
    ∃ t, exec (.cardSet n) s = .next (settle t) ∧ chOut t c = true) ∧
  (∀ (n : Fin 131072) (h : How) (s : State), let c := cChan (cw0 s n); FiresPlain 1 n h s → chMode s c = 9 → firstOfStep c h.t s = true →
    ∃ t, exec (.cardClear n) s = .next (settle t) ∧ chOut t c = false) ∧
  (∀ (n : Fin 131072) (h : How) (s : State), let c := cChan (cw0 s n); FiresPlain 2 n h s → chMode s c = 9 → firstOfStep c h.t s = true →
    ∃ t, exec (.cardToggle n) s = .next (settle t) ∧ chOut t c = !chOut s c) ∧
  (∀ (n : Fin 131072) (h : How) (s : State), let c := cChan (cw0 s n); FiresPlain 3 n h s → chMode s c = 9 → firstOfStep c h.t s = true → RecordsApart s →
    ∃ t, exec (.cardPulse n) s = .next (settle t) ∧ chOut t c = true ∧ (slotSt t n).st = 4) ∧
  (∀ (n : Fin 131072) (h : How) (s : State), let c := cChan (cw0 s n); FiresPlain 4 n h s → chMode s c ≠ 0 → (chSt s c).xferAt ≠ s.time + 1 →
    ∃ t, exec (.loadCmpa n) s = .next (settle t) ∧ rget t (Reg.chCmpa c) = cardWord s n 3) ∧
  (∀ (n : Fin 131072) (h : How) (s : State), let c := cChan (cw0 s n); FiresPlain 5 n h s → chMode s c ≠ 0 → (chSt s c).xferAt ≠ s.time + 1 →
    ∃ t, exec (.loadCmpb n) s = .next (settle t) ∧ rget t (Reg.chCmpb c) = cardWord s n 3) ∧
  (∀ (n : Fin 131072) (h : How) (s : State), let c := cChan (cw0 s n); FiresPlain 6 n h s → 
    ∃ t, exec (.userEvent n) s = .next (settle t) ∧ t = completeCard n 0 h (raise (2688 + c) (acting n h s))) ∧
  (∀ (n : Fin 131072) (h : How) (s : State), let u := acting n h s; let d := 4096 * exHalfNow u + fld (cardWord s n 3) 0 12; FiresPlain 7 n h s → bit (tget 0 u.shed.table (4 * d)) 31 = true →
    fld (tget 0 u.shed.table (4 * d)) 6 2 = 3 → fld (tget 0 u.shed.table (4 * d)) 0 6 ≤ 31 →
    ∃ t, exec (.express n) s = .next (settle t) ∧ (let p := expressRequest d (0x80000000#32 + wd n) (u, []); t = completeCard n 0 h (forEach p.2 raise p.1))) ∧
  (∀ (d : Nat) (g1 : Word) (s : State), let e := fld (tget 0 s.shed.table (4 * d)) 0 6
    (engSt s e).held = false → s.flt.copying = false → (∀ x ∈ s.shed.exPend, x.desc ≠ d) →
    (expressRequest d g1 (s, [])).1.shed.exPend = s.shed.exPend ++ [⟨d, g1, wd s.time⟩] ∧ (expressRequest d g1 (s, [])).2 = [])

/-- CARD_PLACE, from the cycle after the ARM on, refuses a card that is not valid and one for which no slot is free, each
with its code and one count; otherwise the card takes the lowest free slot, whose sequence number rises and which
keeps its words, and its handle is given; a time card with a later stamp then waits there. NEAR_PROMOTION takes a card
into the near window. A record takes 16 bytes at CR_WR and no other byte. PULSE_END and CAP_END end a pulse when the
chain comes to it: the output becomes inactive where no other pulse of its channel runs. -/
def Obligations.CardsPlacedAndEnded : Prop :=
  (∀ (u : Submit) (rest : List Submit) (s : State), s.chain.submit = u :: rest → u.at_ + 1 ≤ s.time → running s = true →
    exec .cardPlace s = .next (settle (placeSubmit u { s with chain := { s.chain with submit := rest } }))) ∧
  (∀ (u : Submit) (s : State), (mode s = 9 ∨ u.gen ≠ curGen s ∨ cardValid s (u.words.getD 0 0) (u.words.getD 2 0) (u.words.getD 3 0) = false →
      placeSubmit u s = giveHandle u 0x80000002#32 (refuseCard s)) ∧
    (mode s ≠ 9 → u.gen = curGen s → cardValid s (u.words.getD 0 0) (u.words.getD 2 0) (u.words.getD 3 0) = true →
      lowestFree s = none → placeSubmit u s = giveHandle u 0x80000001#32 (refuseCard s)) ∧
    rget (refuseCard s) Reg.cardRefuseCnt = satInc (rget s Reg.cardRefuseCnt)) ∧
  (∀ (u : Submit) (rest : List Submit) (k : Nat) (s : State), let w := fun i => u.words.getD i 0
    let q := { s with chain := { s.chain with submit := rest } }; let T := (w 1).toNat + 2 ^ 32 * fld (w 2) 0 24
    s.chain.submit = u :: rest → u.at_ + 1 ≤ s.time → running s = true → mode s ≠ 9 → u.gen = curGen q → cardValid q (w 0) (w 2) (w 3) = true →
    cAngle (w 0) = false → s.time ≤ T → T < s.time + 2 ^ 55 → u.at_ + 24 ≤ T → lowestFree q = some k →
    Memory.wf s.mem = true → s.store.marks = [] →
    ∃ t, exec .cardPlace s = .next (settle (giveHandle u (cardHandle t k) t)) ∧ (slotSt t k).pending = true ∧
      (slotSt t k).seq = ((slotSt s k).seq + 1) % 2048 ∧ (slotSt t k).gen = u.gen ∧
      (∀ i, i < 4 → cardWord t k i = w i) ∧ rget t Reg.cardRefuseCnt = rget s Reg.cardRefuseCnt) ∧
  (∀ (n st : Nat) (gen chained : Bool) (ws : List Word) (s : State),
    (slotSt (takeFree n st gen chained ws s) n).seq = ((slotSt s n).seq + 1) % 2048 ∧
    (slotSt (takeFree n st gen chained ws s) n).st = st) ∧
  (∀ (n : Fin 131072) (s : State), promoteAt s n ≤ s.time → promotes s n = true →
    ∃ t, exec (.nearPromotion n) s = .next (settle t) ∧ t.mem = s.mem ∧
      (if (slotSt s n).st = 2 then (slotSt t n).st = 3 else (slotSt t n).endNear = true) ∧
      (slotSt t n).seq = (slotSt s n).seq) ∧
  (∀ (n outcome : Nat) (h : How) (s : State), let size := rn s Reg.cardCrSize
    let a := rn s Reg.cardCrBase + 16 * rn s Reg.cardCrWr
    Memory.wf s.mem = true → s.store.marks = [] → rb s Reg.cardCtl 0 = true → (cQuiet (cw0 s n) = false ∨ 2 < outcome) →
    ringFill s + 1 < size →
    rget (cardRecord n outcome h s) Reg.cardCrWr = wd ((rn s Reg.cardCrWr + 1) % size) ∧
    (∀ c, c < a ∨ a + 16 ≤ c → mget (cardRecord n outcome h s).mem c = mget s.mem c) ∧
    loaded (cardRecord n outcome h s) a 4 = n % 2 ^ 17 + 2 ^ 17 * ((slotSt s n).seq % 2 ^ 11) + 2 ^ 28 * (outcome % 16)) ∧
  (∀ (n : Fin 131072) (h : How) (s : State), pulseDue s n = .at_ h → ActsNext (.pulseEnd n) h s →
    exec (.pulseEnd n) s = .next (settle (endPulse n 2 h (dispatchOne s)))) ∧
  (∀ (n : Fin 131072) (h : How) (s : State), let c := cChan (cw0 s n)
    pulseDue s n = .at_ h → ActsNext (.pulseEnd n) h s → (slotSt s n).left = false → cRepeat (cw0 s n) = false →
    runningOn s c = [n.val] → s.store.marks = [] → RecordsApart s → firstOfStep c h.t s = true →
    ∃ t, exec (.pulseEnd n) s = .next (settle t) ∧ chOut t c = false ∧ (slotSt t n).st = 0) ∧
  (∀ (n : Fin 131072) (c : Nat) (q : Inst) (s : State), capWaits s n = some (c, q) → ActsNext (.capEnd c) (lateBy s q) s →
    running s = true → exec (.capEnd n) s = .next (settle (endAngle c 8 (lateBy s q) (dispatchOne s)))) ∧
  (∀ (n : Fin 131072) (c : Nat) (q : Inst) (s : State), capWaits s n = some (c, q) → ActsNext (.capEnd c) (lateBy s q) s →
    running s = true → (chSt s c).pulse ≠ none → firstOfStep c (lateBy s q).t s = true →
    ∃ t, exec (.capEnd n) s = .next (settle t) ∧ chOut t c = false ∧ (chSt t c).pulse = none)

/-- TOOTH and SECONDARY_EDGE of an edge that has landed judge it as the state of the tracker says. In SYNCED a tooth that
passes its ratio check moves the anchor on by the span of its interval and the tracker stays SYNCED; one that fails it
makes an anomaly and, without LIMP, a loss of sync with its code, and with LIMP and SEC_OK the state LIMP; the first
tooth after a stall returns the tracker to SYNCED without a rate. A secondary edge in window sets SEC_OK; in LIMP one
out of window is a loss of sync. CYCLE_START counts a cycle. A secondary window passed without its edge clears SEC_OK,
and with SEC_STRICT is a loss of sync. STALL at the stall limit counts and makes the tracker STALLED at rate 0: at
once on a wheel, and when the cycle ends where words or beacons are the teeth, unless one of that cycle has moved the
limit; a loss of sync that SEC_STRICT asks for in the same cycle comes first. BEACON_MISS makes a tracker in CONFIRM
or above LOST. -/
def Obligations.TrackerEvents : Prop :=
  (∀ (t : Fin 4) (i : Nat) (s : State), landed s (.tooth t i) = true →
    exec (.tooth t i) s = .next (settle (takeEdge (.tooth t i) s))) ∧
  (∀ (t : Fin 4) (j : Nat) (p : Tooth) (s : State), let i := slumberInst s j; let n := spanN s t p.k; landed s (.tooth t j) = true → trdState s t = 3 →
    (trdSt s t).prev = some p → toothCode s t p i n = 0 →
    ∃ u, exec (.tooth t j) s = .next (settle u) ∧ trdState u t = 3 ∧
      (trdSt u t).a = (trdSt s t).a + (spanPu s t p.k n : Nat)) ∧
  (∀ (t : Fin 4) (j : Nat) (p : Tooth) (s : State), let i := slumberInst s j; let c := toothCode s t p i (spanN s t p.k); landed s (.tooth t j) = true →
    trdState s t = 3 → (trdSt s t).prev = some p → c ≠ 0 → (rb s (Reg.trdCtl t) 4 && rb s (Reg.trdSts t) 4) = false →
    ∃ u, exec (.tooth t j) s = .next (settle u) ∧ trdState u t = 1 ∧
      rf u (Reg.trdLoss t) 0 4 = c ∧ rget u (Reg.trdAnomCnt t) = satInc (rget s (Reg.trdAnomCnt t))) ∧
  (∀ (t : Fin 4) (j : Nat) (p : Tooth) (s : State), let i := slumberInst s j; landed s (.tooth t j) = true → trdState s t = 3 →
    (trdSt s t).prev = some p → toothCode s t p i (spanN s t p.k) ≠ 0 → rb s (Reg.trdCtl t) 4 = true → rb s (Reg.trdSts t) 4 = true →
    strictMiss s t = false →
    ∃ u, exec (.tooth t j) s = .next (settle u) ∧ trdState u t = 4 ∧ rget u (Reg.trdLimpCnt t) = satInc (rget s (Reg.trdLimpCnt t))) ∧
  (∀ (t : Fin 4) (j : Nat) (s : State), landed s (.tooth t j) = true → trdState s t = 5 → (trdSt s t).limpStall = false →
    (trdSt s t).prev ≠ none →
    ∃ u, exec (.tooth t j) s = .next (settle u) ∧ trdState u t = 3 ∧ rb u (Reg.trdSts t) 5 = true) ∧
  (∀ (t : Fin 4) (st : Nat) (s : State), st < 8 → trdState (setTrdState t st s) t = st ∧
    rb (setTrdState t st s) (Reg.trdSts t) 3 = decide (3 ≤ st)) ∧
  (∀ (t : Fin 4) (i : Nat) (s : State), landed s (.second t i) = true →
    exec (.secondaryEdge t i) s = .next (settle (takeEdge (.second t i) s))) ∧
  (∀ (t : Fin 4) (j : Nat) (x : Nat × Int) (s : State), landed s (.second t j) = true → trdState s t = 3 →
    secondaryHit s t (slumberInst s j) = some x →
    ∃ u, exec (.secondaryEdge t j) s = .next (settle u) ∧ trdState u t = 3 ∧ rb u (Reg.trdSts t) 4 = true) ∧
  (∀ (t : Fin 4) (j : Nat) (s : State), landed s (.second t j) = true → trdState s t = 4 →
    secondaryHit s t (slumberInst s j) = none →
    ∃ u, exec (.secondaryEdge t j) s = .next (settle u) ∧ trdState u t = 1 ∧ rf u (Reg.trdLoss t) 0 4 = 9) ∧
  (∀ (t : Fin 4) (s : State), 3 ≤ trdState s t → running s = true → nextCycleStart s t ≤ phi s t s.time →
    ∃ u, exec (.cycleStart t) s = .next (settle u) ∧ (trdSt u t).seen = (trdSt s t).seen + 1 ∧
      trdState u t = trdState s t ∧ u.mem = s.mem) ∧
  (∀ (t : Fin 4) (i : Fin 8) (s : State), live s = true → trdState s t = 3 → windowPassed s t i = true →
    ∃ u, exec (.secondaryWindowMiss t i) s = .next (settle u) ∧ rb u (Reg.trdSts t) 4 = false ∧
      trdState u t = if rb s (Reg.trdCtl t) 5 then 1 else 3) ∧
  (∀ (t : Fin 4) (c : Nat) (s : State), let q := judgeEdges t s
    stallCycle s t = some c → c ≤ s.time → live s = true → stallDue q t = true → trdSrc s t = 0 → strictMiss q t = false →
    ∃ u, exec (.stall t) s = .next (settle u) ∧ trdState u t = 5 ∧
      rget u (Reg.trdStallCnt t) = satInc (rget q (Reg.trdStallCnt t)) ∧ rget u (Reg.trdRate t) = 0) ∧
  (∀ (t : Fin 4) (c : Nat) (s : State), stallCycle s t = some c → c ≤ s.time → live s = true →
    stallDue (judgeEdges t s) t = true → trdSrc s t ≠ 0 → exec (.stall t) s = .next (settle (schedule s.time (.stall t) s))) ∧
  (∀ (t : Fin 4) (s : State), let u := stallEnd t s
    (stallDue s t = false → u = s) ∧ (stallDue s t = true → strictMiss s t = false → trdState u t = 5 ∧
      rget u (Reg.trdStallCnt t) = satInc (rget s (Reg.trdStallCnt t)) ∧ rget u (Reg.trdRate t) = 0)) ∧
  (∀ (t : Fin 4) (s : State), live s = true → beaconMissed s t = true →
    ∃ u, exec (.beaconMiss t) s = .next (settle u) ∧ trdState u t = 1 ∧
      (3 ≤ trdState s t → rf u (Reg.trdLoss t) 0 4 = 7 ∧ rget u (Reg.trdLossCnt t) = satInc (rget s (Reg.trdLossCnt t))))

/-- A sample of the interface filter is taken at its cycle. An event that LATCFG names latches position, time and speed;
the latch lands when its cycle ends (the order of its cycle is the choice of log entry 14), sets LATF, and counts an
overrun where LATF was 1. STANDSTILL sets STILL. A frame starts when the line is free, and is skipped and counted when
it is not. The word of the oldest frame, the levels of the data line at its samples, lands once its last sample lies
behind: its data enters LASTWORD, and one that fails its checks is a serial error with its code; DATA_TIMEOUT counts a
serial error with code 4. Setting a position with LIM_EN = 1 clamps it between LIM_LO and LIM_HI and STS.AT_LIM
follows; with LIM_EN = 0 it wraps modulo 2^32. LOAD sets the position to SETPOS and restarts the speed history, the
measured speed standing. -/
def Obligations.PositionEvents : Prop :=
  (∀ (i : Fin 16) (s : State), posSampleAt s i = s.time → live s = true → posOn s i = true →
    exec (.posFilterSample i) s = .next (settle (posSampleOp i s)) ∧ (posSt (posSampleOp i s) i).sampled = s.time + 1) ∧
  (∀ (i : Fin 16) (s : State), live s = true → posOn s i = true → wireDue (.posLatch i) s = true →
    ∃ t l, exec (.eventLatch i) s = .next (settle t) ∧ wireDue (.posLatch i) t = false ∧ (s.time, Timed.latDue i l) ∈ t.timed ∧
      l.pos = countedPos s i ∧ l.t = 32 * s.time ∧ l.spd = posSpeed s i) ∧
  (∀ (i : Fin 16) (l : Latch) (s : State), let t := storeLatch i l s
    rget t (Reg.posLatPos i) = l.pos ∧ rb t (Reg.posSts i) 0 = true ∧ (posSt t i).lat = l ∧
    rget t (Reg.posLatOvrCnt i) = if rb s (Reg.posSts i) 0 then satInc (rget s (Reg.posLatOvrCnt i)) else rget s (Reg.posLatOvrCnt i)) ∧
  (∀ (i : Fin 16) (c : Nat) (s : State), live s = true → posOn s i = true → rb s (Reg.posSts i) 18 = false →
    stillCycle s i = some c → c ≤ s.time → ∃ t, exec (.standstill i) s = .next (settle t) ∧ rb t (Reg.posSts i) 18 = true) ∧
  (∀ (i : Fin 16) (c : Nat) (s : State), frameDue s i = some c → c ≤ s.time → running s = true → posOn s i = true →
    posSerial s i = true → frameFree s i = true → ∃ t, exec (.frameStart i) s = .next (settle t) ∧
      (posSt t i).frame = some s.time ∧ rb t (Reg.posSts i) 21 = true ∧
      rget t (Reg.posSkipCnt i) = rget s (Reg.posSkipCnt i)) ∧
  (∀ (i : Fin 16) (c : Nat) (s : State), frameDue s i = some c → c ≤ s.time → running s = true → posOn s i = true →
    posSerial s i = true → frameFree s i = false → ∃ t, exec (.frameStart i) s = .next (settle t) ∧
      (posSt t i).frame = (posSt s i).frame ∧ rget t (Reg.posSkipCnt i) = satInc (rget s (Reg.posSkipCnt i))) ∧
  (∀ (i : Fin 16) (bits : BitVec 64) (t0 : Nat) (rest : List Nat) (s : State), (posSt s i).words = t0 :: rest →
    lastSample s i t0 < s.time → running s = true → bits = frameSample s i t0 →
    ∃ t, exec (.wordLanding i bits) s = .next (settle t) ∧ (posSt t i).words = rest ∧
      rget t (Reg.posLastword i) = wd (wordCheck s i bits).2 ∧
      ((wordCheck s i bits).1 ≠ 0 → rf t (Reg.posSts i) 10 3 = (wordCheck s i bits).1 ∧
        rget t (Reg.posSerErrCnt i) = satInc (rget s (Reg.posSerErrCnt i))) ∧
      ((wordCheck s i bits).1 = 0 → rn s (Reg.posJumpMax i) = 0 → rb t (Reg.posSts i) 16 = true ∧ rb t (Reg.posSts i) 19 = false)) ∧
  (∀ (i : Fin 16) (c : Nat) (s : State), returnLimit s i = some c → c ≤ s.time → running s = true → posOn s i = true →
    ∃ t, exec (.dataTimeout i) s = .next (settle t) ∧ (posSt t i).retWait = none ∧
      rf t (Reg.posSts i) 10 3 = 4 ∧ rget t (Reg.posSerErrCnt i) = satInc (rget s (Reg.posSerErrCnt i))) ∧
  (∀ (i : Fin 16) (x : Int) (s : State), limEn s i = false →
    rget (setPosition i x s) (Reg.posPosn i) = BitVec.ofInt 32 x) ∧
  (∀ (i : Fin 16) (x : Int) (s : State), limEn s i = true → limLo s i ≤ limHi s i →
    posX (setPosition i x s) i = max (limLo s i) (min (limHi s i) x) ∧
    (posX (setPosition i x s) i = limLo s i ∨ posX (setPosition i x s) i = limHi s i →
      rb (setPosition i x s) (Reg.posSts i) 20 = true)) ∧
  (∀ (i : Fin 16) (s : State), limEn s i = false → rget (posLoadOp i s) (Reg.posPosn i) = rget s (Reg.posSetpos i) ∧
    (posSt (posLoadOp i s) i).hist = [] ∧ (posSt (posLoadOp i s) i).meas = (posSt s i).meas)

/-- A heddle engine that executes a JMP goes on at ADDR where the condition holds and at the next instruction where it
does not; condition 1 counts K down before its test. A pin field that reaches pin L is a fault with code 3. -/
def Obligations.HeddleJumps : Prop :=
  (∀ (e : Fin 64) (f : BitVec 12) (s : State), let cond := hf f 10 8; let pin := hf f 7 5; let k := rget s (Reg.hedK e)
    let taken := (match cond with
      | 0 => true
      | 1 => k - 1#32 != 0
      | 2 => k == 0
      | 3 => hedF s e
      | 4 => !hedF s e
      | 5 => hedRead s e pin
      | 6 => !hedRead s e pin
      | _ => tcnt s e != 0)
    HedExecutes e 1 f s → (cond = 5 ∨ cond = 6 → pin < hedL s e) →
    ∃ t, exec (.hedJmp e f) s = .next (settle t) ∧ HedFrame e (if taken then hf f 15 11 else hedPc s e + 1) s t ∧
      rget t (Reg.hedK e) = (if cond = 1 then k - 1#32 else k) ∧ rget t (Reg.hedV e) = rget s (Reg.hedV e) ∧
      hedF t e = hedF s e ∧ rget t (Reg.hedTsr e) = rget s (Reg.hedTsr e) ∧ rget t (Reg.hedRsr e) = rget s (Reg.hedRsr e)) ∧
  (∀ (e : Fin 64) (f : BitVec 12) (s : State), HedExecutes e 1 f s → (hf f 10 8 = 5 ∨ hf f 10 8 = 6) →
    hedL s e ≤ hf f 7 5 → exec (.hedJmp e f) s = .next (settle (hedFault e 3 (hedSync e s))))

/-- OUT to K shifts N bits out of TSR, most or least significant first as the header says, into K, and counts TCNT down to
no less than 0; IN from K shifts the N low bits of K into RSR and counts RCNT up to no more than 32. The shifts are
exact for N = 32. -/
def Obligations.HeddleShifts : Prop :=
  (∀ (e : Fin 64) (f : BitVec 12) (s : State), let n := hf f 13 9 + 1; let tsr := (rget s (Reg.hedTsr e)).toNat; HedExecutes e 3 f s → hf f 15 14 = 1 →
    ∃ t, exec (.hedOut e f) s = .next (settle t) ∧ HedFrame e (hedPc s e + 1) s t ∧
      (if bit (hdr s e 0) 16 then (rget t (Reg.hedK e)).toNat = tsr % 2 ^ n ∧ (rget t (Reg.hedTsr e)).toNat = tsr / 2 ^ n
       else (rget t (Reg.hedK e)).toNat = tsr / 2 ^ (32 - n) ∧ (rget t (Reg.hedTsr e)).toNat = tsr * 2 ^ n % 2 ^ 32) ∧
      tcnt t e = tcnt s e - n ∧ hedF t e = hedF s e ∧ rget t (Reg.hedV e) = rget s (Reg.hedV e)) ∧
  (∀ (e : Fin 64) (f : BitVec 12) (s : State), let n := hf f 13 9 + 1; let rsr := (rget s (Reg.hedRsr e)).toNat
    let v := (rget s (Reg.hedK e)).toNat % 2 ^ n; HedExecutes e 4 f s → hf f 15 14 = 1 →
    ∃ t, exec (.hedIn e f) s = .next (settle t) ∧ HedFrame e (hedPc s e + 1) s t ∧
      (if bit (hdr s e 0) 17 then (rget t (Reg.hedRsr e)).toNat = rsr / 2 ^ n + v * 2 ^ (32 - n)
       else (rget t (Reg.hedRsr e)).toNat = rsr * 2 ^ n % 2 ^ 32 + v) ∧
      rcnt t e = min 32 (rcnt s e + n) ∧ rget t (Reg.hedK e) = rget s (Reg.hedK e) ∧
      hedF t e = (if hf f 5 5 = 1 then v.testBit (n - 1) else hedF s e))

/-- What WAIT, PULL, PUSH, SET, MOV, CRC and STAMP leave in K, V, F, TSR, RSR, the FIFOs and the CRC at a tick; a WAIT
whose condition is false stalls, and a limit that has passed ends it with F = 1. An opcode without an instruction is a
fault that stops the engine, and takes a swap that is pending. -/
def Obligations.HeddleInstructions : Prop :=
  (∀ (e : Fin 64) (f : BitVec 12) (s : State), HedExecutes e 2 f s → hf f 15 14 = 1 → rb s (Reg.hedSts e) 13 = true →
    ∃ t, exec (.hedWait e f) s = .next (settle t) ∧ HedFrame e (hedPc s e + 1) s t ∧ hedF t e = false ∧ rb t (Reg.hedSts e) 13 = false) ∧
  (∀ (e : Fin 64) (f : BitVec 12) (s : State), HedExecutes e 2 f s → hf f 15 14 = 0 → hf f 12 10 < hedL s e → hedRead s e (hf f 12 10) = decide (hf f 13 13 = 1) →
    ∃ t, exec (.hedWait e f) s = .next (settle t) ∧ HedFrame e (hedPc s e + 1) s t ∧ hedF t e = false) ∧
  (∀ (e : Fin 64) (f : BitVec 12) (s : State), HedExecutes e 2 f s → hf f 15 14 = 1 → rb s (Reg.hedSts e) 13 = false → hf f 9 4 = 0 →
    ∃ t, exec (.hedWait e f) s = .next (settle t) ∧ hedPc t e = hedPc s e ∧ (hedSt t e).stall.isSome = true ∧ hedF t e = hedF s e ∧
      hedState t e = (if rb s (Reg.hedDbg e) 8 then 3 else 2)) ∧
  (∀ (e : Fin 64) (f : BitVec 12) (s : State), HedExecutes e 2 f s → hf f 15 14 = 2 →
    ∃ t, exec (.hedWait e f) s = .next (settle t) ∧ HedFrame e (hedPc s e + 1) s t ∧ (hedSt t e).occ = hf f 13 4 ∧ hedF t e = hedF s e) ∧
  (∀ (e : Fin 64) (s : State), hedTickAt s e = s.time → hedMayExec s e = true → hedBadWord s e = false →
    waitPast (hedSync e s) e = true → waitFalse (hedSync e s) e = true →
    ∃ t, exec (.waitLimit e) s = .next (settle t) ∧ HedFrame e (hedPc s e + 1) s t ∧ hedF t e = true ∧
      rb t (Reg.hedSts e) 13 = rb s (Reg.hedSts e) 13) ∧
  (∀ (e : Fin 64) (f : BitVec 12) (w : Word) (rest : List Word) (s : State), HedExecutes e 5 f s → (hedSt s e).tx = w :: rest →
    ∃ t, exec (.hedPull e f) s = .next (settle t) ∧ HedFrame e (hedPc s e + 1) s t ∧ rget t (Reg.hedTsr e) = w ∧ tcnt t e = 32 ∧ hedF t e = false ∧ (hedSt t e).tx = rest) ∧
  (∀ (e : Fin 64) (f : BitVec 12) (s : State), HedExecutes e 5 f s → (hedSt s e).tx = [] → hf f 15 15 = 0 →
    ∃ t, exec (.hedPull e f) s = .next (settle t) ∧ HedFrame e (hedPc s e + 1) s t ∧ hedF t e = true ∧ rb t (Reg.hedSts e) 0 = true ∧
      rget t (Reg.hedTxufCnt e) = satInc (rget s (Reg.hedTxufCnt e))) ∧
  (∀ (e : Fin 64) (f : BitVec 12) (s : State), HedExecutes e 6 f s → (hedSt s e).rx.length < 4 →
    ∃ t, exec (.hedPush e f) s = .next (settle t) ∧ HedFrame e (hedPc s e + 1) s t ∧ (hedSt t e).rx = (hedSt s e).rx ++ [rget s (Reg.hedRsr e)] ∧
      rget t (Reg.hedRsr e) = 0 ∧ rcnt t e = 0 ∧ hedF t e = false) ∧
  (∀ (e : Fin 64) (f : BitVec 12) (s : State), HedExecutes e 7 f s → hf f 15 14 = 2 →
    ∃ t, exec (.hedSet e f) s = .next (settle t) ∧ HedFrame e (hedPc s e + 1) s t ∧ rget t (Reg.hedK e) = wd (hf f 13 4) ∧ rget t (Reg.hedV e) = rget s (Reg.hedV e)) ∧
  (∀ (e : Fin 64) (f : BitVec 12) (s : State), HedExecutes e 7 f s → hf f 15 14 = 3 →
    ∃ t, exec (.hedSet e f) s = .next (settle t) ∧ HedFrame e (hedPc s e + 1) s t ∧ rget t (Reg.hedV e) = wd (hf f 13 4) ∧ rget t (Reg.hedK e) = rget s (Reg.hedK e)) ∧
  (∀ (e : Fin 64) (f : BitVec 12) (s : State), let v := rget s (Reg.hedV e); HedExecutes e 8 f s → hf f 15 13 = 0 → hf f 12 10 = 1 →
    ∃ t, exec (.hedMov e f) s = .next (settle t) ∧ HedFrame e (hedPc s e + 1) s t ∧ rget t (Reg.hedK e) = (match hf f 9 8 with
        | 0 => v
        | 1 => ~~~v
        | 2 => revBytes v
        | _ => revBits v) ∧ rget t (Reg.hedV e) = v) ∧
  (∀ (e : Fin 64) (f : BitVec 12) (s : State), HedExecutes e 8 f s → hf f 15 13 = 2 → hf f 12 10 = 6 → hf f 9 8 = 0 →
    ∃ t, exec (.hedMov e f) s = .next (settle t) ∧ HedFrame e (hedPc s e + 1) s t ∧ rget t (Reg.hedRsr e) = wd s.time ∧ rcnt t e = 0) ∧
  (∀ (e : Fin 64) (f : BitVec 12) (s : State), let w := crcWidth s e; HedExecutes e 9 f s → hf f 15 14 = 2 → hf f 8 8 = 1 →
    ∃ t, exec (.hedCrc e f) s = .next (settle t) ∧ HedFrame e (hedPc s e + 1) s t ∧
      rget t (Reg.hedCrcval e) = wd (hedCrcFeed w (fld (hdr s e 2) 0 16 % 2 ^ w) (hf f 13 9 + 1) (fld (hdr s e 2) 16 16 % 2 ^ w)
        (rget s (Reg.hedK e)).toNat) ∧ rget t (Reg.hedK e) = rget s (Reg.hedK e)) ∧
  (∀ (e : Fin 64) (f : BitVec 12) (s : State), HedExecutes e 10 f s → hf f 15 15 = 0 → hf f 13 13 = 1 →
    ∃ t, exec (.hedStamp e f) s = .next (settle t) ∧ HedFrame e (hedPc s e + 1) s t ∧ rget t (Reg.hedV e) = wd (32 * s.time) ∧ hedF t e = false) ∧
  (∀ (e : Fin 64) (s : State), hedTickAt s e = s.time → hedMayExec s e = true → hedNoOpcode s e = true →
    hedBadWord s e = false → ∃ t, exec (.hedInvalidOpcode e) s = .next (settle t) ∧
      (rb s (Reg.hedSts e) 12 = false → hedState t e = 4 ∧ rb t (Reg.hedCtl e) 0 = false) ∧
      (rb s (Reg.hedSts e) 12 = true → hedBank t e = 1 - hedBank s e) ∧
      rf t (Reg.hedFault e) 0 8 = 1 ∧ rf t (Reg.hedFault e) 8 5 = hedPc s e)

/-- A raise of the trigger of an engine sets its pending bit. A swap at the swap point, or of a stopped engine, puts the
other bank in force and ends the pending state; a forced swap does so at its limit and is counted. -/
def Obligations.HeddleEvents : Prop :=
  (∀ (e : Fin 64) (s : State), live s = true → wireDue (.hedTrig e) s = true → rb s (Reg.hedTrig e) 15 = true → Quiet s →
    ∃ t, exec (.hedTriggerPending e) s = .next t ∧ rb t (Reg.hedSts e) 13 = true ∧ t.hed = s.hed ∧
      (∀ a, a ≠ Reg.hedSts e → rget t a = rget s a)) ∧
  (∀ (e : Fin 64) (s : State), running s = true → rb s (Reg.hedSts e) 12 = true → hedHalted s e = false →
    cleanSwapAt s e = s.time → (hedStopped s e = true ∨ atSwapPoint s e = true) →
    ∃ t, exec (.cleanSwap e) s = .next (settle t) ∧ hedBank t e = 1 - hedBank s e ∧ rb t (Reg.hedSts e) 12 = false ∧
      (hedSt t e).swapAt = none) ∧
  (∀ (e : Fin 64) (c : Nat) (s : State), running s = true → rb s (Reg.hedSts e) 12 = true → hedHalted s e = false →
    cleanSwapDue s e = false → (hedSt s e).swapAt = some c → c ≤ s.time →
    ∃ t, exec (.forcedSwap e) s = .next (settle t) ∧ hedBank t e = 1 - hedBank s e ∧ rb t (Reg.hedSts e) 12 = false ∧
      rget t (Reg.hedForcedCnt e) = satInc (rget s (Reg.hedForcedCnt e)) ∧ rget t (Reg.hedShiftK e) = rget s (Reg.hedK e))

/-- A comparator out of INDET and hold changes its output with its window, events and captures. An INDET evaluation takes
the value for the input; with a hysteresis and an input within the band it stays in INDET. The end of a hold adopts
the value for the input, unless the first evaluation after INDET is still to come. A trigger whose raise arrives at a
converter that runs is pending, and is discarded otherwise; the pending sequence of the lowest index begins; a
conversion takes the converter for 200 lc and gives its result 204 lc after its start, which a slot of a sequence then
shows; readbacks fall due at their interval. -/
def Obligations.ComparatorsAndConverter : Prop :=
  (∀ (c : Fin 64) (out : Bool) (instant : Nat) (s : State), let t := cmpChange c out (slumberTime s (instOf instant)) (ticksFirst s)
    cmpMayChange s c out (instOf instant) = true → exec (.comparatorChange c out instant) s = .next (settle t) ∧
    cmpOut t c = out) ∧
  (∀ (c : Fin 64) (x : Analog) (n : Nat) (s : State), let t := cmpEvaluate c x s
    indetEvalAt s c = some n → n ≤ s.time → live s = true → cmpEn s c = true → cmpIndet s c = true → exec (.indetEvaluation c x) s = .next (settle t) ∧
    (x = .above → t = cmpAdopt c true s) ∧ (x = .below → t = cmpAdopt c false s) ∧
    (x = .band → rf s (cmpReg c) 4 4 ≠ 0 → cmpIndet t c = true ∧ (cmpSt t c).evalAt = none ∧ t.regs = s.regs)) ∧
  (∀ (c : Fin 64) (lv : Bool) (s : State), let t := winLevels (c.val / 2) (modCmp c (fun x => { x with evalAt := none })
      (setb (Reg.winSts (c.val / 2)) (c.val % 2) lv (setb (Reg.winSts (c.val / 2)) (3 + c.val % 2) false s)))
    cmpAdopt c lv s = refreshTrips t ∧ cmpIndet t c = false ∧ cmpOut t c = lv ∧ (cmpSt t c).evalAt = none) ∧
  (∀ (c : Fin 64) (x : Analog) (n : Nat) (s : State), let t := settleEndOp c x s
    (cmpSt s c).hold = some n → n ≤ s.time → live s = true → cmpEn s c = true → exec (.settleEnd c x) s = .next (settle t) ∧
    (cmpSt t c).hold = none ∧ (cmpIndet s c = false ∨ (cmpSt s c).evalAt = none → (x = .above → cmpOut t c = true) ∧
    (x = .below → cmpOut t c = false)) ∧ (cmpIndet s c = true → (cmpSt s c).evalAt.isSome = true → cmpIndet t c = true)) ∧
  (∀ (c : Fin 64) (above : Bool) (s : State), let t := cmpAdopt c above s
    live s = true → cmpEn s c = true → cmpIndet s c = true → (cmpSt s c).evalAt = none → (cmpSt s c).hold = none → exec (.indetBandExit c above) s = .next (settle t) ∧
    cmpIndet t c = false ∧ cmpOut t c = above) ∧
  (∀ (i : Fin 4) (s : State), let t := adcTriggerOp i s
    live s = true → wireDue (.adcTrig i) s = true → exec (.adcTriggerPending i) s = .next (settle t) ∧
    wireDue (.adcTrig i) t = false ∧ (adcRuns s = true → t.adc.pend.getLsbD i = true) ∧
    (adcRuns s = false → t.adc = s.adc)) ∧
  (∀ (i : Nat) (s : State), let t := sequenceStartOp s
    adcRuns s = true → s.adc.seq = none → s.adc.freeAt ≤ s.time → adcNextTrig s = some i → exec .sequenceStart s = .next (settle t) ∧
    t.adc.seq = some (i, sequenceOf s i) ∧ t.adc.pend.getLsbD i = false ∧ t.regs = s.regs ∧
    (∀ k, k < 4 → k ≠ i → t.adc.pend.getLsbD k = s.adc.pend.getLsbD k) ∧ (∀ k, k < i → s.adc.pend.getLsbD k = false)) ∧
  (∀ (s : State), let t := readbackDueOp s
    adcRuns s = true → rb s Reg.adcCtl 1 = true → rbNext s = s.time → exec .readbackDue s = .next (settle t) ∧
    t.adc.rbDue = true ∧ s.time < rbNext t) ∧
  (∀ (x : Conv) (s : State), let t := conversionStartOp s
    adcRuns s = true → s.adc.freeAt ≤ s.time → convNext s = some x → exec .conversionStart s = .next (settle t) ∧
    t.adc.convs = s.adc.convs ++ [x] ∧ t.adc.freeAt = s.time + 200 ∧ x.start = s.time ∧ t.regs = s.regs) ∧
  (∀ (code : BitVec 12) (x : Conv) (xs : List Conv) (s : State), let t := conversionResultOp code.toNat s
    s.adc.convs = x :: xs → x.start + 204 ≤ s.time → running s = true → exec (.conversionResult code) s = .next (settle t) ∧
    t.adc.convs = xs ∧ (∀ at_ k sel trg last, x = .slot at_ k sel trg last → k < 32 →
      rf t (Reg.adcSlot k) 16 12 = code.toNat ∧ rb t (Reg.adcSlot k) 31 = true ∧
      rget t Reg.adcConvCnt = satInc (rget s Reg.adcConvCnt)))

/-- A scrub read falls at its interval and goes on to the next word. COPY, TEST and RESTORE of a march test follow one
another, and its result comes with the release of the bank 1 lc after RESTORE or a failing TEST. The gate of a paced
bobbin opens and closes with the level that it sees. A bobbin that may issue a transaction issues its next one; a
device access returns 6 lc after its grant at the earliest; what returns is no longer outstanding; a host access
without an answer ends after 20,000 lc with code 4. -/
def Obligations.StoresAndBobbins : Prop :=
  (∀ (s : State), let t := scrubOp s
    running s = true → rb s Reg.storeCtl 0 = true → eccOn s = true → scrubNext s = s.time → exec .scrubRead s = .next (settle t) ∧
    t.store.scrubWord = (s.store.scrubWord + 1) % 32768 ∧ t.store.scrubAt = s.time + 1) ∧
  (∀ (s : State), let t := copyEndOp s
    live s = true → mtPhase s = 1 → copyDone s ≤ s.time → mtReleasing s = false → exec .copyEnd s = .next (settle t) ∧
    mtPhase t = 2 ∧ t.store.mtAt = s.time + 1 ∧ (s.time + 1, Timed.mtTest) ∈ t.timed ∧ t.mem = s.mem) ∧
  (∀ (pass : Bool) (s : State), let t := testEndOp pass s
    live s = true → mtPhase s = 3 → s.store.mtAt + 1310720 ≤ s.time → exec (.testEnd pass) s = .next (settle t) ∧
    (pass = true → s.store.mtKind = 0 → mtPhase t = 4 ∧ t.mem = s.mem) ∧
    (pass = true → s.store.mtKind ≠ 0 → mtPhase t = 0 ∧ t.mem = (clearBank (mtBank s) s).mem) ∧ (pass = false → s.store.mtKind ≠ 0 → mtPhase t = 0) ∧
    (pass = false → s.store.mtKind = 0 → (s.time + 1, Timed.mtEnd 1) ∈ t.timed)) ∧
  (∀ (s : State), let t := mtRelease 0 s
    live s = true → mtPhase s = 4 → copyDone s ≤ s.time → mtReleasing s = false → exec .restoreEnd s = .next (settle t) ∧
    (s.time + 1, Timed.mtEnd 0) ∈ t.timed ∧ rget t Reg.storeMtCnt = rget s Reg.storeMtCnt ∧ t.mem = s.mem) ∧
  (∀ (r : Nat) (s : State), let t := performTimed (.mtEnd r) s
    mtPhase t = 0 ∧ rf t Reg.storeMtSts 8 3 = r % 8 ∧ rget t Reg.storeMtCnt = satInc (rget s Reg.storeMtCnt) ∧ t.mem = s.mem) ∧
  (∀ (b : Fin 32) (s : State), let t := setb (Reg.bobSts b) 8 true s
    gateMoves s b false = true → gateHigh s b (levelSeen s b) = true → exec (.gateOpen b) s = .next (settle t) ∧
    rb t (Reg.bobSts b) 8 = true) ∧
  (∀ (b : Fin 32) (s : State), let t := setb (Reg.bobSts b) 8 false s
    gateMoves s b true = true → gateLow s b (levelSeen s b) = true → exec (.gateClose b) s = .next (settle t) ∧
    rb t (Reg.bobSts b) 8 = false) ∧
  (∀ (b : Fin 32) (k : BobKind) (src : Bool) (off n : Nat) (s : State), let t := bobIssue b k src off n s
    bobMayIssue s b = true → bobNext s b = some (k, src, off, n) → bobFifoNext s b = false → exec (.transactionIssue b) s = .next (settle t) ∧
    t.time = s.time) ∧
  (∀ (b : Fin 32) (s : State), let t := transactionIssueOp b (takeTurn bobRank s)
    bobMayIssue s b = true → bobFifoNext s b = true → turnAt bobRank s ≤ s.time → exec (.transactionIssue b) s = .next (settle t)) ∧
  (∀ (b k : Nat) (kind : BobKind) (src : Bool) (off n : Nat) (s : State), let t := bobIssue b kind src off n s
    let ea := if kind = .flush then (bobSt s b).lastW / 4 * 4 else bobEa s b src off
    (bobRefuse s b src (kind == .write) ea n = none →
      (bobSt t b).txns.length = (bobSt s b).txns.length + 1 ∧ (bobSt t b).issueAt = s.time + 1) ∧
    (bobRefuse s b src (kind == .write) ea n = some k → t = bobEnd b k ea false s)) ∧
  (∀ (b : Fin 32) (x : BobReturn) (q : BobTxn) (s : State), let ptr := bobPaced s b && decide (128 ≤ bobQ s b)
    let r := if ptr then takeTurn bobRank s else s; let t := transactionReturnOp b x q r
    live s = true → returnOf s b x = some q → returnFits x q = true → q.wait = false → (q.host = false → q.at_ + 6 ≤ s.time) →
    (ptr = true → turnAt bobRank s ≤ s.time) → exec (.transactionReturn b x) s = .next (settle t) ∧
    ((bobSt t b).txns = [] ∨ (bobSt t b).txns = (bobSt r b).txns.erase q)) ∧
  (∀ (b : Fin 32) (q : BobTxn) (s : State), let t := bobError b 4 q (bobDrop b q s)
    live s = true → returnOf s b .hostError = some q → q.at_ + 20000 ≤ s.time → exec (.hostCompletionTimeout b) s = .next (settle t) ∧
    ((bobSt t b).txns = [] ∨ (bobSt t b).txns = (bobSt s b).txns.erase q))

/-- A raise of a source that is not reserved sets its SEEN bit and reaches its vector, if it has one, one cycle later, in
SLUMBER at the next step of 16 lc; in BOOT and before nothing is raised, and a second raise in one cycle is the first.
The raises that reach a disabled vector are discarded and counted, those that reach an enabled one are counted in ACC;
a time limit reached makes a vector pending; a message handed over clears PEND, is counted, and leaves with the
address and data of its entry after the posted writes before it; a vector that begins to hold an interrupt pin low is
counted then, and the pin goes low for it. -/
def Obligations.VectorsAndRaises : Prop :=
  (∀ (src : Fin 4096) (s : State), live s = true → reservedSource src = false → (s.ev.raisedAt = s.time → src.val ∉ s.ev.raised) →
    rb (raiseOne src s).1 (Reg.srct src) 16 = true ∧ src.val ∈ (raiseOne src s).1.ev.raised ∧ (raiseOne src s).1.time = s.time ∧
    (bit (entryNow src s) 7 = true →
      (Wire.mk (matrixNext s) src (.vec (fld (entryNow src s) 0 6))) ∈ (raiseOne src s).1.ev.wires) ∧
    (∀ a, ¬ RaiseReg a → rget (raise src s) a = rget s a) ∧ (raise src s).mem = s.mem ∧ (raise src s).time = s.time) ∧
  (∀ (src : Nat) (s : State), live s = false ∨ reservedSource src = true ∨ (s.ev.raisedAt = s.time ∧ src ∈ s.ev.raised) →
    raise src s = s) ∧
  (∀ (j : Fin 64) (n : Nat) (s : State), let mine := fun w : Wire => w.dst == .vec j && w.at_ == n
    let k := (s.ev.wires.filter mine).length
    let t := raiseArrivalOp j s
    live s = true → wireAt s (.vec j) = some n → n ≤ s.time → wireDue (.vec j) s = true →
    exec (.raiseArrival j) s = .next (settle t) ∧ 0 < k ∧ t.ev.wires = s.ev.wires.filter (fun w => !mine w) ∧
    (vecEn s j = true → (vecSt t j).acc = min 65535 ((vecSt s j).acc + k) ∧ t.regs = s.regs ∧
      (vecNum s j ≤ (vecSt t j).acc → (matrixNext s, Timed.vecReady j) ∈ t.timed)) ∧
    (vecEn s j = false → (vecSt t j).acc = (vecSt s j).acc ∧
      rn t Reg.evmDiscCnt = min 0xFFFFFFFF (rn s Reg.evmDiscCnt + k))) ∧
  (∀ (j : Fin 64) (n : Nat) (s : State), let t := vecReadyNow j s
    live s = true → vecLimit s j = some n → n ≤ s.time → 0 < accBefore s j → (vecSt s j).numAt ≤ s.time → exec (.coalesceTimeout j) s = .next (settle t) ∧
    vecPend t j = true ∧ (vecSt t j).readyAt = s.time + 1 ∧ t.mem = s.mem ∧
    (vecPend s j = true → rget t Reg.evmMergeCnt = satInc (rget s Reg.evmMergeCnt))) ∧
  (∀ (j : Fin 64) (s : State), let t := msixSend j s
    live s = true → (vecSt s j).readyAt ≤ s.time → (vecSt s j).selAt ≤ s.time → vecPend s j = true → vecIrq s j = false → vecHeld s j = false → exec (.msixHandover j) s = .next (settle t) ∧
    vecPend t j = false ∧ rget t (Reg.vecDelivCnt j) = satInc (rget s (Reg.vecDelivCnt j)) ∧
    t.host.txFree = max s.host.txFree (psOf s.time) + 32 * psPerByte s ∧
    (vecSt t j).sent.head? = some (msixMsg s j t.host.txFree) ∧ t.mem = s.mem) ∧
  (∀ (j : Fin 64) (s : State), let t := irqAssertOp j s
    live s = true → (vecSt s j).readyAt ≤ s.time → (vecSt s j).begun.isSome = true → (vecSt s j).pinLow = false → exec (.irqAssert j) s = .next (settle t) ∧
    (vecSt t j).pinLow = true ∧ some (vecSt t j).pinIrq = (vecSt s j).begun ∧ t.regs = s.regs) ∧
  (∀ (j : Fin 64) (s : State), let t := irqJudge j s
    (vecSt s j).selAt ≤ s.time → irqWant s j ≠ (vecSt s j).begun → (vecSt t j).begun = irqWant s j ∧ (vecSt t j).pinLow = false ∧
      rget t (Reg.vecDelivCnt j) = (if (irqWant s j).isSome then satInc (rget s (Reg.vecDelivCnt j)) else rget s (Reg.vecDelivCnt j)))

/-- Each reset puts the device in RESET and sets its bit of RSTCAUSE, a power-on reset its bit alone; the contents of the
stores, the flash and the fuses are kept, and every register but RSTCAUSE and DBGCTL has its reset value. The release
of reset begins BOOT; the PLL locks and device time starts; flash discovery, the choice of a firmware image, the self
test and the choice of a draft follow. A self test that finds a logic fault, or a boot that finds no draft, ends in
MAINTENANCE. -/
def Obligations.ResetsAndBoot : Prop :=
  (∀ (s : State), let t := deviceReset 0 s
    exec .powerOnReset s = .next (settle t) ∧
    mode t = 0 ∧ t.mem = s.mem ∧ t.fuse = s.fuse ∧ t.flash.bytes = s.flash.bytes ∧
    rget t Reg.pwrRstcause = 1#32) ∧
  (∀ (s : State), let t := pinResetOp s
    exec .pinReset s = .next (settle t) ∧
    mode t = 0 ∧ t.mem = s.mem ∧ rget t Reg.pwrRstcause = setBit (rget s Reg.pwrRstcause) 1 true ∧ t.tap.rstLow = true) ∧
  (∀ (s : State), let t := deviceReset 2 s
    exec .brownOut s = .next (settle t) ∧
    mode t = 0 ∧ t.mem = s.mem ∧ t.fuse = s.fuse ∧ t.flash.bytes = s.flash.bytes ∧
    rget t Reg.pwrRstcause = setBit (rget s Reg.pwrRstcause) 2 true) ∧
  (∀ (s : State), let t := deviceReset 4 s
    rb s Reg.pwrClksts 2 = true → power s ≠ 2 → exec .pllLockLoss s = .next (settle t) ∧
    mode t = 0 ∧ t.mem = s.mem ∧ t.fuse = s.fuse ∧ t.flash.bytes = s.flash.bytes ∧
    rget t Reg.pwrRstcause = setBit (rget s Reg.pwrRstcause) 4 true) ∧
  (∀ (n : Nat) (s : State), let t := deviceReset 4 s
    s.flt.resetAt = some n → n ≤ s.time → exec .faultReset s = .next (settle t) ∧
    mode t = 0 ∧ rget t Reg.pwrRstcause = setBit (rget s Reg.pwrRstcause) 4 true) ∧
  (∀ (n : Nat) (s : State), let t := deviceReset 5 s
    s.host.resetAt = some n → n ≤ s.time → exec .commandReset s = .next (settle t) ∧
    mode t = 0 ∧ rget t Reg.pwrRstcause = setBit (rget s Reg.pwrRstcause) 5 true) ∧
  (∀ (cause : Fin 6) (a : Nat) (s : State), a ≠ Reg.pwrRstcause → a ≠ Reg.tackDbgctl →
    rget (deviceReset cause s) a = resetWord a ∧ (deviceReset cause s).pending = s.pending ∧
    dbgOpen (deviceReset cause s) = !s.fuse.secure) ∧
  (∀ (hostSel : Bool) (high : BitVec 8) (s : State), let t := releaseOp hostSel high s
    mode s = 0 → exec (.resetRelease hostSel high) s = .next (settle t) ∧
    mode t = 1 ∧ rb t Reg.hostSts 0 = hostSel ∧ t.tap.rstLow = false) ∧
  (∀ (s : State), let t := pllLockOp s
    bootAt s 0 = true → exec .pllLock s = .next (settle t) ∧
    t.tack.boot = 1 ∧ t.time = 0 ∧ rget t Reg.pwrClksts = 5) ∧
  (∀ (code : Fin 7) (density dummy : BitVec 8) (s : State), let t := discoveryOp code density dummy s
    bootAt s 1 = true → exec (.flashDiscovery code density dummy) s = .next (settle t) ∧
    t.tack.boot = 2 ∧ rb t Reg.tackFlash 0 = decide (code ≠ 0) ∧ rf t Reg.tackFlash 1 3 = code ∧ rb t Reg.pwrBootsts 3 = decide (code ≠ 0)) ∧
  (∀ (i : Nat) (s : State), let t := firmwareOp i s
    fwSelect s = some i → bootAt s 2 = true → exec .firmwareSelection s = .next (settle t) ∧
    mode t = 2 ∧ t.tack.boot = 3 ∧ fwPasses s i = true) ∧
  (∀ s : State, fwSelect s = none → exec .firmwareSelection s = .next s ∧ fwPasses s 0 = false ∧ fwPasses s 1 = false) ∧
  (∀ (bad : List (Fin 52)) (logicOk : Bool) (s : State), let t := selfTestOp (bad.map fun b => b.val) logicOk s
    mode s = 2 → s.store.mtAt + 1310720 ≤ s.time → exec (.selfTestEnd bad logicOk) s = .next (settle t) ∧
    (logicOk = false → mode t = 9 ∧ rb t Reg.shedCtl 0 = false) ∧ (bad = [] → logicOk = true → mode t = 1 ∧ t.tack.boot = 4 ∧ t.mem = [])) ∧
  (∀ (u : BitVec 3) (s : State), let t := bootDraftOp u s
    bootAt s 4 = true → exec (.bootDraftApplied u) s = .next (settle t) ∧
    ((bootTry (bootSlots u (readSlots s)) (rget (readSlots s) Reg.pwrBootsts)).2 = none → mode t = 9))

/-- A lost reference is substituted and a returned one is noted; the restore check passes once it has been good for 10 ms.
DOZE is entered and left, banks sleep one by one in it; SLUMBER is entered after its dwell and left by a wake. A
supply that falls, or has recovered for 10 ms, changes its bit of SUPPLY and NVM_INH with it. -/
def Obligations.ClocksPowerAndSupplies : Prop :=
  (∀ (s : State), let t := refLost false s
    rb s Reg.pwrClksts 0 = true → exec .referenceLoss s = .next (settle t) ∧
    rb t Reg.pwrClksts 0 = false ∧ rb t Reg.pwrClksts 1 = true ∧ rb t Reg.pwrClksts 3 = false ∧ t.mem = s.mem) ∧
  (∀ (s : State), let t := refReturnOp s
    mode s ≠ 0 → rb s Reg.pwrClksts 2 = true → rb s Reg.pwrClksts 0 = false → exec .referenceReturn s = .next (settle t) ∧
    rb t Reg.pwrClksts 0 = true ∧ rb t Reg.pwrClksts 1 = rb s Reg.pwrClksts 1) ∧
  (∀ (s : State), let t := setb Reg.pwrClksts 3 true s
    rb s Reg.pwrClksts 0 = true → rb s Reg.pwrClksts 1 = true → rb s Reg.pwrClksts 3 = false → s.pwr.refSince + tenMs ≤ s.time → exec .restoreOk s = .next (settle t) ∧
    rb t Reg.pwrClksts 3 = true) ∧
  (∀ (s : State), let t := setPower 1 s
    power s = 0 → dozeOk s = true → exec .dozeEntry s = .next (settle t) ∧
    power t = 1 ∧ mode t = mode s ∧ t.mem = s.mem) ∧
  (∀ (s : State), let t := dozeExitOp s
    power s = 1 → dozeOk s = false → exec .dozeExit s = .next (settle t) ∧
    power t = 0 ∧ mode t = mode s ∧ t.pwr.asleep = []) ∧
  (∀ (s : State), let t := enterSlumber s
    slumberOk s = true → power s ≠ 2 → slumberAt s ≤ s.time → exec .slumberEntry s = .next (settle t) ∧
    power t = 2 ∧ mode t = 3) ∧
  (∀ (s : State), let t := wakeDone s
    power s = 2 → s.log.waking = true → exec .wakeComplete s = .next (settle t) ∧
    power t = 0 ∧ mode t = mode s ∧ t.log.waking = false ∧ t.log.queue = []) ∧
  (∀ (b : Fin 48) (s : State), let t := bankSleepOp b s
    power s = 1 → tget 0 s.pwr.touched b.val + 65536 ≤ s.time → bankMaySleep s b = true → s.pwr.asleep.contains b.val = false → exec (.bankSleep b) s = .next (settle t) ∧
    b.val ∈ t.pwr.asleep ∧ t.mem = s.mem) ∧
  (∀ (m : Fin 6) (s : State), let t := supplyChange m true s
    mode s ≠ 0 → exec (.supplyLow m) s = .next (settle t) ∧
    rb t Reg.pwrSupply m = true ∧ mode t = mode s ∧ t.mem = s.mem ∧
    (rb s Reg.pwrSupply m = false → rb t Reg.pwrSupply 8 = (rb t Reg.pwrSupply 0 || rb t Reg.pwrSupply 5))) ∧
  (∀ (m : Fin 6) (s : State), let t := recoveryOp m s
    mode s ≠ 0 → rb s Reg.pwrSupply m = true → tget 0 s.pwr.lowAt m.val + tenMs ≤ s.time → exec (.supplyRecovery m) s = .next (settle t) ∧
    rb t Reg.pwrSupply m = false ∧ mode t = mode s ∧ t.mem = s.mem)

/-- A verification ends: an image that passes is staged, and one that fails leaves its code; the command that waits on it
is decided, a REVERT going on to its changeover. At the switch instant the draft staged comes into force, at once or
after the drain, its instant in SW_T; a line changeover without GO is aborted instead. Each channel is applied at its
instant, or forced after DRAIN_MAX; then the changeover ends and the slot table is committed. A draft that is not
hitless is applied when the device may do so. -/
def Obligations.DraftEvents : Prop :=
  (∀ (r : Bool) (s : State), let t := verifyEnd r s
    let code := draftCheck s s.chg.region (r && decide (s.chg.region < 4))
    let x := stageDraft (noteRegion s.chg.region true s)
    stageState s = 2 → exec (.verifyComplete r) s = .next (settle t) ∧
    (code = 0 → stageState x = 3 ∧ (s.host.bgRun = none → t = x) ∧
      (∀ c, s.host.bgRun = some c → c.op ≠ 0x24 → t = bgOut 0 0 (rget x Reg.chgNewVer) x) ∧
      (∀ c, s.host.bgRun = some c → c.op = 0x24 → t = revertOp c x)) ∧
    (code ≠ 0 → (s.host.bgRun = none → stageState t = 0 ∧ rf t Reg.chgSts 8 4 = code) ∧
      (∀ c, s.host.bgRun = some c → ((laneRun t .background).bind fun y => y.out).map (fun o => (o.1, o.2.1)) = some (checkStatus code, code)))) ∧
  (∀ (n : Nat) (d : Draft) (s : State), let t := switchOp s
    let u := set64 Reg.chgSwTLo Reg.chgSwTHi s.time (setStage 5 s)
    let v := { u with chg := { u.chg with swLc := s.time } }
    chgPending s = true → switchTime s = some n → n ≤ s.time → s.sel.line = false ∨ lcoState s = 3 → s.chg.staged = some d → exec .switchInstant s = .next (settle t) ∧
    (rb v Reg.chgSts 3 = true → t = schedule (s.time + rn v Reg.chgDrainMax) .drain (switchHitless d v)) ∧
    (rb v Reg.chgSts 3 = false → t = switchCold v) ∧ stageState v = 5 ∧ v.mem = s.mem) ∧
  (∀ (n : Nat) (s : State), let t := lineAbort 5 s
    chgPending s = true → switchTime s = some n → n ≤ s.time → s.sel.line = true → lcoState s = 1 ∨ lcoState s = 2 → exec .switchInstant s = .next (settle t) ∧
    lcoState t = 4 ∧ rf t Reg.selLco 4 4 = 5 ∧ t.sel.line = false) ∧
  (∀ (n : Fin 512) (d : Draft) (s : State), let t := channelApply n s
    applyAt s n ≤ s.time → applyWaits s n = true → applyDue s n = true → s.chg.act = some d → exec (.channelApplication n) s = .next (settle t) ∧
    n.val ∉ t.chg.chans) ∧
  (∀ (n : Fin 512) (d : Draft) (s : State), let t := channelForce n s
    s.chg.swLc + rn s Reg.chgDrainMax ≤ s.time → applyWaits s n = true → s.chg.act = some d → exec (.forcedApplication n) s = .next (settle t) ∧
    n.val ∉ t.chg.chans) ∧
  (∀ (s : State), let t := chgEnd s
    chgMayEnd s = true → exec .changeoverEnd s = .next (settle t) ∧
    stageState (commitBegin s) = 6 ∧ rb (commitBegin s) Reg.chgSts 16 = true ∧
    rget (commitBegin s) Reg.chgChgCnt = satInc (rget s Reg.chgChgCnt) ∧
    (mode s ≠ 7 → t = commitBegin s) ∧ (mode s = 7 → t = enterMode s.chg.fromMode (commitBegin s))) ∧
  (∀ (s : State), let t := coldApply s
    stageState s = 5 → s.chg.swWait = true → restarting s = false → exec .nonhitlessApply s = .next (settle t) ∧
    stageState t = 6 ∧ rb t Reg.chgSts 16 = true) ∧
  (∀ (s : State), let t := commitOpSlots s
    rb s Reg.chgSts 16 = true → nvmInh s = false → restarting s = false → exec .slotTableCommit s = .next (settle t) ∧
    stageState t = 0 ∧ rb t Reg.chgSts 16 = false ∧ rb t Reg.gctlState 5 = false ∧ t.mem = s.mem ∧
    t.tack.slots.seq = s.tack.slots.seq + 1 ∧
    t.tack.slots.active = (if s.chg.commitRevert then s.tack.slots.previous else s.tack.slots.staged) ∧
    t.tack.slots.previous = s.tack.slots.active)

/-- A port goes down, locks, measures and comes up, each from the state before it and noted with its cycle. An echo
request is noted with its instant, an answer leaves at a symbol boundary and is counted with its TURN, a reply gives
the delay as the mean of the last 16. The root sends at multiples of RPER. A node takes the time of a valid train that
it receives, and a root the fields of one that returns; a GO is decided by one that went out after the deadline; a
train with a fault is counted and flagged, and one of another root shown and absorbed. A train that fails to come, and
a deadline that passes, have their effect. -/
def Obligations.SelvedgeEvents : Prop :=
  (∀ (q : Port) (s : State), let t := portDownOp q s
    selRuns s = true → 2 ≤ portState s q → portAt s q + 8 ≤ s.time → exec (.portDown q) s = .next (settle t) ∧
    portState t q = 1 ∧ rget t Reg.selLinkdnCnt = satInc (rget s Reg.selLinkdnCnt) ∧
    (portState s q = 4 → selRoot s = false → ringState t = 3)) ∧
  (∀ (q : Port) (s : State), let t := portLockOp q s
    selRuns s = true → portState s q = 1 → portAt s q + 64 ≤ s.time → exec (.portLock q) s = .next (settle t) ∧
    portState t q = 2 ∧ portAt t q = s.time ∧ t.mem = s.mem ∧
    (s.time + 2048, .portMeasure q) ∈ t.timed) ∧
  (∀ (q : Port) (s : State), let t := enterPort q 3 s
    selRuns s = true → portState s q = 2 → measureAt s q ≤ s.time → exec (.portMeasure q) s = .next (settle t) ∧
    portState t q = 3 ∧ portAt t q = s.time ∧ t.mem = s.mem) ∧
  (∀ (q : Port) (s : State), let t := portUpOp q s
    selRuns s = true → portState s q = 3 → portReady s q = true → exec (.portUp q) s = .next (settle t) ∧
    portState t q = 4 ∧ portAt t q = s.time ∧ t.mem = s.mem) ∧
  (∀ (n : Nat) (s : State), let t := echoRequestOp n s
    selRuns s = true → 3 ≤ portState s .dn → echoMay s = true → exec (.echoRequest n) s = .next (settle t) ∧
    t.sel.echoReq = some n ∧ t.sel.echoAt = some s.time ∧ t.regs = s.regs) ∧
  (∀ (turn : BitVec 16) (s : State), let t := echoAnswerOp turn.toNat s
    selRuns s = true → 2 ≤ portState s .up → symbolAt s = s.time → exec (.echoAnswer turn) s = .next (settle t) ∧
    t.sel.answers = s.sel.answers + 1 ∧ t.sel.turn = turn.toNat ∧ t.regs = s.regs) ∧
  (∀ (n r : Nat) (turn : BitVec 16) (s : State), let t := echoReplyOp n turn.toNat s
    let es := (((n : Int) - r - turn.toNat) :: s.sel.echoes).take 16
    selRuns s = true → 3 ≤ portState s .dn → s.sel.echoReq = some r → exec (.echoReply n turn) s = .next (settle t) ∧
    t.sel.echoReq = none ∧ t.sel.echoes = es ∧
    rget t Reg.selDlyDn = wd (roundDiv (es.foldl (· + ·) 0) (2 * es.length)).toNat) ∧
  (∀ (s : State), let t := trainSendOp s
    selRuns s = true → selRoot s = true → portState s .dn = 4 → trainAt s = s.time → exec .trainSend s = .next (settle t) ∧
    t.sel.lastAt = s.time + 1 ∧ t.sel.poison = false) ∧
  (∀ (bytes : List (BitVec 8)) (link : TrainLink) (n : Nat) (s : State), let t := trainReceiveOp bytes link n s
    selRuns s = true → selRoot s = false → portState s .up = 4 → trainEnd bytes n ≤ s.time → trainFault s bytes link = none → exec (.trainReceive bytes link n) s = .next (settle t) ∧
    t.sel.lastT = some (Train.ofBytes (selSlots s) bytes).t) ∧
  (∀ (bytes : List (BitVec 8)) (link : TrainLink) (n k : Nat) (s : State), let t := trainReceiveOp bytes link n s
    selRuns s = true → selRoot s = false → portState s .up = 4 → trainEnd bytes n ≤ s.time → trainFault s bytes link = some k → exec (.trainReceive bytes link n) s = .next (settle t) ∧
    rb t Reg.selSts 24 = true) ∧
  (∀ (bytes : List (BitVec 8)) (link : TrainLink) (s : State), let t := trainReturnOp bytes link s
    let x := Train.ofBytes (selSlots s) bytes
    selRuns s = true → selRoot s = true → portState s .up = 4 → trainFault s bytes link = none → x.node = selNode s → exec (.trainReturn bytes link) s = .next (settle t) ∧
    (s.sel.ann.op ≠ 1 → t.sel.minv = x.minv ∧ t.sel.levt = x.levt ∧ t.sel.ahead = x.ahead ∧ t.sel.agg = x.agg ∧ rf t Reg.selRing 16 6 = x.hops) ∧
    (∀ d, s.sel.ann.op = 1 → s.sel.ann.dl = some d → d ≤ x.t → x.op = 1 → x.id = rf s Reg.selLco 8 8 → x.agg = 0 → lcoState t = 3)) ∧
  (∀ (bytes : List (BitVec 8)) (link : TrainLink) (s : State), let t := trainReturnOp bytes link s
    selRuns s = true → selRoot s = true → portState s .up = 4 → trainFault s bytes link = none → (Train.ofBytes (selSlots s) bytes).node ≠ selNode s → exec (.trainReturn bytes link) s = .next (settle t) ∧
    rb t Reg.selSts 17 = true ∧ t.sel.retGood = 0) ∧
  (∀ (bytes : List (BitVec 8)) (link : TrainLink) (k : Nat) (s : State), let t := trainReturnOp bytes link s
    selRuns s = true → selRoot s = true → portState s .up = 4 → trainFault s bytes link = some k → exec (.trainReturn bytes link) s = .next (settle t) ∧
    rb t Reg.selSts 24 = true) ∧
  (∀ (n : Nat) (s : State), let t := ringTimeoutOp s
    selRuns s = true → ringTimeoutAt s = some n → n ≤ s.time → exec .ringTimeout s = .next (settle t) ∧
    (selRoot s = false → ringState t = 3 ∧ aligned t = false ∧ t.sel.lastT = none) ∧
    (selRoot s = true → ∀ x ∈ t.sel.outs, s.time < x + 64 * selRper s)) ∧
  (∀ (n : Nat) (s : State), let t := lineDeadlineOp s
    selRuns s = true → selRoot s = true → s.sel.ann.op = 1 → deadlineAt s = some n → n ≤ s.time → s.sel.ann.dl = none → exec .lineDeadline s = .next (settle t) ∧
    t.sel.ann.dl = some s.time ∧ t.regs = s.regs) ∧
  (∀ (n d : Nat) (s : State), let t := rootAbort 4 0 s
    selRuns s = true → selRoot s = true → s.sel.ann.op = 1 → deadlineAt s = some n → n ≤ s.time → s.sel.ann.dl = some d → exec .lineDeadline s = .next (settle t) ∧
    (lcoState s = 1 ∨ lcoState s = 2 ∨ lcoState s = 3 → lcoState t = 4))

/-- A request of a PCIe link that is up has its effect once the words before it are done: an accepted write lands in the
table of BAR2, in the stores or in registers, an accepted read is on its way with its words; a refused one is answered
so and lands nowhere. A completion goes out 40 lc after its last word. A configuration request before the boot is over
is retried; after it a read shows its DW and a write changes its own DW by the RW and W1C bits. A reset of the port
drops the reads under way; a link that has trained shows its rate and width. An SPI frame is checked in order: one
that passes writes its words in consecutive cycles or samples them; a faulty one has no effect on a store. -/
def Obligations.HostPortEvents : Prop :=
  (∀ (q : PcieReq) (data : List (BitVec 32)) (s : State), let u := inTurn .pcie s
    let t := pcieWriteOp q data u
    pcieUp s = true → pathFree .pcie s ≤ s.time → turnAt (pathRank .pcie) s ≤ s.time → pcieRefuse q data.length u = none → exec (.pcieWrite q data) s = .next (settle t) ∧
    (q.bar = 1 → bar2Ok q data.length = true → t = redeliverFrom u (forEach ((upto 0 data.length).zip data) (fun x => bar2Put (q.addr.toNat / 4 * 4 + 4 * x.1) x.2) u)) ∧
    (q.bar = 1 → bar2Ok q data.length = false → t = bar2Bad u) ∧
    (q.bar ≠ 1 → 0x1000000 ≤ q.addr.toNat → t = storeWrite (q.addr.toNat / 4 * 4) (enableBytes q data) u) ∧
    (q.bar ≠ 1 → q.addr.toNat < 0x1000000 → t = regsWrite q data u)) ∧
  (∀ (q : PcieReq) (data : List (BitVec 32)) (s : State), let u := inTurn .pcie s
    let t := pcieWriteOp q data u
    pcieUp s = true → pathFree .pcie s ≤ s.time → turnAt (pathRank .pcie) s ≤ s.time → (pcieRefuse q data.length u).isSome = true → exec (.pcieWrite q data) s = .next (settle t) ∧
    t.mem = u.mem ∧ (∀ f, pcieRefuse q data.length u = some f → t = f u)) ∧
  (∀ (q : PcieReq) (n : Nat) (s : State), let u := inTurn .pcie s
    let t := pcieReadOp q n u
    pcieUp s = true → pathFree .pcie s ≤ s.time → turnAt (pathRank .pcie) s ≤ s.time → pcieRefuse q n u = none → exec (.pcieRead q n) s = .next (settle t) ∧
    t.host.reads.length = u.host.reads.length + 1 ∧
    (q.bar = 1 → bar2Ok q n = true → t = newRead n ((upto 0 n).map fun k => bar2Word u (q.addr.toNat / 4 * 4 + 4 * k)) u) ∧
    (q.bar ≠ 1 → 0x1000000 ≤ q.addr.toNat → t = storeRead q n u) ∧ (q.bar ≠ 1 → q.addr.toNat < 0x1000000 → t = regsRead q n u)) ∧
  (∀ (q : PcieReq) (n : Nat) (s : State), let u := inTurn .pcie s
    let t := pcieReadOp q n u
    pcieUp s = true → pathFree .pcie s ≤ s.time → turnAt (pathRank .pcie) s ≤ s.time → (pcieRefuse q n u).isSome = true → exec (.pcieRead q n) s = .next (settle t) ∧
    t.rdata = [] ∧ t.host.reads = u.host.reads ∧ t.mem = u.mem ∧ (∀ f, pcieRefuse q n u = some f → t = { f u with rdata := [] })) ∧
  (∀ (r : HostRead) (rest : List HostRead) (s : State), let t := readCompleteOp s
    s.host.reads = r :: rest → r.words.length = r.want → r.at_ + 40 ≤ s.time → pathFree .pcie s ≤ s.time →
    exec .readCompletion s = .next (settle t) ∧ t.rdata = r.words ∧ t.host.reads = rest ∧ t.regs = s.regs) ∧
  (∀ (k : Fin 1024) (v : BitVec 32) (s : State), let t := { s with rdata := [cfgView s k] }
    pcieUp s = true → 3 ≤ mode s → exec (.configRequest false k v) s = .next (settle t) ∧
    t.host = s.host ∧ t.regs = s.regs) ∧
  (∀ (k : Fin 1024) (v : BitVec 32) (s : State), let t := cfgOp true k v s
    pcieUp s = true → 3 ≤ mode s → exec (.configRequest true k v) s = .next (settle t) ∧
    cfgGet t k = ((cfgGet s k &&& ~~~ (cfgRow k).2.1) ||| (v &&& (cfgRow k).2.1)) &&& ~~~ (v &&& (cfgRow k).2.2) ∧
    (∀ j : Nat, j ≠ k → cfgGet t j = cfgGet s j)) ∧
  (∀ (w : Bool) (k : Fin 1024) (v : BitVec 32) (s : State), let t := { s with rdata := [] }
    pcieUp s = true → mode s < 3 → exec (.configRequest w k v) s = .next (settle t)) ∧
  (∀ (q : HostResetKind) (s : State), let t := hostResetOp q s
    mode s ≠ 0 → rb s Reg.hostSts 0 = false → exec (.hostReset q) s = .next (settle t) ∧
    t.host.reads = [] ∧ t.host.msix = [] ∧ mode t = mode s ∧ rget t Reg.hostLinkrstCnt = satInc (rget s Reg.hostLinkrstCnt)) ∧
  (∀ (rate : Fin 3) (width : Fin 2) (s : State), let t := linkTrainedOp rate width s
    mode s ≠ 0 → rb s Reg.hostSts 0 = false → exec (.pcieLinkTrained rate width) s = .next (settle t) ∧
    rb t Reg.hostSts 1 = true ∧ rf t Reg.hostSts 2 2 = rate + 1 ∧ rf t Reg.hostSts 4 2 = width + 1 ∧ t.mem = s.mem) ∧
  (∀ (bytes : List (BitVec 8)) (s : State), let u := inTurn .spi s
    let t := spiFrameOp bytes u
    TakesNow .spi s → spiCheck u bytes = .code 0 → spiIsWrite bytes = true → exec (.spiWrite bytes) s = .next (settle t) ∧
    t = spiLand (frameN bytes 2 4) (leWords (spiN bytes) (bytes.drop 6)) (spiAnswer 0 0 [] u)) ∧
  (∀ (bytes : List (BitVec 8)) (s : State), let u := inTurn .spi s
    let t := spiFrameOp bytes u
    TakesNow .spi s → spiCheck u bytes ≠ .code 0 → exec (.spiWrite bytes) s = .next (settle t) ∧
    t.mem = u.mem ∧ (∀ k, spiCheck u bytes = .silent k → t.rdata = []) ∧ (∀ c, spiCheck u bytes = .code c → t.host.spi.code = c)) ∧
  (∀ (bytes : List (BitVec 8)) (s : State), let u := inTurn .spi s
    let t := spiFrameOp bytes u
    TakesNow .spi s → spiCheck u bytes = .code 0 → spiIsWrite bytes = false → exec (.spiRead bytes) s = .next (settle t) ∧
    t = spiSample (frameN bytes 2 4) (spiN bytes) (spiAnswer 0 (spiN bytes) [] u)) ∧
  (∀ (bytes : List (BitVec 8)) (s : State), let u := inTurn .spi s
    let t := spiFrameOp bytes u
    TakesNow .spi s → spiCheck u bytes ≠ .code 0 → exec (.spiRead bytes) s = .next (settle t) ∧
    t.mem = u.mem ∧ (∀ k, spiCheck u bytes = .silent k → t.rdata = []) ∧ (∀ c, spiCheck u bytes = .code c → t.host.spi.code = c)) ∧
  (∀ (bytes : List (BitVec 8)) (s : State), let u := inTurn .spi s
    let t := spiFrameOp bytes u
    TakesNow .spi s → spiCheck u bytes = .code 0 → spiIsWrite bytes = true → exec (.spiQuadWrite bytes) s = .next (settle t) ∧
    t = spiLand (frameN bytes 2 4) (leWords (spiN bytes) (bytes.drop 6)) (spiAnswer 0 0 [] u)) ∧
  (∀ (bytes : List (BitVec 8)) (s : State), let u := inTurn .spi s
    let t := spiFrameOp bytes u
    TakesNow .spi s → spiCheck u bytes ≠ .code 0 → exec (.spiQuadWrite bytes) s = .next (settle t) ∧
    t.mem = u.mem ∧ (∀ k, spiCheck u bytes = .silent k → t.rdata = []) ∧ (∀ c, spiCheck u bytes = .code c → t.host.spi.code = c)) ∧
  (∀ (bytes : List (BitVec 8)) (s : State), let u := inTurn .spi s
    let t := spiFrameOp bytes u
    TakesNow .spi s → spiCheck u bytes = .code 0 → spiIsWrite bytes = false → exec (.spiQuadRead bytes) s = .next (settle t) ∧
    t = spiSample (frameN bytes 2 4) (spiN bytes) (spiAnswer 0 (spiN bytes) [] u)) ∧
  (∀ (bytes : List (BitVec 8)) (s : State), let u := inTurn .spi s
    let t := spiFrameOp bytes u
    TakesNow .spi s → spiCheck u bytes ≠ .code 0 → exec (.spiQuadRead bytes) s = .next (settle t) ∧
    t.mem = u.mem ∧ (∀ k, spiCheck u bytes = .silent k → t.rdata = []) ∧ (∀ c, spiCheck u bytes = .code c → t.host.spi.code = c))

/-- A lane that is free starts the command that waits first; a form error answers BAD_ARG and a command illegal in the
mode STATE_REJECT before its arguments are looked at. A command that lands and is illegal by then is refused; a legal
one has its effect: modes change, holds come and go, drafts and firmware are written, verified and activated, a
changeover is entered with its switch point, fuses are blown. A decided command completes and its lane is free. -/
def Obligations.MailboxCommands : Prop :=
  (∀ (l : Lane) (c : Cmd) (cs : List Cmd) (s : State), let t := startOp l s
    laneRun s l = none → laneWait s l = c :: cs → mode s ≠ 0 → power s ≠ 2 → exec (.commandStart l) s = .next (settle t) ∧
    laneWait t l = cs ∧ (laneRun t l).isSome = true ∧
    (c.out = none → mayExecute s c = true → ∀ d, formError c = some d →
      (laneRun t l).map (fun x => x.out) = some (some (3, d, 0))) ∧
    (c.out = none → mayExecute s c = true → formError c = none → cmdLegal s c = false →
      ((laneRun t l).bind fun x => x.out).map (fun o => o.1) = some 2)) ∧
  (∀ (l : Lane) (c : Cmd) (o : Nat × Nat × Word) (s : State), let t := completeOp l s
    laneRun s l = some c → c.out = some o → exec (.commandCompletion l) s = .next (settle t) ∧
    laneRun t l = none ∧ (c.op = 0x16 → o.1 = 0 → t.host.resetAt = some (s.time + 400000))) ∧
  (∀ (l : Lane) (op : Nat) (c : Cmd) (f : Cmd → State → State) (s : State), landing s l op = some c → cmdLegal s c = false →
    landCmd l op f s = .next (settle (rejectOp l c s)) ∧
    ((laneRun (rejectOp l c s) l).bind fun x => x.out).map (fun o => o.1) = some 2) ∧
  (∀ (c : Cmd) (s : State), let t := echoOp c s
    landing s .foreground 0x01 = some c → cmdLegal s c = true → exec .echo s = .next (settle t) ∧
    (laneRun t .foreground).map (fun c => c.out) = some (some (0, 0, c.arg 0))) ∧
  (∀ (c : Cmd) (s : State), let t := laneOk .foreground (enterMode 4 s)
    landing s .foreground 0x10 = some c → cmdLegal s c = true → exec .armCmd s = .next (settle t) ∧
    4 ≤ mode t ∧ mode t ≤ 6) ∧
  (∀ (c : Cmd) (s : State), let t := laneOk .foreground (setMode 3 s)
    landing s .foreground 0x11 = some c → cmdLegal s c = true → exec .stop s = .next (settle t) ∧
    mode t = 3 ∧ (laneRun t .foreground).map (fun c => c.out) = some (some (0, 0, wd (setMode 3 s).time))) ∧
  (∀ (c : Cmd) (s : State), let t := holdCmdOp c s
    landing s .foreground 0x12 = some c → cmdLegal s c = true → exec .hold s = .next (settle t) ∧
    (∀ h ∈ c.mask, heldBy t h = true) ∧ (c.whole = true → wholeHeld t = true)) ∧
  (∀ (c : Cmd) (s : State), let t := clearCmdOp c s
    landing s .foreground 0x13 = some c → cmdLegal s c = true → exec .clearHold s = .next (settle t) ∧
    (∀ h ∈ c.mask, heldBy t h = false) ∧ (c.whole = true → wholeHeld t = false)) ∧
  (∀ (c : Cmd) (s : State), let t := laneOk .foreground (maintEnterOp s)
    landing s .foreground 0x14 = some c → cmdLegal s c = true → exec .maintEnter s = .next (settle t) ∧
    mode t = 9) ∧
  (∀ (c : Cmd) (s : State), let t := laneOk .foreground (leaveMaint s)
    landing s .foreground 0x15 = some c → cmdLegal s c = true → exec .maintLeave s = .next (settle t) ∧
    mode t = 3 ∨ mode t = 8) ∧
  (∀ (c : Cmd) (s : State), let t := laneOk .foreground (s)
    landing s .foreground 0x16 = some c → cmdLegal s c = true → exec .deviceReset s = .next (settle t) ∧
    (laneRun t .foreground).map (fun c => c.out) = some (some (0, 0, wd s.time))) ∧
  (∀ (c : Cmd) (s : State), let t := laneOk .foreground (draftAbortOp s)
    landing s .foreground 0x22 = some c → cmdLegal s c = true → exec .draftAbort s = .next (settle t) ∧
    (stageState s = 1 ∨ stageState s = 3 → stageState t = 0)) ∧
  (∀ (c : Cmd) (s : State), let t := changeoverOp c s
    landing s .foreground 0x23 = some c → cmdLegal s c = true → exec .changeover s = .next (settle t) ∧
    (switchOk s c.time c.trk c.swA c.swB = true → mode t = 7 ∧ stageState t = 4) ∧
    (switchOk s c.time c.trk c.swA c.swB = false → (laneRun t .foreground).map (fun c => c.out) = some (some (3, 2, 0)) ∧ mode t = mode s)) ∧
  (∀ (c : Cmd) (s : State), let t := lineCmdOp c s
    landing s .foreground 0x25 = some c → cmdLegal s c = true → exec .lineChangeover s = .next (settle t) ∧
    (c.time = true → selNeg s < 2 → (laneRun t .foreground).map (fun c => c.out) = some (some (7, 0, 0))) ∧
    (c.time = false ∨ 2 ≤ selNeg s → lineSwitchOk s c = false → (laneRun t .foreground).map (fun c => c.out) = some (some (3, 2, 0))) ∧
    (c.time = false ∨ 2 ≤ selNeg s → lineSwitchOk s c = true → t = laneOk .foreground (lineStart c.time c.trk c.swA c.swB s))) ∧
  (∀ (c : Cmd) (s : State), let t := regionWriteOp c s
    landing s .background 0x20 = some c → cmdLegal s c = true → exec .draftWrite s = .next (settle t) ∧
    (writeError s c = none → nvmInh s = true → (laneRun t .background).map (fun c => c.out) = some (some (8, 0, 0)) ∧ t.flash = s.flash)) ∧
  (∀ (c : Cmd) (s : State), let t := bgBegun (verifyBegin false s)
    landing s .background 0x21 = some c → cmdLegal s c = true → exec .draftVerify s = .next (settle t) ∧
    stageState t = 2) ∧
  (∀ (c : Cmd) (s : State), let t := bgBegun (verifyBegin true s)
    landing s .background 0x24 = some c → cmdLegal s c = true → exec .revert s = .next (settle t) ∧
    stageState t = 2) ∧
  (∀ (c : Cmd) (s : State), let t := hedLoadOp c s
    landing s .background 0x30 = some c → cmdLegal s c = true → exec .hedLoad s = .next (settle t) ∧
    (laneRun t .background).map (fun c => c.out) = some (some (0, 0, wd s.time))) ∧
  (∀ (c : Cmd) (s : State), let t := regionWriteOp c s
    landing s .background 0x40 = some c → cmdLegal s c = true → exec .fwWrite s = .next (settle t) ∧
    (∀ e, writeError s c = some e → (laneRun t .background).map (fun c => c.out) = some (some (e.1, e.2, 0)) ∧ t.flash = s.flash)) ∧
  (∀ (c : Cmd) (s : State), let t := fwActivateOp c s
    landing s .background 0x41 = some c → cmdLegal s c = true → exec .fwActivate s = .next (settle t) ∧
    ((fwCheck s (fld (c.arg 0) 0 1) true).1 ≠ 0 → (laneRun t .background).map (fun c => c.out) = some (some ((fwCheck s (fld (c.arg 0) 0 1) true).1, (fwCheck s (fld (c.arg 0) 0 1) true).2, 0)) ∧ t.flash = s.flash)) ∧
  (∀ (c : Cmd) (s : State), let t := logReadOp c s
    landing s .background 0x42 = some c → cmdLegal s c = true → exec .logRead s = .next (settle t) ∧
    (laneRun t .background).map (fun c => c.out) = some (some (0, 0, wd (logRecords s (c.arg 0).toNat (c.arg 2).toNat).length))) ∧
  (∀ (c : Cmd) (s : State), let t := keyEnrolOp c s
    landing s .background 0x50 = some c → cmdLegal s c = true → exec .keyEnrol s = .next (settle t) ∧
    (s.fuse.fused.getLsbD (fld (c.arg 0) 0 2) = true → t.fuse = s.fuse)) ∧
  (∀ (c : Cmd) (s : State), let t := keyRevokeOp c s
    landing s .background 0x51 = some c → cmdLegal s c = true → exec .keyRevoke s = .next (settle t) ∧
    (nvmInh s = true → t.fuse = s.fuse)) ∧
  (∀ (c : Cmd) (s : State), let t := secureEnableOp c s
    landing s .background 0x52 = some c → cmdLegal s c = true → exec .secureEnable s = .next (settle t) ∧
    (nvmInh s = false → t.fuse.secure = true ∨ t.fuse = s.fuse)) ∧
  (∀ (c : Cmd) (s : State), let t := epochRaiseOp c s
    landing s .background 0x53 = some c → cmdLegal s c = true → exec .epochRaise s = .next (settle t) ∧
    (t.fuse.minEpoch = s.fuse.minEpoch ∨ t.fuse.minEpoch = (c.arg 0).toNat))

/-- An instruction of the port is loaded; the identification is read; a preload takes its cells. A debug access acts on
the registers while debug access is open, with the result brought out by the next scan, and is dropped otherwise; the
flash scans act where they may. An unlock whose signature verifies opens debug access. -/
def Obligations.TestAccessPort : Prop :=
  (∀ (s : State), let t := loadIr 0x00 s
    exec .extest s = .next (settle t) ∧
    t.tap.ir = 0x00 ∧ t.regs = s.regs) ∧
  (∀ (s : State), let t := idcodeOp s
    exec .idcode s = .next (settle t) ∧
    t.tap.ir = 0x01 ∧ t.rdata = [0xA5120B4D#32] ∧ t.regs = s.regs) ∧
  (∀ (s : State), let t := loadIr 0x04 s
    exec .clamp s = .next (settle t) ∧
    t.tap.ir = 0x04 ∧ t.regs = s.regs) ∧
  (∀ (s : State), let t := loadIr 0x05 s
    exec .highz s = .next (settle t) ∧
    t.tap.ir = 0x05 ∧ t.regs = s.regs) ∧
  (∀ (s : State), let t := loadIr 0x3F s
    exec .bypass s = .next (settle t) ∧
    t.tap.ir = 0x3F ∧ t.regs = s.regs) ∧
  (∀ (s : State), let t := modTap (fun x => { x with ir := 0x01, out := 0 }) s
    exec .testReset s = .next (settle t) ∧
    t.tap.ir = 0x01 ∧ t.regs = s.regs ∧ t.tap.cells = s.tap.cells) ∧
  (∀ (cells : BitVec 512) (s : State), let t := preloadOp cells s
    exec (.samplePreload cells) s = .next (settle t) ∧
    t.tap.ir = 0x02 ∧ t.tap.cells = cells ∧ t.rdata.length = 16 ∧ t.regs = s.regs) ∧
  (∀ (a : BitVec 32) (s : State), let u := inTurn .tackler s
    let t := dbgReadOp a.toNat u
    TakesNow .tackler s → mode u ≠ 0 → exec (.dbgAccRead a) s = .next (settle t) ∧
    t.tap.ir = 0x10 ∧
    (dbgOpen u = true → (inStore a.toNat && served u a.toNat) = false → t = scanOut 0x10 (readDw .tackler a.toNat u)) ∧
    (dbgOpen u = true → (inStore a.toNat && served u a.toNat) = true → t = portAsk ⟨bankOf a.toNat, 1, .tapRead a.toNat⟩ (scanOut 0x10 (u.tap.out, u)))) ∧
  (∀ (a v : BitVec 32) (s : State), let u := inTurn .tackler s
    let t := dbgWriteOp a.toNat v u
    TakesNow .tackler s → mode u ≠ 0 → exec (.dbgAccWrite a v) s = .next (settle t) ∧
    t.tap.ir = 0x10 ∧ t.tap.out = u.tap.out ∧ (dbgOpen u = true → t = scanOut 0x10 (u.tap.out, writeDw .tackler a.toNat v u)) ∧
    (dbgOpen u = false → t.mem = u.mem)) ∧
  (∀ (a : BitVec 32) (s : State), let t := scanOut 0x10 (s.tap.out, s)
    mode s = 0 → exec (.dbgAccRead a) s = .next (settle t) ∧
    t.tap.ir = 0x10 ∧ t.regs = s.regs) ∧
  (∀ (a v : BitVec 32) (s : State), let t := scanOut 0x10 (s.tap.out, s)
    mode s = 0 → exec (.dbgAccWrite a v) s = .next (settle t) ∧
    t.tap.ir = 0x10 ∧ t.regs = s.regs) ∧
  (∀ (a : BitVec 32) (s : State), let t := flashAcc (fun x => (wd (flashN x a.toNat 4), x)) s
    exec (.readWord a) s = .next (settle t) ∧
    t.tap.ir = 0x11 ∧ t.rdata = [s.tap.out] ∧ t.tap.out = (if flashAccActs s then wd (flashN s a.toNat 4) else s.tap.out)) ∧
  (∀ (a v : BitVec 32) (s : State), let t := flashAcc (fun x => (x.tap.out, loadWordOp a.toNat v x)) s
    exec (.loadWord a v) s = .next (settle t) ∧
    t.tap.ir = 0x11 ∧ t.flash.bytes = s.flash.bytes ∧
    (flashAccActs s = true → tget 0xFFFFFFFF#32 t.flash.page (a.toNat % 256 / 4) = v) ∧ (flashAccActs s = false → t.flash = s.flash)) ∧
  (∀ (a : BitVec 32) (s : State), let t := flashAcc (fun x => (x.tap.out, debugJob (.program (a.toNat / 256 * 256) (pageBytes x)) x)) s
    exec (.programPage a) s = .next (settle t) ∧
    t.tap.ir = 0x11 ∧ t.flash.bytes = s.flash.bytes ∧ (flashAccActs s = false → t.flash = s.flash)) ∧
  (∀ (a : BitVec 32) (s : State), let t := flashAcc (fun x => (x.tap.out, debugJob (.erase (a.toNat / 4096 * 4096) 1) x)) s
    exec (.eraseSector a) s = .next (settle t) ∧
    t.tap.ir = 0x11 ∧ t.flash.bytes = s.flash.bytes ∧ (flashAccActs s = false → t.flash = s.flash)) ∧
  (∀ (s : State), let t := flashAcc (fun x => (wd (freshWord x).1, (freshWord x).2)) s
    exec .readStatus s = .next (settle t) ∧
    t.tap.ir = 0x11 ∧ t.flash = s.flash ∧ t.rdata = [s.tap.out]) ∧
  (∀ (k : BitVec 8) (r v : BitVec 256) (s : State), let t := unlockOp k.toNat r.toNat v.toNat (loadIr 0x12 s)
    mode s ≠ 0 → exec (.dbgUnlock k r v) s = .next (settle t) ∧
    (rb s Reg.tackDbgctl 9 = true → t = loadIr 0x12 s) ∧ (rb s Reg.tackDbgctl 9 = false → t.tack.draws = s.tack.draws + 1) ∧
    (rb s Reg.tackDbgctl 9 = false → keyVerifies s k.toNat (unlockDigest s) r.toNat v.toNat = true → dbgOpen t = true))

/-- A sample of the supplies is shown, one of the temperatures has its effect. The log is copied to flash. The watchdog, a
clock fault and a request restart the firmware, and a watchdog that expires during a restart resets the device; the
restart ends when an image passes. A page or sector of the flash is done or fails. A replay that agrees ends; one that
does not is arbitrated or left unresolved; the second checker decides; a substitute is loaded. A lockstep or readback
mismatch is noted. -/
def Obligations.TacklerAndFaultEvents : Prop :=
  (∀ (x : Vector (BitVec 11) 8) (s : State), let t := tempSampleOp (x.toList.map fun y => y.toNat) s
    mode s ≠ 0 → exec (.tempSample x) s = .next (settle t) ∧
    ∀ i : Fin 8, rget t (Reg.tackTemp i) = wd (x[i.val]).toNat) ∧
  (∀ (x : Vector (BitVec 12) 7) (s : State), let t := supplySampleOp (x.toList.map fun y => y.toNat) s
    mode s ≠ 0 → exec (.supplySample x) s = .next (settle t) ∧
    (∀ m : Fin 6, rf t (Reg.tackSup m) 0 12 = (x[m.val]).toNat) ∧ rf t (Reg.tackSup 3) 16 12 = (x[6]).toNat ∧ t.mem = s.mem) ∧
  (∀ (n : LogRec) (s : State), let t := logCopyOp s
    logNextCopy s = some n → nvmInh s = false → fwRuns s = true → exec .logFlashCopy s = .next (settle t) ∧
    rget t Reg.tackLogFlseq = n.seq + 1#32 ∧ t.log.entry = (s.log.entry + 1) % 16384 ∧ t.mem = s.mem) ∧
  (∀ (s : State), let t := watchdogOp 4 s
    fwStarted s = true → exec .tacklerClockFault s = .next (settle t) ∧
    (restarting s = true → t = deviceReset 3 s) ∧ (restarting s = false → t = restartBegin 4 s)) ∧
  (∀ (s : State), let t := watchdogOp 1 s
    fwStarted s = true → exec .watchdogExpiry s = .next (settle t) ∧
    (restarting s = true → t = deviceReset 3 s) ∧ (restarting s = false → t = restartBegin 1 s)) ∧
  (∀ (s : State), let t := restartBegin 2 s
    fwRuns s = true → exec .firmwareRestartRequest s = .next (settle t) ∧
    restarting t = true ∧ rf t Reg.tackSts 16 3 = 2 ∧ mode t = mode s) ∧
  (∀ (i : Nat) (s : State), let t := restartEndOp s
    restarting s = true → fwSelect s = some i → exec .restartEnd s = .next (settle t) ∧
    restarting t = false ∧ rb t Reg.mbxSts 1 = false ∧ rb t Reg.gctlState 7 = false) ∧
  (∀ (j : FlashJob) (js : List FlashJob) (s : State), let t := flashDoneOp jobEnded s
    s.flash.jobs = j :: js → j.issued = true → exec .flashProgramDone s = .next (settle t) ∧
    (j.why = .debug → t.flash.bytes = (match j.steps with | x :: _ => (x.first s).flash.bytes | [] => s.flash.bytes))) ∧
  (∀ (j : FlashJob) (js : List FlashJob) (s : State), let t := flashErrorOp s
    s.flash.jobs = j :: js → j.issued = true → exec .flashError s = .next (settle t) ∧
    t.flash.bytes = s.flash.bytes) ∧
  (∀ (q : Checker) (w : BitVec 32) (ok : Bool) (e : Nat) (s : State), let t := replayEndOp (checkerNo q) e w ok s
    replayOf s q = some e → exec (.replayEnd q w ok) s = .next (settle t) ∧
    rget t Reg.gctlChkCnt = satInc (rget s Reg.gctlChkCnt) ∧
    (ok = true → w = sigOf s e → t.flt.det = s.flt.det ∧ t.flt.arb = s.flt.arb ∧ rget t Reg.gctlMismCnt = rget s Reg.gctlMismCnt) ∧
    (ok = false ∨ w ≠ sigOf s e → rget t Reg.gctlMismCnt = satInc (rget s Reg.gctlMismCnt))) ∧
  (∀ (w : BitVec 32) (ok : Bool) (a : Arb) (s : State), let t := arbitrate a w ok s
    s.flt.arb = some a → a.pick < pickNo s → exec (.arbitrationEnd w ok) s = .next (settle t) ∧
    (w = a.w → ok = a.ok → rf t Reg.gctlChksts 8 6 = a.eng % 64) ∧ t.mem = s.mem) ∧
  (∀ (q : Checker) (s : State), let t := substituteLoadedOp (checkerNo q) s
    copies s q = true → exec (.substituteLoaded q) s = .next (settle t) ∧
    rb t Reg.gctlChksts 15 = decide (1 < s.flt.copies.length) ∧ t.flt.copying = false ∧ t.mem = s.mem) ∧
  (∀ (s : State), let t := lockstepOp false s
    checkOn s = true → running s = true → exec .lockstepMismatch s = .next (settle t) ∧
    rb t Reg.gctlSts 0 = true ∧ t.shed.lsPick = some (pickNo s)) ∧
  (∀ (n : Fin 512) (s : State), let t := readbackNote n s
    readbackOn s n = true → exec (.readbackMismatch n) s = .next (settle t) ∧
    n.val ∈ t.flt.rbPins ∧ t.regs = s.regs)
end

