-- ==== Sys2Proof/Laws/Mem.lean ====
section
/-!
SUPPORT. The laws of the memories: what a byte reads as after a write, and that every operation on the bytes of the stores
and of the flash keeps their canonical form.
-/

namespace Sys2Proof.Machine

/-! ### Tables -/

/-- A table reads back what was set at a key. -/
@[simp] theorem tget_tset_same {α : Type} (d : α) (t : Tbl α) (k : Nat) (v : α) : tget d (tset t k v) k = v := by
  induction t with
  | nil => simp [tset, tget]
  | cons p t ih =>
    obtain ⟨j, w⟩ := p
    by_cases h : k = j
    · subst h; simp [tset, tget]
    · by_cases h2 : k < j
      · simp [tset, tget, h, h2]
      · simp [tset, tget, h, h2, ih]

/-- Setting a key leaves the other keys of a table as they are. -/
theorem tget_tset_other {α : Type} (d : α) (t : Tbl α) {j k : Nat} (v : α) (h : j ≠ k) :
    tget d (tset t k v) j = tget d t j := by
  induction t with
  | nil => simp [tset, tget, h]
  | cons p t ih =>
    obtain ⟨i, w⟩ := p
    by_cases h1 : k = i
    · subst h1; simp [tset, tget, h]
    · by_cases h2 : k < i
      · by_cases h3 : j < k
        · have h4 : j ≠ i := by omega
          have h5 : j < i := by omega
          simp [tset, tget, h, h1, h2, h3, h4, h5]
        · simp [tset, tget, h, h1, h2, h3]
      · by_cases h3 : j = i
        · simp [tset, tget, h1, h2, h3]
        · by_cases h4 : j < i
          · simp [tset, tget, h1, h2, h3, h4]
          · simp [tset, tget, h1, h2, h3, h4, ih]

/-! ### The canonical form -/

/-- Addresses strictly rise and no listed byte is the default `d`: the form of both memories. -/
def Canon (d : Byte) (m : List Host.Cell) : Prop := (m.Pairwise fun x y => x.1 < y.1) ∧ ∀ x ∈ m, x.2 ≠ d

theorem memory_wf_iff (m : List Host.Cell) : Memory.wf m = true ↔ Canon memDefault m := by
  simp [Memory.wf, Canon]

theorem flash_wf_iff (m : List Host.Cell) : Flash.wf m = true ↔ Canon 0xFF#8 m := by
  simp [Flash.wf, Canon]

/-- The keys of a memory with one byte replaced are among the old ones and the new one. -/
theorem mem_mset {m : List Host.Cell} {a : Nat} {b : Byte} {x : Host.Cell} (h : x ∈ mset m a b) :
    x ∈ m ∨ (x = (a, b) ∧ b ≠ memDefault) := by
  induction m with
  | nil =>
    by_cases hb : b = memDefault
    · simp [mset, hb] at h
    · exact .inr ⟨by simpa [mset, hb] using h, hb⟩
  | cons p t ih =>
    obtain ⟨k, v⟩ := p
    simp only [mset] at h
    split at h
    · next e =>
      subst e
      split at h
      · exact .inl (by simp [h])
      · next hb => rcases List.mem_cons.1 h with h | h
                   · exact .inr ⟨h, hb⟩
                   · exact .inl (by simp [h])
    · split at h
      · split at h
        · exact .inl h
        · next hb => rcases List.mem_cons.1 h with h | h
                     · exact .inr ⟨h, hb⟩
                     · exact .inl h
      · rcases List.mem_cons.1 h with h | h
        · exact .inl (by simp [h])
        · exact (ih h).imp (fun h => by simp [h]) id

/-- Replacing a byte keeps the canonical form. -/
theorem mset_canon {m : List Host.Cell} (a : Nat) (b : Byte) (h : Canon memDefault m) : Canon memDefault (mset m a b) := by
  refine ⟨?_, fun x hx => ?_⟩
  · obtain ⟨hp, -⟩ := h
    induction m with
    | nil => by_cases hb : b = memDefault <;> simp [mset, hb]
    | cons p t ih =>
      obtain ⟨k, v⟩ := p
      obtain ⟨h1, h2⟩ := List.pairwise_cons.1 hp
      simp only [mset]
      split
      · split
        · exact h2
        · exact List.pairwise_cons.2 ⟨h1, h2⟩
      · split
        · split
          · exact hp
          · refine List.pairwise_cons.2 ⟨fun y hy => ?_, hp⟩
            rcases List.mem_cons.1 hy with rfl | hy
            · assumption
            · have := h1 y hy
              simp only at this ⊢
              omega
        · refine List.pairwise_cons.2 ⟨fun y hy => ?_, ih h2⟩
          rcases mem_mset hy with hy | ⟨rfl, -⟩
          · exact h1 y hy
          · simp only
            omega
  · rcases mem_mset hx with hx | ⟨rfl, hb⟩
    · exact h.2 x hx
    · exact hb

/-- A byte reads as it was written. -/
@[simp] theorem mget_mset_same {m : List Host.Cell} (a : Nat) (b : Byte) (h : Canon memDefault m) :
    mget (mset m a b) a = b := by
  induction m with
  | nil => by_cases hb : b = memDefault <;> simp [mset, mget, hb]
  | cons p t ih =>
    obtain ⟨k, v⟩ := p
    have ht : Canon memDefault t := ⟨(List.pairwise_cons.1 h.1).2, fun x hx => h.2 x (by simp [hx])⟩
    simp only [mset]
    split
    · next e =>
      split
      · next hb =>
        cases t with
        | nil => simp [mget, hb]
        | cons q t =>
          have := (List.pairwise_cons.1 h.1).1 q (by simp)
          simp only at this
          have h1 : a ≠ q.1 := by omega
          have h2 : a < q.1 := by omega
          simp [mget, h1, h2, hb]
      · simp [mget, e]
    · next e =>
      split
      · next hl => split
                   · next hb => simp [mget, e, hl, hb]
                   · simp [mget]
      · next hl => simp [mget, e, hl, ih ht]

/-- A byte written leaves every other byte as it was. -/
theorem mget_mset_other {m : List Host.Cell} {a c : Nat} (b : Byte) (hc : c ≠ a) (h : Canon memDefault m) :
    mget (mset m a b) c = mget m c := by
  induction m with
  | nil => by_cases hb : b = memDefault <;> simp [mset, mget, hb, hc]
  | cons p t ih =>
    obtain ⟨k, v⟩ := p
    have ht : Canon memDefault t := ⟨(List.pairwise_cons.1 h.1).2, fun x hx => h.2 x (by simp [hx])⟩
    simp only [mset]
    split
    · next e =>
      subst e
      split
      · next hb =>
        cases t with
        | nil => simp [mget, hc]
        | cons q t =>
          have := (List.pairwise_cons.1 h.1).1 q (by simp)
          simp only at this
          by_cases h3 : c < a
          · have h1 : c ≠ q.1 := by omega
            have h2 : c < q.1 := by omega
            simp [mget, h1, h2, hc, h3]
          · simp [mget, hc, h3]
      · simp [mget, hc]
    · next e =>
      split
      · next hl =>
        split
        · rfl
        · by_cases h3 : c < a
          · have h1 : c ≠ k := by omega
            have h2 : c < k := by omega
            simp [mget, h1, h2, hc, h3]
          · simp [mget, hc, h3]
      · simp [mget, ih ht]

/-- Writing bytes keeps the canonical form. -/
theorem putBytes_canon {m : List Host.Cell} (a : Nat) (bs : List Byte) (h : Canon memDefault m) :
    Canon memDefault (putBytes a bs m) := by
  induction bs generalizing a m with
  | nil => exact h
  | cons b bs ih => exact ih (a + 1) (mset_canon a b h)

/-- Writing bytes leaves the bytes outside them as they were. -/
theorem mget_putBytes_other {m : List Host.Cell} {a c : Nat} (bs : List Byte) (hc : c < a ∨ a + bs.length ≤ c)
    (h : Canon memDefault m) : mget (putBytes a bs m) c = mget m c := by
  induction bs generalizing a m with
  | nil => rfl
  | cons b bs ih =>
    simp only [List.length_cons] at hc
    rw [putBytes, ih (by omega) (mset_canon a b h), mget_mset_other b (by omega) h]

/-- Bytes written read back. -/
theorem mget_putBytes_at {m : List Host.Cell} {a i : Nat} (bs : List Byte) (hi : i < bs.length)
    (h : Canon memDefault m) : mget (putBytes a bs m) (a + i) = bs[i] := by
  induction bs generalizing a i m with
  | nil => simp at hi
  | cons b bs ih =>
    cases i with
    | zero =>
      have := mget_putBytes_other (m := mset m a b) (a := a + 1) (c := a) bs (by omega) (mset_canon a b h)
      simpa [putBytes, this] using mget_mset_same a b h
    | succ i =>
      have := ih (a := a + 1) (i := i) (m := mset m a b) (by simpa using hi) (mset_canon a b h)
      rw [putBytes, show a + (i + 1) = a + 1 + i by omega, this]
      rfl

/-- Dropping entries keeps the canonical form. -/
theorem filter_canon {d : Byte} {m : List Host.Cell} (p : Host.Cell → Bool) (h : Canon d m) : Canon d (m.filter p) :=
  ⟨h.1.filter p, fun x hx => h.2 x (List.mem_filter.1 hx).1⟩

/-! ### The flash -/

theorem mem_flashSet {m : List Host.Cell} {a : Nat} {b : Byte} {x : Host.Cell} (h : x ∈ flashSet m a b) :
    x ∈ m ∨ (x = (a, b) ∧ b ≠ 0xFF#8) := by
  induction m with
  | nil =>
    by_cases hb : b = 0xFF#8
    · simp [flashSet, hb] at h
    · exact .inr ⟨by simpa [flashSet, hb] using h, hb⟩
  | cons p t ih =>
    obtain ⟨k, v⟩ := p
    simp only [flashSet] at h
    split at h
    · next e =>
      subst e
      split at h
      · exact .inl (by simp [h])
      · next hb => rcases List.mem_cons.1 h with h | h
                   · exact .inr ⟨h, hb⟩
                   · exact .inl (by simp [h])
    · split at h
      · split at h
        · exact .inl h
        · next hb => rcases List.mem_cons.1 h with h | h
                     · exact .inr ⟨h, hb⟩
                     · exact .inl h
      · rcases List.mem_cons.1 h with h | h
        · exact .inl (by simp [h])
        · exact (ih h).imp (fun h => by simp [h]) id

/-- Replacing a byte of the flash keeps its canonical form. -/
theorem flashSet_canon {m : List Host.Cell} (a : Nat) (b : Byte) (h : Canon 0xFF#8 m) : Canon 0xFF#8 (flashSet m a b) := by
  refine ⟨?_, fun x hx => ?_⟩
  · obtain ⟨hp, -⟩ := h
    induction m with
    | nil => by_cases hb : b = 0xFF#8 <;> simp [flashSet, hb]
    | cons p t ih =>
      obtain ⟨k, v⟩ := p
      obtain ⟨h1, h2⟩ := List.pairwise_cons.1 hp
      simp only [flashSet]
      split
      · split
        · exact h2
        · exact List.pairwise_cons.2 ⟨h1, h2⟩
      · split
        · split
          · exact hp
          · refine List.pairwise_cons.2 ⟨fun y hy => ?_, hp⟩
            rcases List.mem_cons.1 hy with rfl | hy
            · assumption
            · have := h1 y hy
              simp only at this ⊢
              omega
        · refine List.pairwise_cons.2 ⟨fun y hy => ?_, ih h2⟩
          rcases mem_flashSet hy with hy | ⟨rfl, -⟩
          · exact h1 y hy
          · simp only
            omega
  · rcases mem_flashSet hx with hx | ⟨rfl, hb⟩
    · exact h.2 x hx
    · exact hb

/-- Programming keeps the canonical form of the flash. -/
theorem flashProg_canon {m : List Host.Cell} (a : Nat) (bs : List Byte) (h : Canon 0xFF#8 m) :
    Canon 0xFF#8 (flashProg a bs m) := by
  induction bs generalizing a m with
  | nil => exact h
  | cons b bs ih => exact ih (a + 1) (flashSet_canon a _ h)

/-- Reset's memories are in canonical form. -/
theorem reset_mem_wf : Memory.wf State.reset.mem = true ∧ Flash.wf State.reset.flash.bytes = true := by decide

end Sys2Proof.Machine
end

