-- ==== Sys2Proof/Laws/State.lean ====
section
/-!
SUPPORT. The laws of the state's updates: what each update leaves as it is, field by field, and what the reads of registers
and of the blocks' structures give after it.
-/

namespace Sys2Proof.Machine

/-! ### rset -/

@[simp] theorem rset_time {a v s} : (rset a v s).time = s.time := rfl
@[simp] theorem rset_pairHi {a v s} : (rset a v s).pairHi = s.pairHi := rfl
@[simp] theorem rset_pairLo {a v s} : (rset a v s).pairLo = s.pairLo := rfl
@[simp] theorem rset_rdata {a v s} : (rset a v s).rdata = s.rdata := rfl
@[simp] theorem rset_ev {a v s} : (rset a v s).ev = s.ev := rfl
@[simp] theorem rset_vec {a v s} : (rset a v s).vec = s.vec := rfl
@[simp] theorem rset_ch {a v s} : (rset a v s).ch = s.ch := rfl
@[simp] theorem rset_owner {a v s} : (rset a v s).owner = s.owner := rfl
@[simp] theorem rset_harn {a v s} : (rset a v s).harn = s.harn := rfl
@[simp] theorem rset_reed {a v s} : (rset a v s).reed = s.reed := rfl
@[simp] theorem rset_tasks {a v s} : (rset a v s).tasks = s.tasks := rfl
@[simp] theorem rset_shed {a v s} : (rset a v s).shed = s.shed := rfl
@[simp] theorem rset_eng {a v s} : (rset a v s).eng = s.eng := rfl
@[simp] theorem rset_timed {a v s} : (rset a v s).timed = s.timed := rfl
@[simp] theorem rset_pos {a v s} : (rset a v s).pos = s.pos := rfl
@[simp] theorem rset_mem {a v s} : (rset a v s).mem = s.mem := rfl
@[simp] theorem rset_store {a v s} : (rset a v s).store = s.store := rfl
@[simp] theorem rset_code {a v s} : (rset a v s).code = s.code := rfl
@[simp] theorem rset_codeBad {a v s} : (rset a v s).codeBad = s.codeBad := rfl
@[simp] theorem rset_shu {a v s} : (rset a v s).shu = s.shu := rfl
@[simp] theorem rset_chg {a v s} : (rset a v s).chg = s.chg := rfl
@[simp] theorem rset_flt {a v s} : (rset a v s).flt = s.flt := rfl
@[simp] theorem rset_trd {a v s} : (rset a v s).trd = s.trd := rfl
@[simp] theorem rset_chain {a v s} : (rset a v s).chain = s.chain := rfl
@[simp] theorem rset_log {a v s} : (rset a v s).log = s.log := rfl
@[simp] theorem rset_hed {a v s} : (rset a v s).hed = s.hed := rfl
@[simp] theorem rset_cmp {a v s} : (rset a v s).cmp = s.cmp := rfl
@[simp] theorem rset_adc {a v s} : (rset a v s).adc = s.adc := rfl
@[simp] theorem rset_bob {a v s} : (rset a v s).bob = s.bob := rfl
@[simp] theorem rset_host {a v s} : (rset a v s).host = s.host := rfl
@[simp] theorem rset_pwr {a v s} : (rset a v s).pwr = s.pwr := rfl
@[simp] theorem rset_flash {a v s} : (rset a v s).flash = s.flash := rfl
@[simp] theorem rset_fuse {a v s} : (rset a v s).fuse = s.fuse := rfl
@[simp] theorem rset_sel {a v s} : (rset a v s).sel = s.sel := rfl
@[simp] theorem rset_tack {a v s} : (rset a v s).tack = s.tack := rfl
@[simp] theorem rset_tap {a v s} : (rset a v s).tap = s.tap := rfl
@[simp] theorem rset_cyc {a v s} : (rset a v s).cyc = s.cyc := rfl
@[simp] theorem rset_freeN {a v s} : (rset a v s).freeN = s.freeN := rfl
@[simp] theorem rset_pending {a v s} : (rset a v s).pending = s.pending := rfl

/-! ### setf -/

@[simp] theorem setf_time {a lo n x s} : (setf a lo n x s).time = s.time := rfl
@[simp] theorem setf_pairHi {a lo n x s} : (setf a lo n x s).pairHi = s.pairHi := rfl
@[simp] theorem setf_pairLo {a lo n x s} : (setf a lo n x s).pairLo = s.pairLo := rfl
@[simp] theorem setf_rdata {a lo n x s} : (setf a lo n x s).rdata = s.rdata := rfl
@[simp] theorem setf_ev {a lo n x s} : (setf a lo n x s).ev = s.ev := rfl
@[simp] theorem setf_vec {a lo n x s} : (setf a lo n x s).vec = s.vec := rfl
@[simp] theorem setf_ch {a lo n x s} : (setf a lo n x s).ch = s.ch := rfl
@[simp] theorem setf_owner {a lo n x s} : (setf a lo n x s).owner = s.owner := rfl
@[simp] theorem setf_harn {a lo n x s} : (setf a lo n x s).harn = s.harn := rfl
@[simp] theorem setf_reed {a lo n x s} : (setf a lo n x s).reed = s.reed := rfl
@[simp] theorem setf_tasks {a lo n x s} : (setf a lo n x s).tasks = s.tasks := rfl
@[simp] theorem setf_shed {a lo n x s} : (setf a lo n x s).shed = s.shed := rfl
@[simp] theorem setf_eng {a lo n x s} : (setf a lo n x s).eng = s.eng := rfl
@[simp] theorem setf_timed {a lo n x s} : (setf a lo n x s).timed = s.timed := rfl
@[simp] theorem setf_pos {a lo n x s} : (setf a lo n x s).pos = s.pos := rfl
@[simp] theorem setf_mem {a lo n x s} : (setf a lo n x s).mem = s.mem := rfl
@[simp] theorem setf_store {a lo n x s} : (setf a lo n x s).store = s.store := rfl
@[simp] theorem setf_code {a lo n x s} : (setf a lo n x s).code = s.code := rfl
@[simp] theorem setf_codeBad {a lo n x s} : (setf a lo n x s).codeBad = s.codeBad := rfl
@[simp] theorem setf_shu {a lo n x s} : (setf a lo n x s).shu = s.shu := rfl
@[simp] theorem setf_chg {a lo n x s} : (setf a lo n x s).chg = s.chg := rfl
@[simp] theorem setf_flt {a lo n x s} : (setf a lo n x s).flt = s.flt := rfl
@[simp] theorem setf_trd {a lo n x s} : (setf a lo n x s).trd = s.trd := rfl
@[simp] theorem setf_chain {a lo n x s} : (setf a lo n x s).chain = s.chain := rfl
@[simp] theorem setf_log {a lo n x s} : (setf a lo n x s).log = s.log := rfl
@[simp] theorem setf_hed {a lo n x s} : (setf a lo n x s).hed = s.hed := rfl
@[simp] theorem setf_cmp {a lo n x s} : (setf a lo n x s).cmp = s.cmp := rfl
@[simp] theorem setf_adc {a lo n x s} : (setf a lo n x s).adc = s.adc := rfl
@[simp] theorem setf_bob {a lo n x s} : (setf a lo n x s).bob = s.bob := rfl
@[simp] theorem setf_host {a lo n x s} : (setf a lo n x s).host = s.host := rfl
@[simp] theorem setf_pwr {a lo n x s} : (setf a lo n x s).pwr = s.pwr := rfl
@[simp] theorem setf_flash {a lo n x s} : (setf a lo n x s).flash = s.flash := rfl
@[simp] theorem setf_fuse {a lo n x s} : (setf a lo n x s).fuse = s.fuse := rfl
@[simp] theorem setf_sel {a lo n x s} : (setf a lo n x s).sel = s.sel := rfl
@[simp] theorem setf_tack {a lo n x s} : (setf a lo n x s).tack = s.tack := rfl
@[simp] theorem setf_tap {a lo n x s} : (setf a lo n x s).tap = s.tap := rfl
@[simp] theorem setf_cyc {a lo n x s} : (setf a lo n x s).cyc = s.cyc := rfl
@[simp] theorem setf_freeN {a lo n x s} : (setf a lo n x s).freeN = s.freeN := rfl
@[simp] theorem setf_pending {a lo n x s} : (setf a lo n x s).pending = s.pending := rfl

/-! ### setb -/

@[simp] theorem setb_time {a i b s} : (setb a i b s).time = s.time := by cases b <;> rfl
@[simp] theorem setb_pairHi {a i b s} : (setb a i b s).pairHi = s.pairHi := by cases b <;> rfl
@[simp] theorem setb_pairLo {a i b s} : (setb a i b s).pairLo = s.pairLo := by cases b <;> rfl
@[simp] theorem setb_rdata {a i b s} : (setb a i b s).rdata = s.rdata := by cases b <;> rfl
@[simp] theorem setb_ev {a i b s} : (setb a i b s).ev = s.ev := by cases b <;> rfl
@[simp] theorem setb_vec {a i b s} : (setb a i b s).vec = s.vec := by cases b <;> rfl
@[simp] theorem setb_ch {a i b s} : (setb a i b s).ch = s.ch := by cases b <;> rfl
@[simp] theorem setb_owner {a i b s} : (setb a i b s).owner = s.owner := by cases b <;> rfl
@[simp] theorem setb_harn {a i b s} : (setb a i b s).harn = s.harn := by cases b <;> rfl
@[simp] theorem setb_reed {a i b s} : (setb a i b s).reed = s.reed := by cases b <;> rfl
@[simp] theorem setb_tasks {a i b s} : (setb a i b s).tasks = s.tasks := by cases b <;> rfl
@[simp] theorem setb_shed {a i b s} : (setb a i b s).shed = s.shed := by cases b <;> rfl
@[simp] theorem setb_eng {a i b s} : (setb a i b s).eng = s.eng := by cases b <;> rfl
@[simp] theorem setb_timed {a i b s} : (setb a i b s).timed = s.timed := by cases b <;> rfl
@[simp] theorem setb_pos {a i b s} : (setb a i b s).pos = s.pos := by cases b <;> rfl
@[simp] theorem setb_mem {a i b s} : (setb a i b s).mem = s.mem := by cases b <;> rfl
@[simp] theorem setb_store {a i b s} : (setb a i b s).store = s.store := by cases b <;> rfl
@[simp] theorem setb_code {a i b s} : (setb a i b s).code = s.code := by cases b <;> rfl
@[simp] theorem setb_codeBad {a i b s} : (setb a i b s).codeBad = s.codeBad := by cases b <;> rfl
@[simp] theorem setb_shu {a i b s} : (setb a i b s).shu = s.shu := by cases b <;> rfl
@[simp] theorem setb_chg {a i b s} : (setb a i b s).chg = s.chg := by cases b <;> rfl
@[simp] theorem setb_flt {a i b s} : (setb a i b s).flt = s.flt := by cases b <;> rfl
@[simp] theorem setb_trd {a i b s} : (setb a i b s).trd = s.trd := by cases b <;> rfl
@[simp] theorem setb_chain {a i b s} : (setb a i b s).chain = s.chain := by cases b <;> rfl
@[simp] theorem setb_log {a i b s} : (setb a i b s).log = s.log := by cases b <;> rfl
@[simp] theorem setb_hed {a i b s} : (setb a i b s).hed = s.hed := by cases b <;> rfl
@[simp] theorem setb_cmp {a i b s} : (setb a i b s).cmp = s.cmp := by cases b <;> rfl
@[simp] theorem setb_adc {a i b s} : (setb a i b s).adc = s.adc := by cases b <;> rfl
@[simp] theorem setb_bob {a i b s} : (setb a i b s).bob = s.bob := by cases b <;> rfl
@[simp] theorem setb_host {a i b s} : (setb a i b s).host = s.host := by cases b <;> rfl
@[simp] theorem setb_pwr {a i b s} : (setb a i b s).pwr = s.pwr := by cases b <;> rfl
@[simp] theorem setb_flash {a i b s} : (setb a i b s).flash = s.flash := by cases b <;> rfl
@[simp] theorem setb_fuse {a i b s} : (setb a i b s).fuse = s.fuse := by cases b <;> rfl
@[simp] theorem setb_sel {a i b s} : (setb a i b s).sel = s.sel := by cases b <;> rfl
@[simp] theorem setb_tack {a i b s} : (setb a i b s).tack = s.tack := by cases b <;> rfl
@[simp] theorem setb_tap {a i b s} : (setb a i b s).tap = s.tap := by cases b <;> rfl
@[simp] theorem setb_freeN {a i b s} : (setb a i b s).freeN = s.freeN := by cases b <;> rfl
@[simp] theorem setb_pending {a i b s} : (setb a i b s).pending = s.pending := by cases b <;> rfl

/-! ### count -/

@[simp] theorem count_time {a s} : (count a s).time = s.time := rfl
@[simp] theorem count_pairHi {a s} : (count a s).pairHi = s.pairHi := rfl
@[simp] theorem count_pairLo {a s} : (count a s).pairLo = s.pairLo := rfl
@[simp] theorem count_rdata {a s} : (count a s).rdata = s.rdata := rfl
@[simp] theorem count_ev {a s} : (count a s).ev = s.ev := rfl
@[simp] theorem count_vec {a s} : (count a s).vec = s.vec := rfl
@[simp] theorem count_ch {a s} : (count a s).ch = s.ch := rfl
@[simp] theorem count_owner {a s} : (count a s).owner = s.owner := rfl
@[simp] theorem count_harn {a s} : (count a s).harn = s.harn := rfl
@[simp] theorem count_reed {a s} : (count a s).reed = s.reed := rfl
@[simp] theorem count_tasks {a s} : (count a s).tasks = s.tasks := rfl
@[simp] theorem count_shed {a s} : (count a s).shed = s.shed := rfl
@[simp] theorem count_eng {a s} : (count a s).eng = s.eng := rfl
@[simp] theorem count_timed {a s} : (count a s).timed = s.timed := rfl
@[simp] theorem count_pos {a s} : (count a s).pos = s.pos := rfl
@[simp] theorem count_mem {a s} : (count a s).mem = s.mem := rfl
@[simp] theorem count_store {a s} : (count a s).store = s.store := rfl
@[simp] theorem count_code {a s} : (count a s).code = s.code := rfl
@[simp] theorem count_codeBad {a s} : (count a s).codeBad = s.codeBad := rfl
@[simp] theorem count_shu {a s} : (count a s).shu = s.shu := rfl
@[simp] theorem count_chg {a s} : (count a s).chg = s.chg := rfl
@[simp] theorem count_flt {a s} : (count a s).flt = s.flt := rfl
@[simp] theorem count_trd {a s} : (count a s).trd = s.trd := rfl
@[simp] theorem count_chain {a s} : (count a s).chain = s.chain := rfl
@[simp] theorem count_log {a s} : (count a s).log = s.log := rfl
@[simp] theorem count_hed {a s} : (count a s).hed = s.hed := rfl
@[simp] theorem count_cmp {a s} : (count a s).cmp = s.cmp := rfl
@[simp] theorem count_adc {a s} : (count a s).adc = s.adc := rfl
@[simp] theorem count_bob {a s} : (count a s).bob = s.bob := rfl
@[simp] theorem count_host {a s} : (count a s).host = s.host := rfl
@[simp] theorem count_pwr {a s} : (count a s).pwr = s.pwr := rfl
@[simp] theorem count_flash {a s} : (count a s).flash = s.flash := rfl
@[simp] theorem count_fuse {a s} : (count a s).fuse = s.fuse := rfl
@[simp] theorem count_sel {a s} : (count a s).sel = s.sel := rfl
@[simp] theorem count_tack {a s} : (count a s).tack = s.tack := rfl
@[simp] theorem count_tap {a s} : (count a s).tap = s.tap := rfl
@[simp] theorem count_freeN {a s} : (count a s).freeN = s.freeN := rfl
@[simp] theorem count_pending {a s} : (count a s).pending = s.pending := rfl

/-! ### countN -/

@[simp] theorem countN_time {a k s} : (countN a k s).time = s.time := rfl
@[simp] theorem countN_pairHi {a k s} : (countN a k s).pairHi = s.pairHi := rfl
@[simp] theorem countN_pairLo {a k s} : (countN a k s).pairLo = s.pairLo := rfl
@[simp] theorem countN_rdata {a k s} : (countN a k s).rdata = s.rdata := rfl
@[simp] theorem countN_ev {a k s} : (countN a k s).ev = s.ev := rfl
@[simp] theorem countN_vec {a k s} : (countN a k s).vec = s.vec := rfl
@[simp] theorem countN_ch {a k s} : (countN a k s).ch = s.ch := rfl
@[simp] theorem countN_owner {a k s} : (countN a k s).owner = s.owner := rfl
@[simp] theorem countN_harn {a k s} : (countN a k s).harn = s.harn := rfl
@[simp] theorem countN_reed {a k s} : (countN a k s).reed = s.reed := rfl
@[simp] theorem countN_tasks {a k s} : (countN a k s).tasks = s.tasks := rfl
@[simp] theorem countN_shed {a k s} : (countN a k s).shed = s.shed := rfl
@[simp] theorem countN_eng {a k s} : (countN a k s).eng = s.eng := rfl
@[simp] theorem countN_timed {a k s} : (countN a k s).timed = s.timed := rfl
@[simp] theorem countN_pos {a k s} : (countN a k s).pos = s.pos := rfl
@[simp] theorem countN_mem {a k s} : (countN a k s).mem = s.mem := rfl
@[simp] theorem countN_store {a k s} : (countN a k s).store = s.store := rfl
@[simp] theorem countN_code {a k s} : (countN a k s).code = s.code := rfl
@[simp] theorem countN_codeBad {a k s} : (countN a k s).codeBad = s.codeBad := rfl
@[simp] theorem countN_shu {a k s} : (countN a k s).shu = s.shu := rfl
@[simp] theorem countN_chg {a k s} : (countN a k s).chg = s.chg := rfl
@[simp] theorem countN_flt {a k s} : (countN a k s).flt = s.flt := rfl
@[simp] theorem countN_trd {a k s} : (countN a k s).trd = s.trd := rfl
@[simp] theorem countN_chain {a k s} : (countN a k s).chain = s.chain := rfl
@[simp] theorem countN_log {a k s} : (countN a k s).log = s.log := rfl
@[simp] theorem countN_hed {a k s} : (countN a k s).hed = s.hed := rfl
@[simp] theorem countN_cmp {a k s} : (countN a k s).cmp = s.cmp := rfl
@[simp] theorem countN_adc {a k s} : (countN a k s).adc = s.adc := rfl
@[simp] theorem countN_bob {a k s} : (countN a k s).bob = s.bob := rfl
@[simp] theorem countN_host {a k s} : (countN a k s).host = s.host := rfl
@[simp] theorem countN_pwr {a k s} : (countN a k s).pwr = s.pwr := rfl
@[simp] theorem countN_flash {a k s} : (countN a k s).flash = s.flash := rfl
@[simp] theorem countN_fuse {a k s} : (countN a k s).fuse = s.fuse := rfl
@[simp] theorem countN_sel {a k s} : (countN a k s).sel = s.sel := rfl
@[simp] theorem countN_tack {a k s} : (countN a k s).tack = s.tack := rfl
@[simp] theorem countN_tap {a k s} : (countN a k s).tap = s.tap := rfl
@[simp] theorem countN_freeN {a k s} : (countN a k s).freeN = s.freeN := rfl
@[simp] theorem countN_pending {a k s} : (countN a k s).pending = s.pending := rfl

/-! ### clr -/

@[simp] theorem clr_time {a s} : (clr a s).time = s.time := rfl
@[simp] theorem clr_pairHi {a s} : (clr a s).pairHi = s.pairHi := rfl
@[simp] theorem clr_pairLo {a s} : (clr a s).pairLo = s.pairLo := rfl
@[simp] theorem clr_rdata {a s} : (clr a s).rdata = s.rdata := rfl
@[simp] theorem clr_ev {a s} : (clr a s).ev = s.ev := rfl
@[simp] theorem clr_vec {a s} : (clr a s).vec = s.vec := rfl
@[simp] theorem clr_ch {a s} : (clr a s).ch = s.ch := rfl
@[simp] theorem clr_owner {a s} : (clr a s).owner = s.owner := rfl
@[simp] theorem clr_harn {a s} : (clr a s).harn = s.harn := rfl
@[simp] theorem clr_reed {a s} : (clr a s).reed = s.reed := rfl
@[simp] theorem clr_tasks {a s} : (clr a s).tasks = s.tasks := rfl
@[simp] theorem clr_shed {a s} : (clr a s).shed = s.shed := rfl
@[simp] theorem clr_eng {a s} : (clr a s).eng = s.eng := rfl
@[simp] theorem clr_timed {a s} : (clr a s).timed = s.timed := rfl
@[simp] theorem clr_pos {a s} : (clr a s).pos = s.pos := rfl
@[simp] theorem clr_mem {a s} : (clr a s).mem = s.mem := rfl
@[simp] theorem clr_store {a s} : (clr a s).store = s.store := rfl
@[simp] theorem clr_code {a s} : (clr a s).code = s.code := rfl
@[simp] theorem clr_codeBad {a s} : (clr a s).codeBad = s.codeBad := rfl
@[simp] theorem clr_shu {a s} : (clr a s).shu = s.shu := rfl
@[simp] theorem clr_chg {a s} : (clr a s).chg = s.chg := rfl
@[simp] theorem clr_flt {a s} : (clr a s).flt = s.flt := rfl
@[simp] theorem clr_trd {a s} : (clr a s).trd = s.trd := rfl
@[simp] theorem clr_chain {a s} : (clr a s).chain = s.chain := rfl
@[simp] theorem clr_log {a s} : (clr a s).log = s.log := rfl
@[simp] theorem clr_hed {a s} : (clr a s).hed = s.hed := rfl
@[simp] theorem clr_cmp {a s} : (clr a s).cmp = s.cmp := rfl
@[simp] theorem clr_adc {a s} : (clr a s).adc = s.adc := rfl
@[simp] theorem clr_bob {a s} : (clr a s).bob = s.bob := rfl
@[simp] theorem clr_host {a s} : (clr a s).host = s.host := rfl
@[simp] theorem clr_pwr {a s} : (clr a s).pwr = s.pwr := rfl
@[simp] theorem clr_flash {a s} : (clr a s).flash = s.flash := rfl
@[simp] theorem clr_fuse {a s} : (clr a s).fuse = s.fuse := rfl
@[simp] theorem clr_sel {a s} : (clr a s).sel = s.sel := rfl
@[simp] theorem clr_tack {a s} : (clr a s).tack = s.tack := rfl
@[simp] theorem clr_tap {a s} : (clr a s).tap = s.tap := rfl
@[simp] theorem clr_cyc {a s} : (clr a s).cyc = s.cyc := rfl
@[simp] theorem clr_freeN {a s} : (clr a s).freeN = s.freeN := rfl
@[simp] theorem clr_pending {a s} : (clr a s).pending = s.pending := rfl

/-! ### modCh -/

@[simp] theorem modCh_time {n g s} : (modCh n g s).time = s.time := rfl
@[simp] theorem modCh_regs {n g s} : (modCh n g s).regs = s.regs := rfl
@[simp] theorem modCh_pairHi {n g s} : (modCh n g s).pairHi = s.pairHi := rfl
@[simp] theorem modCh_pairLo {n g s} : (modCh n g s).pairLo = s.pairLo := rfl
@[simp] theorem modCh_rdata {n g s} : (modCh n g s).rdata = s.rdata := rfl
@[simp] theorem modCh_ev {n g s} : (modCh n g s).ev = s.ev := rfl
@[simp] theorem modCh_vec {n g s} : (modCh n g s).vec = s.vec := rfl
@[simp] theorem modCh_owner {n g s} : (modCh n g s).owner = s.owner := rfl
@[simp] theorem modCh_harn {n g s} : (modCh n g s).harn = s.harn := rfl
@[simp] theorem modCh_reed {n g s} : (modCh n g s).reed = s.reed := rfl
@[simp] theorem modCh_tasks {n g s} : (modCh n g s).tasks = s.tasks := rfl
@[simp] theorem modCh_shed {n g s} : (modCh n g s).shed = s.shed := rfl
@[simp] theorem modCh_eng {n g s} : (modCh n g s).eng = s.eng := rfl
@[simp] theorem modCh_timed {n g s} : (modCh n g s).timed = s.timed := rfl
@[simp] theorem modCh_pos {n g s} : (modCh n g s).pos = s.pos := rfl
@[simp] theorem modCh_mem {n g s} : (modCh n g s).mem = s.mem := rfl
@[simp] theorem modCh_store {n g s} : (modCh n g s).store = s.store := rfl
@[simp] theorem modCh_code {n g s} : (modCh n g s).code = s.code := rfl
@[simp] theorem modCh_codeBad {n g s} : (modCh n g s).codeBad = s.codeBad := rfl
@[simp] theorem modCh_shu {n g s} : (modCh n g s).shu = s.shu := rfl
@[simp] theorem modCh_chg {n g s} : (modCh n g s).chg = s.chg := rfl
@[simp] theorem modCh_flt {n g s} : (modCh n g s).flt = s.flt := rfl
@[simp] theorem modCh_trd {n g s} : (modCh n g s).trd = s.trd := rfl
@[simp] theorem modCh_chain {n g s} : (modCh n g s).chain = s.chain := rfl
@[simp] theorem modCh_log {n g s} : (modCh n g s).log = s.log := rfl
@[simp] theorem modCh_hed {n g s} : (modCh n g s).hed = s.hed := rfl
@[simp] theorem modCh_cmp {n g s} : (modCh n g s).cmp = s.cmp := rfl
@[simp] theorem modCh_adc {n g s} : (modCh n g s).adc = s.adc := rfl
@[simp] theorem modCh_bob {n g s} : (modCh n g s).bob = s.bob := rfl
@[simp] theorem modCh_host {n g s} : (modCh n g s).host = s.host := rfl
@[simp] theorem modCh_pwr {n g s} : (modCh n g s).pwr = s.pwr := rfl
@[simp] theorem modCh_flash {n g s} : (modCh n g s).flash = s.flash := rfl
@[simp] theorem modCh_fuse {n g s} : (modCh n g s).fuse = s.fuse := rfl
@[simp] theorem modCh_sel {n g s} : (modCh n g s).sel = s.sel := rfl
@[simp] theorem modCh_tack {n g s} : (modCh n g s).tack = s.tack := rfl
@[simp] theorem modCh_tap {n g s} : (modCh n g s).tap = s.tap := rfl
@[simp] theorem modCh_cyc {n g s} : (modCh n g s).cyc = s.cyc := rfl
@[simp] theorem modCh_freeN {n g s} : (modCh n g s).freeN = s.freeN := rfl
@[simp] theorem modCh_pending {n g s} : (modCh n g s).pending = s.pending := rfl
@[simp] theorem modCh_rget {n g s r} : rget (modCh n g s) r = rget s r := rfl

/-! ### modHarn -/

@[simp] theorem modHarn_time {n g s} : (modHarn n g s).time = s.time := rfl
@[simp] theorem modHarn_regs {n g s} : (modHarn n g s).regs = s.regs := rfl
@[simp] theorem modHarn_pairHi {n g s} : (modHarn n g s).pairHi = s.pairHi := rfl
@[simp] theorem modHarn_pairLo {n g s} : (modHarn n g s).pairLo = s.pairLo := rfl
@[simp] theorem modHarn_rdata {n g s} : (modHarn n g s).rdata = s.rdata := rfl
@[simp] theorem modHarn_ev {n g s} : (modHarn n g s).ev = s.ev := rfl
@[simp] theorem modHarn_vec {n g s} : (modHarn n g s).vec = s.vec := rfl
@[simp] theorem modHarn_ch {n g s} : (modHarn n g s).ch = s.ch := rfl
@[simp] theorem modHarn_owner {n g s} : (modHarn n g s).owner = s.owner := rfl
@[simp] theorem modHarn_reed {n g s} : (modHarn n g s).reed = s.reed := rfl
@[simp] theorem modHarn_tasks {n g s} : (modHarn n g s).tasks = s.tasks := rfl
@[simp] theorem modHarn_shed {n g s} : (modHarn n g s).shed = s.shed := rfl
@[simp] theorem modHarn_eng {n g s} : (modHarn n g s).eng = s.eng := rfl
@[simp] theorem modHarn_timed {n g s} : (modHarn n g s).timed = s.timed := rfl
@[simp] theorem modHarn_pos {n g s} : (modHarn n g s).pos = s.pos := rfl
@[simp] theorem modHarn_mem {n g s} : (modHarn n g s).mem = s.mem := rfl
@[simp] theorem modHarn_store {n g s} : (modHarn n g s).store = s.store := rfl
@[simp] theorem modHarn_code {n g s} : (modHarn n g s).code = s.code := rfl
@[simp] theorem modHarn_codeBad {n g s} : (modHarn n g s).codeBad = s.codeBad := rfl
@[simp] theorem modHarn_shu {n g s} : (modHarn n g s).shu = s.shu := rfl
@[simp] theorem modHarn_chg {n g s} : (modHarn n g s).chg = s.chg := rfl
@[simp] theorem modHarn_flt {n g s} : (modHarn n g s).flt = s.flt := rfl
@[simp] theorem modHarn_trd {n g s} : (modHarn n g s).trd = s.trd := rfl
@[simp] theorem modHarn_chain {n g s} : (modHarn n g s).chain = s.chain := rfl
@[simp] theorem modHarn_log {n g s} : (modHarn n g s).log = s.log := rfl
@[simp] theorem modHarn_hed {n g s} : (modHarn n g s).hed = s.hed := rfl
@[simp] theorem modHarn_cmp {n g s} : (modHarn n g s).cmp = s.cmp := rfl
@[simp] theorem modHarn_adc {n g s} : (modHarn n g s).adc = s.adc := rfl
@[simp] theorem modHarn_bob {n g s} : (modHarn n g s).bob = s.bob := rfl
@[simp] theorem modHarn_host {n g s} : (modHarn n g s).host = s.host := rfl
@[simp] theorem modHarn_pwr {n g s} : (modHarn n g s).pwr = s.pwr := rfl
@[simp] theorem modHarn_flash {n g s} : (modHarn n g s).flash = s.flash := rfl
@[simp] theorem modHarn_fuse {n g s} : (modHarn n g s).fuse = s.fuse := rfl
@[simp] theorem modHarn_sel {n g s} : (modHarn n g s).sel = s.sel := rfl
@[simp] theorem modHarn_tack {n g s} : (modHarn n g s).tack = s.tack := rfl
@[simp] theorem modHarn_tap {n g s} : (modHarn n g s).tap = s.tap := rfl
@[simp] theorem modHarn_cyc {n g s} : (modHarn n g s).cyc = s.cyc := rfl
@[simp] theorem modHarn_freeN {n g s} : (modHarn n g s).freeN = s.freeN := rfl
@[simp] theorem modHarn_pending {n g s} : (modHarn n g s).pending = s.pending := rfl
@[simp] theorem modHarn_rget {n g s r} : rget (modHarn n g s) r = rget s r := rfl

/-! ### modReed -/

@[simp] theorem modReed_time {n g s} : (modReed n g s).time = s.time := rfl
@[simp] theorem modReed_regs {n g s} : (modReed n g s).regs = s.regs := rfl
@[simp] theorem modReed_pairHi {n g s} : (modReed n g s).pairHi = s.pairHi := rfl
@[simp] theorem modReed_pairLo {n g s} : (modReed n g s).pairLo = s.pairLo := rfl
@[simp] theorem modReed_rdata {n g s} : (modReed n g s).rdata = s.rdata := rfl
@[simp] theorem modReed_ev {n g s} : (modReed n g s).ev = s.ev := rfl
@[simp] theorem modReed_vec {n g s} : (modReed n g s).vec = s.vec := rfl
@[simp] theorem modReed_ch {n g s} : (modReed n g s).ch = s.ch := rfl
@[simp] theorem modReed_owner {n g s} : (modReed n g s).owner = s.owner := rfl
@[simp] theorem modReed_harn {n g s} : (modReed n g s).harn = s.harn := rfl
@[simp] theorem modReed_tasks {n g s} : (modReed n g s).tasks = s.tasks := rfl
@[simp] theorem modReed_shed {n g s} : (modReed n g s).shed = s.shed := rfl
@[simp] theorem modReed_eng {n g s} : (modReed n g s).eng = s.eng := rfl
@[simp] theorem modReed_timed {n g s} : (modReed n g s).timed = s.timed := rfl
@[simp] theorem modReed_pos {n g s} : (modReed n g s).pos = s.pos := rfl
@[simp] theorem modReed_mem {n g s} : (modReed n g s).mem = s.mem := rfl
@[simp] theorem modReed_store {n g s} : (modReed n g s).store = s.store := rfl
@[simp] theorem modReed_code {n g s} : (modReed n g s).code = s.code := rfl
@[simp] theorem modReed_codeBad {n g s} : (modReed n g s).codeBad = s.codeBad := rfl
@[simp] theorem modReed_shu {n g s} : (modReed n g s).shu = s.shu := rfl
@[simp] theorem modReed_chg {n g s} : (modReed n g s).chg = s.chg := rfl
@[simp] theorem modReed_flt {n g s} : (modReed n g s).flt = s.flt := rfl
@[simp] theorem modReed_trd {n g s} : (modReed n g s).trd = s.trd := rfl
@[simp] theorem modReed_chain {n g s} : (modReed n g s).chain = s.chain := rfl
@[simp] theorem modReed_log {n g s} : (modReed n g s).log = s.log := rfl
@[simp] theorem modReed_hed {n g s} : (modReed n g s).hed = s.hed := rfl
@[simp] theorem modReed_cmp {n g s} : (modReed n g s).cmp = s.cmp := rfl
@[simp] theorem modReed_adc {n g s} : (modReed n g s).adc = s.adc := rfl
@[simp] theorem modReed_bob {n g s} : (modReed n g s).bob = s.bob := rfl
@[simp] theorem modReed_host {n g s} : (modReed n g s).host = s.host := rfl
@[simp] theorem modReed_pwr {n g s} : (modReed n g s).pwr = s.pwr := rfl
@[simp] theorem modReed_flash {n g s} : (modReed n g s).flash = s.flash := rfl
@[simp] theorem modReed_fuse {n g s} : (modReed n g s).fuse = s.fuse := rfl
@[simp] theorem modReed_sel {n g s} : (modReed n g s).sel = s.sel := rfl
@[simp] theorem modReed_tack {n g s} : (modReed n g s).tack = s.tack := rfl
@[simp] theorem modReed_tap {n g s} : (modReed n g s).tap = s.tap := rfl
@[simp] theorem modReed_cyc {n g s} : (modReed n g s).cyc = s.cyc := rfl
@[simp] theorem modReed_freeN {n g s} : (modReed n g s).freeN = s.freeN := rfl
@[simp] theorem modReed_pending {n g s} : (modReed n g s).pending = s.pending := rfl
@[simp] theorem modReed_rget {n g s r} : rget (modReed n g s) r = rget s r := rfl

/-! ### modEng -/

@[simp] theorem modEng_time {n g s} : (modEng n g s).time = s.time := rfl
@[simp] theorem modEng_regs {n g s} : (modEng n g s).regs = s.regs := rfl
@[simp] theorem modEng_pairHi {n g s} : (modEng n g s).pairHi = s.pairHi := rfl
@[simp] theorem modEng_pairLo {n g s} : (modEng n g s).pairLo = s.pairLo := rfl
@[simp] theorem modEng_rdata {n g s} : (modEng n g s).rdata = s.rdata := rfl
@[simp] theorem modEng_ev {n g s} : (modEng n g s).ev = s.ev := rfl
@[simp] theorem modEng_vec {n g s} : (modEng n g s).vec = s.vec := rfl
@[simp] theorem modEng_ch {n g s} : (modEng n g s).ch = s.ch := rfl
@[simp] theorem modEng_owner {n g s} : (modEng n g s).owner = s.owner := rfl
@[simp] theorem modEng_harn {n g s} : (modEng n g s).harn = s.harn := rfl
@[simp] theorem modEng_reed {n g s} : (modEng n g s).reed = s.reed := rfl
@[simp] theorem modEng_tasks {n g s} : (modEng n g s).tasks = s.tasks := rfl
@[simp] theorem modEng_shed {n g s} : (modEng n g s).shed = s.shed := rfl
@[simp] theorem modEng_timed {n g s} : (modEng n g s).timed = s.timed := rfl
@[simp] theorem modEng_pos {n g s} : (modEng n g s).pos = s.pos := rfl
@[simp] theorem modEng_mem {n g s} : (modEng n g s).mem = s.mem := rfl
@[simp] theorem modEng_store {n g s} : (modEng n g s).store = s.store := rfl
@[simp] theorem modEng_code {n g s} : (modEng n g s).code = s.code := rfl
@[simp] theorem modEng_codeBad {n g s} : (modEng n g s).codeBad = s.codeBad := rfl
@[simp] theorem modEng_shu {n g s} : (modEng n g s).shu = s.shu := rfl
@[simp] theorem modEng_chg {n g s} : (modEng n g s).chg = s.chg := rfl
@[simp] theorem modEng_flt {n g s} : (modEng n g s).flt = s.flt := rfl
@[simp] theorem modEng_trd {n g s} : (modEng n g s).trd = s.trd := rfl
@[simp] theorem modEng_chain {n g s} : (modEng n g s).chain = s.chain := rfl
@[simp] theorem modEng_log {n g s} : (modEng n g s).log = s.log := rfl
@[simp] theorem modEng_hed {n g s} : (modEng n g s).hed = s.hed := rfl
@[simp] theorem modEng_cmp {n g s} : (modEng n g s).cmp = s.cmp := rfl
@[simp] theorem modEng_adc {n g s} : (modEng n g s).adc = s.adc := rfl
@[simp] theorem modEng_bob {n g s} : (modEng n g s).bob = s.bob := rfl
@[simp] theorem modEng_host {n g s} : (modEng n g s).host = s.host := rfl
@[simp] theorem modEng_pwr {n g s} : (modEng n g s).pwr = s.pwr := rfl
@[simp] theorem modEng_flash {n g s} : (modEng n g s).flash = s.flash := rfl
@[simp] theorem modEng_fuse {n g s} : (modEng n g s).fuse = s.fuse := rfl
@[simp] theorem modEng_sel {n g s} : (modEng n g s).sel = s.sel := rfl
@[simp] theorem modEng_tack {n g s} : (modEng n g s).tack = s.tack := rfl
@[simp] theorem modEng_tap {n g s} : (modEng n g s).tap = s.tap := rfl
@[simp] theorem modEng_cyc {n g s} : (modEng n g s).cyc = s.cyc := rfl
@[simp] theorem modEng_freeN {n g s} : (modEng n g s).freeN = s.freeN := rfl
@[simp] theorem modEng_pending {n g s} : (modEng n g s).pending = s.pending := rfl
@[simp] theorem modEng_rget {n g s r} : rget (modEng n g s) r = rget s r := rfl

/-! ### modVec -/

@[simp] theorem modVec_time {n g s} : (modVec n g s).time = s.time := rfl
@[simp] theorem modVec_regs {n g s} : (modVec n g s).regs = s.regs := rfl
@[simp] theorem modVec_pairHi {n g s} : (modVec n g s).pairHi = s.pairHi := rfl
@[simp] theorem modVec_pairLo {n g s} : (modVec n g s).pairLo = s.pairLo := rfl
@[simp] theorem modVec_rdata {n g s} : (modVec n g s).rdata = s.rdata := rfl
@[simp] theorem modVec_ev {n g s} : (modVec n g s).ev = s.ev := rfl
@[simp] theorem modVec_ch {n g s} : (modVec n g s).ch = s.ch := rfl
@[simp] theorem modVec_owner {n g s} : (modVec n g s).owner = s.owner := rfl
@[simp] theorem modVec_harn {n g s} : (modVec n g s).harn = s.harn := rfl
@[simp] theorem modVec_reed {n g s} : (modVec n g s).reed = s.reed := rfl
@[simp] theorem modVec_tasks {n g s} : (modVec n g s).tasks = s.tasks := rfl
@[simp] theorem modVec_shed {n g s} : (modVec n g s).shed = s.shed := rfl
@[simp] theorem modVec_eng {n g s} : (modVec n g s).eng = s.eng := rfl
@[simp] theorem modVec_timed {n g s} : (modVec n g s).timed = s.timed := rfl
@[simp] theorem modVec_pos {n g s} : (modVec n g s).pos = s.pos := rfl
@[simp] theorem modVec_mem {n g s} : (modVec n g s).mem = s.mem := rfl
@[simp] theorem modVec_store {n g s} : (modVec n g s).store = s.store := rfl
@[simp] theorem modVec_code {n g s} : (modVec n g s).code = s.code := rfl
@[simp] theorem modVec_codeBad {n g s} : (modVec n g s).codeBad = s.codeBad := rfl
@[simp] theorem modVec_shu {n g s} : (modVec n g s).shu = s.shu := rfl
@[simp] theorem modVec_chg {n g s} : (modVec n g s).chg = s.chg := rfl
@[simp] theorem modVec_flt {n g s} : (modVec n g s).flt = s.flt := rfl
@[simp] theorem modVec_trd {n g s} : (modVec n g s).trd = s.trd := rfl
@[simp] theorem modVec_chain {n g s} : (modVec n g s).chain = s.chain := rfl
@[simp] theorem modVec_log {n g s} : (modVec n g s).log = s.log := rfl
@[simp] theorem modVec_hed {n g s} : (modVec n g s).hed = s.hed := rfl
@[simp] theorem modVec_cmp {n g s} : (modVec n g s).cmp = s.cmp := rfl
@[simp] theorem modVec_adc {n g s} : (modVec n g s).adc = s.adc := rfl
@[simp] theorem modVec_bob {n g s} : (modVec n g s).bob = s.bob := rfl
@[simp] theorem modVec_host {n g s} : (modVec n g s).host = s.host := rfl
@[simp] theorem modVec_pwr {n g s} : (modVec n g s).pwr = s.pwr := rfl
@[simp] theorem modVec_flash {n g s} : (modVec n g s).flash = s.flash := rfl
@[simp] theorem modVec_fuse {n g s} : (modVec n g s).fuse = s.fuse := rfl
@[simp] theorem modVec_sel {n g s} : (modVec n g s).sel = s.sel := rfl
@[simp] theorem modVec_tack {n g s} : (modVec n g s).tack = s.tack := rfl
@[simp] theorem modVec_tap {n g s} : (modVec n g s).tap = s.tap := rfl
@[simp] theorem modVec_cyc {n g s} : (modVec n g s).cyc = s.cyc := rfl
@[simp] theorem modVec_freeN {n g s} : (modVec n g s).freeN = s.freeN := rfl
@[simp] theorem modVec_pending {n g s} : (modVec n g s).pending = s.pending := rfl
@[simp] theorem modVec_rget {n g s r} : rget (modVec n g s) r = rget s r := rfl

/-! ### modShu -/

@[simp] theorem modShu_time {n g s} : (modShu n g s).time = s.time := rfl
@[simp] theorem modShu_regs {n g s} : (modShu n g s).regs = s.regs := rfl
@[simp] theorem modShu_pairHi {n g s} : (modShu n g s).pairHi = s.pairHi := rfl
@[simp] theorem modShu_pairLo {n g s} : (modShu n g s).pairLo = s.pairLo := rfl
@[simp] theorem modShu_rdata {n g s} : (modShu n g s).rdata = s.rdata := rfl
@[simp] theorem modShu_ev {n g s} : (modShu n g s).ev = s.ev := rfl
@[simp] theorem modShu_vec {n g s} : (modShu n g s).vec = s.vec := rfl
@[simp] theorem modShu_ch {n g s} : (modShu n g s).ch = s.ch := rfl
@[simp] theorem modShu_owner {n g s} : (modShu n g s).owner = s.owner := rfl
@[simp] theorem modShu_harn {n g s} : (modShu n g s).harn = s.harn := rfl
@[simp] theorem modShu_reed {n g s} : (modShu n g s).reed = s.reed := rfl
@[simp] theorem modShu_tasks {n g s} : (modShu n g s).tasks = s.tasks := rfl
@[simp] theorem modShu_shed {n g s} : (modShu n g s).shed = s.shed := rfl
@[simp] theorem modShu_eng {n g s} : (modShu n g s).eng = s.eng := rfl
@[simp] theorem modShu_timed {n g s} : (modShu n g s).timed = s.timed := rfl
@[simp] theorem modShu_pos {n g s} : (modShu n g s).pos = s.pos := rfl
@[simp] theorem modShu_mem {n g s} : (modShu n g s).mem = s.mem := rfl
@[simp] theorem modShu_store {n g s} : (modShu n g s).store = s.store := rfl
@[simp] theorem modShu_code {n g s} : (modShu n g s).code = s.code := rfl
@[simp] theorem modShu_codeBad {n g s} : (modShu n g s).codeBad = s.codeBad := rfl
@[simp] theorem modShu_chg {n g s} : (modShu n g s).chg = s.chg := rfl
@[simp] theorem modShu_flt {n g s} : (modShu n g s).flt = s.flt := rfl
@[simp] theorem modShu_trd {n g s} : (modShu n g s).trd = s.trd := rfl
@[simp] theorem modShu_chain {n g s} : (modShu n g s).chain = s.chain := rfl
@[simp] theorem modShu_log {n g s} : (modShu n g s).log = s.log := rfl
@[simp] theorem modShu_hed {n g s} : (modShu n g s).hed = s.hed := rfl
@[simp] theorem modShu_cmp {n g s} : (modShu n g s).cmp = s.cmp := rfl
@[simp] theorem modShu_adc {n g s} : (modShu n g s).adc = s.adc := rfl
@[simp] theorem modShu_bob {n g s} : (modShu n g s).bob = s.bob := rfl
@[simp] theorem modShu_host {n g s} : (modShu n g s).host = s.host := rfl
@[simp] theorem modShu_pwr {n g s} : (modShu n g s).pwr = s.pwr := rfl
@[simp] theorem modShu_flash {n g s} : (modShu n g s).flash = s.flash := rfl
@[simp] theorem modShu_fuse {n g s} : (modShu n g s).fuse = s.fuse := rfl
@[simp] theorem modShu_sel {n g s} : (modShu n g s).sel = s.sel := rfl
@[simp] theorem modShu_tack {n g s} : (modShu n g s).tack = s.tack := rfl
@[simp] theorem modShu_tap {n g s} : (modShu n g s).tap = s.tap := rfl
@[simp] theorem modShu_cyc {n g s} : (modShu n g s).cyc = s.cyc := rfl
@[simp] theorem modShu_freeN {n g s} : (modShu n g s).freeN = s.freeN := rfl
@[simp] theorem modShu_pending {n g s} : (modShu n g s).pending = s.pending := rfl
@[simp] theorem modShu_rget {n g s r} : rget (modShu n g s) r = rget s r := rfl

/-! ### modCtx -/

@[simp] theorem modCtx_time {n x g s} : (modCtx n x g s).time = s.time := rfl
@[simp] theorem modCtx_regs {n x g s} : (modCtx n x g s).regs = s.regs := rfl
@[simp] theorem modCtx_pairHi {n x g s} : (modCtx n x g s).pairHi = s.pairHi := rfl
@[simp] theorem modCtx_pairLo {n x g s} : (modCtx n x g s).pairLo = s.pairLo := rfl
@[simp] theorem modCtx_rdata {n x g s} : (modCtx n x g s).rdata = s.rdata := rfl
@[simp] theorem modCtx_ev {n x g s} : (modCtx n x g s).ev = s.ev := rfl
@[simp] theorem modCtx_vec {n x g s} : (modCtx n x g s).vec = s.vec := rfl
@[simp] theorem modCtx_ch {n x g s} : (modCtx n x g s).ch = s.ch := rfl
@[simp] theorem modCtx_owner {n x g s} : (modCtx n x g s).owner = s.owner := rfl
@[simp] theorem modCtx_harn {n x g s} : (modCtx n x g s).harn = s.harn := rfl
@[simp] theorem modCtx_reed {n x g s} : (modCtx n x g s).reed = s.reed := rfl
@[simp] theorem modCtx_tasks {n x g s} : (modCtx n x g s).tasks = s.tasks := rfl
@[simp] theorem modCtx_shed {n x g s} : (modCtx n x g s).shed = s.shed := rfl
@[simp] theorem modCtx_eng {n x g s} : (modCtx n x g s).eng = s.eng := rfl
@[simp] theorem modCtx_timed {n x g s} : (modCtx n x g s).timed = s.timed := rfl
@[simp] theorem modCtx_pos {n x g s} : (modCtx n x g s).pos = s.pos := rfl
@[simp] theorem modCtx_mem {n x g s} : (modCtx n x g s).mem = s.mem := rfl
@[simp] theorem modCtx_store {n x g s} : (modCtx n x g s).store = s.store := rfl
@[simp] theorem modCtx_code {n x g s} : (modCtx n x g s).code = s.code := rfl
@[simp] theorem modCtx_codeBad {n x g s} : (modCtx n x g s).codeBad = s.codeBad := rfl
@[simp] theorem modCtx_chg {n x g s} : (modCtx n x g s).chg = s.chg := rfl
@[simp] theorem modCtx_flt {n x g s} : (modCtx n x g s).flt = s.flt := rfl
@[simp] theorem modCtx_trd {n x g s} : (modCtx n x g s).trd = s.trd := rfl
@[simp] theorem modCtx_chain {n x g s} : (modCtx n x g s).chain = s.chain := rfl
@[simp] theorem modCtx_log {n x g s} : (modCtx n x g s).log = s.log := rfl
@[simp] theorem modCtx_hed {n x g s} : (modCtx n x g s).hed = s.hed := rfl
@[simp] theorem modCtx_cmp {n x g s} : (modCtx n x g s).cmp = s.cmp := rfl
@[simp] theorem modCtx_adc {n x g s} : (modCtx n x g s).adc = s.adc := rfl
@[simp] theorem modCtx_bob {n x g s} : (modCtx n x g s).bob = s.bob := rfl
@[simp] theorem modCtx_host {n x g s} : (modCtx n x g s).host = s.host := rfl
@[simp] theorem modCtx_pwr {n x g s} : (modCtx n x g s).pwr = s.pwr := rfl
@[simp] theorem modCtx_flash {n x g s} : (modCtx n x g s).flash = s.flash := rfl
@[simp] theorem modCtx_fuse {n x g s} : (modCtx n x g s).fuse = s.fuse := rfl
@[simp] theorem modCtx_sel {n x g s} : (modCtx n x g s).sel = s.sel := rfl
@[simp] theorem modCtx_tack {n x g s} : (modCtx n x g s).tack = s.tack := rfl
@[simp] theorem modCtx_tap {n x g s} : (modCtx n x g s).tap = s.tap := rfl
@[simp] theorem modCtx_cyc {n x g s} : (modCtx n x g s).cyc = s.cyc := rfl
@[simp] theorem modCtx_freeN {n x g s} : (modCtx n x g s).freeN = s.freeN := rfl
@[simp] theorem modCtx_pending {n x g s} : (modCtx n x g s).pending = s.pending := rfl
@[simp] theorem modCtx_rget {n x g s r} : rget (modCtx n x g s) r = rget s r := rfl

/-! ### modTrd -/

@[simp] theorem modTrd_time {n g s} : (modTrd n g s).time = s.time := rfl
@[simp] theorem modTrd_regs {n g s} : (modTrd n g s).regs = s.regs := rfl
@[simp] theorem modTrd_pairHi {n g s} : (modTrd n g s).pairHi = s.pairHi := rfl
@[simp] theorem modTrd_pairLo {n g s} : (modTrd n g s).pairLo = s.pairLo := rfl
@[simp] theorem modTrd_rdata {n g s} : (modTrd n g s).rdata = s.rdata := rfl
@[simp] theorem modTrd_ev {n g s} : (modTrd n g s).ev = s.ev := rfl
@[simp] theorem modTrd_vec {n g s} : (modTrd n g s).vec = s.vec := rfl
@[simp] theorem modTrd_ch {n g s} : (modTrd n g s).ch = s.ch := rfl
@[simp] theorem modTrd_owner {n g s} : (modTrd n g s).owner = s.owner := rfl
@[simp] theorem modTrd_harn {n g s} : (modTrd n g s).harn = s.harn := rfl
@[simp] theorem modTrd_reed {n g s} : (modTrd n g s).reed = s.reed := rfl
@[simp] theorem modTrd_tasks {n g s} : (modTrd n g s).tasks = s.tasks := rfl
@[simp] theorem modTrd_shed {n g s} : (modTrd n g s).shed = s.shed := rfl
@[simp] theorem modTrd_eng {n g s} : (modTrd n g s).eng = s.eng := rfl
@[simp] theorem modTrd_timed {n g s} : (modTrd n g s).timed = s.timed := rfl
@[simp] theorem modTrd_pos {n g s} : (modTrd n g s).pos = s.pos := rfl
@[simp] theorem modTrd_mem {n g s} : (modTrd n g s).mem = s.mem := rfl
@[simp] theorem modTrd_store {n g s} : (modTrd n g s).store = s.store := rfl
@[simp] theorem modTrd_code {n g s} : (modTrd n g s).code = s.code := rfl
@[simp] theorem modTrd_codeBad {n g s} : (modTrd n g s).codeBad = s.codeBad := rfl
@[simp] theorem modTrd_shu {n g s} : (modTrd n g s).shu = s.shu := rfl
@[simp] theorem modTrd_chg {n g s} : (modTrd n g s).chg = s.chg := rfl
@[simp] theorem modTrd_flt {n g s} : (modTrd n g s).flt = s.flt := rfl
@[simp] theorem modTrd_chain {n g s} : (modTrd n g s).chain = s.chain := rfl
@[simp] theorem modTrd_log {n g s} : (modTrd n g s).log = s.log := rfl
@[simp] theorem modTrd_hed {n g s} : (modTrd n g s).hed = s.hed := rfl
@[simp] theorem modTrd_cmp {n g s} : (modTrd n g s).cmp = s.cmp := rfl
@[simp] theorem modTrd_adc {n g s} : (modTrd n g s).adc = s.adc := rfl
@[simp] theorem modTrd_bob {n g s} : (modTrd n g s).bob = s.bob := rfl
@[simp] theorem modTrd_host {n g s} : (modTrd n g s).host = s.host := rfl
@[simp] theorem modTrd_pwr {n g s} : (modTrd n g s).pwr = s.pwr := rfl
@[simp] theorem modTrd_flash {n g s} : (modTrd n g s).flash = s.flash := rfl
@[simp] theorem modTrd_fuse {n g s} : (modTrd n g s).fuse = s.fuse := rfl
@[simp] theorem modTrd_sel {n g s} : (modTrd n g s).sel = s.sel := rfl
@[simp] theorem modTrd_tack {n g s} : (modTrd n g s).tack = s.tack := rfl
@[simp] theorem modTrd_tap {n g s} : (modTrd n g s).tap = s.tap := rfl
@[simp] theorem modTrd_cyc {n g s} : (modTrd n g s).cyc = s.cyc := rfl
@[simp] theorem modTrd_freeN {n g s} : (modTrd n g s).freeN = s.freeN := rfl
@[simp] theorem modTrd_pending {n g s} : (modTrd n g s).pending = s.pending := rfl
@[simp] theorem modTrd_rget {n g s r} : rget (modTrd n g s) r = rget s r := rfl

/-! ### modHed -/

@[simp] theorem modHed_time {n g s} : (modHed n g s).time = s.time := rfl
@[simp] theorem modHed_regs {n g s} : (modHed n g s).regs = s.regs := rfl
@[simp] theorem modHed_pairHi {n g s} : (modHed n g s).pairHi = s.pairHi := rfl
@[simp] theorem modHed_pairLo {n g s} : (modHed n g s).pairLo = s.pairLo := rfl
@[simp] theorem modHed_rdata {n g s} : (modHed n g s).rdata = s.rdata := rfl
@[simp] theorem modHed_ev {n g s} : (modHed n g s).ev = s.ev := rfl
@[simp] theorem modHed_vec {n g s} : (modHed n g s).vec = s.vec := rfl
@[simp] theorem modHed_ch {n g s} : (modHed n g s).ch = s.ch := rfl
@[simp] theorem modHed_owner {n g s} : (modHed n g s).owner = s.owner := rfl
@[simp] theorem modHed_harn {n g s} : (modHed n g s).harn = s.harn := rfl
@[simp] theorem modHed_reed {n g s} : (modHed n g s).reed = s.reed := rfl
@[simp] theorem modHed_tasks {n g s} : (modHed n g s).tasks = s.tasks := rfl
@[simp] theorem modHed_shed {n g s} : (modHed n g s).shed = s.shed := rfl
@[simp] theorem modHed_eng {n g s} : (modHed n g s).eng = s.eng := rfl
@[simp] theorem modHed_timed {n g s} : (modHed n g s).timed = s.timed := rfl
@[simp] theorem modHed_pos {n g s} : (modHed n g s).pos = s.pos := rfl
@[simp] theorem modHed_mem {n g s} : (modHed n g s).mem = s.mem := rfl
@[simp] theorem modHed_store {n g s} : (modHed n g s).store = s.store := rfl
@[simp] theorem modHed_code {n g s} : (modHed n g s).code = s.code := rfl
@[simp] theorem modHed_codeBad {n g s} : (modHed n g s).codeBad = s.codeBad := rfl
@[simp] theorem modHed_shu {n g s} : (modHed n g s).shu = s.shu := rfl
@[simp] theorem modHed_chg {n g s} : (modHed n g s).chg = s.chg := rfl
@[simp] theorem modHed_flt {n g s} : (modHed n g s).flt = s.flt := rfl
@[simp] theorem modHed_trd {n g s} : (modHed n g s).trd = s.trd := rfl
@[simp] theorem modHed_chain {n g s} : (modHed n g s).chain = s.chain := rfl
@[simp] theorem modHed_log {n g s} : (modHed n g s).log = s.log := rfl
@[simp] theorem modHed_cmp {n g s} : (modHed n g s).cmp = s.cmp := rfl
@[simp] theorem modHed_adc {n g s} : (modHed n g s).adc = s.adc := rfl
@[simp] theorem modHed_bob {n g s} : (modHed n g s).bob = s.bob := rfl
@[simp] theorem modHed_host {n g s} : (modHed n g s).host = s.host := rfl
@[simp] theorem modHed_pwr {n g s} : (modHed n g s).pwr = s.pwr := rfl
@[simp] theorem modHed_flash {n g s} : (modHed n g s).flash = s.flash := rfl
@[simp] theorem modHed_fuse {n g s} : (modHed n g s).fuse = s.fuse := rfl
@[simp] theorem modHed_sel {n g s} : (modHed n g s).sel = s.sel := rfl
@[simp] theorem modHed_tack {n g s} : (modHed n g s).tack = s.tack := rfl
@[simp] theorem modHed_tap {n g s} : (modHed n g s).tap = s.tap := rfl
@[simp] theorem modHed_cyc {n g s} : (modHed n g s).cyc = s.cyc := rfl
@[simp] theorem modHed_freeN {n g s} : (modHed n g s).freeN = s.freeN := rfl
@[simp] theorem modHed_pending {n g s} : (modHed n g s).pending = s.pending := rfl
@[simp] theorem modHed_rget {n g s r} : rget (modHed n g s) r = rget s r := rfl

/-! ### modPos -/

@[simp] theorem modPos_time {n g s} : (modPos n g s).time = s.time := rfl
@[simp] theorem modPos_regs {n g s} : (modPos n g s).regs = s.regs := rfl
@[simp] theorem modPos_pairHi {n g s} : (modPos n g s).pairHi = s.pairHi := rfl
@[simp] theorem modPos_pairLo {n g s} : (modPos n g s).pairLo = s.pairLo := rfl
@[simp] theorem modPos_rdata {n g s} : (modPos n g s).rdata = s.rdata := rfl
@[simp] theorem modPos_ev {n g s} : (modPos n g s).ev = s.ev := rfl
@[simp] theorem modPos_vec {n g s} : (modPos n g s).vec = s.vec := rfl
@[simp] theorem modPos_ch {n g s} : (modPos n g s).ch = s.ch := rfl
@[simp] theorem modPos_owner {n g s} : (modPos n g s).owner = s.owner := rfl
@[simp] theorem modPos_harn {n g s} : (modPos n g s).harn = s.harn := rfl
@[simp] theorem modPos_reed {n g s} : (modPos n g s).reed = s.reed := rfl
@[simp] theorem modPos_tasks {n g s} : (modPos n g s).tasks = s.tasks := rfl
@[simp] theorem modPos_shed {n g s} : (modPos n g s).shed = s.shed := rfl
@[simp] theorem modPos_eng {n g s} : (modPos n g s).eng = s.eng := rfl
@[simp] theorem modPos_timed {n g s} : (modPos n g s).timed = s.timed := rfl
@[simp] theorem modPos_mem {n g s} : (modPos n g s).mem = s.mem := rfl
@[simp] theorem modPos_store {n g s} : (modPos n g s).store = s.store := rfl
@[simp] theorem modPos_code {n g s} : (modPos n g s).code = s.code := rfl
@[simp] theorem modPos_codeBad {n g s} : (modPos n g s).codeBad = s.codeBad := rfl
@[simp] theorem modPos_shu {n g s} : (modPos n g s).shu = s.shu := rfl
@[simp] theorem modPos_chg {n g s} : (modPos n g s).chg = s.chg := rfl
@[simp] theorem modPos_flt {n g s} : (modPos n g s).flt = s.flt := rfl
@[simp] theorem modPos_trd {n g s} : (modPos n g s).trd = s.trd := rfl
@[simp] theorem modPos_chain {n g s} : (modPos n g s).chain = s.chain := rfl
@[simp] theorem modPos_log {n g s} : (modPos n g s).log = s.log := rfl
@[simp] theorem modPos_hed {n g s} : (modPos n g s).hed = s.hed := rfl
@[simp] theorem modPos_cmp {n g s} : (modPos n g s).cmp = s.cmp := rfl
@[simp] theorem modPos_adc {n g s} : (modPos n g s).adc = s.adc := rfl
@[simp] theorem modPos_bob {n g s} : (modPos n g s).bob = s.bob := rfl
@[simp] theorem modPos_host {n g s} : (modPos n g s).host = s.host := rfl
@[simp] theorem modPos_pwr {n g s} : (modPos n g s).pwr = s.pwr := rfl
@[simp] theorem modPos_flash {n g s} : (modPos n g s).flash = s.flash := rfl
@[simp] theorem modPos_fuse {n g s} : (modPos n g s).fuse = s.fuse := rfl
@[simp] theorem modPos_sel {n g s} : (modPos n g s).sel = s.sel := rfl
@[simp] theorem modPos_tack {n g s} : (modPos n g s).tack = s.tack := rfl
@[simp] theorem modPos_tap {n g s} : (modPos n g s).tap = s.tap := rfl
@[simp] theorem modPos_cyc {n g s} : (modPos n g s).cyc = s.cyc := rfl
@[simp] theorem modPos_freeN {n g s} : (modPos n g s).freeN = s.freeN := rfl
@[simp] theorem modPos_pending {n g s} : (modPos n g s).pending = s.pending := rfl
@[simp] theorem modPos_rget {n g s r} : rget (modPos n g s) r = rget s r := rfl

/-! ### modCmp -/

@[simp] theorem modCmp_time {n g s} : (modCmp n g s).time = s.time := rfl
@[simp] theorem modCmp_regs {n g s} : (modCmp n g s).regs = s.regs := rfl
@[simp] theorem modCmp_pairHi {n g s} : (modCmp n g s).pairHi = s.pairHi := rfl
@[simp] theorem modCmp_pairLo {n g s} : (modCmp n g s).pairLo = s.pairLo := rfl
@[simp] theorem modCmp_rdata {n g s} : (modCmp n g s).rdata = s.rdata := rfl
@[simp] theorem modCmp_ev {n g s} : (modCmp n g s).ev = s.ev := rfl
@[simp] theorem modCmp_vec {n g s} : (modCmp n g s).vec = s.vec := rfl
@[simp] theorem modCmp_ch {n g s} : (modCmp n g s).ch = s.ch := rfl
@[simp] theorem modCmp_owner {n g s} : (modCmp n g s).owner = s.owner := rfl
@[simp] theorem modCmp_harn {n g s} : (modCmp n g s).harn = s.harn := rfl
@[simp] theorem modCmp_reed {n g s} : (modCmp n g s).reed = s.reed := rfl
@[simp] theorem modCmp_tasks {n g s} : (modCmp n g s).tasks = s.tasks := rfl
@[simp] theorem modCmp_shed {n g s} : (modCmp n g s).shed = s.shed := rfl
@[simp] theorem modCmp_eng {n g s} : (modCmp n g s).eng = s.eng := rfl
@[simp] theorem modCmp_timed {n g s} : (modCmp n g s).timed = s.timed := rfl
@[simp] theorem modCmp_pos {n g s} : (modCmp n g s).pos = s.pos := rfl
@[simp] theorem modCmp_mem {n g s} : (modCmp n g s).mem = s.mem := rfl
@[simp] theorem modCmp_store {n g s} : (modCmp n g s).store = s.store := rfl
@[simp] theorem modCmp_code {n g s} : (modCmp n g s).code = s.code := rfl
@[simp] theorem modCmp_codeBad {n g s} : (modCmp n g s).codeBad = s.codeBad := rfl
@[simp] theorem modCmp_shu {n g s} : (modCmp n g s).shu = s.shu := rfl
@[simp] theorem modCmp_chg {n g s} : (modCmp n g s).chg = s.chg := rfl
@[simp] theorem modCmp_flt {n g s} : (modCmp n g s).flt = s.flt := rfl
@[simp] theorem modCmp_trd {n g s} : (modCmp n g s).trd = s.trd := rfl
@[simp] theorem modCmp_chain {n g s} : (modCmp n g s).chain = s.chain := rfl
@[simp] theorem modCmp_log {n g s} : (modCmp n g s).log = s.log := rfl
@[simp] theorem modCmp_hed {n g s} : (modCmp n g s).hed = s.hed := rfl
@[simp] theorem modCmp_adc {n g s} : (modCmp n g s).adc = s.adc := rfl
@[simp] theorem modCmp_bob {n g s} : (modCmp n g s).bob = s.bob := rfl
@[simp] theorem modCmp_host {n g s} : (modCmp n g s).host = s.host := rfl
@[simp] theorem modCmp_pwr {n g s} : (modCmp n g s).pwr = s.pwr := rfl
@[simp] theorem modCmp_flash {n g s} : (modCmp n g s).flash = s.flash := rfl
@[simp] theorem modCmp_fuse {n g s} : (modCmp n g s).fuse = s.fuse := rfl
@[simp] theorem modCmp_sel {n g s} : (modCmp n g s).sel = s.sel := rfl
@[simp] theorem modCmp_tack {n g s} : (modCmp n g s).tack = s.tack := rfl
@[simp] theorem modCmp_tap {n g s} : (modCmp n g s).tap = s.tap := rfl
@[simp] theorem modCmp_cyc {n g s} : (modCmp n g s).cyc = s.cyc := rfl
@[simp] theorem modCmp_freeN {n g s} : (modCmp n g s).freeN = s.freeN := rfl
@[simp] theorem modCmp_pending {n g s} : (modCmp n g s).pending = s.pending := rfl
@[simp] theorem modCmp_rget {n g s r} : rget (modCmp n g s) r = rget s r := rfl

/-! ### modBob -/

@[simp] theorem modBob_time {n g s} : (modBob n g s).time = s.time := rfl
@[simp] theorem modBob_regs {n g s} : (modBob n g s).regs = s.regs := rfl
@[simp] theorem modBob_pairHi {n g s} : (modBob n g s).pairHi = s.pairHi := rfl
@[simp] theorem modBob_pairLo {n g s} : (modBob n g s).pairLo = s.pairLo := rfl
@[simp] theorem modBob_rdata {n g s} : (modBob n g s).rdata = s.rdata := rfl
@[simp] theorem modBob_ev {n g s} : (modBob n g s).ev = s.ev := rfl
@[simp] theorem modBob_vec {n g s} : (modBob n g s).vec = s.vec := rfl
@[simp] theorem modBob_ch {n g s} : (modBob n g s).ch = s.ch := rfl
@[simp] theorem modBob_owner {n g s} : (modBob n g s).owner = s.owner := rfl
@[simp] theorem modBob_harn {n g s} : (modBob n g s).harn = s.harn := rfl
@[simp] theorem modBob_reed {n g s} : (modBob n g s).reed = s.reed := rfl
@[simp] theorem modBob_tasks {n g s} : (modBob n g s).tasks = s.tasks := rfl
@[simp] theorem modBob_shed {n g s} : (modBob n g s).shed = s.shed := rfl
@[simp] theorem modBob_eng {n g s} : (modBob n g s).eng = s.eng := rfl
@[simp] theorem modBob_timed {n g s} : (modBob n g s).timed = s.timed := rfl
@[simp] theorem modBob_pos {n g s} : (modBob n g s).pos = s.pos := rfl
@[simp] theorem modBob_mem {n g s} : (modBob n g s).mem = s.mem := rfl
@[simp] theorem modBob_store {n g s} : (modBob n g s).store = s.store := rfl
@[simp] theorem modBob_code {n g s} : (modBob n g s).code = s.code := rfl
@[simp] theorem modBob_codeBad {n g s} : (modBob n g s).codeBad = s.codeBad := rfl
@[simp] theorem modBob_shu {n g s} : (modBob n g s).shu = s.shu := rfl
@[simp] theorem modBob_chg {n g s} : (modBob n g s).chg = s.chg := rfl
@[simp] theorem modBob_flt {n g s} : (modBob n g s).flt = s.flt := rfl
@[simp] theorem modBob_trd {n g s} : (modBob n g s).trd = s.trd := rfl
@[simp] theorem modBob_chain {n g s} : (modBob n g s).chain = s.chain := rfl
@[simp] theorem modBob_log {n g s} : (modBob n g s).log = s.log := rfl
@[simp] theorem modBob_hed {n g s} : (modBob n g s).hed = s.hed := rfl
@[simp] theorem modBob_cmp {n g s} : (modBob n g s).cmp = s.cmp := rfl
@[simp] theorem modBob_adc {n g s} : (modBob n g s).adc = s.adc := rfl
@[simp] theorem modBob_host {n g s} : (modBob n g s).host = s.host := rfl
@[simp] theorem modBob_pwr {n g s} : (modBob n g s).pwr = s.pwr := rfl
@[simp] theorem modBob_flash {n g s} : (modBob n g s).flash = s.flash := rfl
@[simp] theorem modBob_fuse {n g s} : (modBob n g s).fuse = s.fuse := rfl
@[simp] theorem modBob_sel {n g s} : (modBob n g s).sel = s.sel := rfl
@[simp] theorem modBob_tack {n g s} : (modBob n g s).tack = s.tack := rfl
@[simp] theorem modBob_tap {n g s} : (modBob n g s).tap = s.tap := rfl
@[simp] theorem modBob_cyc {n g s} : (modBob n g s).cyc = s.cyc := rfl
@[simp] theorem modBob_freeN {n g s} : (modBob n g s).freeN = s.freeN := rfl
@[simp] theorem modBob_pending {n g s} : (modBob n g s).pending = s.pending := rfl
@[simp] theorem modBob_rget {n g s r} : rget (modBob n g s) r = rget s r := rfl

/-! ### modFlt -/

@[simp] theorem modFlt_time {g s} : (modFlt g s).time = s.time := rfl
@[simp] theorem modFlt_regs {g s} : (modFlt g s).regs = s.regs := rfl
@[simp] theorem modFlt_pairHi {g s} : (modFlt g s).pairHi = s.pairHi := rfl
@[simp] theorem modFlt_pairLo {g s} : (modFlt g s).pairLo = s.pairLo := rfl
@[simp] theorem modFlt_rdata {g s} : (modFlt g s).rdata = s.rdata := rfl
@[simp] theorem modFlt_ev {g s} : (modFlt g s).ev = s.ev := rfl
@[simp] theorem modFlt_vec {g s} : (modFlt g s).vec = s.vec := rfl
@[simp] theorem modFlt_ch {g s} : (modFlt g s).ch = s.ch := rfl
@[simp] theorem modFlt_owner {g s} : (modFlt g s).owner = s.owner := rfl
@[simp] theorem modFlt_harn {g s} : (modFlt g s).harn = s.harn := rfl
@[simp] theorem modFlt_reed {g s} : (modFlt g s).reed = s.reed := rfl
@[simp] theorem modFlt_tasks {g s} : (modFlt g s).tasks = s.tasks := rfl
@[simp] theorem modFlt_shed {g s} : (modFlt g s).shed = s.shed := rfl
@[simp] theorem modFlt_eng {g s} : (modFlt g s).eng = s.eng := rfl
@[simp] theorem modFlt_timed {g s} : (modFlt g s).timed = s.timed := rfl
@[simp] theorem modFlt_pos {g s} : (modFlt g s).pos = s.pos := rfl
@[simp] theorem modFlt_mem {g s} : (modFlt g s).mem = s.mem := rfl
@[simp] theorem modFlt_store {g s} : (modFlt g s).store = s.store := rfl
@[simp] theorem modFlt_code {g s} : (modFlt g s).code = s.code := rfl
@[simp] theorem modFlt_codeBad {g s} : (modFlt g s).codeBad = s.codeBad := rfl
@[simp] theorem modFlt_shu {g s} : (modFlt g s).shu = s.shu := rfl
@[simp] theorem modFlt_chg {g s} : (modFlt g s).chg = s.chg := rfl
@[simp] theorem modFlt_trd {g s} : (modFlt g s).trd = s.trd := rfl
@[simp] theorem modFlt_chain {g s} : (modFlt g s).chain = s.chain := rfl
@[simp] theorem modFlt_log {g s} : (modFlt g s).log = s.log := rfl
@[simp] theorem modFlt_hed {g s} : (modFlt g s).hed = s.hed := rfl
@[simp] theorem modFlt_cmp {g s} : (modFlt g s).cmp = s.cmp := rfl
@[simp] theorem modFlt_adc {g s} : (modFlt g s).adc = s.adc := rfl
@[simp] theorem modFlt_bob {g s} : (modFlt g s).bob = s.bob := rfl
@[simp] theorem modFlt_host {g s} : (modFlt g s).host = s.host := rfl
@[simp] theorem modFlt_pwr {g s} : (modFlt g s).pwr = s.pwr := rfl
@[simp] theorem modFlt_flash {g s} : (modFlt g s).flash = s.flash := rfl
@[simp] theorem modFlt_fuse {g s} : (modFlt g s).fuse = s.fuse := rfl
@[simp] theorem modFlt_sel {g s} : (modFlt g s).sel = s.sel := rfl
@[simp] theorem modFlt_tack {g s} : (modFlt g s).tack = s.tack := rfl
@[simp] theorem modFlt_tap {g s} : (modFlt g s).tap = s.tap := rfl
@[simp] theorem modFlt_cyc {g s} : (modFlt g s).cyc = s.cyc := rfl
@[simp] theorem modFlt_freeN {g s} : (modFlt g s).freeN = s.freeN := rfl
@[simp] theorem modFlt_pending {g s} : (modFlt g s).pending = s.pending := rfl
@[simp] theorem modFlt_rget {g s r} : rget (modFlt g s) r = rget s r := rfl

/-! ### modAdc -/

@[simp] theorem modAdc_time {g s} : (modAdc g s).time = s.time := rfl
@[simp] theorem modAdc_regs {g s} : (modAdc g s).regs = s.regs := rfl
@[simp] theorem modAdc_pairHi {g s} : (modAdc g s).pairHi = s.pairHi := rfl
@[simp] theorem modAdc_pairLo {g s} : (modAdc g s).pairLo = s.pairLo := rfl
@[simp] theorem modAdc_rdata {g s} : (modAdc g s).rdata = s.rdata := rfl
@[simp] theorem modAdc_ev {g s} : (modAdc g s).ev = s.ev := rfl
@[simp] theorem modAdc_vec {g s} : (modAdc g s).vec = s.vec := rfl
@[simp] theorem modAdc_ch {g s} : (modAdc g s).ch = s.ch := rfl
@[simp] theorem modAdc_owner {g s} : (modAdc g s).owner = s.owner := rfl
@[simp] theorem modAdc_harn {g s} : (modAdc g s).harn = s.harn := rfl
@[simp] theorem modAdc_reed {g s} : (modAdc g s).reed = s.reed := rfl
@[simp] theorem modAdc_tasks {g s} : (modAdc g s).tasks = s.tasks := rfl
@[simp] theorem modAdc_shed {g s} : (modAdc g s).shed = s.shed := rfl
@[simp] theorem modAdc_eng {g s} : (modAdc g s).eng = s.eng := rfl
@[simp] theorem modAdc_timed {g s} : (modAdc g s).timed = s.timed := rfl
@[simp] theorem modAdc_pos {g s} : (modAdc g s).pos = s.pos := rfl
@[simp] theorem modAdc_mem {g s} : (modAdc g s).mem = s.mem := rfl
@[simp] theorem modAdc_store {g s} : (modAdc g s).store = s.store := rfl
@[simp] theorem modAdc_code {g s} : (modAdc g s).code = s.code := rfl
@[simp] theorem modAdc_codeBad {g s} : (modAdc g s).codeBad = s.codeBad := rfl
@[simp] theorem modAdc_shu {g s} : (modAdc g s).shu = s.shu := rfl
@[simp] theorem modAdc_chg {g s} : (modAdc g s).chg = s.chg := rfl
@[simp] theorem modAdc_flt {g s} : (modAdc g s).flt = s.flt := rfl
@[simp] theorem modAdc_trd {g s} : (modAdc g s).trd = s.trd := rfl
@[simp] theorem modAdc_chain {g s} : (modAdc g s).chain = s.chain := rfl
@[simp] theorem modAdc_log {g s} : (modAdc g s).log = s.log := rfl
@[simp] theorem modAdc_hed {g s} : (modAdc g s).hed = s.hed := rfl
@[simp] theorem modAdc_cmp {g s} : (modAdc g s).cmp = s.cmp := rfl
@[simp] theorem modAdc_bob {g s} : (modAdc g s).bob = s.bob := rfl
@[simp] theorem modAdc_host {g s} : (modAdc g s).host = s.host := rfl
@[simp] theorem modAdc_pwr {g s} : (modAdc g s).pwr = s.pwr := rfl
@[simp] theorem modAdc_flash {g s} : (modAdc g s).flash = s.flash := rfl
@[simp] theorem modAdc_fuse {g s} : (modAdc g s).fuse = s.fuse := rfl
@[simp] theorem modAdc_sel {g s} : (modAdc g s).sel = s.sel := rfl
@[simp] theorem modAdc_tack {g s} : (modAdc g s).tack = s.tack := rfl
@[simp] theorem modAdc_tap {g s} : (modAdc g s).tap = s.tap := rfl
@[simp] theorem modAdc_cyc {g s} : (modAdc g s).cyc = s.cyc := rfl
@[simp] theorem modAdc_freeN {g s} : (modAdc g s).freeN = s.freeN := rfl
@[simp] theorem modAdc_pending {g s} : (modAdc g s).pending = s.pending := rfl
@[simp] theorem modAdc_rget {g s r} : rget (modAdc g s) r = rget s r := rfl

/-! ### modHost -/

@[simp] theorem modHost_time {g s} : (modHost g s).time = s.time := rfl
@[simp] theorem modHost_regs {g s} : (modHost g s).regs = s.regs := rfl
@[simp] theorem modHost_pairHi {g s} : (modHost g s).pairHi = s.pairHi := rfl
@[simp] theorem modHost_pairLo {g s} : (modHost g s).pairLo = s.pairLo := rfl
@[simp] theorem modHost_rdata {g s} : (modHost g s).rdata = s.rdata := rfl
@[simp] theorem modHost_ev {g s} : (modHost g s).ev = s.ev := rfl
@[simp] theorem modHost_vec {g s} : (modHost g s).vec = s.vec := rfl
@[simp] theorem modHost_ch {g s} : (modHost g s).ch = s.ch := rfl
@[simp] theorem modHost_owner {g s} : (modHost g s).owner = s.owner := rfl
@[simp] theorem modHost_harn {g s} : (modHost g s).harn = s.harn := rfl
@[simp] theorem modHost_reed {g s} : (modHost g s).reed = s.reed := rfl
@[simp] theorem modHost_tasks {g s} : (modHost g s).tasks = s.tasks := rfl
@[simp] theorem modHost_shed {g s} : (modHost g s).shed = s.shed := rfl
@[simp] theorem modHost_eng {g s} : (modHost g s).eng = s.eng := rfl
@[simp] theorem modHost_timed {g s} : (modHost g s).timed = s.timed := rfl
@[simp] theorem modHost_pos {g s} : (modHost g s).pos = s.pos := rfl
@[simp] theorem modHost_mem {g s} : (modHost g s).mem = s.mem := rfl
@[simp] theorem modHost_store {g s} : (modHost g s).store = s.store := rfl
@[simp] theorem modHost_code {g s} : (modHost g s).code = s.code := rfl
@[simp] theorem modHost_codeBad {g s} : (modHost g s).codeBad = s.codeBad := rfl
@[simp] theorem modHost_shu {g s} : (modHost g s).shu = s.shu := rfl
@[simp] theorem modHost_chg {g s} : (modHost g s).chg = s.chg := rfl
@[simp] theorem modHost_flt {g s} : (modHost g s).flt = s.flt := rfl
@[simp] theorem modHost_trd {g s} : (modHost g s).trd = s.trd := rfl
@[simp] theorem modHost_chain {g s} : (modHost g s).chain = s.chain := rfl
@[simp] theorem modHost_log {g s} : (modHost g s).log = s.log := rfl
@[simp] theorem modHost_hed {g s} : (modHost g s).hed = s.hed := rfl
@[simp] theorem modHost_cmp {g s} : (modHost g s).cmp = s.cmp := rfl
@[simp] theorem modHost_adc {g s} : (modHost g s).adc = s.adc := rfl
@[simp] theorem modHost_bob {g s} : (modHost g s).bob = s.bob := rfl
@[simp] theorem modHost_pwr {g s} : (modHost g s).pwr = s.pwr := rfl
@[simp] theorem modHost_flash {g s} : (modHost g s).flash = s.flash := rfl
@[simp] theorem modHost_fuse {g s} : (modHost g s).fuse = s.fuse := rfl
@[simp] theorem modHost_sel {g s} : (modHost g s).sel = s.sel := rfl
@[simp] theorem modHost_tack {g s} : (modHost g s).tack = s.tack := rfl
@[simp] theorem modHost_tap {g s} : (modHost g s).tap = s.tap := rfl
@[simp] theorem modHost_cyc {g s} : (modHost g s).cyc = s.cyc := rfl
@[simp] theorem modHost_freeN {g s} : (modHost g s).freeN = s.freeN := rfl
@[simp] theorem modHost_pending {g s} : (modHost g s).pending = s.pending := rfl
@[simp] theorem modHost_rget {g s r} : rget (modHost g s) r = rget s r := rfl

/-! ### modTack -/

@[simp] theorem modTack_time {g s} : (modTack g s).time = s.time := rfl
@[simp] theorem modTack_regs {g s} : (modTack g s).regs = s.regs := rfl
@[simp] theorem modTack_pairHi {g s} : (modTack g s).pairHi = s.pairHi := rfl
@[simp] theorem modTack_pairLo {g s} : (modTack g s).pairLo = s.pairLo := rfl
@[simp] theorem modTack_rdata {g s} : (modTack g s).rdata = s.rdata := rfl
@[simp] theorem modTack_ev {g s} : (modTack g s).ev = s.ev := rfl
@[simp] theorem modTack_vec {g s} : (modTack g s).vec = s.vec := rfl
@[simp] theorem modTack_ch {g s} : (modTack g s).ch = s.ch := rfl
@[simp] theorem modTack_owner {g s} : (modTack g s).owner = s.owner := rfl
@[simp] theorem modTack_harn {g s} : (modTack g s).harn = s.harn := rfl
@[simp] theorem modTack_reed {g s} : (modTack g s).reed = s.reed := rfl
@[simp] theorem modTack_tasks {g s} : (modTack g s).tasks = s.tasks := rfl
@[simp] theorem modTack_shed {g s} : (modTack g s).shed = s.shed := rfl
@[simp] theorem modTack_eng {g s} : (modTack g s).eng = s.eng := rfl
@[simp] theorem modTack_timed {g s} : (modTack g s).timed = s.timed := rfl
@[simp] theorem modTack_pos {g s} : (modTack g s).pos = s.pos := rfl
@[simp] theorem modTack_mem {g s} : (modTack g s).mem = s.mem := rfl
@[simp] theorem modTack_store {g s} : (modTack g s).store = s.store := rfl
@[simp] theorem modTack_code {g s} : (modTack g s).code = s.code := rfl
@[simp] theorem modTack_codeBad {g s} : (modTack g s).codeBad = s.codeBad := rfl
@[simp] theorem modTack_shu {g s} : (modTack g s).shu = s.shu := rfl
@[simp] theorem modTack_chg {g s} : (modTack g s).chg = s.chg := rfl
@[simp] theorem modTack_flt {g s} : (modTack g s).flt = s.flt := rfl
@[simp] theorem modTack_trd {g s} : (modTack g s).trd = s.trd := rfl
@[simp] theorem modTack_chain {g s} : (modTack g s).chain = s.chain := rfl
@[simp] theorem modTack_log {g s} : (modTack g s).log = s.log := rfl
@[simp] theorem modTack_hed {g s} : (modTack g s).hed = s.hed := rfl
@[simp] theorem modTack_cmp {g s} : (modTack g s).cmp = s.cmp := rfl
@[simp] theorem modTack_adc {g s} : (modTack g s).adc = s.adc := rfl
@[simp] theorem modTack_bob {g s} : (modTack g s).bob = s.bob := rfl
@[simp] theorem modTack_host {g s} : (modTack g s).host = s.host := rfl
@[simp] theorem modTack_pwr {g s} : (modTack g s).pwr = s.pwr := rfl
@[simp] theorem modTack_flash {g s} : (modTack g s).flash = s.flash := rfl
@[simp] theorem modTack_fuse {g s} : (modTack g s).fuse = s.fuse := rfl
@[simp] theorem modTack_sel {g s} : (modTack g s).sel = s.sel := rfl
@[simp] theorem modTack_tap {g s} : (modTack g s).tap = s.tap := rfl
@[simp] theorem modTack_cyc {g s} : (modTack g s).cyc = s.cyc := rfl
@[simp] theorem modTack_freeN {g s} : (modTack g s).freeN = s.freeN := rfl
@[simp] theorem modTack_pending {g s} : (modTack g s).pending = s.pending := rfl
@[simp] theorem modTack_rget {g s r} : rget (modTack g s) r = rget s r := rfl

/-! ### modFlash -/

@[simp] theorem modFlash_time {g s} : (modFlash g s).time = s.time := rfl
@[simp] theorem modFlash_regs {g s} : (modFlash g s).regs = s.regs := rfl
@[simp] theorem modFlash_pairHi {g s} : (modFlash g s).pairHi = s.pairHi := rfl
@[simp] theorem modFlash_pairLo {g s} : (modFlash g s).pairLo = s.pairLo := rfl
@[simp] theorem modFlash_rdata {g s} : (modFlash g s).rdata = s.rdata := rfl
@[simp] theorem modFlash_ev {g s} : (modFlash g s).ev = s.ev := rfl
@[simp] theorem modFlash_vec {g s} : (modFlash g s).vec = s.vec := rfl
@[simp] theorem modFlash_ch {g s} : (modFlash g s).ch = s.ch := rfl
@[simp] theorem modFlash_owner {g s} : (modFlash g s).owner = s.owner := rfl
@[simp] theorem modFlash_harn {g s} : (modFlash g s).harn = s.harn := rfl
@[simp] theorem modFlash_reed {g s} : (modFlash g s).reed = s.reed := rfl
@[simp] theorem modFlash_tasks {g s} : (modFlash g s).tasks = s.tasks := rfl
@[simp] theorem modFlash_shed {g s} : (modFlash g s).shed = s.shed := rfl
@[simp] theorem modFlash_eng {g s} : (modFlash g s).eng = s.eng := rfl
@[simp] theorem modFlash_timed {g s} : (modFlash g s).timed = s.timed := rfl
@[simp] theorem modFlash_pos {g s} : (modFlash g s).pos = s.pos := rfl
@[simp] theorem modFlash_mem {g s} : (modFlash g s).mem = s.mem := rfl
@[simp] theorem modFlash_store {g s} : (modFlash g s).store = s.store := rfl
@[simp] theorem modFlash_code {g s} : (modFlash g s).code = s.code := rfl
@[simp] theorem modFlash_codeBad {g s} : (modFlash g s).codeBad = s.codeBad := rfl
@[simp] theorem modFlash_shu {g s} : (modFlash g s).shu = s.shu := rfl
@[simp] theorem modFlash_chg {g s} : (modFlash g s).chg = s.chg := rfl
@[simp] theorem modFlash_flt {g s} : (modFlash g s).flt = s.flt := rfl
@[simp] theorem modFlash_trd {g s} : (modFlash g s).trd = s.trd := rfl
@[simp] theorem modFlash_chain {g s} : (modFlash g s).chain = s.chain := rfl
@[simp] theorem modFlash_log {g s} : (modFlash g s).log = s.log := rfl
@[simp] theorem modFlash_hed {g s} : (modFlash g s).hed = s.hed := rfl
@[simp] theorem modFlash_cmp {g s} : (modFlash g s).cmp = s.cmp := rfl
@[simp] theorem modFlash_adc {g s} : (modFlash g s).adc = s.adc := rfl
@[simp] theorem modFlash_bob {g s} : (modFlash g s).bob = s.bob := rfl
@[simp] theorem modFlash_host {g s} : (modFlash g s).host = s.host := rfl
@[simp] theorem modFlash_pwr {g s} : (modFlash g s).pwr = s.pwr := rfl
@[simp] theorem modFlash_fuse {g s} : (modFlash g s).fuse = s.fuse := rfl
@[simp] theorem modFlash_sel {g s} : (modFlash g s).sel = s.sel := rfl
@[simp] theorem modFlash_tack {g s} : (modFlash g s).tack = s.tack := rfl
@[simp] theorem modFlash_tap {g s} : (modFlash g s).tap = s.tap := rfl
@[simp] theorem modFlash_cyc {g s} : (modFlash g s).cyc = s.cyc := rfl
@[simp] theorem modFlash_freeN {g s} : (modFlash g s).freeN = s.freeN := rfl
@[simp] theorem modFlash_pending {g s} : (modFlash g s).pending = s.pending := rfl
@[simp] theorem modFlash_rget {g s r} : rget (modFlash g s) r = rget s r := rfl

/-! ### modSel -/

@[simp] theorem modSel_time {g s} : (modSel g s).time = s.time := rfl
@[simp] theorem modSel_regs {g s} : (modSel g s).regs = s.regs := rfl
@[simp] theorem modSel_pairHi {g s} : (modSel g s).pairHi = s.pairHi := rfl
@[simp] theorem modSel_pairLo {g s} : (modSel g s).pairLo = s.pairLo := rfl
@[simp] theorem modSel_rdata {g s} : (modSel g s).rdata = s.rdata := rfl
@[simp] theorem modSel_ev {g s} : (modSel g s).ev = s.ev := rfl
@[simp] theorem modSel_vec {g s} : (modSel g s).vec = s.vec := rfl
@[simp] theorem modSel_ch {g s} : (modSel g s).ch = s.ch := rfl
@[simp] theorem modSel_owner {g s} : (modSel g s).owner = s.owner := rfl
@[simp] theorem modSel_harn {g s} : (modSel g s).harn = s.harn := rfl
@[simp] theorem modSel_reed {g s} : (modSel g s).reed = s.reed := rfl
@[simp] theorem modSel_tasks {g s} : (modSel g s).tasks = s.tasks := rfl
@[simp] theorem modSel_shed {g s} : (modSel g s).shed = s.shed := rfl
@[simp] theorem modSel_eng {g s} : (modSel g s).eng = s.eng := rfl
@[simp] theorem modSel_timed {g s} : (modSel g s).timed = s.timed := rfl
@[simp] theorem modSel_pos {g s} : (modSel g s).pos = s.pos := rfl
@[simp] theorem modSel_mem {g s} : (modSel g s).mem = s.mem := rfl
@[simp] theorem modSel_store {g s} : (modSel g s).store = s.store := rfl
@[simp] theorem modSel_code {g s} : (modSel g s).code = s.code := rfl
@[simp] theorem modSel_codeBad {g s} : (modSel g s).codeBad = s.codeBad := rfl
@[simp] theorem modSel_shu {g s} : (modSel g s).shu = s.shu := rfl
@[simp] theorem modSel_chg {g s} : (modSel g s).chg = s.chg := rfl
@[simp] theorem modSel_flt {g s} : (modSel g s).flt = s.flt := rfl
@[simp] theorem modSel_trd {g s} : (modSel g s).trd = s.trd := rfl
@[simp] theorem modSel_chain {g s} : (modSel g s).chain = s.chain := rfl
@[simp] theorem modSel_log {g s} : (modSel g s).log = s.log := rfl
@[simp] theorem modSel_hed {g s} : (modSel g s).hed = s.hed := rfl
@[simp] theorem modSel_cmp {g s} : (modSel g s).cmp = s.cmp := rfl
@[simp] theorem modSel_adc {g s} : (modSel g s).adc = s.adc := rfl
@[simp] theorem modSel_bob {g s} : (modSel g s).bob = s.bob := rfl
@[simp] theorem modSel_host {g s} : (modSel g s).host = s.host := rfl
@[simp] theorem modSel_pwr {g s} : (modSel g s).pwr = s.pwr := rfl
@[simp] theorem modSel_flash {g s} : (modSel g s).flash = s.flash := rfl
@[simp] theorem modSel_fuse {g s} : (modSel g s).fuse = s.fuse := rfl
@[simp] theorem modSel_tack {g s} : (modSel g s).tack = s.tack := rfl
@[simp] theorem modSel_tap {g s} : (modSel g s).tap = s.tap := rfl
@[simp] theorem modSel_cyc {g s} : (modSel g s).cyc = s.cyc := rfl
@[simp] theorem modSel_freeN {g s} : (modSel g s).freeN = s.freeN := rfl
@[simp] theorem modSel_pending {g s} : (modSel g s).pending = s.pending := rfl
@[simp] theorem modSel_rget {g s r} : rget (modSel g s) r = rget s r := rfl

/-! ### modShed -/

@[simp] theorem modShed_time {g s} : (modShed g s).time = s.time := rfl
@[simp] theorem modShed_regs {g s} : (modShed g s).regs = s.regs := rfl
@[simp] theorem modShed_pairHi {g s} : (modShed g s).pairHi = s.pairHi := rfl
@[simp] theorem modShed_pairLo {g s} : (modShed g s).pairLo = s.pairLo := rfl
@[simp] theorem modShed_rdata {g s} : (modShed g s).rdata = s.rdata := rfl
@[simp] theorem modShed_ev {g s} : (modShed g s).ev = s.ev := rfl
@[simp] theorem modShed_vec {g s} : (modShed g s).vec = s.vec := rfl
@[simp] theorem modShed_ch {g s} : (modShed g s).ch = s.ch := rfl
@[simp] theorem modShed_owner {g s} : (modShed g s).owner = s.owner := rfl
@[simp] theorem modShed_harn {g s} : (modShed g s).harn = s.harn := rfl
@[simp] theorem modShed_reed {g s} : (modShed g s).reed = s.reed := rfl
@[simp] theorem modShed_tasks {g s} : (modShed g s).tasks = s.tasks := rfl
@[simp] theorem modShed_eng {g s} : (modShed g s).eng = s.eng := rfl
@[simp] theorem modShed_timed {g s} : (modShed g s).timed = s.timed := rfl
@[simp] theorem modShed_pos {g s} : (modShed g s).pos = s.pos := rfl
@[simp] theorem modShed_mem {g s} : (modShed g s).mem = s.mem := rfl
@[simp] theorem modShed_store {g s} : (modShed g s).store = s.store := rfl
@[simp] theorem modShed_code {g s} : (modShed g s).code = s.code := rfl
@[simp] theorem modShed_codeBad {g s} : (modShed g s).codeBad = s.codeBad := rfl
@[simp] theorem modShed_shu {g s} : (modShed g s).shu = s.shu := rfl
@[simp] theorem modShed_chg {g s} : (modShed g s).chg = s.chg := rfl
@[simp] theorem modShed_flt {g s} : (modShed g s).flt = s.flt := rfl
@[simp] theorem modShed_trd {g s} : (modShed g s).trd = s.trd := rfl
@[simp] theorem modShed_chain {g s} : (modShed g s).chain = s.chain := rfl
@[simp] theorem modShed_log {g s} : (modShed g s).log = s.log := rfl
@[simp] theorem modShed_hed {g s} : (modShed g s).hed = s.hed := rfl
@[simp] theorem modShed_cmp {g s} : (modShed g s).cmp = s.cmp := rfl
@[simp] theorem modShed_adc {g s} : (modShed g s).adc = s.adc := rfl
@[simp] theorem modShed_bob {g s} : (modShed g s).bob = s.bob := rfl
@[simp] theorem modShed_host {g s} : (modShed g s).host = s.host := rfl
@[simp] theorem modShed_pwr {g s} : (modShed g s).pwr = s.pwr := rfl
@[simp] theorem modShed_flash {g s} : (modShed g s).flash = s.flash := rfl
@[simp] theorem modShed_fuse {g s} : (modShed g s).fuse = s.fuse := rfl
@[simp] theorem modShed_sel {g s} : (modShed g s).sel = s.sel := rfl
@[simp] theorem modShed_tack {g s} : (modShed g s).tack = s.tack := rfl
@[simp] theorem modShed_tap {g s} : (modShed g s).tap = s.tap := rfl
@[simp] theorem modShed_cyc {g s} : (modShed g s).cyc = s.cyc := rfl
@[simp] theorem modShed_freeN {g s} : (modShed g s).freeN = s.freeN := rfl
@[simp] theorem modShed_pending {g s} : (modShed g s).pending = s.pending := rfl
@[simp] theorem modShed_rget {g s r} : rget (modShed g s) r = rget s r := rfl

/-! ### modTap -/

@[simp] theorem modTap_time {g s} : (modTap g s).time = s.time := rfl
@[simp] theorem modTap_regs {g s} : (modTap g s).regs = s.regs := rfl
@[simp] theorem modTap_pairHi {g s} : (modTap g s).pairHi = s.pairHi := rfl
@[simp] theorem modTap_pairLo {g s} : (modTap g s).pairLo = s.pairLo := rfl
@[simp] theorem modTap_rdata {g s} : (modTap g s).rdata = s.rdata := rfl
@[simp] theorem modTap_ev {g s} : (modTap g s).ev = s.ev := rfl
@[simp] theorem modTap_vec {g s} : (modTap g s).vec = s.vec := rfl
@[simp] theorem modTap_ch {g s} : (modTap g s).ch = s.ch := rfl
@[simp] theorem modTap_owner {g s} : (modTap g s).owner = s.owner := rfl
@[simp] theorem modTap_harn {g s} : (modTap g s).harn = s.harn := rfl
@[simp] theorem modTap_reed {g s} : (modTap g s).reed = s.reed := rfl
@[simp] theorem modTap_tasks {g s} : (modTap g s).tasks = s.tasks := rfl
@[simp] theorem modTap_shed {g s} : (modTap g s).shed = s.shed := rfl
@[simp] theorem modTap_eng {g s} : (modTap g s).eng = s.eng := rfl
@[simp] theorem modTap_timed {g s} : (modTap g s).timed = s.timed := rfl
@[simp] theorem modTap_pos {g s} : (modTap g s).pos = s.pos := rfl
@[simp] theorem modTap_mem {g s} : (modTap g s).mem = s.mem := rfl
@[simp] theorem modTap_store {g s} : (modTap g s).store = s.store := rfl
@[simp] theorem modTap_code {g s} : (modTap g s).code = s.code := rfl
@[simp] theorem modTap_codeBad {g s} : (modTap g s).codeBad = s.codeBad := rfl
@[simp] theorem modTap_shu {g s} : (modTap g s).shu = s.shu := rfl
@[simp] theorem modTap_chg {g s} : (modTap g s).chg = s.chg := rfl
@[simp] theorem modTap_flt {g s} : (modTap g s).flt = s.flt := rfl
@[simp] theorem modTap_trd {g s} : (modTap g s).trd = s.trd := rfl
@[simp] theorem modTap_chain {g s} : (modTap g s).chain = s.chain := rfl
@[simp] theorem modTap_log {g s} : (modTap g s).log = s.log := rfl
@[simp] theorem modTap_hed {g s} : (modTap g s).hed = s.hed := rfl
@[simp] theorem modTap_cmp {g s} : (modTap g s).cmp = s.cmp := rfl
@[simp] theorem modTap_adc {g s} : (modTap g s).adc = s.adc := rfl
@[simp] theorem modTap_bob {g s} : (modTap g s).bob = s.bob := rfl
@[simp] theorem modTap_host {g s} : (modTap g s).host = s.host := rfl
@[simp] theorem modTap_pwr {g s} : (modTap g s).pwr = s.pwr := rfl
@[simp] theorem modTap_flash {g s} : (modTap g s).flash = s.flash := rfl
@[simp] theorem modTap_fuse {g s} : (modTap g s).fuse = s.fuse := rfl
@[simp] theorem modTap_sel {g s} : (modTap g s).sel = s.sel := rfl
@[simp] theorem modTap_tack {g s} : (modTap g s).tack = s.tack := rfl
@[simp] theorem modTap_cyc {g s} : (modTap g s).cyc = s.cyc := rfl
@[simp] theorem modTap_freeN {g s} : (modTap g s).freeN = s.freeN := rfl
@[simp] theorem modTap_pending {g s} : (modTap g s).pending = s.pending := rfl
@[simp] theorem modTap_rget {g s r} : rget (modTap g s) r = rget s r := rfl

/-! ### schedule -/

@[simp] theorem schedule_time {t x s} : (schedule t x s).time = s.time := rfl
@[simp] theorem schedule_regs {t x s} : (schedule t x s).regs = s.regs := rfl
@[simp] theorem schedule_pairHi {t x s} : (schedule t x s).pairHi = s.pairHi := rfl
@[simp] theorem schedule_pairLo {t x s} : (schedule t x s).pairLo = s.pairLo := rfl
@[simp] theorem schedule_rdata {t x s} : (schedule t x s).rdata = s.rdata := rfl
@[simp] theorem schedule_ev {t x s} : (schedule t x s).ev = s.ev := rfl
@[simp] theorem schedule_vec {t x s} : (schedule t x s).vec = s.vec := rfl
@[simp] theorem schedule_ch {t x s} : (schedule t x s).ch = s.ch := rfl
@[simp] theorem schedule_owner {t x s} : (schedule t x s).owner = s.owner := rfl
@[simp] theorem schedule_harn {t x s} : (schedule t x s).harn = s.harn := rfl
@[simp] theorem schedule_reed {t x s} : (schedule t x s).reed = s.reed := rfl
@[simp] theorem schedule_tasks {t x s} : (schedule t x s).tasks = s.tasks := rfl
@[simp] theorem schedule_shed {t x s} : (schedule t x s).shed = s.shed := rfl
@[simp] theorem schedule_eng {t x s} : (schedule t x s).eng = s.eng := rfl
@[simp] theorem schedule_pos {t x s} : (schedule t x s).pos = s.pos := rfl
@[simp] theorem schedule_mem {t x s} : (schedule t x s).mem = s.mem := rfl
@[simp] theorem schedule_store {t x s} : (schedule t x s).store = s.store := rfl
@[simp] theorem schedule_code {t x s} : (schedule t x s).code = s.code := rfl
@[simp] theorem schedule_codeBad {t x s} : (schedule t x s).codeBad = s.codeBad := rfl
@[simp] theorem schedule_shu {t x s} : (schedule t x s).shu = s.shu := rfl
@[simp] theorem schedule_chg {t x s} : (schedule t x s).chg = s.chg := rfl
@[simp] theorem schedule_flt {t x s} : (schedule t x s).flt = s.flt := rfl
@[simp] theorem schedule_trd {t x s} : (schedule t x s).trd = s.trd := rfl
@[simp] theorem schedule_chain {t x s} : (schedule t x s).chain = s.chain := rfl
@[simp] theorem schedule_log {t x s} : (schedule t x s).log = s.log := rfl
@[simp] theorem schedule_hed {t x s} : (schedule t x s).hed = s.hed := rfl
@[simp] theorem schedule_cmp {t x s} : (schedule t x s).cmp = s.cmp := rfl
@[simp] theorem schedule_adc {t x s} : (schedule t x s).adc = s.adc := rfl
@[simp] theorem schedule_bob {t x s} : (schedule t x s).bob = s.bob := rfl
@[simp] theorem schedule_host {t x s} : (schedule t x s).host = s.host := rfl
@[simp] theorem schedule_pwr {t x s} : (schedule t x s).pwr = s.pwr := rfl
@[simp] theorem schedule_flash {t x s} : (schedule t x s).flash = s.flash := rfl
@[simp] theorem schedule_fuse {t x s} : (schedule t x s).fuse = s.fuse := rfl
@[simp] theorem schedule_sel {t x s} : (schedule t x s).sel = s.sel := rfl
@[simp] theorem schedule_tack {t x s} : (schedule t x s).tack = s.tack := rfl
@[simp] theorem schedule_tap {t x s} : (schedule t x s).tap = s.tap := rfl
@[simp] theorem schedule_cyc {t x s} : (schedule t x s).cyc = s.cyc := rfl
@[simp] theorem schedule_freeN {t x s} : (schedule t x s).freeN = s.freeN := rfl
@[simp] theorem schedule_pending {t x s} : (schedule t x s).pending = s.pending := rfl
@[simp] theorem schedule_rget {t x s r} : rget (schedule t x s) r = rget s r := rfl

/-! ### setMark -/

@[simp] theorem setMark_time {w m s} : (setMark w m s).time = s.time := rfl
@[simp] theorem setMark_regs {w m s} : (setMark w m s).regs = s.regs := rfl
@[simp] theorem setMark_pairHi {w m s} : (setMark w m s).pairHi = s.pairHi := rfl
@[simp] theorem setMark_pairLo {w m s} : (setMark w m s).pairLo = s.pairLo := rfl
@[simp] theorem setMark_rdata {w m s} : (setMark w m s).rdata = s.rdata := rfl
@[simp] theorem setMark_ev {w m s} : (setMark w m s).ev = s.ev := rfl
@[simp] theorem setMark_vec {w m s} : (setMark w m s).vec = s.vec := rfl
@[simp] theorem setMark_ch {w m s} : (setMark w m s).ch = s.ch := rfl
@[simp] theorem setMark_owner {w m s} : (setMark w m s).owner = s.owner := rfl
@[simp] theorem setMark_harn {w m s} : (setMark w m s).harn = s.harn := rfl
@[simp] theorem setMark_reed {w m s} : (setMark w m s).reed = s.reed := rfl
@[simp] theorem setMark_tasks {w m s} : (setMark w m s).tasks = s.tasks := rfl
@[simp] theorem setMark_shed {w m s} : (setMark w m s).shed = s.shed := rfl
@[simp] theorem setMark_eng {w m s} : (setMark w m s).eng = s.eng := rfl
@[simp] theorem setMark_timed {w m s} : (setMark w m s).timed = s.timed := rfl
@[simp] theorem setMark_pos {w m s} : (setMark w m s).pos = s.pos := rfl
@[simp] theorem setMark_mem {w m s} : (setMark w m s).mem = s.mem := rfl
@[simp] theorem setMark_code {w m s} : (setMark w m s).code = s.code := rfl
@[simp] theorem setMark_codeBad {w m s} : (setMark w m s).codeBad = s.codeBad := rfl
@[simp] theorem setMark_shu {w m s} : (setMark w m s).shu = s.shu := rfl
@[simp] theorem setMark_chg {w m s} : (setMark w m s).chg = s.chg := rfl
@[simp] theorem setMark_flt {w m s} : (setMark w m s).flt = s.flt := rfl
@[simp] theorem setMark_trd {w m s} : (setMark w m s).trd = s.trd := rfl
@[simp] theorem setMark_chain {w m s} : (setMark w m s).chain = s.chain := rfl
@[simp] theorem setMark_log {w m s} : (setMark w m s).log = s.log := rfl
@[simp] theorem setMark_hed {w m s} : (setMark w m s).hed = s.hed := rfl
@[simp] theorem setMark_cmp {w m s} : (setMark w m s).cmp = s.cmp := rfl
@[simp] theorem setMark_adc {w m s} : (setMark w m s).adc = s.adc := rfl
@[simp] theorem setMark_bob {w m s} : (setMark w m s).bob = s.bob := rfl
@[simp] theorem setMark_host {w m s} : (setMark w m s).host = s.host := rfl
@[simp] theorem setMark_pwr {w m s} : (setMark w m s).pwr = s.pwr := rfl
@[simp] theorem setMark_flash {w m s} : (setMark w m s).flash = s.flash := rfl
@[simp] theorem setMark_fuse {w m s} : (setMark w m s).fuse = s.fuse := rfl
@[simp] theorem setMark_sel {w m s} : (setMark w m s).sel = s.sel := rfl
@[simp] theorem setMark_tack {w m s} : (setMark w m s).tack = s.tack := rfl
@[simp] theorem setMark_tap {w m s} : (setMark w m s).tap = s.tap := rfl
@[simp] theorem setMark_cyc {w m s} : (setMark w m s).cyc = s.cyc := rfl
@[simp] theorem setMark_freeN {w m s} : (setMark w m s).freeN = s.freeN := rfl
@[simp] theorem setMark_pending {w m s} : (setMark w m s).pending = s.pending := rfl
@[simp] theorem setMark_rget {w m s r} : rget (setMark w m s) r = rget s r := rfl

/-! ### modCyc -/

@[simp] theorem modCyc_time {g s} : (modCyc g s).time = s.time := rfl
@[simp] theorem modCyc_regs {g s} : (modCyc g s).regs = s.regs := rfl
@[simp] theorem modCyc_pairHi {g s} : (modCyc g s).pairHi = s.pairHi := rfl
@[simp] theorem modCyc_pairLo {g s} : (modCyc g s).pairLo = s.pairLo := rfl
@[simp] theorem modCyc_rdata {g s} : (modCyc g s).rdata = s.rdata := rfl
@[simp] theorem modCyc_ev {g s} : (modCyc g s).ev = s.ev := rfl
@[simp] theorem modCyc_vec {g s} : (modCyc g s).vec = s.vec := rfl
@[simp] theorem modCyc_ch {g s} : (modCyc g s).ch = s.ch := rfl
@[simp] theorem modCyc_owner {g s} : (modCyc g s).owner = s.owner := rfl
@[simp] theorem modCyc_harn {g s} : (modCyc g s).harn = s.harn := rfl
@[simp] theorem modCyc_reed {g s} : (modCyc g s).reed = s.reed := rfl
@[simp] theorem modCyc_tasks {g s} : (modCyc g s).tasks = s.tasks := rfl
@[simp] theorem modCyc_shed {g s} : (modCyc g s).shed = s.shed := rfl
@[simp] theorem modCyc_eng {g s} : (modCyc g s).eng = s.eng := rfl
@[simp] theorem modCyc_timed {g s} : (modCyc g s).timed = s.timed := rfl
@[simp] theorem modCyc_pos {g s} : (modCyc g s).pos = s.pos := rfl
@[simp] theorem modCyc_mem {g s} : (modCyc g s).mem = s.mem := rfl
@[simp] theorem modCyc_store {g s} : (modCyc g s).store = s.store := rfl
@[simp] theorem modCyc_code {g s} : (modCyc g s).code = s.code := rfl
@[simp] theorem modCyc_codeBad {g s} : (modCyc g s).codeBad = s.codeBad := rfl
@[simp] theorem modCyc_shu {g s} : (modCyc g s).shu = s.shu := rfl
@[simp] theorem modCyc_chg {g s} : (modCyc g s).chg = s.chg := rfl
@[simp] theorem modCyc_flt {g s} : (modCyc g s).flt = s.flt := rfl
@[simp] theorem modCyc_trd {g s} : (modCyc g s).trd = s.trd := rfl
@[simp] theorem modCyc_chain {g s} : (modCyc g s).chain = s.chain := rfl
@[simp] theorem modCyc_log {g s} : (modCyc g s).log = s.log := rfl
@[simp] theorem modCyc_hed {g s} : (modCyc g s).hed = s.hed := rfl
@[simp] theorem modCyc_cmp {g s} : (modCyc g s).cmp = s.cmp := rfl
@[simp] theorem modCyc_adc {g s} : (modCyc g s).adc = s.adc := rfl
@[simp] theorem modCyc_bob {g s} : (modCyc g s).bob = s.bob := rfl
@[simp] theorem modCyc_host {g s} : (modCyc g s).host = s.host := rfl
@[simp] theorem modCyc_pwr {g s} : (modCyc g s).pwr = s.pwr := rfl
@[simp] theorem modCyc_flash {g s} : (modCyc g s).flash = s.flash := rfl
@[simp] theorem modCyc_fuse {g s} : (modCyc g s).fuse = s.fuse := rfl
@[simp] theorem modCyc_sel {g s} : (modCyc g s).sel = s.sel := rfl
@[simp] theorem modCyc_tack {g s} : (modCyc g s).tack = s.tack := rfl
@[simp] theorem modCyc_tap {g s} : (modCyc g s).tap = s.tap := rfl
@[simp] theorem modCyc_freeN {g s} : (modCyc g s).freeN = s.freeN := rfl
@[simp] theorem modCyc_pending {g s} : (modCyc g s).pending = s.pending := rfl
@[simp] theorem modCyc_rget {g s r} : rget (modCyc g s) r = rget s r := rfl

/-! ### noteSet -/

@[simp] theorem noteSet_time {a m s} : (noteSet a m s).time = s.time := rfl
@[simp] theorem noteSet_regs {a m s} : (noteSet a m s).regs = s.regs := rfl
@[simp] theorem noteSet_pairHi {a m s} : (noteSet a m s).pairHi = s.pairHi := rfl
@[simp] theorem noteSet_pairLo {a m s} : (noteSet a m s).pairLo = s.pairLo := rfl
@[simp] theorem noteSet_rdata {a m s} : (noteSet a m s).rdata = s.rdata := rfl
@[simp] theorem noteSet_ev {a m s} : (noteSet a m s).ev = s.ev := rfl
@[simp] theorem noteSet_vec {a m s} : (noteSet a m s).vec = s.vec := rfl
@[simp] theorem noteSet_ch {a m s} : (noteSet a m s).ch = s.ch := rfl
@[simp] theorem noteSet_owner {a m s} : (noteSet a m s).owner = s.owner := rfl
@[simp] theorem noteSet_harn {a m s} : (noteSet a m s).harn = s.harn := rfl
@[simp] theorem noteSet_reed {a m s} : (noteSet a m s).reed = s.reed := rfl
@[simp] theorem noteSet_tasks {a m s} : (noteSet a m s).tasks = s.tasks := rfl
@[simp] theorem noteSet_shed {a m s} : (noteSet a m s).shed = s.shed := rfl
@[simp] theorem noteSet_eng {a m s} : (noteSet a m s).eng = s.eng := rfl
@[simp] theorem noteSet_timed {a m s} : (noteSet a m s).timed = s.timed := rfl
@[simp] theorem noteSet_pos {a m s} : (noteSet a m s).pos = s.pos := rfl
@[simp] theorem noteSet_mem {a m s} : (noteSet a m s).mem = s.mem := rfl
@[simp] theorem noteSet_store {a m s} : (noteSet a m s).store = s.store := rfl
@[simp] theorem noteSet_code {a m s} : (noteSet a m s).code = s.code := rfl
@[simp] theorem noteSet_codeBad {a m s} : (noteSet a m s).codeBad = s.codeBad := rfl
@[simp] theorem noteSet_shu {a m s} : (noteSet a m s).shu = s.shu := rfl
@[simp] theorem noteSet_chg {a m s} : (noteSet a m s).chg = s.chg := rfl
@[simp] theorem noteSet_flt {a m s} : (noteSet a m s).flt = s.flt := rfl
@[simp] theorem noteSet_trd {a m s} : (noteSet a m s).trd = s.trd := rfl
@[simp] theorem noteSet_chain {a m s} : (noteSet a m s).chain = s.chain := rfl
@[simp] theorem noteSet_log {a m s} : (noteSet a m s).log = s.log := rfl
@[simp] theorem noteSet_hed {a m s} : (noteSet a m s).hed = s.hed := rfl
@[simp] theorem noteSet_cmp {a m s} : (noteSet a m s).cmp = s.cmp := rfl
@[simp] theorem noteSet_adc {a m s} : (noteSet a m s).adc = s.adc := rfl
@[simp] theorem noteSet_bob {a m s} : (noteSet a m s).bob = s.bob := rfl
@[simp] theorem noteSet_host {a m s} : (noteSet a m s).host = s.host := rfl
@[simp] theorem noteSet_pwr {a m s} : (noteSet a m s).pwr = s.pwr := rfl
@[simp] theorem noteSet_flash {a m s} : (noteSet a m s).flash = s.flash := rfl
@[simp] theorem noteSet_fuse {a m s} : (noteSet a m s).fuse = s.fuse := rfl
@[simp] theorem noteSet_sel {a m s} : (noteSet a m s).sel = s.sel := rfl
@[simp] theorem noteSet_tack {a m s} : (noteSet a m s).tack = s.tack := rfl
@[simp] theorem noteSet_tap {a m s} : (noteSet a m s).tap = s.tap := rfl
@[simp] theorem noteSet_freeN {a m s} : (noteSet a m s).freeN = s.freeN := rfl
@[simp] theorem noteSet_pending {a m s} : (noteSet a m s).pending = s.pending := rfl
@[simp] theorem noteSet_rget {a m s r} : rget (noteSet a m s) r = rget s r := rfl

/-! ### noteCount -/

@[simp] theorem noteCount_time {a k s} : (noteCount a k s).time = s.time := rfl
@[simp] theorem noteCount_regs {a k s} : (noteCount a k s).regs = s.regs := rfl
@[simp] theorem noteCount_pairHi {a k s} : (noteCount a k s).pairHi = s.pairHi := rfl
@[simp] theorem noteCount_pairLo {a k s} : (noteCount a k s).pairLo = s.pairLo := rfl
@[simp] theorem noteCount_rdata {a k s} : (noteCount a k s).rdata = s.rdata := rfl
@[simp] theorem noteCount_ev {a k s} : (noteCount a k s).ev = s.ev := rfl
@[simp] theorem noteCount_vec {a k s} : (noteCount a k s).vec = s.vec := rfl
@[simp] theorem noteCount_ch {a k s} : (noteCount a k s).ch = s.ch := rfl
@[simp] theorem noteCount_owner {a k s} : (noteCount a k s).owner = s.owner := rfl
@[simp] theorem noteCount_harn {a k s} : (noteCount a k s).harn = s.harn := rfl
@[simp] theorem noteCount_reed {a k s} : (noteCount a k s).reed = s.reed := rfl
@[simp] theorem noteCount_tasks {a k s} : (noteCount a k s).tasks = s.tasks := rfl
@[simp] theorem noteCount_shed {a k s} : (noteCount a k s).shed = s.shed := rfl
@[simp] theorem noteCount_eng {a k s} : (noteCount a k s).eng = s.eng := rfl
@[simp] theorem noteCount_timed {a k s} : (noteCount a k s).timed = s.timed := rfl
@[simp] theorem noteCount_pos {a k s} : (noteCount a k s).pos = s.pos := rfl
@[simp] theorem noteCount_mem {a k s} : (noteCount a k s).mem = s.mem := rfl
@[simp] theorem noteCount_store {a k s} : (noteCount a k s).store = s.store := rfl
@[simp] theorem noteCount_code {a k s} : (noteCount a k s).code = s.code := rfl
@[simp] theorem noteCount_codeBad {a k s} : (noteCount a k s).codeBad = s.codeBad := rfl
@[simp] theorem noteCount_shu {a k s} : (noteCount a k s).shu = s.shu := rfl
@[simp] theorem noteCount_chg {a k s} : (noteCount a k s).chg = s.chg := rfl
@[simp] theorem noteCount_flt {a k s} : (noteCount a k s).flt = s.flt := rfl
@[simp] theorem noteCount_trd {a k s} : (noteCount a k s).trd = s.trd := rfl
@[simp] theorem noteCount_chain {a k s} : (noteCount a k s).chain = s.chain := rfl
@[simp] theorem noteCount_log {a k s} : (noteCount a k s).log = s.log := rfl
@[simp] theorem noteCount_hed {a k s} : (noteCount a k s).hed = s.hed := rfl
@[simp] theorem noteCount_cmp {a k s} : (noteCount a k s).cmp = s.cmp := rfl
@[simp] theorem noteCount_adc {a k s} : (noteCount a k s).adc = s.adc := rfl
@[simp] theorem noteCount_bob {a k s} : (noteCount a k s).bob = s.bob := rfl
@[simp] theorem noteCount_host {a k s} : (noteCount a k s).host = s.host := rfl
@[simp] theorem noteCount_pwr {a k s} : (noteCount a k s).pwr = s.pwr := rfl
@[simp] theorem noteCount_flash {a k s} : (noteCount a k s).flash = s.flash := rfl
@[simp] theorem noteCount_fuse {a k s} : (noteCount a k s).fuse = s.fuse := rfl
@[simp] theorem noteCount_sel {a k s} : (noteCount a k s).sel = s.sel := rfl
@[simp] theorem noteCount_tack {a k s} : (noteCount a k s).tack = s.tack := rfl
@[simp] theorem noteCount_tap {a k s} : (noteCount a k s).tap = s.tap := rfl
@[simp] theorem noteCount_freeN {a k s} : (noteCount a k s).freeN = s.freeN := rfl
@[simp] theorem noteCount_pending {a k s} : (noteCount a k s).pending = s.pending := rfl
@[simp] theorem noteCount_rget {a k s r} : rget (noteCount a k s) r = rget s r := rfl

/-! ### noteEntry -/

@[simp] theorem noteEntry_time {a s} : (noteEntry a s).time = s.time := rfl
@[simp] theorem noteEntry_regs {a s} : (noteEntry a s).regs = s.regs := rfl
@[simp] theorem noteEntry_pairHi {a s} : (noteEntry a s).pairHi = s.pairHi := rfl
@[simp] theorem noteEntry_pairLo {a s} : (noteEntry a s).pairLo = s.pairLo := rfl
@[simp] theorem noteEntry_rdata {a s} : (noteEntry a s).rdata = s.rdata := rfl
@[simp] theorem noteEntry_ev {a s} : (noteEntry a s).ev = s.ev := rfl
@[simp] theorem noteEntry_vec {a s} : (noteEntry a s).vec = s.vec := rfl
@[simp] theorem noteEntry_ch {a s} : (noteEntry a s).ch = s.ch := rfl
@[simp] theorem noteEntry_owner {a s} : (noteEntry a s).owner = s.owner := rfl
@[simp] theorem noteEntry_harn {a s} : (noteEntry a s).harn = s.harn := rfl
@[simp] theorem noteEntry_reed {a s} : (noteEntry a s).reed = s.reed := rfl
@[simp] theorem noteEntry_tasks {a s} : (noteEntry a s).tasks = s.tasks := rfl
@[simp] theorem noteEntry_shed {a s} : (noteEntry a s).shed = s.shed := rfl
@[simp] theorem noteEntry_eng {a s} : (noteEntry a s).eng = s.eng := rfl
@[simp] theorem noteEntry_timed {a s} : (noteEntry a s).timed = s.timed := rfl
@[simp] theorem noteEntry_pos {a s} : (noteEntry a s).pos = s.pos := rfl
@[simp] theorem noteEntry_mem {a s} : (noteEntry a s).mem = s.mem := rfl
@[simp] theorem noteEntry_store {a s} : (noteEntry a s).store = s.store := rfl
@[simp] theorem noteEntry_code {a s} : (noteEntry a s).code = s.code := rfl
@[simp] theorem noteEntry_codeBad {a s} : (noteEntry a s).codeBad = s.codeBad := rfl
@[simp] theorem noteEntry_shu {a s} : (noteEntry a s).shu = s.shu := rfl
@[simp] theorem noteEntry_chg {a s} : (noteEntry a s).chg = s.chg := rfl
@[simp] theorem noteEntry_flt {a s} : (noteEntry a s).flt = s.flt := rfl
@[simp] theorem noteEntry_trd {a s} : (noteEntry a s).trd = s.trd := rfl
@[simp] theorem noteEntry_chain {a s} : (noteEntry a s).chain = s.chain := rfl
@[simp] theorem noteEntry_log {a s} : (noteEntry a s).log = s.log := rfl
@[simp] theorem noteEntry_hed {a s} : (noteEntry a s).hed = s.hed := rfl
@[simp] theorem noteEntry_cmp {a s} : (noteEntry a s).cmp = s.cmp := rfl
@[simp] theorem noteEntry_adc {a s} : (noteEntry a s).adc = s.adc := rfl
@[simp] theorem noteEntry_bob {a s} : (noteEntry a s).bob = s.bob := rfl
@[simp] theorem noteEntry_host {a s} : (noteEntry a s).host = s.host := rfl
@[simp] theorem noteEntry_pwr {a s} : (noteEntry a s).pwr = s.pwr := rfl
@[simp] theorem noteEntry_flash {a s} : (noteEntry a s).flash = s.flash := rfl
@[simp] theorem noteEntry_fuse {a s} : (noteEntry a s).fuse = s.fuse := rfl
@[simp] theorem noteEntry_sel {a s} : (noteEntry a s).sel = s.sel := rfl
@[simp] theorem noteEntry_tack {a s} : (noteEntry a s).tack = s.tack := rfl
@[simp] theorem noteEntry_tap {a s} : (noteEntry a s).tap = s.tap := rfl
@[simp] theorem noteEntry_freeN {a s} : (noteEntry a s).freeN = s.freeN := rfl
@[simp] theorem noteEntry_pending {a s} : (noteEntry a s).pending = s.pending := rfl
@[simp] theorem noteEntry_rget {a s r} : rget (noteEntry a s) r = rget s r := rfl

/-! ### clearBits -/

@[simp] theorem clearBits_time {a m s} : (clearBits a m s).time = s.time := rfl
@[simp] theorem clearBits_pairHi {a m s} : (clearBits a m s).pairHi = s.pairHi := rfl
@[simp] theorem clearBits_pairLo {a m s} : (clearBits a m s).pairLo = s.pairLo := rfl
@[simp] theorem clearBits_rdata {a m s} : (clearBits a m s).rdata = s.rdata := rfl
@[simp] theorem clearBits_ev {a m s} : (clearBits a m s).ev = s.ev := rfl
@[simp] theorem clearBits_vec {a m s} : (clearBits a m s).vec = s.vec := rfl
@[simp] theorem clearBits_ch {a m s} : (clearBits a m s).ch = s.ch := rfl
@[simp] theorem clearBits_owner {a m s} : (clearBits a m s).owner = s.owner := rfl
@[simp] theorem clearBits_harn {a m s} : (clearBits a m s).harn = s.harn := rfl
@[simp] theorem clearBits_reed {a m s} : (clearBits a m s).reed = s.reed := rfl
@[simp] theorem clearBits_tasks {a m s} : (clearBits a m s).tasks = s.tasks := rfl
@[simp] theorem clearBits_shed {a m s} : (clearBits a m s).shed = s.shed := rfl
@[simp] theorem clearBits_eng {a m s} : (clearBits a m s).eng = s.eng := rfl
@[simp] theorem clearBits_timed {a m s} : (clearBits a m s).timed = s.timed := rfl
@[simp] theorem clearBits_pos {a m s} : (clearBits a m s).pos = s.pos := rfl
@[simp] theorem clearBits_mem {a m s} : (clearBits a m s).mem = s.mem := rfl
@[simp] theorem clearBits_store {a m s} : (clearBits a m s).store = s.store := rfl
@[simp] theorem clearBits_code {a m s} : (clearBits a m s).code = s.code := rfl
@[simp] theorem clearBits_codeBad {a m s} : (clearBits a m s).codeBad = s.codeBad := rfl
@[simp] theorem clearBits_shu {a m s} : (clearBits a m s).shu = s.shu := rfl
@[simp] theorem clearBits_chg {a m s} : (clearBits a m s).chg = s.chg := rfl
@[simp] theorem clearBits_flt {a m s} : (clearBits a m s).flt = s.flt := rfl
@[simp] theorem clearBits_trd {a m s} : (clearBits a m s).trd = s.trd := rfl
@[simp] theorem clearBits_chain {a m s} : (clearBits a m s).chain = s.chain := rfl
@[simp] theorem clearBits_log {a m s} : (clearBits a m s).log = s.log := rfl
@[simp] theorem clearBits_hed {a m s} : (clearBits a m s).hed = s.hed := rfl
@[simp] theorem clearBits_cmp {a m s} : (clearBits a m s).cmp = s.cmp := rfl
@[simp] theorem clearBits_adc {a m s} : (clearBits a m s).adc = s.adc := rfl
@[simp] theorem clearBits_bob {a m s} : (clearBits a m s).bob = s.bob := rfl
@[simp] theorem clearBits_host {a m s} : (clearBits a m s).host = s.host := rfl
@[simp] theorem clearBits_pwr {a m s} : (clearBits a m s).pwr = s.pwr := rfl
@[simp] theorem clearBits_flash {a m s} : (clearBits a m s).flash = s.flash := rfl
@[simp] theorem clearBits_fuse {a m s} : (clearBits a m s).fuse = s.fuse := rfl
@[simp] theorem clearBits_sel {a m s} : (clearBits a m s).sel = s.sel := rfl
@[simp] theorem clearBits_tack {a m s} : (clearBits a m s).tack = s.tack := rfl
@[simp] theorem clearBits_tap {a m s} : (clearBits a m s).tap = s.tap := rfl
@[simp] theorem clearBits_cyc {a m s} : (clearBits a m s).cyc = s.cyc := rfl
@[simp] theorem clearBits_freeN {a m s} : (clearBits a m s).freeN = s.freeN := rfl
@[simp] theorem clearBits_pending {a m s} : (clearBits a m s).pending = s.pending := rfl

/-! ### The structures of the instances -/

@[simp] theorem modCh_chSt_same {n : Nat} {g s} : chSt (modCh n g s) n = g (chSt s n) := tget_tset_same _ _ _ _
theorem modCh_chSt_other {n k : Nat} {g s} (h : k ≠ n) : chSt (modCh n g s) k = chSt s k := tget_tset_other _ _ _ h
@[simp] theorem modHarn_harnSt_same {n : Nat} {g s} : harnSt (modHarn n g s) n = g (harnSt s n) := tget_tset_same _ _ _ _
theorem modHarn_harnSt_other {n k : Nat} {g s} (h : k ≠ n) : harnSt (modHarn n g s) k = harnSt s k := tget_tset_other _ _ _ h
@[simp] theorem modReed_reedSt_same {n : Nat} {g s} : reedSt (modReed n g s) n = g (reedSt s n) := tget_tset_same _ _ _ _
theorem modReed_reedSt_other {n k : Nat} {g s} (h : k ≠ n) : reedSt (modReed n g s) k = reedSt s k := tget_tset_other _ _ _ h
@[simp] theorem modEng_engSt_same {n : Nat} {g s} : engSt (modEng n g s) n = g (engSt s n) := tget_tset_same _ _ _ _
theorem modEng_engSt_other {n k : Nat} {g s} (h : k ≠ n) : engSt (modEng n g s) k = engSt s k := tget_tset_other _ _ _ h
@[simp] theorem modVec_vecSt_same {n : Nat} {g s} : vecSt (modVec n g s) n = g (vecSt s n) := tget_tset_same _ _ _ _
theorem modVec_vecSt_other {n k : Nat} {g s} (h : k ≠ n) : vecSt (modVec n g s) k = vecSt s k := tget_tset_other _ _ _ h
@[simp] theorem modShu_shuSt_same {n : Nat} {g s} : shuSt (modShu n g s) n = g (shuSt s n) := tget_tset_same _ _ _ _
theorem modShu_shuSt_other {n k : Nat} {g s} (h : k ≠ n) : shuSt (modShu n g s) k = shuSt s k := tget_tset_other _ _ _ h
@[simp] theorem modTrd_trdSt_same {n : Nat} {g s} : trdSt (modTrd n g s) n = g (trdSt s n) := tget_tset_same _ _ _ _
theorem modTrd_trdSt_other {n k : Nat} {g s} (h : k ≠ n) : trdSt (modTrd n g s) k = trdSt s k := tget_tset_other _ _ _ h
@[simp] theorem modHed_hedSt_same {n : Nat} {g s} : hedSt (modHed n g s) n = g (hedSt s n) := tget_tset_same _ _ _ _
theorem modHed_hedSt_other {n k : Nat} {g s} (h : k ≠ n) : hedSt (modHed n g s) k = hedSt s k := tget_tset_other _ _ _ h
@[simp] theorem modPos_posSt_same {n : Nat} {g s} : posSt (modPos n g s) n = g (posSt s n) := tget_tset_same _ _ _ _
theorem modPos_posSt_other {n k : Nat} {g s} (h : k ≠ n) : posSt (modPos n g s) k = posSt s k := tget_tset_other _ _ _ h
@[simp] theorem modCmp_cmpSt_same {n : Nat} {g s} : cmpSt (modCmp n g s) n = g (cmpSt s n) := tget_tset_same _ _ _ _
theorem modCmp_cmpSt_other {n k : Nat} {g s} (h : k ≠ n) : cmpSt (modCmp n g s) k = cmpSt s k := tget_tset_other _ _ _ h
@[simp] theorem modBob_bobSt_same {n : Nat} {g s} : bobSt (modBob n g s) n = g (bobSt s n) := tget_tset_same _ _ _ _
theorem modBob_bobSt_other {n k : Nat} {g s} (h : k ≠ n) : bobSt (modBob n g s) k = bobSt s k := tget_tset_other _ _ _ h

/-! ### Registers -/

@[simp] theorem rget_rset_same {a v s} : rget (rset a v s) a = v := tget_tset_same _ _ _ _
theorem rget_rset_other {a b v s} (h : b ≠ a) : rget (rset a v s) b = rget s b := tget_tset_other _ _ _ h
@[simp] theorem rget_clr_same {a s} : rget (clr a s) a = wd (min 0xFFFFFFFF (countNow s a)) := rget_rset_same
@[simp] theorem countNow_clr {a b s} : countNow (clr a s) b = countNow s b := rfl
theorem rget_clr_other {a b s} (h : b ≠ a) : rget (clr a s) b = rget s b := rget_rset_other h
@[simp] theorem rget_count_same {a s} : rget (count a s) a = satInc (rget s a) := rget_rset_same
theorem rget_count_other {a b s} (h : b ≠ a) : rget (count a s) b = rget s b := rget_rset_other h
@[simp] theorem rget_setf_same {a lo n x s} : rget (setf a lo n x s) a = setFld (rget s a) lo n x := rget_rset_same
theorem rget_setf_other {a b lo n x s} (h : b ≠ a) : rget (setf a lo n x s) b = rget s b := rget_rset_other h
@[simp] theorem rget_setb_same {a i b s} : rget (setb a i b s) a = setBit (rget s a) i b := rget_rset_same
theorem rget_setb_other {a c i b s} (h : c ≠ a) : rget (setb a i b s) c = rget s c := by
  cases b <;> exact rget_rset_other h
theorem rget_clearBits_other {a c m s} (h : c ≠ a) : rget (clearBits a m s) c = rget s c := rget_rset_other h

/-- What a write-one-to-clear leaves of a register: the bits that the device has set in this cycle stay (R5). -/
@[simp] theorem rget_clearBits_same {a m s} : rget (clearBits a m s) a = rget s a &&& ~~~ (m &&& ~~~ setNow s a) := rget_rset_same

/-- Counters cleared read what they have counted in this cycle (R42), and no other register changes. -/
theorem rget_clrAll {as : List Nat} {s : State} {b : Nat} :
    rget (clrAll as s) b = if b ∈ as then wd (min 0xFFFFFFFF (countNow s b)) else rget s b := by
  unfold clrAll
  induction as generalizing s with
  | nil => simp
  | cons a as ih =>
    rw [List.foldl_cons, ih]
    by_cases h : b = a
    · subst h; simp
    · by_cases h2 : b ∈ as <;> simp [h, h2, rget_clr_other h]

/-! ### Bits and fields -/

/-- The bits of a word with a field set. -/
theorem bit_setFld {w : Word} {lo n x i : Nat} (hi : i < 32) :
    bit (setFld w lo n x) i = if lo ≤ i ∧ i < lo + n then x.testBit (i - lo) else bit w i := by
  have h1 : (2 ^ n - 1 : Nat).testBit (i - lo) = decide (i - lo < n) := Nat.testBit_two_pow_sub_one ..
  simp only [bit, setFld, fmask, wd, BitVec.getLsbD_or, BitVec.getLsbD_and, BitVec.getLsbD_not, BitVec.getLsbD_ofNat, hi,
    decide_true, Bool.true_and, Nat.testBit_shiftLeft, Nat.testBit_mod_two_pow, h1]
  by_cases a : lo ≤ i
  · by_cases b : i < lo + n
    · have : i - lo < n := by omega
      simp [a, b, this]
    · have : ¬ i - lo < n := by omega
      simp [a, b, this]
  · simp [a]

/-- A bit set reads back; every other bit stays. -/
theorem bit_setBit {w : Word} {i j : Nat} {b : Bool} (hj : j < 32) : bit (setBit w i b) j = if j = i then b else bit w j := by
  unfold setBit
  rw [bit_setFld hj]
  by_cases h : j = i
  · subst h
    cases b <;> simp [b2n]
  · have : ¬ (i ≤ j ∧ j < i + 1) := by omega
    rw [if_neg this, if_neg h]

/-- A field is made of its bits. -/
theorem fld_testBit {w : Word} {lo n i : Nat} : (fld w lo n).testBit i = (decide (i < n) && bit w (lo + i)) := by
  simp [fld, bit, Nat.testBit_mod_two_pow, Nat.testBit_shiftRight, BitVec.getLsbD]

/-- A field set reads back. -/
theorem fld_setFld_same {w : Word} {lo n x : Nat} (h : lo + n ≤ 32) : fld (setFld w lo n x) lo n = x % 2 ^ n := by
  apply Nat.eq_of_testBit_eq
  intro i
  rw [fld_testBit, Nat.testBit_mod_two_pow]
  by_cases hi : i < n
  · rw [bit_setFld (by omega)]
    have : lo ≤ lo + i ∧ lo + i < lo + n := by omega
    simp [hi, this]
  · simp [hi]

/-- Setting a field leaves a field apart from it as it was. -/
theorem fld_setFld_other {w : Word} {lo n lo' n' x : Nat} (h : lo' + n' ≤ 32) (d : lo' + n' ≤ lo ∨ lo + n ≤ lo') :
    fld (setFld w lo n x) lo' n' = fld w lo' n' := by
  apply Nat.eq_of_testBit_eq
  intro i
  rw [fld_testBit, fld_testBit]
  by_cases hi : i < n'
  · rw [bit_setFld (by omega)]
    have : ¬ (lo ≤ lo' + i ∧ lo' + i < lo + n) := by omega
    simp [this]
  · simp [hi]

/-- A bit set reads back. -/
theorem rb_setb_same {a i : Nat} {b : Bool} {s : State} (h : i < 32) : rb (setb a i b s) a i = b := by
  simp [rb, bit_setBit h]

/-- A field set reads back. -/
theorem rf_setf_same {a lo n x : Nat} {s : State} (h : lo + n ≤ 32) : rf (setf a lo n x s) a lo n = x % 2 ^ n := by
  simp [rf, fld_setFld_same h]

end Sys2Proof.Machine
end

