-- ==== Sys2Proof/Laws/Time.lean ====
section
/-!
SUPPORT. The laws of the forms in which the meanings are written: an effect at its instant, an access, the end of a cycle, and
the raise of a source.
-/

namespace Sys2Proof.Machine

/-! ### Instants -/

theorem advanceTo_now {t : Nat} {s : State} (h : t ≤ s.time) : advanceTo t s = s := by simp [advanceTo, h]

theorem atTime_now {t : Nat} {c : State → Bool} {f : State → State} {s : State} (h : t ≤ s.time) (hc : c s = true) :
    atTime t c f s = .next (settle (f s)) := by simp [atTime, advanceTo_now h, hc]

theorem atOpt_now {o : Option Nat} {t : Nat} {c : State → Bool} {f : State → State} {s : State} (ho : o = some t)
    (h : t ≤ s.time) (hc : c s = true) : atOpt o c f s = .next (settle (f s)) := by subst ho; exact atTime_now h hc

theorem nowIf_true {c : Bool} {f : State → State} {s : State} (hc : c = true) : nowIf c f s = .next (settle (f s)) := by
  simp [nowIf, hc]

/-- Every form answers a next state. -/
theorem atTime_next (t : Nat) (c : State → Bool) (f : State → State) (s : State) : ∃ u, atTime t c f s = .next u := ⟨_, rfl⟩
theorem nowIf_next (c : Bool) (f : State → State) (s : State) : ∃ u, nowIf c f s = .next u := ⟨_, rfl⟩
theorem atOpt_next (o : Option Nat) (c : State → Bool) (f : State → State) (s : State) : ∃ u, atOpt o c f s = .next u := by
  cases o <;> exact ⟨_, rfl⟩

/-- With nothing left to do, the end of the cycle changes nothing. -/
theorem settle_quiet {s : State} (h : Quiet s) : settle s = s := by
  have h1 : lossAbort s = s := by simp [lossAbort, h.2]
  have h2 : ∀ k, policyDrain k s = s := by
    intro k
    cases k with
    | zero => rfl
    | succ k => simp [policyDrain, h.1]
  simp [settle, h1, h2]

/-! ### Accesses -/

/-- With nothing due that answers to `c`, nothing takes place. -/
theorem performIf_none {c : Timed → Bool} {s : State} (h : ∀ x ∈ s.timed, c x.2 = true → s.time < x.1) : performIf c s = s := by
  have e : ∀ x ∈ s.timed, (decide (x.1 ≤ s.time) && c x.2) = false := fun x hx => by
    cases k : c x.2
    · simp
    · simp [Nat.not_le.mpr (h x hx k)]
  have f : s.timed.filter (fun x => decide (x.1 ≤ s.time) && c x.2) = [] :=
    List.filter_eq_nil_iff.mpr fun x hx => by simp [e x hx]
  have g : s.timed.filter (fun x => !(decide (x.1 ≤ s.time) && c x.2)) = s.timed :=
    List.filter_eq_self.mpr fun x hx => by rw [e x hx]; rfl
  simp only [performIf, f, g]; rfl

/-- With nothing due, the accesses of a cycle before one of place `r` change nothing. -/
theorem performAccesses_none {r : Nat} {s : State} (h : ∀ x ∈ s.timed, s.time < x.1) : performAccesses r s = s := by
  have p : ∀ c, performIf c s = s := fun c => performIf_none fun x hx _ => h x hx
  have w : ∀ (b : Bool) c, when_ b (performIf c) s = s := fun b c => by cases b <;> simp [when_, p]
  have l : ∀ {α : Type} (xs : List α) (g : α → State → State), (∀ x, g x s = s) → forEach xs g s = s := fun xs g hg => by
    induction xs with
    | nil => rfl
    | cons x xs ih => exact (congrArg (forEach xs g) (hg x)).trans ih
  have a : accessDue s = false := by
    simp only [accessDue, List.any_eq_false]
    intro x hx
    simp [Nat.not_le.mpr (h x hx)]
  have t : when_ (accessDue s) ticksFirst s = s := by simp [when_, a]
  simp only [performAccesses, t, p, l _ _ fun q => w _ _]

/-- Where no register makes ticks count, the ticks of a cycle have nothing to do. -/
theorem ticksFirst_none {s : State} (h : ∀ k, s.regs.any (ticking k) = false) : ticksFirst s = s := by
  have e : (upto 0 64).filter (fun k => s.regs.any (ticking k)) = [] := List.filter_eq_nil_iff.mpr fun k _ => by simp [h k]
  simp only [ticksFirst, e]; rfl

/-- An access that is the first of its cycle, with nothing due, notes its place alone (R101). -/
theorem inTurn_quiet {p : Path} {s : State} (h : ∀ x ∈ s.timed, s.time < x.1) (k : ∀ k, s.regs.any (ticking k) = false) :
    inTurn p s = modCyc (fun c => { c with rank := pathRank p }) s := by
  simp only [inTurn, takeTurn, ticksFirst_none k, performAccesses_none h]

theorem accessCmd_takes {p : Path} {f : State → State} {s : State} (h : TakesNow p s) :
    accessCmd p f s = .next (settle (f (inTurn p s))) :=
  atTime_now (Nat.max_le.2 ⟨h.2.1, h.2.2⟩) (by simpa using h.1)

/-- A write that is accepted. -/
theorem writeReg_accepts {p : Path} {a : Nat} {v : Word} {s : State} (h : Accepts p a v s) :
    writeReg p a v (inTurn p s) = applyWrite a v (inTurn p s) := by
  obtain ⟨ht, hp, hl, hr, hd⟩ := h
  revert hl hr hd
  generalize hg : inTurn p s = u
  intro hl hr hd
  have hpw : power u ≠ 2 := hg ▸ ht.2
  simp only [plainReg, Bool.and_eq_true, Bool.not_eq_true'] at hp
  have hw : (decide (a = Reg.mbxDb) && u.log.waking) = false := by
    by_cases e : a = Reg.mbxDb
    · simp [hd e]
    · simp [e]
  have hw' : ¬(a = Reg.mbxDb ∧ u.log.waking = true) := by simpa using hw
  simp [writeReg, hpw, hp.1.1.1.1.1.2, hl, hp.1.1.1.2, hp.1.1.2, hr, hp.1.2, hp.2, hw']

theorem writeCmd_accepts {p : Path} {a : Nat} {v : Word} {s : State} (h : Accepts p a v s) :
    writeCmd p a v s = .next (settle (applyWrite a v (inTurn p s))) := by
  rw [writeCmd, accessCmd_takes h.1.1, writeReg_accepts h]

theorem setBitCmd_accepts {p : Path} {a i : Nat} {s : State} (h : Accepts p a (setBit (keepWord s a) i true) s) :
    setBitCmd p a i s = .next (settle (applyWrite a (setBit (keepWord s a) i true) (inTurn p s))) := writeCmd_accepts h

theorem clearBitCmd_accepts {p : Path} {a i : Nat} {s : State} (h : Accepts p a (setBit (keepWord s a) i false) s) :
    clearBitCmd p a i s = .next (settle (applyWrite a (setBit (keepWord s a) i false) (inTurn p s))) := writeCmd_accepts h

theorem readCmd_takes {p : Path} {a : Nat} {s : State} (h : TakesNow p s) :
    readCmd p a s = .next (settle (readWordOp p a (inTurn p s))) := accessCmd_takes h

/-! ### Raises -/

/-- What a raise leaves: every field but `ev`, `regs`, `shed`, what is due later and the stamps of the cycle, and every register that
no raise writes. -/
def RaiseFrame (s t : State) : Prop :=
  t = { s with ev := t.ev, regs := t.regs, shed := t.shed, timed := t.timed, cyc := t.cyc } ∧
    ∀ a, ¬ RaiseReg a → rget t a = rget s a

theorem RaiseFrame.refl (s : State) : RaiseFrame s s := ⟨rfl, fun _ _ => rfl⟩

theorem RaiseFrame.trans {s t u : State} (h : RaiseFrame s t) (k : RaiseFrame t u) : RaiseFrame s u :=
  ⟨by rw [k.1, h.1], fun a ha => (k.2 a ha).trans (h.2 a ha)⟩

theorem RaiseFrame.setb {s : State} {a i : Nat} {b : Bool} (h : RaiseReg a) : RaiseFrame s (setb a i b s) :=
  ⟨by cases b <;> rfl, fun _ hc => rget_setb_other fun e => hc (e ▸ h)⟩

theorem RaiseFrame.count {s : State} {a : Nat} (h : RaiseReg a) : RaiseFrame s (count a s) :=
  ⟨rfl, fun _ hc => rget_count_other fun e => hc (e ▸ h)⟩

theorem RaiseFrame.foldl {α : Type} {f : State × List Nat → α → State × List Nat} {l : List α} {p : State × List Nat}
    (hf : ∀ p x, x ∈ l → RaiseFrame p.1 (f p x).1) : RaiseFrame p.1 (l.foldl f p).1 := by
  induction l generalizing p with
  | nil => exact .refl _
  | cons x l ih => exact (hf p x (by simp)).trans (ih fun p y hy => hf p y (by simp [hy]))

theorem fld_lt (w : Word) (lo n : Nat) : fld w lo n < 2 ^ n := Nat.mod_lt _ (Nat.two_pow_pos n)

/-- An update of the shed with something due later. -/
theorem RaiseFrame.later {s : State} {at_ : Nat} {x : Timed} {h : ShedSt} : RaiseFrame s (schedule at_ x { s with shed := h }) :=
  ⟨rfl, fun _ _ => rfl⟩

theorem expressRequest_frame (d : Nat) (g1 : Word) (p : State × List Nat) : RaiseFrame p.1 (expressRequest d g1 p).1 := by
  have he := fld_lt (tget 0 p.1.shed.table (4 * d)) 0 6
  unfold expressRequest
  dsimp only
  split
  · exact .count (.inr (.inr (by unfold Reg.engSkipCnt; omega)))
  · split
    · exact .count (.inr (.inr (by unfold Reg.shedExpMergeCnt; omega)))
    · exact RaiseFrame.later.trans (.setb (.inr (.inr (by unfold Reg.engEsts; omega))))

theorem taskRequest_frame (d : Nat) (p : State × List Nat) : RaiseFrame p.1 (taskRequest d p).1 := by
  unfold taskRequest
  dsimp only
  split
  · exact .count (.inr (.inr (by unfold Reg.shedMergeCnt; omega)))
  · exact ⟨rfl, fun _ _ => rfl⟩

theorem raiseOne_frame (src : Nat) (s : State) : RaiseFrame s (raiseOne src s).1 := by
  unfold raiseOne
  split
  · exact .refl s
  · next hc =>
    have hs : src < 4096 := by
      simp [reservedSource] at hc
      omega
    dsimp only
    refine .trans ?_ (RaiseFrame.foldl fun p d _ => expressRequest_frame d _ p)
    refine .trans ?_ (RaiseFrame.foldl (p := (_, [])) fun p d _ => taskRequest_frame d p)
    have h1 : ∀ (l : List Nat) (c : Nat → Bool) (t : State),
        RaiseFrame t (forEach l (fun i => when_ (c i) (setb Reg.selLevOut i true)) t) := by
      intro l c t
      induction l generalizing t with
      | nil => exact .refl t
      | cons i l ih =>
        refine .trans ?_ (ih _)
        dsimp only [when_]
        split
        · exact .setb (.inr (.inl rfl))
        · exact .refl t
    have h2 : ∀ (l : List Wire) (t : State), RaiseFrame t (forEach l (fun w => schedule w.at_ (.arrive w.dst)) t) := by
      intro l t
      induction l generalizing t with
      | nil => exact .refl t
      | cons w l ih => exact RaiseFrame.later.trans (ih _)
    have h3 : ∀ ev : EvSt, RaiseFrame s { s with ev := ev } := fun _ => ⟨rfl, fun _ _ => rfl⟩
    exact (((h3 _).trans (h2 _ _)).trans (.setb (.inl (by unfold Reg.srct; omega)))).trans (h1 _ _ _)

theorem raiseList_frame (k : Nat) (l : List Nat) (s : State) : RaiseFrame s (raiseList k l s) := by
  induction k generalizing l s with
  | zero => exact .refl s
  | succ k ih =>
    cases l with
    | nil => exact .refl s
    | cons x l => exact (raiseOne_frame x s).trans (ih _ _)

/-- A raise leaves every field but `ev`, `regs`, `shed`, `timed` and `cyc`, and every register that no raise writes. -/
theorem raise_frame (src : Nat) (s : State) : RaiseFrame s (raise src s) := raiseList_frame 64 [src] s

theorem raise_rget {src a : Nat} {s : State} (h : ¬ RaiseReg a) : rget (raise src s) a = rget s a := (raise_frame src s).2 a h

@[simp] theorem raise_time {src s} : (raise src s).time = s.time := by rw [(raise_frame src s).1]
@[simp] theorem raise_pairHi {src s} : (raise src s).pairHi = s.pairHi := by rw [(raise_frame src s).1]
@[simp] theorem raise_pairLo {src s} : (raise src s).pairLo = s.pairLo := by rw [(raise_frame src s).1]
@[simp] theorem raise_rdata {src s} : (raise src s).rdata = s.rdata := by rw [(raise_frame src s).1]
@[simp] theorem raise_vec {src s} : (raise src s).vec = s.vec := by rw [(raise_frame src s).1]
@[simp] theorem raise_ch {src s} : (raise src s).ch = s.ch := by rw [(raise_frame src s).1]
@[simp] theorem raise_owner {src s} : (raise src s).owner = s.owner := by rw [(raise_frame src s).1]
@[simp] theorem raise_harn {src s} : (raise src s).harn = s.harn := by rw [(raise_frame src s).1]
@[simp] theorem raise_reed {src s} : (raise src s).reed = s.reed := by rw [(raise_frame src s).1]
@[simp] theorem raise_tasks {src s} : (raise src s).tasks = s.tasks := by rw [(raise_frame src s).1]
@[simp] theorem raise_eng {src s} : (raise src s).eng = s.eng := by rw [(raise_frame src s).1]
@[simp] theorem raise_pos {src s} : (raise src s).pos = s.pos := by rw [(raise_frame src s).1]
@[simp] theorem raise_mem {src s} : (raise src s).mem = s.mem := by rw [(raise_frame src s).1]
@[simp] theorem raise_store {src s} : (raise src s).store = s.store := by rw [(raise_frame src s).1]
@[simp] theorem raise_code {src s} : (raise src s).code = s.code := by rw [(raise_frame src s).1]
@[simp] theorem raise_codeBad {src s} : (raise src s).codeBad = s.codeBad := by rw [(raise_frame src s).1]
@[simp] theorem raise_shu {src s} : (raise src s).shu = s.shu := by rw [(raise_frame src s).1]
@[simp] theorem raise_chg {src s} : (raise src s).chg = s.chg := by rw [(raise_frame src s).1]
@[simp] theorem raise_flt {src s} : (raise src s).flt = s.flt := by rw [(raise_frame src s).1]
@[simp] theorem raise_trd {src s} : (raise src s).trd = s.trd := by rw [(raise_frame src s).1]
@[simp] theorem raise_chain {src s} : (raise src s).chain = s.chain := by rw [(raise_frame src s).1]
@[simp] theorem raise_log {src s} : (raise src s).log = s.log := by rw [(raise_frame src s).1]
@[simp] theorem raise_hed {src s} : (raise src s).hed = s.hed := by rw [(raise_frame src s).1]
@[simp] theorem raise_cmp {src s} : (raise src s).cmp = s.cmp := by rw [(raise_frame src s).1]
@[simp] theorem raise_adc {src s} : (raise src s).adc = s.adc := by rw [(raise_frame src s).1]
@[simp] theorem raise_bob {src s} : (raise src s).bob = s.bob := by rw [(raise_frame src s).1]
@[simp] theorem raise_host {src s} : (raise src s).host = s.host := by rw [(raise_frame src s).1]
@[simp] theorem raise_pwr {src s} : (raise src s).pwr = s.pwr := by rw [(raise_frame src s).1]
@[simp] theorem raise_flash {src s} : (raise src s).flash = s.flash := by rw [(raise_frame src s).1]
@[simp] theorem raise_fuse {src s} : (raise src s).fuse = s.fuse := by rw [(raise_frame src s).1]
@[simp] theorem raise_sel {src s} : (raise src s).sel = s.sel := by rw [(raise_frame src s).1]
@[simp] theorem raise_tack {src s} : (raise src s).tack = s.tack := by rw [(raise_frame src s).1]
@[simp] theorem raise_tap {src s} : (raise src s).tap = s.tap := by rw [(raise_frame src s).1]
@[simp] theorem raise_freeN {src s} : (raise src s).freeN = s.freeN := by rw [(raise_frame src s).1]
@[simp] theorem raise_pending {src s} : (raise src s).pending = s.pending := by rw [(raise_frame src s).1]

end Sys2Proof.Machine
end

