-- ==== Sys2Proof/Laws/Answers.lean ====
section
/-!
SUPPORT. Every meaning answers a next state: one lemma for each shared form of a meaning, and one for each meaning.
-/

namespace Sys2Proof.Machine

theorem next_ok {s : State} : ∃ t, (Host.Outcome.next s : Result) = .next t := ⟨_, rfl⟩

theorem next_ite {c : Prop} [Decidable c] {a b : Result} (ha : ∃ t, a = .next t) (hb : ∃ t, b = .next t) :
    ∃ t, (if c then a else b) = .next t := by split <;> assumption

theorem ok_next {x0} : ∃ t, ok x0 = .next t := by
  unfold ok; with_reducible repeat' first | intro _ | apply next_ok | apply next_ite | split | dsimp only

theorem guarded_next {x0 x1 x2} : ∃ t, guarded x0 x1 x2 = .next t := by
  unfold guarded; with_reducible repeat' first | intro _ | apply next_ok | apply next_ite | split | dsimp only

theorem accessCmd_next {x0 x1 x2} : ∃ t, accessCmd x0 x1 x2 = .next t := by
  unfold accessCmd; with_reducible repeat' first | intro _ | apply next_ok | apply next_ite | apply atTime_next | split | dsimp only

theorem writeCmd_next {x0 x1 x2 x3} : ∃ t, writeCmd x0 x1 x2 x3 = .next t := by
  unfold writeCmd; with_reducible repeat' first | intro _ | apply next_ok | apply next_ite | apply accessCmd_next | split | dsimp only

theorem readCmd_next {x0 x1 x2} : ∃ t, readCmd x0 x1 x2 = .next t := by
  unfold readCmd; with_reducible repeat' first | intro _ | apply next_ok | apply next_ite | apply accessCmd_next | split | dsimp only

theorem setBitCmd_next {x0 x1 x2 x3} : ∃ t, setBitCmd x0 x1 x2 x3 = .next t := by
  unfold setBitCmd; with_reducible repeat' first | intro _ | apply next_ok | apply next_ite | apply writeCmd_next | split | dsimp only

theorem clearBitCmd_next {x0 x1 x2 x3} : ∃ t, clearBitCmd x0 x1 x2 x3 = .next t := by
  unfold clearBitCmd; with_reducible repeat' first | intro _ | apply next_ok | apply next_ite | apply writeCmd_next | split | dsimp only

theorem execRegisterWrite_next {x0 x1 x2 x3 x4} : ∃ t, execRegisterWrite x0 x1 x2 x3 x4 = .next t := by
  unfold execRegisterWrite; with_reducible repeat' first | intro _ | apply next_ok | apply next_ite | apply accessCmd_next | split | dsimp only

theorem execPairLoRead_next {x0 x1 x2} : ∃ t, execPairLoRead x0 x1 x2 = .next t := by
  unfold execPairLoRead; with_reducible repeat' first | intro _ | apply next_ok | apply next_ite | apply readCmd_next | split | dsimp only

theorem execPairLoWrite_next {x0 x1 x2 x3} : ∃ t, execPairLoWrite x0 x1 x2 x3 = .next t := by
  unfold execPairLoWrite; with_reducible repeat' first | intro _ | apply next_ok | apply next_ite | apply writeCmd_next | split | dsimp only

theorem execPairHiWrite_next {x0 x1 x2 x3} : ∃ t, execPairHiWrite x0 x1 x2 x3 = .next t := by
  unfold execPairHiWrite; with_reducible repeat' first | intro _ | apply next_ok | apply next_ite | apply writeCmd_next | split | dsimp only

theorem execTimeLoRead_next {x0 x1} : ∃ t, execTimeLoRead x0 x1 = .next t := by
  unfold execTimeLoRead; with_reducible repeat' first | intro _ | apply next_ok | apply next_ite | apply readCmd_next | split | dsimp only

theorem execCommit_next {x0 x1} : ∃ t, execCommit x0 x1 = .next t := by
  unfold execCommit; with_reducible repeat' first | intro _ | apply next_ok | apply next_ite | apply writeCmd_next | split | dsimp only

theorem execCntClr_next {x0 x1} : ∃ t, execCntClr x0 x1 = .next t := by
  unfold execCntClr; with_reducible repeat' first | intro _ | apply next_ok | apply next_ite | apply setBitCmd_next | split | dsimp only

theorem execPickStart_next {x0} : ∃ t, execPickStart x0 = .next t := by
  unfold execPickStart; with_reducible repeat' first | intro _ | apply next_ok | apply next_ite | apply atTime_next | split | dsimp only

theorem execScanPoint_next {x0} : ∃ t, execScanPoint x0 = .next t := by
  unfold execScanPoint; with_reducible repeat' first | intro _ | apply next_ok | apply next_ite | apply atTime_next | split | dsimp only

theorem execTaskStart_next {x0 x1} : ∃ t, execTaskStart x0 x1 = .next t := by
  unfold execTaskStart; with_reducible repeat' first | intro _ | apply next_ok | apply next_ite | apply atTime_next | split | dsimp only

theorem execExpressStart_next {x0 x1} : ∃ t, execExpressStart x0 x1 = .next t := by
  unfold execExpressStart; with_reducible repeat' first | intro _ | apply next_ok | apply next_ite | apply atTime_next | split | dsimp only

theorem execExpressLimit_next {x0 x1} : ∃ t, execExpressLimit x0 x1 = .next t := by
  unfold execExpressLimit; with_reducible repeat' first | intro _ | apply next_ok | apply next_ite | apply atOpt_next | split | dsimp only

theorem execContextResume_next {x0 x1} : ∃ t, execContextResume x0 x1 = .next t := by
  unfold execContextResume; with_reducible repeat' first | intro _ | apply next_ok | apply next_ite | apply atOpt_next | split | dsimp only

theorem execShedCntClr_next {x0 x1} : ∃ t, execShedCntClr x0 x1 = .next t := by
  unfold execShedCntClr; with_reducible repeat' first | intro _ | apply next_ok | apply next_ite | apply setBitCmd_next | split | dsimp only

theorem issue_next {x0 x1 x2 x3 x4 x5 x6 x7} : ∃ t, issue x0 x1 x2 x3 x4 x5 x6 x7 = .next t := by
  unfold issue; with_reducible repeat' first | intro _ | apply next_ok | apply next_ite | split | dsimp only

theorem execIll_next {x0 x1} : ∃ t, execIll x0 x1 = .next t := by
  unfold execIll; with_reducible repeat' first | intro _ | apply next_ok | apply next_ite | apply issue_next | split | dsimp only

theorem execNop_next {x0 x1} : ∃ t, execNop x0 x1 = .next t := by
  unfold execNop; with_reducible repeat' first | intro _ | apply next_ok | apply next_ite | apply issue_next | split | dsimp only

theorem execAluAdd_next {x0 x1 x2 x3 x4} : ∃ t, execAluAdd x0 x1 x2 x3 x4 = .next t := by
  unfold execAluAdd; with_reducible repeat' first | intro _ | apply next_ok | apply next_ite | apply issue_next | split | dsimp only

theorem execAluSub_next {x0 x1 x2 x3 x4} : ∃ t, execAluSub x0 x1 x2 x3 x4 = .next t := by
  unfold execAluSub; with_reducible repeat' first | intro _ | apply next_ok | apply next_ite | apply issue_next | split | dsimp only

theorem execAluAdc_next {x0 x1 x2 x3 x4} : ∃ t, execAluAdc x0 x1 x2 x3 x4 = .next t := by
  unfold execAluAdc; with_reducible repeat' first | intro _ | apply next_ok | apply next_ite | apply issue_next | split | dsimp only

theorem execAluSbc_next {x0 x1 x2 x3 x4} : ∃ t, execAluSbc x0 x1 x2 x3 x4 = .next t := by
  unfold execAluSbc; with_reducible repeat' first | intro _ | apply next_ok | apply next_ite | apply issue_next | split | dsimp only

theorem execAluAnd_next {x0 x1 x2 x3 x4} : ∃ t, execAluAnd x0 x1 x2 x3 x4 = .next t := by
  unfold execAluAnd; with_reducible repeat' first | intro _ | apply next_ok | apply next_ite | apply issue_next | split | dsimp only

theorem execAluOr_next {x0 x1 x2 x3 x4} : ∃ t, execAluOr x0 x1 x2 x3 x4 = .next t := by
  unfold execAluOr; with_reducible repeat' first | intro _ | apply next_ok | apply next_ite | apply issue_next | split | dsimp only

theorem execAluXor_next {x0 x1 x2 x3 x4} : ∃ t, execAluXor x0 x1 x2 x3 x4 = .next t := by
  unfold execAluXor; with_reducible repeat' first | intro _ | apply next_ok | apply next_ite | apply issue_next | split | dsimp only

theorem execAluShl_next {x0 x1 x2 x3 x4} : ∃ t, execAluShl x0 x1 x2 x3 x4 = .next t := by
  unfold execAluShl; with_reducible repeat' first | intro _ | apply next_ok | apply next_ite | apply issue_next | split | dsimp only

theorem execAluShr_next {x0 x1 x2 x3 x4} : ∃ t, execAluShr x0 x1 x2 x3 x4 = .next t := by
  unfold execAluShr; with_reducible repeat' first | intro _ | apply next_ok | apply next_ite | apply issue_next | split | dsimp only

theorem execAluSar_next {x0 x1 x2 x3 x4} : ∃ t, execAluSar x0 x1 x2 x3 x4 = .next t := by
  unfold execAluSar; with_reducible repeat' first | intro _ | apply next_ok | apply next_ite | apply issue_next | split | dsimp only

theorem execAluMul_next {x0 x1 x2 x3 x4} : ∃ t, execAluMul x0 x1 x2 x3 x4 = .next t := by
  unfold execAluMul; with_reducible repeat' first | intro _ | apply next_ok | apply next_ite | apply issue_next | split | dsimp only

theorem execAluMulh_next {x0 x1 x2 x3 x4} : ∃ t, execAluMulh x0 x1 x2 x3 x4 = .next t := by
  unfold execAluMulh; with_reducible repeat' first | intro _ | apply next_ok | apply next_ite | apply issue_next | split | dsimp only

theorem execAluMulhu_next {x0 x1 x2 x3 x4} : ∃ t, execAluMulhu x0 x1 x2 x3 x4 = .next t := by
  unfold execAluMulhu; with_reducible repeat' first | intro _ | apply next_ok | apply next_ite | apply issue_next | split | dsimp only

theorem execAluDivs_next {x0 x1 x2 x3 x4} : ∃ t, execAluDivs x0 x1 x2 x3 x4 = .next t := by
  unfold execAluDivs; with_reducible repeat' first | intro _ | apply next_ok | apply next_ite | apply issue_next | split | dsimp only

theorem execAluDivu_next {x0 x1 x2 x3 x4} : ∃ t, execAluDivu x0 x1 x2 x3 x4 = .next t := by
  unfold execAluDivu; with_reducible repeat' first | intro _ | apply next_ok | apply next_ite | apply issue_next | split | dsimp only

theorem execAluMin_next {x0 x1 x2 x3 x4} : ∃ t, execAluMin x0 x1 x2 x3 x4 = .next t := by
  unfold execAluMin; with_reducible repeat' first | intro _ | apply next_ok | apply next_ite | apply issue_next | split | dsimp only

theorem execAluMax_next {x0 x1 x2 x3 x4} : ∃ t, execAluMax x0 x1 x2 x3 x4 = .next t := by
  unfold execAluMax; with_reducible repeat' first | intro _ | apply next_ok | apply next_ite | apply issue_next | split | dsimp only

theorem execCmp_next {x0 x1 x2 x3} : ∃ t, execCmp x0 x1 x2 x3 = .next t := by
  unfold execCmp; with_reducible repeat' first | intro _ | apply next_ok | apply next_ite | apply issue_next | split | dsimp only

theorem execAddi_next {x0 x1 x2 x3 x4} : ∃ t, execAddi x0 x1 x2 x3 x4 = .next t := by
  unfold execAddi; with_reducible repeat' first | intro _ | apply next_ok | apply next_ite | apply issue_next | split | dsimp only

theorem execAndi_next {x0 x1 x2 x3 x4} : ∃ t, execAndi x0 x1 x2 x3 x4 = .next t := by
  unfold execAndi; with_reducible repeat' first | intro _ | apply next_ok | apply next_ite | apply issue_next | split | dsimp only

theorem execOri_next {x0 x1 x2 x3 x4} : ∃ t, execOri x0 x1 x2 x3 x4 = .next t := by
  unfold execOri; with_reducible repeat' first | intro _ | apply next_ok | apply next_ite | apply issue_next | split | dsimp only

theorem execXori_next {x0 x1 x2 x3 x4} : ∃ t, execXori x0 x1 x2 x3 x4 = .next t := by
  unfold execXori; with_reducible repeat' first | intro _ | apply next_ok | apply next_ite | apply issue_next | split | dsimp only

theorem execShli_next {x0 x1 x2 x3 x4} : ∃ t, execShli x0 x1 x2 x3 x4 = .next t := by
  unfold execShli; with_reducible repeat' first | intro _ | apply next_ok | apply next_ite | apply issue_next | split | dsimp only

theorem execShri_next {x0 x1 x2 x3 x4} : ∃ t, execShri x0 x1 x2 x3 x4 = .next t := by
  unfold execShri; with_reducible repeat' first | intro _ | apply next_ok | apply next_ite | apply issue_next | split | dsimp only

theorem execSari_next {x0 x1 x2 x3 x4} : ∃ t, execSari x0 x1 x2 x3 x4 = .next t := by
  unfold execSari; with_reducible repeat' first | intro _ | apply next_ok | apply next_ite | apply issue_next | split | dsimp only

theorem execCmpi_next {x0 x1 x2 x3} : ∃ t, execCmpi x0 x1 x2 x3 = .next t := by
  unfold execCmpi; with_reducible repeat' first | intro _ | apply next_ok | apply next_ite | apply issue_next | split | dsimp only

theorem execSel_next {x0 x1 x2 x3 x4 x5} : ∃ t, execSel x0 x1 x2 x3 x4 x5 = .next t := by
  unfold execSel; with_reducible repeat' first | intro _ | apply next_ok | apply next_ite | apply issue_next | split | dsimp only

theorem execLui_next {x0 x1 x2 x3} : ∃ t, execLui x0 x1 x2 x3 = .next t := by
  unfold execLui; with_reducible repeat' first | intro _ | apply next_ok | apply next_ite | apply issue_next | split | dsimp only

theorem execLi_next {x0 x1 x2 x3} : ∃ t, execLi x0 x1 x2 x3 = .next t := by
  unfold execLi; with_reducible repeat' first | intro _ | apply next_ok | apply next_ite | apply issue_next | split | dsimp only

theorem execPadd_next {x0 x1 x2 x3 x4} : ∃ t, execPadd x0 x1 x2 x3 x4 = .next t := by
  unfold execPadd; with_reducible repeat' first | intro _ | apply next_ok | apply next_ite | apply issue_next | split | dsimp only

theorem execPdif_next {x0 x1 x2 x3 x4} : ∃ t, execPdif x0 x1 x2 x3 x4 = .next t := by
  unfold execPdif; with_reducible repeat' first | intro _ | apply next_ok | apply next_ite | apply issue_next | split | dsimp only

theorem execLd_next {x0 x1 x2 x3 x4} : ∃ t, execLd x0 x1 x2 x3 x4 = .next t := by
  unfold execLd; with_reducible repeat' first | intro _ | apply next_ok | apply next_ite | apply issue_next | split | dsimp only

theorem execLdh_next {x0 x1 x2 x3 x4} : ∃ t, execLdh x0 x1 x2 x3 x4 = .next t := by
  unfold execLdh; with_reducible repeat' first | intro _ | apply next_ok | apply next_ite | apply issue_next | split | dsimp only

theorem execLdhu_next {x0 x1 x2 x3 x4} : ∃ t, execLdhu x0 x1 x2 x3 x4 = .next t := by
  unfold execLdhu; with_reducible repeat' first | intro _ | apply next_ok | apply next_ite | apply issue_next | split | dsimp only

theorem execLdbu_next {x0 x1 x2 x3 x4} : ∃ t, execLdbu x0 x1 x2 x3 x4 = .next t := by
  unfold execLdbu; with_reducible repeat' first | intro _ | apply next_ok | apply next_ite | apply issue_next | split | dsimp only

theorem execLdd_next {x0 x1 x2 x3 x4} : ∃ t, execLdd x0 x1 x2 x3 x4 = .next t := by
  unfold execLdd; with_reducible repeat' first | intro _ | apply next_ok | apply next_ite | apply issue_next | split | dsimp only

theorem execSt_next {x0 x1 x2 x3 x4} : ∃ t, execSt x0 x1 x2 x3 x4 = .next t := by
  unfold execSt; with_reducible repeat' first | intro _ | apply next_ok | apply next_ite | apply issue_next | split | dsimp only

theorem execSth_next {x0 x1 x2 x3 x4} : ∃ t, execSth x0 x1 x2 x3 x4 = .next t := by
  unfold execSth; with_reducible repeat' first | intro _ | apply next_ok | apply next_ite | apply issue_next | split | dsimp only

theorem execStb_next {x0 x1 x2 x3 x4} : ∃ t, execStb x0 x1 x2 x3 x4 = .next t := by
  unfold execStb; with_reducible repeat' first | intro _ | apply next_ok | apply next_ite | apply issue_next | split | dsimp only

theorem execStd_next {x0 x1 x2 x3 x4} : ∃ t, execStd x0 x1 x2 x3 x4 = .next t := by
  unfold execStd; with_reducible repeat' first | intro _ | apply next_ok | apply next_ite | apply issue_next | split | dsimp only

theorem execLdc_next {x0 x1 x2 x3 x4} : ∃ t, execLdc x0 x1 x2 x3 x4 = .next t := by
  unfold execLdc; with_reducible repeat' first | intro _ | apply next_ok | apply next_ite | apply issue_next | split | dsimp only

theorem execStc_next {x0 x1 x2 x3 x4} : ∃ t, execStc x0 x1 x2 x3 x4 = .next t := by
  unfold execStc; with_reducible repeat' first | intro _ | apply next_ok | apply next_ite | apply issue_next | split | dsimp only

theorem execFence_next {x0 x1} : ∃ t, execFence x0 x1 = .next t := by
  unfold execFence; with_reducible repeat' first | intro _ | apply next_ok | apply next_ite | apply issue_next | split | dsimp only

theorem execBr_next {x0 x1 x2 x3} : ∃ t, execBr x0 x1 x2 x3 = .next t := by
  unfold execBr; with_reducible repeat' first | intro _ | apply next_ok | apply next_ite | apply issue_next | split | dsimp only

theorem execJmp_next {x0 x1 x2} : ∃ t, execJmp x0 x1 x2 = .next t := by
  unfold execJmp; with_reducible repeat' first | intro _ | apply next_ok | apply next_ite | apply issue_next | split | dsimp only

theorem execJal_next {x0 x1 x2 x3} : ∃ t, execJal x0 x1 x2 x3 = .next t := by
  unfold execJal; with_reducible repeat' first | intro _ | apply next_ok | apply next_ite | apply issue_next | split | dsimp only

theorem execJr_next {x0 x1 x2} : ∃ t, execJr x0 x1 x2 = .next t := by
  unfold execJr; with_reducible repeat' first | intro _ | apply next_ok | apply next_ite | apply issue_next | split | dsimp only

theorem execEndTask_next {x0 x1 x2} : ∃ t, execEndTask x0 x1 x2 = .next t := by
  unfold execEndTask; with_reducible repeat' first | intro _ | apply next_ok | apply next_ite | apply issue_next | split | dsimp only

theorem execSig_next {x0 x1 x2} : ∃ t, execSig x0 x1 x2 = .next t := by
  unfold execSig; with_reducible repeat' first | intro _ | apply next_ok | apply next_ite | apply issue_next | split | dsimp only

theorem execEvr_next {x0 x1 x2 x3} : ∃ t, execEvr x0 x1 x2 x3 = .next t := by
  unfold execEvr; with_reducible repeat' first | intro _ | apply next_ok | apply next_ite | apply issue_next | split | dsimp only

theorem execSoftwareEvent_next {x0 x1} : ∃ t, execSoftwareEvent x0 x1 = .next t := by
  unfold execSoftwareEvent; with_reducible repeat' first | intro _ | apply next_ok | apply next_ite | apply atOpt_next | split | dsimp only

theorem execRds_next {x0 x1 x2 x3} : ∃ t, execRds x0 x1 x2 x3 = .next t := by
  unfold execRds; with_reducible repeat' first | intro _ | apply next_ok | apply next_ite | apply issue_next | split | dsimp only

theorem execRdl_next {x0 x1 x2 x3} : ∃ t, execRdl x0 x1 x2 x3 = .next t := by
  unfold execRdl; with_reducible repeat' first | intro _ | apply next_ok | apply next_ite | apply issue_next | split | dsimp only

theorem execChr_next {x0 x1 x2 x3 x4} : ∃ t, execChr x0 x1 x2 x3 x4 = .next t := by
  unfold execChr; with_reducible repeat' first | intro _ | apply next_ok | apply next_ite | apply issue_next | split | dsimp only

theorem execChw_next {x0 x1 x2 x3 x4} : ∃ t, execChw x0 x1 x2 x3 x4 = .next t := by
  unfold execChw; with_reducible repeat' first | intro _ | apply next_ok | apply next_ite | apply issue_next | split | dsimp only

theorem execChwLand_next {x0 x1} : ∃ t, execChwLand x0 x1 = .next t := by
  unfold execChwLand; with_reducible repeat' first | intro _ | apply next_ok | apply next_ite | apply atOpt_next | split | dsimp only

theorem execEdge_next {x0 x1 x2 x3 x4} : ∃ t, execEdge x0 x1 x2 x3 x4 = .next t := by
  unfold execEdge; with_reducible repeat' first | intro _ | apply next_ok | apply next_ite | apply issue_next | split | dsimp only

theorem execShuttleEdgeOut_next {x0 x1} : ∃ t, execShuttleEdgeOut x0 x1 = .next t := by
  unfold execShuttleEdgeOut; with_reducible repeat' first | intro _ | apply next_ok | apply next_ite | apply atOpt_next | split | dsimp only

theorem execArm_next {x0 x1 x2 x3} : ∃ t, execArm x0 x1 x2 x3 = .next t := by
  unfold execArm; with_reducible repeat' first | intro _ | apply next_ok | apply next_ite | apply issue_next | split | dsimp only

theorem execDisarm_next {x0 x1 x2 x3} : ∃ t, execDisarm x0 x1 x2 x3 = .next t := by
  unfold execDisarm; with_reducible repeat' first | intro _ | apply next_ok | apply next_ite | apply issue_next | split | dsimp only

theorem execLerp_next {x0 x1 x2 x3 x4 x5} : ∃ t, execLerp x0 x1 x2 x3 x4 x5 = .next t := by
  unfold execLerp; with_reducible repeat' first | intro _ | apply next_ok | apply next_ite | apply issue_next | split | dsimp only

theorem execLoadResult_next {x0 x1 x2} : ∃ t, execLoadResult x0 x1 x2 = .next t := by
  unfold execLoadResult; with_reducible repeat' first | intro _ | apply next_ok | apply next_ite | apply atOpt_next | split | dsimp only

theorem execStoreAck_next {x0 x1 x2} : ∃ t, execStoreAck x0 x1 x2 = .next t := by
  unfold execStoreAck; with_reducible repeat' first | intro _ | apply next_ok | apply next_ite | apply atOpt_next | split | dsimp only

theorem execCorrectedWriteBack_next {x0 x1} : ∃ t, execCorrectedWriteBack x0 x1 = .next t := by
  unfold execCorrectedWriteBack; with_reducible repeat' first | intro _ | apply next_ok | apply next_ite | apply nowIf_next | split | dsimp only

theorem execHalt_next {x0 x1 x2} : ∃ t, execHalt x0 x1 x2 = .next t := by
  unfold execHalt; with_reducible repeat' first | intro _ | apply next_ok | apply next_ite | apply setBitCmd_next | split | dsimp only

theorem execHalted_next {x0 x1} : ∃ t, execHalted x0 x1 = .next t := by
  unfold execHalted; with_reducible repeat' first | intro _ | apply next_ok | apply next_ite | apply atTime_next | split | dsimp only

theorem execResume_next {x0 x1 x2} : ∃ t, execResume x0 x1 x2 = .next t := by
  unfold execResume; with_reducible repeat' first | intro _ | apply next_ok | apply next_ite | apply clearBitCmd_next | split | dsimp only

theorem execShuStep_next {x0 x1 x2} : ∃ t, execShuStep x0 x1 x2 = .next t := by
  unfold execShuStep; with_reducible repeat' first | intro _ | apply next_ok | apply next_ite | apply setBitCmd_next | split | dsimp only

theorem execBreakpointHit_next {x0 x1} : ∃ t, execBreakpointHit x0 x1 = .next t := by
  unfold execBreakpointHit; with_reducible repeat' first | intro _ | apply next_ok | apply next_ite | apply atTime_next | split | dsimp only

theorem execShuCntClr_next {x0 x1 x2} : ∃ t, execShuCntClr x0 x1 x2 = .next t := by
  unfold execShuCntClr; with_reducible repeat' first | intro _ | apply next_ok | apply next_ite | apply setBitCmd_next | split | dsimp only

theorem execHarnessTick_next {x0 x1} : ∃ t, execHarnessTick x0 x1 = .next t := by
  unfold execHarnessTick; with_reducible repeat' first | intro _ | apply next_ok | apply next_ite | apply atTime_next | split | dsimp only

theorem execEdgeCountAction_next {x0 x1} : ∃ t, execEdgeCountAction x0 x1 = .next t := by
  unfold execEdgeCountAction; with_reducible repeat' first | intro _ | apply next_ok | apply next_ite | apply atOpt_next | split | dsimp only

theorem execLeaveOff_next {x0 x1 x2 x3} : ∃ t, execLeaveOff x0 x1 x2 x3 = .next t := by
  unfold execLeaveOff; with_reducible repeat' first | intro _ | apply next_ok | apply next_ite | apply writeCmd_next | split | dsimp only

theorem execEnterOff_next {x0 x1 x2 x3} : ∃ t, execEnterOff x0 x1 x2 x3 = .next t := by
  unfold execEnterOff; with_reducible repeat' first | intro _ | apply next_ok | apply next_ite | apply writeCmd_next | split | dsimp only

theorem execStart_next {x0 x1 x2} : ∃ t, execStart x0 x1 x2 = .next t := by
  unfold execStart; with_reducible repeat' first | intro _ | apply next_ok | apply next_ite | apply setBitCmd_next | split | dsimp only

theorem execRldWrite_next {x0 x1 x2 x3} : ∃ t, execRldWrite x0 x1 x2 x3 = .next t := by
  unfold execRldWrite; with_reducible repeat' first | intro _ | apply next_ok | apply next_ite | apply writeCmd_next | split | dsimp only

theorem execCompareWrite_next {x0 x1 x2 x3 x4} : ∃ t, execCompareWrite x0 x1 x2 x3 x4 = .next t := by
  unfold execCompareWrite; with_reducible repeat' first | intro _ | apply next_ok | apply next_ite | apply writeCmd_next | split | dsimp only

theorem execFineWrite_next {x0 x1 x2 x3} : ∃ t, execFineWrite x0 x1 x2 x3 = .next t := by
  unfold execFineWrite; with_reducible repeat' first | intro _ | apply next_ok | apply next_ite | apply writeCmd_next | split | dsimp only

theorem execStagedWrite_next {x0 x1 x2 x3 x4} : ∃ t, execStagedWrite x0 x1 x2 x3 x4 = .next t := by
  unfold execStagedWrite; with_reducible repeat' first | intro _ | apply next_ok | apply next_ite | apply writeCmd_next | split | dsimp only

theorem execCapRead_next {x0 x1 x2} : ∃ t, execCapRead x0 x1 x2 = .next t := by
  unfold execCapRead; with_reducible repeat' first | intro _ | apply next_ok | apply next_ite | apply readCmd_next | split | dsimp only

theorem execFiltWrite_next {x0 x1 x2 x3} : ∃ t, execFiltWrite x0 x1 x2 x3 = .next t := by
  unfold execFiltWrite; with_reducible repeat' first | intro _ | apply next_ok | apply next_ite | apply writeCmd_next | split | dsimp only

theorem execEvcfgWrite_next {x0 x1 x2 x3} : ∃ t, execEvcfgWrite x0 x1 x2 x3 = .next t := by
  unfold execEvcfgWrite; with_reducible repeat' first | intro _ | apply next_ok | apply next_ite | apply writeCmd_next | split | dsimp only

theorem execPrescWrite_next {x0 x1 x2 x3} : ∃ t, execPrescWrite x0 x1 x2 x3 = .next t := by
  unfold execPrescWrite; with_reducible repeat' first | intro _ | apply next_ok | apply next_ite | apply writeCmd_next | split | dsimp only

theorem execChCntClr_next {x0 x1 x2} : ∃ t, execChCntClr x0 x1 x2 = .next t := by
  unfold execChCntClr; with_reducible repeat' first | intro _ | apply next_ok | apply next_ite | apply setBitCmd_next | split | dsimp only

theorem execPinTransition_next {x0 x1 x2 x3} : ∃ t, execPinTransition x0 x1 x2 x3 = .next t := by
  unfold execPinTransition; with_reducible repeat' first | intro _ | apply next_ok | apply next_ite | apply nowIf_next | split | dsimp only

theorem execFilterSample_next {x0 x1} : ∃ t, execFilterSample x0 x1 = .next t := by
  unfold execFilterSample; with_reducible repeat' first | intro _ | apply next_ok | apply next_ite | apply atTime_next | split | dsimp only

theorem execLoad_next {x0 x1 x2} : ∃ t, execLoad x0 x1 x2 = .next t := by
  unfold execLoad; with_reducible repeat' first | intro _ | apply next_ok | apply next_ite | apply writeCmd_next | split | dsimp only

theorem execLoadAll_next {x0 x1} : ∃ t, execLoadAll x0 x1 = .next t := by
  unfold execLoadAll; with_reducible repeat' first | intro _ | apply next_ok | apply next_ite | apply writeCmd_next | split | dsimp only

theorem execLoadNow_next {x0 x1 x2} : ∃ t, execLoadNow x0 x1 x2 = .next t := by
  unfold execLoadNow; with_reducible repeat' first | intro _ | apply next_ok | apply next_ite | apply writeCmd_next | split | dsimp only

theorem execTripCut_next {x0 x1 x2} : ∃ t, execTripCut x0 x1 x2 = .next t := by
  unfold execTripCut; with_reducible repeat' first | intro _ | apply next_ok | apply next_ite | apply nowIf_next | split | dsimp only

theorem execBlankingEnd_next {x0 x1} : ∃ t, execBlankingEnd x0 x1 = .next t := by
  unfold execBlankingEnd; with_reducible repeat' first | intro _ | apply next_ok | apply next_ite | apply atTime_next | split | dsimp only

theorem execTripWrite_next {x0 x1 x2 x3 x4} : ∃ t, execTripWrite x0 x1 x2 x3 x4 = .next t := by
  unfold execTripWrite; with_reducible repeat' first | intro _ | apply next_ok | apply next_ite | apply writeCmd_next | split | dsimp only

theorem execTripfClear_next {x0 x1 x2 x3} : ∃ t, execTripfClear x0 x1 x2 x3 = .next t := by
  unfold execTripfClear; with_reducible repeat' first | intro _ | apply next_ok | apply next_ite | apply writeCmd_next | split | dsimp only

theorem execHarnCntClr_next {x0 x1 x2} : ∃ t, execHarnCntClr x0 x1 x2 = .next t := by
  unfold execHarnCntClr; with_reducible repeat' first | intro _ | apply next_ok | apply next_ite | apply setBitCmd_next | split | dsimp only

theorem execDeadTimeEnd_next {x0 x1 x2} : ∃ t, execDeadTimeEnd x0 x1 x2 = .next t := by
  unfold execDeadTimeEnd; with_reducible repeat' first | intro _ | apply next_ok | apply next_ite | apply atOpt_next | split | dsimp only

theorem execReedCntClr_next {x0 x1 x2} : ∃ t, execReedCntClr x0 x1 x2 = .next t := by
  unfold execReedCntClr; with_reducible repeat' first | intro _ | apply next_ok | apply next_ite | apply setBitCmd_next | split | dsimp only

theorem execCalibrationStep_next {x0 x1 x2} : ∃ t, execCalibrationStep x0 x1 x2 = .next t := by
  unfold execCalibrationStep; with_reducible repeat' first | intro _ | apply next_ok | apply next_ite | apply nowIf_next | split | dsimp only

theorem execCardPlace_next {x0} : ∃ t, execCardPlace x0 = .next t := by
  unfold execCardPlace; with_reducible repeat' first | intro _ | apply next_ok | apply next_ite | apply atOpt_next | split | dsimp only

theorem execNearPromotion_next {x0 x1} : ∃ t, execNearPromotion x0 x1 = .next t := by
  unfold execNearPromotion; with_reducible repeat' first | intro _ | apply next_ok | apply next_ite | apply atTime_next | split | dsimp only

theorem actAt_next {x0 x1 x2} : ∃ t, actAt x0 x1 x2 = .next t := by
  unfold actAt; with_reducible repeat' first | intro _ | apply next_ok | apply next_ite | split | dsimp only

theorem fireAt_next {x0 x1 x2} : ∃ t, fireAt x0 x1 x2 = .next t := by
  unfold fireAt; with_reducible repeat' first | intro _ | apply next_ok | apply next_ite | apply actAt_next | split | dsimp only

theorem execCardSet_next {x0 x1} : ∃ t, execCardSet x0 x1 = .next t := by
  unfold execCardSet; with_reducible repeat' first | intro _ | apply next_ok | apply next_ite | apply fireAt_next | split | dsimp only

theorem execCardClear_next {x0 x1} : ∃ t, execCardClear x0 x1 = .next t := by
  unfold execCardClear; with_reducible repeat' first | intro _ | apply next_ok | apply next_ite | apply fireAt_next | split | dsimp only

theorem execCardToggle_next {x0 x1} : ∃ t, execCardToggle x0 x1 = .next t := by
  unfold execCardToggle; with_reducible repeat' first | intro _ | apply next_ok | apply next_ite | apply fireAt_next | split | dsimp only

theorem execCardPulse_next {x0 x1} : ∃ t, execCardPulse x0 x1 = .next t := by
  unfold execCardPulse; with_reducible repeat' first | intro _ | apply next_ok | apply next_ite | apply fireAt_next | split | dsimp only

theorem execLoadCmpa_next {x0 x1} : ∃ t, execLoadCmpa x0 x1 = .next t := by
  unfold execLoadCmpa; with_reducible repeat' first | intro _ | apply next_ok | apply next_ite | apply fireAt_next | split | dsimp only

theorem execLoadCmpb_next {x0 x1} : ∃ t, execLoadCmpb x0 x1 = .next t := by
  unfold execLoadCmpb; with_reducible repeat' first | intro _ | apply next_ok | apply next_ite | apply fireAt_next | split | dsimp only

theorem execUserEvent_next {x0 x1} : ∃ t, execUserEvent x0 x1 = .next t := by
  unfold execUserEvent; with_reducible repeat' first | intro _ | apply next_ok | apply next_ite | apply fireAt_next | split | dsimp only

theorem execExpress_next {x0 x1} : ∃ t, execExpress x0 x1 = .next t := by
  unfold execExpress; with_reducible repeat' first | intro _ | apply next_ok | apply next_ite | apply fireAt_next | split | dsimp only

theorem execPulseEnd_next {x0 x1} : ∃ t, execPulseEnd x0 x1 = .next t := by
  unfold execPulseEnd; with_reducible repeat' first | intro _ | apply next_ok | apply next_ite | apply actAt_next | split | dsimp only

theorem execCapEnd_next {x0 x1} : ∃ t, execCapEnd x0 x1 = .next t := by
  unfold execCapEnd; with_reducible repeat' first | intro _ | apply next_ok | apply next_ite | apply actAt_next | split | dsimp only

theorem execCrRdWrite_next {x0 x1 x2} : ∃ t, execCrRdWrite x0 x1 x2 = .next t := by
  unfold execCrRdWrite; with_reducible repeat' first | intro _ | apply next_ok | apply next_ite | apply writeCmd_next | split | dsimp only

theorem execRingConfigWrite_next {x0 x1 x2 x3} : ∃ t, execRingConfigWrite x0 x1 x2 x3 = .next t := by
  unfold execRingConfigWrite; with_reducible repeat' first | intro _ | apply next_ok | apply next_ite | apply writeCmd_next | split | dsimp only

theorem execCardCntClr_next {x0 x1} : ∃ t, execCardCntClr x0 x1 = .next t := by
  unfold execCardCntClr; with_reducible repeat' first | intro _ | apply next_ok | apply next_ite | apply setBitCmd_next | split | dsimp only

theorem execTooth_next {x0 x1 x2} : ∃ t, execTooth x0 x1 x2 = .next t := by
  unfold execTooth; with_reducible repeat' first | intro _ | apply next_ok | apply next_ite | apply nowIf_next | split | dsimp only

theorem execCycleStart_next {x0 x1} : ∃ t, execCycleStart x0 x1 = .next t := by
  unfold execCycleStart; with_reducible repeat' first | intro _ | apply next_ok | apply next_ite | apply atOpt_next | split | dsimp only

theorem execSecondaryEdge_next {x0 x1 x2} : ∃ t, execSecondaryEdge x0 x1 x2 = .next t := by
  unfold execSecondaryEdge; with_reducible repeat' first | intro _ | apply next_ok | apply next_ite | apply nowIf_next | split | dsimp only

theorem execSecondaryWindowMiss_next {x0 x1 x2} : ∃ t, execSecondaryWindowMiss x0 x1 x2 = .next t := by
  unfold execSecondaryWindowMiss; with_reducible repeat' first | intro _ | apply next_ok | apply next_ite | apply nowIf_next | split | dsimp only

theorem execStall_next {x0 x1} : ∃ t, execStall x0 x1 = .next t := by
  unfold execStall; with_reducible repeat' first | intro _ | apply next_ok | apply next_ite | apply atOpt_next | split | dsimp only

theorem execBeaconMiss_next {x0 x1} : ∃ t, execBeaconMiss x0 x1 = .next t := by
  unfold execBeaconMiss; with_reducible repeat' first | intro _ | apply next_ok | apply next_ite | apply nowIf_next | split | dsimp only

theorem execTrackerEnable_next {x0 x1 x2 x3} : ∃ t, execTrackerEnable x0 x1 x2 x3 = .next t := by
  unfold execTrackerEnable; with_reducible repeat' first | intro _ | apply next_ok | apply next_ite | apply writeCmd_next | split | dsimp only

theorem execTrackerDisable_next {x0 x1 x2} : ∃ t, execTrackerDisable x0 x1 x2 = .next t := by
  unfold execTrackerDisable; with_reducible repeat' first | intro _ | apply next_ok | apply next_ite | apply clearBitCmd_next | split | dsimp only

theorem execPhaseRead_next {x0 x1 x2} : ∃ t, execPhaseRead x0 x1 x2 = .next t := by
  unfold execPhaseRead; with_reducible repeat' first | intro _ | apply next_ok | apply next_ite | apply readCmd_next | split | dsimp only

theorem execTrRdWrite_next {x0 x1 x2 x3} : ∃ t, execTrRdWrite x0 x1 x2 x3 = .next t := by
  unfold execTrRdWrite; with_reducible repeat' first | intro _ | apply next_ok | apply next_ite | apply writeCmd_next | split | dsimp only

theorem execTrConfigWrite_next {x0 x1 x2 x3 x4} : ∃ t, execTrConfigWrite x0 x1 x2 x3 x4 = .next t := by
  unfold execTrConfigWrite; with_reducible repeat' first | intro _ | apply next_ok | apply next_ite | apply writeCmd_next | split | dsimp only

theorem execTrdCntClr_next {x0 x1 x2} : ∃ t, execTrdCntClr x0 x1 x2 = .next t := by
  unfold execTrdCntClr; with_reducible repeat' first | intro _ | apply next_ok | apply next_ite | apply setBitCmd_next | split | dsimp only

theorem execPosEnable_next {x0 x1 x2 x3} : ∃ t, execPosEnable x0 x1 x2 x3 = .next t := by
  unfold execPosEnable; with_reducible repeat' first | intro _ | apply next_ok | apply next_ite | apply writeCmd_next | split | dsimp only

theorem execPosDisable_next {x0 x1 x2} : ∃ t, execPosDisable x0 x1 x2 = .next t := by
  unfold execPosDisable; with_reducible repeat' first | intro _ | apply next_ok | apply next_ite | apply clearBitCmd_next | split | dsimp only

theorem execPosFilterSample_next {x0 x1} : ∃ t, execPosFilterSample x0 x1 = .next t := by
  unfold execPosFilterSample; with_reducible repeat' first | intro _ | apply next_ok | apply next_ite | apply atTime_next | split | dsimp only

theorem execPosLoad_next {x0 x1 x2} : ∃ t, execPosLoad x0 x1 x2 = .next t := by
  unfold execPosLoad; with_reducible repeat' first | intro _ | apply next_ok | apply next_ite | apply setBitCmd_next | split | dsimp only

theorem execLatch_next {x0 x1 x2} : ∃ t, execLatch x0 x1 x2 = .next t := by
  unfold execLatch; with_reducible repeat' first | intro _ | apply next_ok | apply next_ite | apply setBitCmd_next | split | dsimp only

theorem execEventLatch_next {x0 x1} : ∃ t, execEventLatch x0 x1 = .next t := by
  unfold execEventLatch; with_reducible repeat' first | intro _ | apply next_ok | apply next_ite | apply atOpt_next | split | dsimp only

theorem execLatPosRead_next {x0 x1 x2} : ∃ t, execLatPosRead x0 x1 x2 = .next t := by
  unfold execLatPosRead; with_reducible repeat' first | intro _ | apply next_ok | apply next_ite | apply readCmd_next | split | dsimp only

theorem execStandstill_next {x0 x1} : ∃ t, execStandstill x0 x1 = .next t := by
  unfold execStandstill; with_reducible repeat' first | intro _ | apply next_ok | apply next_ite | apply atOpt_next | split | dsimp only

theorem execSerStart_next {x0 x1 x2} : ∃ t, execSerStart x0 x1 x2 = .next t := by
  unfold execSerStart; with_reducible repeat' first | intro _ | apply next_ok | apply next_ite | apply setBitCmd_next | split | dsimp only

theorem execFrameStart_next {x0 x1} : ∃ t, execFrameStart x0 x1 = .next t := by
  unfold execFrameStart; with_reducible repeat' first | intro _ | apply next_ok | apply next_ite | apply atOpt_next | split | dsimp only

theorem execWordLanding_next {x0 x1 x2} : ∃ t, execWordLanding x0 x1 x2 = .next t := by
  unfold execWordLanding; with_reducible repeat' first | intro _ | apply next_ok | apply next_ite | apply atOpt_next | split | dsimp only

theorem execDataTimeout_next {x0 x1} : ∃ t, execDataTimeout x0 x1 = .next t := by
  unfold execDataTimeout; with_reducible repeat' first | intro _ | apply next_ok | apply next_ite | apply atOpt_next | split | dsimp only

theorem execPosCntClr_next {x0 x1 x2} : ∃ t, execPosCntClr x0 x1 x2 = .next t := by
  unfold execPosCntClr; with_reducible repeat' first | intro _ | apply next_ok | apply next_ite | apply setBitCmd_next | split | dsimp only

theorem hedExec_next {x0 x1 x2 x3 x4} : ∃ t, hedExec x0 x1 x2 x3 x4 = .next t := by
  unfold hedExec; with_reducible repeat' first | intro _ | apply next_ok | apply next_ite | apply atTime_next | split | dsimp only

theorem execHedJmp_next {x0 x1 x2} : ∃ t, execHedJmp x0 x1 x2 = .next t := by
  unfold execHedJmp; with_reducible repeat' first | intro _ | apply next_ok | apply next_ite | apply hedExec_next | split | dsimp only

theorem execHedWait_next {x0 x1 x2} : ∃ t, execHedWait x0 x1 x2 = .next t := by
  unfold execHedWait; with_reducible repeat' first | intro _ | apply next_ok | apply next_ite | apply hedExec_next | split | dsimp only

theorem execWaitLimit_next {x0 x1} : ∃ t, execWaitLimit x0 x1 = .next t := by
  unfold execWaitLimit; with_reducible repeat' first | intro _ | apply next_ok | apply next_ite | apply atTime_next | split | dsimp only

theorem execHedOut_next {x0 x1 x2} : ∃ t, execHedOut x0 x1 x2 = .next t := by
  unfold execHedOut; with_reducible repeat' first | intro _ | apply next_ok | apply next_ite | apply hedExec_next | split | dsimp only

theorem execHedIn_next {x0 x1 x2} : ∃ t, execHedIn x0 x1 x2 = .next t := by
  unfold execHedIn; with_reducible repeat' first | intro _ | apply next_ok | apply next_ite | apply hedExec_next | split | dsimp only

theorem execHedPull_next {x0 x1 x2} : ∃ t, execHedPull x0 x1 x2 = .next t := by
  unfold execHedPull; with_reducible repeat' first | intro _ | apply next_ok | apply next_ite | apply hedExec_next | split | dsimp only

theorem execHedPush_next {x0 x1 x2} : ∃ t, execHedPush x0 x1 x2 = .next t := by
  unfold execHedPush; with_reducible repeat' first | intro _ | apply next_ok | apply next_ite | apply hedExec_next | split | dsimp only

theorem execHedSet_next {x0 x1 x2} : ∃ t, execHedSet x0 x1 x2 = .next t := by
  unfold execHedSet; with_reducible repeat' first | intro _ | apply next_ok | apply next_ite | apply hedExec_next | split | dsimp only

theorem execHedMov_next {x0 x1 x2} : ∃ t, execHedMov x0 x1 x2 = .next t := by
  unfold execHedMov; with_reducible repeat' first | intro _ | apply next_ok | apply next_ite | apply hedExec_next | split | dsimp only

theorem execHedCrc_next {x0 x1 x2} : ∃ t, execHedCrc x0 x1 x2 = .next t := by
  unfold execHedCrc; with_reducible repeat' first | intro _ | apply next_ok | apply next_ite | apply hedExec_next | split | dsimp only

theorem execHedStamp_next {x0 x1 x2} : ∃ t, execHedStamp x0 x1 x2 = .next t := by
  unfold execHedStamp; with_reducible repeat' first | intro _ | apply next_ok | apply next_ite | apply hedExec_next | split | dsimp only

theorem execHedInvalidOpcode_next {x0 x1} : ∃ t, execHedInvalidOpcode x0 x1 = .next t := by
  unfold execHedInvalidOpcode; with_reducible repeat' first | intro _ | apply next_ok | apply next_ite | apply atTime_next | split | dsimp only

theorem execHedTriggerPending_next {x0 x1} : ∃ t, execHedTriggerPending x0 x1 = .next t := by
  unfold execHedTriggerPending; with_reducible repeat' first | intro _ | apply next_ok | apply next_ite | apply atOpt_next | split | dsimp only

theorem execTxdata_next {x0 x1 x2 x3} : ∃ t, execTxdata x0 x1 x2 x3 = .next t := by
  unfold execTxdata; with_reducible repeat' first | intro _ | apply next_ok | apply next_ite | apply writeCmd_next | split | dsimp only

theorem execRxdata_next {x0 x1 x2} : ∃ t, execRxdata x0 x1 x2 = .next t := by
  unfold execRxdata; with_reducible repeat' first | intro _ | apply next_ok | apply next_ite | apply readCmd_next | split | dsimp only

theorem execHedStart_next {x0 x1 x2} : ∃ t, execHedStart x0 x1 x2 = .next t := by
  unfold execHedStart; with_reducible repeat' first | intro _ | apply next_ok | apply next_ite | apply setBitCmd_next | split | dsimp only

theorem execHedStop_next {x0 x1 x2} : ∃ t, execHedStop x0 x1 x2 = .next t := by
  unfold execHedStop; with_reducible repeat' first | intro _ | apply next_ok | apply next_ite | apply clearBitCmd_next | split | dsimp only

theorem execFifoClr_next {x0 x1 x2} : ∃ t, execFifoClr x0 x1 x2 = .next t := by
  unfold execFifoClr; with_reducible repeat' first | intro _ | apply next_ok | apply next_ite | apply setBitCmd_next | split | dsimp only

theorem execCleanSwap_next {x0 x1} : ∃ t, execCleanSwap x0 x1 = .next t := by
  unfold execCleanSwap; with_reducible repeat' first | intro _ | apply next_ok | apply next_ite | apply atTime_next | split | dsimp only

theorem execForcedSwap_next {x0 x1} : ∃ t, execForcedSwap x0 x1 = .next t := by
  unfold execForcedSwap; with_reducible repeat' first | intro _ | apply next_ok | apply next_ite | apply atOpt_next | split | dsimp only

theorem execHedHalt_next {x0 x1 x2} : ∃ t, execHedHalt x0 x1 x2 = .next t := by
  unfold execHedHalt; with_reducible repeat' first | intro _ | apply next_ok | apply next_ite | apply setBitCmd_next | split | dsimp only

theorem execHedResume_next {x0 x1 x2} : ∃ t, execHedResume x0 x1 x2 = .next t := by
  unfold execHedResume; with_reducible repeat' first | intro _ | apply next_ok | apply next_ite | apply clearBitCmd_next | split | dsimp only

theorem execHedStep_next {x0 x1 x2} : ∃ t, execHedStep x0 x1 x2 = .next t := by
  unfold execHedStep; with_reducible repeat' first | intro _ | apply next_ok | apply next_ite | apply setBitCmd_next | split | dsimp only

theorem execHedCntClr_next {x0 x1 x2} : ∃ t, execHedCntClr x0 x1 x2 = .next t := by
  unfold execHedCntClr; with_reducible repeat' first | intro _ | apply next_ok | apply next_ite | apply setBitCmd_next | split | dsimp only

theorem execComparatorChange_next {x0 x1 x2 x3} : ∃ t, execComparatorChange x0 x1 x2 x3 = .next t := by
  unfold execComparatorChange; with_reducible repeat' first | intro _ | apply next_ok | apply next_ite | apply atTime_next | split | dsimp only

theorem execComparatorEnable_next {x0 x1 x2 x3} : ∃ t, execComparatorEnable x0 x1 x2 x3 = .next t := by
  unfold execComparatorEnable; with_reducible repeat' first | intro _ | apply next_ok | apply next_ite | apply writeCmd_next | split | dsimp only

theorem execComparatorDisable_next {x0 x1 x2} : ∃ t, execComparatorDisable x0 x1 x2 = .next t := by
  unfold execComparatorDisable; with_reducible repeat' first | intro _ | apply next_ok | apply next_ite | apply clearBitCmd_next | split | dsimp only

theorem execIndetEvaluation_next {x0 x1 x2} : ∃ t, execIndetEvaluation x0 x1 x2 = .next t := by
  unfold execIndetEvaluation; with_reducible repeat' first | intro _ | apply next_ok | apply next_ite | apply atOpt_next | split | dsimp only

theorem execSettleEnd_next {x0 x1 x2} : ∃ t, execSettleEnd x0 x1 x2 = .next t := by
  unfold execSettleEnd; with_reducible repeat' first | intro _ | apply next_ok | apply next_ite | apply atOpt_next | split | dsimp only

theorem execIndetBandExit_next {x0 x1 x2} : ∃ t, execIndetBandExit x0 x1 x2 = .next t := by
  unfold execIndetBandExit; with_reducible repeat' first | intro _ | apply next_ok | apply next_ite | apply nowIf_next | split | dsimp only

theorem execThreshWrite_next {x0 x1 x2 x3} : ∃ t, execThreshWrite x0 x1 x2 x3 = .next t := by
  unfold execThreshWrite; with_reducible repeat' first | intro _ | apply next_ok | apply next_ite | apply writeCmd_next | split | dsimp only

theorem execAdcTriggerPending_next {x0 x1} : ∃ t, execAdcTriggerPending x0 x1 = .next t := by
  unfold execAdcTriggerPending; with_reducible repeat' first | intro _ | apply next_ok | apply next_ite | apply atOpt_next | split | dsimp only

theorem execSequenceStart_next {x0} : ∃ t, execSequenceStart x0 = .next t := by
  unfold execSequenceStart; with_reducible repeat' first | intro _ | apply next_ok | apply next_ite | apply atTime_next | split | dsimp only

theorem execReadbackDue_next {x0} : ∃ t, execReadbackDue x0 = .next t := by
  unfold execReadbackDue; with_reducible repeat' first | intro _ | apply next_ok | apply next_ite | apply atTime_next | split | dsimp only

theorem execConversionStart_next {x0} : ∃ t, execConversionStart x0 = .next t := by
  unfold execConversionStart; with_reducible repeat' first | intro _ | apply next_ok | apply next_ite | apply atTime_next | split | dsimp only

theorem execConversionResult_next {x0 x1} : ∃ t, execConversionResult x0 x1 = .next t := by
  unfold execConversionResult; with_reducible repeat' first | intro _ | apply next_ok | apply next_ite | apply atOpt_next | split | dsimp only

theorem execSlotRead_next {x0 x1 x2} : ∃ t, execSlotRead x0 x1 x2 = .next t := by
  unfold execSlotRead; with_reducible repeat' first | intro _ | apply next_ok | apply next_ite | apply readCmd_next | split | dsimp only

theorem execRqRdWrite_next {x0 x1 x2} : ∃ t, execRqRdWrite x0 x1 x2 = .next t := by
  unfold execRqRdWrite; with_reducible repeat' first | intro _ | apply next_ok | apply next_ite | apply writeCmd_next | split | dsimp only

theorem execWinCntClr_next {x0 x1 x2} : ∃ t, execWinCntClr x0 x1 x2 = .next t := by
  unfold execWinCntClr; with_reducible repeat' first | intro _ | apply next_ok | apply next_ite | apply setBitCmd_next | split | dsimp only

theorem execAdcCntClr_next {x0 x1} : ∃ t, execAdcCntClr x0 x1 = .next t := by
  unfold execAdcCntClr; with_reducible repeat' first | intro _ | apply next_ok | apply next_ite | apply setBitCmd_next | split | dsimp only

theorem execScrubRead_next {x0} : ∃ t, execScrubRead x0 = .next t := by
  unfold execScrubRead; with_reducible repeat' first | intro _ | apply next_ok | apply next_ite | apply atTime_next | split | dsimp only

theorem execPreservingTest_next {x0 x1 x2} : ∃ t, execPreservingTest x0 x1 x2 = .next t := by
  unfold execPreservingTest; with_reducible repeat' first | intro _ | apply next_ok | apply next_ite | apply writeCmd_next | split | dsimp only

theorem execDestructiveTest_next {x0 x1 x2} : ∃ t, execDestructiveTest x0 x1 x2 = .next t := by
  unfold execDestructiveTest; with_reducible repeat' first | intro _ | apply next_ok | apply next_ite | apply writeCmd_next | split | dsimp only

theorem copyPhase_next {x0 x1 x2} : ∃ t, copyPhase x0 x1 x2 = .next t := by
  unfold copyPhase; with_reducible repeat' first | intro _ | apply next_ok | apply next_ite | apply atTime_next | split | dsimp only

theorem execCopyEnd_next {x0} : ∃ t, execCopyEnd x0 = .next t := by
  unfold execCopyEnd; with_reducible repeat' first | intro _ | apply next_ok | apply next_ite | apply copyPhase_next | split | dsimp only

theorem execTestEnd_next {x0 x1} : ∃ t, execTestEnd x0 x1 = .next t := by
  unfold execTestEnd; with_reducible repeat' first | intro _ | apply next_ok | apply next_ite | apply atTime_next | split | dsimp only

theorem execRestoreEnd_next {x0} : ∃ t, execRestoreEnd x0 = .next t := by
  unfold execRestoreEnd; with_reducible repeat' first | intro _ | apply next_ok | apply next_ite | apply copyPhase_next | split | dsimp only

theorem execStoreCntClr_next {x0 x1} : ∃ t, execStoreCntClr x0 x1 = .next t := by
  unfold execStoreCntClr; with_reducible repeat' first | intro _ | apply next_ok | apply next_ite | apply setBitCmd_next | split | dsimp only

theorem execBobStart_next {x0 x1 x2 x3} : ∃ t, execBobStart x0 x1 x2 x3 = .next t := by
  unfold execBobStart; with_reducible repeat' first | intro _ | apply next_ok | apply next_ite | apply writeCmd_next | split | dsimp only

theorem execBobAbort_next {x0 x1 x2} : ∃ t, execBobAbort x0 x1 x2 = .next t := by
  unfold execBobAbort; with_reducible repeat' first | intro _ | apply next_ok | apply next_ite | apply setBitCmd_next | split | dsimp only

theorem execGateOpen_next {x0 x1} : ∃ t, execGateOpen x0 x1 = .next t := by
  unfold execGateOpen; with_reducible repeat' first | intro _ | apply next_ok | apply next_ite | apply atOpt_next | split | dsimp only

theorem execGateClose_next {x0 x1} : ∃ t, execGateClose x0 x1 = .next t := by
  unfold execGateClose; with_reducible repeat' first | intro _ | apply next_ok | apply next_ite | apply atOpt_next | split | dsimp only

theorem execTransactionIssue_next {x0 x1} : ∃ t, execTransactionIssue x0 x1 = .next t := by
  unfold execTransactionIssue; with_reducible repeat' first | intro _ | apply next_ok | apply next_ite | apply atTime_next | split | dsimp only

theorem execTransactionReturn_next {x0 x1 x2} : ∃ t, execTransactionReturn x0 x1 x2 = .next t := by
  unfold execTransactionReturn; with_reducible repeat' first | intro _ | apply next_ok | apply next_ite | apply atTime_next | split | dsimp only

theorem execHostCompletionTimeout_next {x0 x1} : ∃ t, execHostCompletionTimeout x0 x1 = .next t := by
  unfold execHostCompletionTimeout; with_reducible repeat' first | intro _ | apply next_ok | apply next_ite | apply atTime_next | split | dsimp only

theorem execHqPtrWrite_next {x0 x1 x2 x3} : ∃ t, execHqPtrWrite x0 x1 x2 x3 = .next t := by
  unfold execHqPtrWrite; with_reducible repeat' first | intro _ | apply next_ok | apply next_ite | apply writeCmd_next | split | dsimp only

theorem execBobCntClr_next {x0 x1 x2} : ∃ t, execBobCntClr x0 x1 x2 = .next t := by
  unfold execBobCntClr; with_reducible repeat' first | intro _ | apply next_ok | apply next_ite | apply setBitCmd_next | split | dsimp only

theorem execBobcCntClr_next {x0 x1} : ∃ t, execBobcCntClr x0 x1 = .next t := by
  unfold execBobcCntClr; with_reducible repeat' first | intro _ | apply next_ok | apply next_ite | apply setBitCmd_next | split | dsimp only

theorem execRaiseArrival_next {x0 x1} : ∃ t, execRaiseArrival x0 x1 = .next t := by
  unfold execRaiseArrival; with_reducible repeat' first | intro _ | apply next_ok | apply next_ite | apply atOpt_next | split | dsimp only

theorem execCoalesceTimeout_next {x0 x1} : ∃ t, execCoalesceTimeout x0 x1 = .next t := by
  unfold execCoalesceTimeout; with_reducible repeat' first | intro _ | apply next_ok | apply next_ite | apply atOpt_next | split | dsimp only

theorem execMsixHandover_next {x0 x1} : ∃ t, execMsixHandover x0 x1 = .next t := by
  unfold execMsixHandover; with_reducible repeat' first | intro _ | apply next_ok | apply next_ite | apply atTime_next | split | dsimp only

theorem execIrqAssert_next {x0 x1} : ∃ t, execIrqAssert x0 x1 = .next t := by
  unfold execIrqAssert; with_reducible repeat' first | intro _ | apply next_ok | apply next_ite | apply atTime_next | split | dsimp only

theorem execPendClear_next {x0 x1 x2} : ∃ t, execPendClear x0 x1 x2 = .next t := by
  unfold execPendClear; with_reducible repeat' first | intro _ | apply next_ok | apply next_ite | apply setBitCmd_next | split | dsimp only

theorem execMaskClear_next {x0 x1 x2} : ∃ t, execMaskClear x0 x1 x2 = .next t := by
  unfold execMaskClear; with_reducible repeat' first | intro _ | apply next_ok | apply next_ite | apply clearBitCmd_next | split | dsimp only

theorem execVecCtlWrite_next {x0 x1 x2 x3} : ∃ t, execVecCtlWrite x0 x1 x2 x3 = .next t := by
  unfold execVecCtlWrite; with_reducible repeat' first | intro _ | apply next_ok | apply next_ite | apply writeCmd_next | split | dsimp only

theorem execEvmCntClr_next {x0 x1} : ∃ t, execEvmCntClr x0 x1 = .next t := by
  unfold execEvmCntClr; with_reducible repeat' first | intro _ | apply next_ok | apply next_ite | apply setBitCmd_next | split | dsimp only

theorem execVecCntClr_next {x0 x1 x2} : ∃ t, execVecCntClr x0 x1 x2 = .next t := by
  unfold execVecCntClr; with_reducible repeat' first | intro _ | apply next_ok | apply next_ite | apply setBitCmd_next | split | dsimp only

theorem execPowerOnReset_next {x0} : ∃ t, execPowerOnReset x0 = .next t := by
  unfold execPowerOnReset; with_reducible repeat' first | intro _ | apply next_ok | apply next_ite | apply nowIf_next | split | dsimp only

theorem execPinReset_next {x0} : ∃ t, execPinReset x0 = .next t := by
  unfold execPinReset; with_reducible repeat' first | intro _ | apply next_ok | apply next_ite | apply nowIf_next | split | dsimp only

theorem execBrownOut_next {x0} : ∃ t, execBrownOut x0 = .next t := by
  unfold execBrownOut; with_reducible repeat' first | intro _ | apply next_ok | apply next_ite | apply nowIf_next | split | dsimp only

theorem execResetRelease_next {x0 x1 x2} : ∃ t, execResetRelease x0 x1 x2 = .next t := by
  unfold execResetRelease; with_reducible repeat' first | intro _ | apply next_ok | apply next_ite | apply nowIf_next | split | dsimp only

theorem execPllLock_next {x0} : ∃ t, execPllLock x0 = .next t := by
  unfold execPllLock; with_reducible repeat' first | intro _ | apply next_ok | apply next_ite | apply nowIf_next | split | dsimp only

theorem execFlashDiscovery_next {x0 x1 x2 x3} : ∃ t, execFlashDiscovery x0 x1 x2 x3 = .next t := by
  unfold execFlashDiscovery; with_reducible repeat' first | intro _ | apply next_ok | apply next_ite | apply nowIf_next | split | dsimp only

theorem execFirmwareSelection_next {x0} : ∃ t, execFirmwareSelection x0 = .next t := by
  unfold execFirmwareSelection; with_reducible repeat' first | intro _ | apply next_ok | apply next_ite | apply nowIf_next | split | dsimp only

theorem execSelfTestEnd_next {x0 x1 x2} : ∃ t, execSelfTestEnd x0 x1 x2 = .next t := by
  unfold execSelfTestEnd; with_reducible repeat' first | intro _ | apply next_ok | apply next_ite | apply atTime_next | split | dsimp only

theorem execBootDraftApplied_next {x0 x1} : ∃ t, execBootDraftApplied x0 x1 = .next t := by
  unfold execBootDraftApplied; with_reducible repeat' first | intro _ | apply next_ok | apply next_ite | apply nowIf_next | split | dsimp only

theorem execReferenceLoss_next {x0} : ∃ t, execReferenceLoss x0 = .next t := by
  unfold execReferenceLoss; with_reducible repeat' first | intro _ | apply next_ok | apply next_ite | apply nowIf_next | split | dsimp only

theorem execReferenceReturn_next {x0} : ∃ t, execReferenceReturn x0 = .next t := by
  unfold execReferenceReturn; with_reducible repeat' first | intro _ | apply next_ok | apply next_ite | apply nowIf_next | split | dsimp only

theorem execRestoreOk_next {x0} : ∃ t, execRestoreOk x0 = .next t := by
  unfold execRestoreOk; with_reducible repeat' first | intro _ | apply next_ok | apply next_ite | apply atTime_next | split | dsimp only

theorem execRestore_next {x0 x1} : ∃ t, execRestore x0 x1 = .next t := by
  unfold execRestore; with_reducible repeat' first | intro _ | apply next_ok | apply next_ite | apply writeCmd_next | split | dsimp only

theorem execPllLockLoss_next {x0} : ∃ t, execPllLockLoss x0 = .next t := by
  unfold execPllLockLoss; with_reducible repeat' first | intro _ | apply next_ok | apply next_ite | apply nowIf_next | split | dsimp only

theorem execLatencyNsWrite_next {x0 x1 x2} : ∃ t, execLatencyNsWrite x0 x1 x2 = .next t := by
  unfold execLatencyNsWrite; with_reducible repeat' first | intro _ | apply next_ok | apply next_ite | apply writeCmd_next | split | dsimp only

theorem execDozeEntry_next {x0} : ∃ t, execDozeEntry x0 = .next t := by
  unfold execDozeEntry; with_reducible repeat' first | intro _ | apply next_ok | apply next_ite | apply nowIf_next | split | dsimp only

theorem execDozeExit_next {x0} : ∃ t, execDozeExit x0 = .next t := by
  unfold execDozeExit; with_reducible repeat' first | intro _ | apply next_ok | apply next_ite | apply nowIf_next | split | dsimp only

theorem execSlumberEntry_next {x0} : ∃ t, execSlumberEntry x0 = .next t := by
  unfold execSlumberEntry; with_reducible repeat' first | intro _ | apply next_ok | apply next_ite | apply atTime_next | split | dsimp only

theorem execWakeComplete_next {x0} : ∃ t, execWakeComplete x0 = .next t := by
  unfold execWakeComplete; with_reducible repeat' first | intro _ | apply next_ok | apply next_ite | apply nowIf_next | split | dsimp only

theorem execBankSleep_next {x0 x1} : ∃ t, execBankSleep x0 x1 = .next t := by
  unfold execBankSleep; with_reducible repeat' first | intro _ | apply next_ok | apply next_ite | apply atTime_next | split | dsimp only

theorem execPwrCntClr_next {x0 x1} : ∃ t, execPwrCntClr x0 x1 = .next t := by
  unfold execPwrCntClr; with_reducible repeat' first | intro _ | apply next_ok | apply next_ite | apply setBitCmd_next | split | dsimp only

theorem execSupplyLow_next {x0 x1} : ∃ t, execSupplyLow x0 x1 = .next t := by
  unfold execSupplyLow; with_reducible repeat' first | intro _ | apply next_ok | apply next_ite | apply nowIf_next | split | dsimp only

theorem execSupplyRecovery_next {x0 x1} : ∃ t, execSupplyRecovery x0 x1 = .next t := by
  unfold execSupplyRecovery; with_reducible repeat' first | intro _ | apply next_ok | apply next_ite | apply atTime_next | split | dsimp only

theorem execVerifyComplete_next {x0 x1} : ∃ t, execVerifyComplete x0 x1 = .next t := by
  unfold execVerifyComplete; with_reducible repeat' first | intro _ | apply next_ok | apply next_ite | apply nowIf_next | split | dsimp only

theorem execSwitchInstant_next {x0} : ∃ t, execSwitchInstant x0 = .next t := by
  unfold execSwitchInstant; with_reducible repeat' first | intro _ | apply next_ok | apply next_ite | apply atOpt_next | split | dsimp only

theorem execChannelApplication_next {x0 x1} : ∃ t, execChannelApplication x0 x1 = .next t := by
  unfold execChannelApplication; with_reducible repeat' first | intro _ | apply next_ok | apply next_ite | apply atTime_next | split | dsimp only

theorem execForcedApplication_next {x0 x1} : ∃ t, execForcedApplication x0 x1 = .next t := by
  unfold execForcedApplication; with_reducible repeat' first | intro _ | apply next_ok | apply next_ite | apply atTime_next | split | dsimp only

theorem execChangeoverEnd_next {x0} : ∃ t, execChangeoverEnd x0 = .next t := by
  unfold execChangeoverEnd; with_reducible repeat' first | intro _ | apply next_ok | apply next_ite | apply nowIf_next | split | dsimp only

theorem execNonhitlessApply_next {x0} : ∃ t, execNonhitlessApply x0 = .next t := by
  unfold execNonhitlessApply; with_reducible repeat' first | intro _ | apply next_ok | apply next_ite | apply nowIf_next | split | dsimp only

theorem execSlotTableCommit_next {x0} : ∃ t, execSlotTableCommit x0 = .next t := by
  unfold execSlotTableCommit; with_reducible repeat' first | intro _ | apply next_ok | apply next_ite | apply nowIf_next | split | dsimp only

theorem execChgCntClr_next {x0 x1} : ∃ t, execChgCntClr x0 x1 = .next t := by
  unfold execChgCntClr; with_reducible repeat' first | intro _ | apply next_ok | apply next_ite | apply setBitCmd_next | split | dsimp only

theorem execPortDown_next {x0 x1} : ∃ t, execPortDown x0 x1 = .next t := by
  unfold execPortDown; with_reducible repeat' first | intro _ | apply next_ok | apply next_ite | apply nowIf_next | split | dsimp only

theorem execPortLock_next {x0 x1} : ∃ t, execPortLock x0 x1 = .next t := by
  unfold execPortLock; with_reducible repeat' first | intro _ | apply next_ok | apply next_ite | apply nowIf_next | split | dsimp only

theorem execPortMeasure_next {x0 x1} : ∃ t, execPortMeasure x0 x1 = .next t := by
  unfold execPortMeasure; with_reducible repeat' first | intro _ | apply next_ok | apply next_ite | apply atTime_next | split | dsimp only

theorem execPortUp_next {x0 x1} : ∃ t, execPortUp x0 x1 = .next t := by
  unfold execPortUp; with_reducible repeat' first | intro _ | apply next_ok | apply next_ite | apply nowIf_next | split | dsimp only

theorem execEchoRequest_next {x0 x1} : ∃ t, execEchoRequest x0 x1 = .next t := by
  unfold execEchoRequest; with_reducible repeat' first | intro _ | apply next_ok | apply next_ite | apply nowIf_next | split | dsimp only

theorem execEchoAnswer_next {x0 x1} : ∃ t, execEchoAnswer x0 x1 = .next t := by
  unfold execEchoAnswer; with_reducible repeat' first | intro _ | apply next_ok | apply next_ite | apply atTime_next | split | dsimp only

theorem execEchoReply_next {x0 x1 x2} : ∃ t, execEchoReply x0 x1 x2 = .next t := by
  unfold execEchoReply; with_reducible repeat' first | intro _ | apply next_ok | apply next_ite | apply nowIf_next | split | dsimp only

theorem execTrainSend_next {x0} : ∃ t, execTrainSend x0 = .next t := by
  unfold execTrainSend; with_reducible repeat' first | intro _ | apply next_ok | apply next_ite | apply atTime_next | split | dsimp only

theorem execTrainReceive_next {x0 x1 x2 x3} : ∃ t, execTrainReceive x0 x1 x2 x3 = .next t := by
  unfold execTrainReceive; with_reducible repeat' first | intro _ | apply next_ok | apply next_ite | apply atTime_next | split | dsimp only

theorem execTrainReturn_next {x0 x1 x2} : ∃ t, execTrainReturn x0 x1 x2 = .next t := by
  unfold execTrainReturn; with_reducible repeat' first | intro _ | apply next_ok | apply next_ite | apply nowIf_next | split | dsimp only

theorem execRingTimeout_next {x0} : ∃ t, execRingTimeout x0 = .next t := by
  unfold execRingTimeout; with_reducible repeat' first | intro _ | apply next_ok | apply next_ite | apply atOpt_next | split | dsimp only

theorem execLineDeadline_next {x0} : ∃ t, execLineDeadline x0 = .next t := by
  unfold execLineDeadline; with_reducible repeat' first | intro _ | apply next_ok | apply next_ite | apply atOpt_next | split | dsimp only

theorem execSelCntClr_next {x0 x1} : ∃ t, execSelCntClr x0 x1 = .next t := by
  unfold execSelCntClr; with_reducible repeat' first | intro _ | apply next_ok | apply next_ite | apply setBitCmd_next | split | dsimp only

theorem landCmd_next {x0 x1 x2 x3} : ∃ t, landCmd x0 x1 x2 x3 = .next t := by
  unfold landCmd; with_reducible repeat' first | intro _ | apply next_ok | apply next_ite | apply nowIf_next | split | dsimp only

theorem fgLand_next {x0 x1 x2} : ∃ t, fgLand x0 x1 x2 = .next t := by
  unfold fgLand; with_reducible repeat' first | intro _ | apply next_ok | apply next_ite | apply landCmd_next | split | dsimp only

theorem pcieCmd_next {x0 x1} : ∃ t, pcieCmd x0 x1 = .next t := by
  unfold pcieCmd; with_reducible repeat' first | intro _ | apply next_ok | apply next_ite | apply atTime_next | split | dsimp only

theorem execPcieWrite_next {x0 x1 x2} : ∃ t, execPcieWrite x0 x1 x2 = .next t := by
  unfold execPcieWrite; with_reducible repeat' first | intro _ | apply next_ok | apply next_ite | apply pcieCmd_next | split | dsimp only

theorem execPcieRead_next {x0 x1 x2} : ∃ t, execPcieRead x0 x1 x2 = .next t := by
  unfold execPcieRead; with_reducible repeat' first | intro _ | apply next_ok | apply next_ite | apply pcieCmd_next | split | dsimp only

theorem execReadCompletion_next {x0} : ∃ t, execReadCompletion x0 = .next t := by
  unfold execReadCompletion; with_reducible repeat' first | intro _ | apply next_ok | apply next_ite | apply atTime_next | split | dsimp only

theorem execConfigRequest_next {x0 x1 x2 x3} : ∃ t, execConfigRequest x0 x1 x2 x3 = .next t := by
  unfold execConfigRequest; with_reducible repeat' first | intro _ | apply next_ok | apply next_ite | apply nowIf_next | split | dsimp only

theorem execHostReset_next {x0 x1} : ∃ t, execHostReset x0 x1 = .next t := by
  unfold execHostReset; with_reducible repeat' first | intro _ | apply next_ok | apply next_ite | apply nowIf_next | split | dsimp only

theorem execPcieLinkTrained_next {x0 x1 x2} : ∃ t, execPcieLinkTrained x0 x1 x2 = .next t := by
  unfold execPcieLinkTrained; with_reducible repeat' first | intro _ | apply next_ok | apply next_ite | apply nowIf_next | split | dsimp only

theorem execSpiWrite_next {x0 x1} : ∃ t, execSpiWrite x0 x1 = .next t := by
  unfold execSpiWrite; with_reducible repeat' first | intro _ | apply next_ok | apply next_ite | apply accessCmd_next | split | dsimp only

theorem execSpiRead_next {x0 x1} : ∃ t, execSpiRead x0 x1 = .next t := by
  unfold execSpiRead; with_reducible repeat' first | intro _ | apply next_ok | apply next_ite | apply accessCmd_next | split | dsimp only

theorem execSpiQuadWrite_next {x0 x1} : ∃ t, execSpiQuadWrite x0 x1 = .next t := by
  unfold execSpiQuadWrite; with_reducible repeat' first | intro _ | apply next_ok | apply next_ite | apply accessCmd_next | split | dsimp only

theorem execSpiQuadRead_next {x0 x1} : ∃ t, execSpiQuadRead x0 x1 = .next t := by
  unfold execSpiQuadRead; with_reducible repeat' first | intro _ | apply next_ok | apply next_ite | apply accessCmd_next | split | dsimp only

theorem execDoorbell_next {x0 x1 x2} : ∃ t, execDoorbell x0 x1 x2 = .next t := by
  unfold execDoorbell; with_reducible repeat' first | intro _ | apply next_ok | apply next_ite | apply writeCmd_next | split | dsimp only

theorem execCommandStart_next {x0 x1} : ∃ t, execCommandStart x0 x1 = .next t := by
  unfold execCommandStart; with_reducible repeat' first | intro _ | apply next_ok | apply next_ite | apply nowIf_next | split | dsimp only

theorem execCommandCompletion_next {x0 x1} : ∃ t, execCommandCompletion x0 x1 = .next t := by
  unfold execCommandCompletion; with_reducible repeat' first | intro _ | apply next_ok | apply next_ite | apply nowIf_next | split | dsimp only

theorem execEcho_next {x0} : ∃ t, execEcho x0 = .next t := by
  unfold execEcho; with_reducible repeat' first | intro _ | apply next_ok | apply next_ite | apply landCmd_next | split | dsimp only

theorem execArmCmd_next {x0} : ∃ t, execArmCmd x0 = .next t := by
  unfold execArmCmd; with_reducible repeat' first | intro _ | apply next_ok | apply next_ite | apply fgLand_next | split | dsimp only

theorem execStop_next {x0} : ∃ t, execStop x0 = .next t := by
  unfold execStop; with_reducible repeat' first | intro _ | apply next_ok | apply next_ite | apply fgLand_next | split | dsimp only

theorem execHold_next {x0} : ∃ t, execHold x0 = .next t := by
  unfold execHold; with_reducible repeat' first | intro _ | apply next_ok | apply next_ite | apply landCmd_next | split | dsimp only

theorem execClearHold_next {x0} : ∃ t, execClearHold x0 = .next t := by
  unfold execClearHold; with_reducible repeat' first | intro _ | apply next_ok | apply next_ite | apply landCmd_next | split | dsimp only

theorem execMaintEnter_next {x0} : ∃ t, execMaintEnter x0 = .next t := by
  unfold execMaintEnter; with_reducible repeat' first | intro _ | apply next_ok | apply next_ite | apply fgLand_next | split | dsimp only

theorem execMaintLeave_next {x0} : ∃ t, execMaintLeave x0 = .next t := by
  unfold execMaintLeave; with_reducible repeat' first | intro _ | apply next_ok | apply next_ite | apply fgLand_next | split | dsimp only

theorem execDeviceReset_next {x0} : ∃ t, execDeviceReset x0 = .next t := by
  unfold execDeviceReset; with_reducible repeat' first | intro _ | apply next_ok | apply next_ite | apply fgLand_next | split | dsimp only

theorem execCommandReset_next {x0} : ∃ t, execCommandReset x0 = .next t := by
  unfold execCommandReset; with_reducible repeat' first | intro _ | apply next_ok | apply next_ite | apply atOpt_next | split | dsimp only

theorem execDraftAbort_next {x0} : ∃ t, execDraftAbort x0 = .next t := by
  unfold execDraftAbort; with_reducible repeat' first | intro _ | apply next_ok | apply next_ite | apply fgLand_next | split | dsimp only

theorem execChangeover_next {x0} : ∃ t, execChangeover x0 = .next t := by
  unfold execChangeover; with_reducible repeat' first | intro _ | apply next_ok | apply next_ite | apply landCmd_next | split | dsimp only

theorem execLineChangeover_next {x0} : ∃ t, execLineChangeover x0 = .next t := by
  unfold execLineChangeover; with_reducible repeat' first | intro _ | apply next_ok | apply next_ite | apply landCmd_next | split | dsimp only

theorem execDraftWrite_next {x0} : ∃ t, execDraftWrite x0 = .next t := by
  unfold execDraftWrite; with_reducible repeat' first | intro _ | apply next_ok | apply next_ite | apply landCmd_next | split | dsimp only

theorem execDraftVerify_next {x0} : ∃ t, execDraftVerify x0 = .next t := by
  unfold execDraftVerify; with_reducible repeat' first | intro _ | apply next_ok | apply next_ite | apply landCmd_next | split | dsimp only

theorem execRevert_next {x0} : ∃ t, execRevert x0 = .next t := by
  unfold execRevert; with_reducible repeat' first | intro _ | apply next_ok | apply next_ite | apply landCmd_next | split | dsimp only

theorem execHedLoad_next {x0} : ∃ t, execHedLoad x0 = .next t := by
  unfold execHedLoad; with_reducible repeat' first | intro _ | apply next_ok | apply next_ite | apply landCmd_next | split | dsimp only

theorem execFwWrite_next {x0} : ∃ t, execFwWrite x0 = .next t := by
  unfold execFwWrite; with_reducible repeat' first | intro _ | apply next_ok | apply next_ite | apply landCmd_next | split | dsimp only

theorem execFwActivate_next {x0} : ∃ t, execFwActivate x0 = .next t := by
  unfold execFwActivate; with_reducible repeat' first | intro _ | apply next_ok | apply next_ite | apply landCmd_next | split | dsimp only

theorem execLogRead_next {x0} : ∃ t, execLogRead x0 = .next t := by
  unfold execLogRead; with_reducible repeat' first | intro _ | apply next_ok | apply next_ite | apply landCmd_next | split | dsimp only

theorem execKeyEnrol_next {x0} : ∃ t, execKeyEnrol x0 = .next t := by
  unfold execKeyEnrol; with_reducible repeat' first | intro _ | apply next_ok | apply next_ite | apply landCmd_next | split | dsimp only

theorem execKeyRevoke_next {x0} : ∃ t, execKeyRevoke x0 = .next t := by
  unfold execKeyRevoke; with_reducible repeat' first | intro _ | apply next_ok | apply next_ite | apply landCmd_next | split | dsimp only

theorem execSecureEnable_next {x0} : ∃ t, execSecureEnable x0 = .next t := by
  unfold execSecureEnable; with_reducible repeat' first | intro _ | apply next_ok | apply next_ite | apply landCmd_next | split | dsimp only

theorem execEpochRaise_next {x0} : ∃ t, execEpochRaise x0 = .next t := by
  unfold execEpochRaise; with_reducible repeat' first | intro _ | apply next_ok | apply next_ite | apply landCmd_next | split | dsimp only

theorem execMbxCntClr_next {x0 x1} : ∃ t, execMbxCntClr x0 x1 = .next t := by
  unfold execMbxCntClr; with_reducible repeat' first | intro _ | apply next_ok | apply next_ite | apply setBitCmd_next | split | dsimp only

theorem execHostCntClr_next {x0 x1} : ∃ t, execHostCntClr x0 x1 = .next t := by
  unfold execHostCntClr; with_reducible repeat' first | intro _ | apply next_ok | apply next_ite | apply setBitCmd_next | split | dsimp only

theorem execTempSample_next {x0 x1} : ∃ t, execTempSample x0 x1 = .next t := by
  unfold execTempSample; with_reducible repeat' first | intro _ | apply next_ok | apply next_ite | apply nowIf_next | split | dsimp only

theorem execSupplySample_next {x0 x1} : ∃ t, execSupplySample x0 x1 = .next t := by
  unfold execSupplySample; with_reducible repeat' first | intro _ | apply next_ok | apply next_ite | apply nowIf_next | split | dsimp only

theorem execLogFlashCopy_next {x0} : ∃ t, execLogFlashCopy x0 = .next t := by
  unfold execLogFlashCopy; with_reducible repeat' first | intro _ | apply next_ok | apply next_ite | apply nowIf_next | split | dsimp only

theorem execTacklerClockFault_next {x0} : ∃ t, execTacklerClockFault x0 = .next t := by
  unfold execTacklerClockFault; with_reducible repeat' first | intro _ | apply next_ok | apply next_ite | apply nowIf_next | split | dsimp only

theorem execWatchdogExpiry_next {x0} : ∃ t, execWatchdogExpiry x0 = .next t := by
  unfold execWatchdogExpiry; with_reducible repeat' first | intro _ | apply next_ok | apply next_ite | apply nowIf_next | split | dsimp only

theorem execFirmwareRestartRequest_next {x0} : ∃ t, execFirmwareRestartRequest x0 = .next t := by
  unfold execFirmwareRestartRequest; with_reducible repeat' first | intro _ | apply next_ok | apply next_ite | apply nowIf_next | split | dsimp only

theorem execRestart_next {x0 x1} : ∃ t, execRestart x0 x1 = .next t := by
  unfold execRestart; with_reducible repeat' first | intro _ | apply next_ok | apply next_ite | apply setBitCmd_next | split | dsimp only

theorem execRestartEnd_next {x0} : ∃ t, execRestartEnd x0 = .next t := by
  unfold execRestartEnd; with_reducible repeat' first | intro _ | apply next_ok | apply next_ite | apply nowIf_next | split | dsimp only

theorem execFlashProgramDone_next {x0} : ∃ t, execFlashProgramDone x0 = .next t := by
  unfold execFlashProgramDone; with_reducible repeat' first | intro _ | apply next_ok | apply next_ite | apply nowIf_next | split | dsimp only

theorem execFlashError_next {x0} : ∃ t, execFlashError x0 = .next t := by
  unfold execFlashError; with_reducible repeat' first | intro _ | apply next_ok | apply next_ite | apply nowIf_next | split | dsimp only

theorem execExtest_next {x0} : ∃ t, execExtest x0 = .next t := by
  unfold execExtest; with_reducible repeat' first | intro _ | apply next_ok | apply next_ite | apply nowIf_next | split | dsimp only

theorem execIdcode_next {x0} : ∃ t, execIdcode x0 = .next t := by
  unfold execIdcode; with_reducible repeat' first | intro _ | apply next_ok | apply next_ite | apply nowIf_next | split | dsimp only

theorem execSamplePreload_next {x0 x1} : ∃ t, execSamplePreload x0 x1 = .next t := by
  unfold execSamplePreload; with_reducible repeat' first | intro _ | apply next_ok | apply next_ite | apply nowIf_next | split | dsimp only

theorem execClamp_next {x0} : ∃ t, execClamp x0 = .next t := by
  unfold execClamp; with_reducible repeat' first | intro _ | apply next_ok | apply next_ite | apply nowIf_next | split | dsimp only

theorem execHighz_next {x0} : ∃ t, execHighz x0 = .next t := by
  unfold execHighz; with_reducible repeat' first | intro _ | apply next_ok | apply next_ite | apply nowIf_next | split | dsimp only

theorem execBypass_next {x0} : ∃ t, execBypass x0 = .next t := by
  unfold execBypass; with_reducible repeat' first | intro _ | apply next_ok | apply next_ite | apply nowIf_next | split | dsimp only

theorem execTestReset_next {x0} : ∃ t, execTestReset x0 = .next t := by
  unfold execTestReset; with_reducible repeat' first | intro _ | apply next_ok | apply next_ite | apply nowIf_next | split | dsimp only

theorem dbgAccess_next {x0 x1} : ∃ t, dbgAccess x0 x1 = .next t := by
  unfold dbgAccess; with_reducible repeat' first | intro _ | apply next_ok | apply next_ite | apply nowIf_next | apply accessCmd_next | split | dsimp only

theorem execDbgAccRead_next {x0 x1} : ∃ t, execDbgAccRead x0 x1 = .next t := by
  unfold execDbgAccRead; with_reducible repeat' first | intro _ | apply next_ok | apply next_ite | apply dbgAccess_next | split | dsimp only

theorem execDbgAccWrite_next {x0 x1 x2} : ∃ t, execDbgAccWrite x0 x1 x2 = .next t := by
  unfold execDbgAccWrite; with_reducible repeat' first | intro _ | apply next_ok | apply next_ite | apply dbgAccess_next | split | dsimp only

theorem execReadWord_next {x0 x1} : ∃ t, execReadWord x0 x1 = .next t := by
  unfold execReadWord; with_reducible repeat' first | intro _ | apply next_ok | apply next_ite | apply nowIf_next | split | dsimp only

theorem execLoadWord_next {x0 x1 x2} : ∃ t, execLoadWord x0 x1 x2 = .next t := by
  unfold execLoadWord; with_reducible repeat' first | intro _ | apply next_ok | apply next_ite | apply nowIf_next | split | dsimp only

theorem execProgramPage_next {x0 x1} : ∃ t, execProgramPage x0 x1 = .next t := by
  unfold execProgramPage; with_reducible repeat' first | intro _ | apply next_ok | apply next_ite | apply nowIf_next | split | dsimp only

theorem execEraseSector_next {x0 x1} : ∃ t, execEraseSector x0 x1 = .next t := by
  unfold execEraseSector; with_reducible repeat' first | intro _ | apply next_ok | apply next_ite | apply nowIf_next | split | dsimp only

theorem execReadStatus_next {x0} : ∃ t, execReadStatus x0 = .next t := by
  unfold execReadStatus; with_reducible repeat' first | intro _ | apply next_ok | apply next_ite | apply nowIf_next | split | dsimp only

theorem execDbgUnlock_next {x0 x1 x2 x3} : ∃ t, execDbgUnlock x0 x1 x2 x3 = .next t := by
  unfold execDbgUnlock; with_reducible repeat' first | intro _ | apply next_ok | apply next_ite | apply nowIf_next | split | dsimp only

theorem execUnlock_next {x0 x1} : ∃ t, execUnlock x0 x1 = .next t := by
  unfold execUnlock; with_reducible repeat' first | intro _ | apply next_ok | apply next_ite | apply setBitCmd_next | split | dsimp only

theorem execOpenWrite_next {x0 x1 x2} : ∃ t, execOpenWrite x0 x1 x2 = .next t := by
  unfold execOpenWrite; with_reducible repeat' first | intro _ | apply next_ok | apply next_ite | apply setBitCmd_next | apply clearBitCmd_next | split | dsimp only

theorem execTackCntClr_next {x0 x1} : ∃ t, execTackCntClr x0 x1 = .next t := by
  unfold execTackCntClr; with_reducible repeat' first | intro _ | apply next_ok | apply next_ite | apply setBitCmd_next | split | dsimp only

theorem execReplayEnd_next {x0 x1 x2 x3} : ∃ t, execReplayEnd x0 x1 x2 x3 = .next t := by
  unfold execReplayEnd; with_reducible repeat' first | intro _ | apply next_ok | apply next_ite | apply nowIf_next | split | dsimp only

theorem execArbitrationEnd_next {x0 x1 x2} : ∃ t, execArbitrationEnd x0 x1 x2 = .next t := by
  unfold execArbitrationEnd; with_reducible repeat' first | intro _ | apply next_ok | apply next_ite | apply nowIf_next | split | dsimp only

theorem execSubstituteLoaded_next {x0 x1} : ∃ t, execSubstituteLoaded x0 x1 = .next t := by
  unfold execSubstituteLoaded; with_reducible repeat' first | intro _ | apply next_ok | apply next_ite | apply nowIf_next | split | dsimp only

theorem execLockstepMismatch_next {x0} : ∃ t, execLockstepMismatch x0 = .next t := by
  unfold execLockstepMismatch; with_reducible repeat' first | intro _ | apply next_ok | apply next_ite | apply nowIf_next | split | dsimp only

theorem execReadbackMismatch_next {x0 x1} : ∃ t, execReadbackMismatch x0 x1 = .next t := by
  unfold execReadbackMismatch; with_reducible repeat' first | intro _ | apply next_ok | apply next_ite | apply nowIf_next | split | dsimp only

theorem execFaultReset_next {x0} : ∃ t, execFaultReset x0 = .next t := by
  unfold execFaultReset; with_reducible repeat' first | intro _ | apply next_ok | apply next_ite | apply atOpt_next | split | dsimp only

theorem injectCmd_next {x0 x1 x2} : ∃ t, injectCmd x0 x1 x2 = .next t := by
  unfold injectCmd; with_reducible repeat' first | intro _ | apply next_ok | apply next_ite | apply writeCmd_next | split | dsimp only

theorem execInjectEnd_next {x0 x1} : ∃ t, execInjectEnd x0 x1 = .next t := by
  unfold execInjectEnd; with_reducible repeat' first | intro _ | apply next_ok | apply next_ite | apply injectCmd_next | split | dsimp only

theorem execInjectSingleBit_next {x0 x1} : ∃ t, execInjectSingleBit x0 x1 = .next t := by
  unfold execInjectSingleBit; with_reducible repeat' first | intro _ | apply next_ok | apply next_ite | apply injectCmd_next | split | dsimp only

theorem execInjectDoubleBit_next {x0 x1} : ∃ t, execInjectDoubleBit x0 x1 = .next t := by
  unfold execInjectDoubleBit; with_reducible repeat' first | intro _ | apply next_ok | apply next_ite | apply injectCmd_next | split | dsimp only

theorem execInjectShedState_next {x0 x1} : ∃ t, execInjectShedState x0 x1 = .next t := by
  unfold execInjectShedState; with_reducible repeat' first | intro _ | apply next_ok | apply next_ite | apply injectCmd_next | split | dsimp only

theorem execInjectResidue_next {x0 x1} : ∃ t, execInjectResidue x0 x1 = .next t := by
  unfold execInjectResidue; with_reducible repeat' first | intro _ | apply next_ok | apply next_ite | apply injectCmd_next | split | dsimp only

theorem execInjectSignature_next {x0 x1} : ∃ t, execInjectSignature x0 x1 = .next t := by
  unfold execInjectSignature; with_reducible repeat' first | intro _ | apply next_ok | apply next_ite | apply injectCmd_next | split | dsimp only

theorem execInjectCardCheck_next {x0 x1} : ∃ t, execInjectCardCheck x0 x1 = .next t := by
  unfold execInjectCardCheck; with_reducible repeat' first | intro _ | apply next_ok | apply next_ite | apply injectCmd_next | split | dsimp only

theorem execInjectSensedLevel_next {x0 x1} : ∃ t, execInjectSensedLevel x0 x1 = .next t := by
  unfold execInjectSensedLevel; with_reducible repeat' first | intro _ | apply next_ok | apply next_ite | apply injectCmd_next | split | dsimp only

theorem execInjectReferenceLoss_next {x0 x1} : ∃ t, execInjectReferenceLoss x0 x1 = .next t := by
  unfold execInjectReferenceLoss; with_reducible repeat' first | intro _ | apply next_ok | apply next_ite | apply injectCmd_next | split | dsimp only

theorem execInjectReadbackOffset_next {x0 x1} : ∃ t, execInjectReadbackOffset x0 x1 = .next t := by
  unfold execInjectReadbackOffset; with_reducible repeat' first | intro _ | apply next_ok | apply next_ite | apply injectCmd_next | split | dsimp only

theorem execFltCntClr_next {x0 x1} : ∃ t, execFltCntClr x0 x1 = .next t := by
  unfold execFltCntClr; with_reducible repeat' first | intro _ | apply next_ok | apply next_ite | apply setBitCmd_next | split | dsimp only

end Sys2Proof.Machine
end

