-- ==== Sys2Proof/Laws/Keep.lean ====
section
/-!
SUPPORT. What every step keeps, operation by operation (`Inv` of Safety.lean): the shared lemmas. One lemma per operation
follows in the other Keep files.
-/

namespace Sys2Proof.Machine

theorem FuseSt.le_refl (f : FuseSt) : f.le f := ⟨fun _ h => ⟨h, rfl⟩, fun _ h => h, id, Nat.le_refl _, rfl⟩

theorem FuseSt.le_trans {f g h : FuseSt} (a : f.le g) (b : g.le h) : f.le h :=
  ⟨fun k e => ⟨(b.1 k (a.1 k e).1).1, ((b.1 k (a.1 k e).1).2).trans (a.1 k e).2⟩, fun k e => b.2.1 k (a.2.1 k e),
    fun e => b.2.2.1 (a.2.2.1 e), Nat.le_trans a.2.2.2.1 b.2.2.2.1, b.2.2.2.2.trans a.2.2.2.2⟩

/-- A record whose fields of `Inv` are those of a state that has it. -/
theorem inv_of {f : FuseSt} {q : List Instr} {s t : State} (h : Inv f q s) (hm : t.mem = s.mem)
    (hf : t.flash.bytes = s.flash.bytes) (hu : t.fuse = s.fuse) (hp : t.pending = s.pending) : Inv f q t := by
  unfold Inv InvOf at *
  rw [hm, hf, hu, hp]
  exact h

theorem inv_fold {f : FuseSt} {q : List Instr} {s : State} (h : Inv f q s) :
    InvOf f q s.mem s.flash.bytes s.fuse s.pending := h

theorem inv_ite {f : FuseSt} {q : List Instr} {c : Prop} [Decidable c] {s t : State} (hs : Inv f q s) (ht : Inv f q t) :
    Inv f q (if c then s else t) := by split <;> assumption

theorem inv_ite_fst {α : Type} {f : FuseSt} {q : List Instr} {c : Prop} [Decidable c] {s t : State × α} (hs : Inv f q s.1)
    (ht : Inv f q t.1) : Inv f q (if c then s else t).1 := by split <;> assumption

theorem inv_ite_snd {α : Type} {f : FuseSt} {q : List Instr} {c : Prop} [Decidable c] {s t : α × State} (hs : Inv f q s.2)
    (ht : Inv f q t.2) : Inv f q (if c then s else t).2 := by split <;> assumption

theorem inv_foldl {α : Type} {f : FuseSt} {q : List Instr} {g : State → α → State} {l : List α} {s : State}
    (hg : ∀ s x, Inv f q s → Inv f q (g s x)) (hs : Inv f q s) : Inv f q (l.foldl g s) := by
  induction l generalizing s with
  | nil => exact hs
  | cons x l ih => exact ih (hg s x hs)

theorem inv_foldl_fst {α β : Type} {f : FuseSt} {q : List Instr} {g : State × β → α → State × β} {l : List α} {p : State × β}
    (hg : ∀ p x, Inv f q p.1 → Inv f q (g p x).1) (hp : Inv f q p.1) : Inv f q (l.foldl g p).1 := by
  induction l generalizing p with
  | nil => exact hp
  | cons x l ih => exact ih (hg p x hp)

theorem inv_foldl_snd {α β : Type} {f : FuseSt} {q : List Instr} {g : β × State → α → β × State} {l : List α} {p : β × State}
    (hg : ∀ p x, Inv f q p.2 → Inv f q (g p x).2) (hp : Inv f q p.2) : Inv f q (l.foldl g p).2 := by
  induction l generalizing p with
  | nil => exact hp
  | cons x l ih => exact ih (hg p x hp)

theorem inv_next {f : FuseSt} {q : List Instr} {s : State} (h : Inv f q s) : InvR f q (.next s) := h

theorem inv_id {f : FuseSt} {q : List Instr} {s : State} (h : Inv f q s) : Inv f q (id s) := h

theorem invR_ite {f : FuseSt} {q : List Instr} {c : Prop} [Decidable c] {s t : Result} (hs : InvR f q s) (ht : InvR f q t) :
    InvR f q (if c then s else t) := by split <;> assumption

/-! ### The bytes of the stores and of the flash, and the fuses -/

theorem inv_mem {f : FuseSt} {q : List Instr} {s : State} {m : List Host.Cell} (h : Inv f q s)
    (hm : Canon memDefault s.mem → Canon memDefault m) : Inv f q { s with mem := m } :=
  ⟨(memory_wf_iff m).2 (hm ((memory_wf_iff _).1 h.1)), h.2⟩

theorem inv_flash {f : FuseSt} {q : List Instr} {s : State} {m : List Host.Cell} (h : Inv f q s)
    (hm : Canon 0xFF#8 s.flash.bytes → Canon 0xFF#8 m) : Inv f q { s with flash := { s.flash with bytes := m } } :=
  ⟨h.1, (flash_wf_iff m).2 (hm ((flash_wf_iff _).1 h.2.1)), h.2.2⟩

theorem inv_fuse {f g : FuseSt} {q : List Instr} {s : State} (h : Inv f q s) (hg : s.fuse.le g) :
    Inv f q { s with fuse := g } := ⟨h.1, h.2.1, FuseSt.le_trans h.2.2.1 hg, h.2.2.2⟩

theorem forEach_inv {α : Type} {f : FuseSt} {q : List Instr} {g : α → State → State} {l : List α} {s : State}
    (hg : ∀ x s, Inv f q s → Inv f q (g x s)) (hs : Inv f q s) : Inv f q (forEach l g s) :=
  inv_foldl (fun s x => hg x s) hs

theorem when__inv {f : FuseSt} {q : List Instr} {g : State → State} {c : Bool} {s : State}
    (hg : ∀ s, Inv f q s → Inv f q (g s)) (hs : Inv f q s) : Inv f q (when_ c g s) := by
  unfold when_; split
  · exact hg s hs
  · exact hs

end Sys2Proof.Machine
end

