-- ==== Sys2Proof/Laws/KeepLow.lean ====
section
/-!
SUPPORT. What every step keeps (`Inv` of Safety.lean): the operations over registers, events, channels, the log and the stores, one lemma each.
-/

namespace Sys2Proof.Machine

/-! ### Ops.lean -/

theorem rset_inv {f q} {x0 x1 x2} (hx2 : Inv f q x2) : Inv f q (rset x0 x1 x2) :=
  inv_of hx2 rfl rfl rfl rfl

theorem modCyc_inv {f q} {x0 x1} (hx1 : Inv f q x1) : Inv f q (modCyc x0 x1) := by
  unfold modCyc; with_reducible repeat' first | intro _ | assumption | rfl | apply inv_ite | apply inv_id | apply invR_ite | apply inv_next | apply inv_ite_fst | apply inv_ite_snd | apply inv_foldl | apply inv_foldl_fst | apply inv_foldl_snd | split | dsimp only | (unfold Inv; dsimp only; apply inv_fold)

theorem noteSet_inv {f q} {x0 x1 x2} (hx2 : Inv f q x2) : Inv f q (noteSet x0 x1 x2) := by
  unfold noteSet; with_reducible repeat' first | intro _ | assumption | apply modCyc_inv | rfl | apply inv_ite | apply inv_id | apply invR_ite | apply inv_next | apply inv_ite_fst | apply inv_ite_snd | apply inv_foldl | apply inv_foldl_fst | apply inv_foldl_snd | split | dsimp only | (unfold Inv; dsimp only; apply inv_fold)

theorem noteCount_inv {f q} {x0 x1 x2} (hx2 : Inv f q x2) : Inv f q (noteCount x0 x1 x2) := by
  unfold noteCount; with_reducible repeat' first | intro _ | assumption | apply modCyc_inv | rfl | apply inv_ite | apply inv_id | apply invR_ite | apply inv_next | apply inv_ite_fst | apply inv_ite_snd | apply inv_foldl | apply inv_foldl_fst | apply inv_foldl_snd | split | dsimp only | (unfold Inv; dsimp only; apply inv_fold)

theorem noteSafe_inv {f q} {x0 x1} (hx1 : Inv f q x1) : Inv f q (noteSafe x0 x1) := by
  unfold noteSafe; with_reducible repeat' first | intro _ | assumption | apply modCyc_inv | rfl | apply inv_ite | apply inv_id | apply invR_ite | apply inv_next | apply inv_ite_fst | apply inv_ite_snd | apply inv_foldl | apply inv_foldl_fst | apply inv_foldl_snd | split | dsimp only | (unfold Inv; dsimp only; apply inv_fold)

theorem noteEntry_inv {f q} {x0 x1} (hx1 : Inv f q x1) : Inv f q (noteEntry x0 x1) := by
  unfold noteEntry; with_reducible repeat' first | intro _ | assumption | apply modCyc_inv | rfl | apply inv_ite | apply inv_id | apply invR_ite | apply inv_next | apply inv_ite_fst | apply inv_ite_snd | apply inv_foldl | apply inv_foldl_fst | apply inv_foldl_snd | split | dsimp only | (unfold Inv; dsimp only; apply inv_fold)

theorem noteOld_inv {f q} {x0 x1} (hx1 : Inv f q x1) : Inv f q (noteOld x0 x1) := by
  unfold noteOld; with_reducible repeat' first | intro _ | assumption | apply modCyc_inv | rfl | apply inv_ite | apply inv_id | apply invR_ite | apply inv_next | apply inv_ite_fst | apply inv_ite_snd | apply inv_foldl | apply inv_foldl_fst | apply inv_foldl_snd | split | dsimp only | (unfold Inv; dsimp only; apply inv_fold)

theorem setf_inv {f q} {x0 x1 x2 x3 x4} (hx4 : Inv f q x4) : Inv f q (setf x0 x1 x2 x3 x4) := by
  unfold setf; with_reducible repeat' first | assumption | apply rset_inv

theorem setb_inv {f q} {x0 x1 x2 x3} (hx3 : Inv f q x3) : Inv f q (setb x0 x1 x2 x3) := by
  unfold setb; with_reducible repeat' first | intro _ | assumption | apply rset_inv | apply noteSet_inv | rfl | apply inv_ite | apply inv_id | apply invR_ite | apply inv_next | apply inv_ite_fst | apply inv_ite_snd | apply inv_foldl | apply inv_foldl_fst | apply inv_foldl_snd | split | dsimp only | (unfold Inv; dsimp only; apply inv_fold)

theorem clearBits_inv {f q} {x0 x1 x2} (hx2 : Inv f q x2) : Inv f q (clearBits x0 x1 x2) := by
  unfold clearBits; with_reducible repeat' first | intro _ | assumption | apply rset_inv | rfl | apply inv_ite | apply inv_id | apply invR_ite | apply inv_next | apply inv_ite_fst | apply inv_ite_snd | apply inv_foldl | apply inv_foldl_fst | apply inv_foldl_snd | split | dsimp only | (unfold Inv; dsimp only; apply inv_fold)

theorem count_inv {f q} {x0 x1} (hx1 : Inv f q x1) : Inv f q (count x0 x1) := by
  unfold count; with_reducible repeat' first | intro _ | assumption | apply rset_inv | apply noteCount_inv | rfl | apply inv_ite | apply inv_id | apply invR_ite | apply inv_next | apply inv_ite_fst | apply inv_ite_snd | apply inv_foldl | apply inv_foldl_fst | apply inv_foldl_snd | split | dsimp only | (unfold Inv; dsimp only; apply inv_fold)

theorem countN_inv {f q} {x0 x1 x2} (hx2 : Inv f q x2) : Inv f q (countN x0 x1 x2) := by
  unfold countN; with_reducible repeat' first | intro _ | assumption | apply rset_inv | apply noteCount_inv | rfl | apply inv_ite | apply inv_id | apply invR_ite | apply inv_next | apply inv_ite_fst | apply inv_ite_snd | apply inv_foldl | apply inv_foldl_fst | apply inv_foldl_snd | split | dsimp only | (unfold Inv; dsimp only; apply inv_fold)

theorem zero_inv {f q} {x0 x1} (hx1 : Inv f q x1) : Inv f q (zero x0 x1) := by
  unfold zero; with_reducible repeat' first | intro _ | assumption | apply rset_inv | rfl | apply inv_ite | apply inv_id | apply invR_ite | apply inv_next | apply inv_ite_fst | apply inv_ite_snd | apply inv_foldl | apply inv_foldl_fst | apply inv_foldl_snd | split | dsimp only | (unfold Inv; dsimp only; apply inv_fold)

theorem zeroAll_inv {f q} {x0 x1} (hx1 : Inv f q x1) : Inv f q (zeroAll x0 x1) := by
  unfold zeroAll; with_reducible repeat' first | intro _ | assumption | apply zero_inv | rfl | apply inv_ite | apply inv_id | apply invR_ite | apply inv_next | apply inv_ite_fst | apply inv_ite_snd | apply inv_foldl | apply inv_foldl_fst | apply inv_foldl_snd | split | dsimp only | (unfold Inv; dsimp only; apply inv_fold)

theorem clr_inv {f q} {x0 x1} (hx1 : Inv f q x1) : Inv f q (clr x0 x1) := by
  unfold clr; with_reducible repeat' first | assumption | apply rset_inv

theorem clrAll_inv {f q} {x0 x1} (hx1 : Inv f q x1) : Inv f q (clrAll x0 x1) := by
  unfold clrAll; with_reducible repeat' first | intro _ | assumption | rfl | apply inv_ite | apply inv_id | apply invR_ite | apply inv_next | apply inv_ite_fst | apply inv_ite_snd | apply clr_inv | apply inv_foldl | apply inv_foldl_fst | apply inv_foldl_snd | split | dsimp only | (unfold Inv; dsimp only; apply inv_fold)

theorem schedule_inv {f q} {x0 x1 x2} (hx2 : Inv f q x2) : Inv f q (schedule x0 x1 x2) :=
  inv_of hx2 rfl rfl rfl rfl

theorem modCh_inv {f q} {x0 x1 x2} (hx2 : Inv f q x2) : Inv f q (modCh x0 x1 x2) :=
  inv_of hx2 rfl rfl rfl rfl

theorem modHarn_inv {f q} {x0 x1 x2} (hx2 : Inv f q x2) : Inv f q (modHarn x0 x1 x2) :=
  inv_of hx2 rfl rfl rfl rfl

theorem modReed_inv {f q} {x0 x1 x2} (hx2 : Inv f q x2) : Inv f q (modReed x0 x1 x2) :=
  inv_of hx2 rfl rfl rfl rfl

theorem modEng_inv {f q} {x0 x1 x2} (hx2 : Inv f q x2) : Inv f q (modEng x0 x1 x2) :=
  inv_of hx2 rfl rfl rfl rfl

theorem modVec_inv {f q} {x0 x1 x2} (hx2 : Inv f q x2) : Inv f q (modVec x0 x1 x2) :=
  inv_of hx2 rfl rfl rfl rfl

theorem freshBit_inv {f q} {x0} (hx0 : Inv f q x0) : Inv f q (freshBit x0).2 :=
  inv_of hx0 rfl rfl rfl rfl

theorem freshWord_inv {f q} {x0} (hx0 : Inv f q x0) : Inv f q (freshWord x0).2 :=
  inv_of hx0 rfl rfl rfl rfl

theorem setNum_inv {f q} {x0 x1 x2} (hx2 : Inv f q x2) : Inv f q (setNum x0 x1 x2) := by
  unfold setNum; with_reducible repeat' first | assumption | apply inv_ite | apply rset_inv | apply freshWord_inv

theorem expressRequest_inv {f q} {x0 x1 x2} (hx2 : Inv f q x2.1) : Inv f q (expressRequest x0 x1 x2).1 := by
  unfold expressRequest; with_reducible repeat' first | intro _ | assumption | apply count_inv | apply setb_inv | apply schedule_inv | rfl | apply inv_ite | apply inv_id | apply invR_ite | apply inv_next | apply inv_ite_fst | apply inv_ite_snd | apply inv_foldl | apply inv_foldl_fst | apply inv_foldl_snd | split | dsimp only | (unfold Inv; dsimp only; apply inv_fold)

theorem taskRequest_inv {f q} {x0 x1} (hx1 : Inv f q x1.1) : Inv f q (taskRequest x0 x1).1 := by
  unfold taskRequest; with_reducible repeat' first | intro _ | assumption | apply count_inv | split | dsimp only | (unfold Inv; dsimp only; apply inv_fold)

theorem raiseOne_inv {f q} {x0 x1} (hx1 : Inv f q x1) : Inv f q (raiseOne x0 x1).1 := by
  unfold raiseOne; with_reducible repeat' first | intro _ | assumption | apply forEach_inv | apply when__inv | apply schedule_inv | apply arrive_inv | apply setb_inv | apply taskRequest_inv | apply expressRequest_inv | rfl | apply inv_ite | apply inv_id | apply invR_ite | apply inv_next | apply inv_ite_fst | apply inv_ite_snd | apply inv_foldl | apply inv_foldl_fst | apply inv_foldl_snd | split | dsimp only | (unfold Inv; dsimp only; apply inv_fold)

theorem raiseList_inv {f q} {x0 x1 x2} (hx2 : Inv f q x2) : Inv f q (raiseList x0 x1 x2) := by
  induction x0 generalizing x1 x2 with
  | zero => exact hx2
  | succ n ih =>
    cases x1 with
    | nil => exact hx2
    | cons _ _ => exact ih (raiseOne_inv hx2)

theorem raise_inv {f q} {x0 x1} (hx1 : Inv f q x1) : Inv f q (raise x0 x1) := by
  unfold raise; with_reducible repeat' first | assumption | apply raiseList_inv

theorem takeWires_inv {f q} {x0 x1} (hx1 : Inv f q x1) : Inv f q (takeWires x0 x1).2 :=
  inv_of hx1 rfl rfl rfl rfl

theorem flagRaise_inv {f q} {x0 x1 x2 x3} (hx3 : Inv f q x3) : Inv f q (flagRaise x0 x1 x2 x3) := by
  unfold flagRaise; with_reducible repeat' first | assumption | apply raise_inv | apply setb_inv

theorem ok_inv {f q} {x0} (hx0 : Inv f q x0) : InvR f q (ok x0) := by
  unfold ok; with_reducible repeat' first | assumption | apply inv_next

theorem guarded_inv {f q} {x0 x1 x2} (hx1 : ∀ y0, Inv f q y0 → Inv f q (x1 y0)) (hx2 : Inv f q x2) : InvR f q (guarded x0 x1 x2) := by
  unfold guarded; with_reducible repeat' first | assumption | apply inv_ite | apply hx1 | apply inv_next

/-! ### Phase.lean -/

theorem modTrd_inv {f q} {x0 x1 x2} (hx2 : Inv f q x2) : Inv f q (modTrd x0 x1 x2) :=
  inv_of hx2 rfl rfl rfl rfl

theorem publishRate_inv {f q} {x0 x1} (hx1 : Inv f q x1) : Inv f q (publishRate x0 x1) := by
  unfold publishRate; with_reducible repeat' first | assumption | apply setNum_inv

theorem pushSeg_inv {f q} {x0 x1 x2} (hx2 : Inv f q x2) : Inv f q (pushSeg x0 x1 x2) := by
  unfold pushSeg; with_reducible repeat' first | assumption | apply modTrd_inv

theorem holdAt_inv {f q} {x0 x1 x2} (hx2 : Inv f q x2) : Inv f q (holdAt x0 x1 x2) := by
  unfold holdAt; with_reducible repeat' first | assumption | apply pushSeg_inv

theorem phaseReadOp_inv {f q} {x0 x1} (hx1 : Inv f q x1) : Inv f q (phaseReadOp x0 x1).2 := by
  unfold phaseReadOp; with_reducible repeat' first | assumption | apply rset_inv

theorem modeReport_inv {f q} {x0 x1} (hx1 : Inv f q x1) : Inv f q (modeReport x0 x1) := by
  unfold modeReport; with_reducible repeat' first | intro _ | assumption | apply when__inv | apply raise_inv | apply noteSafe_inv | apply setf_inv | rfl | apply inv_ite | apply inv_id | apply invR_ite | apply inv_next | apply inv_ite_fst | apply inv_ite_snd | apply inv_foldl | apply inv_foldl_fst | apply inv_foldl_snd | split | dsimp only | (unfold Inv; dsimp only; apply inv_fold)

theorem modeAuto_inv {f q} {x0} (hx0 : Inv f q x0) : Inv f q (modeAuto x0) := by
  unfold modeAuto; with_reducible repeat' first | assumption | apply inv_ite | apply modeReport_inv

/-! ### Reed.lean -/

theorem modSide_inv {f q} {x0 x1 x2} (hx2 : Inv f q x2) : Inv f q (modSide x0 x1 x2) := by
  unfold modSide; with_reducible repeat' first | assumption | apply modReed_inv

theorem noteSwitch_inv {f q} {x0 x1} (hx1 : Inv f q x1) : Inv f q (noteSwitch x0 x1) := by
  unfold noteSwitch; with_reducible repeat' first | intro _ | assumption | apply modCh_inv | rfl | apply inv_ite | apply inv_id | apply invR_ite | apply inv_next | apply inv_ite_fst | apply inv_ite_snd | apply inv_foldl | apply inv_foldl_fst | apply inv_foldl_snd | split | dsimp only | (unfold Inv; dsimp only; apply inv_fold)

theorem endHandover_inv {f q} {x0 x1} (hx1 : Inv f q x1) : Inv f q (endHandover x0 x1) := by
  unfold endHandover; with_reducible repeat' first | intro _ | assumption | apply noteSwitch_inv | apply modCh_inv | rfl | apply inv_ite | apply inv_id | apply invR_ite | apply inv_next | apply inv_ite_fst | apply inv_ite_snd | apply inv_foldl | apply inv_foldl_fst | apply inv_foldl_snd | split | dsimp only | (unfold Inv; dsimp only; apply inv_fold)

theorem stageEdge_inv {f q} {x0 x1 x2 x3} (hx3 : Inv f q x3) : Inv f q (stageEdge x0 x1 x2 x3) := by
  unfold stageEdge; with_reducible repeat' first | intro _ | assumption | apply count_inv | apply setb_inv | apply modSide_inv | split | dsimp only | (unfold Inv; dsimp only; apply inv_fold)

theorem requestEdge_inv {f q} {x0 x1 x2 x3} (hx3 : Inv f q x3) : Inv f q (requestEdge x0 x1 x2 x3) := by
  unfold requestEdge; with_reducible repeat' first | assumption | apply inv_ite | apply modSide_inv | apply stageEdge_inv | apply count_inv | apply setb_inv

theorem refreshPair_inv {f q} {x0 x1 x2} (hx2 : Inv f q x2) : Inv f q (refreshPair x0 x1 x2) := by
  unfold refreshPair; with_reducible repeat' first | assumption | apply inv_ite | apply requestEdge_inv

theorem tripAct_inv {f q} {x0 x1 x2 x3} (hx3 : Inv f q x3) : Inv f q (tripAct x0 x1 x2 x3) := by
  unfold tripAct; with_reducible repeat' first | intro _ | assumption | apply forEach_inv | apply count_inv | apply setb_inv | apply noteSwitch_inv | apply flagRaise_inv | rfl | apply inv_ite | apply inv_id | apply invR_ite | apply inv_next | apply inv_ite_fst | apply inv_ite_snd | apply inv_foldl | apply inv_foldl_fst | apply inv_foldl_snd | split | dsimp only | (unfold Inv; dsimp only; apply inv_fold)

theorem setIgn_inv {f q} {x0 x1 x2 x3} (hx3 : Inv f q x3) : Inv f q (setIgn x0 x1 x2 x3) := by
  unfold setIgn; with_reducible repeat' first | assumption | apply modReed_inv

theorem ignoreInput_inv {f q} {x0 x1 x2} (hx2 : Inv f q x2) : Inv f q (ignoreInput x0 x1 x2) := by
  unfold ignoreInput; with_reducible repeat' first | intro _ | assumption | apply schedule_inv | apply setIgn_inv | rfl | apply inv_ite | apply inv_id | apply invR_ite | apply inv_next | apply inv_ite_fst | apply inv_ite_snd | apply inv_foldl | apply inv_foldl_fst | apply inv_foldl_snd | split | dsimp only | (unfold Inv; dsimp only; apply inv_fold)

theorem tripOnset_inv {f q} {x0 x1 x2 x3} (hx3 : Inv f q x3) : Inv f q (tripOnset x0 x1 x2 x3) := by
  unfold tripOnset; with_reducible repeat' first | intro _ | assumption | apply modHarn_inv | apply schedule_inv | rfl | apply inv_ite | apply inv_id | apply invR_ite | apply inv_next | apply inv_ite_fst | apply inv_ite_snd | apply inv_foldl | apply inv_foldl_fst | apply inv_foldl_snd | split | dsimp only | (unfold Inv; dsimp only; apply inv_fold)

theorem onsetJudge_inv {f q} {x0 x1 x2} (hx2 : Inv f q x2) : Inv f q (onsetJudge x0 x1 x2) := by
  unfold onsetJudge; with_reducible repeat' first | intro _ | assumption | apply forEach_inv | apply count_inv | apply setb_inv | apply ignoreInput_inv | apply schedule_inv | apply modHarn_inv | rfl | apply inv_ite | apply inv_id | apply invR_ite | apply inv_next | apply inv_ite_fst | apply inv_ite_snd | apply inv_foldl | apply inv_foldl_fst | apply inv_foldl_snd | split | dsimp only | (unfold Inv; dsimp only; apply inv_fold)

theorem tripJudgeOp_inv {f q} {x0 x1} (hx1 : Inv f q x1) : Inv f q (tripJudgeOp x0 x1) := by
  unfold tripJudgeOp; with_reducible repeat' first | intro _ | assumption | apply forEach_inv | apply onsetJudge_inv | apply modHarn_inv | rfl | apply inv_ite | apply inv_id | apply invR_ite | apply inv_next | apply inv_ite_fst | apply inv_ite_snd | apply inv_foldl | apply inv_foldl_fst | apply inv_foldl_snd | split | dsimp only | (unfold Inv; dsimp only; apply inv_fold)

theorem tripCutOp_inv {f q} {x0 x1 x2} (hx2 : Inv f q x2) : Inv f q (tripCutOp x0 x1 x2) := by
  unfold tripCutOp; with_reducible repeat' first | intro _ | assumption | apply tripAct_inv | apply modHarn_inv | rfl | apply inv_ite | apply inv_id | apply invR_ite | apply inv_next | apply inv_ite_fst | apply inv_ite_snd | apply inv_foldl | apply inv_foldl_fst | apply inv_foldl_snd | split | dsimp only | (unfold Inv; dsimp only; apply inv_fold)

theorem tripEnd_inv {f q} {x0 x1 x2} (hx2 : Inv f q x2) : Inv f q (tripEnd x0 x1 x2) := by
  unfold tripEnd; with_reducible repeat' first | intro _ | assumption | apply forEach_inv | apply modHarn_inv | apply count_inv | apply setb_inv | apply setIgn_inv | rfl | apply inv_ite | apply inv_id | apply invR_ite | apply inv_next | apply inv_ite_fst | apply inv_ite_snd | apply inv_foldl | apply inv_foldl_fst | apply inv_foldl_snd | split | dsimp only | (unfold Inv; dsimp only; apply inv_fold)

theorem refreshTrip_inv {f q} {x0 x1 x2} (hx2 : Inv f q x2) : Inv f q (refreshTrip x0 x1 x2) := by
  unfold refreshTrip; with_reducible repeat' first | intro _ | assumption | apply setb_inv | apply tripOnset_inv | apply tripEnd_inv | rfl | apply inv_ite | apply inv_id | apply invR_ite | apply inv_next | apply inv_ite_fst | apply inv_ite_snd | apply inv_foldl | apply inv_foldl_fst | apply inv_foldl_snd | split | dsimp only | (unfold Inv; dsimp only; apply inv_fold)

theorem tripRewrite_inv {f q} {x0 x1 x2 x3 x4} (hx4 : Inv f q x4) : Inv f q (tripRewrite x0 x1 x2 x3 x4) := by
  unfold tripRewrite; with_reducible repeat' first | intro _ | assumption | apply refreshTrip_inv | apply tripOnset_inv | rfl | apply inv_ite | apply inv_id | apply invR_ite | apply inv_next | apply inv_ite_fst | apply inv_ite_snd | apply inv_foldl | apply inv_foldl_fst | apply inv_foldl_snd | split | dsimp only | (unfold Inv; dsimp only; apply inv_fold)

theorem refreshTrips_inv {f q} {x0} (hx0 : Inv f q x0) : Inv f q (refreshTrips x0) := by
  unfold refreshTrips; with_reducible repeat' first | intro _ | assumption | apply forEach_inv | apply refreshTrip_inv

theorem releasePins_inv {f q} {x0 x1} (hx1 : Inv f q x1) : Inv f q (releasePins x0 x1) := by
  unfold releasePins; with_reducible repeat' first | intro _ | assumption | apply forEach_inv | apply noteSwitch_inv | apply modCh_inv | rfl | apply inv_ite | apply inv_id | apply invR_ite | apply inv_next | apply inv_ite_fst | apply inv_ite_snd | apply inv_foldl | apply inv_foldl_fst | apply inv_foldl_snd | split | dsimp only | (unfold Inv; dsimp only; apply inv_fold)

theorem cutDone_inv {f q} {x0 x1 x2} (hx2 : Inv f q x2) : Inv f q (cutDone x0 x1 x2) := by
  unfold cutDone; with_reducible repeat' first | intro _ | assumption | apply modHarn_inv | rfl | apply inv_ite | apply inv_id | apply invR_ite | apply inv_next | apply inv_ite_fst | apply inv_ite_snd | apply inv_foldl | apply inv_foldl_fst | apply inv_foldl_snd | split | dsimp only | (unfold Inv; dsimp only; apply inv_fold)

theorem periodFlush_inv {f q} {x0 x1} (hx1 : Inv f q x1) : Inv f q (periodFlush x0 x1) := by
  unfold periodFlush; with_reducible repeat' first | intro _ | assumption | apply forEach_inv | apply cutDone_inv | apply tripAct_inv | apply modHarn_inv | rfl | apply inv_ite | apply inv_id | apply invR_ite | apply inv_next | apply inv_ite_fst | apply inv_ite_snd | apply inv_foldl | apply inv_foldl_fst | apply inv_foldl_snd | split | dsimp only | (unfold Inv; dsimp only; apply inv_fold)

theorem periodStart_inv {f q} {x0 x1} (hx1 : Inv f q x1) : Inv f q (periodStart x0 x1) := by
  unfold periodStart; with_reducible repeat' first | intro _ | assumption | apply schedule_inv | rfl | apply inv_ite | apply inv_id | apply invR_ite | apply inv_next | apply inv_ite_fst | apply inv_ite_snd | apply inv_foldl | apply inv_foldl_fst | apply inv_foldl_snd | split | dsimp only | (unfold Inv; dsimp only; apply inv_fold)

theorem periodOp_inv {f q} {x0 x1} (hx1 : Inv f q x1) : Inv f q (periodOp x0 x1) := by
  unfold periodOp; with_reducible repeat' first | intro _ | assumption | apply forEach_inv | apply periodFlush_inv | apply setb_inv | apply noteSwitch_inv | apply count_inv | apply flagRaise_inv | apply releasePins_inv | rfl | apply inv_ite | apply inv_id | apply invR_ite | apply inv_next | apply inv_ite_fst | apply inv_ite_snd | apply inv_foldl | apply inv_foldl_fst | apply inv_foldl_snd | split | dsimp only | (unfold Inv; dsimp only; apply inv_fold)

theorem setOut_inv {f q} {x0 x1 x2 x3} (hx3 : Inv f q x3) : Inv f q (setOut x0 x1 x2 x3) := by
  unfold setOut; with_reducible repeat' first | assumption | apply inv_ite | apply setb_inv | apply periodStart_inv | apply refreshPair_inv

theorem unreleaseAll_inv {f q} {x0} (hx0 : Inv f q x0) : Inv f q (unreleaseAll x0) :=
  inv_of hx0 rfl rfl rfl rfl

theorem unreleaseHarness_inv {f q} {x0 x1} (hx1 : Inv f q x1) : Inv f q (unreleaseHarness x0 x1) := by
  unfold unreleaseHarness; with_reducible repeat' first | intro _ | assumption | apply forEach_inv | apply noteSafe_inv | apply modCh_inv | rfl | apply inv_ite | apply inv_id | apply invR_ite | apply inv_next | apply inv_ite_fst | apply inv_ite_snd | apply inv_foldl | apply inv_foldl_fst | apply inv_foldl_snd | split | dsimp only | (unfold Inv; dsimp only; apply inv_fold)

/-! ### Channel.lean -/

theorem writePresc_inv {f q} {x0 x1 x2} (hx2 : Inv f q x2) : Inv f q (writePresc x0 x1 x2) := by
  unfold writePresc; with_reducible repeat' first | intro _ | assumption | apply rset_inv | apply modHarn_inv | rfl | apply inv_ite | apply inv_id | apply invR_ite | apply inv_next | apply inv_ite_fst | apply inv_ite_snd | apply inv_foldl | apply inv_foldl_fst | apply inv_foldl_snd | split | dsimp only | (unfold Inv; dsimp only; apply inv_fold)

theorem chEvent_inv {f q} {x0 x1 x2} (hx2 : Inv f q x2) : Inv f q (chEvent x0 x1 x2) := by
  unfold chEvent; with_reducible repeat' first | assumption | apply inv_ite | apply when__inv | apply setb_inv | apply raise_inv | apply modCh_inv

theorem setArmed_inv {f q} {x0 x1 x2} (hx2 : Inv f q x2) : Inv f q (setArmed x0 x1 x2) := by
  unfold setArmed; with_reducible repeat' first | assumption | apply setb_inv

theorem armOne_inv {f q} {x0 x1} (hx1 : Inv f q x1) : Inv f q (armOne x0 x1) := by
  unfold armOne; with_reducible repeat' first | assumption | apply inv_ite | apply setArmed_inv

theorem copyStaged_inv {f q} {x0 x1 x2 x3 x4} (hx4 : Inv f q x4) : Inv f q (copyStaged x0 x1 x2 x3 x4) := by
  unfold copyStaged; with_reducible repeat' first | assumption | apply inv_ite | apply rset_inv

theorem noteTransfer_inv {f q} {x0 x1} (hx1 : Inv f q x1) : Inv f q (noteTransfer x0 x1) := by
  unfold noteTransfer; with_reducible repeat' first | intro _ | assumption | apply modCh_inv | rfl | apply inv_ite | apply inv_id | apply invR_ite | apply inv_next | apply inv_ite_fst | apply inv_ite_snd | apply inv_foldl | apply inv_foldl_fst | apply inv_foldl_snd | split | dsimp only | (unfold Inv; dsimp only; apply inv_fold)

theorem liveWrite_inv {f q} {x0 x1 x2 x3 x4} (hx4 : Inv f q x4) : Inv f q (liveWrite x0 x1 x2 x3 x4) := by
  unfold liveWrite; with_reducible repeat' first | intro _ | assumption | apply rset_inv | rfl | apply inv_ite | apply inv_id | apply invR_ite | apply inv_next | apply inv_ite_fst | apply inv_ite_snd | apply inv_foldl | apply inv_foldl_fst | apply inv_foldl_snd | split | dsimp only | (unfold Inv; dsimp only; apply inv_fold)

theorem transfer_inv {f q} {x0 x1} (hx1 : Inv f q x1) : Inv f q (transfer x0 x1) := by
  unfold transfer; with_reducible repeat' first | intro _ | assumption | apply setArmed_inv | apply raise_inv | apply setb_inv | apply copyStaged_inv | apply noteTransfer_inv | apply setf_inv | rfl | apply inv_ite | apply inv_id | apply invR_ite | apply inv_next | apply inv_ite_fst | apply inv_ite_snd | apply inv_foldl | apply inv_foldl_fst | apply inv_foldl_snd | split | dsimp only | (unfold Inv; dsimp only; apply inv_fold)

theorem compareAct_inv {f q} {x0 x1 x2 x3} (hx3 : Inv f q x3) : Inv f q (compareAct x0 x1 x2 x3) := by
  unfold compareAct; with_reducible repeat' first | assumption | apply setOut_inv | split

theorem matchOut_inv {f q} {x0 x1 x2 x3 x4} (hx4 : Inv f q x4) : Inv f q (matchOut x0 x1 x2 x3 x4) := by
  unfold matchOut; with_reducible repeat' first | assumption | apply when__inv | apply setOut_inv | apply compareAct_inv | split

theorem countTo_inv {f q} {x0 x1 x2} (hx2 : Inv f q x2) : Inv f q (countTo x0 x1 x2) := by
  unfold countTo; with_reducible repeat' first | intro _ | assumption | apply when__inv | apply rset_inv | apply chEvent_inv | rfl | apply inv_ite | apply inv_id | apply invR_ite | apply inv_next | apply inv_ite_fst | apply inv_ite_snd | apply inv_foldl | apply inv_foldl_fst | apply inv_foldl_snd | split | dsimp only | (unfold Inv; dsimp only; apply inv_fold)

theorem takeCount_inv {f q} {x0 x1 x2} (hx2 : Inv f q x2) : Inv f q (takeCount x0 x1 x2) := by
  unfold takeCount; with_reducible repeat' first | intro _ | assumption | apply matchOut_inv | apply countTo_inv | rfl | apply inv_ite | apply inv_id | apply invR_ite | apply inv_next | apply inv_ite_fst | apply inv_ite_snd | apply inv_foldl | apply inv_foldl_fst | apply inv_foldl_snd | split | dsimp only | (unfold Inv; dsimp only; apply inv_fold)

theorem lapStart_inv {f q} {x0 x1} (hx1 : Inv f q x1) : Inv f q (lapStart x0 x1) := by
  unfold lapStart; with_reducible repeat' first | assumption | apply when__inv | apply periodStart_inv | apply setOut_inv | apply takeCount_inv

theorem oneShotEnd_inv {f q} {x0 x1} (hx1 : Inv f q x1) : Inv f q (oneShotEnd x0 x1) := by
  unfold oneShotEnd; with_reducible repeat' first | intro _ | assumption | apply setOut_inv | apply countTo_inv | apply modCh_inv | apply setb_inv | rfl | apply inv_ite | apply inv_id | apply invR_ite | apply inv_next | apply inv_ite_fst | apply inv_ite_snd | apply inv_foldl | apply inv_foldl_fst | apply inv_foldl_snd | split | dsimp only | (unfold Inv; dsimp only; apply inv_fold)

theorem wrap_inv {f q} {x0 x1 x2} (hx2 : Inv f q x2) : Inv f q (wrap x0 x1 x2) := by
  unfold wrap; with_reducible repeat' first | intro _ | assumption | apply inv_ite | apply when__inv | apply setb_inv | apply chEvent_inv | apply modCh_inv | apply transfer_inv | apply oneShotEnd_inv | apply lapStart_inv

theorem oneShotBegin_inv {f q} {x0 x1} (hx1 : Inv f q x1) : Inv f q (oneShotBegin x0 x1) := by
  unfold oneShotBegin; with_reducible repeat' first | assumption | apply setb_inv | apply modCh_inv | apply periodStart_inv | apply when__inv | apply setOut_inv | apply takeCount_inv

theorem countStep_inv {f q} {x0 x1} (hx1 : Inv f q x1) : Inv f q (countStep x0 x1) := by
  unfold countStep; with_reducible repeat' first | assumption | apply inv_ite | apply wrap_inv | apply oneShotBegin_inv | apply takeCount_inv | apply lapStart_inv | apply modCh_inv

theorem startArrives_inv {f q} {x0 x1} (hx1 : Inv f q x1) : Inv f q (startArrives x0 x1) := by
  unfold startArrives; with_reducible repeat' first | assumption | apply inv_ite | apply setb_inv | apply modCh_inv

theorem captureNow_inv {f q} {x0 x1 x2 x3} (hx3 : Inv f q x3) : Inv f q (captureNow x0 x1 x2 x3) := by
  unfold captureNow; with_reducible repeat' first | intro _ | assumption | apply inv_ite | apply when__inv | apply count_inv | apply setb_inv | apply rset_inv | apply chEvent_inv | apply modCh_inv

theorem capture_inv {f q} {x0 x1 x2 x3} (hx3 : Inv f q x3) : Inv f q (capture x0 x1 x2 x3) := by
  unfold capture; with_reducible repeat' first | assumption | apply inv_ite | apply schedule_inv | apply captureNow_inv

theorem captureEnd_inv {f q} {x0 x1 x2 x3} (hx3 : Inv f q x3) : Inv f q (captureEnd x0 x1 x2 x3) := by
  unfold captureEnd; with_reducible repeat' first | intro _ | assumption | apply schedule_inv | apply captureNow_inv | rfl | apply inv_ite | apply inv_id | apply invR_ite | apply inv_next | apply inv_ite_fst | apply inv_ite_snd | apply inv_foldl | apply inv_foldl_fst | apply inv_foldl_snd | split | dsimp only | (unfold Inv; dsimp only; apply inv_fold)

theorem captureFlush_inv {f q} {x0 x1} (hx1 : Inv f q x1) : Inv f q (captureFlush x0 x1) := by
  unfold captureFlush; with_reducible repeat' first | intro _ | assumption | apply forEach_inv | apply captureEnd_inv | rfl | apply inv_ite | apply inv_id | apply invR_ite | apply inv_next | apply inv_ite_fst | apply inv_ite_snd | apply inv_foldl | apply inv_foldl_fst | apply inv_foldl_snd | split | dsimp only | (unfold Inv; dsimp only; apply inv_fold)

theorem captureEdge_inv {f q} {x0 x1 x2 x3} (hx3 : Inv f q x3) : Inv f q (captureEdge x0 x1 x2 x3) := by
  unfold captureEdge; with_reducible repeat' first | assumption | apply inv_ite | apply capture_inv

theorem captureSpan_inv {f q} {x0 x1 x2 x3} (hx3 : Inv f q x3) : Inv f q (captureSpan x0 x1 x2 x3) := by
  unfold captureSpan; with_reducible repeat' first | assumption | apply inv_ite | apply capture_inv

theorem measBegin_inv {f q} {x0 x1 x2} (hx2 : Inv f q x2) : Inv f q (measBegin x0 x1 x2) := by
  unfold measBegin; with_reducible repeat' first | assumption | apply modCh_inv

theorem edgeStep_inv {f q} {x0 x1} (hx1 : Inv f q x1) : Inv f q (edgeStep x0 x1) := by
  unfold edgeStep; with_reducible repeat' first | intro _ | assumption | apply when__inv | apply takeCount_inv | apply modCh_inv | apply wrap_inv | rfl | apply inv_ite | apply inv_id | apply invR_ite | apply inv_next | apply inv_ite_fst | apply inv_ite_snd | apply inv_foldl | apply inv_foldl_fst | apply inv_foldl_snd | split | dsimp only | (unfold Inv; dsimp only; apply inv_fold)

theorem takeAction_inv {f q} {x0 x1} (hx1 : Inv f q x1) : Inv f q (takeAction x0 x1).2 := by
  unfold takeAction
  have h := takeWires_inv (x0 := x0) hx1
  dsimp only
  split
  · exact h
  · exact h

theorem edgeActs_inv {f q} {x0 x1} (hx1 : Inv f q x1) : Inv f q (edgeActs x0 x1) := by
  unfold edgeActs; with_reducible repeat' first | intro _ | assumption | apply takeAction_inv | apply when__inv | apply capture_inv | apply wrap_inv

theorem channelEdge_inv {f q} {x0 x1 x2 x3 x4} (hx4 : Inv f q x4) : Inv f q (channelEdge x0 x1 x2 x3 x4) := by
  unfold channelEdge; with_reducible repeat' first | intro _ | assumption | apply when__inv | apply captureEdge_inv | apply captureSpan_inv | apply measBegin_inv | apply modCh_inv | apply edgeStep_inv | apply edgeActs_inv | split | dsimp only | (unfold Inv; dsimp only; apply inv_fold)

theorem capReadOp_inv {f q} {x0 x1} (hx1 : Inv f q x1) : Inv f q (capReadOp x0 x1).2 := by
  unfold capReadOp; with_reducible repeat' first | assumption | apply modCh_inv | apply setb_inv | apply rset_inv

theorem lateEdges_inv {f q} {x0 x1} (hx1 : Inv f q x1) : Inv f q (lateEdges x0 x1) := by
  unfold lateEdges; with_reducible repeat' first | intro _ | assumption | apply forEach_inv | apply channelEdge_inv | split | dsimp only | (unfold Inv; dsimp only; apply inv_fold)

theorem chTick_inv {f q} {x0 x1 x2} (hx2 : Inv f q x2) : Inv f q (chTick x0 x1 x2) := by
  unfold chTick; with_reducible repeat' first | intro _ | assumption | apply inv_ite | apply when__inv | apply wrap_inv | apply takeAction_inv | apply startArrives_inv | apply countStep_inv | apply captureEdge_inv | apply lateEdges_inv

theorem harnTick_inv {f q} {x0 x1} (hx1 : Inv f q x1) : Inv f q (harnTick x0 x1) := by
  unfold harnTick; with_reducible repeat' first | intro _ | assumption | apply inv_ite | apply forEach_inv | apply setArmed_inv | apply when__inv | apply transfer_inv | apply setb_inv | apply modHarn_inv | apply chTick_inv

theorem writeCompare_inv {f q} {x0 x1 x2 x3} (hx3 : Inv f q x3) : Inv f q (writeCompare x0 x1 x2 x3) := by
  unfold writeCompare; with_reducible repeat' first | intro _ | assumption | apply when__inv | apply liveWrite_inv | apply setb_inv | rfl | apply inv_ite | apply inv_id | apply invR_ite | apply inv_next | apply inv_ite_fst | apply inv_ite_snd | apply inv_foldl | apply inv_foldl_fst | apply inv_foldl_snd | split | dsimp only | (unfold Inv; dsimp only; apply inv_fold)

theorem writeEvcfg_inv {f q} {x0 x1 x2} (hx2 : Inv f q x2) : Inv f q (writeEvcfg x0 x1 x2) := by
  unfold writeEvcfg; with_reducible repeat' first | intro _ | assumption | apply modCh_inv | apply rset_inv | rfl | apply inv_ite | apply inv_id | apply invR_ite | apply inv_next | apply inv_ite_fst | apply inv_ite_snd | apply inv_foldl | apply inv_foldl_fst | apply inv_foldl_snd | split | dsimp only | (unfold Inv; dsimp only; apply inv_fold)

theorem writeStaged_inv {f q} {x0 x1 x2 x3 x4} (hx4 : Inv f q x4) : Inv f q (writeStaged x0 x1 x2 x3 x4) := by
  unfold writeStaged; with_reducible repeat' first | assumption | apply setb_inv | apply rset_inv

theorem enterOffOp_inv {f q} {x0 x1 x2} (hx2 : Inv f q x2) : Inv f q (enterOffOp x0 x1 x2) := by
  unfold enterOffOp; with_reducible repeat' first | intro _ | assumption | apply captureFlush_inv | apply setOut_inv | apply rset_inv | apply setb_inv | apply setArmed_inv | apply modCh_inv | apply refreshPair_inv | rfl | apply inv_ite | apply inv_id | apply invR_ite | apply inv_next | apply inv_ite_fst | apply inv_ite_snd | apply inv_foldl | apply inv_foldl_fst | apply inv_foldl_snd | split | dsimp only | (unfold Inv; dsimp only; apply inv_fold)

theorem leaveOffOp_inv {f q} {x0 x1 x2} (hx2 : Inv f q x2) : Inv f q (leaveOffOp x0 x1 x2) := by
  unfold leaveOffOp; with_reducible repeat' first | intro _ | assumption | apply rset_inv | apply setb_inv | apply modCh_inv | apply refreshPair_inv | apply when__inv | apply startArrives_inv

theorem writeChCtl_inv {f q} {x0 x1 x2} (hx2 : Inv f q x2) : Inv f q (writeChCtl x0 x1 x2) := by
  unfold writeChCtl; with_reducible repeat' first | assumption | apply inv_ite | apply enterOffOp_inv | apply leaveOffOp_inv | apply rset_inv | apply startArrives_inv | apply setb_inv

theorem presentOp_inv {f q} {x0 x1 x2} (hx2 : Inv f q x2) : Inv f q (presentOp x0 x1 x2) := by
  unfold presentOp; with_reducible repeat' first | intro _ | assumption | apply freshBit_inv | apply refreshTrips_inv | apply modCh_inv | rfl | apply inv_ite | apply inv_id | apply invR_ite | apply inv_next | apply inv_ite_fst | apply inv_ite_snd | apply inv_foldl | apply inv_foldl_fst | apply inv_foldl_snd | split | dsimp only | (unfold Inv; dsimp only; apply inv_fold)

theorem schedulePresent_inv {f q} {x0 x1 x2} (hx2 : Inv f q x2) : Inv f q (schedulePresent x0 x1 x2) := by
  unfold schedulePresent; with_reducible repeat' first | intro _ | assumption | apply schedule_inv | rfl | apply inv_ite | apply inv_id | apply invR_ite | apply inv_next | apply inv_ite_fst | apply inv_ite_snd | apply inv_foldl | apply inv_foldl_fst | apply inv_foldl_snd | split | dsimp only | (unfold Inv; dsimp only; apply inv_fold)

theorem glitch_inv {f q} {x0 x1} (hx1 : Inv f q x1) : Inv f q (glitch x0 x1) := by
  unfold glitch; with_reducible repeat' first | assumption | apply count_inv | apply setb_inv

theorem filterSampleOp_inv {f q} {x0 x1} (hx1 : Inv f q x1) : Inv f q (filterSampleOp x0 x1) := by
  unfold filterSampleOp; with_reducible repeat' first | assumption | apply inv_ite | apply modCh_inv | apply when__inv | apply glitch_inv | apply schedule_inv

theorem edgeLandOp_inv {f q} {x0 x1 x2 x3} (hx3 : Inv f q x3) : Inv f q (edgeLandOp x0 x1 x2 x3) := by
  unfold edgeLandOp; with_reducible repeat' first | assumption | apply inv_ite | apply schedule_inv | apply modCh_inv | apply setb_inv | apply refreshTrips_inv | apply when__inv | apply channelEdge_inv

theorem endMeas_inv {f q} {x0 x1} (hx1 : Inv f q x1) : Inv f q (endMeas x0 x1) := by
  unfold endMeas; exact modCh_inv hx1

theorem enterIndet_inv {f q} {x0 x1} (hx1 : Inv f q x1) : Inv f q (enterIndet x0 x1) := by
  unfold enterIndet; with_reducible repeat' first | intro _ | assumption | apply setb_inv | apply when__inv | apply endMeas_inv | apply refreshTrips_inv | apply modCh_inv | split | dsimp only | (unfold Inv; dsimp only; apply inv_fold)

theorem pinTransitionOp_inv {f q} {x0 x1 x2 x3} (hx3 : Inv f q x3) : Inv f q (pinTransitionOp x0 x1 x2 x3) := by
  unfold pinTransitionOp; with_reducible repeat' first | intro _ | assumption | apply schedulePresent_inv | apply modCh_inv | apply freshBit_inv | rfl | apply inv_ite | apply inv_id | apply invR_ite | apply inv_next | apply inv_ite_fst | apply inv_ite_snd | apply inv_foldl | apply inv_foldl_fst | apply inv_foldl_snd | split | dsimp only | (unfold Inv; dsimp only; apply inv_fold)

/-! ### Log.lean -/

theorem logWrite_inv {f q} {x0 x1} (hx1 : Inv f q x1) : Inv f q (logWrite x0 x1) := by
  unfold logWrite; with_reducible repeat' first | intro _ | assumption | apply when__inv | apply count_inv | apply rset_inv | apply raise_inv | split | dsimp only | (unfold Inv; dsimp only; apply inv_fold)

theorem logLose_inv {f q} {x0} (hx0 : Inv f q x0) : Inv f q (logLose x0) := by
  unfold logLose; with_reducible repeat' first | intro _ | assumption | apply count_inv | apply flagRaise_inv | split | dsimp only | (unfold Inv; dsimp only; apply inv_fold)

theorem logPut_inv {f q} {x0 x1} (hx1 : Inv f q x1) : Inv f q (logPut x0 x1) := by
  unfold logPut; with_reducible repeat' first | intro _ | assumption | apply logWrite_inv | apply logLose_inv | split | dsimp only | (unfold Inv; dsimp only; apply inv_fold)

theorem logCause_inv {f q} {x0 x1 x2 x3 x4 x5} (hx5 : Inv f q x5) : Inv f q (logCause x0 x1 x2 x3 x4 x5) := by
  unfold logCause; with_reducible repeat' first | assumption | apply logPut_inv

theorem logLimited_inv {f q} {x0 x1 x2 x3 x4 x5} (hx5 : Inv f q x5) : Inv f q (logLimited x0 x1 x2 x3 x4 x5) := by
  unfold logLimited; with_reducible repeat' first | intro _ | assumption | apply logPut_inv | split | dsimp only | (unfold Inv; dsimp only; apply inv_fold)

theorem logLocked_inv {f q} {x0 x1 x2} (hx2 : Inv f q x2) : Inv f q (logLocked x0 x1 x2) := by
  unfold logLocked; with_reducible repeat' first | intro _ | assumption | apply logCause_inv | split | dsimp only | (unfold Inv; dsimp only; apply inv_fold)

theorem logDrain_inv {f q} {x0} (hx0 : Inv f q x0) : Inv f q (logDrain x0) := by
  unfold logDrain; with_reducible repeat' first | intro _ | assumption | apply forEach_inv | apply logWrite_inv | apply when__inv | split | dsimp only | (unfold Inv; dsimp only; apply inv_fold)

theorem detect_inv {f q} {x0 x1 x2 x3 x4} (hx4 : Inv f q x4) : Inv f q (detect x0 x1 x2 x3 x4) :=
  inv_of hx4 rfl rfl rfl rfl

/-! ### Mem.lean -/

theorem setMark_inv {f q} {x0 x1 x2} (hx2 : Inv f q x2) : Inv f q (setMark x0 x1 x2) :=
  inv_of hx2 rfl rfl rfl rfl

theorem notePort_inv {f q} {x0 x1 x2 x3} (hx3 : Inv f q x3) : Inv f q (notePort x0 x1 x2 x3) := by
  unfold notePort; with_reducible repeat' first | intro _ | assumption | apply modCyc_inv | rfl | apply inv_ite | apply inv_id | apply invR_ite | apply inv_next | apply inv_ite_fst | apply inv_ite_snd | apply inv_foldl | apply inv_foldl_fst | apply inv_foldl_snd | split | dsimp only | (unfold Inv; dsimp only; apply inv_fold)

theorem touchBank_inv {f q} {x0 x1} (hx1 : Inv f q x1) : Inv f q (touchBank x0 x1) :=
  inv_of hx1 rfl rfl rfl rfl

theorem correctable_inv {f q} {x0 x1} (hx1 : Inv f q x1) : Inv f q (correctable x0 x1) :=
  inv_of hx1 rfl rfl rfl rfl

theorem writeBackOp_inv {f q} {x0 x1} (hx1 : Inv f q x1) : Inv f q (writeBackOp x0 x1) := by
  unfold writeBackOp; with_reducible repeat' first | intro _ | assumption | apply setMark_inv | rfl | apply inv_ite | apply inv_id | apply invR_ite | apply inv_next | apply inv_ite_fst | apply inv_ite_snd | apply inv_foldl | apply inv_foldl_fst | apply inv_foldl_snd | split | dsimp only | (unfold Inv; dsimp only; apply inv_fold)

theorem uncorrectable_inv {f q} {x0 x1 x2} (hx2 : Inv f q x2) : Inv f q (uncorrectable x0 x1 x2) := by
  unfold uncorrectable; with_reducible repeat' first | assumption | apply rset_inv | apply count_inv | apply flagRaise_inv | apply logCause_inv | apply detect_inv

theorem checkRead_inv {f q} {x0 x1 x2 x3} (hx3 : Inv f q x3) : Inv f q (checkRead x0 x1 x2 x3).2 := by
  unfold checkRead; with_reducible repeat' first | intro _ | assumption | rfl | apply inv_ite | apply inv_id | apply invR_ite | apply inv_next | apply inv_ite_fst | apply inv_ite_snd | apply touchBank_inv | apply uncorrectable_inv | apply correctable_inv | apply inv_foldl | apply inv_foldl_fst | apply inv_foldl_snd | split | dsimp only | (unfold Inv; dsimp only; apply inv_fold)

theorem rewritten_inv {f q} {x0 x1} (hx1 : Inv f q x1) : Inv f q (rewritten x0 x1) := by
  unfold rewritten
  split
  · exact hx1
  · have h : Inv f q (if eccOn x1 then x1
        else { x1 with mem := mset x1.mem (0x1000000 + 8 * x0) (storedByte x1 (0x1000000 + 8 * x0)) }) :=
      inv_ite hx1 (inv_mem hx1 fun h => mset_canon _ _ h)
    exact inv_of (setMark_inv (x0 := x0) (x1 := 0) h) rfl rfl rfl rfl

theorem notePort_mem (r : Reader) (a n : Nat) (s : State) : (notePort r a n s).mem = s.mem := by
  unfold notePort
  split
  · rfl
  · split <;> rfl

theorem writeWord_inv {f q} {x0 x1 x2 x3} (hx3 : Inv f q x3) : Inv f q (writeWord x0 x1 x2 x3) := by
  unfold writeWord
  dsimp only
  split
  · exact uncorrectable_inv hx3
  · refine inv_mem (notePort_inv (rewritten_inv (when__inv (fun s h => correctable_inv h) hx3))) fun h => ?_
    rw [notePort_mem] at h
    exact putBytes_canon _ _ h

theorem writeBytes_inv {f q} {x0 x1 x2 x3} (hx3 : Inv f q x3) : Inv f q (writeBytes x0 x1 x2 x3) := by
  unfold writeBytes; with_reducible repeat' first | intro _ | assumption | apply forEach_inv | apply writeWord_inv | apply touchBank_inv | rfl | apply inv_ite | apply inv_id | apply invR_ite | apply inv_next | apply inv_ite_fst | apply inv_ite_snd | apply inv_foldl | apply inv_foldl_fst | apply inv_foldl_snd | split | dsimp only | (unfold Inv; dsimp only; apply inv_fold)

theorem writeN_inv {f q} {x0 x1 x2 x3 x4} (hx4 : Inv f q x4) : Inv f q (writeN x0 x1 x2 x3 x4) := by
  unfold writeN; with_reducible repeat' first | assumption | apply writeBytes_inv

/-! ### ShuttleOps.lean -/

theorem modShu_inv {f q} {x0 x1 x2} (hx2 : Inv f q x2) : Inv f q (modShu x0 x1 x2) :=
  inv_of hx2 rfl rfl rfl rfl

theorem modCtx_inv {f q} {x0 x1 x2 x3} (hx3 : Inv f q x3) : Inv f q (modCtx x0 x1 x2 x3) := by
  unfold modCtx; with_reducible repeat' first | assumption | apply modShu_inv

theorem setG_inv {f q} {x0 x1 x2 x3 x4 x5} (hx5 : Inv f q x5) : Inv f q (setG x0 x1 x2 x3 x4 x5) := by
  unfold setG; with_reducible repeat' first | assumption | apply modCtx_inv

theorem setFlags_inv {f q} {x0 x1 x2 x3} (hx3 : Inv f q x3) : Inv f q (setFlags x0 x1 x2 x3) := by
  unfold setFlags; with_reducible repeat' first | assumption | apply modCtx_inv

theorem feedW_inv {f q} {x0 x1 x2 x3} (hx3 : Inv f q x3) : Inv f q (feedW x0 x1 x2 x3) := by
  unfold feedW; with_reducible repeat' first | assumption | apply modCtx_inv

theorem writeCode_inv {f q} {x0 x1 x2} (hx2 : Inv f q x2) : Inv f q (writeCode x0 x1 x2) := by
  unfold writeCode; with_reducible repeat' first | intro _ | assumption | apply modCtx_inv | rfl | apply inv_ite | apply inv_id | apply invR_ite | apply inv_next | apply inv_ite_fst | apply inv_ite_snd | apply inv_foldl | apply inv_foldl_fst | apply inv_foldl_snd | split | dsimp only | (unfold Inv; dsimp only; apply inv_fold)

theorem retireTo_inv {f q} {x0 x1 x2 x3 x4} (hx4 : Inv f q x4) : Inv f q (retireTo x0 x1 x2 x3 x4) := by
  unfold retireTo; with_reducible repeat' first | assumption | apply modCtx_inv | apply modShu_inv

theorem retire_inv {f q} {x0 x1 x2 x3} (hx3 : Inv f q x3) : Inv f q (retire x0 x1 x2 x3) := by
  unfold retire; with_reducible repeat' first | assumption | apply retireTo_inv

theorem takeSlot_inv {f q} {x0 x1 x2 x3 x4 x5} (hx5 : Inv f q x5) : Inv f q (takeSlot x0 x1 x2 x3 x4 x5) := by
  unfold takeSlot; with_reducible repeat' first | assumption | apply modCtx_inv | apply modShu_inv

theorem askA_inv {f q} {x0 x1} (hx1 : Inv f q x1) : Inv f q (askA x0 x1) := by
  unfold askA; with_reducible repeat' first | intro _ | assumption | rfl | apply inv_ite | apply inv_id | apply invR_ite | apply inv_next | apply inv_ite_fst | apply inv_ite_snd | apply inv_foldl | apply inv_foldl_fst | apply inv_foldl_snd | split | dsimp only | (unfold Inv; dsimp only; apply inv_fold)

theorem setEsts_inv {f q} {x0 x1 x2} (hx2 : Inv f q x2) : Inv f q (setEsts x0 x1 x2) := by
  unfold setEsts; with_reducible repeat' first | assumption | apply setf_inv

theorem expressSoon_inv {f q} {x0 x1} (hx1 : Inv f q x1) : Inv f q (expressSoon x0 x1) := by
  unfold expressSoon; with_reducible repeat' first | intro _ | assumption | apply schedule_inv | rfl | apply inv_ite | apply inv_id | apply invR_ite | apply inv_next | apply inv_ite_fst | apply inv_ite_snd | apply inv_foldl | apply inv_foldl_fst | apply inv_foldl_snd | split | dsimp only | (unfold Inv; dsimp only; apply inv_fold)

theorem unhalt_inv {f q} {x0 x1} (hx1 : Inv f q x1) : Inv f q (unhalt x0 x1) := by
  unfold unhalt; with_reducible repeat' first | intro _ | assumption | apply expressSoon_inv | apply modCtx_inv | apply setb_inv | apply setEsts_inv | rfl | apply inv_ite | apply inv_id | apply invR_ite | apply inv_next | apply inv_ite_fst | apply inv_ite_snd | apply inv_foldl | apply inv_foldl_fst | apply inv_foldl_snd | split | dsimp only | (unfold Inv; dsimp only; apply inv_fold)

theorem expressEndAt_inv {f q} {x0 x1 x2} (hx2 : Inv f q x2) : Inv f q (expressEndAt x0 x1 x2) := by
  unfold expressEndAt; with_reducible repeat' first | intro _ | assumption | apply when__inv | apply modCtx_inv | apply modEng_inv | apply setf_inv | apply raise_inv | apply setb_inv | apply expressSoon_inv | apply modShu_inv | rfl | apply inv_ite | apply inv_id | apply invR_ite | apply inv_next | apply inv_ite_fst | apply inv_ite_snd | apply inv_foldl | apply inv_foldl_fst | apply inv_foldl_snd | split | dsimp only | (unfold Inv; dsimp only; apply inv_fold)

theorem expressEnd_inv {f q} {x0 x1} (hx1 : Inv f q x1) : Inv f q (expressEnd x0 x1) := by
  unfold expressEnd; with_reducible repeat' first | assumption | apply expressEndAt_inv

theorem payRun_inv {f q} {x0 x1 x2} (hx2 : Inv f q x2) : Inv f q (payRun x0 x1 x2) := by
  unfold payRun; with_reducible repeat' first | assumption | apply modCtx_inv | apply modEng_inv | split

theorem normalEndAt_inv {f q} {x0 x1 x2} (hx2 : Inv f q x2) : Inv f q (normalEndAt x0 x1 x2) := by
  unfold normalEndAt; with_reducible repeat' first | assumption | apply payRun_inv | apply modCtx_inv | apply modEng_inv | apply when__inv | apply setEsts_inv | apply raise_inv | split

theorem normalEnd_inv {f q} {x0 x1} (hx1 : Inv f q x1) : Inv f q (normalEnd x0 x1) := normalEndAt_inv hx1

theorem faultPc_inv {f q} {x0 x1} (hx1 : Inv f q x1) : Inv f q (faultPc x0 x1).2 := by
  unfold faultPc; split
  · exact hx1
  · exact freshWord_inv hx1

theorem taskFault_inv {f q} {x0 x1 x2 x3} (hx3 : Inv f q x3) : Inv f q (taskFault x0 x1 x2 x3) := by
  unfold taskFault; with_reducible repeat' first | intro _ | assumption | apply setf_inv | apply setb_inv | apply rset_inv | apply modShu_inv | apply raise_inv | apply normalEndAt_inv | apply expressEndAt_inv | apply faultPc_inv | split | dsimp only | (unfold Inv; dsimp only; apply inv_fold)

theorem dropEffect_inv {f q} {x0 x1 x2} (hx2 : Inv f q x2) : Inv f q (dropEffect x0 x1 x2) := by
  unfold dropEffect; with_reducible repeat' first | assumption | apply raise_inv | apply count_inv | apply setf_inv | apply setb_inv

theorem writeChSts_inv {f q} {x0 x1 x2} (hx2 : Inv f q x2) : Inv f q (writeChSts x0 x1 x2) := by
  unfold writeChSts; with_reducible repeat' first | intro _ | assumption | apply when__inv | apply clearBits_inv | apply clrAll_inv | rfl | apply inv_ite | apply inv_id | apply invR_ite | apply inv_next | apply inv_ite_fst | apply inv_ite_snd | apply inv_foldl | apply inv_foldl_fst | apply inv_foldl_snd | split | dsimp only | (unfold Inv; dsimp only; apply inv_fold)

theorem loadHarness_inv {f q} {x0 x1} (hx1 : Inv f q x1) : Inv f q (loadHarness x0 x1) := by
  unfold loadHarness; with_reducible repeat' first | assumption | apply forEach_inv | apply armOne_inv

theorem loadEvery_inv {f q} {x0} (hx0 : Inv f q x0) : Inv f q (loadEvery x0) := by
  unfold loadEvery; with_reducible repeat' first | assumption | apply forEach_inv | apply loadHarness_inv

theorem loadNowOp_inv {f q} {x0 x1} (hx1 : Inv f q x1) : Inv f q (loadNowOp x0 x1) := by
  unfold loadNowOp; with_reducible repeat' first | assumption | apply inv_ite | apply modHarn_inv | apply setb_inv

theorem chwLandOp_inv {f q} {x0 x1 x2 x3 x4} (hx4 : Inv f q x4) : Inv f q (chwLandOp x0 x1 x2 x3 x4) := by
  unfold chwLandOp; with_reducible repeat' first | intro _ | assumption | apply writeStaged_inv | apply liveWrite_inv | apply writeCompare_inv | apply writeChSts_inv | apply loadHarness_inv | apply loadNowOp_inv | apply loadEvery_inv | apply dropEffect_inv | rfl | apply inv_ite | apply inv_id | apply invR_ite | apply inv_next | apply inv_ite_fst | apply inv_ite_snd | apply inv_foldl | apply inv_foldl_fst | apply inv_foldl_snd | split | dsimp only | (unfold Inv; dsimp only; apply inv_fold)

theorem edgeArrive_inv {f q} {x0 x1 x2 x3 x4 x5} (hx5 : Inv f q x5) : Inv f q (edgeArrive x0 x1 x2 x3 x4 x5) := by
  unfold edgeArrive; with_reducible repeat' first | assumption | apply inv_ite | apply dropEffect_inv | apply when__inv | apply setb_inv | apply modCh_inv

theorem landEffect_inv {f q} {x0 x1 x2} (hx2 : Inv f q x2) : Inv f q (landEffect x0 x1 x2) := by
  unfold landEffect; with_reducible repeat' first | intro _ | assumption | apply chwLandOp_inv | apply edgeArrive_inv | apply raise_inv | rfl | apply inv_ite | apply inv_id | apply invR_ite | apply inv_next | apply inv_ite_fst | apply inv_ite_snd | apply inv_foldl | apply inv_foldl_fst | apply inv_foldl_snd | split | dsimp only | (unfold Inv; dsimp only; apply inv_fold)

theorem drainEdges_inv {f q} {x0 x1 x2} (hx2 : Inv f q x2) : Inv f q (drainEdges x0 x1 x2) := by
  induction x0 generalizing x2 with
  | zero => exact hx2
  | succ n ih =>
    unfold drainEdges
    split
    · exact ih (edgeArrive_inv (modShu_inv hx2))
    · exact hx2

theorem landHead_inv {f q} {x0 x1} (hx1 : Inv f q x1) : Inv f q (landHead x0 x1) := by
  unfold landHead; with_reducible repeat' first | intro _ | assumption | apply drainEdges_inv | apply landEffect_inv | apply modShu_inv | rfl | apply inv_ite | apply inv_id | apply invR_ite | apply inv_next | apply inv_ite_fst | apply inv_ite_snd | apply inv_foldl | apply inv_foldl_fst | apply inv_foldl_snd | split | dsimp only | (unfold Inv; dsimp only; apply inv_fold)

theorem effDueOp_inv {f q} {x0 x1} (hx1 : Inv f q x1) : Inv f q (effDueOp x0 x1) := by
  unfold effDueOp; with_reducible repeat' first | intro _ | assumption | apply landHead_inv | rfl | apply inv_ite | apply inv_id | apply invR_ite | apply inv_next | apply inv_ite_fst | apply inv_ite_snd | apply inv_foldl | apply inv_foldl_fst | apply inv_foldl_snd | split | dsimp only | (unfold Inv; dsimp only; apply inv_fold)

theorem pushEffect_inv {f q} {x0 x1 x2} (hx2 : Inv f q x2) : Inv f q (pushEffect x0 x1 x2) := by
  unfold pushEffect; with_reducible repeat' first | intro _ | assumption | apply drainEdges_inv | apply schedule_inv | apply modShu_inv | rfl | apply inv_ite | apply inv_id | apply invR_ite | apply inv_next | apply inv_ite_fst | apply inv_ite_snd | apply inv_foldl | apply inv_foldl_fst | apply inv_foldl_snd | split | dsimp only | (unfold Inv; dsimp only; apply inv_fold)

end Sys2Proof.Machine
end

