-- ==== Sys2Proof/Laws/KeepBlocks.lean ====
section
/-!
SUPPORT. What every step keeps (`Inv` of Safety.lean): the operations of the blocks, one lemma each.
-/

namespace Sys2Proof.Machine

/-! ### Card.lean -/

theorem setCardWord_inv {f q} {x0 x1 x2 x3} (hx3 : Inv f q x3) : Inv f q (setCardWord x0 x1 x2 x3) := by
  unfold setCardWord; with_reducible repeat' first | assumption | apply writeN_inv

theorem nearAt_inv {f q} {x0 x1} (hx1 : Inv f q x1) : Inv f q (nearAt x0 x1) := by
  unfold nearAt; with_reducible repeat' first | intro _ | assumption | apply schedule_inv | rfl | apply inv_ite | apply inv_id | apply invR_ite | apply inv_next | apply inv_ite_fst | apply inv_ite_snd | apply inv_foldl | apply inv_foldl_fst | apply inv_foldl_snd | split | dsimp only | (unfold Inv; dsimp only; apply inv_fold)

theorem nearTo_inv {f q} {x0 x1} (hx1 : Inv f q x1) : Inv f q (nearTo x0 x1) := by
  unfold nearTo; with_reducible repeat' first | intro _ | assumption | apply when__inv | apply nearAt_inv | apply setf_inv | apply setb_inv | apply raise_inv | rfl | apply inv_ite | apply inv_id | apply invR_ite | apply inv_next | apply inv_ite_fst | apply inv_ite_snd | apply inv_foldl | apply inv_foldl_fst | apply inv_foldl_snd | split | dsimp only | (unfold Inv; dsimp only; apply inv_fold)

theorem setSlot_inv {f q} {x0 x1 x2} (hx2 : Inv f q x2) : Inv f q (setSlot x0 x1 x2) := by
  unfold setSlot; with_reducible repeat' first | intro _ | assumption | apply rset_inv | apply nearTo_inv | split | dsimp only | (unfold Inv; dsimp only; apply inv_fold)

theorem modSlot_inv {f q} {x0 x1 x2} (hx2 : Inv f q x2) : Inv f q (modSlot x0 x1 x2) := by
  unfold modSlot; with_reducible repeat' first | assumption | apply setSlot_inv

theorem freeSlot_inv {f q} {x0 x1} (hx1 : Inv f q x1) : Inv f q (freeSlot x0 x1) := by
  unfold freeSlot; with_reducible repeat' first | assumption | apply modSlot_inv

theorem takeFree_inv {f q} {x0 x1 x2 x3 x4 x5} (hx5 : Inv f q x5) : Inv f q (takeFree x0 x1 x2 x3 x4 x5) := by
  unfold takeFree; with_reducible repeat' first | intro _ | assumption | apply setSlot_inv | apply forEach_inv | apply setCardWord_inv

theorem ringSts_inv {f q} {x0} (hx0 : Inv f q x0) : Inv f q (ringSts x0) := by
  unfold ringSts; with_reducible repeat' first | assumption | apply setb_inv

theorem cardRecord_inv {f q} {x0 x1 x2 x3} (hx3 : Inv f q x3) : Inv f q (cardRecord x0 x1 x2 x3) := by
  unfold cardRecord; with_reducible repeat' first | assumption | apply inv_ite | apply flagRaise_inv | apply count_inv | apply writeBytes_inv | apply ringSts_inv | apply rset_inv | apply when__inv | apply raise_inv

theorem bumpCycle_inv {f q} {x0 x1} (hx1 : Inv f q x1) : Inv f q (bumpCycle x0 x1) := by
  unfold bumpCycle; with_reducible repeat' first | assumption | apply setCardWord_inv

theorem dispatchAt_inv {f q} {x0 x1} (hx1 : Inv f q x1) : Inv f q (dispatchAt x0 x1) := by
  unfold dispatchAt; with_reducible repeat' first | intro _ | assumption | apply dispatch_inv | apply schedule_inv | rfl | apply inv_ite | apply inv_id | apply invR_ite | apply inv_next | apply inv_ite_fst | apply inv_ite_snd | apply inv_foldl | apply inv_foldl_fst | apply inv_foldl_snd | split | dsimp only | (unfold Inv; dsimp only; apply inv_fold)

theorem catchUpFrom_inv {f q} {x0 x1 x2} (hx2 : Inv f q x2) : Inv f q (catchUpFrom x0 x1 x2) := by
  unfold catchUpFrom; with_reducible repeat' first | intro _ | assumption | apply dispatchAt_inv | apply modSlot_inv | rfl | apply inv_ite | apply inv_id | apply invR_ite | apply inv_next | apply inv_ite_fst | apply inv_ite_snd | apply inv_foldl | apply inv_foldl_fst | apply inv_foldl_snd | split | dsimp only | (unfold Inv; dsimp only; apply inv_fold)

theorem nearLater_inv {f q} {x0 x1} (hx1 : Inv f q x1) : Inv f q (nearLater x0 x1) := by
  unfold nearLater; with_reducible repeat' first | intro _ | assumption | apply nearAt_inv | rfl | apply inv_ite | apply inv_id | apply invR_ite | apply inv_next | apply inv_ite_fst | apply inv_ite_snd | apply inv_foldl | apply inv_foldl_fst | apply inv_foldl_snd | split | dsimp only | (unfold Inv; dsimp only; apply inv_fold)

theorem holdCard_inv {f q} {x0 x1} (hx1 : Inv f q x1) : Inv f q (holdCard x0 x1) := by
  unfold holdCard; with_reducible repeat' first | intro _ | assumption | apply nearLater_inv | apply modSlot_inv | rfl | apply inv_ite | apply inv_id | apply invR_ite | apply inv_next | apply inv_ite_fst | apply inv_ite_snd | apply inv_foldl | apply inv_foldl_fst | apply inv_foldl_snd | split | dsimp only | (unfold Inv; dsimp only; apply inv_fold)

theorem promote_inv {f q} {x0 x1} (hx1 : Inv f q x1) : Inv f q (promote x0 x1) := by
  unfold promote; with_reducible repeat' first | assumption | apply modSlot_inv

theorem nearFill_inv {f q} {x0} (hx0 : Inv f q x0) : Inv f q (nearFill x0) := by
  unfold nearFill; with_reducible repeat' first | intro _ | assumption | apply forEach_inv | apply promote_inv | apply nearLater_inv | rfl | apply inv_ite | apply inv_id | apply invR_ite | apply inv_next | apply inv_ite_fst | apply inv_ite_snd | apply inv_foldl | apply inv_foldl_fst | apply inv_foldl_snd | split | dsimp only | (unfold Inv; dsimp only; apply inv_fold)

theorem nearAgain_inv {f q} {x0} (hx0 : Inv f q x0) : Inv f q (nearAgain x0) := by
  unfold nearAgain; with_reducible repeat' first | intro _ | assumption | apply nearAt_inv | rfl | apply inv_ite | apply inv_id | apply invR_ite | apply inv_next | apply inv_ite_fst | apply inv_ite_snd | apply inv_foldl | apply inv_foldl_fst | apply inv_foldl_snd | split | dsimp only | (unfold Inv; dsimp only; apply inv_fold)

theorem dropCard_inv {f q} {x0 x1 x2} (hx2 : Inv f q x2) : Inv f q (dropCard x0 x1 x2) := by
  unfold dropCard; with_reducible repeat' first | assumption | apply count_inv | apply cardRecord_inv | apply flagRaise_inv

theorem armCard_inv {f q} {x0 x1 x2 x3} (hx3 : Inv f q x3) : Inv f q (armCard x0 x1 x2 x3) := by
  induction x0 generalizing x1 x3 with
  | zero => exact holdCard_inv hx3
  | succ n ih =>
    unfold armCard
    dsimp only
    split
    · exact holdCard_inv hx3
    · split
      · exact inv_ite (ih (bumpCycle_inv (dropCard_inv hx3))) (freeSlot_inv (dropCard_inv hx3))
      · exact catchUpFrom_inv hx3

theorem completeCard_inv {f q} {x0 x1 x2 x3} (hx3 : Inv f q x3) : Inv f q (completeCard x0 x1 x2 x3) := by
  unfold completeCard; with_reducible repeat' first | assumption | apply inv_ite | apply cardRecord_inv | apply bumpCycle_inv | apply modSlot_inv | apply armCard_inv | apply freeSlot_inv

theorem passCard_inv {f q} {x0 x1 x2} (hx2 : Inv f q x2) : Inv f q (passCard x0 x1 x2) := by
  unfold passCard; with_reducible repeat' first | intro _ | assumption | apply flagRaise_inv | apply count_inv | apply completeCard_inv | apply catchUpFrom_inv | rfl | apply inv_ite | apply inv_id | apply invR_ite | apply inv_next | apply inv_ite_fst | apply inv_ite_snd | apply inv_foldl | apply inv_foldl_fst | apply inv_foldl_snd | split | dsimp only | (unfold Inv; dsimp only; apply inv_fold)

theorem readCard_inv {f q} {x0 x1} (hx1 : Inv f q x1) : Inv f q (readCard x0 x1).2 := by
  unfold readCard; with_reducible repeat' first | intro _ | assumption | apply checkRead_inv | apply detect_inv | apply flagRaise_inv | apply count_inv | apply freeSlot_inv | apply cardRecord_inv | split | dsimp only | (unfold Inv; dsimp only; apply inv_fold)

theorem refuseCard_inv {f q} {x0} (hx0 : Inv f q x0) : Inv f q (refuseCard x0) := by
  unfold refuseCard; with_reducible repeat' first | assumption | apply count_inv

theorem giveHandle_inv {f q} {x0 x1 x2} (hx2 : Inv f q x2) : Inv f q (giveHandle x0 x1 x2) := by
  unfold giveHandle; with_reducible repeat' first | assumption | apply modCtx_inv

theorem placeSubmit_inv {f q} {x0 x1} (hx1 : Inv f q x1) : Inv f q (placeSubmit x0 x1) := by
  unfold placeSubmit; with_reducible repeat' first | intro _ | assumption | apply giveHandle_inv | apply refuseCard_inv | apply takeFree_inv | apply armCard_inv | split | dsimp only | (unfold Inv; dsimp only; apply inv_fold)

theorem placeFirst_inv {f q} {x0} (hx0 : Inv f q x0) : Inv f q (placeFirst x0) := by
  unfold placeFirst; with_reducible repeat' first | intro _ | assumption | apply placeSubmit_inv | rfl | apply inv_ite | apply inv_id | apply invR_ite | apply inv_next | apply inv_ite_fst | apply inv_ite_snd | apply inv_foldl | apply inv_foldl_fst | apply inv_foldl_snd | split | dsimp only | (unfold Inv; dsimp only; apply inv_fold)

theorem placeDue_inv {f q} {x0} (hx0 : Inv f q x0) : Inv f q (placeDue x0) := by
  unfold placeDue; with_reducible repeat' first | intro _ | assumption | apply placeFirst_inv | rfl | apply inv_ite | apply inv_id | apply invR_ite | apply inv_next | apply inv_ite_fst | apply inv_ite_snd | apply inv_foldl | apply inv_foldl_fst | apply inv_foldl_snd | split | dsimp only | (unfold Inv; dsimp only; apply inv_fold)

theorem chainCopy_inv {f q} {x0 x1 x2} (hx2 : Inv f q x2) : Inv f q (chainCopy x0 x1 x2) := by
  unfold chainCopy; with_reducible repeat' first | intro _ | assumption | apply cardRecord_inv | apply readCard_inv | apply armCard_inv | apply takeFree_inv | split | dsimp only | (unfold Inv; dsimp only; apply inv_fold)

theorem cardOut_inv {f q} {x0 x1 x2 x3} (hx3 : Inv f q x3) : Inv f q (cardOut x0 x1 x2 x3) := by
  unfold cardOut; with_reducible repeat' first | intro _ | assumption | apply setOut_inv | apply setf_inv | apply periodStart_inv | apply refreshPair_inv | apply rset_inv | apply modReed_inv | apply setb_inv | split | dsimp only | (unfold Inv; dsimp only; apply inv_fold)

theorem outStep_inv {f q} {x0 x1 x2 x3} (hx3 : Inv f q x3) : Inv f q (outStep x0 x1 x2 x3) := by
  unfold outStep; with_reducible repeat' first | intro _ | assumption | apply cardOut_inv | apply modCh_inv | rfl | apply inv_ite | apply inv_id | apply invR_ite | apply inv_next | apply inv_ite_fst | apply inv_ite_snd | apply inv_foldl | apply inv_foldl_fst | apply inv_foldl_snd | split | dsimp only | (unfold Inv; dsimp only; apply inv_fold)

theorem setOutput_inv {f q} {x0 x1 x2 x3} (hx3 : Inv f q x3) : Inv f q (setOutput x0 x1 x2 x3) := by
  unfold setOutput; with_reducible repeat' first | intro _ | assumption | apply outStep_inv | rfl | apply inv_ite | apply inv_id | apply invR_ite | apply inv_next | apply inv_ite_fst | apply inv_ite_snd | apply inv_foldl | apply inv_foldl_fst | apply inv_foldl_snd | split | dsimp only | (unfold Inv; dsimp only; apply inv_fold)

theorem toggleOutput_inv {f q} {x0 x1 x2 x3} (hx3 : Inv f q x3) : Inv f q (toggleOutput x0 x1 x2 x3) := by
  unfold toggleOutput; with_reducible repeat' first | intro _ | assumption | apply outStep_inv | rfl | apply inv_ite | apply inv_id | apply invR_ite | apply inv_next | apply inv_ite_fst | apply inv_ite_snd | apply inv_foldl | apply inv_foldl_fst | apply inv_foldl_snd | split | dsimp only | (unfold Inv; dsimp only; apply inv_fold)

theorem endOutput_inv {f q} {x0 x1 x2} (hx2 : Inv f q x2) : Inv f q (endOutput x0 x1 x2) := by
  unfold endOutput; with_reducible repeat' first | intro _ | assumption | apply outStep_inv | apply clr_inv | rfl | apply inv_ite | apply inv_id | apply invR_ite | apply inv_next | apply inv_ite_fst | apply inv_ite_snd | apply inv_foldl | apply inv_foldl_fst | apply inv_foldl_snd | split | dsimp only | (unfold Inv; dsimp only; apply inv_fold)

theorem startPulse_inv {f q} {x0 x1 x2} (hx2 : Inv f q x2) : Inv f q (startPulse x0 x1 x2) := by
  unfold startPulse; with_reducible repeat' first | intro _ | assumption | apply cardRecord_inv | apply modSlot_inv | apply setOutput_inv | apply nearLater_inv | rfl | apply inv_ite | apply inv_id | apply invR_ite | apply inv_next | apply inv_ite_fst | apply inv_ite_snd | apply inv_foldl | apply inv_foldl_fst | apply inv_foldl_snd | split | dsimp only | (unfold Inv; dsimp only; apply inv_fold)

theorem noteLate_inv {f q} {x0 x1} (hx1 : Inv f q x1) : Inv f q (noteLate x0 x1) := by
  unfold noteLate; with_reducible repeat' first | intro _ | assumption | apply when__inv | apply flagRaise_inv | apply count_inv | rfl | apply inv_ite | apply inv_id | apply invR_ite | apply inv_next | apply inv_ite_fst | apply inv_ite_snd | apply inv_foldl | apply inv_foldl_fst | apply inv_foldl_snd | split | dsimp only | (unfold Inv; dsimp only; apply inv_fold)

theorem endPulse_inv {f q} {x0 x1 x2 x3} (hx3 : Inv f q x3) : Inv f q (endPulse x0 x1 x2 x3) := by
  unfold endPulse; with_reducible repeat' first | intro _ | assumption | apply noteLate_inv | apply completeCard_inv | apply endOutput_inv | rfl | apply inv_ite | apply inv_id | apply invR_ite | apply inv_next | apply inv_ite_fst | apply inv_ite_snd | apply inv_foldl | apply inv_foldl_fst | apply inv_foldl_snd | split | dsimp only | (unfold Inv; dsimp only; apply inv_fold)

theorem fireCard_inv {f q} {x0 x1 x2} (hx2 : Inv f q x2) : Inv f q (fireCard x0 x1 x2) := by
  unfold fireCard; with_reducible repeat' first | intro _ | assumption | apply forEach_inv | apply chainCopy_inv | apply noteLate_inv | apply completeCard_inv | apply setOutput_inv | apply endOutput_inv | apply toggleOutput_inv | apply startPulse_inv | apply writeCompare_inv | apply raise_inv | apply expressRequest_inv | rfl | apply inv_ite | apply inv_id | apply invR_ite | apply inv_next | apply inv_ite_fst | apply inv_ite_snd | apply inv_foldl | apply inv_foldl_fst | apply inv_foldl_snd | split | dsimp only | (unfold Inv; dsimp only; apply inv_fold)

theorem dispatchOne_inv {f q} {x0} (hx0 : Inv f q x0) : Inv f q (dispatchOne x0) :=
  inv_of hx0 rfl rfl rfl rfl

theorem disarmOp_inv {f q} {x0 x1} (hx1 : Inv f q x1) : Inv f q (disarmOp x0 x1).2 := by
  unfold disarmOp; with_reducible repeat' first | intro _ | assumption | apply dispatchAt_inv | apply freeSlot_inv | apply cardRecord_inv | rfl | apply inv_ite | apply inv_id | apply invR_ite | apply inv_next | apply inv_ite_fst | apply inv_ite_snd | apply inv_foldl | apply inv_foldl_fst | apply inv_foldl_snd | split | dsimp only | (unfold Inv; dsimp only; apply inv_fold)

theorem cancelCards_inv {f q} {x0 x1} (hx1 : Inv f q x1) : Inv f q (cancelCards x0 x1) := by
  unfold cancelCards; with_reducible repeat' first | assumption | apply forEach_inv | apply disarmOp_inv

theorem safeUntilPeriod_inv {f q} {x0 x1} (hx1 : Inv f q x1) : Inv f q (safeUntilPeriod x0 x1) := by
  unfold safeUntilPeriod; with_reducible repeat' first | intro _ | assumption | apply forEach_inv | apply modCh_inv | apply setb_inv

theorem endAngle_inv {f q} {x0 x1 x2 x3} (hx3 : Inv f q x3) : Inv f q (endAngle x0 x1 x2 x3) := by
  unfold endAngle; with_reducible repeat' first | intro _ | assumption | apply forEach_inv | apply when__inv | apply noteLate_inv | apply freeSlot_inv | apply cardRecord_inv | apply raise_inv | apply countN_inv | apply endOutput_inv | apply safeUntilPeriod_inv | rfl | apply inv_ite | apply inv_id | apply invR_ite | apply inv_next | apply inv_ite_fst | apply inv_ite_snd | apply inv_foldl | apply inv_foldl_fst | apply inv_foldl_snd | split | dsimp only | (unfold Inv; dsimp only; apply inv_fold)

theorem endAngleSoon_inv {f q} {x0 x1 x2} (hx2 : Inv f q x2) : Inv f q (endAngleSoon x0 x1 x2) := by
  unfold endAngleSoon; with_reducible repeat' first | intro _ | assumption | apply schedule_inv | apply modCh_inv | apply freshWord_inv | dsimp only

theorem angleEndNow_inv {f q} {x0 x1 x2} (hx2 : Inv f q x2) : Inv f q (angleEndNow x0 x1 x2) := by
  unfold angleEndNow; with_reducible repeat' first | assumption | apply inv_ite | apply endAngle_inv | split

theorem endAngles_inv {f q} {x0 x1} (hx1 : Inv f q x1) : Inv f q (endAngles x0 x1) := by
  unfold endAngles; with_reducible repeat' first | intro _ | assumption | apply forEach_inv | apply endAngleSoon_inv | apply modCh_inv | split

theorem syncDisarm_inv {f q} {x0 x1} (hx1 : Inv f q x1) : Inv f q (syncDisarm x0 x1) := by
  unfold syncDisarm; with_reducible repeat' first | intro _ | assumption | apply forEach_inv | apply when__inv | apply modSlot_inv | apply setCardWord_inv | apply freeSlot_inv | apply cardRecord_inv | apply count_inv | apply raise_inv | rfl | apply inv_ite | apply inv_id | apply invR_ite | apply inv_next | apply inv_ite_fst | apply inv_ite_snd | apply inv_foldl | apply inv_foldl_fst | apply inv_foldl_snd | split | dsimp only | (unfold Inv; dsimp only; apply inv_fold)

theorem armAngleRel_inv {f q} {x0 x1 x2} (hx2 : Inv f q x2) : Inv f q (armAngleRel x0 x1 x2) := by
  unfold armAngleRel; with_reducible repeat' first | assumption | apply armCard_inv | apply modSlot_inv | apply setCardWord_inv

theorem armWaiting_inv {f q} {x0 x1} (hx1 : Inv f q x1) : Inv f q (armWaiting x0 x1) := by
  unfold armWaiting; with_reducible repeat' first | intro _ | assumption | apply inv_ite | apply forEach_inv | apply armCard_inv | apply modSlot_inv | apply setCardWord_inv | apply armAngleRel_inv

theorem resumeCatchUps_inv {f q} {x0 x1} (hx1 : Inv f q x1) : Inv f q (resumeCatchUps x0 x1) := by
  unfold resumeCatchUps; with_reducible repeat' first | intro _ | assumption | apply forEach_inv | apply catchUpFrom_inv | rfl | apply inv_ite | apply inv_id | apply invR_ite | apply inv_next | apply inv_ite_fst | apply inv_ite_snd | apply inv_foldl | apply inv_foldl_fst | apply inv_foldl_snd | split | dsimp only | (unfold Inv; dsimp only; apply inv_fold)

theorem slipReversed_inv {f q} {x0 x1 x2} (hx2 : Inv f q x2) : Inv f q (slipReversed x0 x1 x2) := by
  unfold slipReversed; with_reducible repeat' first | intro _ | assumption | apply forEach_inv | apply catchUpFrom_inv | rfl | apply inv_ite | apply inv_id | apply invR_ite | apply inv_next | apply inv_ite_fst | apply inv_ite_snd | apply inv_foldl | apply inv_foldl_fst | apply inv_foldl_snd | split | dsimp only | (unfold Inv; dsimp only; apply inv_fold)

theorem endsPassed_inv {f q} {x0 x1 x2 x3} (hx3 : Inv f q x3) : Inv f q (endsPassed x0 x1 x2 x3) := by
  unfold endsPassed; with_reducible repeat' first | intro _ | assumption | apply forEach_inv | apply modSlot_inv | rfl | apply inv_ite | apply inv_id | apply invR_ite | apply inv_next | apply inv_ite_fst | apply inv_ite_snd | apply inv_foldl | apply inv_foldl_fst | apply inv_foldl_snd | split | dsimp only | (unfold Inv; dsimp only; apply inv_fold)

theorem leftCardOut_inv {f q} {x0 x1} (hx1 : Inv f q x1) : Inv f q (leftCardOut x0 x1) := by
  unfold leftCardOut; with_reducible repeat' first | intro _ | assumption | apply forEach_inv | apply modSlot_inv | apply modCh_inv | rfl | apply inv_ite | apply inv_id | apply invR_ite | apply inv_next | apply inv_ite_fst | apply inv_ite_snd | apply inv_foldl | apply inv_foldl_fst | apply inv_foldl_snd | split | dsimp only | (unfold Inv; dsimp only; apply inv_fold)

theorem holdDisarm_inv {f q} {x0 x1} (hx1 : Inv f q x1) : Inv f q (holdDisarm x0 x1) := by
  unfold holdDisarm; with_reducible repeat' first | intro _ | assumption | apply forEach_inv | apply when__inv | apply freeSlot_inv | apply cardRecord_inv | apply endOutput_inv | apply raise_inv | rfl | apply inv_ite | apply inv_id | apply invR_ite | apply inv_next | apply inv_ite_fst | apply inv_ite_snd | apply inv_foldl | apply inv_foldl_fst | apply inv_foldl_snd | split | dsimp only | (unfold Inv; dsimp only; apply inv_fold)

theorem dispatchCard_inv {f q} {x0 x1 x2} (hx2 : Inv f q x2) : Inv f q (dispatchCard x0 x1 x2) := by
  unfold dispatchCard; with_reducible repeat' first | assumption | apply inv_ite | apply readCard_inv | apply dispatchOne_inv | apply passCard_inv | apply fireCard_inv

theorem dispatch_inv {f q} {x0 x1} (hx1 : Inv f q x1) : Inv f q (dispatch x0 x1) := by
  unfold dispatch; with_reducible repeat' first | intro _ | assumption | apply dispatchCard_inv | apply endPulse_inv | apply dispatchOne_inv | apply endAngle_inv | rfl | apply inv_ite | apply inv_id | apply invR_ite | apply inv_next | apply inv_ite_fst | apply inv_ite_snd | apply inv_foldl | apply inv_foldl_fst | apply inv_foldl_snd | split | dsimp only | (unfold Inv; dsimp only; apply inv_fold)

theorem dispatchUpTo_inv {f q} {x0 x1 x2} (hx2 : Inv f q x2) : Inv f q (dispatchUpTo x0 x1 x2) := by
  induction x1 generalizing x2 with
  | zero => exact hx2
  | succ n ih =>
    unfold dispatchUpTo
    split
    · exact hx2
    · exact inv_ite (dispatchAt_inv hx2) (inv_ite (dispatch_inv hx2) (ih (dispatch_inv hx2)))

theorem dispatchDue_inv {f q} {x0} (hx0 : Inv f q x0) : Inv f q (dispatchDue x0) := by
  unfold dispatchDue; with_reducible repeat' first | intro _ | assumption | apply dispatchUpTo_inv | rfl | apply inv_ite | apply inv_id | apply invR_ite | apply inv_next | apply inv_ite_fst | apply inv_ite_snd | apply inv_foldl | apply inv_foldl_fst | apply inv_foldl_snd | split | dsimp only | (unfold Inv; dsimp only; apply inv_fold)

theorem cardCntClrOp_inv {f q} {x0} (hx0 : Inv f q x0) : Inv f q (cardCntClrOp x0) := by
  unfold cardCntClrOp; with_reducible repeat' first | assumption | apply clrAll_inv | apply setf_inv | apply rset_inv

/-! ### Track.lean -/

theorem trdRaise_inv {f q} {x0 x1 x2} (hx2 : Inv f q x2) : Inv f q (trdRaise x0 x1 x2) := by
  unfold trdRaise; with_reducible repeat' first | assumption | apply raise_inv

theorem setTrdState_inv {f q} {x0 x1 x2} (hx2 : Inv f q x2) : Inv f q (setTrdState x0 x1 x2) := by
  unfold setTrdState; with_reducible repeat' first | intro _ | assumption | apply modeAuto_inv | apply resumeCatchUps_inv | apply setb_inv | apply setf_inv | rfl | apply inv_ite | apply inv_id | apply invR_ite | apply inv_next | apply inv_ite_fst | apply inv_ite_snd | apply inv_foldl | apply inv_foldl_fst | apply inv_foldl_snd | split | dsimp only | (unfold Inv; dsimp only; apply inv_fold)

theorem toothRecord_inv {f q} {x0 x1 x2 x3 x4 x5 x6 x7} (hx7 : Inv f q x7) : Inv f q (toothRecord x0 x1 x2 x3 x4 x5 x6 x7) := by
  unfold toothRecord; with_reducible repeat' first | assumption | apply inv_ite | apply trdRaise_inv | apply count_inv | apply setb_inv | apply writeN_inv | apply rset_inv | apply when__inv

theorem primaryRecord_inv {f q} {x0 x1 x2 x3 x4} (hx4 : Inv f q x4) : Inv f q (primaryRecord x0 x1 x2 x3 x4) := by
  unfold primaryRecord; with_reducible repeat' first | assumption | apply toothRecord_inv | apply modTrd_inv

theorem secondaryRecord_inv {f q} {x0 x1 x2 x3 x4} (hx4 : Inv f q x4) : Inv f q (secondaryRecord x0 x1 x2 x3 x4) := by
  unfold secondaryRecord; with_reducible repeat' first | assumption | apply toothRecord_inv | apply modTrd_inv

theorem anomaly_inv {f q} {x0 x1} (hx1 : Inv f q x1) : Inv f q (anomaly x0 x1) := by
  unfold anomaly; with_reducible repeat' first | assumption | apply trdRaise_inv | apply count_inv | apply setb_inv

theorem lose_inv {f q} {x0 x1 x2} (hx2 : Inv f q x2) : Inv f q (lose x0 x1 x2) := by
  unfold lose; with_reducible repeat' first | assumption | apply setf_inv | apply setb_inv | apply count_inv | apply when__inv | apply trdRaise_inv | apply modTrd_inv | apply rset_inv | apply holdAt_inv | apply setTrdState_inv | apply syncDisarm_inv | apply endAngles_inv

theorem initWindows_inv {f q} {x0 x1 x2} (hx2 : Inv f q x2) : Inv f q (initWindows x0 x1 x2) := by
  unfold initWindows; with_reducible repeat' first | assumption | apply inv_ite | apply modTrd_inv

theorem windowHit_inv {f q} {x0 x1 x2 x3} (hx3 : Inv f q x3) : Inv f q (windowHit x0 x1 x2 x3) := by
  unfold windowHit; with_reducible repeat' first | assumption | apply inv_ite | apply modTrd_inv | apply setb_inv

theorem windowBad_inv {f q} {x0 x1} (hx1 : Inv f q x1) : Inv f q (windowBad x0 x1) := by
  unfold windowBad; with_reducible repeat' first | assumption | apply inv_ite | apply trdRaise_inv | apply setb_inv | apply lose_inv

theorem publishTooth_inv {f q} {x0 x1 x2 x3 x4} (hx4 : Inv f q x4) : Inv f q (publishTooth x0 x1 x2 x3 x4) := by
  unfold publishTooth; with_reducible repeat' first | intro _ | assumption | apply when__inv | apply rset_inv | apply trdRaise_inv | apply nearAgain_inv | apply publishRate_inv | rfl | apply inv_ite | apply inv_id | apply invR_ite | apply inv_next | apply inv_ite_fst | apply inv_ite_snd | apply inv_foldl | apply inv_foldl_fst | apply inv_foldl_snd | split | dsimp only | (unfold Inv; dsimp only; apply inv_fold)

theorem anchorAt_inv {f q} {x0 x1 x2 x3} (hx3 : Inv f q x3) : Inv f q (anchorAt x0 x1 x2 x3) := by
  unfold anchorAt; with_reducible repeat' first | intro _ | assumption | apply forEach_inv | apply pushSeg_inv | apply endsPassed_inv | apply trdRaise_inv | apply count_inv | apply setb_inv | apply passCard_inv | rfl | apply inv_ite | apply inv_id | apply invR_ite | apply inv_next | apply inv_ite_fst | apply inv_ite_snd | apply inv_foldl | apply inv_foldl_fst | apply inv_foldl_snd | split | dsimp only | (unfold Inv; dsimp only; apply inv_fold)

theorem slumberCycle_inv {f q} {x0 x1} (hx1 : Inv f q x1) : Inv f q (slumberCycle x0 x1) := by
  unfold slumberCycle; with_reducible repeat' first | assumption | apply inv_ite | apply trdRaise_inv | apply modTrd_inv

theorem acceptTooth_inv {f q} {x0 x1 x2 x3 x4 x5 x6 x7 x8} (hx8 : Inv f q x8) : Inv f q (acceptTooth x0 x1 x2 x3 x4 x5 x6 x7 x8) := by
  unfold acceptTooth; with_reducible repeat' first | assumption | apply anchorAt_inv | apply modTrd_inv | apply setb_inv | apply setNum_inv | apply slumberCycle_inv | apply publishTooth_inv | split

theorem gainSync_inv {f q} {x0 x1 x2 x3 x4 x5 x6 x7 x8 x9 x10} (hx10 : Inv f q x10) : Inv f q (gainSync x0 x1 x2 x3 x4 x5 x6 x7 x8 x9 x10) := by
  unfold gainSync; with_reducible repeat' first | assumption | apply modTrd_inv | apply setf_inv | apply setTrdState_inv | apply setb_inv | apply initWindows_inv | apply trdRaise_inv | apply armWaiting_inv | apply acceptTooth_inv

theorem limpEntry_inv {f q} {x0 x1} (hx1 : Inv f q x1) : Inv f q (limpEntry x0 x1) := by
  unfold limpEntry; with_reducible repeat' first | intro _ | assumption | apply trdRaise_inv | apply count_inv | apply setb_inv | apply setTrdState_inv | rfl | apply inv_ite | apply inv_id | apply invR_ite | apply inv_next | apply inv_ite_fst | apply inv_ite_snd | apply inv_foldl | apply inv_foldl_fst | apply inv_foldl_snd | split | dsimp only | (unfold Inv; dsimp only; apply inv_fold)

theorem enterLimp_inv {f q} {x0 x1} (hx1 : Inv f q x1) : Inv f q (enterLimp x0 x1) := by
  unfold enterLimp; with_reducible repeat' first | intro _ | assumption | apply modTrd_inv | apply limpEntry_inv | apply holdAt_inv | apply pushSeg_inv | rfl | apply inv_ite | apply inv_id | apply invR_ite | apply inv_next | apply inv_ite_fst | apply inv_ite_snd | apply inv_foldl | apply inv_foldl_fst | apply inv_foldl_snd | split | dsimp only | (unfold Inv; dsimp only; apply inv_fold)

theorem limpAnchor_inv {f q} {x0 x1 x2 x3} (hx3 : Inv f q x3) : Inv f q (limpAnchor x0 x1 x2 x3) := by
  unfold limpAnchor; with_reducible repeat' first | intro _ | assumption | apply when__inv | apply anchorAt_inv | apply setb_inv | apply modTrd_inv | apply slumberCycle_inv | apply publishRate_inv | rfl | apply inv_ite | apply inv_id | apply invR_ite | apply inv_next | apply inv_ite_fst | apply inv_ite_snd | apply inv_foldl | apply inv_foldl_fst | apply inv_foldl_snd | split | dsimp only | (unfold Inv; dsimp only; apply inv_fold)

theorem markScreen_inv {f q} {x0 x1 x2} (hx2 : Inv f q x2) : Inv f q (markScreen x0 x1 x2) := by
  unfold markScreen; with_reducible repeat' first | intro _ | assumption | apply modTrd_inv | rfl | apply inv_ite | apply inv_id | apply invR_ite | apply inv_next | apply inv_ite_fst | apply inv_ite_snd | apply inv_foldl | apply inv_foldl_fst | apply inv_foldl_snd | split | dsimp only | (unfold Inv; dsimp only; apply inv_fold)

theorem toothScreened_inv {f q} {x0 x1 x2} (hx2 : Inv f q x2) : Inv f q (toothScreened x0 x1 x2) := by
  unfold toothScreened; with_reducible repeat' first | intro _ | assumption | apply modTrd_inv | apply primaryRecord_inv | apply anomaly_inv | apply setTrdState_inv | apply gainSync_inv | split | dsimp only | (unfold Inv; dsimp only; apply inv_fold)

theorem toothSynced_inv {f q} {x0 x1 x2} (hx2 : Inv f q x2) : Inv f q (toothSynced x0 x1 x2) := by
  unfold toothSynced; with_reducible repeat' first | intro _ | assumption | apply anomaly_inv | apply windowBad_inv | apply enterLimp_inv | apply lose_inv | apply primaryRecord_inv | apply modTrd_inv | apply acceptTooth_inv | rfl | apply inv_ite | apply inv_id | apply invR_ite | apply inv_next | apply inv_ite_fst | apply inv_ite_snd | apply inv_foldl | apply inv_foldl_fst | apply inv_foldl_snd | split | dsimp only | (unfold Inv; dsimp only; apply inv_fold)

theorem toothLimp_inv {f q} {x0 x1 x2} (hx2 : Inv f q x2) : Inv f q (toothLimp x0 x1 x2) := by
  unfold toothLimp; with_reducible repeat' first | intro _ | assumption | apply modTrd_inv | apply setb_inv | apply primaryRecord_inv | apply anomaly_inv | apply lose_inv | apply trdRaise_inv | apply setTrdState_inv | apply acceptTooth_inv | split | dsimp only | (unfold Inv; dsimp only; apply inv_fold)

theorem toothResume_inv {f q} {x0 x1 x2} (hx2 : Inv f q x2) : Inv f q (toothResume x0 x1 x2) := by
  unfold toothResume; with_reducible repeat' first | assumption | apply setb_inv | apply setTrdState_inv | apply acceptTooth_inv | apply primaryRecord_inv | apply trdRaise_inv | split

theorem toothWheel_inv {f q} {x0 x1 x2} (hx2 : Inv f q x2) : Inv f q (toothWheel x0 x1 x2) := by
  unfold toothWheel; with_reducible repeat' first | intro _ | assumption | apply modTrd_inv | apply toothScreened_inv | apply toothSynced_inv | apply toothLimp_inv | apply toothResume_inv | rfl | apply inv_ite | apply inv_id | apply invR_ite | apply inv_next | apply inv_ite_fst | apply inv_ite_snd | apply inv_foldl | apply inv_foldl_fst | apply inv_foldl_snd | split | dsimp only | (unfold Inv; dsimp only; apply inv_fold)

theorem secondaryLost_inv {f q} {x0 x1 x2} (hx2 : Inv f q x2) : Inv f q (secondaryLost x0 x1 x2) := by
  unfold secondaryLost; with_reducible repeat' first | intro _ | assumption | apply secondaryRecord_inv | apply setTrdState_inv | apply markScreen_inv | rfl | apply inv_ite | apply inv_id | apply invR_ite | apply inv_next | apply inv_ite_fst | apply inv_ite_snd | apply inv_foldl | apply inv_foldl_fst | apply inv_foldl_snd | split | dsimp only | (unfold Inv; dsimp only; apply inv_fold)

theorem secondaryConfirm_inv {f q} {x0 x1 x2} (hx2 : Inv f q x2) : Inv f q (secondaryConfirm x0 x1 x2) := by
  unfold secondaryConfirm; with_reducible repeat' first | assumption | apply inv_ite | apply secondaryRecord_inv | apply setTrdState_inv | apply modTrd_inv

theorem secondaryScreen_inv {f q} {x0 x1 x2 x3} (hx3 : Inv f q x3) : Inv f q (secondaryScreen x0 x1 x2 x3) := by
  unfold secondaryScreen; with_reducible repeat' first | intro _ | assumption | apply setb_inv | apply markScreen_inv | apply modTrd_inv | rfl | apply inv_ite | apply inv_id | apply invR_ite | apply inv_next | apply inv_ite_fst | apply inv_ite_snd | apply inv_foldl | apply inv_foldl_fst | apply inv_foldl_snd | split | dsimp only | (unfold Inv; dsimp only; apply inv_fold)

theorem secondaryKnown_inv {f q} {x0 x1 x2} (hx2 : Inv f q x2) : Inv f q (secondaryKnown x0 x1 x2) := by
  unfold secondaryKnown; with_reducible repeat' first | intro _ | assumption | apply windowHit_inv | apply limpAnchor_inv | apply secondaryScreen_inv | apply trdRaise_inv | apply setb_inv | apply limpEntry_inv | apply enterLimp_inv | apply secondaryRecord_inv | apply lose_inv | apply windowBad_inv | rfl | apply inv_ite | apply inv_id | apply invR_ite | apply inv_next | apply inv_ite_fst | apply inv_ite_snd | apply inv_foldl | apply inv_foldl_fst | apply inv_foldl_snd | split | dsimp only | (unfold Inv; dsimp only; apply inv_fold)

theorem secondaryOp_inv {f q} {x0 x1 x2} (hx2 : Inv f q x2) : Inv f q (secondaryOp x0 x1 x2) := by
  unfold secondaryOp; with_reducible repeat' first | intro _ | assumption | apply secondaryLost_inv | apply secondaryConfirm_inv | apply secondaryKnown_inv | apply modTrd_inv | rfl | apply inv_ite | apply inv_id | apply invR_ite | apply inv_next | apply inv_ite_fst | apply inv_ite_snd | apply inv_foldl | apply inv_foldl_fst | apply inv_foldl_snd | split | dsimp only | (unfold Inv; dsimp only; apply inv_fold)

theorem judgeEdge_inv {f q} {x0 x1} (hx1 : Inv f q x1) : Inv f q (judgeEdge x0 x1) := by
  unfold judgeEdge; with_reducible repeat' first | intro _ | assumption | apply toothWheel_inv | apply secondaryOp_inv | rfl | apply inv_ite | apply inv_id | apply invR_ite | apply inv_next | apply inv_ite_fst | apply inv_ite_snd | apply inv_foldl | apply inv_foldl_fst | apply inv_foldl_snd | split | dsimp only | (unfold Inv; dsimp only; apply inv_fold)

theorem judgeEdges_inv {f q} {x0 x1} (hx1 : Inv f q x1) : Inv f q (judgeEdges x0 x1) := by
  unfold judgeEdges; with_reducible repeat' first | intro _ | assumption | apply forEach_inv | apply judgeEdge_inv | rfl | apply inv_ite | apply inv_id | apply invR_ite | apply inv_next | apply inv_ite_fst | apply inv_ite_snd | apply inv_foldl | apply inv_foldl_fst | apply inv_foldl_snd | split | dsimp only | (unfold Inv; dsimp only; apply inv_fold)

theorem trackPin_inv {f q} {x0 x1 x2 x3} (hx3 : Inv f q x3) : Inv f q (trackPin x0 x1 x2 x3) := by
  unfold trackPin; with_reducible repeat' first | intro _ | assumption | apply forEach_inv | apply schedule_inv | rfl | apply inv_ite | apply inv_id | apply invR_ite | apply inv_next | apply inv_ite_fst | apply inv_ite_snd | apply inv_foldl | apply inv_foldl_fst | apply inv_foldl_snd | split | dsimp only | (unfold Inv; dsimp only; apply inv_fold)

theorem stallHere_inv {f q} {x0 x1} (hx1 : Inv f q x1) : Inv f q (stallHere x0 x1) := by
  unfold stallHere; with_reducible repeat' first | intro _ | assumption | apply when__inv | apply modTrd_inv | apply setTrdState_inv | apply trdRaise_inv | apply count_inv | apply setb_inv | apply endAngles_inv | apply rset_inv | rfl | apply inv_ite | apply inv_id | apply invR_ite | apply inv_next | apply inv_ite_fst | apply inv_ite_snd | apply inv_foldl | apply inv_foldl_fst | apply inv_foldl_snd | split | dsimp only | (unfold Inv; dsimp only; apply inv_fold)

theorem declareStall_inv {f q} {x0 x1} (hx1 : Inv f q x1) : Inv f q (declareStall x0 x1) := by
  unfold declareStall; with_reducible repeat' first | intro _ | assumption | apply windowBad_inv | apply stallHere_inv | apply holdAt_inv | rfl | apply inv_ite | apply inv_id | apply invR_ite | apply inv_next | apply inv_ite_fst | apply inv_ite_snd | apply inv_foldl | apply inv_foldl_fst | apply inv_foldl_snd | split | dsimp only | (unfold Inv; dsimp only; apply inv_fold)

theorem stallEnd_inv {f q} {x0 x1} (hx1 : Inv f q x1) : Inv f q (stallEnd x0 x1) := by
  unfold stallEnd; with_reducible repeat' first | intro _ | assumption | apply when__inv | apply declareStall_inv | rfl | apply inv_ite | apply inv_id | apply invR_ite | apply inv_next | apply inv_ite_fst | apply inv_ite_snd | apply inv_foldl | apply inv_foldl_fst | apply inv_foldl_snd | split | dsimp only | (unfold Inv; dsimp only; apply inv_fold)

theorem beginReverse_inv {f q} {x0 x1} (hx1 : Inv f q x1) : Inv f q (beginReverse x0 x1) := by
  unfold beginReverse; with_reducible repeat' first | intro _ | assumption | apply when__inv | apply declareStall_inv | apply modTrd_inv | apply setb_inv | apply setTrdState_inv | apply trdRaise_inv | apply count_inv | apply endAngles_inv | apply rset_inv | apply holdAt_inv | rfl | apply inv_ite | apply inv_id | apply invR_ite | apply inv_next | apply inv_ite_fst | apply inv_ite_snd | apply inv_foldl | apply inv_foldl_fst | apply inv_foldl_snd | split | dsimp only | (unfold Inv; dsimp only; apply inv_fold)

theorem followDown_inv {f q} {x0 x1 x2 x3 x4} (hx4 : Inv f q x4) : Inv f q (followDown x0 x1 x2 x3 x4) := by
  unfold followDown; with_reducible repeat' first | assumption | apply holdAt_inv | apply modTrd_inv

theorem forwardAgain_inv {f q} {x0 x1} (hx1 : Inv f q x1) : Inv f q (forwardAgain x0 x1) := by
  unfold forwardAgain; with_reducible repeat' first | assumption | apply trdRaise_inv | apply setb_inv | apply setTrdState_inv

theorem dropPmax_inv {f q} {x0 x1} (hx1 : Inv f q x1) : Inv f q (dropPmax x0 x1) := by
  unfold dropPmax; with_reducible repeat' first | intro _ | assumption | apply modTrd_inv | apply slipReversed_inv | rfl | apply inv_ite | apply inv_id | apply invR_ite | apply inv_next | apply inv_ite_fst | apply inv_ite_snd | apply inv_foldl | apply inv_foldl_fst | apply inv_foldl_snd | split | dsimp only | (unfold Inv; dsimp only; apply inv_fold)

theorem toothEncoder_inv {f q} {x0 x1 x2 x3} (hx3 : Inv f q x3) : Inv f q (toothEncoder x0 x1 x2 x3) := by
  unfold toothEncoder; with_reducible repeat' first | intro _ | assumption | apply modTrd_inv | apply dropPmax_inv | apply acceptTooth_inv | apply setTrdState_inv | apply primaryRecord_inv | apply anomaly_inv | apply gainSync_inv | apply beginReverse_inv | apply followDown_inv | apply forwardAgain_inv | apply trdRaise_inv | apply setb_inv | apply lose_inv | rfl | apply inv_ite | apply inv_id | apply invR_ite | apply inv_next | apply inv_ite_fst | apply inv_ite_snd | apply inv_foldl | apply inv_foldl_fst | apply inv_foldl_snd | split | dsimp only | (unfold Inv; dsimp only; apply inv_fold)

theorem trackCount_inv {f q} {x0 x1 x2 x3} (hx3 : Inv f q x3) : Inv f q (trackCount x0 x1 x2 x3) := by
  unfold trackCount; with_reducible repeat' first | intro _ | assumption | apply forEach_inv | apply toothEncoder_inv | rfl | apply inv_ite | apply inv_id | apply invR_ite | apply inv_next | apply inv_ite_fst | apply inv_ite_snd | apply inv_foldl | apply inv_foldl_fst | apply inv_foldl_snd | split | dsimp only | (unfold Inv; dsimp only; apply inv_fold)

theorem trackIndex_inv {f q} {x0 x1 x2 x3} (hx3 : Inv f q x3) : Inv f q (trackIndex x0 x1 x2 x3) := by
  unfold trackIndex; with_reducible repeat' first | intro _ | assumption | apply forEach_inv | apply toothRecord_inv | apply modTrd_inv | apply setTrdState_inv | apply lose_inv | rfl | apply inv_ite | apply inv_id | apply invR_ite | apply inv_next | apply inv_ite_fst | apply inv_ite_snd | apply inv_foldl | apply inv_foldl_fst | apply inv_foldl_snd | split | dsimp only | (unfold Inv; dsimp only; apply inv_fold)

theorem trackFault_inv {f q} {x0 x1} (hx1 : Inv f q x1) : Inv f q (trackFault x0 x1) := by
  unfold trackFault; with_reducible repeat' first | intro _ | assumption | apply inv_ite | apply forEach_inv | apply anomaly_inv | apply lose_inv | apply setTrdState_inv | apply modTrd_inv | apply primaryRecord_inv

theorem trackStandstill_inv {f q} {x0 x1} (hx1 : Inv f q x1) : Inv f q (trackStandstill x0 x1) := by
  unfold trackStandstill; with_reducible repeat' first | intro _ | assumption | apply inv_ite | apply forEach_inv | apply declareStall_inv

theorem trackEnable_inv {f q} {x0 x1} (hx1 : Inv f q x1) : Inv f q (trackEnable x0 x1) := by
  unfold trackEnable; with_reducible repeat' first | intro _ | assumption | apply setf_inv | apply setb_inv | apply setTrdState_inv | apply modTrd_inv | split | dsimp only | (unfold Inv; dsimp only; apply inv_fold)

theorem trackDisable_inv {f q} {x0 x1} (hx1 : Inv f q x1) : Inv f q (trackDisable x0 x1) := by
  unfold trackDisable; with_reducible repeat' first | intro _ | assumption | apply lose_inv | apply setTrdState_inv | apply setb_inv | apply zeroAll_inv | rfl | apply inv_ite | apply inv_id | apply invR_ite | apply inv_next | apply inv_ite_fst | apply inv_ite_snd | apply inv_foldl | apply inv_foldl_fst | apply inv_foldl_snd | split | dsimp only | (unfold Inv; dsimp only; apply inv_fold)

theorem trdCntClrOp_inv {f q} {x0 x1} (hx1 : Inv f q x1) : Inv f q (trdCntClrOp x0 x1) := by
  unfold trdCntClrOp; with_reducible repeat' first | assumption | apply clrAll_inv

/-! ### Pos.lean -/

theorem modPos_inv {f q} {x0 x1 x2} (hx2 : Inv f q x2) : Inv f q (modPos x0 x1 x2) :=
  inv_of hx2 rfl rfl rfl rfl

theorem posRaise_inv {f q} {x0 x1 x2} (hx2 : Inv f q x2) : Inv f q (posRaise x0 x1 x2) := by
  unfold posRaise; with_reducible repeat' first | assumption | apply raise_inv

theorem restartHist_inv {f q} {x0 x1} (hx1 : Inv f q x1) : Inv f q (restartHist x0 x1) := by
  unfold restartHist; with_reducible repeat' first | assumption | apply modPos_inv

theorem posAlarm_inv {f q} {x0 x1} (hx1 : Inv f q x1) : Inv f q (posAlarm x0 x1) := by
  unfold posAlarm; with_reducible repeat' first | assumption | apply posRaise_inv

theorem limitSts_inv {f q} {x0 x1 x2} (hx2 : Inv f q x2) : Inv f q (limitSts x0 x1 x2) := by
  unfold limitSts; with_reducible repeat' first | intro _ | assumption | apply setb_inv | apply posAlarm_inv | apply count_inv | rfl | apply inv_ite | apply inv_id | apply invR_ite | apply inv_next | apply inv_ite_fst | apply inv_ite_snd | apply inv_foldl | apply inv_foldl_fst | apply inv_foldl_snd | split | dsimp only | (unfold Inv; dsimp only; apply inv_fold)

theorem setPosition_inv {f q} {x0 x1 x2} (hx2 : Inv f q x2) : Inv f q (setPosition x0 x1 x2) := by
  unfold setPosition; with_reducible repeat' first | intro _ | assumption | apply when__inv | apply limitSts_inv | apply rset_inv | apply setb_inv | rfl | apply inv_ite | apply inv_id | apply invR_ite | apply inv_next | apply inv_ite_fst | apply inv_ite_snd | apply inv_foldl | apply inv_foldl_fst | apply inv_foldl_snd | split | dsimp only | (unfold Inv; dsimp only; apply inv_fold)

theorem noteLoad_inv {f q} {x0 x1} (hx1 : Inv f q x1) : Inv f q (noteLoad x0 x1) := by
  unfold noteLoad; with_reducible repeat' first | intro _ | assumption | apply loadAt_inv | apply modPos_inv | rfl | apply inv_ite | apply inv_id | apply invR_ite | apply inv_next | apply inv_ite_fst | apply inv_ite_snd | apply inv_foldl | apply inv_foldl_fst | apply inv_foldl_snd | split | dsimp only | (unfold Inv; dsimp only; apply inv_fold)

theorem loadPosition_inv {f q} {x0 x1 x2} (hx2 : Inv f q x2) : Inv f q (loadPosition x0 x1 x2) := by
  unfold loadPosition; with_reducible repeat' first | intro _ | assumption | apply setPosition_inv | apply restartHist_inv | apply noteLoad_inv | rfl | apply inv_ite | apply inv_id | apply invR_ite | apply inv_next | apply inv_ite_fst | apply inv_ite_snd | apply inv_foldl | apply inv_foldl_fst | apply inv_foldl_snd | split | dsimp only | (unfold Inv; dsimp only; apply inv_fold)

theorem clampPosition_inv {f q} {x0 x1} (hx1 : Inv f q x1) : Inv f q (clampPosition x0 x1) := by
  unfold clampPosition; with_reducible repeat' first | intro _ | assumption | apply setPosition_inv | apply noteLoad_inv | rfl | apply inv_ite | apply inv_id | apply invR_ite | apply inv_next | apply inv_ite_fst | apply inv_ite_snd | apply inv_foldl | apply inv_foldl_fst | apply inv_foldl_snd | split | dsimp only | (unfold Inv; dsimp only; apply inv_fold)

theorem recordChange_inv {f q} {x0 x1 x2 x3} (hx3 : Inv f q x3) : Inv f q (recordChange x0 x1 x2 x3) := by
  unfold recordChange; with_reducible repeat' first | assumption | apply modPos_inv | apply setb_inv

theorem directionStep_inv {f q} {x0 x1 x2} (hx2 : Inv f q x2) : Inv f q (directionStep x0 x1 x2) := by
  unfold directionStep; with_reducible repeat' first | assumption | apply inv_ite | apply modPos_inv | apply posRaise_inv | apply setb_inv

theorem posCount_inv {f q} {x0 x1 x2 x3} (hx3 : Inv f q x3) : Inv f q (posCount x0 x1 x2 x3) := by
  unfold posCount; with_reducible repeat' first | intro _ | assumption | apply limitSts_inv | apply setb_inv | apply recordChange_inv | apply setPosition_inv | apply modPos_inv | apply trackCount_inv | apply directionStep_inv | rfl | apply inv_ite | apply inv_id | apply invR_ite | apply inv_next | apply inv_ite_fst | apply inv_ite_snd | apply inv_foldl | apply inv_foldl_fst | apply inv_foldl_snd | split | dsimp only | (unfold Inv; dsimp only; apply inv_fold)

theorem storeLatch_inv {f q} {x0 x1 x2} (hx2 : Inv f q x2) : Inv f q (storeLatch x0 x1 x2) := by
  unfold storeLatch; with_reducible repeat' first | intro _ | assumption | apply when__inv | apply count_inv | apply setb_inv | apply modPos_inv | apply rset_inv | apply posRaise_inv

theorem latchEnd_inv {f q} {x0 x1 x2} (hx2 : Inv f q x2) : Inv f q (latchEnd x0 x1 x2) := by
  unfold latchEnd; with_reducible repeat' first | intro _ | assumption | apply schedule_inv | apply storeLatch_inv | rfl | apply inv_ite | apply inv_id | apply invR_ite | apply inv_next | apply inv_ite_fst | apply inv_ite_snd | apply inv_foldl | apply inv_foldl_fst | apply inv_foldl_snd | split | dsimp only | (unfold Inv; dsimp only; apply inv_fold)

theorem takeLatch_inv {f q} {x0 x1 x2} (hx2 : Inv f q x2) : Inv f q (takeLatch x0 x1 x2) := by
  unfold takeLatch; with_reducible repeat' first | assumption | apply inv_ite | apply schedule_inv | apply storeLatch_inv

theorem latPosReadOp_inv {f q} {x0 x1} (hx1 : Inv f q x1) : Inv f q (latPosReadOp x0 x1).2 := by
  unfold latPosReadOp; with_reducible repeat' first | assumption | apply rset_inv | apply modPos_inv | apply setb_inv

theorem pinLatches_inv {f q} {x0 x1 x2 x3} (hx3 : Inv f q x3) : Inv f q (pinLatches x0 x1 x2 x3) := by
  unfold pinLatches; with_reducible repeat' first | intro _ | assumption | apply forEach_inv | apply schedule_inv | rfl | apply inv_ite | apply inv_id | apply invR_ite | apply inv_next | apply inv_ite_fst | apply inv_ite_snd | apply inv_foldl | apply inv_foldl_fst | apply inv_foldl_snd | split | dsimp only | (unfold Inv; dsimp only; apply inv_fold)

theorem indexEvent_inv {f q} {x0 x1 x2} (hx2 : Inv f q x2) : Inv f q (indexEvent x0 x1 x2) := by
  unfold indexEvent; with_reducible repeat' first | intro _ | assumption | apply when__inv | apply takeLatch_inv | apply rset_inv | apply posAlarm_inv | apply count_inv | apply setb_inv | apply logLimited_inv | apply loadPosition_inv | apply modPos_inv | apply trackIndex_inv | apply posRaise_inv | rfl | apply inv_ite | apply inv_id | apply invR_ite | apply inv_next | apply inv_ite_fst | apply inv_ite_snd | apply inv_foldl | apply inv_foldl_fst | apply inv_foldl_snd | split | dsimp only | (unfold Inv; dsimp only; apply inv_fold)

theorem posIndetSts_inv {f q} {x0 x1} (hx1 : Inv f q x1) : Inv f q (posIndetSts x0 x1) := by
  unfold posIndetSts; with_reducible repeat' first | assumption | apply setb_inv

theorem posFault_inv {f q} {x0 x1} (hx1 : Inv f q x1) : Inv f q (posFault x0 x1) := by
  unfold posFault; with_reducible repeat' first | assumption | apply trackFault_inv | apply restartHist_inv

theorem quadLand_inv {f q} {x0 x1 x2 x3 x4 x5 x6 x7} (hx7 : Inv f q x7) : Inv f q (quadLand x0 x1 x2 x3 x4 x5 x6 x7) := by
  unfold quadLand; with_reducible repeat' first | intro _ | assumption | apply posFault_inv | apply posAlarm_inv | apply count_inv | apply setb_inv | apply logLimited_inv | apply posCount_inv | split | dsimp only | (unfold Inv; dsimp only; apply inv_fold)

theorem posLandOp_inv {f q} {x0 x1 x2} (hx2 : Inv f q x2) : Inv f q (posLandOp x0 x1 x2) := by
  unfold posLandOp; with_reducible repeat' first | intro _ | assumption | apply forEach_inv | apply modPos_inv | apply posIndetSts_inv | apply when__inv | apply quadLand_inv | apply indexEvent_inv | split | dsimp only | (unfold Inv; dsimp only; apply inv_fold)

theorem posSampleOp_inv {f q} {x0 x1} (hx1 : Inv f q x1) : Inv f q (posSampleOp x0 x1) := by
  unfold posSampleOp; with_reducible repeat' first | intro _ | assumption | rfl | apply inv_ite | apply inv_id | apply invR_ite | apply inv_next | apply inv_ite_fst | apply inv_ite_snd | apply modPos_inv | apply when__inv | apply count_inv | apply setb_inv | apply schedule_inv | apply inv_foldl | apply inv_foldl_fst | apply inv_foldl_snd | split | dsimp only | (unfold Inv; dsimp only; apply inv_fold)

theorem posEnableOp_inv {f q} {x0 x1} (hx1 : Inv f q x1) : Inv f q (posEnableOp x0 x1) := by
  unfold posEnableOp; with_reducible repeat' first | intro _ | assumption | apply forEach_inv | apply setf_inv | apply setb_inv | apply takeWires_inv | apply endHandover_inv | apply setPosition_inv | rfl | apply inv_ite | apply inv_id | apply invR_ite | apply inv_next | apply inv_ite_fst | apply inv_ite_snd | apply inv_foldl | apply inv_foldl_fst | apply inv_foldl_snd | split | dsimp only | (unfold Inv; dsimp only; apply inv_fold)

theorem posDisableOp_inv {f q} {x0 x1} (hx1 : Inv f q x1) : Inv f q (posDisableOp x0 x1) := by
  unfold posDisableOp; with_reducible repeat' first | assumption | apply rset_inv | apply setb_inv | apply modPos_inv

theorem posLoadOp_inv {f q} {x0 x1} (hx1 : Inv f q x1) : Inv f q (posLoadOp x0 x1) := by
  unfold posLoadOp; with_reducible repeat' first | intro _ | assumption | apply loadPosition_inv | rfl | apply inv_ite | apply inv_id | apply invR_ite | apply inv_next | apply inv_ite_fst | apply inv_ite_snd | apply inv_foldl | apply inv_foldl_fst | apply inv_foldl_snd | split | dsimp only | (unfold Inv; dsimp only; apply inv_fold)

theorem posStandstill_inv {f q} {x0 x1} (hx1 : Inv f q x1) : Inv f q (posStandstill x0 x1) := by
  unfold posStandstill; with_reducible repeat' first | assumption | apply trackStandstill_inv | apply posAlarm_inv | apply setb_inv

theorem posSkip_inv {f q} {x0 x1} (hx1 : Inv f q x1) : Inv f q (posSkip x0 x1) := by
  unfold posSkip; with_reducible repeat' first | assumption | apply count_inv | apply setb_inv

theorem frameBegin_inv {f q} {x0 x1} (hx1 : Inv f q x1) : Inv f q (frameBegin x0 x1) := by
  unfold frameBegin; with_reducible repeat' first | intro _ | assumption | apply posSkip_inv | apply modPos_inv | apply schedule_inv | apply setb_inv | rfl | apply inv_ite | apply inv_id | apply invR_ite | apply inv_next | apply inv_ite_fst | apply inv_ite_snd | apply inv_foldl | apply inv_foldl_fst | apply inv_foldl_snd | split | dsimp only | (unfold Inv; dsimp only; apply inv_fold)

theorem frameOver_inv {f q} {x0 x1 x2} (hx2 : Inv f q x2) : Inv f q (frameOver x0 x1 x2) := by
  unfold frameOver; with_reducible repeat' first | intro _ | assumption | apply setb_inv | apply modPos_inv | rfl | apply inv_ite | apply inv_id | apply invR_ite | apply inv_next | apply inv_ite_fst | apply inv_ite_snd | apply inv_foldl | apply inv_foldl_fst | apply inv_foldl_snd | split | dsimp only | (unfold Inv; dsimp only; apply inv_fold)

theorem takeFrame_inv {f q} {x0 x1} (hx1 : Inv f q x1) : Inv f q (takeFrame x0 x1) := by
  unfold takeFrame; with_reducible repeat' first | intro _ | assumption | apply when__inv | apply takeWires_inv | apply setb_inv | apply modPos_inv | rfl | apply inv_ite | apply inv_id | apply invR_ite | apply inv_next | apply inv_ite_fst | apply inv_ite_snd | apply inv_foldl | apply inv_foldl_fst | apply inv_foldl_snd | split | dsimp only | (unfold Inv; dsimp only; apply inv_fold)

theorem frameArrive_inv {f q} {x0 x1} (hx1 : Inv f q x1) : Inv f q (frameArrive x0 x1) := by
  unfold frameArrive; with_reducible repeat' first | intro _ | assumption | apply when__inv | apply frameBegin_inv | apply takeFrame_inv | apply takeWires_inv | rfl | apply inv_ite | apply inv_id | apply invR_ite | apply inv_next | apply inv_ite_fst | apply inv_ite_snd | apply inv_foldl | apply inv_foldl_fst | apply inv_foldl_snd | split | dsimp only | (unfold Inv; dsimp only; apply inv_fold)

theorem latchRaises_inv {f q} {x0 x1} (hx1 : Inv f q x1) : Inv f q (latchRaises x0 x1) := by
  unfold latchRaises; with_reducible repeat' first | intro _ | assumption | rfl | apply inv_ite | apply inv_id | apply invR_ite | apply inv_next | apply inv_ite_fst | apply inv_ite_snd | apply inv_foldl | apply inv_foldl_fst | apply inv_foldl_snd | split | dsimp only | (unfold Inv; dsimp only; apply inv_fold)

theorem latchArrive_inv {f q} {x0 x1} (hx1 : Inv f q x1) : Inv f q (latchArrive x0 x1) := by
  unfold latchArrive; with_reducible repeat' first | intro _ | assumption | apply when__inv | apply takeLatch_inv | apply latchRaises_inv | rfl | apply inv_ite | apply inv_id | apply invR_ite | apply inv_next | apply inv_ite_fst | apply inv_ite_snd | apply inv_foldl | apply inv_foldl_fst | apply inv_foldl_snd | split | dsimp only | (unfold Inv; dsimp only; apply inv_fold)

theorem abandonFrames_inv {f q} {x0} (hx0 : Inv f q x0) : Inv f q (abandonFrames x0) := by
  unfold abandonFrames; with_reducible repeat' first | intro _ | assumption | apply forEach_inv | apply posSkip_inv | apply setb_inv | apply modPos_inv | split

theorem faultyWord_inv {f q} {x0 x1 x2} (hx2 : Inv f q x2) : Inv f q (faultyWord x0 x1 x2) := by
  unfold faultyWord; with_reducible repeat' first | assumption | apply inv_ite | apply setf_inv | apply setb_inv | apply posFault_inv | apply posAlarm_inv | apply count_inv | apply logLimited_inv | apply modPos_inv

theorem wordLand_inv {f q} {x0 x1} (hx1 : Inv f q x1) : Inv f q (wordLand x0 x1) := by
  unfold wordLand; with_reducible repeat' first | intro _ | assumption | apply when__inv | apply modPos_inv | apply rset_inv | apply faultyWord_inv | apply zero_inv | apply setPosition_inv | apply directionStep_inv | apply recordChange_inv | apply setb_inv | apply trackCount_inv | apply posRaise_inv | apply count_inv | rfl | apply inv_ite | apply inv_id | apply invR_ite | apply inv_next | apply inv_ite_fst | apply inv_ite_snd | apply inv_foldl | apply inv_foldl_fst | apply inv_foldl_snd | split | dsimp only | (unfold Inv; dsimp only; apply inv_fold)

theorem wordDueOp_inv {f q} {x0 x1 x2} (hx2 : Inv f q x2) : Inv f q (wordDueOp x0 x1 x2) := by
  unfold wordDueOp; with_reducible repeat' first | intro _ | assumption | apply when__inv | apply wordLand_inv | rfl | apply inv_ite | apply inv_id | apply invR_ite | apply inv_next | apply inv_ite_fst | apply inv_ite_snd | apply inv_foldl | apply inv_foldl_fst | apply inv_foldl_snd | split | dsimp only | (unfold Inv; dsimp only; apply inv_fold)

theorem posCntClrOp_inv {f q} {x0 x1} (hx1 : Inv f q x1) : Inv f q (posCntClrOp x0 x1) := by
  unfold posCntClrOp; with_reducible repeat' first | assumption | apply clrAll_inv

/-! ### Hed.lean -/

theorem modHed_inv {f q} {x0 x1 x2} (hx2 : Inv f q x2) : Inv f q (modHed x0 x1 x2) :=
  inv_of hx2 rfl rfl rfl rfl

theorem hedData_inv {f q} {x0 x1} (hx1 : Inv f q x1) : Inv f q (hedData x0 x1) := by
  unfold hedData; with_reducible repeat' first | assumption | apply raise_inv

theorem hedAlarm_inv {f q} {x0 x1} (hx1 : Inv f q x1) : Inv f q (hedAlarm x0 x1) := by
  unfold hedAlarm; with_reducible repeat' first | assumption | apply raise_inv

theorem setHedF_inv {f q} {x0 x1 x2} (hx2 : Inv f q x2) : Inv f q (setHedF x0 x1 x2) := by
  unfold setHedF; with_reducible repeat' first | assumption | apply setb_inv

theorem setHedState_inv {f q} {x0 x1 x2} (hx2 : Inv f q x2) : Inv f q (setHedState x0 x1 x2) := by
  unfold setHedState; with_reducible repeat' first | assumption | apply setf_inv

theorem setPins_inv {f q} {x0 x1 x2 x3 x4} (hx4 : Inv f q x4) : Inv f q (setPins x0 x1 x2 x3 x4) := by
  unfold setPins; with_reducible repeat' first | assumption | apply setf_inv | apply modHed_inv

theorem syncTicks_inv {f q} {x0 x1 x2} (hx2 : Inv f q x2) : Inv f q (syncTicks x0 x1 x2) := by
  unfold syncTicks; with_reducible repeat' first | assumption | apply modHed_inv

theorem holdTicks_inv {f q} {x0 x1} (hx1 : Inv f q x1) : Inv f q (holdTicks x0 x1) := by
  unfold holdTicks; with_reducible repeat' first | intro _ | assumption | apply modHed_inv | rfl | apply inv_ite | apply inv_id | apply invR_ite | apply inv_next | apply inv_ite_fst | apply inv_ite_snd | apply inv_foldl | apply inv_foldl_fst | apply inv_foldl_snd | split | dsimp only | (unfold Inv; dsimp only; apply inv_fold)

theorem restartDivider_inv {f q} {x0 x1} (hx1 : Inv f q x1) : Inv f q (restartDivider x0 x1) := by
  unfold restartDivider; with_reducible repeat' first | assumption | apply modHed_inv

theorem fifoSts_inv {f q} {x0 x1} (hx1 : Inv f q x1) : Inv f q (fifoSts x0 x1) := by
  unfold fifoSts; with_reducible repeat' first | assumption | apply rset_inv

theorem fifoFlag_inv {f q} {x0 x1 x2} (hx2 : Inv f q x2) : Inv f q (fifoFlag x0 x1 x2) := by
  unfold fifoFlag; with_reducible repeat' first | assumption | apply inv_ite | apply setb_inv | apply count_inv | apply hedAlarm_inv | apply logLimited_inv

theorem rxPush_inv {f q} {x0 x1 x2} (hx2 : Inv f q x2) : Inv f q (rxPush x0 x1 x2) := by
  unfold rxPush; with_reducible repeat' first | assumption | apply fifoSts_inv | apply modHed_inv | apply when__inv | apply hedData_inv

theorem txPop_inv {f q} {x0 x1} (hx1 : Inv f q x1) : Inv f q (txPop x0 x1) := by
  unfold txPop; with_reducible repeat' first | assumption | apply fifoSts_inv | apply modHed_inv | apply when__inv | apply hedData_inv

theorem txClear_inv {f q} {x0 x1} (hx1 : Inv f q x1) : Inv f q (txClear x0 x1) := by
  unfold txClear; with_reducible repeat' first | assumption | apply fifoSts_inv | apply modHed_inv | apply when__inv | apply hedData_inv

theorem txWrite_inv {f q} {x0 x1 x2} (hx2 : Inv f q x2) : Inv f q (txWrite x0 x1 x2) := by
  unfold txWrite; with_reducible repeat' first | assumption | apply inv_ite | apply fifoFlag_inv | apply fifoSts_inv | apply modHed_inv

theorem rxRead_inv {f q} {x0 x1} (hx1 : Inv f q x1) : Inv f q (rxRead x0 x1).2 := by
  unfold rxRead; with_reducible repeat' first | assumption | apply fifoFlag_inv | apply fifoSts_inv | apply modHed_inv | split

theorem clearRegs_inv {f q} {x0 x1} (hx1 : Inv f q x1) : Inv f q (clearRegs x0 x1) := by
  unfold clearRegs; with_reducible repeat' first | intro _ | assumption | apply zeroAll_inv | apply setHedF_inv | apply setf_inv | apply rset_inv | apply restartDivider_inv | rfl | apply inv_ite | apply inv_id | apply invR_ite | apply inv_next | apply inv_ite_fst | apply inv_ite_snd | apply inv_foldl | apply inv_foldl_fst | apply inv_foldl_snd | split | dsimp only | (unfold Inv; dsimp only; apply inv_fold)

theorem hedEnablePins_inv {f q} {x0 x1} (hx1 : Inv f q x1) : Inv f q (hedEnablePins x0 x1) := by
  unfold hedEnablePins; with_reducible repeat' first | intro _ | assumption | apply forEach_inv | apply endHandover_inv | rfl | apply inv_ite | apply inv_id | apply invR_ite | apply inv_next | apply inv_ite_fst | apply inv_ite_snd | apply inv_foldl | apply inv_foldl_fst | apply inv_foldl_snd | split | dsimp only | (unfold Inv; dsimp only; apply inv_fold)

theorem haltSoon_inv {f q} {x0 x1} (hx1 : Inv f q x1) : Inv f q (haltSoon x0 x1) := by
  unfold haltSoon; with_reducible repeat' first | intro _ | assumption | apply schedule_inv | rfl | apply inv_ite | apply inv_id | apply invR_ite | apply inv_next | apply inv_ite_fst | apply inv_ite_snd | apply inv_foldl | apply inv_foldl_fst | apply inv_foldl_snd | split | dsimp only | (unfold Inv; dsimp only; apply inv_fold)

theorem hedStartOp_inv {f q} {x0 x1} (hx1 : Inv f q x1) : Inv f q (hedStartOp x0 x1) := by
  unfold hedStartOp; with_reducible repeat' first | intro _ | assumption | apply when__inv | apply setb_inv | apply clearRegs_inv | apply setPins_inv | apply modHed_inv | apply hedEnablePins_inv | apply haltSoon_inv | apply setHedState_inv | rfl | apply inv_ite | apply inv_id | apply invR_ite | apply inv_next | apply inv_ite_fst | apply inv_ite_snd | apply inv_foldl | apply inv_foldl_fst | apply inv_foldl_snd | split | dsimp only | (unfold Inv; dsimp only; apply inv_fold)

theorem swapStopped_inv {f q} {x0 x1} (hx1 : Inv f q x1) : Inv f q (swapStopped x0 x1) := by
  unfold swapStopped; with_reducible repeat' first | assumption | apply inv_ite | apply setf_inv | apply setHedState_inv | apply setb_inv | apply modHed_inv | apply hedStartOp_inv

theorem afterStop_inv {f q} {x0 x1} (hx1 : Inv f q x1) : Inv f q (afterStop x0 x1) := by
  unfold afterStop; with_reducible repeat' first | intro _ | assumption | apply when__inv | apply swapStopped_inv | rfl | apply inv_ite | apply inv_id | apply invR_ite | apply inv_next | apply inv_ite_fst | apply inv_ite_snd | apply inv_foldl | apply inv_foldl_fst | apply inv_foldl_snd | split | dsimp only | (unfold Inv; dsimp only; apply inv_fold)

theorem hedStopOp_inv {f q} {x0 x1} (hx1 : Inv f q x1) : Inv f q (hedStopOp x0 x1) := by
  unfold hedStopOp; with_reducible repeat' first | intro _ | assumption | apply setb_inv | apply setHedState_inv | apply afterStop_inv | apply modHed_inv | rfl | apply inv_ite | apply inv_id | apply invR_ite | apply inv_next | apply inv_ite_fst | apply inv_ite_snd | apply inv_foldl | apply inv_foldl_fst | apply inv_foldl_snd | split | dsimp only | (unfold Inv; dsimp only; apply inv_fold)

theorem hedFault_inv {f q} {x0 x1 x2} (hx2 : Inv f q x2) : Inv f q (hedFault x0 x1 x2) := by
  unfold hedFault; with_reducible repeat' first | intro _ | assumption | apply setHedState_inv | apply setb_inv | apply rset_inv | apply modHed_inv | apply afterStop_inv | apply logCause_inv | apply hedAlarm_inv | rfl | apply inv_ite | apply inv_id | apply invR_ite | apply inv_next | apply inv_ite_fst | apply inv_ite_snd | apply inv_foldl | apply inv_foldl_fst | apply inv_foldl_snd | split | dsimp only | (unfold Inv; dsimp only; apply inv_fold)

theorem swapBank_inv {f q} {x0 x1} (hx1 : Inv f q x1) : Inv f q (swapBank x0 x1) := by
  unfold swapBank; with_reducible repeat' first | assumption | apply setf_inv | apply setb_inv | apply clearRegs_inv | apply modHed_inv

theorem swapClean_inv {f q} {x0 x1} (hx1 : Inv f q x1) : Inv f q (swapClean x0 x1) := by
  unfold swapClean; with_reducible repeat' first | assumption | apply inv_ite | apply swapBank_inv | apply setHedState_inv | apply hedStopOp_inv

theorem swapForced_inv {f q} {x0 x1} (hx1 : Inv f q x1) : Inv f q (swapForced x0 x1) := by
  unfold swapForced; with_reducible repeat' first | assumption | apply inv_ite | apply rset_inv | apply hedAlarm_inv | apply count_inv | apply txClear_inv | apply logCause_inv | apply swapBank_inv | apply setHedState_inv | apply hedStopOp_inv

theorem swapLater_inv {f q} {x0 x1} (hx1 : Inv f q x1) : Inv f q (swapLater x0 x1) := by
  unfold swapLater; with_reducible repeat' first | intro _ | assumption | apply schedule_inv | rfl | apply inv_ite | apply inv_id | apply invR_ite | apply inv_next | apply inv_ite_fst | apply inv_ite_snd | apply inv_foldl | apply inv_foldl_fst | apply inv_foldl_snd | split | dsimp only | (unfold Inv; dsimp only; apply inv_fold)

theorem cleanSwapOp_inv {f q} {x0 x1} (hx1 : Inv f q x1) : Inv f q (cleanSwapOp x0 x1) := by
  unfold cleanSwapOp; with_reducible repeat' first | assumption | apply inv_ite | apply swapStopped_inv | apply swapClean_inv

theorem swapTimeout_inv {f q} {x0 x1} (hx1 : Inv f q x1) : Inv f q (swapTimeout x0 x1) := by
  unfold swapTimeout; with_reducible repeat' first | intro _ | assumption | apply when__inv | apply cleanSwapOp_inv | apply swapForced_inv | rfl | apply inv_ite | apply inv_id | apply invR_ite | apply inv_next | apply inv_ite_fst | apply inv_ite_snd | apply inv_foldl | apply inv_foldl_fst | apply inv_foldl_snd | split | dsimp only | (unfold Inv; dsimp only; apply inv_fold)

theorem hedGo_inv {f q} {x0 x1 x2} (hx2 : Inv f q x2) : Inv f q (hedGo x0 x1 x2) := by
  unfold hedGo; with_reducible repeat' first | assumption | apply modHed_inv | apply setf_inv | apply setHedState_inv

theorem hedNext_inv {f q} {x0 x1} (hx1 : Inv f q x1) : Inv f q (hedNext x0 x1) := by
  unfold hedNext; with_reducible repeat' first | assumption | apply hedGo_inv

theorem hedStall_inv {f q} {x0 x1 x2} (hx1 : ∀ y0, Inv f q y0 → Inv f q (x1 y0)) (hx2 : Inv f q x2) : Inv f q (hedStall x0 x1 x2) := by
  unfold hedStall; with_reducible repeat' first | assumption | apply hx1 | apply when__inv | apply modHed_inv | apply setHedState_inv

theorem hedJmpOp_inv {f q} {x0 x1 x2} (hx2 : Inv f q x2) : Inv f q (hedJmpOp x0 x1 x2) := by
  unfold hedJmpOp; with_reducible repeat' first | intro _ | assumption | apply hedGo_inv | apply hedNext_inv | apply rset_inv | apply hedFault_inv | split | dsimp only | (unfold Inv; dsimp only; apply inv_fold)

theorem hedWaitOp_inv {f q} {x0 x1 x2} (hx2 : Inv f q x2) : Inv f q (hedWaitOp x0 x1 x2) := by
  unfold hedWaitOp; with_reducible repeat' first | intro _ | assumption | rfl | apply inv_ite | apply inv_id | apply invR_ite | apply inv_next | apply inv_ite_fst | apply inv_ite_snd | apply hedFault_inv | apply when__inv | apply modHed_inv | apply hedNext_inv | apply setHedF_inv | apply hedStall_inv | apply setb_inv | apply inv_foldl | apply inv_foldl_fst | apply inv_foldl_snd | split | dsimp only | (unfold Inv; dsimp only; apply inv_fold)

theorem hedOutOp_inv {f q} {x0 x1 x2} (hx2 : Inv f q x2) : Inv f q (hedOutOp x0 x1 x2) := by
  unfold hedOutOp; with_reducible repeat' first | intro _ | assumption | apply hedFault_inv | apply rset_inv | apply setf_inv | apply setPins_inv | apply hedNext_inv | split | dsimp only | (unfold Inv; dsimp only; apply inv_fold)

theorem hedInOp_inv {f q} {x0 x1 x2} (hx2 : Inv f q x2) : Inv f q (hedInOp x0 x1 x2) := by
  unfold hedInOp; with_reducible repeat' first | assumption | apply inv_ite | apply hedFault_inv | apply setf_inv | apply rset_inv | apply hedNext_inv | apply when__inv | apply setHedF_inv

theorem hedPullOp_inv {f q} {x0 x1 x2} (hx2 : Inv f q x2) : Inv f q (hedPullOp x0 x1 x2) := by
  unfold hedPullOp; with_reducible repeat' first | assumption | apply hedNext_inv | apply setHedF_inv | apply setf_inv | apply rset_inv | apply txPop_inv | apply hedStall_inv | apply fifoFlag_inv | split

theorem hedPushOp_inv {f q} {x0 x1 x2} (hx2 : Inv f q x2) : Inv f q (hedPushOp x0 x1 x2) := by
  unfold hedPushOp; with_reducible repeat' first | assumption | apply inv_ite | apply rxPush_inv | apply hedNext_inv | apply setHedF_inv | apply setf_inv | apply rset_inv | apply hedStall_inv | apply fifoFlag_inv

theorem hedSetOp_inv {f q} {x0 x1 x2} (hx2 : Inv f q x2) : Inv f q (hedSetOp x0 x1 x2) := by
  unfold hedSetOp; with_reducible repeat' first | intro _ | assumption | apply hedFault_inv | apply hedNext_inv | apply setPins_inv | apply rset_inv | split | dsimp only | (unfold Inv; dsimp only; apply inv_fold)

theorem hedMovOp_inv {f q} {x0 x1 x2} (hx2 : Inv f q x2) : Inv f q (hedMovOp x0 x1 x2) := by
  unfold hedMovOp; with_reducible repeat' first | assumption | apply hedNext_inv | apply rset_inv | apply setf_inv | apply setPins_inv | apply hedFault_inv | split

theorem hedCrcOp_inv {f q} {x0 x1 x2} (hx2 : Inv f q x2) : Inv f q (hedCrcOp x0 x1 x2) := by
  unfold hedCrcOp; with_reducible repeat' first | assumption | apply hedNext_inv | apply rset_inv

theorem hedStampOp_inv {f q} {x0 x1 x2} (hx2 : Inv f q x2) : Inv f q (hedStampOp x0 x1 x2) := by
  unfold hedStampOp; with_reducible repeat' first | assumption | apply inv_ite | apply hedNext_inv | apply setHedF_inv | apply rset_inv | apply rxPush_inv | apply hedStall_inv | apply fifoFlag_inv

theorem hedTriggerOp_inv {f q} {x0 x1} (hx1 : Inv f q x1) : Inv f q (hedTriggerOp x0 x1) := by
  unfold hedTriggerOp; with_reducible repeat' first | assumption | apply setb_inv | apply takeWires_inv

theorem hedTrigArrive_inv {f q} {x0 x1} (hx1 : Inv f q x1) : Inv f q (hedTrigArrive x0 x1) := by
  unfold hedTrigArrive; with_reducible repeat' first | intro _ | assumption | apply hedTriggerOp_inv | apply takeWires_inv | rfl | apply inv_ite | apply inv_id | apply invR_ite | apply inv_next | apply inv_ite_fst | apply inv_ite_snd | apply inv_foldl | apply inv_foldl_fst | apply inv_foldl_snd | split | dsimp only | (unfold Inv; dsimp only; apply inv_fold)

theorem hedCntClrOp_inv {f q} {x0 x1} (hx1 : Inv f q x1) : Inv f q (hedCntClrOp x0 x1) := by
  unfold hedCntClrOp; with_reducible repeat' first | assumption | apply clrAll_inv

theorem fifoClrOp_inv {f q} {x0 x1} (hx1 : Inv f q x1) : Inv f q (fifoClrOp x0 x1) := by
  unfold fifoClrOp; with_reducible repeat' first | assumption | apply fifoSts_inv | apply modHed_inv | apply txClear_inv

theorem hedHaltOp_inv {f q} {x0 x1} (hx1 : Inv f q x1) : Inv f q (hedHaltOp x0 x1) := by
  unfold hedHaltOp; with_reducible repeat' first | intro _ | assumption | apply when__inv | apply setb_inv | apply haltSoon_inv | rfl | apply inv_ite | apply inv_id | apply invR_ite | apply inv_next | apply inv_ite_fst | apply inv_ite_snd | apply inv_foldl | apply inv_foldl_fst | apply inv_foldl_snd | split | dsimp only | (unfold Inv; dsimp only; apply inv_fold)

theorem hedHaltNow_inv {f q} {x0 x1} (hx1 : Inv f q x1) : Inv f q (hedHaltNow x0 x1) := by
  unfold hedHaltNow; with_reducible repeat' first | intro _ | assumption | apply modHed_inv | apply holdTicks_inv | apply setHedState_inv | apply setb_inv | apply schedule_inv | rfl | apply inv_ite | apply inv_id | apply invR_ite | apply inv_next | apply inv_ite_fst | apply inv_ite_snd | apply inv_foldl | apply inv_foldl_fst | apply inv_foldl_snd | split | dsimp only | (unfold Inv; dsimp only; apply inv_fold)

theorem hedResumeOp_inv {f q} {x0 x1} (hx1 : Inv f q x1) : Inv f q (hedResumeOp x0 x1) := by
  unfold hedResumeOp; with_reducible repeat' first | intro _ | assumption | apply setb_inv | apply modHed_inv | apply swapLater_inv | apply setHedState_inv | rfl | apply inv_ite | apply inv_id | apply invR_ite | apply inv_next | apply inv_ite_fst | apply inv_ite_snd | apply inv_foldl | apply inv_foldl_fst | apply inv_foldl_snd | split | dsimp only | (unfold Inv; dsimp only; apply inv_fold)

theorem hedSleep_inv {f q} {x0} (hx0 : Inv f q x0) : Inv f q (hedSleep x0) := by
  unfold hedSleep; with_reducible repeat' first | intro _ | assumption | apply forEach_inv | apply when__inv | apply syncTicks_inv | rfl | apply inv_ite | apply inv_id | apply invR_ite | apply inv_next | apply inv_ite_fst | apply inv_ite_snd | apply inv_foldl | apply inv_foldl_fst | apply inv_foldl_snd | split | dsimp only | (unfold Inv; dsimp only; apply inv_fold)

theorem hedWake_inv {f q} {x0} (hx0 : Inv f q x0) : Inv f q (hedWake x0) := by
  unfold hedWake; with_reducible repeat' first | intro _ | assumption | apply forEach_inv | apply when__inv | apply modHed_inv | apply haltSoon_inv | rfl | apply inv_ite | apply inv_id | apply invR_ite | apply inv_next | apply inv_ite_fst | apply inv_ite_snd | apply inv_foldl | apply inv_foldl_fst | apply inv_foldl_snd | split | dsimp only | (unfold Inv; dsimp only; apply inv_fold)

/-! ### Win.lean -/

theorem modCmp_inv {f q} {x0 x1 x2} (hx2 : Inv f q x2) : Inv f q (modCmp x0 x1 x2) :=
  inv_of hx2 rfl rfl rfl rfl

theorem modAdc_inv {f q} {x0 x1} (hx1 : Inv f q x1) : Inv f q (modAdc x0 x1) :=
  inv_of hx1 rfl rfl rfl rfl

theorem winLevels_inv {f q} {x0 x1} (hx1 : Inv f q x1) : Inv f q (winLevels x0 x1) := by
  unfold winLevels; with_reducible repeat' first | assumption | apply setb_inv

theorem cmpLevel_inv {f q} {x0 x1} (hx1 : Inv f q x1) : Inv f q (cmpLevel x0 x1) := by
  unfold cmpLevel; with_reducible repeat' first | assumption | apply refreshTrips_inv | apply winLevels_inv

theorem cmpHold_inv {f q} {x0 x1 x2} (hx2 : Inv f q x2) : Inv f q (cmpHold x0 x1 x2) := by
  unfold cmpHold; with_reducible repeat' first | assumption | apply winLevels_inv | apply modCmp_inv

theorem cmpModeSet_inv {f q} {x0 x1} (hx1 : Inv f q x1) : Inv f q (cmpModeSet x0 x1) := by
  unfold cmpModeSet; with_reducible repeat' first | assumption | apply inv_ite | apply setf_inv | apply when__inv | apply cmpHold_inv

theorem cmpModesSet_inv {f q} {x0} (hx0 : Inv f q x0) : Inv f q (cmpModesSet x0) := by
  unfold cmpModesSet; with_reducible repeat' first | assumption | apply forEach_inv | apply cmpModeSet_inv

theorem winEvents_inv {f q} {x0 x1 x2} (hx2 : Inv f q x2) : Inv f q (winEvents x0 x1 x2) := by
  unfold winEvents; with_reducible repeat' first | intro _ | assumption | apply inv_ite | apply when__inv | apply count_inv | apply setb_inv | apply raise_inv

theorem cmpChange_inv {f q} {x0 x1 x2 x3} (hx3 : Inv f q x3) : Inv f q (cmpChange x0 x1 x2 x3) := by
  unfold cmpChange; with_reducible repeat' first | intro _ | assumption | apply winEvents_inv | apply winLevels_inv | apply setb_inv | apply forEach_inv | apply when__inv | apply channelEdge_inv | apply refreshTrips_inv

theorem cmpAdopt_inv {f q} {x0 x1 x2} (hx2 : Inv f q x2) : Inv f q (cmpAdopt x0 x1 x2) := by
  unfold cmpAdopt; with_reducible repeat' first | assumption | apply cmpLevel_inv | apply modCmp_inv | apply setb_inv

theorem cmpEvaluate_inv {f q} {x0 x1 x2} (hx2 : Inv f q x2) : Inv f q (cmpEvaluate x0 x1 x2) := by
  unfold cmpEvaluate; with_reducible repeat' first | assumption | apply cmpAdopt_inv | apply freshBit_inv | apply modCmp_inv | apply when__inv | apply cmpChange_inv | split

theorem cmpEnterIndet_inv {f q} {x0 x1} (hx1 : Inv f q x1) : Inv f q (cmpEnterIndet x0 x1) := by
  unfold cmpEnterIndet; with_reducible repeat' first | intro _ | assumption | apply forEach_inv | apply when__inv | apply endMeas_inv | apply modCmp_inv | apply cmpLevel_inv | apply setb_inv

theorem writeCmp_inv {f q} {x0 x1 x2} (hx2 : Inv f q x2) : Inv f q (writeCmp x0 x1 x2) := by
  unfold writeCmp; with_reducible repeat' first | assumption | apply inv_ite | apply rset_inv | apply cmpEnterIndet_inv | apply setf_inv | apply modCmp_inv | apply cmpLevel_inv | apply setb_inv | apply cmpModeSet_inv | apply when__inv | apply cmpHold_inv

theorem writeThresh_inv {f q} {x0 x1 x2} (hx2 : Inv f q x2) : Inv f q (writeThresh x0 x1 x2) := by
  unfold writeThresh; with_reducible repeat' first | assumption | apply modCmp_inv | apply rset_inv | apply modAdc_inv | apply when__inv | apply cmpHold_inv

theorem adcArrive_inv {f q} {x0 x1} (hx1 : Inv f q x1) : Inv f q (adcArrive x0 x1) := by
  unfold adcArrive; with_reducible repeat' first | assumption | apply inv_ite | apply raise_inv | apply count_inv | apply setb_inv | apply modAdc_inv

theorem convStart_inv {f q} {x0 x1} (hx1 : Inv f q x1) : Inv f q (convStart x0 x1) := by
  unfold convStart; with_reducible repeat' first | assumption | apply modAdc_inv

theorem adcRecord_inv {f q} {x0 x1 x2 x3 x4 x5} (hx5 : Inv f q x5) : Inv f q (adcRecord x0 x1 x2 x3 x4 x5) := by
  unfold adcRecord; with_reducible repeat' first | assumption | apply inv_ite | apply flagRaise_inv | apply count_inv | apply writeN_inv | apply rset_inv | apply when__inv | apply raise_inv

theorem slotResult_inv {f q} {x0 x1 x2 x3 x4 x5 x6} (hx6 : Inv f q x6) : Inv f q (slotResult x0 x1 x2 x3 x4 x5 x6) := by
  unfold slotResult; with_reducible repeat' first | intro _ | assumption | apply when__inv | apply setb_inv | apply setf_inv | apply noteOld_inv | apply adcRecord_inv | apply count_inv | apply raise_inv | rfl | apply inv_ite | apply inv_id | apply invR_ite | apply inv_next | apply inv_ite_fst | apply inv_ite_snd | apply inv_foldl | apply inv_foldl_fst | apply inv_foldl_snd | split | dsimp only | (unfold Inv; dsimp only; apply inv_fold)

theorem dacMismatch_inv {f q} {x0 x1 x2} (hx2 : Inv f q x2) : Inv f q (dacMismatch x0 x1 x2) := by
  unfold dacMismatch; with_reducible repeat' first | assumption | apply setb_inv | apply count_inv | apply rset_inv | apply flagRaise_inv | apply logCause_inv

theorem slotReadOp_inv {f q} {x0 x1} (hx1 : Inv f q x1) : Inv f q (slotReadOp x0 x1).2 := by
  unfold slotReadOp; with_reducible repeat' first | intro _ | assumption | apply clearBits_inv | rfl | apply inv_ite | apply inv_id | apply invR_ite | apply inv_next | apply inv_ite_fst | apply inv_ite_snd | apply inv_foldl | apply inv_foldl_fst | apply inv_foldl_snd | split | dsimp only | (unfold Inv; dsimp only; apply inv_fold)

theorem adcTriggerOp_inv {f q} {x0 x1} (hx1 : Inv f q x1) : Inv f q (adcTriggerOp x0 x1) := by
  unfold adcTriggerOp; with_reducible repeat' first | intro _ | assumption | apply inv_ite | apply takeWires_inv | apply forEach_inv | apply adcArrive_inv

theorem adcCntClrOp_inv {f q} {x0} (hx0 : Inv f q x0) : Inv f q (adcCntClrOp x0) := by
  unfold adcCntClrOp; with_reducible repeat' first | assumption | apply clrAll_inv

/-! ### Bob.lean -/

theorem modBob_inv {f q} {x0 x1 x2} (hx2 : Inv f q x2) : Inv f q (modBob x0 x1 x2) :=
  inv_of hx2 rfl rfl rfl rfl

theorem qAdvance_inv {f q} {x0 x1} (hx1 : Inv f q x1) : Inv f q (qAdvance x0 x1) := by
  unfold qAdvance; with_reducible repeat' first | assumption | apply inv_ite | apply rset_inv | apply ringSts_inv | apply setf_inv

theorem bobSnap_inv {f q} {x0} (hx0 : Inv f q x0) : Inv f q (bobSnap x0) := by
  unfold bobSnap; with_reducible repeat' first | intro _ | assumption | rfl | apply inv_ite | apply inv_id | apply invR_ite | apply inv_next | apply inv_ite_fst | apply inv_ite_snd | apply modBob_inv | apply inv_foldl | apply inv_foldl_fst | apply inv_foldl_snd | split | dsimp only | (unfold Inv; dsimp only; apply inv_fold)

theorem postWrite_inv {f q} {x0 x1} (hx1 : Inv f q x1) : Inv f q (postWrite x0 x1) :=
  inv_of hx1 rfl rfl rfl rfl

theorem bobStop_inv {f q} {x0 x1} (hx1 : Inv f q x1) : Inv f q (bobStop x0 x1) := by
  unfold bobStop; with_reducible repeat' first | assumption | apply setb_inv

theorem bobFail_inv {f q} {x0 x1 x2 x3 x4} (hx4 : Inv f q x4) : Inv f q (bobFail x0 x1 x2 x3 x4) := by
  unfold bobFail; with_reducible repeat' first | assumption | apply rset_inv | apply bobStop_inv | apply setb_inv | apply raise_inv | apply modBob_inv | apply logCause_inv

theorem bobBegin_inv {f q} {x0 x1 x2 x3} (hx3 : Inv f q x3) : Inv f q (bobBegin x0 x1 x2 x3) := by
  unfold bobBegin; with_reducible repeat' first | assumption | apply setb_inv | apply rset_inv | apply modBob_inv

theorem bobComplete_inv {f q} {x0 x1} (hx1 : Inv f q x1) : Inv f q (bobComplete x0 x1) := by
  unfold bobComplete; with_reducible repeat' first | intro _ | assumption | apply when__inv | apply setb_inv | apply bobStop_inv | apply raise_inv | apply count_inv | apply modBob_inv | apply schedule_inv | rfl | apply inv_ite | apply inv_id | apply invR_ite | apply inv_next | apply inv_ite_fst | apply inv_ite_snd | apply inv_foldl | apply inv_foldl_fst | apply inv_foldl_snd | split | dsimp only | (unfold Inv; dsimp only; apply inv_fold)

theorem bobEnd_inv {f q} {x0 x1 x2 x3 x4} (hx4 : Inv f q x4) : Inv f q (bobEnd x0 x1 x2 x3 x4) := by
  unfold bobEnd; with_reducible repeat' first | assumption | apply inv_ite | apply bobFail_inv | apply modBob_inv

theorem bobSettle_inv {f q} {x0 x1} (hx1 : Inv f q x1) : Inv f q (bobSettle x0 x1) := by
  unfold bobSettle; with_reducible repeat' first | assumption | apply bobFail_inv | apply bobComplete_inv | split

theorem bobStartOp_inv {f q} {x0 x1} (hx1 : Inv f q x1) : Inv f q (bobStartOp x0 x1) := by
  unfold bobStartOp; with_reducible repeat' first | assumption | apply inv_ite | apply modBob_inv | apply bobFail_inv | apply bobBegin_inv

theorem mtSet_inv {f q} {x0 x1} (hx1 : Inv f q x1) : Inv f q (mtSet x0 x1) := by
  unfold mtSet; with_reducible repeat' first | assumption | apply setf_inv

theorem copyWaits_inv {f q} {x0 x1} (hx1 : Inv f q x1) : Inv f q (copyWaits x0 x1) := by
  unfold copyWaits; with_reducible repeat' first | intro _ | assumption | apply when__inv | rfl | apply inv_ite | apply inv_id | apply invR_ite | apply inv_next | apply inv_ite_fst | apply inv_ite_snd | apply inv_foldl | apply inv_foldl_fst | apply inv_foldl_snd | split | dsimp only | (unfold Inv; dsimp only; apply inv_fold)

theorem portTake_inv {f q} {x0 x1 x2} (hx2 : Inv f q x2) : Inv f q (portTake x0 x1 x2) := by
  unfold portTake; with_reducible repeat' first | intro _ | assumption | apply copyWaits_inv | rfl | apply inv_ite | apply inv_id | apply invR_ite | apply inv_next | apply inv_ite_fst | apply inv_ite_snd | apply inv_foldl | apply inv_foldl_fst | apply inv_foldl_snd | split | dsimp only | (unfold Inv; dsimp only; apply inv_fold)

theorem bobServe_inv {f q} {x0 x1 x2} (hx2 : Inv f q x2) : Inv f q (bobServe x0 x1 x2) := by
  unfold bobServe; with_reducible repeat' first | intro _ | assumption | apply modBob_inv | apply writeBytes_inv | apply checkRead_inv | rfl | apply inv_ite | apply inv_id | apply invR_ite | apply inv_next | apply inv_ite_fst | apply inv_ite_snd | apply inv_foldl | apply inv_foldl_fst | apply inv_foldl_snd | split | dsimp only | (unfold Inv; dsimp only; apply inv_fold)

theorem hostWords_inv {f q} {x0 x1 x2} (hx2 : Inv f q x2) : Inv f q (hostWords x0 x1 x2) := by
  unfold hostWords; with_reducible repeat' first | intro _ | assumption | rfl | apply inv_ite | apply inv_id | apply invR_ite | apply inv_next | apply inv_ite_fst | apply inv_ite_snd | apply inv_foldl | apply inv_foldl_fst | apply inv_foldl_snd | split | dsimp only | (unfold Inv; dsimp only; apply inv_fold)

theorem spiWord_inv {f q} {x0 x1} (hx1 : Inv f q x1) : Inv f q (spiWord x0 x1) :=
  inv_of hx1 rfl rfl rfl rfl

theorem storeDws_inv {f q} {x0 x1 x2} (hx2 : Inv f q x2) : Inv f q (storeDws x0 x1 x2) := by
  unfold storeDws; with_reducible repeat' first | intro _ | assumption | apply hostWords_inv | apply checkRead_inv | rfl | apply inv_ite | apply inv_id | apply invR_ite | apply inv_next | apply inv_ite_fst | apply inv_ite_snd | apply inv_foldl | apply inv_foldl_fst | apply inv_foldl_snd | split | dsimp only | (unfold Inv; dsimp only; apply inv_fold)

theorem portServe_inv {f q} {x0 x1} (hx1 : Inv f q x1) : Inv f q (portServe x0 x1) := by
  unfold portServe; with_reducible repeat' first | intro _ | assumption | apply writeBytes_inv | apply storeDws_inv | apply checkRead_inv | apply spiWord_inv | apply bobServe_inv | rfl | apply inv_ite | apply inv_id | apply invR_ite | apply inv_next | apply inv_ite_fst | apply inv_ite_snd | apply inv_foldl | apply inv_foldl_fst | apply inv_foldl_snd | split | dsimp only | (unfold Inv; dsimp only; apply inv_fold)

theorem portAsk_inv {f q} {x0 x1} (hx1 : Inv f q x1) : Inv f q (portAsk x0 x1) := by
  unfold portAsk; with_reducible repeat' first | intro _ | assumption | apply portServe_inv | apply portTake_inv | apply schedule_inv | rfl | apply inv_ite | apply inv_id | apply invR_ite | apply inv_next | apply inv_ite_fst | apply inv_ite_snd | apply inv_foldl | apply inv_foldl_fst | apply inv_foldl_snd | split | dsimp only | (unfold Inv; dsimp only; apply inv_fold)

theorem grantOp_inv {f q} {x0} (hx0 : Inv f q x0) : Inv f q (grantOp x0) := by
  unfold grantOp; with_reducible repeat' first | intro _ | assumption | apply forEach_inv | apply when__inv | apply portServe_inv | apply portTake_inv | apply schedule_inv | rfl | apply inv_ite | apply inv_id | apply invR_ite | apply inv_next | apply inv_ite_fst | apply inv_ite_snd | apply inv_foldl | apply inv_foldl_fst | apply inv_foldl_snd | split | dsimp only | (unfold Inv; dsimp only; apply inv_fold)

theorem bobAccount_inv {f q} {x0 x1 x2} (hx2 : Inv f q x2) : Inv f q (bobAccount x0 x1 x2) := by
  unfold bobAccount; with_reducible repeat' first | intro _ | assumption | rfl | apply inv_ite | apply inv_id | apply invR_ite | apply inv_next | apply inv_ite_fst | apply inv_ite_snd | apply qAdvance_inv | apply modBob_inv | apply inv_foldl | apply inv_foldl_fst | apply inv_foldl_snd | split | dsimp only | (unfold Inv; dsimp only; apply inv_fold)

theorem bobIssue_inv {f q} {x0 x1 x2 x3 x4 x5} (hx5 : Inv f q x5) : Inv f q (bobIssue x0 x1 x2 x3 x4 x5) := by
  unfold bobIssue; with_reducible repeat' first | intro _ | assumption | apply when__inv | apply bobEnd_inv | apply rxRead_inv | apply postWrite_inv | apply txWrite_inv | apply modBob_inv | apply portAsk_inv | apply bobAccount_inv | rfl | apply inv_ite | apply inv_id | apply invR_ite | apply inv_next | apply inv_ite_fst | apply inv_ite_snd | apply inv_foldl | apply inv_foldl_fst | apply inv_foldl_snd | split | dsimp only | (unfold Inv; dsimp only; apply inv_fold)

theorem bobCompare_inv {f q} {x0 x1} (hx1 : Inv f q x1) : Inv f q (bobCompare x0 x1) := by
  unfold bobCompare; with_reducible repeat' first | intro _ | assumption | apply modBob_inv | apply rset_inv | apply setb_inv | split | dsimp only | (unfold Inv; dsimp only; apply inv_fold)

theorem bobDrop_inv {f q} {x0 x1 x2} (hx2 : Inv f q x2) : Inv f q (bobDrop x0 x1 x2) := by
  unfold bobDrop; with_reducible repeat' first | assumption | apply modBob_inv

theorem bobError_inv {f q} {x0 x1 x2 x3} (hx3 : Inv f q x3) : Inv f q (bobError x0 x1 x2 x3) := by
  unfold bobError; with_reducible repeat' first | assumption | apply inv_ite | apply bobSettle_inv | apply bobEnd_inv

theorem bobTake_inv {f q} {x0 x1 x2} (hx2 : Inv f q x2) : Inv f q (bobTake x0 x1 x2) := by
  unfold bobTake; with_reducible repeat' first | intro _ | assumption | apply bobError_inv | apply modBob_inv | apply when__inv | apply bobAccount_inv | apply bobCompare_inv | apply rset_inv | apply bobSettle_inv | split

theorem bobLinkDrop_inv {f q} {x0} (hx0 : Inv f q x0) : Inv f q (bobLinkDrop x0) := by
  unfold bobLinkDrop; with_reducible repeat' first | intro _ | assumption | apply forEach_inv | apply countN_inv | apply modBob_inv | apply bobSettle_inv | apply bobEnd_inv | split | dsimp only | (unfold Inv; dsimp only; apply inv_fold)

theorem bobCntClrOp_inv {f q} {x0 x1} (hx1 : Inv f q x1) : Inv f q (bobCntClrOp x0 x1) := by
  unfold bobCntClrOp; with_reducible repeat' first | assumption | apply clr_inv

theorem storeCntClrOp_inv {f q} {x0} (hx0 : Inv f q x0) : Inv f q (storeCntClrOp x0) := by
  unfold storeCntClrOp; with_reducible repeat' first | assumption | apply clrAll_inv

theorem writeHqPtr_inv {f q} {x0 x1 x2} (hx2 : Inv f q x2) : Inv f q (writeHqPtr x0 x1 x2) := by
  unfold writeHqPtr; with_reducible repeat' first | assumption | apply inv_ite | apply setf_inv

theorem clearBank_inv {f q} {x0 x1} (hx1 : Inv f q x1) : Inv f q (clearBank x0 x1) :=
  inv_of (inv_mem hx1 fun h => filter_canon _ h) rfl rfl rfl rfl

theorem mtRequest_inv {f q} {x0 x1 x2} (hx2 : Inv f q x2) : Inv f q (mtRequest x0 x1 x2) := by
  unfold mtRequest; with_reducible repeat' first | intro _ | assumption | apply setf_inv | apply setb_inv | apply mtSet_inv | split | dsimp only | (unfold Inv; dsimp only; apply inv_fold)

theorem bankFailed_inv {f q} {x0 x1} (hx1 : Inv f q x1) : Inv f q (bankFailed x0 x1).2 := by
  unfold bankFailed; with_reducible repeat' first | intro _ | assumption | apply flagRaise_inv | apply setb_inv | apply rset_inv | apply logCause_inv | split | dsimp only | (unfold Inv; dsimp only; apply inv_fold)

theorem mtFinish_inv {f q} {x0 x1} (hx1 : Inv f q x1) : Inv f q (mtFinish x0 x1) := by
  unfold mtFinish; with_reducible repeat' first | assumption | apply mtSet_inv | apply setb_inv | apply setf_inv | apply count_inv

theorem scrubOp_inv {f q} {x0} (hx0 : Inv f q x0) : Inv f q (scrubOp x0) := by
  unfold scrubOp; with_reducible repeat' first | intro _ | assumption | apply forEach_inv | apply when__inv | apply checkRead_inv | apply copyWaits_inv | apply count_inv | rfl | apply inv_ite | apply inv_id | apply invR_ite | apply inv_next | apply inv_ite_fst | apply inv_ite_snd | apply inv_foldl | apply inv_foldl_fst | apply inv_foldl_snd | split | dsimp only | (unfold Inv; dsimp only; apply inv_fold)

/-! ### Vec.lean -/

theorem wakeBegin_inv {f q} {x0 x1} (hx1 : Inv f q x1) : Inv f q (wakeBegin x0 x1) := by
  unfold wakeBegin; with_reducible repeat' first | intro _ | assumption | apply setf_inv | apply schedule_inv | rfl | apply inv_ite | apply inv_id | apply invR_ite | apply inv_next | apply inv_ite_fst | apply inv_ite_snd | apply inv_foldl | apply inv_foldl_fst | apply inv_foldl_snd | split | dsimp only | (unfold Inv; dsimp only; apply inv_fold)

theorem limitLater_inv {f q} {x0 x1} (hx1 : Inv f q x1) : Inv f q (limitLater x0 x1) := by
  unfold limitLater; with_reducible repeat' first | intro _ | assumption | apply when__inv | apply schedule_inv | rfl | apply inv_ite | apply inv_id | apply invR_ite | apply inv_next | apply inv_ite_fst | apply inv_ite_snd | apply inv_foldl | apply inv_foldl_fst | apply inv_foldl_snd | split | dsimp only | (unfold Inv; dsimp only; apply inv_fold)

theorem irqRelease_inv {f q} {x0 x1} (hx1 : Inv f q x1) : Inv f q (irqRelease x0 x1) := by
  unfold irqRelease; with_reducible repeat' first | intro _ | assumption | apply freshWord_inv | apply modVec_inv | rfl | apply inv_ite | apply inv_id | apply invR_ite | apply inv_next | apply inv_ite_fst | apply inv_ite_snd | apply inv_foldl | apply inv_foldl_fst | apply inv_foldl_snd | split | dsimp only | (unfold Inv; dsimp only; apply inv_fold)

theorem irqJudge_inv {f q} {x0 x1} (hx1 : Inv f q x1) : Inv f q (irqJudge x0 x1) := by
  unfold irqJudge; with_reducible repeat' first | intro _ | assumption | apply when__inv | apply modVec_inv | apply irqRelease_inv | apply count_inv | rfl | apply inv_ite | apply inv_id | apply invR_ite | apply inv_next | apply inv_ite_fst | apply inv_ite_snd | apply inv_foldl | apply inv_foldl_fst | apply inv_foldl_snd | split | dsimp only | (unfold Inv; dsimp only; apply inv_fold)

theorem vecReadyNow_inv {f q} {x0 x1} (hx1 : Inv f q x1) : Inv f q (vecReadyNow x0 x1) := by
  unfold vecReadyNow; with_reducible repeat' first | intro _ | assumption | apply setf_inv | apply count_inv | apply setb_inv | apply irqJudge_inv | apply rset_inv | apply schedule_inv | apply modVec_inv | apply wakeBegin_inv | apply limitLater_inv | rfl | apply inv_ite | apply inv_id | apply invR_ite | apply inv_next | apply inv_ite_fst | apply inv_ite_snd | apply inv_foldl | apply inv_foldl_fst | apply inv_foldl_snd | split | dsimp only | (unfold Inv; dsimp only; apply inv_fold)

theorem vecJudge_inv {f q} {x0 x1} (hx1 : Inv f q x1) : Inv f q (vecJudge x0 x1) := by
  unfold vecJudge; with_reducible repeat' first | intro _ | assumption | apply irqJudge_inv | apply vecReadyNow_inv | apply limitLater_inv | rfl | apply inv_ite | apply inv_id | apply invR_ite | apply inv_next | apply inv_ite_fst | apply inv_ite_snd | apply inv_foldl | apply inv_foldl_fst | apply inv_foldl_snd | split | dsimp only | (unfold Inv; dsimp only; apply inv_fold)

theorem vecArrive_inv {f q} {x0 x1 x2} (hx2 : Inv f q x2) : Inv f q (vecArrive x0 x1 x2) := by
  unfold vecArrive; with_reducible repeat' first | intro _ | assumption | apply countN_inv | apply modVec_inv | apply schedule_inv | apply limitLater_inv | rfl | apply inv_ite | apply inv_id | apply invR_ite | apply inv_next | apply inv_ite_fst | apply inv_ite_snd | apply inv_foldl | apply inv_foldl_fst | apply inv_foldl_snd | split | dsimp only | (unfold Inv; dsimp only; apply inv_fold)

theorem raiseArrivalOp_inv {f q} {x0 x1} (hx1 : Inv f q x1) : Inv f q (raiseArrivalOp x0 x1) := by
  unfold raiseArrivalOp; with_reducible repeat' first | intro _ | assumption | apply vecArrive_inv | split | dsimp only | (unfold Inv; dsimp only; apply inv_fold)

theorem vecClear_inv {f q} {x0 x1} (hx1 : Inv f q x1) : Inv f q (vecClear x0 x1) := by
  unfold vecClear; with_reducible repeat' first | intro _ | assumption | apply irqJudge_inv | apply setb_inv | rfl | apply inv_ite | apply inv_id | apply invR_ite | apply inv_next | apply inv_ite_fst | apply inv_ite_snd | apply inv_foldl | apply inv_foldl_fst | apply inv_foldl_snd | split | dsimp only | (unfold Inv; dsimp only; apply inv_fold)

theorem writeVecSts_inv {f q} {x0 x1 x2} (hx2 : Inv f q x2) : Inv f q (writeVecSts x0 x1 x2) := by
  unfold writeVecSts; with_reducible repeat' first | intro _ | assumption | apply when__inv | apply vecClear_inv | apply clearBits_inv | apply clr_inv | rfl | apply inv_ite | apply inv_id | apply invR_ite | apply inv_next | apply inv_ite_fst | apply inv_ite_snd | apply inv_foldl | apply inv_foldl_fst | apply inv_foldl_snd | split | dsimp only | (unfold Inv; dsimp only; apply inv_fold)

theorem redeliver_inv {f q} {x0 x1} (hx1 : Inv f q x1) : Inv f q (redeliver x0 x1) := by
  unfold redeliver; with_reducible repeat' first | intro _ | assumption | apply when__inv | apply schedule_inv | rfl | apply inv_ite | apply inv_id | apply invR_ite | apply inv_next | apply inv_ite_fst | apply inv_ite_snd | apply inv_foldl | apply inv_foldl_fst | apply inv_foldl_snd | split | dsimp only | (unfold Inv; dsimp only; apply inv_fold)

theorem writeVecCtl_inv {f q} {x0 x1 x2} (hx2 : Inv f q x2) : Inv f q (writeVecCtl x0 x1 x2) := by
  unfold writeVecCtl; with_reducible repeat' first | intro _ | assumption | apply rset_inv | apply modVec_inv | apply redeliver_inv | apply schedule_inv | apply irqJudge_inv | rfl | apply inv_ite | apply inv_id | apply invR_ite | apply inv_next | apply inv_ite_fst | apply inv_ite_snd | apply inv_foldl | apply inv_foldl_fst | apply inv_foldl_snd | split | dsimp only | (unfold Inv; dsimp only; apply inv_fold)

theorem writeMask_inv {f q} {x0 x1 x2} (hx2 : Inv f q x2) : Inv f q (writeMask x0 x1 x2) := by
  unfold writeMask; with_reducible repeat' first | intro _ | assumption | apply forEach_inv | apply redeliver_inv | apply irqJudge_inv | apply setb_inv | rfl | apply inv_ite | apply inv_id | apply invR_ite | apply inv_next | apply inv_ite_fst | apply inv_ite_snd | apply inv_foldl | apply inv_foldl_fst | apply inv_foldl_snd | split | dsimp only | (unfold Inv; dsimp only; apply inv_fold)

theorem redeliverFrom_inv {f q} {x0 x1} (hx0 : Inv f q x0) (hx1 : Inv f q x1) : Inv f q (redeliverFrom x0 x1) := by
  unfold redeliverFrom; with_reducible repeat' first | intro _ | assumption | apply forEach_inv | apply when__inv | apply redeliver_inv | rfl | apply inv_ite | apply inv_id | apply invR_ite | apply inv_next | apply inv_ite_fst | apply inv_ite_snd | apply inv_foldl | apply inv_foldl_fst | apply inv_foldl_snd | split | dsimp only | (unfold Inv; dsimp only; apply inv_fold)

theorem msixSend_inv {f q} {x0 x1} (hx1 : Inv f q x1) : Inv f q (msixSend x0 x1) := by
  unfold msixSend; with_reducible repeat' first | intro _ | assumption | apply postWrite_inv | apply count_inv | apply setb_inv | apply modVec_inv | rfl | apply inv_ite | apply inv_id | apply invR_ite | apply inv_next | apply inv_ite_fst | apply inv_ite_snd | apply inv_foldl | apply inv_foldl_fst | apply inv_foldl_snd | split | dsimp only | (unfold Inv; dsimp only; apply inv_fold)

theorem irqAssertOp_inv {f q} {x0 x1} (hx1 : Inv f q x1) : Inv f q (irqAssertOp x0 x1) := by
  unfold irqAssertOp; with_reducible repeat' first | assumption | apply modVec_inv | apply count_inv

theorem deliverOp_inv {f q} {x0 x1} (hx1 : Inv f q x1) : Inv f q (deliverOp x0 x1) := by
  unfold deliverOp; with_reducible repeat' first | intro _ | assumption | apply when__inv | apply irqAssertOp_inv | apply msixSend_inv | rfl | apply inv_ite | apply inv_id | apply invR_ite | apply inv_next | apply inv_ite_fst | apply inv_ite_snd | apply inv_foldl | apply inv_foldl_fst | apply inv_foldl_snd | split | dsimp only | (unfold Inv; dsimp only; apply inv_fold)

theorem msixRedo_inv {f q} {x0} (hx0 : Inv f q x0) : Inv f q (msixRedo x0) := by
  unfold msixRedo; with_reducible repeat' first | intro _ | assumption | apply forEach_inv | apply modVec_inv | apply redeliver_inv | apply irqJudge_inv | apply setb_inv | apply countN_inv | rfl | apply inv_ite | apply inv_id | apply invR_ite | apply inv_next | apply inv_ite_fst | apply inv_ite_snd | apply inv_foldl | apply inv_foldl_fst | apply inv_foldl_snd | split | dsimp only | (unfold Inv; dsimp only; apply inv_fold)

theorem evmCntClrOp_inv {f q} {x0} (hx0 : Inv f q x0) : Inv f q (evmCntClrOp x0) := by
  unfold evmCntClrOp; with_reducible repeat' first | assumption | apply clrAll_inv

/-! ### Mode.lean -/

theorem setMode_inv {f q} {x0 x1} (hx1 : Inv f q x1) : Inv f q (setMode x0 x1) := by
  unfold setMode; with_reducible repeat' first | assumption | apply inv_ite | apply modeReport_inv | apply abandonFrames_inv | apply unreleaseAll_inv

theorem enterMode_inv {f q} {x0 x1} (hx1 : Inv f q x1) : Inv f q (enterMode x0 x1) := by
  unfold enterMode; with_reducible repeat' first | assumption | apply modeAuto_inv | apply setMode_inv

theorem preArm_inv {f q} {x0 x1 x2} (hx2 : Inv f q x2) : Inv f q (preArm x0 x1 x2) := by
  unfold preArm; with_reducible repeat' first | intro _ | assumption | apply refuseCard_inv | apply modSlot_inv | apply takeFree_inv | apply armAngleRel_inv | apply armCard_inv | rfl | apply inv_ite | apply inv_id | apply invR_ite | apply inv_next | apply inv_ite_fst | apply inv_ite_snd | apply inv_foldl | apply inv_foldl_fst | apply inv_foldl_snd | split | dsimp only | (unfold Inv; dsimp only; apply inv_fold)

theorem applyPreload_inv {f q} {x0 x1} (hx1 : Inv f q x1) : Inv f q (applyPreload x0 x1) := by
  unfold applyPreload; with_reducible repeat' first | intro _ | assumption | apply forEach_inv | apply preArm_inv | split | dsimp only | (unfold Inv; dsimp only; apply inv_fold)

theorem setStage_inv {f q} {x0 x1} (hx1 : Inv f q x1) : Inv f q (setStage x0 x1) := by
  unfold setStage; with_reducible repeat' first | assumption | apply setf_inv

theorem discardStaged_inv {f q} {x0} (hx0 : Inv f q x0) : Inv f q (discardStaged x0) := by
  unfold discardStaged; with_reducible repeat' first | intro _ | assumption | apply forEach_inv | apply freeSlot_inv | apply setb_inv | apply setf_inv | apply setStage_inv | apply modHed_inv | split | dsimp only | (unfold Inv; dsimp only; apply inv_fold)

theorem chgAbort_inv {f q} {x0 x1} (hx1 : Inv f q x1) : Inv f q (chgAbort x0 x1) := by
  unfold chgAbort; with_reducible repeat' first | assumption | apply inv_ite | apply setf_inv | apply setb_inv | apply count_inv | apply logCause_inv | apply discardStaged_inv | apply setStage_inv

theorem chgAbortBack_inv {f q} {x0 x1} (hx1 : Inv f q x1) : Inv f q (chgAbortBack x0 x1) := by
  unfold chgAbortBack; with_reducible repeat' first | assumption | apply enterMode_inv | apply chgAbort_inv

theorem holdRegs_inv {f q} {x0} (hx0 : Inv f q x0) : Inv f q (holdRegs x0) := by
  unfold holdRegs; with_reducible repeat' first | assumption | apply setb_inv | apply rset_inv

theorem engHolds_inv {f q} {x0} (hx0 : Inv f q x0) : Inv f q (engHolds x0) := by
  unfold engHolds; with_reducible repeat' first | intro _ | assumption | apply inv_ite | apply forEach_inv | apply modEng_inv | apply when__inv | apply setEsts_inv | apply setf_inv

theorem addHold_inv {f q} {x0 x1 x2 x3} (hx3 : Inv f q x3) : Inv f q (addHold x0 x1 x2 x3) := by
  unfold addHold; with_reducible repeat' first | intro _ | assumption | apply holdRegs_inv | apply forEach_inv | apply unreleaseHarness_inv | apply holdDisarm_inv | apply chgAbort_inv | apply when__inv | apply setMode_inv | apply engHolds_inv | apply abandonFrames_inv | split | dsimp only | (unfold Inv; dsimp only; apply inv_fold)

theorem clearHoldOp_inv {f q} {x0 x1 x2} (hx2 : Inv f q x2) : Inv f q (clearHoldOp x0 x1 x2) := by
  unfold clearHoldOp; with_reducible repeat' first | intro _ | assumption | apply forEach_inv | apply engHolds_inv | apply holdRegs_inv | apply noteSafe_inv | apply enterMode_inv | apply applyPreload_inv | rfl | apply inv_ite | apply inv_id | apply invR_ite | apply inv_next | apply inv_ite_fst | apply inv_ite_snd | apply inv_foldl | apply inv_foldl_fst | apply inv_foldl_snd | split | dsimp only | (unfold Inv; dsimp only; apply inv_fold)

theorem enterMaint_inv {f q} {x0} (hx0 : Inv f q x0) : Inv f q (enterMaint x0) := by
  unfold enterMaint; with_reducible repeat' first | assumption | apply holdDisarm_inv | apply when__inv | apply discardStaged_inv | apply setMode_inv | apply setb_inv

theorem enterChangeover_inv {f q} {x0 x1 x2 x3 x4} (hx4 : Inv f q x4) : Inv f q (enterChangeover x0 x1 x2 x3 x4) := by
  unfold enterChangeover; with_reducible repeat' first | intro _ | assumption | apply rset_inv | apply setMode_inv | apply setStage_inv | split | dsimp only | (unfold Inv; dsimp only; apply inv_fold)

theorem leaveMaint_inv {f q} {x0} (hx0 : Inv f q x0) : Inv f q (leaveMaint x0) := by
  unfold leaveMaint; with_reducible repeat' first | assumption | apply inv_ite | apply setMode_inv | apply setb_inv | apply forEach_inv | apply freeSlot_inv | apply applyPreload_inv | apply holdDisarm_inv

theorem resCount_inv {f q} {x0 x1 x2 x3} (hx3 : Inv f q x3) : Inv f q (resCount x0 x1 x2 x3) := by
  unfold resCount; with_reducible repeat' first | intro _ | assumption | apply when__inv | apply noteCount_inv | apply rset_inv | rfl | apply inv_ite | apply inv_id | apply invR_ite | apply inv_next | apply inv_ite_fst | apply inv_ite_snd | apply inv_foldl | apply inv_foldl_fst | apply inv_foldl_snd | split | dsimp only | (unfold Inv; dsimp only; apply inv_fold)

theorem resSync_inv {f q} {x0} (hx0 : Inv f q x0) : Inv f q (resSync x0) := by
  unfold resSync; with_reducible repeat' first | intro _ | assumption | apply resCount_inv | rfl | apply inv_ite | apply inv_id | apply invR_ite | apply inv_next | apply inv_ite_fst | apply inv_ite_snd | apply inv_foldl | apply inv_foldl_fst | apply inv_foldl_snd | split | dsimp only | (unfold Inv; dsimp only; apply inv_fold)

theorem setPower_inv {f q} {x0 x1} (hx1 : Inv f q x1) : Inv f q (setPower x0 x1) := by
  unfold setPower; with_reducible repeat' first | intro _ | assumption | apply when__inv | apply resSync_inv | apply raise_inv | apply noteSafe_inv | apply setf_inv | rfl | apply inv_ite | apply inv_id | apply invR_ite | apply inv_next | apply inv_ite_fst | apply inv_ite_snd | apply inv_foldl | apply inv_foldl_fst | apply inv_foldl_snd | split | dsimp only | (unfold Inv; dsimp only; apply inv_fold)

theorem enterSlumber_inv {f q} {x0} (hx0 : Inv f q x0) : Inv f q (enterSlumber x0) := by
  unfold enterSlumber; with_reducible repeat' first | intro _ | assumption | apply forEach_inv | apply when__inv | apply modTrd_inv | apply holdAt_inv | apply setb_inv | apply cmpModesSet_inv | apply abandonFrames_inv | apply unreleaseAll_inv | apply hedSleep_inv | apply setPower_inv | rfl | apply inv_ite | apply inv_id | apply invR_ite | apply inv_next | apply inv_ite_fst | apply inv_ite_snd | apply inv_foldl | apply inv_foldl_fst | apply inv_foldl_snd | split | dsimp only | (unfold Inv; dsimp only; apply inv_fold)

theorem wakeDone_inv {f q} {x0} (hx0 : Inv f q x0) : Inv f q (wakeDone x0) := by
  unfold wakeDone; with_reducible repeat' first | intro _ | assumption | apply forEach_inv | apply hedWake_inv | apply redeliver_inv | apply setPower_inv | apply setb_inv | apply logDrain_inv | apply cmpModesSet_inv | rfl | apply inv_ite | apply inv_id | apply invR_ite | apply inv_next | apply inv_ite_fst | apply inv_ite_snd | apply inv_foldl | apply inv_foldl_fst | apply inv_foldl_snd | split | dsimp only | (unfold Inv; dsimp only; apply inv_fold)

theorem powerSnap_inv {f q} {x0} (hx0 : Inv f q x0) : Inv f q (powerSnap x0) := by
  unfold powerSnap; with_reducible repeat' first | intro _ | assumption | split | dsimp only | (unfold Inv; dsimp only; apply inv_fold)

theorem clkChange_inv {f q} {x0 x1 x2} (hx2 : Inv f q x2) : Inv f q (clkChange x0 x1 x2) := by
  unfold clkChange; with_reducible repeat' first | assumption | apply inv_ite | apply rset_inv | apply raise_inv | apply setb_inv | apply logCause_inv

theorem refLost_inv {f q} {x0 x1} (hx1 : Inv f q x1) : Inv f q (refLost x0 x1) := by
  unfold refLost; with_reducible repeat' first | assumption | apply inv_ite | apply setb_inv | apply clkChange_inv | apply detect_inv

theorem supplyChange_inv {f q} {x0 x1 x2} (hx2 : Inv f q x2) : Inv f q (supplyChange x0 x1 x2) := by
  unfold supplyChange; with_reducible repeat' first | intro _ | assumption | apply when__inv | apply setb_inv | apply raise_inv | apply logCause_inv | apply detect_inv | rfl | apply inv_ite | apply inv_id | apply invR_ite | apply inv_next | apply inv_ite_fst | apply inv_ite_snd | apply inv_foldl | apply inv_foldl_fst | apply inv_foldl_snd | split | dsimp only | (unfold Inv; dsimp only; apply inv_fold)

theorem deviceReset_inv {f q} {x0 x1} (hx1 : Inv f q x1) : Inv f q (deviceReset x0 x1) := by
  unfold deviceReset
  exact rset_inv (setb_inv (inv_of hx1 rfl rfl rfl rfl))

/-! ### Shed.lean -/

theorem modShed_inv {f q} {x0 x1} (hx1 : Inv f q x1) : Inv f q (modShed x0 x1) :=
  inv_of hx1 rfl rfl rfl rfl

theorem set64_inv {f q} {x0 x1 x2 x3} (hx3 : Inv f q x3) : Inv f q (set64 x0 x1 x2 x3) := by
  unfold set64; with_reducible repeat' first | assumption | apply rset_inv

theorem putTask_inv {f q} {x0 x1 x2} (hx2 : Inv f q x2) : Inv f q (putTask x0 x1 x2) := by
  unfold putTask; with_reducible repeat' first | intro _ | assumption | rfl | apply inv_ite | apply inv_id | apply invR_ite | apply inv_next | apply inv_ite_fst | apply inv_ite_snd | apply inv_foldl | apply inv_foldl_fst | apply inv_foldl_snd | split | dsimp only | (unfold Inv; dsimp only; apply inv_fold)

theorem skipTask_inv {f q} {x0 x1} (hx1 : Inv f q x1) : Inv f q (skipTask x0 x1) := by
  unfold skipTask; with_reducible repeat' first | assumption | apply raise_inv | apply count_inv

theorem switchHalf_inv {f q} {x0 x1} (hx1 : Inv f q x1) : Inv f q (switchHalf x0 x1) := by
  unfold switchHalf; with_reducible repeat' first | intro _ | assumption | apply forEach_inv | apply skipTask_inv | apply modShed_inv | apply modEng_inv | apply setf_inv

theorem scanOp_inv {f q} {x0} (hx0 : Inv f q x0) : Inv f q (scanOp x0) := by
  unfold scanOp; with_reducible repeat' first | intro _ | assumption | apply raise_inv | apply switchHalf_inv | apply rset_inv | apply forEach_inv | apply modEng_inv | apply skipTask_inv | apply modShed_inv | split

theorem joinLate_inv {f q} {x0} (hx0 : Inv f q x0) : Inv f q (joinLate x0) := by
  unfold joinLate; with_reducible repeat' first | intro _ | assumption | apply forEach_inv | apply ok_inv | apply modEng_inv | apply modShed_inv | rfl | apply inv_ite | apply inv_id | apply invR_ite | apply inv_next | apply inv_ite_fst | apply inv_ite_snd | apply inv_foldl | apply inv_foldl_fst | apply inv_foldl_snd | split | dsimp only | (unfold Inv; dsimp only; apply inv_fold)

theorem abandonTask_inv {f q} {x0 x1} (hx1 : Inv f q x1) : Inv f q (abandonTask x0 x1) := by
  unfold abandonTask; with_reducible repeat' first | assumption | apply normalEndAt_inv

theorem escalate_inv {f q} {x0 x1} (hx1 : Inv f q x1) : Inv f q (escalate x0 x1) := by
  unfold escalate; with_reducible repeat' first | assumption | apply modEng_inv | apply abandonTask_inv | apply setEsts_inv | apply raise_inv | apply addHold_inv

theorem overrunCheck_inv {f q} {x0 x1} (hx1 : Inv f q x1) : Inv f q (overrunCheck x0 x1) := by
  unfold overrunCheck; with_reducible repeat' first | assumption | apply inv_ite | apply setf_inv | apply count_inv | apply setb_inv | apply when__inv | apply raise_inv | apply escalate_inv

theorem tasksDispatched_inv {f q} {x0 x1} (hx1 : Inv f q x1) : Inv f q (tasksDispatched x0 x1) := by
  unfold tasksDispatched; with_reducible repeat' first | intro _ | assumption | apply modShed_inv | rfl | apply inv_ite | apply inv_id | apply invR_ite | apply inv_next | apply inv_ite_fst | apply inv_ite_snd | apply inv_foldl | apply inv_foldl_fst | apply inv_foldl_snd | split | dsimp only | (unfold Inv; dsimp only; apply inv_fold)

theorem takeDue_inv {f q} {x0 x1} (hx1 : Inv f q x1) : Inv f q (takeDue x0 x1) := by
  unfold takeDue; with_reducible repeat' first | intro _ | assumption | apply forEach_inv | apply payRun_inv | apply setf_inv | apply modEng_inv | apply skipTask_inv | apply tasksDispatched_inv | rfl | apply inv_ite | apply inv_id | apply invR_ite | apply inv_next | apply inv_ite_fst | apply inv_ite_snd | apply inv_foldl | apply inv_foldl_fst | apply inv_foldl_snd | split | dsimp only | (unfold Inv; dsimp only; apply inv_fold)

theorem latchSig_inv {f q} {x0 x1} (hx1 : Inv f q x1) : Inv f q (latchSig x0 x1) := by
  unfold latchSig; with_reducible repeat' first | intro _ | assumption | apply rset_inv | apply modShu_inv | split | dsimp only | (unfold Inv; dsimp only; apply inv_fold)

theorem rotate_inv {f q} {x0 x1 x2} (hx2 : Inv f q x2) : Inv f q (rotate x0 x1 x2) := by
  unfold rotate; with_reducible repeat' first | intro _ | assumption | apply countN_inv | split | dsimp only | (unfold Inv; dsimp only; apply inv_fold)

theorem pickStartOp_inv {f q} {x0} (hx0 : Inv f q x0) : Inv f q (pickStartOp x0) := by
  unfold pickStartOp; with_reducible repeat' first | intro _ | assumption | apply forEach_inv | apply when__inv | apply set64_inv | apply raise_inv | apply modShed_inv | apply latchSig_inv | apply joinLate_inv | apply overrunCheck_inv | apply takeDue_inv | apply rotate_inv | rfl | apply inv_ite | apply inv_id | apply invR_ite | apply inv_next | apply inv_ite_fst | apply inv_ite_snd | apply inv_foldl | apply inv_foldl_fst | apply inv_foldl_snd | split | dsimp only | (unfold Inv; dsimp only; apply inv_fold)

theorem startTask_inv {f q} {x0 x1} (hx1 : Inv f q x1) : Inv f q (startTask x0 x1) := by
  unfold startTask; with_reducible repeat' first | assumption | apply modEng_inv | apply modShed_inv | apply setb_inv | apply setEsts_inv | apply modShu_inv | split

theorem expPendSts_inv {f q} {x0 x1} (hx1 : Inv f q x1) : Inv f q (expPendSts x0 x1) := by
  unfold expPendSts; with_reducible repeat' first | assumption | apply setb_inv

theorem startExpress_inv {f q} {x0 x1 x2 x3} (hx3 : Inv f q x3) : Inv f q (startExpress x0 x1 x2 x3) := by
  unfold startExpress; with_reducible repeat' first | assumption | apply modShed_inv | apply expPendSts_inv | apply modShu_inv | apply modCtx_inv | apply setf_inv | apply setb_inv | apply setEsts_inv | split

theorem expressStartOp_inv {f q} {x0 x1} (hx1 : Inv f q x1) : Inv f q (expressStartOp x0 x1) := by
  unfold expressStartOp; with_reducible repeat' first | intro _ | assumption | apply startExpress_inv | rfl | apply inv_ite | apply inv_id | apply invR_ite | apply inv_next | apply inv_ite_fst | apply inv_ite_snd | apply inv_foldl | apply inv_foldl_fst | apply inv_foldl_snd | split | dsimp only | (unfold Inv; dsimp only; apply inv_fold)

theorem expressDueOp_inv {f q} {x0 x1} (hx1 : Inv f q x1) : Inv f q (expressDueOp x0 x1) := by
  unfold expressDueOp; with_reducible repeat' first | intro _ | assumption | apply schedule_inv | apply expressStartOp_inv | rfl | apply inv_ite | apply inv_id | apply invR_ite | apply inv_next | apply inv_ite_fst | apply inv_ite_snd | apply inv_foldl | apply inv_foldl_fst | apply inv_foldl_snd | split | dsimp only | (unfold Inv; dsimp only; apply inv_fold)

theorem resumeNormal_inv {f q} {x0 x1} (hx1 : Inv f q x1) : Inv f q (resumeNormal x0 x1) := by
  unfold resumeNormal; with_reducible repeat' first | assumption | apply setb_inv | apply modShu_inv | apply setEsts_inv

theorem lockstepRestart_inv {f q} {x0} (hx0 : Inv f q x0) : Inv f q (lockstepRestart x0) := by
  unfold lockstepRestart; with_reducible repeat' first | intro _ | assumption | apply forEach_inv | apply skipTask_inv | apply modEng_inv | apply setf_inv | apply modShed_inv

/-! ### Flt.lean -/

theorem modFlt_inv {f q} {x0 x1} (hx1 : Inv f q x1) : Inv f q (modFlt x0 x1) :=
  inv_of hx1 rfl rfl rfl rfl

theorem policyOne_inv {f q} {x0 x1} (hx1 : Inv f q x1) : Inv f q (policyOne x0 x1) := by
  unfold policyOne; with_reducible repeat' first | intro _ | assumption | apply setf_inv | apply freshWord_inv | apply logCause_inv | apply addHold_inv | apply modFlt_inv | split | dsimp only | (unfold Inv; dsimp only; apply inv_fold)

theorem policyDrain_inv {f q} {x0 x1} (hx1 : Inv f q x1) : Inv f q (policyDrain x0 x1) := by
  induction x0 generalizing x1 with
  | zero => exact hx1
  | succ n ih =>
    unfold policyDrain
    split
    · exact hx1
    · exact ih (policyOne_inv (modFlt_inv hx1))

theorem lossAbort_inv {f q} {x0} (hx0 : Inv f q x0) : Inv f q (lossAbort x0) := by
  unfold lossAbort; with_reducible repeat' first | assumption | apply inv_ite | apply chgAbortBack_inv

theorem settle_inv {f q} {x0} (hx0 : Inv f q x0) : Inv f q (settle x0) := by
  unfold settle; with_reducible repeat' first | assumption | apply lossAbort_inv | apply policyDrain_inv

theorem unresolved_inv {f q} {x0 x1} (hx1 : Inv f q x1) : Inv f q (unresolved x0 x1) := by
  unfold unresolved; with_reducible repeat' first | assumption | apply detect_inv | apply setb_inv

theorem replayEndOp_inv {f q} {x0 x1 x2 x3 x4} (hx4 : Inv f q x4) : Inv f q (replayEndOp x0 x1 x2 x3 x4) := by
  unfold replayEndOp; with_reducible repeat' first | intro _ | assumption | apply modFlt_inv | apply count_inv | apply unresolved_inv | split | dsimp only | (unfold Inv; dsimp only; apply inv_fold)

theorem loseTask_inv {f q} {x0 x1 x2} (hx2 : Inv f q x2) : Inv f q (loseTask x0 x1 x2) := by
  unfold loseTask; with_reducible repeat' first | assumption | apply inv_ite | apply skipTask_inv

theorem substitute_inv {f q} {x0 x1 x2} (hx2 : Inv f q x2) : Inv f q (substitute x0 x1 x2) := by
  unfold substitute; with_reducible repeat' first | intro _ | assumption | apply forEach_inv | apply loseTask_inv | apply modEng_inv | apply abandonTask_inv | apply expressEndAt_inv | apply skipTask_inv | apply modShed_inv | apply setEsts_inv | apply expPendSts_inv | apply setf_inv | apply setb_inv | apply count_inv | apply detect_inv | apply modFlt_inv

theorem checkerFails_inv {f q} {x0 x1} (hx1 : Inv f q x1) : Inv f q (checkerFails x0 x1) := by
  unfold checkerFails; with_reducible repeat' first | assumption | apply detect_inv | apply setb_inv

theorem arbitrate_inv {f q} {x0 x1 x2 x3} (hx3 : Inv f q x3) : Inv f q (arbitrate x0 x1 x2 x3) := by
  unfold arbitrate; with_reducible repeat' first | assumption | apply inv_ite | apply modFlt_inv | apply substitute_inv | apply checkerFails_inv | apply unresolved_inv

theorem copyCode_inv {f q} {x0 x1 x2 x3} (hx3 : Inv f q x3) : Inv f q (copyCode x0 x1 x2 x3) :=
  inv_of hx3 rfl rfl rfl rfl

theorem substituteLoadedOp_inv {f q} {x0 x1} (hx1 : Inv f q x1) : Inv f q (substituteLoadedOp x0 x1) := by
  unfold substituteLoadedOp; with_reducible repeat' first | assumption | apply modFlt_inv | apply copyCode_inv | apply setb_inv | split

theorem lockstepOp_inv {f q} {x0 x1} (hx1 : Inv f q x1) : Inv f q (lockstepOp x0 x1) := by
  unfold lockstepOp; with_reducible repeat' first | assumption | apply inv_ite | apply setb_inv | apply count_inv | apply lockstepRestart_inv | apply modShed_inv | apply detect_inv

theorem readbackNote_inv {f q} {x0 x1} (hx1 : Inv f q x1) : Inv f q (readbackNote x0 x1) := by
  unfold readbackNote; with_reducible repeat' first | assumption | apply inv_ite | apply modFlt_inv

theorem readbackDeclare_inv {f q} {x0} (hx0 : Inv f q x0) : Inv f q (readbackDeclare x0) := by
  unfold readbackDeclare; with_reducible repeat' first | intro _ | assumption | apply modFlt_inv | apply forEach_inv | apply setb_inv | apply count_inv | apply detect_inv

theorem flipSensed_inv {f q} {x0 x1} (hx1 : Inv f q x1) : Inv f q (flipSensed x0 x1) := by
  unfold flipSensed; with_reducible repeat' first | assumption | apply pinTransitionOp_inv

theorem flipBits_inv {f q} {x0 x1 x2} (hx2 : Inv f q x2) : Inv f q (flipBits x0 x1 x2) := by
  unfold flipBits; with_reducible repeat' first | assumption | apply setMark_inv

theorem injectOp_inv {f q} {x0 x1 x2} (hx2 : Inv f q x2) : Inv f q (injectOp x0 x1 x2) := by
  unfold injectOp; with_reducible repeat' first | intro _ | assumption | apply setb_inv | apply modFlt_inv | apply forEach_inv | apply flipSensed_inv | apply flipBits_inv | apply lockstepOp_inv | apply refLost_inv | split | dsimp only | (unfold Inv; dsimp only; apply inv_fold)

theorem fltCntClrOp_inv {f q} {x0} (hx0 : Inv f q x0) : Inv f q (fltCntClrOp x0) := by
  unfold fltCntClrOp; with_reducible repeat' first | assumption | apply clrAll_inv

/-! ### Sel.lean -/

theorem modSel_inv {f q} {x0 x1} (hx1 : Inv f q x1) : Inv f q (modSel x0 x1) :=
  inv_of hx1 rfl rfl rfl rfl

theorem setPort_inv {f q} {x0 x1 x2} (hx2 : Inv f q x2) : Inv f q (setPort x0 x1 x2) := by
  unfold setPort; with_reducible repeat' first | assumption | apply setf_inv

theorem enterPort_inv {f q} {x0 x1 x2} (hx2 : Inv f q x2) : Inv f q (enterPort x0 x1 x2) := by
  unfold enterPort; with_reducible repeat' first | intro _ | assumption | apply modSel_inv | apply setPort_inv | rfl | apply inv_ite | apply inv_id | apply invR_ite | apply inv_next | apply inv_ite_fst | apply inv_ite_snd | apply inv_foldl | apply inv_foldl_fst | apply inv_foldl_snd | split | dsimp only | (unfold Inv; dsimp only; apply inv_fold)

theorem setRing_inv {f q} {x0 x1} (hx1 : Inv f q x1) : Inv f q (setRing x0 x1) := by
  unfold setRing; with_reducible repeat' first | assumption | apply inv_ite | apply setf_inv | apply raise_inv

theorem setAligned_inv {f q} {x0 x1} (hx1 : Inv f q x1) : Inv f q (setAligned x0 x1) := by
  unfold setAligned; with_reducible repeat' first | assumption | apply inv_ite | apply raise_inv | apply setb_inv

theorem ringBreak_inv {f q} {x0} (hx0 : Inv f q x0) : Inv f q (ringBreak x0) := by
  unfold ringBreak; with_reducible repeat' first | assumption | apply inv_ite | apply modSel_inv | apply setRing_inv

theorem portDownOp_inv {f q} {x0 x1} (hx1 : Inv f q x1) : Inv f q (portDownOp x0 x1) := by
  unfold portDownOp; with_reducible repeat' first | intro _ | assumption | apply when__inv | apply count_inv | apply enterPort_inv | apply raise_inv | apply modSel_inv | apply ringBreak_inv | rfl | apply inv_ite | apply inv_id | apply invR_ite | apply inv_next | apply inv_ite_fst | apply inv_ite_snd | apply inv_foldl | apply inv_foldl_fst | apply inv_foldl_snd | split | dsimp only | (unfold Inv; dsimp only; apply inv_fold)

theorem selEnable_inv {f q} {x0} (hx0 : Inv f q x0) : Inv f q (selEnable x0) := by
  unfold selEnable; with_reducible repeat' first | intro _ | assumption | apply modSel_inv | apply schedule_inv | apply setRing_inv | apply setPort_inv | rfl | apply inv_ite | apply inv_id | apply invR_ite | apply inv_next | apply inv_ite_fst | apply inv_ite_snd | apply inv_foldl | apply inv_foldl_fst | apply inv_foldl_snd | split | dsimp only | (unfold Inv; dsimp only; apply inv_fold)

theorem selDisable_inv {f q} {x0} (hx0 : Inv f q x0) : Inv f q (selDisable x0) := by
  unfold selDisable; with_reducible repeat' first | assumption | apply setAligned_inv | apply setRing_inv | apply setPort_inv | apply modSel_inv

theorem portMeasureDue_inv {f q} {x0 x1} (hx1 : Inv f q x1) : Inv f q (portMeasureDue x0 x1) := by
  unfold portMeasureDue; with_reducible repeat' first | intro _ | assumption | apply when__inv | apply enterPort_inv | rfl | apply inv_ite | apply inv_id | apply invR_ite | apply inv_next | apply inv_ite_fst | apply inv_ite_snd | apply inv_foldl | apply inv_foldl_fst | apply inv_foldl_snd | split | dsimp only | (unfold Inv; dsimp only; apply inv_fold)

theorem portLockOp_inv {f q} {x0 x1} (hx1 : Inv f q x1) : Inv f q (portLockOp x0 x1) := by
  unfold portLockOp; with_reducible repeat' first | intro _ | assumption | apply schedule_inv | apply enterPort_inv | rfl | apply inv_ite | apply inv_id | apply invR_ite | apply inv_next | apply inv_ite_fst | apply inv_ite_snd | apply inv_foldl | apply inv_foldl_fst | apply inv_foldl_snd | split | dsimp only | (unfold Inv; dsimp only; apply inv_fold)

theorem echoReplyOp_inv {f q} {x0 x1 x2} (hx2 : Inv f q x2) : Inv f q (echoReplyOp x0 x1 x2) := by
  unfold echoReplyOp; with_reducible repeat' first | assumption | apply rset_inv | apply modSel_inv | apply when__inv | apply setb_inv | split

theorem faultCount_inv {f q} {x0 x1 x2} (hx2 : Inv f q x2) : Inv f q (faultCount x0 x1 x2) := by
  unfold faultCount; with_reducible repeat' first | assumption | apply when__inv | apply setb_inv | apply count_inv | apply logLimited_inv | apply flagRaise_inv

theorem noteViolation_inv {f q} {x0 x1} (hx1 : Inv f q x1) : Inv f q (noteViolation x0 x1) := by
  unfold noteViolation; with_reducible repeat' first | intro _ | assumption | apply when__inv | apply modSel_inv | apply portDownOp_inv | rfl | apply inv_ite | apply inv_id | apply invR_ite | apply inv_next | apply inv_ite_fst | apply inv_ite_snd | apply inv_foldl | apply inv_foldl_fst | apply inv_foldl_snd | split | dsimp only | (unfold Inv; dsimp only; apply inv_fold)

theorem trainFaulty_inv {f q} {x0 x1} (hx1 : Inv f q x1) : Inv f q (trainFaulty x0 x1) := by
  unfold trainFaulty; with_reducible repeat' first | intro _ | assumption | apply noteViolation_inv | apply faultCount_inv | rfl | apply inv_ite | apply inv_id | apply invR_ite | apply inv_next | apply inv_ite_fst | apply inv_ite_snd | apply inv_foldl | apply inv_foldl_fst | apply inv_foldl_snd | split | dsimp only | (unfold Inv; dsimp only; apply inv_fold)

theorem alignTrain_inv {f q} {x0 x1} (hx1 : Inv f q x1) : Inv f q (alignTrain x0 x1) := by
  unfold alignTrain; with_reducible repeat' first | assumption | apply inv_ite | apply modSel_inv | apply rset_inv | apply setAligned_inv

theorem stepTime_inv {f q} {x0 x1} (hx1 : Inv f q x1) : Inv f q (stepTime x0 x1) := by
  unfold stepTime; with_reducible repeat' first | assumption | apply modSel_inv | apply raise_inv | apply count_inv | apply modShed_inv

theorem alignPick_inv {f q} {x0} (hx0 : Inv f q x0) : Inv f q (alignPick x0) := by
  unfold alignPick; with_reducible repeat' first | intro _ | assumption | apply when__inv | apply modSel_inv | apply stepTime_inv | apply raise_inv | apply count_inv | rfl | apply inv_ite | apply inv_id | apply invR_ite | apply inv_next | apply inv_ite_fst | apply inv_ite_snd | apply inv_foldl | apply inv_foldl_fst | apply inv_foldl_snd | split | dsimp only | (unfold Inv; dsimp only; apply inv_fold)

theorem beaconTooth_inv {f q} {x0 x1 x2 x3 x4 x5} (hx5 : Inv f q x5) : Inv f q (beaconTooth x0 x1 x2 x3 x4 x5) := by
  unfold beaconTooth; with_reducible repeat' first | intro _ | assumption | apply anchorAt_inv | apply modTrd_inv | apply setb_inv | apply setNum_inv | apply primaryRecord_inv | apply slumberCycle_inv | apply publishTooth_inv | rfl | apply inv_ite | apply inv_id | apply invR_ite | apply inv_next | apply inv_ite_fst | apply inv_ite_snd | apply inv_foldl | apply inv_foldl_fst | apply inv_foldl_snd | split | dsimp only | (unfold Inv; dsimp only; apply inv_fold)

theorem beaconGain_inv {f q} {x0 x1 x2} (hx2 : Inv f q x2) : Inv f q (beaconGain x0 x1 x2) := by
  unfold beaconGain; with_reducible repeat' first | intro _ | assumption | apply modTrd_inv | apply trdRaise_inv | apply setf_inv | apply setTrdState_inv | apply setb_inv | rfl | apply inv_ite | apply inv_id | apply invR_ite | apply inv_next | apply inv_ite_fst | apply inv_ite_snd | apply inv_foldl | apply inv_foldl_fst | apply inv_foldl_snd | split | dsimp only | (unfold Inv; dsimp only; apply inv_fold)

theorem beaconKnown_inv {f q} {x0 x1 x2 x3} (hx3 : Inv f q x3) : Inv f q (beaconKnown x0 x1 x2 x3) := by
  unfold beaconKnown; with_reducible repeat' first | intro _ | assumption | apply when__inv | apply beginReverse_inv | apply primaryRecord_inv | apply followDown_inv | apply beaconTooth_inv | apply forwardAgain_inv | apply stallHere_inv | apply dropPmax_inv | apply trdRaise_inv | apply limpEntry_inv | apply setTrdState_inv | rfl | apply inv_ite | apply inv_id | apply invR_ite | apply inv_next | apply inv_ite_fst | apply inv_ite_snd | apply inv_foldl | apply inv_foldl_fst | apply inv_foldl_snd | split | dsimp only | (unfold Inv; dsimp only; apply inv_fold)

theorem beaconOp_inv {f q} {x0 x1 x2 x3} (hx3 : Inv f q x3) : Inv f q (beaconOp x0 x1 x2 x3) := by
  unfold beaconOp; with_reducible repeat' first | intro _ | assumption | apply setTrdState_inv | apply modTrd_inv | apply armWaiting_inv | apply beaconKnown_inv | apply beaconGain_inv | apply lose_inv | rfl | apply inv_ite | apply inv_id | apply invR_ite | apply inv_next | apply inv_ite_fst | apply inv_ite_snd | apply inv_foldl | apply inv_foldl_fst | apply inv_foldl_snd | split | dsimp only | (unfold Inv; dsimp only; apply inv_fold)

theorem takeBeacons_inv {f q} {x0 x1 x2} (hx2 : Inv f q x2) : Inv f q (takeBeacons x0 x1 x2) := by
  unfold takeBeacons; with_reducible repeat' first | intro _ | assumption | apply forEach_inv | apply beaconOp_inv | split

theorem trackPick_inv {f q} {x0} (hx0 : Inv f q x0) : Inv f q (trackPick x0) := by
  unfold trackPick; with_reducible repeat' first | intro _ | assumption | apply forEach_inv | apply when__inv | apply publishRate_inv | apply modTrd_inv

theorem setLevIn_inv {f q} {x0 x1} (hx1 : Inv f q x1) : Inv f q (setLevIn x0 x1) := by
  unfold setLevIn; with_reducible repeat' first | intro _ | assumption | apply inv_ite | apply rset_inv | apply forEach_inv | apply raise_inv

theorem setNeg_inv {f q} {x0 x1} (hx1 : Inv f q x1) : Inv f q (setNeg x0 x1) := by
  unfold setNeg; with_reducible repeat' first | assumption | apply inv_ite | apply raise_inv | apply setf_inv

theorem classTrain_inv {f q} {x0 x1} (hx1 : Inv f q x1) : Inv f q (classTrain x0 x1) := by
  unfold classTrain; with_reducible repeat' first | assumption | apply inv_ite | apply modSel_inv | apply raise_inv | apply setb_inv

theorem setLco_inv {f q} {x0 x1} (hx1 : Inv f q x1) : Inv f q (setLco x0 x1) := by
  unfold setLco; with_reducible repeat' first | assumption | apply setf_inv

theorem lineAnnounce_inv {f q} {x0 x1 x2 x3 x4 x5} (hx5 : Inv f q x5) : Inv f q (lineAnnounce x0 x1 x2 x3 x4 x5).2 := by
  unfold lineAnnounce; with_reducible repeat' first | intro _ | assumption | apply when__inv | apply chgAbortBack_inv | apply setLco_inv | apply modSel_inv | apply enterChangeover_inv | split | dsimp only | (unfold Inv; dsimp only; apply inv_fold)

theorem lineAbort_inv {f q} {x0 x1} (hx1 : Inv f q x1) : Inv f q (lineAbort x0 x1) := by
  unfold lineAbort; with_reducible repeat' first | assumption | apply inv_ite | apply when__inv | apply chgAbortBack_inv | apply setf_inv | apply setLco_inv | apply modSel_inv | apply logCause_inv | apply raise_inv | apply count_inv

theorem lineTrain_inv {f q} {x0 x1} (hx1 : Inv f q x1) : Inv f q (lineTrain x0 x1).2 := by
  unfold lineTrain; with_reducible repeat' first | intro _ | assumption | apply when__inv | apply raise_inv | apply setLco_inv | apply setf_inv | apply modSel_inv | apply lineAnnounce_inv | apply lineAbort_inv | rfl | apply inv_ite | apply inv_id | apply invR_ite | apply inv_next | apply inv_ite_fst | apply inv_ite_snd | apply inv_foldl | apply inv_foldl_fst | apply inv_foldl_snd | split | dsimp only | (unfold Inv; dsimp only; apply inv_fold)

theorem lineStart_inv {f q} {x0 x1 x2 x3 x4} (hx4 : Inv f q x4) : Inv f q (lineStart x0 x1 x2 x3 x4) := by
  unfold lineStart; with_reducible repeat' first | assumption | apply modSel_inv | apply setLco_inv | apply setf_inv | apply lineAnnounce_inv

theorem rootGo_inv {f q} {x0} (hx0 : Inv f q x0) : Inv f q (rootGo x0) := by
  unfold rootGo; with_reducible repeat' first | assumption | apply setLco_inv | apply modSel_inv

theorem rootAbort_inv {f q} {x0 x1 x2} (hx2 : Inv f q x2) : Inv f q (rootAbort x0 x1 x2) := by
  unfold rootAbort; with_reducible repeat' first | intro _ | assumption | apply lineAbort_inv | apply modSel_inv | rfl | apply inv_ite | apply inv_id | apply invR_ite | apply inv_next | apply inv_ite_fst | apply inv_ite_snd | apply inv_foldl | apply inv_foldl_fst | apply inv_foldl_snd | split | dsimp only | (unfold Inv; dsimp only; apply inv_fold)

theorem noReturn_inv {f q} {x0} (hx0 : Inv f q x0) : Inv f q (noReturn x0) := by
  unfold noReturn; with_reducible repeat' first | intro _ | assumption | apply rootAbort_inv | rfl | apply inv_ite | apply inv_id | apply invR_ite | apply inv_next | apply inv_ite_fst | apply inv_ite_snd | apply inv_foldl | apply inv_foldl_fst | apply inv_foldl_snd | split | dsimp only | (unfold Inv; dsimp only; apply inv_fold)

theorem lineDeadlineOp_inv {f q} {x0} (hx0 : Inv f q x0) : Inv f q (lineDeadlineOp x0) := by
  unfold lineDeadlineOp; with_reducible repeat' first | intro _ | assumption | apply schedule_inv | apply modSel_inv | apply noReturn_inv | rfl | apply inv_ite | apply inv_id | apply invR_ite | apply inv_next | apply inv_ite_fst | apply inv_ite_snd | apply inv_foldl | apply inv_foldl_fst | apply inv_foldl_snd | split | dsimp only | (unfold Inv; dsimp only; apply inv_fold)

theorem lineTimeoutOp_inv {f q} {x0} (hx0 : Inv f q x0) : Inv f q (lineTimeoutOp x0) := by
  unfold lineTimeoutOp; with_reducible repeat' first | intro _ | assumption | apply when__inv | apply noReturn_inv | rfl | apply inv_ite | apply inv_id | apply invR_ite | apply inv_next | apply inv_ite_fst | apply inv_ite_snd | apply inv_foldl | apply inv_foldl_fst | apply inv_foldl_snd | split | dsimp only | (unfold Inv; dsimp only; apply inv_fold)

theorem trainSendOp_inv {f q} {x0} (hx0 : Inv f q x0) : Inv f q (trainSendOp x0) := by
  unfold trainSendOp; with_reducible repeat' first | intro _ | assumption | apply when__inv | apply modSel_inv | apply lineDeadlineOp_inv | apply lineAnnounce_inv | apply setNeg_inv | apply schedule_inv | rfl | apply inv_ite | apply inv_id | apply invR_ite | apply inv_next | apply inv_ite_fst | apply inv_ite_snd | apply inv_foldl | apply inv_foldl_fst | apply inv_foldl_snd | split | dsimp only | (unfold Inv; dsimp only; apply inv_fold)

theorem forwardTrain_inv {f q} {x0 x1 x2 x3} (hx3 : Inv f q x3) : Inv f q (forwardTrain x0 x1 x2 x3) := by
  unfold forwardTrain; with_reducible repeat' first | assumption | apply rset_inv | apply modSel_inv

theorem trainReceiveOp_inv {f q} {x0 x1 x2 x3} (hx3 : Inv f q x3) : Inv f q (trainReceiveOp x0 x1 x2 x3) := by
  unfold trainReceiveOp; with_reducible repeat' first | intro _ | assumption | apply when__inv | apply trainFaulty_inv | apply modSel_inv | apply schedule_inv | apply countN_inv | apply setf_inv | apply setRing_inv | apply alignTrain_inv | apply classTrain_inv | apply setNeg_inv | apply setLevIn_inv | apply takeBeacons_inv | apply lineTrain_inv | apply forwardTrain_inv | rfl | apply inv_ite | apply inv_id | apply invR_ite | apply inv_next | apply inv_ite_fst | apply inv_ite_snd | apply inv_foldl | apply inv_foldl_fst | apply inv_foldl_snd | split | dsimp only | (unfold Inv; dsimp only; apply inv_fold)

theorem returnMissing_inv {f q} {x0} (hx0 : Inv f q x0) : Inv f q (returnMissing x0) := by
  unfold returnMissing; with_reducible repeat' first | assumption | apply inv_ite | apply modSel_inv | apply setRing_inv

theorem dualRoot_inv {f q} {x0} (hx0 : Inv f q x0) : Inv f q (dualRoot x0) := by
  unfold dualRoot; with_reducible repeat' first | intro _ | assumption | apply modSel_inv | apply raise_inv | apply setb_inv | rfl | apply inv_ite | apply inv_id | apply invR_ite | apply inv_next | apply inv_ite_fst | apply inv_ite_snd | apply inv_foldl | apply inv_foldl_fst | apply inv_foldl_snd | split | dsimp only | (unfold Inv; dsimp only; apply inv_fold)

theorem trainReturnOp_inv {f q} {x0 x1 x2} (hx2 : Inv f q x2) : Inv f q (trainReturnOp x0 x1 x2) := by
  unfold trainReturnOp; with_reducible repeat' first | intro _ | assumption | apply forEach_inv | apply when__inv | apply returnMissing_inv | apply modSel_inv | apply trainFaulty_inv | apply dualRoot_inv | apply setf_inv | apply setRing_inv | apply setLevIn_inv | apply rootGo_inv | apply rootAbort_inv | rfl | apply inv_ite | apply inv_id | apply invR_ite | apply inv_next | apply inv_ite_fst | apply inv_ite_snd | apply inv_foldl | apply inv_foldl_fst | apply inv_foldl_snd | split | dsimp only | (unfold Inv; dsimp only; apply inv_fold)

theorem ringTimeoutOp_inv {f q} {x0} (hx0 : Inv f q x0) : Inv f q (ringTimeoutOp x0) := by
  unfold ringTimeoutOp; with_reducible repeat' first | intro _ | assumption | apply inv_ite | apply modSel_inv | apply forEach_inv | apply returnMissing_inv | apply setAligned_inv | apply setRing_inv

theorem ringTimeoutDue_inv {f q} {x0} (hx0 : Inv f q x0) : Inv f q (ringTimeoutDue x0) := by
  unfold ringTimeoutDue; with_reducible repeat' first | intro _ | assumption | apply when__inv | apply ringTimeoutOp_inv | rfl | apply inv_ite | apply inv_id | apply invR_ite | apply inv_next | apply inv_ite_fst | apply inv_ite_snd | apply inv_foldl | apply inv_foldl_fst | apply inv_foldl_snd | split | dsimp only | (unfold Inv; dsimp only; apply inv_fold)

theorem selCntClrOp_inv {f q} {x0} (hx0 : Inv f q x0) : Inv f q (selCntClrOp x0) := by
  unfold selCntClrOp; with_reducible repeat' first | assumption | apply clrAll_inv

/-! ### Pins.lean -/

theorem takeOwner_inv {f q} {x0 x1 x2} (hx2 : Inv f q x2) : Inv f q (takeOwner x0 x1 x2) := by
  unfold takeOwner; with_reducible repeat' first | intro _ | assumption | apply refreshPair_inv | apply noteSwitch_inv | apply modCh_inv | rfl | apply inv_ite | apply inv_id | apply invR_ite | apply inv_next | apply inv_ite_fst | apply inv_ite_snd | apply inv_foldl | apply inv_foldl_fst | apply inv_foldl_snd | split | dsimp only | (unfold Inv; dsimp only; apply inv_fold)

theorem takeOwners_inv {f q} {x0 x1} (hx1 : Inv f q x1) : Inv f q (takeOwners x0 x1) := by
  unfold takeOwners; with_reducible repeat' first | intro _ | assumption | apply refreshTrips_inv | apply forEach_inv | apply takeOwner_inv

theorem commitDone_inv {f q} {x0} (hx0 : Inv f q x0) : Inv f q (commitDone x0) := by
  unfold commitDone; with_reducible repeat' first | intro _ | assumption | apply setb_inv | apply raise_inv | apply setf_inv | apply rset_inv | apply takeOwners_inv | rfl | apply inv_ite | apply inv_id | apply invR_ite | apply inv_next | apply inv_ite_fst | apply inv_ite_snd | apply inv_foldl | apply inv_foldl_fst | apply inv_foldl_snd | split | dsimp only | (unfold Inv; dsimp only; apply inv_fold)

theorem commitOp_inv {f q} {x0} (hx0 : Inv f q x0) : Inv f q (commitOp x0) := by
  unfold commitOp; with_reducible repeat' first | intro _ | assumption | apply freshWord_inv | apply schedule_inv | apply setb_inv | rfl | apply inv_ite | apply inv_id | apply invR_ite | apply inv_next | apply inv_ite_fst | apply inv_ite_snd | apply inv_foldl | apply inv_foldl_fst | apply inv_foldl_snd | split | dsimp only | (unfold Inv; dsimp only; apply inv_fold)

/-! ### Tack.lean -/

theorem modTack_inv {f q} {x0 x1} (hx1 : Inv f q x1) : Inv f q (modTack x0 x1) :=
  inv_of hx1 rfl rfl rfl rfl

theorem modFlash_inv {f q} {x0 x1} (h : ∀ y, (x0 y).bytes = y.bytes) (hx1 : Inv f q x1) : Inv f q (modFlash x0 x1) :=
  inv_of hx1 rfl (h _) rfl rfl

theorem flashProgram_inv {f q} {x0 x1 x2} (hx2 : Inv f q x2) : Inv f q (flashProgram x0 x1 x2) :=
  inv_of (inv_flash hx2 fun h => flashProg_canon x0 x1 h) rfl rfl rfl rfl

theorem flashErase_inv {f q} {x0 x1 x2} (hx2 : Inv f q x2) : Inv f q (flashErase x0 x1 x2) :=
  inv_of (inv_flash hx2 fun h => filter_canon (d := 0xFF#8) (fun c => !decide (x0 ≤ c.1 ∧ c.1 < x0 + 4096 * x1)) h) rfl rfl rfl rfl

theorem FlashStep.first_inv {f q} {x0 x1} (hx1 : Inv f q x1) : Inv f q (FlashStep.first x0 x1) := by
  unfold FlashStep.first; with_reducible repeat' first | assumption | apply flashErase_inv | apply flashProgram_inv | split

theorem addJob_inv {f q} {x0 x1} (hx1 : Inv f q x1) : Inv f q (addJob x0 x1) := by
  unfold addJob; with_reducible repeat' first | intro _ | assumption | apply modFlash_inv | split | dsimp only | (unfold Inv; dsimp only; apply inv_fold)

theorem bgOut_inv {f q} {x0 x1 x2 x3} (hx3 : Inv f q x3) : Inv f q (bgOut x0 x1 x2 x3) :=
  inv_of hx3 rfl rfl rfl rfl

theorem breakRegion_inv {f q} {x0} (hx0 : Inv f q x0) : Inv f q (breakRegion x0) := by
  unfold breakRegion; with_reducible repeat' first | assumption | apply modTack_inv | split

theorem cutCommand_inv {f q} {x0 x1} (hx1 : Inv f q x1) : Inv f q (cutCommand x0 x1) := by
  unfold cutCommand; with_reducible repeat' first | assumption | apply bgOut_inv | apply breakRegion_inv

theorem issueJob_inv {f q} {x0 x1} (hx1 : Inv f q x1) : Inv f q (issueJob x0 x1) := by
  induction x0 generalizing x1 with
  | zero => exact hx1
  | succ n ih =>
    unfold issueJob
    split
    · exact hx1
    · split
      · exact hx1
      · split
        · exact modFlash_inv (fun _ => rfl) hx1
        · split
          · exact ih (cutCommand_inv (modFlash_inv (fun _ => rfl) hx1))
          · exact hx1
          · exact ih (modFlash_inv (fun _ => rfl) hx1)

theorem issueNext_inv {f q} {x0} (hx0 : Inv f q x0) : Inv f q (issueNext x0) := by
  unfold issueNext; with_reducible repeat' first | assumption | apply issueJob_inv

theorem commitCopy_inv {f q} {x0 x1 x2 x3} (hx3 : Inv f q x3) : Inv f q (commitCopy x0 x1 x2 x3) := by
  unfold commitCopy; with_reducible repeat' first | assumption | apply flashProgram_inv | apply flashErase_inv

theorem readSlots_inv {f q} {x0} (hx0 : Inv f q x0) : Inv f q (readSlots x0) := by
  unfold readSlots; with_reducible repeat' first | assumption | apply modTack_inv | apply logCause_inv | split

theorem readRepairs_inv {f q} {x0} (hx0 : Inv f q x0) : Inv f q (readRepairs x0) := by
  unfold readRepairs; with_reducible repeat' first | intro _ | assumption | apply forEach_inv | apply modTack_inv | apply setb_inv | apply rset_inv | rfl | apply inv_ite | apply inv_id | apply invR_ite | apply inv_next | apply inv_ite_fst | apply inv_ite_snd | apply inv_foldl | apply inv_foldl_fst | apply inv_foldl_snd | split | dsimp only | (unfold Inv; dsimp only; apply inv_fold)

theorem repairJob_inv {f q} {x0} (hx0 : Inv f q x0) : Inv f q (repairJob x0) := by
  unfold repairJob; with_reducible repeat' first | assumption | apply inv_ite | apply issueNext_inv | apply addJob_inv

theorem flashDoneOp_inv {f q} {x0 x1} (hx0 : ∀ y0 y1, Inv f q y1 → Inv f q (x0 y0 y1)) (hx1 : Inv f q x1) : Inv f q (flashDoneOp x0 x1) := by
  unfold flashDoneOp; with_reducible repeat' first | intro _ | assumption | apply hx0 | apply FlashStep.first_inv | apply issueNext_inv | apply modFlash_inv | split | dsimp only | (unfold Inv; dsimp only; apply inv_fold)

theorem repairDone_inv {f q} {x0} (hx0 : Inv f q x0) : Inv f q (repairDone x0) := by
  unfold repairDone; with_reducible repeat' first | assumption | apply inv_ite | apply raise_inv | apply modTack_inv | apply repairJob_inv

theorem flashErrorOp_inv {f q} {x0} (hx0 : Inv f q x0) : Inv f q (flashErrorOp x0) := by
  unfold flashErrorOp; with_reducible repeat' first | intro _ | assumption | apply flagRaise_inv | apply count_inv | apply logCause_inv | apply modFlash_inv | apply issueNext_inv | apply cutCommand_inv | apply repairJob_inv | split | dsimp only | (unfold Inv; dsimp only; apply inv_fold)

theorem fwStart_inv {f q} {x0 x1} (hx1 : Inv f q x1) : Inv f q (fwStart x0 x1) := by
  unfold fwStart; with_reducible repeat' first | assumption | apply setb_inv | apply rset_inv

theorem fwActivated_inv {f q} {x0 x1} (hx1 : Inv f q x1) : Inv f q (fwActivated x0 x1) := by
  unfold fwActivated; with_reducible repeat' first | assumption | apply raise_inv | apply setb_inv | apply logCause_inv

theorem restartCommands_inv {f q} {x0} (hx0 : Inv f q x0) : Inv f q (restartCommands x0) := by
  unfold restartCommands; with_reducible repeat' first | intro _ | assumption | apply breakRegion_inv | split | dsimp only | (unfold Inv; dsimp only; apply inv_fold)

theorem restartBegin_inv {f q} {x0 x1} (hx1 : Inv f q x1) : Inv f q (restartBegin x0 x1) := by
  unfold restartBegin; with_reducible repeat' first | assumption | apply inv_ite | apply setb_inv | apply setf_inv | apply raise_inv | apply count_inv | apply restartCommands_inv | apply discardStaged_inv

theorem watchdogOp_inv {f q} {x0 x1} (hx1 : Inv f q x1) : Inv f q (watchdogOp x0 x1) := by
  unfold watchdogOp; with_reducible repeat' first | assumption | apply inv_ite | apply deviceReset_inv | apply restartBegin_inv

theorem restartEndOp_inv {f q} {x0} (hx0 : Inv f q x0) : Inv f q (restartEndOp x0) := by
  unfold restartEndOp; with_reducible repeat' first | assumption | apply setb_inv | apply fwStart_inv | apply logCause_inv | apply raise_inv | apply issueNext_inv | apply logDrain_inv | split

theorem tempLevel_inv {f q} {x0 x1 x2 x3 x4 x5 x6} (hx6 : Inv f q x6) : Inv f q (tempLevel x0 x1 x2 x3 x4 x5 x6) := by
  unfold tempLevel; with_reducible repeat' first | assumption | apply inv_ite | apply setb_inv | apply raise_inv | apply logCause_inv | apply when__inv | apply detect_inv

theorem tempSampleOp_inv {f q} {x0 x1} (hx1 : Inv f q x1) : Inv f q (tempSampleOp x0 x1) := by
  unfold tempSampleOp; with_reducible repeat' first | intro _ | assumption | apply forEach_inv | apply rset_inv | apply tempLevel_inv

theorem logCopyOp_inv {f q} {x0} (hx0 : Inv f q x0) : Inv f q (logCopyOp x0) := by
  unfold logCopyOp; with_reducible repeat' first | intro _ | assumption | apply flashErase_inv | apply flashProgram_inv | apply rset_inv | split | dsimp only | (unfold Inv; dsimp only; apply inv_fold)

theorem logResume_inv {f q} {x0} (hx0 : Inv f q x0) : Inv f q (logResume x0) := by
  unfold logResume; with_reducible repeat' first | intro _ | assumption | apply rset_inv | split | dsimp only | (unfold Inv; dsimp only; apply inv_fold)

theorem shuResumeOp_inv {f q} {x0 x1} (hx1 : Inv f q x1) : Inv f q (shuResumeOp x0 x1) := by
  unfold shuResumeOp; with_reducible repeat' first | assumption | apply inv_ite | apply setb_inv | apply unhalt_inv | apply modShu_inv

theorem setOpen_inv {f q} {x0 x1} (hx1 : Inv f q x1) : Inv f q (setOpen x0 x1) := by
  unfold setOpen; with_reducible repeat' first | intro _ | assumption | apply inv_ite | apply raise_inv | apply setb_inv | apply logCause_inv | apply forEach_inv | apply shuResumeOp_inv | apply when__inv | apply hedResumeOp_inv

theorem unlockOp_inv {f q} {x0 x1 x2 x3} (hx3 : Inv f q x3) : Inv f q (unlockOp x0 x1 x2 x3) := by
  unfold unlockOp; with_reducible repeat' first | assumption | apply inv_ite | apply modTack_inv | apply setOpen_inv | apply flagRaise_inv | apply logCause_inv | apply when__inv | apply setb_inv

theorem tackCntClrOp_inv {f q} {x0} (hx0 : Inv f q x0) : Inv f q (tackCntClrOp x0) := by
  unfold tackCntClrOp; with_reducible repeat' first | assumption | apply clrAll_inv

end Sys2Proof.Machine
end

