-- ==== Sys2Proof/Laws/KeepBus.lean ====
section
/-!
SUPPORT. What every step keeps (`Inv` of Safety.lean): reads and writes, drafts, and the passing of time, one lemma each.
-/

namespace Sys2Proof.Machine

/-! ### Access.lean -/

theorem pairLoReadOp_inv {f q} {x0 x1} (hx1 : Inv f q x1) : Inv f q (pairLoReadOp x0 x1).2 :=
  inv_of hx1 rfl rfl rfl rfl

theorem hostWake_inv {f q} {x0 x1 x2} (hx2 : Inv f q x2) : Inv f q (hostWake x0 x1 x2) := by
  unfold hostWake; with_reducible repeat' first | assumption | apply inv_ite | apply wakeBegin_inv

theorem sideRead_inv {f q} {x0 x1} (hx1 : Inv f q x1) : Inv f q (sideRead x0 x1).2 := by
  unfold sideRead; with_reducible repeat' first | assumption | apply pairLoReadOp_inv | apply capReadOp_inv | apply phaseReadOp_inv | apply latPosReadOp_inv | apply rxRead_inv | apply slotReadOp_inv | apply resSync_inv | split

theorem readDw_inv {f q} {x0 x1 x2} (hx2 : Inv f q x2) : Inv f q (readDw x0 x1 x2).2 := by
  unfold readDw; with_reducible repeat' first | intro _ | assumption | apply hostWake_inv | apply checkRead_inv | apply sideRead_inv | split | dsimp only | (unfold Inv; dsimp only; apply inv_fold)

/-! ### Locks.lean -/

theorem dropNote_inv {f q} {x0 x1} (hx1 : Inv f q x1) : Inv f q (dropNote x0 x1) := by
  unfold dropNote; with_reducible repeat' first | intro _ | assumption | split | dsimp only | (unfold Inv; dsimp only; apply inv_fold)

theorem lockDrop_inv {f q} {x0 x1 x2 x3} (hx3 : Inv f q x3) : Inv f q (lockDrop x0 x1 x2 x3) := by
  unfold lockDrop; with_reducible repeat' first | assumption | apply count_inv | apply rset_inv | apply flagRaise_inv | apply dropNote_inv | apply logLocked_inv

theorem holeDrop_inv {f q} {x0 x1} (hx1 : Inv f q x1) : Inv f q (holeDrop x0 x1) := by
  unfold holeDrop; with_reducible repeat' first | assumption | apply dropNote_inv | apply raise_inv | apply count_inv

theorem rsvDrop_inv {f q} {x0 x1} (hx1 : Inv f q x1) : Inv f q (rsvDrop x0 x1) := by
  unfold rsvDrop; with_reducible repeat' first | assumption | apply dropNote_inv | apply raise_inv | apply count_inv

/-! ### Bus.lean -/

theorem storeWord_inv {f q} {x0 x1 x2} (hx2 : Inv f q x2) : Inv f q (storeWord x0 x1 x2) := by
  unfold storeWord; with_reducible repeat' first | intro _ | assumption | apply clearBits_inv | apply rset_inv | rfl | apply inv_ite | apply inv_id | apply invR_ite | apply inv_next | apply inv_ite_fst | apply inv_ite_snd | apply inv_foldl | apply inv_foldl_fst | apply inv_foldl_snd | split | dsimp only | (unfold Inv; dsimp only; apply inv_fold)

theorem writeGctl_inv {f q} {x0 x1 x2} (hx2 : Inv f q x2) : Inv f q (writeGctl x0 x1 x2) := by
  unfold writeGctl; with_reducible repeat' first | intro _ | assumption | apply when__inv | apply clrAll_inv | apply storeWord_inv | apply modFlt_inv | apply loadEvery_inv | apply commitOp_inv | apply fltCntClrOp_inv | apply injectOp_inv | rfl | apply inv_ite | apply inv_id | apply invR_ite | apply inv_next | apply inv_ite_fst | apply inv_ite_snd | apply inv_foldl | apply inv_foldl_fst | apply inv_foldl_snd | split | dsimp only | (unfold Inv; dsimp only; apply inv_fold)

theorem writeEvm_inv {f q} {x0 x1 x2} (hx2 : Inv f q x2) : Inv f q (writeEvm x0 x1 x2) := by
  unfold writeEvm; with_reducible repeat' first | intro _ | assumption | apply when__inv | apply evmCntClrOp_inv | apply forEach_inv | apply vecClear_inv | apply writeMask_inv | apply writeVecCtl_inv | apply writeVecSts_inv | apply storeWord_inv | split

theorem chCtlWrite_inv {f q} {x0 x1 x2} (hx2 : Inv f q x2) : Inv f q (chCtlWrite x0 x1 x2) := by
  unfold chCtlWrite; with_reducible repeat' first | assumption | apply writeChCtl_inv | apply when__inv | apply leftCardOut_inv

theorem writeCh_inv {f q} {x0 x1 x2} (hx2 : Inv f q x2) : Inv f q (writeCh x0 x1 x2) := by
  unfold writeCh; with_reducible repeat' first | intro _ | assumption | apply chCtlWrite_inv | apply writeChSts_inv | apply liveWrite_inv | apply writeCompare_inv | apply writeStaged_inv | apply enterIndet_inv | apply storeWord_inv | apply writeEvcfg_inv | rfl | apply inv_ite | apply inv_id | apply invR_ite | apply inv_next | apply inv_ite_fst | apply inv_ite_snd | apply inv_foldl | apply inv_foldl_fst | apply inv_foldl_snd | split | dsimp only | (unfold Inv; dsimp only; apply inv_fold)

theorem tripStsWrite_inv {f q} {x0 x1 x2} (hx2 : Inv f q x2) : Inv f q (tripStsWrite x0 x1 x2) := by
  unfold tripStsWrite; with_reducible repeat' first | assumption | apply storeWord_inv | apply when__inv | apply clr_inv

theorem writeHarn_inv {f q} {x0 x1 x2} (hx2 : Inv f q x2) : Inv f q (writeHarn x0 x1 x2) := by
  unfold writeHarn; with_reducible repeat' first | intro _ | assumption | apply when__inv | apply writePresc_inv | apply loadHarness_inv | apply loadNowOp_inv | apply tripStsWrite_inv | apply tripRewrite_inv | apply storeWord_inv | rfl | apply inv_ite | apply inv_id | apply invR_ite | apply inv_next | apply inv_ite_fst | apply inv_ite_snd | apply inv_foldl | apply inv_foldl_fst | apply inv_foldl_snd | split | dsimp only | (unfold Inv; dsimp only; apply inv_fold)

theorem writeReed_inv {f q} {x0 x1 x2} (hx2 : Inv f q x2) : Inv f q (writeReed x0 x1 x2) := by
  unfold writeReed; with_reducible repeat' first | assumption | apply inv_ite | apply refreshPair_inv | apply storeWord_inv | apply when__inv | apply clrAll_inv

theorem trdCtlWrite_inv {f q} {x0 x1 x2} (hx2 : Inv f q x2) : Inv f q (trdCtlWrite x0 x1 x2) := by
  unfold trdCtlWrite; with_reducible repeat' first | assumption | apply inv_ite | apply storeWord_inv | apply trackEnable_inv | apply trackDisable_inv

theorem ringZero_inv {f q} {x0 x1 x2} (hx2 : Inv f q x2) : Inv f q (ringZero x0 x1 x2) := by
  unfold ringZero; with_reducible repeat' first | intro _ | assumption | apply zeroAll_inv | rfl | apply inv_ite | apply inv_id | apply invR_ite | apply inv_next | apply inv_ite_fst | apply inv_ite_snd | apply inv_foldl | apply inv_foldl_fst | apply inv_foldl_snd | split | dsimp only | (unfold Inv; dsimp only; apply inv_fold)

theorem writeTrd_inv {f q} {x0 x1 x2} (hx2 : Inv f q x2) : Inv f q (writeTrd x0 x1 x2) := by
  unfold writeTrd; with_reducible repeat' first | assumption | apply trdCtlWrite_inv | apply when__inv | apply trdCntClrOp_inv | apply storeWord_inv | apply ringZero_inv | split

theorem posCtlWrite_inv {f q} {x0 x1 x2} (hx2 : Inv f q x2) : Inv f q (posCtlWrite x0 x1 x2) := by
  unfold posCtlWrite; with_reducible repeat' first | intro _ | assumption | apply when__inv | apply storeWord_inv | apply posEnableOp_inv | apply posDisableOp_inv | apply setb_inv | apply posLoadOp_inv | apply schedule_inv | apply arrive_inv | apply modPos_inv | apply takeLatch_inv | rfl | apply inv_ite | apply inv_id | apply invR_ite | apply inv_next | apply inv_ite_fst | apply inv_ite_snd | apply inv_foldl | apply inv_foldl_fst | apply inv_foldl_snd | split | dsimp only | (unfold Inv; dsimp only; apply inv_fold)

theorem writePos_inv {f q} {x0 x1 x2} (hx2 : Inv f q x2) : Inv f q (writePos x0 x1 x2) := by
  unfold writePos; with_reducible repeat' first | intro _ | assumption | apply when__inv | apply posCtlWrite_inv | apply posCntClrOp_inv | apply storeWord_inv | apply clampPosition_inv | apply restartHist_inv | rfl | apply inv_ite | apply inv_id | apply invR_ite | apply inv_next | apply inv_ite_fst | apply inv_ite_snd | apply inv_foldl | apply inv_foldl_fst | apply inv_foldl_snd | split | dsimp only | (unfold Inv; dsimp only; apply inv_fold)

theorem hedCtlWrite_inv {f q} {x0 x1 x2} (hx2 : Inv f q x2) : Inv f q (hedCtlWrite x0 x1 x2) := by
  unfold hedCtlWrite; with_reducible repeat' first | assumption | apply inv_ite | apply when__inv | apply fifoClrOp_inv | apply hedStartOp_inv | apply hedStopOp_inv

theorem hedDbgWrite_inv {f q} {x0 x1 x2} (hx2 : Inv f q x2) : Inv f q (hedDbgWrite x0 x1 x2) := by
  unfold hedDbgWrite; with_reducible repeat' first | assumption | apply inv_ite | apply hedHaltOp_inv | apply hedResumeOp_inv | apply when__inv | apply modHed_inv

theorem hedExecWrite_inv {f q} {x0 x1 x2} (hx2 : Inv f q x2) : Inv f q (hedExecWrite x0 x1 x2) := by
  unfold hedExecWrite; with_reducible repeat' first | intro _ | assumption | apply storeWord_inv | apply modHed_inv | rfl | apply inv_ite | apply inv_id | apply invR_ite | apply inv_next | apply inv_ite_fst | apply inv_ite_snd | apply inv_foldl | apply inv_foldl_fst | apply inv_foldl_snd | split | dsimp only | (unfold Inv; dsimp only; apply inv_fold)

theorem writeHed_inv {f q} {x0 x1 x2} (hx2 : Inv f q x2) : Inv f q (writeHed x0 x1 x2) := by
  unfold writeHed; with_reducible repeat' first | intro _ | assumption | apply when__inv | apply hedCtlWrite_inv | apply hedCntClrOp_inv | apply storeWord_inv | apply hedExecWrite_inv | apply hedDbgWrite_inv | apply rset_inv | apply txWrite_inv | rfl | apply inv_ite | apply inv_id | apply invR_ite | apply inv_next | apply inv_ite_fst | apply inv_ite_snd | apply inv_foldl | apply inv_foldl_fst | apply inv_foldl_snd | split | dsimp only | (unfold Inv; dsimp only; apply inv_fold)

theorem winStsWrite_inv {f q} {x0 x1 x2} (hx2 : Inv f q x2) : Inv f q (winStsWrite x0 x1 x2) := by
  unfold winStsWrite; with_reducible repeat' first | assumption | apply when__inv | apply clr_inv | apply storeWord_inv

theorem writeWin_inv {f q} {x0 x1 x2} (hx2 : Inv f q x2) : Inv f q (writeWin x0 x1 x2) := by
  unfold writeWin; with_reducible repeat' first | assumption | apply winStsWrite_inv | apply writeCmp_inv | apply writeThresh_inv | apply storeWord_inv | split

theorem writeAdc_inv {f q} {x0 x1 x2} (hx2 : Inv f q x2) : Inv f q (writeAdc x0 x1 x2) := by
  unfold writeAdc; with_reducible repeat' first | assumption | apply inv_ite | apply when__inv | apply adcCntClrOp_inv | apply storeWord_inv | apply modAdc_inv | apply ringZero_inv

theorem bobCtlWrite_inv {f q} {x0 x1 x2} (hx2 : Inv f q x2) : Inv f q (bobCtlWrite x0 x1 x2) := by
  unfold bobCtlWrite; with_reducible repeat' first | assumption | apply inv_ite | apply when__inv | apply bobEnd_inv | apply bobStartOp_inv | apply storeWord_inv

theorem writeBob_inv {f q} {x0 x1 x2} (hx2 : Inv f q x2) : Inv f q (writeBob x0 x1 x2) := by
  unfold writeBob; with_reducible repeat' first | assumption | apply bobCtlWrite_inv | apply when__inv | apply bobCntClrOp_inv | apply storeWord_inv | split

theorem writeBobc_inv {f q} {x0 x1 x2} (hx2 : Inv f q x2) : Inv f q (writeBobc x0 x1 x2) := by
  unfold writeBobc; with_reducible repeat' first | assumption | apply inv_ite | apply when__inv | apply clr_inv | apply writeHqPtr_inv | apply storeWord_inv

theorem writeStore_inv {f q} {x0 x1 x2} (hx2 : Inv f q x2) : Inv f q (writeStore x0 x1 x2) := by
  unfold writeStore; with_reducible repeat' first | assumption | apply inv_ite | apply when__inv | apply storeCntClrOp_inv | apply storeWord_inv | apply mtRequest_inv

theorem shedCntClrOp_inv {f q} {x0} (hx0 : Inv f q x0) : Inv f q (shedCntClrOp x0) := by
  unfold shedCntClrOp; with_reducible repeat' first | intro _ | assumption | apply clrAll_inv | apply forEach_inv | apply setf_inv

theorem writeShed_inv {f q} {x0 x1 x2} (hx2 : Inv f q x2) : Inv f q (writeShed x0 x1 x2) := by
  unfold writeShed; with_reducible repeat' first | intro _ | assumption | apply forEach_inv | apply when__inv | apply clearBits_inv | apply shedCntClrOp_inv | apply storeWord_inv | rfl | apply inv_ite | apply inv_id | apply invR_ite | apply inv_next | apply inv_ite_fst | apply inv_ite_snd | apply inv_foldl | apply inv_foldl_fst | apply inv_foldl_snd | split | dsimp only | (unfold Inv; dsimp only; apply inv_fold)

theorem shuHaltOp_inv {f q} {x0 x1} (hx1 : Inv f q x1) : Inv f q (shuHaltOp x0 x1) := by
  unfold shuHaltOp; with_reducible repeat' first | assumption | apply setb_inv

theorem shuDbgWrite_inv {f q} {x0 x1 x2} (hx2 : Inv f q x2) : Inv f q (shuDbgWrite x0 x1 x2) := by
  unfold shuDbgWrite; with_reducible repeat' first | intro _ | assumption | apply when__inv | apply setb_inv | apply clearBits_inv | apply shuHaltOp_inv | apply shuResumeOp_inv | apply unhalt_inv | apply modShu_inv | rfl | apply inv_ite | apply inv_id | apply invR_ite | apply inv_next | apply inv_ite_fst | apply inv_ite_snd | apply inv_foldl | apply inv_foldl_fst | apply inv_foldl_snd | split | dsimp only | (unfold Inv; dsimp only; apply inv_fold)

theorem writeShu_inv {f q} {x0 x1 x2} (hx2 : Inv f q x2) : Inv f q (writeShu x0 x1 x2) := by
  unfold writeShu; with_reducible repeat' first | intro _ | assumption | apply when__inv | apply shuDbgWrite_inv | apply modShu_inv | apply modCtx_inv | apply setFlags_inv | apply clrAll_inv | apply setG_inv | apply storeWord_inv | rfl | apply inv_ite | apply inv_id | apply invR_ite | apply inv_next | apply inv_ite_fst | apply inv_ite_snd | apply inv_foldl | apply inv_foldl_fst | apply inv_foldl_snd | split | dsimp only | (unfold Inv; dsimp only; apply inv_fold)

theorem writeCard_inv {f q} {x0 x1 x2} (hx2 : Inv f q x2) : Inv f q (writeCard x0 x1 x2) := by
  unfold writeCard; with_reducible repeat' first | assumption | apply inv_ite | apply when__inv | apply cardCntClrOp_inv | apply storeWord_inv | apply ringSts_inv | apply ringZero_inv

theorem writeSel_inv {f q} {x0 x1 x2} (hx2 : Inv f q x2) : Inv f q (writeSel x0 x1 x2) := by
  unfold writeSel; with_reducible repeat' first | assumption | apply inv_ite | apply when__inv | apply selCntClrOp_inv | apply storeWord_inv | apply selEnable_inv | apply selDisable_inv

theorem setPend_inv {f q} {x0 x1 x2} (hx2 : Inv f q x2) : Inv f q (setPend x0 x1 x2) := by
  unfold setPend; with_reducible repeat' first | assumption | apply setb_inv | split

theorem setDone_inv {f q} {x0 x1 x2} (hx2 : Inv f q x2) : Inv f q (setDone x0 x1 x2) := by
  unfold setDone; with_reducible repeat' first | assumption | apply setb_inv | split

theorem completeCmd_inv {f q} {x0 x1} (hx1 : Inv f q x1) : Inv f q (completeCmd x0 x1) := by
  unfold completeCmd; with_reducible repeat' first | assumption | apply writeBytes_inv | apply raise_inv | apply setDone_inv | apply setPend_inv | apply count_inv

theorem doorbellOp_inv {f q} {x0 x1} (hx1 : Inv f q x1) : Inv f q (doorbellOp x0 x1) := by
  unfold doorbellOp; with_reducible repeat' first | intro _ | assumption | apply raise_inv | apply count_inv | apply setb_inv | apply checkRead_inv | apply setDone_inv | apply setPend_inv | apply completeCmd_inv | split | dsimp only | (unfold Inv; dsimp only; apply inv_fold)

theorem writePwr_inv {f q} {x0 x1 x2} (hx2 : Inv f q x2) : Inv f q (writePwr x0 x1 x2) := by
  unfold writePwr; with_reducible repeat' first | intro _ | assumption | apply inv_ite | apply storeWord_inv | apply cmpModesSet_inv | apply when__inv | apply clrAll_inv | apply resSync_inv | apply modFlt_inv | apply setb_inv | apply clkChange_inv

theorem writeHost_inv {f q} {x0 x1 x2} (hx2 : Inv f q x2) : Inv f q (writeHost x0 x1 x2) := by
  unfold writeHost; with_reducible repeat' first | assumption | apply inv_ite | apply when__inv | apply clrAll_inv | apply storeWord_inv

theorem dbgctlWrite_inv {f q} {x0 x1} (hx1 : Inv f q x1) : Inv f q (dbgctlWrite x0 x1) := by
  unfold dbgctlWrite; with_reducible repeat' first | assumption | apply setOpen_inv | apply setf_inv | apply when__inv | apply unlockOp_inv

theorem writeTack_inv {f q} {x0 x1 x2} (hx2 : Inv f q x2) : Inv f q (writeTack x0 x1 x2) := by
  unfold writeTack; with_reducible repeat' first | assumption | apply inv_ite | apply when__inv | apply tackCntClrOp_inv | apply restartBegin_inv | apply dbgctlWrite_inv | apply storeWord_inv

theorem writeTop_inv {f q} {x0 x1 x2} (hx2 : Inv f q x2) : Inv f q (writeTop x0 x1 x2) := by
  unfold writeTop; with_reducible repeat' first | assumption | apply inv_ite | apply doorbellOp_inv | apply when__inv | apply clrAll_inv | apply storeWord_inv | apply writePwr_inv | apply writeHost_inv | apply writeTack_inv

theorem applyWrite_inv {f q} {x0 x1 x2} (hx2 : Inv f q x2) : Inv f q (applyWrite x0 x1 x2) := by
  unfold applyWrite; with_reducible repeat' first | intro _ | assumption | apply writeGctl_inv | apply writeEvm_inv | apply storeWord_inv | apply noteEntry_inv | apply writeCh_inv | apply writeHarn_inv | apply writeReed_inv | apply writeTrd_inv | apply writePos_inv | apply writeHed_inv | apply writeWin_inv | apply writeAdc_inv | apply writeBob_inv | apply writeBobc_inv | apply writeStore_inv | apply writeShed_inv | apply writeShu_inv | apply writeCard_inv | apply writeSel_inv | apply writeTop_inv | rfl | apply inv_ite | apply inv_id | apply invR_ite | apply inv_next | apply inv_ite_fst | apply inv_ite_snd | apply inv_foldl | apply inv_foldl_fst | apply inv_foldl_snd | split | dsimp only | (unfold Inv; dsimp only; apply inv_fold)

theorem pairWrite_inv {f q} {x0 x1 x2} (hx2 : Inv f q x2) : Inv f q (pairWrite x0 x1 x2) := by
  unfold pairWrite; with_reducible repeat' first | intro _ | assumption | apply applyWrite_inv | split | dsimp only | (unfold Inv; dsimp only; apply inv_fold)

theorem lateDoorbell_inv {f q} {x0 x1} (hx1 : Inv f q x1) : Inv f q (lateDoorbell x0 x1) := by
  unfold lateDoorbell; with_reducible repeat' first | intro _ | assumption | apply doorbellOp_inv | split | dsimp only | (unfold Inv; dsimp only; apply inv_fold)

theorem writeReg_inv {f q} {x0 x1 x2 x3} (hx3 : Inv f q x3) : Inv f q (writeReg x0 x1 x2 x3) := by
  unfold writeReg; with_reducible repeat' first | intro _ | assumption | apply hostWake_inv | apply holeDrop_inv | apply lockDrop_inv | apply putTask_inv | apply writeCode_inv | apply rsvDrop_inv | apply pairWrite_inv | apply lateDoorbell_inv | apply applyWrite_inv | rfl | apply inv_ite | apply inv_id | apply invR_ite | apply inv_next | apply inv_ite_fst | apply inv_ite_snd | apply inv_foldl | apply inv_foldl_fst | apply inv_foldl_snd | split | dsimp only | (unfold Inv; dsimp only; apply inv_fold)

theorem narrowWrite_inv {f q} {x0 x1 x2 x3} (hx3 : Inv f q x3) : Inv f q (narrowWrite x0 x1 x2 x3) := by
  unfold narrowWrite; with_reducible repeat' first | assumption | apply inv_ite | apply hostWake_inv | apply holeDrop_inv | apply lockDrop_inv

theorem writeMemBytes_inv {f q} {x0 x1 x2 x3} (hx3 : Inv f q x3) : Inv f q (writeMemBytes x0 x1 x2 x3) := by
  unfold writeMemBytes; with_reducible repeat' first | intro _ | assumption | apply hostWake_inv | apply lockDrop_inv | apply portAsk_inv | rfl | apply inv_ite | apply inv_id | apply invR_ite | apply inv_next | apply inv_ite_fst | apply inv_ite_snd | apply inv_foldl | apply inv_foldl_fst | apply inv_foldl_snd | split | dsimp only | (unfold Inv; dsimp only; apply inv_fold)

theorem writeDw_inv {f q} {x0 x1 x2 x3} (hx3 : Inv f q x3) : Inv f q (writeDw x0 x1 x2 x3) := by
  unfold writeDw; with_reducible repeat' first | assumption | apply inv_ite | apply writeMemBytes_inv | apply writeReg_inv

theorem writeBe_inv {f q} {x0 x1 x2 x3 x4} (hx4 : Inv f q x4) : Inv f q (writeBe x0 x1 x2 x3 x4) := by
  unfold writeBe; with_reducible repeat' first | assumption | apply inv_ite | apply writeDw_inv | apply narrowWrite_inv

theorem readBe_inv {f q} {x0 x1 x2 x3} (hx3 : Inv f q x3) : Inv f q (readBe x0 x1 x2 x3).2 := by
  unfold readBe; with_reducible repeat' first | assumption | apply readDw_inv | apply freshWord_inv | split

/-! ### Draft.lean -/

theorem loadCode_inv {f q} {x0 x1 x2} (hx2 : Inv f q x2) : Inv f q (loadCode x0 x1 x2) := by
  unfold loadCode; with_reducible repeat' first | intro _ | assumption | apply forEach_inv | split | dsimp only | (unfold Inv; dsimp only; apply inv_fold)

theorem loadTasks_inv {f q} {x0 x1 x2} (hx2 : Inv f q x2) : Inv f q (loadTasks x0 x1 x2) := by
  unfold loadTasks; with_reducible repeat' first | intro _ | assumption | apply forEach_inv | apply putTask_inv | rfl | apply inv_ite | apply inv_id | apply invR_ite | apply inv_next | apply inv_ite_fst | apply inv_ite_snd | apply inv_foldl | apply inv_foldl_fst | apply inv_foldl_snd | split | dsimp only | (unfold Inv; dsimp only; apply inv_fold)

theorem loadPattern_inv {f q} {x0 x1 x2} (hx2 : Inv f q x2) : Inv f q (loadPattern x0 x1 x2) := by
  unfold loadPattern; with_reducible repeat' first | intro _ | assumption | apply forEach_inv | apply writeBytes_inv

theorem loadHedBank_inv {f q} {x0 x1 x2 x3} (hx3 : Inv f q x3) : Inv f q (loadHedBank x0 x1 x2 x3) := by
  unfold loadHedBank; with_reducible repeat' first | intro _ | assumption | apply forEach_inv | apply rset_inv | apply modHed_inv

theorem stageCards_inv {f q} {x0 x1 x2} (hx2 : Inv f q x2) : Inv f q (stageCards x0 x1 x2).2 := by
  unfold stageCards; with_reducible repeat' first | intro _ | assumption | rfl | apply inv_ite | apply inv_id | apply invR_ite | apply inv_next | apply inv_ite_fst | apply inv_ite_snd | apply takeFree_inv | apply modSlot_inv | apply forEach_inv | apply setCardWord_inv | apply inv_foldl | apply inv_foldl_fst | apply inv_foldl_snd | split | dsimp only | (unfold Inv; dsimp only; apply inv_fold)

theorem armStaged_inv {f q} {x0 x1} (hx1 : Inv f q x1) : Inv f q (armStaged x0 x1) := by
  unfold armStaged; with_reducible repeat' first | intro _ | assumption | apply inv_ite | apply forEach_inv | apply modSlot_inv | apply holdDisarm_inv | apply armAngleRel_inv | apply setCardWord_inv | apply armCard_inv

theorem draftRegs_inv {f q} {x0 x1} (hx1 : Inv f q x1) : Inv f q (draftRegs x0 x1) := by
  unfold draftRegs; with_reducible repeat' first | assumption | apply rset_inv | apply setf_inv

theorem inForce_inv {f q} {x0 x1} (hx1 : Inv f q x1) : Inv f q (inForce x0 x1) :=
  inv_of hx1 rfl rfl rfl rfl

theorem asIdle_inv {f q} {x0} (hx0 : Inv f q x0) : Inv f q (asIdle x0) := by
  unfold asIdle; with_reducible repeat' first | assumption | apply setf_inv

theorem loadWrite_inv {f q} {x0 x1 x2} (hx2 : Inv f q x2) : Inv f q (loadWrite x0 x1 x2) := by
  unfold loadWrite; with_reducible repeat' first | intro _ | assumption | apply when__inv | apply asIdle_inv | apply lockDrop_inv | apply pairWrite_inv | apply applyWrite_inv | rfl | apply inv_ite | apply inv_id | apply invR_ite | apply inv_next | apply inv_ite_fst | apply inv_ite_snd | apply inv_foldl | apply inv_foldl_fst | apply inv_foldl_snd | split | dsimp only | (unfold Inv; dsimp only; apply inv_fold)

theorem loadPins_inv {f q} {x0 x1} (hx1 : Inv f q x1) : Inv f q (loadPins x0 x1) := by
  unfold loadPins; with_reducible repeat' first | intro _ | assumption | apply inv_ite | apply takeOwners_inv | apply forEach_inv | apply storeWord_inv

theorem putChanged_inv {f q} {x0 x1 x2} (hx2 : Inv f q x2) : Inv f q (putChanged x0 x1 x2) := by
  unfold putChanged; with_reducible repeat' first | assumption | apply inv_ite | apply applyWrite_inv

theorem putReeds_inv {f q} {x0 x1 x2} (hx2 : Inv f q x2) : Inv f q (putReeds x0 x1 x2) := by
  unfold putReeds; with_reducible repeat' first | intro _ | assumption | apply forEach_inv | apply applyWrite_inv | apply putChanged_inv | rfl | apply inv_ite | apply inv_id | apply invR_ite | apply inv_next | apply inv_ite_fst | apply inv_ite_snd | apply inv_foldl | apply inv_foldl_fst | apply inv_foldl_snd | split | dsimp only | (unfold Inv; dsimp only; apply inv_fold)

theorem loadReeds_inv {f q} {x0 x1 x2} (hx2 : Inv f q x2) : Inv f q (loadReeds x0 x1 x2) := by
  unfold loadReeds; with_reducible repeat' first | intro _ | assumption | apply putReeds_inv | rfl | apply inv_ite | apply inv_id | apply invR_ite | apply inv_next | apply inv_ite_fst | apply inv_ite_snd | apply inv_foldl | apply inv_foldl_fst | apply inv_foldl_snd | split | dsimp only | (unfold Inv; dsimp only; apply inv_fold)

theorem loadReedsAll_inv {f q} {x0 x1 x2} (hx2 : Inv f q x2) : Inv f q (loadReedsAll x0 x1 x2) := by
  unfold loadReedsAll; with_reducible repeat' first | intro _ | assumption | apply putReeds_inv | rfl | apply inv_ite | apply inv_id | apply invR_ite | apply inv_next | apply inv_ite_fst | apply inv_ite_snd | apply inv_foldl | apply inv_foldl_fst | apply inv_foldl_snd | split | dsimp only | (unfold Inv; dsimp only; apply inv_fold)

theorem loadFault_inv {f q} {x0 x1} (hx1 : Inv f q x1) : Inv f q (loadFault x0 x1) := by
  unfold loadFault; with_reducible repeat' first | intro _ | assumption | apply storeWord_inv | apply forEach_inv | split

theorem loadPower_inv {f q} {x0 x1} (hx1 : Inv f q x1) : Inv f q (loadPower x0 x1) := by
  unfold loadPower; with_reducible repeat' first | assumption | apply cmpModesSet_inv | apply storeWord_inv | split

theorem loadDraft_inv {f q} {x0 x1} (hx1 : Inv f q x1) : Inv f q (loadDraft x0 x1) := by
  unfold loadDraft; with_reducible repeat' first | intro _ | assumption | apply forEach_inv | apply setf_inv | apply modShed_inv | apply setb_inv | apply loadPins_inv | apply loadWrite_inv | apply loadReedsAll_inv | apply loadPower_inv | apply loadFault_inv | apply loadTasks_inv | apply loadCode_inv | apply loadHedBank_inv | apply loadPattern_inv | apply stageCards_inv | apply inForce_inv | apply armStaged_inv | rfl | apply inv_ite | apply inv_id | apply invR_ite | apply inv_next | apply inv_ite_fst | apply inv_ite_snd | apply inv_foldl | apply inv_foldl_fst | apply inv_foldl_snd | split | dsimp only | (unfold Inv; dsimp only; apply inv_fold)

theorem verifyBegin_inv {f q} {x0 x1} (hx1 : Inv f q x1) : Inv f q (verifyBegin x0 x1) := by
  unfold verifyBegin; with_reducible repeat' first | intro _ | assumption | apply when__inv | apply discardStaged_inv | apply setb_inv | apply setStage_inv | split | dsimp only | (unfold Inv; dsimp only; apply inv_fold)

theorem stageDraft_inv {f q} {x0} (hx0 : Inv f q x0) : Inv f q (stageDraft x0) := by
  unfold stageDraft; with_reducible repeat' first | intro _ | assumption | apply loadTasks_inv | apply loadCode_inv | apply loadPattern_inv | apply forEach_inv | apply modHed_inv | apply loadHedBank_inv | apply stageCards_inv | apply rset_inv | apply setf_inv | apply setStage_inv | apply setb_inv | split | dsimp only | (unfold Inv; dsimp only; apply inv_fold)

theorem noteRegion_inv {f q} {x0 x1 x2} (hx2 : Inv f q x2) : Inv f q (noteRegion x0 x1 x2) := by
  unfold noteRegion; with_reducible repeat' first | intro _ | assumption | apply modTack_inv | rfl | apply inv_ite | apply inv_id | apply invR_ite | apply inv_next | apply inv_ite_fst | apply inv_ite_snd | apply inv_foldl | apply inv_foldl_fst | apply inv_foldl_snd | split | dsimp only | (unfold Inv; dsimp only; apply inv_fold)

theorem verifyOp_inv {f q} {x0 x1} (hx1 : Inv f q x1) : Inv f q (verifyOp x0 x1).2 := by
  unfold verifyOp; with_reducible repeat' first | intro _ | assumption | apply noteRegion_inv | apply stageDraft_inv | apply setf_inv | apply discardStaged_inv | rfl | apply inv_ite | apply inv_id | apply invR_ite | apply inv_next | apply inv_ite_fst | apply inv_ite_snd | apply inv_foldl | apply inv_foldl_fst | apply inv_foldl_snd | split | dsimp only | (unfold Inv; dsimp only; apply inv_fold)

theorem applyCtl_inv {f q} {x0 x1 x2} (hx2 : Inv f q x2) : Inv f q (applyCtl x0 x1 x2) := by
  unfold applyCtl; with_reducible repeat' first | assumption | apply inv_ite | apply rset_inv | apply chCtlWrite_inv

theorem applyRegs_inv {f q} {x0 x1 x2} (hx2 : Inv f q x2) : Inv f q (applyRegs x0 x1 x2) := by
  unfold applyRegs; with_reducible repeat' first | intro _ | assumption | apply forEach_inv | apply modCh_inv | apply applyCtl_inv | apply writeEvcfg_inv | apply rset_inv | apply setb_inv | apply setf_inv | apply setArmed_inv | apply writeStaged_inv | rfl | apply inv_ite | apply inv_id | apply invR_ite | apply inv_next | apply inv_ite_fst | apply inv_ite_snd | apply inv_foldl | apply inv_foldl_fst | apply inv_foldl_snd | split | dsimp only | (unfold Inv; dsimp only; apply inv_fold)

theorem applyWrap_inv {f q} {x0 x1} (hx1 : Inv f q x1) : Inv f q (applyWrap x0 x1) := by
  unfold applyWrap; with_reducible repeat' first | assumption | apply inv_ite | apply when__inv | apply setb_inv | apply modCh_inv | apply chEvent_inv

theorem appliedOne_inv {f q} {x0 x1 x2} (hx2 : Inv f q x2) : Inv f q (appliedOne x0 x1 x2) := by
  unfold appliedOne; with_reducible repeat' first | intro _ | assumption | apply loadReeds_inv | split | dsimp only | (unfold Inv; dsimp only; apply inv_fold)

theorem channelApply_inv {f q} {x0 x1} (hx1 : Inv f q x1) : Inv f q (channelApply x0 x1) := by
  unfold channelApply; with_reducible repeat' first | assumption | apply appliedOne_inv | apply applyRegs_inv | apply applyWrap_inv | split

theorem forceOff_inv {f q} {x0 x1} (hx1 : Inv f q x1) : Inv f q (forceOff x0 x1) := by
  unfold forceOff; with_reducible repeat' first | intro _ | assumption | apply forEach_inv | apply when__inv | apply setb_inv | apply noteSwitch_inv | apply setOut_inv | rfl | apply inv_ite | apply inv_id | apply invR_ite | apply inv_next | apply inv_ite_fst | apply inv_ite_snd | apply inv_foldl | apply inv_foldl_fst | apply inv_foldl_snd | split | dsimp only | (unfold Inv; dsimp only; apply inv_fold)

theorem channelForce_inv {f q} {x0 x1} (hx1 : Inv f q x1) : Inv f q (channelForce x0 x1) := by
  unfold channelForce; with_reducible repeat' first | intro _ | assumption | apply forEach_inv | apply freeSlot_inv | apply cardRecord_inv | apply forceOff_inv | apply modCh_inv | apply setb_inv | apply count_inv | apply logCause_inv | apply appliedOne_inv | apply applyRegs_inv | rfl | apply inv_ite | apply inv_id | apply invR_ite | apply inv_next | apply inv_ite_fst | apply inv_ite_snd | apply inv_foldl | apply inv_foldl_fst | apply inv_foldl_snd | split | dsimp only | (unfold Inv; dsimp only; apply inv_fold)

theorem discardOld_inv {f q} {x0 x1} (hx1 : Inv f q x1) : Inv f q (discardOld x0 x1) := by
  unfold discardOld; with_reducible repeat' first | intro _ | assumption | apply forEach_inv | apply freeSlot_inv | apply cardRecord_inv

theorem swapsBegin_inv {f q} {x0 x1} (hx1 : Inv f q x1) : Inv f q (swapsBegin x0 x1) := by
  unfold swapsBegin; with_reducible repeat' first | intro _ | assumption | apply forEach_inv | apply when__inv | apply modHed_inv | apply setb_inv | apply swapStopped_inv | apply swapLater_inv | rfl | apply inv_ite | apply inv_id | apply invR_ite | apply inv_next | apply inv_ite_fst | apply inv_ite_snd | apply inv_foldl | apply inv_foldl_fst | apply inv_foldl_snd | split | dsimp only | (unfold Inv; dsimp only; apply inv_fold)

theorem switchRegs_inv {f q} {x0 x1} (hx1 : Inv f q x1) : Inv f q (switchRegs x0 x1) := by
  unfold switchRegs; with_reducible repeat' first | intro _ | assumption | apply forEach_inv | apply putChanged_inv | split

theorem switchHitless_inv {f q} {x0 x1} (hx1 : Inv f q x1) : Inv f q (switchHitless x0 x1) := by
  unfold switchHitless; with_reducible repeat' first | intro _ | assumption | apply modShed_inv | apply setf_inv | apply armStaged_inv | apply discardOld_inv | apply swapsBegin_inv | apply loadPins_inv | apply loadPower_inv | apply loadFault_inv | apply switchRegs_inv | apply inForce_inv | apply forEach_inv | apply channelApply_inv | split | dsimp only | (unfold Inv; dsimp only; apply inv_fold)

theorem switchCold_inv {f q} {x0} (hx0 : Inv f q x0) : Inv f q (switchCold x0) := by
  unfold switchCold; with_reducible repeat' first | intro _ | assumption | apply forEach_inv | apply freeSlot_inv | apply cardRecord_inv | apply endOutput_inv | apply engHolds_inv | apply setMode_inv | split | dsimp only | (unfold Inv; dsimp only; apply inv_fold)

theorem switchOp_inv {f q} {x0} (hx0 : Inv f q x0) : Inv f q (switchOp x0) := by
  unfold switchOp; with_reducible repeat' first | intro _ | assumption | apply set64_inv | apply setStage_inv | apply schedule_inv | apply switchHitless_inv | apply switchCold_inv | rfl | apply inv_ite | apply inv_id | apply invR_ite | apply inv_next | apply inv_ite_fst | apply inv_ite_snd | apply inv_foldl | apply inv_foldl_fst | apply inv_foldl_snd | split | dsimp only | (unfold Inv; dsimp only; apply inv_fold)

theorem switchInstantOp_inv {f q} {x0} (hx0 : Inv f q x0) : Inv f q (switchInstantOp x0) := by
  unfold switchInstantOp; with_reducible repeat' first | assumption | apply inv_ite | apply lineAbort_inv | apply switchOp_inv

theorem applyAtTick_inv {f q} {x0 x1} (hx1 : Inv f q x1) : Inv f q (applyAtTick x0 x1) := by
  unfold applyAtTick; with_reducible repeat' first | intro _ | assumption | apply forEach_inv | apply when__inv | apply channelApply_inv | rfl | apply inv_ite | apply inv_id | apply invR_ite | apply inv_next | apply inv_ite_fst | apply inv_ite_snd | apply inv_foldl | apply inv_foldl_fst | apply inv_foldl_snd | split | dsimp only | (unfold Inv; dsimp only; apply inv_fold)

theorem applyReady_inv {f q} {x0} (hx0 : Inv f q x0) : Inv f q (applyReady x0) := by
  unfold applyReady; with_reducible repeat' first | intro _ | assumption | apply forEach_inv | apply when__inv | apply channelApply_inv | rfl | apply inv_ite | apply inv_id | apply invR_ite | apply inv_next | apply inv_ite_fst | apply inv_ite_snd | apply inv_foldl | apply inv_foldl_fst | apply inv_foldl_snd | split | dsimp only | (unfold Inv; dsimp only; apply inv_fold)

theorem drainOp_inv {f q} {x0} (hx0 : Inv f q x0) : Inv f q (drainOp x0) := by
  unfold drainOp; with_reducible repeat' first | intro _ | assumption | apply forEach_inv | apply when__inv | apply channelForce_inv | rfl | apply inv_ite | apply inv_id | apply invR_ite | apply inv_next | apply inv_ite_fst | apply inv_ite_snd | apply inv_foldl | apply inv_foldl_fst | apply inv_foldl_snd | split | dsimp only | (unfold Inv; dsimp only; apply inv_fold)

theorem commitBegin_inv {f q} {x0} (hx0 : Inv f q x0) : Inv f q (commitBegin x0) :=
  inv_of hx0 rfl rfl rfl rfl

theorem chgEnd_inv {f q} {x0} (hx0 : Inv f q x0) : Inv f q (chgEnd x0) := by
  unfold chgEnd; with_reducible repeat' first | assumption | apply inv_ite | apply commitBegin_inv | apply enterMode_inv

theorem chgCycle_inv {f q} {x0} (hx0 : Inv f q x0) : Inv f q (chgCycle x0) := by
  unfold chgCycle; with_reducible repeat' first | intro _ | assumption | apply when__inv | apply switchInstantOp_inv | apply applyReady_inv | apply chgEnd_inv | rfl | apply inv_ite | apply inv_id | apply invR_ite | apply inv_next | apply inv_ite_fst | apply inv_ite_snd | apply inv_foldl | apply inv_foldl_fst | apply inv_foldl_snd | split | dsimp only | (unfold Inv; dsimp only; apply inv_fold)

theorem dropOldTasks_inv {f q} {x0} (hx0 : Inv f q x0) : Inv f q (dropOldTasks x0) := by
  unfold dropOldTasks; with_reducible repeat' first | intro _ | assumption | apply forEach_inv | apply skipTask_inv | apply modShed_inv | apply expPendSts_inv | rfl | apply inv_ite | apply inv_id | apply invR_ite | apply inv_next | apply inv_ite_fst | apply inv_ite_snd | apply inv_foldl | apply inv_foldl_fst | apply inv_foldl_snd | split | dsimp only | (unfold Inv; dsimp only; apply inv_fold)

theorem coldStop_inv {f q} {x0 x1} (hx1 : Inv f q x1) : Inv f q (coldStop x0 x1) := by
  unfold coldStop; with_reducible repeat' first | intro _ | assumption | apply applyWrite_inv | rfl | apply inv_ite | apply inv_id | apply invR_ite | apply inv_next | apply inv_ite_fst | apply inv_ite_snd | apply inv_foldl | apply inv_foldl_fst | apply inv_foldl_snd | split | dsimp only | (unfold Inv; dsimp only; apply inv_fold)

theorem coldApply_inv {f q} {x0} (hx0 : Inv f q x0) : Inv f q (coldApply x0) := by
  unfold coldApply; with_reducible repeat' first | intro _ | assumption | apply forEach_inv | apply dropOldTasks_inv | apply freeSlot_inv | apply modCtx_inv | apply setb_inv | apply modShu_inv | apply modEng_inv | apply setEsts_inv | apply loadDraft_inv | apply coldStop_inv | apply applyWrite_inv | apply modHed_inv | apply commitBegin_inv | apply engHolds_inv | rfl | apply inv_ite | apply inv_id | apply invR_ite | apply inv_next | apply inv_ite_fst | apply inv_ite_snd | apply inv_foldl | apply inv_foldl_fst | apply inv_foldl_snd | split | dsimp only | (unfold Inv; dsimp only; apply inv_fold)

theorem commitOpSlots_inv {f q} {x0} (hx0 : Inv f q x0) : Inv f q (commitOpSlots x0) := by
  unfold commitOpSlots; with_reducible repeat' first | assumption | apply modTack_inv | apply commitCopy_inv | apply setb_inv | apply setStage_inv

/-! ### Time.lean -/

theorem liveItem_inv {f q} {x0 x1 x2 x3} (hx3 : Inv f q x3) : Inv f q (liveItem x0 x1 x2 x3).2 := by
  unfold liveItem; with_reducible repeat' first | assumption | apply modCtx_inv | split

theorem chrItem_inv {f q} {x0 x1 x2 x3} (hx3 : Inv f q x3) : Inv f q (chrItem x0 x1 x2 x3).2 := by
  unfold chrItem; with_reducible repeat' first | assumption | apply capReadOp_inv | apply dropEffect_inv | split

theorem sampleSlot_inv {f q} {x0 x1 x2 x3} (hx3 : Inv f q x3) : Inv f q (sampleSlot x0 x1 x2 x3) := by
  unfold sampleSlot; with_reducible repeat' first | assumption | apply modCtx_inv | apply liveItem_inv | apply chrItem_inv | split

theorem harnTickOp_inv {f q} {x0 x1} (hx1 : Inv f q x1) : Inv f q (harnTickOp x0 x1) := by
  unfold harnTickOp; with_reducible repeat' first | intro _ | assumption | apply applyAtTick_inv | apply harnTick_inv | apply modHarn_inv | rfl | apply inv_ite | apply inv_id | apply invR_ite | apply inv_next | apply inv_ite_fst | apply inv_ite_snd | apply inv_foldl | apply inv_foldl_fst | apply inv_foldl_snd | split | dsimp only | (unfold Inv; dsimp only; apply inv_fold)

theorem tickFirst_inv {f q} {x0 x1} (hx1 : Inv f q x1) : Inv f q (tickFirst x0 x1) := by
  unfold tickFirst; with_reducible repeat' first | intro _ | assumption | apply harnTickOp_inv | rfl | apply inv_ite | apply inv_id | apply invR_ite | apply inv_next | apply inv_ite_fst | apply inv_ite_snd | apply inv_foldl | apply inv_foldl_fst | apply inv_foldl_snd | split | dsimp only | (unfold Inv; dsimp only; apply inv_fold)

theorem ticksFirst_inv {f q} {x0} (hx0 : Inv f q x0) : Inv f q (ticksFirst x0) := by
  unfold ticksFirst; with_reducible repeat' first | intro _ | assumption | apply forEach_inv | apply tickFirst_inv | rfl | apply inv_ite | apply inv_id | apply invR_ite | apply inv_next | apply inv_ite_fst | apply inv_ite_snd | apply inv_foldl | apply inv_foldl_fst | apply inv_foldl_snd | split | dsimp only | (unfold Inv; dsimp only; apply inv_fold)

theorem modCal_inv {f q} {x0 x1 x2 x3} (hx3 : Inv f q x3) : Inv f q (modCal x0 x1 x2 x3) := by
  unfold modCal; with_reducible repeat' first | intro _ | assumption | apply modReed_inv | rfl | apply inv_ite | apply inv_id | apply invR_ite | apply inv_next | apply inv_ite_fst | apply inv_ite_snd | apply inv_foldl | apply inv_foldl_fst | apply inv_foldl_snd | split | dsimp only | (unfold Inv; dsimp only; apply inv_fold)

theorem calibrate_inv {f q} {x0 x1 x2 x3} (hx3 : Inv f q x3) : Inv f q (calibrate x0 x1 x2 x3) := by
  unfold calibrate; with_reducible repeat' first | intro _ | assumption | apply modCal_inv | apply detect_inv | apply setb_inv | rfl | apply inv_ite | apply inv_id | apply invR_ite | apply inv_next | apply inv_ite_fst | apply inv_ite_snd | apply inv_foldl | apply inv_foldl_fst | apply inv_foldl_snd | split | dsimp only | (unfold Inv; dsimp only; apply inv_fold)

theorem calStepOp_inv {f q} {x0 x1 x2} (hx2 : Inv f q x2) : Inv f q (calStepOp x0 x1 x2) := by
  unfold calStepOp; with_reducible repeat' first | intro _ | assumption | apply when__inv | apply calibrate_inv | rfl | apply inv_ite | apply inv_id | apply invR_ite | apply inv_next | apply inv_ite_fst | apply inv_ite_snd | apply inv_foldl | apply inv_foldl_fst | apply inv_foldl_snd | split | dsimp only | (unfold Inv; dsimp only; apply inv_fold)

theorem blankingEndOp_inv {f q} {x0 x1} (hx1 : Inv f q x1) : Inv f q (blankingEndOp x0 x1) := by
  unfold blankingEndOp; with_reducible repeat' first | intro _ | assumption | apply forEach_inv | apply setIgn_inv | apply when__inv | apply tripAct_inv

theorem blankDue_inv {f q} {x0 x1} (hx1 : Inv f q x1) : Inv f q (blankDue x0 x1) := by
  unfold blankDue; with_reducible repeat' first | intro _ | assumption | apply schedule_inv | apply blankingEndOp_inv | rfl | apply inv_ite | apply inv_id | apply invR_ite | apply inv_next | apply inv_ite_fst | apply inv_ite_snd | apply inv_foldl | apply inv_foldl_fst | apply inv_foldl_snd | split | dsimp only | (unfold Inv; dsimp only; apply inv_fold)

theorem sampleDw_inv {f q} {x0 x1 x2 x3 x4} (hx4 : Inv f q x4) : Inv f q (sampleDw x0 x1 x2 x3 x4) := by
  unfold sampleDw; with_reducible repeat' first | intro _ | assumption | apply portAsk_inv | apply readBe_inv | apply spiWord_inv | apply hostWords_inv | rfl | apply inv_ite | apply inv_id | apply invR_ite | apply inv_next | apply inv_ite_fst | apply inv_ite_snd | apply inv_foldl | apply inv_foldl_fst | apply inv_foldl_snd | split | dsimp only | (unfold Inv; dsimp only; apply inv_fold)

theorem edgeLands_inv {f q} {x0 x1 x2 x3} (hx3 : Inv f q x3) : Inv f q (edgeLands x0 x1 x2 x3) := by
  unfold edgeLands; with_reducible repeat' first | intro _ | assumption | apply edgeLandOp_inv | apply trackPin_inv | apply pinLatches_inv | rfl | apply inv_ite | apply inv_id | apply invR_ite | apply inv_next | apply inv_ite_fst | apply inv_ite_snd | apply inv_foldl | apply inv_foldl_fst | apply inv_foldl_snd | split | dsimp only | (unfold Inv; dsimp only; apply inv_fold)

theorem arrive_inv {f q} {x0 x1} (hx1 : Inv f q x1) : Inv f q (arrive x0 x1) := by
  unfold arrive; with_reducible repeat' first | intro _ | assumption | apply when__inv | apply raiseArrivalOp_inv | apply hedTrigArrive_inv | apply adcTriggerOp_inv | apply latchArrive_inv | apply frameArrive_inv | rfl | apply inv_ite | apply inv_id | apply invR_ite | apply inv_next | apply inv_ite_fst | apply inv_ite_snd | apply inv_foldl | apply inv_foldl_fst | apply inv_foldl_snd | split | dsimp only | (unfold Inv; dsimp only; apply inv_fold)

theorem performTimed_inv {f q} {x0 x1} (hx1 : Inv f q x1) : Inv f q (performTimed x0 x1) := by
  unfold performTimed; with_reducible repeat' first | intro _ | assumption | apply when__inv | apply edgeLands_inv | apply channelEdge_inv | apply angleEndNow_inv | apply presentOp_inv | apply tripJudgeOp_inv | apply tripCutOp_inv | apply periodOp_inv | apply blankDue_inv | apply calStepOp_inv | apply captureEnd_inv | apply sampleSlot_inv | apply posLandOp_inv | apply takeLatch_inv | apply judgeEdge_inv | apply stallEnd_inv | apply frameOver_inv | apply wordDueOp_inv | apply latchEnd_inv | apply bobBegin_inv | apply mtSet_inv | apply mtFinish_inv | apply effDueOp_inv | apply expressDueOp_inv | apply placeDue_inv | apply nearFill_inv | apply dispatch_inv | apply dispatchDue_inv | apply grantOp_inv | apply commitDone_inv | apply deliverOp_inv | apply vecJudge_inv | apply arrive_inv | apply hedHaltNow_inv | apply swapTimeout_inv | apply writeBackOp_inv | apply drainOp_inv | apply ringTimeoutDue_inv | apply lineTimeoutOp_inv | apply portMeasureDue_inv | apply wakeDone_inv | apply writeBe_inv | apply sampleDw_inv | rfl | apply inv_ite | apply inv_id | apply invR_ite | apply inv_next | apply inv_ite_fst | apply inv_ite_snd | apply inv_foldl | apply inv_foldl_fst | apply inv_foldl_snd | split | dsimp only | (unfold Inv; dsimp only; apply inv_fold)

theorem performIf_inv {f q} {x0 x1} (hx1 : Inv f q x1) : Inv f q (performIf x0 x1) := by
  unfold performIf; with_reducible repeat' first | intro _ | assumption | apply forEach_inv | apply performTimed_inv | rfl | apply inv_ite | apply inv_id | apply invR_ite | apply inv_next | apply inv_ite_fst | apply inv_ite_snd | apply inv_foldl | apply inv_foldl_fst | apply inv_foldl_snd | split | dsimp only | (unfold Inv; dsimp only; apply inv_fold)

theorem performDue_inv {f q} {x0} (hx0 : Inv f q x0) : Inv f q (performDue x0) := by
  unfold performDue; with_reducible repeat' first | intro _ | assumption | apply performIf_inv | rfl | apply inv_ite | apply inv_id | apply invR_ite | apply inv_next | apply inv_ite_fst | apply inv_ite_snd | apply inv_foldl | apply inv_foldl_fst | apply inv_foldl_snd | split | dsimp only | (unfold Inv; dsimp only; apply inv_fold)

theorem performAccesses_inv {f q} {x0 x1} (hx1 : Inv f q x1) : Inv f q (performAccesses x0 x1) := by
  unfold performAccesses; with_reducible repeat' first | intro _ | assumption | apply forEach_inv | apply when__inv | apply performIf_inv | apply ticksFirst_inv | rfl | apply inv_ite | apply inv_id | apply invR_ite | apply inv_next | apply inv_ite_fst | apply inv_ite_snd | apply inv_foldl | apply inv_foldl_fst | apply inv_foldl_snd | split | dsimp only | (unfold Inv; dsimp only; apply inv_fold)

theorem endCycle_inv {f q} {x0} (hx0 : Inv f q x0) : Inv f q (endCycle x0) := by
  unfold endCycle; with_reducible repeat' first | intro _ | assumption | apply chgCycle_inv | apply performIf_inv | apply performAccesses_inv | rfl | apply inv_ite | apply inv_id | apply invR_ite | apply inv_next | apply inv_ite_fst | apply inv_ite_snd | apply inv_foldl | apply inv_foldl_fst | apply inv_foldl_snd | split | dsimp only | (unfold Inv; dsimp only; apply inv_fold)

theorem takeTurn_inv {f q} {x0 x1} (hx1 : Inv f q x1) : Inv f q (takeTurn x0 x1) := by
  unfold takeTurn; with_reducible repeat' first | intro _ | assumption | apply modCyc_inv | apply performAccesses_inv | apply ticksFirst_inv | rfl | apply inv_ite | apply inv_id | apply invR_ite | apply inv_next | apply inv_ite_fst | apply inv_ite_snd | apply inv_foldl | apply inv_foldl_fst | apply inv_foldl_snd | split | dsimp only | (unfold Inv; dsimp only; apply inv_fold)

theorem nearFullCycles_inv {f q} {x0 x1} (hx1 : Inv f q x1) : Inv f q (nearFullCycles x0 x1) := by
  unfold nearFullCycles; with_reducible repeat' first | intro _ | assumption | apply when__inv | apply countN_inv | rfl | apply inv_ite | apply inv_id | apply invR_ite | apply inv_next | apply inv_ite_fst | apply inv_ite_snd | apply inv_foldl | apply inv_foldl_fst | apply inv_foldl_snd | split | dsimp only | (unfold Inv; dsimp only; apply inv_fold)

theorem passTo_inv {f q} {x0 x1 x2} (hx2 : Inv f q x2) : Inv f q (passTo x0 x1 x2) := by
  unfold passTo; with_reducible repeat' first | intro _ | assumption | apply nearFullCycles_inv | apply powerSnap_inv | apply bobSnap_inv | rfl | apply inv_ite | apply inv_id | apply invR_ite | apply inv_next | apply inv_ite_fst | apply inv_ite_snd | apply inv_foldl | apply inv_foldl_fst | apply inv_foldl_snd | split | dsimp only | (unfold Inv; dsimp only; apply inv_fold)

theorem shiftLoom_inv {f q} {x0 x1} (hx1 : Inv f q x1) : Inv f q (shiftLoom x0 x1) := by
  unfold shiftLoom; with_reducible repeat' first | intro _ | assumption | rfl | apply inv_ite | apply inv_id | apply invR_ite | apply inv_next | apply inv_ite_fst | apply inv_ite_snd | apply inv_foldl | apply inv_foldl_fst | apply inv_foldl_snd | split | dsimp only | (unfold Inv; dsimp only; apply inv_fold)

theorem skipTicks_inv {f q} {x0 x1} (hx1 : Inv f q x1) : Inv f q (skipTicks x0 x1) := by
  unfold skipTicks; with_reducible repeat' first | intro _ | assumption | rfl | apply inv_ite | apply inv_id | apply invR_ite | apply inv_next | apply inv_ite_fst | apply inv_ite_snd | apply inv_foldl | apply inv_foldl_fst | apply inv_foldl_snd | split | dsimp only | (unfold Inv; dsimp only; apply inv_fold)

theorem heldCycle_inv {f q} {x0} (hx0 : Inv f q x0) : Inv f q (heldCycle x0) := by
  unfold heldCycle; with_reducible repeat' first | intro _ | assumption | apply nearFullCycles_inv | apply shiftLoom_inv | apply endCycle_inv | apply performDue_inv | rfl | apply inv_ite | apply inv_id | apply invR_ite | apply inv_next | apply inv_ite_fst | apply inv_ite_snd | apply inv_foldl | apply inv_foldl_fst | apply inv_foldl_snd | split | dsimp only | (unfold Inv; dsimp only; apply inv_fold)

theorem passNext_inv {f q} {x0 x1} (hx1 : Inv f q x1) : Inv f q (passNext x0 x1) := by
  unfold passNext; with_reducible repeat' first | intro _ | assumption | apply heldCycle_inv | apply endCycle_inv | apply skipTicks_inv | apply shiftLoom_inv | apply passTo_inv | apply performDue_inv | rfl | apply inv_ite | apply inv_id | apply invR_ite | apply inv_next | apply inv_ite_fst | apply inv_ite_snd | apply inv_foldl | apply inv_foldl_fst | apply inv_foldl_snd | split | dsimp only | (unfold Inv; dsimp only; apply inv_fold)

theorem passUntil_inv {f q} {x0 x1 x2} (hx2 : Inv f q x2) : Inv f q (passUntil x0 x1 x2) := by
  induction x0 generalizing x2 with
  | zero => exact hx2
  | succ n ih =>
    unfold passUntil
    split
    · exact hx2
    · split
      · exact deviceReset_inv hx2
      · exact ih (passNext_inv hx2)

theorem advanceTo_inv {f q} {x0 x1} (hx1 : Inv f q x1) : Inv f q (advanceTo x0 x1) := by
  unfold advanceTo; with_reducible repeat' first | assumption | apply inv_ite | apply passUntil_inv

theorem idleCycle_inv {f q} {x0} (hx0 : Inv f q x0) : Inv f q (idleCycle x0) := by
  unfold idleCycle; with_reducible repeat' first | intro _ | assumption | apply heldCycle_inv | apply advanceTo_inv | rfl | apply inv_ite | apply inv_id | apply invR_ite | apply inv_next | apply inv_ite_fst | apply inv_ite_snd | apply inv_foldl | apply inv_foldl_fst | apply inv_foldl_snd | split | dsimp only | (unfold Inv; dsimp only; apply inv_fold)

theorem atTime_inv {f q} {x0 x1 x2 x3} (hx2 : ∀ y0, Inv f q y0 → Inv f q (x2 y0)) (hx3 : Inv f q x3) : InvR f q (atTime x0 x1 x2 x3) := by
  unfold atTime; with_reducible repeat' first | assumption | apply inv_ite | apply hx2 | apply advanceTo_inv | apply settle_inv | apply inv_next

theorem nowIf_inv {f q} {x0 x1 x2} (hx1 : ∀ y0, Inv f q y0 → Inv f q (x1 y0)) (hx2 : Inv f q x2) : InvR f q (nowIf x0 x1 x2) := by
  unfold nowIf; with_reducible repeat' first | assumption | apply inv_ite | apply hx1 | apply settle_inv | apply inv_next

theorem atOpt_inv {f q} {x0 x1 x2 x3} (hx2 : ∀ y0, Inv f q y0 → Inv f q (x2 y0)) (hx3 : Inv f q x3) : InvR f q (atOpt x0 x1 x2 x3) := by
  unfold atOpt; with_reducible repeat' first | assumption | apply hx2 | apply atTime_inv | apply inv_next | split

/-! ### Register.lean -/

theorem accessCmd_inv {f q} {x0 x1 x2} (hx1 : ∀ a, Inv f q a → Inv f q (x1 a)) (hx2 : Inv f q x2) : InvR f q (accessCmd x0 x1 x2) := by
  unfold accessCmd; with_reducible repeat' first | intro _ | assumption | apply atTime_inv | apply takeTurn_inv | apply hx1 | rfl | apply inv_ite | apply inv_id | apply invR_ite | apply inv_next | apply inv_ite_fst | apply inv_ite_snd | apply inv_foldl | apply inv_foldl_fst | apply inv_foldl_snd | split | dsimp only | (unfold Inv; dsimp only; apply inv_fold)

theorem writeCmd_inv {f q} {x0 x1 x2 x3} (hx3 : Inv f q x3) : InvR f q (writeCmd x0 x1 x2 x3) := by
  unfold writeCmd; with_reducible repeat' first | assumption | apply accessCmd_inv | apply writeReg_inv | apply inv_next

theorem readWordOp_inv {f q} {x0 x1 x2} (hx2 : Inv f q x2) : Inv f q (readWordOp x0 x1 x2) := by
  unfold readWordOp; with_reducible repeat' first | intro _ | assumption | apply readDw_inv | split | dsimp only | (unfold Inv; dsimp only; apply inv_fold)

theorem readCmd_inv {f q} {x0 x1 x2} (hx2 : Inv f q x2) : InvR f q (readCmd x0 x1 x2) := by
  unfold readCmd; with_reducible repeat' first | assumption | apply accessCmd_inv | apply readWordOp_inv | apply inv_next

theorem setBitCmd_inv {f q} {x0 x1 x2 x3} (hx3 : Inv f q x3) : InvR f q (setBitCmd x0 x1 x2 x3) := by
  unfold setBitCmd; with_reducible repeat' first | assumption | apply writeCmd_inv | apply inv_next

theorem clearBitCmd_inv {f q} {x0 x1 x2 x3} (hx3 : Inv f q x3) : InvR f q (clearBitCmd x0 x1 x2 x3) := by
  unfold clearBitCmd; with_reducible repeat' first | assumption | apply writeCmd_inv | apply inv_next

theorem accessWrite_inv {f q} {x0 x1 x2 x3 x4} (hx4 : Inv f q x4) : Inv f q (accessWrite x0 x1 x2 x3 x4) := by
  unfold accessWrite; with_reducible repeat' first | assumption | apply writeMemBytes_inv | apply narrowWrite_inv | apply writeReg_inv | apply schedule_inv | split

theorem execRegisterWrite_inv {f q} {x0 x1 x2 x3 x4} (hx4 : Inv f q x4) : InvR f q (execRegisterWrite x0 x1 x2 x3 x4) := by
  unfold execRegisterWrite; with_reducible repeat' first | assumption | apply accessCmd_inv | apply accessWrite_inv | apply inv_next

theorem execPairLoRead_inv {f q} {x0 x1 x2} (hx2 : Inv f q x2) : InvR f q (execPairLoRead x0 x1 x2) := by
  unfold execPairLoRead; with_reducible repeat' first | assumption | apply readCmd_inv | apply inv_next

theorem execPairLoWrite_inv {f q} {x0 x1 x2 x3} (hx3 : Inv f q x3) : InvR f q (execPairLoWrite x0 x1 x2 x3) := by
  unfold execPairLoWrite; with_reducible repeat' first | assumption | apply writeCmd_inv | apply inv_next

theorem execPairHiWrite_inv {f q} {x0 x1 x2 x3} (hx3 : Inv f q x3) : InvR f q (execPairHiWrite x0 x1 x2 x3) := by
  unfold execPairHiWrite; with_reducible repeat' first | assumption | apply writeCmd_inv | apply inv_next

theorem execTimeLoRead_inv {f q} {x0 x1} (hx1 : Inv f q x1) : InvR f q (execTimeLoRead x0 x1) := by
  unfold execTimeLoRead; with_reducible repeat' first | assumption | apply readCmd_inv | apply inv_next

theorem execCommit_inv {f q} {x0 x1} (hx1 : Inv f q x1) : InvR f q (execCommit x0 x1) := by
  unfold execCommit; with_reducible repeat' first | assumption | apply writeCmd_inv | apply inv_next

theorem execCntClr_inv {f q} {x0 x1} (hx1 : Inv f q x1) : InvR f q (execCntClr x0 x1) := by
  unfold execCntClr; with_reducible repeat' first | assumption | apply setBitCmd_inv | apply inv_next

end Sys2Proof.Machine
end

