-- ==== Sys2Proof/Laws/KeepExec.lean ====
section
/-!
SUPPORT. What every step keeps (`Inv` of Safety.lean): the meaning of every command, one lemma each.
-/

namespace Sys2Proof.Machine

/-! ### ExecShed.lean -/

theorem pickEffect_inv {f q} {x0} (hx0 : Inv f q x0) : Inv f q (pickEffect x0) := by
  unfold pickEffect; with_reducible repeat' first | intro _ | assumption | apply alignPick_inv | apply nearAgain_inv | apply trackPick_inv | apply readbackDeclare_inv | apply pickStartOp_inv | rfl | apply inv_ite | apply inv_id | apply invR_ite | apply inv_next | apply inv_ite_fst | apply inv_ite_snd | apply inv_foldl | apply inv_foldl_fst | apply inv_foldl_snd | split | dsimp only | (unfold Inv; dsimp only; apply inv_fold)

theorem execPickStart_inv {f q} {x0} (hx0 : Inv f q x0) : InvR f q (execPickStart x0) := by
  unfold execPickStart; with_reducible repeat' first | assumption | apply atTime_inv | apply pickEffect_inv | apply inv_next

theorem execScanPoint_inv {f q} {x0} (hx0 : Inv f q x0) : InvR f q (execScanPoint x0) := by
  unfold execScanPoint; with_reducible repeat' first | assumption | apply atTime_inv | apply scanOp_inv | apply inv_next

theorem execTaskStart_inv {f q} {x0 x1} (hx1 : Inv f q x1) : InvR f q (execTaskStart x0 x1) := by
  unfold execTaskStart; with_reducible repeat' first | assumption | apply atTime_inv | apply startTask_inv | apply inv_next

theorem execExpressStart_inv {f q} {x0 x1} (hx1 : Inv f q x1) : InvR f q (execExpressStart x0 x1) := by
  unfold execExpressStart; with_reducible repeat' first | intro _ | assumption | apply atTime_inv | apply expressStartOp_inv | rfl | apply inv_ite | apply inv_id | apply invR_ite | apply inv_next | apply inv_ite_fst | apply inv_ite_snd | apply inv_foldl | apply inv_foldl_fst | apply inv_foldl_snd | split | dsimp only | (unfold Inv; dsimp only; apply inv_fold)

theorem expressLimitOp_inv {f q} {x0 x1} (hx1 : Inv f q x1) : Inv f q (expressLimitOp x0 x1) := by
  unfold expressLimitOp; with_reducible repeat' first | assumption | apply setb_inv | apply when__inv | apply expressEndAt_inv | apply raise_inv

theorem execExpressLimit_inv {f q} {x0 x1} (hx1 : Inv f q x1) : InvR f q (execExpressLimit x0 x1) := by
  unfold execExpressLimit; with_reducible repeat' first | assumption | apply atOpt_inv | apply expressLimitOp_inv | apply inv_next

theorem execContextResume_inv {f q} {x0 x1} (hx1 : Inv f q x1) : InvR f q (execContextResume x0 x1) := by
  unfold execContextResume; with_reducible repeat' first | assumption | apply atOpt_inv | apply resumeNormal_inv | apply inv_next

theorem execShedCntClr_inv {f q} {x0 x1} (hx1 : Inv f q x1) : InvR f q (execShedCntClr x0 x1) := by
  unfold execShedCntClr; with_reducible repeat' first | assumption | apply setBitCmd_inv | apply inv_next

/-! ### ExecShuttle.lean -/

theorem expressSnap_inv {f q} {x0 x1 x2} (hx2 : Inv f q x2) : Inv f q (expressSnap x0 x1 x2) := by
  unfold expressSnap; with_reducible repeat' first | assumption | apply modShu_inv | split

theorem parity_inv {f q} {x0 x1 x2 x3} (hx3 : Inv f q x3) : Inv f q (parity x0 x1 x2 x3) := by
  unfold parity; with_reducible repeat' first | intro _ | assumption | apply modCtx_inv | apply setb_inv | rfl | apply inv_ite | apply inv_id | apply invR_ite | apply inv_next | apply inv_ite_fst | apply inv_ite_snd | apply inv_foldl | apply inv_foldl_fst | apply inv_foldl_snd | split | dsimp only | (unfold Inv; dsimp only; apply inv_fold)

theorem codeFault_inv {f q} {x0 x1} (hx1 : Inv f q x1) : Inv f q (codeFault x0 x1) := by
  unfold codeFault; with_reducible repeat' first | assumption | apply taskFault_inv | apply detect_inv

theorem issue_inv {f q} {x0 x1 x2 x3 x4 x5 x6 x7} (hx6 : ∀ a1 a2, Inv f q a2 → Inv f q (x6 a1 a2)) (hx7 : Inv f q x7) : InvR f q (issue x0 x1 x2 x3 x4 x5 x6 x7) := by
  unfold issue; with_reducible repeat' first | intro _ | assumption | apply advanceTo_inv | apply settle_inv | apply taskFault_inv | apply codeFault_inv | apply parity_inv | apply expressSnap_inv | apply hx6 | rfl | apply inv_ite | apply inv_id | apply invR_ite | apply inv_next | apply inv_ite_fst | apply inv_ite_snd | apply inv_foldl | apply inv_foldl_fst | apply inv_foldl_snd | split | dsimp only | (unfold Inv; dsimp only; apply inv_fold)

theorem residue_inv {f q} {x0 x1 x2} (hx2 : Inv f q x2) : Inv f q (residue x0 x1 x2) := by
  unfold residue; with_reducible repeat' first | assumption | apply inv_ite | apply modCtx_inv | apply setb_inv | apply modFlt_inv

theorem putResult_inv {f q} {x0 x1 x2 x3 x4 x5} (hx5 : Inv f q x5) : Inv f q (putResult x0 x1 x2 x3 x4 x5) := by
  unfold putResult; with_reducible repeat' first | assumption | apply setFlags_inv | apply setG_inv

theorem aluBody_inv {f q} {x0 x1 x2 x3 x4 x5 x6 x7 x8} (hx8 : Inv f q x8) : Inv f q (aluBody x0 x1 x2 x3 x4 x5 x6 x7 x8) := by
  unfold aluBody; with_reducible repeat' first | assumption | apply retire_inv | apply when__inv | apply residue_inv | apply putResult_inv

theorem immBody_inv {f q} {x0 x1 x2 x3 x4 x5 x6 x7} (hx7 : Inv f q x7) : Inv f q (immBody x0 x1 x2 x3 x4 x5 x6 x7) := by
  unfold immBody; with_reducible repeat' first | assumption | apply retire_inv | apply when__inv | apply residue_inv | apply putResult_inv

theorem cmpBody_inv {f q} {x0 x1 x2 x3 x4} (hx4 : Inv f q x4) : Inv f q (cmpBody x0 x1 x2 x3 x4) := by
  unfold cmpBody; with_reducible repeat' first | assumption | apply retire_inv | apply residue_inv | apply setFlags_inv

theorem divBody_inv {f q} {x0 x1 x2 x3 x4 x5 x6} (hx6 : Inv f q x6) : Inv f q (divBody x0 x1 x2 x3 x4 x5 x6) := by
  unfold divBody; with_reducible repeat' first | assumption | apply residue_inv | apply putResult_inv | apply retire_inv | apply modShu_inv

theorem execIll_inv {f q} {x0 x1} (hx1 : Inv f q x1) : InvR f q (execIll x0 x1) := by
  unfold execIll; with_reducible repeat' first | intro _ | assumption | apply issue_inv | apply taskFault_inv | rfl | apply inv_ite | apply inv_id | apply invR_ite | apply inv_next | apply inv_ite_fst | apply inv_ite_snd | apply inv_foldl | apply inv_foldl_fst | apply inv_foldl_snd | split | dsimp only | (unfold Inv; dsimp only; apply inv_fold)

theorem execNop_inv {f q} {x0 x1} (hx1 : Inv f q x1) : InvR f q (execNop x0 x1) := by
  unfold execNop; with_reducible repeat' first | intro _ | assumption | apply issue_inv | apply retire_inv | rfl | apply inv_ite | apply inv_id | apply invR_ite | apply inv_next | apply inv_ite_fst | apply inv_ite_snd | apply inv_foldl | apply inv_foldl_fst | apply inv_foldl_snd | split | dsimp only | (unfold Inv; dsimp only; apply inv_fold)

theorem execAluAdd_inv {f q} {x0 x1 x2 x3 x4} (hx4 : Inv f q x4) : InvR f q (execAluAdd x0 x1 x2 x3 x4) := by
  unfold execAluAdd; with_reducible repeat' first | intro _ | assumption | apply issue_inv | apply aluBody_inv | rfl | apply inv_ite | apply inv_id | apply invR_ite | apply inv_next | apply inv_ite_fst | apply inv_ite_snd | apply inv_foldl | apply inv_foldl_fst | apply inv_foldl_snd | split | dsimp only | (unfold Inv; dsimp only; apply inv_fold)

theorem execAluSub_inv {f q} {x0 x1 x2 x3 x4} (hx4 : Inv f q x4) : InvR f q (execAluSub x0 x1 x2 x3 x4) := by
  unfold execAluSub; with_reducible repeat' first | intro _ | assumption | apply issue_inv | apply aluBody_inv | rfl | apply inv_ite | apply inv_id | apply invR_ite | apply inv_next | apply inv_ite_fst | apply inv_ite_snd | apply inv_foldl | apply inv_foldl_fst | apply inv_foldl_snd | split | dsimp only | (unfold Inv; dsimp only; apply inv_fold)

theorem execAluAdc_inv {f q} {x0 x1 x2 x3 x4} (hx4 : Inv f q x4) : InvR f q (execAluAdc x0 x1 x2 x3 x4) := by
  unfold execAluAdc; with_reducible repeat' first | intro _ | assumption | apply issue_inv | apply aluBody_inv | rfl | apply inv_ite | apply inv_id | apply invR_ite | apply inv_next | apply inv_ite_fst | apply inv_ite_snd | apply inv_foldl | apply inv_foldl_fst | apply inv_foldl_snd | split | dsimp only | (unfold Inv; dsimp only; apply inv_fold)

theorem execAluSbc_inv {f q} {x0 x1 x2 x3 x4} (hx4 : Inv f q x4) : InvR f q (execAluSbc x0 x1 x2 x3 x4) := by
  unfold execAluSbc; with_reducible repeat' first | intro _ | assumption | apply issue_inv | apply aluBody_inv | rfl | apply inv_ite | apply inv_id | apply invR_ite | apply inv_next | apply inv_ite_fst | apply inv_ite_snd | apply inv_foldl | apply inv_foldl_fst | apply inv_foldl_snd | split | dsimp only | (unfold Inv; dsimp only; apply inv_fold)

theorem execAluAnd_inv {f q} {x0 x1 x2 x3 x4} (hx4 : Inv f q x4) : InvR f q (execAluAnd x0 x1 x2 x3 x4) := by
  unfold execAluAnd; with_reducible repeat' first | intro _ | assumption | apply issue_inv | apply aluBody_inv | rfl | apply inv_ite | apply inv_id | apply invR_ite | apply inv_next | apply inv_ite_fst | apply inv_ite_snd | apply inv_foldl | apply inv_foldl_fst | apply inv_foldl_snd | split | dsimp only | (unfold Inv; dsimp only; apply inv_fold)

theorem execAluOr_inv {f q} {x0 x1 x2 x3 x4} (hx4 : Inv f q x4) : InvR f q (execAluOr x0 x1 x2 x3 x4) := by
  unfold execAluOr; with_reducible repeat' first | intro _ | assumption | apply issue_inv | apply aluBody_inv | rfl | apply inv_ite | apply inv_id | apply invR_ite | apply inv_next | apply inv_ite_fst | apply inv_ite_snd | apply inv_foldl | apply inv_foldl_fst | apply inv_foldl_snd | split | dsimp only | (unfold Inv; dsimp only; apply inv_fold)

theorem execAluXor_inv {f q} {x0 x1 x2 x3 x4} (hx4 : Inv f q x4) : InvR f q (execAluXor x0 x1 x2 x3 x4) := by
  unfold execAluXor; with_reducible repeat' first | intro _ | assumption | apply issue_inv | apply aluBody_inv | rfl | apply inv_ite | apply inv_id | apply invR_ite | apply inv_next | apply inv_ite_fst | apply inv_ite_snd | apply inv_foldl | apply inv_foldl_fst | apply inv_foldl_snd | split | dsimp only | (unfold Inv; dsimp only; apply inv_fold)

theorem execAluShl_inv {f q} {x0 x1 x2 x3 x4} (hx4 : Inv f q x4) : InvR f q (execAluShl x0 x1 x2 x3 x4) := by
  unfold execAluShl; with_reducible repeat' first | intro _ | assumption | apply issue_inv | apply aluBody_inv | rfl | apply inv_ite | apply inv_id | apply invR_ite | apply inv_next | apply inv_ite_fst | apply inv_ite_snd | apply inv_foldl | apply inv_foldl_fst | apply inv_foldl_snd | split | dsimp only | (unfold Inv; dsimp only; apply inv_fold)

theorem execAluShr_inv {f q} {x0 x1 x2 x3 x4} (hx4 : Inv f q x4) : InvR f q (execAluShr x0 x1 x2 x3 x4) := by
  unfold execAluShr; with_reducible repeat' first | intro _ | assumption | apply issue_inv | apply aluBody_inv | rfl | apply inv_ite | apply inv_id | apply invR_ite | apply inv_next | apply inv_ite_fst | apply inv_ite_snd | apply inv_foldl | apply inv_foldl_fst | apply inv_foldl_snd | split | dsimp only | (unfold Inv; dsimp only; apply inv_fold)

theorem execAluSar_inv {f q} {x0 x1 x2 x3 x4} (hx4 : Inv f q x4) : InvR f q (execAluSar x0 x1 x2 x3 x4) := by
  unfold execAluSar; with_reducible repeat' first | intro _ | assumption | apply issue_inv | apply aluBody_inv | rfl | apply inv_ite | apply inv_id | apply invR_ite | apply inv_next | apply inv_ite_fst | apply inv_ite_snd | apply inv_foldl | apply inv_foldl_fst | apply inv_foldl_snd | split | dsimp only | (unfold Inv; dsimp only; apply inv_fold)

theorem execAluMul_inv {f q} {x0 x1 x2 x3 x4} (hx4 : Inv f q x4) : InvR f q (execAluMul x0 x1 x2 x3 x4) := by
  unfold execAluMul; with_reducible repeat' first | intro _ | assumption | apply issue_inv | apply aluBody_inv | rfl | apply inv_ite | apply inv_id | apply invR_ite | apply inv_next | apply inv_ite_fst | apply inv_ite_snd | apply inv_foldl | apply inv_foldl_fst | apply inv_foldl_snd | split | dsimp only | (unfold Inv; dsimp only; apply inv_fold)

theorem execAluMulh_inv {f q} {x0 x1 x2 x3 x4} (hx4 : Inv f q x4) : InvR f q (execAluMulh x0 x1 x2 x3 x4) := by
  unfold execAluMulh; with_reducible repeat' first | intro _ | assumption | apply issue_inv | apply aluBody_inv | rfl | apply inv_ite | apply inv_id | apply invR_ite | apply inv_next | apply inv_ite_fst | apply inv_ite_snd | apply inv_foldl | apply inv_foldl_fst | apply inv_foldl_snd | split | dsimp only | (unfold Inv; dsimp only; apply inv_fold)

theorem execAluMulhu_inv {f q} {x0 x1 x2 x3 x4} (hx4 : Inv f q x4) : InvR f q (execAluMulhu x0 x1 x2 x3 x4) := by
  unfold execAluMulhu; with_reducible repeat' first | intro _ | assumption | apply issue_inv | apply aluBody_inv | rfl | apply inv_ite | apply inv_id | apply invR_ite | apply inv_next | apply inv_ite_fst | apply inv_ite_snd | apply inv_foldl | apply inv_foldl_fst | apply inv_foldl_snd | split | dsimp only | (unfold Inv; dsimp only; apply inv_fold)

theorem execAluDivs_inv {f q} {x0 x1 x2 x3 x4} (hx4 : Inv f q x4) : InvR f q (execAluDivs x0 x1 x2 x3 x4) := by
  unfold execAluDivs; with_reducible repeat' first | intro _ | assumption | apply issue_inv | apply divBody_inv | rfl | apply inv_ite | apply inv_id | apply invR_ite | apply inv_next | apply inv_ite_fst | apply inv_ite_snd | apply inv_foldl | apply inv_foldl_fst | apply inv_foldl_snd | split | dsimp only | (unfold Inv; dsimp only; apply inv_fold)

theorem execAluDivu_inv {f q} {x0 x1 x2 x3 x4} (hx4 : Inv f q x4) : InvR f q (execAluDivu x0 x1 x2 x3 x4) := by
  unfold execAluDivu; with_reducible repeat' first | intro _ | assumption | apply issue_inv | apply divBody_inv | rfl | apply inv_ite | apply inv_id | apply invR_ite | apply inv_next | apply inv_ite_fst | apply inv_ite_snd | apply inv_foldl | apply inv_foldl_fst | apply inv_foldl_snd | split | dsimp only | (unfold Inv; dsimp only; apply inv_fold)

theorem execAluMin_inv {f q} {x0 x1 x2 x3 x4} (hx4 : Inv f q x4) : InvR f q (execAluMin x0 x1 x2 x3 x4) := by
  unfold execAluMin; with_reducible repeat' first | intro _ | assumption | apply issue_inv | apply aluBody_inv | rfl | apply inv_ite | apply inv_id | apply invR_ite | apply inv_next | apply inv_ite_fst | apply inv_ite_snd | apply inv_foldl | apply inv_foldl_fst | apply inv_foldl_snd | split | dsimp only | (unfold Inv; dsimp only; apply inv_fold)

theorem execAluMax_inv {f q} {x0 x1 x2 x3 x4} (hx4 : Inv f q x4) : InvR f q (execAluMax x0 x1 x2 x3 x4) := by
  unfold execAluMax; with_reducible repeat' first | intro _ | assumption | apply issue_inv | apply aluBody_inv | rfl | apply inv_ite | apply inv_id | apply invR_ite | apply inv_next | apply inv_ite_fst | apply inv_ite_snd | apply inv_foldl | apply inv_foldl_fst | apply inv_foldl_snd | split | dsimp only | (unfold Inv; dsimp only; apply inv_fold)

theorem execCmp_inv {f q} {x0 x1 x2 x3} (hx3 : Inv f q x3) : InvR f q (execCmp x0 x1 x2 x3) := by
  unfold execCmp; with_reducible repeat' first | intro _ | assumption | apply issue_inv | apply cmpBody_inv | rfl | apply inv_ite | apply inv_id | apply invR_ite | apply inv_next | apply inv_ite_fst | apply inv_ite_snd | apply inv_foldl | apply inv_foldl_fst | apply inv_foldl_snd | split | dsimp only | (unfold Inv; dsimp only; apply inv_fold)

theorem execAddi_inv {f q} {x0 x1 x2 x3 x4} (hx4 : Inv f q x4) : InvR f q (execAddi x0 x1 x2 x3 x4) := by
  unfold execAddi; with_reducible repeat' first | intro _ | assumption | apply issue_inv | apply immBody_inv | rfl | apply inv_ite | apply inv_id | apply invR_ite | apply inv_next | apply inv_ite_fst | apply inv_ite_snd | apply inv_foldl | apply inv_foldl_fst | apply inv_foldl_snd | split | dsimp only | (unfold Inv; dsimp only; apply inv_fold)

theorem execAndi_inv {f q} {x0 x1 x2 x3 x4} (hx4 : Inv f q x4) : InvR f q (execAndi x0 x1 x2 x3 x4) := by
  unfold execAndi; with_reducible repeat' first | intro _ | assumption | apply issue_inv | apply immBody_inv | rfl | apply inv_ite | apply inv_id | apply invR_ite | apply inv_next | apply inv_ite_fst | apply inv_ite_snd | apply inv_foldl | apply inv_foldl_fst | apply inv_foldl_snd | split | dsimp only | (unfold Inv; dsimp only; apply inv_fold)

theorem execOri_inv {f q} {x0 x1 x2 x3 x4} (hx4 : Inv f q x4) : InvR f q (execOri x0 x1 x2 x3 x4) := by
  unfold execOri; with_reducible repeat' first | intro _ | assumption | apply issue_inv | apply immBody_inv | rfl | apply inv_ite | apply inv_id | apply invR_ite | apply inv_next | apply inv_ite_fst | apply inv_ite_snd | apply inv_foldl | apply inv_foldl_fst | apply inv_foldl_snd | split | dsimp only | (unfold Inv; dsimp only; apply inv_fold)

theorem execXori_inv {f q} {x0 x1 x2 x3 x4} (hx4 : Inv f q x4) : InvR f q (execXori x0 x1 x2 x3 x4) := by
  unfold execXori; with_reducible repeat' first | intro _ | assumption | apply issue_inv | apply immBody_inv | rfl | apply inv_ite | apply inv_id | apply invR_ite | apply inv_next | apply inv_ite_fst | apply inv_ite_snd | apply inv_foldl | apply inv_foldl_fst | apply inv_foldl_snd | split | dsimp only | (unfold Inv; dsimp only; apply inv_fold)

theorem execShli_inv {f q} {x0 x1 x2 x3 x4} (hx4 : Inv f q x4) : InvR f q (execShli x0 x1 x2 x3 x4) := by
  unfold execShli; with_reducible repeat' first | intro _ | assumption | apply issue_inv | apply immBody_inv | rfl | apply inv_ite | apply inv_id | apply invR_ite | apply inv_next | apply inv_ite_fst | apply inv_ite_snd | apply inv_foldl | apply inv_foldl_fst | apply inv_foldl_snd | split | dsimp only | (unfold Inv; dsimp only; apply inv_fold)

theorem execShri_inv {f q} {x0 x1 x2 x3 x4} (hx4 : Inv f q x4) : InvR f q (execShri x0 x1 x2 x3 x4) := by
  unfold execShri; with_reducible repeat' first | intro _ | assumption | apply issue_inv | apply immBody_inv | rfl | apply inv_ite | apply inv_id | apply invR_ite | apply inv_next | apply inv_ite_fst | apply inv_ite_snd | apply inv_foldl | apply inv_foldl_fst | apply inv_foldl_snd | split | dsimp only | (unfold Inv; dsimp only; apply inv_fold)

theorem execSari_inv {f q} {x0 x1 x2 x3 x4} (hx4 : Inv f q x4) : InvR f q (execSari x0 x1 x2 x3 x4) := by
  unfold execSari; with_reducible repeat' first | intro _ | assumption | apply issue_inv | apply immBody_inv | rfl | apply inv_ite | apply inv_id | apply invR_ite | apply inv_next | apply inv_ite_fst | apply inv_ite_snd | apply inv_foldl | apply inv_foldl_fst | apply inv_foldl_snd | split | dsimp only | (unfold Inv; dsimp only; apply inv_fold)

theorem execCmpi_inv {f q} {x0 x1 x2 x3} (hx3 : Inv f q x3) : InvR f q (execCmpi x0 x1 x2 x3) := by
  unfold execCmpi; with_reducible repeat' first | intro _ | assumption | apply issue_inv | apply cmpBody_inv | rfl | apply inv_ite | apply inv_id | apply invR_ite | apply inv_next | apply inv_ite_fst | apply inv_ite_snd | apply inv_foldl | apply inv_foldl_fst | apply inv_foldl_snd | split | dsimp only | (unfold Inv; dsimp only; apply inv_fold)

theorem execSel_inv {f q} {x0 x1 x2 x3 x4 x5} (hx5 : Inv f q x5) : InvR f q (execSel x0 x1 x2 x3 x4 x5) := by
  unfold execSel; with_reducible repeat' first | intro _ | assumption | apply issue_inv | apply aluBody_inv | rfl | apply inv_ite | apply inv_id | apply invR_ite | apply inv_next | apply inv_ite_fst | apply inv_ite_snd | apply inv_foldl | apply inv_foldl_fst | apply inv_foldl_snd | split | dsimp only | (unfold Inv; dsimp only; apply inv_fold)

theorem constBody_inv {f q} {x0 x1 x2 x3 x4} (hx4 : Inv f q x4) : Inv f q (constBody x0 x1 x2 x3 x4) := by
  unfold constBody; with_reducible repeat' first | assumption | apply retire_inv | apply setG_inv

theorem execLui_inv {f q} {x0 x1 x2 x3} (hx3 : Inv f q x3) : InvR f q (execLui x0 x1 x2 x3) := by
  unfold execLui; with_reducible repeat' first | intro _ | assumption | apply issue_inv | apply constBody_inv | rfl | apply inv_ite | apply inv_id | apply invR_ite | apply inv_next | apply inv_ite_fst | apply inv_ite_snd | apply inv_foldl | apply inv_foldl_fst | apply inv_foldl_snd | split | dsimp only | (unfold Inv; dsimp only; apply inv_fold)

theorem execLi_inv {f q} {x0 x1 x2 x3} (hx3 : Inv f q x3) : InvR f q (execLi x0 x1 x2 x3) := by
  unfold execLi; with_reducible repeat' first | intro _ | assumption | apply issue_inv | apply constBody_inv | rfl | apply inv_ite | apply inv_id | apply invR_ite | apply inv_next | apply inv_ite_fst | apply inv_ite_snd | apply inv_foldl | apply inv_foldl_fst | apply inv_foldl_snd | split | dsimp only | (unfold Inv; dsimp only; apply inv_fold)

theorem execPadd_inv {f q} {x0 x1 x2 x3 x4} (hx4 : Inv f q x4) : InvR f q (execPadd x0 x1 x2 x3 x4) := by
  unfold execPadd; with_reducible repeat' first | intro _ | assumption | apply issue_inv | apply aluBody_inv | rfl | apply inv_ite | apply inv_id | apply invR_ite | apply inv_next | apply inv_ite_fst | apply inv_ite_snd | apply inv_foldl | apply inv_foldl_fst | apply inv_foldl_snd | split | dsimp only | (unfold Inv; dsimp only; apply inv_fold)

theorem execPdif_inv {f q} {x0 x1 x2 x3 x4} (hx4 : Inv f q x4) : InvR f q (execPdif x0 x1 x2 x3 x4) := by
  unfold execPdif; with_reducible repeat' first | intro _ | assumption | apply issue_inv | apply aluBody_inv | rfl | apply inv_ite | apply inv_id | apply invR_ite | apply inv_next | apply inv_ite_fst | apply inv_ite_snd | apply inv_foldl | apply inv_foldl_fst | apply inv_foldl_snd | split | dsimp only | (unfold Inv; dsimp only; apply inv_fold)

theorem portUse_inv {f q} {x0 x1 x2 x3 x4} (hx4 : Inv f q x4) : Inv f q (portUse x0 x1 x2 x3 x4) := by
  unfold portUse; with_reducible repeat' first | intro _ | assumption | apply askA_inv | rfl | apply inv_ite | apply inv_id | apply invR_ite | apply inv_next | apply inv_ite_fst | apply inv_ite_snd | apply inv_foldl | apply inv_foldl_fst | apply inv_foldl_snd | split | dsimp only | (unfold Inv; dsimp only; apply inv_fold)

theorem loadAt_inv {f q} {x0 x1 x2 x3 x4 x5} (hx5 : Inv f q x5) : Inv f q (loadAt x0 x1 x2 x3 x4 x5) := by
  unfold loadAt; with_reducible repeat' first | intro _ | assumption | apply taskFault_inv | apply checkRead_inv | apply takeSlot_inv | apply retire_inv | apply portUse_inv | rfl | apply inv_ite | apply inv_id | apply invR_ite | apply inv_next | apply inv_ite_fst | apply inv_ite_snd | apply inv_foldl | apply inv_foldl_fst | apply inv_foldl_snd | split | dsimp only | (unfold Inv; dsimp only; apply inv_fold)

theorem storeAt_inv {f q} {x0 x1 x2 x3 x4 x5 x6} (hx6 : Inv f q x6) : Inv f q (storeAt x0 x1 x2 x3 x4 x5 x6) := by
  unfold storeAt; with_reducible repeat' first | intro _ | assumption | apply taskFault_inv | apply writeN_inv | apply retire_inv | apply portUse_inv | apply takeSlot_inv | apply feedW_inv | rfl | apply inv_ite | apply inv_id | apply invR_ite | apply inv_next | apply inv_ite_fst | apply inv_ite_snd | apply inv_foldl | apply inv_foldl_fst | apply inv_foldl_snd | split | dsimp only | (unfold Inv; dsimp only; apply inv_fold)

theorem execLd_inv {f q} {x0 x1 x2 x3 x4} (hx4 : Inv f q x4) : InvR f q (execLd x0 x1 x2 x3 x4) := by
  unfold execLd; with_reducible repeat' first | intro _ | assumption | apply issue_inv | apply loadAt_inv | rfl | apply inv_ite | apply inv_id | apply invR_ite | apply inv_next | apply inv_ite_fst | apply inv_ite_snd | apply inv_foldl | apply inv_foldl_fst | apply inv_foldl_snd | split | dsimp only | (unfold Inv; dsimp only; apply inv_fold)

theorem execLdh_inv {f q} {x0 x1 x2 x3 x4} (hx4 : Inv f q x4) : InvR f q (execLdh x0 x1 x2 x3 x4) := by
  unfold execLdh; with_reducible repeat' first | intro _ | assumption | apply issue_inv | apply loadAt_inv | rfl | apply inv_ite | apply inv_id | apply invR_ite | apply inv_next | apply inv_ite_fst | apply inv_ite_snd | apply inv_foldl | apply inv_foldl_fst | apply inv_foldl_snd | split | dsimp only | (unfold Inv; dsimp only; apply inv_fold)

theorem execLdhu_inv {f q} {x0 x1 x2 x3 x4} (hx4 : Inv f q x4) : InvR f q (execLdhu x0 x1 x2 x3 x4) := by
  unfold execLdhu; with_reducible repeat' first | intro _ | assumption | apply issue_inv | apply loadAt_inv | rfl | apply inv_ite | apply inv_id | apply invR_ite | apply inv_next | apply inv_ite_fst | apply inv_ite_snd | apply inv_foldl | apply inv_foldl_fst | apply inv_foldl_snd | split | dsimp only | (unfold Inv; dsimp only; apply inv_fold)

theorem execLdbu_inv {f q} {x0 x1 x2 x3 x4} (hx4 : Inv f q x4) : InvR f q (execLdbu x0 x1 x2 x3 x4) := by
  unfold execLdbu; with_reducible repeat' first | intro _ | assumption | apply issue_inv | apply loadAt_inv | rfl | apply inv_ite | apply inv_id | apply invR_ite | apply inv_next | apply inv_ite_fst | apply inv_ite_snd | apply inv_foldl | apply inv_foldl_fst | apply inv_foldl_snd | split | dsimp only | (unfold Inv; dsimp only; apply inv_fold)

theorem execLdd_inv {f q} {x0 x1 x2 x3 x4} (hx4 : Inv f q x4) : InvR f q (execLdd x0 x1 x2 x3 x4) := by
  unfold execLdd; with_reducible repeat' first | intro _ | assumption | apply issue_inv | apply taskFault_inv | apply loadAt_inv | rfl | apply inv_ite | apply inv_id | apply invR_ite | apply inv_next | apply inv_ite_fst | apply inv_ite_snd | apply inv_foldl | apply inv_foldl_fst | apply inv_foldl_snd | split | dsimp only | (unfold Inv; dsimp only; apply inv_fold)

theorem execSt_inv {f q} {x0 x1 x2 x3 x4} (hx4 : Inv f q x4) : InvR f q (execSt x0 x1 x2 x3 x4) := by
  unfold execSt; with_reducible repeat' first | intro _ | assumption | apply issue_inv | apply storeAt_inv | rfl | apply inv_ite | apply inv_id | apply invR_ite | apply inv_next | apply inv_ite_fst | apply inv_ite_snd | apply inv_foldl | apply inv_foldl_fst | apply inv_foldl_snd | split | dsimp only | (unfold Inv; dsimp only; apply inv_fold)

theorem execSth_inv {f q} {x0 x1 x2 x3 x4} (hx4 : Inv f q x4) : InvR f q (execSth x0 x1 x2 x3 x4) := by
  unfold execSth; with_reducible repeat' first | intro _ | assumption | apply issue_inv | apply storeAt_inv | rfl | apply inv_ite | apply inv_id | apply invR_ite | apply inv_next | apply inv_ite_fst | apply inv_ite_snd | apply inv_foldl | apply inv_foldl_fst | apply inv_foldl_snd | split | dsimp only | (unfold Inv; dsimp only; apply inv_fold)

theorem execStb_inv {f q} {x0 x1 x2 x3 x4} (hx4 : Inv f q x4) : InvR f q (execStb x0 x1 x2 x3 x4) := by
  unfold execStb; with_reducible repeat' first | intro _ | assumption | apply issue_inv | apply storeAt_inv | rfl | apply inv_ite | apply inv_id | apply invR_ite | apply inv_next | apply inv_ite_fst | apply inv_ite_snd | apply inv_foldl | apply inv_foldl_fst | apply inv_foldl_snd | split | dsimp only | (unfold Inv; dsimp only; apply inv_fold)

theorem execStd_inv {f q} {x0 x1 x2 x3 x4} (hx4 : Inv f q x4) : InvR f q (execStd x0 x1 x2 x3 x4) := by
  unfold execStd; with_reducible repeat' first | intro _ | assumption | apply issue_inv | apply taskFault_inv | apply storeAt_inv | rfl | apply inv_ite | apply inv_id | apply invR_ite | apply inv_next | apply inv_ite_fst | apply inv_ite_snd | apply inv_foldl | apply inv_foldl_fst | apply inv_foldl_snd | split | dsimp only | (unfold Inv; dsimp only; apply inv_fold)

theorem execLdc_inv {f q} {x0 x1 x2 x3 x4} (hx4 : Inv f q x4) : InvR f q (execLdc x0 x1 x2 x3 x4) := by
  unfold execLdc; with_reducible repeat' first | intro _ | assumption | apply issue_inv | apply taskFault_inv | apply loadAt_inv | rfl | apply inv_ite | apply inv_id | apply invR_ite | apply inv_next | apply inv_ite_fst | apply inv_ite_snd | apply inv_foldl | apply inv_foldl_fst | apply inv_foldl_snd | split | dsimp only | (unfold Inv; dsimp only; apply inv_fold)

theorem execStc_inv {f q} {x0 x1 x2 x3 x4} (hx4 : Inv f q x4) : InvR f q (execStc x0 x1 x2 x3 x4) := by
  unfold execStc; with_reducible repeat' first | intro _ | assumption | apply issue_inv | apply taskFault_inv | apply storeAt_inv | rfl | apply inv_ite | apply inv_id | apply invR_ite | apply inv_next | apply inv_ite_fst | apply inv_ite_snd | apply inv_foldl | apply inv_foldl_fst | apply inv_foldl_snd | split | dsimp only | (unfold Inv; dsimp only; apply inv_fold)

theorem execFence_inv {f q} {x0 x1} (hx1 : Inv f q x1) : InvR f q (execFence x0 x1) := by
  unfold execFence; with_reducible repeat' first | intro _ | assumption | apply issue_inv | apply retire_inv | rfl | apply inv_ite | apply inv_id | apply invR_ite | apply inv_next | apply inv_ite_fst | apply inv_ite_snd | apply inv_foldl | apply inv_foldl_fst | apply inv_foldl_snd | split | dsimp only | (unfold Inv; dsimp only; apply inv_fold)

theorem execBr_inv {f q} {x0 x1 x2 x3} (hx3 : Inv f q x3) : InvR f q (execBr x0 x1 x2 x3) := by
  unfold execBr; with_reducible repeat' first | intro _ | assumption | apply issue_inv | apply retire_inv | apply taskFault_inv | apply retireTo_inv | rfl | apply inv_ite | apply inv_id | apply invR_ite | apply inv_next | apply inv_ite_fst | apply inv_ite_snd | apply inv_foldl | apply inv_foldl_fst | apply inv_foldl_snd | split | dsimp only | (unfold Inv; dsimp only; apply inv_fold)

theorem execJmp_inv {f q} {x0 x1 x2} (hx2 : Inv f q x2) : InvR f q (execJmp x0 x1 x2) := by
  unfold execJmp; with_reducible repeat' first | intro _ | assumption | apply issue_inv | apply retireTo_inv | rfl | apply inv_ite | apply inv_id | apply invR_ite | apply inv_next | apply inv_ite_fst | apply inv_ite_snd | apply inv_foldl | apply inv_foldl_fst | apply inv_foldl_snd | split | dsimp only | (unfold Inv; dsimp only; apply inv_fold)

theorem execJal_inv {f q} {x0 x1 x2 x3} (hx3 : Inv f q x3) : InvR f q (execJal x0 x1 x2 x3) := by
  unfold execJal; with_reducible repeat' first | intro _ | assumption | apply issue_inv | apply retireTo_inv | apply setG_inv | rfl | apply inv_ite | apply inv_id | apply invR_ite | apply inv_next | apply inv_ite_fst | apply inv_ite_snd | apply inv_foldl | apply inv_foldl_fst | apply inv_foldl_snd | split | dsimp only | (unfold Inv; dsimp only; apply inv_fold)

theorem execJr_inv {f q} {x0 x1 x2} (hx2 : Inv f q x2) : InvR f q (execJr x0 x1 x2) := by
  unfold execJr; with_reducible repeat' first | intro _ | assumption | apply issue_inv | apply retireTo_inv | rfl | apply inv_ite | apply inv_id | apply invR_ite | apply inv_next | apply inv_ite_fst | apply inv_ite_snd | apply inv_foldl | apply inv_foldl_fst | apply inv_foldl_snd | split | dsimp only | (unfold Inv; dsimp only; apply inv_fold)

theorem addSig_inv {f q} {x0 x1} (hx1 : Inv f q x1) : Inv f q (addSig x0 x1) := by
  unfold addSig; with_reducible repeat' first | assumption | apply modShu_inv

theorem endPass_inv {f q} {x0 x1 x2} (hx2 : Inv f q x2) : Inv f q (endPass x0 x1 x2) := by
  unfold endPass; with_reducible repeat' first | intro _ | assumption | apply expressEnd_inv | apply forEach_inv | apply pushEffect_inv | apply normalEnd_inv | apply addSig_inv | apply rset_inv | split

theorem askCheck_inv {f q} {x0 x1} (hx1 : Inv f q x1) : Inv f q (askCheck x0 x1) := by
  unfold askCheck; with_reducible repeat' first | assumption | apply inv_ite | apply modFlt_inv

theorem reexecute_inv {f q} {x0 x1 x2} (hx2 : Inv f q x2) : Inv f q (reexecute x0 x1 x2) := by
  unfold reexecute; with_reducible repeat' first | assumption | apply count_inv | apply setb_inv | apply modEng_inv | apply modShu_inv

theorem endFail_inv {f q} {x0 x1 x2 x3} (hx3 : Inv f q x3) : Inv f q (endFail x0 x1 x2 x3) := by
  unfold endFail; with_reducible repeat' first | intro _ | assumption | apply count_inv | apply setb_inv | apply raise_inv | apply when__inv | apply cancelCards_inv | apply modCtx_inv | apply expressEnd_inv | apply modShu_inv | apply reexecute_inv | apply askCheck_inv | apply normalEnd_inv | apply addSig_inv | split | dsimp only | (unfold Inv; dsimp only; apply inv_fold)

theorem execEndTask_inv {f q} {x0 x1 x2} (hx2 : Inv f q x2) : InvR f q (execEndTask x0 x1 x2) := by
  unfold execEndTask; with_reducible repeat' first | intro _ | assumption | apply issue_inv | apply retire_inv | apply endPass_inv | apply endFail_inv | rfl | apply inv_ite | apply inv_id | apply invR_ite | apply inv_next | apply inv_ite_fst | apply inv_ite_snd | apply inv_foldl | apply inv_foldl_fst | apply inv_foldl_snd | split | dsimp only | (unfold Inv; dsimp only; apply inv_fold)

theorem execSig_inv {f q} {x0 x1 x2} (hx2 : Inv f q x2) : InvR f q (execSig x0 x1 x2) := by
  unfold execSig; with_reducible repeat' first | intro _ | assumption | apply issue_inv | apply retire_inv | apply modCtx_inv | rfl | apply inv_ite | apply inv_id | apply invR_ite | apply inv_next | apply inv_ite_fst | apply inv_ite_snd | apply inv_foldl | apply inv_foldl_fst | apply inv_foldl_snd | split | dsimp only | (unfold Inv; dsimp only; apply inv_fold)

theorem execEvr_inv {f q} {x0 x1 x2 x3} (hx3 : Inv f q x3) : InvR f q (execEvr x0 x1 x2 x3) := by
  unfold execEvr; with_reducible repeat' first | intro _ | assumption | apply issue_inv | apply retire_inv | apply feedW_inv | apply pushEffect_inv | rfl | apply inv_ite | apply inv_id | apply invR_ite | apply inv_next | apply inv_ite_fst | apply inv_ite_snd | apply inv_foldl | apply inv_foldl_fst | apply inv_foldl_snd | split | dsimp only | (unfold Inv; dsimp only; apply inv_fold)

theorem execSoftwareEvent_inv {f q} {x0 x1} (hx1 : Inv f q x1) : InvR f q (execSoftwareEvent x0 x1) := by
  unfold execSoftwareEvent; with_reducible repeat' first | intro _ | assumption | apply atOpt_inv | apply landHead_inv | rfl | apply inv_ite | apply inv_id | apply invR_ite | apply inv_next | apply inv_ite_fst | apply inv_ite_snd | apply inv_foldl | apply inv_foldl_fst | apply inv_foldl_snd | split | dsimp only | (unfold Inv; dsimp only; apply inv_fold)

theorem execRds_inv {f q} {x0 x1 x2 x3} (hx3 : Inv f q x3) : InvR f q (execRds x0 x1 x2 x3) := by
  unfold execRds; with_reducible repeat' first | intro _ | assumption | apply issue_inv | apply taskFault_inv | apply constBody_inv | rfl | apply inv_ite | apply inv_id | apply invR_ite | apply inv_next | apply inv_ite_fst | apply inv_ite_snd | apply inv_foldl | apply inv_foldl_fst | apply inv_foldl_snd | split | dsimp only | (unfold Inv; dsimp only; apply inv_fold)

theorem sampleAccess_inv {f q} {x0 x1 x2 x3} (hx3 : Inv f q x3) : Inv f q (sampleAccess x0 x1 x2 x3) := by
  unfold sampleAccess; with_reducible repeat' first | assumption | apply retire_inv | apply schedule_inv | apply takeSlot_inv

theorem execRdl_inv {f q} {x0 x1 x2 x3} (hx3 : Inv f q x3) : InvR f q (execRdl x0 x1 x2 x3) := by
  unfold execRdl; with_reducible repeat' first | intro _ | assumption | apply issue_inv | apply taskFault_inv | apply sampleAccess_inv | rfl | apply inv_ite | apply inv_id | apply invR_ite | apply inv_next | apply inv_ite_fst | apply inv_ite_snd | apply inv_foldl | apply inv_foldl_fst | apply inv_foldl_snd | split | dsimp only | (unfold Inv; dsimp only; apply inv_fold)

theorem execChr_inv {f q} {x0 x1 x2 x3 x4} (hx4 : Inv f q x4) : InvR f q (execChr x0 x1 x2 x3 x4) := by
  unfold execChr; with_reducible repeat' first | intro _ | assumption | apply issue_inv | apply taskFault_inv | apply sampleAccess_inv | rfl | apply inv_ite | apply inv_id | apply invR_ite | apply inv_next | apply inv_ite_fst | apply inv_ite_snd | apply inv_foldl | apply inv_foldl_fst | apply inv_foldl_snd | split | dsimp only | (unfold Inv; dsimp only; apply inv_fold)

theorem chwIssue_inv {f q} {x0 x1 x2 x3 x4 x5} (hx5 : Inv f q x5) : Inv f q (chwIssue x0 x1 x2 x3 x4 x5) := by
  unfold chwIssue; with_reducible repeat' first | assumption | apply inv_ite | apply dropEffect_inv | apply modCtx_inv | apply pushEffect_inv

theorem execChw_inv {f q} {x0 x1 x2 x3 x4} (hx4 : Inv f q x4) : InvR f q (execChw x0 x1 x2 x3 x4) := by
  unfold execChw; with_reducible repeat' first | intro _ | assumption | apply issue_inv | apply taskFault_inv | apply retire_inv | apply feedW_inv | apply chwIssue_inv | rfl | apply inv_ite | apply inv_id | apply invR_ite | apply inv_next | apply inv_ite_fst | apply inv_ite_snd | apply inv_foldl | apply inv_foldl_fst | apply inv_foldl_snd | split | dsimp only | (unfold Inv; dsimp only; apply inv_fold)

theorem execChwLand_inv {f q} {x0 x1} (hx1 : Inv f q x1) : InvR f q (execChwLand x0 x1) := by
  unfold execChwLand; with_reducible repeat' first | intro _ | assumption | apply atOpt_inv | apply takeTurn_inv | apply landHead_inv | rfl | apply inv_ite | apply inv_id | apply invR_ite | apply inv_next | apply inv_ite_fst | apply inv_ite_snd | apply inv_foldl | apply inv_foldl_fst | apply inv_foldl_snd | split | dsimp only | (unfold Inv; dsimp only; apply inv_fold)

theorem execEdge_inv {f q} {x0 x1 x2 x3 x4} (hx4 : Inv f q x4) : InvR f q (execEdge x0 x1 x2 x3 x4) := by
  unfold execEdge; with_reducible repeat' first | intro _ | assumption | apply issue_inv | apply taskFault_inv | apply retire_inv | apply feedW_inv | apply pushEffect_inv | rfl | apply inv_ite | apply inv_id | apply invR_ite | apply inv_next | apply inv_ite_fst | apply inv_ite_snd | apply inv_foldl | apply inv_foldl_fst | apply inv_foldl_snd | split | dsimp only | (unfold Inv; dsimp only; apply inv_fold)

theorem edgeOutOp_inv {f q} {x0 x1} (hx1 : Inv f q x1) : Inv f q (edgeOutOp x0 x1) := by
  unfold edgeOutOp; with_reducible repeat' first | assumption | apply setOut_inv | apply modCh_inv | split

theorem execShuttleEdgeOut_inv {f q} {x0 x1} (hx1 : Inv f q x1) : InvR f q (execShuttleEdgeOut x0 x1) := by
  unfold execShuttleEdgeOut; with_reducible repeat' first | assumption | apply atOpt_inv | apply edgeOutOp_inv | apply inv_next

theorem execArm_inv {f q} {x0 x1 x2 x3} (hx3 : Inv f q x3) : InvR f q (execArm x0 x1 x2 x3) := by
  unfold execArm; with_reducible repeat' first | intro _ | assumption | apply issue_inv | apply taskFault_inv | apply retire_inv | apply schedule_inv | apply takeSlot_inv | apply feedW_inv | rfl | apply inv_ite | apply inv_id | apply invR_ite | apply inv_next | apply inv_ite_fst | apply inv_ite_snd | apply inv_foldl | apply inv_foldl_fst | apply inv_foldl_snd | split | dsimp only | (unfold Inv; dsimp only; apply inv_fold)

theorem execDisarm_inv {f q} {x0 x1 x2 x3} (hx3 : Inv f q x3) : InvR f q (execDisarm x0 x1 x2 x3) := by
  unfold execDisarm; with_reducible repeat' first | intro _ | assumption | apply issue_inv | apply disarmOp_inv | apply retire_inv | apply takeSlot_inv | apply feedW_inv | rfl | apply inv_ite | apply inv_id | apply invR_ite | apply inv_next | apply inv_ite_fst | apply inv_ite_snd | apply inv_foldl | apply inv_foldl_fst | apply inv_foldl_snd | split | dsimp only | (unfold Inv; dsimp only; apply inv_fold)

theorem execLerp_inv {f q} {x0 x1 x2 x3 x4 x5} (hx5 : Inv f q x5) : InvR f q (execLerp x0 x1 x2 x3 x4 x5) := by
  unfold execLerp; with_reducible repeat' first | intro _ | assumption | apply issue_inv | apply taskFault_inv | apply checkRead_inv | apply takeSlot_inv | apply retire_inv | apply residue_inv | apply portUse_inv | rfl | apply inv_ite | apply inv_id | apply invR_ite | apply inv_next | apply inv_ite_fst | apply inv_ite_snd | apply inv_foldl | apply inv_foldl_fst | apply inv_foldl_snd | split | dsimp only | (unfold Inv; dsimp only; apply inv_fold)

theorem finishAccess_inv {f q} {x0 x1 x2 x3} (hx3 : Inv f q x3) : Inv f q (finishAccess x0 x1 x2 x3) := by
  unfold finishAccess; with_reducible repeat' first | intro _ | assumption | apply modCtx_inv | apply forEach_inv | apply setG_inv

theorem execLoadResult_inv {f q} {x0 x1 x2} (hx2 : Inv f q x2) : InvR f q (execLoadResult x0 x1 x2) := by
  unfold execLoadResult; with_reducible repeat' first | intro _ | assumption | apply atOpt_inv | apply finishAccess_inv | apply inv_next | split

theorem execStoreAck_inv {f q} {x0 x1 x2} (hx2 : Inv f q x2) : InvR f q (execStoreAck x0 x1 x2) := by
  unfold execStoreAck; with_reducible repeat' first | intro _ | assumption | apply atOpt_inv | apply finishAccess_inv | apply inv_next | split

theorem execCorrectedWriteBack_inv {f q} {x0 x1} (hx1 : Inv f q x1) : InvR f q (execCorrectedWriteBack x0 x1) := by
  unfold execCorrectedWriteBack; with_reducible repeat' first | intro _ | assumption | apply nowIf_inv | apply writeBackOp_inv | rfl | apply inv_ite | apply inv_id | apply invR_ite | apply inv_next | apply inv_ite_fst | apply inv_ite_snd | apply inv_foldl | apply inv_foldl_fst | apply inv_foldl_snd | split | dsimp only | (unfold Inv; dsimp only; apply inv_fold)

theorem execHalt_inv {f q} {x0 x1 x2} (hx2 : Inv f q x2) : InvR f q (execHalt x0 x1 x2) := by
  unfold execHalt; with_reducible repeat' first | assumption | apply setBitCmd_inv | apply inv_next

theorem haltedOp_inv {f q} {x0 x1} (hx1 : Inv f q x1) : Inv f q (haltedOp x0 x1) := by
  unfold haltedOp; with_reducible repeat' first | assumption | apply setb_inv | apply modShu_inv | apply when__inv | apply setEsts_inv

theorem execHalted_inv {f q} {x0 x1} (hx1 : Inv f q x1) : InvR f q (execHalted x0 x1) := by
  unfold execHalted; with_reducible repeat' first | assumption | apply atTime_inv | apply haltedOp_inv | apply inv_next

theorem execResume_inv {f q} {x0 x1 x2} (hx2 : Inv f q x2) : InvR f q (execResume x0 x1 x2) := by
  unfold execResume; with_reducible repeat' first | assumption | apply clearBitCmd_inv | apply inv_next

theorem execShuStep_inv {f q} {x0 x1 x2} (hx2 : Inv f q x2) : InvR f q (execShuStep x0 x1 x2) := by
  unfold execShuStep; with_reducible repeat' first | assumption | apply setBitCmd_inv | apply inv_next

theorem execBreakpointHit_inv {f q} {x0 x1} (hx1 : Inv f q x1) : InvR f q (execBreakpointHit x0 x1) := by
  unfold execBreakpointHit; with_reducible repeat' first | intro _ | assumption | apply when__inv | apply atTime_inv | apply setf_inv | apply setb_inv | apply modShu_inv | apply haltedOp_inv | rfl | apply inv_ite | apply inv_id | apply invR_ite | apply inv_next | apply inv_ite_fst | apply inv_ite_snd | apply inv_foldl | apply inv_foldl_fst | apply inv_foldl_snd | split | dsimp only | (unfold Inv; dsimp only; apply inv_fold)

theorem execShuCntClr_inv {f q} {x0 x1 x2} (hx2 : Inv f q x2) : InvR f q (execShuCntClr x0 x1 x2) := by
  unfold execShuCntClr; with_reducible repeat' first | assumption | apply setBitCmd_inv | apply inv_next

/-! ### ExecChannel.lean -/

theorem execHarnessTick_inv {f q} {x0 x1} (hx1 : Inv f q x1) : InvR f q (execHarnessTick x0 x1) := by
  unfold execHarnessTick; with_reducible repeat' first | intro _ | assumption | apply atTime_inv | apply harnTickOp_inv | rfl | apply inv_ite | apply inv_id | apply invR_ite | apply inv_next | apply inv_ite_fst | apply inv_ite_snd | apply inv_foldl | apply inv_foldl_fst | apply inv_foldl_snd | split | dsimp only | (unfold Inv; dsimp only; apply inv_fold)

theorem execEdgeCountAction_inv {f q} {x0 x1} (hx1 : Inv f q x1) : InvR f q (execEdgeCountAction x0 x1) := by
  unfold execEdgeCountAction; with_reducible repeat' first | assumption | apply atOpt_inv | apply edgeActs_inv | apply inv_next

theorem execLeaveOff_inv {f q} {x0 x1 x2 x3} (hx3 : Inv f q x3) : InvR f q (execLeaveOff x0 x1 x2 x3) := by
  unfold execLeaveOff; with_reducible repeat' first | assumption | apply writeCmd_inv | apply inv_next

theorem execEnterOff_inv {f q} {x0 x1 x2 x3} (hx3 : Inv f q x3) : InvR f q (execEnterOff x0 x1 x2 x3) := by
  unfold execEnterOff; with_reducible repeat' first | assumption | apply writeCmd_inv | apply inv_next

theorem execStart_inv {f q} {x0 x1 x2} (hx2 : Inv f q x2) : InvR f q (execStart x0 x1 x2) := by
  unfold execStart; with_reducible repeat' first | assumption | apply setBitCmd_inv | apply inv_next

theorem execRldWrite_inv {f q} {x0 x1 x2 x3} (hx3 : Inv f q x3) : InvR f q (execRldWrite x0 x1 x2 x3) := by
  unfold execRldWrite; with_reducible repeat' first | assumption | apply writeCmd_inv | apply inv_next

theorem execCompareWrite_inv {f q} {x0 x1 x2 x3 x4} (hx4 : Inv f q x4) : InvR f q (execCompareWrite x0 x1 x2 x3 x4) := by
  unfold execCompareWrite; with_reducible repeat' first | assumption | apply writeCmd_inv | apply inv_next

theorem execFineWrite_inv {f q} {x0 x1 x2 x3} (hx3 : Inv f q x3) : InvR f q (execFineWrite x0 x1 x2 x3) := by
  unfold execFineWrite; with_reducible repeat' first | assumption | apply writeCmd_inv | apply inv_next

theorem execStagedWrite_inv {f q} {x0 x1 x2 x3 x4} (hx4 : Inv f q x4) : InvR f q (execStagedWrite x0 x1 x2 x3 x4) := by
  unfold execStagedWrite; with_reducible repeat' first | assumption | apply writeCmd_inv | apply inv_next

theorem execCapRead_inv {f q} {x0 x1 x2} (hx2 : Inv f q x2) : InvR f q (execCapRead x0 x1 x2) := by
  unfold execCapRead; with_reducible repeat' first | assumption | apply readCmd_inv | apply inv_next

theorem execFiltWrite_inv {f q} {x0 x1 x2 x3} (hx3 : Inv f q x3) : InvR f q (execFiltWrite x0 x1 x2 x3) := by
  unfold execFiltWrite; with_reducible repeat' first | assumption | apply writeCmd_inv | apply inv_next

theorem execEvcfgWrite_inv {f q} {x0 x1 x2 x3} (hx3 : Inv f q x3) : InvR f q (execEvcfgWrite x0 x1 x2 x3) := by
  unfold execEvcfgWrite; with_reducible repeat' first | assumption | apply writeCmd_inv | apply inv_next

theorem execPrescWrite_inv {f q} {x0 x1 x2 x3} (hx3 : Inv f q x3) : InvR f q (execPrescWrite x0 x1 x2 x3) := by
  unfold execPrescWrite; with_reducible repeat' first | assumption | apply writeCmd_inv | apply inv_next

theorem execChCntClr_inv {f q} {x0 x1 x2} (hx2 : Inv f q x2) : InvR f q (execChCntClr x0 x1 x2) := by
  unfold execChCntClr; with_reducible repeat' first | assumption | apply setBitCmd_inv | apply inv_next

theorem execPinTransition_inv {f q} {x0 x1 x2 x3} (hx3 : Inv f q x3) : InvR f q (execPinTransition x0 x1 x2 x3) := by
  unfold execPinTransition; with_reducible repeat' first | intro _ | assumption | apply nowIf_inv | apply pinTransitionOp_inv | apply tickFirst_inv | rfl | apply inv_ite | apply inv_id | apply invR_ite | apply inv_next | apply inv_ite_fst | apply inv_ite_snd | apply inv_foldl | apply inv_foldl_fst | apply inv_foldl_snd | split | dsimp only | (unfold Inv; dsimp only; apply inv_fold)

theorem execFilterSample_inv {f q} {x0 x1} (hx1 : Inv f q x1) : InvR f q (execFilterSample x0 x1) := by
  unfold execFilterSample; with_reducible repeat' first | assumption | apply atTime_inv | apply filterSampleOp_inv | apply inv_next

theorem execLoad_inv {f q} {x0 x1 x2} (hx2 : Inv f q x2) : InvR f q (execLoad x0 x1 x2) := by
  unfold execLoad; with_reducible repeat' first | assumption | apply writeCmd_inv | apply inv_next

theorem execLoadAll_inv {f q} {x0 x1} (hx1 : Inv f q x1) : InvR f q (execLoadAll x0 x1) := by
  unfold execLoadAll; with_reducible repeat' first | assumption | apply writeCmd_inv | apply inv_next

theorem execLoadNow_inv {f q} {x0 x1 x2} (hx2 : Inv f q x2) : InvR f q (execLoadNow x0 x1 x2) := by
  unfold execLoadNow; with_reducible repeat' first | assumption | apply writeCmd_inv | apply inv_next

theorem execTripCut_inv {f q} {x0 x1 x2} (hx2 : Inv f q x2) : InvR f q (execTripCut x0 x1 x2) := by
  unfold execTripCut; with_reducible repeat' first | intro _ | assumption | apply nowIf_inv | apply tripJudgeOp_inv | apply tripCutOp_inv | rfl | apply inv_ite | apply inv_id | apply invR_ite | apply inv_next | apply inv_ite_fst | apply inv_ite_snd | apply inv_foldl | apply inv_foldl_fst | apply inv_foldl_snd | split | dsimp only | (unfold Inv; dsimp only; apply inv_fold)

theorem execBlankingEnd_inv {f q} {x0 x1} (hx1 : Inv f q x1) : InvR f q (execBlankingEnd x0 x1) := by
  unfold execBlankingEnd; with_reducible repeat' first | assumption | apply atTime_inv | apply blankingEndOp_inv | apply inv_next

theorem execTripWrite_inv {f q} {x0 x1 x2 x3 x4} (hx4 : Inv f q x4) : InvR f q (execTripWrite x0 x1 x2 x3 x4) := by
  unfold execTripWrite; with_reducible repeat' first | assumption | apply writeCmd_inv | apply inv_next

theorem execTripfClear_inv {f q} {x0 x1 x2 x3} (hx3 : Inv f q x3) : InvR f q (execTripfClear x0 x1 x2 x3) := by
  unfold execTripfClear; with_reducible repeat' first | assumption | apply writeCmd_inv | apply inv_next

theorem execHarnCntClr_inv {f q} {x0 x1 x2} (hx2 : Inv f q x2) : InvR f q (execHarnCntClr x0 x1 x2) := by
  unfold execHarnCntClr; with_reducible repeat' first | assumption | apply setBitCmd_inv | apply inv_next

theorem deadTimeEndOp_inv {f q} {x0 x1} (hx1 : Inv f q x1) : Inv f q (deadTimeEndOp x0 x1) := by
  unfold deadTimeEndOp; with_reducible repeat' first | assumption | apply stageEdge_inv | apply modSide_inv | split

theorem execDeadTimeEnd_inv {f q} {x0 x1 x2} (hx2 : Inv f q x2) : InvR f q (execDeadTimeEnd x0 x1 x2) := by
  unfold execDeadTimeEnd; with_reducible repeat' first | assumption | apply atOpt_inv | apply deadTimeEndOp_inv | apply inv_next

theorem execReedCntClr_inv {f q} {x0 x1 x2} (hx2 : Inv f q x2) : InvR f q (execReedCntClr x0 x1 x2) := by
  unfold execReedCntClr; with_reducible repeat' first | assumption | apply setBitCmd_inv | apply inv_next

theorem execCalibrationStep_inv {f q} {x0 x1 x2} (hx2 : Inv f q x2) : InvR f q (execCalibrationStep x0 x1 x2) := by
  unfold execCalibrationStep; with_reducible repeat' first | intro _ | assumption | apply nowIf_inv | apply schedule_inv | rfl | apply inv_ite | apply inv_id | apply invR_ite | apply inv_next | apply inv_ite_fst | apply inv_ite_snd | apply inv_foldl | apply inv_foldl_fst | apply inv_foldl_snd | split | dsimp only | (unfold Inv; dsimp only; apply inv_fold)

/-! ### ExecCard.lean -/

theorem execCardPlace_inv {f q} {x0} (hx0 : Inv f q x0) : InvR f q (execCardPlace x0) := by
  unfold execCardPlace; with_reducible repeat' first | intro _ | assumption | apply atOpt_inv | apply placeFirst_inv | rfl | apply inv_ite | apply inv_id | apply invR_ite | apply inv_next | apply inv_ite_fst | apply inv_ite_snd | apply inv_foldl | apply inv_foldl_fst | apply inv_foldl_snd | split | dsimp only | (unfold Inv; dsimp only; apply inv_fold)

theorem execNearPromotion_inv {f q} {x0 x1} (hx1 : Inv f q x1) : InvR f q (execNearPromotion x0 x1) := by
  unfold execNearPromotion; with_reducible repeat' first | assumption | apply atTime_inv | apply promote_inv | apply inv_next

theorem actAt_inv {f q} {x0 x1 x2} (hx2 : Inv f q x2) : InvR f q (actAt x0 x1 x2) := by
  unfold actAt; with_reducible repeat' first | intro _ | assumption | apply advanceTo_inv | apply settle_inv | apply dispatchUpTo_inv | rfl | apply inv_ite | apply inv_id | apply invR_ite | apply inv_next | apply inv_ite_fst | apply inv_ite_snd | apply inv_foldl | apply inv_foldl_fst | apply inv_foldl_snd | split | dsimp only | (unfold Inv; dsimp only; apply inv_fold)

theorem fireAt_inv {f q} {x0 x1 x2} (hx2 : Inv f q x2) : InvR f q (fireAt x0 x1 x2) := by
  unfold fireAt; with_reducible repeat' first | intro _ | assumption | apply settle_inv | apply passCard_inv | apply actAt_inv | rfl | apply inv_ite | apply inv_id | apply invR_ite | apply inv_next | apply inv_ite_fst | apply inv_ite_snd | apply inv_foldl | apply inv_foldl_fst | apply inv_foldl_snd | split | dsimp only | (unfold Inv; dsimp only; apply inv_fold)

theorem execCardSet_inv {f q} {x0 x1} (hx1 : Inv f q x1) : InvR f q (execCardSet x0 x1) := by
  unfold execCardSet; with_reducible repeat' first | assumption | apply fireAt_inv | apply inv_next

theorem execCardClear_inv {f q} {x0 x1} (hx1 : Inv f q x1) : InvR f q (execCardClear x0 x1) := by
  unfold execCardClear; with_reducible repeat' first | assumption | apply fireAt_inv | apply inv_next

theorem execCardToggle_inv {f q} {x0 x1} (hx1 : Inv f q x1) : InvR f q (execCardToggle x0 x1) := by
  unfold execCardToggle; with_reducible repeat' first | assumption | apply fireAt_inv | apply inv_next

theorem execCardPulse_inv {f q} {x0 x1} (hx1 : Inv f q x1) : InvR f q (execCardPulse x0 x1) := by
  unfold execCardPulse; with_reducible repeat' first | assumption | apply fireAt_inv | apply inv_next

theorem execLoadCmpa_inv {f q} {x0 x1} (hx1 : Inv f q x1) : InvR f q (execLoadCmpa x0 x1) := by
  unfold execLoadCmpa; with_reducible repeat' first | assumption | apply fireAt_inv | apply inv_next

theorem execLoadCmpb_inv {f q} {x0 x1} (hx1 : Inv f q x1) : InvR f q (execLoadCmpb x0 x1) := by
  unfold execLoadCmpb; with_reducible repeat' first | assumption | apply fireAt_inv | apply inv_next

theorem execUserEvent_inv {f q} {x0 x1} (hx1 : Inv f q x1) : InvR f q (execUserEvent x0 x1) := by
  unfold execUserEvent; with_reducible repeat' first | assumption | apply fireAt_inv | apply inv_next

theorem execExpress_inv {f q} {x0 x1} (hx1 : Inv f q x1) : InvR f q (execExpress x0 x1) := by
  unfold execExpress; with_reducible repeat' first | assumption | apply fireAt_inv | apply inv_next

theorem execPulseEnd_inv {f q} {x0 x1} (hx1 : Inv f q x1) : InvR f q (execPulseEnd x0 x1) := by
  unfold execPulseEnd; with_reducible repeat' first | intro _ | assumption | apply actAt_inv | rfl | apply inv_ite | apply inv_id | apply invR_ite | apply inv_next | apply inv_ite_fst | apply inv_ite_snd | apply inv_foldl | apply inv_foldl_fst | apply inv_foldl_snd | split | dsimp only | (unfold Inv; dsimp only; apply inv_fold)

theorem execCapEnd_inv {f q} {x0 x1} (hx1 : Inv f q x1) : InvR f q (execCapEnd x0 x1) := by
  unfold execCapEnd; with_reducible repeat' first | intro _ | assumption | apply actAt_inv | rfl | apply inv_ite | apply inv_id | apply invR_ite | apply inv_next | apply inv_ite_fst | apply inv_ite_snd | apply inv_foldl | apply inv_foldl_fst | apply inv_foldl_snd | split | dsimp only | (unfold Inv; dsimp only; apply inv_fold)

theorem execCrRdWrite_inv {f q} {x0 x1 x2} (hx2 : Inv f q x2) : InvR f q (execCrRdWrite x0 x1 x2) := by
  unfold execCrRdWrite; with_reducible repeat' first | assumption | apply writeCmd_inv | apply inv_next

theorem execRingConfigWrite_inv {f q} {x0 x1 x2 x3} (hx3 : Inv f q x3) : InvR f q (execRingConfigWrite x0 x1 x2 x3) := by
  unfold execRingConfigWrite; with_reducible repeat' first | assumption | apply writeCmd_inv | apply inv_next

theorem execCardCntClr_inv {f q} {x0 x1} (hx1 : Inv f q x1) : InvR f q (execCardCntClr x0 x1) := by
  unfold execCardCntClr; with_reducible repeat' first | assumption | apply setBitCmd_inv | apply inv_next

/-! ### ExecTrack.lean -/

theorem takeEdge_inv {f q} {x0 x1} (hx1 : Inv f q x1) : Inv f q (takeEdge x0 x1) := by
  unfold takeEdge; with_reducible repeat' first | intro _ | assumption | apply judgeEdge_inv | rfl | apply inv_ite | apply inv_id | apply invR_ite | apply inv_next | apply inv_ite_fst | apply inv_ite_snd | apply inv_foldl | apply inv_foldl_fst | apply inv_foldl_snd | split | dsimp only | (unfold Inv; dsimp only; apply inv_fold)

theorem execTooth_inv {f q} {x0 x1 x2} (hx2 : Inv f q x2) : InvR f q (execTooth x0 x1 x2) := by
  unfold execTooth; with_reducible repeat' first | intro _ | assumption | apply nowIf_inv | apply takeEdge_inv | rfl | apply inv_ite | apply inv_id | apply invR_ite | apply inv_next | apply inv_ite_fst | apply inv_ite_snd | apply inv_foldl | apply inv_foldl_fst | apply inv_foldl_snd | split | dsimp only | (unfold Inv; dsimp only; apply inv_fold)

theorem execCycleStart_inv {f q} {x0 x1} (hx1 : Inv f q x1) : InvR f q (execCycleStart x0 x1) := by
  unfold execCycleStart; with_reducible repeat' first | intro _ | assumption | apply atOpt_inv | apply trdRaise_inv | apply modTrd_inv | apply inv_next | split

theorem execSecondaryEdge_inv {f q} {x0 x1 x2} (hx2 : Inv f q x2) : InvR f q (execSecondaryEdge x0 x1 x2) := by
  unfold execSecondaryEdge; with_reducible repeat' first | intro _ | assumption | apply nowIf_inv | apply takeEdge_inv | rfl | apply inv_ite | apply inv_id | apply invR_ite | apply inv_next | apply inv_ite_fst | apply inv_ite_snd | apply inv_foldl | apply inv_foldl_fst | apply inv_foldl_snd | split | dsimp only | (unfold Inv; dsimp only; apply inv_fold)

theorem execSecondaryWindowMiss_inv {f q} {x0 x1 x2} (hx2 : Inv f q x2) : InvR f q (execSecondaryWindowMiss x0 x1 x2) := by
  unfold execSecondaryWindowMiss; with_reducible repeat' first | intro _ | assumption | apply nowIf_inv | apply windowBad_inv | apply modTrd_inv | apply inv_next

theorem execStall_inv {f q} {x0 x1} (hx1 : Inv f q x1) : InvR f q (execStall x0 x1) := by
  unfold execStall; with_reducible repeat' first | intro _ | assumption | apply atOpt_inv | apply judgeEdges_inv | apply declareStall_inv | apply schedule_inv | rfl | apply inv_ite | apply inv_id | apply invR_ite | apply inv_next | apply inv_ite_fst | apply inv_ite_snd | apply inv_foldl | apply inv_foldl_fst | apply inv_foldl_snd | split | dsimp only | (unfold Inv; dsimp only; apply inv_fold)

theorem beaconMissOp_inv {f q} {x0 x1} (hx1 : Inv f q x1) : Inv f q (beaconMissOp x0 x1) := by
  unfold beaconMissOp; with_reducible repeat' first | assumption | apply inv_ite | apply modTrd_inv | apply lose_inv | apply setTrdState_inv

theorem execBeaconMiss_inv {f q} {x0 x1} (hx1 : Inv f q x1) : InvR f q (execBeaconMiss x0 x1) := by
  unfold execBeaconMiss; with_reducible repeat' first | assumption | apply nowIf_inv | apply beaconMissOp_inv | apply inv_next

theorem execTrackerEnable_inv {f q} {x0 x1 x2 x3} (hx3 : Inv f q x3) : InvR f q (execTrackerEnable x0 x1 x2 x3) := by
  unfold execTrackerEnable; with_reducible repeat' first | assumption | apply writeCmd_inv | apply inv_next

theorem execTrackerDisable_inv {f q} {x0 x1 x2} (hx2 : Inv f q x2) : InvR f q (execTrackerDisable x0 x1 x2) := by
  unfold execTrackerDisable; with_reducible repeat' first | assumption | apply clearBitCmd_inv | apply inv_next

theorem execPhaseRead_inv {f q} {x0 x1 x2} (hx2 : Inv f q x2) : InvR f q (execPhaseRead x0 x1 x2) := by
  unfold execPhaseRead; with_reducible repeat' first | assumption | apply readCmd_inv | apply inv_next

theorem execTrRdWrite_inv {f q} {x0 x1 x2 x3} (hx3 : Inv f q x3) : InvR f q (execTrRdWrite x0 x1 x2 x3) := by
  unfold execTrRdWrite; with_reducible repeat' first | assumption | apply writeCmd_inv | apply inv_next

theorem execTrConfigWrite_inv {f q} {x0 x1 x2 x3 x4} (hx4 : Inv f q x4) : InvR f q (execTrConfigWrite x0 x1 x2 x3 x4) := by
  unfold execTrConfigWrite; with_reducible repeat' first | assumption | apply writeCmd_inv | apply inv_next

theorem execTrdCntClr_inv {f q} {x0 x1 x2} (hx2 : Inv f q x2) : InvR f q (execTrdCntClr x0 x1 x2) := by
  unfold execTrdCntClr; with_reducible repeat' first | assumption | apply setBitCmd_inv | apply inv_next

/-! ### ExecPos.lean -/

theorem execPosEnable_inv {f q} {x0 x1 x2 x3} (hx3 : Inv f q x3) : InvR f q (execPosEnable x0 x1 x2 x3) := by
  unfold execPosEnable; with_reducible repeat' first | assumption | apply writeCmd_inv | apply inv_next

theorem execPosDisable_inv {f q} {x0 x1 x2} (hx2 : Inv f q x2) : InvR f q (execPosDisable x0 x1 x2) := by
  unfold execPosDisable; with_reducible repeat' first | assumption | apply clearBitCmd_inv | apply inv_next

theorem execPosFilterSample_inv {f q} {x0 x1} (hx1 : Inv f q x1) : InvR f q (execPosFilterSample x0 x1) := by
  unfold execPosFilterSample; with_reducible repeat' first | assumption | apply atTime_inv | apply posSampleOp_inv | apply inv_next

theorem execPosLoad_inv {f q} {x0 x1 x2} (hx2 : Inv f q x2) : InvR f q (execPosLoad x0 x1 x2) := by
  unfold execPosLoad; with_reducible repeat' first | assumption | apply setBitCmd_inv | apply inv_next

theorem execLatch_inv {f q} {x0 x1 x2} (hx2 : Inv f q x2) : InvR f q (execLatch x0 x1 x2) := by
  unfold execLatch; with_reducible repeat' first | assumption | apply setBitCmd_inv | apply inv_next

theorem execEventLatch_inv {f q} {x0 x1} (hx1 : Inv f q x1) : InvR f q (execEventLatch x0 x1) := by
  unfold execEventLatch; with_reducible repeat' first | intro _ | assumption | apply atOpt_inv | apply latchArrive_inv | rfl | apply inv_ite | apply inv_id | apply invR_ite | apply inv_next | apply inv_ite_fst | apply inv_ite_snd | apply inv_foldl | apply inv_foldl_fst | apply inv_foldl_snd | split | dsimp only | (unfold Inv; dsimp only; apply inv_fold)

theorem execLatPosRead_inv {f q} {x0 x1 x2} (hx2 : Inv f q x2) : InvR f q (execLatPosRead x0 x1 x2) := by
  unfold execLatPosRead; with_reducible repeat' first | assumption | apply readCmd_inv | apply inv_next

theorem execStandstill_inv {f q} {x0 x1} (hx1 : Inv f q x1) : InvR f q (execStandstill x0 x1) := by
  unfold execStandstill; with_reducible repeat' first | assumption | apply atOpt_inv | apply posStandstill_inv | apply inv_next

theorem execSerStart_inv {f q} {x0 x1 x2} (hx2 : Inv f q x2) : InvR f q (execSerStart x0 x1 x2) := by
  unfold execSerStart; with_reducible repeat' first | assumption | apply setBitCmd_inv | apply inv_next

theorem execFrameStart_inv {f q} {x0 x1} (hx1 : Inv f q x1) : InvR f q (execFrameStart x0 x1) := by
  unfold execFrameStart; with_reducible repeat' first | intro _ | assumption | apply atOpt_inv | apply frameBegin_inv | apply takeFrame_inv | apply inv_next

theorem execWordLanding_inv {f q} {x0 x1 x2} (hx2 : Inv f q x2) : InvR f q (execWordLanding x0 x1 x2) := by
  unfold execWordLanding; with_reducible repeat' first | assumption | apply atOpt_inv | apply wordLand_inv | apply inv_next

theorem dataTimeoutOp_inv {f q} {x0 x1} (hx1 : Inv f q x1) : Inv f q (dataTimeoutOp x0 x1) := by
  unfold dataTimeoutOp; with_reducible repeat' first | assumption | apply faultyWord_inv | apply modPos_inv

theorem execDataTimeout_inv {f q} {x0 x1} (hx1 : Inv f q x1) : InvR f q (execDataTimeout x0 x1) := by
  unfold execDataTimeout; with_reducible repeat' first | assumption | apply atOpt_inv | apply dataTimeoutOp_inv | apply inv_next

theorem execPosCntClr_inv {f q} {x0 x1 x2} (hx2 : Inv f q x2) : InvR f q (execPosCntClr x0 x1 x2) := by
  unfold execPosCntClr; with_reducible repeat' first | assumption | apply setBitCmd_inv | apply inv_next

/-! ### ExecHed.lean -/

theorem hedSync_inv {f q} {x0 x1} (hx1 : Inv f q x1) : Inv f q (hedSync x0 x1) := by
  unfold hedSync; with_reducible repeat' first | assumption | apply syncTicks_inv | apply when__inv | apply modHed_inv

theorem hedAttempt_inv {f q} {x0 x1 x2} (hx1 : ∀ y0, Inv f q y0 → Inv f q (x1 y0)) (hx2 : Inv f q x2) : Inv f q (hedAttempt x0 x1 x2) := by
  unfold hedAttempt; with_reducible repeat' first | assumption | apply inv_ite | apply hx1 | apply hedSync_inv | apply hedFault_inv

theorem hedExec_inv {f q} {x0 x1 x2 x3 x4} (hx3 : ∀ y0, Inv f q y0 → Inv f q (x3 y0)) (hx4 : Inv f q x4) : InvR f q (hedExec x0 x1 x2 x3 x4) := by
  unfold hedExec; with_reducible repeat' first | intro _ | assumption | apply hx3 | apply atTime_inv | apply hedAttempt_inv | apply inv_next

theorem execHedJmp_inv {f q} {x0 x1 x2} (hx2 : Inv f q x2) : InvR f q (execHedJmp x0 x1 x2) := by
  unfold execHedJmp; with_reducible repeat' first | assumption | apply hedExec_inv | apply hedJmpOp_inv | apply inv_next

theorem waitLimitEnd_inv {f q} {x0 x1} (hx1 : Inv f q x1) : Inv f q (waitLimitEnd x0 x1) := by
  unfold waitLimitEnd; with_reducible repeat' first | assumption | apply hedNext_inv | apply setHedF_inv

theorem hedWaitAt_inv {f q} {x0 x1 x2} (hx2 : Inv f q x2) : Inv f q (hedWaitAt x0 x1 x2) := by
  unfold hedWaitAt; with_reducible repeat' first | intro _ | assumption | apply hedWaitOp_inv | apply waitLimitEnd_inv | rfl | apply inv_ite | apply inv_id | apply invR_ite | apply inv_next | apply inv_ite_fst | apply inv_ite_snd | apply inv_foldl | apply inv_foldl_fst | apply inv_foldl_snd | split | dsimp only | (unfold Inv; dsimp only; apply inv_fold)

theorem execHedWait_inv {f q} {x0 x1 x2} (hx2 : Inv f q x2) : InvR f q (execHedWait x0 x1 x2) := by
  unfold execHedWait; with_reducible repeat' first | assumption | apply hedExec_inv | apply hedWaitAt_inv | apply inv_next

theorem execWaitLimit_inv {f q} {x0 x1} (hx1 : Inv f q x1) : InvR f q (execWaitLimit x0 x1) := by
  unfold execWaitLimit; with_reducible repeat' first | intro _ | assumption | apply atTime_inv | apply hedSync_inv | apply waitLimitEnd_inv | apply inv_next

theorem execHedOut_inv {f q} {x0 x1 x2} (hx2 : Inv f q x2) : InvR f q (execHedOut x0 x1 x2) := by
  unfold execHedOut; with_reducible repeat' first | assumption | apply hedExec_inv | apply hedOutOp_inv | apply inv_next

theorem execHedIn_inv {f q} {x0 x1 x2} (hx2 : Inv f q x2) : InvR f q (execHedIn x0 x1 x2) := by
  unfold execHedIn; with_reducible repeat' first | assumption | apply hedExec_inv | apply hedInOp_inv | apply inv_next

theorem execHedPull_inv {f q} {x0 x1 x2} (hx2 : Inv f q x2) : InvR f q (execHedPull x0 x1 x2) := by
  unfold execHedPull; with_reducible repeat' first | assumption | apply hedExec_inv | apply hedPullOp_inv | apply inv_next

theorem execHedPush_inv {f q} {x0 x1 x2} (hx2 : Inv f q x2) : InvR f q (execHedPush x0 x1 x2) := by
  unfold execHedPush; with_reducible repeat' first | assumption | apply hedExec_inv | apply hedPushOp_inv | apply inv_next

theorem execHedSet_inv {f q} {x0 x1 x2} (hx2 : Inv f q x2) : InvR f q (execHedSet x0 x1 x2) := by
  unfold execHedSet; with_reducible repeat' first | assumption | apply hedExec_inv | apply hedSetOp_inv | apply inv_next

theorem execHedMov_inv {f q} {x0 x1 x2} (hx2 : Inv f q x2) : InvR f q (execHedMov x0 x1 x2) := by
  unfold execHedMov; with_reducible repeat' first | assumption | apply hedExec_inv | apply hedMovOp_inv | apply inv_next

theorem execHedCrc_inv {f q} {x0 x1 x2} (hx2 : Inv f q x2) : InvR f q (execHedCrc x0 x1 x2) := by
  unfold execHedCrc; with_reducible repeat' first | assumption | apply hedExec_inv | apply hedCrcOp_inv | apply inv_next

theorem execHedStamp_inv {f q} {x0 x1 x2} (hx2 : Inv f q x2) : InvR f q (execHedStamp x0 x1 x2) := by
  unfold execHedStamp; with_reducible repeat' first | assumption | apply hedExec_inv | apply hedStampOp_inv | apply inv_next

theorem execHedInvalidOpcode_inv {f q} {x0 x1} (hx1 : Inv f q x1) : InvR f q (execHedInvalidOpcode x0 x1) := by
  unfold execHedInvalidOpcode; with_reducible repeat' first | intro _ | assumption | apply atTime_inv | apply hedAttempt_inv | apply hedFault_inv | apply inv_next

theorem execHedTriggerPending_inv {f q} {x0 x1} (hx1 : Inv f q x1) : InvR f q (execHedTriggerPending x0 x1) := by
  unfold execHedTriggerPending; with_reducible repeat' first | assumption | apply atOpt_inv | apply hedTriggerOp_inv | apply inv_next

theorem execTxdata_inv {f q} {x0 x1 x2 x3} (hx3 : Inv f q x3) : InvR f q (execTxdata x0 x1 x2 x3) := by
  unfold execTxdata; with_reducible repeat' first | assumption | apply writeCmd_inv | apply inv_next

theorem execRxdata_inv {f q} {x0 x1 x2} (hx2 : Inv f q x2) : InvR f q (execRxdata x0 x1 x2) := by
  unfold execRxdata; with_reducible repeat' first | assumption | apply readCmd_inv | apply inv_next

theorem execHedStart_inv {f q} {x0 x1 x2} (hx2 : Inv f q x2) : InvR f q (execHedStart x0 x1 x2) := by
  unfold execHedStart; with_reducible repeat' first | assumption | apply setBitCmd_inv | apply inv_next

theorem execHedStop_inv {f q} {x0 x1 x2} (hx2 : Inv f q x2) : InvR f q (execHedStop x0 x1 x2) := by
  unfold execHedStop; with_reducible repeat' first | assumption | apply clearBitCmd_inv | apply inv_next

theorem execFifoClr_inv {f q} {x0 x1 x2} (hx2 : Inv f q x2) : InvR f q (execFifoClr x0 x1 x2) := by
  unfold execFifoClr; with_reducible repeat' first | assumption | apply setBitCmd_inv | apply inv_next

theorem execCleanSwap_inv {f q} {x0 x1} (hx1 : Inv f q x1) : InvR f q (execCleanSwap x0 x1) := by
  unfold execCleanSwap; with_reducible repeat' first | assumption | apply atTime_inv | apply cleanSwapOp_inv | apply inv_next

theorem execForcedSwap_inv {f q} {x0 x1} (hx1 : Inv f q x1) : InvR f q (execForcedSwap x0 x1) := by
  unfold execForcedSwap; with_reducible repeat' first | assumption | apply atOpt_inv | apply swapForced_inv | apply inv_next

theorem execHedHalt_inv {f q} {x0 x1 x2} (hx2 : Inv f q x2) : InvR f q (execHedHalt x0 x1 x2) := by
  unfold execHedHalt; with_reducible repeat' first | assumption | apply setBitCmd_inv | apply inv_next

theorem execHedResume_inv {f q} {x0 x1 x2} (hx2 : Inv f q x2) : InvR f q (execHedResume x0 x1 x2) := by
  unfold execHedResume; with_reducible repeat' first | assumption | apply clearBitCmd_inv | apply inv_next

theorem execHedStep_inv {f q} {x0 x1 x2} (hx2 : Inv f q x2) : InvR f q (execHedStep x0 x1 x2) := by
  unfold execHedStep; with_reducible repeat' first | assumption | apply setBitCmd_inv | apply inv_next

theorem execHedCntClr_inv {f q} {x0 x1 x2} (hx2 : Inv f q x2) : InvR f q (execHedCntClr x0 x1 x2) := by
  unfold execHedCntClr; with_reducible repeat' first | assumption | apply setBitCmd_inv | apply inv_next

/-! ### ExecWin.lean -/

theorem execComparatorChange_inv {f q} {x0 x1 x2 x3} (hx3 : Inv f q x3) : InvR f q (execComparatorChange x0 x1 x2 x3) := by
  unfold execComparatorChange; with_reducible repeat' first | intro _ | assumption | apply atTime_inv | apply cmpChange_inv | apply ticksFirst_inv | rfl | apply inv_ite | apply inv_id | apply invR_ite | apply inv_next | apply inv_ite_fst | apply inv_ite_snd | apply inv_foldl | apply inv_foldl_fst | apply inv_foldl_snd | split | dsimp only | (unfold Inv; dsimp only; apply inv_fold)

theorem execComparatorEnable_inv {f q} {x0 x1 x2 x3} (hx3 : Inv f q x3) : InvR f q (execComparatorEnable x0 x1 x2 x3) := by
  unfold execComparatorEnable; with_reducible repeat' first | assumption | apply writeCmd_inv | apply inv_next

theorem execComparatorDisable_inv {f q} {x0 x1 x2} (hx2 : Inv f q x2) : InvR f q (execComparatorDisable x0 x1 x2) := by
  unfold execComparatorDisable; with_reducible repeat' first | assumption | apply clearBitCmd_inv | apply inv_next

theorem execIndetEvaluation_inv {f q} {x0 x1 x2} (hx2 : Inv f q x2) : InvR f q (execIndetEvaluation x0 x1 x2) := by
  unfold execIndetEvaluation; with_reducible repeat' first | assumption | apply atOpt_inv | apply cmpEvaluate_inv | apply inv_next

theorem settleEndOp_inv {f q} {x0 x1 x2} (hx2 : Inv f q x2) : Inv f q (settleEndOp x0 x1 x2) := by
  unfold settleEndOp; with_reducible repeat' first | intro _ | assumption | apply winLevels_inv | apply modCmp_inv | apply cmpEvaluate_inv | apply ticksFirst_inv | rfl | apply inv_ite | apply inv_id | apply invR_ite | apply inv_next | apply inv_ite_fst | apply inv_ite_snd | apply inv_foldl | apply inv_foldl_fst | apply inv_foldl_snd | split | dsimp only | (unfold Inv; dsimp only; apply inv_fold)

theorem execSettleEnd_inv {f q} {x0 x1 x2} (hx2 : Inv f q x2) : InvR f q (execSettleEnd x0 x1 x2) := by
  unfold execSettleEnd; with_reducible repeat' first | assumption | apply atOpt_inv | apply settleEndOp_inv | apply inv_next

theorem execIndetBandExit_inv {f q} {x0 x1 x2} (hx2 : Inv f q x2) : InvR f q (execIndetBandExit x0 x1 x2) := by
  unfold execIndetBandExit; with_reducible repeat' first | assumption | apply nowIf_inv | apply cmpAdopt_inv | apply inv_next

theorem execThreshWrite_inv {f q} {x0 x1 x2 x3} (hx3 : Inv f q x3) : InvR f q (execThreshWrite x0 x1 x2 x3) := by
  unfold execThreshWrite; with_reducible repeat' first | assumption | apply writeCmd_inv | apply inv_next

theorem execAdcTriggerPending_inv {f q} {x0 x1} (hx1 : Inv f q x1) : InvR f q (execAdcTriggerPending x0 x1) := by
  unfold execAdcTriggerPending; with_reducible repeat' first | assumption | apply atOpt_inv | apply adcTriggerOp_inv | apply inv_next

theorem sequenceStartOp_inv {f q} {x0} (hx0 : Inv f q x0) : Inv f q (sequenceStartOp x0) := by
  unfold sequenceStartOp; with_reducible repeat' first | assumption | apply modAdc_inv | split

theorem execSequenceStart_inv {f q} {x0} (hx0 : Inv f q x0) : InvR f q (execSequenceStart x0) := by
  unfold execSequenceStart; with_reducible repeat' first | assumption | apply atTime_inv | apply sequenceStartOp_inv | apply inv_next

theorem readbackDueOp_inv {f q} {x0} (hx0 : Inv f q x0) : Inv f q (readbackDueOp x0) := by
  unfold readbackDueOp; with_reducible repeat' first | assumption | apply modAdc_inv

theorem execReadbackDue_inv {f q} {x0} (hx0 : Inv f q x0) : InvR f q (execReadbackDue x0) := by
  unfold execReadbackDue; with_reducible repeat' first | assumption | apply atTime_inv | apply readbackDueOp_inv | apply inv_next

theorem conversionStartOp_inv {f q} {x0} (hx0 : Inv f q x0) : Inv f q (conversionStartOp x0) := by
  unfold conversionStartOp; with_reducible repeat' first | assumption | apply convStart_inv | apply modAdc_inv | split

theorem execConversionStart_inv {f q} {x0} (hx0 : Inv f q x0) : InvR f q (execConversionStart x0) := by
  unfold execConversionStart; with_reducible repeat' first | assumption | apply atTime_inv | apply conversionStartOp_inv | apply inv_next

theorem readbackResult_inv {f q} {x0 x1 x2 x3 x4 x5} (hx5 : Inv f q x5) : Inv f q (readbackResult x0 x1 x2 x3 x4 x5) := by
  unfold readbackResult; with_reducible repeat' first | assumption | apply inv_ite | apply when__inv | apply modFlt_inv | apply rset_inv | apply detect_inv | apply dacMismatch_inv

theorem conversionResultOp_inv {f q} {x0 x1} (hx1 : Inv f q x1) : Inv f q (conversionResultOp x0 x1) := by
  unfold conversionResultOp; with_reducible repeat' first | assumption | apply modAdc_inv | apply slotResult_inv | apply readbackResult_inv | split

theorem execConversionResult_inv {f q} {x0 x1} (hx1 : Inv f q x1) : InvR f q (execConversionResult x0 x1) := by
  unfold execConversionResult; with_reducible repeat' first | assumption | apply atOpt_inv | apply conversionResultOp_inv | apply inv_next

theorem execSlotRead_inv {f q} {x0 x1 x2} (hx2 : Inv f q x2) : InvR f q (execSlotRead x0 x1 x2) := by
  unfold execSlotRead; with_reducible repeat' first | assumption | apply readCmd_inv | apply inv_next

theorem execRqRdWrite_inv {f q} {x0 x1 x2} (hx2 : Inv f q x2) : InvR f q (execRqRdWrite x0 x1 x2) := by
  unfold execRqRdWrite; with_reducible repeat' first | assumption | apply writeCmd_inv | apply inv_next

theorem execWinCntClr_inv {f q} {x0 x1 x2} (hx2 : Inv f q x2) : InvR f q (execWinCntClr x0 x1 x2) := by
  unfold execWinCntClr; with_reducible repeat' first | assumption | apply setBitCmd_inv | apply inv_next

theorem execAdcCntClr_inv {f q} {x0 x1} (hx1 : Inv f q x1) : InvR f q (execAdcCntClr x0 x1) := by
  unfold execAdcCntClr; with_reducible repeat' first | assumption | apply setBitCmd_inv | apply inv_next

/-! ### ExecStore.lean -/

theorem execScrubRead_inv {f q} {x0} (hx0 : Inv f q x0) : InvR f q (execScrubRead x0) := by
  unfold execScrubRead; with_reducible repeat' first | assumption | apply atTime_inv | apply scrubOp_inv | apply inv_next

theorem execPreservingTest_inv {f q} {x0 x1 x2} (hx2 : Inv f q x2) : InvR f q (execPreservingTest x0 x1 x2) := by
  unfold execPreservingTest; with_reducible repeat' first | assumption | apply writeCmd_inv | apply inv_next

theorem execDestructiveTest_inv {f q} {x0 x1 x2} (hx2 : Inv f q x2) : InvR f q (execDestructiveTest x0 x1 x2) := by
  unfold execDestructiveTest; with_reducible repeat' first | assumption | apply writeCmd_inv | apply inv_next

theorem mtPhaseAt_inv {f q} {x0 x1 x2} (hx2 : Inv f q x2) : Inv f q (mtPhaseAt x0 x1 x2) :=
  inv_of hx2 rfl rfl rfl rfl

theorem copyPhase_inv {f q} {x0 x1 x2} (hx1 : ∀ a, Inv f q a → Inv f q (x1 a)) (hx2 : Inv f q x2) : InvR f q (copyPhase x0 x1 x2) := by
  unfold copyPhase; with_reducible repeat' first | intro _ | assumption | apply atTime_inv | apply advanceTo_inv | apply hx1 | rfl | apply inv_ite | apply inv_id | apply invR_ite | apply inv_next | apply inv_ite_fst | apply inv_ite_snd | apply inv_foldl | apply inv_foldl_fst | apply inv_foldl_snd | split | dsimp only | (unfold Inv; dsimp only; apply inv_fold)

theorem copyEndOp_inv {f q} {x0} (hx0 : Inv f q x0) : Inv f q (copyEndOp x0) := by
  unfold copyEndOp; with_reducible repeat' first | assumption | apply schedule_inv | apply mtPhaseAt_inv

theorem execCopyEnd_inv {f q} {x0} (hx0 : Inv f q x0) : InvR f q (execCopyEnd x0) := by
  unfold execCopyEnd; with_reducible repeat' first | intro _ | assumption | apply copyPhase_inv | apply copyEndOp_inv | rfl | apply inv_ite | apply inv_id | apply invR_ite | apply inv_next | apply inv_ite_fst | apply inv_ite_snd | apply inv_foldl | apply inv_foldl_fst | apply inv_foldl_snd | split | dsimp only | (unfold Inv; dsimp only; apply inv_fold)

theorem testFails_inv {f q} {x0 x1} (hx1 : Inv f q x1) : Inv f q (testFails x0 x1) := by
  unfold testFails; with_reducible repeat' first | assumption | apply inv_ite | apply bankFailed_inv | apply detect_inv | apply repairJob_inv

theorem mtRelease_inv {f q} {x0 x1} (hx1 : Inv f q x1) : Inv f q (mtRelease x0 x1) := by
  unfold mtRelease; with_reducible repeat' first | intro _ | assumption | apply mtSet_inv | apply schedule_inv | rfl | apply inv_ite | apply inv_id | apply invR_ite | apply inv_next | apply inv_ite_fst | apply inv_ite_snd | apply inv_foldl | apply inv_foldl_fst | apply inv_foldl_snd | split | dsimp only | (unfold Inv; dsimp only; apply inv_fold)

theorem testEndOp_inv {f q} {x0 x1} (hx1 : Inv f q x1) : Inv f q (testEndOp x0 x1) := by
  unfold testEndOp; with_reducible repeat' first | intro _ | assumption | apply mtPhaseAt_inv | apply mtRelease_inv | apply testFails_inv | apply clearBank_inv | apply mtFinish_inv | rfl | apply inv_ite | apply inv_id | apply invR_ite | apply inv_next | apply inv_ite_fst | apply inv_ite_snd | apply inv_foldl | apply inv_foldl_fst | apply inv_foldl_snd | split | dsimp only | (unfold Inv; dsimp only; apply inv_fold)

theorem execTestEnd_inv {f q} {x0 x1} (hx1 : Inv f q x1) : InvR f q (execTestEnd x0 x1) := by
  unfold execTestEnd; with_reducible repeat' first | assumption | apply atTime_inv | apply testEndOp_inv | apply inv_next

theorem execRestoreEnd_inv {f q} {x0} (hx0 : Inv f q x0) : InvR f q (execRestoreEnd x0) := by
  unfold execRestoreEnd; with_reducible repeat' first | intro _ | assumption | apply copyPhase_inv | apply mtRelease_inv | rfl | apply inv_ite | apply inv_id | apply invR_ite | apply inv_next | apply inv_ite_fst | apply inv_ite_snd | apply inv_foldl | apply inv_foldl_fst | apply inv_foldl_snd | split | dsimp only | (unfold Inv; dsimp only; apply inv_fold)

theorem execStoreCntClr_inv {f q} {x0 x1} (hx1 : Inv f q x1) : InvR f q (execStoreCntClr x0 x1) := by
  unfold execStoreCntClr; with_reducible repeat' first | assumption | apply setBitCmd_inv | apply inv_next

theorem execBobStart_inv {f q} {x0 x1 x2 x3} (hx3 : Inv f q x3) : InvR f q (execBobStart x0 x1 x2 x3) := by
  unfold execBobStart; with_reducible repeat' first | assumption | apply writeCmd_inv | apply inv_next

theorem execBobAbort_inv {f q} {x0 x1 x2} (hx2 : Inv f q x2) : InvR f q (execBobAbort x0 x1 x2) := by
  unfold execBobAbort; with_reducible repeat' first | assumption | apply setBitCmd_inv | apply inv_next

theorem execGateOpen_inv {f q} {x0 x1} (hx1 : Inv f q x1) : InvR f q (execGateOpen x0 x1) := by
  unfold execGateOpen; with_reducible repeat' first | assumption | apply atOpt_inv | apply setb_inv | apply inv_next

theorem execGateClose_inv {f q} {x0 x1} (hx1 : Inv f q x1) : InvR f q (execGateClose x0 x1) := by
  unfold execGateClose; with_reducible repeat' first | assumption | apply atOpt_inv | apply setb_inv | apply inv_next

theorem transactionIssueOp_inv {f q} {x0 x1} (hx1 : Inv f q x1) : Inv f q (transactionIssueOp x0 x1) := by
  unfold transactionIssueOp; with_reducible repeat' first | assumption | apply bobIssue_inv | split

theorem execTransactionIssue_inv {f q} {x0 x1} (hx1 : Inv f q x1) : InvR f q (execTransactionIssue x0 x1) := by
  unfold execTransactionIssue; with_reducible repeat' first | intro _ | assumption | apply atTime_inv | apply transactionIssueOp_inv | apply takeTurn_inv | rfl | apply inv_ite | apply inv_id | apply invR_ite | apply inv_next | apply inv_ite_fst | apply inv_ite_snd | apply inv_foldl | apply inv_foldl_fst | apply inv_foldl_snd | split | dsimp only | (unfold Inv; dsimp only; apply inv_fold)

theorem transactionReturnOp_inv {f q} {x0 x1 x2 x3} (hx3 : Inv f q x3) : Inv f q (transactionReturnOp x0 x1 x2 x3) := by
  unfold transactionReturnOp; with_reducible repeat' first | assumption | apply bobDrop_inv | apply bobTake_inv | apply bobError_inv | split

theorem execTransactionReturn_inv {f q} {x0 x1 x2} (hx2 : Inv f q x2) : InvR f q (execTransactionReturn x0 x1 x2) := by
  unfold execTransactionReturn; with_reducible repeat' first | intro _ | assumption | apply atTime_inv | apply transactionReturnOp_inv | apply takeTurn_inv | rfl | apply inv_ite | apply inv_id | apply invR_ite | apply inv_next | apply inv_ite_fst | apply inv_ite_snd | apply inv_foldl | apply inv_foldl_fst | apply inv_foldl_snd | split | dsimp only | (unfold Inv; dsimp only; apply inv_fold)

theorem execHostCompletionTimeout_inv {f q} {x0 x1} (hx1 : Inv f q x1) : InvR f q (execHostCompletionTimeout x0 x1) := by
  unfold execHostCompletionTimeout; with_reducible repeat' first | intro _ | assumption | apply atTime_inv | apply bobError_inv | apply bobDrop_inv | apply inv_next | split

theorem execHqPtrWrite_inv {f q} {x0 x1 x2 x3} (hx3 : Inv f q x3) : InvR f q (execHqPtrWrite x0 x1 x2 x3) := by
  unfold execHqPtrWrite; with_reducible repeat' first | assumption | apply writeCmd_inv | apply inv_next

theorem execBobCntClr_inv {f q} {x0 x1 x2} (hx2 : Inv f q x2) : InvR f q (execBobCntClr x0 x1 x2) := by
  unfold execBobCntClr; with_reducible repeat' first | assumption | apply setBitCmd_inv | apply inv_next

theorem execBobcCntClr_inv {f q} {x0 x1} (hx1 : Inv f q x1) : InvR f q (execBobcCntClr x0 x1) := by
  unfold execBobcCntClr; with_reducible repeat' first | assumption | apply setBitCmd_inv | apply inv_next

/-! ### ExecVec.lean -/

theorem execRaiseArrival_inv {f q} {x0 x1} (hx1 : Inv f q x1) : InvR f q (execRaiseArrival x0 x1) := by
  unfold execRaiseArrival; with_reducible repeat' first | assumption | apply atOpt_inv | apply raiseArrivalOp_inv | apply inv_next

theorem execCoalesceTimeout_inv {f q} {x0 x1} (hx1 : Inv f q x1) : InvR f q (execCoalesceTimeout x0 x1) := by
  unfold execCoalesceTimeout; with_reducible repeat' first | assumption | apply atOpt_inv | apply vecReadyNow_inv | apply inv_next

theorem execMsixHandover_inv {f q} {x0 x1} (hx1 : Inv f q x1) : InvR f q (execMsixHandover x0 x1) := by
  unfold execMsixHandover; with_reducible repeat' first | assumption | apply atTime_inv | apply msixSend_inv | apply inv_next

theorem execIrqAssert_inv {f q} {x0 x1} (hx1 : Inv f q x1) : InvR f q (execIrqAssert x0 x1) := by
  unfold execIrqAssert; with_reducible repeat' first | assumption | apply atTime_inv | apply irqAssertOp_inv | apply inv_next

theorem execPendClear_inv {f q} {x0 x1 x2} (hx2 : Inv f q x2) : InvR f q (execPendClear x0 x1 x2) := by
  unfold execPendClear; with_reducible repeat' first | assumption | apply setBitCmd_inv | apply inv_next

theorem execMaskClear_inv {f q} {x0 x1 x2} (hx2 : Inv f q x2) : InvR f q (execMaskClear x0 x1 x2) := by
  unfold execMaskClear; with_reducible repeat' first | assumption | apply clearBitCmd_inv | apply inv_next

theorem execVecCtlWrite_inv {f q} {x0 x1 x2 x3} (hx3 : Inv f q x3) : InvR f q (execVecCtlWrite x0 x1 x2 x3) := by
  unfold execVecCtlWrite; with_reducible repeat' first | assumption | apply writeCmd_inv | apply inv_next

theorem execEvmCntClr_inv {f q} {x0 x1} (hx1 : Inv f q x1) : InvR f q (execEvmCntClr x0 x1) := by
  unfold execEvmCntClr; with_reducible repeat' first | assumption | apply setBitCmd_inv | apply inv_next

theorem execVecCntClr_inv {f q} {x0 x1 x2} (hx2 : Inv f q x2) : InvR f q (execVecCntClr x0 x1 x2) := by
  unfold execVecCntClr; with_reducible repeat' first | assumption | apply setBitCmd_inv | apply inv_next

/-! ### ExecMode.lean -/

theorem execPowerOnReset_inv {f q} {x0} (hx0 : Inv f q x0) : InvR f q (execPowerOnReset x0) := by
  unfold execPowerOnReset; with_reducible repeat' first | assumption | apply nowIf_inv | apply deviceReset_inv | apply inv_next

theorem pinResetOp_inv {f q} {x0} (hx0 : Inv f q x0) : Inv f q (pinResetOp x0) := by
  unfold pinResetOp; with_reducible repeat' first | intro _ | assumption | apply deviceReset_inv | rfl | apply inv_ite | apply inv_id | apply invR_ite | apply inv_next | apply inv_ite_fst | apply inv_ite_snd | apply inv_foldl | apply inv_foldl_fst | apply inv_foldl_snd | split | dsimp only | (unfold Inv; dsimp only; apply inv_fold)

theorem execPinReset_inv {f q} {x0} (hx0 : Inv f q x0) : InvR f q (execPinReset x0) := by
  unfold execPinReset; with_reducible repeat' first | assumption | apply nowIf_inv | apply pinResetOp_inv | apply inv_next

theorem execBrownOut_inv {f q} {x0} (hx0 : Inv f q x0) : InvR f q (execBrownOut x0) := by
  unfold execBrownOut; with_reducible repeat' first | assumption | apply nowIf_inv | apply deviceReset_inv | apply inv_next

theorem releaseOp_inv {f q} {x0 x1 x2} (hx2 : Inv f q x2) : Inv f q (releaseOp x0 x1 x2) := by
  unfold releaseOp; with_reducible repeat' first | intro _ | assumption | apply setb_inv | apply setMode_inv | split | dsimp only | (unfold Inv; dsimp only; apply inv_fold)

theorem execResetRelease_inv {f q} {x0 x1 x2} (hx2 : Inv f q x2) : InvR f q (execResetRelease x0 x1 x2) := by
  unfold execResetRelease; with_reducible repeat' first | assumption | apply nowIf_inv | apply releaseOp_inv | apply inv_next

theorem setBoot_inv {f q} {x0 x1} (hx1 : Inv f q x1) : Inv f q (setBoot x0 x1) := by
  unfold setBoot; with_reducible repeat' first | assumption | apply modTack_inv

theorem pllLockOp_inv {f q} {x0} (hx0 : Inv f q x0) : Inv f q (pllLockOp x0) := by
  unfold pllLockOp; with_reducible repeat' first | intro _ | assumption | apply setBoot_inv | apply clkChange_inv | split | dsimp only | (unfold Inv; dsimp only; apply inv_fold)

theorem execPllLock_inv {f q} {x0} (hx0 : Inv f q x0) : InvR f q (execPllLock x0) := by
  unfold execPllLock; with_reducible repeat' first | assumption | apply nowIf_inv | apply pllLockOp_inv | apply inv_next

theorem discoveryOp_inv {f q} {x0 x1 x2 x3} (hx3 : Inv f q x3) : Inv f q (discoveryOp x0 x1 x2 x3) := by
  unfold discoveryOp; with_reducible repeat' first | assumption | apply setb_inv | apply rset_inv | apply logResume_inv | apply setBoot_inv | apply when__inv | apply logCause_inv

theorem execFlashDiscovery_inv {f q} {x0 x1 x2 x3} (hx3 : Inv f q x3) : InvR f q (execFlashDiscovery x0 x1 x2 x3) := by
  unfold execFlashDiscovery; with_reducible repeat' first | assumption | apply nowIf_inv | apply discoveryOp_inv | apply inv_next

theorem firmwareOp_inv {f q} {x0 x1} (hx1 : Inv f q x1) : Inv f q (firmwareOp x0 x1) := by
  unfold firmwareOp; with_reducible repeat' first | intro _ | assumption | apply setMode_inv | apply readRepairs_inv | apply logDrain_inv | apply setBoot_inv | apply fwStart_inv | rfl | apply inv_ite | apply inv_id | apply invR_ite | apply inv_next | apply inv_ite_fst | apply inv_ite_snd | apply inv_foldl | apply inv_foldl_fst | apply inv_foldl_snd | split | dsimp only | (unfold Inv; dsimp only; apply inv_fold)

theorem execFirmwareSelection_inv {f q} {x0} (hx0 : Inv f q x0) : InvR f q (execFirmwareSelection x0) := by
  unfold execFirmwareSelection; with_reducible repeat' first | assumption | apply nowIf_inv | apply firmwareOp_inv | apply inv_next | split

theorem bootBank_inv {f q} {x0 x1 x2} (hx2 : Inv f q x2.2) : Inv f q (bootBank x0 x1 x2).2 := by
  unfold bootBank; with_reducible repeat' first | intro _ | assumption | apply bankFailed_inv | split | dsimp only | (unfold Inv; dsimp only; apply inv_fold)

theorem bootRecord_inv {f q} {x0} (hx0 : Inv f q x0) : Inv f q (bootRecord x0) := by
  unfold bootRecord; with_reducible repeat' first | assumption | apply logCause_inv

theorem marched_inv {f q} {x0} (hx0 : Inv f q x0) : Inv f q (marched x0) :=
  inv_of (inv_mem (m := []) hx0 fun _ => ⟨List.Pairwise.nil, fun _ h => by cases h⟩) rfl rfl rfl rfl

theorem selfTestOp_inv {f q} {x0 x1 x2} (hx2 : Inv f q x2) : Inv f q (selfTestOp x0 x1 x2) := by
  unfold selfTestOp
  have h1 := inv_foldl_snd (g := fun p b => bootBank x0 b p) (l := upto 0 48) (p := (false, _)) (fun p b h => bootBank_inv h)
    (marched_inv hx2)
  have h2 := forEach_inv (l := upto 0 4) (g := fun g => when_ (x0.contains (48 + g)) (setb (Reg.storeSpare g) 30 true))
    (fun _ _ h => when__inv (fun _ h => setb_inv h) h) h1
  dsimp only
  split
  · refine setMode_inv (bootRecord_inv (setb_inv (setb_inv (setf_inv ?_))))
    split
    · exact h2
    · exact repairJob_inv h2
  · refine setMode_inv (setBoot_inv ?_)
    split
    · exact h2
    · exact repairJob_inv h2

theorem execSelfTestEnd_inv {f q} {x0 x1 x2} (hx2 : Inv f q x2) : InvR f q (execSelfTestEnd x0 x1 x2) := by
  unfold execSelfTestEnd; with_reducible repeat' first | intro _ | assumption | apply atTime_inv | apply selfTestOp_inv | rfl | apply inv_ite | apply inv_id | apply invR_ite | apply inv_next | apply inv_ite_fst | apply inv_ite_snd | apply inv_foldl | apply inv_foldl_fst | apply inv_foldl_snd | split | dsimp only | (unfold Inv; dsimp only; apply inv_fold)

theorem bootTimed_inv {f q} {x0} (hx0 : Inv f q x0) : Inv f q (bootTimed x0) := by
  unfold bootTimed; with_reducible repeat' first | assumption | apply freshWord_inv | apply rset_inv

theorem bootIds_inv {f q} {x0} (hx0 : Inv f q x0) : Inv f q (bootIds x0) :=
  inv_of hx0 rfl rfl rfl rfl

theorem bootApply_inv {f q} {x0 x1} (hx1 : Inv f q x1) : Inv f q (bootApply x0 x1) := by
  unfold bootApply; with_reducible repeat' first | intro _ | assumption | apply setMode_inv | apply bootRecord_inv | apply setb_inv | apply noteRegion_inv | apply bootIds_inv | apply loadDraft_inv | apply enterMode_inv | rfl | apply inv_ite | apply inv_id | apply invR_ite | apply inv_next | apply inv_ite_fst | apply inv_ite_snd | apply inv_foldl | apply inv_foldl_fst | apply inv_foldl_snd | split | dsimp only | (unfold Inv; dsimp only; apply inv_fold)

theorem bootDraftOp_inv {f q} {x0 x1} (hx1 : Inv f q x1) : Inv f q (bootDraftOp x0 x1) := by
  unfold bootDraftOp; with_reducible repeat' first | intro _ | assumption | apply readSlots_inv | apply bootApply_inv | apply bootTimed_inv | apply forEach_inv | apply setb_inv | apply rset_inv

theorem execBootDraftApplied_inv {f q} {x0 x1} (hx1 : Inv f q x1) : InvR f q (execBootDraftApplied x0 x1) := by
  unfold execBootDraftApplied; with_reducible repeat' first | assumption | apply nowIf_inv | apply bootDraftOp_inv | apply inv_next

theorem execReferenceLoss_inv {f q} {x0} (hx0 : Inv f q x0) : InvR f q (execReferenceLoss x0) := by
  unfold execReferenceLoss; with_reducible repeat' first | assumption | apply nowIf_inv | apply refLost_inv | apply inv_next

theorem refReturnOp_inv {f q} {x0} (hx0 : Inv f q x0) : Inv f q (refReturnOp x0) := by
  unfold refReturnOp; with_reducible repeat' first | intro _ | assumption | apply clkChange_inv | rfl | apply inv_ite | apply inv_id | apply invR_ite | apply inv_next | apply inv_ite_fst | apply inv_ite_snd | apply inv_foldl | apply inv_foldl_fst | apply inv_foldl_snd | split | dsimp only | (unfold Inv; dsimp only; apply inv_fold)

theorem execReferenceReturn_inv {f q} {x0} (hx0 : Inv f q x0) : InvR f q (execReferenceReturn x0) := by
  unfold execReferenceReturn; with_reducible repeat' first | assumption | apply nowIf_inv | apply refReturnOp_inv | apply inv_next

theorem execRestoreOk_inv {f q} {x0} (hx0 : Inv f q x0) : InvR f q (execRestoreOk x0) := by
  unfold execRestoreOk; with_reducible repeat' first | intro _ | assumption | apply atTime_inv | apply setb_inv | rfl | apply inv_ite | apply inv_id | apply invR_ite | apply inv_next | apply inv_ite_fst | apply inv_ite_snd | apply inv_foldl | apply inv_foldl_fst | apply inv_foldl_snd | split | dsimp only | (unfold Inv; dsimp only; apply inv_fold)

theorem execRestore_inv {f q} {x0 x1} (hx1 : Inv f q x1) : InvR f q (execRestore x0 x1) := by
  unfold execRestore; with_reducible repeat' first | assumption | apply writeCmd_inv | apply inv_next

theorem execPllLockLoss_inv {f q} {x0} (hx0 : Inv f q x0) : InvR f q (execPllLockLoss x0) := by
  unfold execPllLockLoss; with_reducible repeat' first | assumption | apply nowIf_inv | apply deviceReset_inv | apply inv_next

theorem execLatencyNsWrite_inv {f q} {x0 x1 x2} (hx2 : Inv f q x2) : InvR f q (execLatencyNsWrite x0 x1 x2) := by
  unfold execLatencyNsWrite; with_reducible repeat' first | assumption | apply writeCmd_inv | apply inv_next

theorem execDozeEntry_inv {f q} {x0} (hx0 : Inv f q x0) : InvR f q (execDozeEntry x0) := by
  unfold execDozeEntry; with_reducible repeat' first | assumption | apply nowIf_inv | apply setPower_inv | apply inv_next

theorem dozeExitOp_inv {f q} {x0} (hx0 : Inv f q x0) : Inv f q (dozeExitOp x0) := by
  unfold dozeExitOp; with_reducible repeat' first | intro _ | assumption | apply setPower_inv | split | dsimp only | (unfold Inv; dsimp only; apply inv_fold)

theorem execDozeExit_inv {f q} {x0} (hx0 : Inv f q x0) : InvR f q (execDozeExit x0) := by
  unfold execDozeExit; with_reducible repeat' first | assumption | apply nowIf_inv | apply dozeExitOp_inv | apply inv_next

theorem execSlumberEntry_inv {f q} {x0} (hx0 : Inv f q x0) : InvR f q (execSlumberEntry x0) := by
  unfold execSlumberEntry; with_reducible repeat' first | assumption | apply atTime_inv | apply enterSlumber_inv | apply inv_next | split

theorem execWakeComplete_inv {f q} {x0} (hx0 : Inv f q x0) : InvR f q (execWakeComplete x0) := by
  unfold execWakeComplete; with_reducible repeat' first | assumption | apply nowIf_inv | apply wakeDone_inv | apply inv_next

theorem bankSleepOp_inv {f q} {x0 x1} (hx1 : Inv f q x1) : Inv f q (bankSleepOp x0 x1) :=
  inv_of hx1 rfl rfl rfl rfl

theorem execBankSleep_inv {f q} {x0 x1} (hx1 : Inv f q x1) : InvR f q (execBankSleep x0 x1) := by
  unfold execBankSleep; with_reducible repeat' first | assumption | apply atTime_inv | apply bankSleepOp_inv | apply inv_next | split

theorem execPwrCntClr_inv {f q} {x0 x1} (hx1 : Inv f q x1) : InvR f q (execPwrCntClr x0 x1) := by
  unfold execPwrCntClr; with_reducible repeat' first | assumption | apply setBitCmd_inv | apply inv_next

theorem execSupplyLow_inv {f q} {x0 x1} (hx1 : Inv f q x1) : InvR f q (execSupplyLow x0 x1) := by
  unfold execSupplyLow; with_reducible repeat' first | assumption | apply nowIf_inv | apply supplyChange_inv | apply inv_next

theorem recoveryOp_inv {f q} {x0 x1} (hx1 : Inv f q x1) : Inv f q (recoveryOp x0 x1) := by
  unfold recoveryOp; with_reducible repeat' first | assumption | apply issueNext_inv | apply supplyChange_inv

theorem execSupplyRecovery_inv {f q} {x0 x1} (hx1 : Inv f q x1) : InvR f q (execSupplyRecovery x0 x1) := by
  unfold execSupplyRecovery; with_reducible repeat' first | intro _ | assumption | apply atTime_inv | apply recoveryOp_inv | rfl | apply inv_ite | apply inv_id | apply invR_ite | apply inv_next | apply inv_ite_fst | apply inv_ite_snd | apply inv_foldl | apply inv_foldl_fst | apply inv_foldl_snd | split | dsimp only | (unfold Inv; dsimp only; apply inv_fold)

/-! ### ExecDraft.lean -/

theorem rejectNote_inv {f q} {x0 x1} (hx1 : Inv f q x1) : Inv f q (rejectNote x0 x1) := by
  unfold rejectNote; with_reducible repeat' first | assumption | apply logCause_inv | apply count_inv

theorem revertOp_inv {f q} {x0 x1} (hx1 : Inv f q x1) : Inv f q (revertOp x0 x1) := by
  unfold revertOp; with_reducible repeat' first | assumption | apply inv_ite | apply bgOut_inv | apply rejectNote_inv | apply discardStaged_inv | apply enterChangeover_inv

theorem verifyEnd_inv {f q} {x0 x1} (hx1 : Inv f q x1) : Inv f q (verifyEnd x0 x1) := by
  unfold verifyEnd; with_reducible repeat' first | intro _ | assumption | apply verifyOp_inv | apply bgOut_inv | apply revertOp_inv | split | dsimp only | (unfold Inv; dsimp only; apply inv_fold)

theorem execVerifyComplete_inv {f q} {x0 x1} (hx1 : Inv f q x1) : InvR f q (execVerifyComplete x0 x1) := by
  unfold execVerifyComplete; with_reducible repeat' first | assumption | apply nowIf_inv | apply verifyEnd_inv | apply inv_next

theorem execSwitchInstant_inv {f q} {x0} (hx0 : Inv f q x0) : InvR f q (execSwitchInstant x0) := by
  unfold execSwitchInstant; with_reducible repeat' first | assumption | apply atOpt_inv | apply switchInstantOp_inv | apply inv_next | split

theorem execChannelApplication_inv {f q} {x0 x1} (hx1 : Inv f q x1) : InvR f q (execChannelApplication x0 x1) := by
  unfold execChannelApplication; with_reducible repeat' first | assumption | apply atTime_inv | apply channelApply_inv | apply inv_next

theorem execForcedApplication_inv {f q} {x0 x1} (hx1 : Inv f q x1) : InvR f q (execForcedApplication x0 x1) := by
  unfold execForcedApplication; with_reducible repeat' first | assumption | apply atTime_inv | apply channelForce_inv | apply inv_next

theorem execChangeoverEnd_inv {f q} {x0} (hx0 : Inv f q x0) : InvR f q (execChangeoverEnd x0) := by
  unfold execChangeoverEnd; with_reducible repeat' first | assumption | apply nowIf_inv | apply chgEnd_inv | apply inv_next

theorem execNonhitlessApply_inv {f q} {x0} (hx0 : Inv f q x0) : InvR f q (execNonhitlessApply x0) := by
  unfold execNonhitlessApply; with_reducible repeat' first | assumption | apply nowIf_inv | apply coldApply_inv | apply inv_next

theorem execSlotTableCommit_inv {f q} {x0} (hx0 : Inv f q x0) : InvR f q (execSlotTableCommit x0) := by
  unfold execSlotTableCommit; with_reducible repeat' first | assumption | apply nowIf_inv | apply commitOpSlots_inv | apply inv_next

theorem execChgCntClr_inv {f q} {x0 x1} (hx1 : Inv f q x1) : InvR f q (execChgCntClr x0 x1) := by
  unfold execChgCntClr; with_reducible repeat' first | assumption | apply setBitCmd_inv | apply inv_next

/-! ### ExecSel.lean -/

theorem execPortDown_inv {f q} {x0 x1} (hx1 : Inv f q x1) : InvR f q (execPortDown x0 x1) := by
  unfold execPortDown; with_reducible repeat' first | assumption | apply nowIf_inv | apply portDownOp_inv | apply inv_next

theorem execPortLock_inv {f q} {x0 x1} (hx1 : Inv f q x1) : InvR f q (execPortLock x0 x1) := by
  unfold execPortLock; with_reducible repeat' first | intro _ | assumption | apply nowIf_inv | apply portLockOp_inv | rfl | apply inv_ite | apply inv_id | apply invR_ite | apply inv_next | apply inv_ite_fst | apply inv_ite_snd | apply inv_foldl | apply inv_foldl_fst | apply inv_foldl_snd | split | dsimp only | (unfold Inv; dsimp only; apply inv_fold)

theorem execPortMeasure_inv {f q} {x0 x1} (hx1 : Inv f q x1) : InvR f q (execPortMeasure x0 x1) := by
  unfold execPortMeasure; with_reducible repeat' first | intro _ | assumption | apply atTime_inv | apply enterPort_inv | rfl | apply inv_ite | apply inv_id | apply invR_ite | apply inv_next | apply inv_ite_fst | apply inv_ite_snd | apply inv_foldl | apply inv_foldl_fst | apply inv_foldl_snd | split | dsimp only | (unfold Inv; dsimp only; apply inv_fold)

theorem portUpOp_inv {f q} {x0 x1} (hx1 : Inv f q x1) : Inv f q (portUpOp x0 x1) := by
  unfold portUpOp; with_reducible repeat' first | intro _ | assumption | apply raise_inv | apply enterPort_inv | rfl | apply inv_ite | apply inv_id | apply invR_ite | apply inv_next | apply inv_ite_fst | apply inv_ite_snd | apply inv_foldl | apply inv_foldl_fst | apply inv_foldl_snd | split | dsimp only | (unfold Inv; dsimp only; apply inv_fold)

theorem execPortUp_inv {f q} {x0 x1} (hx1 : Inv f q x1) : InvR f q (execPortUp x0 x1) := by
  unfold execPortUp; with_reducible repeat' first | assumption | apply nowIf_inv | apply portUpOp_inv | apply inv_next

theorem echoRequestOp_inv {f q} {x0 x1} (hx1 : Inv f q x1) : Inv f q (echoRequestOp x0 x1) := by
  unfold echoRequestOp; with_reducible repeat' first | assumption | apply modSel_inv

theorem execEchoRequest_inv {f q} {x0 x1} (hx1 : Inv f q x1) : InvR f q (execEchoRequest x0 x1) := by
  unfold execEchoRequest; with_reducible repeat' first | assumption | apply nowIf_inv | apply echoRequestOp_inv | apply inv_next

theorem echoAnswerOp_inv {f q} {x0 x1} (hx1 : Inv f q x1) : Inv f q (echoAnswerOp x0 x1) := by
  unfold echoAnswerOp; with_reducible repeat' first | intro _ | assumption | apply modSel_inv | rfl | apply inv_ite | apply inv_id | apply invR_ite | apply inv_next | apply inv_ite_fst | apply inv_ite_snd | apply inv_foldl | apply inv_foldl_fst | apply inv_foldl_snd | split | dsimp only | (unfold Inv; dsimp only; apply inv_fold)

theorem execEchoAnswer_inv {f q} {x0 x1} (hx1 : Inv f q x1) : InvR f q (execEchoAnswer x0 x1) := by
  unfold execEchoAnswer; with_reducible repeat' first | intro _ | assumption | apply atTime_inv | apply echoAnswerOp_inv | rfl | apply inv_ite | apply inv_id | apply invR_ite | apply inv_next | apply inv_ite_fst | apply inv_ite_snd | apply inv_foldl | apply inv_foldl_fst | apply inv_foldl_snd | split | dsimp only | (unfold Inv; dsimp only; apply inv_fold)

theorem execEchoReply_inv {f q} {x0 x1 x2} (hx2 : Inv f q x2) : InvR f q (execEchoReply x0 x1 x2) := by
  unfold execEchoReply; with_reducible repeat' first | assumption | apply nowIf_inv | apply echoReplyOp_inv | apply inv_next

theorem execTrainSend_inv {f q} {x0} (hx0 : Inv f q x0) : InvR f q (execTrainSend x0) := by
  unfold execTrainSend; with_reducible repeat' first | assumption | apply atTime_inv | apply trainSendOp_inv | apply inv_next

theorem execTrainReceive_inv {f q} {x0 x1 x2 x3} (hx3 : Inv f q x3) : InvR f q (execTrainReceive x0 x1 x2 x3) := by
  unfold execTrainReceive; with_reducible repeat' first | assumption | apply atTime_inv | apply trainReceiveOp_inv | apply inv_next

theorem execTrainReturn_inv {f q} {x0 x1 x2} (hx2 : Inv f q x2) : InvR f q (execTrainReturn x0 x1 x2) := by
  unfold execTrainReturn; with_reducible repeat' first | assumption | apply nowIf_inv | apply trainReturnOp_inv | apply inv_next

theorem execRingTimeout_inv {f q} {x0} (hx0 : Inv f q x0) : InvR f q (execRingTimeout x0) := by
  unfold execRingTimeout; with_reducible repeat' first | assumption | apply atOpt_inv | apply ringTimeoutOp_inv | apply inv_next

theorem execLineDeadline_inv {f q} {x0} (hx0 : Inv f q x0) : InvR f q (execLineDeadline x0) := by
  unfold execLineDeadline; with_reducible repeat' first | assumption | apply atOpt_inv | apply lineDeadlineOp_inv | apply inv_next

theorem execSelCntClr_inv {f q} {x0 x1} (hx1 : Inv f q x1) : InvR f q (execSelCntClr x0 x1) := by
  unfold execSelCntClr; with_reducible repeat' first | assumption | apply setBitCmd_inv | apply inv_next

/-! ### Port.lean -/

theorem modHost_inv {f q} {x0 x1} (hx1 : Inv f q x1) : Inv f q (modHost x0 x1) :=
  inv_of hx1 rfl rfl rfl rfl

theorem cfgSet_inv {f q} {x0 x1 x2} (hx2 : Inv f q x2) : Inv f q (cfgSet x0 x1 x2) := by
  unfold cfgSet; with_reducible repeat' first | assumption | apply modHost_inv

theorem portRun_inv {f q} {x0} (hx0 : Inv f q x0) : Inv f q (portRun x0) := by
  unfold portRun; with_reducible repeat' first | assumption | apply setb_inv

theorem cfgWrite_inv {f q} {x0 x1 x2} (hx2 : Inv f q x2) : Inv f q (cfgWrite x0 x1 x2) := by
  unfold cfgWrite; with_reducible repeat' first | intro _ | assumption | apply redeliverFrom_inv | apply portRun_inv | apply cfgSet_inv | rfl | apply inv_ite | apply inv_id | apply invR_ite | apply inv_next | apply inv_ite_fst | apply inv_ite_snd | apply inv_foldl | apply inv_foldl_fst | apply inv_foldl_snd | split | dsimp only | (unfold Inv; dsimp only; apply inv_fold)

theorem cfgOp_inv {f q} {x0 x1 x2 x3} (hx3 : Inv f q x3) : Inv f q (cfgOp x0 x1 x2 x3) := by
  unfold cfgOp; with_reducible repeat' first | intro _ | assumption | apply cfgWrite_inv | split | dsimp only | (unfold Inv; dsimp only; apply inv_fold)

theorem protCount_inv {f q} {x0 x1 x2 x3} (hx3 : Inv f q x3) : Inv f q (protCount x0 x1 x2 x3) := by
  unfold protCount; with_reducible repeat' first | assumption | apply inv_ite | apply setb_inv | apply count_inv | apply logLimited_inv | apply cfgSet_inv

theorem urOp_inv {f q} {x0} (hx0 : Inv f q x0) : Inv f q (urOp x0) := by
  unfold urOp; with_reducible repeat' first | assumption | apply protCount_inv | apply cfgSet_inv

theorem malformedOp_inv {f q} {x0} (hx0 : Inv f q x0) : Inv f q (malformedOp x0) := by
  unfold malformedOp; with_reducible repeat' first | assumption | apply protCount_inv

theorem poisonedOp_inv {f q} {x0} (hx0 : Inv f q x0) : Inv f q (poisonedOp x0) := by
  unfold poisonedOp; with_reducible repeat' first | assumption | apply protCount_inv | apply cfgSet_inv

theorem bar2Bad_inv {f q} {x0} (hx0 : Inv f q x0) : Inv f q (bar2Bad x0) := by
  unfold bar2Bad; with_reducible repeat' first | assumption | apply protCount_inv

theorem storeWrite_inv {f q} {x0 x1 x2} (hx2 : Inv f q x2) : Inv f q (storeWrite x0 x1 x2) := by
  unfold storeWrite; with_reducible repeat' first | intro _ | assumption | apply inv_ite | apply forEach_inv | apply holeDrop_inv | apply writeMemBytes_inv

theorem regsWrite_inv {f q} {x0 x1 x2} (hx2 : Inv f q x2) : Inv f q (regsWrite x0 x1 x2) := by
  unfold regsWrite; with_reducible repeat' first | intro _ | assumption | apply writeBe_inv | apply forEach_inv | apply schedule_inv

theorem newRead_inv {f q} {x0 x1 x2} (hx2 : Inv f q x2) : Inv f q (newRead x0 x1 x2) := by
  unfold newRead; with_reducible repeat' first | assumption | apply modHost_inv

theorem storeRead_inv {f q} {x0 x1 x2} (hx2 : Inv f q x2) : Inv f q (storeRead x0 x1 x2) := by
  unfold storeRead; with_reducible repeat' first | intro _ | assumption | apply forEach_inv | apply hostWake_inv | apply newRead_inv | apply portAsk_inv | rfl | apply inv_ite | apply inv_id | apply invR_ite | apply inv_next | apply inv_ite_fst | apply inv_ite_snd | apply inv_foldl | apply inv_foldl_fst | apply inv_foldl_snd | split | dsimp only | (unfold Inv; dsimp only; apply inv_fold)

theorem regsRead_inv {f q} {x0 x1 x2} (hx2 : Inv f q x2) : Inv f q (regsRead x0 x1 x2) := by
  unfold regsRead; with_reducible repeat' first | intro _ | assumption | apply readBe_inv | apply forEach_inv | apply schedule_inv | apply newRead_inv

theorem bar2Put_inv {f q} {x0 x1 x2} (hx2 : Inv f q x2) : Inv f q (bar2Put x0 x1 x2) := by
  unfold bar2Put; with_reducible repeat' first | intro _ | assumption | rfl | apply inv_ite | apply inv_id | apply invR_ite | apply inv_next | apply inv_ite_fst | apply inv_ite_snd | apply modHost_inv | apply inv_foldl | apply inv_foldl_fst | apply inv_foldl_snd | split | dsimp only | (unfold Inv; dsimp only; apply inv_fold)

theorem inv_opt_ite {f q} {c : Prop} [Decidable c] {a b : Option (State → State)} {s : State}
    (ha : ∀ g, a = some g → Inv f q (g s)) (hb : ∀ g, b = some g → Inv f q (g s)) :
    ∀ g, (if c then a else b) = some g → Inv f q (g s) := by
  split <;> assumption

theorem inv_opt_some {f q} {g : State → State} {s : State} (h : Inv f q (g s)) : ∀ k, some g = some k → Inv f q (k s) := by
  rintro k ⟨⟩; exact h

theorem pcieRefuse_inv {f q} {x0 x1 x2} (h : Inv f q x2) : ∀ g, pcieRefuse x0 x1 x2 = some g → Inv f q (g x2) :=
  inv_opt_ite (inv_opt_some (urOp_inv h)) (inv_opt_ite (inv_opt_some (malformedOp_inv h))
    (inv_opt_ite (inv_opt_some (poisonedOp_inv h)) (inv_opt_ite (inv_opt_some (urOp_inv h))
      (inv_opt_ite (inv_opt_some (urOp_inv h)) (fun _ e => nomatch e)))))

theorem pcieWriteOp_inv {f q} {x0 x1 x2} (hx2 : Inv f q x2) : Inv f q (pcieWriteOp x0 x1 x2) := by
  unfold pcieWriteOp
  dsimp only
  split
  · next g h => exact pcieRefuse_inv hx2 g h
  · with_reducible repeat' first | assumption | apply inv_ite | apply redeliverFrom_inv | apply bar2Bad_inv | apply storeWrite_inv | apply regsWrite_inv | exact forEach_inv (fun _ _ h => bar2Put_inv h) hx2

theorem pcieReadOp_inv {f q} {x0 x1 x2} (hx2 : Inv f q x2) : Inv f q (pcieReadOp x0 x1 x2) := by
  unfold pcieReadOp
  dsimp only
  split
  · next g h => exact inv_of (pcieRefuse_inv hx2 g h) rfl rfl rfl rfl
  · with_reducible repeat' first | assumption | apply inv_ite | apply newRead_inv | apply bar2Bad_inv | apply storeRead_inv | apply regsRead_inv

theorem readCompleteOp_inv {f q} {x0} (hx0 : Inv f q x0) : Inv f q (readCompleteOp x0) := by
  unfold readCompleteOp; with_reducible repeat' first | intro _ | assumption | apply modHost_inv | split | dsimp only | (unfold Inv; dsimp only; apply inv_fold)

theorem hostResetOp_inv {f q} {x0 x1} (hx1 : Inv f q x1) : Inv f q (hostResetOp x0 x1) := by
  unfold hostResetOp; with_reducible repeat' first | intro _ | assumption | apply countN_inv | apply modHost_inv | apply msixRedo_inv | apply bobLinkDrop_inv | apply setf_inv | apply raise_inv | apply count_inv | apply portRun_inv | split | dsimp only | (unfold Inv; dsimp only; apply inv_fold)

theorem linkTrainedOp_inv {f q} {x0 x1 x2} (hx2 : Inv f q x2) : Inv f q (linkTrainedOp x0 x1 x2) := by
  unfold linkTrainedOp; with_reducible repeat' first | intro _ | assumption | apply redeliverFrom_inv | apply portRun_inv | apply setf_inv | apply setb_inv | rfl | apply inv_ite | apply inv_id | apply invR_ite | apply inv_next | apply inv_ite_fst | apply inv_ite_snd | apply inv_foldl | apply inv_foldl_fst | apply inv_foldl_snd | split | dsimp only | (unfold Inv; dsimp only; apply inv_fold)

theorem spiFault_inv {f q} {x0 x1 x2} (hx2 : Inv f q x2) : Inv f q (spiFault x0 x1 x2) := by
  unfold spiFault; with_reducible repeat' first | assumption | apply setb_inv | apply count_inv | apply logLimited_inv

theorem spiAnswer_inv {f q} {x0 x1 x2 x3} (hx3 : Inv f q x3) : Inv f q (spiAnswer x0 x1 x2 x3) :=
  inv_of hx3 rfl rfl rfl rfl

theorem spiLand_inv {f q} {x0 x1 x2} (hx2 : Inv f q x2) : Inv f q (spiLand x0 x1 x2) := by
  unfold spiLand; with_reducible repeat' first | intro _ | assumption | apply writeDw_inv | apply forEach_inv | apply schedule_inv

theorem spiSample_inv {f q} {x0 x1 x2} (hx2 : Inv f q x2) : Inv f q (spiSample x0 x1 x2) := by
  unfold spiSample; with_reducible repeat' first | intro _ | assumption | apply forEach_inv | apply sampleDw_inv | apply schedule_inv | rfl | apply inv_ite | apply inv_id | apply invR_ite | apply inv_next | apply inv_ite_fst | apply inv_ite_snd | apply inv_foldl | apply inv_foldl_fst | apply inv_foldl_snd | split | dsimp only | (unfold Inv; dsimp only; apply inv_fold)

theorem spiFrameOp_inv {f q} {x0 x1} (hx1 : Inv f q x1) : Inv f q (spiFrameOp x0 x1) := by
  unfold spiFrameOp; with_reducible repeat' first | intro _ | assumption | apply spiFault_inv | apply spiLand_inv | apply spiAnswer_inv | apply spiSample_inv | split | dsimp only | (unfold Inv; dsimp only; apply inv_fold)

/-! ### Mail.lean -/

theorem setRun_inv {f q} {x0 x1 x2} (hx2 : Inv f q x2) : Inv f q (setRun x0 x1 x2) := by
  unfold setRun; with_reducible repeat' first | assumption | apply modHost_inv

theorem setWait_inv {f q} {x0 x1 x2} (hx2 : Inv f q x2) : Inv f q (setWait x0 x1 x2) := by
  unfold setWait; with_reducible repeat' first | assumption | apply modHost_inv

theorem laneOut_inv {f q} {x0 x1 x2} (hx2 : Inv f q x2) : Inv f q (laneOut x0 x1 x2) := by
  unfold laneOut; with_reducible repeat' first | assumption | apply setRun_inv

theorem laneOk_inv {f q} {x0 x1} (hx1 : Inv f q x1) : Inv f q (laneOk x0 x1) := by
  unfold laneOk; with_reducible repeat' first | assumption | apply laneOut_inv

theorem fetchBytes_inv {f q} {x0 x1 x2} (hx2 : Inv f q x2) : Inv f q (fetchBytes x0 x1 x2).2 := by
  unfold fetchBytes; with_reducible repeat' first | assumption | apply checkRead_inv

theorem rejectOp_inv {f q} {x0 x1 x2} (hx2 : Inv f q x2) : Inv f q (rejectOp x0 x1 x2) := by
  unfold rejectOp; with_reducible repeat' first | assumption | apply laneOut_inv | apply rejectNote_inv

theorem startChecks_inv {f q} {x0 x1 x2} (hx2 : Inv f q x2) : Inv f q (startChecks x0 x1 x2) := by
  unfold startChecks; with_reducible repeat' first | assumption | apply laneOut_inv | apply rejectOp_inv | split

theorem startOp_inv {f q} {x0 x1} (hx1 : Inv f q x1) : Inv f q (startOp x0 x1) := by
  unfold startOp; with_reducible repeat' first | assumption | apply startChecks_inv | apply setRun_inv | apply setWait_inv | split

theorem completeOp_inv {f q} {x0 x1} (hx1 : Inv f q x1) : Inv f q (completeOp x0 x1) := by
  unfold completeOp; with_reducible repeat' first | assumption | apply completeCmd_inv | apply setRun_inv | apply when__inv | apply modHost_inv | split

theorem landOp_inv {f q} {x0 x1 x2 x3} (hx2 : ∀ y0 y1, Inv f q y1 → Inv f q (x2 y0 y1)) (hx3 : Inv f q x3) : Inv f q (landOp x0 x1 x2 x3) := by
  unfold landOp; with_reducible repeat' first | assumption | apply hx2 | apply rejectOp_inv | split

theorem landCmd_inv {f q} {x0 x1 x2 x3} (hx2 : ∀ y0 y1, Inv f q y1 → Inv f q (x2 y0 y1)) (hx3 : Inv f q x3) : InvR f q (landCmd x0 x1 x2 x3) := by
  unfold landCmd; with_reducible repeat' first | intro _ | assumption | apply hx2 | apply nowIf_inv | apply landOp_inv | apply inv_next

theorem fgLand_inv {f q} {x0 x1 x2} (hx1 : ∀ y0, Inv f q y0 → Inv f q (x1 y0)) (hx2 : Inv f q x2) : InvR f q (fgLand x0 x1 x2) := by
  unfold fgLand; with_reducible repeat' first | intro _ | assumption | apply hx1 | apply landCmd_inv | apply laneOk_inv | apply inv_next

theorem bgBegun_inv {f q} {x0} (hx0 : Inv f q x0) : Inv f q (bgBegun x0) := by
  unfold bgBegun; with_reducible repeat' first | assumption | apply setRun_inv

theorem echoOp_inv {f q} {x0 x1} (hx1 : Inv f q x1) : Inv f q (echoOp x0 x1) := by
  unfold echoOp; with_reducible repeat' first | assumption | apply laneOut_inv

theorem holdCmdOp_inv {f q} {x0 x1} (hx1 : Inv f q x1) : Inv f q (holdCmdOp x0 x1) := by
  unfold holdCmdOp; with_reducible repeat' first | assumption | apply laneOk_inv | apply addHold_inv

theorem clearCmdOp_inv {f q} {x0 x1} (hx1 : Inv f q x1) : Inv f q (clearCmdOp x0 x1) := by
  unfold clearCmdOp; with_reducible repeat' first | assumption | apply laneOk_inv | apply clearHoldOp_inv

theorem maintEnterOp_inv {f q} {x0} (hx0 : Inv f q x0) : Inv f q (maintEnterOp x0) := by
  unfold maintEnterOp; with_reducible repeat' first | assumption | apply inv_ite | apply enterMaint_inv | apply bgOut_inv

theorem draftAbortOp_inv {f q} {x0} (hx0 : Inv f q x0) : Inv f q (draftAbortOp x0) := by
  unfold draftAbortOp; with_reducible repeat' first | assumption | apply setStage_inv | apply discardStaged_inv | apply chgAbortBack_inv | split

theorem changeoverOp_inv {f q} {x0 x1} (hx1 : Inv f q x1) : Inv f q (changeoverOp x0 x1) := by
  unfold changeoverOp; with_reducible repeat' first | assumption | apply inv_ite | apply laneOut_inv | apply laneOk_inv | apply enterChangeover_inv

theorem lineCmdOp_inv {f q} {x0 x1} (hx1 : Inv f q x1) : Inv f q (lineCmdOp x0 x1) := by
  unfold lineCmdOp; with_reducible repeat' first | assumption | apply inv_ite | apply laneOut_inv | apply laneOk_inv | apply lineStart_inv

theorem writeNotes_inv {f q} {x0 x1 x2 x3} (hx3 : Inv f q x3) : Inv f q (writeNotes x0 x1 x2 x3) := by
  unfold writeNotes; with_reducible repeat' first | assumption | apply modTack_inv

theorem regionWriteOp_inv {f q} {x0 x1} (hx1 : Inv f q x1) : Inv f q (regionWriteOp x0 x1) := by
  unfold regionWriteOp; with_reducible repeat' first | assumption | apply bgOut_inv | apply fetchBytes_inv | apply writeNotes_inv | apply when__inv | apply setStage_inv | apply issueNext_inv | apply addJob_inv | apply bgBegun_inv | split

theorem hedLoadOp_inv {f q} {x0 x1} (hx1 : Inv f q x1) : Inv f q (hedLoadOp x0 x1) := by
  unfold hedLoadOp; with_reducible repeat' first | assumption | apply fetchBytes_inv | apply laneOk_inv | apply loadHedBank_inv

theorem fwActivateOp_inv {f q} {x0 x1} (hx1 : Inv f q x1) : Inv f q (fwActivateOp x0 x1) := by
  unfold fwActivateOp; with_reducible repeat' first | assumption | apply inv_ite | apply bgOut_inv | apply issueNext_inv | apply addJob_inv | apply bgBegun_inv

theorem logReadOp_inv {f q} {x0 x1} (hx1 : Inv f q x1) : Inv f q (logReadOp x0 x1) := by
  unfold logReadOp; with_reducible repeat' first | intro _ | assumption | apply forEach_inv | apply writeBytes_inv | apply laneOut_inv

theorem fuseOp_inv {f q} {c : Cmd} {may : Bool} {blow : FuseSt → FuseSt} {s : State} (hb : may = true → s.fuse.le (blow s.fuse))
    (h : Inv f q s) : Inv f q (fuseOp c may blow s) := by
  have h1 : ∀ st : Nat, st = (if !may then 6 else if nvmInh s then 8 else 0) →
      Inv f q (if st = 0 then { s with fuse := blow s.fuse } else s) := by
    intro st e
    split
    · next e0 =>
      refine inv_fuse h (hb ?_)
      cases may
      · simp [e0] at e
      · rfl
    · exact h
  unfold fuseOp
  exact inv_ite (laneOk_inv (logCause_inv (h1 _ rfl))) (bgOut_inv (logCause_inv (h1 _ rfl)))

theorem keyEnrolOp_inv {f q} {x0 x1} (hx1 : Inv f q x1) : Inv f q (keyEnrolOp x0 x1) := by
  unfold keyEnrolOp
  refine fuseOp_inv (fun hm => ⟨fun k hk => ⟨?_, ?_⟩, fun k hk => hk, id, Nat.le_refl _, rfl⟩) (fetchBytes_inv hx1)
  · simp [hk]
  · refine tget_tset_other _ _ _ ?_
    rintro rfl
    simp [hk] at hm

theorem keyRevokeOp_inv {f q} {x0 x1} (hx1 : Inv f q x1) : Inv f q (keyRevokeOp x0 x1) := by
  unfold keyRevokeOp
  exact fuseOp_inv (fun _ => ⟨fun k hk => ⟨hk, rfl⟩, fun k hk => by simp [hk], id, Nat.le_refl _, rfl⟩) (fetchBytes_inv hx1)

theorem secureEnableOp_inv {f q} {x0 x1} (hx1 : Inv f q x1) : Inv f q (secureEnableOp x0 x1) := by
  unfold secureEnableOp
  exact fuseOp_inv (fun _ => ⟨fun k hk => ⟨hk, rfl⟩, fun k hk => hk, fun _ => rfl, Nat.le_refl _, rfl⟩) hx1

theorem epochRaiseOp_inv {f q} {x0 x1} (hx1 : Inv f q x1) : Inv f q (epochRaiseOp x0 x1) := by
  unfold epochRaiseOp
  exact fuseOp_inv (fun _ => ⟨fun k hk => ⟨hk, rfl⟩, fun k hk => hk, id, Nat.le_max_left _ _, rfl⟩) hx1

theorem flashCommandDone_inv {f q} {x0} (hx0 : Inv f q x0) : Inv f q (flashCommandDone x0) := by
  unfold flashCommandDone; with_reducible repeat' first | assumption | apply laneOk_inv | apply fwActivated_inv | split

/-! ### ExecHost.lean -/

theorem pcieCmd_inv {f q} {x0 x1} (hx0 : ∀ a, Inv f q a → Inv f q (x0 a)) (hx1 : Inv f q x1) : InvR f q (pcieCmd x0 x1) := by
  unfold pcieCmd; with_reducible repeat' first | intro _ | assumption | apply atTime_inv | apply takeTurn_inv | apply hx0 | rfl | apply inv_ite | apply inv_id | apply invR_ite | apply inv_next | apply inv_ite_fst | apply inv_ite_snd | apply inv_foldl | apply inv_foldl_fst | apply inv_foldl_snd | split | dsimp only | (unfold Inv; dsimp only; apply inv_fold)

theorem execPcieWrite_inv {f q} {x0 x1 x2} (hx2 : Inv f q x2) : InvR f q (execPcieWrite x0 x1 x2) := by
  unfold execPcieWrite; with_reducible repeat' first | intro _ | assumption | apply pcieCmd_inv | apply pcieWriteOp_inv | rfl | apply inv_ite | apply inv_id | apply invR_ite | apply inv_next | apply inv_ite_fst | apply inv_ite_snd | apply inv_foldl | apply inv_foldl_fst | apply inv_foldl_snd | split | dsimp only | (unfold Inv; dsimp only; apply inv_fold)

theorem execPcieRead_inv {f q} {x0 x1 x2} (hx2 : Inv f q x2) : InvR f q (execPcieRead x0 x1 x2) := by
  unfold execPcieRead; with_reducible repeat' first | intro _ | assumption | apply pcieCmd_inv | apply pcieReadOp_inv | rfl | apply inv_ite | apply inv_id | apply invR_ite | apply inv_next | apply inv_ite_fst | apply inv_ite_snd | apply inv_foldl | apply inv_foldl_fst | apply inv_foldl_snd | split | dsimp only | (unfold Inv; dsimp only; apply inv_fold)

theorem execReadCompletion_inv {f q} {x0} (hx0 : Inv f q x0) : InvR f q (execReadCompletion x0) := by
  unfold execReadCompletion; with_reducible repeat' first | assumption | apply atTime_inv | apply readCompleteOp_inv | apply inv_next

theorem execConfigRequest_inv {f q} {x0 x1 x2 x3} (hx3 : Inv f q x3) : InvR f q (execConfigRequest x0 x1 x2 x3) := by
  unfold execConfigRequest; with_reducible repeat' first | assumption | apply nowIf_inv | apply cfgOp_inv | apply inv_next

theorem execHostReset_inv {f q} {x0 x1} (hx1 : Inv f q x1) : InvR f q (execHostReset x0 x1) := by
  unfold execHostReset; with_reducible repeat' first | assumption | apply nowIf_inv | apply hostResetOp_inv | apply inv_next

theorem execPcieLinkTrained_inv {f q} {x0 x1 x2} (hx2 : Inv f q x2) : InvR f q (execPcieLinkTrained x0 x1 x2) := by
  unfold execPcieLinkTrained; with_reducible repeat' first | assumption | apply nowIf_inv | apply linkTrainedOp_inv | apply inv_next

theorem execSpiWrite_inv {f q} {x0 x1} (hx1 : Inv f q x1) : InvR f q (execSpiWrite x0 x1) := by
  unfold execSpiWrite; with_reducible repeat' first | assumption | apply accessCmd_inv | apply spiFrameOp_inv | apply inv_next

theorem execSpiRead_inv {f q} {x0 x1} (hx1 : Inv f q x1) : InvR f q (execSpiRead x0 x1) := by
  unfold execSpiRead; with_reducible repeat' first | assumption | apply accessCmd_inv | apply spiFrameOp_inv | apply inv_next

theorem execSpiQuadWrite_inv {f q} {x0 x1} (hx1 : Inv f q x1) : InvR f q (execSpiQuadWrite x0 x1) := by
  unfold execSpiQuadWrite; with_reducible repeat' first | assumption | apply accessCmd_inv | apply spiFrameOp_inv | apply inv_next

theorem execSpiQuadRead_inv {f q} {x0 x1} (hx1 : Inv f q x1) : InvR f q (execSpiQuadRead x0 x1) := by
  unfold execSpiQuadRead; with_reducible repeat' first | assumption | apply accessCmd_inv | apply spiFrameOp_inv | apply inv_next

theorem execDoorbell_inv {f q} {x0 x1 x2} (hx2 : Inv f q x2) : InvR f q (execDoorbell x0 x1 x2) := by
  unfold execDoorbell; with_reducible repeat' first | assumption | apply writeCmd_inv | apply inv_next

theorem execCommandStart_inv {f q} {x0 x1} (hx1 : Inv f q x1) : InvR f q (execCommandStart x0 x1) := by
  unfold execCommandStart; with_reducible repeat' first | assumption | apply nowIf_inv | apply startOp_inv | apply inv_next

theorem execCommandCompletion_inv {f q} {x0 x1} (hx1 : Inv f q x1) : InvR f q (execCommandCompletion x0 x1) := by
  unfold execCommandCompletion; with_reducible repeat' first | assumption | apply nowIf_inv | apply completeOp_inv | apply inv_next

theorem execEcho_inv {f q} {x0} (hx0 : Inv f q x0) : InvR f q (execEcho x0) := by
  unfold execEcho; with_reducible repeat' first | assumption | apply landCmd_inv | apply echoOp_inv | apply inv_next

theorem execArmCmd_inv {f q} {x0} (hx0 : Inv f q x0) : InvR f q (execArmCmd x0) := by
  unfold execArmCmd; with_reducible repeat' first | assumption | apply fgLand_inv | apply enterMode_inv | apply inv_next

theorem execStop_inv {f q} {x0} (hx0 : Inv f q x0) : InvR f q (execStop x0) := by
  unfold execStop; with_reducible repeat' first | assumption | apply fgLand_inv | apply setMode_inv | apply inv_next

theorem execHold_inv {f q} {x0} (hx0 : Inv f q x0) : InvR f q (execHold x0) := by
  unfold execHold; with_reducible repeat' first | assumption | apply landCmd_inv | apply holdCmdOp_inv | apply inv_next

theorem execClearHold_inv {f q} {x0} (hx0 : Inv f q x0) : InvR f q (execClearHold x0) := by
  unfold execClearHold; with_reducible repeat' first | assumption | apply landCmd_inv | apply clearCmdOp_inv | apply inv_next

theorem execMaintEnter_inv {f q} {x0} (hx0 : Inv f q x0) : InvR f q (execMaintEnter x0) := by
  unfold execMaintEnter; with_reducible repeat' first | assumption | apply fgLand_inv | apply maintEnterOp_inv | apply inv_next

theorem execMaintLeave_inv {f q} {x0} (hx0 : Inv f q x0) : InvR f q (execMaintLeave x0) := by
  unfold execMaintLeave; with_reducible repeat' first | assumption | apply fgLand_inv | apply leaveMaint_inv | apply inv_next

theorem execDeviceReset_inv {f q} {x0} (hx0 : Inv f q x0) : InvR f q (execDeviceReset x0) := by
  unfold execDeviceReset; with_reducible repeat' first | intro _ | assumption | rfl | apply inv_ite | apply inv_id | apply invR_ite | apply inv_next | apply inv_ite_fst | apply inv_ite_snd | apply fgLand_inv | apply inv_foldl | apply inv_foldl_fst | apply inv_foldl_snd | split | dsimp only | (unfold Inv; dsimp only; apply inv_fold)

theorem execCommandReset_inv {f q} {x0} (hx0 : Inv f q x0) : InvR f q (execCommandReset x0) := by
  unfold execCommandReset; with_reducible repeat' first | assumption | apply atOpt_inv | apply deviceReset_inv | apply inv_next

theorem execDraftAbort_inv {f q} {x0} (hx0 : Inv f q x0) : InvR f q (execDraftAbort x0) := by
  unfold execDraftAbort; with_reducible repeat' first | assumption | apply fgLand_inv | apply draftAbortOp_inv | apply inv_next

theorem execChangeover_inv {f q} {x0} (hx0 : Inv f q x0) : InvR f q (execChangeover x0) := by
  unfold execChangeover; with_reducible repeat' first | assumption | apply landCmd_inv | apply changeoverOp_inv | apply inv_next

theorem execLineChangeover_inv {f q} {x0} (hx0 : Inv f q x0) : InvR f q (execLineChangeover x0) := by
  unfold execLineChangeover; with_reducible repeat' first | assumption | apply landCmd_inv | apply lineCmdOp_inv | apply inv_next

theorem execDraftWrite_inv {f q} {x0} (hx0 : Inv f q x0) : InvR f q (execDraftWrite x0) := by
  unfold execDraftWrite; with_reducible repeat' first | assumption | apply landCmd_inv | apply regionWriteOp_inv | apply inv_next

theorem execDraftVerify_inv {f q} {x0} (hx0 : Inv f q x0) : InvR f q (execDraftVerify x0) := by
  unfold execDraftVerify; with_reducible repeat' first | intro _ | assumption | apply landCmd_inv | apply bgBegun_inv | apply verifyBegin_inv | apply inv_next

theorem execRevert_inv {f q} {x0} (hx0 : Inv f q x0) : InvR f q (execRevert x0) := by
  unfold execRevert; with_reducible repeat' first | intro _ | assumption | apply landCmd_inv | apply bgBegun_inv | apply verifyBegin_inv | apply inv_next

theorem execHedLoad_inv {f q} {x0} (hx0 : Inv f q x0) : InvR f q (execHedLoad x0) := by
  unfold execHedLoad; with_reducible repeat' first | assumption | apply landCmd_inv | apply hedLoadOp_inv | apply inv_next

theorem execFwWrite_inv {f q} {x0} (hx0 : Inv f q x0) : InvR f q (execFwWrite x0) := by
  unfold execFwWrite; with_reducible repeat' first | assumption | apply landCmd_inv | apply regionWriteOp_inv | apply inv_next

theorem execFwActivate_inv {f q} {x0} (hx0 : Inv f q x0) : InvR f q (execFwActivate x0) := by
  unfold execFwActivate; with_reducible repeat' first | assumption | apply landCmd_inv | apply fwActivateOp_inv | apply inv_next

theorem execLogRead_inv {f q} {x0} (hx0 : Inv f q x0) : InvR f q (execLogRead x0) := by
  unfold execLogRead; with_reducible repeat' first | assumption | apply landCmd_inv | apply logReadOp_inv | apply inv_next

theorem execKeyEnrol_inv {f q} {x0} (hx0 : Inv f q x0) : InvR f q (execKeyEnrol x0) := by
  unfold execKeyEnrol; with_reducible repeat' first | assumption | apply landCmd_inv | apply keyEnrolOp_inv | apply inv_next

theorem execKeyRevoke_inv {f q} {x0} (hx0 : Inv f q x0) : InvR f q (execKeyRevoke x0) := by
  unfold execKeyRevoke; with_reducible repeat' first | assumption | apply landCmd_inv | apply keyRevokeOp_inv | apply inv_next

theorem execSecureEnable_inv {f q} {x0} (hx0 : Inv f q x0) : InvR f q (execSecureEnable x0) := by
  unfold execSecureEnable; with_reducible repeat' first | assumption | apply landCmd_inv | apply secureEnableOp_inv | apply inv_next

theorem execEpochRaise_inv {f q} {x0} (hx0 : Inv f q x0) : InvR f q (execEpochRaise x0) := by
  unfold execEpochRaise; with_reducible repeat' first | assumption | apply landCmd_inv | apply epochRaiseOp_inv | apply inv_next

theorem execMbxCntClr_inv {f q} {x0 x1} (hx1 : Inv f q x1) : InvR f q (execMbxCntClr x0 x1) := by
  unfold execMbxCntClr; with_reducible repeat' first | assumption | apply setBitCmd_inv | apply inv_next

theorem execHostCntClr_inv {f q} {x0 x1} (hx1 : Inv f q x1) : InvR f q (execHostCntClr x0 x1) := by
  unfold execHostCntClr; with_reducible repeat' first | assumption | apply setBitCmd_inv | apply inv_next

/-! ### ExecTack.lean -/

theorem execTempSample_inv {f q} {x0 x1} (hx1 : Inv f q x1) : InvR f q (execTempSample x0 x1) := by
  unfold execTempSample; with_reducible repeat' first | assumption | apply nowIf_inv | apply tempSampleOp_inv | apply inv_next

theorem supplySampleOp_inv {f q} {x0 x1} (hx1 : Inv f q x1) : Inv f q (supplySampleOp x0 x1) := by
  unfold supplySampleOp; with_reducible repeat' first | intro _ | assumption | apply forEach_inv | apply rset_inv | apply setf_inv

theorem execSupplySample_inv {f q} {x0 x1} (hx1 : Inv f q x1) : InvR f q (execSupplySample x0 x1) := by
  unfold execSupplySample; with_reducible repeat' first | assumption | apply nowIf_inv | apply supplySampleOp_inv | apply inv_next

theorem execLogFlashCopy_inv {f q} {x0} (hx0 : Inv f q x0) : InvR f q (execLogFlashCopy x0) := by
  unfold execLogFlashCopy; with_reducible repeat' first | assumption | apply nowIf_inv | apply logCopyOp_inv | apply inv_next

theorem execTacklerClockFault_inv {f q} {x0} (hx0 : Inv f q x0) : InvR f q (execTacklerClockFault x0) := by
  unfold execTacklerClockFault; with_reducible repeat' first | assumption | apply nowIf_inv | apply watchdogOp_inv | apply inv_next

theorem execWatchdogExpiry_inv {f q} {x0} (hx0 : Inv f q x0) : InvR f q (execWatchdogExpiry x0) := by
  unfold execWatchdogExpiry; with_reducible repeat' first | assumption | apply nowIf_inv | apply watchdogOp_inv | apply inv_next

theorem execFirmwareRestartRequest_inv {f q} {x0} (hx0 : Inv f q x0) : InvR f q (execFirmwareRestartRequest x0) := by
  unfold execFirmwareRestartRequest; with_reducible repeat' first | assumption | apply nowIf_inv | apply restartBegin_inv | apply inv_next

theorem execRestart_inv {f q} {x0 x1} (hx1 : Inv f q x1) : InvR f q (execRestart x0 x1) := by
  unfold execRestart; with_reducible repeat' first | assumption | apply setBitCmd_inv | apply inv_next

theorem execRestartEnd_inv {f q} {x0} (hx0 : Inv f q x0) : InvR f q (execRestartEnd x0) := by
  unfold execRestartEnd; with_reducible repeat' first | assumption | apply nowIf_inv | apply restartEndOp_inv | apply inv_next

theorem jobEnded_inv {f q} {x0 x1} (hx1 : Inv f q x1) : Inv f q (jobEnded x0 x1) := by
  unfold jobEnded; with_reducible repeat' first | assumption | apply flashCommandDone_inv | apply repairDone_inv | split

theorem execFlashProgramDone_inv {f q} {x0} (hx0 : Inv f q x0) : InvR f q (execFlashProgramDone x0) := by
  unfold execFlashProgramDone; with_reducible repeat' first | intro _ | assumption | apply nowIf_inv | apply flashDoneOp_inv | apply jobEnded_inv | apply inv_next

theorem execFlashError_inv {f q} {x0} (hx0 : Inv f q x0) : InvR f q (execFlashError x0) := by
  unfold execFlashError; with_reducible repeat' first | assumption | apply nowIf_inv | apply flashErrorOp_inv | apply inv_next

theorem modTap_inv {f q} {x0 x1} (hx1 : Inv f q x1) : Inv f q (modTap x0 x1) :=
  inv_of hx1 rfl rfl rfl rfl

theorem loadIr_inv {f q} {x0 x1} (hx1 : Inv f q x1) : Inv f q (loadIr x0 x1) := by
  unfold loadIr; with_reducible repeat' first | assumption | apply modTap_inv

theorem execExtest_inv {f q} {x0} (hx0 : Inv f q x0) : InvR f q (execExtest x0) := by
  unfold execExtest; with_reducible repeat' first | assumption | apply nowIf_inv | apply loadIr_inv | apply inv_next

theorem idcodeOp_inv {f q} {x0} (hx0 : Inv f q x0) : Inv f q (idcodeOp x0) :=
  inv_of hx0 rfl rfl rfl rfl

theorem execIdcode_inv {f q} {x0} (hx0 : Inv f q x0) : InvR f q (execIdcode x0) := by
  unfold execIdcode; with_reducible repeat' first | assumption | apply nowIf_inv | apply idcodeOp_inv | apply inv_next

theorem preloadOp_inv {f q} {x0 x1} (hx1 : Inv f q x1) : Inv f q (preloadOp x0 x1) :=
  inv_of hx1 rfl rfl rfl rfl

theorem execSamplePreload_inv {f q} {x0 x1} (hx1 : Inv f q x1) : InvR f q (execSamplePreload x0 x1) := by
  unfold execSamplePreload; with_reducible repeat' first | assumption | apply nowIf_inv | apply preloadOp_inv | apply inv_next

theorem execClamp_inv {f q} {x0} (hx0 : Inv f q x0) : InvR f q (execClamp x0) := by
  unfold execClamp; with_reducible repeat' first | assumption | apply nowIf_inv | apply loadIr_inv | apply inv_next

theorem execHighz_inv {f q} {x0} (hx0 : Inv f q x0) : InvR f q (execHighz x0) := by
  unfold execHighz; with_reducible repeat' first | assumption | apply nowIf_inv | apply loadIr_inv | apply inv_next

theorem execBypass_inv {f q} {x0} (hx0 : Inv f q x0) : InvR f q (execBypass x0) := by
  unfold execBypass; with_reducible repeat' first | assumption | apply nowIf_inv | apply loadIr_inv | apply inv_next

theorem execTestReset_inv {f q} {x0} (hx0 : Inv f q x0) : InvR f q (execTestReset x0) := by
  unfold execTestReset; with_reducible repeat' first | assumption | apply nowIf_inv | apply modTap_inv | apply inv_next

theorem scanOut_inv {f q} {x0 x1} (hx1 : Inv f q x1.2) : Inv f q (scanOut x0 x1) := by
  unfold scanOut; with_reducible repeat' first | intro _ | assumption | apply modTap_inv | split | dsimp only | (unfold Inv; dsimp only; apply inv_fold)

theorem dbgReadOp_inv {f q} {x0 x1} (hx1 : Inv f q x1) : Inv f q (dbgReadOp x0 x1) := by
  unfold dbgReadOp; with_reducible repeat' first | intro _ | assumption | apply scanOut_inv | apply portAsk_inv | apply readDw_inv | apply freshWord_inv | apply lockDrop_inv | rfl | apply inv_ite | apply inv_id | apply invR_ite | apply inv_next | apply inv_ite_fst | apply inv_ite_snd | apply inv_foldl | apply inv_foldl_fst | apply inv_foldl_snd | split | dsimp only | (unfold Inv; dsimp only; apply inv_fold)

theorem dbgAccess_inv {f q} {x0 x1} (hx0 : ∀ a, Inv f q a → Inv f q (x0 a)) (hx1 : Inv f q x1) : InvR f q (dbgAccess x0 x1) := by
  unfold dbgAccess; with_reducible repeat' first | intro _ | assumption | apply nowIf_inv | apply accessCmd_inv | apply hx0 | rfl | apply inv_ite | apply inv_id | apply invR_ite | apply inv_next | apply inv_ite_fst | apply inv_ite_snd | apply inv_foldl | apply inv_foldl_fst | apply inv_foldl_snd | split | dsimp only | (unfold Inv; dsimp only; apply inv_fold)

theorem execDbgAccRead_inv {f q} {x0 x1} (hx1 : Inv f q x1) : InvR f q (execDbgAccRead x0 x1) := by
  unfold execDbgAccRead; with_reducible repeat' first | intro _ | assumption | apply dbgAccess_inv | apply dbgReadOp_inv | rfl | apply inv_ite | apply inv_id | apply invR_ite | apply inv_next | apply inv_ite_fst | apply inv_ite_snd | apply inv_foldl | apply inv_foldl_fst | apply inv_foldl_snd | split | dsimp only | (unfold Inv; dsimp only; apply inv_fold)

theorem dbgWriteOp_inv {f q} {x0 x1 x2} (hx2 : Inv f q x2) : Inv f q (dbgWriteOp x0 x1 x2) := by
  unfold dbgWriteOp; with_reducible repeat' first | assumption | apply inv_ite | apply scanOut_inv | apply writeDw_inv | apply lockDrop_inv

theorem execDbgAccWrite_inv {f q} {x0 x1 x2} (hx2 : Inv f q x2) : InvR f q (execDbgAccWrite x0 x1 x2) := by
  unfold execDbgAccWrite; with_reducible repeat' first | intro _ | assumption | apply dbgAccess_inv | apply dbgWriteOp_inv | rfl | apply inv_ite | apply inv_id | apply invR_ite | apply inv_next | apply inv_ite_fst | apply inv_ite_snd | apply inv_foldl | apply inv_foldl_fst | apply inv_foldl_snd | split | dsimp only | (unfold Inv; dsimp only; apply inv_fold)

theorem flashAcc_inv {f q} {x0 x1} (hx0 : ∀ y0, Inv f q y0 → Inv f q (x0 y0).2) (hx1 : Inv f q x1) : Inv f q (flashAcc x0 x1) := by
  unfold flashAcc; with_reducible repeat' first | assumption | apply hx0 | apply scanOut_inv | split

theorem execReadWord_inv {f q} {x0 x1} (hx1 : Inv f q x1) : InvR f q (execReadWord x0 x1) := by
  unfold execReadWord; with_reducible repeat' first | intro _ | assumption | apply nowIf_inv | apply flashAcc_inv | apply inv_next

theorem loadWordOp_inv {f q} {x0 x1 x2} (hx2 : Inv f q x2) : Inv f q (loadWordOp x0 x1 x2) := by
  unfold loadWordOp; with_reducible repeat' first | intro _ | assumption | apply modFlash_inv | split | dsimp only | (unfold Inv; dsimp only; apply inv_fold)

theorem execLoadWord_inv {f q} {x0 x1 x2} (hx2 : Inv f q x2) : InvR f q (execLoadWord x0 x1 x2) := by
  unfold execLoadWord; with_reducible repeat' first | intro _ | assumption | apply nowIf_inv | apply flashAcc_inv | apply loadWordOp_inv | apply inv_next

theorem debugJob_inv {f q} {x0 x1} (hx1 : Inv f q x1) : Inv f q (debugJob x0 x1) := by
  unfold debugJob; with_reducible repeat' first | assumption | apply issueNext_inv | apply addJob_inv

theorem execProgramPage_inv {f q} {x0 x1} (hx1 : Inv f q x1) : InvR f q (execProgramPage x0 x1) := by
  unfold execProgramPage; with_reducible repeat' first | intro _ | assumption | apply nowIf_inv | apply flashAcc_inv | apply debugJob_inv | apply inv_next

theorem execEraseSector_inv {f q} {x0 x1} (hx1 : Inv f q x1) : InvR f q (execEraseSector x0 x1) := by
  unfold execEraseSector; with_reducible repeat' first | intro _ | assumption | apply nowIf_inv | apply flashAcc_inv | apply debugJob_inv | apply inv_next

theorem execReadStatus_inv {f q} {x0} (hx0 : Inv f q x0) : InvR f q (execReadStatus x0) := by
  unfold execReadStatus; with_reducible repeat' first | intro _ | assumption | apply nowIf_inv | apply flashAcc_inv | apply freshWord_inv | apply inv_next

theorem execDbgUnlock_inv {f q} {x0 x1 x2 x3} (hx3 : Inv f q x3) : InvR f q (execDbgUnlock x0 x1 x2 x3) := by
  unfold execDbgUnlock; with_reducible repeat' first | intro _ | assumption | apply nowIf_inv | apply unlockOp_inv | apply loadIr_inv | apply inv_next

theorem execUnlock_inv {f q} {x0 x1} (hx1 : Inv f q x1) : InvR f q (execUnlock x0 x1) := by
  unfold execUnlock; with_reducible repeat' first | assumption | apply setBitCmd_inv | apply inv_next

theorem execOpenWrite_inv {f q} {x0 x1 x2} (hx2 : Inv f q x2) : InvR f q (execOpenWrite x0 x1 x2) := by
  unfold execOpenWrite; with_reducible repeat' first | assumption | apply setBitCmd_inv | apply clearBitCmd_inv | apply inv_next | split

theorem execTackCntClr_inv {f q} {x0 x1} (hx1 : Inv f q x1) : InvR f q (execTackCntClr x0 x1) := by
  unfold execTackCntClr; with_reducible repeat' first | assumption | apply setBitCmd_inv | apply inv_next

/-! ### ExecFlt.lean -/

theorem replayDone_inv {f q} {x0 x1 x2 x3} (hx3 : Inv f q x3) : Inv f q (replayDone x0 x1 x2 x3) := by
  unfold replayDone; with_reducible repeat' first | assumption | apply replayEndOp_inv | split

theorem execReplayEnd_inv {f q} {x0 x1 x2 x3} (hx3 : Inv f q x3) : InvR f q (execReplayEnd x0 x1 x2 x3) := by
  unfold execReplayEnd; with_reducible repeat' first | assumption | apply nowIf_inv | apply replayDone_inv | apply inv_next

theorem arbDone_inv {f q} {x0 x1 x2} (hx2 : Inv f q x2) : Inv f q (arbDone x0 x1 x2) := by
  unfold arbDone; with_reducible repeat' first | assumption | apply arbitrate_inv | split

theorem execArbitrationEnd_inv {f q} {x0 x1 x2} (hx2 : Inv f q x2) : InvR f q (execArbitrationEnd x0 x1 x2) := by
  unfold execArbitrationEnd; with_reducible repeat' first | assumption | apply nowIf_inv | apply arbDone_inv | apply inv_next

theorem execSubstituteLoaded_inv {f q} {x0 x1} (hx1 : Inv f q x1) : InvR f q (execSubstituteLoaded x0 x1) := by
  unfold execSubstituteLoaded; with_reducible repeat' first | assumption | apply nowIf_inv | apply substituteLoadedOp_inv | apply inv_next

theorem execLockstepMismatch_inv {f q} {x0} (hx0 : Inv f q x0) : InvR f q (execLockstepMismatch x0) := by
  unfold execLockstepMismatch; with_reducible repeat' first | assumption | apply nowIf_inv | apply lockstepOp_inv | apply inv_next

theorem execReadbackMismatch_inv {f q} {x0 x1} (hx1 : Inv f q x1) : InvR f q (execReadbackMismatch x0 x1) := by
  unfold execReadbackMismatch; with_reducible repeat' first | assumption | apply nowIf_inv | apply readbackNote_inv | apply inv_next

theorem execFaultReset_inv {f q} {x0} (hx0 : Inv f q x0) : InvR f q (execFaultReset x0) := by
  unfold execFaultReset; with_reducible repeat' first | assumption | apply atOpt_inv | apply deviceReset_inv | apply inv_next

theorem injectCmd_inv {f q} {x0 x1 x2} (hx2 : Inv f q x2) : InvR f q (injectCmd x0 x1 x2) := by
  unfold injectCmd; with_reducible repeat' first | assumption | apply writeCmd_inv | apply inv_next

theorem execInjectEnd_inv {f q} {x0 x1} (hx1 : Inv f q x1) : InvR f q (execInjectEnd x0 x1) := by
  unfold execInjectEnd; with_reducible repeat' first | assumption | apply injectCmd_inv | apply inv_next

theorem execInjectSingleBit_inv {f q} {x0 x1} (hx1 : Inv f q x1) : InvR f q (execInjectSingleBit x0 x1) := by
  unfold execInjectSingleBit; with_reducible repeat' first | assumption | apply injectCmd_inv | apply inv_next

theorem execInjectDoubleBit_inv {f q} {x0 x1} (hx1 : Inv f q x1) : InvR f q (execInjectDoubleBit x0 x1) := by
  unfold execInjectDoubleBit; with_reducible repeat' first | assumption | apply injectCmd_inv | apply inv_next

theorem execInjectShedState_inv {f q} {x0 x1} (hx1 : Inv f q x1) : InvR f q (execInjectShedState x0 x1) := by
  unfold execInjectShedState; with_reducible repeat' first | assumption | apply injectCmd_inv | apply inv_next

theorem execInjectResidue_inv {f q} {x0 x1} (hx1 : Inv f q x1) : InvR f q (execInjectResidue x0 x1) := by
  unfold execInjectResidue; with_reducible repeat' first | assumption | apply injectCmd_inv | apply inv_next

theorem execInjectSignature_inv {f q} {x0 x1} (hx1 : Inv f q x1) : InvR f q (execInjectSignature x0 x1) := by
  unfold execInjectSignature; with_reducible repeat' first | assumption | apply injectCmd_inv | apply inv_next

theorem execInjectCardCheck_inv {f q} {x0 x1} (hx1 : Inv f q x1) : InvR f q (execInjectCardCheck x0 x1) := by
  unfold execInjectCardCheck; with_reducible repeat' first | assumption | apply injectCmd_inv | apply inv_next

theorem execInjectSensedLevel_inv {f q} {x0 x1} (hx1 : Inv f q x1) : InvR f q (execInjectSensedLevel x0 x1) := by
  unfold execInjectSensedLevel; with_reducible repeat' first | assumption | apply injectCmd_inv | apply inv_next

theorem execInjectReferenceLoss_inv {f q} {x0 x1} (hx1 : Inv f q x1) : InvR f q (execInjectReferenceLoss x0 x1) := by
  unfold execInjectReferenceLoss; with_reducible repeat' first | assumption | apply injectCmd_inv | apply inv_next

theorem execInjectReadbackOffset_inv {f q} {x0 x1} (hx1 : Inv f q x1) : InvR f q (execInjectReadbackOffset x0 x1) := by
  unfold execInjectReadbackOffset; with_reducible repeat' first | assumption | apply injectCmd_inv | apply inv_next

theorem execFltCntClr_inv {f q} {x0 x1} (hx1 : Inv f q x1) : InvR f q (execFltCntClr x0 x1) := by
  unfold execFltCntClr; with_reducible repeat' first | assumption | apply setBitCmd_inv | apply inv_next

end Sys2Proof.Machine
end

