-- ==== Sys2Proof/Laws/Shuttle.lean ====
section
/-!
SUPPORT. The laws of the shuttle engines: what an instruction that issues does, and what the operations on contexts change.
-/

namespace Sys2Proof.Machine

/-! ### The engines' table -/

@[simp] theorem shuSt_modShu_same (e f s) : shuSt (modShu e f s) e = f (shuSt s e) := by simp [shuSt, modShu]

theorem shuSt_modShu_other {e k : Nat} (f s) (h : k ≠ e) : shuSt (modShu e f s) k = shuSt s k := by
  simp [shuSt, modShu, tget_tset_other _ _ _ h]

@[simp] theorem ctx_modCtx_same (e x f s) : ctx (modCtx e x f s) e x = f (ctx s e x) := by cases x <;> simp [ctx, modCtx]

theorem ctx_modCtx_other {e x y f s} (h : y ≠ x) : ctx (modCtx e x f s) e y = ctx s e y := by
  cases x <;> cases y <;> simp_all [ctx, modCtx]

/-- An update of an engine that leaves its contexts. -/
theorem ctx_modShu {e : Nat} {f : ShuSt → ShuSt} {s : State} (hn : ∀ u, (f u).nrm = u.nrm) (he : ∀ u, (f u).exp = u.exp)
    (y : Ctx) : ctx (modShu e f s) e y = ctx s e y := by cases y <;> simp [ctx, hn, he]

@[simp] theorem modCtx_eff {e x f s} : (shuSt (modCtx e x f s) e).eff = (shuSt s e).eff := by cases x <;> simp [modCtx]
@[simp] theorem modCtx_slotId {e x f s} : (shuSt (modCtx e x f s) e).slotId = (shuSt s e).slotId := by cases x <;> simp [modCtx]
@[simp] theorem modCtx_issueAt {e x f s} : (shuSt (modCtx e x f s) e).issueAt = (shuSt s e).issueAt := by
  cases x <;> simp [modCtx]

theorem gget_gset (d r : Nat) (v : Word) (c : CtxSt) : gget (gset d v c) r = if r = d ∧ d ≠ 0 then v else gget c r := by
  unfold gget gset
  by_cases hd : d = 0
  · simp [hd]
  · by_cases hr : r = d
    · subst hr; simp [hd]
    · simp [hd, hr, tget_tset_other _ _ _ hr]

/-! ### What changes the engine e alone -/

/-- `t` is `s` but for engine e. -/
def ShuOnly (s t : State) (e : Nat) : Prop := t = { s with shu := t.shu } ∧ ∀ k, k ≠ e → shuSt t k = shuSt s k

theorem ShuOnly.refl (s : State) (e : Nat) : ShuOnly s s e := ⟨rfl, fun _ _ => rfl⟩

theorem ShuOnly.mod {s t : State} {e : Nat} (f : ShuSt → ShuSt) (h : ShuOnly s t e) : ShuOnly s (modShu e f t) e :=
  ⟨by have := h.1; simp only [modShu]; rw [this], fun k hk => (shuSt_modShu_other f t hk).trans (h.2 k hk)⟩

theorem ShuOnly.ctx {s t : State} {e : Nat} {x : Ctx} (f : CtxSt → CtxSt) (h : ShuOnly s t e) :
    ShuOnly s (modCtx e x f t) e := h.mod _

theorem ShuOnly.quiet {s t : State} {e : Nat} (h : ShuOnly s t e) (q : Quiet s) : Quiet t := by rw [h.1]; exact q

/-! ### Issue -/

/-- The snapshot of an express task's first instruction (R98) changes no context and no effect. -/
structure SnapFrame (e : Nat) (s t : State) : Prop where
  only : ShuOnly s t e
  ctxs : ∀ y, ctx t e y = ctx s e y
  eff : (shuSt t e).eff = (shuSt s e).eff
  slotId : (shuSt t e).slotId = (shuSt s e).slotId
  time : t.time = s.time
  flt : t.flt = s.flt
  mem : t.mem = s.mem
  regs : t.regs = s.regs
  shed : t.shed = s.shed
  store : t.store = s.store

theorem expressSnap_frame (e : Nat) (x : Ctx) (s : State) : SnapFrame e s (expressSnap e x s) := by
  unfold expressSnap
  have h0 : SnapFrame e s s := ⟨.refl s e, fun _ => rfl, rfl, rfl, rfl, rfl, rfl, rfl, rfl, rfl⟩
  split
  · split
    · exact ⟨(ShuOnly.refl s e).mod _, fun y => ctx_modShu (by intro; rfl) (by intro; rfl) y, by simp, by simp, rfl, rfl, rfl, rfl,
        rfl, rfl⟩
    · exact h0
  · exact h0

/-- Where no register of the active context has a parity error that is looked for, nothing comes of reading them (R114). -/
theorem parity_fine {e : Nat} {uses : List Nat} {s : State} (h : parityFine s e = true) :
    parity e (active s e) uses (expressSnap e (active s e) s) = expressSnap e (active s e) s := by
  have f := expressSnap_frame e (active s e) s
  have hc : checkOn (expressSnap e (active s e) s) = checkOn s := by simp [checkOn, rb, rget, f.regs]
  simp only [parityFine, Bool.or_eq_true, Bool.not_eq_true', List.isEmpty_iff] at h
  rcases h with h | h <;> simp [parity, hc, f.ctxs, h]

/-- An instruction that issues does what its body says. -/
theorem issue_issues {e : Fin 34} {i : Instr} {uses : List Nat} {dsts need : Nat} {free : Bool} {body : Ctx → State → State}
    {s : State} (hn : shuNeeds i = some (uses, need, free)) (h : Issues e i s) :
    issue e i uses dsts need free body s = .next (settle (body (active s e) (expressSnap e (active s e) s))) := by
  simp only [Issues, hn] at h
  obtain ⟨h1, h2, h3, h4, h5, h6, h7⟩ := h
  simp [issue, advanceTo_now h1, h2, h3, h4, h5, h6, parity_fine h7]

theorem residue_none {e x s} (h : s.flt.injRes ≠ some e) : residue e x s = s := by simp [residue, h]

/-! ### Retiring -/

theorem retireTo_only {s t : State} {e : Nat} {x : Ctx} {pc occ : Nat} (h : ShuOnly s t e) :
    ShuOnly s (retireTo e x pc occ t) e := by
  dsimp only [retireTo]; exact (h.ctx _).mod _

theorem retireTo_ctx_same {e : Nat} {x : Ctx} {pc occ : Nat} {s : State} : ctx (retireTo e x pc occ s) e x =
    { ctx s e x with pc := pc, task := (ctx s e x).task.map fun r => { r with retired := r.retired + 1 } } := by
  dsimp only [retireTo]
  rw [ctx_modShu (by intro; rfl) (by intro; rfl)]
  simp

theorem retireTo_ctx_other {e : Nat} {x y : Ctx} {pc occ : Nat} {s : State} (h : y ≠ x) :
    ctx (retireTo e x pc occ s) e y = ctx s e y := by
  dsimp only [retireTo]
  rw [ctx_modShu (by intro; rfl) (by intro; rfl), ctx_modCtx_other h]

@[simp] theorem retireTo_eff {e x pc occ s} : (shuSt (retireTo e x pc occ s) e).eff = (shuSt s e).eff := by simp [retireTo]
@[simp] theorem retireTo_issueAt {e x pc occ s} : (shuSt (retireTo e x pc occ s) e).issueAt = s.time + occ := by
  simp [retireTo]

/-- What an instruction that retires from state `t` leaves, where `t` differs from `s` in the engine's active context by
registers and flags alone. -/
theorem issueFrame_retireTo {e pc occ : Nat} {s t : State} (h : ShuOnly s t e)
    (ho : ∀ y, y ≠ active s e → ctx t e y = ctx s e y)
    (hc : ∃ g r f p, ctx t e (active s e) = { ctx s e (active s e) with g := g, ready := r, flags := f, par := p })
    (he : (shuSt t e).eff = (shuSt s e).eff) : IssueFrame e occ pc s (retireTo e (active s e) pc occ t) := by
  obtain ⟨g, r, f, p, hc⟩ := hc
  have ht : t.time = s.time := by rw [h.1]
  refine ⟨(retireTo_only h).1, (retireTo_only h).2, fun y hy => (retireTo_ctx_other hy).trans (ho y hy), ?_, ?_, ?_, ?_⟩
  · rw [retireTo_ctx_same]
  · simp [retireTo_ctx_same, hc]
  · simp [retireTo_ctx_same, hc, he]
  · simp [ht]

/-- A result and flags put into the active context of a state that agrees with `s` on the contexts. -/
theorem putResult_ctx {e : Nat} {x : Ctx} {d lat : Nat} {r : Word × Flags} {s : State} : ctx (putResult e x d lat r s) e x =
    { ctx s e x with
      g := (gset d r.1 (ctx s e x)).g, ready := tset (ctx s e x).ready d (s.time + lat), flags := r.2
      par := ((ctx s e x).par.filter fun i => i != d).filter fun i => i != flagsNo } := by
  simp only [putResult, setFlags, setG, ctx_modCtx_same, gset]
  split <;> rfl

theorem putResult_only {s t : State} {e : Nat} {x : Ctx} {d lat : Nat} {r : Word × Flags} (h : ShuOnly s t e) :
    ShuOnly s (putResult e x d lat r t) e := by
  dsimp only [putResult, setFlags, setG]; exact (h.ctx _).ctx _

/-- An instruction that writes a result and retires. -/
theorem put_retire {e d lat occ pc : Nat} {r : Word × Flags} {s t : State} (h : SnapFrame e s t) :
    let u := retireTo e (active s e) pc occ (putResult e (active s e) d lat r t)
    IssueFrame e occ pc s u ∧ Writes e d lat r.1 r.2 s u := by
  intro u
  have hc : ctx (putResult e (active s e) d lat r t) e (active s e) = _ := putResult_ctx
  rw [h.ctxs, h.time] at hc
  refine ⟨issueFrame_retireTo (putResult_only h.only) (fun y hy => ?_) ⟨_, _, _, _, hc⟩ ?_, fun k => ?_, ?_, fun k => ?_⟩
  · simp only [putResult, setFlags, setG, ctx_modCtx_other hy, h.ctxs]
  · simp [putResult, setFlags, setG, h.eff]
  · have : gr u e (active s e) k = gget (gset d r.1 (ctx s e (active s e))) k := by
      simp only [u, gr, retireTo_ctx_same, hc, gget]
    rw [this, gget_gset]; rfl
  · simp only [u, retireTo_ctx_same, hc]
  · simp only [u, retireTo_ctx_same, hc]
    by_cases hk : k = d
    · simp [hk]
    · simp [hk, tget_tset_other _ _ _ hk]

/-- An instruction that sets the flags and retires. -/
theorem set_retire {e occ pc : Nat} {f : Flags} {s t : State} (h : SnapFrame e s t) :
    let u := retireTo e (active s e) pc occ (setFlags e (active s e) f t)
    IssueFrame e occ pc s u ∧ Sets e f s u := by
  intro u
  have hc : ctx (setFlags e (active s e) f t) e (active s e) =
      { ctx s e (active s e) with flags := f, par := (ctx s e (active s e)).par.filter fun i => i != flagsNo } := by
    simp [setFlags, h.ctxs]
  refine ⟨issueFrame_retireTo (h.only.ctx _) (fun y hy => ?_) ⟨_, _, _, _, hc⟩ ?_, fun k => ?_, ?_, ?_⟩
  · simp only [setFlags, ctx_modCtx_other hy, h.ctxs]
  · simp [setFlags, h.eff]
  · simp only [u, gr, retireTo_ctx_same, hc, gget]
  · simp only [u, retireTo_ctx_same, hc]
  · simp only [u, retireTo_ctx_same, hc]

/-- An instruction that retires and does nothing else. -/
theorem only_retire {e occ pc : Nat} {s t : State} (h : SnapFrame e s t) :
    let u := retireTo e (active s e) pc occ t
    IssueFrame e occ pc s u ∧ Sets e (ctx s e (active s e)).flags s u := by
  intro u
  have hc : ctx t e (active s e) = { ctx s e (active s e) with flags := (ctx s e (active s e)).flags } := h.ctxs _
  refine ⟨issueFrame_retireTo h.only (fun y hy => h.ctxs y) ⟨_, _, _, _, hc⟩ h.eff, fun k => ?_, ?_, ?_⟩
  · simp only [u, gr, retireTo_ctx_same, hc, gget]
  · simp only [u, retireTo_ctx_same, hc]
  · simp only [u, retireTo_ctx_same, hc]

/-! ### Accesses and effects -/

theorem takeSlot_ctx_same {e : Nat} {x : Ctx} {lat held : Nat} {a : Access} {s : State} :
    ctx (takeSlot e x lat held a s) e x =
      { ctx s e x with slots := (ctx s e x).slots ++ [⟨(shuSt s e).slotId, s.time + lat, held, a⟩] } := by
  dsimp only [takeSlot]
  rw [ctx_modShu (by intro; rfl) (by intro; rfl)]
  simp

theorem takeSlot_ctx_other {e : Nat} {x y : Ctx} {lat held : Nat} {a : Access} {s : State} (h : y ≠ x) :
    ctx (takeSlot e x lat held a s) e y = ctx s e y := by
  dsimp only [takeSlot]
  rw [ctx_modShu (by intro; rfl) (by intro; rfl), ctx_modCtx_other h]

/-- A state that has the engines of another. -/
theorem ctx_eq_of_shu {s t : State} (h : t.shu = s.shu) (e : Nat) (y : Ctx) : ctx t e y = ctx s e y := by
  cases y <;> simp [ctx, shuSt, h]

theorem shuSt_eq_of_shu {s t : State} (h : t.shu = s.shu) (e : Nat) : shuSt t e = shuSt s e := by simp [shuSt, h]

/-- An access that feeds W, takes its slot and retires, in a state whose engines are those of `s` but for the snapshot. -/
theorem accessFrame_retire {e lat held : Nat} {acc : Access} {ws : List Word} {s t u : State} (h : SnapFrame e s t)
    (hu : u.shu = t.shu) (ht : u.time = s.time) :
    AccessFrame e lat held acc ws s
      (retire e (active s e) 1 (takeSlot e (active s e) lat held acc (feedW e (active s e) ws u))) := by
  have hc : ∀ y, ctx u e y = ctx s e y := fun y => (ctx_eq_of_shu hu e y).trans (h.ctxs y)
  have hw : ctx (feedW e (active s e) ws u) e (active s e) =
      { ctx s e (active s e) with w := ws.foldl crcWord (ctx s e (active s e)).w } := by simp [feedW, hc]
  have hi : (shuSt (feedW e (active s e) ws u) e).slotId = (shuSt s e).slotId := by
    simp [feedW, shuSt_eq_of_shu hu, h.slotId]
  have hs : ctx (takeSlot e (active s e) lat held acc (feedW e (active s e) ws u)) e (active s e) =
      { ctx s e (active s e) with
        w := ws.foldl crcWord (ctx s e (active s e)).w
        slots := (ctx s e (active s e)).slots ++ [⟨(shuSt s e).slotId, s.time + lat, held, acc⟩] } := by
    rw [takeSlot_ctx_same, hw, hi]
    simp [feedW, ht]
  unfold retire
  refine ⟨fun k hk => ?_, fun y hy => ?_, ?_, fun r => ?_, ?_, ?_, ?_⟩
  · dsimp only [retireTo, takeSlot, feedW]
    simp only [modCtx, shuSt_modShu_other _ _ hk, shuSt_eq_of_shu hu]
    exact h.only.2 k hk
  · rw [retireTo_ctx_other hy, takeSlot_ctx_other hy, feedW, ctx_modCtx_other hy, hc]
  all_goals simp [gr, gget, retireTo_ctx_same, hs]

/-- An effect that feeds W and retires, in a state whose engines are those of `s` but for the snapshot and the effects. -/
theorem effectFrame_retire {e : Nat} {ws : List Word} {s u : State} (hk : ∀ k, k ≠ e → shuSt u k = shuSt s k)
    (hc : ∀ y, ctx u e y = ctx s e y) :
    EffectFrame e ws s (retire e (active s e) 1 (feedW e (active s e) ws u)) := by
  have hw : ctx (feedW e (active s e) ws u) e (active s e) =
      { ctx s e (active s e) with w := ws.foldl crcWord (ctx s e (active s e)).w } := by simp [feedW, hc]
  unfold retire
  refine ⟨fun k hk' => ?_, fun y hy => ?_, ?_, fun r => ?_, ?_, ?_, ?_⟩
  · dsimp only [retireTo, feedW]
    simp only [modCtx, shuSt_modShu_other _ _ hk']
    exact hk k hk'
  · rw [retireTo_ctx_other hy, feedW, ctx_modCtx_other hy, hc]
  all_goals simp [gr, gget, retireTo_ctx_same, hw]

/-- The end of a cycle changes nothing after an instruction that leaves all but its engine. -/
theorem settle_frame {e occ pc : Nat} {s t : State} (h : IssueFrame e occ pc s t) (q : Quiet s) : settle t = t :=
  settle_quiet (ShuOnly.quiet (e := e) ⟨h.outside, h.engines⟩ q)

end Sys2Proof.Machine
end

