-- ==== Sys2Proof/Laws/Store.lean ====
section
/-!
SUPPORT. The laws of the stores without error marks: a read finds no error and leaves the bytes, and a write puts its bytes; and of
an access of port B.
-/

namespace Sys2Proof.Machine

theorem length_leBytes (n x : Nat) : (leBytes n x).length = n := by
  induction n generalizing x with
  | zero => rfl
  | succ n ih => simp [leBytes, ih]

theorem leBytes_getElem {n x i : Nat} (h : i < (leBytes n x).length) : (leBytes n x)[i] = BitVec.ofNat 8 (x / 256 ^ i) := by
  induction n generalizing x i with
  | zero => simp [leBytes] at h
  | succ n ih =>
    cases i with
    | zero => simp [leBytes]
    | succ i =>
      simp only [leBytes, List.getElem_cons_succ]
      rw [ih, Nat.div_div_eq_div_mul, Nat.pow_succ, Nat.mul_comm]

@[simp] theorem touchBank_time {a s} : (touchBank a s).time = s.time := rfl
@[simp] theorem touchBank_shu {a s} : (touchBank a s).shu = s.shu := rfl
@[simp] theorem touchBank_mem {a s} : (touchBank a s).mem = s.mem := rfl
@[simp] theorem touchBank_regs {a s} : (touchBank a s).regs = s.regs := rfl
@[simp] theorem touchBank_store {a s} : (touchBank a s).store = s.store := rfl
@[simp] theorem touchBank_flt {a s} : (touchBank a s).flt = s.flt := rfl
@[simp] theorem touchBank_chg {a s} : (touchBank a s).chg = s.chg := rfl

theorem eccMark_clean {s : State} (h : s.store.marks = []) (w : Nat) : eccMark s w = 0 := by simp [eccMark, h, tget]

/-- A read of a store without error marks finds no error. -/
theorem checkRead_clean {r : Reader} {a n : Nat} {s : State} (h : s.store.marks = []) :
    checkRead r a n s = (false, touchBank a s) := by
  have hm : ∀ w, eccMark (touchBank a s) w = 0 := fun w => by simp [eccMark, h, tget]
  have hf : ∀ l : List Nat, l.foldl (fun (p : Bool × State) w =>
      let m := eccMark p.2 w
      if m = 0 then p
      else if eccBad m then (true, uncorrectable r w p.2)
      else (p.1, correctable w p.2)) (false, touchBank a s) = (false, touchBank a s) := by
    intro l
    induction l with
    | nil => rfl
    | cons w l ih => simp only [List.foldl_cons, hm, if_true, ih]
  simp only [checkRead, hf, ite_self]

/-- A byte of a store without error marks reads as it is. -/
theorem readByte_clean {s : State} {a : Nat} (h : s.store.marks = []) : readByte s a = mget s.mem a := by
  simp [readByte, storedByte, eccMark_clean h]

theorem readN_clean {s : State} {a n : Nat} (h : s.store.marks = []) : readN s a n = loaded s a n := by
  have : readByte s = mget s.mem := funext fun a => readByte_clean h
  simp [readN, readBytes, loaded, this]

/-- A byte that the other port does not write in this cycle (R372), of a store without error marks, reads as it is. -/
theorem portN_clean {r : Reader} {s : State} {a n : Nat} (h : s.store.marks = []) (ho : otherPort r s = []) :
    portN r s a n = loaded s a n := by
  have : portByte r s = mget s.mem := funext fun a => by simp [portByte, ho, readByte_clean h]
  simp [portN, portBytes, loaded, this]

/-- The bytes of a write through port A, or of one through port B in a cycle without writes of port A, land as they are (R372). -/
theorem portLanding_free {r : Reader} {a : Nat} {bs : List Byte} {s : State} (h : r.portA = true ∨ (cycNow s).byA = []) :
    portLanding r a bs s = bs := by
  rcases h with h | h <;> simp [portLanding, h]

@[simp] theorem touchBank_cycNow {a s} : cycNow (touchBank a s) = cycNow s := rfl

theorem rewritten_clean {w : Nat} {s : State} (h : s.store.marks = []) : rewritten w s = s := by
  simp [rewritten, eccMark_clean h]

/-- A write within a word of a store without error marks puts its bytes. -/
theorem writeWord_clean {r : Reader} {a : Nat} {bs : List Byte} {s : State} (h : s.store.marks = [])
    (hp : r.portA = true ∨ (cycNow s).byA = []) :
    writeWord r a bs s = { notePort r a bs.length s with mem := putBytes a bs s.mem } := by
  have hb : eccBad 0 = false := rfl
  simp [writeWord, eccMark_clean h, hb, when_, rewritten_clean h, portLanding_free hp]

/-- Bytes that do not cross a word are one part. -/
theorem wordParts_one {n a : Nat} {bs : List Byte} (h0 : bs ≠ []) (hn : n ≠ 0) (h : a % 8 + bs.length ≤ 8) :
    wordParts n a bs = [(a, bs)] := by
  cases n with
  | zero => exact absurd rfl hn
  | succ n =>
    cases bs with
    | nil => exact absurd rfl h0
    | cons b bs =>
      have l : (b :: bs).length ≤ 8 - a % 8 := by omega
      have e : (b :: bs).drop (8 - a % 8) = [] := List.drop_eq_nil_iff.mpr l
      have p : ∀ m c, wordParts m c [] = [] := fun m c => by cases m <;> rfl
      simp only [wordParts, List.take_of_length_le l, e, p]

/-- A write that does not cross a word, to a store without error marks, puts its bytes. -/
theorem writeN_clean {r : Reader} {a n x : Nat} {s : State} (h : s.store.marks = []) (hn : n ≠ 0) (ha : a % 8 + n ≤ 8)
    (hp : r.portA = true ∨ (cycNow s).byA = []) :
    writeN r a n x s = { notePort r a n (touchBank a s) with mem := putBytes a (leBytes n x) s.mem } := by
  have hl : (leBytes n x).length = n := length_leBytes n x
  have h0 : leBytes n x ≠ [] := by intro e; rw [e] at hl; exact hn hl.symm
  have hw : wordParts (leBytes n x).length a (leBytes n x) = [(a, leBytes n x)] :=
    wordParts_one h0 (by rwa [hl]) (by rwa [hl])
  have e := writeWord_clean (r := r) (a := a) (bs := leBytes n x) (s := touchBank a s) (by simpa using h) (by simpa using hp)
  rw [hl] at e
  simpa [writeN, writeBytes, hw, forEach] using e

/-- The bytes that a write puts, and the others. -/
theorem mget_putBytes_leBytes {m : List Host.Cell} {a n x : Nat} (hw : Memory.wf m = true) :
    (∀ i, i < n → mget (putBytes a (leBytes n x) m) (a + i) = BitVec.ofNat 8 (x / 256 ^ i)) ∧
    (∀ c, c < a ∨ a + n ≤ c → mget (putBytes a (leBytes n x) m) c = mget m c) := by
  have hc := (memory_wf_iff m).1 hw
  refine ⟨fun i hi => ?_, fun c hcc => mget_putBytes_other _ (by rwa [length_leBytes]) hc⟩
  have hi' : i < (leBytes n x).length := by rwa [length_leBytes]
  rw [mget_putBytes_at _ hi' hc]
  exact leBytes_getElem hi'

/-- Port B serves an access at once where it is free (R371) and port A does not hold the word closed (R373). -/
theorem portAsk_free {r : PortReq} {s : State} (h : portFree r.bank s = true) (hc : portClosed r s = false) :
    portAsk r s = portServe r (portTake r.bank r.who s) := by simp [portAsk, h, hc]

/-- Otherwise the access waits behind those that came before it; nothing else of the stores changes. -/
theorem portAsk_waits {r : PortReq} {s : State} (h : portFree r.bank s = false ∨ portClosed r s = true) :
    (portAsk r s).store = { s.store with reqs := s.store.reqs ++ [r] } ∧ (portAsk r s).regs = s.regs ∧ (portAsk r s).mem = s.mem := by
  unfold portAsk
  rw [if_neg (by rcases h with h | h <;> simp [h])]
  cases s.store.reqs.isEmpty <;> exact ⟨rfl, rfl, rfl⟩

end Sys2Proof.Machine
end

