-- ==== Sys2Proof/WellFormed.lean ====
section
/-!
DEFINITION. Which commands are well-formed: the limits that the spec puts on what the outside world can send, where the
operand types of Syntax.lean do not say them already.
-/

namespace Sys2Proof

/-- The longest SPI frame as the host sends it: opcode, LEN, ADDR, 64 words and the CRC (R532). -/
def spiFrameMax : Nat := 264

/-- A command that can be sent: a write request carries 1 to 64 DWs and a read request asks for 1 to 1,024 (R523, R526); an
SPI frame is not longer than its layout (R532); a debug scan carries an address that is a multiple of 4 (R576); a bobbin
transaction brings back at most 512 bytes (R523); a bank that SELF-TEST found bad
is named once. -/
def Instr.wf : Instr → Bool
  | .pcieWrite _ data => decide (1 ≤ data.length ∧ data.length ≤ 64)
  | .pcieRead _ n => decide (1 ≤ n ∧ n ≤ 1024)
  | .spiWrite bs => decide (bs.length ≤ spiFrameMax)
  | .spiRead bs => decide (bs.length ≤ spiFrameMax)
  | .spiQuadWrite bs => decide (bs.length ≤ spiFrameMax)
  | .spiQuadRead bs => decide (bs.length ≤ spiFrameMax)
  | .dbgAccRead a => decide (a.toNat % 4 = 0)
  | .dbgAccWrite a _ => decide (a.toNat % 4 = 0)
  | .transactionReturn _ (.data bs) => decide (bs.length ≤ 512)
  | .selfTestEnd bad _ => decide bad.Nodup
  | _ => true

end Sys2Proof
end

