-- ==== Sys2Proof/Tests/Slice0.lean ====
section
/-!
SUPPORT. Tests: ill-formed commands that the check refuses, words written out from the spec's encodings, single steps with values
worked out by hand from the rules, and for each statement with hypotheses a state and operands that meet them (theorems witness_…).
-/

set_option Elab.async false

namespace Sys2Proof.Tests

open Sys2Proof Sys2Proof.Machine

/-! ### States -/

/-- A device that has booted, in mode `m`, with registers of the values given, at device time 1,000. -/
def st (m : Nat) (rs : List (Nat × Word)) : State :=
  rs.foldl (fun s x => rset x.1 x.2 s) { State.reset with regs := [(Reg.gctlMode, wd m)], tack := { boot := 4 }, time := 1000 }

/-- Engine 3 in RUN, in a task of its normal context whose next instruction is `i`, with registers `g`. -/
def eng (i : Instr) (g : List (Nat × Word)) : State :=
  { st 5 [] with
    code := [(codeKey 3 0 7, BitVec.ofNat 32 ((shuEncode i).getD 0))]
    shu := [(3, { nrm := { g := g, pc := 7, task := some { desc := 5, start := 900, bank := 0, budget := 300 } } })] }

/-- The same in the express context. -/
def engX (i : Instr) (g : List (Nat × Word)) : State :=
  { rset (Reg.shuDbg 3) 0x200#32 (st 5 []) with
    code := [(codeKey 3 0 7, BitVec.ofNat 32 ((shuEncode i).getD 0))]
    shu := [(3, { exp := { g := g, pc := 7, task := some { desc := 5, start := 900, bank := 0, budget := 300 } } })] }

/-- Slot 131,071 holds a near time card for channel 511 with action `act` and data word 3 = 9, due now, in RUN, the channel in mode
`m`. -/
def card (act m : Nat) : State :=
  let n := 131071
  let s := { st 5 [(Reg.chCtl 511, wd m)] with chain := { slots := [(n, { st := 3 })] } }
  setCardWord n 3 9#32 (setCardWord n 1 1000#32 (setCardWord n 0 (wd (511 + 512 * act)) s))

/-- Heddle engine 63 runs in RUN, the word at its PC 0 of bank 0 being of opcode `op` with fields `f`. -/
def hed (op : Nat) (f : BitVec 12) : State :=
  st 5 [(Reg.hedCtl 63, 1#32), (Reg.hedSts 63, 0x100#32), (Reg.hedProg0 63 0, wd (f.toNat * 16 + op))]

/-- A device in MAINTENANCE for register commands: debug open, injection enabled with `arg`, a byte count and a ring set. -/
def lab (arg : Nat) : State :=
  st 9 [(Reg.gctlCfg, 0x80000000#32), (Reg.gctlInjArg, wd arg), (Reg.bobCnt 31, 8#32), (Reg.cardCrBase, 0x1A00000#32),
    (Reg.cardCrSize, 16#32), (Reg.pwrClksts, 0xF#32), (Reg.tackDbgctl, 1#32)]

/-- The state that a command leaves; reset where it stops. -/
def after (i : Instr) (s : State) : State :=
  match exec i s with
  | .next t => t
  | _ => State.reset

/-! ### Ill-formed commands -/

theorem test_wf_write_empty : (Instr.pcieWrite ⟨0, 15, 15, 0, 0⟩ []).wf = false := by decide
theorem test_wf_read_long : (Instr.pcieRead ⟨0, 15, 15, 0, 0⟩ 1025).wf = false := by decide
theorem test_wf_spi_write_long : (Instr.spiWrite (List.replicate 265 0)).wf = false := by decide +kernel
theorem test_wf_spi_read_long : (Instr.spiRead (List.replicate 265 0)).wf = false := by decide +kernel
theorem test_wf_spi_quad_write_long : (Instr.spiQuadWrite (List.replicate 265 0)).wf = false := by decide +kernel
theorem test_wf_spi_quad_read_long : (Instr.spiQuadRead (List.replicate 265 0)).wf = false := by decide +kernel
theorem test_wf_debug_read_misaligned : (Instr.dbgAccRead 2).wf = false := by decide
theorem test_wf_debug_write_misaligned : (Instr.dbgAccWrite 1 0).wf = false := by decide
theorem test_wf_return_long : (Instr.transactionReturn 0 (.data (List.replicate 513 0))).wf = false := by decide +kernel
theorem test_wf_bad_bank_twice : (Instr.selfTestEnd [3, 3] true).wf = false := by decide
theorem test_wf_write : (Instr.pcieWrite ⟨0, 15, 15, 0, 0⟩ [7]).wf = true := by decide

/-! ### Words of the engines -/

/-- ADD g1, g2, g4 (R85, R86): opcode 02, d 1, a 2, b 4. -/
theorem test_word_add : shuDecode 3 0b000010_0001_0010_0100_00000000000000#32 = .aluAdd 3 1 2 4 := by decide
/-- ADDI g1, g2, −1. -/
theorem test_word_addi : shuDecode 3 0b010100_0001_0010_0000_11111111111111#32 = .addi 3 1 2 0x3FFF := by decide
/-- STD [g1 + 8], g4: opcode 29 hexadecimal, address register a, source b. -/
theorem test_word_std : shuDecode 3 0b101001_0000_0001_0100_00000000001000#32 = .std 3 1 4 8 := by decide
/-- BR with condition 13 stands in the d field. -/
theorem test_word_br : shuDecode 3 0b101101_1101_0000_0000_00000000000100#32 = .br 3 13 4 := by decide
/-- Opcode 3C hexadecimal is ILL. -/
theorem test_word_ill : shuDecode 3 0b111100_0000_0000_0000_00000000000000#32 = .ill 3 := by decide
/-- END with its marker sum of 18 bits. -/
theorem test_word_end : shuDecode 3 0b110001_00000000_10_0000000000000001#32 = .endTask 3 0x20001 := by decide
/-- A heddle JMP stands in bits [3:0] as 1 (R315). -/
theorem test_word_hed_jmp : hedDecode 63 0b11111_001_0000_0001#16 = .hedJmp 63 0b111110010000#12 := by decide
theorem test_word_hed_invalid : hedDecode 63 0b0000_0000_0000_1011#16 = .hedInvalidOpcode 63 := by decide

/-! ### Single steps -/

/-- 0x7FFFFFFF + 1 overflows: N and V set, C and Z clear (R86). -/
theorem test_add_overflows : (ctx (after (.aluAdd 3 1 2 4) (eng (.aluAdd 3 1 2 4) [(2, 0x7FFFFFFF#32), (4, 1#32)])) 3 .normal).flags =
    { n := true, z := false, c := false, v := true } := by decide +kernel
theorem test_add_wraps : gr (after (.aluAdd 3 1 2 4) (eng (.aluAdd 3 1 2 4) [(2, 0xFFFFFFFF#32), (4, 2#32)])) 3 .normal 1 = 1#32 := by
  decide +kernel
/-- g0 reads as 0 after a write (R82). -/
theorem test_g0_zero : gr (after (.li 3 0 7) (eng (.li 3 0 7) [])) 3 .normal 0 = 0#32 := by decide +kernel
/-- SUB without a borrow sets C (R86). -/
theorem test_sub_carry : (ctx (after (.aluSub 3 1 2 4) (eng (.aluSub 3 1 2 4) [(2, 5#32), (4, 5#32)])) 3 .normal).flags =
    { n := false, z := true, c := true, v := false } := by decide +kernel
/-- A step on an empty queue is one loom cycle. -/
theorem test_idle_step : (match step (st 3 []) with | .next t => t.time | _ => 0) = 1001 := by decide +kernel
/-- A step takes the command at the front. -/
theorem test_step_takes_front : (match step { st 3 [] with pending := [.idcode, .bypass] } with
    | .next t => (t.rdata, t.pending)
    | _ => ([], [])) = ([0xA5120B4D#32], [.bypass]) := by decide +kernel
/-- A byte write of a register is refused and counted (R8). -/
theorem test_narrow_write : rget (after (.registerWrite .tackler 0xC .w8 0) (st 3 [])) Reg.gctlCtl = 3#32 := by decide +kernel
/-- The byte at the lowest address of a word is its least significant one (R12). -/
theorem test_store_little_endian : mget (after (.registerWrite .tackler 0x1000000 .w32 0x11223344) (st 9 [])).mem 0x1000000 = 0x44#8 := by
  decide +kernel
/-- The example of FIPS 180-4: the digest of "abc". -/
theorem test_sha256_abc : sha256 [0x61#8, 0x62#8, 0x63#8] =
    leBytes 32 0xad1500f261ff10b49c7a1796a36103b02322ae5dde404141eacf018fbf1678ba := by decide +kernel
/-- From reset, a release leads to BOOT (R423). -/
theorem test_release : mode (after (.resetRelease true 0) State.reset) = 1 := by decide +kernel
/-! ### Firmware that the ROM starts -/

/-- An image of 352 bytes, version 1, signed by the secret 1 with the nonce 1; its digest and signature computed apart from the model. -/
def fwImage : List Byte :=
  leBytes 4 0x57465448 ++ leBytes 2 1 ++ leBytes 2 256 ++ leBytes 4 1 ++ leBytes 4 0 ++ leBytes 4 352 ++ leBytes 2 0x5120 ++
    leBytes 1 0xA1 ++ leBytes 201 0 ++ leBytes 32 0xbdc316c8072ebf9b55ebdccf6ab6b2df5902d75ceb2073163efa9a4f218c431d ++
    leBytes 4 0x47535448 ++ leBytes 4 0x80 ++ leBytes 32 P256.gx ++
    leBytes 32 0x885b5e1430c73c860f3007d0c07b434c56b633ebfdc81ef69060674da0af8653 ++ leBytes 24 0

/-- A device with that image as A, its ROM key 0 the public key of the secret 1. -/
def fwState (rs : List (Nat × Word)) (boot : Nat) : State :=
  { State.reset with
    regs := rs, tack := { boot := boot }, fuse := { romKeys := [(0, (P256.gx, P256.gy))] }
    flash := { bytes := (upto 0x100000 352).zip fwImage } }

theorem flashGet_above (m : List Host.Cell) (a : Nat) (h : ∀ c ∈ m, c.1 < a) : flashGet m a = 0xFF#8 := by
  induction m with
  | nil => rfl
  | cons c t ih =>
    obtain ⟨k, v⟩ := c
    have hk : k < a := h (k, v) (by simp)
    simp only [flashGet]
    rw [if_neg (by omega), if_neg (by omega)]
    exact ih fun c hc => h c (by simp [hc])

/-- An image whose activation sector is erased is not superseded. -/
theorem not_superseded (s : State) (i : Nat) (h : ∀ c ∈ s.flash.bytes, c.1 < fwBase i + 0x7F000) : superseded s i = false := by
  have e : ∀ k, flashN s (fwBase i + 0x7F000 + 4 * k) 4 = 0xFFFFFFFF := by
    intro k
    have g : ∀ j, flashGet s.flash.bytes (fwBase i + 0x7F000 + 4 * k + j) = 0xFF#8 := fun j =>
      flashGet_above _ _ fun c hc => by have := h c hc; omega
    have u : upto (fwBase i + 0x7F000 + 4 * k) 4 = [fwBase i + 0x7F000 + 4 * k + 0, fwBase i + 0x7F000 + 4 * k + 1,
        fwBase i + 0x7F000 + 4 * k + 2, fwBase i + 0x7F000 + 4 * k + 3] := rfl
    simp only [flashN, flashRead, u, List.map, g]
    decide
  have n : ∀ l : List Nat, (l.filter fun k => flashN s (fwBase i + 0x7F000 + 4 * k) 4 == 0) = [] := fun l =>
    List.filter_eq_nil_iff.mpr fun k _ => by simp [e]
  simp [superseded, fwMarks, n]

theorem fwSelect_first (s : State) (h : ∀ c ∈ s.flash.bytes, c.1 < 0x17F000) (p : fwPasses s 0 = true) : fwSelect s = some 0 := by
  have h0 := not_superseded s 0 (fun c hc => by have := h c hc; simp only [fwBase]; omega)
  have h1 := not_superseded s 1 (fun c hc => by have := h c hc; simp only [fwBase]; omega)
  simp [fwSelect, h0, h1, p]

/-- Whether an image passes depends on the flash and the ROM alone. -/
theorem fwPasses_congr {s t : State} {i : Nat} (f : s.flash = t.flash) (k : s.fuse = t.fuse) : fwPasses s i = fwPasses t i := by
  have e : ∀ x : State, fwPasses x i = fwPasses { State.reset with flash := x.flash, fuse := x.fuse } i := fun _ => rfl
  rw [e s, e t, f, k]

theorem test_fw_header : fwHeader (fwState [] 0) 0 = true := by decide +kernel
theorem test_fw_digest : fwDigest (fwState [] 0) 0 = true := by decide +kernel
theorem test_fw_signature : fwSigned (fwState [] 0) 0 = true := by decide +kernel

theorem fwState_selects (rs : List (Nat × Word)) (boot : Nat) : fwSelect (fwState rs boot) = some 0 :=
  fwSelect_first _ (fun c hc => by
    have a : ∀ c ∈ (fwState [] 0).flash.bytes, c.1 < 0x17F000 := by decide +kernel
    exact a c hc)
    ((fwPasses_congr (t := fwState [] 0) rfl rfl).trans (by simp [fwPasses, test_fw_header, test_fw_digest, test_fw_signature]))

/-- A witness for FIRMWARE_SELECTION in ResetsAndBoot. -/
theorem witness_firmware_selection : let s := fwState [(Reg.gctlMode, 1#32)] 2
    fwSelect s = some 0 ∧ bootAt s 2 = true := ⟨fwState_selects _ _, by decide +kernel⟩

/-- A witness for RESTART_END in TacklerAndFaultEvents. -/
theorem witness_restart_end : let s := fwState [(Reg.gctlMode, 5#32), (Reg.tackSts, 4#32)] 4
    restarting s = true ∧ fwSelect s = some 0 := ⟨by decide +kernel, fwState_selects _ _⟩

/-- A witness for FIRMWARE_SELECTION with no image that passes. -/
theorem witness_no_firmware : fwSelect State.reset = none := by
  have h0 := not_superseded State.reset 0 (by intro c hc; cases hc)
  have h1 := not_superseded State.reset 1 (by intro c hc; cases hc)
  have p0 : fwPasses State.reset 0 = false := by decide +kernel
  have p1 : fwPasses State.reset 1 = false := by decide +kernel
  simp [fwSelect, h0, h1, p0, p1]

/-! ### Register commands -/

/-- `Takes`, as a test. -/
def takes (p : Path) (s : State) : Bool :=
  mode s != 0 && decide (pathFree p s ≤ s.time) && decide (turnAt (pathRank p) s ≤ s.time) && power (inTurn p s) != 2

theorem takes_spec {p : Path} {s : State} (h : takes p s = true) : Takes p s := by
  simp only [takes, Bool.and_eq_true, bne_iff_ne, ne_eq, decide_eq_true_eq] at h
  exact ⟨⟨h.1.1.1, h.1.1.2, h.1.2⟩, h.2⟩

/-- The register write that a command stands for is accepted. -/
def accepts (s : State) (i : Instr) : Bool :=
  match regWrite s i with
  | none => false
  | some (p, a, v) =>
    takes p s && plainReg a && !locked (inTurn p s) a v && !reserved (inTurn p s) a v && (a != Reg.mbxDb || !(inTurn p s).log.waking)

theorem accepts_spec {s : State} {i : Instr} (h : accepts s i = true) : ∃ p a v, regWrite s i = some (p, a, v) ∧ Accepts p a v s := by
  unfold accepts at h
  split at h
  · cases h
  · rename_i p a v e
    refine ⟨p, a, v, e, ?_⟩
    simp only [Bool.and_eq_true, bne_iff_ne, ne_eq, Bool.not_eq_true', Bool.or_eq_true] at h
    obtain ⟨⟨⟨⟨h1, h2⟩, h3⟩, h4⟩, h5⟩ := h
    exact ⟨takes_spec h1, h2, h3, h4, fun e => h5.resolve_left (by simp [e])⟩

theorem accepted_all {s : State} {l : List Instr} (h : l.all (accepts s) = true) :
    ∀ i ∈ l, ∃ p a v, regWrite s i = some (p, a, v) ∧ Accepts p a v s := fun i hi =>
  accepts_spec (List.all_eq_true.mp h i hi)

/-- Register commands that meet the hypotheses of RegisterCommandsLand. -/
theorem witness_register_commands_1 : ∀ i ∈ ([.commit .tackler, .cntClr .tackler, .shedCntClr .tackler,
      .halt .tackler 31, .resume .tackler 33, .shuStep .tackler 33,
      .shuCntClr .tackler 33, .leaveOff .tackler 511 0, .enterOff .tackler 511 0,
      .start .tackler 511, .rldWrite .tackler 511 0, .compareWrite .tackler 511 .a 0,
      .compareWrite .tackler 511 .b 0, .fineWrite .tackler 511 0, .stagedWrite .tackler 511 .rlds 0,
      .stagedWrite .tackler 511 .cmpas 0, .stagedWrite .tackler 511 .cmpbs 0, .stagedWrite .tackler 511 .fines 0,
      .filtWrite .tackler 511 2, .evcfgWrite .tackler 511 0, .prescWrite .tackler 63 0,
      .chCntClr .tackler 511, .load .tackler 63, .loadAll .tackler] : List Instr),
    ∃ p a v, regWrite (lab 0) i = some (p, a, v) ∧ Accepts p a v (lab 0) :=
  accepted_all (by decide +kernel)

/-- Register commands that meet the hypotheses of RegisterCommandsLand. -/
theorem witness_register_commands_2 : ∀ i ∈ ([.loadNow .tackler 63, .tripWrite .tackler 63 3 0, .tripfClear .tackler 63 8#4,
      .harnCntClr .tackler 63, .reedCntClr .tackler 255, .crRdWrite .tackler 0,
      .ringConfigWrite .tackler .base 0x1A00000, .ringConfigWrite .tackler .size 16, .ringConfigWrite .tackler .mark 0,
      .cardCntClr .tackler, .trackerEnable .tackler 3 0, .trackerDisable .tackler 3,
      .trRdWrite .tackler 3 0, .trConfigWrite .tackler 3 .ctl 0, .trConfigWrite .tackler 3 .base 0x1A00000,
      .trdCntClr .tackler 3, .posEnable .tackler 15 0, .posDisable .tackler 15,
      .posLoad .tackler 15, .latch .tackler 15, .serStart .tackler 15,
      .posCntClr .tackler 15, .txdata .tackler 63 0, .hedStart .tackler 63] : List Instr),
    ∃ p a v, regWrite (lab 0) i = some (p, a, v) ∧ Accepts p a v (lab 0) :=
  accepted_all (by decide +kernel)

/-- Register commands that meet the hypotheses of RegisterCommandsLand. -/
theorem witness_register_commands_3 : ∀ i ∈ ([.hedStop .tackler 63, .fifoClr .tackler 63, .hedHalt .tackler 63,
      .hedResume .tackler 63, .hedStep .tackler 63, .hedCntClr .tackler 63,
      .comparatorEnable .tackler 63 0, .comparatorDisable .tackler 63, .threshWrite .tackler 63 0,
      .rqRdWrite .tackler 0, .winCntClr .tackler 31, .adcCntClr .tackler,
      .preservingTest .tackler 47, .destructiveTest .tackler 47, .storeCntClr .tackler,
      .bobStart .tackler 31 0, .bobAbort .tackler 31, .hqPtrWrite .tackler 7 0,
      .bobCntClr .tackler 31, .bobcCntClr .tackler, .pendClear .tackler 63,
      .maskClear .tackler 63, .vecCtlWrite .tackler 63 0, .evmCntClr .tackler] : List Instr),
    ∃ p a v, regWrite (lab 0) i = some (p, a, v) ∧ Accepts p a v (lab 0) :=
  accepted_all (by decide +kernel)

/-- Register commands that meet the hypotheses of RegisterCommandsLand. -/
theorem witness_register_commands_4 : ∀ i ∈ ([.vecCntClr .tackler 63, .restore .tackler, .latencyNsWrite .tackler 0,
      .pwrCntClr .tackler, .chgCntClr .tackler, .selCntClr .tackler,
      .doorbell .tackler 63, .mbxCntClr .tackler, .hostCntClr .tackler,
      .restart .tackler, .unlock .tackler, .openWrite .tackler false,
      .tackCntClr .tackler, .injectEnd .tackler, .injectShedState .tackler,
      .injectReferenceLoss .tackler, .fltCntClr .tackler] : List Instr),
    ∃ p a v, regWrite (lab 0) i = some (p, a, v) ∧ Accepts p a v (lab 0) :=
  accepted_all (by decide +kernel)

/-- Register commands that meet the hypotheses of RegisterCommandsLand. -/
theorem witness_register_commands_5 : ∀ i ∈ ([.injectSingleBit .tackler, .injectDoubleBit .tackler] : List Instr),
    ∃ p a v, regWrite (lab 0x1BFFFF8) i = some (p, a, v) ∧ Accepts p a v (lab 0x1BFFFF8) :=
  accepted_all (by decide +kernel)

/-- Register commands that meet the hypotheses of RegisterCommandsLand. -/
theorem witness_register_commands_6 : ∀ i ∈ ([.injectResidue .tackler, .injectSignature .tackler] : List Instr),
    ∃ p a v, regWrite (lab 31) i = some (p, a, v) ∧ Accepts p a v (lab 31) :=
  accepted_all (by decide +kernel)

/-- Register commands that meet the hypotheses of RegisterCommandsLand. -/
theorem witness_register_commands_7 : ∀ i ∈ ([.injectCardCheck .tackler] : List Instr),
    ∃ p a v, regWrite (lab 131071) i = some (p, a, v) ∧ Accepts p a v (lab 131071) :=
  accepted_all (by decide +kernel)

/-- Register commands that meet the hypotheses of RegisterCommandsLand. -/
theorem witness_register_commands_8 : ∀ i ∈ ([.injectSensedLevel .tackler] : List Instr),
    ∃ p a v, regWrite (lab 511) i = some (p, a, v) ∧ Accepts p a v (lab 511) :=
  accepted_all (by decide +kernel)

/-- Register commands that meet the hypotheses of RegisterCommandsLand. -/
theorem witness_register_commands_9 : ∀ i ∈ ([.injectReadbackOffset .tackler] : List Instr),
    ∃ p a v, regWrite (lab 63) i = some (p, a, v) ∧ Accepts p a v (lab 63) :=
  accepted_all (by decide +kernel)

/-- Register reads that meet the hypotheses of RegisterReadsAnswer. -/
theorem witness_register_reads : ∀ i ∈ ([.timeLoRead .pcie, .capRead .spi 511, .phaseRead .tackler 3, .latPosRead .tackler 15,
      .rxdata .tackler 63, .slotRead .tackler 31, .pairLoRead .tackler .pickno] : List Instr),
    (regRead i).any (fun x => readableReg x.2 && takes x.1 (st 3 []) && live (inTurn x.1 (st 3 []))) = true := by decide +kernel

/-! ### Witnesses of the statements -/

/-- A witness for the hypotheses of EmptyQueuePassesOneCycle. -/
theorem witness_empty_queue_passes_one_cycle :
    (let s : State := st 3 []; 
     (s.pending = []) ∧ (running s = true) ∧ (s.timed = []) ∧ (resetNext s = none) ∧ (s.sel.hold = 0) ∧ (s.sel.skip = 0) ∧ (Quiet s)) := by
  simp only [Quiet]
  decide +kernel

/-- A witness for StepKeepsMemoriesCanonical. -/
theorem witness_step_keeps_memories_canonical :
    Memory.wf State.reset.mem = true ∧ Flash.wf State.reset.flash.bytes = true ∧ step State.reset = .next State.reset := by
  exact ⟨rfl, rfl, rfl⟩

/-- A witness for NoFuseIsUnblown. -/
theorem witness_no_fuse_is_unblown :
    Memory.wf State.reset.mem = true ∧ Flash.wf State.reset.flash.bytes = true ∧ step State.reset = .next State.reset := by
  exact ⟨rfl, rfl, rfl⟩

/-- A witness for the hypotheses of ShuttleWordsRoundTrip. -/
theorem witness_shuttle_words_round_trip :
    (let i : Instr := .addi 0 3 4 0x3FFF; let w : Nat := 0x50D03FFF; 
     (shuEncode i = some w)) := by
  decide +kernel

/-- A witness for each clause of HeddleWordsRoundTrip. -/
theorem witness_heddle_words_round_trip :
    (let i : Instr := .hedOut 7 0xABC; let w : Nat := 0xABC3; 
     (hedEncode i = some w)) ∧
    (let w : BitVec 16 := 0x000A; 
     (1 ≤ w.toNat % 16 ∧ w.toNat % 16 ≤ 10)) := by
  refine ⟨?_, ?_⟩ <;> decide +kernel

/-- A witness for the hypotheses of NothingLeftToSettle. -/
theorem witness_nothing_left_to_settle :
    (let s : State := st 3 []; 
     (s.flt.det = []) ∧ (stageState s ≠ 4)) := by
  decide +kernel

/-- A witness for the hypotheses of RegisterCommandsLand. -/
theorem witness_register_commands_land :
    (let c : Instr := .prescWrite .pcie 63 0x101#32; let p : Path := .pcie; let a : Nat := Reg.harnPresc 63; let v : Word := 0x101#32; let s : State := st 3 []; 
     (regWrite s c = some (p, a, v)) ∧ (Accepts p a v s)) := by
  simp only [Accepts, Takes, TakesNow]
  decide +kernel

/-- A witness for the hypotheses of RegisterReadsAnswer. -/
theorem witness_register_reads_answer :
    (let c : Instr := .capRead .spi 511; let p : Path := .spi; let a : Nat := Reg.chCap 511; let s : State := st 3 []; 
     (regRead c = some (p, a)) ∧ (Takes p s) ∧ (live (inTurn p s) = true) ∧ (readableReg a = true)) := by
  simp only [Takes, TakesNow]
  decide +kernel

/-- A witness for each clause of CounterClearsOfTheLoom. -/
theorem witness_counter_clears_of_the_loom :
    (let p : Path := .tackler; let s : State := st 3 []; 
     (Accepts p (Reg.gctlCtl) (setBit (keepWord s (Reg.gctlCtl)) 8 true) s)) ∧
    (let p : Path := .tackler; let s : State := st 3 []; 
     (Accepts p (Reg.shedCtl) (setBit (keepWord s (Reg.shedCtl)) 8 true) s)) ∧
    (let p : Path := .tackler; let s : State := st 3 []; 
     (Accepts p (Reg.shedCtl) (setBit (keepWord s (Reg.shedCtl)) 8 true) s)) ∧
    (let p : Path := .tackler; let e : Fin 34 := 33; let s : State := st 3 []; 
     (Accepts p (Reg.shuCtl e) (setBit (keepWord s (Reg.shuCtl e)) 8 true) s)) ∧
    (let p : Path := .tackler; let n : Fin 512 := 511; let s : State := st 3 []; 
     (Accepts p (Reg.chSts n) (setBit (keepWord s (Reg.chSts n)) 31 true) s)) ∧
    (let p : Path := .tackler; let h : Fin 64 := 63; let s : State := st 3 []; 
     (Accepts p (Reg.harnTripsts h) (setBit (keepWord s (Reg.harnTripsts h)) 31 true) s)) ∧
    (let p : Path := .tackler; let k : Fin 256 := 255; let s : State := st 3 []; 
     (Accepts p (Reg.reedCtl k) (setBit (keepWord s (Reg.reedCtl k)) 8 true) s)) ∧
    (let p : Path := .tackler; let s : State := st 3 []; 
     (Accepts p (Reg.cardCtl) (setBit (keepWord s (Reg.cardCtl)) 8 true) s)) ∧
    (let p : Path := .tackler; let t : Fin 4 := 3; let s : State := st 3 []; 
     (Accepts p (Reg.trdSts t) (setBit (keepWord s (Reg.trdSts t)) 31 true) s)) ∧
    (let p : Path := .tackler; let i : Fin 16 := 15; let s : State := st 3 []; 
     (Accepts p (Reg.posSts i) (setBit (keepWord s (Reg.posSts i)) 31 true) s)) ∧
    (let p : Path := .tackler; let e : Fin 64 := 63; let s : State := st 3 []; 
     (Accepts p (Reg.hedSts e) (setBit (keepWord s (Reg.hedSts e)) 31 true) s)) ∧
    (let p : Path := .tackler; let w : Fin 32 := 31; let s : State := st 3 []; 
     (Accepts p (Reg.winSts w) (setBit (keepWord s (Reg.winSts w)) 31 true) s)) ∧
    (let p : Path := .tackler; let s : State := st 3 []; 
     (Accepts p (Reg.adcCtl) (setBit (keepWord s (Reg.adcCtl)) 8 true) s)) := by
  refine ⟨?_, ?_, ?_, ?_, ?_, ?_, ?_, ?_, ?_, ?_, ?_, ?_, ?_⟩ <;> (simp only [Accepts, Takes, TakesNow]; decide +kernel)

/-- A witness for each clause of CounterClearsOfTheOuterBlocks. -/
theorem witness_counter_clears_of_the_outer_blocks :
    (let p : Path := .pcie; let s : State := st 3 []; 
     (Accepts p (Reg.storeCtl) (setBit (keepWord s (Reg.storeCtl)) 8 true) s)) ∧
    (let p : Path := .pcie; let b : Fin 32 := 31; let s : State := st 3 []; 
     (Accepts p (Reg.bobSts b) (setBit (keepWord s (Reg.bobSts b)) 31 true) s)) ∧
    (let p : Path := .pcie; let s : State := st 3 []; 
     (Accepts p (Reg.bobcCtl) (setBit (keepWord s (Reg.bobcCtl)) 8 true) s)) ∧
    (let p : Path := .pcie; let s : State := st 3 []; 
     (Accepts p (Reg.evmCtl) (setBit (keepWord s (Reg.evmCtl)) 8 true) s)) ∧
    (let p : Path := .pcie; let j : Fin 64 := 63; let s : State := st 3 []; 
     (Accepts p (Reg.vecSts j) (setBit (keepWord s (Reg.vecSts j)) 31 true) s)) ∧
    (let p : Path := .pcie; let s : State := st 3 []; 
     (Accepts p (Reg.pwrCtl) (setBit (keepWord s (Reg.pwrCtl)) 31 true) s)) ∧
    (let p : Path := .pcie; let s : State := st 3 []; 
     (Accepts p (Reg.chgCtl) (setBit (keepWord s (Reg.chgCtl)) 8 true) s)) ∧
    (let p : Path := .pcie; let s : State := st 3 []; 
     (Accepts p (Reg.selCtl) (setBit (keepWord s (Reg.selCtl)) 31 true) s)) ∧
    (let p : Path := .pcie; let s : State := st 3 []; 
     (Accepts p (Reg.mbxCtl) (setBit (keepWord s (Reg.mbxCtl)) 8 true) s)) ∧
    (let p : Path := .pcie; let s : State := st 3 []; 
     (Accepts p (Reg.hostCtl) (setBit (keepWord s (Reg.hostCtl)) 8 true) s)) ∧
    (let p : Path := .pcie; let s : State := st 3 []; 
     (Accepts p (Reg.tackCtl) (setBit (keepWord s (Reg.tackCtl)) 8 true) s)) ∧
    (let p : Path := .pcie; let s : State := st 3 []; 
     (Accepts p (Reg.gctlSts) (setBit (keepWord s (Reg.gctlSts)) 31 true) s)) := by
  refine ⟨?_, ?_, ?_, ?_, ?_, ?_, ?_, ?_, ?_, ?_, ?_, ?_⟩ <;> (simp only [Accepts, Takes, TakesNow]; decide +kernel)

/-- A witness for each clause of RegisterPairs. -/
theorem witness_register_pairs :
    (let a : Nat := Reg.shedPicknoLo; 
     (isPairLo a = true)) ∧
    (let a : Nat := Reg.bobSrcLo 31; 
     (isPairLo a = true)) ∧
    (let p : Path := .pcie; let q : RegPair := .bobSrc 31; let v : Word := 5; let s : State := st 3 []; 
     (Takes p s) ∧ (locked (inTurn p s) (pairAddr q) v = false) ∧ (reserved (inTurn p s) (pairAddr q) v = false)) ∧
    (let p : Path := .pcie; let q : RegPair := .bobSrc 31; let v : Word := 5; let s : State := st 3 []; 
     (Takes p s) ∧ (locked (inTurn p s) (pairAddr q + 4) v = false) ∧ (reserved (inTurn p s) (pairAddr q + 4) v = false)) := by
  refine ⟨?_, ?_, ?_, ?_⟩ <;> ((try simp only [Takes, TakesNow]); decide +kernel)

/-- A witness for the hypotheses of StoreWritesTheirBytes. -/
theorem witness_store_writes_their_bytes :
    (let p : Path := .pcie; let a : BitVec 32 := 0x1BFFFF8#32; let w : Width := .w64; let s : State := st 3 []; 
     (Takes p s) ∧ (Quiet (inTurn p s)) ∧ (Memory.wf (inTurn p s).mem = true) ∧ (inStore a.toNat = true) ∧ (a.toNat % widthBytes w = 0) ∧ (locked (inTurn p s) a.toNat 0 = false) ∧ ((inTurn p s).store.marks = []) ∧ (portFree (bankOf a.toNat) (inTurn p s) = true) ∧ ((wordsOf a.toNat (widthBytes w)).all (fun x => !wordClosed .host x (inTurn p s)) = true) ∧ ((cycNow (inTurn p s)).byA = [])) := by
  simp only [Takes, Quiet, TakesNow]
  decide +kernel

/-- A witness for the hypotheses of RefusedOnceInOrder. -/
theorem witness_refused_once_in_order :
    (let p : Path := .pcie; let a : BitVec 32 := 0x440#32; let s : State := st 3 []; 
     (Takes p s) ∧ (a.toNat % 4 = 0) ∧ (a.toNat < 0x4000000) ∧ (inStore a.toNat = false)) := by
  simp only [Takes, TakesNow]
  decide +kernel

/-- A witness for each clause of HolesAreEmpty. -/
theorem witness_holes_are_empty :
    (let a : Nat := 0x20000; let s : State := st 3 []; 
     (power s ≠ 2) ∧ (isHole a = true)) ∧
    (let a : Nat := 0x20000; let s : State := st 3 []; 
     (power s ≠ 2) ∧ (isHole a = true)) ∧
    (let a : Nat := 0x2C; let s : State := st 3 []; 
     (power s ≠ 2) ∧ (live s = true) ∧ (isHole a = false) ∧ (inStore a = false) ∧ (reservedOffset a = true) ∧ (isPairLo a = false) ∧ (isPairHi a = false)) := by
  refine ⟨?_, ?_, ?_⟩ <;> decide +kernel

/-- A witness for each clause of ReservedEncodingsAreDiscarded. -/
theorem witness_reserved_encodings_are_discarded :
    (let a : Nat := Reg.chCtl 511; let v : Word := 0xB#32; let s : State := st 3 []; 
     (power s ≠ 2) ∧ (isHole a = false) ∧ (locked s a v = false) ∧ (inTaskWin a = false) ∧ (inCodeWin a = false) ∧ (reserved s a v = true)) ∧
    (let v : Word := 0xF#32; 
     (11 ≤ fld v 0 4)) := by
  refine ⟨?_, ?_⟩ <;> decide +kernel

/-- A witness for the hypotheses of LockedWritesAreDropped. -/
theorem witness_locked_writes_are_dropped :
    (let a : Nat := Reg.chCtl 511; let v : Word := 1#32; let s : State := st 5 []; 
     (power s ≠ 2) ∧ (isHole a = false) ∧ (locked s a v = true)) := by
  decide +kernel

/-- A witness for each clause of ShuttleSums. -/
theorem witness_shuttle_sums :
    (let e : Fin 34 := 3; let d : Fin 16 := 1; let a : Fin 16 := 2; let b : Fin 16 := 4; let s : State := eng (.aluAdd e d a b) [(2, 0xFFFFFFFF#32), (4, 1#32)]; 
     (Issues e (.aluAdd e d a b) s) ∧ (Quiet s) ∧ (active s e = .express ∨ s.flt.injRes ≠ some e.val)) ∧
    (let e : Fin 34 := 3; let d : Fin 16 := 1; let a : Fin 16 := 2; let b : Fin 16 := 4; let s : State := eng (.aluSub e d a b) [(2, 0xFFFFFFFF#32), (4, 1#32)]; 
     (Issues e (.aluSub e d a b) s) ∧ (Quiet s) ∧ (active s e = .express ∨ s.flt.injRes ≠ some e.val)) ∧
    (let e : Fin 34 := 3; let d : Fin 16 := 1; let a : Fin 16 := 2; let b : Fin 16 := 4; let s : State := eng (.aluAdc e d a b) [(2, 0xFFFFFFFF#32), (4, 1#32)]; 
     (Issues e (.aluAdc e d a b) s) ∧ (Quiet s) ∧ (active s e = .express ∨ s.flt.injRes ≠ some e.val)) ∧
    (let e : Fin 34 := 3; let d : Fin 16 := 1; let a : Fin 16 := 2; let b : Fin 16 := 4; let s : State := eng (.aluSbc e d a b) [(2, 0xFFFFFFFF#32), (4, 1#32)]; 
     (Issues e (.aluSbc e d a b) s) ∧ (Quiet s) ∧ (active s e = .express ∨ s.flt.injRes ≠ some e.val)) ∧
    (let e : Fin 34 := 3; let d : Fin 16 := 1; let a : Fin 16 := 2; let imm : BitVec 14 := 5; let s : State := eng (.addi e d a imm) [(2, 0xFFFFFFFF#32), (4, 1#32)]; 
     (Issues e (.addi e d a imm) s) ∧ (Quiet s) ∧ (active s e = .express ∨ s.flt.injRes ≠ some e.val)) ∧
    (let e : Fin 34 := 3; let d : Fin 16 := 1; let a : Fin 16 := 2; let b : Fin 16 := 4; let s : State := { engX (.aluAdd e d a b) [(2, 5#32), (4, 7#32)] with flt := { injRes := some 3 } }; 
     (Issues e (.aluAdd e d a b) s) ∧ (Quiet s) ∧ (active s e = .express ∨ s.flt.injRes ≠ some e.val)) := by
  refine ⟨?_, ?_, ?_, ?_, ?_, ?_⟩ <;> (simp only [Quiet, Issues, shuNeeds]; decide +kernel)

/-- A witness for each clause of ShuttleLogic. -/
theorem witness_shuttle_logic :
    (let e : Fin 34 := 3; let d : Fin 16 := 1; let a : Fin 16 := 2; let b : Fin 16 := 4; let s : State := eng (.aluAnd e d a b) [(2, 5#32), (4, 7#32)]; 
     (Issues e (.aluAnd e d a b) s) ∧ (Quiet s)) ∧
    (let e : Fin 34 := 3; let d : Fin 16 := 1; let a : Fin 16 := 2; let b : Fin 16 := 4; let s : State := eng (.aluOr e d a b) [(2, 5#32), (4, 7#32)]; 
     (Issues e (.aluOr e d a b) s) ∧ (Quiet s)) ∧
    (let e : Fin 34 := 3; let d : Fin 16 := 1; let a : Fin 16 := 2; let b : Fin 16 := 4; let s : State := eng (.aluXor e d a b) [(2, 5#32), (4, 7#32)]; 
     (Issues e (.aluXor e d a b) s) ∧ (Quiet s)) ∧
    (let e : Fin 34 := 3; let d : Fin 16 := 1; let a : Fin 16 := 2; let imm : BitVec 14 := 5; let s : State := eng (.andi e d a imm) [(2, 5#32), (4, 7#32)]; 
     (Issues e (.andi e d a imm) s) ∧ (Quiet s)) ∧
    (let e : Fin 34 := 3; let d : Fin 16 := 1; let a : Fin 16 := 2; let imm : BitVec 14 := 5; let s : State := eng (.ori e d a imm) [(2, 5#32), (4, 7#32)]; 
     (Issues e (.ori e d a imm) s) ∧ (Quiet s)) ∧
    (let e : Fin 34 := 3; let d : Fin 16 := 1; let a : Fin 16 := 2; let imm : BitVec 14 := 5; let s : State := eng (.xori e d a imm) [(2, 5#32), (4, 7#32)]; 
     (Issues e (.xori e d a imm) s) ∧ (Quiet s)) ∧
    (let e : Fin 34 := 3; let d : Fin 16 := 1; let a : Fin 16 := 2; let b : Fin 16 := 4; let s : State := eng (.aluMin e d a b) [(2, 5#32), (4, 7#32)]; 
     (Issues e (.aluMin e d a b) s) ∧ (Quiet s)) ∧
    (let e : Fin 34 := 3; let d : Fin 16 := 1; let a : Fin 16 := 2; let b : Fin 16 := 4; let s : State := eng (.aluMax e d a b) [(2, 5#32), (4, 7#32)]; 
     (Issues e (.aluMax e d a b) s) ∧ (Quiet s)) ∧
    (let e : Fin 34 := 3; let d : Fin 16 := 1; let a : Fin 16 := 2; let b : Fin 16 := 4; let c : BitVec 4 := 1; let s : State := eng (.sel e d a b c) [(2, 5#32), (4, 7#32)]; 
     (Issues e (.sel e d a b c) s) ∧ (Quiet s)) ∧
    (let e : Fin 34 := 3; let d : Fin 16 := 1; let imm : BitVec 18 := 5; let s : State := eng (.lui e d imm) [(2, 5#32), (4, 7#32)]; 
     (Issues e (.lui e d imm) s) ∧ (Quiet s)) ∧
    (let e : Fin 34 := 3; let d : Fin 16 := 1; let imm : BitVec 18 := 5; let s : State := eng (.li e d imm) [(2, 5#32), (4, 7#32)]; 
     (Issues e (.li e d imm) s) ∧ (Quiet s)) ∧
    (let e : Fin 34 := 3; let s : State := eng (.nop e) [(2, 5#32), (4, 7#32)]; 
     (Issues e (.nop e) s) ∧ (Quiet s)) := by
  refine ⟨?_, ?_, ?_, ?_, ?_, ?_, ?_, ?_, ?_, ?_, ?_, ?_⟩ <;> (simp only [Quiet, Issues, shuNeeds]; decide +kernel)

/-- A witness for each clause of ShuttleShifts. -/
theorem witness_shuttle_shifts :
    (let e : Fin 34 := 3; let d : Fin 16 := 1; let a : Fin 16 := 2; let b : Fin 16 := 4; let s : State := eng (.aluShl e d a b) [(2, 5#32), (4, 31#32)]; 
     (Issues e (.aluShl e d a b) s) ∧ (Quiet s)) ∧
    (let e : Fin 34 := 3; let d : Fin 16 := 1; let a : Fin 16 := 2; let b : Fin 16 := 4; let s : State := eng (.aluShr e d a b) [(2, 5#32), (4, 31#32)]; 
     (Issues e (.aluShr e d a b) s) ∧ (Quiet s)) ∧
    (let e : Fin 34 := 3; let d : Fin 16 := 1; let a : Fin 16 := 2; let b : Fin 16 := 4; let s : State := eng (.aluSar e d a b) [(2, 5#32), (4, 31#32)]; 
     (Issues e (.aluSar e d a b) s) ∧ (Quiet s)) ∧
    (let e : Fin 34 := 3; let d : Fin 16 := 1; let a : Fin 16 := 2; let imm : BitVec 14 := 31; let s : State := eng (.shli e d a imm) [(2, 5#32), (4, 31#32)]; 
     (Issues e (.shli e d a imm) s) ∧ (Quiet s)) ∧
    (let e : Fin 34 := 3; let d : Fin 16 := 1; let a : Fin 16 := 2; let imm : BitVec 14 := 31; let s : State := eng (.shri e d a imm) [(2, 5#32), (4, 31#32)]; 
     (Issues e (.shri e d a imm) s) ∧ (Quiet s)) ∧
    (let e : Fin 34 := 3; let d : Fin 16 := 1; let a : Fin 16 := 2; let imm : BitVec 14 := 31; let s : State := eng (.sari e d a imm) [(2, 5#32), (4, 31#32)]; 
     (Issues e (.sari e d a imm) s) ∧ (Quiet s)) := by
  refine ⟨?_, ?_, ?_, ?_, ?_, ?_⟩ <;> (simp only [Quiet, Issues, shuNeeds]; decide +kernel)

/-- A witness for each clause of ShuttleProductsAndComparisons. -/
theorem witness_shuttle_products_and_comparisons :
    (let e : Fin 34 := 3; let d : Fin 16 := 1; let a : Fin 16 := 2; let b : Fin 16 := 4; let s : State := eng (.aluMul e d a b) [(2, 5#32), (4, 7#32)]; 
     (Issues e (.aluMul e d a b) s) ∧ (Quiet s) ∧ (active s e = .express ∨ s.flt.injRes ≠ some e.val)) ∧
    (let e : Fin 34 := 3; let d : Fin 16 := 1; let a : Fin 16 := 2; let b : Fin 16 := 4; let s : State := eng (.aluMulh e d a b) [(2, 5#32), (4, 7#32)]; 
     (Issues e (.aluMulh e d a b) s) ∧ (Quiet s) ∧ (active s e = .express ∨ s.flt.injRes ≠ some e.val)) ∧
    (let e : Fin 34 := 3; let d : Fin 16 := 1; let a : Fin 16 := 2; let b : Fin 16 := 4; let s : State := eng (.aluMulhu e d a b) [(2, 5#32), (4, 7#32)]; 
     (Issues e (.aluMulhu e d a b) s) ∧ (Quiet s) ∧ (active s e = .express ∨ s.flt.injRes ≠ some e.val)) ∧
    (let e : Fin 34 := 3; let a : Fin 16 := 2; let b : Fin 16 := 4; let s : State := eng (.cmp e a b) [(2, 5#32), (4, 7#32)]; 
     (Issues e (.cmp e a b) s) ∧ (Quiet s) ∧ (active s e = .express ∨ s.flt.injRes ≠ some e.val)) ∧
    (let e : Fin 34 := 3; let a : Fin 16 := 2; let imm : BitVec 14 := 5; let s : State := eng (.cmpi e a imm) [(2, 5#32), (4, 7#32)]; 
     (Issues e (.cmpi e a imm) s) ∧ (Quiet s) ∧ (active s e = .express ∨ s.flt.injRes ≠ some e.val)) := by
  refine ⟨?_, ?_, ?_, ?_, ?_⟩ <;> (simp only [Quiet, Issues, shuNeeds]; decide +kernel)

/-- A witness for each clause of ShuttleDivision. -/
theorem witness_shuttle_division :
    (let e : Fin 34 := 3; let d : Fin 16 := 1; let a : Fin 16 := 2; let b : Fin 16 := 4; let s : State := eng (.aluDivu e d a b) [(2, 0x80000000#32), (4, 0xFFFFFFFF#32)]; 
     (Issues e (.aluDivu e d a b) s) ∧ (Quiet s) ∧ (active s e = .express ∨ s.flt.injRes ≠ some e.val)) ∧
    (let e : Fin 34 := 3; let d : Fin 16 := 1; let a : Fin 16 := 2; let b : Fin 16 := 4; let s : State := eng (.aluDivs e d a b) [(2, 0x80000000#32), (4, 0xFFFFFFFF#32)]; 
     (Issues e (.aluDivs e d a b) s) ∧ (Quiet s) ∧ (active s e = .express ∨ s.flt.injRes ≠ some e.val)) := by
  refine ⟨?_, ?_⟩ <;> (simp only [Quiet, Issues, shuNeeds]; decide +kernel)

/-- A witness for each clause of ShuttlePhaseArithmetic. -/
theorem witness_shuttle_phase_arithmetic :
    (let e : Fin 34 := 3; let d : Fin 16 := 1; let a : Fin 16 := 2; let b : Fin 16 := 4; let s : State := eng (.padd e d a b) [(2, 0xFFFFFF#32), (4, 1#32)]; 
     (Issues e (.padd e d a b) s) ∧ (Quiet s) ∧ (active s e = .express ∨ s.flt.injRes ≠ some e.val)) ∧
    (let e : Fin 34 := 3; let d : Fin 16 := 1; let a : Fin 16 := 2; let b : Fin 16 := 4; let s : State := eng (.pdif e d a b) [(2, 0xFFFFFF#32), (4, 1#32)]; 
     (Issues e (.pdif e d a b) s) ∧ (Quiet s) ∧ (active s e = .express ∨ s.flt.injRes ≠ some e.val)) := by
  refine ⟨?_, ?_⟩ <;> (simp only [Quiet, Issues, shuNeeds]; decide +kernel)

/-- A witness for each clause of ShuttleBranches. -/
theorem witness_shuttle_branches :
    (let e : Fin 34 := 3; let d : Fin 16 := 1; let a : Fin 16 := 2; let b : Fin 16 := 4; let c : BitVec 4 := 1; let s : State := eng (.sel e d a b c) [(2, 5#32), (4, 7#32)]; 
     (Issues e (.sel e d a b c) s) ∧ (Quiet s)) ∧
    (let e : Fin 34 := 3; let c : BitVec 4 := 15; let imm : BitVec 14 := 5; let s : State := eng (.br e c imm) [(2, 5#32), (4, 7#32)]; let f := (ctx s e (active s e)).flags;
     (Issues e (.br e c imm) s) ∧ (Quiet s) ∧ (condHolds c f = false)) ∧
    (let e : Fin 34 := 3; let c : BitVec 4 := 0; let imm : BitVec 14 := 0x3FF9; let k : Nat := 0; let s : State := eng (.br e c imm) [(2, 5#32), (4, 7#32)]; let f := (ctx s e (active s e)).flags;
     (Issues e (.br e c imm) s) ∧ (Quiet s) ∧ (condHolds c f = true) ∧ (k < 2048) ∧ ((k : Int) = (ctx s e (active s e)).pc + imm.toInt)) ∧
    (let e : Fin 34 := 3; let c : BitVec 4 := 0; let imm : BitVec 14 := 0x7F8; let k : Nat := 2047; let s : State := eng (.br e c imm) [(2, 5#32), (4, 7#32)]; let f := (ctx s e (active s e)).flags;
     (Issues e (.br e c imm) s) ∧ (Quiet s) ∧ (condHolds c f = true) ∧ (k < 2048) ∧ ((k : Int) = (ctx s e (active s e)).pc + imm.toInt)) ∧
    (let e : Fin 34 := 3; let c : BitVec 4 := 0; let imm : BitVec 14 := 0x3FF8; let s : State := eng (.br e c imm) [(2, 5#32), (4, 7#32)]; 
     (Issues e (.br e c imm) s) ∧ (condHolds c (ctx s e (active s e)).flags = true) ∧ ((((ctx s e (active s e)).pc : Int) + imm.toInt < 0 ∨ 2048 ≤ ((ctx s e (active s e)).pc : Int) + imm.toInt))) ∧
    (let e : Fin 34 := 3; let c : BitVec 4 := 0; let imm : BitVec 14 := 0x7F9; let s : State := eng (.br e c imm) [(2, 5#32), (4, 7#32)]; 
     (Issues e (.br e c imm) s) ∧ (condHolds c (ctx s e (active s e)).flags = true) ∧ ((((ctx s e (active s e)).pc : Int) + imm.toInt < 0 ∨ 2048 ≤ ((ctx s e (active s e)).pc : Int) + imm.toInt))) ∧
    (let e : Fin 34 := 3; let imm : BitVec 18 := 5; let s : State := eng (.jmp e imm) [(2, 5#32), (4, 7#32)]; 
     (Issues e (.jmp e imm) s) ∧ (Quiet s)) ∧
    (let e : Fin 34 := 3; let d : Fin 16 := 1; let imm : BitVec 18 := 5; let s : State := eng (.jal e d imm) [(2, 5#32), (4, 7#32)]; 
     (Issues e (.jal e d imm) s) ∧ (Quiet s)) ∧
    (let e : Fin 34 := 3; let a : Fin 16 := 2; let s : State := eng (.jr e a) [(2, 5#32), (4, 7#32)]; 
     (Issues e (.jr e a) s) ∧ (Quiet s)) := by
  refine ⟨?_, ?_, ?_, ?_, ?_, ?_, ?_, ?_, ?_⟩ <;> (simp only [Quiet, Issues, shuNeeds]; decide +kernel)

/-- A witness for each clause of ShuttleLoads. -/
theorem witness_shuttle_loads :
    (let e : Fin 34 := 3; let d : Fin 16 := 2; let a : Fin 16 := 2; let imm : BitVec 14 := 0x3FF8; let s : State := eng (.ld e d a imm) [(2, 0x1A00008#32), (4, 7#32)]; let ea := (gr s e (active s e) a + imm.signExtend 32).toNat; let p := shuPhysical s (runBank (ctx s e (active s e))) ea;
     (Issues e (.ld e d a imm) s) ∧ (Quiet s) ∧ (s.store.marks = []) ∧ ((cycNow s).byB = []) ∧ (ea % 4 = 0) ∧ (shuAddr ea = true) ∧ (bankFull s p = false)) ∧
    (let e : Fin 34 := 3; let d : Fin 16 := 2; let a : Fin 16 := 2; let imm : BitVec 14 := 0x3FF8; let s : State := eng (.ldh e d a imm) [(2, 0x1A00008#32), (4, 7#32)]; let ea := (gr s e (active s e) a + imm.signExtend 32).toNat; let p := shuPhysical s (runBank (ctx s e (active s e))) ea;
     (Issues e (.ldh e d a imm) s) ∧ (Quiet s) ∧ (s.store.marks = []) ∧ ((cycNow s).byB = []) ∧ (ea % 2 = 0) ∧ (shuAddr ea = true) ∧ (bankFull s p = false)) ∧
    (let e : Fin 34 := 3; let d : Fin 16 := 2; let a : Fin 16 := 2; let imm : BitVec 14 := 0x3FF8; let s : State := eng (.ldhu e d a imm) [(2, 0x1A00008#32), (4, 7#32)]; let ea := (gr s e (active s e) a + imm.signExtend 32).toNat; let p := shuPhysical s (runBank (ctx s e (active s e))) ea;
     (Issues e (.ldhu e d a imm) s) ∧ (Quiet s) ∧ (s.store.marks = []) ∧ ((cycNow s).byB = []) ∧ (ea % 2 = 0) ∧ (shuAddr ea = true) ∧ (bankFull s p = false)) ∧
    (let e : Fin 34 := 3; let d : Fin 16 := 2; let a : Fin 16 := 2; let imm : BitVec 14 := 0x3FF8; let s : State := eng (.ldbu e d a imm) [(2, 0x1A00008#32), (4, 7#32)]; let ea := (gr s e (active s e) a + imm.signExtend 32).toNat; let p := shuPhysical s (runBank (ctx s e (active s e))) ea;
     (Issues e (.ldbu e d a imm) s) ∧ (Quiet s) ∧ (s.store.marks = []) ∧ ((cycNow s).byB = []) ∧ (ea % 1 = 0) ∧ (shuAddr ea = true) ∧ (bankFull s p = false)) ∧
    (let e : Fin 34 := 3; let d : Fin 16 := 2; let a : Fin 16 := 2; let imm : BitVec 14 := 0x3FF8; let s : State := eng (.ldd e d a imm) [(2, 0x1A00008#32), (4, 7#32)]; let ea := (gr s e (active s e) a + imm.signExtend 32).toNat; let p := shuPhysical s (runBank (ctx s e (active s e))) ea;
     (Issues e (.ldd e d a imm) s) ∧ (Quiet s) ∧ (s.store.marks = []) ∧ ((cycNow s).byB = []) ∧ (d.val % 2 = 0) ∧ (ea % 8 = 0) ∧ (shuAddr ea = true) ∧ (bankFull s p = false)) ∧
    (let e : Fin 34 := 3; let d : Fin 16 := 1; let a : Fin 16 := 2; let imm : BitVec 14 := 0x3C01; let s : State := rset (Reg.storeCbwBase 15) 0x1A00000#32 (rset (Reg.storeCbwSize 15) 64#32 (eng (.ldc e d a imm) [(2, 60#32)])); let w := imm.toNat / 1024; let ea := (cbwBase s w + (gr s e (active s e) a + wd (4 * (imm.toNat % 1024))).toNat % cbwSize s w) % 2 ^ 32; let p := shuPhysical s (runBank (ctx s e (active s e))) ea;
     (Issues e (.ldc e d a imm) s) ∧ (Quiet s) ∧ (s.store.marks = []) ∧ ((cycNow s).byB = []) ∧ (cbwSize s w ≠ 0) ∧ (ea % 4 = 0) ∧ (shuAddr ea = true) ∧ (bankFull s p = false)) ∧
    (let e : Fin 34 := 3; let x : Ctx := .normal; let k : Slot := ⟨0, 900, 1, .load [(1, 7#32)]⟩; let vs : List (Nat × Word) := [(1, 7#32)]; let s : State := { eng (.nop 3) [] with shu := [(3, { nrm := { slots := [⟨0, 900, 1, .load [(1, 7#32)]⟩] } })] }; 
     (nextResult (ctx s e x) = some k) ∧ (slotDue s e k ≤ s.time) ∧ (running s = true) ∧ (k.acc.values = some vs) ∧ (Quiet s)) := by
  refine ⟨?_, ?_, ?_, ?_, ?_, ?_, ?_⟩ <;> (simp only [Quiet, Issues, shuNeeds]; decide +kernel)

/-- A witness for each clause of ShuttleStores. -/
theorem witness_shuttle_stores :
    (let e : Fin 34 := 3; let a : Fin 16 := 2; let b : Fin 16 := 4; let imm : BitVec 14 := 0x3FF8; let s : State := eng (.st e a b imm) [(2, 0x1A00008#32), (4, 7#32)]; let ea := (gr s e (active s e) a + imm.signExtend 32).toNat; let p := shuPhysical s (runBank (ctx s e (active s e))) ea;
     (Issues e (.st e a b imm) s) ∧ (Quiet s) ∧ (Memory.wf s.mem = true) ∧ (s.store.marks = []) ∧ (ea % 4 = 0) ∧ (shuAddr ea = true) ∧ (idleHalf s ea = false) ∧ (bankFull s p = false) ∧ (wordClosed (.shuttle e) (wordOf p) s = false)) ∧
    (let e : Fin 34 := 3; let a : Fin 16 := 2; let b : Fin 16 := 4; let imm : BitVec 14 := 0x3FF8; let s : State := eng (.sth e a b imm) [(2, 0x1A00008#32), (4, 7#32)]; let ea := (gr s e (active s e) a + imm.signExtend 32).toNat; let p := shuPhysical s (runBank (ctx s e (active s e))) ea;
     (Issues e (.sth e a b imm) s) ∧ (Quiet s) ∧ (Memory.wf s.mem = true) ∧ (s.store.marks = []) ∧ (ea % 2 = 0) ∧ (shuAddr ea = true) ∧ (idleHalf s ea = false) ∧ (bankFull s p = false) ∧ (wordClosed (.shuttle e) (wordOf p) s = false)) ∧
    (let e : Fin 34 := 3; let a : Fin 16 := 2; let b : Fin 16 := 4; let imm : BitVec 14 := 0x3FF8; let s : State := eng (.stb e a b imm) [(2, 0x1A00008#32), (4, 7#32)]; let ea := (gr s e (active s e) a + imm.signExtend 32).toNat; let p := shuPhysical s (runBank (ctx s e (active s e))) ea;
     (Issues e (.stb e a b imm) s) ∧ (Quiet s) ∧ (Memory.wf s.mem = true) ∧ (s.store.marks = []) ∧ (ea % 1 = 0) ∧ (shuAddr ea = true) ∧ (idleHalf s ea = false) ∧ (bankFull s p = false) ∧ (wordClosed (.shuttle e) (wordOf p) s = false)) ∧
    (let e : Fin 34 := 3; let a : Fin 16 := 2; let b : Fin 16 := 4; let imm : BitVec 14 := 0x3FF8; let s : State := eng (.std e a b imm) [(2, 0x1A00008#32), (4, 7#32)]; let ea := (gr s e (active s e) a + imm.signExtend 32).toNat; let p := shuPhysical s (runBank (ctx s e (active s e))) ea;
     (Issues e (.std e a b imm) s) ∧ (Quiet s) ∧ (Memory.wf s.mem = true) ∧ (s.store.marks = []) ∧ (b.val % 2 = 0) ∧ (ea % 8 = 0) ∧ (shuAddr ea = true) ∧ (idleHalf s ea = false) ∧ (bankFull s p = false) ∧ (wordClosed (.shuttle e) (wordOf p) s = false)) ∧
    (let e : Fin 34 := 3; let a : Fin 16 := 2; let b : Fin 16 := 4; let imm : BitVec 14 := 0x3C01; let s : State := rset (Reg.storeCbwBase 15) 0x1A00000#32 (rset (Reg.storeCbwSize 15) 64#32 (eng (.stc e a b imm) [(2, 60#32), (4, 9#32)])); let w := imm.toNat / 1024; let ea := (cbwBase s w + (gr s e (active s e) a + wd (4 * (imm.toNat % 1024))).toNat % cbwSize s w) % 2 ^ 32; let p := shuPhysical s (runBank (ctx s e (active s e))) ea;
     (Issues e (.stc e a b imm) s) ∧ (Quiet s) ∧ (Memory.wf s.mem = true) ∧ (s.store.marks = []) ∧ (cbwSize s w ≠ 0) ∧ (ea % 4 = 0) ∧ (shuAddr ea = true) ∧ (idleHalf s ea = false) ∧ (bankFull s p = false) ∧ (wordClosed (.shuttle e) (wordOf p) s = false)) ∧
    (let e : Fin 34 := 3; let x : Ctx := .normal; let k : Slot := ⟨0, 900, 1, .store⟩; let s : State := { eng (.nop 3) [] with shu := [(3, { nrm := { slots := [⟨0, 900, 1, .store⟩] } })] }; 
     (nextStore (ctx s e x) = some k) ∧ (slotDue s e k ≤ s.time) ∧ (running s = true) ∧ (Quiet s)) ∧
    (let w : Fin 1572864 := 1572863; let s : State := { st 5 [] with store := { writeBack := [1572863], marks := [(1572863, 1)] } }; 
     (running s = true) ∧ (s.store.writeBack.contains w.val = true) ∧ (Quiet s) ∧ (eccBad (eccMark s w) = false)) := by
  refine ⟨?_, ?_, ?_, ?_, ?_, ?_, ?_⟩ <;> (simp only [Quiet, Issues, shuNeeds]; decide +kernel)

/-- A witness for each clause of ShuttleTaskFaults. -/
theorem witness_shuttle_task_faults :
    (let e : Fin 34 := 3; let code : Nat := 15; let r : Run := { desc := 5, start := 900, bank := 0, budget := 300 }; let s : State := eng (.nop 3) []; 
     ((ctx s e (active s e)).task = some r) ∧ (code < 16)) ∧
    (let e : Fin 34 := 3; let s : State := eng (.ill e) [(2, 5#32), (4, 7#32)]; 
     (Issues e (.ill e) s)) ∧
    (let e : Fin 34 := 3; let i : Instr := .ld 3 1 2 0; let a : Fin 16 := 2; let imm : BitVec 14 := 0; let n : Nat := 4; let st : Bool := false; let s : State := eng (.ld 3 1 2 0) [(2, 0x1A00006#32)]; 
     (shuAccess i = some (a, imm, n, st)) ∧ (Issues e i s)) ∧
    (let e : Fin 34 := 3; let i : Instr := .sth 3 2 4 0; let a : Fin 16 := 2; let imm : BitVec 14 := 0; let n : Nat := 2; let st : Bool := true; let s : State := eng (.sth 3 2 4 0) [(2, 0x1A00001#32)]; 
     (shuAccess i = some (a, imm, n, st)) ∧ (Issues e i s)) ∧
    (let e : Fin 34 := 3; let i : Instr := .ldd 3 2 2 0; let a : Fin 16 := 2; let imm : BitVec 14 := 0; let n : Nat := 8; let st : Bool := false; let s : State := eng (.ldd 3 2 2 0) [(2, 0x17FFFFF8#32)]; 
     (shuAccess i = some (a, imm, n, st)) ∧ (Issues e i s)) ∧
    (let e : Fin 34 := 3; let i : Instr := .stb 3 2 4 0; let a : Fin 16 := 2; let imm : BitVec 14 := 0; let n : Nat := 1; let st : Bool := true; let s : State := eng (.stb 3 2 4 0) [(2, 0x1C00000#32)]; 
     (shuAccess i = some (a, imm, n, st)) ∧ (Issues e i s)) ∧
    (let e : Fin 34 := 3; let d : Fin 16 := 1; let a : Fin 16 := 2; let imm : BitVec 14 := 0x3C00; let s : State := eng (.ldc e d a imm) [(2, 5#32), (4, 7#32)]; 
     (Issues e (.ldc e d a imm) s) ∧ (cbwSize s (imm.toNat / 1024) = 0)) ∧
    (let e : Fin 34 := 3; let a : Fin 16 := 2; let b : Fin 16 := 4; let imm : BitVec 14 := 0x3C00; let s : State := eng (.stc e a b imm) [(2, 5#32), (4, 7#32)]; 
     (Issues e (.stc e a b imm) s) ∧ (cbwSize s (imm.toNat / 1024) = 0)) ∧
    (let e : Fin 34 := 3; let d : Fin 16 := 15; let a : Fin 16 := 2; let imm : BitVec 14 := 5; let s : State := eng (.ldd e d a imm) [(2, 5#32), (4, 7#32)]; 
     (Issues e (.ldd e d a imm) s) ∧ (d.val % 2 = 1)) ∧
    (let e : Fin 34 := 3; let a : Fin 16 := 2; let b : Fin 16 := 15; let imm : BitVec 14 := 5; let s : State := eng (.std e a b imm) []; 
     (Issues e (.std e a b imm) s) ∧ (b.val % 2 = 1)) ∧
    (let e : Fin 34 := 3; let d : Fin 16 := 1; let imm : BitVec 14 := 12; let s : State := eng (.rds e d imm) [(2, 5#32), (4, 7#32)]; 
     (Issues e (.rds e d imm) s) ∧ (11 < imm.toNat)) ∧
    (let e : Fin 34 := 3; let d : Fin 16 := 1; let imm : BitVec 14 := 2; let s : State := eng (.rdl e d imm) [(2, 5#32), (4, 7#32)]; 
     (Issues e (.rdl e d imm) s) ∧ (rdlValid imm.toNat = false)) ∧
    (let e : Fin 34 := 3; let d : Fin 16 := 1; let a : Fin 16 := 2; let imm : BitVec 14 := 0x1F; let s : State := eng (.chr e d a imm) [(2, 5#32), (4, 7#32)]; 
     (Issues e (.chr e d a imm) s) ∧ (selReserved (imm.toNat % 32) = true)) ∧
    (let e : Fin 34 := 3; let a : Fin 16 := 2; let b : Fin 16 := 4; let imm : BitVec 14 := 0x1F; let s : State := eng (.chw e a b imm) [(2, 5#32), (4, 7#32)]; 
     (Issues e (.chw e a b imm) s) ∧ (selReserved (imm.toNat % 32) = true)) ∧
    (let e : Fin 34 := 3; let a : Fin 16 := 2; let b : Fin 16 := 4; let imm : BitVec 14 := 3; let s : State := eng (.edge e a b imm) [(2, 5#32), (4, 7#32)]; 
     (Issues e (.edge e a b imm) s) ∧ (imm.toNat % 4 = 3)) ∧
    (let e : Fin 34 := 3; let d : Fin 16 := 1; let a : Fin 16 := 13; let s : State := eng (.arm e d a) [(2, 5#32), (4, 7#32)]; 
     (Issues e (.arm e d a) s) ∧ (12 < a.val)) ∧
    (let e : Fin 34 := 3; let d : Fin 16 := 1; let a : Fin 16 := 2; let b : Fin 16 := 4; let imm : BitVec 14 := 17; let s : State := eng (.lerp e d a b imm) [(2, 5#32), (4, 7#32)]; 
     (Issues e (.lerp e d a b imm) s) ∧ ((imm.toNat % 32 = 0 ∨ 16 < imm.toNat % 32))) ∧
    (let e : Fin 34 := 3; let d : Fin 16 := 1; let a : Fin 16 := 2; let b : Fin 16 := 4; let imm : BitVec 14 := 0; let s : State := eng (.lerp e d a b imm) [(2, 5#32), (4, 7#32)]; 
     (Issues e (.lerp e d a b imm) s) ∧ ((imm.toNat % 32 = 0 ∨ 16 < imm.toNat % 32))) ∧
    (let e : Fin 34 := 3; let i : Instr := .aluDivs e 1 2 4; let s : State := { eng i [] with flt := { injRes := some 3 } }; 
     (residueChecked i = true) ∧ (Issues e i s) ∧ (Quiet s) ∧ (active s e = .normal) ∧ (s.flt.injRes = some e.val) ∧ (checkOn s = true)) ∧
    (let e : Fin 34 := 3; let s : State := eng (.nop 3) []; 
     (issueTime s e [] ≤ s.time) ∧ (mayIssue s e = true) ∧ (withinLimit s e = true)) := by
  refine ⟨?_, ?_, ?_, ?_, ?_, ?_, ?_, ?_, ?_, ?_, ?_, ?_, ?_, ?_, ?_, ?_, ?_, ?_, ?_, ?_⟩ <;> ((try simp only [Quiet, Issues, shuNeeds]); decide +kernel)

/-- A witness for each clause of ShuttleLerp. -/
theorem witness_shuttle_lerp :
    (let e : Fin 34 := 3; let d : Fin 16 := 1; let a : Fin 16 := 2; let b : Fin 16 := 4; let imm : BitVec 14 := 0x30; let s : State := eng (.lerp e d a b imm) [(2, 0x1A00000#32), (4, 0xFFFFFF#32)]; let x := active s e; let k := imm.toNat % 32; let ph := (gr s e x b).toNat % 2 ^ 24; let sh := 24 - k; let i := ph / 2 ^ sh; let j := if imm.getLsbD 5 then (i + 1) % 2 ^ k else i + 1; let a0 := (gr s e x a + wd (4 * i)).toNat; let a1 := (gr s e x a + wd (4 * j)).toNat; let p0 := shuPhysical s (runBank (ctx s e x)) a0; let p1 := shuPhysical s (runBank (ctx s e x)) a1;
     (Issues e (.lerp e d a b imm) s) ∧ (Quiet s) ∧ ((active s e = .express ∨ s.flt.injRes ≠ some e.val)) ∧ (s.store.marks = []) ∧ ((cycNow s).byB = []) ∧ (1 ≤ k) ∧ (k ≤ 16) ∧ (a0 % 4 = 0) ∧ (a1 % 4 = 0) ∧ (shuAddr a0 = true) ∧ (shuAddr a1 = true) ∧ (bankFull s p0 = false) ∧ (bankFull s p1 = false)) ∧
    (let e : Fin 34 := 3; let d : Fin 16 := 1; let a : Fin 16 := 2; let b : Fin 16 := 4; let imm : BitVec 14 := 1; let s : State := eng (.lerp e d a b imm) [(2, 0x1A00000#32), (4, 0xFFFFFF#32)]; let x := active s e; let k := imm.toNat % 32; let ph := (gr s e x b).toNat % 2 ^ 24; let sh := 24 - k; let i := ph / 2 ^ sh; let j := if imm.getLsbD 5 then (i + 1) % 2 ^ k else i + 1; let a0 := (gr s e x a + wd (4 * i)).toNat; let a1 := (gr s e x a + wd (4 * j)).toNat; let p0 := shuPhysical s (runBank (ctx s e x)) a0; let p1 := shuPhysical s (runBank (ctx s e x)) a1;
     (Issues e (.lerp e d a b imm) s) ∧ (Quiet s) ∧ ((active s e = .express ∨ s.flt.injRes ≠ some e.val)) ∧ (s.store.marks = []) ∧ ((cycNow s).byB = []) ∧ (1 ≤ k) ∧ (k ≤ 16) ∧ (a0 % 4 = 0) ∧ (a1 % 4 = 0) ∧ (shuAddr a0 = true) ∧ (shuAddr a1 = true) ∧ (bankFull s p0 = false) ∧ (bankFull s p1 = false)) ∧
    (let e : Fin 34 := 3; let d : Fin 16 := 1; let a : Fin 16 := 2; let b : Fin 16 := 4; let imm : BitVec 14 := 16; let s : State := eng (.lerp e d a b imm) [(2, 0x1A00000#32), (4, 0xFFFFFF#32)]; 
     (Issues e (.lerp e d a b imm) s)) ∧
    (let e : Fin 34 := 3; let d : Fin 16 := 1; let a : Fin 16 := 2; let b : Fin 16 := 4; let imm : BitVec 14 := 16; let s : State := { eng (.lerp e d a b imm) [(2, 0x1A00000#32), (4, 0xFFFFFF#32)] with flt := { injRes := some 3 } }; let x := active s e; let k := imm.toNat % 32; let ph := (gr s e x b).toNat % 2 ^ 24; let i := ph / 2 ^ (24 - k); let j := if imm.getLsbD 5 then (i + 1) % 2 ^ k else i + 1; let a0 := (gr s e x a + wd (4 * i)).toNat; let a1 := (gr s e x a + wd (4 * j)).toNat;
     (Issues e (.lerp e d a b imm) s) ∧ (Quiet s) ∧ (x = .normal) ∧ (s.flt.injRes = some e.val) ∧ (checkOn s = true) ∧ (s.store.marks = []) ∧ (1 ≤ k) ∧ (k ≤ 16) ∧ (a0 % 4 = 0) ∧ (a1 % 4 = 0) ∧ (shuAddr a0 = true) ∧ (shuAddr a1 = true) ∧ (bankFull s (shuPhysical s (runBank (ctx s e x)) a0) = false) ∧ (bankFull s (shuPhysical s (runBank (ctx s e x)) a1) = false)) ∧
    (let e : Fin 34 := 3; let s : State := eng (.fence e) [(2, 5#32), (4, 7#32)]; 
     (Issues e (.fence e) s) ∧ (Quiet s)) := by
  refine ⟨?_, ?_, ?_, ?_, ?_⟩ <;> (simp only [Quiet, Issues, shuNeeds]; decide +kernel)

/-- A witness for each clause of ShuttleEffects. -/
theorem witness_shuttle_effects :
    (let e : Fin 34 := 3; let a : Fin 16 := 2; let imm : BitVec 14 := 5; let s : State := eng (.evr e a imm) [(2, 5#32), (4, 7#32)]; 
     (Issues e (.evr e a imm) s) ∧ (Quiet s) ∧ (noEdgeFirst s e = true)) ∧
    (let e : Fin 34 := 3; let a : Fin 16 := 2; let b : Fin 16 := 4; let imm : BitVec 14 := 4; let s : State := eng (.chw e a b imm) [(2, 5#32), (4, 7#32)]; let sel := imm.toNat % 32;
     (Issues e (.chw e a b imm) s) ∧ (Quiet s) ∧ (noEdgeFirst s e = true) ∧ (selReserved sel = false) ∧ ((active s e = .normal → 16 ≤ sel → (ctx s e .normal).loads.length < 8))) ∧
    (let e : Fin 34 := 3; let a : Fin 16 := 2; let b : Fin 16 := 4; let imm : BitVec 14 := 0x3FF0; let s : State := engX (.chw e a b imm) [(2, 5#32), (4, 7#32)]; let sel := imm.toNat % 32;
     (Issues e (.chw e a b imm) s) ∧ (Quiet s) ∧ (noEdgeFirst s e = true) ∧ (selReserved sel = false) ∧ ((active s e = .normal → 16 ≤ sel → (ctx s e .normal).loads.length < 8))) ∧
    (let e : Fin 34 := 3; let a : Fin 16 := 2; let b : Fin 16 := 4; let imm : BitVec 14 := 0; let s : State := (let s := eng (.edge e a b imm) [(2, 5#32), (4, 7#32)]; { s with shu := [(3, { (shuSt s 3) with eff := [(900, .evr 3008)] })] }); 
     (Issues e (.edge e a b imm) s) ∧ (Quiet s) ∧ (imm.toNat % 4 ≠ 3) ∧ ((shuSt s e).eff ≠ []) ∧ (noEdgeFirst s e = true)) ∧
    (let e : Fin 34 := 3; let a : Fin 16 := 2; let b : Fin 16 := 4; let imm : BitVec 14 := 4; let s : State := rset (Reg.chCtl 5) 10#32 (eng (.edge e a b imm) [(2, 5#32), (4, 7#32)]); let n := (gr s e (active s e) a).toNat % 512;
     (Issues e (.edge e a b imm) s) ∧ (imm.toNat % 4 ≠ 3) ∧ (imm.getLsbD 2 = true) ∧ ((shuSt s e).eff = []) ∧ (chMode s n = 10) ∧ ((chSt s n).edges = []) ∧ (Quiet s)) ∧
    (let e : Fin 34 := 3; let src : Nat := 4031; let c : Nat := 900; let rest : List (Nat × Effect) := []; let s : State := { st 5 [] with shu := [(3, { eff := [(900, .evr 4031)] })] }; 
     ((shuSt s e).eff = (c, .evr src) :: rest) ∧ (c + 1 ≤ s.time)) ∧
    (let e : Fin 34 := 3; let n : Nat := 511; let sel : Nat := 4; let v : Word := 7#32; let c : Nat := 900; let rest : List (Nat × Effect) := []; let s : State := { st 5 [] with shu := [(3, { eff := [(900, .chw 511 4 7#32)] })] }; let u := takeTurn (shuRank e) s;
     (headEffect s e = some (c, .chw n sel v)) ∧ (c + 1 ≤ s.time) ∧ (turnAt (shuRank e) s ≤ s.time) ∧ ((shuSt u e).eff = (c, .chw n sel v) :: rest)) ∧
    (let n : Fin 512 := 511; let y : PlacedEdge := ⟨⟨900, 0⟩, 0, false⟩; let rest : List PlacedEdge := []; let s : State := { st 5 [(Reg.chCtl 511, 10#32)] with ch := [(511, { edges := [⟨⟨900, 0⟩, 0, false⟩] })] }; 
     ((chSt s n).edges = y :: rest) ∧ (y.t.lc ≤ s.time) ∧ (running s = true) ∧ (chMode s n = 10)) := by
  refine ⟨?_, ?_, ?_, ?_, ?_, ?_, ?_, ?_⟩ <;> ((try simp only [Quiet, Issues, shuNeeds]); decide +kernel)

/-- A witness for each clause of ShuttleReads. -/
theorem witness_shuttle_reads :
    (let e : Fin 34 := 3; let d : Fin 16 := 1; let imm : BitVec 14 := 11; let s : State := eng (.rds e d imm) [(2, 5#32), (4, 7#32)]; 
     (Issues e (.rds e d imm) s) ∧ (Quiet s) ∧ (imm.toNat ≤ 11)) ∧
    (let e : Fin 34 := 3; let d : Fin 16 := 1; let imm : BitVec 14 := 0xB1; let s : State := eng (.rdl e d imm) [(2, 5#32), (4, 7#32)]; 
     (Issues e (.rdl e d imm) s) ∧ (Quiet s) ∧ (rdlValid imm.toNat = true)) ∧
    (let e : Fin 34 := 3; let d : Fin 16 := 1; let a : Fin 16 := 2; let imm : BitVec 14 := 9; let s : State := eng (.chr e d a imm) [(2, 5#32), (4, 7#32)]; 
     (Issues e (.chr e d a imm) s) ∧ (Quiet s) ∧ (selReserved (imm.toNat % 32) = false)) := by
  refine ⟨?_, ?_, ?_⟩ <;> (simp only [Quiet, Issues, shuNeeds]; decide +kernel)

/-- A witness for each clause of ShuttleCards. -/
theorem witness_shuttle_cards :
    (let e : Fin 34 := 3; let d : Fin 16 := 1; let a : Fin 16 := 12; let s : State := eng (.arm e d a) [(2, 5#32), (4, 7#32)]; 
     (Issues e (.arm e d a) s) ∧ (Quiet s) ∧ (a.val ≤ 12)) ∧
    (let e : Fin 34 := 3; let d : Fin 16 := 1; let a : Fin 16 := 2; let s : State := eng (.disarm e d a) [(2, 5#32), (4, 7#32)]; 
     (Issues e (.disarm e d a) s)) := by
  refine ⟨?_, ?_⟩ <;> (simp only [Quiet, Issues, shuNeeds]; decide +kernel)

/-- A witness for each clause of ShuttleEndCheck. -/
theorem witness_shuttle_end_check :
    (let e : Fin 34 := 3; let imm : BitVec 18 := 5; let s : State := eng (.sig e imm) [(2, 5#32), (4, 7#32)]; 
     (Issues e (.sig e imm) s) ∧ (Quiet s)) ∧
    (let e : Fin 34 := 3; let imm : BitVec 18 := 0; let s : State := eng (.endTask e imm) [(2, 5#32), (4, 7#32)]; 
     (Issues e (.endTask e imm) s) ∧ (active s e = .normal) ∧ ((ctx s e .normal).sig = imm) ∧ ((ctx s e .normal).err = false) ∧ ((ctx s e .normal).loads = [])) ∧
    (let e : Fin 34 := 3; let imm : BitVec 18 := 0; let s : State := engX (.endTask e imm) [(2, 5#32), (4, 7#32)]; 
     (Issues e (.endTask e imm) s) ∧ (active s e = .express) ∧ ((ctx s e .express).sig = imm) ∧ ((ctx s e .express).err = false)) ∧
    (let e : Fin 34 := 3; let imm : BitVec 18 := 1; let r : Run := { desc := 5, start := 900, bank := 0, budget := 300 }; let s : State := eng (.endTask e imm) [(2, 5#32), (4, 7#32)]; 
     (Issues e (.endTask e imm) s) ∧ (active s e = .normal) ∧ ((ctx s e .normal).task = some r) ∧ (((ctx s e .normal).sig ≠ imm ∨ (ctx s e .normal).err = true)) ∧ ((ctx s e .normal).cards = [])) := by
  refine ⟨?_, ?_, ?_, ?_⟩ <;> (simp only [Quiet, Issues, shuNeeds]; decide +kernel)

/-- A witness for each clause of ShuttleDebugStops. -/
theorem witness_shuttle_debug_stops :
    (let e : Fin 34 := 3; let s : State := rset (Reg.shuDbg 3) 1#32 (eng (.nop 3) []); 
     ((shuSt s e).issueAt ≤ s.time) ∧ (running s = true) ∧ (rb s (Reg.shuDbg e) 0 = true) ∧ (rb s (Reg.shuDbg e) 8 = false) ∧ ((shuSt s e).step = false) ∧ (slotsHeld (shuSt s e) = 0)) ∧
    (let e : Fin 34 := 3; let i : Nat := 3; let s : State := rset (Reg.shuBrk 3 3) 0x80000007#32 (eng (.nop 3) []); 
     ((shuSt s e).issueAt ≤ s.time) ∧ (running s = true) ∧ ((ctx s e (active s e)).task.isSome = true) ∧ ((shuSt s e).back = none) ∧ ((shuSt s e).step = false) ∧ ((shuSt s e).skipBrk = false) ∧ (rb s (Reg.shuDbg e) 0 = false) ∧ (withinLimit s e = true) ∧ ((active s e = .normal → expressNear s e = false)) ∧ (breakpoint s e = some i)) := by
  refine ⟨?_, ?_⟩ <;> decide +kernel

/-- A witness for the hypotheses of TaskContext. -/
theorem witness_task_context :
    (let e : Fin 34 := 33; let d : Nat := 4095; let rest : List Nat := []; let s : State := { st 5 [] with eng := [(33, { due := [4095] })] }; 
     ((engSt s e).due = d :: rest) ∧ ((engSt s e).readyAt ≤ s.time) ∧ (engOpen s e = true) ∧ (expressIdle s e = true) ∧ ((ctx s e .normal).task = none) ∧ (Quiet s)) := by
  simp only [Quiet]
  decide +kernel

/-- A witness for each clause of ShedEvents. -/
theorem witness_shed_events :
    (let s : State := { st 5 [] with time := 1040 }; 
     (picksRun s = true) ∧ (s.time = nextPick s - 160) ∧ (s.time < nextPick s) ∧ (scanDone s (nextPick s) = false)) ∧
    (let s : State := { st 5 [] with time := 1200, shed := { scanned := some 1200 } }; 
     (picksRun s = true) ∧ (nextPick s = s.time) ∧ (scanDone s (nextPick s) = true) ∧ (s.time % pickLenNow s = 0)) ∧
    (let e : Fin 34 := 0; let x : ExReq := ⟨7, 1#32, 2#32⟩; let s : State := { st 5 [] with shed := { exPend := [⟨7, 1#32, 2#32⟩] } }; 
     (engOpen s e = true) ∧ (expressIdle s e = true) ∧ (boundary s e = s.time) ∧ (nextExpress s (logicalEng s e) = some x) ∧ (Quiet s)) ∧
    (let e : Fin 34 := 3; let r : Run := { desc := 5, start := 900, bank := 0, budget := 300 }; let s : State := (let s := engX (.nop 3) []; { s with time := 1252 }); 
     ((ctx s e .express).task = some r) ∧ (expressLimitAt s e = some s.time) ∧ (rb s (Reg.shuDbg e) 8 = false)) ∧
    (let e : Fin 34 := 33; let c : Nat := 1000; let s : State := { st 5 [] with shu := [(33, { back := some 1000 })] }; 
     ((shuSt s e).back = some c) ∧ (c ≤ s.time) ∧ (Quiet s)) := by
  refine ⟨?_, ?_, ?_, ?_, ?_⟩ <;> ((try simp only [Quiet]); decide +kernel)

/-- A witness for each clause of ChannelEvents. -/
theorem witness_channel_events :
    (let n : Fin 512 := 511; let level : Bool := true; let fine : Fin 32 := 31; let s : State := st 5 []; let lv := level ^^ s.flt.injPin.contains n.val;
     (lv ≠ padLevel s n) ∧ (transBefore s n ⟨s.time, fine⟩ = true) ∧ (((chSt s n).trans.head?.all fun y => decide (128 ≤ (32 * s.time + fine.val - y.t.steps) * 5)) = true)) ∧
    (let n : Fin 512 := 511; let s : State := { st 5 [(Reg.chSts 511, 0#32)] with ch := [(511, { run := 2, cand := true })] }; 
     (live s = true) ∧ (sampleAt s n = s.time) ∧ (rb s (Reg.chSts n) 19 = false) ∧ ((chSt s n).sync = rb s (Reg.chSts n) 18)) ∧
    (let n : Fin 512 := 511; let s : State := { st 5 [(Reg.chFilt 511, 3#32)] with ch := [(511, { run := 2, cand := true, level := true, sync := true })] }; let lv := (chSt s n).sync;
     (live s = true) ∧ (sampleAt s n = s.time) ∧ ((chSt s n).cand = lv) ∧ (0 < (chSt s n).run) ∧ (lv ≠ rb s (Reg.chSts n) 18) ∧ (rf s (Reg.chFilt n) 0 8 ≤ (chSt s n).run + 1)) ∧
    (let h : Fin 64 := 63; let s : State := st 5 []; 
     (running s = true) ∧ ((harnTickAt s h).1 = s.time)) ∧
    (let n : Fin 512 := 511; let s : State := st 5 [(Reg.chCtl 511, 1#32), (Reg.chRld 511, 9#32), (Reg.chCnt 511, 8#32)]; 
     (chMode s n ≠ 3) ∧ ((chSt s n).firstLap = false) ∧ ((chSt s n).restart = none) ∧ (rn s (Reg.chCnt n) < rn s (Reg.chRld n))) ∧
    (let n : Fin 512 := 511; let s : State := { st 5 [(Reg.chCtl 511, 8#32)] with ev := { wires := [⟨1000, 5, .chRst 511⟩] } }; 
     (running s = true) ∧ (chMode s n = 8) ∧ (wireDue (.chRst n) s = true)) := by
  refine ⟨?_, ?_, ?_, ?_, ?_, ?_⟩ <;> decide +kernel

/-- A witness for each clause of ReedEvents. -/
theorem witness_reed_events :
    (let h : Fin 64 := 63; let i : Fin 4 := 3; let s : State := { st 5 [] with harn := [(63, { cutDue := [(3, 8)] })] }; let u := tripJudgeOp h s; let m := tget 0 (harnSt u h).cutDue i.val;
     (running s = true) ∧ (m ≠ 0)) ∧
    (let k : Fin 256 := 255; let s : State := { st 5 [] with reed := [(255, { ign := 8#4 })] }; 
     (running s = true) ∧ ((reedSt s k).ign ≠ 0) ∧ (blankEnd s k ≤ s.time) ∧ (blankOpen s k s.time = false)) ∧
    (let k : Fin 256 := 255; let q : Side := .b; let i : Inst := ⟨1000, 31⟩; let s : State := { st 5 [] with reed := [(255, { b := { due := some ⟨1000, 31⟩ } })] }; let n := sidePin k q;
     ((side s n).due = some i) ∧ (i.lc ≤ s.time) ∧ (running s = true) ∧ ((side s n).edge = none) ∧ ((side s n).level = false)) ∧
    (let n : Fin 512 := 511; let mv : CalStep := ⟨.tdc, .up⟩; let s : State := st 5 []; 
     (running s = true) ∧ ((calSet s n mv.line).next ≤ s.time) ∧ (noEdgeNow s n = true)) ∧
    (let n : Fin 512 := 511; let l : CalLine := .out; let s : State := st 5 [(Reg.reedSts 255, 0x10000#32)]; 
     ((calSet s n l).next ≤ s.time) ∧ (noEdgeNow s n = true)) ∧
    (let n : Fin 512 := 511; let s : State := { st 5 [] with reed := [(255, { b := { edge := some (⟨1000, 0⟩, true) } })] }; 
     (noEdgeNow s n = false)) := by
  refine ⟨?_, ?_, ?_, ?_, ?_, ?_⟩ <;> decide +kernel

/-- A witness for each clause of CardsFire. -/
theorem witness_cards_fire :
    (let n : Fin 131072 := 131071; let h : How := { t := ⟨1000, 0⟩ }; let s : State := card 0 9; 
     (Fires 0 n h s)) ∧
    (let n : Fin 131072 := 131071; let h : How := { t := ⟨1000, 0⟩ }; let s : State := card 1 9; 
     (Fires 1 n h s)) ∧
    (let n : Fin 131072 := 131071; let h : How := { t := ⟨1000, 0⟩ }; let s : State := card 2 9; 
     (Fires 2 n h s)) ∧
    (let n : Fin 131072 := 131071; let h : How := { t := ⟨1000, 0⟩ }; let s : State := card 3 9; 
     (Fires 3 n h s)) ∧
    (let n : Fin 131072 := 131071; let h : How := { t := ⟨1000, 0⟩ }; let s : State := card 4 9; 
     (Fires 4 n h s)) ∧
    (let n : Fin 131072 := 131071; let h : How := { t := ⟨1000, 0⟩ }; let s : State := card 5 9; 
     (Fires 5 n h s)) ∧
    (let n : Fin 131072 := 131071; let h : How := { t := ⟨1000, 0⟩ }; let s : State := card 6 9; 
     (Fires 6 n h s)) ∧
    (let n : Fin 131072 := 131071; let h : How := { t := ⟨1000, 0⟩ }; let s : State := card 7 9; 
     (Fires 7 n h s)) ∧
    (let n : Fin 131072 := 131071; let s : State := rset Reg.cardNear 1024#32 { card 0 9 with chain := { slots := [(131071, { st := 2 })] } }; 
     (cAct (cw0 s n) = 0) ∧ (cardDue s n = .passed)) ∧
    (let n : Fin 131072 := 131071; let s : State := rset Reg.cardNear 1024#32 { card 1 9 with chain := { slots := [(131071, { st := 2 })] } }; 
     (cAct (cw0 s n) = 1) ∧ (cardDue s n = .passed)) ∧
    (let n : Fin 131072 := 131071; let s : State := rset Reg.cardNear 1024#32 { card 2 9 with chain := { slots := [(131071, { st := 2 })] } }; 
     (cAct (cw0 s n) = 2) ∧ (cardDue s n = .passed)) ∧
    (let n : Fin 131072 := 131071; let s : State := rset Reg.cardNear 1024#32 { card 3 9 with chain := { slots := [(131071, { st := 2 })] } }; 
     (cAct (cw0 s n) = 3) ∧ (cardDue s n = .passed)) ∧
    (let n : Fin 131072 := 131071; let s : State := rset Reg.cardNear 1024#32 { card 4 9 with chain := { slots := [(131071, { st := 2 })] } }; 
     (cAct (cw0 s n) = 4) ∧ (cardDue s n = .passed)) ∧
    (let n : Fin 131072 := 131071; let s : State := rset Reg.cardNear 1024#32 { card 5 9 with chain := { slots := [(131071, { st := 2 })] } }; 
     (cAct (cw0 s n) = 5) ∧ (cardDue s n = .passed)) ∧
    (let n : Fin 131072 := 131071; let s : State := rset Reg.cardNear 1024#32 { card 6 9 with chain := { slots := [(131071, { st := 2 })] } }; 
     (cAct (cw0 s n) = 6) ∧ (cardDue s n = .passed)) ∧
    (let n : Fin 131072 := 131071; let s : State := rset Reg.cardNear 1024#32 { card 7 9 with chain := { slots := [(131071, { st := 2 })] } }; 
     (cAct (cw0 s n) = 7) ∧ (cardDue s n = .passed)) ∧
    (let n : Fin 131072 := 131071; let h : How := { t := ⟨1000, 0⟩ }; let s : State := card 0 9; let c := cChan (cw0 s n);
     (FiresPlain 0 n h s) ∧ (chMode s c = 9) ∧ (firstOfStep c h.t s = true)) ∧
    (let n : Fin 131072 := 131071; let h : How := { t := ⟨1000, 0⟩ }; let s : State := card 1 9; let c := cChan (cw0 s n);
     (FiresPlain 1 n h s) ∧ (chMode s c = 9) ∧ (firstOfStep c h.t s = true)) ∧
    (let n : Fin 131072 := 131071; let h : How := { t := ⟨1000, 0⟩ }; let s : State := card 2 9; let c := cChan (cw0 s n);
     (FiresPlain 2 n h s) ∧ (chMode s c = 9) ∧ (firstOfStep c h.t s = true)) ∧
    (let n : Fin 131072 := 131071; let h : How := { t := ⟨1000, 0⟩ }; let s : State := card 3 9; let c := cChan (cw0 s n);
     (FiresPlain 3 n h s) ∧ (chMode s c = 9) ∧ (firstOfStep c h.t s = true) ∧ (RecordsApart s)) ∧
    (let n : Fin 131072 := 131071; let h : How := { t := ⟨1000, 0⟩ }; let s : State := card 4 9; let c := cChan (cw0 s n);
     (FiresPlain 4 n h s) ∧ (chMode s c ≠ 0) ∧ ((chSt s c).xferAt ≠ s.time + 1)) ∧
    (let n : Fin 131072 := 131071; let h : How := { t := ⟨1000, 0⟩ }; let s : State := card 5 9; let c := cChan (cw0 s n);
     (FiresPlain 5 n h s) ∧ (chMode s c ≠ 0) ∧ ((chSt s c).xferAt ≠ s.time + 1)) ∧
    (let n : Fin 131072 := 131071; let h : How := { t := ⟨1000, 0⟩ }; let s : State := card 6 9; 
     (FiresPlain 6 n h s)) ∧
    (let n : Fin 131072 := 131071; let h : How := { t := ⟨1000, 0⟩ }; let s : State := { card 7 9 with shed := { table := [(36, 0x800000DF#32)] } }; let u := acting n h s; let d := 4096 * exHalfNow u + fld (cardWord s n 3) 0 12;
     (FiresPlain 7 n h s) ∧ (bit (tget 0 u.shed.table (4 * d)) 31 = true) ∧ (fld (tget 0 u.shed.table (4 * d)) 6 2 = 3) ∧ (fld (tget 0 u.shed.table (4 * d)) 0 6 ≤ 31)) ∧
    (let d : Nat := 9; let s : State := { st 5 [] with shed := { table := [(36, 0x800000DF#32)] } }; let e := fld (tget 0 s.shed.table (4 * d)) 0 6;
     ((engSt s e).held = false) ∧ (s.flt.copying = false) ∧ ((∀ x ∈ s.shed.exPend, x.desc ≠ d))) := by
  refine ⟨?_, ?_, ?_, ?_, ?_, ?_, ?_, ?_, ?_, ?_, ?_, ?_, ?_, ?_, ?_, ?_, ?_, ?_, ?_, ?_, ?_, ?_, ?_, ?_, ?_⟩ <;> ((try simp only [Fires, FiresPlain, RecordsApart, ActsNext]); decide +kernel)

/-- A witness for each clause of CardsPlacedAndEnded. -/
theorem witness_cards_placed_and_ended :
    (let u : Submit := ⟨[0#32, 3000#32, 0#32, 0#32], 3, .normal, 0, false, 990⟩; let rest : List Submit := []; let s : State := { st 5 [] with chain := { submit := [⟨[0#32, 3000#32, 0#32, 0#32], 3, .normal, 0, false, 990⟩] } }; 
     (s.chain.submit = u :: rest) ∧ (u.at_ + 1 ≤ s.time) ∧ (running s = true)) ∧
    (let u : Submit := ⟨[0#32, 3000#32, 0#32, 0#32], 3, .normal, 0, false, 990⟩; let rest : List Submit := []; let k : Nat := 0; let s : State := { st 5 [(Reg.chCtl 0, 9#32)] with chain := { submit := [⟨[0#32, 3000#32, 0#32, 0#32], 3, .normal, 0, false, 990⟩] } }; let w := fun i => u.words.getD i 0; let q := { s with chain := { s.chain with submit := rest } }; let T := (w 1).toNat + 2 ^ 32 * fld (w 2) 0 24;
     (s.chain.submit = u :: rest) ∧ (u.at_ + 1 ≤ s.time) ∧ (running s = true) ∧ (mode s ≠ 9) ∧ (u.gen = curGen q) ∧ (cardValid q (w 0) (w 2) (w 3) = true) ∧ (cAngle (w 0) = false) ∧ (s.time ≤ T) ∧ (T < s.time + 2 ^ 55) ∧ (u.at_ + 24 ≤ T) ∧ (lowestFree q = some k) ∧ (Memory.wf s.mem = true) ∧ (s.store.marks = [])) ∧
    (let n : Fin 131072 := 131071; let s : State := { card 0 9 with chain := { slots := [(131071, { st := 2 })] } }; 
     (promoteAt s n ≤ s.time) ∧ (promotes s n = true)) ∧
    (let n : Nat := 131071; let outcome : Nat := 8; let s : State := { card 0 9 with regs := (st 5 [(Reg.cardCtl, 1#32), (Reg.cardCrBase, 0x1A00000#32), (Reg.cardCrSize, 16#32), (Reg.cardCrWr, 15#32), (Reg.cardCrRd, 15#32)]).regs }; let size := rn s Reg.cardCrSize;
     (Memory.wf s.mem = true) ∧ (s.store.marks = []) ∧ (rb s Reg.cardCtl 0 = true) ∧ ((cQuiet (cw0 s n) = false ∨ 2 < outcome)) ∧ (ringFill s + 1 < size)) ∧
    (let n : Fin 131072 := 131071; let h : How := { t := ⟨1000, 0⟩ }; let s : State := { card 3 9 with chain := { slots := [(131071, { st := 4, endT := some ⟨1000, 0⟩, endNear := true })] } }; 
     (pulseDue s n = .at_ h) ∧ (ActsNext (.pulseEnd n) h s)) ∧
    (let n : Fin 131072 := 131071; let h : How := { t := ⟨1000, 0⟩ }; let s : State := { card 3 9 with chain := { slots := [(131071, { st := 4, endT := some ⟨1000, 0⟩, endNear := true })] } }; let c := cChan (cw0 s n);
     (pulseDue s n = .at_ h) ∧ (ActsNext (.pulseEnd n) h s) ∧ ((slotSt s n).left = false) ∧ (cRepeat (cw0 s n) = false) ∧ (runningOn s c = [n.val]) ∧ (s.store.marks = []) ∧ (RecordsApart s) ∧ (firstOfStep c h.t s = true)) ∧
    (let n : Fin 131072 := 131071; let c : Nat := 511; let q : Inst := ⟨1000, 0⟩; let s : State := { st 5 [] with ch := [(511, { pulse := some { slot := 131071, trk := 0, hold := true, ends := true, cap := some ⟨1000, 0⟩ } })] }; 
     (capWaits s n = some (c, q)) ∧ (ActsNext (.capEnd c) (lateBy s q) s) ∧ (running s = true)) ∧
    (let n : Fin 131072 := 131071; let c : Nat := 511; let q : Inst := ⟨1000, 0⟩; let s : State := { st 5 [] with ch := [(511, { pulse := some { slot := 131071, trk := 0, hold := true, ends := true, cap := some ⟨1000, 0⟩ } })] }; 
     (capWaits s n = some (c, q)) ∧ (ActsNext (.capEnd c) (lateBy s q) s) ∧ (running s = true) ∧ ((chSt s c).pulse ≠ none) ∧ (firstOfStep c (lateBy s q).t s = true)) := by
  refine ⟨?_, ?_, ?_, ?_, ?_, ?_, ?_, ?_⟩ <;> ((try simp only [ActsNext, RecordsApart]); decide +kernel)

/-- A witness for each clause of TrackerEvents. -/
theorem witness_tracker_events :
    (let t : Fin 4 := 3; let i : Nat := 32000; let s : State := { st 5 [(Reg.trdSts 3, 1#32), (Reg.trdCtl 3, 1#32)] with timed := [(1000, .tooth 3 32000)] }; 
     (landed s (.tooth t i) = true)) ∧
    (let t : Fin 4 := 3; let j : Nat := 32000; let p : Tooth := { t := 0 }; let s : State := { st 5 [(Reg.trdSts 3, 3#32), (Reg.trdCtl 3, 1#32)] with timed := [(1000, .tooth 3 32000)], trd := [(3, { prev := some { t := 0 } })] }; let i := slumberInst s j; let n := spanN s t p.k;
     (landed s (.tooth t j) = true) ∧ (trdState s t = 3) ∧ ((trdSt s t).prev = some p) ∧ (toothCode s t p i n = 0)) ∧
    (let t : Fin 4 := 3; let j : Nat := 32000; let p : Tooth := { t := 0, T := some 1, n := 1 }; let s : State := { st 5 [(Reg.trdSts 3, 3#32), (Reg.trdCtl 3, 1#32)] with timed := [(1000, .tooth 3 32000)], trd := [(3, { prev := some { t := 0, T := some 1, n := 1 } })] }; let i := slumberInst s j; let c := toothCode s t p i (spanN s t p.k);
     (landed s (.tooth t j) = true) ∧ (trdState s t = 3) ∧ ((trdSt s t).prev = some p) ∧ (c ≠ 0) ∧ ((rb s (Reg.trdCtl t) 4 && rb s (Reg.trdSts t) 4) = false)) ∧
    (let t : Fin 4 := 3; let j : Nat := 32000; let p : Tooth := { t := 0, T := some 1, n := 1 }; let s : State := { st 5 [(Reg.trdSts 3, 0x13#32), (Reg.trdCtl 3, 0x11#32)] with timed := [(1000, .tooth 3 32000)], trd := [(3, { prev := some { t := 0, T := some 1, n := 1 } })] }; let i := slumberInst s j;
     (landed s (.tooth t j) = true) ∧ (trdState s t = 3) ∧ ((trdSt s t).prev = some p) ∧ (toothCode s t p i (spanN s t p.k) ≠ 0) ∧ (rb s (Reg.trdCtl t) 4 = true) ∧ (rb s (Reg.trdSts t) 4 = true) ∧ (strictMiss s t = false)) ∧
    (let t : Fin 4 := 3; let j : Nat := 32000; let s : State := { st 5 [(Reg.trdSts 3, 5#32), (Reg.trdCtl 3, 1#32)] with timed := [(1000, .tooth 3 32000)], trd := [(3, { prev := some { t := 0 } })] }; 
     (landed s (.tooth t j) = true) ∧ (trdState s t = 5) ∧ ((trdSt s t).limpStall = false) ∧ ((trdSt s t).prev ≠ none)) ∧
    (let st : Nat := 7; 
     (st < 8)) ∧
    (let t : Fin 4 := 3; let i : Nat := 32000; let s : State := { st 5 [(Reg.trdSts 3, 1#32), (Reg.trdCtl 3, 9#32)] with timed := [(1000, .second 3 32000)] }; 
     (landed s (.second t i) = true)) ∧
    (let t : Fin 4 := 3; let j : Nat := 32000; let x : Nat × Int := (0, 0); let s : State := { st 5 [(Reg.trdSts 3, 3#32), (Reg.trdCtl 3, 9#32), (Reg.trdSec 3, 1#32)] with timed := [(1000, .second 3 32000)] }; 
     (landed s (.second t j) = true) ∧ (trdState s t = 3) ∧ (secondaryHit s t (slumberInst s j) = some x)) ∧
    (let t : Fin 4 := 3; let j : Nat := 32000; let s : State := { st 5 [(Reg.trdSts 3, 4#32), (Reg.trdCtl 3, 9#32)] with timed := [(1000, .second 3 32000)] }; 
     (landed s (.second t j) = true) ∧ (trdState s t = 4) ∧ (secondaryHit s t (slumberInst s j) = none)) ∧
    (let t : Fin 4 := 3; let s : State := { st 5 [(Reg.trdSts 3, 3#32), (Reg.trdCtl 3, 1#32)] with trd := [(3, { seen := -1 })] }; 
     (3 ≤ trdState s t) ∧ (running s = true) ∧ (nextCycleStart s t ≤ phi s t s.time)) ∧
    (let t : Fin 4 := 3; let i : Fin 8 := 7; let s : State := { st 5 [(Reg.trdSts 3, 3#32), (Reg.trdCtl 3, 9#32)] with trd := [(3, { wins := [(7, -0x2000000)] })] }; 
     (live s = true) ∧ (trdState s t = 3) ∧ (windowPassed s t i = true)) ∧
    (let t : Fin 4 := 3; let c : Nat := 0; let s : State := { st 5 [(Reg.trdSts 3, 3#32), (Reg.trdCtl 3, 1#32)] with trd := [(3, { prev := some { t := 0 } })] }; let q := judgeEdges t s;
     (stallCycle s t = some c) ∧ (c ≤ s.time) ∧ (live s = true) ∧ (stallDue q t = true) ∧ (trdSrc s t = 0) ∧ (strictMiss q t = false)) ∧
    (let t : Fin 4 := 3; let c : Nat := 0; let s : State := { st 5 [(Reg.trdSts 3, 3#32), (Reg.trdCtl 3, 5#32)] with trd := [(3, { prev := some { t := 0 } })] }; 
     (stallCycle s t = some c) ∧ (c ≤ s.time) ∧ (live s = true) ∧ (stallDue (judgeEdges t s) t = true) ∧ (trdSrc s t ≠ 0)) ∧
    (let t : Fin 4 := 3; let s : State := { st 5 [(Reg.trdSts 3, 2#32), (Reg.trdCtl 3, 5#32)] with trd := [(3, { bcnMiss := 15 })] }; 
     (live s = true) ∧ (beaconMissed s t = true)) ∧
    (let t : Fin 4 := 3; let s : State := { st 5 [(Reg.trdSts 3, 3#32), (Reg.trdCtl 3, 5#32)] with trd := [(3, { bcnMiss := 15 })] }; 
     (live s = true) ∧ (beaconMissed s t = true)) := by
  refine ⟨?_, ?_, ?_, ?_, ?_, ?_, ?_, ?_, ?_, ?_, ?_, ?_, ?_, ?_, ?_⟩ <;> decide +kernel

/-- A witness for each clause of PositionEvents. -/
theorem witness_position_events :
    (let i : Fin 16 := 15; let s : State := st 5 [(Reg.posCtl 15, 1#32)]; 
     (posSampleAt s i = s.time) ∧ (live s = true) ∧ (posOn s i = true)) ∧
    (let i : Fin 16 := 15; let s : State := { st 5 [(Reg.posCtl 15, 1#32)] with ev := { wires := [⟨1000, 5, .posLatch 15⟩] } }; 
     (live s = true) ∧ (posOn s i = true) ∧ (wireDue (.posLatch i) s = true)) ∧
    (let i : Fin 16 := 15; let c : Nat := 0; let s : State := { st 5 [(Reg.posCtl 15, 1#32), (Reg.posStillTmo 15, 0#32)] with pos := [(15, { lastT := some 0 })] }; 
     (live s = true) ∧ (posOn s i = true) ∧ (rb s (Reg.posSts i) 18 = false) ∧ (stillCycle s i = some c) ∧ (c ≤ s.time)) ∧
    (let i : Fin 16 := 15; let c : Nat := 1000; let s : State := { st 5 [(Reg.posCtl 15, 3#32), (Reg.posMinIdle 15, 0#32)] with pos := [(15, { startAt := some 1000, ins := [(0, { level := some true })] })], owner := [(511, .position 15 1)], ch := [(511, { released := true })] }; 
     (frameDue s i = some c) ∧ (c ≤ s.time) ∧ (running s = true) ∧ (posOn s i = true) ∧ (posSerial s i = true) ∧ (frameFree s i = true)) ∧
    (let i : Fin 16 := 15; let c : Nat := 1000; let s : State := { st 5 [(Reg.posCtl 15, 3#32)] with pos := [(15, { startAt := some 1000 })] }; 
     (frameDue s i = some c) ∧ (c ≤ s.time) ∧ (running s = true) ∧ (posOn s i = true) ∧ (posSerial s i = true) ∧ (frameFree s i = false)) ∧
    (let i : Fin 16 := 15; let bits : BitVec 64 := 0#64; let t0 : Nat := 0; let rest : List Nat := []; let s : State := { st 5 [(Reg.posCtl 15, 3#32)] with pos := [(15, { words := [0] })] }; 
     ((posSt s i).words = t0 :: rest) ∧ (lastSample s i t0 < s.time) ∧ (running s = true) ∧ (bits = frameSample s i t0)) ∧
    (let i : Fin 16 := 15; let c : Nat := 0; let s : State := { st 5 [(Reg.posCtl 15, 3#32), (Reg.posTmo 15, 0#32)] with pos := [(15, { retWait := some 0 })] }; 
     (returnLimit s i = some c) ∧ (c ≤ s.time) ∧ (running s = true) ∧ (posOn s i = true)) ∧
    (let i : Fin 16 := 15; let s : State := st 5 [(Reg.posCtl 15, 1#32)]; 
     (limEn s i = false)) ∧
    (let i : Fin 16 := 15; let s : State := st 5 [(Reg.posCtl 15, 1#32), (Reg.posMon 15, 1#32), (Reg.posLimLo 15, 0xFFFFFFFB#32), (Reg.posLimHi 15, 5#32)]; 
     (limEn s i = true) ∧ (limLo s i ≤ limHi s i)) ∧
    (let i : Fin 16 := 15; let s : State := st 5 [(Reg.posCtl 15, 1#32)]; 
     (limEn s i = false)) := by
  refine ⟨?_, ?_, ?_, ?_, ?_, ?_, ?_, ?_, ?_, ?_⟩ <;> decide +kernel

/-- A witness for each clause of HeddleJumps. -/
theorem witness_heddle_jumps :
    (let e : Fin 64 := 63; let f : BitVec 12 := 0xF90#12; let s : State := hed 1 0xF90#12; let cond := hf f 10 8; let pin := hf f 7 5;
     (HedExecutes e 1 f s) ∧ ((cond = 5 ∨ cond = 6 → pin < hedL s e))) ∧
    (let e : Fin 64 := 63; let f : BitVec 12 := 0x070#12; let s : State := hed 1 0x070#12; let cond := hf f 10 8; let pin := hf f 7 5;
     (HedExecutes e 1 f s) ∧ ((cond = 5 ∨ cond = 6 → pin < hedL s e))) ∧
    (let e : Fin 64 := 63; let f : BitVec 12 := 0x050#12; let s : State := hed 1 0x050#12; 
     (HedExecutes e 1 f s) ∧ ((hf f 10 8 = 5 ∨ hf f 10 8 = 6)) ∧ (hedL s e ≤ hf f 7 5)) := by
  refine ⟨?_, ?_, ?_⟩ <;> (simp only [HedExecutes]; decide +kernel)

/-- A witness for each clause of HeddleShifts. -/
theorem witness_heddle_shifts :
    (let e : Fin 64 := 63; let f : BitVec 12 := 0x7E0#12; let s : State := hed 3 0x7E0#12; 
     (HedExecutes e 3 f s) ∧ (hf f 15 14 = 1)) ∧
    (let e : Fin 64 := 63; let f : BitVec 12 := 0x7E0#12; let s : State := hed 4 0x7E0#12; 
     (HedExecutes e 4 f s) ∧ (hf f 15 14 = 1)) := by
  refine ⟨?_, ?_⟩ <;> (simp only [HedExecutes]; decide +kernel)

/-- A witness for each clause of HeddleInstructions. -/
theorem witness_heddle_instructions :
    (let e : Fin 64 := 63; let f : BitVec 12 := 0x400#12; let s : State := rset (Reg.hedSts 63) 0x2100#32 (hed 2 0x400#12); 
     (HedExecutes e 2 f s) ∧ (hf f 15 14 = 1) ∧ (rb s (Reg.hedSts e) 13 = true)) ∧
    (let e : Fin 64 := 63; let f : BitVec 12 := 0x000#12; let s : State := { hed 2 0x000#12 with owner := [(511, .heddle 63 0)] }; 
     (HedExecutes e 2 f s) ∧ (hf f 15 14 = 0) ∧ (hf f 12 10 < hedL s e) ∧ (hedRead s e (hf f 12 10) = decide (hf f 13 13 = 1))) ∧
    (let e : Fin 64 := 63; let f : BitVec 12 := 0x400#12; let s : State := hed 2 0x400#12; 
     (HedExecutes e 2 f s) ∧ (hf f 15 14 = 1) ∧ (rb s (Reg.hedSts e) 13 = false) ∧ (hf f 9 4 = 0)) ∧
    (let e : Fin 64 := 63; let f : BitVec 12 := 0xBFF#12; let s : State := hed 2 0xBFF#12; 
     (HedExecutes e 2 f s) ∧ (hf f 15 14 = 2)) ∧
    (let e : Fin 64 := 63; let s : State := { hed 2 0x401#12 with hed := [(63, { stall := some 64 })] }; 
     (hedTickAt s e = s.time) ∧ (hedMayExec s e = true) ∧ (hedBadWord s e = false) ∧ (waitPast (hedSync e s) e = true) ∧ (waitFalse (hedSync e s) e = true)) ∧
    (let e : Fin 64 := 63; let f : BitVec 12 := 0x000#12; let w : Word := 7#32; let rest : List Word := []; let s : State := { hed 5 0x000#12 with hed := [(63, { tx := [7#32] })] }; 
     (HedExecutes e 5 f s) ∧ ((hedSt s e).tx = w :: rest)) ∧
    (let e : Fin 64 := 63; let f : BitVec 12 := 0x000#12; let s : State := hed 5 0x000#12; 
     (HedExecutes e 5 f s) ∧ ((hedSt s e).tx = []) ∧ (hf f 15 15 = 0)) ∧
    (let e : Fin 64 := 63; let f : BitVec 12 := 0x000#12; let s : State := hed 6 0x000#12; 
     (HedExecutes e 6 f s) ∧ ((hedSt s e).rx.length < 4)) ∧
    (let e : Fin 64 := 63; let f : BitVec 12 := 0xBFF#12; let s : State := hed 7 0xBFF#12; 
     (HedExecutes e 7 f s) ∧ (hf f 15 14 = 2)) ∧
    (let e : Fin 64 := 63; let f : BitVec 12 := 0xC00#12; let s : State := hed 7 0xC00#12; 
     (HedExecutes e 7 f s) ∧ (hf f 15 14 = 3)) ∧
    (let e : Fin 64 := 63; let f : BitVec 12 := 0x070#12; let s : State := hed 8 0x070#12; 
     (HedExecutes e 8 f s) ∧ (hf f 15 13 = 0) ∧ (hf f 12 10 = 1)) ∧
    (let e : Fin 64 := 63; let f : BitVec 12 := 0x580#12; let s : State := hed 8 0x580#12; 
     (HedExecutes e 8 f s) ∧ (hf f 15 13 = 2) ∧ (hf f 12 10 = 6) ∧ (hf f 9 8 = 0)) ∧
    (let e : Fin 64 := 63; let f : BitVec 12 := 0xBF0#12; let s : State := hed 9 0xBF0#12; 
     (HedExecutes e 9 f s) ∧ (hf f 15 14 = 2) ∧ (hf f 8 8 = 1)) ∧
    (let e : Fin 64 := 63; let f : BitVec 12 := 0x200#12; let s : State := hed 10 0x200#12; 
     (HedExecutes e 10 f s) ∧ (hf f 15 15 = 0) ∧ (hf f 13 13 = 1)) ∧
    (let e : Fin 64 := 63; let s : State := hed 11 0; 
     (hedTickAt s e = s.time) ∧ (hedMayExec s e = true) ∧ (hedNoOpcode s e = true) ∧ (hedBadWord s e = false)) ∧
    (let e : Fin 64 := 63; let s : State := hed 0 0; 
     (hedTickAt s e = s.time) ∧ (hedMayExec s e = true) ∧ (hedNoOpcode s e = true) ∧ (hedBadWord s e = false)) := by
  refine ⟨?_, ?_, ?_, ?_, ?_, ?_, ?_, ?_, ?_, ?_, ?_, ?_, ?_, ?_, ?_, ?_⟩ <;> ((try simp only [HedExecutes]); decide +kernel)

/-- A witness for each clause of HeddleEvents. -/
theorem witness_heddle_events :
    (let e : Fin 64 := 63; let s : State := { st 5 [(Reg.hedTrig 63, 0x8000#32)] with ev := { wires := [⟨1000, 5, .hedTrig 63⟩] } }; 
     (live s = true) ∧ (wireDue (.hedTrig e) s = true) ∧ (rb s (Reg.hedTrig e) 15 = true) ∧ (Quiet s)) ∧
    (let e : Fin 64 := 63; let s : State := st 5 [(Reg.hedSts 63, 0x1000#32)]; 
     (running s = true) ∧ (rb s (Reg.hedSts e) 12 = true) ∧ (hedHalted s e = false) ∧ (cleanSwapAt s e = s.time) ∧ ((hedStopped s e = true ∨ atSwapPoint s e = true))) ∧
    (let e : Fin 64 := 63; let s : State := rset (Reg.hedHdr0 63 0) 0x8000#32 (rset (Reg.hedSts 63) 0x1100#32 (hed 7 0)); 
     (running s = true) ∧ (rb s (Reg.hedSts e) 12 = true) ∧ (hedHalted s e = false) ∧ (cleanSwapAt s e = s.time) ∧ ((hedStopped s e = true ∨ atSwapPoint s e = true))) ∧
    (let e : Fin 64 := 63; let c : Nat := 1000; let s : State := { rset (Reg.hedSts 63) 0x1100#32 (hed 7 0) with hed := [(63, { swapAt := some 1000 })] }; 
     (running s = true) ∧ (rb s (Reg.hedSts e) 12 = true) ∧ (hedHalted s e = false) ∧ (cleanSwapDue s e = false) ∧ ((hedSt s e).swapAt = some c) ∧ (c ≤ s.time)) := by
  refine ⟨?_, ?_, ?_, ?_⟩ <;> ((try simp only [Quiet]); decide +kernel)

/-- A witness for each clause of ComparatorsAndConverter. -/
theorem witness_comparators_and_converter :
    (let c : Fin 64 := 63; let out : Bool := true; let instant : Nat := 32000; let s : State := st 5 [(Reg.winCmph 31, 1#32), (Reg.winSts 31, 0#32)]; 
     (cmpMayChange s c out (instOf instant) = true)) ∧
    (let c : Fin 64 := 63; let n : Nat := 1000; let s : State := { st 5 [(Reg.winCmph 31, 1#32), (Reg.winSts 31, 0x10#32)] with cmp := [(63, { evalAt := some 1000 })] }; 
     (indetEvalAt s c = some n) ∧ (n ≤ s.time) ∧ (live s = true) ∧ (cmpEn s c = true) ∧ (cmpIndet s c = true)) ∧
    (let c : Fin 64 := 63; let n : Nat := 1000; let s : State := { st 5 [(Reg.winCmph 31, 1#32), (Reg.winSts 31, 0#32)] with cmp := [(63, { hold := some 1000 })] }; 
     ((cmpSt s c).hold = some n) ∧ (n ≤ s.time) ∧ (live s = true) ∧ (cmpEn s c = true)) ∧
    (let c : Fin 64 := 63; let s : State := st 5 [(Reg.winCmph 31, 1#32), (Reg.winSts 31, 0x10#32)]; 
     (live s = true) ∧ (cmpEn s c = true) ∧ (cmpIndet s c = true) ∧ ((cmpSt s c).evalAt = none) ∧ ((cmpSt s c).hold = none)) ∧
    (let i : Fin 4 := 3; let s : State := { st 5 [] with ev := { wires := [⟨1000, 5, .adcTrig 3⟩] } }; 
     (live s = true) ∧ (wireDue (.adcTrig i) s = true)) ∧
    (let i : Nat := 3; let s : State := { st 5 [(Reg.adcCtl, 1#32)] with adc := { pend := 8#4 } }; 
     (adcRuns s = true) ∧ (s.adc.seq = none) ∧ (s.adc.freeAt ≤ s.time) ∧ (adcNextTrig s = some i)) ∧
    (let s : State := { st 5 [(Reg.adcCtl, 3#32), (Reg.adcChk, 1#32)] with adc := { rbAt := 1 }, time := 256 }; 
     (adcRuns s = true) ∧ (rb s Reg.adcCtl 1 = true) ∧ (rbNext s = s.time)) ∧
    (let x : Conv := .slot 1000 31 7 3 true; let s : State := { st 5 [(Reg.adcCtl, 1#32)] with adc := { seq := some (3, [(31, 7)]) } }; 
     (adcRuns s = true) ∧ (s.adc.freeAt ≤ s.time) ∧ (convNext s = some x)) ∧
    (let x : Conv := .readback 796 63 7 0; let xs : List Conv := []; let s : State := { st 5 [] with adc := { convs := [.readback 796 63 7 0] } }; 
     (s.adc.convs = x :: xs) ∧ (x.start + 204 ≤ s.time) ∧ (running s = true)) := by
  refine ⟨?_, ?_, ?_, ?_, ?_, ?_, ?_, ?_, ?_⟩ <;> decide +kernel

/-- A witness for each clause of StoresAndBobbins. -/
theorem witness_stores_and_bobbins :
    (let s : State := { st 5 [(Reg.storeCtl, 3#32)] with time := 16384 }; 
     (running s = true) ∧ (rb s Reg.storeCtl 0 = true) ∧ (eccOn s = true) ∧ (scrubNext s = s.time)) ∧
    (let s : State := { st 5 [(Reg.storeMtSts, 0x2F0001#32)] with store := { mtAt := 1967232 }, time := 2000000 }; 
     (live s = true) ∧ (mtPhase s = 1) ∧ (copyDone s ≤ s.time) ∧ (mtReleasing s = false)) ∧
    (let s : State := { st 5 [(Reg.storeMtSts, 0x2F0003#32)] with store := { mtAt := 689280 }, time := 2000000 }; 
     (live s = true) ∧ (mtPhase s = 3) ∧ (s.store.mtAt + 1310720 ≤ s.time)) ∧
    (let s : State := { st 5 [(Reg.storeMtSts, 0x2F0004#32)] with store := { mtAt := 1967232 }, time := 2000000 }; 
     (live s = true) ∧ (mtPhase s = 4) ∧ (copyDone s ≤ s.time) ∧ (mtReleasing s = false)) ∧
    (let b : Fin 32 := 31; let s : State := { st 5 [(Reg.bobCtl 31, 0x4000001#32), (Reg.bobSts 31, 0#32), (Reg.bobCnt 31, 8#32), (Reg.bobcQm 31, 0x10004#32)] with bob := [(31, { hist := [(990, 4)] })] }; 
     (gateMoves s b false = true) ∧ (gateHigh s b (levelSeen s b) = true)) ∧
    (let b : Fin 32 := 31; let s : State := { st 5 [(Reg.bobCtl 31, 0x4000001#32), (Reg.bobSts 31, 0x100#32), (Reg.bobCnt 31, 8#32), (Reg.bobcQm 31, 0x10004#32)] with bob := [(31, { hist := [(990, 1)] })] }; 
     (gateMoves s b true = true) ∧ (gateLow s b (levelSeen s b) = true)) ∧
    (let b : Fin 32 := 31; let k : BobKind := .srcRead; let src : Bool := true; let off : Nat := 0; let n : Nat := 8; let s : State := { st 5 [(Reg.bobCtl 31, 0xFF00001#32), (Reg.bobSts 31, 0#32), (Reg.bobCnt 31, 8#32), (Reg.bobOtl 31, 1#32), (Reg.bobcOtTotal, 1#32)] with bob := [(31, { src := 0x1000000, dst := 0x1000100 })] }; 
     (bobMayIssue s b = true) ∧ (bobNext s b = some (k, src, off, n)) ∧ (bobFifoNext s b = false)) ∧
    (let b : Fin 32 := 31; let s : State := { st 5 [(Reg.bobCtl 31, 0xFF00001#32), (Reg.bobSts 31, 0#32), (Reg.bobCnt 31, 8#32), (Reg.bobOtl 31, 1#32), (Reg.bobcOtTotal, 1#32)] with bob := [(31, { src := Reg.hedRxdata 0, dst := 0x1000100 })] }; 
     (bobMayIssue s b = true) ∧ (bobFifoNext s b = true) ∧ (turnAt bobRank s ≤ s.time)) ∧
    (let b : Fin 32 := 31; let x : BobReturn := .data [1#8, 2#8, 3#8, 4#8]; let q : BobTxn := { kind := .srcRead, host := true, addr := 0x10, n := 4, at_ := 10 }; let s : State := { st 5 [(Reg.bobCtl 31, 0xFF00011#32), (Reg.bobSts 31, 0#32), (Reg.bobCnt 31, 8#32)] with bob := [(31, { txns := [{ kind := .srcRead, host := true, addr := 0x10, n := 4, at_ := 10 }] })] }; let ptr := bobPaced s b && decide (128 ≤ bobQ s b);
     (live s = true) ∧ (returnOf s b x = some q) ∧ (returnFits x q = true) ∧ (q.wait = false) ∧ ((q.host = false → q.at_ + 6 ≤ s.time)) ∧ ((ptr = true → turnAt bobRank s ≤ s.time))) ∧
    (let b : Fin 32 := 31; let x : BobReturn := .ack; let q : BobTxn := { kind := .write, host := false, addr := 0x1000100, n := 8, at_ := 994 }; let s : State := { st 5 [(Reg.bobCtl 31, 0xFF00001#32), (Reg.bobSts 31, 0#32), (Reg.bobCnt 31, 8#32)] with bob := [(31, { txns := [{ kind := .write, host := false, addr := 0x1000100, n := 8, at_ := 994 }] })] }; let ptr := bobPaced s b && decide (128 ≤ bobQ s b);
     (live s = true) ∧ (returnOf s b x = some q) ∧ (returnFits x q = true) ∧ (q.wait = false) ∧ ((q.host = false → q.at_ + 6 ≤ s.time)) ∧ ((ptr = true → turnAt bobRank s ≤ s.time))) ∧
    (let b : Fin 32 := 31; let q : BobTxn := { kind := .srcRead, host := true, addr := 0x10, n := 4, at_ := 10 }; let s : State := { st 5 [(Reg.bobCtl 31, 0xFF00011#32), (Reg.bobSts 31, 0#32), (Reg.bobCnt 31, 8#32)] with bob := [(31, { txns := [{ kind := .srcRead, host := true, addr := 0x10, n := 4, at_ := 10 }] })], time := 20010 }; 
     (live s = true) ∧ (returnOf s b .hostError = some q) ∧ (q.at_ + 20000 ≤ s.time)) := by
  refine ⟨?_, ?_, ?_, ?_, ?_, ?_, ?_, ?_, ?_, ?_, ?_⟩ <;> decide +kernel

/-- A witness for each clause of VectorsAndRaises. -/
theorem witness_vectors_and_raises :
    (let src : Fin 4096 := 0; let s : State := st 5 []; 
     (live s = true) ∧ (reservedSource src = false) ∧ ((s.ev.raisedAt = s.time → src.val ∉ s.ev.raised))) ∧
    (let src : Nat := 0; let s : State := State.reset; 
     (live s = false ∨ reservedSource src = true ∨ (s.ev.raisedAt = s.time ∧ src ∈ s.ev.raised))) ∧
    (let src : Nat := 7; let s : State := { st 5 [] with ev := { raisedAt := 1000, raised := [7] } }; 
     (live s = false ∨ reservedSource src = true ∨ (s.ev.raisedAt = s.time ∧ src ∈ s.ev.raised))) ∧
    (let j : Fin 64 := 63; let n : Nat := 1000; let s : State := { st 5 [(Reg.vecCtl 63, 1#32)] with ev := { wires := [⟨1000, 5, .vec 63⟩, ⟨1000, 9, .vec 63⟩] } }; 
     (live s = true) ∧ (wireAt s (.vec j) = some n) ∧ (n ≤ s.time) ∧ (wireDue (.vec j) s = true)) ∧
    (let j : Fin 64 := 63; let n : Nat := 76; let s : State := { st 5 [(Reg.vecCtl 63, 0x1FF01#32)] with vec := [(63, { acc := 1, first := 10, firstSrc := 5 })] }; 
     (live s = true) ∧ (vecLimit s j = some n) ∧ (n ≤ s.time) ∧ (0 < accBefore s j) ∧ ((vecSt s j).numAt ≤ s.time)) ∧
    (let j : Fin 64 := 63; let s : State := { st 5 [(Reg.vecSts 63, 1#32), (Reg.hostSts, 0x40#32)] with host := { cfg := [(0x14, 0x80000011#32)], msix := [(255, 0#32)] } }; 
     (live s = true) ∧ ((vecSt s j).readyAt ≤ s.time) ∧ ((vecSt s j).selAt ≤ s.time) ∧ (vecPend s j = true) ∧ (vecIrq s j = false) ∧ (vecHeld s j = false)) ∧
    (let j : Fin 64 := 63; let s : State := st 5 [(Reg.vecSts 63, 1#32), (Reg.vecCtl 63, 5#32)]; 
     ((vecSt s j).selAt ≤ s.time) ∧ (irqWant s j ≠ (vecSt s j).begun)) ∧
    (let j : Fin 64 := 63; let s : State := { st 5 [(Reg.vecSts 63, 1#32), (Reg.vecCtl 63, 5#32)] with vec := [(63, { begun := some 0 })] }; 
     (live s = true) ∧ ((vecSt s j).readyAt ≤ s.time) ∧ ((vecSt s j).begun.isSome = true) ∧ ((vecSt s j).pinLow = false)) := by
  refine ⟨?_, ?_, ?_, ?_, ?_, ?_, ?_, ?_⟩ <;> decide +kernel

/-- A witness for each clause of ResetsAndBoot. -/
theorem witness_resets_and_boot :
    (let s : State := st 5 [(Reg.pwrClksts, 5#32)]; 
     (rb s Reg.pwrClksts 2 = true) ∧ (power s ≠ 2)) ∧
    (let n : Nat := 1000; let s : State := { st 5 [] with flt := { resetAt := some 1000 } }; 
     (s.flt.resetAt = some n) ∧ (n ≤ s.time)) ∧
    (let n : Nat := 1000; let s : State := { st 3 [] with host := { resetAt := some 1000 } }; 
     (s.host.resetAt = some n) ∧ (n ≤ s.time)) ∧
    (let a : Nat := 4; 
     (a ≠ Reg.pwrRstcause) ∧ (a ≠ Reg.tackDbgctl)) ∧
    (let s : State := State.reset; 
     (mode s = 0)) ∧
    (let s : State := { st 1 [] with tack := { boot := 0 } }; 
     (bootAt s 0 = true)) ∧
    (let s : State := { st 1 [] with tack := { boot := 1 } }; 
     (bootAt s 1 = true)) ∧
    (let s : State := { st 2 [] with time := 1310720 }; 
     (mode s = 2) ∧ (s.store.mtAt + 1310720 ≤ s.time)) ∧
    (let s : State := { st 1 [] with tack := { boot := 4 } }; 
     (bootAt s 4 = true)) := by
  refine ⟨?_, ?_, ?_, ?_, ?_, ?_, ?_, ?_, ?_⟩ <;> decide +kernel

/-- A witness for each clause of ClocksPowerAndSupplies. -/
theorem witness_clocks_power_and_supplies :
    (let s : State := st 5 [(Reg.pwrClksts, 5#32)]; 
     (rb s Reg.pwrClksts 0 = true)) ∧
    (let s : State := st 5 [(Reg.pwrClksts, 6#32)]; 
     (mode s ≠ 0) ∧ (rb s Reg.pwrClksts 2 = true) ∧ (rb s Reg.pwrClksts 0 = false)) ∧
    (let s : State := { st 5 [(Reg.pwrClksts, 7#32)] with time := 4000000 }; 
     (rb s Reg.pwrClksts 0 = true) ∧ (rb s Reg.pwrClksts 1 = true) ∧ (rb s Reg.pwrClksts 3 = false) ∧ (s.pwr.refSince + tenMs ≤ s.time)) ∧
    (let s : State := st 5 [(Reg.pwrLatencyNs, 400000#32), (Reg.pwrCtl, 1#32)]; 
     (power s = 0) ∧ (dozeOk s = true)) ∧
    (let s : State := st 21 [(Reg.pwrLatencyNs, 400000#32), (Reg.pwrCtl, 0#32)]; 
     (power s = 1) ∧ (dozeOk s = false)) ∧
    (let s : State := { st 3 [(Reg.pwrLatencyNs, 400000#32), (Reg.pwrCtl, 2#32), (Reg.pwrDwell, 2#32)] with pwr := { okSince := some 200 } }; 
     (slumberOk s = true) ∧ (power s ≠ 2) ∧ (slumberAt s ≤ s.time)) ∧
    (let s : State := { st 35 [] with log := { waking := true } }; 
     (power s = 2) ∧ (s.log.waking = true)) ∧
    (let b : Fin 48 := 47; let s : State := { st 21 [(Reg.pwrBankslpHi, 0x8000#32)] with time := 65536 }; 
     (power s = 1) ∧ (tget 0 s.pwr.touched b.val + 65536 ≤ s.time) ∧ (bankMaySleep s b = true) ∧ (s.pwr.asleep.contains b.val = false)) ∧
    (let s : State := st 5 []; 
     (mode s ≠ 0)) ∧
    (let m : Fin 6 := 5; let s : State := { st 5 [(Reg.pwrSupply, 0x20#32)] with time := 4000000 }; 
     (mode s ≠ 0) ∧ (rb s Reg.pwrSupply m = true) ∧ (tget 0 s.pwr.lowAt m.val + tenMs ≤ s.time)) := by
  refine ⟨?_, ?_, ?_, ?_, ?_, ?_, ?_, ?_, ?_, ?_⟩ <;> decide +kernel

/-- A witness for each clause of DraftEvents. -/
theorem witness_draft_events :
    (let s : State := st 5 [(Reg.chgSts, 2#32)]; 
     (stageState s = 2)) ∧
    (let n : Nat := 1000; let d : Draft := { ver := 1, epoch := 1, cclass := 1, link := 1, key := 255, ssid := 0 }; let s : State := { st 7 [(Reg.chgSts, 0xC#32), (Reg.chgSwCtl, 4#32), (Reg.chgSwA, 1000#32)] with chg := { staged := some { ver := 1, epoch := 1, cclass := 1, link := 1, key := 255, ssid := 0 } } }; 
     (chgPending s = true) ∧ (switchTime s = some n) ∧ (n ≤ s.time) ∧ (s.sel.line = false ∨ lcoState s = 3) ∧ (s.chg.staged = some d)) ∧
    (let n : Nat := 1000; let s : State := { st 7 [(Reg.chgSts, 4#32), (Reg.chgSwCtl, 4#32), (Reg.chgSwA, 1000#32), (Reg.selLco, 2#32)] with sel := { line := true } }; 
     (chgPending s = true) ∧ (switchTime s = some n) ∧ (n ≤ s.time) ∧ (s.sel.line = true) ∧ (lcoState s = 1 ∨ lcoState s = 2)) ∧
    (let n : Fin 512 := 511; let d : Draft := { ver := 1, epoch := 1, cclass := 1, link := 1, key := 255, ssid := 0 }; let s : State := { st 7 [(Reg.chgSts, 5#32)] with chg := { act := some { ver := 1, epoch := 1, cclass := 1, link := 1, key := 255, ssid := 0 }, chans := [511] } }; 
     (applyAt s n ≤ s.time) ∧ (applyWaits s n = true) ∧ (applyDue s n = true) ∧ (s.chg.act = some d)) ∧
    (let n : Fin 512 := 511; let d : Draft := { ver := 1, epoch := 1, cclass := 1, link := 1, key := 255, ssid := 0 }; let s : State := { st 7 [(Reg.chgSts, 5#32), (Reg.chgDrainMax, 100#32)] with chg := { act := some { ver := 1, epoch := 1, cclass := 1, link := 1, key := 255, ssid := 0 }, chans := [511], swLc := 900 } }; 
     (s.chg.swLc + rn s Reg.chgDrainMax ≤ s.time) ∧ (applyWaits s n = true) ∧ (s.chg.act = some d)) ∧
    (let s : State := { st 7 [(Reg.chgSts, 5#32), (Reg.shedTtsel, 0#32)] with chg := { act := some { ver := 1, epoch := 1, cclass := 1, link := 1, key := 255, ssid := 0 } } }; 
     (chgMayEnd s = true)) ∧
    (let s : State := { st 3 [(Reg.chgSts, 5#32)] with chg := { swWait := true } }; 
     (stageState s = 5) ∧ (s.chg.swWait = true) ∧ (restarting s = false)) ∧
    (let s : State := st 3 [(Reg.chgSts, 0x10006#32)]; 
     (rb s Reg.chgSts 16 = true) ∧ (nvmInh s = false) ∧ (restarting s = false)) := by
  refine ⟨?_, ?_, ?_, ?_, ?_, ?_, ?_, ?_⟩ <;> decide +kernel

/-- A witness for each clause of SelvedgeEvents. -/
theorem witness_selvedge_events :
    (let q : Port := .up; let s : State := { st 5 [(Reg.selCtl, 1#32), (Reg.selSts, 0x4#32)] with sel := { upAt := 992 } }; 
     (selRuns s = true) ∧ (2 ≤ portState s q) ∧ (portAt s q + 8 ≤ s.time)) ∧
    (let q : Port := .dn; let s : State := { st 5 [(Reg.selCtl, 1#32), (Reg.selSts, 0x20#32)] with sel := { dnAt := 992 } }; 
     (selRuns s = true) ∧ (2 ≤ portState s q) ∧ (portAt s q + 8 ≤ s.time)) ∧
    (let q : Port := .dn; let s : State := { st 5 [(Reg.selCtl, 1#32), (Reg.selSts, 0x10#32)] with sel := { dnAt := 936 } }; 
     (selRuns s = true) ∧ (portState s q = 1) ∧ (portAt s q + 64 ≤ s.time)) ∧
    (let q : Port := .up; let s : State := { st 5 [(Reg.selCtl, 1#32), (Reg.selSts, 0x2#32)] with time := 2048 }; 
     (selRuns s = true) ∧ (portState s q = 2) ∧ (measureAt s q ≤ s.time)) ∧
    (let q : Port := .up; let s : State := { st 5 [(Reg.selCtl, 1#32), (Reg.selSts, 0x3#32)] with sel := { answers := 16 } }; 
     (selRuns s = true) ∧ (portState s q = 3) ∧ (portReady s q = true)) ∧
    (let q : Port := .dn; let s : State := { st 5 [(Reg.selCtl, 1#32), (Reg.selSts, 0x30#32), (Reg.selDlyDn, 12800#32)] with sel := { echoes := List.replicate 16 640 } }; 
     (selRuns s = true) ∧ (portState s q = 3) ∧ (portReady s q = true)) ∧
    (let s : State := st 5 [(Reg.selCtl, 1#32), (Reg.selSts, 0x30#32)]; 
     (selRuns s = true) ∧ (3 ≤ portState s .dn) ∧ (echoMay s = true)) ∧
    (let s : State := { st 5 [(Reg.selCtl, 1#32), (Reg.selSts, 0x30#32)] with time := 3048, sel := { echoAt := some 1000 } }; 
     (selRuns s = true) ∧ (3 ≤ portState s .dn) ∧ (echoMay s = true)) ∧
    (let s : State := st 5 [(Reg.selCtl, 1#32), (Reg.selSts, 0x2#32)]; 
     (selRuns s = true) ∧ (2 ≤ portState s .up) ∧ (symbolAt s = s.time)) ∧
    (let r : Nat := 31000; let s : State := { st 5 [(Reg.selCtl, 1#32), (Reg.selSts, 0x30#32)] with sel := { echoReq := some 31000 } }; 
     (selRuns s = true) ∧ (3 ≤ portState s .dn) ∧ (s.sel.echoReq = some r)) ∧
    (let s : State := { st 5 [(Reg.selCtl, 3#32), (Reg.selSts, 0x44#32), (Reg.selRper, 6400#32)] with time := 6400 }; 
     (selRuns s = true) ∧ (selRoot s = true) ∧ (portState s .dn = 4) ∧ (trainAt s = s.time)) ∧
    (let bytes : List (BitVec 8) := (Train.bytes { slots := [{}] }); let link : TrainLink := .clean; let n : Nat := 32000; let s : State := { st 5 [(Reg.selCtl, 0x100001#32), (Reg.selSts, 0x44#32)] with time := 1392 }; 
     (selRuns s = true) ∧ (selRoot s = false) ∧ (portState s .up = 4) ∧ (trainEnd bytes n ≤ s.time) ∧ (trainFault s bytes link = none)) ∧
    (let bytes : List (BitVec 8) := []; let link : TrainLink := .poisoned; let n : Nat := 31000; let k : Nat := 2; let s : State := st 5 [(Reg.selCtl, 1#32), (Reg.selSts, 0x44#32)]; 
     (selRuns s = true) ∧ (selRoot s = false) ∧ (portState s .up = 4) ∧ (trainEnd bytes n ≤ s.time) ∧ (trainFault s bytes link = some k)) ∧
    (let bytes : List (BitVec 8) := (Train.bytes { slots := [{}] }); let link : TrainLink := .clean; let s : State := st 5 [(Reg.selCtl, 0x100003#32), (Reg.selSts, 0x44#32)]; let x := Train.ofBytes (selSlots s) bytes;
     (selRuns s = true) ∧ (selRoot s = true) ∧ (portState s .up = 4) ∧ (trainFault s bytes link = none) ∧ (x.node = selNode s)) ∧
    (let bytes : List (BitVec 8) := (Train.bytes { slots := [{}] }); let link : TrainLink := .clean; let s : State := st 5 [(Reg.selCtl, 0x103F03#32), (Reg.selSts, 0x44#32)]; 
     (selRuns s = true) ∧ (selRoot s = true) ∧ (portState s .up = 4) ∧ (trainFault s bytes link = none) ∧ ((Train.ofBytes (selSlots s) bytes).node ≠ selNode s)) ∧
    (let bytes : List (BitVec 8) := []; let link : TrainLink := .codeViolation; let k : Nat := 0; let s : State := st 5 [(Reg.selCtl, 3#32), (Reg.selSts, 0x44#32)]; 
     (selRuns s = true) ∧ (selRoot s = true) ∧ (portState s .up = 4) ∧ (trainFault s bytes link = some k)) ∧
    (let n : Nat := 409600; let s : State := { st 5 [(Reg.selCtl, 1#32), (Reg.selSts, 0x44#32), (Reg.selRper, 6400#32)] with time := 409600 }; 
     (selRuns s = true) ∧ (ringTimeoutAt s = some n) ∧ (n ≤ s.time)) ∧
    (let n : Nat := 409600; let s : State := { st 5 [(Reg.selCtl, 3#32), (Reg.selSts, 0x44#32), (Reg.selRper, 6400#32)] with time := 409600, sel := { outs := [0] } }; 
     (selRuns s = true) ∧ (ringTimeoutAt s = some n) ∧ (n ≤ s.time)) ∧
    (let n : Nat := 1000; let s : State := { st 5 [(Reg.selCtl, 3#32), (Reg.selSts, 0x44#32)] with sel := { ann := { op := 1, form := true, swA := 3000000 } } }; 
     (selRuns s = true) ∧ (selRoot s = true) ∧ (s.sel.ann.op = 1) ∧ (deadlineAt s = some n) ∧ (n ≤ s.time) ∧ (s.sel.ann.dl = none)) ∧
    (let n : Nat := 409600; let d : Nat := 0; let s : State := { st 5 [(Reg.selCtl, 3#32), (Reg.selSts, 0x44#32), (Reg.selRper, 6400#32), (Reg.selLco, 1#32)] with time := 409600, sel := { ann := { op := 1, dl := some 0 } } }; 
     (selRuns s = true) ∧ (selRoot s = true) ∧ (s.sel.ann.op = 1) ∧ (deadlineAt s = some n) ∧ (n ≤ s.time) ∧ (s.sel.ann.dl = some d)) := by
  refine ⟨?_, ?_, ?_, ?_, ?_, ?_, ?_, ?_, ?_, ?_, ?_, ?_, ?_, ?_, ?_, ?_, ?_, ?_, ?_, ?_⟩ <;> decide +kernel

/-- A witness for each clause of HostPortEvents. -/
theorem witness_host_port_events :
    (let q : PcieReq := { bar := 1, addr := 0x3FC, firstBe := 15, lastBe := 0, defect := 0 }; let data : List (BitVec 32) := [7#32]; let s : State := st 5 [(Reg.hostSts, 2#32)]; let u := inTurn .pcie s;
     (pcieUp s = true) ∧ (pathFree .pcie s ≤ s.time) ∧ (turnAt (pathRank .pcie) s ≤ s.time) ∧ (pcieRefuse q data.length u = none)) ∧
    (let q : PcieReq := { bar := 1, addr := 0x3FC, firstBe := 15, lastBe := 0, defect := 0 }; let n : Nat := 1; let s : State := st 5 [(Reg.hostSts, 2#32)]; let u := inTurn .pcie s;
     (pcieUp s = true) ∧ (pathFree .pcie s ≤ s.time) ∧ (turnAt (pathRank .pcie) s ≤ s.time) ∧ (pcieRefuse q n u = none)) ∧
    (let q : PcieReq := { bar := 0, addr := 0x3FFFFFC, firstBe := 15, lastBe := 0, defect := 0 }; let data : List (BitVec 32) := [7#32]; let s : State := st 5 [(Reg.hostSts, 2#32)]; let u := inTurn .pcie s;
     (pcieUp s = true) ∧ (pathFree .pcie s ≤ s.time) ∧ (turnAt (pathRank .pcie) s ≤ s.time) ∧ (pcieRefuse q data.length u = none)) ∧
    (let q : PcieReq := { bar := 0, addr := 0x3FFFFFC, firstBe := 15, lastBe := 0, defect := 0 }; let n : Nat := 1; let s : State := st 5 [(Reg.hostSts, 2#32)]; let u := inTurn .pcie s;
     (pcieUp s = true) ∧ (pathFree .pcie s ≤ s.time) ∧ (turnAt (pathRank .pcie) s ≤ s.time) ∧ (pcieRefuse q n u = none)) ∧
    (let q : PcieReq := { bar := 0, addr := 0xFFFFFC, firstBe := 15, lastBe := 0, defect := 0 }; let data : List (BitVec 32) := [7#32]; let s : State := st 5 [(Reg.hostSts, 2#32)]; let u := inTurn .pcie s;
     (pcieUp s = true) ∧ (pathFree .pcie s ≤ s.time) ∧ (turnAt (pathRank .pcie) s ≤ s.time) ∧ (pcieRefuse q data.length u = none)) ∧
    (let q : PcieReq := { bar := 0, addr := 0xFFFFFC, firstBe := 15, lastBe := 0, defect := 0 }; let n : Nat := 1; let s : State := st 5 [(Reg.hostSts, 2#32)]; let u := inTurn .pcie s;
     (pcieUp s = true) ∧ (pathFree .pcie s ≤ s.time) ∧ (turnAt (pathRank .pcie) s ≤ s.time) ∧ (pcieRefuse q n u = none)) ∧
    (let q : PcieReq := { bar := 2, addr := 0x0, firstBe := 15, lastBe := 0, defect := 0 }; let data : List (BitVec 32) := [7#32]; let s : State := st 5 [(Reg.hostSts, 2#32)]; let u := inTurn .pcie s;
     (pcieUp s = true) ∧ (pathFree .pcie s ≤ s.time) ∧ (turnAt (pathRank .pcie) s ≤ s.time) ∧ ((pcieRefuse q data.length u).isSome = true)) ∧
    (let q : PcieReq := { bar := 2, addr := 0x0, firstBe := 15, lastBe := 0, defect := 0 }; let n : Nat := 1; let s : State := st 5 [(Reg.hostSts, 2#32)]; let u := inTurn .pcie s;
     (pcieUp s = true) ∧ (pathFree .pcie s ≤ s.time) ∧ (turnAt (pathRank .pcie) s ≤ s.time) ∧ ((pcieRefuse q n u).isSome = true)) ∧
    (let r : HostRead := { id := 0, want := 1, words := [7#32], at_ := 960 }; let rest : List HostRead := []; let s : State := { st 5 [(Reg.hostSts, 2#32)] with host := { reads := [{ id := 0, want := 1, words := [7#32], at_ := 960 }] } }; 
     (s.host.reads = r :: rest) ∧ (r.words.length = r.want) ∧ (r.at_ + 40 ≤ s.time) ∧ (pathFree .pcie s ≤ s.time)) ∧
    (let s : State := st 3 [(Reg.hostSts, 2#32)]; 
     (pcieUp s = true) ∧ (3 ≤ mode s)) ∧
    (let s : State := st 3 [(Reg.hostSts, 2#32)]; 
     (pcieUp s = true) ∧ (3 ≤ mode s)) ∧
    (let s : State := st 2 [(Reg.hostSts, 2#32)]; 
     (pcieUp s = true) ∧ (mode s < 3)) ∧
    (let s : State := st 5 [(Reg.hostSts, 2#32)]; 
     (mode s ≠ 0) ∧ (rb s Reg.hostSts 0 = false)) ∧
    (let s : State := st 5 [(Reg.hostSts, 2#32)]; 
     (mode s ≠ 0) ∧ (rb s Reg.hostSts 0 = false)) ∧
    (let bytes : List (BitVec 8) := (let b : List Byte := [2#8, 0#8, 252#8, 255#8, 255#8, 3#8, 1#8, 2#8, 3#8, 4#8]; b ++ leBytes 2 (crc16 b)); let s : State := st 5 [(Reg.hostSts, 1#32)]; let u := inTurn .spi s;
     (TakesNow .spi s) ∧ (spiCheck u bytes = .code 0) ∧ (spiIsWrite bytes = true)) ∧
    (let bytes : List (BitVec 8) := []; let s : State := st 5 [(Reg.hostSts, 1#32)]; let u := inTurn .spi s;
     (TakesNow .spi s) ∧ (spiCheck u bytes ≠ .code 0)) ∧
    (let bytes : List (BitVec 8) := (let b : List Byte := [3#8, 0#8, 252#8, 255#8, 255#8, 3#8]; b ++ leBytes 2 (crc16 b)); let s : State := st 5 [(Reg.hostSts, 1#32)]; let u := inTurn .spi s;
     (TakesNow .spi s) ∧ (spiCheck u bytes = .code 0) ∧ (spiIsWrite bytes = false)) ∧
    (let bytes : List (BitVec 8) := []; let s : State := st 5 [(Reg.hostSts, 1#32)]; let u := inTurn .spi s;
     (TakesNow .spi s) ∧ (spiCheck u bytes ≠ .code 0)) ∧
    (let bytes : List (BitVec 8) := (let b : List Byte := [50#8, 0#8, 252#8, 255#8, 255#8, 3#8, 1#8, 2#8, 3#8, 4#8]; b ++ leBytes 2 (crc16 b)); let s : State := st 5 [(Reg.hostSts, 1#32)]; let u := inTurn .spi s;
     (TakesNow .spi s) ∧ (spiCheck u bytes = .code 0) ∧ (spiIsWrite bytes = true)) ∧
    (let bytes : List (BitVec 8) := []; let s : State := st 5 [(Reg.hostSts, 1#32)]; let u := inTurn .spi s;
     (TakesNow .spi s) ∧ (spiCheck u bytes ≠ .code 0)) ∧
    (let bytes : List (BitVec 8) := (let b : List Byte := [107#8, 0#8, 252#8, 255#8, 255#8, 3#8]; b ++ leBytes 2 (crc16 b)); let s : State := st 5 [(Reg.hostSts, 1#32)]; let u := inTurn .spi s;
     (TakesNow .spi s) ∧ (spiCheck u bytes = .code 0) ∧ (spiIsWrite bytes = false)) ∧
    (let bytes : List (BitVec 8) := []; let s : State := st 5 [(Reg.hostSts, 1#32)]; let u := inTurn .spi s;
     (TakesNow .spi s) ∧ (spiCheck u bytes ≠ .code 0)) := by
  refine ⟨?_, ?_, ?_, ?_, ?_, ?_, ?_, ?_, ?_, ?_, ?_, ?_, ?_, ?_, ?_, ?_, ?_, ?_, ?_, ?_, ?_, ?_⟩ <;> ((try simp only [TakesNow]); decide +kernel)

/-- A witness for each clause of MailboxCommands. -/
theorem witness_mailbox_commands :
    (let l : Lane := .background; let c : Cmd := { slot := 63, op := 0x12, narg := 3, args := [0#32, 0#32, 0#32], out := none }; let cs : List Cmd := []; let s : State := { st 5 [] with host := { bg := [{ slot := 63, op := 0x12, narg := 3, args := [0#32, 0#32, 0#32], out := none }] } }; 
     (laneRun s l = none) ∧ (laneWait s l = c :: cs) ∧ (mode s ≠ 0) ∧ (power s ≠ 2)) ∧
    (let l : Lane := .foreground; let c : Cmd := { slot := 63, op := 0x16, narg := 0, args := [], out := some (0, 0, 1000#32) }; let o : Nat × Nat × Word := (0, 0, 1000#32); let s : State := { st 3 [] with host := { fgRun := some { slot := 63, op := 0x16, narg := 0, args := [], out := some (0, 0, 1000#32) } } }; 
     (laneRun s l = some c) ∧ (c.out = some o)) ∧
    (let l : Lane := .foreground; let op : Nat := 0x10; let c : Cmd := { slot := 63, op := 0x10, narg := 0, args := [], out := none }; let s : State := { st 5 [] with host := { fgRun := some { slot := 63, op := 0x10, narg := 0, args := [], out := none } } }; 
     (landing s l op = some c) ∧ (cmdLegal s c = false)) ∧
    (let c : Cmd := { slot := 63, op := 1, narg := 1, args := [7#32], out := none }; let s : State := { st 5 [] with host := { fgRun := some { slot := 63, op := 1, narg := 1, args := [7#32], out := none } } }; 
     (landing s .foreground 0x01 = some c) ∧ (cmdLegal s c = true)) ∧
    (let c : Cmd := { slot := 63, op := 0x10, narg := 0, args := [], out := none }; let s : State := { st 3 [] with host := { fgRun := some { slot := 63, op := 0x10, narg := 0, args := [], out := none } } }; 
     (landing s .foreground 0x10 = some c) ∧ (cmdLegal s c = true)) ∧
    (let c : Cmd := { slot := 63, op := 0x11, narg := 0, args := [], out := none }; let s : State := { st 5 [] with host := { fgRun := some { slot := 63, op := 0x11, narg := 0, args := [], out := none } } }; 
     (landing s .foreground 0x11 = some c) ∧ (cmdLegal s c = true)) ∧
    (let c : Cmd := { slot := 63, op := 0x12, narg := 3, args := [1#32, 0x80000000#32, 0#32], out := none }; let s : State := { st 5 [] with host := { fgRun := some { slot := 63, op := 0x12, narg := 3, args := [1#32, 0x80000000#32, 0#32], out := none } } }; 
     (landing s .foreground 0x12 = some c) ∧ (cmdLegal s c = true)) ∧
    (let c : Cmd := { slot := 63, op := 0x13, narg := 3, args := [0#32, 0x80000000#32, 0#32], out := none }; let s : State := { st 5 [] with host := { fgRun := some { slot := 63, op := 0x13, narg := 3, args := [0#32, 0x80000000#32, 0#32], out := none } }, pwr := { holds := [(63, 1)] } }; 
     (landing s .foreground 0x13 = some c) ∧ (cmdLegal s c = true)) ∧
    (let c : Cmd := { slot := 63, op := 0x14, narg := 0, args := [], out := none }; let s : State := { st 5 [] with host := { fgRun := some { slot := 63, op := 0x14, narg := 0, args := [], out := none } } }; 
     (landing s .foreground 0x14 = some c) ∧ (cmdLegal s c = true)) ∧
    (let c : Cmd := { slot := 63, op := 0x15, narg := 0, args := [], out := none }; let s : State := { st 9 [] with host := { fgRun := some { slot := 63, op := 0x15, narg := 0, args := [], out := none } }, chg := { act := some { ver := 1, epoch := 1, cclass := 1, link := 1, key := 255, ssid := 0 } } }; 
     (landing s .foreground 0x15 = some c) ∧ (cmdLegal s c = true)) ∧
    (let c : Cmd := { slot := 63, op := 0x16, narg := 0, args := [], out := none }; let s : State := { st 9 [] with host := { fgRun := some { slot := 63, op := 0x16, narg := 0, args := [], out := none } } }; 
     (landing s .foreground 0x16 = some c) ∧ (cmdLegal s c = true)) ∧
    (let c : Cmd := { slot := 63, op := 0x22, narg := 0, args := [], out := none }; let s : State := { st 5 [(Reg.chgSts, 3#32)] with host := { fgRun := some { slot := 63, op := 0x22, narg := 0, args := [], out := none } } }; 
     (landing s .foreground 0x22 = some c) ∧ (cmdLegal s c = true)) ∧
    (let c : Cmd := { slot := 63, op := 0x23, narg := 3, args := [0x100#32, 8000#32, 0#32], out := none }; let s : State := { st 5 [(Reg.chgSts, 3#32)] with host := { fgRun := some { slot := 63, op := 0x23, narg := 3, args := [0x100#32, 8000#32, 0#32], out := none } } }; 
     (landing s .foreground 0x23 = some c) ∧ (cmdLegal s c = true)) ∧
    (let c : Cmd := { slot := 63, op := 0x25, narg := 3, args := [0x100#32, 9000000#32, 0#32], out := none }; let s : State := { st 5 [(Reg.chgSts, 3#32), (Reg.selCtl, 3#32), (Reg.selSts, 0x12244#32)] with host := { fgRun := some { slot := 63, op := 0x25, narg := 3, args := [0x100#32, 9000000#32, 0#32], out := none } } }; 
     (landing s .foreground 0x25 = some c) ∧ (cmdLegal s c = true)) ∧
    (let c : Cmd := { slot := 63, op := 0x20, narg := 4, args := [0#32, 0#32, 0x1B01000#32, 65536#32], out := none }; let s : State := { st 5 [] with host := { bgRun := some { slot := 63, op := 0x20, narg := 4, args := [0#32, 0#32, 0x1B01000#32, 65536#32], out := none } } }; 
     (landing s .background 0x20 = some c) ∧ (cmdLegal s c = true)) ∧
    (let c : Cmd := { slot := 63, op := 0x21, narg := 0, args := [], out := none }; let s : State := { st 5 [] with host := { bgRun := some { slot := 63, op := 0x21, narg := 0, args := [], out := none } } }; 
     (landing s .background 0x21 = some c) ∧ (cmdLegal s c = true)) ∧
    (let c : Cmd := { slot := 63, op := 0x24, narg := 3, args := [0x100#32, 8000#32, 0#32], out := none }; let s : State := { st 5 [] with host := { bgRun := some { slot := 63, op := 0x24, narg := 3, args := [0x100#32, 8000#32, 0#32], out := none } } }; 
     (landing s .background 0x24 = some c) ∧ (cmdLegal s c = true)) ∧
    (let c : Cmd := { slot := 63, op := 0x30, narg := 2, args := [63#32, 0x1B01000#32], out := none }; let s : State := { st 5 [] with host := { bgRun := some { slot := 63, op := 0x30, narg := 2, args := [63#32, 0x1B01000#32], out := none } } }; 
     (landing s .background 0x30 = some c) ∧ (cmdLegal s c = true)) ∧
    (let c : Cmd := { slot := 63, op := 0x40, narg := 4, args := [1#32, 0#32, 0x1B01000#32, 8#32], out := none }; let s : State := { st 9 [] with host := { bgRun := some { slot := 63, op := 0x40, narg := 4, args := [1#32, 0#32, 0x1B01000#32, 8#32], out := none } } }; 
     (landing s .background 0x40 = some c) ∧ (cmdLegal s c = true)) ∧
    (let c : Cmd := { slot := 63, op := 0x41, narg := 1, args := [1#32], out := none }; let s : State := { st 9 [] with host := { bgRun := some { slot := 63, op := 0x41, narg := 1, args := [1#32], out := none } } }; 
     (landing s .background 0x41 = some c) ∧ (cmdLegal s c = true)) ∧
    (let c : Cmd := { slot := 63, op := 0x42, narg := 3, args := [0#32, 0x1B01000#32, 1024#32], out := none }; let s : State := { st 5 [] with host := { bgRun := some { slot := 63, op := 0x42, narg := 3, args := [0#32, 0x1B01000#32, 1024#32], out := none } } }; 
     (landing s .background 0x42 = some c) ∧ (cmdLegal s c = true)) ∧
    (let c : Cmd := { slot := 63, op := 0x50, narg := 2, args := [3#32, 0x1B01000#32], out := none }; let s : State := { st 9 [] with host := { bgRun := some { slot := 63, op := 0x50, narg := 2, args := [3#32, 0x1B01000#32], out := none } } }; 
     (landing s .background 0x50 = some c) ∧ (cmdLegal s c = true)) ∧
    (let c : Cmd := { slot := 63, op := 0x51, narg := 2, args := [0x103#32, 0x1B01000#32], out := none }; let s : State := { st 9 [] with host := { bgRun := some { slot := 63, op := 0x51, narg := 2, args := [0x103#32, 0x1B01000#32], out := none } } }; 
     (landing s .background 0x51 = some c) ∧ (cmdLegal s c = true)) ∧
    (let c : Cmd := { slot := 63, op := 0x52, narg := 0, args := [], out := none }; let s : State := { st 9 [] with host := { bgRun := some { slot := 63, op := 0x52, narg := 0, args := [], out := none } } }; 
     (landing s .background 0x52 = some c) ∧ (cmdLegal s c = true)) ∧
    (let c : Cmd := { slot := 63, op := 0x53, narg := 1, args := [32#32], out := none }; let s : State := { st 9 [] with host := { bgRun := some { slot := 63, op := 0x53, narg := 1, args := [32#32], out := none } } }; 
     (landing s .background 0x53 = some c) ∧ (cmdLegal s c = true)) := by
  refine ⟨?_, ?_, ?_, ?_, ?_, ?_, ?_, ?_, ?_, ?_, ?_, ?_, ?_, ?_, ?_, ?_, ?_, ?_, ?_, ?_, ?_, ?_, ?_, ?_, ?_⟩ <;> decide +kernel

/-- A witness for each clause of TestAccessPort. -/
theorem witness_test_access_port :
    (let s : State := st 5 []; let u := inTurn .tackler s;
     (TakesNow .tackler s) ∧ (mode u ≠ 0)) ∧
    (let s : State := st 5 []; let u := inTurn .tackler s;
     (TakesNow .tackler s) ∧ (mode u ≠ 0)) ∧
    (let s : State := st 5 []; 
     (mode s ≠ 0)) ∧
    (let s : State := State.reset; 
     (mode s = 0)) ∧
    (let s : State := State.reset; 
     (mode s = 0)) := by
  refine ⟨?_, ?_, ?_, ?_, ?_⟩ <;> ((try simp only [TakesNow]); decide +kernel)

/-- A witness for each clause of TacklerAndFaultEvents. -/
theorem witness_tackler_and_fault_events :
    (let s : State := st 5 []; 
     (mode s ≠ 0)) ∧
    (let s : State := st 5 []; 
     (mode s ≠ 0)) ∧
    (let n : LogRec := { seq := 7#32, time := 10, cls := 0x1101, sev := 4 }; let s : State := { st 5 [(Reg.tackLogFlseq, 7#32), (Reg.tackLogSeq, 8#32)] with log := { ring := [{ seq := 7#32, time := 10, cls := 0x1101, sev := 4 }] } }; 
     (logNextCopy s = some n) ∧ (nvmInh s = false) ∧ (fwRuns s = true)) ∧
    (let s : State := st 5 []; 
     (fwStarted s = true)) ∧
    (let s : State := st 5 []; 
     (fwStarted s = true)) ∧
    (let s : State := st 5 []; 
     (fwRuns s = true)) ∧
    (let j : FlashJob := { why := .command, steps := [.erase 0x400000 3840, .program 0x400000 [1#8, 2#8]], issued := true }; let js : List FlashJob := []; let s : State := { st 5 [] with flash := { jobs := [{ why := .command, steps := [.erase 0x400000 3840, .program 0x400000 [1#8, 2#8]], issued := true }] } }; 
     (s.flash.jobs = j :: js) ∧ (j.issued = true)) ∧
    (let j : FlashJob := { why := .command, steps := [.erase 0x400000 3840, .program 0x400000 [1#8, 2#8]], issued := true }; let js : List FlashJob := []; let s : State := { st 5 [] with flash := { jobs := [{ why := .command, steps := [.erase 0x400000 3840, .program 0x400000 [1#8, 2#8]], issued := true }] } }; 
     (s.flash.jobs = j :: js) ∧ (j.issued = true)) ∧
    (let q : Checker := .c33; let e : Nat := 31; let s : State := { st 5 [] with flt := { slots := [(33, 31)] } }; 
     (replayOf s q = some e)) ∧
    (let a : Arb := { eng := 31, first := 32, w := 1#32, ok := true, sig := 2#32, pick := 4 }; let s : State := { st 5 [(Reg.shedPicknoLo, 5#32)] with flt := { arb := some { eng := 31, first := 32, w := 1#32, ok := true, sig := 2#32, pick := 4 } } }; 
     (s.flt.arb = some a) ∧ (a.pick < pickNo s)) ∧
    (let q : Checker := .c33; let s : State := { st 5 [(Reg.gctlChksts, 0x9F00#32), (Reg.engEsts 33, 0x9F0000#32)] with flt := { copying := true, copies := [1] } }; 
     (copies s q = true)) ∧
    (let s : State := st 5 [(Reg.gctlCtl, 1#32)]; 
     (checkOn s = true) ∧ (running s = true)) ∧
    (let n : Fin 512 := 511; let s : State := { st 5 [(Reg.gctlCfg, 1#32), (Reg.gctlCtl, 1#32), (Reg.chCtl 511, 10#32)] with ch := [(511, { released := true, level := true })] }; 
     (readbackOn s n = true)) := by
  refine ⟨?_, ?_, ?_, ?_, ?_, ?_, ?_, ?_, ?_, ?_, ?_, ?_, ?_⟩ <;> decide +kernel

end Sys2Proof.Tests
end

section
/-!
PROOFS. Register pairs (00_scope.md R11): where the pairs lie, what reads and writes of their words do, and the commands
that write them.
-/

namespace Sys2Proof.Machine

/-! ### Where the pairs lie -/

/-- An address is no hole and no word of a window, where a write would not reach a register (R8, R36, R56, R120). -/
def offHolesAndWindows (a : Nat) : Bool := !isHole a && !inTaskWin a && !inCodeWin a

/-- The low words are those that the register tables list: base, stride and count of each pair. -/
theorem isPairLo_iff {a : Nat} : isPairLo a = true ↔ ∃ p ∈ pairs, ∃ k < p.2.2, a = p.1 + p.2.1 * k := by
  have hstride : ∀ p ∈ pairs, 0 < p.2.1 := by decide
  simp only [isPairLo, List.any_eq_true, decide_eq_true_eq]
  refine exists_congr fun p => and_congr_right fun hp => ⟨fun ⟨hbase, hmod, hcount⟩ => ?_, fun ⟨k, hk, ha⟩ => ?_⟩
  · have hdiv := Nat.mul_div_cancel' (Nat.dvd_of_mod_eq_zero hmod)
    exact ⟨_, hcount, by omega⟩
  · have hsub : a - p.1 = p.2.1 * k := by omega
    rw [hsub, Nat.mul_mod_right, Nat.mul_div_cancel_left k (hstride p hp)]
    exact ⟨by omega, rfl, hk⟩

/-- Of the listed pairs, no high word is the low word of another, and both words lie off the holes and windows. -/
theorem pairs_apart : ∀ p ∈ pairs, ∀ k < p.2.2, isPairLo (p.1 + p.2.1 * k + 4) = false ∧
    offHolesAndWindows (p.1 + p.2.1 * k) = true ∧ offHolesAndWindows (p.1 + p.2.1 * k + 4) = true := by
  decide

/-- The high word of a pair is not the low word of another. -/
theorem isPairLo_high {a : Nat} (h : isPairLo a = true) : isPairLo (a + 4) = false := by
  obtain ⟨p, hp, k, hk, rfl⟩ := isPairLo_iff.1 h
  exact (pairs_apart p hp k hk).1

@[simp] theorem isPairHi_add_four (a : Nat) : isPairHi (a + 4) = isPairLo a := by simp [isPairHi]

theorem offHolesAndWindows_pair {a : Nat} (h : isPairLo a = true) :
    offHolesAndWindows a = true ∧ offHolesAndWindows (a + 4) = true := by
  obtain ⟨p, hp, k, hk, rfl⟩ := isPairLo_iff.1 h
  exact (pairs_apart p hp k hk).2

theorem offHolesAndWindows_pairWord {a : Nat} (h : (isPairLo a || isPairHi a) = true) : offHolesAndWindows a = true := by
  rcases Bool.or_eq_true_iff.1 h with hlow | hhigh
  · exact (offHolesAndWindows_pair hlow).1
  · simp only [isPairHi, Bool.and_eq_true, decide_eq_true_eq] at hhigh
    simpa [Nat.sub_add_cancel hhigh.1] using (offHolesAndWindows_pair hhigh.2).2

/-- The pairs that the commands name are pairs of the register tables. -/
theorem isPairLo_pairAddr (q : RegPair) : isPairLo (pairAddr q) = true := by
  cases q with
  | pickno | pickT | chgSwT => decide
  | trdTtime i => exact isPairLo_iff.2 ⟨(Reg.trdTtimeLo 0, 0x1000, 4), by decide, i, i.isLt, rfl⟩
  | posLatT i => exact isPairLo_iff.2 ⟨(Reg.posLatTLo 0, 0x100, 16), by decide, i, i.isLt, rfl⟩
  | bobSrc i => exact isPairLo_iff.2 ⟨(Reg.bobSrcLo 0, 0x40, 32), by decide, i, i.isLt, rfl⟩
  | bobDst i => exact isPairLo_iff.2 ⟨(Reg.bobDstLo 0, 0x40, 32), by decide, i, i.isLt, rfl⟩
  | bobErrAddr i => exact isPairLo_iff.2 ⟨(Reg.bobErrAddrLo 0, 0x40, 32), by decide, i, i.isLt, rfl⟩

/-! ### Reads -/

/-- A read of a low word answers it and captures the high word. -/
theorem sideRead_low {a : Nat} {s : State} (h : isPairLo a = true) :
    sideRead a s = (regView s a, { s with pairHi := tset s.pairHi a (regView s (a + 4)) }) := by
  simp [sideRead, h, pairLoReadOp]

/-- A read of a high word answers the captured one and changes nothing. -/
theorem sideRead_high {a : Nat} {s : State} (h : isPairLo a = true) :
    sideRead (a + 4) s = (tget (resetWord (a + 4)) s.pairHi a, s) := by
  simp [sideRead, isPairLo_high h, h, pairHiView]

/-! ### Writes -/

/-- A write of a low word is held. -/
theorem pairWrite_low {a : Nat} {v : Word} {s : State} (h : isPairLo a = true) :
    pairWrite a v s = { s with pairLo := tset s.pairLo a v } := by
  simp [pairWrite, h]

/-- A write of a high word puts the held low word, or the present one where none is held, and then the high word. -/
theorem pairWrite_high {a : Nat} {w : Word} {s : State} (h : isPairLo a = true) :
    pairWrite (a + 4) w s = applyWrite (a + 4) w (applyWrite a (tget (rget s a) s.pairLo a) s) := by
  simp [pairWrite, isPairLo_high h]

/-- A write of a word of a pair that is neither locked nor reserved is a write of the pair. -/
theorem writeReg_pair {p : Path} {a : Nat} {v : Word} {u : State} (h : (isPairLo a || isPairHi a) = true) (hpower : power u ≠ 2)
    (hlocked : locked u a v = false) (hreserved : reserved u a v = false) : writeReg p a v u = pairWrite a v u := by
  have hrange := offHolesAndWindows_pairWord h
  simp only [offHolesAndWindows, Bool.and_eq_true, Bool.not_eq_true'] at hrange
  obtain ⟨⟨hhole, htask⟩, hcode⟩ := hrange
  simp [writeReg, hpower, hhole, hlocked, htask, hcode, hreserved, h]

theorem writeCmd_pair {p : Path} {a : Nat} {v : Word} {s : State} (h : (isPairLo a || isPairHi a) = true) (ht : Takes p s)
    (hlocked : locked (inTurn p s) a v = false) (hreserved : reserved (inTurn p s) a v = false) :
    writeCmd p a v s = .next (settle (pairWrite a v (inTurn p s))) := by
  rw [writeCmd, accessCmd_takes ht.1, writeReg_pair h ht.2 hlocked hreserved]

/-! ### The commands -/

theorem exec_pairLoWrite (p : Path) (q : RegPair) (v : BitVec 32) (s : State) :
    exec (.pairLoWrite p q v) s = writeCmd p (pairAddr q) v s := rfl

theorem exec_pairHiWrite (p : Path) (q : RegPair) (v : BitVec 32) (s : State) :
    exec (.pairHiWrite p q v) s = writeCmd p (pairAddr q + 4) v s := rfl

/-- Settles O16: the high word of a pair is no low word, so that its reads and writes meet what the low word has
captured or held; and the words of a pair are registers proper, so that the commands that write them reach the pair. -/
theorem registerPairs : Obligations.RegisterPairs := by
  unfold Obligations.RegisterPairs
  refine ⟨fun a s t h => ⟨?_, fun hcap => ?_⟩, fun a v s h => ⟨_, pairWrite_low h, fun w t hheld => ?_⟩,
    fun p q v s ht hl hr => ?_, fun p q v s ht hl hr => ?_⟩
  · rw [sideRead_low h]
  · rw [sideRead_high h, hcap, sideRead_low h, tget_tset_same]
  · rw [pairWrite_high h, hheld, tget_tset_same]
  · rw [exec_pairLoWrite, writeCmd_pair (by simp [isPairLo_pairAddr]) ht hl hr]
  · rw [exec_pairHiWrite, writeCmd_pair (by simp [isPairLo_pairAddr]) ht hl hr]

end Sys2Proof.Machine
end

section
/-!
PROOFS. Holes and reserved offsets (01_architecture.md R8, R36): what a read and a write of each does, and the misaligned
addresses at which a reserved offset answers as a locked register (R10).
-/

namespace Sys2Proof.Machine

/-! ### Refused writes -/

/-- The note of the path touches the host port alone (R533). -/
@[simp] theorem dropNote_rget {p : Path} {s : State} {a : Nat} : rget (dropNote p s) a = rget s a := by
  cases p <;> rfl

@[simp] theorem dropNote_mem {p : Path} {s : State} : (dropNote p s).mem = s.mem := by
  cases p <;> rfl

theorem not_raiseReg_gctlHoleCnt : ¬ RaiseReg Reg.gctlHoleCnt := by
  simp [RaiseReg, Reg.gctlHoleCnt, Reg.selLevOut, Reg.shedMergeCnt, Reg.shedExpMergeCnt]

theorem rget_holeDrop_gctlHoleCnt {p : Path} {s : State} :
    rget (holeDrop p s) Reg.gctlHoleCnt = satInc (rget s Reg.gctlHoleCnt) := by
  simp [holeDrop, raise_rget not_raiseReg_gctlHoleCnt]

@[simp] theorem holeDrop_mem {p : Path} {s : State} : (holeDrop p s).mem = s.mem := by
  simp [holeDrop]

/-- A write that finds a register locked is reported in DROP of the next frame of its path SPI (R533, R535). -/
theorem lockDrop_spi_spiDrop {a : Nat} {v : Word} {s : State} : (lockDrop .spi a v s).host.spiDrop = true := rfl

theorem writeReg_hole {p : Path} {a : Nat} {v : Word} {s : State} (hpower : power s ≠ 2) (hhole : isHole a = true) :
    writeReg p a v s = holeDrop p s := by
  simp [writeReg, hpower, hhole]

theorem writeReg_locked {p : Path} {a : Nat} {v : Word} {s : State} (hpower : power s ≠ 2) (hhole : isHole a = false)
    (hlocked : locked s a v = true) : writeReg p a v s = lockDrop p a v s := by
  simp [writeReg, hpower, hhole, hlocked]

/-! ### Reads -/

theorem readDw_hole {p : Path} {a : Nat} {s : State} (hpower : power s ≠ 2) (hhole : isHole a = true) :
    readDw p a s = (0, s) := by
  simp [readDw, hpower, hhole]

/-- A reserved offset is no register and no word of a window. -/
theorem reservedOffset_iff {a : Nat} :
    reservedOffset a = true ↔ descAt a = none ∧ inTaskWin a = false ∧ inCodeWin a = false := by
  simp [reservedOffset, and_assoc]

theorem readDw_reservedOffset {p : Path} {a : Nat} {s : State} (hpower : power s ≠ 2) (hstore : inStore a = false)
    (hrsv : reservedOffset a = true) : readDw p a s = (0, s) := by
  obtain ⟨hdesc, htask, hcode⟩ := reservedOffset_iff.1 hrsv
  simp [readDw, hpower, hstore, hdesc, htask, hcode]

/-! ### Writes of reserved offsets -/

/-- Each aligned word from 0x440 to 0x47C is a POL register (R604). -/
theorem descAt_gctlPol : ∀ i < 16, descAt (Reg.gctlPol i) ≠ none := by decide

/-- Of GCTL, FLT and PINOWN, what can be locked at an aligned address is a register. -/
theorem lockGctl_no_register {a : Nat} {v : Word} {s : State} (haligned : a % 4 = 0) (hdesc : descAt a = none) :
    lockGctl s a v = false := by
  have hreg : ∀ b, descAt b ≠ none → a ≠ b := fun b hb hab => hb (hab ▸ hdesc)
  have hpol : ¬ (0x440 ≤ a ∧ a < 0x480) := fun ⟨hlow, hhigh⟩ =>
    hreg (Reg.gctlPol ((a - 0x440) / 4)) (descAt_gctlPol _ (by omega)) (by unfold Reg.gctlPol; omega)
  simp [lockGctl, hpol, hreg Reg.gctlCtl (by decide), hreg Reg.gctlPinctl (by decide), hreg Reg.gctlCfg (by decide),
    hreg Reg.gctlInj (by decide)]

theorem locked_reservedOffset {a : Nat} {v : Word} {s : State} (hpower : power s ≠ 2) (hlive : live s = true)
    (hstore : inStore a = false) (hrsv : reservedOffset a = true) (haligned : a % 4 = 0) : locked s a v = false := by
  have hmode : mode s ≠ 0 := by
    simp only [live, decide_eq_true_eq] at hlive
    omega
  by_cases hlow : a < 0x1800
  · simp [locked, hmode, hlow, lockGctl_no_register haligned (reservedOffset_iff.1 hrsv).1]
  · simp [locked, hmode, hlow, hlive, hpower, hstore, hrsv]

theorem writeReg_reservedOffset {p : Path} {a : Nat} {v : Word} {s : State} (hpower : power s ≠ 2) (hlive : live s = true)
    (hhole : isHole a = false) (hstore : inStore a = false) (hrsv : reservedOffset a = true) (hlow : isPairLo a = false)
    (hhigh : isPairHi a = false) (haligned : a % 4 = 0) : writeReg p a v s = s := by
  obtain ⟨hdesc, htask, hcode⟩ := reservedOffset_iff.1 hrsv
  have hdb : a ≠ Reg.mbxDb := by
    rintro rfl
    exact absurd hdesc (by decide)
  simp [writeReg, hpower, hhole, locked_reservedOffset hpower hlive hstore hrsv haligned, htask, hcode, reserved, hrsv,
    hlow, hhigh, hdb, applyWrite, hdesc]

/-! ### The statement -/

/-- What holds of the statement O19: both of its clauses about holes, and the one about reserved offsets at every address
that an access of a register has, a multiple of 4 (R10). -/
theorem holes_and_aligned_reservedOffsets_are_empty :
    (∀ (p : Path) (a : Nat) (s : State), power s ≠ 2 → isHole a = true → readDw p a s = (0, s)) ∧
    (∀ (p : Path) (a : Nat) (v : Word) (s : State), power s ≠ 2 → isHole a = true →
      writeReg p a v s = dropNote p (raise 2881 (count Reg.gctlHoleCnt s)) ∧
      rget (writeReg p a v s) Reg.gctlHoleCnt = satInc (rget s Reg.gctlHoleCnt) ∧ (writeReg p a v s).mem = s.mem) ∧
    (∀ (p : Path) (a : Nat) (v : Word) (s : State), power s ≠ 2 → live s = true → isHole a = false → inStore a = false →
      reservedOffset a = true → isPairLo a = false → isPairHi a = false → a % 4 = 0 →
      readDw p a s = (0, s) ∧ writeReg p a v s = s) := by
  refine ⟨fun p a s hpower hhole => readDw_hole hpower hhole, fun p a v s hpower hhole => ?_,
    fun p a v s hpower hlive hhole hstore hrsv hlow hhigh haligned =>
      ⟨readDw_reservedOffset hpower hstore hrsv,
        writeReg_reservedOffset hpower hlive hhole hstore hrsv hlow hhigh haligned⟩⟩
  rw [writeReg_hole hpower hhole]
  exact ⟨rfl, rget_holeDrop_gctlHoleCnt, holeDrop_mem⟩

/-- Refutes O19: the clause about reserved offsets takes addresses that are no multiples of 4, and 0x441 lies in the range
of POL, which is locked in RUN by its range alone; a write there on the path SPI counts as a locked one, and DROP is set.
At aligned addresses the clause holds, see `holes_and_aligned_reservedOffsets_are_empty`. -/
theorem not_holesAreEmpty : ¬ Obligations.HolesAreEmpty := by
  unfold Obligations.HolesAreEmpty
  rintro ⟨-, -, hreserved⟩
  have hstays : writeReg .spi 0x441 0 (rset Reg.gctlMode 5 State.reset) = rset Reg.gctlMode 5 State.reset :=
    (hreserved .spi 0x441 0 _ (by decide) (by decide) (by decide) (by decide) (by decide) (by decide) (by decide)).2
  rw [writeReg_locked (by decide) (by decide) (by decide)] at hstays
  have hdrop : (rset Reg.gctlMode 5 State.reset).host.spiDrop = true := hstays ▸ lockDrop_spi_spiDrop
  exact absurd hdrop (by decide)

end Sys2Proof.Machine
end

section
/-!
PROOFS. What an instruction of a shuttle engine that issues leaves, by the form of its meaning (03_shuttle_engines.md R86,
R88, R89, R94, R114): the rules that the statements of the arithmetic, control transfers and LERP share.
-/

namespace Sys2Proof.Machine

/-! ### The engines' table -/

/-- A key replaced twice holds what the second replacement puts. -/
theorem tset_tset_same {α : Type} (t : Tbl α) (k : Nat) (v w : α) : tset (tset t k v) k w = tset t k w := by
  induction t with
  | nil => simp [tset]
  | cons p t ih =>
    obtain ⟨j, u⟩ := p
    rcases Nat.lt_trichotomy k j with hlt | heq | hgt
    · simp [tset, hlt, Nat.ne_of_lt hlt]
    · simp [tset, heq]
    · simp [tset, Nat.not_lt_of_gt hgt, Nat.ne_of_gt hgt, ih]

theorem modShu_modShu (e : Nat) (f g : ShuSt → ShuSt) (s : State) :
    modShu e g (modShu e f s) = modShu e (fun u => g (f u)) s := by
  simp only [modShu, shuSt, tget_tset_same, tset_tset_same]

/-- A note of the engine outside its contexts, effects and slots: the frame of the snapshot holds of it too. -/
theorem SnapFrame.note {e : Nat} {s t : State} {f : ShuSt → ShuSt} (hnrm : ∀ u, (f u).nrm = u.nrm)
    (hexp : ∀ u, (f u).exp = u.exp) (heff : ∀ u, (f u).eff = u.eff) (hslot : ∀ u, (f u).slotId = u.slotId)
    (h : SnapFrame e s t) : SnapFrame e s (modShu e f t) :=
  ⟨h.only.mod f, fun y => (ctx_modShu hnrm hexp y).trans (h.ctxs y), by simp [heff, h.eff], by simp [hslot, h.slotId],
    h.time, h.flt, h.mem, h.regs, h.shed, h.store⟩

theorem SnapFrame.gr {e : Nat} {x : Ctx} {r : Nat} {s t : State} (h : SnapFrame e s t) : gr t e x r = gr s e x r := by
  simp only [Machine.gr, h.ctxs]

/-! ### Fields and the end of a cycle -/

theorem fld_zero (w : Word) (n : Nat) : fld w 0 n = w.toNat % 2 ^ n := by simp [fld]

/-- A state is quiet by its detections and by CHG.STS. -/
theorem Quiet.of_eq {s u : State} (q : Quiet s) (hdet : u.flt.det = s.flt.det) (hsts : rget u Reg.chgSts = rget s Reg.chgSts) :
    Quiet u := by
  refine ⟨hdet.trans q.1, ?_⟩
  rw [chgPending, stageState, rf, hsts]
  exact q.2

/-! ### Instructions that change their engine alone -/

/-- The residue check has nothing to note for an express context, or where no error is injected (R114, R602). -/
theorem residue_unaffected {e : Nat} {x : Ctx} {s u : State} (hflt : u.flt = s.flt)
    (h : x = .express ∨ s.flt.injRes ≠ some e) : residue e x u = u := by
  rcases h with rfl | h
  · simp [residue]
  · exact residue_none (by rwa [hflt])

theorem putResult_flt {e : Nat} {x : Ctx} {d lat : Nat} {r : Word × Flags} {s : State} :
    (putResult e x d lat r s).flt = s.flt := rfl

/-- An instruction that issues from a quiet state answers what its body leaves of the state with the snapshot, where that
keeps to the frame. -/
theorem issue_frame {e : Fin 34} {i : Instr} {uses : List Nat} {dsts need occ pc : Nat} {free : Bool}
    {body : Ctx → State → State} {P : State → Prop} {s : State} (hn : shuNeeds i = some (uses, need, free))
    (h : Issues e i s) (q : Quiet s)
    (hbody : ∀ t, SnapFrame e s t → IssueFrame e occ pc s (body (active s e) t) ∧ P (body (active s e) t)) :
    ∃ t, issue e i uses dsts need free body s = .next t ∧ IssueFrame e occ pc s t ∧ P t := by
  obtain ⟨hframe, hP⟩ := hbody _ (expressSnap_frame e (active s e) s)
  exact ⟨_, by rw [issue_issues hn h, settle_frame hframe q], hframe, hP⟩

/-- An arithmetic or logic instruction writes the result and flags of its operands. -/
theorem aluBody_retires {e d a b lat : Nat} {chk : Bool} {f : Flags → Word → Word → Word × Flags} {s t : State}
    (hres : chk = true → active s e = .express ∨ s.flt.injRes ≠ some e) (h : SnapFrame e s t) :
    let c := ctx s e (active s e)
    let r := f c.flags (gr s e (active s e) a) (gr s e (active s e) b)
    let u := aluBody e d a b lat chk f (active s e) t
    IssueFrame e 1 (c.pc + 1) s u ∧ Writes e d lat r.1 r.2 s u := by
  intro c r u
  have hput : u = retireTo e (active s e) (c.pc + 1) 1 (putResult e (active s e) d lat r t) := by
    have hchk : when_ chk (residue e (active s e)) (putResult e (active s e) d lat r t) =
        putResult e (active s e) d lat r t := by
      cases chk with
      | false => rfl
      | true => exact residue_unaffected (putResult_flt.trans h.flt) (hres rfl)
    simp only [u, aluBody, retire, h.ctxs, h.gr]
    rw [hchk, putResult_ctx, h.ctxs]
  rw [hput]
  exact put_retire h

/-- What is kept for an express start that abandons a division (R109) does not meet its result. -/
theorem putResult_divSave {e d lat : Nat} {x : Ctx} {r : Word × Flags} {save : Option (CtxSt × Nat × Nat)} {s : State} :
    modShu e (fun u => { u with divSave := save }) (putResult e x d lat r s) =
      putResult e x d lat r (modShu e (fun u => { u with divSave := save }) s) := by
  cases x <;> simp [putResult, setFlags, setG, modCtx, modShu_modShu]

/-- A division keeps something for an express start, writes its result and retires. -/
theorem divBody_eq (e d a b : Nat) (f : Flags → Word → Word → Word × Flags) (x : Ctx) (s : State) :
    ∃ save, divBody e d a b f x s = retire e x 20 (modShu e (fun u => { u with divSave := save })
      (residue e x (putResult e x d 20 (f (ctx s e x).flags (gr s e x a) (gr s e x b)) s))) := ⟨_, rfl⟩

/-- A division writes the result and flags of its operands and holds the engine for 20 lc. -/
theorem divBody_retires {e d a b : Nat} {f : Flags → Word → Word → Word × Flags} {s t : State}
    (hres : active s e = .express ∨ s.flt.injRes ≠ some e) (h : SnapFrame e s t) :
    let c := ctx s e (active s e)
    let r := f c.flags (gr s e (active s e) a) (gr s e (active s e) b)
    let u := divBody e d a b f (active s e) t
    IssueFrame e 20 (c.pc + 1) s u ∧ Writes e d 20 r.1 r.2 s u := by
  intro c r u
  obtain ⟨save, hsave⟩ := divBody_eq e d a b f (active s e) t
  have hchk : residue e (active s e) (putResult e (active s e) d 20 r t) = putResult e (active s e) d 20 r t :=
    residue_unaffected (putResult_flt.trans h.flt) hres
  have hput : u = retireTo e (active s e) (c.pc + 1) 20
      (putResult e (active s e) d 20 r (modShu e (fun v => { v with divSave := save }) t)) := by
    rw [h.ctxs, h.gr, h.gr, hchk, putResult_divSave, retire, putResult_ctx, ctx_modShu (by intro; rfl) (by intro; rfl),
      h.ctxs] at hsave
    exact hsave
  rw [hput]
  exact put_retire (h.note (by intro; rfl) (by intro; rfl) (by intro; rfl) (by intro; rfl))

/-- An instruction that writes a register, leaves the flags and retires. -/
theorem setG_retire {e d lat occ pc : Nat} {v : Word} {s t : State} (h : SnapFrame e s t) :
    let u := retireTo e (active s e) pc occ (setG e (active s e) d v (t.time + lat) t)
    IssueFrame e occ pc s u ∧ Writes e d lat v (ctx s e (active s e)).flags s u := by
  intro u
  have hc : ctx (setG e (active s e) d v (t.time + lat) t) e (active s e) = { ctx s e (active s e) with
      g := (gset d v (ctx s e (active s e))).g, ready := tset (ctx s e (active s e)).ready d (s.time + lat)
      par := (ctx s e (active s e)).par.filter fun i => i != d } := by
    simp only [setG, ctx_modCtx_same, gset, h.ctxs, h.time]
    split <;> rfl
  refine ⟨issueFrame_retireTo (h.only.ctx _) (fun y hy => ?_) ⟨_, _, _, _, hc⟩ ?_, fun k => ?_, ?_, fun k => ?_⟩
  · simp only [setG, ctx_modCtx_other hy, h.ctxs]
  · simp [setG, h.eff]
  · have hget : gr u e (active s e) k = gget (gset d v (ctx s e (active s e))) k := by
      simp only [u, gr, retireTo_ctx_same, hc, gget]
    rw [hget, gget_gset]; rfl
  · simp only [u, retireTo_ctx_same, hc]
  · simp only [u, retireTo_ctx_same, hc]
    by_cases hk : k = d
    · simp [hk]
    · simp [hk, tget_tset_other _ _ _ hk]

/-! ### Instructions that take a slot -/

@[simp] theorem portUse_shu {e p d lat s} : (portUse e p d lat s).shu = s.shu := rfl
@[simp] theorem portUse_mem {e p d lat s} : (portUse e p d lat s).mem = s.mem := rfl
@[simp] theorem portUse_regs {e p d lat s} : (portUse e p d lat s).regs = s.regs := rfl
@[simp] theorem portUse_flt {e p d lat s} : (portUse e p d lat s).flt = s.flt := rfl
@[simp] theorem takeSlot_mem {e x lat held a s} : (takeSlot e x lat held a s).mem = s.mem := rfl
@[simp] theorem takeSlot_regs {e x lat held a s} : (takeSlot e x lat held a s).regs = s.regs := rfl
@[simp] theorem takeSlot_flt {e x lat held a s} : (takeSlot e x lat held a s).flt = s.flt := rfl
@[simp] theorem retire_mem {e x occ s} : (retire e x occ s).mem = s.mem := rfl
@[simp] theorem retire_regs {e x occ s} : (retire e x occ s).regs = s.regs := rfl
@[simp] theorem retire_flt {e x occ s} : (retire e x occ s).flt = s.flt := rfl

/-- An access that retires, in a state whose engines are those of `s` but for the snapshot and the slot taken. -/
theorem accessFrame_retire_slot {e lat held : Nat} {acc : Access} {s t u v : State} (h : SnapFrame e s t) (hu : u.shu = t.shu)
    (htime : u.time = s.time) (hv : v.shu = (takeSlot e (active s e) lat held acc u).shu) :
    AccessFrame e lat held acc [] s (retire e (active s e) 1 v) := by
  have hc : ∀ y, ctx u e y = ctx s e y := fun y => (ctx_eq_of_shu hu e y).trans (h.ctxs y)
  have hs : ctx v e (active s e) = { ctx s e (active s e) with
      slots := (ctx s e (active s e)).slots ++ [⟨(shuSt s e).slotId, s.time + lat, held, acc⟩] } := by
    rw [ctx_eq_of_shu hv, takeSlot_ctx_same, hc, htime, shuSt_eq_of_shu hu, h.slotId]
  unfold retire
  refine ⟨fun k hk => ?_, fun y hy => ?_, ?_, fun r => ?_, ?_, ?_, ?_⟩
  · rw [(retireTo_only (.refl v e)).2 k hk, shuSt_eq_of_shu hv]
    simp only [takeSlot, modCtx, shuSt_modShu_other _ _ hk, shuSt_eq_of_shu hu]
    exact h.only.2 k hk
  · rw [retireTo_ctx_other hy, ctx_eq_of_shu hv, takeSlot_ctx_other hy, hc]
  all_goals simp [gr, gget, retireTo_ctx_same, hs]

/-! ### Injected residue errors (R114, R602) -/

/-- An injected residue error that checking finds is noted in the run and in FSTS, and the injection ends (R114, R602). -/
theorem residue_injected {e : Nat} {s : State} (hinj : s.flt.injRes = some e) (hcheck : checkOn s = true) :
    residue e .normal s = modCtx e .normal (fun c => { c with err := true })
      (setb (Reg.shuFsts e) 5 true (modFlt (fun f => { f with injRes := none }) s)) := by
  have hcheck' : checkOn (modFlt (fun f => { f with injRes := none }) s) = true := hcheck
  simp only [residue, hinj, and_self, if_true, hcheck']

/-- An instruction of a normal task that retires with an injected residue error. -/
theorem residue_injected_retire {e : Fin 34} {occ : Nat} {s : State} (hinj : s.flt.injRes = some e.val)
    (hcheck : checkOn s = true) (q : Quiet s) :
    let u := retire e .normal occ (residue e .normal s)
    Quiet u ∧ (ctx u e .normal).err = true ∧ rb u (Reg.shuFsts e) 5 = true ∧ u.flt.injRes = none := by
  intro u
  let w := setb (Reg.shuFsts e) 5 true (modFlt (fun f => { f with injRes := none }) s)
  have hu : u = retire e .normal occ (modCtx e .normal (fun c => { c with err := true }) w) := by
    simp only [u, w, residue_injected hinj hcheck]
  have hregs : u.regs = w.regs := by rw [hu, retire_regs, modCtx_regs]
  have hflt : u.flt = { s.flt with injRes := none } := by
    rw [hu, retire_flt, modCtx_flt, setb_flt]
    rfl
  have hother : Reg.chgSts ≠ Reg.shuFsts e := by
    unfold Reg.chgSts Reg.shuFsts
    omega
  refine ⟨q.of_eq (by rw [hflt]) ?_, ?_, ?_, ?_⟩
  · calc rget u Reg.chgSts = rget w Reg.chgSts := by simp only [rget, hregs]
      _ = rget s Reg.chgSts := rget_setb_other hother
  · rw [hu, retire, retireTo_ctx_same, ctx_modCtx_same]
  · calc rb u (Reg.shuFsts e) 5 = rb w (Reg.shuFsts e) 5 := by simp only [rb, rget, hregs]
      _ = true := rb_setb_same (by decide)
  · rw [hflt]

end Sys2Proof.Machine
end

section
/-!
PROOFS. Divisions and phase arithmetic of the shuttle engines (03_shuttle_engines.md R89, R90).
-/

namespace Sys2Proof.Machine

/-! ### Divisions (R89) -/

/-- The value and V of DIVU. -/
theorem divuFlags_spec (f : Flags) (x y : Word) : ∃ o,
    (divuFlags f x y).2 = { flagsNZ f (divuFlags f x y).1 with v := o } ∧
    if y = 0 then (divuFlags f x y).1 = 0xFFFFFFFF#32 ∧ o = true
    else (divuFlags f x y).1.toNat = x.toNat / y.toNat ∧ o = false := by
  unfold divuFlags
  by_cases hy : y = 0#32
  · exact ⟨true, by simp [hy]⟩
  · have hlt : x.toNat / y.toNat < 2 ^ 32 := Nat.lt_of_le_of_lt (Nat.div_le_self _ _) x.isLt
    exact ⟨false, by simpa [hy, wd] using hlt⟩

/-- A quotient truncated toward zero fits into a word, but for the one that overflows. -/
theorem toInt_ofInt_tdiv {x y : Word} (hover : ¬(x = 0x80000000#32 ∧ y = 0xFFFFFFFF#32)) :
    (BitVec.ofInt 32 (Int.tdiv x.toInt y.toInt)).toInt = Int.tdiv x.toInt y.toInt := by
  rw [BitVec.toInt_ofInt, ← BitVec.toInt_sdiv, BitVec.toInt_sdiv_of_ne_or_ne x y (Decidable.not_and_iff_not_or_not.1 hover)]

/-- The value and V of DIVS: the cases of R89, and the truncated quotient. -/
theorem divsFlags_spec (f : Flags) (x y : Word) : ∃ o,
    (divsFlags f x y).2 = { flagsNZ f (divsFlags f x y).1 with v := o } ∧
    if y = 0 ∧ 0 ≤ x.toInt then (divsFlags f x y).1 = 0x7FFFFFFF#32 ∧ o = true
    else if y = 0 then (divsFlags f x y).1 = 0x80000000#32 ∧ o = true
    else if x = 0x80000000#32 ∧ y.toInt = -1 then (divsFlags f x y).1 = 0x7FFFFFFF#32 ∧ o = true
    else (divsFlags f x y).1.toInt = Int.tdiv x.toInt y.toInt ∧ o = false := by
  have hminus : y.toInt = -1 ↔ y = 0xFFFFFFFF#32 :=
    ⟨fun h => BitVec.eq_of_toInt_eq h, fun h => h ▸ rfl⟩
  have hsign : 0 ≤ x.toInt ↔ x.msb = false := by
    rw [← Bool.not_eq_true, BitVec.msb_eq_toInt]; simp
  unfold divsFlags
  by_cases hy : y = 0#32
  · cases hx : x.msb <;> exact ⟨true, by simp [hy, hsign, hx]⟩
  · by_cases hover : x = 0x80000000#32 ∧ y = 0xFFFFFFFF#32
    · exact ⟨true, by simp [hover]⟩
    · exact ⟨false, by simp [hy, hminus, hover, toInt_ofInt_tdiv hover]⟩

theorem exec_aluDivu (e : Fin 34) (d a b : Fin 16) (s : State) :
    exec (.aluDivu e d a b) s = issue e (.aluDivu e d a b) [d, a, b] 1 0 false (divBody e d a b divuFlags) s := rfl

theorem exec_aluDivs (e : Fin 34) (d a b : Fin 16) (s : State) :
    exec (.aluDivs e d a b) s = issue e (.aluDivs e d a b) [d, a, b] 1 0 false (divBody e d a b divsFlags) s := rfl

/-- Settles O26: a division that issues writes what its function of the operands gives, held for 20 lc. -/
theorem shuttleDivision : Obligations.ShuttleDivision := by
  unfold Obligations.ShuttleDivision
  constructor <;> intro e d a b s x y f h q hres
  · rw [exec_aluDivu]
    refine issue_frame rfl h q fun t ht => ?_
    obtain ⟨hframe, hwrites⟩ := divBody_retires (f := divuFlags) hres ht
    obtain ⟨o, hflags, hcases⟩ := divuFlags_spec f x y
    exact ⟨hframe, _, o, hflags ▸ hwrites, hcases⟩
  · rw [exec_aluDivs]
    refine issue_frame rfl h q fun t ht => ?_
    obtain ⟨hframe, hwrites⟩ := divBody_retires (f := divsFlags) hres ht
    obtain ⟨o, hflags, hcases⟩ := divsFlags_spec f x y
    exact ⟨hframe, _, o, hflags ▸ hwrites, hcases⟩

/-! ### Phases (R90) -/

/-- PADD adds the phases modulo 2^24, with C the carry out of the phase. -/
theorem paddFlags_spec (f : Flags) (x y : Word) :
    (paddFlags f x y).1.toNat = (x.toNat % 2 ^ 24 + y.toNat % 2 ^ 24) % 2 ^ 24 ∧
    (paddFlags f x y).2 = { f with
      c := decide (2 ^ 24 ≤ x.toNat % 2 ^ 24 + y.toNat % 2 ^ 24), z := decide ((paddFlags f x y).1 = 0) } := by
  refine ⟨?_, by simp only [paddFlags, fld_zero]⟩
  simp only [paddFlags, fld_zero, wd, BitVec.toNat_ofNat]
  omega

/-- A number of 24 bits as a signed one fits into a word. -/
theorem toInt_ofInt_toSigned_24 (r : Nat) : (BitVec.ofInt 32 (toSigned 24 r)).toInt = toSigned 24 r := by
  rw [BitVec.toInt_ofInt, toSigned]
  split <;> rw [Int.bmod_eq_of_le] <;> omega

/-- A signed number of 24 bits lies from -2^23 to 2^23 - 1 and is congruent to the number. -/
theorem toSigned_24_range (r : Nat) :
    -2 ^ 23 ≤ toSigned 24 r ∧ toSigned 24 r < 2 ^ 23 ∧ (toSigned 24 r - r) % 2 ^ 24 = 0 := by
  unfold toSigned
  split <;> omega

/-- PDIF subtracts the phases as a signed number congruent to the difference. -/
theorem pdifFlags_spec (f : Flags) (x y : Word) :
    let v := (pdifFlags f x y).1;
    -2 ^ 23 ≤ v.toInt ∧ v.toInt < 2 ^ 23 ∧
    (v.toInt - ((x.toNat % 2 ^ 24 : Nat) - (y.toNat % 2 ^ 24 : Nat) : Int)) % 2 ^ 24 = 0 ∧
    (pdifFlags f x y).2 = { f with n := v.msb, z := decide (v = 0) } := by
  have hrange := toSigned_24_range ((x.toNat % 2 ^ 24 + 2 ^ 24 - y.toNat % 2 ^ 24) % 2 ^ 24)
  simp only [pdifFlags, fld_zero, toInt_ofInt_toSigned_24]
  refine ⟨hrange.1, hrange.2.1, ?_, rfl⟩
  omega

theorem exec_padd (e : Fin 34) (d a b : Fin 16) (s : State) :
    exec (.padd e d a b) s = issue e (.padd e d a b) [d, a, b] 1 0 false (aluBody e d a b 1 true paddFlags) s := rfl

theorem exec_pdif (e : Fin 34) (d a b : Fin 16) (s : State) :
    exec (.pdif e d a b) s = issue e (.pdif e d a b) [d, a, b] 1 0 false (aluBody e d a b 1 true pdifFlags) s := rfl

/-- Settles O27: PADD and PDIF write what their functions of the two phases give. -/
theorem shuttlePhaseArithmetic : Obligations.ShuttlePhaseArithmetic := by
  unfold Obligations.ShuttlePhaseArithmetic
  constructor <;> intro e d a b s x y f h q hres
  · rw [exec_padd]
    refine issue_frame rfl h q fun t ht => ?_
    obtain ⟨hframe, hwrites⟩ := aluBody_retires (f := paddFlags) (fun _ => hres) ht
    obtain ⟨hvalue, hflags⟩ := paddFlags_spec f x y
    exact ⟨hframe, _, hvalue, hflags ▸ hwrites⟩
  · rw [exec_pdif]
    refine issue_frame rfl h q fun t ht => ?_
    obtain ⟨hframe, hwrites⟩ := aluBody_retires (f := pdifFlags) (fun _ => hres) ht
    obtain ⟨hlow, hhigh, hcongr, hflags⟩ := pdifFlags_spec f x y
    exact ⟨hframe, _, hlow, hhigh, hcongr, hflags ▸ hwrites⟩

end Sys2Proof.Machine
end

section
/-!
PROOFS. Conditions and control transfers of the shuttle engines (03_shuttle_engines.md R86, R87, R118).
-/

namespace Sys2Proof.Machine

/-! ### Conditions (R87) -/

/-- The condition table, read off at each of the sixteen codes. -/
theorem condHolds_table (f : Flags) :
    condHolds 0 f = true ∧ condHolds 1 f = f.z ∧ condHolds 2 f = !f.z ∧ condHolds 3 f = decide (f.n ≠ f.v) ∧
    condHolds 4 f = decide (f.n = f.v) ∧ condHolds 5 f = decide (f.z ∨ f.n ≠ f.v) ∧ condHolds 6 f = decide (f.z = false ∧ f.n = f.v) ∧
    condHolds 7 f = !f.c ∧ condHolds 8 f = f.c ∧ condHolds 9 f = decide (f.c = false ∨ f.z) ∧
    condHolds 10 f = decide (f.c ∧ f.z = false) ∧ condHolds 11 f = f.n ∧ condHolds 12 f = !f.n ∧ condHolds 13 f = f.v ∧
    condHolds 14 f = !f.v ∧ condHolds 15 f = false := by
  obtain ⟨n, z, c, v⟩ := f
  revert n z c v
  decide

/-- The opcode of a word is its top field. -/
theorem shuOpcode_of_extract {w : BitVec 32} {k : BitVec 6} (h : w.extractLsb' 26 6 = k) : shuOpcode w = k.toNat := by
  have hlt := w.isLt
  rw [← h, BitVec.extractLsb'_toNat, Nat.shiftRight_eq_div_pow, shuOpcode]
  omega

theorem shuCond_extract (w : BitVec 32) : shuCond w = w.extractLsb' 22 4 := by
  simp [shuCond, BitVec.extractLsb', Nat.shiftRight_eq_div_pow]

theorem shuSelCond_extract (w : BitVec 32) : shuSelCond w = w.extractLsb' 0 4 := by
  simp [shuSelCond, BitVec.extractLsb']

theorem shuImm14_extract (w : BitVec 32) : shuImm14 w = w.extractLsb' 0 14 := by
  simp [shuImm14, BitVec.extractLsb']

theorem shuDecode_br {e : Fin 34} {w : BitVec 32} (h : w.extractLsb' 26 6 = 0x2D#6) :
    shuDecode e w = .br e (w.extractLsb' 22 4) (w.extractLsb' 0 14) := by
  simp [shuDecode, shuOpcode_of_extract h, shuCond_extract, shuImm14_extract]

theorem shuDecode_sel {e : Fin 34} {w : BitVec 32} (h : w.extractLsb' 26 6 = 0x1C#6) :
    shuDecode e w = .sel e (shuD w) (shuA w) (shuB w) (w.extractLsb' 0 4) := by
  simp [shuDecode, shuOpcode_of_extract h, shuSelCond_extract]

/-! ### Branches (R86, R88, R118) -/

/-- The instruction at which BR goes on where its condition holds, whether or not the bank has it. -/
def brTarget (pc : Nat) (imm : BitVec 14) : Int := pc + (sext14 imm).toInt

theorem brTarget_eq (pc : Nat) (imm : BitVec 14) : brTarget pc imm = pc + imm.toInt :=
  congrArg ((pc : Int) + ·) (BitVec.toInt_signExtend_of_le (by decide))

/-- What BR does. -/
def brBody (e : Nat) (cond : BitVec 4) (imm : BitVec 14) (x : Ctx) (s : State) : State :=
  if !condHolds cond (ctx s e x).flags then retire e x 1 s
  else if brTarget (ctx s e x).pc imm < 0 ∨ 2047 < brTarget (ctx s e x).pc imm then taskFault e 5 0 s
  else retireTo e x (brTarget (ctx s e x).pc imm).toNat 2 s

theorem exec_br (e : Fin 34) (cond : BitVec 4) (imm : BitVec 14) (s : State) :
    exec (.br e cond imm) s = issue e (.br e cond imm) [flagsNo] 0 0 false (brBody e cond imm) s := rfl

theorem exec_sel (e : Fin 34) (d a b : Fin 16) (cond : BitVec 4) (s : State) :
    exec (.sel e d a b cond) s = issue e (.sel e d a b cond) [d, a, b, flagsNo] 1 0 false
      (aluBody e d a b 1 false fun f u v => (if condHolds cond f then u else v, f)) s := rfl

theorem exec_jmp (e : Fin 34) (imm : BitVec 18) (s : State) :
    exec (.jmp e imm) s = issue e (.jmp e imm) [] 0 0 false (fun x => retireTo e x (imm.toNat % 2048) 2) s := rfl

theorem exec_jal (e : Fin 34) (d : Fin 16) (imm : BitVec 18) (s : State) :
    exec (.jal e d imm) s = issue e (.jal e d imm) [d] 1 0 false
      (fun x s => retireTo e x (imm.toNat % 2048) 2 (setG e x d (wd ((ctx s e x).pc + 1)) (s.time + 2) s)) s := rfl

theorem exec_jr (e : Fin 34) (a : Fin 16) (s : State) :
    exec (.jr e a) s = issue e (.jr e a) [a] 0 0 false (fun x s => retireTo e x (fld (gr s e x a) 0 11) 2 s) s := rfl

/-- BR whose condition fails retires and does nothing else. -/
theorem brBody_not_taken {e : Nat} {cond : BitVec 4} {imm : BitVec 14} {s t : State} (h : SnapFrame e s t)
    (hcond : condHolds cond (ctx s e (active s e)).flags = false) :
    brBody e cond imm (active s e) t = retireTo e (active s e) ((ctx s e (active s e)).pc + 1) 1 t := by
  simp [brBody, h.ctxs, hcond, retire]

/-- BR to an instruction of the bank goes on there. -/
theorem brBody_taken {e k : Nat} {cond : BitVec 4} {imm : BitVec 14} {s t : State} (h : SnapFrame e s t)
    (hcond : condHolds cond (ctx s e (active s e)).flags = true) (hk : k < 2048)
    (htarget : (k : Int) = (ctx s e (active s e)).pc + imm.toInt) :
    brBody e cond imm (active s e) t = retireTo e (active s e) k 2 t := by
  have hin : ¬((k : Int) < 0 ∨ (2047 : Int) < k) := by omega
  simp only [brBody, brTarget_eq, h.ctxs, hcond, ← htarget, hin, Bool.not_true, Bool.false_eq_true, if_false, Int.toNat_natCast]

/-- BR out of the bank is a task fault. -/
theorem brBody_outside {e : Nat} {cond : BitVec 4} {imm : BitVec 14} {s t : State} (h : SnapFrame e s t)
    (hcond : condHolds cond (ctx s e (active s e)).flags = true)
    (hout : ((ctx s e (active s e)).pc : Int) + imm.toInt < 0 ∨ 2048 ≤ ((ctx s e (active s e)).pc : Int) + imm.toInt) :
    brBody e cond imm (active s e) t = taskFault e 5 0 t := by
  have hout' : ((ctx s e (active s e)).pc : Int) + imm.toInt < 0 ∨ 2047 < ((ctx s e (active s e)).pc : Int) + imm.toInt := by
    omega
  simp [brBody, brTarget_eq, h.ctxs, hcond, hout']

/-- Settles O28: the condition table and its place in the words, then each transfer by what its meaning leaves. -/
theorem shuttleBranches : Obligations.ShuttleBranches := by
  unfold Obligations.ShuttleBranches
  refine ⟨condHolds_table, fun e w => ⟨shuDecode_br, fun h => ⟨_, _, _, shuDecode_sel h⟩⟩, ?sel, ?notTaken, ?taken, ?outside,
    ?jmp, ?jal, ?jr⟩
  case sel =>
    intro e d a b c s x y f h q
    rw [exec_sel]
    exact issue_frame rfl h q fun t ht => aluBody_retires (by simp) ht
  case notTaken =>
    intro e c imm s f h q hcond
    rw [exec_br]
    refine issue_frame rfl h q fun t ht => ?_
    rw [brBody_not_taken ht hcond]
    exact only_retire ht
  case taken =>
    intro e c imm k s f h q hcond hk htarget
    rw [exec_br]
    refine issue_frame rfl h q fun t ht => ?_
    rw [brBody_taken ht hcond hk htarget]
    exact only_retire ht
  case outside =>
    intro e c imm s h hcond hout
    rw [exec_br, issue_issues rfl h, brBody_outside (expressSnap_frame e (active s e) s) hcond hout]
  case jmp =>
    intro e imm s f h q
    rw [exec_jmp]
    exact issue_frame rfl h q fun t ht => only_retire ht
  case jal =>
    intro e d imm s f h q
    rw [exec_jal]
    refine issue_frame rfl h q fun t ht => ?_
    rw [ht.ctxs]
    exact setG_retire ht
  case jr =>
    intro e a s f h q
    rw [exec_jr]
    refine issue_frame rfl h q fun t ht => ?_
    rw [ht.gr, fld_zero]
    exact only_retire ht

end Sys2Proof.Machine
end

section
/-!
PROOFS. The context of a normal task at its first instruction (03_shuttle_engines.md R83, R84): at its start and at its
re-execution.
-/

namespace Sys2Proof.Machine

/-- What R83 and R84 say of a normal context at the first instruction of a task of descriptor `d`, whose words ENTRY and FRAME
are `w1` and `w2`. -/
def AtFirstInstruction (d : Nat) (w1 w2 : Word) (c : CtxSt) : Prop :=
  (∀ r, r < 14 → gget c r = 0) ∧ gget c 14 = wd (d % 4096) ∧ gget c 15 = w2 ∧ c.flags = {} ∧ c.sig = 0 ∧
    c.w = 0xFFFFFFFF#32 ∧ c.pc = w1.toNat % 2048

/-- A run begins so, whatever access slots and live time its context keeps. -/
theorem beginRun_atFirstInstruction (d : Nat) (w1 w2 : Word) (now : Nat) (rerun : Bool) (slots : List Slot) (liveT : Nat) :
    AtFirstInstruction d w1 w2 { beginRun d w1 w2 [] now rerun with slots := slots, liveT := liveT } := by
  have hg : ∀ r, r < 14 → tget 0 [(14, wd (d % 4096)), (15, w2)] r = 0 := fun r hr => by
    simp [tget, hr, Nat.ne_of_lt hr]
  refine ⟨fun r hr => ?_, rfl, rfl, rfl, rfl, rfl, fld_zero w1 11⟩
  simp only [gget, beginRun, List.nil_append, hg r hr, ite_self]

/-! ### The tables of the engines under writes of registers -/

@[simp] theorem shuSt_setf {a lo n x s k} : shuSt (setf a lo n x s) k = shuSt s k := rfl
@[simp] theorem shuSt_setb {a i b s k} : shuSt (setb a i b s) k = shuSt s k := shuSt_eq_of_shu setb_shu k
@[simp] theorem shuSt_count {a s k} : shuSt (count a s) k = shuSt s k := rfl
@[simp] theorem shuSt_modEng {j g s k} : shuSt (modEng j g s) k = shuSt s k := rfl
@[simp] theorem engSt_modShu {j g s k} : engSt (modShu j g s) k = engSt s k := rfl
@[simp] theorem engSt_setf {a lo n x s k} : engSt (setf a lo n x s) k = engSt s k := rfl
@[simp] theorem engSt_setb {a i b s k} : engSt (setb a i b s) k = engSt s k := by simp [engSt]

/-! ### TASK_START (R57, R83) -/

section
variable {e d : Nat} {rest : List Nat} {s : State} (hdue : (engSt s e).due = d :: rest)
include hdue

theorem startTask_normal : ctx (startTask e s) e .normal =
    { beginRun d (tget 0 s.shed.table (4 * d + 1)) (tget 0 s.shed.table (4 * d + 2)) [] s.time false with
      slots := storeSlots (ctx s e .normal).slots, liveT := (ctx s e .normal).liveT } := by
  simp [startTask, hdue, ctx, setEsts]

theorem startTask_express : ctx (startTask e s) e .express = ctx s e .express := by
  simp [startTask, hdue, ctx, setEsts]

theorem startTask_issueAt : (shuSt (startTask e s) e).issueAt = s.time := by
  simp [startTask, hdue, setEsts]

theorem startTask_due : (engSt (startTask e s) e).due = rest := by
  simp [startTask, hdue, setEsts]

theorem startTask_mem : (startTask e s).mem = s.mem := by
  simp [startTask, hdue, setEsts]

theorem startTask_flt : (startTask e s).flt = s.flt := by
  simp [startTask, hdue, setEsts]

/-- The registers change in ENG[e].ESTS alone. -/
theorem startTask_rget_other {a : Nat} (ha : a ≠ Reg.engEsts e) : rget (startTask e s) a = rget s a := by
  simp only [startTask, hdue]
  exact (rget_setb_other ha).trans (rget_setf_other ha)

/-- ESTS.STATE becomes 1 (R80). -/
theorem startTask_state : rf (startTask e s) (Reg.engEsts e) 0 3 = 1 := by
  have hword : rget (startTask e s) (Reg.engEsts e) =
      setBit (setFld (rget s (Reg.engEsts e)) 0 3 1) 11 (decide (d / 4096 = 1)) := by
    simp only [startTask, hdue]
    exact rget_setb_same.trans (congrArg (setBit · 11 _) rget_setf_same)
  rw [rf, hword, setBit, fld_setFld_other (by decide) (by decide)]
  exact fld_setFld_same (by decide)

end

/-- The start of a task leaves a quiet state quiet. -/
theorem startTask_quiet {e : Fin 34} {d : Nat} {rest : List Nat} {s : State} (hdue : (engSt s e).due = d :: rest)
    (q : Quiet s) : Quiet (startTask e s) := by
  have hother : Reg.chgSts ≠ Reg.engEsts e := by
    unfold Reg.chgSts Reg.engEsts
    omega
  exact q.of_eq (by rw [startTask_flt hdue]) (startTask_rget_other hdue hother)

/-- TASK_START with all that it waits for gives the engine its next task. -/
theorem exec_taskStart_now {e : Fin 34} {d : Nat} {rest : List Nat} {s : State} (hdue : (engSt s e).due = d :: rest)
    (hready : (engSt s e).readyAt ≤ s.time) (hopen : engOpen s e = true) (hidle : expressIdle s e = true)
    (htask : (ctx s e .normal).task = none) (q : Quiet s) : exec (.taskStart e) s = .next (startTask e s) := by
  have hnow : execTaskStart e s = .next (settle (startTask e s)) := atTime_now hready (by simp [hopen, hidle, htask, hdue])
  rw [settle_quiet (startTask_quiet hdue q)] at hnow
  exact hnow

/-! ### Re-execution (R116) -/

/-- A task that is executed again begins anew in its context. -/
theorem reexecute_normal (e : Nat) (r : Run) (s : State) : ctx (reexecute e r s) e .normal =
    { beginRun r.desc (tget 0 s.shed.table (4 * r.desc + 1)) (tget 0 s.shed.table (4 * r.desc + 2)) [] (s.time + 3) true with
      slots := [], liveT := (ctx s e .normal).liveT } := by
  simp [reexecute, ctx, beginRun]

/-- Settles O38: both forms begin a run in the context, and a run begins as R83 and R84 say. -/
theorem taskContext : Obligations.TaskContext := by
  unfold Obligations.TaskContext
  refine ⟨fun e d rest s hdue hready hopen hidle htask q => ?_, fun e r s => ?_⟩
  · refine ⟨_, exec_taskStart_now hdue hready hopen hidle htask q, startTask_due hdue, startTask_issueAt hdue,
      startTask_mem hdue, startTask_express hdue, startTask_state hdue, ?_⟩
    simp only [gr, startTask_normal hdue]
    exact beginRun_atFirstInstruction ..
  · simp only [gr, reexecute_normal]
    exact beginRun_atFirstInstruction ..

end Sys2Proof.Machine
end

section
/-!
PROOFS. LERP and FENCE of the shuttle engines (03_shuttle_engines.md R86, R91, R94, R108, R114).
-/

namespace Sys2Proof.Machine

/-! ### The interpolated value (R108) -/

/-- A part `f` of `2 h` of a difference, rounded, lies between 0 and the difference. -/
theorem rounded_part_between {D f h : Int} (hh : 0 < h) (hf : 0 ≤ f) (hlt : f < 2 * h) :
    min 0 D ≤ (D * f + h) / (2 * h) ∧ (D * f + h) / (2 * h) ≤ max 0 D := by
  have hpos : 0 < 2 * h := by omega
  rcases Int.le_total 0 D with hD | hD
  · have hle : D * f ≤ D * (2 * h) := Int.mul_le_mul_of_nonneg_left (Int.le_of_lt hlt) hD
    have hnonneg : 0 ≤ D * f := Int.mul_nonneg hD hf
    have hlow : 0 ≤ (D * f + h) / (2 * h) := Int.ediv_nonneg (by omega) (by omega)
    have hhigh : (D * f + h) / (2 * h) < D + 1 := (Int.ediv_lt_iff_lt_mul hpos).2 (by rw [Int.add_mul]; omega)
    omega
  · have hle : D * (2 * h) ≤ D * f := Int.mul_le_mul_of_nonpos_left hD (Int.le_of_lt hlt)
    have hnonpos : D * f ≤ 0 := Int.mul_nonpos_of_nonpos_of_nonneg hD hf
    have hlow : D ≤ (D * f + h) / (2 * h) := (Int.le_ediv_iff_mul_le hpos).2 (by omega)
    have hhigh : (D * f + h) / (2 * h) < 1 := (Int.ediv_lt_iff_lt_mul hpos).2 (by omega)
    omega

/-- The interpolated value lies between the samples, and so fits into a word. -/
theorem lerpValue_spec (y0 y1 : Word) {f m : Nat} (hm : 1 ≤ m) (hf : f < 2 ^ m) :
    let v := lerpValue y0 y1 f m
    v.toInt = y0.toInt + ((y1.toInt - y0.toInt) * f + 2 ^ (m - 1)) / 2 ^ m ∧
      min y0.toInt y1.toInt ≤ v.toInt ∧ v.toInt ≤ max y0.toInt y1.toInt := by
  have hpos : ∀ k : Nat, (0 : Int) < 2 ^ k := fun k => Int.pow_pos (by decide)
  have hpow : (2 : Int) ^ m = 2 * 2 ^ (m - 1) := by
    obtain ⟨k, rfl⟩ := Nat.exists_eq_add_of_le' hm
    exact (Int.pow_succ 2 k).trans (Int.mul_comm _ _)
  have hlt : (f : Int) < 2 * 2 ^ (m - 1) := by rw [← hpow]; exact_mod_cast hf
  obtain ⟨hlow, hhigh⟩ := rounded_part_between (D := y1.toInt - y0.toInt) (hpos (m - 1)) (Int.natCast_nonneg f) hlt
  rw [← hpow] at hlow hhigh
  have hfits : (lerpValue y0 y1 f m).toInt = y0.toInt + ((y1.toInt - y0.toInt) * f + 2 ^ (m - 1)) / 2 ^ m := by
    have hbounds0 : -2 ^ 31 ≤ y0.toInt ∧ y0.toInt < 2 ^ 31 := ⟨y0.le_toInt, y0.toInt_lt⟩
    have hbounds1 : -2 ^ 31 ≤ y1.toInt ∧ y1.toInt < 2 ^ 31 := ⟨y1.le_toInt, y1.toInt_lt⟩
    rw [lerpValue, Int.fdiv_eq_ediv_of_nonneg _ (Int.le_of_lt (hpos m)), BitVec.toInt_ofInt_eq_self (by decide)] <;> omega
  refine ⟨hfits, ?_⟩
  rw [hfits]
  omega

/-! ### The cases of LERP -/

/-- A load is refused at a misaligned address, then at one outside the stores of shuttles (R91 to R93). -/
theorem memFault_load {s : State} {ea n : Nat} :
    memFault s ea n false = if ea % n ≠ 0 then some 3 else if shuAddr ea = false then some 4 else none := by
  simp [memFault]

theorem memFault_load_fine {s : State} {ea n : Nat} (haligned : ea % n = 0) (haddr : shuAddr ea = true) :
    memFault s ea n false = none := by
  simp [memFault_load, haligned, haddr]

/-- The second sample of LERP lies a number of words from the first. -/
theorem toNat_add_word_mod (g : Word) (i : Nat) : (g + wd (4 * i)).toNat % 4 = g.toNat % 4 := by
  simp only [wd, BitVec.toNat_add, BitVec.toNat_ofNat]
  omega

theorem exec_lerp (e : Fin 34) (d a b : Fin 16) (imm : BitVec 14) (s : State) :
    exec (.lerp e d a b imm) s = execLerp e d a b imm s := rfl

/-- The slots and requests of LERP with its samples at `p0` and `p1` and its value `v` at hand. -/
def lerpSlots (e d : Nat) (x : Ctx) (p0 p1 : Nat) (v : Word) (s : State) : State :=
  portUse e p1 1 8 (portUse e p0 0 9 (takeSlot e x 9 2 (.load [(d, v)]) (touchBank p1 (touchBank p0 s))))

/-- LERP with its samples at hand: it takes its slots, has its result checked and retires. -/
def lerpTaken (e d : Nat) (x : Ctx) (p0 p1 : Nat) (v : Word) (s : State) : State :=
  retire e x 1 (residue e x (lerpSlots e d x p0 p1 v s))

/-- A sample of LERP at `p`, as port A reads it once both banks have been accessed (R372). -/
def lerpSample (e p0 p1 p : Nat) (s : State) : Word := wd (portN (.shuttle e) (touchBank p1 (touchBank p0 s)) p 4)

section
variable {e : Fin 34} {d a b : Fin 16} {imm : BitVec 14} {s : State} (h : Issues e (.lerp e d a b imm) s)
include h

/-- A table of one segment, or of more than 2^16, is a reserved encoding: task fault 2 (R108). -/
theorem exec_lerp_segments_fault (hk : imm.toNat % 32 = 0 ∨ 16 < imm.toNat % 32) :
    exec (.lerp e d a b imm) s = .next (settle (taskFault e 2 0 (expressSnap e (active s e) s))) := by
  rw [exec_lerp, execLerp, issue_issues rfl h]
  simp only [hk, if_true]

variable (hk : ¬(imm.toNat % 32 = 0 ∨ 16 < imm.toNat % 32)) {ad : Nat × Nat}
  (had : lerpAddrs (gr s e (active s e) a) ((gr s e (active s e) b).toNat % 2 ^ 24) (imm.toNat % 32) (imm.getLsbD 5) = ad)
include hk had

/-- A first sample that may not be loaded is the task fault of its address. -/
theorem exec_lerp_first_fault {c : Nat} (hfault : memFault s ad.1 4 false = some c) :
    exec (.lerp e d a b imm) s = .next (settle (taskFault e c ad.1 (expressSnap e (active s e) s))) := by
  have f := expressSnap_frame e (active s e) s
  rw [exec_lerp, execLerp, issue_issues rfl h]
  rw [memFault_load] at hfault
  simp only [hk, if_false, fld_zero, f.gr, had, memFault_load, hfault]

/-- A second sample that may not be loaded, the first fine, is the task fault of its address. -/
theorem exec_lerp_second_fault {c : Nat} (hfirst : memFault s ad.1 4 false = none) (hfault : memFault s ad.2 4 false = some c) :
    exec (.lerp e d a b imm) s = .next (settle (taskFault e c ad.2 (expressSnap e (active s e) s))) := by
  have f := expressSnap_frame e (active s e) s
  rw [exec_lerp, execLerp, issue_issues rfl h]
  rw [memFault_load] at hfault hfirst
  simp only [hk, if_false, fld_zero, f.gr, had, memFault_load, hfault, hfirst]

/-- With both samples in stores without error marks, their banks taking another access, LERP takes its slots with the value
that the two interpolate to. -/
theorem exec_lerp_taken (hfirst : memFault s ad.1 4 false = none) (hsecond : memFault s ad.2 4 false = none)
    (hmarks : s.store.marks = []) {p0 p1 : Nat} (hp0 : shuPhysical s (runBank (ctx s e (active s e))) ad.1 = p0)
    (hp1 : shuPhysical s (runBank (ctx s e (active s e))) ad.2 = p1) (hfull0 : bankFull s p0 = false)
    (hfull1 : bankFull s p1 = false) :
    ∃ t, SnapFrame e s t ∧ exec (.lerp e d a b imm) s = .next (settle (lerpTaken e d (active s e) p0 p1
      (lerpValue (lerpSample e p0 p1 p0 t) (lerpSample e p0 p1 p1 t)
        ((gr s e (active s e) b).toNat % 2 ^ 24 % 2 ^ (24 - imm.toNat % 32)) (24 - imm.toNat % 32)) t)) := by
  have f := expressSnap_frame e (active s e) s
  rw [exec_lerp, execLerp, issue_issues rfl h]
  refine ⟨_, f, ?_⟩
  generalize expressSnap e (active s e) s = t at f
  have hphys : ∀ k p, shuPhysical t k p = shuPhysical s k p := fun k p => by rw [f.only.1]; rfl
  have hfull : ∀ p, bankFull t p = bankFull s p := fun p => by rw [f.only.1]; rfl
  have hclean : t.store.marks = [] := by rw [f.store]; exact hmarks
  have hread0 : checkRead (.shuttle e) p0 4 t = (false, touchBank p0 t) := checkRead_clean hclean
  have hread1 : checkRead (.shuttle e) p1 4 (touchBank p0 t) = (false, touchBank p1 (touchBank p0 t)) := checkRead_clean hclean
  rw [memFault_load] at hfirst hsecond
  simp only [hk, if_false, fld_zero, f.gr, had, memFault_load, hfirst, hsecond, f.ctxs, hphys, hp0, hp1, hread0, hread1, hfull,
    hfull0, hfull1, Bool.or_self, Bool.false_eq_true]
  rfl

end

/-- A sample of a store without error marks that port B does not write in the cycle is the word that stands there. -/
theorem lerpSample_clean {e p0 p1 p : Nat} {s t : State} (h : SnapFrame e s t) (hmarks : s.store.marks = [])
    (hport : (cycNow s).byB = []) : lerpSample e p0 p1 p t = wd (loaded s p 4) := by
  have hcyc : cycNow t = cycNow s := by rw [h.only.1]; rfl
  have hclean : t.store.marks = [] := by rw [h.store]; exact hmarks
  have hother : otherPort (.shuttle e) (touchBank p1 (touchBank p0 t)) = [] := by
    simp [otherPort, Reader.portA, hcyc, hport]
  rw [lerpSample, portN_clean (by simpa using hclean) hother]
  simp [loaded, h.mem]

/-! ### What LERP leaves -/

theorem lerpSlots_shu {e d : Nat} {x : Ctx} {p0 p1 : Nat} {v : Word} {s : State} : (lerpSlots e d x p0 p1 v s).shu =
    (takeSlot e x 9 2 (.load [(d, v)]) (touchBank p1 (touchBank p0 s))).shu := by simp [lerpSlots]

theorem lerpSlots_mem {e d : Nat} {x : Ctx} {p0 p1 : Nat} {v : Word} {s : State} :
    (lerpSlots e d x p0 p1 v s).mem = s.mem := by simp [lerpSlots]

theorem lerpSlots_regs {e d : Nat} {x : Ctx} {p0 p1 : Nat} {v : Word} {s : State} :
    (lerpSlots e d x p0 p1 v s).regs = s.regs := by simp [lerpSlots]

theorem lerpSlots_flt {e d : Nat} {x : Ctx} {p0 p1 : Nat} {v : Word} {s : State} :
    (lerpSlots e d x p0 p1 v s).flt = s.flt := by simp [lerpSlots]

/-- Where no residue error is noted, LERP takes its slots and leaves memory, registers and a quiet state as they are. -/
theorem lerpTaken_frame {e d p0 p1 : Nat} {v : Word} {s t : State} (h : SnapFrame e s t)
    (hres : active s e = .express ∨ s.flt.injRes ≠ some e) (q : Quiet s) :
    let u := lerpTaken e d (active s e) p0 p1 v t
    Quiet u ∧ u.mem = s.mem ∧ u.regs = s.regs ∧ AccessFrame e 9 2 (.load [(d, v)]) [] s u := by
  intro u
  have hnone : u = retire e (active s e) 1 (lerpSlots e d (active s e) p0 p1 v t) := by
    simp only [u, lerpTaken, residue_unaffected (lerpSlots_flt.trans h.flt) hres]
  have hregs : u.regs = s.regs := by rw [hnone, retire_regs, lerpSlots_regs, h.regs]
  refine ⟨q.of_eq ?_ (by simp only [rget, hregs]), ?_, hregs, ?_⟩
  · rw [hnone, retire_flt, lerpSlots_flt, h.flt]
  · rw [hnone, retire_mem, lerpSlots_mem, h.mem]
  · rw [hnone]
    exact accessFrame_retire_slot h (by simp) (by simp [h.time]) lerpSlots_shu

/-- A residue error injected into LERP of a normal task is found. -/
theorem lerpTaken_injected {e : Fin 34} {d p0 p1 : Nat} {v : Word} {s t : State} (h : SnapFrame e s t)
    (hx : active s e = .normal) (hinj : s.flt.injRes = some e.val) (hcheck : checkOn s = true) (q : Quiet s) :
    let u := lerpTaken e d (active s e) p0 p1 v t
    Quiet u ∧ (ctx u e .normal).err = true ∧ rb u (Reg.shuFsts e) 5 = true ∧ u.flt.injRes = none := by
  have hregs : (lerpSlots e d .normal p0 p1 v t).regs = s.regs := lerpSlots_regs.trans h.regs
  have hflt : (lerpSlots e d .normal p0 p1 v t).flt = s.flt := lerpSlots_flt.trans h.flt
  rw [hx]
  refine residue_injected_retire (by rw [hflt]; exact hinj) ?_ (q.of_eq (by rw [hflt]) (by simp only [rget, hregs]))
  simpa only [checkOn, rb, rget, hregs] using hcheck

/-! ### FENCE -/

theorem exec_fence (e : Fin 34) (s : State) :
    exec (.fence e) s = issue e (.fence e) [] 0 0 true (fun x => retire e x 1) s := rfl

/-- FENCE issues only where its context holds no slot (R94). -/
theorem fence_slots {e : Fin 34} {s : State} (h : Issues e (.fence e) s) : (ctx s e (active s e)).slots = [] := by
  obtain ⟨-, -, -, -, -, hat, -⟩ := h
  simp only [atInstr, Bool.and_eq_true, Bool.not_true, Bool.false_or, List.isEmpty_iff] at hat
  exact hat.2

/-- Settles O32: LERP by the cases of its number of segments and of the addresses of its samples, and FENCE, which retires alone. -/
theorem shuttleLerp : Obligations.ShuttleLerp := by
  unfold Obligations.ShuttleLerp
  refine ⟨?taken, ?faults, ?injected, ?fence⟩
  case taken =>
    intro e d a b imm s x k ph sh i j a0 a1 p0 p1 y0 y1 h q hres hmarks hport hk1 hk16 haligned0 haligned1 haddr0 haddr1
      hfull0 hfull1
    obtain ⟨t, ht, hexec⟩ := exec_lerp_taken h (by omega) (ad := (a0, a1)) rfl (memFault_load_fine haligned0 haddr0)
      (memFault_load_fine haligned1 haddr1) hmarks rfl rfl hfull0 hfull1
    obtain ⟨hquiet, hmem, hregs, hframe⟩ := lerpTaken_frame (d := d) (p0 := p0) (p1 := p1)
      (v := lerpValue y0 y1 (ph % 2 ^ sh) sh) ht hres q
    rw [lerpSample_clean ht hmarks hport, lerpSample_clean ht hmarks hport, settle_quiet hquiet] at hexec
    obtain ⟨hvalue, hlow, hhigh⟩ := lerpValue_spec y0 y1 (f := ph % 2 ^ sh) (m := sh) (by omega) (Nat.mod_lt _ (Nat.two_pow_pos sh))
    exact ⟨_, hexec, hmem, hregs, _, hvalue, hlow, hhigh, hframe⟩
  case faults =>
    intro e d a b imm s x k ph i j a0 a1 h
    refine ⟨exec_lerp_segments_fault h, fun ⟨hk1, hk16⟩ => ?_⟩
    have hk : ¬(k = 0 ∨ 16 < k) := by omega
    refine ⟨fun hmis => ?_, fun haligned hout => ?_, fun haligned haddr hout => ?_⟩
    · exact exec_lerp_first_fault h hk (ad := (a0, a1)) rfl (by simp [memFault_load, hmis])
    · exact exec_lerp_first_fault h hk (ad := (a0, a1)) rfl (by simp [memFault_load, haligned, hout])
    · have haligned1 : a1 % 4 = 0 :=
        (toNat_add_word_mod _ j).trans ((toNat_add_word_mod _ i).symm.trans haligned)
      exact exec_lerp_second_fault h hk (ad := (a0, a1)) rfl (memFault_load_fine haligned haddr)
        (by simp [memFault_load, haligned1, hout])
  case injected =>
    intro e d a b imm s x k ph i j a0 a1 h q hx hinj hcheck hmarks hk1 hk16 haligned0 haligned1 haddr0 haddr1 hfull0 hfull1
    obtain ⟨t, ht, hexec⟩ := exec_lerp_taken h (by omega) (ad := (a0, a1)) rfl (memFault_load_fine haligned0 haddr0)
      (memFault_load_fine haligned1 haddr1) hmarks rfl rfl hfull0 hfull1
    obtain ⟨hquiet, herr, hflag, hended⟩ := lerpTaken_injected ht hx hinj hcheck q
    rw [settle_quiet hquiet] at hexec
    exact ⟨_, hexec, herr, hflag, hended⟩
  case fence =>
    intro e s h q
    refine ⟨fence_slots h, ?_⟩
    rw [exec_fence]
    refine issue_frame rfl h q fun t ht => ?_
    rw [retire, ht.ctxs]
    exact only_retire ht

end Sys2Proof.Machine
end

section
/-!
PROOFS. The heddle engines (09_heddle_engines.md): what the attempt of an instruction and its completion leave as they are
(R313 to R316, R331), and the conditions of JMP (R317).
-/

namespace Sys2Proof.Machine

/-! ### An instruction at its tick (R313 to R316) -/

/-- The divider is a part of the engine alone. -/
theorem hedSync_eq (e : Nat) (s : State) : hedSync e s = { s with hed := (hedSync e s).hed } := by
  cases h : hedHalted s e <;> simp only [hedSync, when_, h] <;> rfl

@[simp] theorem hedSync_rget {e r : Nat} {s : State} : rget (hedSync e s) r = rget s r := by
  rw [hedSync_eq]
  rfl

@[simp] theorem hedSync_mem {e : Nat} {s : State} : (hedSync e s).mem = s.mem := by
  rw [hedSync_eq]

@[simp] theorem hedSync_hedPc {e : Nat} {s : State} : hedPc (hedSync e s) e = hedPc s e := by
  rw [hedPc, rf, hedSync_rget, hedPc, rf]

@[simp] theorem hedSync_hedL {e : Nat} {s : State} : hedL (hedSync e s) e = hedL s e := by
  rw [hedSync_eq]
  rfl

@[simp] theorem hedSync_hedRead {e i : Nat} {s : State} : hedRead (hedSync e s) e i = hedRead s e i := by
  rw [hedSync_eq]
  rfl

theorem hedSync_hedSt_other {e k : Nat} {s : State} (h : k ≠ e) : hedSt (hedSync e s) k = hedSt s k := by
  cases hhalted : hedHalted s e <;> simp [hedSync, when_, hhalted, syncTicks, modHed_hedSt_other h]

/-- An engine that executes an instruction attempts it now, in the state with its divider synchronised. -/
theorem hedExec_executes {e : Fin 64} {op : Nat} {f : BitVec 12} {effect : State → State} {s : State}
    (h : HedExecutes e op f s) : hedExec e op f effect s = .next (settle (effect (hedSync e s))) := by
  obtain ⟨htick, hmay, hat, hword⟩ := h
  rw [hedExec, atTime_now (Nat.le_of_eq htick) (by simp [hmay, hat, htick]), hedAttempt, hword]
  rfl

/-! ### Completion of an instruction -/

@[simp] theorem setf_hedSt {a lo n x k : Nat} {s : State} : hedSt (setf a lo n x s) k = hedSt s k := rfl

theorem hedGo_rget_other {e pc r : Nat} {s : State} (hexec : r ≠ Reg.hedExec e) (hsts : r ≠ Reg.hedSts e) :
    rget (hedGo e pc s) r = rget s r := by
  simp [hedGo, setHedState, rget_setf_other hexec, rget_setf_other hsts]

/-- STATE is written, and the flag F beside it stays. -/
theorem hedF_hedGo {e pc : Nat} {s : State} : hedF (hedGo e pc s) e = hedF s e := by
  have hsts : Reg.hedSts e ≠ Reg.hedExec e := by simp [Reg.hedSts, Reg.hedExec]
  simp [hedGo, setHedState, hedF, rb, bit_setFld, rget_setf_other hsts]

theorem hedGo_hedPc {e pc : Nat} {s : State} : hedPc (hedGo e pc s) e = pc % 32 := by
  have hexec : Reg.hedExec e ≠ Reg.hedSts e := by simp [Reg.hedSts, Reg.hedExec]
  simp [hedGo, setHedState, hedPc, rf, rget_setf_other hexec, fld_setFld_same]

/-- The engine runs, or is halted again after a STEP (R331). -/
theorem hedGo_hedState {e pc : Nat} {s : State} :
    hedState (hedGo e pc s) e = if rb s (Reg.hedDbg e) 8 then 3 else 1 := by
  have hdbg : Reg.hedDbg e ≠ Reg.hedExec e := by simp [Reg.hedDbg, Reg.hedExec]
  have hfits : ∀ b : Bool, (if b then 3 else 1) % 2 ^ 3 = if b then 3 else 1 := by decide
  rw [hedGo, rb, modHed_rget, rget_setf_other hdbg, hedState, setHedState, rf_setf_same (by decide), hfits, rb]

theorem hedGo_hedSt_other {e k pc : Nat} {s : State} (h : k ≠ e) : hedSt (hedGo e pc s) k = hedSt s k := by
  rw [hedGo, setHedState, setf_hedSt, modHed_hedSt_other h, setf_hedSt]

@[simp] theorem hedGo_mem {e pc : Nat} {s : State} : (hedGo e pc s).mem = s.mem := by
  simp [hedGo, setHedState]

/-- An instruction completes from a state `u` in which it has left the debug halt, the other engines and the stores as they
were in `s`. -/
theorem hedGo_frame {e pc : Nat} {s u : State} (hdbg : rget u (Reg.hedDbg e) = rget s (Reg.hedDbg e))
    (hengines : ∀ k, k ≠ e → hedSt u k = hedSt s k) (hmem : u.mem = s.mem) : HedFrame e pc s (hedGo e pc u) where
  atPc := hedGo_hedPc
  state := by rw [hedGo_hedState, rb, rb, hdbg]
  engines k hk := (hedGo_hedSt_other hk).trans (hengines k hk)
  mem := hedGo_mem.trans hmem

/-! ### JMP (R316, R317) -/

/-- Condition 1 counts K down, whether or not the jump is taken. -/
def jmpCounted (e : Nat) (f : BitVec 12) (s : State) : State :=
  if hf f 10 8 = 1 then rset (Reg.hedK e) (rget s (Reg.hedK e) - 1#32) s else s

/-- The table of R317, of the state before K counts down. -/
def jmpTaken (e : Nat) (f : BitVec 12) (s : State) : Bool :=
  match hf f 10 8 with
  | 0 => true
  | 1 => rget s (Reg.hedK e) - 1#32 != 0
  | 2 => rget s (Reg.hedK e) == 0
  | 3 => hedF s e
  | 4 => !hedF s e
  | 5 => hedRead s e (hf f 7 5)
  | 6 => !hedRead s e (hf f 7 5)
  | _ => tcnt s e != 0

theorem jmpCounted_rget_other {e r : Nat} {f : BitVec 12} {s : State} (h : r ≠ Reg.hedK e) :
    rget (jmpCounted e f s) r = rget s r := by
  unfold jmpCounted
  split
  · exact rget_rset_other h
  · rfl

theorem jmpCounted_rget_hedK {e : Nat} {f : BitVec 12} {s : State} : rget (jmpCounted e f s) (Reg.hedK e) =
    if hf f 10 8 = 1 then rget s (Reg.hedK e) - 1#32 else rget s (Reg.hedK e) := by
  unfold jmpCounted
  split
  · exact rget_rset_same
  · rfl

theorem jmpCounted_hed {e : Nat} {f : BitVec 12} {s : State} : (jmpCounted e f s).hed = s.hed := by
  unfold jmpCounted
  split <;> rfl

theorem jmpCounted_mem {e : Nat} {f : BitVec 12} {s : State} : (jmpCounted e f s).mem = s.mem := by
  unfold jmpCounted
  split <;> rfl

/-- The jump reads nothing that the synchronisation of the divider changes. -/
theorem jmpTaken_hedSync {e : Nat} {f : BitVec 12} {s : State} : jmpTaken e f (hedSync e s) = jmpTaken e f s := by
  simp only [jmpTaken, hedF, tcnt, rb, rf, hedSync_rget, hedSync_hedRead]

theorem jmpCounted_hedPc {e : Nat} {f : BitVec 12} {s : State} : hedPc (jmpCounted e f s) e = hedPc s e := by
  have hk : Reg.hedExec e ≠ Reg.hedK e := by simp [Reg.hedExec, Reg.hedK]
  rw [hedPc, rf, jmpCounted_rget_other hk, hedPc, rf]

/-- JMP goes on at ADDR where it is taken, and otherwise at the next instruction. -/
theorem hedJmpOp_of_pin {e : Nat} {f : BitVec 12} {s : State}
    (hpin : hf f 10 8 = 5 ∨ hf f 10 8 = 6 → hf f 7 5 < hedL s e) :
    hedJmpOp e f s = if jmpTaken e f s then hedGo e (hf f 15 11) (jmpCounted e f s) else hedNext e (jmpCounted e f s) := by
  unfold hedJmpOp jmpTaken jmpCounted
  split
  case h_2 hcond => simp [hcond]
  case h_6 hcond => simp [hcond, Nat.not_le.2 (hpin (.inl hcond))]
  case h_7 hcond => simp [hcond, Nat.not_le.2 (hpin (.inr hcond))]
  case h_8 hone _ _ _ _ _ => simp [*, show ¬hf f 10 8 = 1 from hone]
  all_goals simp [*]

theorem hedJmpOp_goes {e : Nat} {f : BitVec 12} {s : State} (hpin : hf f 10 8 = 5 ∨ hf f 10 8 = 6 → hf f 7 5 < hedL s e) :
    hedJmpOp e f s = hedGo e (if jmpTaken e f s then hf f 15 11 else hedPc s e + 1) (jmpCounted e f s) := by
  rw [hedJmpOp_of_pin hpin, hedNext, jmpCounted_hedPc]
  split <;> rfl

/-- JMP on a pin that the engine does not own is the fault of code 3. -/
theorem hedJmpOp_fault {e : Nat} {f : BitVec 12} {s : State} (hcond : hf f 10 8 = 5 ∨ hf f 10 8 = 6)
    (hpin : hedL s e ≤ hf f 7 5) : hedJmpOp e f s = hedFault e 3 s := by
  rcases hcond with hcond | hcond <;> simp [hedJmpOp, hcond, hpin]

/-- The state that JMP leaves where it completes: K has counted down, and execution goes on as the table says. -/
def jmpDone (e : Nat) (f : BitVec 12) (s : State) : State :=
  hedGo e (if jmpTaken e f s then hf f 15 11 else hedPc s e + 1) (jmpCounted e f (hedSync e s))

theorem jmpDone_rget_other {e r : Nat} {f : BitVec 12} {s : State} (hexec : r ≠ Reg.hedExec e) (hsts : r ≠ Reg.hedSts e)
    (hk : r ≠ Reg.hedK e) : rget (jmpDone e f s) r = rget s r := by
  rw [jmpDone, hedGo_rget_other hexec hsts, jmpCounted_rget_other hk, hedSync_rget]

theorem jmpDone_rget_hedK {e : Nat} {f : BitVec 12} {s : State} : rget (jmpDone e f s) (Reg.hedK e) =
    if hf f 10 8 = 1 then rget s (Reg.hedK e) - 1#32 else rget s (Reg.hedK e) := by
  have hexec : Reg.hedK e ≠ Reg.hedExec e := by simp [Reg.hedK, Reg.hedExec]
  have hsts : Reg.hedK e ≠ Reg.hedSts e := by simp [Reg.hedK, Reg.hedSts]
  rw [jmpDone, hedGo_rget_other hexec hsts, jmpCounted_rget_hedK, hedSync_rget]

theorem jmpDone_hedF {e : Nat} {f : BitVec 12} {s : State} : hedF (jmpDone e f s) e = hedF s e := by
  have hk : Reg.hedSts e ≠ Reg.hedK e := by simp [Reg.hedSts, Reg.hedK]
  rw [jmpDone, hedF_hedGo, hedF, rb, jmpCounted_rget_other hk, hedSync_rget, hedF, rb]

theorem jmpDone_frame {e : Nat} {f : BitVec 12} {s : State} :
    HedFrame e (if jmpTaken e f s then hf f 15 11 else hedPc s e + 1) s (jmpDone e f s) := by
  have hk : Reg.hedDbg e ≠ Reg.hedK e := by simp [Reg.hedDbg, Reg.hedK]
  refine hedGo_frame ?_ (fun i hi => ?_) ?_
  · rw [jmpCounted_rget_other hk, hedSync_rget]
  · rw [hedSt, jmpCounted_hed, ← hedSync_hedSt_other hi, hedSt]
  · rw [jmpCounted_mem, hedSync_mem]

theorem exec_hedJmp (e : Fin 64) (f : BitVec 12) (s : State) :
    exec (.hedJmp e f) s = hedExec e 1 f (hedJmpOp e f) s := rfl

/-- JMP that tests no pin, or a pin that the engine owns, completes. -/
theorem exec_hedJmp_done {e : Fin 64} {f : BitVec 12} {s : State} (h : HedExecutes e 1 f s)
    (hpin : hf f 10 8 = 5 ∨ hf f 10 8 = 6 → hf f 7 5 < hedL s e) :
    exec (.hedJmp e f) s = .next (settle (jmpDone e f s)) := by
  rw [exec_hedJmp, hedExec_executes h, hedJmpOp_goes (by simpa using hpin), jmpTaken_hedSync, hedSync_hedPc, jmpDone]

/-- JMP that tests a pin that the engine does not own is the fault of code 3. -/
theorem exec_hedJmp_fault {e : Fin 64} {f : BitVec 12} {s : State} (h : HedExecutes e 1 f s)
    (hcond : hf f 10 8 = 5 ∨ hf f 10 8 = 6) (hpin : hedL s e ≤ hf f 7 5) :
    exec (.hedJmp e f) s = .next (settle (hedFault e 3 (hedSync e s))) := by
  rw [exec_hedJmp, hedExec_executes h, hedJmpOp_fault hcond (by simpa using hpin)]

/-- Settles O46: JMP that tests no pin beyond those of its engine completes as the table says, and any other is a fault. -/
theorem heddleJumps : Obligations.HeddleJumps := by
  unfold Obligations.HeddleJumps
  refine ⟨?_, fun e f s h hcond hpin => exec_hedJmp_fault h hcond hpin⟩
  intro e f s cond pin k taken h hpin
  refine ⟨_, exec_hedJmp_done h hpin, jmpDone_frame, jmpDone_rget_hedK, ?hedV, jmpDone_hedF, ?hedTsr, ?hedRsr⟩
  case hedV => apply jmpDone_rget_other <;> simp [Reg.hedV, Reg.hedExec, Reg.hedSts, Reg.hedK]
  case hedTsr => apply jmpDone_rget_other <;> simp [Reg.hedTsr, Reg.hedExec, Reg.hedSts, Reg.hedK]
  case hedRsr => apply jmpDone_rget_other <;> simp [Reg.hedRsr, Reg.hedExec, Reg.hedSts, Reg.hedK]

end Sys2Proof.Machine
end

section
/-!
PROOFS. Refused writes (16_host_port.md R536): which cause a write meets first, and what each refusal does to the counters
of the three causes.
-/

namespace Sys2Proof.Machine

/-! ### What the log leaves -/

/-- A register that a record of the log may write: those of a raise, and STS, LOG_SEQ and LOG_LOST_CNT of the tackler
(R559, R568). -/
def LogReg (a : Nat) : Prop := RaiseReg a ∨ a = Reg.tackSts ∨ a = Reg.tackLogSeq ∨ a = Reg.tackLogLostCnt

theorem rget_when_of_eq {c : Bool} {f : State → State} {s : State} {a : Nat} (h : rget (f s) a = rget s a) :
    rget (when_ c f s) a = rget s a := by
  cases c
  · rfl
  · exact h

theorem logWrite_rget {r : LogRec} {s : State} {a : Nat} (h : ¬ LogReg a) : rget (logWrite r s) a = rget s a := by
  simp only [LogReg, not_or] at h
  obtain ⟨hraise, -, hseq, hlost⟩ := h
  unfold logWrite
  rw [rget_when_of_eq (raise_rget hraise), rget_rset_other hseq]
  exact rget_when_of_eq (rget_count_other hlost)

theorem logLose_rget {s : State} {a : Nat} (h : ¬ LogReg a) : rget (logLose s) a = rget s a := by
  simp only [LogReg, not_or] at h
  obtain ⟨hraise, hsts, -, hlost⟩ := h
  unfold logLose
  rw [flagRaise, raise_rget hraise, rget_setb_other hsts, rget_count_other hlost]
  rfl

/-- A log cause is written, queued or lost. -/
theorem logPut_rget {r : LogRec} {s : State} {a : Nat} (h : ¬ LogReg a) : rget (logPut r s) a = rget s a := by
  unfold logPut
  split
  · exact logWrite_rget h
  · split
    · rfl
    · exact logLose_rget h

theorem logLocked_rget {d0 d1 : Word} {s : State} {a : Nat} (h : ¬ LogReg a) :
    rget (logLocked d0 d1 s) a = rget s a := by
  unfold logLocked
  dsimp only
  split
  · rfl
  · exact logPut_rget h

/-! ### What a refusal leaves -/

/-- A register that a refusal may write beside the counter of its cause: those of a record of the log, and LOCK_ADDR and
STS of the host port (R535). -/
def DropReg (a : Nat) : Prop := LogReg a ∨ a = Reg.hostLockAddr ∨ a = Reg.hostSts

/-- The counters of the three causes are apart from what a refusal writes beside its counter. -/
theorem not_dropReg_of_refusalCounter : ∀ a ∈ [Reg.gctlHoleCnt, Reg.hostLockCnt, Reg.gctlRsvCnt], ¬ DropReg a := by
  simp [DropReg, LogReg, RaiseReg, Reg.gctlHoleCnt, Reg.hostLockCnt, Reg.gctlRsvCnt, Reg.hostLockAddr, Reg.hostSts,
    Reg.tackSts, Reg.tackLogSeq, Reg.tackLogLostCnt, Reg.selLevOut, Reg.shedMergeCnt, Reg.shedExpMergeCnt]

theorem holeDrop_rget {p : Path} {s : State} {a : Nat} (h : ¬ DropReg a) :
    rget (holeDrop p s) a = rget (count Reg.gctlHoleCnt s) a := by
  rw [holeDrop, dropNote_rget, raise_rget fun hraise => h (.inl (.inl hraise))]

theorem rsvDrop_rget {p : Path} {s : State} {a : Nat} (h : ¬ DropReg a) :
    rget (rsvDrop p s) a = rget (count Reg.gctlRsvCnt s) a := by
  rw [rsvDrop, dropNote_rget, raise_rget fun hraise => h (.inl (.inl hraise))]

theorem lockDrop_rget {p : Path} {b : Nat} {v : Word} {s : State} {a : Nat} (h : ¬ DropReg a) :
    rget (lockDrop p b v s) a = rget (count Reg.hostLockCnt s) a := by
  simp only [DropReg, not_or] at h
  obtain ⟨hlog, haddr, hsts⟩ := h
  rw [lockDrop, dropNote_rget, logLocked_rget hlog, flagRaise, raise_rget fun hraise => hlog (.inl hraise),
    rget_setb_other hsts, rget_rset_other haddr]

/-! ### The order of the causes -/

theorem narrowWrite_awake {p : Path} {a : Nat} {v : Word} {s : State} (hpower : power s ≠ 2) :
    narrowWrite p a v s = if isHole a then holeDrop p s else lockDrop p a v s := by
  simp [narrowWrite, hpower]

theorem writeReg_reserved {p : Path} {a : Nat} {v : Word} {s : State} (hpower : power s ≠ 2) (hhole : isHole a = false)
    (hlocked : locked s a v = false) (htask : inTaskWin a = false) (hcode : inCodeWin a = false)
    (hreserved : reserved s a v = true) : writeReg p a v s = rsvDrop p s := by
  simp [writeReg, hpower, hhole, hlocked, htask, hcode, hreserved]

/-- A narrow access of an aligned address outside the stores is a narrow register write. -/
theorem accessWrite_narrow {p : Path} {a : Nat} {w : Width} {v : BitVec 64} {s : State} (hw : w = .w8 ∨ w = .w16)
    (haligned : a % 4 = 0) (hbar : a < 0x4000000) (hstore : inStore a = false) :
    accessWrite p a w v s = narrowWrite p a (wd v.toNat) s := by
  have hdw : a / 4 * 4 = a := by omega
  have heven : a % 2 = 0 := by omega
  rcases hw with rfl | rfl <;> simp [accessWrite, widthBytes, Nat.mod_one, heven, Nat.not_le.2 hbar, hstore, hdw]

/-- A full-word access of an aligned address outside the stores is a register write. -/
theorem accessWrite_word {p : Path} {a : Nat} {v : BitVec 64} {s : State} (haligned : a % 4 = 0) (hbar : a < 0x4000000)
    (hstore : inStore a = false) : accessWrite p a .w32 v s = writeReg p a (wd v.toNat) s := by
  simp [accessWrite, widthBytes, haligned, Nat.not_le.2 hbar, hstore]

theorem exec_registerWrite_takes {p : Path} {a : BitVec 32} {w : Width} {v : BitVec 64} {s : State} (h : Takes p s) :
    exec (.registerWrite p a w v) s = .next (settle (accessWrite p a.toNat w v (inTurn p s))) :=
  accessCmd_takes h.1

/-- Settles O18: an access that the device takes comes to the narrow or the full register write, each of which asks for the
causes in the order of R536; and what a refusal writes beside its own counter is none of the three counters. -/
theorem refusedOnceInOrder : Obligations.RefusedOnceInOrder := by
  unfold Obligations.RefusedOnceInOrder
  refine ⟨fun p a v s ht haligned hbar hstore => ⟨fun w hw => ?narrow, fun hhole => ?hole, fun hhole hlocked => ?locked,
    fun hhole hlocked htask hcode hreserved => ?reserved⟩, fun p a v s => ?counters⟩
  case narrow => rw [exec_registerWrite_takes ht, accessWrite_narrow hw haligned hbar hstore, narrowWrite_awake ht.2]
  case hole => rw [exec_registerWrite_takes ht, accessWrite_word haligned hbar hstore, writeReg_hole ht.2 hhole]
  case locked =>
    rw [exec_registerWrite_takes ht, accessWrite_word haligned hbar hstore, writeReg_locked ht.2 hhole hlocked]
  case reserved =>
    rw [exec_registerWrite_takes ht, accessWrite_word haligned hbar hstore,
      writeReg_reserved ht.2 hhole hlocked htask hcode hreserved]
  case counters =>
    have hhole := not_dropReg_of_refusalCounter Reg.gctlHoleCnt (by simp)
    have hlock := not_dropReg_of_refusalCounter Reg.hostLockCnt (by simp)
    have hrsv := not_dropReg_of_refusalCounter Reg.gctlRsvCnt (by simp)
    simp only [holeDrop_rget, lockDrop_rget, rsvDrop_rget, hhole, hlock, hrsv, not_false_eq_true, rget_count_same, true_and]
    exact ⟨⟨rget_count_other (by decide), rget_count_other (by decide)⟩,
      ⟨rget_count_other (by decide), rget_count_other (by decide)⟩, rget_count_other (by decide), rget_count_other (by decide)⟩

/-- A taken write of a channel's CTL meets the clauses of O18 about full words: in RUN it is locked, and in IDLE it is not
and places a reserved MODE. -/
theorem refusals_of_aligned_words_are_met :
    (let a : BitVec 32 := BitVec.ofNat 32 (Reg.chCtl 511); let s := rset Reg.gctlMode 5 State.reset
     Takes .pcie s ∧ a.toNat % 4 = 0 ∧ inStore a.toNat = false ∧ isHole a.toNat = false ∧
      locked (inTurn .pcie s) a.toNat 11 = true) ∧
    (let a : BitVec 32 := BitVec.ofNat 32 (Reg.chCtl 511); let s := rset Reg.gctlMode 3 State.reset
     Takes .pcie s ∧ a.toNat % 4 = 0 ∧ inStore a.toNat = false ∧ isHole a.toNat = false ∧
      locked (inTurn .pcie s) a.toNat 11 = false ∧ inTaskWin a.toNat = false ∧ inCodeWin a.toNat = false ∧
      reserved (inTurn .pcie s) a.toNat 11 = true) := by
  simp only [Takes, TakesNow]
  decide +kernel

end Sys2Proof.Machine
end

section
/-!
PROOFS. Every command answers a next state, and what every step keeps: the memories in canonical form and the queue (log
entry 16), the fuses that only grow (14_drafts_and_changeover.md R463, R465).
-/

namespace Sys2Proof.Machine

/-! ### Every command answers -/

/-- Each meaning answers a next state, by the lemma of its command. -/
theorem exec_next (c : Instr) (s : State) : ∃ t, exec c s = .next t :=
  match c with
  | .registerWrite .. => execRegisterWrite_next
  | .pairLoRead .. => execPairLoRead_next
  | .pairLoWrite .. => execPairLoWrite_next
  | .pairHiWrite .. => execPairHiWrite_next
  | .timeLoRead .. => execTimeLoRead_next
  | .commit .. => execCommit_next
  | .cntClr .. => execCntClr_next
  | .pickStart => execPickStart_next
  | .scanPoint => execScanPoint_next
  | .taskStart .. => execTaskStart_next
  | .expressStart .. => execExpressStart_next
  | .expressLimit .. => execExpressLimit_next
  | .contextResume .. => execContextResume_next
  | .shedCntClr .. => execShedCntClr_next
  | .ill .. => execIll_next
  | .nop .. => execNop_next
  | .aluAdd .. => execAluAdd_next
  | .aluSub .. => execAluSub_next
  | .aluAdc .. => execAluAdc_next
  | .aluSbc .. => execAluSbc_next
  | .aluAnd .. => execAluAnd_next
  | .aluOr .. => execAluOr_next
  | .aluXor .. => execAluXor_next
  | .aluShl .. => execAluShl_next
  | .aluShr .. => execAluShr_next
  | .aluSar .. => execAluSar_next
  | .aluMul .. => execAluMul_next
  | .aluMulh .. => execAluMulh_next
  | .aluMulhu .. => execAluMulhu_next
  | .aluDivs .. => execAluDivs_next
  | .aluDivu .. => execAluDivu_next
  | .aluMin .. => execAluMin_next
  | .aluMax .. => execAluMax_next
  | .cmp .. => execCmp_next
  | .addi .. => execAddi_next
  | .andi .. => execAndi_next
  | .ori .. => execOri_next
  | .xori .. => execXori_next
  | .shli .. => execShli_next
  | .shri .. => execShri_next
  | .sari .. => execSari_next
  | .cmpi .. => execCmpi_next
  | .sel .. => execSel_next
  | .lui .. => execLui_next
  | .li .. => execLi_next
  | .padd .. => execPadd_next
  | .pdif .. => execPdif_next
  | .ld .. => execLd_next
  | .ldh .. => execLdh_next
  | .ldhu .. => execLdhu_next
  | .ldbu .. => execLdbu_next
  | .ldd .. => execLdd_next
  | .st .. => execSt_next
  | .sth .. => execSth_next
  | .stb .. => execStb_next
  | .std .. => execStd_next
  | .ldc .. => execLdc_next
  | .stc .. => execStc_next
  | .fence .. => execFence_next
  | .br .. => execBr_next
  | .jmp .. => execJmp_next
  | .jal .. => execJal_next
  | .jr .. => execJr_next
  | .endTask .. => execEndTask_next
  | .sig .. => execSig_next
  | .evr .. => execEvr_next
  | .softwareEvent .. => execSoftwareEvent_next
  | .rds .. => execRds_next
  | .rdl .. => execRdl_next
  | .chr .. => execChr_next
  | .chw .. => execChw_next
  | .chwLand .. => execChwLand_next
  | .edge .. => execEdge_next
  | .shuttleEdgeOut .. => execShuttleEdgeOut_next
  | .arm .. => execArm_next
  | .disarm .. => execDisarm_next
  | .lerp .. => execLerp_next
  | .loadResult .. => execLoadResult_next
  | .storeAck .. => execStoreAck_next
  | .correctedWriteBack .. => execCorrectedWriteBack_next
  | .halt .. => execHalt_next
  | .halted .. => execHalted_next
  | .resume .. => execResume_next
  | .shuStep .. => execShuStep_next
  | .breakpointHit .. => execBreakpointHit_next
  | .shuCntClr .. => execShuCntClr_next
  | .harnessTick .. => execHarnessTick_next
  | .leaveOff .. => execLeaveOff_next
  | .enterOff .. => execEnterOff_next
  | .start .. => execStart_next
  | .rldWrite .. => execRldWrite_next
  | .compareWrite .. => execCompareWrite_next
  | .fineWrite .. => execFineWrite_next
  | .stagedWrite .. => execStagedWrite_next
  | .capRead .. => execCapRead_next
  | .filtWrite .. => execFiltWrite_next
  | .evcfgWrite .. => execEvcfgWrite_next
  | .prescWrite .. => execPrescWrite_next
  | .chCntClr .. => execChCntClr_next
  | .pinTransition .. => execPinTransition_next
  | .filterSample .. => execFilterSample_next
  | .load .. => execLoad_next
  | .loadAll .. => execLoadAll_next
  | .loadNow .. => execLoadNow_next
  | .tripCut .. => execTripCut_next
  | .blankingEnd .. => execBlankingEnd_next
  | .deadTimeEnd .. => execDeadTimeEnd_next
  | .tripWrite .. => execTripWrite_next
  | .tripfClear .. => execTripfClear_next
  | .harnCntClr .. => execHarnCntClr_next
  | .reedCntClr .. => execReedCntClr_next
  | .calibrationStep .. => execCalibrationStep_next
  | .cardPlace => execCardPlace_next
  | .nearPromotion .. => execNearPromotion_next
  | .cardSet .. => execCardSet_next
  | .cardClear .. => execCardClear_next
  | .cardToggle .. => execCardToggle_next
  | .cardPulse .. => execCardPulse_next
  | .loadCmpa .. => execLoadCmpa_next
  | .loadCmpb .. => execLoadCmpb_next
  | .userEvent .. => execUserEvent_next
  | .express .. => execExpress_next
  | .pulseEnd .. => execPulseEnd_next
  | .capEnd .. => execCapEnd_next
  | .crRdWrite .. => execCrRdWrite_next
  | .ringConfigWrite .. => execRingConfigWrite_next
  | .cardCntClr .. => execCardCntClr_next
  | .tooth .. => execTooth_next
  | .cycleStart .. => execCycleStart_next
  | .secondaryEdge .. => execSecondaryEdge_next
  | .secondaryWindowMiss .. => execSecondaryWindowMiss_next
  | .stall .. => execStall_next
  | .beaconMiss .. => execBeaconMiss_next
  | .trackerEnable .. => execTrackerEnable_next
  | .trackerDisable .. => execTrackerDisable_next
  | .phaseRead .. => execPhaseRead_next
  | .trRdWrite .. => execTrRdWrite_next
  | .trConfigWrite .. => execTrConfigWrite_next
  | .trdCntClr .. => execTrdCntClr_next
  | .posEnable .. => execPosEnable_next
  | .posDisable .. => execPosDisable_next
  | .posFilterSample .. => execPosFilterSample_next
  | .posLoad .. => execPosLoad_next
  | .latch .. => execLatch_next
  | .eventLatch .. => execEventLatch_next
  | .latPosRead .. => execLatPosRead_next
  | .standstill .. => execStandstill_next
  | .serStart .. => execSerStart_next
  | .frameStart .. => execFrameStart_next
  | .wordLanding .. => execWordLanding_next
  | .dataTimeout .. => execDataTimeout_next
  | .posCntClr .. => execPosCntClr_next
  | .hedJmp .. => execHedJmp_next
  | .hedWait .. => execHedWait_next
  | .waitLimit .. => execWaitLimit_next
  | .hedOut .. => execHedOut_next
  | .hedIn .. => execHedIn_next
  | .hedPull .. => execHedPull_next
  | .hedPush .. => execHedPush_next
  | .hedSet .. => execHedSet_next
  | .hedMov .. => execHedMov_next
  | .hedCrc .. => execHedCrc_next
  | .hedStamp .. => execHedStamp_next
  | .hedInvalidOpcode .. => execHedInvalidOpcode_next
  | .hedTriggerPending .. => execHedTriggerPending_next
  | .txdata .. => execTxdata_next
  | .rxdata .. => execRxdata_next
  | .hedStart .. => execHedStart_next
  | .hedStop .. => execHedStop_next
  | .fifoClr .. => execFifoClr_next
  | .cleanSwap .. => execCleanSwap_next
  | .forcedSwap .. => execForcedSwap_next
  | .hedHalt .. => execHedHalt_next
  | .hedResume .. => execHedResume_next
  | .hedStep .. => execHedStep_next
  | .hedCntClr .. => execHedCntClr_next
  | .comparatorChange .. => execComparatorChange_next
  | .comparatorEnable .. => execComparatorEnable_next
  | .comparatorDisable .. => execComparatorDisable_next
  | .indetEvaluation .. => execIndetEvaluation_next
  | .settleEnd .. => execSettleEnd_next
  | .threshWrite .. => execThreshWrite_next
  | .adcTriggerPending .. => execAdcTriggerPending_next
  | .sequenceStart => execSequenceStart_next
  | .readbackDue => execReadbackDue_next
  | .conversionStart => execConversionStart_next
  | .conversionResult .. => execConversionResult_next
  | .slotRead .. => execSlotRead_next
  | .rqRdWrite .. => execRqRdWrite_next
  | .winCntClr .. => execWinCntClr_next
  | .adcCntClr .. => execAdcCntClr_next
  | .scrubRead => execScrubRead_next
  | .preservingTest .. => execPreservingTest_next
  | .destructiveTest .. => execDestructiveTest_next
  | .copyEnd => execCopyEnd_next
  | .testEnd .. => execTestEnd_next
  | .restoreEnd => execRestoreEnd_next
  | .storeCntClr .. => execStoreCntClr_next
  | .bobStart .. => execBobStart_next
  | .bobAbort .. => execBobAbort_next
  | .gateOpen .. => execGateOpen_next
  | .gateClose .. => execGateClose_next
  | .transactionIssue .. => execTransactionIssue_next
  | .transactionReturn .. => execTransactionReturn_next
  | .hostCompletionTimeout .. => execHostCompletionTimeout_next
  | .hqPtrWrite .. => execHqPtrWrite_next
  | .bobCntClr .. => execBobCntClr_next
  | .bobcCntClr .. => execBobcCntClr_next
  | .raiseArrival .. => execRaiseArrival_next
  | .coalesceTimeout .. => execCoalesceTimeout_next
  | .msixHandover .. => execMsixHandover_next
  | .irqAssert .. => execIrqAssert_next
  | .pendClear .. => execPendClear_next
  | .maskClear .. => execMaskClear_next
  | .vecCtlWrite .. => execVecCtlWrite_next
  | .evmCntClr .. => execEvmCntClr_next
  | .vecCntClr .. => execVecCntClr_next
  | .powerOnReset => execPowerOnReset_next
  | .pinReset => execPinReset_next
  | .brownOut => execBrownOut_next
  | .resetRelease .. => execResetRelease_next
  | .pllLock => execPllLock_next
  | .flashDiscovery .. => execFlashDiscovery_next
  | .firmwareSelection => execFirmwareSelection_next
  | .selfTestEnd .. => execSelfTestEnd_next
  | .bootDraftApplied .. => execBootDraftApplied_next
  | .referenceLoss => execReferenceLoss_next
  | .restore .. => execRestore_next
  | .latencyNsWrite .. => execLatencyNsWrite_next
  | .dozeEntry => execDozeEntry_next
  | .dozeExit => execDozeExit_next
  | .slumberEntry => execSlumberEntry_next
  | .wakeComplete => execWakeComplete_next
  | .bankSleep .. => execBankSleep_next
  | .supplyLow .. => execSupplyLow_next
  | .supplyRecovery .. => execSupplyRecovery_next
  | .pwrCntClr .. => execPwrCntClr_next
  | .verifyComplete .. => execVerifyComplete_next
  | .switchInstant => execSwitchInstant_next
  | .channelApplication .. => execChannelApplication_next
  | .forcedApplication .. => execForcedApplication_next
  | .changeoverEnd => execChangeoverEnd_next
  | .nonhitlessApply => execNonhitlessApply_next
  | .slotTableCommit => execSlotTableCommit_next
  | .chgCntClr .. => execChgCntClr_next
  | .portDown .. => execPortDown_next
  | .portLock .. => execPortLock_next
  | .portMeasure .. => execPortMeasure_next
  | .portUp .. => execPortUp_next
  | .echoRequest .. => execEchoRequest_next
  | .echoAnswer .. => execEchoAnswer_next
  | .echoReply .. => execEchoReply_next
  | .trainSend => execTrainSend_next
  | .trainReceive .. => execTrainReceive_next
  | .trainReturn .. => execTrainReturn_next
  | .ringTimeout => execRingTimeout_next
  | .lineDeadline => execLineDeadline_next
  | .selCntClr .. => execSelCntClr_next
  | .pcieWrite .. => execPcieWrite_next
  | .pcieRead .. => execPcieRead_next
  | .readCompletion => execReadCompletion_next
  | .configRequest .. => execConfigRequest_next
  | .hostReset .. => execHostReset_next
  | .spiWrite .. => execSpiWrite_next
  | .spiRead .. => execSpiRead_next
  | .spiQuadWrite .. => execSpiQuadWrite_next
  | .spiQuadRead .. => execSpiQuadRead_next
  | .doorbell .. => execDoorbell_next
  | .commandStart .. => execCommandStart_next
  | .commandCompletion .. => execCommandCompletion_next
  | .echo => execEcho_next
  | .armCmd => execArmCmd_next
  | .stop => execStop_next
  | .hold => execHold_next
  | .clearHold => execClearHold_next
  | .maintEnter => execMaintEnter_next
  | .maintLeave => execMaintLeave_next
  | .deviceReset => execDeviceReset_next
  | .commandReset => execCommandReset_next
  | .draftWrite => execDraftWrite_next
  | .draftVerify => execDraftVerify_next
  | .draftAbort => execDraftAbort_next
  | .changeover => execChangeover_next
  | .revert => execRevert_next
  | .lineChangeover => execLineChangeover_next
  | .hedLoad => execHedLoad_next
  | .fwWrite => execFwWrite_next
  | .fwActivate => execFwActivate_next
  | .logRead => execLogRead_next
  | .keyEnrol => execKeyEnrol_next
  | .keyRevoke => execKeyRevoke_next
  | .secureEnable => execSecureEnable_next
  | .epochRaise => execEpochRaise_next
  | .mbxCntClr .. => execMbxCntClr_next
  | .hostCntClr .. => execHostCntClr_next
  | .tempSample .. => execTempSample_next
  | .supplySample .. => execSupplySample_next
  | .logFlashCopy => execLogFlashCopy_next
  | .tacklerClockFault => execTacklerClockFault_next
  | .pllLockLoss => execPllLockLoss_next
  | .watchdogExpiry => execWatchdogExpiry_next
  | .restart .. => execRestart_next
  | .restartEnd => execRestartEnd_next
  | .flashProgramDone => execFlashProgramDone_next
  | .flashError => execFlashError_next
  | .extest => execExtest_next
  | .idcode => execIdcode_next
  | .samplePreload .. => execSamplePreload_next
  | .clamp => execClamp_next
  | .highz => execHighz_next
  | .bypass => execBypass_next
  | .dbgAccRead .. => execDbgAccRead_next
  | .dbgAccWrite .. => execDbgAccWrite_next
  | .readWord .. => execReadWord_next
  | .loadWord .. => execLoadWord_next
  | .programPage .. => execProgramPage_next
  | .eraseSector .. => execEraseSector_next
  | .readStatus => execReadStatus_next
  | .dbgUnlock .. => execDbgUnlock_next
  | .unlock .. => execUnlock_next
  | .openWrite .. => execOpenWrite_next
  | .testReset => execTestReset_next
  | .tackCntClr .. => execTackCntClr_next
  | .replayEnd .. => execReplayEnd_next
  | .arbitrationEnd .. => execArbitrationEnd_next
  | .substituteLoaded .. => execSubstituteLoaded_next
  | .lockstepMismatch => execLockstepMismatch_next
  | .readbackMismatch .. => execReadbackMismatch_next
  | .faultReset => execFaultReset_next
  | .injectEnd .. => execInjectEnd_next
  | .injectSingleBit .. => execInjectSingleBit_next
  | .injectDoubleBit .. => execInjectDoubleBit_next
  | .injectShedState .. => execInjectShedState_next
  | .injectResidue .. => execInjectResidue_next
  | .injectSignature .. => execInjectSignature_next
  | .injectCardCheck .. => execInjectCardCheck_next
  | .injectSensedLevel .. => execInjectSensedLevel_next
  | .injectReferenceLoss .. => execInjectReferenceLoss_next
  | .injectReadbackOffset .. => execInjectReadbackOffset_next
  | .fltCntClr .. => execFltCntClr_next
  | .referenceReturn => execReferenceReturn_next
  | .restoreOk => execRestoreOk_next
  | .pcieLinkTrained .. => execPcieLinkTrained_next
  | .indetBandExit .. => execIndetBandExit_next
  | .edgeCountAction .. => execEdgeCountAction_next
  | .firmwareRestartRequest => execFirmwareRestartRequest_next

/-- Settles O4: `exec_next`. -/
theorem everyCommandAnswersANextState : Obligations.EveryCommandAnswersANextState := by
  unfold Obligations.EveryCommandAnswersANextState
  exact exec_next

/-! ### What every step keeps -/

/-- Each meaning keeps `Inv`, by the lemma of its command. -/
theorem exec_inv {f : FuseSt} {q : List Instr} {s : State} (h : Inv f q s) (c : Instr) : InvR f q (exec c s) := by
  unfold exec
  cases c with
  | registerWrite => with_reducible exact execRegisterWrite_inv h
  | pairLoRead => with_reducible exact execPairLoRead_inv h
  | pairLoWrite => with_reducible exact execPairLoWrite_inv h
  | pairHiWrite => with_reducible exact execPairHiWrite_inv h
  | timeLoRead => with_reducible exact execTimeLoRead_inv h
  | commit => with_reducible exact execCommit_inv h
  | cntClr => with_reducible exact execCntClr_inv h
  | pickStart => with_reducible exact execPickStart_inv h
  | scanPoint => with_reducible exact execScanPoint_inv h
  | taskStart => with_reducible exact execTaskStart_inv h
  | expressStart => with_reducible exact execExpressStart_inv h
  | expressLimit => with_reducible exact execExpressLimit_inv h
  | contextResume => with_reducible exact execContextResume_inv h
  | shedCntClr => with_reducible exact execShedCntClr_inv h
  | ill => with_reducible exact execIll_inv h
  | nop => with_reducible exact execNop_inv h
  | aluAdd => with_reducible exact execAluAdd_inv h
  | aluSub => with_reducible exact execAluSub_inv h
  | aluAdc => with_reducible exact execAluAdc_inv h
  | aluSbc => with_reducible exact execAluSbc_inv h
  | aluAnd => with_reducible exact execAluAnd_inv h
  | aluOr => with_reducible exact execAluOr_inv h
  | aluXor => with_reducible exact execAluXor_inv h
  | aluShl => with_reducible exact execAluShl_inv h
  | aluShr => with_reducible exact execAluShr_inv h
  | aluSar => with_reducible exact execAluSar_inv h
  | aluMul => with_reducible exact execAluMul_inv h
  | aluMulh => with_reducible exact execAluMulh_inv h
  | aluMulhu => with_reducible exact execAluMulhu_inv h
  | aluDivs => with_reducible exact execAluDivs_inv h
  | aluDivu => with_reducible exact execAluDivu_inv h
  | aluMin => with_reducible exact execAluMin_inv h
  | aluMax => with_reducible exact execAluMax_inv h
  | cmp => with_reducible exact execCmp_inv h
  | addi => with_reducible exact execAddi_inv h
  | andi => with_reducible exact execAndi_inv h
  | ori => with_reducible exact execOri_inv h
  | xori => with_reducible exact execXori_inv h
  | shli => with_reducible exact execShli_inv h
  | shri => with_reducible exact execShri_inv h
  | sari => with_reducible exact execSari_inv h
  | cmpi => with_reducible exact execCmpi_inv h
  | sel => with_reducible exact execSel_inv h
  | lui => with_reducible exact execLui_inv h
  | li => with_reducible exact execLi_inv h
  | padd => with_reducible exact execPadd_inv h
  | pdif => with_reducible exact execPdif_inv h
  | ld => with_reducible exact execLd_inv h
  | ldh => with_reducible exact execLdh_inv h
  | ldhu => with_reducible exact execLdhu_inv h
  | ldbu => with_reducible exact execLdbu_inv h
  | ldd => with_reducible exact execLdd_inv h
  | st => with_reducible exact execSt_inv h
  | sth => with_reducible exact execSth_inv h
  | stb => with_reducible exact execStb_inv h
  | std => with_reducible exact execStd_inv h
  | ldc => with_reducible exact execLdc_inv h
  | stc => with_reducible exact execStc_inv h
  | fence => with_reducible exact execFence_inv h
  | br => with_reducible exact execBr_inv h
  | jmp => with_reducible exact execJmp_inv h
  | jal => with_reducible exact execJal_inv h
  | jr => with_reducible exact execJr_inv h
  | endTask => with_reducible exact execEndTask_inv h
  | sig => with_reducible exact execSig_inv h
  | evr => with_reducible exact execEvr_inv h
  | softwareEvent => with_reducible exact execSoftwareEvent_inv h
  | rds => with_reducible exact execRds_inv h
  | rdl => with_reducible exact execRdl_inv h
  | chr => with_reducible exact execChr_inv h
  | chw => with_reducible exact execChw_inv h
  | chwLand => with_reducible exact execChwLand_inv h
  | edge => with_reducible exact execEdge_inv h
  | shuttleEdgeOut => with_reducible exact execShuttleEdgeOut_inv h
  | arm => with_reducible exact execArm_inv h
  | disarm => with_reducible exact execDisarm_inv h
  | lerp => with_reducible exact execLerp_inv h
  | loadResult => with_reducible exact execLoadResult_inv h
  | storeAck => with_reducible exact execStoreAck_inv h
  | correctedWriteBack => with_reducible exact execCorrectedWriteBack_inv h
  | halt => with_reducible exact execHalt_inv h
  | halted => with_reducible exact execHalted_inv h
  | resume => with_reducible exact execResume_inv h
  | shuStep => with_reducible exact execShuStep_inv h
  | breakpointHit => with_reducible exact execBreakpointHit_inv h
  | shuCntClr => with_reducible exact execShuCntClr_inv h
  | harnessTick => with_reducible exact execHarnessTick_inv h
  | leaveOff => with_reducible exact execLeaveOff_inv h
  | enterOff => with_reducible exact execEnterOff_inv h
  | start => with_reducible exact execStart_inv h
  | rldWrite => with_reducible exact execRldWrite_inv h
  | compareWrite => with_reducible exact execCompareWrite_inv h
  | fineWrite => with_reducible exact execFineWrite_inv h
  | stagedWrite => with_reducible exact execStagedWrite_inv h
  | capRead => with_reducible exact execCapRead_inv h
  | filtWrite => with_reducible exact execFiltWrite_inv h
  | evcfgWrite => with_reducible exact execEvcfgWrite_inv h
  | prescWrite => with_reducible exact execPrescWrite_inv h
  | chCntClr => with_reducible exact execChCntClr_inv h
  | pinTransition => with_reducible exact execPinTransition_inv h
  | filterSample => with_reducible exact execFilterSample_inv h
  | load => with_reducible exact execLoad_inv h
  | loadAll => with_reducible exact execLoadAll_inv h
  | loadNow => with_reducible exact execLoadNow_inv h
  | tripCut => with_reducible exact execTripCut_inv h
  | blankingEnd => with_reducible exact execBlankingEnd_inv h
  | deadTimeEnd => with_reducible exact execDeadTimeEnd_inv h
  | tripWrite => with_reducible exact execTripWrite_inv h
  | tripfClear => with_reducible exact execTripfClear_inv h
  | harnCntClr => with_reducible exact execHarnCntClr_inv h
  | reedCntClr => with_reducible exact execReedCntClr_inv h
  | calibrationStep => with_reducible exact execCalibrationStep_inv h
  | cardPlace => with_reducible exact execCardPlace_inv h
  | nearPromotion => with_reducible exact execNearPromotion_inv h
  | cardSet => with_reducible exact execCardSet_inv h
  | cardClear => with_reducible exact execCardClear_inv h
  | cardToggle => with_reducible exact execCardToggle_inv h
  | cardPulse => with_reducible exact execCardPulse_inv h
  | loadCmpa => with_reducible exact execLoadCmpa_inv h
  | loadCmpb => with_reducible exact execLoadCmpb_inv h
  | userEvent => with_reducible exact execUserEvent_inv h
  | express => with_reducible exact execExpress_inv h
  | pulseEnd => with_reducible exact execPulseEnd_inv h
  | capEnd => with_reducible exact execCapEnd_inv h
  | crRdWrite => with_reducible exact execCrRdWrite_inv h
  | ringConfigWrite => with_reducible exact execRingConfigWrite_inv h
  | cardCntClr => with_reducible exact execCardCntClr_inv h
  | tooth => with_reducible exact execTooth_inv h
  | cycleStart => with_reducible exact execCycleStart_inv h
  | secondaryEdge => with_reducible exact execSecondaryEdge_inv h
  | secondaryWindowMiss => with_reducible exact execSecondaryWindowMiss_inv h
  | stall => with_reducible exact execStall_inv h
  | beaconMiss => with_reducible exact execBeaconMiss_inv h
  | trackerEnable => with_reducible exact execTrackerEnable_inv h
  | trackerDisable => with_reducible exact execTrackerDisable_inv h
  | phaseRead => with_reducible exact execPhaseRead_inv h
  | trRdWrite => with_reducible exact execTrRdWrite_inv h
  | trConfigWrite => with_reducible exact execTrConfigWrite_inv h
  | trdCntClr => with_reducible exact execTrdCntClr_inv h
  | posEnable => with_reducible exact execPosEnable_inv h
  | posDisable => with_reducible exact execPosDisable_inv h
  | posFilterSample => with_reducible exact execPosFilterSample_inv h
  | posLoad => with_reducible exact execPosLoad_inv h
  | latch => with_reducible exact execLatch_inv h
  | eventLatch => with_reducible exact execEventLatch_inv h
  | latPosRead => with_reducible exact execLatPosRead_inv h
  | standstill => with_reducible exact execStandstill_inv h
  | serStart => with_reducible exact execSerStart_inv h
  | frameStart => with_reducible exact execFrameStart_inv h
  | wordLanding => with_reducible exact execWordLanding_inv h
  | dataTimeout => with_reducible exact execDataTimeout_inv h
  | posCntClr => with_reducible exact execPosCntClr_inv h
  | hedJmp => with_reducible exact execHedJmp_inv h
  | hedWait => with_reducible exact execHedWait_inv h
  | waitLimit => with_reducible exact execWaitLimit_inv h
  | hedOut => with_reducible exact execHedOut_inv h
  | hedIn => with_reducible exact execHedIn_inv h
  | hedPull => with_reducible exact execHedPull_inv h
  | hedPush => with_reducible exact execHedPush_inv h
  | hedSet => with_reducible exact execHedSet_inv h
  | hedMov => with_reducible exact execHedMov_inv h
  | hedCrc => with_reducible exact execHedCrc_inv h
  | hedStamp => with_reducible exact execHedStamp_inv h
  | hedInvalidOpcode => with_reducible exact execHedInvalidOpcode_inv h
  | hedTriggerPending => with_reducible exact execHedTriggerPending_inv h
  | txdata => with_reducible exact execTxdata_inv h
  | rxdata => with_reducible exact execRxdata_inv h
  | hedStart => with_reducible exact execHedStart_inv h
  | hedStop => with_reducible exact execHedStop_inv h
  | fifoClr => with_reducible exact execFifoClr_inv h
  | cleanSwap => with_reducible exact execCleanSwap_inv h
  | forcedSwap => with_reducible exact execForcedSwap_inv h
  | hedHalt => with_reducible exact execHedHalt_inv h
  | hedResume => with_reducible exact execHedResume_inv h
  | hedStep => with_reducible exact execHedStep_inv h
  | hedCntClr => with_reducible exact execHedCntClr_inv h
  | comparatorChange => with_reducible exact execComparatorChange_inv h
  | comparatorEnable => with_reducible exact execComparatorEnable_inv h
  | comparatorDisable => with_reducible exact execComparatorDisable_inv h
  | indetEvaluation => with_reducible exact execIndetEvaluation_inv h
  | settleEnd => with_reducible exact execSettleEnd_inv h
  | threshWrite => with_reducible exact execThreshWrite_inv h
  | adcTriggerPending => with_reducible exact execAdcTriggerPending_inv h
  | sequenceStart => with_reducible exact execSequenceStart_inv h
  | readbackDue => with_reducible exact execReadbackDue_inv h
  | conversionStart => with_reducible exact execConversionStart_inv h
  | conversionResult => with_reducible exact execConversionResult_inv h
  | slotRead => with_reducible exact execSlotRead_inv h
  | rqRdWrite => with_reducible exact execRqRdWrite_inv h
  | winCntClr => with_reducible exact execWinCntClr_inv h
  | adcCntClr => with_reducible exact execAdcCntClr_inv h
  | scrubRead => with_reducible exact execScrubRead_inv h
  | preservingTest => with_reducible exact execPreservingTest_inv h
  | destructiveTest => with_reducible exact execDestructiveTest_inv h
  | copyEnd => with_reducible exact execCopyEnd_inv h
  | testEnd => with_reducible exact execTestEnd_inv h
  | restoreEnd => with_reducible exact execRestoreEnd_inv h
  | storeCntClr => with_reducible exact execStoreCntClr_inv h
  | bobStart => with_reducible exact execBobStart_inv h
  | bobAbort => with_reducible exact execBobAbort_inv h
  | gateOpen => with_reducible exact execGateOpen_inv h
  | gateClose => with_reducible exact execGateClose_inv h
  | transactionIssue => with_reducible exact execTransactionIssue_inv h
  | transactionReturn => with_reducible exact execTransactionReturn_inv h
  | hostCompletionTimeout => with_reducible exact execHostCompletionTimeout_inv h
  | hqPtrWrite => with_reducible exact execHqPtrWrite_inv h
  | bobCntClr => with_reducible exact execBobCntClr_inv h
  | bobcCntClr => with_reducible exact execBobcCntClr_inv h
  | raiseArrival => with_reducible exact execRaiseArrival_inv h
  | coalesceTimeout => with_reducible exact execCoalesceTimeout_inv h
  | msixHandover => with_reducible exact execMsixHandover_inv h
  | irqAssert => with_reducible exact execIrqAssert_inv h
  | pendClear => with_reducible exact execPendClear_inv h
  | maskClear => with_reducible exact execMaskClear_inv h
  | vecCtlWrite => with_reducible exact execVecCtlWrite_inv h
  | evmCntClr => with_reducible exact execEvmCntClr_inv h
  | vecCntClr => with_reducible exact execVecCntClr_inv h
  | powerOnReset => with_reducible exact execPowerOnReset_inv h
  | pinReset => with_reducible exact execPinReset_inv h
  | brownOut => with_reducible exact execBrownOut_inv h
  | resetRelease => with_reducible exact execResetRelease_inv h
  | pllLock => with_reducible exact execPllLock_inv h
  | flashDiscovery => with_reducible exact execFlashDiscovery_inv h
  | firmwareSelection => with_reducible exact execFirmwareSelection_inv h
  | selfTestEnd => with_reducible exact execSelfTestEnd_inv h
  | bootDraftApplied => with_reducible exact execBootDraftApplied_inv h
  | referenceLoss => with_reducible exact execReferenceLoss_inv h
  | restore => with_reducible exact execRestore_inv h
  | latencyNsWrite => with_reducible exact execLatencyNsWrite_inv h
  | dozeEntry => with_reducible exact execDozeEntry_inv h
  | dozeExit => with_reducible exact execDozeExit_inv h
  | slumberEntry => with_reducible exact execSlumberEntry_inv h
  | wakeComplete => with_reducible exact execWakeComplete_inv h
  | bankSleep => with_reducible exact execBankSleep_inv h
  | supplyLow => with_reducible exact execSupplyLow_inv h
  | supplyRecovery => with_reducible exact execSupplyRecovery_inv h
  | pwrCntClr => with_reducible exact execPwrCntClr_inv h
  | verifyComplete => with_reducible exact execVerifyComplete_inv h
  | switchInstant => with_reducible exact execSwitchInstant_inv h
  | channelApplication => with_reducible exact execChannelApplication_inv h
  | forcedApplication => with_reducible exact execForcedApplication_inv h
  | changeoverEnd => with_reducible exact execChangeoverEnd_inv h
  | nonhitlessApply => with_reducible exact execNonhitlessApply_inv h
  | slotTableCommit => with_reducible exact execSlotTableCommit_inv h
  | chgCntClr => with_reducible exact execChgCntClr_inv h
  | portDown => with_reducible exact execPortDown_inv h
  | portLock => with_reducible exact execPortLock_inv h
  | portMeasure => with_reducible exact execPortMeasure_inv h
  | portUp => with_reducible exact execPortUp_inv h
  | echoRequest => with_reducible exact execEchoRequest_inv h
  | echoAnswer => with_reducible exact execEchoAnswer_inv h
  | echoReply => with_reducible exact execEchoReply_inv h
  | trainSend => with_reducible exact execTrainSend_inv h
  | trainReceive => with_reducible exact execTrainReceive_inv h
  | trainReturn => with_reducible exact execTrainReturn_inv h
  | ringTimeout => with_reducible exact execRingTimeout_inv h
  | lineDeadline => with_reducible exact execLineDeadline_inv h
  | selCntClr => with_reducible exact execSelCntClr_inv h
  | pcieWrite => with_reducible exact execPcieWrite_inv h
  | pcieRead => with_reducible exact execPcieRead_inv h
  | readCompletion => with_reducible exact execReadCompletion_inv h
  | configRequest => with_reducible exact execConfigRequest_inv h
  | hostReset => with_reducible exact execHostReset_inv h
  | spiWrite => with_reducible exact execSpiWrite_inv h
  | spiRead => with_reducible exact execSpiRead_inv h
  | spiQuadWrite => with_reducible exact execSpiQuadWrite_inv h
  | spiQuadRead => with_reducible exact execSpiQuadRead_inv h
  | doorbell => with_reducible exact execDoorbell_inv h
  | commandStart => with_reducible exact execCommandStart_inv h
  | commandCompletion => with_reducible exact execCommandCompletion_inv h
  | echo => with_reducible exact execEcho_inv h
  | armCmd => with_reducible exact execArmCmd_inv h
  | stop => with_reducible exact execStop_inv h
  | hold => with_reducible exact execHold_inv h
  | clearHold => with_reducible exact execClearHold_inv h
  | maintEnter => with_reducible exact execMaintEnter_inv h
  | maintLeave => with_reducible exact execMaintLeave_inv h
  | deviceReset => with_reducible exact execDeviceReset_inv h
  | commandReset => with_reducible exact execCommandReset_inv h
  | draftWrite => with_reducible exact execDraftWrite_inv h
  | draftVerify => with_reducible exact execDraftVerify_inv h
  | draftAbort => with_reducible exact execDraftAbort_inv h
  | changeover => with_reducible exact execChangeover_inv h
  | revert => with_reducible exact execRevert_inv h
  | lineChangeover => with_reducible exact execLineChangeover_inv h
  | hedLoad => with_reducible exact execHedLoad_inv h
  | fwWrite => with_reducible exact execFwWrite_inv h
  | fwActivate => with_reducible exact execFwActivate_inv h
  | logRead => with_reducible exact execLogRead_inv h
  | keyEnrol => with_reducible exact execKeyEnrol_inv h
  | keyRevoke => with_reducible exact execKeyRevoke_inv h
  | secureEnable => with_reducible exact execSecureEnable_inv h
  | epochRaise => with_reducible exact execEpochRaise_inv h
  | mbxCntClr => with_reducible exact execMbxCntClr_inv h
  | hostCntClr => with_reducible exact execHostCntClr_inv h
  | tempSample => with_reducible exact execTempSample_inv h
  | supplySample => with_reducible exact execSupplySample_inv h
  | logFlashCopy => with_reducible exact execLogFlashCopy_inv h
  | tacklerClockFault => with_reducible exact execTacklerClockFault_inv h
  | pllLockLoss => with_reducible exact execPllLockLoss_inv h
  | watchdogExpiry => with_reducible exact execWatchdogExpiry_inv h
  | restart => with_reducible exact execRestart_inv h
  | restartEnd => with_reducible exact execRestartEnd_inv h
  | flashProgramDone => with_reducible exact execFlashProgramDone_inv h
  | flashError => with_reducible exact execFlashError_inv h
  | extest => with_reducible exact execExtest_inv h
  | idcode => with_reducible exact execIdcode_inv h
  | samplePreload => with_reducible exact execSamplePreload_inv h
  | clamp => with_reducible exact execClamp_inv h
  | highz => with_reducible exact execHighz_inv h
  | bypass => with_reducible exact execBypass_inv h
  | dbgAccRead => with_reducible exact execDbgAccRead_inv h
  | dbgAccWrite => with_reducible exact execDbgAccWrite_inv h
  | readWord => with_reducible exact execReadWord_inv h
  | loadWord => with_reducible exact execLoadWord_inv h
  | programPage => with_reducible exact execProgramPage_inv h
  | eraseSector => with_reducible exact execEraseSector_inv h
  | readStatus => with_reducible exact execReadStatus_inv h
  | dbgUnlock => with_reducible exact execDbgUnlock_inv h
  | unlock => with_reducible exact execUnlock_inv h
  | openWrite => with_reducible exact execOpenWrite_inv h
  | testReset => with_reducible exact execTestReset_inv h
  | tackCntClr => with_reducible exact execTackCntClr_inv h
  | replayEnd => with_reducible exact execReplayEnd_inv h
  | arbitrationEnd => with_reducible exact execArbitrationEnd_inv h
  | substituteLoaded => with_reducible exact execSubstituteLoaded_inv h
  | lockstepMismatch => with_reducible exact execLockstepMismatch_inv h
  | readbackMismatch => with_reducible exact execReadbackMismatch_inv h
  | faultReset => with_reducible exact execFaultReset_inv h
  | injectEnd => with_reducible exact execInjectEnd_inv h
  | injectSingleBit => with_reducible exact execInjectSingleBit_inv h
  | injectDoubleBit => with_reducible exact execInjectDoubleBit_inv h
  | injectShedState => with_reducible exact execInjectShedState_inv h
  | injectResidue => with_reducible exact execInjectResidue_inv h
  | injectSignature => with_reducible exact execInjectSignature_inv h
  | injectCardCheck => with_reducible exact execInjectCardCheck_inv h
  | injectSensedLevel => with_reducible exact execInjectSensedLevel_inv h
  | injectReferenceLoss => with_reducible exact execInjectReferenceLoss_inv h
  | injectReadbackOffset => with_reducible exact execInjectReadbackOffset_inv h
  | fltCntClr => with_reducible exact execFltCntClr_inv h
  | referenceReturn => with_reducible exact execReferenceReturn_inv h
  | restoreOk => with_reducible exact execRestoreOk_inv h
  | pcieLinkTrained => with_reducible exact execPcieLinkTrained_inv h
  | indetBandExit => with_reducible exact execIndetBandExit_inv h
  | edgeCountAction => with_reducible exact execEdgeCountAction_inv h
  | firmwareRestartRequest => with_reducible exact execFirmwareRestartRequest_inv h

/-- A step keeps the memories canonical and the fuses grown, and takes the front of the queue. -/
theorem step_inv {s t : State} (hmem : Memory.wf s.mem = true) (hflash : Flash.wf s.flash.bytes = true)
    (hstep : step s = .next t) : Inv s.fuse s.pending.tail t := by
  have hkeep : InvR s.fuse s.pending.tail (step s) := by
    unfold step
    cases hq : s.pending with
    | nil => exact settle_inv (idleCycle_inv ⟨hmem, hflash, FuseSt.le_refl _, hq⟩)
    | cons c rest =>
      have hrest : Inv s.fuse rest { s with pending := rest } := ⟨hmem, hflash, FuseSt.le_refl _, rfl⟩
      exact exec_inv hrest c
  rwa [hstep] at hkeep

/-- Settles O5: the stores, the flash and the queue of what `step_inv` says that a step keeps. -/
theorem stepKeepsMemoriesCanonical : Obligations.StepKeepsMemoriesCanonical := by
  unfold Obligations.StepKeepsMemoriesCanonical
  intro s t hmem hflash hstep
  obtain ⟨hm, hf, -, hq⟩ := step_inv hmem hflash hstep
  exact ⟨hm, hf, hq⟩

/-- Settles O6: the fuses of what `step_inv` says that a step keeps. -/
theorem noFuseIsUnblown : Obligations.NoFuseIsUnblown := by
  unfold Obligations.NoFuseIsUnblown
  intro s t hmem hflash hstep
  obtain ⟨-, -, hfuse, -⟩ := step_inv hmem hflash hstep
  exact hfuse

/-! ### The queue, and reset -/

/-- Settles O1: the step matches on the queue. -/
theorem frontCommandRuns : Obligations.FrontCommandRuns := by
  unfold Obligations.FrontCommandRuns
  intro c rest s
  rfl

/-- Settles O3: the fields of the state at reset, evaluated. -/
theorem resetState : Obligations.ResetState := by
  unfold Obligations.ResetState
  decide

/-- Settles O7: the state at reset lists no byte of the stores or of the flash. -/
theorem resetMeetsTheInvariants : Obligations.ResetMeetsTheInvariants := reset_mem_wf

/-- Settles O11: `settle_quiet`, since a changeover is pending in stage 4 alone. -/
theorem nothingLeftToSettle : Obligations.NothingLeftToSettle := by
  unfold Obligations.NothingLeftToSettle
  intro s hdet hstage
  exact settle_quiet ⟨hdet, by simp [chgPending, hstage]⟩

end Sys2Proof.Machine
end

section
/-!
PROOFS. The words of the engines' instructions decode and encode (03_shuttle_engines.md R85, R86, 09_heddle_engines.md R315).
-/

namespace Sys2Proof

/-! ### The fields of a shuttle word (R85) -/

/-- The fields of a word do not overlap, and a word of them has 32 bits. -/
theorem toNat_ofNat_shuWord {op d a b imm : Nat} (hop : op < 64) (hd : d < 16) (hlow : a * 2 ^ 18 + b * 2 ^ 14 + imm < 2 ^ 22) :
    (BitVec.ofNat 32 (shuWord op d a b imm)).toNat = shuWord op d a b imm := by
  rw [BitVec.toNat_ofNat, shuWord]
  exact Nat.mod_eq_of_lt (by grind)

theorem shuOpcode_shuWord {op d a b imm : Nat} (hop : op < 64) (hd : d < 16) (hlow : a * 2 ^ 18 + b * 2 ^ 14 + imm < 2 ^ 22) :
    shuOpcode (BitVec.ofNat 32 (shuWord op d a b imm)) = op := by
  rw [shuOpcode, toNat_ofNat_shuWord hop hd hlow, shuWord]
  omega

theorem shuD_shuWord {op a b imm : Nat} {d : Fin 16} (hop : op < 64) (hlow : a * 2 ^ 18 + b * 2 ^ 14 + imm < 2 ^ 22) :
    shuD (BitVec.ofNat 32 (shuWord op d a b imm)) = d := by
  apply Fin.ext
  rw [shuD, toNat_ofNat_shuWord hop d.isLt hlow, shuWord, Fin.val_ofNat]
  omega

theorem shuA_shuWord {op d b imm : Nat} {a : Fin 16} (hop : op < 64) (hd : d < 16) (hlow : b * 2 ^ 14 + imm < 2 ^ 18) :
    shuA (BitVec.ofNat 32 (shuWord op d a b imm)) = a := by
  have hfields : a.val * 2 ^ 18 + b * 2 ^ 14 + imm < 2 ^ 22 := by grind
  apply Fin.ext
  rw [shuA, toNat_ofNat_shuWord hop hd hfields, shuWord, Fin.val_ofNat]
  omega

theorem shuB_shuWord {op d a imm : Nat} {b : Fin 16} (hop : op < 64) (hd : d < 16) (ha : a < 16) (himm : imm < 2 ^ 14) :
    shuB (BitVec.ofNat 32 (shuWord op d a b imm)) = b := by
  apply Fin.ext
  rw [shuB, toNat_ofNat_shuWord hop hd (by omega), shuWord, Fin.val_ofNat]
  omega

theorem shuImm14_shuWord {op d a b : Nat} {imm : BitVec 14} (hop : op < 64) (hd : d < 16) (ha : a < 16) (hb : b < 16) :
    shuImm14 (BitVec.ofNat 32 (shuWord op d a b imm.toNat)) = imm := by
  apply BitVec.eq_of_toNat_eq
  rw [shuImm14, toNat_ofNat_shuWord hop hd (by omega), shuWord, BitVec.toNat_ofNat]
  omega

theorem shuImm18_shuWord {op d : Nat} {imm : BitVec 18} (hop : op < 64) (hd : d < 16) :
    shuImm18 (BitVec.ofNat 32 (shuWord op d 0 0 imm.toNat)) = imm := by
  apply BitVec.eq_of_toNat_eq
  rw [shuImm18, toNat_ofNat_shuWord hop hd (by omega), shuWord, BitVec.toNat_ofNat]
  omega

theorem shuCond_shuWord {op a b imm : Nat} {cond : BitVec 4} (hop : op < 64) (hlow : a * 2 ^ 18 + b * 2 ^ 14 + imm < 2 ^ 22) :
    shuCond (BitVec.ofNat 32 (shuWord op cond.toNat a b imm)) = cond := by
  apply BitVec.eq_of_toNat_eq
  rw [shuCond, toNat_ofNat_shuWord hop (by omega) hlow, shuWord, BitVec.toNat_ofNat]
  omega

theorem shuSelCond_shuWord {op d a b : Nat} {cond : BitVec 4} (hop : op < 64) (hd : d < 16) (ha : a < 16) (hb : b < 16) :
    shuSelCond (BitVec.ofNat 32 (shuWord op d a b cond.toNat)) = cond := by
  apply BitVec.eq_of_toNat_eq
  rw [shuSelCond, toNat_ofNat_shuWord hop hd (by omega), shuWord, BitVec.toNat_ofNat]
  omega

/-- The word of an instruction decodes to it: its fields are those of the word, in each form of R85. -/
theorem shuEncode_decodes {i : Instr} {w : Nat} (h : shuEncode i = some w) :
    w < 2 ^ 32 ∧ ∃ e, shuDecode e (BitVec.ofNat 32 w) = i := by
  unfold shuEncode at h
  split at h
  all_goals cases h
  case h_1 e => exact ⟨by decide, e, rfl⟩
  all_goals
    refine ⟨by rw [shuWord]; omega, ‹Fin 34›, ?_⟩
    simp (disch := omega) only [shuDecode, shuOpcode_shuWord, shuD_shuWord, shuA_shuWord, shuB_shuWord,
      shuImm14_shuWord, shuImm18_shuWord, shuCond_shuWord, shuSelCond_shuWord]


/-- The fields that a form of R85 leaves unused do not matter to the instruction. -/
theorem shuDecode_encodes (e : Fin 34) (w : BitVec 32) :
    ∃ n, shuEncode (shuDecode e w) = some n ∧ shuDecode e (BitVec.ofNat 32 n) = shuDecode e w := by
  conv in (occs := *) shuDecode e w => all_goals unfold shuDecode
  split
  all_goals refine ⟨_, rfl, ?_⟩
  case h_60 => rfl
  all_goals
    simp (disch := omega) only [shuDecode, shuOpcode_shuWord, shuD_shuWord, shuA_shuWord, shuB_shuWord,
      shuImm14_shuWord, shuImm18_shuWord, shuCond_shuWord, shuSelCond_shuWord]

/-- Settles O8: both directions, from the fields of a word. -/
theorem shuttleWordsRoundTrip : Obligations.ShuttleWordsRoundTrip := by
  unfold Obligations.ShuttleWordsRoundTrip
  exact ⟨fun _ _ h => shuEncode_decodes h, shuDecode_encodes⟩

/-! ### Heddle words (R315) -/

theorem hedWord_lt {op : Nat} (f : BitVec 12) (hop : op < 16) : f.toNat * 16 + op < 2 ^ 16 := by
  omega

theorem toNat_ofNat_hedWord {op : Nat} (f : BitVec 12) (hop : op < 16) :
    (BitVec.ofNat 16 (f.toNat * 16 + op)).toNat = f.toNat * 16 + op := by
  rw [BitVec.toNat_ofNat]
  exact Nat.mod_eq_of_lt (hedWord_lt f hop)

theorem hedOpcode_word {op : Nat} (f : BitVec 12) (hop : op < 16) :
    (BitVec.ofNat 16 (f.toNat * 16 + op)).toNat % 16 = op := by
  rw [toNat_ofNat_hedWord f hop]
  omega

theorem hedFields_word {op : Nat} (f : BitVec 12) (hop : op < 16) :
    hedFields (BitVec.ofNat 16 (f.toNat * 16 + op)) = f := by
  apply BitVec.eq_of_toNat_eq
  rw [hedFields, toNat_ofNat_hedWord f hop, BitVec.toNat_ofNat]
  omega

/-- A word is its fields and its opcode. -/
theorem hedFields_opcode (w : BitVec 16) : (hedFields w).toNat * 16 + w.toNat % 16 = w.toNat := by
  rw [hedFields, BitVec.toNat_ofNat]
  omega

theorem hedEncode_decodes {i : Instr} {w : Nat} (h : hedEncode i = some w) :
    w < 2 ^ 16 ∧ ∃ e, hedDecode e (BitVec.ofNat 16 w) = i := by
  unfold hedEncode at h
  split at h
  all_goals cases h
  all_goals
    refine ⟨hedWord_lt _ (by decide), ‹Fin 64›, ?_⟩
    simp (disch := decide) only [hedDecode, hedOpcode_word, hedFields_word]

theorem hedDecode_encodes {e : Fin 64} {w : BitVec 16} (h : 1 ≤ w.toNat % 16 ∧ w.toNat % 16 ≤ 10) :
    hedEncode (hedDecode e w) = some w.toNat := by
  have hword := hedFields_opcode w
  unfold hedDecode
  split
  case h_11 => grind
  all_goals exact congrArg some (by omega)

/-- Settles O9: a word is its fields and its opcode, for each instruction. -/
theorem heddleWordsRoundTrip : Obligations.HeddleWordsRoundTrip := by
  unfold Obligations.HeddleWordsRoundTrip
  exact ⟨fun _ _ h => hedEncode_decodes h, fun _ _ h => hedDecode_encodes h⟩

/-- Settles O10: the words evaluated. -/
theorem sampleWordsDecode : Obligations.SampleWordsDecode := by
  unfold Obligations.SampleWordsDecode
  decide

end Sys2Proof
end

section
/-!
PROOFS. The commands that stand for a register write or a register read land when the device takes them (00_scope.md
R4 to R11, R535, R536).
-/

namespace Sys2Proof.Machine

/-! ### Writes -/

theorem exec_registerWrite_accepts {p : Path} {a : BitVec 32} {v : BitVec 64} {s : State} (haligned : a.toNat % 4 = 0)
    (hbar : a.toNat < 0x1000000) (h : Accepts p a.toNat (wd v.toNat) s) :
    exec (.registerWrite p a .w32 v) s = .next (settle (applyWrite a.toNat (wd v.toNat) (inTurn p s))) := by
  have hstore : inStore a.toNat = false := by
    have hplain := h.2.1
    simp only [plainReg, Bool.and_eq_true, Bool.not_eq_true'] at hplain
    exact hplain.1.1.1.1.2
  rw [exec_registerWrite_takes h.1, accessWrite_word haligned (by omega) hstore, writeReg_accepts h]

/-- Settles O12: each command of the table is the write that the table gives, and REGISTER_WRITE that of its address. -/
theorem registerCommandsLand : Obligations.RegisterCommandsLand := by
  unfold Obligations.RegisterCommandsLand
  intro c s p a v hwrite haccepts
  unfold regWrite at hwrite
  split at hwrite
  case h_1 =>
    split at hwrite
    case isTrue h =>
      cases hwrite
      exact exec_registerWrite_accepts h.1 h.2 haccepts
    case isFalse => cases hwrite
  case h_85 isOpen =>
    cases hwrite
    cases isOpen <;> exact writeCmd_accepts haccepts
  all_goals cases hwrite
  all_goals exact writeCmd_accepts haccepts


/-! ### Reads -/

/-- Of a device that is awake and in a mode from IDLE on, a read of a register is the read with its side effect. -/
theorem readDw_register {p : Path} {a : Nat} {s : State} (hpower : power s ≠ 2) (hlive : live s = true)
    (h : readableReg a = true) : readDw p a s = sideRead a s := by
  simp only [readableReg, Bool.and_eq_true, Bool.not_eq_true', Option.isSome_iff_ne_none, ne_eq] at h
  obtain ⟨⟨⟨⟨hdesc, hhole⟩, hstore⟩, htask⟩, hcode⟩ := h
  have hmode : 3 ≤ mode s := by
    simp only [live, decide_eq_true_eq] at hlive
    omega
  have hserved : served s a = true := by
    have h0 : mode s ≠ 0 := by omega
    simp [served, h0, Nat.not_lt.2 hmode, hpower]
  simp [readDw, hpower, hserved, hhole, hstore, htask, hcode, hdesc]

theorem readCmd_register {p : Path} {a : Nat} {s : State} (ht : Takes p s) (hlive : live (inTurn p s) = true)
    (h : readableReg a = true) : readCmd p a s =
      .next (settle { (sideRead a (inTurn p s)).2 with rdata := [(sideRead a (inTurn p s)).1] }) := by
  rw [readCmd_takes ht.1, readWordOp, readDw_register ht.2 hlive h]

/-- Settles O13: each command of the table is the read that the table gives. -/
theorem registerReadsAnswer : Obligations.RegisterReadsAnswer := by
  unfold Obligations.RegisterReadsAnswer
  intro c s p a hread ht hlive hreg
  unfold regRead at hread
  split at hread
  all_goals cases hread
  all_goals exact readCmd_register ht hlive hreg

end Sys2Proof.Machine
end

section
/-!
PROOFS. The arithmetic, logic, shift, product and comparison instructions of the shuttle engines (03_shuttle_engines.md R86).
-/

namespace Sys2Proof.Machine

/-! ### Forms of meaning -/

/-- The residue check after a change that leaves what is injected (R114). -/
theorem when_residue_unaffected {e : Nat} {chk : Bool} {s t u : State} (hflt : u.flt = t.flt) (h : SnapFrame e s t)
    (hres : chk = true → active s e = .express ∨ s.flt.injRes ≠ some e) : when_ chk (residue e (active s e)) u = u := by
  cases chk with
  | false => rfl
  | true => exact residue_unaffected (hflt.trans h.flt) (hres rfl)

/-- An instruction with an immediate in place of its second operand writes the result and flags of its operands. -/
theorem immBody_retires {e d a : Nat} {v : Word} {chk : Bool} {f : Flags → Word → Word → Word × Flags} {s t : State}
    (hres : chk = true → active s e = .express ∨ s.flt.injRes ≠ some e) (h : SnapFrame e s t) :
    let c := ctx s e (active s e)
    let r := f c.flags (gr s e (active s e) a) v
    let u := immBody e d a v chk f (active s e) t
    IssueFrame e 1 (c.pc + 1) s u ∧ Writes e d 1 r.1 r.2 s u := by
  intro c r u
  have hput : u = retireTo e (active s e) (c.pc + 1) 1 (putResult e (active s e) d 1 r t) := by
    simp only [u, immBody, retire, h.ctxs, h.gr]
    rw [when_residue_unaffected putResult_flt h hres, putResult_ctx, h.ctxs]
  rw [hput]
  exact put_retire h

/-- A comparison sets the flags of the difference. -/
theorem cmpBody_retires {e a : Nat} {v : State → Ctx → Word} {s t : State}
    (hres : active s e = .express ∨ s.flt.injRes ≠ some e) (h : SnapFrame e s t) (hv : v t (active s e) = v s (active s e)) :
    let c := ctx s e (active s e)
    let u := cmpBody e a v (active s e) t
    IssueFrame e 1 (c.pc + 1) s u ∧ Sets e (subFlags (gr s e (active s e) a) (v s (active s e)) 0).2 s u := by
  intro c u
  have hset : u = retireTo e (active s e) (c.pc + 1) 1
      (setFlags e (active s e) (subFlags (gr s e (active s e) a) (v s (active s e)) 0).2 t) := by
    simp only [u, cmpBody, retire, h.gr, hv]
    rw [residue_unaffected (u := setFlags _ _ _ _) (s := s) (by simp [setFlags, h.flt]) hres]
    simp [setFlags, h.ctxs, c]
  rw [hset]
  exact set_retire h

/-- A constant is written and the flags stay. -/
theorem constBody_retires {e d : Nat} {v w : Word} {s t : State} (hv : v = w) (h : SnapFrame e s t) :
    let c := ctx s e (active s e)
    let u := constBody e d v (active s e) t
    IssueFrame e 1 (c.pc + 1) s u ∧ Writes e d 1 w c.flags s u := by
  intro c u
  subst hv
  have hpc : (ctx (setG e (active s e) d v (t.time + 1) t) e (active s e)).pc = c.pc := by
    simp only [setG, ctx_modCtx_same, gset, h.ctxs]
    split <;> rfl
  have hset : u = retireTo e (active s e) (c.pc + 1) 1 (setG e (active s e) d v (t.time + 1) t) := by
    simp only [u, constBody, retire, hpc]
  rw [hset]
  exact setG_retire h

/-! ### Results -/

/-- A sum of signed words and a carry differs from the word that holds it just where it is out of range. -/
theorem toInt_wd_add_ne (x y : Word) {cin : Nat} (hc : cin ≤ 1) :
    x.toInt + y.toInt + cin ≠ (wd (x.toNat + y.toNat + cin)).toInt ↔
      x.toInt + y.toInt + cin < -2 ^ 31 ∨ 2 ^ 31 ≤ x.toInt + y.toInt + cin := by
  have hx := x.isLt
  have hy := y.isLt
  rw [wd, BitVec.toInt_eq_toNat_cond, BitVec.toInt_eq_toNat_cond, BitVec.toInt_eq_toNat_cond, BitVec.toNat_ofNat]
  split <;> split <;> split <;> omega

theorem addFlags_spec (x y : Word) {cin : Nat} (hc : cin ≤ 1) : SumOf x y cin (addFlags x y cin).1 (addFlags x y cin).2 := by
  refine ⟨BitVec.toNat_ofNat _ _, rfl, rfl, rfl, ?_⟩
  exact decide_eq_decide.2 (toInt_wd_add_ne x y hc)

/-- A difference of words and a borrow as the integer modulo 2^32. -/
theorem sub_eq_ofInt (x y : Word) (borrow : Nat) : x - y - wd borrow = BitVec.ofInt 32 (x.toNat - y.toNat - borrow) := by
  have hx := x.isLt
  have hy := y.isLt
  apply BitVec.eq_of_toNat_eq
  rw [BitVec.toNat_sub, BitVec.toNat_sub, BitVec.toNat_ofInt, wd, BitVec.toNat_ofNat]
  omega

theorem toInt_sub_ne (x y : Word) {borrow : Nat} (hb : borrow ≤ 1) :
    x.toInt - y.toInt - borrow ≠ (x - y - wd borrow).toInt ↔
      x.toInt - y.toInt - borrow < -2 ^ 31 ∨ 2 ^ 31 ≤ x.toInt - y.toInt - borrow := by
  have hx := x.isLt
  have hy := y.isLt
  rw [sub_eq_ofInt, BitVec.toInt_ofInt, BitVec.toInt_eq_toNat_cond, BitVec.toInt_eq_toNat_cond, Int.bmod_def]
  split <;> split <;> split <;> omega

theorem subFlags_spec (x y : Word) {borrow : Nat} (hb : borrow ≤ 1) :
    DifferenceOf x y borrow (subFlags x y borrow).1 (subFlags x y borrow).2 := by
  refine ⟨sub_eq_ofInt x y borrow, rfl, rfl, rfl, ?_⟩
  exact decide_eq_decide.2 (toInt_sub_ne x y hb)

theorem b2n_eq (b : Bool) : b2n b = if b then 1 else 0 := by cases b <;> rfl

theorem sub_b2n_eq (b : Bool) : 1 - b2n b = if b then 0 else 1 := by cases b <;> rfl

theorem minResult_spec (f : Flags) (x y : Word) : (minResult f x y).1.toInt = min x.toInt y.toInt := by
  unfold minResult
  split <;> simp only <;> omega

theorem maxResult_spec (f : Flags) (x y : Word) : (maxResult f x y).1.toInt = max x.toInt y.toInt := by
  unfold maxResult
  split <;> simp only <;> omega

theorem mulLow_toNat (x y : Word) : (mulLow x y).toNat = x.toNat * y.toNat % 2 ^ 32 := BitVec.toNat_mul x y

theorem natAbs_toInt_le (x : Word) : x.toInt.natAbs ≤ 2 ^ 31 := by
  have hlow := BitVec.le_toInt x
  have hhigh := BitVec.toInt_lt (x := x)
  omega

/-- The upper half of a signed product fits into a word. -/
theorem mulHigh_toInt (x y : Word) : (mulHigh x y).toInt = x.toInt * y.toInt / 2 ^ 32 := by
  have hprod : (x.toInt * y.toInt).natAbs ≤ 2 ^ 31 * 2 ^ 31 := by
    rw [Int.natAbs_mul]
    exact Nat.mul_le_mul (natAbs_toInt_le x) (natAbs_toInt_le y)
  rw [mulHigh, BitVec.toInt_ofInt, Int.bmod_eq_of_le] <;> omega

theorem mulHighU_toNat (x y : Word) : (mulHighU x y).toNat = x.toNat * y.toNat / 2 ^ 32 := by
  have hlt : x.toNat * y.toNat < 2 ^ 32 * 2 ^ 32 := Nat.mul_lt_mul'' x.isLt y.isLt
  rw [mulHighU, wd, BitVec.toNat_ofNat, Nat.mod_eq_of_lt (Nat.div_lt_of_lt_mul hlt)]

/-- A constant of LUI is its immediate shifted left. -/
theorem wd_shift14 (imm : BitVec 18) : wd (imm.toNat * 2 ^ 14) = imm.zeroExtend 32 <<< 14 := by
  apply BitVec.eq_of_toNat_eq
  simp [wd, Nat.shiftLeft_eq]

theorem shl_toNat (x : Word) (k : Nat) : (x <<< k).toNat = x.toNat * 2 ^ k % 2 ^ 32 := by
  rw [BitVec.toNat_shiftLeft, Nat.shiftLeft_eq]

theorem shr_toNat (x : Word) (k : Nat) : (x >>> k).toNat = x.toNat / 2 ^ k := by
  rw [BitVec.toNat_ushiftRight, Nat.shiftRight_eq_div_pow]

theorem sar_toInt (x : Word) (k : Nat) : (x.sshiftRight k).toInt = x.toInt / 2 ^ k := by
  rw [BitVec.toInt_sshiftRight, Int.shiftRight_eq_div_pow]
  norm_cast

/-- The amount of a shift with an immediate. -/
theorem fld_zext14 (imm : BitVec 14) : fld (zext14 imm) 0 5 = imm.toNat % 32 := by
  simp only [fld_zero, zext14, BitVec.truncate_eq_setWidth, BitVec.toNat_setWidth]
  have := imm.isLt
  omega

/-! ### The statements -/

/-- Settles O22: each sum and difference by the flags' functions of its operands. -/
theorem shuttleSums : Obligations.ShuttleSums := by
  unfold Obligations.ShuttleSums
  refine ⟨?add, ?sub, ?adc, ?sbc, ?addi⟩
  case add =>
    intro e d a b s x y h q hres
    refine issue_frame rfl h q fun t ht => ?_
    obtain ⟨hframe, hwrites⟩ := aluBody_retires (fun _ => hres) ht
    exact ⟨hframe, _, _, addFlags_spec x y (by decide), hwrites⟩
  case sub =>
    intro e d a b s x y h q hres
    refine issue_frame rfl h q fun t ht => ?_
    obtain ⟨hframe, hwrites⟩ := aluBody_retires (fun _ => hres) ht
    exact ⟨hframe, _, _, subFlags_spec x y (by decide), hwrites⟩
  case adc =>
    intro e d a b s x y f h q hres
    refine issue_frame rfl h q fun t ht => ?_
    obtain ⟨hframe, hwrites⟩ := aluBody_retires (fun _ => hres) ht
    rw [← b2n_eq]
    exact ⟨hframe, _, _, addFlags_spec x y (by rw [b2n_eq]; split <;> omega), hwrites⟩
  case sbc =>
    intro e d a b s x y f h q hres
    refine issue_frame rfl h q fun t ht => ?_
    obtain ⟨hframe, hwrites⟩ := aluBody_retires (fun _ => hres) ht
    rw [← sub_b2n_eq]
    exact ⟨hframe, _, _, subFlags_spec x y (Nat.sub_le _ _), hwrites⟩
  case addi =>
    intro e d a imm s x h q hres
    refine issue_frame rfl h q fun t ht => ?_
    obtain ⟨hframe, hwrites⟩ := immBody_retires (fun _ => hres) ht
    exact ⟨hframe, _, _, addFlags_spec x (imm.signExtend 32) (by decide), hwrites⟩

/-- An instruction of two operands that the residue check does not cover. -/
theorem alu_unchecked {e : Fin 34} {i : Instr} {uses : List Nat} {need d a b : Nat} {free : Bool} {dsts : Nat}
    {f : Flags → Word → Word → Word × Flags} {s : State} (hn : shuNeeds i = some (uses, need, free)) (h : Issues e i s)
    (q : Quiet s) :
    let r := f (ctx s e (active s e)).flags (gr s e (active s e) a) (gr s e (active s e) b)
    ∃ t, issue e i uses dsts need free (aluBody e d a b 1 false f) s = .next t ∧
      IssueFrame e 1 ((ctx s e (active s e)).pc + 1) s t ∧ Writes e d 1 r.1 r.2 s t :=
  issue_frame hn h q fun _ ht => aluBody_retires (by simp) ht

/-- The same with an immediate. -/
theorem imm_unchecked {e : Fin 34} {i : Instr} {uses : List Nat} {need d a : Nat} {v : Word} {free : Bool} {dsts : Nat}
    {f : Flags → Word → Word → Word × Flags} {s : State} (hn : shuNeeds i = some (uses, need, free)) (h : Issues e i s)
    (q : Quiet s) :
    let r := f (ctx s e (active s e)).flags (gr s e (active s e) a) v
    ∃ t, issue e i uses dsts need free (immBody e d a v false f) s = .next t ∧
      IssueFrame e 1 ((ctx s e (active s e)).pc + 1) s t ∧ Writes e d 1 r.1 r.2 s t :=
  issue_frame hn h q fun _ ht => immBody_retires (by simp) ht

theorem exec_nop (e : Fin 34) (s : State) : exec (.nop e) s = issue e (.nop e) [] 0 0 false (fun x => retire e x 1) s := rfl

/-- Settles O23: each logic instruction, selection and constant by its function of the operands. -/
theorem shuttleLogic : Obligations.ShuttleLogic := by
  unfold Obligations.ShuttleLogic
  refine ⟨?and, ?or, ?xor, ?andi, ?ori, ?xori, ?min, ?max, ?sel, ?lui, ?li, ?nop⟩
  case and =>
    intro e d a b s x y f h q
    exact alu_unchecked rfl h q
  case or =>
    intro e d a b s x y f h q
    exact alu_unchecked rfl h q
  case xor =>
    intro e d a b s x y f h q
    exact alu_unchecked rfl h q
  case andi =>
    intro e d a imm s x f h q
    exact imm_unchecked rfl h q
  case ori =>
    intro e d a imm s x f h q
    exact imm_unchecked rfl h q
  case xori =>
    intro e d a imm s x f h q
    exact imm_unchecked rfl h q
  case min =>
    intro e d a b s x y f h q
    obtain ⟨t, ht, hframe, hwrites⟩ := alu_unchecked (f := minResult) rfl h q
    exact ⟨t, ht, hframe, _, minResult_spec f x y, hwrites⟩
  case max =>
    intro e d a b s x y f h q
    obtain ⟨t, ht, hframe, hwrites⟩ := alu_unchecked (f := maxResult) rfl h q
    exact ⟨t, ht, hframe, _, maxResult_spec f x y, hwrites⟩
  case sel =>
    intro e d a b c s x y f h q
    exact alu_unchecked rfl h q
  case lui =>
    intro e d imm s f h q
    exact issue_frame rfl h q fun t ht => constBody_retires (wd_shift14 imm) ht
  case li =>
    intro e d imm s f h q
    exact issue_frame rfl h q fun t ht => constBody_retires rfl ht
  case nop =>
    intro e s f h q
    rw [exec_nop]
    refine issue_frame rfl h q fun t ht => ?_
    rw [retire, ht.ctxs]
    exact only_retire ht

/-- Settles O24: each shift by its function of the operand and the amount. -/
theorem shuttleShifts : Obligations.ShuttleShifts := by
  unfold Obligations.ShuttleShifts
  refine ⟨?shl, ?shr, ?sar, ?shli, ?shri, ?sari⟩
  case shl =>
    intro e d a b s x y f h q
    obtain ⟨t, ht, hframe, hwrites⟩ := alu_unchecked (f := fun f u v => shlFlags f u (fld v 0 5)) rfl h q
    exact ⟨t, ht, hframe, _, shl_toNat x _, hwrites⟩
  case shr =>
    intro e d a b s x y f h q
    obtain ⟨t, ht, hframe, hwrites⟩ := alu_unchecked (f := fun f u v => shrFlags f u (fld v 0 5)) rfl h q
    exact ⟨t, ht, hframe, _, shr_toNat x _, hwrites⟩
  case sar =>
    intro e d a b s x y f h q
    obtain ⟨t, ht, hframe, hwrites⟩ := alu_unchecked (f := fun f u v => sarFlags f u (fld v 0 5)) rfl h q
    exact ⟨t, ht, hframe, _, sar_toInt x _, hwrites⟩
  case shli =>
    intro e d a imm s x f h q
    obtain ⟨t, ht, hframe, hwrites⟩ := imm_unchecked (v := zext14 imm) (f := fun f u v => shlFlags f u (fld v 0 5)) rfl h q
    simp only [fld_zext14] at hwrites
    exact ⟨t, ht, hframe, _, shl_toNat x _, hwrites⟩
  case shri =>
    intro e d a imm s x f h q
    obtain ⟨t, ht, hframe, hwrites⟩ := imm_unchecked (v := zext14 imm) (f := fun f u v => shrFlags f u (fld v 0 5)) rfl h q
    simp only [fld_zext14] at hwrites
    exact ⟨t, ht, hframe, _, shr_toNat x _, hwrites⟩
  case sari =>
    intro e d a imm s x f h q
    obtain ⟨t, ht, hframe, hwrites⟩ := imm_unchecked (v := zext14 imm) (f := fun f u v => sarFlags f u (fld v 0 5)) rfl h q
    simp only [fld_zext14] at hwrites
    exact ⟨t, ht, hframe, _, sar_toInt x _, hwrites⟩

/-- Settles O25: the products by the halves of the product, the comparisons by the flags of the difference. -/
theorem shuttleProductsAndComparisons : Obligations.ShuttleProductsAndComparisons := by
  unfold Obligations.ShuttleProductsAndComparisons
  refine ⟨?mul, ?mulh, ?mulhu, ?cmp, ?cmpi⟩
  case mul =>
    intro e d a b s x y f h q hres
    refine issue_frame rfl h q fun t ht => ?_
    obtain ⟨hframe, hwrites⟩ := aluBody_retires (fun _ => hres) ht
    exact ⟨hframe, _, mulLow_toNat x y, hwrites⟩
  case mulh =>
    intro e d a b s x y f h q hres
    refine issue_frame rfl h q fun t ht => ?_
    obtain ⟨hframe, hwrites⟩ := aluBody_retires (fun _ => hres) ht
    exact ⟨hframe, _, mulHigh_toInt x y, hwrites⟩
  case mulhu =>
    intro e d a b s x y f h q hres
    refine issue_frame rfl h q fun t ht => ?_
    obtain ⟨hframe, hwrites⟩ := aluBody_retires (fun _ => hres) ht
    exact ⟨hframe, _, mulHighU_toNat x y, hwrites⟩
  case cmp =>
    intro e a b s x y h q hres
    refine issue_frame rfl h q fun t ht => ?_
    obtain ⟨hframe, hsets⟩ := cmpBody_retires (v := fun s x => gr s e x b) hres ht ht.gr
    exact ⟨hframe, _, _, subFlags_spec x y (by decide), hsets⟩
  case cmpi =>
    intro e a imm s x h q hres
    refine issue_frame rfl h q fun t ht => ?_
    obtain ⟨hframe, hsets⟩ := cmpBody_retires (v := fun _ _ => sext14 imm) hres ht rfl
    exact ⟨hframe, _, _, subFlags_spec x (imm.signExtend 32) (by decide), hsets⟩

end Sys2Proof.Machine
end

section
/-!
PROOFS. Loads and stores of the shuttle engines, their results and acknowledgements (03_shuttle_engines.md R86, R91 to R97,
R112; 11_stores_and_bobbins.md R370 to R374).
-/

namespace Sys2Proof.Machine

/-! ### Numbers of bytes -/

theorem leNat_lt (l : List Byte) : leNat l < 256 ^ l.length := by
  induction l with
  | nil => simp [leNat]
  | cons b l ih =>
    have hb := b.isLt
    simp only [leNat, List.length_cons, Nat.pow_succ]
    omega

@[simp] theorem length_upto (k n : Nat) : (upto k n).length = n := by
  induction n generalizing k with
  | zero => rfl
  | succ n ih => simp [upto, ih]

theorem loaded_lt (s : State) (p n : Nat) : loaded s p n < 256 ^ n := by
  simpa [loaded] using leNat_lt ((upto p n).map (mget s.mem))

/-- A number of 16 bits as a signed one is the sign extension of its bits. -/
theorem ofInt_toSigned_16 {v : Nat} (hv : v < 2 ^ 16) : BitVec.ofInt 32 (toSigned 16 v) = (BitVec.ofNat 16 v).signExtend 32 := by
  apply BitVec.eq_of_toInt_eq
  rw [BitVec.toInt_signExtend_of_le (by decide), BitVec.toInt_ofInt, BitVec.toInt_eq_toNat_cond, BitVec.toNat_ofNat, toSigned,
    Nat.mod_eq_of_lt hv]
  split <;> split <;> rw [Int.bmod_eq_of_le] <;> omega

/-! ### Frames of an access -/

/-- The frame of an access speaks of the engines alone. -/
theorem AccessFrame.of_shu {e lat held : Nat} {acc : Access} {ws : List Word} {s t u : State}
    (h : AccessFrame e lat held acc ws s t) (hu : u.shu = t.shu) : AccessFrame e lat held acc ws s u := by
  have hst : ∀ k, shuSt u k = shuSt t k := shuSt_eq_of_shu hu
  have hctx : ∀ y, ctx u e y = ctx t e y := ctx_eq_of_shu hu e
  exact ⟨fun k hk => (hst k).trans (h.engines k hk), fun y hy => (hctx y).trans (h.context y hy), by rw [hctx]; exact h.slots,
    fun r => by rw [gr, hctx]; exact h.registers r, by rw [hctx]; exact h.flags, by rw [hctx]; exact h.atPc,
    by rw [hctx]; exact h.signature⟩

theorem retire_portUse_shu {e p d lat occ : Nat} {x : Ctx} {s : State} :
    (retire e x occ (portUse e p d lat s)).shu = (retire e x occ s).shu := rfl

/-- What the frame of the snapshot says of the addresses and ports of the stores. -/
theorem SnapFrame.shuPhysical {e k a : Nat} {s t : State} (h : SnapFrame e s t) : shuPhysical t k a = shuPhysical s k a := by
  rw [h.only.1]; rfl
theorem SnapFrame.bankFull {e p : Nat} {s t : State} (h : SnapFrame e s t) : bankFull t p = bankFull s p := by
  rw [h.only.1]; rfl
theorem SnapFrame.cycNow {e : Nat} {s t : State} (h : SnapFrame e s t) : cycNow t = cycNow s := by rw [h.only.1]; rfl
theorem SnapFrame.memFault {e ea n : Nat} {st : Bool} {s t : State} (h : SnapFrame e s t) :
    memFault t ea n st = memFault s ea n st := by rw [h.only.1]; rfl
theorem SnapFrame.windowAddr {e : Nat} {g : Word} {imm : BitVec 14} {s t : State} (h : SnapFrame e s t) :
    windowAddr t g imm = windowAddr s g imm := by rw [h.only.1]; rfl
theorem SnapFrame.effAddr {e a : Nat} {x : Ctx} {imm : BitVec 14} {s t : State} (h : SnapFrame e s t) :
    effAddr t e x a imm = effAddr s e x a imm := by rw [Machine.effAddr, h.gr]; rfl
theorem SnapFrame.wordClosed {e w : Nat} {r : Reader} {s t : State} (h : SnapFrame e s t) :
    wordClosed r w t = wordClosed r w s := by rw [h.only.1]; rfl

/-! ### Loads (R91 to R96) -/

/-- A load at an address of R91 of stores without error marks, its bank taking another access, takes a slot with the bytes. -/
theorem loadAt_taken {e ea n : Nat} {put : Nat → List (Nat × Word)} {s t : State} (h : SnapFrame e s t) (q : Quiet s)
    (hmarks : s.store.marks = []) (hport : (cycNow s).byB = []) (halign : ea % n = 0) (haddr : shuAddr ea = true)
    (hfull : bankFull s (shuPhysical s (runBank (ctx s e (active s e))) ea) = false) :
    let v := loaded s (shuPhysical s (runBank (ctx s e (active s e))) ea) n
    let u := loadAt e (active s e) ea n put t
    Quiet u ∧ u.mem = s.mem ∧ u.regs = s.regs ∧ AccessFrame e 6 1 (.load (put v)) [] s u := by
  intro v u
  let p := shuPhysical s (runBank (ctx s e (active s e))) ea
  have hclean : t.store.marks = [] := h.store ▸ hmarks
  have hread : portN (.shuttle e) (touchBank p t) p n = v := by
    rw [portN_clean (by simpa using hclean) (by simp [otherPort, Reader.portA, h.cycNow, hport])]
    simp [v, p, loaded, h.mem]
  have hu : u = retire e (active s e) 1
      (portUse e p 0 6 (takeSlot e (active s e) 6 1 (.load (put v)) (touchBank p t))) := by
    simp only [u, loadAt, memFault_load_fine halign haddr, h.ctxs, h.shuPhysical, h.bankFull, hfull, checkRead_clean hclean,
      Bool.false_eq_true, if_false]
    rw [hread]
  rw [hu]
  refine ⟨q.of_eq ?_ ?_, by simp [h.mem], by simp [h.regs], ?_⟩
  · simp [h.flt]
  · simp [rget, h.regs]
  · exact (accessFrame_retire_slot h (u := touchBank p t) (by simp) (by simp [h.time]) rfl).of_shu retire_portUse_shu

/-- A load that issues answers what it leaves, where its body is one of R91 to R96. -/
theorem load_issues {e : Fin 34} {i : Instr} {uses : List Nat} {dsts need ea n : Nat} {free : Bool}
    {body : Ctx → State → State} {put : Nat → List (Nat × Word)} {s : State} (hn : shuNeeds i = some (uses, need, free))
    (h : Issues e i s) (q : Quiet s)
    (hbody : ∀ t, SnapFrame e s t → body (active s e) t = loadAt e (active s e) ea n put t)
    (hmarks : s.store.marks = []) (hport : (cycNow s).byB = []) (halign : ea % n = 0) (haddr : shuAddr ea = true)
    (hfull : bankFull s (shuPhysical s (runBank (ctx s e (active s e))) ea) = false) :
    let v := loaded s (shuPhysical s (runBank (ctx s e (active s e))) ea) n
    ∃ t, issue e i uses dsts need free body s = .next t ∧ t.mem = s.mem ∧ t.regs = s.regs ∧
      AccessFrame e 6 1 (.load (put v)) [] s t := by
  have hsnap := expressSnap_frame e (active s e) s
  obtain ⟨hquiet, hframe⟩ := loadAt_taken (put := put) hsnap q hmarks hport halign haddr hfull
  exact ⟨_, by rw [issue_issues hn h, hbody _ hsnap, settle_quiet hquiet], hframe⟩

theorem exec_ld (e : Fin 34) (d a : Fin 16) (imm : BitVec 14) (s : State) : exec (.ld e d a imm) s = execLd e d a imm s := rfl
theorem exec_ldh (e : Fin 34) (d a : Fin 16) (imm : BitVec 14) (s : State) : exec (.ldh e d a imm) s = execLdh e d a imm s := rfl
theorem exec_ldhu (e : Fin 34) (d a : Fin 16) (imm : BitVec 14) (s : State) : exec (.ldhu e d a imm) s = execLdhu e d a imm s := rfl
theorem exec_ldbu (e : Fin 34) (d a : Fin 16) (imm : BitVec 14) (s : State) : exec (.ldbu e d a imm) s = execLdbu e d a imm s := rfl
theorem exec_ldd (e : Fin 34) (d a : Fin 16) (imm : BitVec 14) (s : State) : exec (.ldd e d a imm) s = execLdd e d a imm s := rfl
theorem exec_ldc (e : Fin 34) (d a : Fin 16) (imm : BitVec 14) (s : State) : exec (.ldc e d a imm) s = execLdc e d a imm s := rfl

/-- The address of an access in a window of size other than 0 (R97). -/
theorem windowAddr_some {s : State} {g : Word} {imm : BitVec 14} (h : cbwSize s (imm.toNat / 1024) ≠ 0) :
    windowAddr s g imm = some ((cbwBase s (imm.toNat / 1024) +
      (g + wd (4 * (imm.toNat % 1024))).toNat % cbwSize s (imm.toNat / 1024)) % 2 ^ 32) := by simp [windowAddr, h]

/-! ### Results and acknowledgements (R94) -/

/-- The results of an access, written one after another to the registers of its context. -/
def writeResults (e : Nat) (x : Ctx) (vs : List (Nat × Word)) (s : State) : State :=
  forEach vs (fun v u => setG e x v.1 v.2 u.time u) s

/-- The slot of an access is free. -/
def freed (e : Nat) (x : Ctx) (k : Slot) (s : State) : State :=
  modCtx e x (fun c => { c with slots := c.slots.filter fun y => y.id != k.id }) s

theorem finishAccess_eq (e : Nat) (x : Ctx) (k : Slot) (s : State) :
    finishAccess e x k s = writeResults e x (k.acc.values.getD []) (freed e x k s) := rfl

theorem writeResults_cons (e : Nat) (x : Ctx) (v : Nat × Word) (vs : List (Nat × Word)) (s : State) :
    writeResults e x (v :: vs) s = writeResults e x vs (setG e x v.1 v.2 s.time s) := rfl

theorem writeResults_only {e : Nat} {x : Ctx} {vs : List (Nat × Word)} {s t : State} (h : ShuOnly s t e) :
    ShuOnly s (writeResults e x vs t) e := by
  induction vs generalizing t with
  | nil => exact h
  | cons v vs ih => exact ih (h.ctx _)

theorem finishAccess_only {e : Nat} {x : Ctx} {k : Slot} {s : State} : ShuOnly s (finishAccess e x k s) e :=
  writeResults_only ((ShuOnly.refl s e).ctx _)

theorem gset_slots {d : Nat} {v : Word} {c : CtxSt} : (gset d v c).slots = c.slots := by
  unfold gset
  split <;> rfl

/-- A result leaves the slots and writes the general registers as it says. -/
theorem ctx_setG {e d n : Nat} {x : Ctx} {v : Word} {s : State} :
    (ctx (setG e x d v n s) e x).slots = (ctx s e x).slots ∧
      ∀ r, gr (setG e x d v n s) e x r = if r = d ∧ d ≠ 0 then v else gr s e x r := by
  refine ⟨by simp [setG, gset_slots], fun r => ?_⟩
  simp only [gr, setG, ctx_modCtx_same]
  rw [← gget_gset]
  rfl

theorem writeResults_slots {e : Nat} {x : Ctx} (vs : List (Nat × Word)) (s : State) :
    (ctx (writeResults e x vs s) e x).slots = (ctx s e x).slots := by
  induction vs generalizing s with
  | nil => rfl
  | cons v vs ih => exact (ih _).trans ctx_setG.1

/-- Registers that no result names keep their values. -/
theorem writeResults_other {e r : Nat} {x : Ctx} {vs : List (Nat × Word)} {s : State} (hr : r = 0 ∨ r ∉ vs.map fun v => v.1) :
    gr (writeResults e x vs s) e x r = gr s e x r := by
  induction vs generalizing s with
  | nil => rfl
  | cons v vs ih =>
    have hrest : r = 0 ∨ r ∉ vs.map fun v => v.1 := hr.imp_right fun h hmem => h (List.mem_cons_of_mem _ hmem)
    have hne : ¬(r = v.1 ∧ v.1 ≠ 0) := by
      rintro ⟨rfl, hv⟩
      exact hr.elim hv fun h => h (by simp)
    rw [writeResults_cons, ih hrest, ctx_setG.2, if_neg hne]

theorem writeResults_one {e d : Nat} {x : Ctx} {w : Word} {s : State} (hd : d ≠ 0) :
    gr (writeResults e x [(d, w)] s) e x d = w := by
  simp [writeResults, forEach, ctx_setG.2, hd]

theorem writeResults_two {e d : Nat} {x : Ctx} {w v : Word} {s : State} :
    gr (writeResults e x [(d, w), (d + 1, v)] s) e x (d + 1) = v ∧
      (d ≠ 0 → gr (writeResults e x [(d, w), (d + 1, v)] s) e x d = w) := by
  refine ⟨by simp [writeResults, forEach, ctx_setG.2], fun hd => by simp [writeResults, forEach, ctx_setG.2, hd]⟩

/-- No register changes where a slot is freed. -/
theorem gr_freed {e r : Nat} {x : Ctx} {k : Slot} {s : State} : gr (freed e x k s) e x r = gr s e x r := by
  simp [freed, gr, gget]

theorem finishAccess_slots {e : Nat} {x : Ctx} {k : Slot} {s : State} :
    (ctx (finishAccess e x k s) e x).slots = (ctx s e x).slots.filter fun y => y.id != k.id := by
  rw [finishAccess_eq, writeResults_slots, freed, ctx_modCtx_same]

/-- A kind of access names its oldest slot. -/
theorem nextStore_acc {c : CtxSt} {k : Slot} (h : nextStore c = some k) : k.acc = .store := by
  simpa using List.find?_some h

/-- Settles O29: each load by its size and its way from bytes to registers, and LOAD_RESULT. -/
theorem shuttleLoads : Obligations.ShuttleLoads := by
  unfold Obligations.ShuttleLoads
  refine ⟨?ld, ?ldh, ?ldhu, ?ldbu, ?ldd, ?ldc, ?result⟩
  case ld =>
    intro e d a imm s ea p v h q hmarks hport halign haddr hfull
    rw [exec_ld, execLd]
    exact load_issues (put := fun v => [(d.val, wd v)]) rfl h q (fun t ht => by rw [ht.effAddr]; rfl) hmarks hport halign haddr hfull
  case ldh =>
    intro e d a imm s ea p v h q hmarks hport halign haddr hfull
    rw [exec_ldh, execLdh, ← ofInt_toSigned_16 (loaded_lt s p 2)]
    exact load_issues (put := fun v => [(d.val, BitVec.ofInt 32 (toSigned 16 v))]) rfl h q (fun t ht => by rw [ht.effAddr]; rfl)
      hmarks hport halign haddr hfull
  case ldhu =>
    intro e d a imm s ea p v h q hmarks hport halign haddr hfull
    rw [exec_ldhu, execLdhu]
    exact load_issues (put := fun v => [(d.val, wd v)]) rfl h q (fun t ht => by rw [ht.effAddr]; rfl) hmarks hport halign haddr hfull
  case ldbu =>
    intro e d a imm s ea p v h q hmarks hport halign haddr hfull
    rw [exec_ldbu, execLdbu]
    exact load_issues (put := fun v => [(d.val, wd v)]) rfl h q (fun t ht => by rw [ht.effAddr]; rfl) hmarks hport halign haddr hfull
  case ldd =>
    intro e d a imm s ea p v h q hmarks hport heven halign haddr hfull
    rw [exec_ldd, execLdd]
    exact load_issues (put := fun v => [(d.val, wd v), (d.val + 1, wd (v / 2 ^ 32))]) rfl h q
      (fun t ht => by rw [if_neg (by omega), ht.effAddr]; rfl) hmarks hport halign haddr hfull
  case ldc =>
    intro e d a imm s w ea p h q hmarks hport hsize halign haddr hfull
    rw [exec_ldc, execLdc]
    exact load_issues (ea := ea) (put := fun v => [(d.val, wd v)]) rfl h q
      (fun t ht => by simp only [ht.windowAddr, ht.gr, windowAddr_some hsize]; rfl) hmarks hport halign haddr hfull
  case result =>
    intro e x k vs s hnext hdue hrun hvals q
    have hnow : exec (.loadResult e x) s = .next (settle (match nextResult (ctx s e x) with
        | some k => finishAccess e x k s | none => s)) :=
      atOpt_now (by rw [hnext]; rfl) hdue (by simp [hrun, hnext, hvals])
    rw [hnext] at hnow
    refine ⟨_, hnow.trans (by rw [settle_quiet (finishAccess_only.quiet q)]), finishAccess_only.1, finishAccess_slots,
      fun r hr => ?_, fun d w hvs hd => ?_, fun d w v hvs => ?_⟩ <;> rw [finishAccess_eq, hvals, Option.getD_some]
    · rw [writeResults_other hr, gr_freed]
    · rw [hvs]
      exact writeResults_one hd
    · rw [hvs]
      exact writeResults_two

/-! ### Stores (R91 to R95) -/

/-- A pattern address as a physical one keeps its place within 64-bit words. -/
theorem shuPhysical_mod (s : State) (k a : Nat) : shuPhysical s k a % 8 = a % 8 := by
  simp only [shuPhysical]
  by_cases hmapped : (s.chg.actReady && inPattern a && decide (k = 1)) = true
  · rw [if_pos hmapped]
    simp only [inPattern, Bool.and_eq_true, decide_eq_true_eq] at hmapped
    split <;> omega
  · rw [if_neg hmapped]

@[simp] theorem notePort_shu {r a n s} : (notePort r a n s).shu = s.shu := by unfold notePort modCyc; split <;> (try split) <;> rfl
@[simp] theorem notePort_time {r a n s} : (notePort r a n s).time = s.time := by unfold notePort modCyc; split <;> (try split) <;> rfl
@[simp] theorem notePort_regs {r a n s} : (notePort r a n s).regs = s.regs := by unfold notePort modCyc; split <;> (try split) <;> rfl
@[simp] theorem notePort_flt {r a n s} : (notePort r a n s).flt = s.flt := by unfold notePort modCyc; split <;> (try split) <;> rfl

@[simp] theorem feedW_mem {e x ws s} : (feedW e x ws s).mem = s.mem := rfl
@[simp] theorem feedW_regs {e x ws s} : (feedW e x ws s).regs = s.regs := rfl
@[simp] theorem feedW_flt {e x ws s} : (feedW e x ws s).flt = s.flt := rfl

/-- A store is not refused at an aligned address of R91 outside the idle half (R91 to R93). -/
theorem memFault_store_fine {s : State} {ea n : Nat} (haligned : ea % n = 0) (haddr : shuAddr ea = true)
    (hidle : idleHalf s ea = false) : memFault s ea n true = none := by
  simp [memFault, haligned, haddr, hidle]

/-- A store at an address of R91 of stores without error marks, its bank taking another access and its word open, puts its bytes,
feeds W and takes a slot. -/
theorem storeAt_taken {e ea n v : Nat} {fed : List Word} {s t : State} (h : SnapFrame e s t) (q : Quiet s)
    (hwf : Memory.wf s.mem = true) (hmarks : s.store.marks = []) (hn : n ≠ 0) (h8 : n ∣ 8) (halign : ea % n = 0)
    (haddr : shuAddr ea = true) (hidle : idleHalf s ea = false) {p : Nat}
    (hp : p = shuPhysical s (runBank (ctx s e (active s e))) ea) (hfull : bankFull s p = false)
    (hclosed : wordClosed (.shuttle e) (wordOf p) s = false) :
    let u := storeAt e (active s e) ea n v fed t
    Quiet u ∧ u.regs = s.regs ∧ AccessFrame e 6 1 .store (wd ea :: fed) s u ∧
      (∀ i, i < n → mget u.mem (p + i) = BitVec.ofNat 8 (v / 256 ^ i)) ∧
      (∀ c, c < p ∨ p + n ≤ c → mget u.mem c = mget s.mem c) := by
  intro u
  have hclean : t.store.marks = [] := h.store ▸ hmarks
  have hfault : memFault t ea n true = none := h.memFault.trans (memFault_store_fine halign haddr hidle)
  have hfits : p % 8 + n ≤ 8 := by
    obtain ⟨m, hm⟩ := h8
    have hdvd : n ∣ p % 8 := by
      rw [hp, shuPhysical_mod]
      exact (Nat.dvd_mod_iff ⟨m, hm⟩).2 (Nat.dvd_of_mod_eq_zero halign)
    obtain ⟨j, hj⟩ := hdvd
    have hlt : n * j < n * m := by omega
    have hjm : j + 1 ≤ m := Nat.lt_of_mul_lt_mul_left hlt
    calc p % 8 + n = n * (j + 1) := by rw [hj, Nat.mul_succ]
      _ ≤ n * m := Nat.mul_le_mul_left n hjm
      _ = 8 := hm.symm
  have hwrite : writeN (.shuttle e) p n v t =
      { notePort (.shuttle e) p n (touchBank p t) with mem := putBytes p (leBytes n v) s.mem } := by
    rw [writeN_clean hclean hn hfits (.inl rfl), h.mem]
  have hu : u = retire e (active s e) 1 (portUse e p 0 6 (takeSlot e (active s e) 6 1 .store
      (feedW e (active s e) (wd ea :: fed)
        { notePort (.shuttle e) p n (touchBank p t) with mem := putBytes p (leBytes n v) s.mem }))) := by
    simp only [u, storeAt, hfault, h.ctxs, h.shuPhysical, ← hp, h.bankFull, hfull, h.wordClosed, hclosed, hwrite,
      Bool.false_eq_true, if_false]
  have hmem : u.mem = putBytes p (leBytes n v) s.mem := by rw [hu]; simp
  have hregs : u.regs = s.regs := by rw [hu]; simp [h.regs]
  obtain ⟨hbytes, hothers⟩ := mget_putBytes_leBytes (a := p) (n := n) (x := v) hwf
  refine ⟨q.of_eq ?_ (by rw [rget, hregs, rget]), hregs, ?_, by rwa [hmem], by rwa [hmem]⟩
  · rw [hu]; simp [h.flt]
  · rw [hu]
    exact (accessFrame_retire h (by simp) (by simp [h.time])).of_shu retire_portUse_shu

/-- A store that issues answers what it leaves, where its body is one of R91 to R95. -/
theorem store_issues {e : Fin 34} {i : Instr} {uses : List Nat} {dsts need ea n v : Nat} {free : Bool} {fed : List Word}
    {body : Ctx → State → State} {s : State} (hneeds : shuNeeds i = some (uses, need, free))
    (h : Issues e i s) (q : Quiet s)
    (hbody : ∀ t, SnapFrame e s t → body (active s e) t = storeAt e (active s e) ea n v fed t)
    (hwf : Memory.wf s.mem = true) (hmarks : s.store.marks = []) (hn : n ≠ 0) (h8 : n ∣ 8) (halign : ea % n = 0)
    (haddr : shuAddr ea = true) (hidle : idleHalf s ea = false) {p : Nat}
    (hp : p = shuPhysical s (runBank (ctx s e (active s e))) ea) (hfull : bankFull s p = false)
    (hclosed : wordClosed (.shuttle e) (wordOf p) s = false) :
    ∃ t, issue e i uses dsts need free body s = .next t ∧ t.regs = s.regs ∧ AccessFrame e 6 1 .store (wd ea :: fed) s t ∧
      (∀ i, i < n → mget t.mem (p + i) = BitVec.ofNat 8 (v / 256 ^ i)) ∧
      (∀ c, c < p ∨ p + n ≤ c → mget t.mem c = mget s.mem c) := by
  have hsnap := expressSnap_frame e (active s e) s
  obtain ⟨hquiet, hframe⟩ := storeAt_taken (v := v) (fed := fed) hsnap q hwf hmarks hn h8 halign haddr hidle hp hfull hclosed
  exact ⟨_, by rw [issue_issues hneeds h, hbody _ hsnap, settle_quiet hquiet], hframe⟩

theorem exec_st (e : Fin 34) (a b : Fin 16) (imm : BitVec 14) (s : State) : exec (.st e a b imm) s = execSt e a b imm s := rfl
theorem exec_sth (e : Fin 34) (a b : Fin 16) (imm : BitVec 14) (s : State) : exec (.sth e a b imm) s = execSth e a b imm s := rfl
theorem exec_stb (e : Fin 34) (a b : Fin 16) (imm : BitVec 14) (s : State) : exec (.stb e a b imm) s = execStb e a b imm s := rfl
theorem exec_std (e : Fin 34) (a b : Fin 16) (imm : BitVec 14) (s : State) : exec (.std e a b imm) s = execStd e a b imm s := rfl
theorem exec_stc (e : Fin 34) (a b : Fin 16) (imm : BitVec 14) (s : State) : exec (.stc e a b imm) s = execStc e a b imm s := rfl

/-- A corrected word is written back as long as it is correctable (R374). -/
theorem writeBackOp_correctable {w : Nat} {s : State} (h : eccBad (eccMark s w) = false) :
    writeBackOp w s = setMark w 0 { s with store := { s.store with writeBack := s.store.writeBack.filter fun x => x != w } } := by
  have hmark : eccMark { s with store := { s.store with writeBack := s.store.writeBack.filter fun x => x != w } } w =
      eccMark s w := rfl
  simp only [writeBackOp, hmark, h, Bool.false_eq_true, if_false]

/-- Settles O30: each store by its size and its words in W, STORE_ACK and CORRECTED_WRITE_BACK. -/
theorem shuttleStores : Obligations.ShuttleStores := by
  unfold Obligations.ShuttleStores
  refine ⟨?st, ?sth, ?stb, ?std, ?stc, ?ack, ?writeBack⟩
  case st =>
    intro e a b imm s ea p v h q hwf hmarks halign haddr hidle hfull hclosed
    rw [exec_st, execSt]
    exact store_issues rfl h q (fun t ht => by rw [ht.effAddr, ht.gr]; rfl) hwf hmarks (by decide) (by decide) halign haddr hidle
      rfl hfull hclosed
  case sth =>
    intro e a b imm s ea p v h q hwf hmarks halign haddr hidle hfull hclosed
    rw [exec_sth, execSth]
    exact store_issues rfl h q (fun t ht => by rw [ht.effAddr, ht.gr]; rfl) hwf hmarks (by decide) (by decide) halign haddr hidle
      rfl hfull hclosed
  case stb =>
    intro e a b imm s ea p v h q hwf hmarks halign haddr hidle hfull hclosed
    rw [exec_stb, execStb]
    exact store_issues rfl h q (fun t ht => by rw [ht.effAddr, ht.gr]; rfl) hwf hmarks (by decide) (by decide) halign haddr hidle
      rfl hfull hclosed
  case std =>
    intro e a b imm s ea p v h q hwf hmarks heven halign haddr hidle hfull hclosed
    rw [exec_std, execStd]
    exact store_issues rfl h q (fun t ht => by rw [if_neg (by omega), ht.effAddr, ht.gr, ht.gr]; rfl) hwf hmarks (by decide)
      (by decide) halign haddr hidle rfl hfull hclosed
  case stc =>
    intro e a b imm s w ea p v h q hwf hmarks hsize halign haddr hidle hfull hclosed
    rw [exec_stc, execStc]
    exact store_issues (ea := ea) rfl h q (fun t ht => by simp only [ht.windowAddr, ht.gr, windowAddr_some hsize]; rfl) hwf hmarks
      (by decide) (by decide) halign haddr hidle rfl hfull hclosed
  case ack =>
    intro e x k s hnext hdue hrun q
    have hnow : exec (.storeAck e x) s = .next (settle (match nextStore (ctx s e x) with
        | some k => finishAccess e x k s | none => s)) :=
      atOpt_now (by rw [hnext]; rfl) hdue (by simp [hrun, hnext])
    have hvals : k.acc.values.getD [] = [] := by rw [nextStore_acc hnext]; rfl
    rw [hnext] at hnow
    refine ⟨_, hnow.trans (by rw [settle_quiet (finishAccess_only.quiet q)]), finishAccess_only.1, finishAccess_slots,
      fun r => ?_⟩
    rw [finishAccess_eq, hvals]
    exact gr_freed
  case writeBack =>
    intro w s hrun hdue q hbad
    have hexec : exec (.correctedWriteBack w) s = .next (settle (writeBackOp w s)) := nowIf_true (by rw [hrun, hdue]; rfl)
    have hquiet : Quiet (setMark w 0
        { s with store := { s.store with writeBack := s.store.writeBack.filter fun x => x != w.val } }) := q
    rw [writeBackOp_correctable hbad, settle_quiet hquiet] at hexec
    refine ⟨_, hexec, ?_, rfl, rfl, ?_, fun k hk => ?_⟩
    · simp [eccMark, setMark]
    · simp [setMark]
    · simp [eccMark, setMark, tget_tset_other _ _ _ hk]

end Sys2Proof.Machine
end

section
/-!
PROOFS. The ends of tasks, the task faults of the shuttle engines, and residue errors (03_shuttle_engines.md R58, R60, R114,
R118, R123).
-/

namespace Sys2Proof.Machine

/-- What a conditional change leaves of a state, where the change leaves it. -/
theorem when_of_eq {α : Sort _} {c : Bool} {f : State → State} {s : State} (field : State → α) (h : field (f s) = field s) :
    field (when_ c f s) = field s := by
  cases c with
  | false => rfl
  | true => exact h

/-! ### The ends of tasks (R58, R60) -/

/-- The charge of a run changes its task record and the engine's account alone. -/
theorem payRun_frame (e fin : Nat) (s : State) :
    (payRun e fin s).regs = s.regs ∧ (payRun e fin s).mem = s.mem ∧
    ∀ y, (ctx (payRun e fin s) e y).slots = (ctx s e y).slots ∧ (y = .express → ctx (payRun e fin s) e y = ctx s e y) := by
  unfold payRun
  split
  · exact ⟨rfl, rfl, fun y => ⟨rfl, fun _ => rfl⟩⟩
  · have hctx : ∀ n y, ctx (modEng e n s) e y = ctx s e y := fun n y => ctx_eq_of_shu rfl e y
    refine ⟨by simp, by simp, fun y => ?_⟩
    cases y with
    | normal => exact ⟨by rw [ctx_modCtx_same, hctx], by simp⟩
    | express => rw [ctx_modCtx_other (by decide), hctx]; exact ⟨rfl, fun _ => rfl⟩

/-- The end of a normal task changes no register but ESTS of its engine and those of raises, and frees what it held but its stores. -/
theorem normalEndAt_frame {e fin : Nat} {r : Run} {s : State} (htask : (ctx s e .normal).task = some r) :
    let t := normalEndAt e fin s
    (∀ a, ¬ RaiseReg a → a ≠ Reg.engEsts e → rget t a = rget s a) ∧ t.mem = s.mem ∧
    ctx t e .express = ctx s e .express ∧ (ctx t e .normal).task = none ∧
    (ctx t e .normal).slots = storeSlots (ctx s e .normal).slots := by
  intro t
  obtain ⟨hregs, hmem, hpaid⟩ := payRun_frame e fin s
  let ended : State → State := fun u => modEng e (fun g => { g with
    used := g.used + (if g.due.isEmpty then 0 else 2), readyAt := max g.readyAt (fin + 2), busy := false })
    (modCtx e .normal (fun c => { c with task := none, slots := storeSlots c.slots, loads := [], cards := [] }) u)
  let idle : State → State := fun u => when_ (decide (rf u (Reg.engEsts e) 0 3 = 1)) (setEsts e (if (engSt u e).held then 3 else 0)) u
  have ht : t = when_ (decide (r.budget ≠ 0 ∧ r.budget < runTime e fin r s)) (raise 2762) (idle (ended (payRun e fin s))) := by
    have htask' : (shuSt s e).nrm.task = some r := htask
    simp only [t, normalEndAt, htask']
    rfl
  have hshu : t.shu = (ended (payRun e fin s)).shu := by
    rw [ht, when_of_eq (fun u : State => u.shu) raise_shu]
    exact when_of_eq (fun u : State => u.shu) (by simp [setEsts])
  refine ⟨fun a hraise hests => ?_, ?_, ?_, ?_, ?_⟩
  · rw [ht, when_of_eq (fun u => rget u a) (raise_rget hraise),
      show rget (idle (ended (payRun e fin s))) a = _ from when_of_eq (fun u => rget u a) (rget_setf_other hests)]
    simp [ended, rget, hregs]
  · rw [ht, when_of_eq (fun u : State => u.mem) raise_mem,
      show (idle (ended (payRun e fin s))).mem = _ from when_of_eq (fun u : State => u.mem) (by simp [setEsts])]
    simp [ended, hmem]
  · rw [ctx_eq_of_shu hshu, ctx_eq_of_shu (s := modCtx e .normal _ _) modEng_shu, ctx_modCtx_other (by decide)]
    exact (hpaid .express).2 rfl
  all_goals
    rw [ctx_eq_of_shu hshu, ctx_eq_of_shu (s := modCtx e .normal _ _) modEng_shu, ctx_modCtx_same]
  exact congrArg storeSlots (hpaid .normal).1

/-- The end of an express run changes no register but those of raises, EXP_LAT and DBG of its engine, and frees what the run held but
its stores. -/
theorem expressEndAt_frame {e fin : Nat} {r : Run} {s : State} (htask : (ctx s e .express).task = some r) :
    let t := expressEndAt e fin s
    (∀ a, ¬ RaiseReg a → a ≠ Reg.engExpLat e → a ≠ Reg.shuDbg e → rget t a = rget s a) ∧ t.mem = s.mem ∧
    (ctx t e .express).task = none ∧ (ctx t e .express).slots = storeSlots (ctx s e .express).slots := by
  intro t
  let dur := fin - r.start - r.lost
  let ended : State → State := fun u => modEng e (fun g => { g with used := g.used + dur + 12 })
    (modCtx e .normal (fun c => { c with task := c.task.map fun t => { t with lost := t.lost + dur + 12 } })
      (modCtx e .express (fun c => { c with task := none, slots := storeSlots c.slots }) u))
  let timed : State → State := fun u =>
    setf (Reg.engExpLat e) 16 9 (max (rf u (Reg.engExpLat e) 16 9) (min 511 dur)) u
  let raised : State → State := when_ (decide (r.budget ≠ 0 ∧ r.budget < dur)) (raise 2762)
  have ht : t = expressSoon e (modShu e (fun u => { u with back := some (fin + 4), skipBrk := false, brkStop := false })
      (setb (Reg.shuDbg e) 9 false (raised (timed (ended s))))) := by
    have htask' : (shuSt s e).exp.task = some r := htask
    simp only [t, expressEndAt, htask']
    rfl
  have hraised : ∀ u, (raised u).shu = u.shu := fun u => when_of_eq (fun u : State => u.shu) raise_shu
  have hctx : ctx t e .express = ctx (ended s) e .express := by
    rw [ht, expressSoon, ctx_eq_of_shu schedule_shu, ctx_modShu (by intro; rfl) (by intro; rfl)]
    exact ctx_eq_of_shu (by simp [hraised, timed]) e .express
  have hended : ctx (ended s) e .express =
      { ctx s e .express with task := none, slots := storeSlots (ctx s e .express).slots } := by
    rw [ctx_eq_of_shu (s := modCtx e .normal _ _) modEng_shu, ctx_modCtx_other (by decide), ctx_modCtx_same]
  refine ⟨fun a hraise hlat hdbg => ?_, ?_, ?_, ?_⟩
  · have hback : rget t a = rget (raised (timed (ended s))) a := by
      rw [ht]
      exact rget_setb_other hdbg
    rw [hback, show rget (raised (timed (ended s))) a = _ from when_of_eq (fun u => rget u a) (raise_rget hraise)]
    exact rget_setf_other hlat
  · rw [ht]
    simp only [expressSoon, schedule_mem, modShu_mem, setb_mem]
    exact when_of_eq (fun u : State => u.mem) raise_mem
  · rw [hctx, hended]
  · rw [hctx, hended]

/-! ### Task faults (R118) -/

/-- FPC of a fault at a PC within its bank or past it. -/
theorem faultPc_spec (pc : Nat) (s : State) :
    (faultPc pc s).1 < 2048 ∧ (pc < 2048 → (faultPc pc s).1 = pc) ∧ (faultPc pc s).2 = { s with freeN := (faultPc pc s).2.freeN } := by
  unfold faultPc
  split
  · exact ⟨‹_›, fun _ => rfl, rfl⟩
  · exact ⟨Nat.mod_lt _ (by decide), fun h => absurd h ‹_›, rfl⟩

/-- FPC as a task fault sets it: the PC, its bank, the descriptor and the context. -/
def faultWord (pc desc : Nat) (bank express : Bool) : Word :=
  setBit (setFld (setBit (wd pc) 11 bank) 16 12 desc) 31 express

theorem faultWord_fields {pc desc : Nat} {bank express : Bool} (hpc : pc < 2048) :
    fld (faultWord pc desc bank express) 0 11 = pc ∧ bit (faultWord pc desc bank express) 11 = bank ∧
    fld (faultWord pc desc bank express) 16 12 = desc % 2 ^ 12 ∧ bit (faultWord pc desc bank express) 31 = express := by
  unfold faultWord
  refine ⟨?_, ?_, ?_, ?_⟩
  · rw [setBit, fld_setFld_other (by decide) (by decide), fld_setFld_other (by decide) (by decide), setBit,
      fld_setFld_other (by decide) (by decide), fld_zero, wd, BitVec.toNat_ofNat]
    omega
  · rw [bit_setBit (by decide), if_neg (by decide), bit_setFld (by decide), if_neg (by decide), bit_setBit (by decide), if_pos rfl]
  · rw [setBit, fld_setFld_other (by decide) (by decide), fld_setFld_same (by decide)]
  · rw [bit_setBit (by decide), if_pos rfl]

/-- A task fault before the end of its task: FSTS, FPC and FADDR are latched and the fault is raised. -/
def faultLatched (e code addr desc pc : Nat) (bank express : Bool) (s : State) : State :=
  raise (4032 + e) (modShu e (fun u => { u with step := false, skipBrk := false, brkStop := false })
    (rset (Reg.shuFaddr e) (wd addr) (rset (Reg.shuFpc e) (faultWord (faultPc pc s).1 desc bank express)
      (faultPc pc (setf (Reg.shuFsts e) 8 4 code (setb (Reg.shuFsts e) 0 true s))).2)))

theorem shu_not_raiseReg {a : Nat} (h : 0x191000 ≤ a) (h' : a < 0x1A0000) : ¬ RaiseReg a := by
  unfold RaiseReg Reg.selLevOut Reg.shedMergeCnt Reg.shedExpMergeCnt
  omega

/-- What a task fault latches. -/
theorem faultLatched_regs {e : Fin 34} {code addr desc pc : Nat} {bank express : Bool} {s : State} :
    let t := faultLatched e code addr desc pc bank express s
    rget t (Reg.shuFsts e) = setFld (setBit (rget s (Reg.shuFsts e)) 0 true) 8 4 code ∧
    rget t (Reg.shuFaddr e) = wd addr ∧ rget t (Reg.shuFpc e) = faultWord (faultPc pc s).1 desc bank express ∧
    t.mem = s.mem ∧ ∀ y, ctx t e y = ctx s e y := by
  intro t
  have hfree : ∀ u, (faultPc pc u).2 = { u with freeN := (faultPc pc u).2.freeN } := fun u => (faultPc_spec pc u).2.2
  have hbounds : ∀ a, a ≤ 0x191028 + 0x100 * e.val → 0x191000 ≤ a → ¬ RaiseReg a :=
    fun a hle hge => shu_not_raiseReg hge (by omega)
  have hfsts : Reg.shuFsts e = 0x191020 + 0x100 * e.val := rfl
  have hfpc : Reg.shuFpc e = 0x191024 + 0x100 * e.val := rfl
  have hfaddr : Reg.shuFaddr e = 0x191028 + 0x100 * e.val := rfl
  refine ⟨?_, ?_, ?_, ?_, fun y => ?_⟩
  · simp only [t, faultLatched]
    rw [raise_rget (hbounds _ (by omega) (by omega)), modShu_rget, rget_rset_other (by omega), rget_rset_other (by omega), hfree]
    change rget (setf (Reg.shuFsts e) 8 4 code (setb (Reg.shuFsts e) 0 true s)) (Reg.shuFsts e) = _
    rw [rget_setf_same, rget_setb_same]
  · simp only [t, faultLatched]
    rw [raise_rget (hbounds _ (by omega) (by omega)), modShu_rget, rget_rset_same]
  · simp only [t, faultLatched]
    rw [raise_rget (hbounds _ (by omega) (by omega)), modShu_rget, rget_rset_other (by omega), rget_rset_same]
  · simp only [t, faultLatched, raise_mem, modShu_mem, rset_mem]
    rw [hfree]
    simp
  · simp only [t, faultLatched]
    rw [ctx_eq_of_shu raise_shu, ctx_modShu (by intro; rfl) (by intro; rfl)]
    refine ctx_eq_of_shu ?_ e y
    simp only [rset_shu]
    rw [hfree]
    simp

/-- A task fault latches and ends the task of its context. -/
theorem taskFault_eq {e code addr : Nat} {r : Run} {s : State} (htask : (ctx s e (active s e)).task = some r) :
    let u := faultLatched e code addr (r.desc % 4096) (ctx s e (active s e)).pc (decide (r.bank = 1)) (active s e == .express) s
    taskFault e code addr s = match active s e with
      | .normal => normalEndAt e u.time u | .express => expressEndAt e u.time u := by
  intro u
  have hpc : (faultPc (ctx s e (active s e)).pc (setf (Reg.shuFsts e) 8 4 code (setb (Reg.shuFsts e) 0 true s))).1 =
      (faultPc (ctx s e (active s e)).pc s).1 := by
    simp only [faultPc]
    split <;> simp [freshWord]
  simp only [taskFault, htask, runBank, descIndex, hpc]
  rfl

/-- What a task fault leaves in the registers of its engine, and of its context. -/
theorem taskFault_spec {e : Fin 34} {code addr : Nat} {r : Run} {s : State} (htask : (ctx s e (active s e)).task = some r) :
    let t := taskFault e code addr s
    rget t (Reg.shuFsts e) = setFld (setBit (rget s (Reg.shuFsts e)) 0 true) 8 4 code ∧
    rget t (Reg.shuFaddr e) = wd addr ∧
    rget t (Reg.shuFpc e) = faultWord (faultPc (ctx s e (active s e)).pc s).1 (r.desc % 4096) (decide (r.bank = 1))
      (active s e == .express) ∧
    (ctx t e (active s e)).task = none ∧ (ctx t e (active s e)).slots = storeSlots (ctx s e (active s e)).slots ∧
    t.mem = s.mem := by
  intro t
  obtain ⟨hfsts, hfaddr, hfpc, hmem, hctx⟩ := faultLatched_regs (e := e) (code := code) (addr := addr) (desc := r.desc % 4096)
    (pc := (ctx s e (active s e)).pc) (bank := decide (r.bank = 1)) (express := active s e == .express) (s := s)
  have ht : t = _ := taskFault_eq htask
  have hbounds : ∀ k, k = 0x20 ∨ k = 0x24 ∨ k = 0x28 → let a := 0x191000 + k + 0x100 * e.val
      ¬ RaiseReg a ∧ a ≠ Reg.engEsts e ∧ a ≠ Reg.engExpLat e ∧ a ≠ Reg.shuDbg e := fun k hk =>
    ⟨shu_not_raiseReg (by omega) (by omega), by unfold Reg.engEsts; omega, by unfold Reg.engExpLat; omega,
      by unfold Reg.shuDbg; omega⟩
  obtain ⟨hr1, he1, hl1, hd1⟩ := hbounds 0x20 (by decide)
  obtain ⟨hr2, he2, hl2, hd2⟩ := hbounds 0x24 (by decide)
  obtain ⟨hr3, he3, hl3, hd3⟩ := hbounds 0x28 (by decide)
  cases hx : active s e with
  | normal =>
    simp only [hx] at ht htask hfsts hfaddr hfpc hmem hctx ⊢
    obtain ⟨hreg, hm, -, hnone, hslots⟩ := normalEndAt_frame (fin := (faultLatched e code addr (r.desc % 4096) (ctx s e .normal).pc
      (decide (r.bank = 1)) (Ctx.normal == .express) s).time) ((congrArg CtxSt.task (hctx .normal)).trans htask)
    rw [ht]
    exact ⟨(hreg _ hr1 he1).trans hfsts, (hreg _ hr3 he3).trans hfaddr, (hreg _ hr2 he2).trans hfpc, hnone,
      by rw [hslots, hctx], hm.trans hmem⟩
  | express =>
    simp only [hx] at ht htask hfsts hfaddr hfpc hmem hctx ⊢
    obtain ⟨hreg, hm, hnone, hslots⟩ := expressEndAt_frame (fin := (faultLatched e code addr (r.desc % 4096) (ctx s e .express).pc
      (decide (r.bank = 1)) (Ctx.express == .express) s).time) ((congrArg CtxSt.task (hctx .express)).trans htask)
    rw [ht]
    exact ⟨(hreg _ hr1 hl1 hd1).trans hfsts, (hreg _ hr3 hl3 hd3).trans hfaddr, (hreg _ hr2 hl2 hd2).trans hfpc, hnone,
      by rw [hslots, hctx], hm.trans hmem⟩

/-! ### Faults at issue (R91 to R93, R97, R118, R123) -/

/-- An instruction whose body is a task fault at the state with the snapshot. -/
theorem issue_faults {e : Fin 34} {i : Instr} {uses : List Nat} {dsts need code addr : Nat} {free : Bool}
    {body : Ctx → State → State} {s : State} (hn : shuNeeds i = some (uses, need, free)) (h : Issues e i s)
    (hbody : ∀ t, SnapFrame e s t → body (active s e) t = taskFault e code addr t) :
    issue e i uses dsts need free body s = .next (settle (taskFault e code addr (expressSnap e (active s e) s))) := by
  rw [issue_issues hn h, hbody _ (expressSnap_frame e (active s e) s)]

/-- The refusals of an access of `n` bytes (R91 to R93): misaligned first, then an address that may not be accessed. -/
theorem memFault_cases {s : State} {ea n : Nat} {st : Bool} :
    (ea % n ≠ 0 → memFault s ea n st = some 3) ∧
    (ea % n = 0 → shuAddr ea = false ∨ (st = true ∧ idleHalf s ea = true) → memFault s ea n st = some 4) := by
  refine ⟨fun h => by simp [memFault, h], fun h hout => ?_⟩
  rcases hout with hout | ⟨hst, hidle⟩
  · simp [memFault, h, hout]
  · simp [memFault, h, hst, hidle]

theorem loadAt_fault {e ea n c : Nat} {x : Ctx} {put : Nat → List (Nat × Word)} {s : State}
    (h : memFault s ea n false = some c) : loadAt e x ea n put s = taskFault e c ea s := by simp [loadAt, h]

theorem storeAt_fault {e ea n v c : Nat} {x : Ctx} {fed : List Word} {s : State}
    (h : memFault s ea n true = some c) : storeAt e x ea n v fed s = taskFault e c ea s := by simp [storeAt, h]

/-- An access of the engines' own that issues faults at its address, where its body is one of R91 to R96. -/
theorem access_faults {e : Fin 34} {i : Instr} {uses : List Nat} {dsts need ea n : Nat} {st free : Bool}
    {body : Ctx → State → State} {s : State} (hn : shuNeeds i = some (uses, need, free)) (h : Issues e i s)
    (hbody : ∀ t c, SnapFrame e s t → memFault t ea n st = some c → body (active s e) t = taskFault e c ea t) :
    (ea % n ≠ 0 → issue e i uses dsts need free body s = .next (settle (taskFault e 3 ea (expressSnap e (active s e) s)))) ∧
    (ea % n = 0 → shuAddr ea = false ∨ (st = true ∧ idleHalf s ea = true) →
      issue e i uses dsts need free body s = .next (settle (taskFault e 4 ea (expressSnap e (active s e) s)))) :=
  ⟨fun hmis => issue_faults hn h fun t ht => hbody t 3 ht (ht.memFault.trans (memFault_cases.1 hmis)),
    fun halign hout => issue_faults hn h fun t ht => hbody t 4 ht (ht.memFault.trans (memFault_cases.2 halign hout))⟩

/-- A load that issues faults at its address, where its body is one of R91 to R96. -/
theorem load_faults {e : Fin 34} {i : Instr} {uses : List Nat} {dsts need ea n : Nat} {free : Bool} {body : Ctx → State → State}
    {put : Nat → List (Nat × Word)} {s : State} (hn : shuNeeds i = some (uses, need, free)) (h : Issues e i s)
    (hbody : ∀ t, SnapFrame e s t → body (active s e) t = loadAt e (active s e) ea n put t) :
    (ea % n ≠ 0 → issue e i uses dsts need free body s = .next (settle (taskFault e 3 ea (expressSnap e (active s e) s)))) ∧
    (ea % n = 0 → shuAddr ea = false ∨ (false = true ∧ idleHalf s ea = true) →
      issue e i uses dsts need free body s = .next (settle (taskFault e 4 ea (expressSnap e (active s e) s)))) :=
  access_faults hn h fun t _ ht hc => (hbody t ht).trans (loadAt_fault hc)

/-- A store that issues faults at its address, where its body is one of R91 to R95. -/
theorem store_faults {e : Fin 34} {i : Instr} {uses : List Nat} {dsts need ea n v : Nat} {free : Bool} {body : Ctx → State → State}
    {fed : List Word} {s : State} (hn : shuNeeds i = some (uses, need, free)) (h : Issues e i s)
    (hbody : ∀ t, SnapFrame e s t → body (active s e) t = storeAt e (active s e) ea n v fed t) :
    (ea % n ≠ 0 → issue e i uses dsts need free body s = .next (settle (taskFault e 3 ea (expressSnap e (active s e) s)))) ∧
    (ea % n = 0 → shuAddr ea = false ∨ (true = true ∧ idleHalf s ea = true) →
      issue e i uses dsts need free body s = .next (settle (taskFault e 4 ea (expressSnap e (active s e) s)))) :=
  access_faults hn h fun t _ ht hc => (hbody t ht).trans (storeAt_fault hc)

/-! ### The engine of an instruction -/

/-- The engine that an access or an arithmetic instruction under the residue check names. -/
def checkedEngine : Instr → Option (Fin 34)
  | .ld e .. | .ldh e .. | .ldhu e .. | .ldbu e .. | .ldd e .. | .st e .. | .sth e .. | .stb e .. | .std e ..
  | .aluAdd e .. | .aluSub e .. | .aluAdc e .. | .aluSbc e .. | .aluMul e .. | .aluMulh e .. | .aluMulhu e .. | .aluDivs e ..
  | .aluDivu e .. | .cmp e .. | .cmpi e .. | .addi e .. | .padd e .. | .pdif e .. => some e
  | _ => none

/-- An instruction decoded for an engine names it. -/
theorem checkedEngine_shuDecode {e k : Fin 34} {w : BitVec 32} (h : checkedEngine (shuDecode e w) = some k) : k = e := by
  unfold shuDecode at h
  split at h <;> simp_all [checkedEngine]

theorem Issues.engine {e k : Fin 34} {i : Instr} {s : State} (h : Issues e i s) (hk : checkedEngine i = some k) : k = e := by
  unfold Issues at h
  split at h
  · obtain ⟨-, -, -, -, -, hat, -⟩ := h
    simp only [atInstr, Bool.and_eq_true, decide_eq_true_eq] at hat
    exact checkedEngine_shuDecode (hat.1.1.1 ▸ hk)
  · exact h.elim

/-! ### Residue errors (R114) -/

/-- What an arithmetic instruction of a normal task leaves with a residue error, and without. -/
structure ResidueFound (e : Fin 34) (s t u : State) : Prop where
  registers : ∀ r, gr t e .normal r = gr u e .normal r
  flags : (ctx t e .normal).flags = (ctx u e .normal).flags
  atPc : (ctx t e .normal).pc = (ctx u e .normal).pc
  found : (ctx t e .normal).err = true ∧ rb t (Reg.shuFsts e) 5 = true ∧ t.flt.injRes = none ∧ t.mem = s.mem

/-- The state of `s` without an injected residue error. -/
def uninjected (s : State) : State := { s with flt := { s.flt with injRes := none } }

/-- A result `w` of state `s`, and the same result `w0` without the injection: the error latches, and nothing else differs. -/
theorem residue_found {e : Fin 34} {occ : Nat} {s w w0 : State} {note : State → State} (hnote : ∀ u y, ctx (note u) e y = ctx u e y)
    (hnoteRegs : ∀ u, (note u).regs = u.regs) (hnoteFlt : ∀ u, (note u).flt = u.flt) (hnoteMem : ∀ u, (note u).mem = u.mem)
    (hinj : s.flt.injRes = some e.val) (hcheck : checkOn s = true) (q : Quiet s) (hregs : w.regs = s.regs) (hflt : w.flt = s.flt)
    (hmem : w.mem = s.mem) (hshu : w0.shu = w.shu) :
    let t := retire e .normal occ (note (residue e .normal w))
    Quiet t ∧ ResidueFound e s t (retire e .normal occ (note w0)) := by
  intro t
  have hresidue : residue e .normal w = modCtx e .normal (fun c => { c with err := true })
      (setb (Reg.shuFsts e) 5 true (modFlt (fun f => { f with injRes := none }) w)) := by
    refine residue_injected (hflt ▸ hinj) ?_
    simpa only [checkOn, rb, rget, hregs] using hcheck
  have hctxw : ctx (residue e .normal w) e .normal = { ctx w e .normal with err := true } := by
    rw [hresidue, ctx_modCtx_same, ctx_eq_of_shu (s := w) (by simp)]
  have hctx : ctx t e .normal = { ctx (retire e .normal occ (note w0)) e .normal with err := true } := by
    simp only [t, retire, retireTo_ctx_same, hnote, hctxw, ctx_eq_of_shu hshu]
  have hregst : t.regs = (setb (Reg.shuFsts e) 5 true w).regs := by
    simp only [t, retire_regs, hnoteRegs, hresidue, modCtx_regs]
    rfl
  have hfltt : t.flt = { s.flt with injRes := none } := by
    simp only [t, retire_flt, hnoteFlt, hresidue, modCtx_flt, setb_flt, ← hflt]
    rfl
  have hother : Reg.chgSts ≠ Reg.shuFsts e := by
    unfold Reg.chgSts Reg.shuFsts
    omega
  refine ⟨q.of_eq (by rw [hfltt]) ?_, fun r => by simp only [gr, gget, hctx], by rw [hctx], by rw [hctx], by rw [hctx], ?_,
    by rw [hfltt], ?_⟩
  · rw [rget, hregst]
    exact (rget_setb_other hother).trans (by rw [rget, hregs, rget])
  · rw [rb, rget, hregst]
    exact rb_setb_same (by decide)
  · simp only [t, retire_mem, hnoteMem, hresidue, modCtx_mem, setb_mem, ← hmem]
    rfl

/-- An arithmetic instruction that issues in a normal task with a residue error injected: its body is a result, a check and what
it notes of itself. -/
theorem issue_residue_found {e : Fin 34} {i : Instr} {uses : List Nat} {dsts need occ : Nat} {free : Bool}
    {body : Ctx → State → State} {result note : State → State} {s : State} (hn : shuNeeds i = some (uses, need, free))
    (h : Issues e i s) (q : Quiet s) (hx : active s e = .normal) (hinj : s.flt.injRes = some e.val) (hcheck : checkOn s = true)
    (hnote : ∀ u y, ctx (note u) e y = ctx u e y)
    (hnoteRegs : ∀ u, (note u).regs = u.regs) (hnoteFlt : ∀ u, (note u).flt = u.flt) (hnoteMem : ∀ u, (note u).mem = u.mem)
    (hbody : ∀ u, u = s ∨ u = uninjected s → body .normal u = retire e .normal occ (note (residue e .normal (result u))))
    (hresult : ∀ u, (result u).regs = u.regs ∧ (result u).flt = u.flt ∧ (result u).mem = u.mem)
    (hshu : (result (uninjected s)).shu = (result s).shu) :
    ∃ t u, issue e i uses dsts need free body s = .next t ∧ issue e i uses dsts need free body (uninjected s) = .next u ∧
      ResidueFound e s t u := by
  obtain ⟨hregs, hflt, hmem⟩ := hresult s
  obtain ⟨hregs0, hflt0, -⟩ := hresult (uninjected s)
  obtain ⟨hquiet, hfound⟩ := residue_found (occ := occ) hnote hnoteRegs hnoteFlt hnoteMem hinj hcheck q hregs hflt hmem hshu
  have h0 : Issues e i (uninjected s) := h
  have hx0 : active (uninjected s) e = .normal := hx
  have hsnap : ∀ u, expressSnap e .normal u = u := fun u => rfl
  have hres0 : residue e .normal (result (uninjected s)) = result (uninjected s) := residue_none (by rw [hflt0]; simp [uninjected])
  have hquiet0 : Quiet (retire e .normal occ (note (result (uninjected s)))) := by
    refine q.of_eq ?_ (by simp only [rget, retire_regs, hnoteRegs, hregs0]; rfl)
    rw [retire_flt, hnoteFlt, hflt0]
    rfl
  refine ⟨_, _, ?_, ?_, hfound⟩
  · rw [issue_issues hn h, hx, hsnap, hbody s (.inl rfl), settle_quiet hquiet]
  · rw [issue_issues hn h0, hx0, hsnap, hbody _ (.inr rfl), hres0, settle_quiet hquiet0]

section
variable {e : Fin 34} {i : Instr} {uses : List Nat} {dsts need : Nat} {free : Bool} {s : State}
  (hn : shuNeeds i = some (uses, need, free)) (h : Issues e i s) (q : Quiet s) (hx : active s e = .normal)
  (hinj : s.flt.injRes = some e.val) (hcheck : checkOn s = true)
include hn h q hx hinj hcheck

theorem alu_residue_found {d a b lat : Nat} {f : Flags → Word → Word → Word × Flags} :
    ∃ t u, issue e i uses dsts need free (aluBody e d a b lat true f) s = .next t ∧
      issue e i uses dsts need free (aluBody e d a b lat true f) (uninjected s) = .next u ∧ ResidueFound e s t u :=
  issue_residue_found (occ := 1) (note := fun u => u)
    (result := fun u => putResult e .normal d lat (f (ctx u e .normal).flags (gr u e .normal a) (gr u e .normal b)) u)
    hn h q hx hinj hcheck (fun _ _ => rfl) (fun _ => rfl) (fun _ => rfl) (fun _ => rfl) (fun _ _ => rfl)
    (fun _ => ⟨rfl, rfl, rfl⟩) rfl

theorem imm_residue_found {d a : Nat} {v : Word} {f : Flags → Word → Word → Word × Flags} :
    ∃ t u, issue e i uses dsts need free (immBody e d a v true f) s = .next t ∧
      issue e i uses dsts need free (immBody e d a v true f) (uninjected s) = .next u ∧ ResidueFound e s t u :=
  issue_residue_found (occ := 1) (note := fun u => u)
    (result := fun u => putResult e .normal d 1 (f (ctx u e .normal).flags (gr u e .normal a) v) u)
    hn h q hx hinj hcheck (fun _ _ => rfl) (fun _ => rfl) (fun _ => rfl) (fun _ => rfl) (fun _ _ => rfl)
    (fun _ => ⟨rfl, rfl, rfl⟩) rfl

theorem cmp_residue_found {a : Nat} {v : State → Ctx → Word} (hv : v (uninjected s) .normal = v s .normal) :
    ∃ t u, issue e i uses dsts need free (cmpBody e a v) s = .next t ∧
      issue e i uses dsts need free (cmpBody e a v) (uninjected s) = .next u ∧ ResidueFound e s t u :=
  issue_residue_found (occ := 1) (note := fun u => u)
    (result := fun u => setFlags e .normal (subFlags (gr u e .normal a) (v u .normal) 0).2 u)
    hn h q hx hinj hcheck (fun _ _ => rfl) (fun _ => rfl) (fun _ => rfl) (fun _ => rfl) (fun _ _ => rfl)
    (fun _ => ⟨rfl, rfl, rfl⟩) (by rw [hv]; rfl)

theorem div_residue_found {d a b : Nat} {f : Flags → Word → Word → Word × Flags} :
    ∃ t u, issue e i uses dsts need free (divBody e d a b f) s = .next t ∧
      issue e i uses dsts need free (divBody e d a b f) (uninjected s) = .next u ∧ ResidueFound e s t u := by
  refine issue_residue_found (occ := 20)
    (note := modShu e (fun u => { u with divSave := some (ctx s e .normal, d, s.time + 20) }))
    (result := fun u => putResult e .normal d 20 (f (ctx u e .normal).flags (gr u e .normal a) (gr u e .normal b)) u)
    hn h q hx hinj hcheck (fun u y => ctx_modShu (by intro; rfl) (by intro; rfl) y) (fun _ => rfl) (fun _ => rfl)
    (fun _ => rfl) (fun u hu => ?_) (fun _ => ⟨rfl, rfl, rfl⟩) rfl
  rcases hu with rfl | rfl <;> rfl

end

theorem exec_ill (e : Fin 34) (s : State) : exec (.ill e) s = issue e (.ill e) [] 0 0 false (fun _ => taskFault e 1 0) s := rfl

/-- The accesses of R86 by the immediate and the register of their address: misaligned and disallowed ones are task faults. -/
theorem shuAccess_faults {e : Fin 34} {i : Instr} {a : Fin 16} {imm : BitVec 14} {n : Nat} {st : Bool} {s : State}
    (hacc : shuAccess i = some (a, imm, n, st)) (h : Issues e i s) :
    let ea := (gr s e (active s e) a + imm.signExtend 32).toNat
    (ea % n ≠ 0 → exec i s = .next (settle (taskFault e 3 ea (expressSnap e (active s e) s)))) ∧
    (ea % n = 0 → shuAddr ea = false ∨ (st = true ∧ idleHalf s ea = true) →
      exec i s = .next (settle (taskFault e 4 ea (expressSnap e (active s e) s)))) := by
  intro ea
  unfold shuAccess at hacc
  split at hacc
  case h_1 =>
    cases hacc
    obtain rfl := h.engine rfl
    rw [exec_ld, execLd]
    exact load_faults rfl h fun t ht => by rw [ht.effAddr]; rfl
  case h_2 =>
    cases hacc
    obtain rfl := h.engine rfl
    rw [exec_ldh, execLdh]
    exact load_faults rfl h fun t ht => by rw [ht.effAddr]; rfl
  case h_3 =>
    cases hacc
    obtain rfl := h.engine rfl
    rw [exec_ldhu, execLdhu]
    exact load_faults rfl h fun t ht => by rw [ht.effAddr]; rfl
  case h_4 =>
    cases hacc
    obtain rfl := h.engine rfl
    rw [exec_ldbu, execLdbu]
    exact load_faults rfl h fun t ht => by rw [ht.effAddr]; rfl
  case h_5 =>
    split at hacc
    · cases hacc
      obtain rfl := h.engine rfl
      rw [exec_ldd, execLdd]
      exact load_faults rfl h fun t ht => by rw [if_neg (by omega), ht.effAddr]; rfl
    · cases hacc
  case h_6 =>
    cases hacc
    obtain rfl := h.engine rfl
    rw [exec_st, execSt]
    exact store_faults rfl h fun t ht => by rw [ht.effAddr, ht.gr]; rfl
  case h_7 =>
    cases hacc
    obtain rfl := h.engine rfl
    rw [exec_sth, execSth]
    exact store_faults rfl h fun t ht => by rw [ht.effAddr, ht.gr]; rfl
  case h_8 =>
    cases hacc
    obtain rfl := h.engine rfl
    rw [exec_stb, execStb]
    exact store_faults rfl h fun t ht => by rw [ht.effAddr, ht.gr]; rfl
  case h_9 =>
    split at hacc
    · cases hacc
      obtain rfl := h.engine rfl
      rw [exec_std, execStd]
      exact store_faults rfl h fun t ht => by rw [if_neg (by omega), ht.effAddr, ht.gr, ht.gr]; rfl
    · cases hacc
  case h_10 => cases hacc

theorem windowAddr_none {s : State} {g : Word} {imm : BitVec 14} (h : cbwSize s (imm.toNat / 1024) = 0) :
    windowAddr s g imm = none := by simp [windowAddr, h]

theorem exec_rds (e : Fin 34) (d : Fin 16) (imm : BitVec 14) (s : State) : exec (.rds e d imm) s = execRds e d imm s := rfl
theorem exec_rdl (e : Fin 34) (d : Fin 16) (imm : BitVec 14) (s : State) : exec (.rdl e d imm) s = execRdl e d imm s := rfl
theorem exec_chr (e : Fin 34) (d a : Fin 16) (imm : BitVec 14) (s : State) : exec (.chr e d a imm) s = execChr e d a imm s := rfl
theorem exec_chw (e : Fin 34) (a b : Fin 16) (imm : BitVec 14) (s : State) : exec (.chw e a b imm) s = execChw e a b imm s := rfl
theorem exec_edge (e : Fin 34) (a b : Fin 16) (imm : BitVec 14) (s : State) : exec (.edge e a b imm) s = execEdge e a b imm s := rfl
theorem exec_arm (e : Fin 34) (d a : Fin 16) (s : State) : exec (.arm e d a) s = execArm e d a s := rfl

/-- The instructions under the residue check latch an injected error of a normal task and write the same results. -/
theorem residueChecked_found {e : Fin 34} {i : Instr} {s : State} (hi : residueChecked i = true) (h : Issues e i s) (q : Quiet s)
    (hx : active s e = .normal) (hinj : s.flt.injRes = some e.val) (hcheck : checkOn s = true) :
    ∃ t u, exec i s = .next t ∧ exec i (uninjected s) = .next u ∧ ResidueFound e s t u := by
  unfold residueChecked at hi
  split at hi
  case h_1 | h_2 | h_3 | h_4 | h_5 | h_6 | h_7 =>
    obtain rfl := h.engine rfl
    exact alu_residue_found rfl h q hx hinj hcheck
  case h_8 | h_9 =>
    obtain rfl := h.engine rfl
    exact div_residue_found rfl h q hx hinj hcheck
  case h_10 | h_11 =>
    obtain rfl := h.engine rfl
    exact cmp_residue_found rfl h q hx hinj hcheck rfl
  case h_12 =>
    obtain rfl := h.engine rfl
    exact imm_residue_found rfl h q hx hinj hcheck
  case h_13 | h_14 =>
    obtain rfl := h.engine rfl
    exact alu_residue_found rfl h q hx hinj hcheck
  case h_15 => cases hi

/-- Settles O31: what a task fault latches, then the faults of each instruction, and residue errors. -/
theorem shuttleTaskFaults : Obligations.ShuttleTaskFaults := by
  unfold Obligations.ShuttleTaskFaults
  refine ⟨?fault, ?ill, ?access, ?ldc, ?stc, ?ldd, ?std, ?rds, ?rdl, ?chr, ?chw, ?edge, ?arm, ?lerp, ?residue, ?fetch⟩
  case fault =>
    intro e code addr r s t htask hcode
    obtain ⟨hfsts, hfaddr, hfpc, hnone, hslots, hmem⟩ := taskFault_spec (code := code) (addr := addr) htask
    obtain ⟨hlt, heq, -⟩ := faultPc_spec (ctx s e (active s e)).pc s
    obtain ⟨hpc, hbank, hdesc, hexpress⟩ := faultWord_fields (desc := r.desc % 4096) (bank := decide (r.bank = 1))
      (express := active s e == .express) hlt
    refine ⟨?_, ?_, hfaddr, fun hin => ?_, ?_, ?_, ?_, hnone, hslots, hmem⟩
    · rw [rb, hfsts, bit_setFld (by decide), if_neg (by decide), bit_setBit (by decide), if_pos rfl]
    · rw [rf, hfsts, fld_setFld_same (by decide)]
      exact Nat.mod_eq_of_lt hcode
    · rw [rf, hfpc, hpc, heq hin]
    · rw [rb, hfpc, hbank]
    · rw [rf, hfpc, hdesc]
      omega
    · rw [rb, hfpc, hexpress]
  case ill =>
    intro e s h
    rw [exec_ill]
    exact issue_faults rfl h fun _ _ => rfl
  case access =>
    intro e i a imm n st s ea hacc h
    exact shuAccess_faults hacc h
  case ldc =>
    intro e d a imm s h hsize
    rw [exec_ldc, execLdc]
    exact issue_faults rfl h fun t ht => by simp only [ht.windowAddr, windowAddr_none hsize]
  case stc =>
    intro e a b imm s h hsize
    rw [exec_stc, execStc]
    exact issue_faults rfl h fun t ht => by simp only [ht.windowAddr, windowAddr_none hsize]
  case ldd =>
    intro e d a imm s h hodd
    rw [exec_ldd, execLdd]
    exact issue_faults rfl h fun t ht => if_pos hodd
  case std =>
    intro e a b imm s h hodd
    rw [exec_std, execStd]
    exact issue_faults rfl h fun t ht => if_pos hodd
  case rds =>
    intro e d imm s h hsel
    rw [exec_rds, execRds]
    exact issue_faults rfl h fun t ht => if_pos hsel
  case rdl =>
    intro e d imm s h hsel
    rw [exec_rdl, execRdl]
    exact issue_faults rfl h fun t ht => by simp [hsel]
  case chr =>
    intro e d a imm s h hsel
    rw [exec_chr, execChr]
    exact issue_faults rfl h fun t ht => if_pos hsel
  case chw =>
    intro e a b imm s h hsel
    rw [exec_chw, execChw]
    exact issue_faults rfl h fun t ht => if_pos hsel
  case edge =>
    intro e a b imm s h hact
    rw [exec_edge, execEdge]
    exact issue_faults rfl h fun t ht => if_pos hact
  case arm =>
    intro e d a s h ha
    rw [exec_arm, execArm]
    exact issue_faults rfl h fun t ht => if_pos ha
  case lerp => exact fun e d a b imm s h hk => exec_lerp_segments_fault h hk
  case residue =>
    intro e i s s0 hi h q hx hinj hcheck
    obtain ⟨t, u, ht, hu, hregisters, hflags, hpc, herr, hflag, hended, hmem⟩ := residueChecked_found hi h q hx hinj hcheck
    exact ⟨t, u, ht, hu, hregisters, hflags, hpc, herr, hflag, hended, hmem⟩
  case fetch =>
    intro e s htime hmay hlimit
    refine ⟨fun hpast => ?_, fun hin hbad => ?_⟩
    · rw [exec_nop]
      simp [issue, advanceTo_now htime, hmay, hlimit, hpast]
    · rw [exec_nop]
      simp [issue, advanceTo_now htime, hmay, hlimit, hin, hbad]

end Sys2Proof.Machine
end

section
/-!
PROOFS. Snapshots and live items, the end check and debug stops of the shuttle engines (03_shuttle_engines.md R98 to R100, R111,
R115, R116, R124 to R126).
-/

namespace Sys2Proof.Machine

/-! ### Snapshots and live items (R98 to R100) -/

theorem mem_schedule (c : Nat) (x : Timed) (s : State) : (c, x) ∈ (schedule c x s).timed := by simp [schedule]

/-- An access that samples later, in a state whose engines are those of `s` but for the snapshot. -/
theorem sampleAccess_frame {e : Nat} {acc : Access} {s t : State} (h : SnapFrame e s t) (q : Quiet s) :
    let u := sampleAccess e (active s e) acc t
    Quiet u ∧ u.regs = s.regs ∧ u.mem = s.mem ∧ AccessFrame e 8 1 acc [] s u ∧
      (s.time + 4, Timed.sample e (active s e) (shuSt s e).slotId) ∈ u.timed := by
  intro u
  have hu : u = retire e (active s e) 1 (schedule (s.time + 4) (.sample e (active s e) (shuSt s e).slotId)
      (takeSlot e (active s e) 8 1 acc t)) := by
    simp only [u, sampleAccess, h.time, h.slotId]
  rw [hu]
  exact ⟨q.of_eq (by simp [h.flt]) (by simp [rget, h.regs]), by simp [h.regs], by simp [h.mem],
    accessFrame_retire_slot h rfl h.time (by simp), mem_schedule _ _ _⟩

/-- Settles O34: the item of the snapshot, the accesses that sample, and the items that they sample. -/
theorem shuttleReads : Obligations.ShuttleReads := by
  unfold Obligations.ShuttleReads
  refine ⟨?rds, ?snap, ?rdl, ?chr, ?live⟩
  case rds =>
    intro e d imm s f h q hsel
    rw [exec_rds, execRds]
    have hsnap := expressSnap_frame e (active s e) s
    have hbody : (if 11 < imm.toNat then taskFault e 2 0 (expressSnap e (active s e) s)
        else constBody e d (snapItem (expressSnap e (active s e) s) e (active s e) imm.toNat) (active s e)
          (expressSnap e (active s e) s)) = _ := if_neg (by omega)
    obtain ⟨hframe, hwrites⟩ := constBody_retires (d := d)
      (v := snapItem (expressSnap e (active s e) s) e (active s e) imm.toNat) rfl hsnap
    refine ⟨_, ?_, hframe, hwrites⟩
    rw [issue_issues rfl h, hbody, settle_frame hframe q]
  case snap =>
    intro e x s p
    refine ⟨rfl, rfl, rfl, rfl, fun t ht => ?_⟩
    have hphase : snapItem s e x (4 + 2 * t) = tget 0 p.phase t := by
      obtain rfl | rfl | rfl | rfl : t = 0 ∨ t = 1 ∨ t = 2 ∨ t = 3 := by omega
      all_goals rfl
    have hcycle : snapItem s e x (5 + 2 * t) = tget 0 p.cycle t := by
      obtain rfl | rfl | rfl | rfl : t = 0 ∨ t = 1 ∨ t = 2 ∨ t = 3 := by omega
      all_goals rfl
    exact ⟨hphase, hcycle⟩
  case rdl =>
    intro e d imm s h q hvalid
    rw [exec_rdl, execRdl, issue_issues rfl h]
    obtain ⟨hquiet, hframe⟩ := sampleAccess_frame (acc := .rdl d imm.toNat none) (expressSnap_frame e (active s e) s) q
    exact ⟨_, by rw [hvalid, Bool.not_true, if_neg (by decide), settle_quiet hquiet], hframe⟩
  case chr =>
    intro e d a imm s h q hsel
    have hsnap := expressSnap_frame e (active s e) s
    have hchan : ∀ g : Word, chanOf g imm = (g.toNat % 512 + imm.toNat / 32) % 512 := fun g => by rw [chanOf, fld_zero] <;> rfl
    rw [exec_chr, execChr, issue_issues rfl h]
    obtain ⟨hquiet, hframe⟩ := sampleAccess_frame
      (acc := .chr d (((gr s e (active s e) a).toNat % 512 + imm.toNat / 32) % 512) (imm.toNat % 32) none) hsnap q
    exact ⟨_, by rw [hsel, if_neg (by decide), hsnap.gr, hchan, settle_quiet hquiet], hframe⟩
  case live =>
    intro e x s
    refine ⟨rfl, fun t ht => ?_, fun w hw => ?_, fun j hj => ?_, fun p hp => ?_, rfl, rfl⟩
    · have hlive : (ctx (liveItem e x 0 s).2 e x).liveT = s.time := by simp [liveItem]
      change wd ((ctx t e x).liveT / 2 ^ 32) = _
      rw [ht, hlive]
    · rw [liveItem, if_neg (by omega), if_neg (by omega), if_neg (by omega), if_neg (by omega), if_pos (by omega),
        Nat.add_sub_cancel_left]
    · rw [liveItem, if_neg (by omega), if_neg (by omega), if_neg (by omega), if_neg (by omega), if_neg (by omega),
        if_pos (by omega), Nat.add_sub_cancel_left]
    · have hdiv : ∀ m, m < 3 → (0x40 + m + 4 * p - 0x40) / 4 = p ∧ (0x40 + m + 4 * p) % 4 = m := fun m hm => by omega
      have hin : ∀ m, m < 3 → liveItem e x (0x40 + m + 4 * p) s = _ := fun m hm => by
        rw [liveItem, if_neg (by omega), if_neg (by omega), if_neg (by omega), if_pos (by omega), (hdiv m hm).1, (hdiv m hm).2]
      exact ⟨hin 0 (by decide), hin 1 (by decide), hin 2 (by decide)⟩

/-! ### What a raise leaves of the shed (R402, R408) -/

/-- The shed after raises: what tasks wait apart, it is as before. -/
def ShedKept (s t : State) : Prop := ∃ ex ev late, t.shed = { s.shed with exPend := ex, evPend := ev, lateEv := late }

theorem ShedKept.of_eq {s t : State} (h : t.shed = s.shed) : ShedKept s t := ⟨_, _, _, h⟩

theorem ShedKept.trans {s t u : State} (h : ShedKept s t) (k : ShedKept t u) : ShedKept s u := by
  obtain ⟨ex, ev, late, h⟩ := h
  obtain ⟨ex', ev', late', k⟩ := k
  exact ⟨ex', ev', late', by rw [k, h]⟩

theorem ShedKept.forEach {α : Type} {f : α → State → State} (hf : ∀ x u, ShedKept u (f x u)) (l : List α) (s : State) :
    ShedKept s (forEach l f s) := by
  induction l generalizing s with
  | nil => exact .of_eq rfl
  | cons x l ih => exact (hf x s).trans (ih _)

theorem ShedKept.foldl {α : Type} {f : State × List Nat → α → State × List Nat} (hf : ∀ p x, ShedKept p.1 (f p x).1)
    (l : List α) (p : State × List Nat) : ShedKept p.1 (l.foldl f p).1 := by
  induction l generalizing p with
  | nil => exact .of_eq rfl
  | cons x l ih => exact (hf p x).trans (ih _)

theorem expressRequest_shedKept (d : Nat) (g1 : Word) (p : State × List Nat) : ShedKept p.1 (expressRequest d g1 p).1 := by
  unfold expressRequest
  dsimp only
  split
  · exact .of_eq rfl
  · split
    · exact .of_eq rfl
    · exact ⟨_, _, _, setb_shed⟩

theorem taskRequest_shedKept (d : Nat) (p : State × List Nat) : ShedKept p.1 (taskRequest d p).1 := by
  unfold taskRequest
  dsimp only
  split
  · exact .of_eq rfl
  · exact ⟨_, _, _, rfl⟩

theorem raiseOne_shedKept (src : Nat) (s : State) : ShedKept s (raiseOne src s).1 := by
  unfold raiseOne
  split
  · exact .of_eq rfl
  · dsimp only
    refine .trans ?_ (ShedKept.foldl (fun p d => expressRequest_shedKept d _ p) _ _)
    refine .trans ?_ (ShedKept.foldl (fun p d => taskRequest_shedKept d p) _ (_, []))
    refine .trans ?_ (ShedKept.forEach (fun i u => .of_eq (when_of_eq (fun u : State => u.shed) setb_shed)) _ _)
    refine .trans ?_ (.of_eq setb_shed)
    exact ShedKept.trans (.of_eq rfl) (ShedKept.forEach (f := fun (w : Wire) => schedule w.at_ (.arrive w.dst))
      (fun w u => .of_eq rfl) _ _)

theorem raiseList_shedKept (k : Nat) (l : List Nat) (s : State) : ShedKept s (raiseList k l s) := by
  induction k generalizing l s with
  | zero => exact .of_eq rfl
  | succ k ih =>
    cases l with
    | nil => exact .of_eq rfl
    | cons x l => exact (raiseOne_shedKept x s).trans (ih _ _)

theorem raise_shedKept (src : Nat) (s : State) : ShedKept s (raise src s) := raiseList_shedKept 64 [src] s

@[simp] theorem raise_shed_len {src : Nat} {s : State} : (raise src s).shed.len = s.shed.len := by
  obtain ⟨_, _, _, h⟩ := raise_shedKept src s
  rw [h]

/-! ### The end check (R111, R115, R116) -/

theorem exec_sig (e : Fin 34) (imm : BitVec 18) (s : State) : exec (.sig e imm) s = execSig e imm s := rfl
theorem exec_endTask (e : Fin 34) (imm : BitVec 18) (s : State) : exec (.endTask e imm) s = execEndTask e imm s := rfl

/-- The task of the active context of an engine whose instruction issues (R124). -/
theorem Issues.task {e : Fin 34} {i : Instr} {s : State} (h : Issues e i s) : ∃ r, (ctx s e (active s e)).task = some r := by
  unfold Issues at h
  split at h
  · obtain ⟨-, hmay, -⟩ := h
    simp only [mayIssue, Bool.and_eq_true] at hmay
    exact Option.isSome_iff_exists.1 hmay.1.1.1.1.2
  · exact h.elim

/-- The end of a normal task leaves the engine outside its contexts. -/
theorem normalEndAt_pw {e fin : Nat} {s : State} : (shuSt (normalEndAt e fin s) e).pw = (shuSt s e).pw := by
  have hmod : ∀ (f : CtxSt → CtxSt) (u : State), (shuSt (modCtx e .normal f u) e).pw = (shuSt u e).pw := fun f u => by
    simp [modCtx]
  unfold normalEndAt
  split
  · rfl
  · rw [shuSt_eq_of_shu (when_of_eq (fun u : State => u.shu) raise_shu),
      shuSt_eq_of_shu (when_of_eq (fun u : State => u.shu) (by simp [setEsts])),
      shuSt_eq_of_shu (s := modCtx e .normal _ _) modEng_shu, hmod]
    unfold payRun
    split
    · rfl
    · rw [hmod]
      rfl

/-- The end of an express run is at hand 4 lc later (R63). -/
theorem expressEndAt_back {e fin : Nat} {r : Run} {s : State} (htask : (ctx s e .express).task = some r) :
    (shuSt (expressEndAt e fin s) e).back = some (fin + 4) := by
  have htask' : (shuSt s e).exp.task = some r := htask
  simp only [expressEndAt, htask', expressSoon]
  rw [shuSt_eq_of_shu schedule_shu, shuSt_modShu_same]

/-- END of a task whose check passes. -/
theorem exec_endTask_passes {e : Fin 34} {imm : BitVec 18} {s : State} (h : Issues e (.endTask e imm) s)
    (hsig : (ctx s e (active s e)).sig = imm) (herr : (ctx s e (active s e)).err = false) :
    exec (.endTask e imm) s = .next (settle (endPass e (active s e)
      (retire e (active s e) 1 (expressSnap e (active s e) s)))) := by
  rw [exec_endTask, execEndTask, issue_issues rfl h]
  simp only [(expressSnap_frame e (active s e) s).ctxs, hsig, herr, Bool.not_false, and_self, if_true]

/-- END of a task whose check fails. -/
theorem exec_endTask_fails {e : Fin 34} {imm : BitVec 18} {s : State} (h : Issues e (.endTask e imm) s)
    (hfail : (ctx s e (active s e)).sig ≠ imm ∨ (ctx s e (active s e)).err = true) :
    exec (.endTask e imm) s = .next (settle (endFail e (active s e) ((ctx s e (active s e)).sig == imm)
      (retire e (active s e) 1 (expressSnap e (active s e) s)))) := by
  have hcond : ¬((ctx s e (active s e)).sig = imm ∧ (!(ctx s e (active s e)).err) = true) := by
    rintro ⟨hsig, herr⟩
    exact hfail.elim (fun hne => hne hsig) fun ht => by simp [ht] at herr
  rw [exec_endTask, execEndTask, issue_issues rfl h]
  simp only [(expressSnap_frame e (active s e) s).ctxs, hcond, if_false]

/-- A normal task that passes its end check. -/
theorem endPass_normal {e : Fin 34} {r : Run} {s : State} (htask : (ctx s e .normal).task = some r)
    (hloads : (ctx s e .normal).loads = []) :
    let t := endPass e .normal s
    (ctx t e .normal).task = none ∧ rget t (Reg.shuWsigLast e) = runW s e ∧ (shuSt t e).pw = (shuSt s e).pw ^^^ runW s e ∧
      t.mem = s.mem := by
  intro t
  let w := addSig e (rset (Reg.shuWsigLast e) (runW s e) s)
  have ht : t = normalEnd e w := by simp only [t, endPass, hloads]; rfl
  have hctx : ctx w e .normal = ctx s e .normal := by
    simp only [w, addSig]
    rw [ctx_modShu (by intro; rfl) (by intro; rfl)]
    rfl
  obtain ⟨hregs, hmem, -, hnone, -⟩ := normalEndAt_frame (fin := w.time + 1) (s := w) (by rw [hctx]; exact htask)
  refine ⟨by rw [ht]; exact hnone, ?_, ?_, by rw [ht]; exact hmem⟩
  · have hreg : rget t (Reg.shuWsigLast e) = rget w (Reg.shuWsigLast e) := by
      rw [ht]
      exact hregs _ (shu_not_raiseReg (by unfold Reg.shuWsigLast; omega) (by unfold Reg.shuWsigLast; omega))
        (by unfold Reg.shuWsigLast Reg.engEsts; omega)
    rw [hreg]
    exact rget_rset_same
  · rw [ht, normalEnd, normalEndAt_pw]
    simp only [w, addSig, shuSt_modShu_same]
    rfl

/-- A normal run whose end check fails, before it is decided whether it runs again: FSTS, the count and source 4066. -/
def endFailed (e : Nat) (sigOk : Bool) (s : State) : State :=
  modShu e (fun u => { u with failed := true }) (modCtx e .normal (fun c => { c with loads := [] })
    (raise 4066 (when_ (!sigOk) (setb (Reg.shuFsts e) 6 true) (count (Reg.shuEndfailCnt e) (setb (Reg.shuFsts e) 1 true s)))))

/-- The end check of a normal run without cards fails: it runs again where its budget fits, and ends otherwise. -/
theorem endFail_normal_eq {e : Nat} {sigOk : Bool} {r : Run} {s : State} (htask : (ctx s e .normal).task = some r)
    (hcards : (ctx s e .normal).cards = []) :
    endFail e .normal sigOk s =
      if (!r.rerun && decide (r.budget ≠ 0 ∧ r.budget + 2 ≤ capacityLeft e r (endFailed e sigOk s))) = true then
        reexecute e r (endFailed e sigOk s)
      else normalEnd e (addSig e (when_ r.rerun (fun u => askCheck e (raise 4067 (setb (Reg.shuFsts e) 3 true u)))
        (endFailed e sigOk s))) := by
  simp only [endFail, htask, hcards]
  rfl

/-- The capacity left depends on the engine's account, its runs' times and the pick length. -/
theorem capacityLeft_congr {e : Nat} {r r' : Run} {s t : State} (hlen : t.shed.len = s.shed.len) (heng : engSt t e = engSt s e)
    (htime : t.time = s.time) (hexp : (shuSt t e).exp.task = (shuSt s e).exp.task) (hstart : r'.start = r.start)
    (hlost : r'.lost = r.lost) (hpaid : r'.paid = r.paid) : capacityLeft e r' t = capacityLeft e r s := by
  simp only [capacityLeft, runTime, hlen, heng, htime, hexp, hstart, hlost, hpaid]

theorem shuExp_modCtx_normal {e : Nat} {f : CtxSt → CtxSt} {s : State} : (shuSt (modCtx e .normal f s) e).exp = (shuSt s e).exp := by
  simp [modCtx]

section
variable (e : Fin 34) (sigOk : Bool) (s : State)

/-- What the failed check leaves of the engine's state and account. -/
theorem endFailed_state : let t := endFailed e sigOk s
    t.shed.len = s.shed.len ∧ t.eng = s.eng ∧ t.time = s.time ∧ t.mem = s.mem ∧ (shuSt t e).exp = (shuSt s e).exp ∧
    ctx t e .normal = { ctx s e .normal with loads := [] } := by
  intro t
  have hw : ∀ {α : Type} (field : State → α) (u : State), field (setb (Reg.shuFsts e) 6 true u) = field u →
      field (when_ (!sigOk) (setb (Reg.shuFsts e) 6 true) u) = field u := fun field u h => when_of_eq field h
  have hshu : (raise 4066 (when_ (!sigOk) (setb (Reg.shuFsts e) 6 true) (count (Reg.shuEndfailCnt e)
      (setb (Reg.shuFsts e) 1 true s)))).shu = s.shu := by
    rw [raise_shu, hw (fun u => u.shu) _ setb_shu]
    simp
  refine ⟨?_, ?_, ?_, ?_, ?_, ?_⟩
  · simp only [t, endFailed, modShu_shed, modCtx_shed, raise_shed_len]
    rw [hw (fun u => u.shed.len) _ (by rw [setb_shed])]
    simp
  · simp only [t, endFailed, modShu_eng, modCtx_eng, raise_eng]
    rw [hw (fun u => u.eng) _ setb_eng]
    simp
  · simp only [t, endFailed, modShu_time, modCtx_time, raise_time]
    rw [hw (fun u => u.time) _ setb_time]
    simp
  · simp only [t, endFailed, modShu_mem, modCtx_mem, raise_mem]
    rw [hw (fun u => u.mem) _ setb_mem]
    simp
  · simp only [t, endFailed, shuSt_modShu_same, shuExp_modCtx_normal]
    rw [shuSt_eq_of_shu hshu]
  · simp only [t, endFailed]
    rw [ctx_modShu (by intro; rfl) (by intro; rfl), ctx_modCtx_same, ctx_eq_of_shu hshu]

/-- What the failed check leaves in the registers of the engine. -/
theorem endFailed_regs : let t := endFailed e sigOk s
    rget t (Reg.shuFsts e) = (if sigOk then setBit (rget s (Reg.shuFsts e)) 1 true
      else setBit (setBit (rget s (Reg.shuFsts e)) 1 true) 6 true) ∧
    rget t (Reg.shuEndfailCnt e) = satInc (rget s (Reg.shuEndfailCnt e)) ∧
    rget t (Reg.shuReexecCnt e) = rget s (Reg.shuReexecCnt e) := by
  intro t
  have hfsts : Reg.shuFsts e = 0x191020 + 0x100 * e.val := rfl
  have hfail : Reg.shuEndfailCnt e = 0x191030 + 0x100 * e.val := rfl
  have hrex : Reg.shuReexecCnt e = 0x19102C + 0x100 * e.val := rfl
  have hraise : ∀ a, 0x191000 ≤ a → a < 0x1A0000 → rget t a =
      rget (when_ (!sigOk) (setb (Reg.shuFsts e) 6 true) (count (Reg.shuEndfailCnt e) (setb (Reg.shuFsts e) 1 true s))) a :=
    fun a hlow hhigh => raise_rget (shu_not_raiseReg hlow hhigh)
  refine ⟨?_, ?_, ?_⟩
  · rw [hraise _ (by omega) (by omega)]
    cases sigOk with
    | false =>
      simp only [when_, Bool.not_false, if_true, rget_setb_same, Bool.false_eq_true, if_false]
      rw [rget_count_other (by omega), rget_setb_same]
    | true =>
      simp only [when_, Bool.not_true, Bool.false_eq_true, if_false, if_true]
      rw [rget_count_other (by omega), rget_setb_same]
  · rw [hraise _ (by omega) (by omega),
      when_of_eq (fun u => rget u (Reg.shuEndfailCnt e)) (rget_setb_other (by omega)), rget_count_same,
      rget_setb_other (by omega)]
  · rw [hraise _ (by omega) (by omega),
      when_of_eq (fun u => rget u (Reg.shuReexecCnt e)) (rget_setb_other (by omega)), rget_count_other (by omega),
      rget_setb_other (by omega)]

end

/-- A run that is executed again (R116). -/
theorem reexecute_regs (e : Fin 34) (r : Run) (s : State) : let t := reexecute e r s
    rget t (Reg.shuReexecCnt e) = satInc (rget s (Reg.shuReexecCnt e)) ∧
    rget t (Reg.shuFsts e) = setBit (rget s (Reg.shuFsts e)) 2 true ∧
    rget t (Reg.shuEndfailCnt e) = rget s (Reg.shuEndfailCnt e) := by
  intro t
  have hfsts : Reg.shuFsts e = 0x191020 + 0x100 * e.val := rfl
  have hfail : Reg.shuEndfailCnt e = 0x191030 + 0x100 * e.val := rfl
  have hrex : Reg.shuReexecCnt e = 0x19102C + 0x100 * e.val := rfl
  have ht : ∀ a, rget t a = rget (count (Reg.shuReexecCnt e) (setb (Reg.shuFsts e) 2 true s)) a := fun a => rfl
  refine ⟨?_, ?_, ?_⟩
  · rw [ht, rget_count_same, rget_setb_other (by omega)]
  · rw [ht, rget_count_other (by omega), rget_setb_same]
  · rw [ht, rget_count_other (by omega), rget_setb_other (by omega)]

theorem askCheck_regs (e : Nat) (s : State) : (askCheck e s).regs = s.regs := by
  unfold askCheck
  split <;> rfl

theorem askCheck_shu (e : Nat) (s : State) : (askCheck e s).shu = s.shu := by
  unfold askCheck
  split <;> rfl

/-- A run that failed its check and is not executed again ends, and its second failure is noted (R116). -/
theorem endUnrepeated_regs {e : Fin 34} {rerun : Bool} {r : Run} {s : State} (htask : (ctx s e .normal).task = some r) :
    let t := normalEnd e (addSig e (when_ rerun (fun u => askCheck e (raise 4067 (setb (Reg.shuFsts e) 3 true u))) s))
    rget t (Reg.shuFsts e) = (if rerun then setBit (rget s (Reg.shuFsts e)) 3 true else rget s (Reg.shuFsts e)) ∧
    rget t (Reg.shuEndfailCnt e) = rget s (Reg.shuEndfailCnt e) ∧ (ctx t e .normal).task = none := by
  intro t
  let noted := when_ rerun (fun u => askCheck e (raise 4067 (setb (Reg.shuFsts e) 3 true u))) s
  have hnoted : noted.shu = s.shu := when_of_eq (fun u : State => u.shu) (by rw [askCheck_shu, raise_shu, setb_shu])
  have hctx : ctx (addSig e noted) e .normal = ctx s e .normal := by
    simp only [addSig]
    rw [ctx_modShu (by intro; rfl) (by intro; rfl), ctx_eq_of_shu hnoted]
  obtain ⟨hregs, -, -, hnone, -⟩ := normalEndAt_frame (fin := (addSig e noted).time + 1) (by rw [hctx]; exact htask)
  have hfsts : Reg.shuFsts e = 0x191020 + 0x100 * e.val := rfl
  have hfail : Reg.shuEndfailCnt e = 0x191030 + 0x100 * e.val := rfl
  have hests : Reg.engEsts e = 0x190400 + 0x20 * e.val := rfl
  have ht : ∀ a, 0x191000 ≤ a → a < 0x1A0000 → rget t a = rget noted a := fun a hlow hhigh =>
    hregs a (shu_not_raiseReg hlow hhigh) (by omega)
  have hask : ∀ a, 0x191000 ≤ a → a < 0x1A0000 →
      rget (askCheck e (raise 4067 (setb (Reg.shuFsts e) 3 true s))) a = rget (setb (Reg.shuFsts e) 3 true s) a :=
    fun a hlow hhigh => by rw [rget, askCheck_regs]; exact raise_rget (shu_not_raiseReg hlow hhigh)
  refine ⟨?_, ?_, hnone⟩
  · rw [ht _ (by omega) (by omega)]
    cases rerun with
    | false => rfl
    | true => exact (hask _ (by omega) (by omega)).trans rget_setb_same
  · rw [ht _ (by omega) (by omega)]
    exact when_of_eq (fun u => rget u (Reg.shuEndfailCnt e))
      ((hask _ (by omega) (by omega)).trans (rget_setb_other (by omega)))

/-- The failed end check of a normal run without cards. -/
theorem endFail_normal {e : Fin 34} {sigOk : Bool} {r : Run} {s : State} (htask : (ctx s e .normal).task = some r)
    (hcards : (ctx s e .normal).cards = []) :
    let t := endFail e .normal sigOk s
    rb t (Reg.shuFsts e) 1 = true ∧ rget t (Reg.shuEndfailCnt e) = satInc (rget s (Reg.shuEndfailCnt e)) ∧
    (sigOk = false → rb t (Reg.shuFsts e) 6 = true) ∧
    if r.rerun = false ∧ r.budget ≠ 0 ∧ r.budget + 2 ≤ capacityLeft e r s then
      rget t (Reg.shuReexecCnt e) = satInc (rget s (Reg.shuReexecCnt e)) ∧ rb t (Reg.shuFsts e) 2 = true ∧
      (ctx t e .normal).task.map (fun q => (q.desc, q.rerun)) = some (r.desc, true)
    else (ctx t e .normal).task = none ∧ (r.rerun = true → rb t (Reg.shuFsts e) 3 = true) := by
  intro t
  obtain ⟨hlen, heng, htime, -, hexp, hctx⟩ := endFailed_state e sigOk s
  obtain ⟨hfsts, hfail, hrex⟩ := endFailed_regs e sigOk s
  have hcap : capacityLeft e r (endFailed e sigOk s) = capacityLeft e r s :=
    capacityLeft_congr hlen (by rw [engSt, heng, engSt]) htime (by rw [hexp]) rfl rfl rfl
  have ht : t = _ := endFail_normal_eq htask hcards
  rw [hcap] at ht
  by_cases hagain : r.rerun = false ∧ r.budget ≠ 0 ∧ r.budget + 2 ≤ capacityLeft e r s
  · obtain ⟨hrerun, hbudget⟩ := hagain
    rw [if_pos (by simp [hrerun, hbudget])] at ht
    obtain ⟨hcount, hflags, hkept⟩ := reexecute_regs e r (endFailed e sigOk s)
    rw [if_pos ⟨hrerun, hbudget⟩, ht]
    refine ⟨?_, by rw [hkept, hfail], fun hsig => ?_, by rw [hcount, hrex], ?_, by rw [reexecute_normal]; rfl⟩
    · rw [rb, hflags, hfsts]
      cases sigOk <;> simp [bit_setBit]
    · rw [rb, hflags, hfsts, hsig]
      simp [bit_setBit]
    · rw [rb, hflags, bit_setBit (by decide), if_pos rfl]
  · rw [if_neg (by simpa using hagain)] at ht
    obtain ⟨hflags, hkept, hnone⟩ := endUnrepeated_regs (e := e) (rerun := r.rerun) (s := endFailed e sigOk s)
      (by rw [hctx]; exact htask)
    rw [if_neg hagain, ht]
    refine ⟨?_, by rw [hkept, hfail], fun hsig => ?_, hnone, fun hrerun => ?_⟩
    · rw [rb, hflags, hfsts]
      cases sigOk <;> cases r.rerun <;> simp [bit_setBit]
    · rw [rb, hflags, hfsts, hsig]
      cases r.rerun <;> simp [bit_setBit]
    · rw [rb, hflags, if_pos hrerun, bit_setBit (by decide), if_pos rfl]

/-- Settles O36: SIG, and the two outcomes of the end check. -/
theorem shuttleEndCheck : Obligations.ShuttleEndCheck := by
  unfold Obligations.ShuttleEndCheck
  refine ⟨?sig, ?normal, ?express, ?fails⟩
  case sig =>
    intro e imm s h q
    have hsnap := expressSnap_frame e (active s e) s
    rw [exec_sig, execSig, issue_issues rfl h]
    generalize expressSnap e (active s e) s = t at hsnap
    have honly : ShuOnly s (retire e (active s e) 1 (modCtx e (active s e) (fun c => { c with sig := c.sig ^^^ imm }) t)) e :=
      retireTo_only (hsnap.only.ctx _)
    have hctx : ctx (retire e (active s e) 1 (modCtx e (active s e) (fun c => { c with sig := c.sig ^^^ imm }) t)) e (active s e) =
        { ctx s e (active s e) with
          sig := (ctx s e (active s e)).sig ^^^ imm, pc := (ctx s e (active s e)).pc + 1
          task := (ctx s e (active s e)).task.map fun r => { r with retired := r.retired + 1 } } := by
      simp only [retire, retireTo_ctx_same, ctx_modCtx_same, hsnap.ctxs]
    refine ⟨_, by rw [settle_quiet (honly.quiet q)], honly.1, by rw [hctx], by rw [hctx], by rw [hctx], fun r => ?_, by rw [hctx],
      honly.2⟩
    simp only [gr, gget, hctx]
  case normal =>
    intro e imm s h hx hsig herr hloads
    obtain ⟨r, htask⟩ := h.task
    have hexec := exec_endTask_passes h (by rw [hx]; exact hsig) (by rw [hx]; exact herr)
    rw [hx, show expressSnap e .normal s = s from rfl] at hexec
    rw [hx] at htask
    have hctx : ctx (retire e .normal 1 s) e .normal = { ctx s e .normal with
        pc := (ctx s e .normal).pc + 1, task := (ctx s e .normal).task.map fun r => { r with retired := r.retired + 1 } } :=
      retireTo_ctx_same
    obtain ⟨hnone, hlast, hpw, hmem⟩ := endPass_normal (s := retire e .normal 1 s) (by rw [hctx, htask]; rfl)
      (by rw [hctx]; exact hloads)
    have hw : runW (retire e .normal 1 s) e = runW s e := by
      have hnrm : (ctx (retire e .normal 1 s) e .normal).w = (ctx s e .normal).w := by rw [hctx]
      exact congrArg (· ^^^ (if s.flt.injW.contains e.val then 1#32 else 0#32)) hnrm
    have hpw0 : (shuSt (retire e .normal 1 s) e).pw = (shuSt s e).pw := by simp [retire, retireTo, modCtx]
    exact ⟨_, hexec, hnone, hlast.trans hw, by rw [hpw, hw, hpw0], hmem⟩
  case express =>
    intro e imm s h hx hsig herr
    obtain ⟨r, htask⟩ := h.task
    have hexec := exec_endTask_passes h (by rw [hx]; exact hsig) (by rw [hx]; exact herr)
    have hsnap := expressSnap_frame e .express s
    rw [hx] at hexec htask
    generalize expressSnap e .express s = t at hexec hsnap
    have htask' : (ctx (retire e .express 1 t) e .express).task = some { r with retired := r.retired + 1 } := by
      rw [retire, retireTo_ctx_same, hsnap.ctxs, htask]
      rfl
    obtain ⟨hregs, hmem, hnone, -⟩ := expressEndAt_frame (fin := (retire e .express 1 t).time + 1) htask'
    refine ⟨_, hexec, hnone, hmem.trans hsnap.mem, ?_, ?_⟩
    · exact (expressEndAt_back htask').trans (by rw [← hsnap.time]; rfl)
    · refine (hregs _ (shu_not_raiseReg ?_ ?_) ?_ ?_).trans (by rw [rget, retire_regs, hsnap.regs, rget])
      · unfold Reg.shuWsigLast; omega
      · unfold Reg.shuWsigLast; omega
      · unfold Reg.shuWsigLast Reg.engExpLat; omega
      · unfold Reg.shuWsigLast Reg.shuDbg; omega
  case fails =>
    intro e imm r s h hx htask hfail hcards
    have hexec := exec_endTask_fails h (by rw [hx]; exact hfail)
    rw [hx] at hexec
    have hctx : ctx (retire e .normal 1 s) e .normal = { ctx s e .normal with
        pc := (ctx s e .normal).pc + 1, task := (ctx s e .normal).task.map fun r => { r with retired := r.retired + 1 } } :=
      retireTo_ctx_same
    obtain ⟨hended, hcount, hsig, hagain⟩ := endFail_normal (sigOk := (ctx s e .normal).sig == imm)
      (s := retire e .normal 1 s) (r := { r with retired := r.retired + 1 }) (by rw [hctx, htask]; rfl)
      (by rw [hctx]; exact hcards)
    have hcap : capacityLeft e { r with retired := r.retired + 1 } (retire e .normal 1 s) = capacityLeft e r s :=
      capacityLeft_congr rfl rfl rfl (by simp [retire, retireTo, modCtx]) rfl rfl rfl
    rw [hcap] at hagain
    exact ⟨_, hexec, hended, hcount, fun hne => hsig (by simpa using hne), hagain⟩

/-! ### Debug stops (R124 to R126) -/

/-- HALTED becomes 1; no general register and no memory changes. -/
theorem haltedOp_frame {e : Fin 34} {s : State} : let t := haltedOp e s
    rget t (Reg.shuDbg e) = setBit (rget s (Reg.shuDbg e)) 8 true ∧ t.mem = s.mem ∧ ∀ y, ctx t e y = ctx s e y := by
  intro t
  have hother : Reg.shuDbg e ≠ Reg.engEsts e := by
    unfold Reg.shuDbg Reg.engEsts
    omega
  refine ⟨?_, ?_, fun y => ?_⟩
  · refine (when_of_eq (fun u => rget u (Reg.shuDbg e)) (rget_setf_other hother)).trans ?_
    rw [rget_setb_same]
    rfl
  · refine (when_of_eq (fun u : State => u.mem) (by simp [setEsts])).trans ?_
    rw [setb_mem]
    rfl
  · have hshu : t.shu = _ := when_of_eq (fun u : State => u.shu) (by simp [setEsts])
    rw [ctx_eq_of_shu hshu, ctx_eq_of_shu setb_shu, ctx_modShu (by intro; rfl) (by intro; rfl)]

theorem exec_halted (e : Fin 34) (s : State) : exec (.halted e) s = execHalted e s := rfl
theorem exec_breakpointHit (e : Fin 34) (s : State) : exec (.breakpointHit e) s = execBreakpointHit e s := rfl

/-- A breakpoint has one of the numbers 0 to 3. -/
theorem breakpoint_lt {s : State} {e i : Nat} (h : breakpoint s e = some i) : i < 4 := by
  unfold breakpoint at h
  have hmem : i ∈ upto 0 4 := List.mem_of_find?_eq_some h
  simp only [upto, List.mem_cons, List.not_mem_nil, or_false] at hmem
  omega

/-- The stop at breakpoint `i`, before the engine halts. -/
def breakNoted (e i : Nat) (s : State) : State :=
  modShu e (fun u => { u with brkStop := true })
    (setf (Reg.shuDbg e) 13 2 i (setb (Reg.shuDbg e) 12 true (setb (Reg.shuDbg e) 0 true s)))

theorem breakNoted_frame (e i : Nat) (s : State) : let t := breakNoted e i s
    rget t (Reg.shuDbg e) = setFld (setBit (setBit (rget s (Reg.shuDbg e)) 0 true) 12 true) 13 2 i ∧ t.mem = s.mem ∧
    slotsHeld (shuSt t e) = slotsHeld (shuSt s e) ∧ ∀ y, ctx t e y = ctx s e y := by
  intro t
  refine ⟨?_, by simp [t, breakNoted], ?_, fun y => ?_⟩
  · simp only [t, breakNoted, modShu_rget, rget_setf_same, rget_setb_same]
  · simp [t, breakNoted, slotsHeld]
  · simp only [t, breakNoted]
    rw [ctx_modShu (by intro; rfl) (by intro; rfl)]
    exact ctx_eq_of_shu (by simp) e y

/-- Settles O37: HALTED and BREAKPOINT_HIT in the cycle in which they may come. -/
theorem shuttleDebugStops : Obligations.ShuttleDebugStops := by
  unfold Obligations.ShuttleDebugStops
  refine ⟨?halted, ?breakpoint⟩
  case halted =>
    intro e s htime hrun hhalt hrunning hstep hslots
    obtain ⟨hdbg, hmem, hctx⟩ := haltedOp_frame (e := e) (s := s)
    refine ⟨haltedOp e s, ?_, ?_, hmem, fun x r => by simp only [gr, hctx]⟩
    · rw [exec_halted]
      exact atTime_now htime (by simp [hrun, hhalt, hrunning, hstep, hslots])
    · rw [rb, hdbg, bit_setBit (by decide), if_pos rfl]
  case breakpoint =>
    intro e i s htime hrun htask hback hstep hskip hhalt hlimit hnear hbrk
    have hat : atBreak s e = true := by
      have hnear' : (active s e == .normal && expressNear s e) = false := by
        cases hx : active s e with
        | normal => simp [hnear hx]
        | express => rfl
      simp [atBreak, hrun, htask, hback, hstep, hskip, hhalt, hlimit, hnear', hbrk]
    have hi : i < 2 ^ 2 := breakpoint_lt hbrk
    have hexec : exec (.breakpointHit e) s = .next (settle (when_ (decide (slotsHeld (shuSt (breakNoted e i s) e) = 0))
        (haltedOp e) (breakNoted e i s))) := by
      rw [exec_breakpointHit, execBreakpointHit, atTime_now (c := fun s' => atBreak s' e) htime hat, hbrk]
      rfl
    obtain ⟨hdbg, hmem, hslots, hctx⟩ := breakNoted_frame e i s
    obtain ⟨hdbg', hmem', hctx'⟩ := haltedOp_frame (e := e) (s := breakNoted e i s)
    rw [hslots] at hexec
    by_cases hfree : slotsHeld (shuSt s e) = 0
    · rw [show decide (slotsHeld (shuSt s e) = 0) = true from decide_eq_true hfree] at hexec
      refine ⟨haltedOp e (breakNoted e i s), hexec, ?_, ?_, ?_, fun _ => ?_, hmem'.trans hmem,
        fun x r => by simp only [gr, hctx', hctx]⟩
      · simp [rb, hdbg', hdbg, bit_setBit, bit_setFld]
      · simp [rb, hdbg', hdbg, bit_setBit, bit_setFld]
      · rw [rf, hdbg', hdbg, setBit, fld_setFld_other (by decide) (by decide), fld_setFld_same (by decide), Nat.mod_eq_of_lt hi]
      · rw [rb, hdbg', bit_setBit (by decide), if_pos rfl]
    · rw [show decide (slotsHeld (shuSt s e) = 0) = false from decide_eq_false hfree] at hexec
      refine ⟨breakNoted e i s, hexec, ?_, ?_, ?_, fun h0 => absurd h0 hfree, hmem, fun x r => by simp only [gr, hctx]⟩
      · simp [rb, hdbg, bit_setBit, bit_setFld]
      · simp [rb, hdbg, bit_setBit, bit_setFld]
      · rw [rf, hdbg, fld_setFld_same (by decide), Nat.mod_eq_of_lt hi]

end Sys2Proof.Machine
end

section
/-!
PROOFS. The effects of the shuttle engines (03_shuttle_engines.md R100 to R104, R107).
-/

namespace Sys2Proof.Machine

/-! ### The reed below an output (R180, R181) -/

/-- What the requests of a pair leave after an output changed: their sides, the narrow-rule flags and their count. -/
structure ReedFrame (k : Nat) (s t : State) : Prop where
  fields : t = { s with reed := t.reed, regs := t.regs, cyc := t.cyc }
  regs : ∀ a, a ≠ Reg.reedSts k → a ≠ Reg.reedSwlCnt k → rget t a = rget s a

theorem ReedFrame.refl (k : Nat) (s : State) : ReedFrame k s s := ⟨rfl, fun _ _ _ => rfl⟩

theorem ReedFrame.trans {k : Nat} {s t u : State} (h : ReedFrame k s t) (g : ReedFrame k t u) : ReedFrame k s u :=
  ⟨by rw [g.fields, h.fields], fun a h1 h2 => (g.regs a h1 h2).trans (h.regs a h1 h2)⟩

theorem modSide_frame {n k : Nat} (f : SideSt → SideSt) (s : State) : ReedFrame k s (modSide n f s) :=
  ⟨rfl, fun _ _ _ => rfl⟩

/-- A narrow event is flagged and counted. -/
theorem narrow_frame {k i : Nat} {s t : State} (h : ReedFrame k s t) :
    ReedFrame k s (count (Reg.reedSwlCnt k) (setb (Reg.reedSts k) i true t)) := by
  refine h.trans ⟨by simp [count, noteCount, modCyc, setb, rset, noteSet], fun a h1 h2 => ?_⟩
  rw [rget_count_other h2, rget_setb_other h1]

theorem stageEdge_frame (n : Nat) (t : Inst) (lv : Bool) (s : State) : ReedFrame (n / 2) s (stageEdge n t lv s) := by
  unfold stageEdge
  dsimp only
  split
  · split
    · exact .refl _ _
    · split
      · exact narrow_frame (modSide_frame _ _)
      · exact modSide_frame _ _
  · split
    · exact .refl _ _
    · exact modSide_frame _ _

theorem requestEdge_frame (n : Nat) (t : Inst) (lv : Bool) (s : State) : ReedFrame (n / 2) s (requestEdge n t lv s) := by
  unfold requestEdge
  split
  · exact .refl _ _
  · refine (modSide_frame (n := n) (fun d => { d with req := lv }) s).trans ?_
    dsimp only
    split
    · exact modSide_frame _ _
    · split
      · split
        · exact stageEdge_frame _ _ _ _
        · exact modSide_frame _ _
      · split
        · exact narrow_frame (modSide_frame _ _)
        · exact stageEdge_frame _ _ _ _

theorem refreshPair_frame (k : Nat) (t : Inst) (s : State) : ReedFrame k s (refreshPair k t s) := by
  have heven : 2 * k / 2 = k := by omega
  have hodd : (2 * k + 1) / 2 = k := by omega
  have h0 : ∀ u, ReedFrame k u (requestEdge (2 * k) t (requestOf u (2 * k)) u) := fun u => by
    simpa only [heven] using requestEdge_frame (2 * k) t (requestOf u (2 * k)) u
  have h1 : ∀ u, ReedFrame k u (requestEdge (2 * k + 1) t (requestOf u (2 * k + 1)) u) := fun u => by
    simpa only [hodd] using requestEdge_frame (2 * k + 1) t (requestOf u (2 * k + 1)) u
  unfold refreshPair
  dsimp only
  refine ReedFrame.trans (t := if chOwned s (2 * k) then requestEdge (2 * k) t (requestOf s (2 * k)) s else s) ?_ ?_
  · split
    · exact h0 s
    · exact .refl _ _
  · generalize (if chOwned s (2 * k) then requestEdge (2 * k) t (requestOf s (2 * k)) s else s) = u
    split
    · exact h1 _
    · exact .refl _ _

theorem chSts_ne_reed {n k : Nat} : Reg.chSts n ≠ Reg.reedSts k ∧ Reg.chSts n ≠ Reg.reedSwlCnt k := by
  unfold Reg.chSts Reg.reedSts Reg.reedSwlCnt
  omega

/-- What the output of a channel leaves: the channels' records, memory and engines stay, and no register changes but its STS and
those of its reed. -/
theorem setOut_frame {n : Nat} {lv : Bool} {t : Inst} {s : State} : let u := setOut n lv t s
    rget u (Reg.chSts n) = setBit (rget s (Reg.chSts n)) 17 lv ∧ u.ch = s.ch ∧ u.mem = s.mem ∧ u.shu = s.shu ∧
    u.chain = s.chain ∧ u.store = s.store ∧ u.time = s.time ∧
    (∀ a, a ≠ Reg.chSts n → a ≠ Reg.reedSts (n / 2) → a ≠ Reg.reedSwlCnt (n / 2) → rget u a = rget s a) := by
  intro u
  by_cases hsame : chOut s n = lv
  · have hu : u = s := if_pos hsame
    have hbit : setBit (rget s (Reg.chSts n)) 17 lv = rget s (Reg.chSts n) := by
      apply BitVec.eq_of_getLsbD_eq
      intro i hi
      have hset := bit_setBit (w := rget s (Reg.chSts n)) (i := 17) (j := i) (b := lv) hi
      by_cases h17 : i = 17
      · rw [if_pos h17] at hset
        rw [h17]
        rw [h17] at hset
        exact hset.trans hsame.symm
      · rw [if_neg h17] at hset
        exact hset
    rw [hu, hbit]
    exact ⟨rfl, rfl, rfl, rfl, rfl, rfl, rfl, fun _ _ _ _ => rfl⟩
  · have hframe := refreshPair_frame (n / 2) t (setb (Reg.chSts n) 17 lv s)
    obtain ⟨hsts, hswl⟩ := chSts_ne_reed (n := n) (k := n / 2)
    have hu : u = if (lv && decide (9 ≤ chMode (refreshPair (n / 2) t (setb (Reg.chSts n) 17 lv s)) n)) = true then
        periodStart n (refreshPair (n / 2) t (setb (Reg.chSts n) 17 lv s))
      else refreshPair (n / 2) t (setb (Reg.chSts n) 17 lv s) := if_neg hsame
    have hperiod : ∀ {α : Type} (field : State → α), (∀ v : State, field (periodStart n v) = field v) →
        field u = field (refreshPair (n / 2) t (setb (Reg.chSts n) 17 lv s)) := fun field h => by
      rw [hu]
      split
      · exact h _
      · rfl
    refine ⟨?_, ?_, ?_, ?_, ?_, ?_, ?_, fun a ha h1 h2 => ?_⟩
    · rw [hperiod (fun v => rget v (Reg.chSts n)) fun _ => rfl, hframe.regs _ hsts hswl, rget_setb_same]
    · rw [hperiod (fun v => v.ch) fun _ => rfl, hframe.fields]; simp
    · rw [hperiod (fun v => v.mem) fun _ => rfl, hframe.fields]; simp
    · rw [hperiod (fun v => v.shu) fun _ => rfl, hframe.fields]; simp
    · rw [hperiod (fun v => v.chain) fun _ => rfl, hframe.fields]; simp
    · rw [hperiod (fun v => v.store) fun _ => rfl, hframe.fields]; simp
    · rw [hperiod (fun v => v.time) fun _ => rfl, hframe.fields]; simp
    · rw [hperiod (fun v => rget v a) fun _ => rfl, hframe.regs _ h1 h2, rget_setb_other ha]

/-! ### Effects in flight (R101, R104, R107) -/

/-- With no edge first among the effects, none arrives. -/
theorem drainEdges_noEdge {k e : Nat} {s : State} (h : noEdgeFirst s e = true) : drainEdges k e s = s := by
  cases k with
  | zero => rfl
  | succ k =>
    unfold noEdgeFirst at h
    unfold drainEdges
    split
    · next heff => simp [heff] at h
    · rfl

/-- An effect behind earlier ones leaves the first as it is. -/
theorem noEdgeFirst_push {e : Nat} {f : Nat × Effect} {s t : State} (heff : (shuSt t e).eff = (shuSt s e).eff ++ [f])
    (h : noEdgeFirst s e = true) (hf : (shuSt s e).eff = [] → ∀ n act i late, f.2 ≠ .edge n act i late) :
    noEdgeFirst t e = true := by
  unfold noEdgeFirst at h ⊢
  rw [heff]
  cases hl : (shuSt s e).eff with
  | nil =>
    obtain ⟨c, x⟩ := f
    cases x with
    | edge n act i late => exact absurd rfl (hf hl n act i late)
    | chw => rfl
    | evr => rfl
  | cons g rest =>
    obtain ⟨c, x⟩ := g
    rw [hl] at h
    cases x with
    | edge n act i late => cases h
    | chw => rfl
    | evr => rfl

/-- An effect sent toward its target behind the engine's earlier ones. -/
def queued (e : Nat) (f : Effect) (s : State) : State :=
  schedule (s.time + f.bound) (.effDue e) (modShu e (fun u => { u with eff := u.eff ++ [(s.time, f)] }) s)

theorem pushEffect_eq (e : Nat) (f : Effect) (s : State) : pushEffect e f s = drainEdges 64 e (queued e f s) := rfl

theorem queued_eff {e : Nat} {f : Effect} {s : State} : (shuSt (queued e f s) e).eff = (shuSt s e).eff ++ [(s.time, f)] := by
  rw [queued, shuSt_eq_of_shu schedule_shu, shuSt_modShu_same]

theorem pushEffect_queued {e : Nat} {f : Effect} {s : State} (h : noEdgeFirst s e = true)
    (hf : (shuSt s e).eff = [] → ∀ n act i late, f ≠ .edge n act i late) : pushEffect e f s = queued e f s := by
  rw [pushEffect_eq, drainEdges_noEdge (noEdgeFirst_push queued_eff h hf)]

/-- The queue of effects without edges first depends on the effects alone. -/
theorem SnapFrame.noEdgeFirst {e : Nat} {s t : State} (h : SnapFrame e s t) : noEdgeFirst t e = noEdgeFirst s e := by
  simp only [Machine.noEdgeFirst, h.eff]

/-- What an instruction that issues with an effect leaves outside its engine. -/
structure EffectLeft (e : Nat) (ws : List Word) (s t : State) : Prop where
  outside : t = { s with shu := t.shu, timed := t.timed }
  frame : EffectFrame e ws s t

theorem EffectLeft.quiet {e : Nat} {ws : List Word} {s t : State} (h : EffectLeft e ws s t) (q : Quiet s) : Quiet t := by
  rw [h.outside]; exact q

/-- A state with the snapshot, and effects queued in it. -/
structure EffectState (e : Nat) (s u : State) : Prop where
  outside : u = { s with shu := u.shu, timed := u.timed }
  engines : ∀ k, k ≠ e → shuSt u k = shuSt s k
  contexts : ∀ y, ctx u e y = ctx s e y

theorem effectState_queued {e : Nat} {f : Effect} {s t : State} (h : SnapFrame e s t) : EffectState e s (queued e f t) := by
  refine ⟨?_, fun k hk => ?_, fun y => ?_⟩
  · rw [queued, h.only.1]; rfl
  · rw [queued, shuSt_eq_of_shu schedule_shu, shuSt_modShu_other _ _ hk]
    exact h.only.2 k hk
  · rw [queued, ctx_eq_of_shu schedule_shu, ctx_modShu (by intro; rfl) (by intro; rfl), h.ctxs]

/-- An effect that feeds W and retires. -/
theorem effectLeft_retire {e : Nat} {ws : List Word} {s u : State} (h : EffectState e s u) :
    EffectLeft e ws s (retire e (active s e) 1 (feedW e (active s e) ws u)) :=
  ⟨by rw [h.outside]; rfl, effectFrame_retire h.engines h.contexts⟩

theorem retire_feedW_timed {e occ : Nat} {x : Ctx} {ws : List Word} {u : State} :
    (retire e x occ (feedW e x ws u)).timed = u.timed := rfl

theorem retire_feedW_eff {e occ : Nat} {x : Ctx} {ws : List Word} {u : State} :
    (shuSt (retire e x occ (feedW e x ws u)) e).eff = (shuSt u e).eff := by simp [retire, feedW]

/-- What EVR does. -/
def evrBody (e a : Nat) (imm : BitVec 14) (x : Ctx) (s : State) : State :=
  let src := 3008 + effAddr s e x a imm % 1024
  retire e x 1 (feedW e x [wd (0xC1000000 + src)] (pushEffect e (.evr src) s))

/-- What CHW does. -/
def chwBody (e a b : Nat) (imm : BitVec 14) (x : Ctx) (s : State) : State :=
  let sel := imm.toNat % 32
  let n := chanOf (gr s e x a) imm
  let v := gr s e x b
  if selReserved sel then taskFault e 2 0 s
  else retire e x 1 (feedW e x [wd (0x40000000 + 256 * n + sel), v] (chwIssue e x n sel v s))

/-- The edge that EDGE asks for: its channel, action, instant and whether it comes late. -/
def edgeEffect (e a b : Nat) (imm : BitVec 14) (x : Ctx) (s : State) : Effect :=
  let snap := match x with | .normal => s.shed.snap | .express => (shuSt s e).snap
  let first := 32 * (s.time + 24)
  let want := 32 * snap.time + (gr s e x b).toNat
  let early := imm.getLsbD 2 || decide (want < first)
  .edge (fld (gr s e x a) 0 9) (imm.toNat % 4) (instOf (if early then first else want)) (early && !imm.getLsbD 2)

/-- What EDGE does. -/
def edgeBody (e a b : Nat) (imm : BitVec 14) (x : Ctx) (s : State) : State :=
  if imm.toNat % 4 = 3 then taskFault e 2 0 s
  else retire e x 1 (feedW e x [wd (0x80000000 + 256 * fld (gr s e x a) 0 9 + imm.toNat % 256), gr s e x b]
    (pushEffect e (edgeEffect e a b imm x s) s))

theorem exec_evr_issue (e : Fin 34) (a : Fin 16) (imm : BitVec 14) (s : State) :
    exec (.evr e a imm) s = issue e (.evr e a imm) [a] 0 0 false (evrBody e a imm) s := rfl
theorem exec_chw_issue (e : Fin 34) (a b : Fin 16) (imm : BitVec 14) (s : State) :
    exec (.chw e a b imm) s = issue e (.chw e a b imm) [a, b] 0 0 false (chwBody e a b imm) s := rfl
theorem exec_edge_issue (e : Fin 34) (a b : Fin 16) (imm : BitVec 14) (s : State) :
    exec (.edge e a b imm) s = issue e (.edge e a b imm) [a, b] 0 0 false (edgeBody e a b imm) s := rfl
theorem exec_softwareEvent (e : Fin 34) (s : State) : exec (.softwareEvent e) s = execSoftwareEvent e s := rfl
theorem exec_chwLand (e : Fin 34) (s : State) : exec (.chwLand e) s = execChwLand e s := rfl
theorem exec_shuttleEdgeOut (n : Fin 512) (s : State) : exec (.shuttleEdgeOut n) s = execShuttleEdgeOut n s := rfl

/-- An effect behind the engine's earlier ones, from an instruction that issues in a quiet state. -/
theorem effect_issues {e : Fin 34} {i : Instr} {uses : List Nat} {dsts need : Nat} {free : Bool} {body : Ctx → State → State}
    {f : Effect} {ws : List Word} {s : State} (hn : shuNeeds i = some (uses, need, free)) (h : Issues e i s) (q : Quiet s)
    (hnone : noEdgeFirst s e = true) (hf : (shuSt s e).eff = [] → ∀ n act t late, f ≠ .edge n act t late)
    (hbody : body (active s e) (expressSnap e (active s e) s) = retire e (active s e) 1
      (feedW e (active s e) ws (pushEffect e f (expressSnap e (active s e) s)))) :
    ∃ t, issue e i uses dsts need free body s = .next t ∧ EffectLeft e ws s t ∧
      (shuSt t e).eff = (shuSt s e).eff ++ [(s.time, f)] ∧ (s.time + f.bound, Timed.effDue e) ∈ t.timed := by
  have hsnap := expressSnap_frame e (active s e) s
  rw [issue_issues hn h, hbody, pushEffect_queued (hsnap.noEdgeFirst.trans hnone) (by rw [hsnap.eff]; exact hf)]
  have hleft := effectLeft_retire (ws := ws) (effectState_queued (f := f) hsnap)
  refine ⟨_, by rw [settle_quiet (hleft.quiet q)], hleft, ?_, ?_⟩
  · rw [retire_feedW_eff, queued_eff, hsnap.eff, hsnap.time]
  · rw [retire_feedW_timed, queued, hsnap.time]
    exact mem_schedule _ _ _

/-- A load command of a normal task is held (R102). -/
theorem chwIssue_held {e n sel : Nat} {x : Ctx} {v : Word} {s : State} (h : x = .normal ∧ 16 ≤ sel)
    (hroom : (ctx s e x).loads.length < 8) :
    chwIssue e x n sel v s = modCtx e x (fun c => { c with loads := c.loads ++ [(n, sel, v)] }) s := by
  rw [chwIssue, if_pos h, if_neg (Nat.not_le_of_lt hroom)]

/-- What an instruction that holds a load command leaves. -/
theorem held_retire {e : Nat} {l : Nat × Nat × Word} {ws : List Word} {s t : State} (h : SnapFrame e s t) :
    let u := retire e (active s e) 1 (feedW e (active s e) ws
      (modCtx e (active s e) (fun c => { c with loads := c.loads ++ [l] }) t))
    EffectLeft e ws s u ∧ (ctx u e (active s e)).loads = (ctx s e (active s e)).loads ++ [l] ∧
      (shuSt u e).eff = (shuSt s e).eff := by
  intro u
  have hctx : ctx u e (active s e) = { ctx s e (active s e) with
      loads := (ctx s e (active s e)).loads ++ [l], w := ws.foldl crcWord (ctx s e (active s e)).w
      pc := (ctx s e (active s e)).pc + 1
      task := (ctx s e (active s e)).task.map fun r => { r with retired := r.retired + 1 } } := by
    simp only [u, retire, feedW, retireTo_ctx_same, ctx_modCtx_same, h.ctxs]
  have honly : ShuOnly s u e := retireTo_only ((h.only.ctx _).ctx _)
  refine ⟨⟨by rw [honly.1], honly.2, fun y hy => ?_, by rw [hctx], fun r => by simp only [gr, gget, hctx], by rw [hctx],
    by rw [hctx], by rw [hctx]; exact ⟨rfl, rfl⟩⟩, by rw [hctx], ?_⟩
  · simp only [u, retire, feedW]
    rw [retireTo_ctx_other hy, ctx_modCtx_other hy, ctx_modCtx_other hy, h.ctxs]
  · simp [u, retire, feedW, h.eff]

/-! ### Edges (R103, R104) -/

/-- An edge arrives at an empty queue of a channel in SHUTTLE_OUT. -/
theorem edgeArrive_empty {e n act : Nat} {i : Inst} {s : State} (hmode : chMode s n = 10) (hempty : (chSt s n).edges = []) :
    edgeArrive e n act i false s = modCh n (fun x => { x with edges := x.edges ++ [⟨i, act, false⟩] }) s := by
  simp [edgeArrive, hmode, hempty, when_]

/-- The edge that an instruction issues with no earlier effect arrives at once. -/
theorem pushEffect_edge {e n act : Nat} {i : Inst} {s : State} (heff : (shuSt s e).eff = []) (hmode : chMode s n = 10)
    (hempty : (chSt s n).edges = []) :
    pushEffect e (.edge n act i false) s = modCh n (fun x => { x with edges := x.edges ++ [⟨i, act, false⟩] })
      (modShu e (fun u => { u with eff := [] }) (queued e (.edge n act i false) s)) := by
  have hq : (shuSt (queued e (.edge n act i false) s) e).eff = [(s.time, .edge n act i false)] := by rw [queued_eff, heff]; rfl
  have hmode' : chMode (modShu e (fun u => { u with eff := [] }) (queued e (.edge n act i false) s)) n = 10 := hmode
  have hempty' : (chSt (modShu e (fun u => { u with eff := [] }) (queued e (.edge n act i false) s)) n).edges = [] := hempty
  rw [pushEffect_eq, drainEdges, hq]
  simp only
  rw [edgeArrive_empty hmode' hempty']
  refine drainEdges_noEdge ?_
  simp [noEdgeFirst, shuSt_eq_of_shu modCh_shu]

/-- The first edge of a channel appears. -/
theorem edgeOutOp_frame {n : Nat} {y : PlacedEdge} {rest : List PlacedEdge} {s : State}
    (hedges : (chSt s n).edges = y :: rest) : let t := edgeOutOp n s
    (chSt t n).edges = rest ∧
    rb t (Reg.chSts n) 17 = (if y.act = 0 then true else if y.act = 1 then false else !rb s (Reg.chSts n) 17) := by
  intro t
  let lv := match y.act with | 0 => true | 1 => false | _ => !chOut s n
  have ht : t = setOut n lv (if skipped s y.t.lc then nowInst s else y.t) (modCh n (fun x => { x with edges := rest }) s) := by
    simp only [t, edgeOutOp, hedges]
    rfl
  obtain ⟨hsts, hch, -⟩ := setOut_frame (lv := lv) (t := if skipped s y.t.lc then nowInst s else y.t)
    (s := modCh n (fun x => { x with edges := rest }) s)
  rw [← ht] at hsts hch
  refine ⟨?_, ?_⟩
  · rw [chSt, hch]
    exact congrArg ChSt.edges modCh_chSt_same
  · rw [rb, hsts, bit_setBit (by decide), if_pos rfl]
    simp only [lv, chOut]
    split
    · next h => simp [h]
    · next h => simp [h]
    · next h0 h1 =>
      rw [if_neg h0, if_neg h1]

/-- Settles O33: each effect from its issue to its queue, then what the effects do when they arrive. -/
theorem shuttleEffects : Obligations.ShuttleEffects := by
  unfold Obligations.ShuttleEffects
  refine ⟨?evr, ?chw, ?edge, ?edgeNow, ?arrive, ?software, ?land, ?landOp, ?out⟩
  case evr =>
    intro e a imm s src h q hnone
    have hsnap := expressSnap_frame e (active s e) s
    rw [exec_evr_issue]
    obtain ⟨t, ht, hleft, heff, hdue⟩ := effect_issues (f := .evr src) (ws := [wd (0xC1000000 + src)]) (dsts := 0)
      (body := evrBody e a imm) (i := .evr e a imm) rfl h q hnone (by simp) (by rw [evrBody, hsnap.effAddr]; rfl)
    exact ⟨t, ht, hleft.outside, hleft.frame, heff, hdue⟩
  case chw =>
    intro e a b imm s sel n v h q hnone hsel hroom
    have hsnap := expressSnap_frame e (active s e) s
    have hchan : chanOf (gr s e (active s e) a) imm = n := by rw [chanOf, fld_zero] <;> rfl
    have hbody : chwBody e a b imm (active s e) (expressSnap e (active s e) s) = retire e (active s e) 1
        (feedW e (active s e) [wd (0x40000000 + 256 * n + sel), v]
          (chwIssue e (active s e) n sel v (expressSnap e (active s e) s))) := by
      rw [chwBody, if_neg (by rw [hsel]; decide), hsnap.gr, hsnap.gr, hchan]
    rw [exec_chw_issue]
    by_cases hheld : active s e = .normal ∧ 16 ≤ sel
    · obtain ⟨hx, h16⟩ := hheld
      obtain ⟨hleft, hloads, heff⟩ := held_retire (l := (n, sel, v)) (ws := [wd (0x40000000 + 256 * n + sel), v]) hsnap
      rw [issue_issues rfl h, hbody, chwIssue_held ⟨hx, h16⟩ (by rw [hsnap.ctxs, hx]; exact hroom hx h16),
        settle_quiet (hleft.quiet q)]
      refine ⟨_, rfl, hleft.outside, hleft.frame, ?_⟩
      rw [if_pos ⟨hx, h16⟩]
      rw [hx] at hloads
      exact ⟨hx ▸ hloads, hx ▸ heff⟩
    · obtain ⟨t, ht, hleft, heff, hdue⟩ := effect_issues (f := .chw n sel v) (ws := [wd (0x40000000 + 256 * n + sel), v])
        (i := .chw e a b imm) (dsts := 0) (body := chwBody e a b imm) rfl h q hnone (by simp)
        (by rw [hbody, chwIssue, if_neg hheld])
      exact ⟨t, ht, hleft.outside, hleft.frame, by rw [if_neg hheld]; exact ⟨heff, hdue⟩⟩
  case edge =>
    intro e a b imm s n want first early h q hact hbusy hnone
    have hsnap := expressSnap_frame e (active s e) s
    have heffect : edgeEffect e a b imm (active s e) (expressSnap e (active s e) s) =
        .edge n (imm.toNat % 4) (instOf (if early then first else want)) (early && !imm.getLsbD 2) := by
      simp only [edgeEffect, hsnap.gr, hsnap.time, hsnap.shed, fld_zero]
      rfl
    rw [exec_edge_issue]
    obtain ⟨t, ht, hleft, heff, -⟩ := effect_issues
      (f := .edge n (imm.toNat % 4) (instOf (if early then first else want)) (early && !imm.getLsbD 2))
      (ws := [wd (0x80000000 + 256 * n + imm.toNat % 256), gr s e (active s e) b])
      (i := .edge e a b imm) (dsts := 0) (body := edgeBody e a b imm) rfl h q hnone (fun hempty => absurd hempty hbusy)
      (by rw [edgeBody, if_neg hact, heffect, hsnap.gr, hsnap.gr, fld_zero] <;> rfl)
    exact ⟨t, ht, hleft.outside, hleft.frame, heff⟩
  case edgeNow =>
    intro e a b imm s n first h hact hnow heff hmode hempty q
    have hsnap := expressSnap_frame e (active s e) s
    rw [exec_edge_issue, issue_issues rfl h]
    generalize expressSnap e (active s e) s = u at hsnap
    have heffect : edgeEffect e a b imm (active s e) u = .edge n (imm.toNat % 4) (instOf first) false := by
      simp [edgeEffect, hsnap.gr, hsnap.time, fld_zero, hnow, n, first]
    have hchu : chSt u n = chSt s n := by rw [hsnap.only.1]; rfl
    have harrived := pushEffect_edge (e := e) (n := n) (act := imm.toNat % 4) (i := instOf first) (s := u)
      (by rw [hsnap.eff]; exact heff) (by rw [hsnap.only.1]; exact hmode) (by rw [hchu]; exact hempty)
    obtain ⟨w, hw⟩ : ∃ w, edgeBody e a b imm (active s e) u = retire e (active s e) 1 (feedW e (active s e) w
        (modCh n (fun x => { x with edges := x.edges ++ [⟨instOf first, imm.toNat % 4, false⟩] })
          (modShu e (fun v => { v with eff := [] }) (queued e (.edge n (imm.toNat % 4) (instOf first) false) u)))) :=
      ⟨_, by rw [edgeBody, if_neg hact, heffect, harrived]⟩
    rw [hw]
    refine ⟨_, by rw [settle_quiet (q.of_eq (by simp [queued, hsnap.flt]) (by simp [rget, queued, hsnap.regs]))], ?_, ?_, ?_,
      fun r => ?_⟩
    · have hch : ∀ v w, chSt (retire e (active s e) 1 (feedW e (active s e) w v)) n = chSt v n := fun _ _ => rfl
      have hunder : ∀ v, chSt (modShu e v (queued e (.edge n (imm.toNat % 4) (instOf first) false) u)) n = chSt u n :=
        fun _ => rfl
      rw [hch, modCh_chSt_same, hunder, hchu, hempty]
      rfl
    · rw [retire_feedW_eff, shuSt_eq_of_shu modCh_shu, shuSt_modShu_same]
    · simp [queued, hsnap.regs]
    · have hctx : ∀ y, ctx (modCh n (fun x => { x with edges := x.edges ++ [⟨instOf first, imm.toNat % 4, false⟩] })
          (modShu e (fun v => { v with eff := [] }) (queued e (.edge n (imm.toNat % 4) (instOf first) false) u))) e y =
          ctx s e y := fun y => by
        rw [ctx_eq_of_shu modCh_shu, ctx_modShu (by intro; rfl) (by intro; rfl), (effectState_queued hsnap).contexts]
      simp only [gr, gget, retire, feedW, retireTo_ctx_same, ctx_modCtx_same, hctx]
  case arrive =>
    intro e n act i late s
    refine ⟨fun hmode => ?_, fun hmode hfull => ?_, fun y hmode hroom hlast hearly => ?_⟩
    · simp [edgeArrive, hmode]
    · simp [edgeArrive, hmode, hfull]
    · simp [edgeArrive, hmode, Nat.not_le_of_lt hroom, hlast, hearly]
  case software =>
    intro e src c rest s heff htime
    have hhead : headEffect s e = some (c, .evr src) := by rw [headEffect, heff]; rfl
    have hland : landHead e s = drainEdges 64 e (raise src (modShu e (fun u => { u with eff := rest }) s)) := by
      simp only [landHead, heff]
      rfl
    refine ⟨_, ?_, rfl, fun hlast => ?_⟩
    · rw [exec_softwareEvent, execSoftwareEvent, atOpt_now (by rw [hhead]; rfl) htime (by simp [hhead, Effect.isEvr]), hland]
    · have hempty : (shuSt (raise src (modShu e (fun u => { u with eff := rest }) s)) e).eff = [] := by
        rw [shuSt_eq_of_shu raise_shu, shuSt_modShu_same, hlast]
      rw [drainEdges_noEdge (by simp [noEdgeFirst, hempty])]
      exact ⟨hempty, by simp, fun b hb => raise_rget hb⟩
  case land =>
    intro e n sel v c rest s u hhead htime hturn hturned
    have hhead' : headEffect u e = headEffect s e := by rw [hhead, headEffect, hturned]; rfl
    rw [exec_chwLand, execChwLand, atOpt_now (by rw [hhead]; rfl) (Nat.max_le.2 ⟨htime, hturn⟩) (by simp [hhead, Effect.isChw])]
    have hsame : (headEffect (takeTurn (shuRank e) s) e == headEffect s e) = true := by
      rw [show headEffect (takeTurn (shuRank e) s) e = headEffect s e from hhead']
      exact beq_self_eq_true _
    simp only [hsame, if_true]
    simp only [landHead]
    rw [show (shuSt (takeTurn (shuRank e) s) e).eff = _ from hturned]
    rfl
  case landOp =>
    intro e n v s
    refine ⟨fun hfree => ⟨?_, ?_⟩, rfl, rfl, rfl, fun sel hsel => ?_⟩
    · simp [chwLandOp, liveWrite, hfree]
    · simp [chwLandOp, liveWrite, hfree]
    · rcases hsel with rfl | rfl | rfl | rfl | rfl <;> rfl
  case out =>
    intro n y rest s hedges htime hrun hmode
    obtain ⟨hrest, hlevel⟩ := edgeOutOp_frame hedges
    refine ⟨_, ?_, hrest, hlevel⟩
    rw [exec_shuttleEdgeOut]
    exact atOpt_now (by rw [hedges]; rfl) htime (by simp [hrun, hmode])

end Sys2Proof.Machine
end

section
/-!
PROOFS. What the operations of the card chain leave (06_card_chain.md R204, R209 to R219, R233 to R239, and R373 to R375 of the
stores they write), and ARM and DISARM of the shuttle engines (03_shuttle_engines.md R105, R106).
-/

namespace Sys2Proof.Machine

/-! ### The frame of the chain's operations -/

/-- A register that a change of the slots, a completion record or an error met in writing it may write: those of raises, the
error registers of the stores, the chain's, and the log's. -/
def ChainReg (a : Nat) : Prop :=
  RaiseReg a ∨ 0x188004 ≤ a ∧ a ≤ 0x188018 ∨ 0x1A0004 ≤ a ∧ a ≤ 0x1A0010 ∨ a = Reg.cardCrWr ∨ 0x1A0030 ≤ a ∧ a ≤ 0x1A0048 ∨
    0x1C3000 ≤ a ∧ a ≤ 0x1C3064

/-- What the operations of the chain leave: the units other than the shed, the stores, power and faults, and every register that is
not one of theirs. -/
structure ChainFrame (s t : State) : Prop where
  fields : t = { s with ev := t.ev, regs := t.regs, shed := t.shed, timed := t.timed, cyc := t.cyc, store := t.store,
                        pwr := t.pwr, mem := t.mem, log := t.log, flt := t.flt, chain := t.chain }
  regs : ∀ a, ¬ ChainReg a → rget t a = rget s a

theorem ChainFrame.refl (s : State) : ChainFrame s s := ⟨rfl, fun _ _ => rfl⟩

theorem ChainFrame.trans {s t u : State} (h : ChainFrame s t) (k : ChainFrame t u) : ChainFrame s u :=
  ⟨by rw [k.fields, h.fields], fun a ha => (k.regs a ha).trans (h.regs a ha)⟩

theorem ChainFrame.raised {s t : State} (src : Nat) (h : ChainFrame s t) : ChainFrame s (raise src t) :=
  h.trans ⟨by rw [(raise_frame src t).1], fun a ha => raise_rget fun hr => ha (.inl hr)⟩

theorem ChainFrame.rset {s t : State} {a : Nat} {v : Word} (ha : ChainReg a) (h : ChainFrame s t) : ChainFrame s (rset a v t) :=
  h.trans ⟨rfl, fun _ hb => rget_rset_other fun e => hb (e ▸ ha)⟩

theorem ChainFrame.setf {s t : State} {a lo n x : Nat} (ha : ChainReg a) (h : ChainFrame s t) : ChainFrame s (setf a lo n x t) :=
  h.rset ha

theorem ChainFrame.setb {s t : State} {a i : Nat} {b : Bool} (ha : ChainReg a) (h : ChainFrame s t) : ChainFrame s (setb a i b t) :=
  h.trans ⟨by cases b <;> rfl, fun _ hc => rget_setb_other fun e => hc (e ▸ ha)⟩

theorem ChainFrame.count {s t : State} {a : Nat} (ha : ChainReg a) (h : ChainFrame s t) : ChainFrame s (count a t) :=
  h.trans ⟨rfl, fun _ hb => rget_count_other fun e => hb (e ▸ ha)⟩

theorem ChainFrame.flagRaise {s t : State} {a i src : Nat} (ha : ChainReg a) (h : ChainFrame s t) :
    ChainFrame s (flagRaise a i src t) := (h.setb ha).raised src

theorem ChainFrame.when_ {s t : State} {c : Bool} {f : State → State} (hf : ChainFrame t (f t)) (h : ChainFrame s t) :
    ChainFrame s (when_ c f t) := by
  cases c with
  | false => exact h
  | true => exact h.trans hf

theorem ChainFrame.ite {s t u : State} {c : Prop} [Decidable c] (ht : ChainFrame s t) (hu : ChainFrame s u) :
    ChainFrame s (if c then t else u) := by
  split
  · exact ht
  · exact hu

theorem ChainFrame.forEach {α : Type} {l : List α} {f : α → State → State} {s t : State} (hf : ∀ x u, ChainFrame u (f x u))
    (h : ChainFrame s t) : ChainFrame s (forEach l f t) := by
  induction l generalizing t with
  | nil => exact h
  | cons x l ih => exact ih (h.trans (hf x t))

/-- Updates of what the frame leaves open. -/
theorem ChainFrame.free {s t : State} {timed : List (Nat × Timed)} {cyc : CycleSt} {store : StoreSt} {pwr : PwrSt}
    {mem : List Host.Cell} {log : LogSt} {flt : FltSt} {chain : ChainSt} (h : ChainFrame s t) :
    ChainFrame s { t with timed := timed, cyc := cyc, store := store, pwr := pwr, mem := mem, log := log, flt := flt, chain := chain } :=
  h.trans ⟨rfl, fun _ _ => rfl⟩

/-! ### The log and detections -/

theorem logWrite_chain {r : LogRec} {s t : State} (h : ChainFrame s t) : ChainFrame s (logWrite r t) := by
  have hlost : ChainReg Reg.tackLogLostCnt := by unfold ChainReg Reg.tackLogLostCnt; omega
  have hseq : ChainReg Reg.tackLogSeq := by unfold ChainReg Reg.tackLogSeq; omega
  unfold logWrite
  dsimp only
  refine ChainFrame.when_ ((ChainFrame.refl _).raised 2914) (.rset hseq ?_)
  exact (ChainFrame.when_ ((ChainFrame.refl _).count hlost) h).trans ⟨rfl, fun _ _ => rfl⟩

theorem logPut_chain {r : LogRec} {s t : State} (h : ChainFrame s t) : ChainFrame s (logPut r t) := by
  have hlost : ChainReg Reg.tackLogLostCnt := by unfold ChainReg Reg.tackLogLostCnt; omega
  have hsts : ChainReg Reg.tackSts := by unfold ChainReg Reg.tackSts; omega
  unfold logPut
  split
  · exact logWrite_chain h
  · split
    · exact h.trans ⟨rfl, fun _ _ => rfl⟩
    · exact .flagRaise hsts (.count hlost (h.trans ⟨rfl, fun _ _ => rfl⟩))

theorem logCause_chain {cls sev inst : Nat} {d0 d1 : Word} {s t : State} (h : ChainFrame s t) :
    ChainFrame s (logCause cls sev inst d0 d1 t) := logPut_chain h

theorem detect_chain {c inst : Nat} {hs : List Nat} {inj : Bool} {s t : State} (h : ChainFrame s t) :
    ChainFrame s (detect c inst hs inj t) := h.trans ⟨rfl, fun _ _ => rfl⟩

/-! ### Writes of the stores (R373 to R375) -/

theorem storeReg_chain {a : Nat} (h : 0x188004 ≤ a) (h' : a ≤ 0x188018) : ChainReg a := .inr (.inl ⟨h, h'⟩)

theorem correctable_chain {w : Nat} {s t : State} (h : ChainFrame s t) : ChainFrame s (correctable w t) := by
  have hflagged : ChainFrame s (setb Reg.storeSts 0 true (rset Reg.storeCeAddr (wd (0x1000000 + 8 * w)) (count Reg.storeCeCnt t))) :=
    .setb (storeReg_chain (by decide) (by decide)) (.rset (storeReg_chain (by decide) (by decide))
      (h.count (storeReg_chain (by decide) (by decide))))
  exact hflagged.trans ⟨rfl, fun _ _ => rfl⟩

theorem uncorrectable_chain {r : Reader} {w : Nat} {s t : State} (h : ChainFrame s t) : ChainFrame s (uncorrectable r w t) := by
  unfold uncorrectable
  dsimp only
  refine detect_chain (logCause_chain (.flagRaise (storeReg_chain (by decide) (by decide)) ?_))
  exact .rset (storeReg_chain (by decide) (by decide)) (.rset (storeReg_chain (by decide) (by decide))
    (h.count (storeReg_chain (by decide) (by decide))))

theorem touchBank_chain {a : Nat} {s t : State} (h : ChainFrame s t) : ChainFrame s (touchBank a t) :=
  h.trans ⟨rfl, fun _ _ => rfl⟩

theorem notePort_chain {r : Reader} {a n : Nat} {s t : State} (h : ChainFrame s t) : ChainFrame s (notePort r a n t) := by
  unfold notePort
  split
  · exact h
  · dsimp only
    split
    · exact h.trans ⟨rfl, fun _ _ => rfl⟩
    · exact h.trans ⟨rfl, fun _ _ => rfl⟩

theorem rewritten_chain {w : Nat} {s t : State} (h : ChainFrame s t) : ChainFrame s (rewritten w t) := by
  unfold rewritten
  split
  · exact h
  · dsimp only
    split
    · exact h.trans ⟨rfl, fun _ _ => rfl⟩
    · exact h.trans ⟨rfl, fun _ _ => rfl⟩

theorem writeWord_chain {r : Reader} {a : Nat} {bs : List Byte} {s t : State} (h : ChainFrame s t) :
    ChainFrame s (writeWord r a bs t) := by
  unfold writeWord
  dsimp only
  split
  · exact uncorrectable_chain h
  · refine (notePort_chain (r := r) (a := a) (n := bs.length)
      (rewritten_chain (w := wordOf a) (ChainFrame.when_ (correctable_chain (.refl _)) h))).trans ⟨rfl, fun _ _ => rfl⟩

theorem writeBytes_chain {r : Reader} {a : Nat} {bs : List Byte} {s t : State} (h : ChainFrame s t) :
    ChainFrame s (writeBytes r a bs t) := .forEach (fun _ _ => writeWord_chain (.refl _)) (touchBank_chain h)

theorem setCardWord_chain {n w : Nat} {v : Word} {s t : State} (h : ChainFrame s t) : ChainFrame s (setCardWord n w v t) :=
  writeBytes_chain h

/-! ### Slots and records (R209 to R211, R233 to R239) -/

theorem cardReg_chain {a : Nat} (h : 0x1A0004 ≤ a) (h' : a ≤ 0x1A0010) : ChainReg a := .inr (.inr (.inl ⟨h, h'⟩))

theorem cardCount_chain {a : Nat} (h : 0x1A0030 ≤ a) (h' : a ≤ 0x1A0048) : ChainReg a :=
  .inr (.inr (.inr (.inr (.inl ⟨h, h'⟩))))

theorem nearAt_chain {c : Nat} {s t : State} (h : ChainFrame s t) : ChainFrame s (nearAt c t) := by
  unfold nearAt
  split
  · exact h
  · exact h.trans ⟨rfl, fun _ _ => rfl⟩

theorem nearTo_chain {k : Nat} {s t : State} (h : ChainFrame s t) : ChainFrame s (nearTo k t) := by
  have hnear : ChainReg Reg.cardNear := cardReg_chain (by decide) (by decide)
  have hsts : ChainReg Reg.cardSts := cardReg_chain (by decide) (by decide)
  unfold nearTo
  dsimp only
  refine .when_ ((ChainFrame.refl _).raised 2750) (.setb hsts (.setf hnear (.setf hnear ?_)))
  split
  · exact nearAt_chain h
  · exact h

/-- The slots after a change of one. -/
theorem setSlot_chain {n : Nat} {x : SlotSt} {s t : State} (h : ChainFrame s t) : ChainFrame s (setSlot n x t) := by
  have hput : ChainFrame s { t with chain := { t.chain with slots := tset t.chain.slots n x } } := h.trans ⟨rfl, fun _ _ => rfl⟩
  have hused : ChainReg Reg.cardUsed := cardReg_chain (by decide) (by decide)
  have hpeak : ChainReg Reg.cardPeak := cardReg_chain (by decide) (by decide)
  unfold setSlot
  exact .ite (.rset hpeak (.rset hused hput)) (nearTo_chain (.rset hpeak (.rset hused hput)))

theorem modSlot_chain {n : Nat} {f : SlotSt → SlotSt} {s t : State} (h : ChainFrame s t) : ChainFrame s (modSlot n f t) :=
  setSlot_chain h

theorem freeSlot_chain {n : Nat} {s t : State} (h : ChainFrame s t) : ChainFrame s (freeSlot n t) := setSlot_chain h

theorem cardRecord_chain {n outcome : Nat} {o : How} {s t : State} (h : ChainFrame s t) :
    ChainFrame s (cardRecord n outcome o t) := by
  have hsts : ChainReg Reg.cardSts := cardReg_chain (by decide) (by decide)
  have hwr : ChainReg Reg.cardCrWr := .inr (.inr (.inr (.inl rfl)))
  unfold cardRecord
  split
  · exact h
  · dsimp only
    split
    · exact .flagRaise hsts (h.count (cardCount_chain (by decide) (by decide)))
    · exact .when_ ((ChainFrame.refl _).raised 2744) (.setb hsts (.rset hwr (writeBytes_chain h)))

theorem dispatchAt_chain {c : Nat} {s t : State} (h : ChainFrame s t) : ChainFrame s (dispatchAt c t) := by
  unfold dispatchAt
  split
  · exact h
  · exact h.trans ⟨rfl, fun _ _ => rfl⟩

/-- The card in slot n is due in this cycle. -/
def dueNow (s : State) (n : Nat) : Bool := match cardDue s n with | .at_ h => decide (h.t.lc = s.time) | _ => false

/-- The results of DISARM: no such card, one that has fired, one that fires in this cycle, and one that is cancelled. -/
theorem disarmOp_eq (h : Word) (s : State) : disarmOp h s =
    let n := h.toNat % 2 ^ 17
    if (slotSt s n).seq ≠ h.toNat / 2 ^ 17 % 2 ^ 11 ∨ (slotSt s n).st = 1 then (2, s)
    else if (slotSt s n).pending = false then (1, s)
    else if dueNow s n = true then (1, dispatchAt s.time s)
    else (0, freeSlot n (cardRecord n 3 (decidedNow s) s)) := by
  have hslot : fld h 0 17 = h.toNat % 2 ^ 17 := fld_zero h 17
  have hseq : fld h 17 11 = h.toNat / 2 ^ 17 % 2 ^ 11 := by simp [fld, Nat.shiftRight_eq_div_pow]
  unfold disarmOp
  simp only [hslot, hseq, Bool.not_eq_true']
  rfl

theorem disarmOp_chain {w : Word} {s : State} : ChainFrame s (disarmOp w s).2 := by
  rw [disarmOp_eq]
  dsimp only
  split
  · exact .refl _
  · split
    · exact .refl _
    · split
      · exact dispatchAt_chain (.refl _)
      · exact freeSlot_chain (cardRecord_chain (.refl _))

/-! ### ARM and DISARM (R105, R106) -/

theorem exec_disarm (e : Fin 34) (d a : Fin 16) (s : State) : exec (.disarm e d a) s = execDisarm e d a s := rfl

/-- What ARM of four registers that there are does. -/
def armBody (e d a : Nat) (x : Ctx) (s : State) : State :=
  let ws := (upto a 4).map (gr s e x)
  let gen := decide (runBank (ctx s e x) = 1)
  let id := (shuSt s e).slotId
  let s := { s with chain := { s.chain with submit := s.chain.submit ++ [⟨ws, e, x, id, gen, s.time⟩] } }
  retire e x 1 (schedule (s.time + 8) .cardPlace (takeSlot e x 8 1 (.arm d none) (feedW e x (0xC0000000#32 :: ws) s)))

theorem exec_arm_issue (e : Fin 34) (d a : Fin 16) (s : State) :
    exec (.arm e d a) s = issue e (.arm e d a) [d, a, a + 1, a + 2, a + 3] 1 1 false
      (fun x s => if 12 < a.val then taskFault e 2 0 s else armBody e d a x s) s := rfl

/-- Settles O35: the card that ARM submits, and the results of DISARM. -/
theorem shuttleCards : Obligations.ShuttleCards := by
  unfold Obligations.ShuttleCards
  refine ⟨?arm, ?disarm, ?results⟩
  case arm =>
    intro e d a s g h q ha
    have hsnap := expressSnap_frame e (active s e) s
    rw [exec_arm_issue, issue_issues rfl h, if_neg (by omega)]
    generalize expressSnap e (active s e) s = t at hsnap
    let c : Submit := ⟨[g 0, g 1, g 2, g 3], e, active s e, (shuSt s e).slotId, decide (runBank (ctx s e (active s e)) = 1), s.time⟩
    let u : State := { t with time := s.time, chain := { t.chain with submit := t.chain.submit ++ [c] } }
    have hbody : armBody e d a (active s e) t = retire e (active s e) 1 (schedule (s.time + 8) .cardPlace
        (takeSlot e (active s e) 8 1 (.arm d none) (feedW e (active s e) [0xC0000000#32, g 0, g 1, g 2, g 3] u))) := by
      simp only [armBody, upto, List.map_cons, List.map_nil, hsnap.gr, hsnap.time, hsnap.slotId, hsnap.ctxs]
      rfl
    have hframe : AccessFrame e 8 1 (.arm d none) [0xC0000000#32, g 0, g 1, g 2, g 3] s (armBody e d a (active s e) t) :=
      (accessFrame_retire (u := u) hsnap rfl rfl).of_shu (by rw [hbody]; rfl)
    refine ⟨_, by rw [settle_quiet (q.of_eq (by rw [hbody]; exact congrArg FltSt.det hsnap.flt)
      (by rw [hbody]; simp [rget, u, hsnap.regs]))], ?_, ?_, hframe, ?_⟩
    · rw [hbody]; simp [u, hsnap.regs]
    · rw [hbody]; simp [u, hsnap.mem]
    · rw [hbody]
      have hchain : t.chain = s.chain := by rw [hsnap.only.1]
      exact congrArg (fun y : ChainSt => y.submit ++ [c]) hchain
  case disarm =>
    intro e d a s w h
    have hsnap := expressSnap_frame e (active s e) s
    rw [exec_disarm, execDisarm, issue_issues rfl h]
    generalize expressSnap e (active s e) s = t at hsnap
    have hchain : ChainFrame t (disarmOp w t).2 := disarmOp_chain
    refine ⟨_, rfl, ?_⟩
    simp only [hsnap.gr]
    exact accessFrame_retire hsnap (by rw [hchain.fields]) (by rw [hchain.fields]; exact hsnap.time)
  case results =>
    intro w s x
    have hst : x.pending = true → x.st ≠ 1 := fun hpend h1 => by simp [SlotSt.pending, h1] at hpend
    have hfits : x.seq = w.toNat / 2 ^ 17 % 2 ^ 11 → x.st ≠ 1 → ¬(x.seq ≠ w.toNat / 2 ^ 17 % 2 ^ 11 ∨ x.st = 1) :=
      fun hseq h1 hno => hno.elim (fun hne => hne hseq) h1
    refine ⟨fun hno => ?_, fun hseq hpend hfree => ?_, fun y hseq hpend hdue hnow => ?_, fun hseq hparked hdone => ?_⟩
    · exact (disarmOp_eq w s).trans (if_pos hno)
    · have hlater : dueNow s (w.toNat % 2 ^ 17) = false := by
        unfold dueNow
        split
        · next y hdue => exact decide_eq_false (hfree y hdue)
        · rfl
      exact (disarmOp_eq w s).trans ((if_neg (hfits hseq (hst hpend))).trans
        ((if_neg (by rw [show (slotSt s (w.toNat % 2 ^ 17)).pending = true from hpend]; decide)).trans
          (if_neg (by rw [hlater]; decide))))
    · have hdueNow : dueNow s (w.toNat % 2 ^ 17) = true := by
        unfold dueNow
        rw [hdue]
        exact decide_eq_true hnow
      refine congrArg Prod.fst ((disarmOp_eq w s).trans ((if_neg (hfits hseq (hst hpend))).trans
        ((if_neg (by rw [show (slotSt s (w.toNat % 2 ^ 17)).pending = true from hpend]; decide)).trans (if_pos hdueNow))))
    · exact (disarmOp_eq w s).trans ((if_neg (hfits hseq hparked)).trans (if_pos hdone))

end Sys2Proof.Machine
end

section
/-!
PROOFS. Writes of the stores (00_scope.md R4, R5, R12), and writes that place a reserved encoding (R9).
-/

namespace Sys2Proof.Machine

/-! ### Bytes that a write of a store puts -/

/-- An aligned access that starts in the stores is a write of its bytes. -/
theorem accessWrite_store {p : Path} {a : Nat} {w : Width} {v : BitVec 64} {s : State} (haligned : a % widthBytes w = 0)
    (hstore : inStore a = true) : accessWrite p a w v s = writeMemBytes p a (leBytes (widthBytes w) v.toNat) s := by
  have hbar : ¬ 0x4000000 ≤ a := by
    simp only [inStore, decide_eq_true_eq] at hstore
    omega
  simp [accessWrite, haligned, hbar, hstore]

@[simp] theorem portTake_regs {bank who : Nat} {s : State} : (portTake bank who s).regs = s.regs := by
  simp only [portTake, copyWaits, when_]
  split <;> rfl

@[simp] theorem portTake_mem {bank who : Nat} {s : State} : (portTake bank who s).mem = s.mem := by
  simp only [portTake, copyWaits, when_]
  split <;> rfl

@[simp] theorem portTake_flt {bank who : Nat} {s : State} : (portTake bank who s).flt = s.flt := by
  simp only [portTake, copyWaits, when_]
  split <;> rfl

@[simp] theorem portTake_marks {bank who : Nat} {s : State} : (portTake bank who s).store.marks = s.store.marks := by
  simp only [portTake, copyWaits, when_]
  split <;> rfl

@[simp] theorem portTake_cycNow {bank who : Nat} {s : State} : cycNow (portTake bank who s) = cycNow s := by
  simp only [portTake, copyWaits, when_]
  split <;> rfl

/-- A write that port B serves at once, to stores without error marks in a cycle without writes of port A, puts its bytes. -/
theorem writeMemBytes_free {p : Path} {a n x : Nat} {s : State} (hpower : power s ≠ 2) (hlocked : locked s a 0 = false)
    (hn : n ≠ 0) (hword : a % 8 + n ≤ 8) (hmarks : s.store.marks = []) (hfree : portFree (bankOf a) s = true)
    (hopen : ((wordsOf a n).all fun w => !wordClosed .host w s) = true) (hbyA : (cycNow s).byA = []) :
    writeMemBytes p a (leBytes n x) s =
      { notePort (pathReader p) a n (touchBank a (portTake (bankOf a) (pathPort p) s)) with
        mem := putBytes a (leBytes n x) s.mem } := by
  have hlen : (leBytes n x).length = n := length_leBytes n x
  have hne : (leBytes n x).isEmpty = false := by
    cases hbytes : leBytes n x with
    | nil => exact absurd (by rw [← hlen, hbytes]; rfl) hn
    | cons b bs => rfl
  have hclosed : portClosed ⟨bankOf a, pathPort p, .write p a (leBytes n x)⟩ s = false := by
    simp only [portClosed, hlen, List.any_eq_false]
    simpa [List.all_eq_true] using hopen
  have hserve : portServe ⟨bankOf a, pathPort p, .write p a (leBytes n x)⟩ (portTake (bankOf a) (pathPort p) s) =
      writeN (pathReader p) a n x (portTake (bankOf a) (pathPort p) s) := rfl
  rw [writeMemBytes, if_neg hpower, hne, if_neg (by decide), hlocked, if_neg (by decide), portAsk_free hfree hclosed, hserve,
    writeN_clean (by simpa using hmarks) hn hword (.inr (by simpa using hbyA)), portTake_mem]

/-- Settles O17: the access comes to port B, which is free, and `writeN_clean` puts its bytes; what the grant and the note of
the cycle leave behind is no register. -/
theorem storeWritesTheirBytes : Obligations.StoreWritesTheirBytes := by
  unfold Obligations.StoreWritesTheirBytes
  intro p a w v s htakes hquiet hwf hstore haligned hlocked hmarks hfree hopen hbyA
  have hn : widthBytes w ≠ 0 := by cases w <;> decide
  have hword : a.toNat % 8 + widthBytes w ≤ 8 := by
    cases w <;> simp only [widthBytes] at haligned ⊢ <;> omega
  obtain ⟨hbytes, hothers⟩ := mget_putBytes_leBytes (a := a.toNat) (n := widthBytes w) (x := v.toNat) hwf
  have hland := writeMemBytes_free (p := p) (x := v.toNat) htakes.2 hlocked hn hword hmarks hfree hopen hbyA
  refine ⟨_, by rw [exec_registerWrite_takes htakes, accessWrite_store haligned hstore, hland,
    settle_quiet (hquiet.of_eq (by simp) (by simp [rget]))], by simp, hbytes, hothers⟩

/-! ### Reserved encodings -/

/-- Each channel has its CTL register. -/
theorem reservedOffset_chCtl (n : Fin 512) : reservedOffset (Reg.chCtl n) = false := by
  have hdesc : descAt (Reg.chCtl n) = some ⟨0x0, 1, 4, 0x0, 0x1FFF, 0x0, 0x10000⟩ := by
    have hoff : (Reg.chCtl n - 0x100000) % 0x100 = 0 := by simp only [Reg.chCtl]; omega
    have hlow : 0x100000 ≤ Reg.chCtl n := by simp only [Reg.chCtl]; omega
    have hhigh : Reg.chCtl n < 0x120000 := by simp only [Reg.chCtl]; omega
    generalize Reg.chCtl n = a at hoff hlow hhigh
    simp only [descAt, blocks]
    iterate 5 rw [descIn, if_neg (by simp only [BlockDesc.span]; split <;> omega)]
    rw [descIn, if_pos (by simp only [BlockDesc.span]; split <;> omega), if_neg (by decide), hoff]
    rfl
  simp [reservedOffset, hdesc]

theorem reserved_chCtl {n : Fin 512} {v : Word} {s : State} (h : 11 ≤ fld v 0 4) : reserved s (Reg.chCtl n) v = true := by
  have hoff : offs (Reg.chCtl n) 0x100000 0x100 = 0 := by simp only [offs, Reg.chCtl]; omega
  have hlow : ¬ Reg.chCtl n < 0x100000 := by simp only [Reg.chCtl]; omega
  have hmid : ¬ Reg.chCtl n < 0x1800 := by simp only [Reg.chCtl]; omega
  have hhigh : Reg.chCtl n < 0x120000 := by simp only [Reg.chCtl]; omega
  have hmode : 10 < fld v 0 4 := h
  rw [reserved, reservedOffset_chCtl, if_neg (by decide), if_neg hmid, if_neg hlow, if_pos hhigh, rsvCh, hoff, if_pos rfl,
    chCtlReserved]
  simp [hmode]

/-- Settles O20: a reserved encoding is the last of the causes, and what drops the write counts in RSV_CNT and raises. -/
theorem reservedEncodingsAreDiscarded : Obligations.ReservedEncodingsAreDiscarded := by
  unfold Obligations.ReservedEncodingsAreDiscarded
  refine ⟨fun p a v s hpower hhole hlocked htask hcode hreserved => ?_, fun n v s h => reserved_chCtl h⟩
  rw [writeReg_reserved hpower hhole hlocked htask hcode hreserved]
  have hcnt : ¬ DropReg Reg.gctlRsvCnt := not_dropReg_of_refusalCounter _ (by simp)
  refine ⟨rfl, by rw [rsvDrop_rget hcnt, rget_count_same], fun b hraise hb => ?_⟩
  rw [rsvDrop, dropNote_rget, raise_rget hraise, rget_count_other hb]

end Sys2Proof.Machine
end

section
/-!
PROOFS. Bits and fields of a register after a write of it or of another, and what a record of the log leaves as it was
(17_tackler.md R559, R568).
-/

namespace Sys2Proof.Machine

/-! ### Bits and fields -/

theorem rb_rset_other {a c i : Nat} {v : Word} {s : State} (h : c ≠ a) : rb (rset a v s) c i = rb s c i := by
  rw [rb, rget_rset_other h, rb]

theorem rf_rset_other {a c lo n : Nat} {v : Word} {s : State} (h : c ≠ a) : rf (rset a v s) c lo n = rf s c lo n := by
  rw [rf, rget_rset_other h, rf]

theorem rb_setb_other {a c i j : Nat} {b : Bool} {s : State} (hj : j < 32) (h : c ≠ a ∨ j ≠ i) :
    rb (setb a i b s) c j = rb s c j := by
  by_cases hc : c = a
  · subst hc
    rw [rb, rget_setb_same, bit_setBit hj, if_neg (by simpa using h), rb]
  · rw [rb, rget_setb_other hc, rb]

theorem rb_setf_other {a c lo n x j : Nat} {s : State} (hj : j < 32) (h : c ≠ a ∨ j < lo ∨ lo + n ≤ j) :
    rb (setf a lo n x s) c j = rb s c j := by
  by_cases hc : c = a
  · subst hc
    rw [rb, rget_setf_same, bit_setFld hj, if_neg (by omega), rb]
  · rw [rb, rget_setf_other hc, rb]

theorem rf_setf_other {a c lo n lo' n' x : Nat} {s : State} (hfits : lo' + n' ≤ 32)
    (h : c ≠ a ∨ lo' + n' ≤ lo ∨ lo + n ≤ lo') : rf (setf a lo n x s) c lo' n' = rf s c lo' n' := by
  by_cases hc : c = a
  · subst hc
    rw [rf, rget_setf_same, fld_setFld_other hfits (by omega), rf]
  · rw [rf, rget_setf_other hc, rf]

theorem rf_setb_other {a c i lo n : Nat} {b : Bool} {s : State} (hfits : lo + n ≤ 32) (h : c ≠ a ∨ i < lo ∨ lo + n ≤ i) :
    rf (setb a i b s) c lo n = rf s c lo n := by
  by_cases hc : c = a
  · subst hc
    rw [rf, rget_setb_same, setBit, fld_setFld_other hfits (by omega), rf]
  · rw [rf, rget_setb_other hc, rf]

theorem rf_lt {s : State} {a lo n : Nat} : rf s a lo n < 2 ^ n := fld_lt _ _ _

/-! ### The mode of the device -/

theorem mode_congr {s t : State} (h : rget t Reg.gctlMode = rget s Reg.gctlMode) : mode t = mode s := by rw [mode, rf, h, mode, rf]

theorem power_congr {s t : State} (h : rget t Reg.gctlMode = rget s Reg.gctlMode) : power t = power s := by
  rw [power, rf, h, power, rf]

theorem live_congr {s t : State} (h : rget t Reg.gctlMode = rget s Reg.gctlMode) : live t = live s := by
  rw [live, mode_congr h, live]

theorem running_congr {s t : State} (h : rget t Reg.gctlMode = rget s Reg.gctlMode) : running t = running s := by
  rw [running, live_congr h, power_congr h, running]

/-! ### Branches and loops -/

/-- What both branches give, the choice between them gives. -/
theorem ite_of_eq {α β : Sort _} {c : Prop} [Decidable c] {t u : α} {b : β} (field : α → β) (ht : field t = b) (hu : field u = b) :
    field (if c then t else u) = b := by
  split
  · exact ht
  · exact hu

/-- What each turn of a loop leaves as it is, the loop leaves as it is. -/
theorem forEach_of_eq {α : Type} {β : Sort _} {f : α → State → State} (field : State → β) (h : ∀ x u, field (f x u) = field u)
    (l : List α) (s : State) : field (forEach l f s) = field s := by
  induction l generalizing s with
  | nil => rfl
  | cons x l ih => exact (ih _).trans (h x s)

/-! ### Records of the log -/

/-- The registers below the source table, those from there to the shed, those from the shuttles to the link, and those of the
mailbox to the host port are none that a record of the log writes. -/
theorem not_logReg {a : Nat} (h : a < 0x14000 ∨ 0x18000 ≤ a ∧ a < 0x190000 ∨ 0x191000 ≤ a ∧ a < 0x1B0000 ∨
    0x1C0000 ≤ a ∧ a < 0x1C3000) : ¬ LogReg a := by
  simp only [LogReg, RaiseReg, Reg.selLevOut, Reg.shedMergeCnt, Reg.shedExpMergeCnt, Reg.tackSts, Reg.tackLogSeq,
    Reg.tackLogLostCnt]
  omega

theorem raise_rget_of_range {src a : Nat} {s : State} (h : a < 0x14000 ∨ 0x18000 ≤ a ∧ a < 0x190000 ∨
    0x191000 ≤ a ∧ a < 0x1B0000 ∨ 0x1C0000 ≤ a ∧ a < 0x1C3000) : rget (raise src s) a = rget s a :=
  raise_rget fun hraise => not_logReg h (.inl hraise)

/-- `t` comes from `s` by a record of the log: beside the log, a raise may have been made. -/
def LogFrame (s t : State) : Prop :=
  t = { s with ev := t.ev, regs := t.regs, shed := t.shed, timed := t.timed, cyc := t.cyc, log := t.log } ∧
    ∀ a, ¬ LogReg a → rget t a = rget s a

theorem LogFrame.trans {s t u : State} (h : LogFrame s t) (k : LogFrame t u) : LogFrame s u :=
  ⟨by rw [k.1, h.1], fun a ha => (k.2 a ha).trans (h.2 a ha)⟩

theorem LogFrame.of_log {s : State} {l : LogSt} : LogFrame s { s with log := l } := ⟨rfl, fun _ _ => rfl⟩

theorem raise_logFrame (src : Nat) (s : State) : LogFrame s (raise src s) :=
  ⟨by rw [(raise_frame src s).1], fun _ h => raise_rget fun hraise => h (.inl hraise)⟩

theorem LogFrame.when_ {c : Bool} {f : State → State} {s t : State} (hf : LogFrame t (f t)) (h : LogFrame s t) :
    LogFrame s (when_ c f t) := by
  cases c
  · exact h
  · exact h.trans hf

theorem LogFrame.rset {a : Nat} {v : Word} {s t : State} (ha : LogReg a) (h : LogFrame s t) : LogFrame s (rset a v t) :=
  h.trans ⟨rfl, fun _ hb => rget_rset_other fun e => hb (e ▸ ha)⟩

theorem LogFrame.count {a : Nat} {s t : State} (ha : LogReg a) (h : LogFrame s t) : LogFrame s (count a t) :=
  h.trans ⟨rfl, fun _ hb => rget_count_other fun e => hb (e ▸ ha)⟩

theorem logWrite_frame (r : LogRec) (s : State) : LogFrame s (logWrite r s) := by
  have hlost : LogReg Reg.tackLogLostCnt := .inr (.inr (.inr rfl))
  have hseq : LogReg Reg.tackLogSeq := .inr (.inr (.inl rfl))
  have hs : LogFrame s s := ⟨rfl, fun _ _ => rfl⟩
  unfold logWrite
  dsimp only
  refine LogFrame.when_ (raise_logFrame ..) (.rset hseq ?_)
  exact (LogFrame.when_ (hs.count hlost) hs).trans ⟨rfl, fun _ _ => rfl⟩

theorem logPut_frame (r : LogRec) (s : State) : LogFrame s (logPut r s) := by
  refine ⟨?_, fun a h => logPut_rget h⟩
  unfold logPut
  split
  · exact (logWrite_frame r s).1
  · split
    · rfl
    · rw [logLose, flagRaise, (raise_frame _ _).1]
      rfl

theorem logCause_frame (cls sev inst : Nat) (d0 d1 : Word) (s : State) : LogFrame s (logCause cls sev inst d0 d1 s) :=
  logPut_frame _ s

/-- A cause of a limited class is counted or recorded. -/
theorem logLimited_frame (cls sev inst : Nat) (d0 d1 : Word) (s : State) : LogFrame s (logLimited cls sev inst d0 d1 s) := by
  unfold logLimited
  dsimp only
  split
  · split
    · exact .of_log
    · exact .trans .of_log (logPut_frame _ _)
  · exact .trans .of_log (logPut_frame _ _)

theorem logCause_rget {cls sev inst a : Nat} {d0 d1 : Word} {s : State} (h : a < 0x14000 ∨ 0x18000 ≤ a ∧ a < 0x190000 ∨
    0x191000 ≤ a ∧ a < 0x1B0000 ∨ 0x1C0000 ≤ a ∧ a < 0x1C3000) : rget (logCause cls sev inst d0 d1 s) a = rget s a :=
  (logCause_frame ..).2 a (not_logReg h)

theorem logLimited_rget {cls sev inst a : Nat} {d0 d1 : Word} {s : State} (h : a < 0x14000 ∨ 0x18000 ≤ a ∧ a < 0x190000 ∨
    0x191000 ≤ a ∧ a < 0x1B0000 ∨ 0x1C0000 ≤ a ∧ a < 0x1C3000) : rget (logLimited cls sev inst d0 d1 s) a = rget s a :=
  (logLimited_frame ..).2 a (not_logReg h)

section
variable {cls sev inst : Nat} {d0 d1 : Word} {s : State}

@[simp] theorem logCause_mem : (logCause cls sev inst d0 d1 s).mem = s.mem := by rw [(logCause_frame ..).1]
@[simp] theorem logCause_time : (logCause cls sev inst d0 d1 s).time = s.time := by rw [(logCause_frame ..).1]
@[simp] theorem logLimited_mem : (logLimited cls sev inst d0 d1 s).mem = s.mem := by rw [(logLimited_frame ..).1]
@[simp] theorem logLimited_time : (logLimited cls sev inst d0 d1 s).time = s.time := by rw [(logLimited_frame ..).1]

end

end Sys2Proof.Machine
end

section
/-!
PROOFS. The instructions of the heddle engines beside JMP (09_heddle_engines.md R316, R318 to R322): the shifts of OUT and IN, and
what the others leave.
-/

namespace Sys2Proof.Machine

/-! ### What an instruction does before it completes -/

/-- On its way from `s` to `u` an instruction of engine e has left its PC, its debug halt, the other engines and the stores. -/
structure HedLeft (e : Nat) (s u : State) : Prop where
  dbg : rget u (Reg.hedDbg e) = rget s (Reg.hedDbg e)
  exec : rget u (Reg.hedExec e) = rget s (Reg.hedExec e)
  engines : ∀ k, k ≠ e → hedSt u k = hedSt s k
  mem : u.mem = s.mem

theorem HedLeft.sync {e : Nat} {s : State} : HedLeft e s (hedSync e s) :=
  ⟨hedSync_rget, hedSync_rget, fun _ hk => hedSync_hedSt_other hk, hedSync_mem⟩

theorem HedLeft.trans {e : Nat} {s t u : State} (h : HedLeft e s t) (k : HedLeft e t u) : HedLeft e s u :=
  ⟨k.dbg.trans h.dbg, k.exec.trans h.exec, fun i hi => (k.engines i hi).trans (h.engines i hi), k.mem.trans h.mem⟩

theorem HedLeft.rset {e a : Nat} {v : Word} {s u : State} (ha : a ≠ Reg.hedExec e ∧ a ≠ Reg.hedDbg e) (h : HedLeft e s u) :
    HedLeft e s (rset a v u) :=
  h.trans ⟨rget_rset_other ha.2.symm, rget_rset_other ha.1.symm, fun _ _ => rfl, rfl⟩

theorem HedLeft.setf {e a lo n x : Nat} {s u : State} (ha : a ≠ Reg.hedExec e ∧ a ≠ Reg.hedDbg e) (h : HedLeft e s u) :
    HedLeft e s (setf a lo n x u) := h.rset ha

theorem HedLeft.setb {e a i : Nat} {b : Bool} {s u : State} (ha : a ≠ Reg.hedExec e ∧ a ≠ Reg.hedDbg e) (h : HedLeft e s u) :
    HedLeft e s (setb a i b u) :=
  h.trans ⟨rget_setb_other ha.2.symm, rget_setb_other ha.1.symm, fun _ _ => by simp [hedSt], by simp⟩

theorem HedLeft.setHedF {e : Nat} {b : Bool} {s u : State} (h : HedLeft e s u) : HedLeft e s (setHedF e b u) :=
  h.setb (by simp [Reg.hedSts, Reg.hedExec, Reg.hedDbg])

theorem HedLeft.modHed {e : Nat} {f : HedSt → HedSt} {s u : State} (h : HedLeft e s u) : HedLeft e s (modHed e f u) :=
  h.trans ⟨rfl, rfl, fun _ hk => modHed_hedSt_other hk, rfl⟩

theorem HedLeft.when_ {e : Nat} {c : Bool} {f : State → State} {s u : State} (hf : HedLeft e s (f u)) (h : HedLeft e s u) :
    HedLeft e s (when_ c f u) := by
  cases c
  · exact h
  · exact hf

/-- A raise, and a record of the log, write none of the registers of the engines. -/
theorem HedLeft.logFrame {e : Nat} {s t u : State} (he : e < 64) (hlog : LogFrame t u) (h : HedLeft e s t) : HedLeft e s u := by
  refine h.trans ⟨?_, ?_, fun k _ => by rw [hedSt, hlog.1, hedSt], by rw [hlog.1]⟩ <;> refine hlog.2 _ (not_logReg ?_)
  · simp only [Reg.hedDbg]; omega
  · simp only [Reg.hedExec]; omega

theorem HedLeft.hedPc_eq {e : Nat} {s u : State} (h : HedLeft e s u) : hedPc u e = hedPc s e := by
  rw [hedPc, rf, h.exec, hedPc, rf]

/-- An instruction completes. -/
theorem HedLeft.next {e : Nat} {s u : State} (h : HedLeft e s u) : HedFrame e (hedPc s e + 1) s (hedNext e u) := by
  rw [hedNext, h.hedPc_eq]
  exact hedGo_frame h.dbg h.engines h.mem

theorem hedNext_rget_other {e r : Nat} {s : State} (hexec : r ≠ Reg.hedExec e) (hsts : r ≠ Reg.hedSts e) :
    rget (hedNext e s) r = rget s r := hedGo_rget_other hexec hsts

@[simp] theorem hedF_hedNext {e : Nat} {s : State} : hedF (hedNext e s) e = hedF s e := hedF_hedGo

theorem hedNext_tcnt {e : Nat} {s : State} : tcnt (hedNext e s) e = tcnt s e := by
  rw [tcnt, rf, hedNext_rget_other (by simp [Reg.hedShcnt, Reg.hedExec]) (by simp [Reg.hedShcnt, Reg.hedSts]), tcnt, rf]

theorem hedNext_rcnt {e : Nat} {s : State} : rcnt (hedNext e s) e = rcnt s e := by
  rw [rcnt, rf, hedNext_rget_other (by simp [Reg.hedShcnt, Reg.hedExec]) (by simp [Reg.hedShcnt, Reg.hedSts]), rcnt, rf]

@[simp] theorem hedF_setHedF {e : Nat} {b : Bool} {s : State} : hedF (setHedF e b s) e = b := rb_setb_same (by decide)

theorem hedF_rset {e a : Nat} {v : Word} {s : State} (h : Reg.hedSts e ≠ a) : hedF (rset a v s) e = hedF s e := rb_rset_other h

theorem hf_lt {f : BitVec 12} {hi lo : Nat} : hf f hi lo < 2 ^ (hi - lo + 1) := Nat.mod_lt _ (Nat.two_pow_pos _)

theorem toNat_wd_of_lt {x : Nat} (h : x < 2 ^ 32) : (wd x).toNat = x := Nat.mod_eq_of_lt h

@[simp] theorem hedSync_hdr {e j : Nat} {s : State} : hdr (hedSync e s) e j = hdr s e j := by
  simp only [hdr, hedBank, rf, hedSync_rget]

@[simp] theorem hedSync_tcnt {e : Nat} {s : State} : tcnt (hedSync e s) e = tcnt s e := by simp only [tcnt, rf, hedSync_rget]
@[simp] theorem hedSync_rcnt {e : Nat} {s : State} : rcnt (hedSync e s) e = rcnt s e := by simp only [rcnt, rf, hedSync_rget]
@[simp] theorem hedSync_hedF {e : Nat} {s : State} : hedF (hedSync e s) e = hedF s e := by simp only [hedF, rb, hedSync_rget]

/-! ### The shifts (R318) -/

/-- OUT to K. -/
def outToK (e : Nat) (f : BitVec 12) (s : State) : State :=
  let n := hf f 13 9 + 1
  let tsr := (rget s (Reg.hedTsr e)).toNat
  let lsb := bit (hdr s e 0) 16
  let u := setf (Reg.hedShcnt e) 0 6 (tcnt s e - n) (rset (Reg.hedTsr e) (wd (if lsb then tsr / 2 ^ n else tsr * 2 ^ n)) s)
  rset (Reg.hedK e) (wd (if lsb then tsr % 2 ^ n else tsr / 2 ^ (32 - n))) u

theorem hedOutOp_toK {e : Nat} {f : BitVec 12} {s : State} (h : hf f 15 14 = 1) :
    hedOutOp e f s = hedNext e (outToK e f s) := by
  have hshcnt : Reg.hedShcnt e ≠ Reg.hedTsr e := by simp [Reg.hedShcnt, Reg.hedTsr]
  rw [hedOutOp, h, if_neg (by omega)]
  simp [outToK, tcnt, rf_rset_other hshcnt]

/-- What OUT to K leaves in K, TSR, TCNT, F and V. -/
theorem outToK_spec (e : Nat) (f : BitVec 12) (s : State) : let t := outToK e f s; let n := hf f 13 9 + 1
    let tsr := (rget s (Reg.hedTsr e)).toNat; let lsb := bit (hdr s e 0) 16
    (rget t (Reg.hedK e)).toNat = (if lsb then tsr % 2 ^ n else tsr / 2 ^ (32 - n)) ∧
    (rget t (Reg.hedTsr e)).toNat = (if lsb then tsr / 2 ^ n else tsr * 2 ^ n % 2 ^ 32) ∧ tcnt t e = tcnt s e - n ∧
    hedF t e = hedF s e ∧ rget t (Reg.hedV e) = rget s (Reg.hedV e) ∧ HedLeft e s t := by
  intro t n tsr lsb
  have htsr : tsr < 2 ^ 32 := (rget s (Reg.hedTsr e)).isLt
  have hdown : tsr / 2 ^ n < 2 ^ 32 := Nat.lt_of_le_of_lt (Nat.div_le_self _ _) htsr
  have hmod : tsr % 2 ^ n < 2 ^ 32 := Nat.lt_of_le_of_lt (Nat.mod_le _ _) htsr
  have htop : tsr / 2 ^ (32 - n) < 2 ^ 32 := Nat.lt_of_le_of_lt (Nat.div_le_self _ _) htsr
  have hcount : tcnt s e - n < 2 ^ 6 := Nat.lt_of_le_of_lt (Nat.sub_le _ _) rf_lt
  refine ⟨?_, ?_, ?_, ?_, ?_, ?_⟩
  · have hk : rget t (Reg.hedK e) = wd (if lsb then tsr % 2 ^ n else tsr / 2 ^ (32 - n)) := rget_rset_same
    rw [hk, toNat_wd_of_lt (by split <;> assumption)]
  · have hreg : rget t (Reg.hedTsr e) = wd (if lsb then tsr / 2 ^ n else tsr * 2 ^ n) := by
      simp only [t, outToK]
      rw [rget_rset_other (by simp [Reg.hedTsr, Reg.hedK]), rget_setf_other (by simp [Reg.hedTsr, Reg.hedShcnt]), rget_rset_same]
    rw [hreg]
    split
    · exact toNat_wd_of_lt hdown
    · rfl
  · simp only [t, outToK, tcnt]
    rw [rf_rset_other (by simp [Reg.hedShcnt, Reg.hedK]), rf_setf_same (by decide)]
    exact Nat.mod_eq_of_lt hcount
  · simp only [t, outToK]
    rw [hedF_rset (by simp [Reg.hedSts, Reg.hedK]), setf, hedF_rset (by simp [Reg.hedSts, Reg.hedShcnt]),
      hedF_rset (by simp [Reg.hedSts, Reg.hedTsr])]
  · simp only [t, outToK]
    rw [rget_rset_other (by simp [Reg.hedV, Reg.hedK]), rget_setf_other (by simp [Reg.hedV, Reg.hedShcnt]),
      rget_rset_other (by simp [Reg.hedV, Reg.hedTsr])]
  · have hrefl : HedLeft e s s := ⟨rfl, rfl, fun _ _ => rfl, rfl⟩
    exact .rset (by simp [Reg.hedK, Reg.hedExec, Reg.hedDbg]) (.setf (by simp [Reg.hedShcnt, Reg.hedExec, Reg.hedDbg])
      (.rset (by simp [Reg.hedTsr, Reg.hedExec, Reg.hedDbg]) hrefl))

/-- The N low bits of K that IN shifts, and RSR after it. -/
def inBits (e : Nat) (f : BitVec 12) (s : State) : Nat := (rget s (Reg.hedK e)).toNat % 2 ^ (hf f 13 9 + 1)
def inWord (e : Nat) (f : BitVec 12) (s : State) : Nat :=
  let n := hf f 13 9 + 1
  let rsr := (rget s (Reg.hedRsr e)).toNat
  if bit (hdr s e 0) 17 then rsr / 2 ^ n + inBits e f s * 2 ^ (32 - n) else rsr * 2 ^ n % 2 ^ 32 + inBits e f s

/-- What is shifted in and what stays fill the 32 bits, from either side. -/
theorem inWord_lt {e : Nat} {f : BitVec 12} {s : State} : inWord e f s < 2 ^ 32 := by
  have hn : hf f 13 9 < 32 := hf_lt
  have hsplit : 2 ^ (hf f 13 9 + 1) * 2 ^ (32 - (hf f 13 9 + 1)) = 2 ^ 32 := by rw [← Nat.pow_add]; congr 1; omega
  have hv : inBits e f s < 2 ^ (hf f 13 9 + 1) := Nat.mod_lt _ (Nat.two_pow_pos _)
  have hrsr : (rget s (Reg.hedRsr e)).toNat < 2 ^ 32 := (rget s (Reg.hedRsr e)).isLt
  simp only [inWord]
  generalize hf f 13 9 + 1 = n at hsplit hv
  split
  · have hhigh : (rget s (Reg.hedRsr e)).toNat / 2 ^ n < 2 ^ (32 - n) :=
      Nat.div_lt_of_lt_mul (by rwa [hsplit])
    calc _ < 2 ^ (32 - n) + inBits e f s * 2 ^ (32 - n) := Nat.add_lt_add_right hhigh _
      _ = (inBits e f s + 1) * 2 ^ (32 - n) := by rw [Nat.add_one_mul, Nat.add_comm]
      _ ≤ 2 ^ n * 2 ^ (32 - n) := Nat.mul_le_mul_right _ hv
      _ = 2 ^ 32 := hsplit
  · have hlow : (rget s (Reg.hedRsr e)).toNat * 2 ^ n % 2 ^ 32 = 2 ^ n * ((rget s (Reg.hedRsr e)).toNat % 2 ^ (32 - n)) := by
      rw [← hsplit, Nat.mul_comm, Nat.mul_mod_mul_left]
    have htop : (rget s (Reg.hedRsr e)).toNat % 2 ^ (32 - n) + 1 ≤ 2 ^ (32 - n) := Nat.mod_lt _ (Nat.two_pow_pos _)
    calc _ < 2 ^ n * ((rget s (Reg.hedRsr e)).toNat % 2 ^ (32 - n)) + 2 ^ n := by rw [hlow]; exact Nat.add_lt_add_left hv _
      _ = 2 ^ n * ((rget s (Reg.hedRsr e)).toNat % 2 ^ (32 - n) + 1) := (Nat.mul_add_one _ _).symm
      _ ≤ 2 ^ n * 2 ^ (32 - n) := Nat.mul_le_mul_left _ htop
      _ = 2 ^ 32 := hsplit

/-- IN from K. -/
def inFromK (e : Nat) (f : BitVec 12) (s : State) : State :=
  let u := setf (Reg.hedShcnt e) 8 6 (min 32 (rcnt s e + (hf f 13 9 + 1))) (rset (Reg.hedRsr e) (wd (inWord e f s)) s)
  when_ (decide (hf f 5 5 = 1)) (setHedF e ((inBits e f s).testBit (hf f 13 9))) u

theorem hedInOp_fromK {e : Nat} {f : BitVec 12} {s : State} (h : hf f 15 14 = 1) : hedInOp e f s = hedNext e (inFromK e f s) := by
  rw [hedInOp, h, if_neg (by omega)]
  rfl

/-- What IN from K leaves in RSR, RCNT, K and F. -/
theorem inFromK_spec (e : Nat) (f : BitVec 12) (s : State) : let t := inFromK e f s
    rget t (Reg.hedRsr e) = wd (inWord e f s) ∧ rcnt t e = min 32 (rcnt s e + (hf f 13 9 + 1)) ∧
    rget t (Reg.hedK e) = rget s (Reg.hedK e) ∧
    hedF t e = (if hf f 5 5 = 1 then (inBits e f s).testBit (hf f 13 9) else hedF s e) ∧ HedLeft e s t := by
  intro t
  have hflag : ∀ (c b : Bool) (u : State) r, r ≠ Reg.hedSts e → rget (when_ c (setHedF e b) u) r = rget u r :=
    fun c b u r hr => rget_when_of_eq (rget_setb_other hr)
  have hfits : min 32 (rcnt s e + (hf f 13 9 + 1)) % 2 ^ 6 = min 32 (rcnt s e + (hf f 13 9 + 1)) := Nat.mod_eq_of_lt (by omega)
  refine ⟨?_, ?_, ?_, ?_, ?_⟩
  · simp only [t, inFromK]
    rw [hflag _ _ _ _ (by simp [Reg.hedRsr, Reg.hedSts]), rget_setf_other (by simp [Reg.hedRsr, Reg.hedShcnt]), rget_rset_same]
  · simp only [t, inFromK]
    rw [rcnt, rf, hflag _ _ _ _ (by simp [Reg.hedShcnt, Reg.hedSts]), ← rf, rf_setf_same (by decide), hfits]
  · simp only [t, inFromK]
    rw [hflag _ _ _ _ (by simp [Reg.hedK, Reg.hedSts]), rget_setf_other (by simp [Reg.hedK, Reg.hedShcnt]),
      rget_rset_other (by simp [Reg.hedK, Reg.hedRsr])]
  · by_cases hset : hf f 5 5 = 1
    · simp only [t, inFromK, when_, hset, decide_true, if_true, hedF_setHedF]
    · simp only [t, inFromK, when_, hset, decide_false, if_false, Bool.false_eq_true]
      rw [setf, hedF_rset (by simp [Reg.hedSts, Reg.hedShcnt]), hedF_rset (by simp [Reg.hedSts, Reg.hedRsr])]
  · have hrefl : HedLeft e s s := ⟨rfl, rfl, fun _ _ => rfl, rfl⟩
    have hwrites := HedLeft.setf (lo := 8) (n := 6) (x := min 32 (rcnt s e + (hf f 13 9 + 1))) (a := Reg.hedShcnt e)
      (by simp [Reg.hedShcnt, Reg.hedExec, Reg.hedDbg])
      (HedLeft.rset (v := wd (inWord e f s)) (a := Reg.hedRsr e) (by simp [Reg.hedRsr, Reg.hedExec, Reg.hedDbg]) hrefl)
    exact .when_ hwrites.setHedF hwrites

/-- Settles O47: OUT to K and IN from K complete, and the shifts keep to the 32 bits of their registers. -/
theorem heddleShifts : Obligations.HeddleShifts := by
  unfold Obligations.HeddleShifts
  refine ⟨?_, ?_⟩
  · intro e f s n tsr h hdst
    obtain ⟨hk, htsr, htcnt, hF, hv, hleft⟩ := outToK_spec e f (hedSync e s)
    refine ⟨_, (hedExec_executes h).trans (by rw [hedOutOp_toK hdst]), (HedLeft.sync.trans hleft).next, ?_, ?_, ?_, ?_⟩
    · rw [hedNext_rget_other (by simp [Reg.hedK, Reg.hedExec]) (by simp [Reg.hedK, Reg.hedSts]),
        hedNext_rget_other (by simp [Reg.hedTsr, Reg.hedExec]) (by simp [Reg.hedTsr, Reg.hedSts]), hk, htsr, hedSync_rget, hedSync_hdr]
      split <;> exact ⟨rfl, rfl⟩
    · rw [hedNext_tcnt, htcnt, hedSync_tcnt]
    · rw [hedF_hedNext, hF, hedSync_hedF]
    · rw [hedNext_rget_other (by simp [Reg.hedV, Reg.hedExec]) (by simp [Reg.hedV, Reg.hedSts]), hv, hedSync_rget]
  · intro e f s n rsr v h hsrc
    obtain ⟨hrsr, hrcnt, hk, hF, hleft⟩ := inFromK_spec e f (hedSync e s)
    refine ⟨_, (hedExec_executes h).trans (by rw [hedInOp_fromK hsrc]), (HedLeft.sync.trans hleft).next, ?_, ?_, ?_, ?_⟩
    · rw [hedNext_rget_other (by simp [Reg.hedRsr, Reg.hedExec]) (by simp [Reg.hedRsr, Reg.hedSts]), hrsr,
        toNat_wd_of_lt inWord_lt, inWord, inBits, hedSync_rget, hedSync_rget, hedSync_hdr]
      split <;> rfl
    · rw [hedNext_rcnt, hrcnt, hedSync_rcnt]
    · rw [hedNext_rget_other (by simp [Reg.hedK, Reg.hedExec]) (by simp [Reg.hedK, Reg.hedSts]), hk, hedSync_rget]
    · rw [hedF_hedNext, hF, hedSync_hedF, inBits, hedSync_rget, Nat.add_sub_cancel]

end Sys2Proof.Machine
end

section
/-!
PROOFS. The other instructions of the heddle engines (09_heddle_engines.md R316, R319 to R322), and an opcode without an
instruction (R326).
-/

namespace Sys2Proof.Machine

/-! ### Completion -/

/-- The state of an engine whose instruction completes: no stall and no STEP. -/
theorem hedSt_hedNext {e : Nat} {s : State} : hedSt (hedNext e s) e = { hedSt s e with stall := none, step := false } := by
  rw [hedNext, hedGo, setHedState, setf_hedSt, modHed_hedSt_same, setf_hedSt]

theorem hedNext_rb_sts {e i : Nat} {s : State} (hi : i < 32) (h : i < 8 ∨ 11 ≤ i) :
    rb (hedNext e s) (Reg.hedSts e) i = rb s (Reg.hedSts e) i := by
  rw [hedNext, hedGo, setHedState, rb_setf_other hi (.inr (by omega)), rb, modHed_rget, ← rb,
    rb_setf_other hi (.inl (by simp [Reg.hedSts, Reg.hedExec]))]

@[simp] theorem hedSync_time {e : Nat} {s : State} : (hedSync e s).time = s.time := by rw [hedSync_eq]

@[simp] theorem hedSync_hedBank {e : Nat} {s : State} : hedBank (hedSync e s) e = hedBank s e := by
  simp only [hedBank, rf, hedSync_rget]

/-- The divider is synchronised in the engine's own state, whose FIFOs stay. -/
theorem hedSync_fifos {e : Nat} {s : State} :
    (hedSt (hedSync e s) e).tx = (hedSt s e).tx ∧ (hedSt (hedSync e s) e).rx = (hedSt s e).rx := by
  cases h : hedHalted s e <;> simp [hedSync, when_, h, syncTicks]

/-! ### FIFOs -/

@[simp] theorem setHedF_hedSt {e k : Nat} {b : Bool} {s : State} : hedSt (setHedF e b s) k = hedSt s k := by
  simp [hedSt, setHedF]

@[simp] theorem rset_hedSt {a k : Nat} {v : Word} {s : State} : hedSt (rset a v s) k = hedSt s k := rfl

theorem fifoSts_left {e : Nat} {s u : State} (h : HedLeft e s u) : HedLeft e s (fifoSts e u) :=
  h.rset (by simp [Reg.hedFifo, Reg.hedExec, Reg.hedDbg])

theorem hedData_left {e : Nat} {s u : State} (he : e < 64) (h : HedLeft e s u) : HedLeft e s (hedData e u) :=
  h.logFrame he (raise_logFrame ..)

theorem txPop_left {e : Nat} {s u : State} (he : e < 64) (h : HedLeft e s u) : HedLeft e s (txPop e u) :=
  .when_ (hedData_left he (fifoSts_left h.modHed)) (fifoSts_left h.modHed)

theorem rxPush_left {e : Nat} {w : Word} {s u : State} (he : e < 64) (h : HedLeft e s u) : HedLeft e s (rxPush e w u) :=
  .when_ (hedData_left he (fifoSts_left h.modHed)) (fifoSts_left h.modHed)

theorem hedData_when_hedSt {e k : Nat} {c : Bool} {s : State} : hedSt (when_ c (hedData e) s) k = hedSt s k :=
  when_of_eq (fun u => hedSt u k) (by simp only [hedData, hedSt, raise_hed])

theorem txPop_hedSt {e : Nat} {s : State} : hedSt (txPop e s) e = { hedSt s e with tx := (hedSt s e).tx.drop 1 } := by
  rw [txPop, hedData_when_hedSt, fifoSts, rset_hedSt, modHed_hedSt_same]

theorem rxPush_hedSt {e : Nat} {w : Word} {s : State} :
    hedSt (rxPush e w s) e = { hedSt s e with rx := (hedSt s e).rx ++ [w] } := by
  rw [rxPush, hedData_when_hedSt, fifoSts, rset_hedSt, modHed_hedSt_same]

theorem fifoFlag_left {e i : Nat} {s u : State} (he : e < 64) (h : HedLeft e s u) : HedLeft e s (fifoFlag e i u) := by
  have hset : HedLeft e s (setb (Reg.hedSts e) i true u) := h.setb (by simp [Reg.hedSts, Reg.hedExec, Reg.hedDbg])
  have hcount : ∀ a v, a ≠ Reg.hedExec e ∧ a ≠ Reg.hedDbg e → v = setb (Reg.hedSts e) i true u → HedLeft e s (count a v) :=
    fun a v ha hv => (hv ▸ hset).trans ⟨rget_count_other ha.2.symm, rget_count_other ha.1.symm, fun _ _ => rfl, rfl⟩
  refine .logFrame he (raise_logFrame ..) (.logFrame he (logLimited_frame ..) ?_)
  split
  · exact hcount _ _ (by simp [Reg.hedTxufCnt, Reg.hedExec, Reg.hedDbg]) rfl
  · split
    · exact hcount _ _ (by simp [Reg.hedRxofCnt, Reg.hedExec, Reg.hedDbg]) rfl
    · exact hset

/-- An underflow of the TX FIFO sets its flag and counts. -/
theorem fifoFlag_txuf {e : Nat} {s : State} (he : e < 64) : rb (fifoFlag e 0 s) (Reg.hedSts e) 0 = true ∧
    rget (fifoFlag e 0 s) (Reg.hedTxufCnt e) = satInc (rget s (Reg.hedTxufCnt e)) := by
  have hlog : ∀ u a, 0x160000 ≤ a → a < 0x170000 → rget (hedAlarm e (logLimited 0x0803 1 e
      (rget u (Reg.hedSts e) &&& 0xF#32) (rget u (Reg.hedTxufCnt e)) u)) a = rget u a := fun u a hlow hhigh => by
    rw [hedAlarm, raise_rget_of_range (by omega), logLimited_rget (by omega)]
  refine ⟨?_, ?_⟩
  · rw [fifoFlag, if_pos rfl, rb, hlog _ _ (by simp only [Reg.hedSts]; omega) (by simp only [Reg.hedSts]; omega),
      rget_count_other (by simp [Reg.hedSts, Reg.hedTxufCnt]), ← rb, rb_setb_same (by decide)]
  · rw [fifoFlag, if_pos rfl, hlog _ _ (by simp only [Reg.hedTxufCnt]; omega) (by simp only [Reg.hedTxufCnt]; omega),
      rget_count_same, rget_setb_other (by simp [Reg.hedSts, Reg.hedTxufCnt])]

/-! ### WAIT -/

theorem exec_hedWait (e : Fin 64) (f : BitVec 12) (s : State) : exec (.hedWait e f) s = hedExec e 2 f (hedWaitAt e f) s := rfl

/-- A WAIT that completes is not ended by its limit. -/
theorem hedWaitAt_next {e : Nat} {f : BitVec 12} {s u : State} (h : hedWaitOp e f s = hedNext e u) :
    hedWaitAt e f s = hedNext e u := by
  rw [hedWaitAt, h, hedSt_hedNext]
  simp

theorem hedWait_completes {e : Fin 64} {f : BitVec 12} {s u : State} (h : HedExecutes e 2 f s)
    (hop : hedWaitOp e f (hedSync e s) = hedNext e u) : exec (.hedWait e f) s = .next (settle (hedNext e u)) := by
  rw [exec_hedWait, hedExec_executes h, hedWaitAt_next hop]

/-- The limit in the word of a WAIT (R316). -/
theorem waitLimitOf_zero {e : Nat} {f : BitVec 12} {s : State} (hat : hedAt s e 2 f = true) (h : hf f 9 4 = 0) :
    waitLimitOf s e = 0 := by
  simp only [hedAt, beq_iff_eq] at hat
  simp only [hf, Nat.sub_self, Nat.shiftRight_zero] at h
  simp only [waitLimitOf, hat]
  split <;> omega

/-- The stall of a WAIT: the engine shows STATE 2, or 3 after a STEP, and stays at its instruction. -/
theorem hedStall_id {e : Nat} {s : State} : let t := hedStall e id s
    hedPc t e = hedPc s e ∧ (hedSt t e).stall.isSome = true ∧ hedF t e = hedF s e ∧
      hedState t e = (if rb s (Reg.hedDbg e) 8 then 3 else 2) := by
  have hfits : ∀ b : Bool, (if b then 3 else 2) % 2 ^ 3 = if b then 3 else 2 := by decide
  have hid : when_ (hedSt s e).stall.isNone id s = s := by cases (hedSt s e).stall.isNone <;> rfl
  intro t
  simp only [t, hedStall, hid, setHedState]
  refine ⟨?_, ?_, ?_, ?_⟩
  · rw [hedPc, rf_setf_other (by decide) (.inl (by simp [Reg.hedExec, Reg.hedSts])), rf, modHed_rget, hedPc, rf]
  · simp
  · rw [hedF, rb_setf_other (by decide) (.inr (by omega)), rb, modHed_rget, hedF, rb]
  · rw [hedState, rf_setf_same (by decide), hfits, rb, modHed_rget, rb]

/-- A WAIT whose condition may hold or not, at its tick. -/
theorem hedWait_cases (e : Fin 64) (f : BitVec 12) (s : State) (h : HedExecutes e 2 f s) :
    (hf f 15 14 = 1 → rb s (Reg.hedSts e) 13 = true →
      ∃ t, exec (.hedWait e f) s = .next (settle t) ∧ HedFrame e (hedPc s e + 1) s t ∧ hedF t e = false ∧
        rb t (Reg.hedSts e) 13 = false) ∧
    (hf f 15 14 = 0 → hf f 12 10 < hedL s e → hedRead s e (hf f 12 10) = decide (hf f 13 13 = 1) →
      ∃ t, exec (.hedWait e f) s = .next (settle t) ∧ HedFrame e (hedPc s e + 1) s t ∧ hedF t e = false) ∧
    (hf f 15 14 = 1 → rb s (Reg.hedSts e) 13 = false → hf f 9 4 = 0 →
      ∃ t, exec (.hedWait e f) s = .next (settle t) ∧ hedPc t e = hedPc s e ∧ (hedSt t e).stall.isSome = true ∧
        hedF t e = hedF s e ∧ hedState t e = (if rb s (Reg.hedDbg e) 8 then 3 else 2)) ∧
    (hf f 15 14 = 2 →
      ∃ t, exec (.hedWait e f) s = .next (settle t) ∧ HedFrame e (hedPc s e + 1) s t ∧ (hedSt t e).occ = hf f 13 4 ∧
        hedF t e = hedF s e) := by
  have hsync : HedLeft e s (hedSync e s) := .sync
  refine ⟨fun hkind htrig => ?trigger, fun hkind hpin hlevel => ?pin, fun hkind htrig hlimit => ?stall, fun hkind => ?ticks⟩
  case trigger =>
    have hop : hedWaitOp e f (hedSync e s) = hedNext e (setHedF e false (setb (Reg.hedSts e) 13 false (hedSync e s))) := by
      simp [hedWaitOp, hkind, rb, hedSync_rget, show bit (rget s (Reg.hedSts e)) 13 = true from htrig]
    refine ⟨_, hedWait_completes h hop, (hsync.setb (by simp [Reg.hedSts, Reg.hedExec, Reg.hedDbg])).setHedF.next, by simp, ?_⟩
    rw [hedNext_rb_sts (by decide) (by decide), setHedF, rb_setb_other (by decide) (.inr (by decide)), rb_setb_same (by decide)]
  case pin =>
    have hop : hedWaitOp e f (hedSync e s) = hedNext e (setHedF e false (when_ (decide (0 < (hedSt (hedSync e s) e).stall.getD 0))
        (modHed e fun x => { x with edge := some (edgeOf (hedSync e s) e (hf f 12 10)) }) (hedSync e s))) := by
      simp [hedWaitOp, hkind, Nat.not_le.2 hpin, hlevel]
    exact ⟨_, hedWait_completes h hop, (HedLeft.when_ hsync.modHed hsync).setHedF.next, by simp⟩
  case stall =>
    have hop : hedWaitOp e f (hedSync e s) = hedStall e id (hedSync e s) := by
      simp [hedWaitOp, hkind, rb, hedSync_rget, show bit (rget s (Reg.hedSts e)) 13 = false from htrig]
    have hat : hedAt (hedSync e s) e 2 f = true := by
      obtain ⟨-, -, hat, -⟩ := h
      simpa only [hedAt, progWord, rf, hedSync_rget, hedSync_hedBank, hedSync_hedPc] using hat
    have hpast : waitPast (hedSync e s) e = false := by simp [waitPast, waitLimitOf_zero hat hlimit]
    obtain ⟨hpc, hstall, hF, hstate⟩ := hedStall_id (e := e) (s := hedSync e s)
    refine ⟨_, by rw [exec_hedWait, hedExec_executes h, hedWaitAt, hpast, hop]; rfl, by rw [hpc, hedSync_hedPc], hstall,
      by rw [hF, hedSync_hedF], by rw [hstate, rb, hedSync_rget, rb]⟩
  case ticks =>
    have hop : hedWaitOp e f (hedSync e s) = hedNext e (modHed e (fun x => { x with occ := hf f 13 4 }) (hedSync e s)) := by
      simp [hedWaitOp, hkind]
    refine ⟨_, hedWait_completes h hop, hsync.modHed.next, by simp [hedSt_hedNext], ?_⟩
    rw [hedF_hedNext, hedF, rb, modHed_rget, ← rb, ← hedF, hedSync_hedF]

theorem exec_waitLimit (e : Fin 64) (s : State) : exec (.waitLimit e) s = execWaitLimit e s := rfl

/-- A limit that has passed ends the WAIT; a pending trigger stays (R316). -/
theorem exec_waitLimit_past {e : Fin 64} {s : State} (htick : hedTickAt s e = s.time) (hmay : hedMayExec s e = true)
    (hword : hedBadWord s e = false) (hpast : waitPast (hedSync e s) e = true) (hfalse : waitFalse (hedSync e s) e = true) :
    exec (.waitLimit e) s = .next (settle (hedNext e (setHedF e true (hedSync e s)))) := by
  rw [exec_waitLimit, execWaitLimit, atTime_now (Nat.le_of_eq htick) (by simp [hmay, htick, hword, hpast, hfalse])]
  rfl

/-! ### PULL, PUSH, SET, MOV, CRC and STAMP -/

theorem exec_hedPull (e : Fin 64) (f : BitVec 12) (s : State) : exec (.hedPull e f) s = hedExec e 5 f (hedPullOp e f) s := rfl
theorem exec_hedPush (e : Fin 64) (f : BitVec 12) (s : State) : exec (.hedPush e f) s = hedExec e 6 f (hedPushOp e f) s := rfl
theorem exec_hedSet (e : Fin 64) (f : BitVec 12) (s : State) : exec (.hedSet e f) s = hedExec e 7 f (hedSetOp e f) s := rfl
theorem exec_hedMov (e : Fin 64) (f : BitVec 12) (s : State) : exec (.hedMov e f) s = hedExec e 8 f (hedMovOp e f) s := rfl
theorem exec_hedCrc (e : Fin 64) (f : BitVec 12) (s : State) : exec (.hedCrc e f) s = hedExec e 9 f (hedCrcOp e f) s := rfl
theorem exec_hedStamp (e : Fin 64) (f : BitVec 12) (s : State) : exec (.hedStamp e f) s = hedExec e 10 f (hedStampOp e f) s := rfl

/-- PULL takes the oldest word of the TX FIFO, or sets F and the flag of the underflow. -/
theorem hedPull_cases (e : Fin 64) (f : BitVec 12) (s : State) (h : HedExecutes e 5 f s) :
    (∀ w rest, (hedSt s e).tx = w :: rest →
      ∃ t, exec (.hedPull e f) s = .next (settle t) ∧ HedFrame e (hedPc s e + 1) s t ∧ rget t (Reg.hedTsr e) = w ∧
        tcnt t e = 32 ∧ hedF t e = false ∧ (hedSt t e).tx = rest) ∧
    ((hedSt s e).tx = [] → hf f 15 15 = 0 →
      ∃ t, exec (.hedPull e f) s = .next (settle t) ∧ HedFrame e (hedPc s e + 1) s t ∧ hedF t e = true ∧
        rb t (Reg.hedSts e) 0 = true ∧ rget t (Reg.hedTxufCnt e) = satInc (rget s (Reg.hedTxufCnt e))) := by
  have hsync : HedLeft e s (hedSync e s) := .sync
  refine ⟨fun w rest htx => ?_, fun htx hblock => ?_⟩
  · have htx' : (hedSt (hedSync e s) e).tx = w :: rest := hedSync_fifos.1.trans htx
    have hop : hedPullOp e f (hedSync e s) = hedNext e (setHedF e false (setf (Reg.hedShcnt e) 0 6 32
        (rset (Reg.hedTsr e) w (txPop e (hedSync e s))))) := by rw [hedPullOp, htx']
    refine ⟨_, by rw [exec_hedPull, hedExec_executes h, hop], (((txPop_left e.isLt hsync).rset
      (by simp [Reg.hedTsr, Reg.hedExec, Reg.hedDbg])).setf (by simp [Reg.hedShcnt, Reg.hedExec, Reg.hedDbg])).setHedF.next,
      ?_, ?_, by simp, ?_⟩
    · rw [hedNext_rget_other (by simp [Reg.hedTsr, Reg.hedExec]) (by simp [Reg.hedTsr, Reg.hedSts]), setHedF,
        rget_setb_other (by simp [Reg.hedTsr, Reg.hedSts]), rget_setf_other (by simp [Reg.hedTsr, Reg.hedShcnt]), rget_rset_same]
    · rw [hedNext_tcnt, tcnt, setHedF, rf_setb_other (by decide) (.inl (by simp [Reg.hedShcnt, Reg.hedSts])),
        rf_setf_same (by decide), Nat.mod_eq_of_lt (by decide)]
    · simp only [hedSt_hedNext, setHedF_hedSt, setf_hedSt, rset_hedSt, txPop_hedSt, htx', List.drop_one, List.tail_cons]
  · have htx' : (hedSt (hedSync e s) e).tx = [] := hedSync_fifos.1.trans htx
    have hop : hedPullOp e f (hedSync e s) = hedNext e (setHedF e true (fifoFlag e 0 (hedSync e s))) := by
      simp [hedPullOp, htx', hblock]
    obtain ⟨hflag, hcnt⟩ := fifoFlag_txuf (s := hedSync e s) e.isLt
    refine ⟨_, by rw [exec_hedPull, hedExec_executes h, hop], (fifoFlag_left e.isLt hsync).setHedF.next, by simp, ?_, ?_⟩
    · rw [hedNext_rb_sts (by decide) (by decide), setHedF, rb_setb_other (by decide) (.inr (by decide)), hflag]
    · rw [hedNext_rget_other (by simp [Reg.hedTxufCnt, Reg.hedExec]) (by simp [Reg.hedTxufCnt, Reg.hedSts]), setHedF,
        rget_setb_other (by simp [Reg.hedTxufCnt, Reg.hedSts]), hcnt, hedSync_rget]

/-- PUSH to an RX FIFO that is not full. -/
theorem hedPush_room (e : Fin 64) (f : BitVec 12) (s : State) (h : HedExecutes e 6 f s) (hroom : (hedSt s e).rx.length < 4) :
    ∃ t, exec (.hedPush e f) s = .next (settle t) ∧ HedFrame e (hedPc s e + 1) s t ∧
      (hedSt t e).rx = (hedSt s e).rx ++ [rget s (Reg.hedRsr e)] ∧ rget t (Reg.hedRsr e) = 0 ∧ rcnt t e = 0 ∧
      hedF t e = false := by
  have hroom' : (hedSt (hedSync e s) e).rx.length < 4 := by rwa [hedSync_fifos.2]
  have hop : hedPushOp e f (hedSync e s) = hedNext e (setHedF e false (setf (Reg.hedShcnt e) 8 6 0
      (rset (Reg.hedRsr e) 0 (rxPush e (rget s (Reg.hedRsr e)) (hedSync e s))))) := by
    rw [hedPushOp, if_pos hroom', hedSync_rget]
  refine ⟨_, by rw [exec_hedPush, hedExec_executes h, hop], (((rxPush_left e.isLt .sync).rset
    (by simp [Reg.hedRsr, Reg.hedExec, Reg.hedDbg])).setf (by simp [Reg.hedShcnt, Reg.hedExec, Reg.hedDbg])).setHedF.next,
    ?_, ?_, ?_, by simp⟩
  · simp only [hedSt_hedNext, setHedF_hedSt, setf_hedSt, rset_hedSt, rxPush_hedSt, hedSync_fifos.2]
  · rw [hedNext_rget_other (by simp [Reg.hedRsr, Reg.hedExec]) (by simp [Reg.hedRsr, Reg.hedSts]), setHedF,
      rget_setb_other (by simp [Reg.hedRsr, Reg.hedSts]), rget_setf_other (by simp [Reg.hedRsr, Reg.hedShcnt]), rget_rset_same]
  · rw [hedNext_rcnt, rcnt, setHedF, rf_setb_other (by decide) (.inl (by simp [Reg.hedShcnt, Reg.hedSts])),
      rf_setf_same (by decide), Nat.zero_mod]

/-- An instruction that writes one register, not of the control of the engine, before it completes. -/
theorem regInstruction {e : Fin 64} {op a : Nat} {f : BitVec 12} {effect : State → State} {v : Word} {s : State}
    (h : HedExecutes e op f s) (ha : a ≠ Reg.hedExec e ∧ a ≠ Reg.hedDbg e) (hsts : a ≠ Reg.hedSts e)
    (hop : effect (hedSync e s) = hedNext e (rset a v (hedSync e s))) :
    ∃ t, hedExec e op f effect s = .next (settle t) ∧ HedFrame e (hedPc s e + 1) s t ∧ rget t a = v ∧
      ∀ r, r ≠ a → r ≠ Reg.hedExec e → r ≠ Reg.hedSts e → rget t r = rget s r := by
  refine ⟨_, by rw [hedExec_executes h, hop], (HedLeft.sync.rset ha).next, ?_, fun r hr hexec hrsts => ?_⟩
  · rw [hedNext_rget_other ha.1 hsts, rget_rset_same]
  · rw [hedNext_rget_other hexec hrsts, rget_rset_other hr, hedSync_rget]

/-- What MOV takes from V, by its operation (R316). -/
theorem hedMovOp_V_to_K {e : Nat} {f : BitVec 12} {s : State} (hdst : hf f 15 13 = 0) (hsrc : hf f 12 10 = 1) :
    hedMovOp e f s = hedNext e (rset (Reg.hedK e) (match hf f 9 8 with
      | 0 => rget s (Reg.hedV e)
      | 1 => ~~~rget s (Reg.hedV e)
      | 2 => revBytes (rget s (Reg.hedV e))
      | _ => revBits (rget s (Reg.hedV e))) s) := by
  simp only [hedMovOp, hdst, hsrc] <;> rfl

/-- MOV of the time to RSR empties its count. -/
theorem hedMov_time (e : Fin 64) (f : BitVec 12) (s : State) (h : HedExecutes e 8 f s) (hdst : hf f 15 13 = 2)
    (hsrc : hf f 12 10 = 6) (hplain : hf f 9 8 = 0) :
    ∃ t, exec (.hedMov e f) s = .next (settle t) ∧ HedFrame e (hedPc s e + 1) s t ∧ rget t (Reg.hedRsr e) = wd s.time ∧
      rcnt t e = 0 := by
  have hop : hedMovOp e f (hedSync e s) = hedNext e (setf (Reg.hedShcnt e) 8 6 0 (rset (Reg.hedRsr e) (wd s.time) (hedSync e s))) := by
    simp only [hedMovOp, hdst, hsrc, hplain, hedSync_time]
  refine ⟨_, by rw [exec_hedMov, hedExec_executes h, hop], ((HedLeft.sync.rset (by simp [Reg.hedRsr, Reg.hedExec, Reg.hedDbg])).setf
    (by simp [Reg.hedShcnt, Reg.hedExec, Reg.hedDbg])).next, ?_, ?_⟩
  · rw [hedNext_rget_other (by simp [Reg.hedRsr, Reg.hedExec]) (by simp [Reg.hedRsr, Reg.hedSts]),
      rget_setf_other (by simp [Reg.hedRsr, Reg.hedShcnt]), rget_rset_same]
  · rw [hedNext_rcnt, rcnt, rf_setf_same (by decide), Nat.zero_mod]

/-- STAMP of the present time to V. -/
theorem hedStamp_now (e : Fin 64) (f : BitVec 12) (s : State) (h : HedExecutes e 10 f s) (hnow : hf f 15 15 = 0)
    (hdst : hf f 13 13 = 1) :
    ∃ t, exec (.hedStamp e f) s = .next (settle t) ∧ HedFrame e (hedPc s e + 1) s t ∧ rget t (Reg.hedV e) = wd (32 * s.time) ∧
      hedF t e = false := by
  have hop : hedStampOp e f (hedSync e s) = hedNext e (setHedF e false (rset (Reg.hedV e) (wd (32 * s.time)) (hedSync e s))) := by
    simp only [hedStampOp, hnow, hdst, if_true, hedSync_time]
  refine ⟨_, by rw [exec_hedStamp, hedExec_executes h, hop],
    (HedLeft.sync.rset (by simp [Reg.hedV, Reg.hedExec, Reg.hedDbg])).setHedF.next, ?_, by simp⟩
  rw [hedNext_rget_other (by simp [Reg.hedV, Reg.hedExec]) (by simp [Reg.hedV, Reg.hedSts]), setHedF,
    rget_setb_other (by simp [Reg.hedV, Reg.hedSts]), rget_rset_same]

/-! ### Start and swap -/

/-- On its way from `s` to `t` engine e has kept its bank, the state of its swap, its fault, and what a forced swap has noted. -/
structure SwapKept (e : Nat) (s t : State) : Prop where
  bank : hedBank t e = hedBank s e
  waits : rb t (Reg.hedSts e) 12 = rb s (Reg.hedSts e) 12
  noted : ∀ a ∈ [Reg.hedFault e, Reg.hedShiftK e, Reg.hedForcedCnt e], rget t a = rget s a
  swapAt : (hedSt t e).swapAt = (hedSt s e).swapAt

theorem SwapKept.refl (e : Nat) (s : State) : SwapKept e s s := ⟨rfl, rfl, fun _ _ => rfl, rfl⟩

theorem SwapKept.trans {e : Nat} {s t u : State} (h : SwapKept e s t) (k : SwapKept e t u) : SwapKept e s u :=
  ⟨k.bank.trans h.bank, k.waits.trans h.waits, fun a ha => (k.noted a ha).trans (h.noted a ha), k.swapAt.trans h.swapAt⟩

/-- The registers that `SwapKept` speaks of. -/
def swapRegs (e : Nat) : List Nat := [Reg.hedExec e, Reg.hedSts e, Reg.hedFault e, Reg.hedShiftK e, Reg.hedForcedCnt e]

theorem SwapKept.of_regs {e : Nat} {s t u : State} (h : SwapKept e s t) (hregs : ∀ a ∈ swapRegs e, rget u a = rget t a)
    (hhed : (hedSt u e).swapAt = (hedSt t e).swapAt) : SwapKept e s u := by
  refine h.trans ⟨?_, ?_, fun a ha => hregs a (List.mem_cons_of_mem _ (List.mem_cons_of_mem _ ha)), hhed⟩
  · rw [hedBank, rf, hregs _ (by simp [swapRegs]), hedBank, rf]
  · rw [rb, hregs _ (by simp [swapRegs]), rb]

theorem SwapKept.writeReg {e a : Nat} {v : Word} {s t : State} (ha : a ∉ swapRegs e) (h : SwapKept e s t) : SwapKept e s (rset a v t) :=
  h.of_regs (fun _ hb => rget_rset_other fun heq => ha (heq ▸ hb)) rfl

theorem SwapKept.writeField {e a lo n x : Nat} {s t : State} (ha : a ∉ swapRegs e) (h : SwapKept e s t) :
    SwapKept e s (setf a lo n x t) := h.writeReg ha

theorem SwapKept.writeBit {e a i : Nat} {b : Bool} {s t : State} (ha : a ∉ swapRegs e) (h : SwapKept e s t) :
    SwapKept e s (setb a i b t) :=
  h.of_regs (fun _ hb => rget_setb_other fun heq => ha (heq ▸ hb)) (by simp [hedSt])

theorem SwapKept.writeSts {e i : Nat} {b : Bool} {s t : State} (hi : 12 ≠ i) (h : SwapKept e s t) :
    SwapKept e s (setb (Reg.hedSts e) i b t) := by
  refine h.trans ⟨?_, rb_setb_other (by decide) (.inr hi), fun a ha => rget_setb_other ?_, by simp [hedSt]⟩
  · rw [hedBank, rf_setb_other (by decide) (.inl (by simp [Reg.hedExec, Reg.hedSts])), hedBank]
  · rintro rfl
    simp [Reg.hedFault, Reg.hedShiftK, Reg.hedForcedCnt, Reg.hedSts] at ha

theorem SwapKept.writeState {e x : Nat} {s t : State} (h : SwapKept e s t) : SwapKept e s (setHedState e x t) := by
  refine h.trans ⟨?_, rb_setf_other (by decide) (.inr (by decide)), fun a ha => rget_setf_other ?_, rfl⟩
  · rw [hedBank, setHedState, rf_setf_other (by decide) (.inl (by simp [Reg.hedExec, Reg.hedSts])), hedBank]
  · rintro rfl
    simp [Reg.hedFault, Reg.hedShiftK, Reg.hedForcedCnt, Reg.hedSts] at ha

/-- The PC is written; the bank beside it stays. -/
theorem SwapKept.writePc {e x : Nat} {s t : State} (h : SwapKept e s t) : SwapKept e s (setf (Reg.hedExec e) 0 5 x t) := by
  refine h.trans ⟨rf_setf_other (by decide) (.inr (by decide)), ?_, fun a ha => rget_setf_other ?_, rfl⟩
  · rw [rb_setf_other (by decide) (.inl (by simp [Reg.hedExec, Reg.hedSts]))]
  · rintro rfl
    simp [Reg.hedFault, Reg.hedShiftK, Reg.hedForcedCnt, Reg.hedExec] at ha

theorem SwapKept.change {e : Nat} {f : HedSt → HedSt} {s t : State} (h : SwapKept e s t)
    (hf : ∀ x, (f x).swapAt = x.swapAt := by intro x; rfl) : SwapKept e s (modHed e f t) :=
  h.of_regs (fun _ _ => rfl) (by rw [modHed_hedSt_same, hf])

theorem SwapKept.when_ {e : Nat} {c : Bool} {f : State → State} {s t : State} (h : SwapKept e s t)
    (hf : ∀ u, SwapKept e s u → SwapKept e s (f u)) : SwapKept e s (when_ c f t) := by
  cases c
  · exact h
  · exact hf t h

theorem SwapKept.foldl {α : Type} {e : Nat} {f : State → α → State} {l : List α} {s t : State}
    (hf : ∀ u x, x ∈ l → SwapKept e u (f u x)) (h : SwapKept e s t) : SwapKept e s (l.foldl f t) := by
  induction l generalizing t with
  | nil => exact h
  | cons x l ih => exact ih (fun u y hy => hf u y (List.mem_cons_of_mem _ hy)) (h.trans (hf t x List.mem_cons_self))

theorem clearRegs_kept {e : Nat} {s : State} : SwapKept e s (clearRegs e s) := by
  have hzero : ∀ (u : State) (a : Nat), a ∈ [Reg.hedK e, Reg.hedV e, Reg.hedTsr e, Reg.hedRsr e] → SwapKept e u (zero a u) :=
    fun u a ha => (SwapKept.refl e u).writeReg (by
      simp only [List.mem_cons, List.not_mem_nil, or_false] at ha
      rcases ha with rfl | rfl | rfl | rfl <;>
        simp [swapRegs, Reg.hedK, Reg.hedV, Reg.hedTsr, Reg.hedRsr, Reg.hedExec, Reg.hedSts, Reg.hedFault, Reg.hedShiftK,
          Reg.hedForcedCnt])
  have hshcnt : Reg.hedShcnt e ∉ swapRegs e := by
    simp [swapRegs, Reg.hedShcnt, Reg.hedExec, Reg.hedSts, Reg.hedFault, Reg.hedShiftK, Reg.hedForcedCnt]
  have hcrc : Reg.hedCrcval e ∉ swapRegs e := by
    simp [swapRegs, Reg.hedCrcval, Reg.hedExec, Reg.hedSts, Reg.hedFault, Reg.hedShiftK, Reg.hedForcedCnt]
  have hflag : SwapKept e s (setHedF e false s) := (SwapKept.refl e s).writeSts (i := 14) (by decide)
  unfold clearRegs restartDivider
  exact .change (.writePc (.writeReg hcrc (.writeField hshcnt (.writeField hshcnt (.foldl hzero hflag)))))

theorem setPins_kept {e at_ lat dir : Nat} {s t : State} (h : SwapKept e s t) : SwapKept e s (setPins e at_ lat dir t) := by
  have hshcnt : Reg.hedShcnt e ∉ swapRegs e := by
    simp [swapRegs, Reg.hedShcnt, Reg.hedExec, Reg.hedSts, Reg.hedFault, Reg.hedShiftK, Reg.hedForcedCnt]
  unfold setPins
  exact .change ((h.writeField hshcnt).writeField hshcnt)

theorem hedEnablePins_kept {e : Nat} {s t : State} (h : SwapKept e s t) : SwapKept e s (hedEnablePins e t) := by
  refine .foldl (fun u i _ => ?_) h
  have hpin : ∀ n, SwapKept e u (endHandover n u) := fun n => by
    unfold endHandover
    split
    · exact (SwapKept.refl e u).of_regs (fun _ _ => rfl) rfl
    · exact .refl e u
  dsimp only
  split
  · exact hpin _
  · exact .refl e u

theorem haltSoon_kept {e : Nat} {s t : State} (h : SwapKept e s t) : SwapKept e s (haltSoon e t) :=
  h.of_regs (fun _ _ => rfl) rfl

theorem hedStartOp_kept {e : Nat} {s : State} : SwapKept e s (hedStartOp e s) := by
  have hctl : Reg.hedCtl e ∉ swapRegs e := by
    simp [swapRegs, Reg.hedCtl, Reg.hedExec, Reg.hedSts, Reg.hedFault, Reg.hedShiftK, Reg.hedForcedCnt]
  have hrefl := SwapKept.refl e s
  unfold hedStartOp
  split
  · exact .writeBit hctl (.writeSts (by decide) hrefl)
  · have hcleared := SwapKept.trans (SwapKept.writeBit (i := 0) (b := true) hctl
      (SwapKept.writeSts (i := 16) (b := false) (by decide) hrefl)) clearRegs_kept
    have hstarted := hcleared.writeSts (i := 13) (b := false) (by decide)
    exact .when_ (.writeState (hedEnablePins_kept (.change (setPins_kept hstarted)))) fun _ => haltSoon_kept

/-- The swap of a stopped engine (R328): the other bank is in force, and the swap is no longer pending. -/
theorem swapStopped_spec (e : Nat) (s : State) : let t := swapStopped e s
    hedBank t e = 1 - hedBank s e ∧ rb t (Reg.hedSts e) 12 = false ∧ (hedSt t e).swapAt = none ∧
      rget t (Reg.hedFault e) = rget s (Reg.hedFault e) := by
  intro t
  have hbank : hedBank s e < 2 := rf_lt
  have hexec : Reg.hedExec e ≠ Reg.hedSts e := by simp [Reg.hedExec, Reg.hedSts]
  have hfault : Reg.hedFault e ≠ Reg.hedSts e ∧ Reg.hedFault e ≠ Reg.hedExec e := by simp [Reg.hedFault, Reg.hedSts, Reg.hedExec]
  generalize hu : modHed e (fun x => { x with swapAt := none, staged := false }) (setHedState e 0
    (setb (Reg.hedSts e) 12 false (setf (Reg.hedExec e) 8 1 (1 - hedBank s e) s))) = u
  have hkept : SwapKept e u t := by
    simp only [t, swapStopped, hu]
    split
    · exact hedStartOp_kept
    · exact .refl e u
  rw [hkept.bank, hkept.waits, hkept.swapAt, hkept.noted _ (by simp), ← hu]
  refine ⟨?_, ?_, by rw [modHed_hedSt_same], ?_⟩
  · rw [hedBank, rf, modHed_rget, setHedState, rget_setf_other hexec, rget_setb_other hexec, ← rf, rf_setf_same (by decide)]
    omega
  · rw [rb, modHed_rget, ← rb, setHedState, rb_setf_other (by decide) (.inr (by decide)), rb_setb_same (by decide)]
  · rw [modHed_rget, setHedState, rget_setf_other hfault.1, rget_setb_other hfault.1, rget_setf_other hfault.2]

/-! ### Faults (R326) -/

/-- The fault of an engine as it is noted, before a swap that waits is taken. -/
def hedFaulted (e code : Nat) (s : State) : State :=
  let f := setFld (setFld (wd code) 8 5 (hedPc s e)) 16 1 (hedBank s e)
  let u := setHedState e 4 (setb (Reg.hedCtl e) 0 false (rset (Reg.hedFault e) f s))
  let u := setb (Reg.hedDbg e) 8 false (modHed e (fun x => { x with stall := none, occ := 0, step := false }) u)
  logCause 0x0801 3 e f 0 (hedAlarm e u)

theorem hedFault_eq (e code : Nat) (s : State) : hedFault e code s = afterStop e (hedFaulted e code s) := rfl

/-- A fault notes its code and the PC, and stops the engine. -/
theorem hedFaulted_spec {e : Nat} {s : State} (he : e < 64) : let t := hedFaulted e 1 s
    hedState t e = 4 ∧ rb t (Reg.hedCtl e) 0 = false ∧ rb t (Reg.hedSts e) 12 = rb s (Reg.hedSts e) 12 ∧
      hedBank t e = hedBank s e ∧ rf t (Reg.hedFault e) 0 8 = 1 ∧ rf t (Reg.hedFault e) 8 5 = hedPc s e ∧
      running t = running s := by
  intro t
  generalize hu : setHedState e 4 (setb (Reg.hedCtl e) 0 false (rset (Reg.hedFault e)
    (setFld (setFld (wd 1) 8 5 (hedPc s e)) 16 1 (hedBank s e)) s)) = u
  have hleft : ∀ a, a < 0x14000 ∨ 0x160000 ≤ a ∧ a < 0x170000 → a ≠ Reg.hedDbg e → rget t a = rget u a := fun a ha hdbg => by
    simp only [t, hedFaulted, hu, hedAlarm]
    rw [logCause_rget (by omega), raise_rget_of_range (by omega), rget_setb_other hdbg, modHed_rget]
  have hpc : hedPc s e < 32 := rf_lt
  have hsts : rget t (Reg.hedSts e) = rget u (Reg.hedSts e) :=
    hleft _ (by simp only [Reg.hedSts]; omega) (by simp [Reg.hedSts, Reg.hedDbg])
  have hctl : rget t (Reg.hedCtl e) = rget u (Reg.hedCtl e) :=
    hleft _ (by simp only [Reg.hedCtl]; omega) (by simp [Reg.hedCtl, Reg.hedDbg])
  have hexec : rget t (Reg.hedExec e) = rget u (Reg.hedExec e) :=
    hleft _ (by simp only [Reg.hedExec]; omega) (by simp [Reg.hedExec, Reg.hedDbg])
  have hfault : rget t (Reg.hedFault e) = rget u (Reg.hedFault e) :=
    hleft _ (by simp only [Reg.hedFault]; omega) (by simp [Reg.hedFault, Reg.hedDbg])
  have hmode : rget t Reg.gctlMode = rget u Reg.gctlMode :=
    hleft _ (by simp only [Reg.gctlMode]; omega) (by simp only [Reg.gctlMode, Reg.hedDbg]; omega)
  have hword : rget u (Reg.hedFault e) = setFld (setFld (wd 1) 8 5 (hedPc s e)) 16 1 (hedBank s e) := by
    rw [← hu, setHedState, rget_setf_other (by simp [Reg.hedFault, Reg.hedSts]), rget_setb_other (by simp [Reg.hedFault, Reg.hedCtl]),
      rget_rset_same]
  refine ⟨?_, ?_, ?_, ?_, ?_, ?_, ?_⟩
  · rw [hedState, rf, hsts, ← hu, ← rf, setHedState, rf_setf_same (by decide), Nat.mod_eq_of_lt (by decide)]
  · rw [rb, hctl, ← hu, ← rb, setHedState, rb_setf_other (by decide) (.inl (by simp [Reg.hedCtl, Reg.hedSts])),
      rb_setb_same (by decide)]
  · rw [rb, hsts, ← hu, ← rb, setHedState, rb_setf_other (by decide) (.inr (by decide)),
      rb_setb_other (by decide) (.inl (by simp [Reg.hedSts, Reg.hedCtl])), rb_rset_other (by simp [Reg.hedSts, Reg.hedFault])]
  · rw [hedBank, rf, hexec, ← hu, setHedState, rget_setf_other (by simp [Reg.hedExec, Reg.hedSts]),
      rget_setb_other (by simp [Reg.hedExec, Reg.hedCtl]), rget_rset_other (by simp [Reg.hedExec, Reg.hedFault]), ← rf, ← hedBank]
  · rw [rf, hfault, hword, fld_setFld_other (by decide) (by decide), fld_setFld_other (by decide) (by decide)]
    decide
  · rw [rf, hfault, hword, fld_setFld_other (by decide) (by decide), fld_setFld_same (by decide)]
    exact Nat.mod_eq_of_lt hpc
  · have hlow : rget u Reg.gctlMode = rget s Reg.gctlMode := by
      rw [← hu, setHedState, rget_setf_other (by simp only [Reg.gctlMode, Reg.hedSts]; omega),
        rget_setb_other (by simp only [Reg.gctlMode, Reg.hedCtl]; omega),
        rget_rset_other (by simp only [Reg.gctlMode, Reg.hedFault]; omega)]
    exact running_congr (hmode.trans hlow)

theorem exec_hedInvalidOpcode (e : Fin 64) (s : State) : exec (.hedInvalidOpcode e) s = execHedInvalidOpcode e s := rfl

/-- An opcode without an instruction is the fault of code 1, after which a swap that waits is taken. -/
theorem hedInvalidOpcode_faults (e : Fin 64) (s : State) (htick : hedTickAt s e = s.time) (hmay : hedMayExec s e = true)
    (hop : hedNoOpcode s e = true) (hword : hedBadWord s e = false) :
    ∃ t, exec (.hedInvalidOpcode e) s = .next (settle t) ∧
      (rb s (Reg.hedSts e) 12 = false → hedState t e = 4 ∧ rb t (Reg.hedCtl e) 0 = false) ∧
      (rb s (Reg.hedSts e) 12 = true → hedBank t e = 1 - hedBank s e) ∧
      rf t (Reg.hedFault e) 0 8 = 1 ∧ rf t (Reg.hedFault e) 8 5 = hedPc s e := by
  obtain ⟨hstate, hctl, hwaits, hbank, hcode, hpc, hrun⟩ := hedFaulted_spec (s := hedSync e s) e.isLt
  have hrunning : running s = true := by
    simp only [hedMayExec, Bool.and_eq_true] at hmay
    exact hmay.1.1
  have hsync : running (hedSync e s) = running s := running_congr hedSync_rget
  replace hwaits := hwaits.trans (by rw [rb, hedSync_rget, ← rb] : _ = rb s (Reg.hedSts e) 12)
  refine ⟨hedFault e 1 (hedSync e s), ?_, ?_⟩
  · rw [exec_hedInvalidOpcode, execHedInvalidOpcode, atTime_now (Nat.le_of_eq htick) (by simp [hmay, hop, htick]), hedAttempt, hword]
    rfl
  · cases hpend : rb s (Reg.hedSts e) 12
    · have hstop : hedFault e 1 (hedSync e s) = hedFaulted e 1 (hedSync e s) := by
        rw [hedFault_eq, afterStop, hwaits, hpend, Bool.and_false]
        rfl
      rw [hstop, hpc, hedSync_hedPc]
      exact ⟨fun _ => ⟨hstate, hctl⟩, by simp, hcode, rfl⟩
    · have hstop : hedFault e 1 (hedSync e s) = swapStopped e (hedFaulted e 1 (hedSync e s)) := by
        rw [hedFault_eq, afterStop, hwaits, hpend, hrun, hsync, hrunning]
        rfl
      obtain ⟨hnew, -, -, hfault⟩ := swapStopped_spec e (hedFaulted e 1 (hedSync e s))
      rw [hstop, hnew, hbank, hedSync_hedBank, rf, rf, hfault, ← rf, ← rf, hcode, hpc, hedSync_hedPc]
      exact ⟨by simp, fun _ => rfl, rfl, rfl⟩

/-- Settles O48: each instruction writes its registers and its FIFO and completes, a WAIT stalls or is ended by its limit, and
an opcode without an instruction faults. -/
theorem heddleInstructions : Obligations.HeddleInstructions := by
  unfold Obligations.HeddleInstructions
  refine ⟨fun e f s h => (hedWait_cases e f s h).1, fun e f s h => (hedWait_cases e f s h).2.1,
    fun e f s h => (hedWait_cases e f s h).2.2.1, fun e f s h => (hedWait_cases e f s h).2.2.2,
    fun e s htick hmay hword hpast hfalse => ?limit, fun e f w rest s h => (hedPull_cases e f s h).1 w rest,
    fun e f s h => (hedPull_cases e f s h).2, fun e f s h => hedPush_room e f s h, fun e f s h hdst => ?setK,
    fun e f s h hdst => ?setV, ?mov, fun e f s h hdst hsrc hop => hedMov_time e f s h hdst hsrc hop, ?crc,
    fun e f s h hnow hdst => hedStamp_now e f s h hnow hdst, hedInvalidOpcode_faults⟩
  case limit =>
    refine ⟨_, exec_waitLimit_past htick hmay hword hpast hfalse, HedLeft.sync.setHedF.next, by simp, ?_⟩
    rw [hedNext_rb_sts (by decide) (by decide), setHedF, rb_setb_other (by decide) (.inr (by decide)), rb, hedSync_rget, rb]
  case setK =>
    obtain ⟨t, hexec, hframe, hk, hother⟩ := regInstruction (a := Reg.hedK e) (v := wd (hf f 13 4)) (effect := hedSetOp e f) h
      (by simp [Reg.hedK, Reg.hedExec, Reg.hedDbg]) (by simp [Reg.hedK, Reg.hedSts]) (by simp [hedSetOp, hdst])
    exact ⟨t, by rw [exec_hedSet, hexec], hframe, hk,
      hother _ (by simp [Reg.hedV, Reg.hedK]) (by simp [Reg.hedV, Reg.hedExec]) (by simp [Reg.hedV, Reg.hedSts])⟩
  case setV =>
    obtain ⟨t, hexec, hframe, hv, hother⟩ := regInstruction (a := Reg.hedV e) (v := wd (hf f 13 4)) (effect := hedSetOp e f) h
      (by simp [Reg.hedV, Reg.hedExec, Reg.hedDbg]) (by simp [Reg.hedV, Reg.hedSts]) (by simp [hedSetOp, hdst])
    exact ⟨t, by rw [exec_hedSet, hexec], hframe, hv,
      hother _ (by simp [Reg.hedK, Reg.hedV]) (by simp [Reg.hedK, Reg.hedExec]) (by simp [Reg.hedK, Reg.hedSts])⟩
  case mov =>
    intro e f s v h hdst hsrc
    obtain ⟨t, hexec, hframe, hk, hother⟩ := regInstruction (a := Reg.hedK e) h
      (by simp [Reg.hedK, Reg.hedExec, Reg.hedDbg]) (by simp [Reg.hedK, Reg.hedSts]) (hedMovOp_V_to_K hdst hsrc)
    rw [hedSync_rget] at hk
    exact ⟨t, by rw [exec_hedMov, hexec], hframe, hk,
      hother _ (by simp [Reg.hedV, Reg.hedK]) (by simp [Reg.hedV, Reg.hedExec]) (by simp [Reg.hedV, Reg.hedSts])⟩
  case crc =>
    intro e f s w h hsrc hinit
    have hop : hedCrcOp e f (hedSync e s) = hedNext e (rset (Reg.hedCrcval e) (wd (hedCrcFeed w (fld (hdr s e 2) 0 16 % 2 ^ w)
        (hf f 13 9 + 1) (fld (hdr s e 2) 16 16 % 2 ^ w) (rget s (Reg.hedK e)).toNat)) (hedSync e s)) := by
      simp only [hedCrcOp, hsrc, hinit, if_true, crcWidth, hedSync_hdr, hedSync_rget, w]
    obtain ⟨t, hexec, hframe, hcrc, hother⟩ := regInstruction (a := Reg.hedCrcval e) h
      (by simp [Reg.hedCrcval, Reg.hedExec, Reg.hedDbg]) (by simp [Reg.hedCrcval, Reg.hedSts]) hop
    exact ⟨t, by rw [exec_hedCrc, hexec], hframe, hcrc,
      hother _ (by simp [Reg.hedK, Reg.hedCrcval]) (by simp [Reg.hedK, Reg.hedExec]) (by simp [Reg.hedK, Reg.hedSts])⟩

end Sys2Proof.Machine
end

section
/-!
PROOFS. Triggers and swaps of the heddle engines (09_heddle_engines.md R321, R328, R329).
-/

namespace Sys2Proof.Machine

/-- A raise that has come to its cycle has a cycle, which has come. -/
theorem wireAt_of_due {d : Dest} {s : State} (h : wireDue d s = true) : ∃ n, wireAt s d = some n ∧ n ≤ s.time := by
  simp only [wireDue, List.any_eq_true, Bool.and_eq_true, decide_eq_true_eq] at h
  obtain ⟨w, hw, hdst, hat⟩ := h
  have hmem : w.at_ ∈ (s.ev.wires.filter fun w => w.dst == d).map fun w => w.at_ :=
    List.mem_map_of_mem (List.mem_filter.2 ⟨hw, hdst⟩)
  cases hmin : wireAt s d with
  | none => exact absurd hmem (by rw [List.min?_eq_none_iff.1 hmin]; exact List.not_mem_nil)
  | some n => exact ⟨n, rfl, Nat.le_trans ((List.le_min?_iff hmin).1 (Nat.le_refl n) _ hmem) hat⟩

/-- The swap of a running engine: the other bank is in force, from its start, and the swap is no longer pending. -/
theorem swapBank_spec (e : Nat) (s : State) : let t := swapBank e s
    hedBank t e = 1 - hedBank s e ∧ rb t (Reg.hedSts e) 12 = false ∧ (hedSt t e).swapAt = none ∧
      ∀ a ∈ [Reg.hedFault e, Reg.hedShiftK e, Reg.hedForcedCnt e], rget t a = rget s a := by
  intro t
  have hbank : hedBank s e < 2 := rf_lt
  have hexec : Reg.hedExec e ≠ Reg.hedSts e := by simp [Reg.hedExec, Reg.hedSts]
  have hclear : SwapKept e (setf (Reg.hedExec e) 8 1 (1 - hedBank s e) s)
    (clearRegs e (setf (Reg.hedExec e) 8 1 (1 - hedBank s e) s)) := clearRegs_kept
  refine ⟨?_, ?_, by simp only [t, swapBank, modHed_hedSt_same], fun a ha => ?_⟩
  · simp only [t, swapBank]
    rw [hedBank, rf, modHed_rget, rget_setb_other hexec, ← rf, ← hedBank, hclear.bank, hedBank, rf_setf_same (by decide)]
    omega
  · simp only [t, swapBank]
    rw [rb, modHed_rget, ← rb, rb_setb_same (by decide)]
  · have hne : a ≠ Reg.hedSts e ∧ a ≠ Reg.hedExec e := by
      simp only [List.mem_cons, List.not_mem_nil, or_false] at ha
      rcases ha with rfl | rfl | rfl <;> simp [Reg.hedFault, Reg.hedShiftK, Reg.hedForcedCnt, Reg.hedSts, Reg.hedExec]
    simp only [t, swapBank]
    rw [modHed_rget, rget_setb_other hne.1, hclear.noted a ha, rget_setf_other hne.2]

/-- A stop of an engine without a pending swap. -/
theorem hedStopOp_kept {e : Nat} {s : State} (h : rb s (Reg.hedSts e) 12 = false) : SwapKept e s (hedStopOp e s) := by
  have hctl : Reg.hedCtl e ∉ swapRegs e := by
    simp [swapRegs, Reg.hedCtl, Reg.hedExec, Reg.hedSts, Reg.hedFault, Reg.hedShiftK, Reg.hedForcedCnt]
  have hdbg : Reg.hedDbg e ∉ swapRegs e := by
    simp [swapRegs, Reg.hedDbg, Reg.hedExec, Reg.hedSts, Reg.hedFault, Reg.hedShiftK, Reg.hedForcedCnt]
  have hstop := SwapKept.change (f := fun x => { x with stall := none, occ := 0, step := false })
    (.writeBit (i := 8) (b := false) hdbg (.writeState (x := 0) (.writeBit (i := 0) (b := false) hctl (.refl e s))))
  rw [hedStopOp, afterStop, hstop.waits, h, Bool.and_false]
  exact hstop

/-- After the new bank is in force the engine goes on, or stops as the new draft says. -/
theorem swapEnds {e : Nat} {s : State} (h : rb s (Reg.hedSts e) 12 = false) :
    SwapKept e s (if (hedSt s e).swapEn then setHedState e 1 s else hedStopOp e s) := by
  split
  · exact (SwapKept.refl e s).writeState
  · exact hedStopOp_kept h

theorem swapClean_spec (e : Nat) (s : State) : let t := swapClean e s
    hedBank t e = 1 - hedBank s e ∧ rb t (Reg.hedSts e) 12 = false ∧ (hedSt t e).swapAt = none := by
  obtain ⟨hbank, hwaits, hat, -⟩ := swapBank_spec e s
  have hends := swapEnds hwaits
  exact ⟨hends.bank.trans hbank, hends.waits.trans hwaits, hends.swapAt.trans hat⟩

/-- A forced swap notes where it has broken off (R329). -/
def shiftNoted (e : Nat) (s : State) : State :=
  let d := setFld (setFld (setFld (setFld (setFld 0 0 5 (hedPc s e)) 5 1 (hedBank s e)) 8 6 (tcnt s e)) 16 6 (rcnt s e)) 24 3
    (hedSt s e).tx.length
  let s := rset (Reg.hedShiftDbg e) (setBit d 31 true) s
  rset (Reg.hedShiftV e) (rget s (Reg.hedV e)) (rset (Reg.hedShiftK e) (rget s (Reg.hedK e))
    (rset (Reg.hedShiftRsr e) (rget s (Reg.hedRsr e)) (rset (Reg.hedShiftTsr e) (rget s (Reg.hedTsr e)) s)))

/-- It empties the TX FIFO, is counted and reported. -/
def forcedNoted (e : Nat) (s : State) : State :=
  let s := hedAlarm e (count (Reg.hedForcedCnt e) (txClear e (shiftNoted e s)))
  logCause 0x0802 2 e (rget s (Reg.hedShiftDbg e)) (rget s (Reg.hedShiftK e)) s

theorem swapForced_eq (e : Nat) (s : State) : swapForced e s =
    let t := swapBank e (forcedNoted e s)
    if (hedSt t e).swapEn then setHedState e 1 t else hedStopOp e t := rfl

theorem forcedNoted_spec {e : Nat} (he : e < 64) (s : State) : let t := forcedNoted e s
    hedBank t e = hedBank s e ∧ rget t (Reg.hedShiftK e) = rget s (Reg.hedK e) ∧
      rget t (Reg.hedForcedCnt e) = satInc (rget s (Reg.hedForcedCnt e)) := by
  intro t
  have hlog : ∀ a, 0x160000 ≤ a → a < 0x170000 → rget t a = rget (count (Reg.hedForcedCnt e) (txClear e (shiftNoted e s))) a :=
    fun a hlow hhigh => by
      simp only [t, forcedNoted, hedAlarm]
      rw [logCause_rget (by omega), raise_rget_of_range (by omega)]
  have hclear : ∀ u a, 0x160000 ≤ a → a < 0x170000 → a ≠ Reg.hedFifo e → rget (txClear e u) a = rget u a :=
    fun u a hlow hhigh hne => by
      simp only [txClear, hedData]
      rw [rget_when_of_eq (raise_rget_of_range (by omega)), fifoSts, rget_rset_other hne, modHed_rget]
  refine ⟨?_, ?_, ?_⟩
  · rw [hedBank, rf, hlog _ (by simp only [Reg.hedExec]; omega) (by simp only [Reg.hedExec]; omega),
      rget_count_other (by simp [Reg.hedExec, Reg.hedForcedCnt]),
      hclear _ _ (by simp only [Reg.hedExec]; omega) (by simp only [Reg.hedExec]; omega) (by simp [Reg.hedExec, Reg.hedFifo])]
    simp only [shiftNoted]
    rw [rget_rset_other (by simp [Reg.hedExec, Reg.hedShiftV]), rget_rset_other (by simp [Reg.hedExec, Reg.hedShiftK]),
      rget_rset_other (by simp [Reg.hedExec, Reg.hedShiftRsr]), rget_rset_other (by simp [Reg.hedExec, Reg.hedShiftTsr]),
      rget_rset_other (by simp [Reg.hedExec, Reg.hedShiftDbg]), ← rf, ← hedBank]
  · rw [hlog _ (by simp only [Reg.hedShiftK]; omega) (by simp only [Reg.hedShiftK]; omega),
      rget_count_other (by simp [Reg.hedShiftK, Reg.hedForcedCnt]),
      hclear _ _ (by simp only [Reg.hedShiftK]; omega) (by simp only [Reg.hedShiftK]; omega) (by simp [Reg.hedShiftK, Reg.hedFifo])]
    simp only [shiftNoted]
    rw [rget_rset_other (by simp [Reg.hedShiftK, Reg.hedShiftV]), rget_rset_same, rget_rset_other (by simp [Reg.hedK, Reg.hedShiftDbg])]
  · rw [hlog _ (by simp only [Reg.hedForcedCnt]; omega) (by simp only [Reg.hedForcedCnt]; omega), rget_count_same,
      hclear _ _ (by simp only [Reg.hedForcedCnt]; omega) (by simp only [Reg.hedForcedCnt]; omega)
        (by simp [Reg.hedForcedCnt, Reg.hedFifo])]
    simp only [shiftNoted]
    rw [rget_rset_other (by simp [Reg.hedForcedCnt, Reg.hedShiftV]), rget_rset_other (by simp [Reg.hedForcedCnt, Reg.hedShiftK]),
      rget_rset_other (by simp [Reg.hedForcedCnt, Reg.hedShiftRsr]), rget_rset_other (by simp [Reg.hedForcedCnt, Reg.hedShiftTsr]),
      rget_rset_other (by simp [Reg.hedForcedCnt, Reg.hedShiftDbg])]

theorem swapForced_spec {e : Nat} (he : e < 64) (s : State) : let t := swapForced e s
    hedBank t e = 1 - hedBank s e ∧ rb t (Reg.hedSts e) 12 = false ∧
      rget t (Reg.hedForcedCnt e) = satInc (rget s (Reg.hedForcedCnt e)) ∧ rget t (Reg.hedShiftK e) = rget s (Reg.hedK e) := by
  obtain ⟨hnoted, hk, hcnt⟩ := forcedNoted_spec he s
  obtain ⟨hbank, hwaits, -, hregs⟩ := swapBank_spec e (forcedNoted e s)
  have hends := swapEnds hwaits
  rw [swapForced_eq]
  exact ⟨by rw [hends.bank, hbank, hnoted], hends.waits.trans hwaits,
    by rw [hends.noted _ (by simp), hregs _ (by simp), hcnt], by rw [hends.noted _ (by simp), hregs _ (by simp), hk]⟩

theorem exec_hedTriggerPending (e : Fin 64) (s : State) : exec (.hedTriggerPending e) s = execHedTriggerPending e s := rfl
theorem exec_cleanSwap (e : Fin 64) (s : State) : exec (.cleanSwap e) s = execCleanSwap e s := rfl
theorem exec_forcedSwap (e : Fin 64) (s : State) : exec (.forcedSwap e) s = execForcedSwap e s := rfl

/-- Settles O49: a trigger that has come sets its bit, and a swap, clean or forced, puts the other bank in force. -/
theorem heddleEvents : Obligations.HeddleEvents := by
  unfold Obligations.HeddleEvents
  refine ⟨fun e s hlive hdue hen q => ?_, fun e s hrun hwaits hhalt hnow hpoint => ?_,
    fun e c s hrun hwaits hhalt hclean hat hc => ?_⟩
  · obtain ⟨n, hn, hle⟩ := wireAt_of_due hdue
    have hother : ∀ a, a ≠ Reg.hedSts e → rget (hedTriggerOp e s) a = rget s a := fun a ha => rget_setb_other ha
    have hquiet : Quiet (hedTriggerOp e s) :=
      q.of_eq (by simp [hedTriggerOp, takeWires]) (hother _ (by simp only [Reg.chgSts, Reg.hedSts]; omega))
    refine ⟨_, ?_, rb_setb_same (by decide), by simp [takeWires], hother⟩
    rw [exec_hedTriggerPending, execHedTriggerPending, atOpt_now hn hle (by simp [hlive, hdue, hen]), settle_quiet hquiet]
    rfl
  · have hdue : cleanSwapDue s e = true := by
      simp only [cleanSwapDue, hrun, hwaits, hhalt]
      rcases hpoint with hstop | hpoint
      · simp [hstop]
      · cases hstop : hedStopped s e
        · simp [hpoint, ← hnow, cleanSwapAt, hstop]
        · rfl
    have hexec : exec (.cleanSwap e) s = .next (settle (cleanSwapOp e s)) := by
      rw [exec_cleanSwap, execCleanSwap, atTime_now (Nat.le_of_eq hnow) hdue]
    refine ⟨_, hexec, ?_⟩
    unfold cleanSwapOp
    split
    · obtain ⟨hbank, hsts, hat, -⟩ := swapStopped_spec e s
      exact ⟨hbank, hsts, hat⟩
    · exact swapClean_spec e s
  · have hdue : forcedSwapDue s e = true := by simp [forcedSwapDue, hrun, hwaits, hhalt, hat, hc]
    exact ⟨_, by rw [exec_forcedSwap, execForcedSwap, atOpt_now hat hc (by simp [hdue, hclean])], swapForced_spec e.isLt s⟩

end Sys2Proof.Machine
end

section
/-!
PROOFS. Changes of the mode (13_modes_clocks_power.md R418 to R426), and the resets and the boot (R430 to R434, 17_tackler.md R567).
-/

namespace Sys2Proof.Machine

/-! ### Changes of the mode -/

/-- `t` comes from `s` by a change of the mode, a raise and the skips of frames (R291): the position interfaces and the levels that
channels show may change with the mode, nothing else but what a raise does. -/
structure ModeFrame (s t : State) : Prop where
  fields : t = { s with ev := t.ev, regs := t.regs, shed := t.shed, timed := t.timed, cyc := t.cyc, ch := t.ch, pos := t.pos }
  regs : ∀ a, ¬ RaiseReg a → a ≠ Reg.gctlMode → a < 0x150000 ∨ 0x151000 ≤ a → rget t a = rget s a

theorem ModeFrame.refl (s : State) : ModeFrame s s := ⟨rfl, fun _ _ _ _ => rfl⟩

theorem ModeFrame.trans {s t u : State} (h : ModeFrame s t) (k : ModeFrame t u) : ModeFrame s u :=
  ⟨by rw [k.fields, h.fields], fun a hr hm hp => (k.regs a hr hm hp).trans (h.regs a hr hm hp)⟩

theorem modeReport_frame (m : Nat) (s : State) : ModeFrame s (modeReport m s) := by
  unfold modeReport
  split
  · exact .refl s
  · have hset : ModeFrame s (when_ (safeMode m != safeMode (mode s)) (noteSafe 64) (setf Reg.gctlMode 0 4 m s)) := by
      cases safeMode m != safeMode (mode s) <;> exact ⟨rfl, fun _ _ hm _ => rget_setf_other hm⟩
    exact hset.trans ⟨by rw [(raise_frame _ _).1], fun _ hr _ _ => raise_rget hr⟩

/-- Frames that are abandoned touch the position interfaces alone. -/
structure SkipFrame (s t : State) : Prop where
  fields : t = { s with regs := t.regs, cyc := t.cyc, pos := t.pos }
  regs : ∀ a, a < 0x150000 ∨ 0x151000 ≤ a → rget t a = rget s a

theorem SkipFrame.refl (s : State) : SkipFrame s s := ⟨rfl, fun _ _ => rfl⟩

theorem SkipFrame.trans {s t u : State} (h : SkipFrame s t) (k : SkipFrame t u) : SkipFrame s u :=
  ⟨by rw [k.fields, h.fields], fun a hp => (k.regs a hp).trans (h.regs a hp)⟩

theorem SkipFrame.modeFrame {s t : State} (h : SkipFrame s t) : ModeFrame s t :=
  ⟨by rw [h.fields], fun a _ _ hp => h.regs a hp⟩

theorem posSkip_frame {i : Nat} (hi : i < 16) {s t : State} (h : SkipFrame s t) : SkipFrame s (posSkip i t) := by
  refine h.trans ⟨by simp only [posSkip, count, noteCount, setb]; rfl, fun a hp => ?_⟩
  rw [posSkip, rget_count_other (by simp only [Reg.posSkipCnt]; omega), rget_setb_other (by simp only [Reg.posSts]; omega)]

/-- Frames of pins that show SAFE are abandoned. -/
theorem abandonFrames_frame (s : State) : SkipFrame s (abandonFrames s) := by
  have hstep : ∀ (l : List Nat) (u : State), (∀ i ∈ l, i < 16) → SkipFrame u (forEach l (fun i s =>
      match (posSt s i).frame, posPin s i 1 with
      | some _, some n =>
        if showsSafe s n then
          posSkip i (setb (Reg.posSts i) 21 false (modPos i (fun x => { x with
            frame := none, words := x.words.filter fun t => some t != x.frame }) s))
        else s
      | _, _ => s) u) := by
    intro l
    induction l with
    | nil => exact fun u _ => .refl u
    | cons i l ih =>
      intro u hl
      refine SkipFrame.trans ?_ (ih _ fun j hj => hl j (List.mem_cons_of_mem _ hj))
      have hi := hl i List.mem_cons_self
      dsimp only
      split
      · split
        · refine posSkip_frame hi ⟨rfl, fun a hp => ?_⟩
          rw [rget_setb_other (by simp only [Reg.posSts]; omega)]
          rfl
        · exact .refl u
      · exact .refl u
  exact hstep _ s (by simp [upto])

theorem unreleaseAll_frame (s : State) : ModeFrame s (unreleaseAll s) := ⟨rfl, fun _ _ _ _ => rfl⟩

theorem unreleaseAll_rget {a : Nat} {s : State} : rget (unreleaseAll s) a = rget s a := rfl

theorem setMode_frame (m : Nat) (s : State) : ModeFrame s (setMode m s) := by
  unfold setMode
  split
  · exact .refl s
  · dsimp only
    split
    · exact (modeReport_frame m s).trans ((unreleaseAll_frame _).trans (abandonFrames_frame _).modeFrame)
    · exact modeReport_frame m s

theorem mode_modeReport {m : Nat} {s : State} (h : m < 16) : mode (modeReport m s) = m := by
  unfold modeReport
  split
  · assumption
  · rw [mode, rf, raise_rget_of_range (.inl (by decide)), rget_when_of_eq rfl, ← rf, rf_setf_same (by decide)]
    exact Nat.mod_eq_of_lt h

/-- A change of the mode puts the device in it. -/
theorem mode_setMode {m : Nat} {s : State} (h : m < 16) : mode (setMode m s) = m := by
  unfold setMode
  split
  · assumption
  · dsimp only
    split
    · rw [mode_congr ((abandonFrames_frame _).regs _ (.inl (by decide))), mode_congr unreleaseAll_rget]
      exact mode_modeReport h
    · exact mode_modeReport h

section
variable {m : Nat} {s : State}

@[simp] theorem setMode_mem : (setMode m s).mem = s.mem := by rw [(setMode_frame m s).fields]
@[simp] theorem setMode_tack : (setMode m s).tack = s.tack := by rw [(setMode_frame m s).fields]
@[simp] theorem setMode_tap : (setMode m s).tap = s.tap := by rw [(setMode_frame m s).fields]

end

/-! ### Resets -/

/-- A register after a reset, the cause and the debug register apart. -/
theorem deviceReset_rget {cause a : Nat} {s : State} (hcause : a ≠ Reg.pwrRstcause) (hdbg : a ≠ Reg.tackDbgctl) :
    rget (deviceReset cause s) a = resetWord a := by
  rw [deviceReset, rget_rset_other hcause, rget_setb_other hdbg]
  rfl

@[simp] theorem mode_deviceReset {cause : Nat} {s : State} : mode (deviceReset cause s) = 0 := by
  rw [mode, rf, deviceReset_rget (by decide) (by decide)]
  decide

theorem deviceReset_rstcause {cause : Nat} {s : State} : rget (deviceReset cause s) Reg.pwrRstcause =
    if cause = 0 then 1#32 else setBit (rget s Reg.pwrRstcause) cause true := rget_rset_same

@[simp] theorem deviceReset_mem {cause : Nat} {s : State} : (deviceReset cause s).mem = s.mem := by simp [deviceReset]
@[simp] theorem deviceReset_fuse {cause : Nat} {s : State} : (deviceReset cause s).fuse = s.fuse := by simp [deviceReset]
@[simp] theorem deviceReset_flash {cause : Nat} {s : State} : (deviceReset cause s).flash.bytes = s.flash.bytes := by
  simp [deviceReset]
@[simp] theorem deviceReset_pending {cause : Nat} {s : State} : (deviceReset cause s).pending = s.pending := by
  simp [deviceReset]

theorem deviceReset_dbgOpen {cause : Nat} {s : State} : dbgOpen (deviceReset cause s) = !s.fuse.secure := by
  rw [dbgOpen, deviceReset, rb_rset_other (by decide), rb_setb_same (by decide)]

/-! ### The boot -/

theorem exec_firmwareSelection (s : State) : exec .firmwareSelection s = execFirmwareSelection s := rfl
theorem exec_selfTestEnd (bad : List (Fin 52)) (logicOk : Bool) (s : State) :
    exec (.selfTestEnd bad logicOk) s = execSelfTestEnd bad logicOk s := rfl

/-- The release of reset begins BOOT with the choice of the host port. -/
theorem releaseOp_spec (hostSel : Bool) (high : BitVec 8) (s : State) : let t := releaseOp hostSel high s
    mode t = 1 ∧ rb t Reg.hostSts 0 = hostSel ∧ t.tap.rstLow = false := by
  have hraise : ¬ RaiseReg Reg.hostSts := fun h => not_logReg (.inr (.inr (.inr ⟨by decide, by decide⟩))) (.inl h)
  refine ⟨mode_setMode (by decide), ?_, by simp [releaseOp]⟩
  rw [releaseOp, rb, (setMode_frame _ _).regs _ hraise (by decide) (by decide), ← rb, rb_setb_same (by decide)]

/-- The state of the clocks changes to one without the low three bits of the old. -/
theorem clkChange_frame (m bits : Nat) (s : State) : (clkChange m bits s).time = s.time ∧ (clkChange m bits s).mem = s.mem ∧
    rget (clkChange m bits s) Reg.pwrClksts = wd bits := by
  unfold clkChange
  split
  · exact ⟨rfl, rfl, rget_rset_same⟩
  · dsimp only
    refine ⟨by simp, by simp, ?_⟩
    rw [logCause_rget (by decide), raise_rget_of_range (by decide), rget_setb_other (by decide), rget_rset_same]

theorem logResume_rget {a : Nat} {s : State} (h : a ≠ Reg.tackLogSeq ∧ a ≠ Reg.tackLogFlseq) : rget (logResume s) a = rget s a := by
  unfold logResume
  dsimp only
  split
  · rfl
  · rw [rget_rset_other h.1, rget_rset_other h.2]
    rfl

@[simp] theorem logResume_tack {s : State} : (logResume s).tack = s.tack := by
  unfold logResume
  dsimp only
  split <;> rfl

@[simp] theorem logCause_tack {cls sev inst : Nat} {d0 d1 : Word} {s : State} : (logCause cls sev inst d0 d1 s).tack = s.tack := by
  rw [(logCause_frame ..).1]

/-- What flash discovery finds stands in FLASH and in BOOTSTS. -/
theorem discoveryOp_spec (code : Fin 7) (density dummy : BitVec 8) (s : State) : let t := discoveryOp code density dummy s
    t.tack.boot = 2 ∧ rb t Reg.tackFlash 0 = decide (code ≠ 0) ∧ rf t Reg.tackFlash 1 3 = code ∧
      rb t Reg.pwrBootsts 3 = decide (code ≠ 0) := by
  intro t
  have hcode : code.val < 8 := Nat.lt_trans code.isLt (by decide)
  have hne : decide (code.val ≠ 0) = decide (code ≠ 0) := decide_eq_decide.2 (not_congr ⟨fun h => Fin.ext h, congrArg Fin.val⟩)
  have hflash : ¬ LogReg Reg.tackFlash := by
    simp [LogReg, RaiseReg, Reg.tackFlash, Reg.selLevOut, Reg.shedMergeCnt, Reg.shedExpMergeCnt, Reg.tackSts, Reg.tackLogSeq,
      Reg.tackLogLostCnt]
  have hlog : ∀ c w u a, ¬ LogReg a → rget (when_ c (logCause 0x0F07 3 0 0 w) u) a = rget u a :=
    fun c w u a ha => rget_when_of_eq ((logCause_frame ..).2 a ha)
  have hword : rget t Reg.tackFlash = setFld (setFld (setFld (wd (b2n (decide (code.val ≠ 0)))) 1 3 code) 8 8 density.toNat) 16 8
      dummy.toNat := by
    simp only [t, discoveryOp]
    rw [hlog _ _ _ _ hflash, logResume_rget (by decide), setBoot, modTack_rget, rget_setb_other (by decide), rget_rset_same]
  refine ⟨?_, ?_, ?_, ?_⟩
  · simp only [t, discoveryOp]
    rw [when_of_eq (fun u : State => u.tack) logCause_tack, logResume_tack]
    rfl
  · rw [rb, hword, bit_setFld (by decide), bit_setFld (by decide), bit_setFld (by decide), ← hne]
    cases decide (code.val ≠ 0) <;> rfl
  · rw [rf, hword, fld_setFld_other (by decide) (by decide), fld_setFld_other (by decide) (by decide), fld_setFld_same (by decide)]
    exact Nat.mod_eq_of_lt hcode
  · simp only [t, discoveryOp]
    rw [rb, hlog _ _ _ _ (not_logReg (by decide)), logResume_rget (by decide), setBoot, modTack_rget, ← rb, rb_setb_same (by decide), hne]

theorem logDrain_tack {s : State} : (logDrain s).tack = s.tack := by
  have hwrite : ∀ r u, (logWrite r u).tack = u.tack := fun r u => by rw [(logWrite_frame r u).1]
  rw [logDrain]
  dsimp only
  rw [when_of_eq (fun u : State => u.tack) (hwrite _ _), forEach_of_eq (fun u : State => u.tack) hwrite]

theorem readRepairs_boot {s : State} : (readRepairs s).tack.boot = s.tack.boot := by
  unfold readRepairs
  split
  · rfl
  · exact (congrArg TackSt.boot (forEach_of_eq (fun u : State => u.tack) (fun g u => by simp) _ _)).trans rfl

theorem firmwareOp_spec (i : Nat) (s : State) : mode (firmwareOp i s) = 2 ∧ (firmwareOp i s).tack.boot = 3 := by
  refine ⟨?_, ?_⟩
  · have hstore : ∀ (u : State) (x : StoreSt), mode { u with store := x } = mode u := fun _ _ => rfl
    rw [firmwareOp, hstore, mode_setMode (by decide)]
  · simp only [firmwareOp, setMode_tack, readRepairs_boot, logDrain_tack]
    rfl

/-- A self test without a bad bank changes no bank. -/
theorem bootBank_good (bank : Nat) (p : Bool × State) : bootBank [] bank p = p := by simp [bootBank]

theorem selfTestOp_good (s : State) : selfTestOp [] true s = setMode 1 (setBoot 4 (marched s)) := by
  have hbanks : ∀ (l : List Nat) (p : Bool × State), l.foldl (fun p b => bootBank [] b p) p = p := by
    intro l
    induction l with
    | nil => exact fun _ => rfl
    | cons b l ih => exact fun p => by rw [List.foldl_cons, bootBank_good, ih]
  have hspares : ∀ (l : List Nat) (u : State),
      forEach l (fun g => when_ (([] : List Nat).contains (48 + g)) (setb (Reg.storeSpare g) 30 true)) u = u := by
    intro l
    induction l with
    | nil => exact fun _ => rfl
    | cons g l ih => exact fun u => ih u
  have hwords : (upto 0 4).map (fun g => rget (marched s) (Reg.storeSpare g)) = (upto 0 4).map fun g => rget s (Reg.storeSpare g) := rfl
  simp only [selfTestOp, hbanks, hspares, hwords, beq_self_eq_true, if_true, Bool.not_true, Bool.or_self, Bool.false_eq_true, if_false]

theorem selfTestOp_bad (bad : List Nat) (s : State) : let t := selfTestOp bad false s
    mode t = 9 ∧ rb t Reg.shedCtl 0 = false := by
  have hshed : ¬ RaiseReg Reg.shedCtl := by
    simp [RaiseReg, Reg.shedCtl, Reg.selLevOut, Reg.shedMergeCnt, Reg.shedExpMergeCnt]
  have hlog : ¬ LogReg Reg.shedCtl := by
    rw [LogReg, or_iff_right hshed]
    decide
  simp only [selfTestOp, Bool.not_false, Bool.or_true, if_true]
  refine ⟨mode_setMode (by decide), ?_⟩
  rw [rb, (setMode_frame _ _).regs _ hshed (by decide) (by decide), bootRecord, (logCause_frame ..).2 _ hlog, ← rb,
    rb_setb_same (by decide)]

/-- Settles O53: a reset leaves the reset values, each step of the boot notes what it has found and sets the next, and a failed
self test or a boot without a draft changes to MAINTENANCE. -/
theorem resetsAndBoot : Obligations.ResetsAndBoot := by
  unfold Obligations.ResetsAndBoot
  refine ⟨?_, ?_, ?_, ?_, ?_, ?_, ?_, ?_, ?_, ?_, ?_, ?_, ?_, ?_⟩
  · intro s t
    exact ⟨nowIf_true rfl, mode_deviceReset, deviceReset_mem, deviceReset_fuse, deviceReset_flash, deviceReset_rstcause⟩
  · intro s t
    exact ⟨nowIf_true rfl, mode_deviceReset (cause := 1), deviceReset_mem (cause := 1), deviceReset_rstcause (cause := 1), rfl⟩
  · intro s t
    exact ⟨nowIf_true rfl, mode_deviceReset, deviceReset_mem, deviceReset_fuse, deviceReset_flash, deviceReset_rstcause⟩
  · intro s t hlock hpower
    exact ⟨nowIf_true (by simp [hlock, hpower]), mode_deviceReset, deviceReset_mem, deviceReset_fuse, deviceReset_flash,
      deviceReset_rstcause⟩
  · intro n s t hn hle
    exact ⟨atOpt_now hn hle (by simp [hn]), mode_deviceReset, deviceReset_rstcause⟩
  · intro n s t hn hle
    exact ⟨atOpt_now hn hle (by simp [hn]), mode_deviceReset, deviceReset_rstcause⟩
  · exact fun cause a s hcause hdbg => ⟨deviceReset_rget hcause hdbg, deviceReset_pending, deviceReset_dbgOpen⟩
  · intro hostSel high s t hmode
    exact ⟨nowIf_true (by simp [hmode]), releaseOp_spec hostSel high s⟩
  · intro s t hboot
    obtain ⟨htime, -, hclk⟩ := clkChange_frame 1 5 { s with time := 0 }
    exact ⟨nowIf_true hboot, rfl, htime, hclk⟩
  · intro code density dummy s t hboot
    exact ⟨nowIf_true hboot, discoveryOp_spec code density dummy s⟩
  · intro i s t hsel hboot
    refine ⟨?_, (firmwareOp_spec i s).1, (firmwareOp_spec i s).2, List.find?_some hsel⟩
    rw [exec_firmwareSelection, execFirmwareSelection, hsel]
    exact nowIf_true hboot
  · intro s hsel
    have hnone : ∀ i ∈ [0, 1], fwPasses s i ≠ true := fun i hi => by
      refine List.find?_eq_none.1 hsel i ?_
      cases hold : superseded s i <;> simp [hi, hold]
    refine ⟨by rw [exec_firmwareSelection, execFirmwareSelection, hsel], ?_, ?_⟩
    · simpa using hnone 0 (by simp)
    · simpa using hnone 1 (by simp)
  · intro bad logicOk s t hmode hat
    refine ⟨?_, ?_, ?_⟩
    · rw [exec_selfTestEnd, execSelfTestEnd, atTime_now hat (by simp [hmode])]
    · rintro rfl
      exact selfTestOp_bad _ s
    · rintro rfl rfl
      have hgood : t = setMode 1 (setBoot 4 (marched s)) := selfTestOp_good s
      rw [hgood]
      exact ⟨mode_setMode (by decide), by simp [setBoot, modTack], by rw [setMode_mem]; rfl⟩
  · intro u s t hboot
    refine ⟨nowIf_true hboot, fun hnone => ?_⟩
    simp only [t, bootDraftOp, hnone, bootApply]
    exact mode_setMode (by decide)

end Sys2Proof.Machine
end

section
/-!
PROOFS. Clock substitution, power levels and supplies (13_modes_clocks_power.md R435 to R446).
-/

namespace Sys2Proof.Machine

theorem rb_wd {s : State} {a i n : Nat} (hi : i < 32) (h : rget s a = wd n) : rb s a i = n.testBit i := by
  rw [rb, h, bit, wd, BitVec.getLsbD_ofNat]
  simp [hi]

/-! ### The reference -/

theorem exec_restoreOk (s : State) : exec .restoreOk s = execRestoreOk s := rfl

/-- Of three bits, the lost reference clears the first and the substitution sets the second. -/
theorem refBits_lost : ∀ b < 8, (b.testBit 1 = true → (b / 2 * 2).testBit 0 = false ∧ (b / 2 * 2).testBit 1 = true) ∧
    (b / 4 * 4 + 2).testBit 0 = false ∧ (b / 4 * 4 + 2).testBit 1 = true ∧ (b / 4 * 4 + 2).testBit 3 = false := by decide

theorem refLost_spec (s : State) : let t := refLost false s
    rb t Reg.pwrClksts 0 = false ∧ rb t Reg.pwrClksts 1 = true ∧ rb t Reg.pwrClksts 3 = false ∧ t.mem = s.mem := by
  obtain ⟨hsub, hlow, hset, hok⟩ := refBits_lost (rf s Reg.pwrClksts 0 3) rf_lt
  unfold refLost
  dsimp only
  split
  · rename_i hbit
    obtain ⟨-, hmem, hword⟩ := clkChange_frame 0 (rf s Reg.pwrClksts 0 3 / 2 * 2) s
    obtain ⟨hclear, hkept⟩ := hsub hbit
    exact ⟨by rw [rb_setb_other (by decide) (by decide), rb_wd (by decide) hword, hclear],
      by rw [rb_setb_other (by decide) (by decide), rb_wd (by decide) hword, hkept], rb_setb_same (by decide), by simpa using hmem⟩
  · obtain ⟨-, hmem, hword⟩ := clkChange_frame 0 (rf s Reg.pwrClksts 0 3 / 4 * 4 + 2) s
    exact ⟨(rb_wd (by decide) hword).trans hlow, (rb_wd (by decide) hword).trans hset, (rb_wd (by decide) hword).trans hok, hmem⟩

/-- Adding one to an even number sets its lowest bit alone. -/
theorem refBits_return : ∀ b < 16, b.testBit 0 = false → (b + 1).testBit 0 = true ∧ (b + 1).testBit 1 = b.testBit 1 := by decide

theorem rf_testBit {s : State} {a n i : Nat} (hi : i < n) (hn : i < 32) : (rf s a 0 n).testBit i = rb s a i := by
  rw [rf, fld_testBit, rb, bit]
  simp [hi, hn, bit]

theorem refReturnOp_spec (s : State) (h : rb s Reg.pwrClksts 0 = false) : let t := refReturnOp s
    rb t Reg.pwrClksts 0 = true ∧ rb t Reg.pwrClksts 1 = rb s Reg.pwrClksts 1 := by
  have hlow : (rf s Reg.pwrClksts 0 4).testBit 0 = false := by rw [rf_testBit (by decide) (by decide), h]
  obtain ⟨hset, hkept⟩ := refBits_return _ rf_lt hlow
  obtain ⟨-, -, hword⟩ := clkChange_frame 0 (rf s Reg.pwrClksts 0 4 + 1) s
  exact ⟨(rb_wd (by decide) hword).trans hset,
    ((rb_wd (by decide) hword).trans hkept).trans (rf_testBit (by decide) (by decide))⟩

/-! ### Power levels -/

theorem exec_slumberEntry (s : State) : exec .slumberEntry s = execSlumberEntry s := rfl
theorem exec_bankSleep (b : Fin 48) (s : State) : exec (.bankSleep b) s = execBankSleep b s := rfl

/-- `t` comes from `s` by the account of the time at a power level, a change of the level and a raise. -/
structure PowerFrame (s t : State) : Prop where
  mode : mode t = mode s
  fields : t = { s with ev := t.ev, regs := t.regs, shed := t.shed, timed := t.timed, cyc := t.cyc, pwr := t.pwr }

theorem PowerFrame.trans {s t u : State} (h : PowerFrame s t) (k : PowerFrame t u) : PowerFrame s u :=
  ⟨k.mode.trans h.mode, by rw [k.fields, h.fields]⟩

theorem resCount_frame {a k rest : Nat} (ha : a ≠ Reg.gctlMode) (s : State) : PowerFrame s (resCount a k rest s) := by
  unfold resCount
  cases decide (0 < k ∧ rest = 0) <;> exact ⟨mode_congr (rget_rset_other ha.symm), rfl⟩

theorem resSync_frame (s : State) : PowerFrame s (resSync s) := by
  have hpwr : ∀ (u : State) (x : PwrSt), PowerFrame u { u with pwr := x } := fun _ _ => ⟨rfl, rfl⟩
  unfold resSync
  dsimp only
  split
  · exact (hpwr _ _).trans ((hpwr _ _).trans (resCount_frame (by decide) _))
  · exact (hpwr _ _).trans ((hpwr _ _).trans (resCount_frame (by decide) _))
  · exact hpwr _ _

theorem setPower_frame (p : Nat) (s : State) : PowerFrame s (setPower p s) := by
  unfold setPower
  dsimp only
  split
  · exact resSync_frame s
  · refine (resSync_frame s).trans ?_
    refine PowerFrame.trans (t := setf Reg.gctlMode 4 2 p (resSync s)) ⟨rf_setf_other (by decide) (by decide), rfl⟩ ?_
    generalize setf Reg.gctlMode 4 2 p (resSync s) = u
    refine PowerFrame.trans (t := when_ (decide (p = 2 ∨ power (resSync s) = 2)) (noteSafe 64) u) ?_ ?_
    · cases decide (p = 2 ∨ power (resSync s) = 2) <;> exact ⟨rfl, rfl⟩
    · exact ⟨mode_congr (raise_rget_of_range (by decide)), by rw [(raise_frame _ _).1]⟩

theorem power_setPower {p : Nat} {s : State} (h : p < 4) : power (setPower p s) = p := by
  unfold setPower
  dsimp only
  split
  · assumption
  · rw [power, rf, raise_rget_of_range (by decide), rget_when_of_eq rfl, ← rf, rf_setf_same (by decide)]
    exact Nat.mod_eq_of_lt h

/-! ### SLUMBER -/

/-- Registers below those of the window monitors stay when the comparators take their modes. -/
theorem cmpModesSet_rget {a : Nat} {s : State} (h : a < 0x170000) : rget (cmpModesSet s) a = rget s a := by
  refine forEach_of_eq (fun u : State => rget u a) (fun c u => ?_) _ s
  have hcmp : a ≠ cmpReg c := by
    unfold cmpReg
    split
    · simp only [Reg.winCmpl]; omega
    · simp only [Reg.winCmph]; omega
  have hsts : a ≠ Reg.winSts (c / 2) := by simp only [Reg.winSts]; omega
  unfold cmpModeSet
  dsimp only
  split
  · rfl
  · refine (rget_when_of_eq ?_).trans (rget_setf_other hcmp)
    simp only [cmpHold, winLevels]
    rw [rget_setb_other hsts, rget_setb_other hsts, rget_setb_other hsts]
    rfl

theorem cmpModesSet_log {s : State} : (cmpModesSet s).log = s.log := by
  refine forEach_of_eq (fun u : State => u.log) (fun c u => ?_) _ s
  unfold cmpModeSet
  dsimp only
  split
  · rfl
  · refine when_of_eq (fun v : State => v.log) ?_
    simp [cmpHold, winLevels, modCmp]

theorem when_syncTicks_rget {c : Bool} {e j a : Nat} {s : State} : rget (when_ c (syncTicks e j) s) a = rget s a :=
  rget_when_of_eq rfl

theorem hedSleep_rget {a : Nat} {s : State} : rget (hedSleep s) a = rget s a :=
  forEach_of_eq (fun u : State => rget u a) (fun _ _ => when_syncTicks_rget) _ s

theorem holdAt_rget {a t : Nat} {p : Int} {s : State} : rget (holdAt t p s) a = rget s a := rfl

theorem enterSlumber_mode {s : State} : rget (enterSlumber s) Reg.gctlMode = rget (setPower 2 (forEach (upto 0 4) (fun t s =>
    when_ (decide (trdState s t ≠ 0)) (fun s => modTrd t (fun x => { x with cold := 2 }) (holdAt t (phi s t s.time) s)) s) s))
      Reg.gctlMode := by
  simp only [enterSlumber]
  rw [rget_setb_other (by decide), cmpModesSet_rget (by decide), (abandonFrames_frame _).regs _ (by decide), unreleaseAll_rget,
    hedSleep_rget]

theorem enterSlumber_spec (s : State) : power (enterSlumber s) = 2 ∧ mode (enterSlumber s) = mode s := by
  refine ⟨(power_congr enterSlumber_mode).trans (power_setPower (by decide)), ?_⟩
  rw [mode_congr enterSlumber_mode, (setPower_frame _ _).mode]
  exact mode_congr (forEach_of_eq (fun u : State => rget u Reg.gctlMode)
    (fun t u => rget_when_of_eq (by rw [modTrd_rget, holdAt_rget])) _ s)

/-- SLUMBER is entered from IDLE alone (R442). -/
theorem mode_of_slumberOk {s : State} (h : slumberOk s = true) : mode s = 3 := by
  refine Decidable.byContradiction fun hmode => ?_
  have hblock : (mode s != 3 || rb s Reg.gctlState 5 || decide (2 ≤ stageState s)) = true := by simp [hmode]
  have hone : b2n true = 1 := rfl
  simp only [slumberOk, slumberBlock, hblock, beq_iff_eq] at h
  omega

/-! ### The wake -/

theorem haltSoon_when_rget {c : Bool} {e a : Nat} {s : State} : rget (when_ c (haltSoon e) s) a = rget s a := rget_when_of_eq rfl

theorem hedWake_rget {a : Nat} {s : State} : rget (hedWake s) a = rget s a := by
  refine forEach_of_eq (fun u : State => rget u a) (fun e u => rget_when_of_eq ?_) _ s
  dsimp only
  rw [haltSoon_when_rget, modHed_rget]

theorem redeliver_rget {j a : Nat} {s : State} : rget (redeliver j s) a = rget s a := rget_when_of_eq rfl

theorem logDrain_rget {a : Nat} {s : State} (h : ¬ LogReg a) : rget (logDrain s) a = rget s a := by
  have hwrite : ∀ r u, rget (logWrite r u) a = rget u a := fun _ _ => logWrite_rget h
  rw [logDrain]
  dsimp only
  rw [rget_when_of_eq (hwrite _ _), forEach_of_eq (fun u : State => rget u a) hwrite]
  rfl

/-- The processor has taken the queue of the log. -/
theorem logDrain_log {s : State} : (logDrain s).log.queue = [] ∧ (logDrain s).log.waking = s.log.waking := by
  have hwrite : ∀ r u, ((logWrite r u).log.queue, (logWrite r u).log.waking) = (u.log.queue, u.log.waking) := fun r u => by
    simp only [logWrite]
    rw [when_of_eq (fun v : State => v.log) raise_log, rset_log]
    simp only [when_of_eq (fun v : State => v.log) count_log]
  have hdrain : ((logDrain s).log.queue, (logDrain s).log.waking) = ([], s.log.waking) := by
    rw [logDrain]
    dsimp only
    rw [when_of_eq (fun v : State => (v.log.queue, v.log.waking)) (hwrite _ _),
      forEach_of_eq (fun v : State => (v.log.queue, v.log.waking)) hwrite]
  exact Prod.mk.inj hdrain

/-- The wake before the comparators and the log take it up. -/
def woken (s : State) : State :=
  let u := hedWake (forEach (upto 0 64) redeliver (setPower 0 (setb Reg.pwrClksts 2 true s)))
  { u with shed := { u.shed with nextMin := u.time + 200, scanned := none }
           log := { u.log with waking := false }
           pwr := { u.pwr with okSince := none } }

theorem wakeDone_eq (s : State) : wakeDone s = logDrain (cmpModesSet (woken s)) := rfl

theorem woken_rget {a : Nat} {s : State} : rget (woken s) a = rget (setPower 0 (setb Reg.pwrClksts 2 true s)) a := by
  have hfree : rget (woken s) a = rget (hedWake (forEach (upto 0 64) redeliver (setPower 0 (setb Reg.pwrClksts 2 true s)))) a := rfl
  rw [hfree, hedWake_rget, forEach_of_eq (fun u : State => rget u a) fun _ _ => redeliver_rget]

theorem wakeDone_spec (s : State) : let t := wakeDone s
    power t = 0 ∧ mode t = mode s ∧ t.log.waking = false ∧ t.log.queue = [] := by
  have hmode : rget (wakeDone s) Reg.gctlMode = rget (setPower 0 (setb Reg.pwrClksts 2 true s)) Reg.gctlMode := by
    rw [wakeDone_eq, logDrain_rget (not_logReg (by decide)), cmpModesSet_rget (by decide), woken_rget]
  obtain ⟨hqueue, hwaking⟩ := logDrain_log (s := cmpModesSet (woken s))
  refine ⟨(power_congr hmode).trans (power_setPower (by decide)), ?_, hwaking.trans (by rw [cmpModesSet_log]; rfl), hqueue⟩
  rw [mode_congr hmode, (setPower_frame _ _).mode, mode_congr (rget_setb_other (by decide))]

/-! ### Supplies -/

theorem exec_supplyRecovery (m : Fin 6) (s : State) : exec (.supplyRecovery m) s = execSupplyRecovery m s := rfl

/-- A change of a LOW bit is reported, and a supply that falls is detected (R445, R598). -/
def supplyReported (m : Nat) (low : Bool) (s : State) : State :=
  let s := raise 2918 s
  let s := logCause 0x0F02 3 m (rget s Reg.pwrSupply) (rget s (Reg.tackSup m)) s
  when_ low (detect 12 m (supplyHarnesses s m) false) s

/-- A LOW bit takes its new level; NVM_INH follows where it has changed. -/
theorem supplyChange_spec (m : Fin 6) (low : Bool) (s : State) : let t := supplyChange m low s
    rb t Reg.pwrSupply m = low ∧ mode t = mode s ∧ t.mem = s.mem ∧
      (rb s Reg.pwrSupply m ≠ low → rb t Reg.pwrSupply 8 = (rb t Reg.pwrSupply 0 || rb t Reg.pwrSupply 5)) := by
  generalize hu : (if low then { s with pwr := { s.pwr with lowAt := tset s.pwr.lowAt m s.time } } else s) = u
  have hregs : u.regs = s.regs := by subst hu; split <;> rfl
  have hrget : ∀ a, rget u a = rget s a := fun a => by rw [rget, hregs, rget]
  have hmem : u.mem = s.mem := by subst hu; split <;> rfl
  have hm : m.val ≠ 8 := by omega
  have hm32 : m.val < 32 := by omega
  simp only [supplyChange, hu]
  split
  · rename_i hsame
    have hlow : rb u Reg.pwrSupply m = low := by simpa using hsame
    exact ⟨hlow, mode_congr (hrget _), hmem, fun hne => absurd (by rw [rb, ← hrget, ← rb, hlow]) hne⟩
  · generalize hw : setb Reg.pwrSupply 8 (rb (setb Reg.pwrSupply m low u) Reg.pwrSupply 0 ||
      rb (setb Reg.pwrSupply m low u) Reg.pwrSupply 5) (setb Reg.pwrSupply m low u) = w
    have hsupply : ∀ j < 8, rb w Reg.pwrSupply j = rb (setb Reg.pwrSupply m low u) Reg.pwrSupply j := fun j hj => by
      rw [← hw, rb_setb_other (by omega) (.inr (by omega))]
    have hwmode : rget w Reg.gctlMode = rget s Reg.gctlMode := by
      rw [← hw, rget_setb_other (by decide), rget_setb_other (by decide), hrget]
    have hwmem : w.mem = s.mem := by rw [← hw, setb_mem, setb_mem, hmem]
    have hreport : ∀ a, a < 0x14000 ∨ 0x1C0000 ≤ a ∧ a < 0x1C3000 → rget (supplyReported m low w) a = rget w a := fun a ha => by
      simp only [supplyReported]
      rw [rget_when_of_eq rfl, logCause_rget (by omega), raise_rget_of_range (by omega)]
    have hbit : ∀ j, rb (supplyReported m low w) Reg.pwrSupply j = rb w Reg.pwrSupply j := fun j => by
      rw [rb, hreport _ (by decide), ← rb]
    have hmonitor : rb w Reg.pwrSupply m = low := by rw [hsupply _ (by omega), rb_setb_same hm32]
    change rb (supplyReported m low w) Reg.pwrSupply m = low ∧ mode (supplyReported m low w) = mode s ∧
      (supplyReported m low w).mem = s.mem ∧ (_ → rb (supplyReported m low w) Reg.pwrSupply 8 =
        (rb (supplyReported m low w) Reg.pwrSupply 0 || rb (supplyReported m low w) Reg.pwrSupply 5))
    refine ⟨(hbit _).trans hmonitor, mode_congr ((hreport _ (by decide)).trans hwmode), ?_, fun _ => ?_⟩
    · refine Eq.trans (b := w.mem) ?_ hwmem
      simp only [supplyReported]
      rw [when_of_eq (fun v : State => v.mem) rfl, logCause_mem, raise_mem]
    · rw [hbit, hbit, hbit, hsupply 0 (by decide), hsupply 5 (by decide), ← hw, rb_setb_same (by decide)]

/-- A job of the flash begins, or what the flash cannot do is given up: registers and stores stay. -/
theorem issueJob_kept (k : Nat) (s : State) : (issueJob k s).regs = s.regs ∧ (issueJob k s).mem = s.mem := by
  have hcut : ∀ st (u : State), (cutCommand st u).regs = u.regs ∧ (cutCommand st u).mem = u.mem := fun st u => by
    unfold cutCommand bgOut breakRegion
    split <;> exact ⟨rfl, rfl⟩
  induction k generalizing s with
  | zero => exact ⟨rfl, rfl⟩
  | succ k ih =>
    unfold issueJob
    split
    · exact ⟨rfl, rfl⟩
    · split
      · exact ⟨rfl, rfl⟩
      · split
        · exact ⟨rfl, rfl⟩
        · split
          · exact ⟨(ih _).1.trans (hcut _ _).1, (ih _).2.trans (hcut _ _).2⟩
          · exact ⟨rfl, rfl⟩
          · exact ⟨(ih _).1, (ih _).2⟩

theorem issueNext_rget {a : Nat} {s : State} : rget (issueNext s) a = rget s a := by
  rw [rget, issueNext, (issueJob_kept 8 s).1, ← rget]

/-- Settles O54: each command of the family has its effect in a state that meets its condition, and the changes of power and of a
supply write their registers. -/
theorem clocksPowerAndSupplies : Obligations.ClocksPowerAndSupplies := by
  unfold Obligations.ClocksPowerAndSupplies
  refine ⟨?_, ?_, ?_, ?_, ?_, ?_, ?_, ?_, ?_, ?_⟩
  · intro s t href
    exact ⟨nowIf_true href, refLost_spec s⟩
  · intro s t hmode hlock href
    exact ⟨nowIf_true (by simp [hmode, hlock, href]), refReturnOp_spec s href⟩
  · intro s t href hsub hok hsince
    exact ⟨by rw [exec_restoreOk, execRestoreOk, atTime_now hsince (by simp [href, hsub, hok, hsince])], rb_setb_same (by decide)⟩
  · intro s t hpower hdoze
    exact ⟨nowIf_true (by simp [hpower, hdoze]), power_setPower (by decide), (setPower_frame 1 s).mode, by
      simp only [t]; rw [(setPower_frame 1 s).fields]⟩
  · intro s t hpower hdoze
    exact ⟨nowIf_true (by simp [hpower, hdoze]), power_setPower (p := 0) (by decide), (setPower_frame 0 s).mode, rfl⟩
  · intro s t hok hpower hat
    refine ⟨?_, (enterSlumber_spec s).1, (enterSlumber_spec s).2.trans (mode_of_slumberOk hok)⟩
    rw [exec_slumberEntry, execSlumberEntry, hok, if_pos rfl, atTime_now hat (by simp [hok, hpower, hat])]
  · intro s t hpower hwaking
    exact ⟨nowIf_true (by simp [hpower, hwaking]), wakeDone_spec s⟩
  · intro b s t hpower hat hmay hawake
    refine ⟨?_, by simp [t, bankSleepOp], rfl⟩
    rw [exec_bankSleep, execBankSleep, if_pos hpower, atTime_now hat (by simp only [hpower, hat, hmay, hawake, decide_true, Bool.not_false, Bool.and_self])]
  · intro m s t hmode
    obtain ⟨hlow, hkept, hmem, hinh⟩ := supplyChange_spec m true s
    exact ⟨nowIf_true (by simp [hmode]), hlow, hkept, hmem, fun h => hinh (by simp [h])⟩
  · intro m s t hmode hlow hat
    obtain ⟨hclear, hkept, hmem, -⟩ := supplyChange_spec m false s
    refine ⟨?_, ?_, ?_, (issueJob_kept 8 _).2.trans hmem⟩
    · rw [exec_supplyRecovery, execSupplyRecovery, if_pos hlow, atTime_now hat (by simp [hmode, hlow, hat])]
    · simp only [t, recoveryOp]
      rw [rb, issueNext_rget, ← rb, hclear]
    · exact (mode_congr issueNext_rget).trans hkept

end Sys2Proof.Machine
end

section
/-!
PROOFS. Raises and vectors (12_event_matrix.md R402 to R417).
-/

namespace Sys2Proof.Machine

/-! ### A raise -/

/-- What SEEN says and the raises on their way stay from `s` to `t`. -/
def SeenKept (s t : State) : Prop := t.ev = s.ev ∧ ∀ a, 0x14000 ≤ a → a < 0x18000 → rget t a = rget s a

theorem SeenKept.trans {s t u : State} (h : SeenKept s t) (k : SeenKept t u) : SeenKept s u :=
  ⟨k.1.trans h.1, fun a hlow hhigh => (k.2 a hlow hhigh).trans (h.2 a hlow hhigh)⟩

/-- What a raise asks of the shed leaves both. -/
theorem expressRequest_seen (d : Nat) (g1 : Word) (p : State × List Nat) : SeenKept p.1 (expressRequest d g1 p).1 := by
  unfold expressRequest
  dsimp only
  split
  · exact ⟨rfl, fun a _ _ => rget_count_other (by simp only [Reg.engSkipCnt]; omega)⟩
  · split
    · exact ⟨rfl, fun a _ _ => rget_count_other (by simp only [Reg.shedExpMergeCnt]; omega)⟩
    · exact ⟨by simp [schedule], fun a _ _ => rget_setb_other (by simp only [Reg.engEsts]; omega)⟩

theorem taskRequest_seen (d : Nat) (p : State × List Nat) : SeenKept p.1 (taskRequest d p).1 := by
  unfold taskRequest
  dsimp only
  split
  · exact ⟨rfl, fun a _ _ => rget_count_other (by simp only [Reg.shedMergeCnt]; omega)⟩
  · exact ⟨rfl, fun _ _ _ => rfl⟩

theorem SeenKept.foldl {f : State × List Nat → Nat → State × List Nat} (hf : ∀ p d, SeenKept p.1 (f p d).1) (l : List Nat)
    (p : State × List Nat) : SeenKept p.1 (l.foldl f p).1 := by
  induction l generalizing p with
  | nil => exact ⟨rfl, fun _ _ _ => rfl⟩
  | cons d l ih => exact (hf p d).trans (ih _)

theorem SeenKept.forEach {α : Type} {f : α → State → State} (hf : ∀ x u, SeenKept u (f x u)) (l : List α) (s : State) :
    SeenKept s (forEach l f s) :=
  ⟨forEach_of_eq (fun u : State => u.ev) (fun x u => (hf x u).1) l s,
    fun a hlow hhigh => forEach_of_eq (fun u : State => rget u a) (fun x u => (hf x u).2 a hlow hhigh) l s⟩

/-- A source that is not raised leaves the state. -/
theorem raise_none {src : Nat} {s : State}
    (h : live s = false ∨ reservedSource src = true ∨ (s.ev.raisedAt = s.time ∧ src ∈ s.ev.raised)) : raise src s = s := by
  have hone : raiseOne src s = (s, []) := by
    rw [raiseOne, if_pos]
    rcases h with hlive | hrsv | ⟨hat, hmem⟩
    · simp [hlive]
    · simp [hrsv]
    · rw [hat, List.contains_iff_mem.2 hmem, beq_self_eq_true, Bool.and_self, Bool.or_true]
  simp [raise, raiseList, hone]

/-- A source that is raised is noted, sent to its vector and its actions, and seen. -/
def raiseSeen (src : Nat) (s : State) : State :=
  let entry := entryNow src s
  let toVec := if bit entry 7 then [Wire.mk (matrixNext s) src (.vec (fld entry 0 6))] else []
  let toAct := (s.regs.flatMap (actionInputs src)).map fun x => Wire.mk (s.time + x.1) src x.2
  let seen := if s.ev.raisedAt == s.time then s.ev.raised else []
  let s := { s with ev := { raisedAt := s.time, raised := src :: seen, wires := s.ev.wires ++ toVec ++ toAct } }
  setb (Reg.srct src) 16 true (forEach (toVec ++ toAct) (fun w => schedule w.at_ (.arrive w.dst)) s)

/-- LEV_OUT of the link follows the source (R506). -/
def levelsOut (src : Nat) (s : State) : State :=
  forEach (upto 0 8) (fun i => when_ (rb s (Reg.selLevsrc i) 15 && rf s (Reg.selLevsrc i) 0 12 == src)
    (setb Reg.selLevOut i true)) s

theorem raiseOne_eq {src : Nat} {s : State}
    (h : (!live s || reservedSource src || (s.ev.raisedAt == s.time && s.ev.raised.contains src)) = false) :
    raiseOne src s =
      let s := levelsOut src (raiseSeen src s)
      let p := (triggered s (rf s Reg.shedTtsel 8 1) 2 src).foldl (fun p d => taskRequest d p) (s, [])
      (triggered s (exHalfNow s) 3 src).foldl (fun p d => expressRequest d (wd src) p) p := by
  rw [raiseOne, h, if_neg Bool.false_ne_true]
  rfl

theorem levelsOut_seen (src : Nat) (s : State) : SeenKept s (levelsOut src s) :=
  .forEach (fun i u => ⟨when_of_eq (fun v : State => v.ev) (by simp),
    fun a _ _ => rget_when_of_eq (rget_setb_other (by simp only [Reg.selLevOut]; omega))⟩) _ s

theorem raiseSeen_ev {src : Nat} {s : State} : (raiseSeen src s).ev.raised = src :: (if s.ev.raisedAt == s.time then s.ev.raised else []) ∧
    (raiseSeen src s).ev.wires = s.ev.wires ++
      (if bit (entryNow src s) 7 then [Wire.mk (matrixNext s) src (.vec (fld (entryNow src s) 0 6))] else []) ++
      (s.regs.flatMap (actionInputs src)).map fun x => Wire.mk (s.time + x.1) src x.2 := by
  have hsched : ∀ (l : List Wire) (u : State), (forEach l (fun w => schedule w.at_ (.arrive w.dst)) u).ev = u.ev :=
    forEach_of_eq (f := fun w : Wire => schedule w.at_ (.arrive w.dst)) (fun u : State => u.ev) fun _ _ => rfl
  simp only [raiseSeen, setb_ev, hsched, and_self]

/-- A source that is raised is seen, and is on its way to its vector. -/
theorem raiseOne_raised {src : Nat} {s : State} (hlive : live s = true) (hrsv : reservedSource src = false)
    (hfresh : s.ev.raisedAt = s.time → src ∉ s.ev.raised) : let t := (raiseOne src s).1
    rb t (Reg.srct src) 16 = true ∧ src ∈ t.ev.raised ∧
      (bit (entryNow src s) 7 = true → Wire.mk (matrixNext s) src (.vec (fld (entryNow src s) 0 6)) ∈ t.ev.wires) := by
  have hsrc : src < 4096 := by
    simp only [reservedSource, decide_eq_false_iff_not] at hrsv
    omega
  have hguard : (!live s || reservedSource src || (s.ev.raisedAt == s.time && s.ev.raised.contains src)) = false := by
    cases hat : s.ev.raisedAt == s.time
    · simp [hlive, hrsv]
    · simp [hlive, hrsv, hfresh (by simpa using hat)]
  obtain ⟨hraised, hwires⟩ := raiseSeen_ev (src := src) (s := s)
  have hkept : SeenKept (raiseSeen src s) (raiseOne src s).1 := by
    rw [raiseOne_eq hguard]
    exact (levelsOut_seen src _).trans ((SeenKept.foldl (fun p d => taskRequest_seen d p) _ (_, [])).trans
      (SeenKept.foldl (fun p d => expressRequest_seen d _ p) _ _))
  refine ⟨?_, by rw [hkept.1, hraised]; exact List.mem_cons_self, fun hvec => ?_⟩
  · rw [rb, hkept.2 _ (by simp only [Reg.srct]; omega) (by simp only [Reg.srct]; omega), ← rb]
    exact rb_setb_same (by decide)
  · rw [hkept.1, hwires, hvec]
    simp

/-! ### Arrivals -/

theorem limitLater_kept (j : Nat) (s : State) : limitLater j s = { s with timed := (limitLater j s).timed } := by
  unfold limitLater
  split
  · cases decide (s.time < _) <;> rfl
  · rfl

theorem limitLater_vecSt {j k : Nat} {s : State} : vecSt (limitLater j s) k = vecSt s k := by rw [limitLater_kept]; rfl

theorem vecArrive_disabled {j : Nat} {srcs : List Nat} {s : State} (hsrcs : srcs ≠ []) (h : vecEn s j = false) :
    vecArrive j srcs s = countN Reg.evmDiscCnt srcs.length s := by
  simp [vecArrive, h, hsrcs]

/-- The raises that reach an enabled vector are counted in ACC; with NUM reached it is ready in the next cycle. -/
theorem vecArrive_enabled {j : Nat} {srcs : List Nat} {s : State} (hsrcs : srcs ≠ []) (h : vecEn s j = true) :
    let t := vecArrive j srcs s
    t.ev = s.ev ∧ t.regs = s.regs ∧ (vecSt t j).acc = min 65535 ((vecSt s j).acc + srcs.length) ∧
      (vecNum s j ≤ (vecSt t j).acc → (matrixNext s, Timed.vecReady j) ∈ t.timed) := by
  intro t
  generalize hu : modVec j (fun x => { x with
      acc := min 65535 ((vecSt s j).acc + srcs.length), first := if x.acc = 0 then raisedBefore s else x.first,
      firstSrc := if x.acc = 0 then srcs.foldl min 4096 else x.firstSrc, prevLast := x.lastSrc, lastSrc := srcs.foldl max 0,
      arrAt := s.time + 1, arrN := srcs.length, arrMin := srcs.foldl min 4096 }) s = u
  have hacc : (vecSt u j).acc = min 65535 ((vecSt s j).acc + srcs.length) := by rw [← hu, modVec_vecSt_same]
  have hnum : vecNum u j = vecNum s j := by rw [← hu]; rfl
  have hnext : matrixNext u = matrixNext s := by rw [← hu]; rfl
  have ht : t = if vecNum u j ≤ min 65535 ((vecSt s j).acc + srcs.length) then schedule (matrixNext u) (.vecReady j) u
      else limitLater j u := by
    simp only [t, vecArrive, List.isEmpty_iff, hsrcs, if_false, h, Bool.not_true, Bool.false_eq_true, hu]
  have hfields : ∀ {α : Type} (field : State → α), (∀ v x, field { v with timed := x } = field v) → field t = field u :=
    fun field hf => by
      rw [ht]
      split
      · exact hf u _
      · rw [limitLater_kept]
        exact hf u _
  refine ⟨(hfields (fun v => v.ev) fun _ _ => rfl).trans (by rw [← hu]; rfl),
    (hfields (fun v => v.regs) fun _ _ => rfl).trans (by rw [← hu]; rfl),
    (hfields (fun v => (vecSt v j).acc) fun _ _ => rfl).trans hacc, fun hready => ?_⟩
  rw [hfields (fun v => (vecSt v j).acc) fun _ _ => rfl, hacc, ← hnum] at hready
  rw [ht, if_pos hready, hnext]
  exact mem_schedule _ _ _

/-! ### Readiness and delivery -/

/-- A pin that is judged leaves the registers but the count of deliveries. -/
theorem irqJudge_spec (j : Nat) (s : State) : let t := irqJudge j s
    (∀ a, a ≠ Reg.vecDelivCnt j → rget t a = rget s a) ∧ t.mem = s.mem ∧ t.time = s.time := by
  have hrelease : (irqRelease j s).regs = s.regs ∧ (irqRelease j s).mem = s.mem ∧ (irqRelease j s).time = s.time := by
    unfold irqRelease
    split <;> exact ⟨rfl, rfl, rfl⟩
  unfold irqJudge
  dsimp only
  split
  · exact ⟨fun _ _ => rfl, rfl, rfl⟩
  · refine ⟨fun a ha => ?_, ?_, ?_⟩
    · rw [rget_when_of_eq (rget_count_other ha), modVec_rget, rget, hrelease.1, ← rget]
    · rw [when_of_eq (fun u : State => u.mem) rfl, modVec_mem, hrelease.2.1]
    · rw [when_of_eq (fun u : State => u.time) rfl, modVec_time, hrelease.2.2]

/-- A vector that begins or ends to hold a pin low: the pin is judged high until it falls, and the delivery is counted. -/
theorem irqJudge_begun {j : Nat} {s : State} (hsel : (vecSt s j).selAt ≤ s.time) (hnew : irqWant s j ≠ (vecSt s j).begun) :
    let t := irqJudge j s
    (vecSt t j).begun = irqWant s j ∧ (vecSt t j).pinLow = false ∧ rget t (Reg.vecDelivCnt j) =
      (if (irqWant s j).isSome then satInc (rget s (Reg.vecDelivCnt j)) else rget s (Reg.vecDelivCnt j)) := by
  have hrelease : (vecSt (irqRelease j s) j).pinLow = false ∧ (irqRelease j s).regs = s.regs := by
    unfold irqRelease
    split
    · exact ⟨by simp, rfl⟩
    · rename_i hlow
      exact ⟨by simpa using hlow, rfl⟩
  intro t
  have ht : t = when_ (irqWant s j).isSome (count (Reg.vecDelivCnt j)) (modVec j (fun v => { v with begun := irqWant s j })
      (irqRelease j s)) := by
    simp only [t, irqJudge]
    rw [if_neg (by simpa [Nat.not_lt.2 hsel] using hnew)]
  have hvec : vecSt t j = { vecSt (irqRelease j s) j with begun := irqWant s j } := by
    rw [ht, when_of_eq (fun u : State => vecSt u j) rfl, modVec_vecSt_same]
  refine ⟨by rw [hvec], by rw [hvec]; exact hrelease.1, ?_⟩
  have hcnt : rget (irqRelease j s) (Reg.vecDelivCnt j) = rget s (Reg.vecDelivCnt j) := by rw [rget, hrelease.2, ← rget]
  rw [ht]
  cases (irqWant s j).isSome
  · exact hcnt
  · exact rget_count_same.trans (congrArg satInc hcnt)

theorem wakeBegin_spec (cause : Nat) (s : State) : (∀ j, vecSt (wakeBegin cause s) j = vecSt s j) ∧ (wakeBegin cause s).mem = s.mem ∧
    ∀ a, a ≠ Reg.pwrSts → rget (wakeBegin cause s) a = rget s a := by
  unfold wakeBegin
  split
  · exact ⟨fun _ => rfl, rfl, fun _ _ => rfl⟩
  · exact ⟨fun _ => rfl, rfl, fun a ha => rget_setf_other ha⟩

/-- What a vector that becomes ready sets: PEND, or a readiness merged (R409, R410). -/
def readyNoted (j last : Nat) (s : State) : State :=
  if vecPend s j then setf (Reg.vecSrc j) 16 12 last (count Reg.evmMergeCnt (setb (Reg.vecSts j) 1 true s))
  else irqJudge j (setb (Reg.vecSts j) 0 true (rset (Reg.vecSrc j) (setFld (wd (vecSt s j).firstSrc) 16 12 last) s))

/-- The raises that arrive in the cycle of a readiness. -/
def readyNew (j : Nat) (s : State) : Bool := decide ((vecSt s j).arrAt = s.time + 1) && decide (0 < (vecSt s j).arrN)

/-- The accumulation of a vector that has become ready. -/
def readyRest (j : Nat) (inCycle : Bool) (left : Nat) (s : State) : State :=
  let s := schedule (s.time + if vecIrq s j then 12 else 40) (.deliver j) s
  let s := modVec j (fun y => { y with
    acc := left, first := if inCycle then raisedBefore s else y.first,
    firstSrc := if inCycle then y.arrMin else y.firstSrc, readyAt := s.time + 1 }) s
  wakeBegin 4 (limitLater j s)

theorem vecReadyNow_eq (j : Nat) (s : State) : vecReadyNow j s =
    readyRest j (readyNew j s) (if readyNew j s then (vecSt s j).arrN else 0)
      (readyNoted j (if readyNew j s then (vecSt s j).prevLast else (vecSt s j).lastSrc) s) := rfl

theorem readyNoted_spec {j : Nat} (last : Nat) (s : State) : let t := readyNoted j last s
    vecPend t j = true ∧ t.mem = s.mem ∧ t.time = s.time ∧
      (vecPend s j = true → rget t Reg.evmMergeCnt = satInc (rget s Reg.evmMergeCnt)) := by
  have hsrc : Reg.vecSts j ≠ Reg.vecSrc j := by simp [Reg.vecSts, Reg.vecSrc]
  have hcnt : Reg.vecSts j ≠ Reg.vecDelivCnt j := by simp [Reg.vecSts, Reg.vecDelivCnt]
  have hmerge : Reg.evmMergeCnt ≠ Reg.vecSrc j ∧ Reg.evmMergeCnt ≠ Reg.vecSts j := by
    simp only [Reg.evmMergeCnt, Reg.vecSrc, Reg.vecSts]; omega
  unfold readyNoted
  split
  · rename_i hpend
    refine ⟨?_, by simp, by simp, fun _ => ?_⟩
    · rw [vecPend, rb_setf_other (by decide) (.inl hsrc), rb, rget_count_other hmerge.2.symm, ← rb,
        rb_setb_other (by decide) (.inr (by decide))]
      exact hpend
    · rw [rget_setf_other hmerge.1, rget_count_same, rget_setb_other hmerge.2]
  · rename_i hpend
    obtain ⟨hregs, hmem, htime⟩ := irqJudge_spec j (setb (Reg.vecSts j) 0 true
      (rset (Reg.vecSrc j) (setFld (wd (vecSt s j).firstSrc) 16 12 last) s))
    refine ⟨?_, hmem.trans (by simp), htime.trans (by simp), fun h => absurd h hpend⟩
    rw [vecPend, rb, hregs _ hcnt, ← rb, rb_setb_same (by decide)]

theorem readyRest_spec {j : Nat} (inCycle : Bool) (left : Nat) (s : State) : let t := readyRest j inCycle left s
    (vecSt t j).readyAt = s.time + 1 ∧ t.mem = s.mem ∧ ∀ a, a ≠ Reg.pwrSts → rget t a = rget s a := by
  intro t
  refine ⟨(congrArg VecSt.readyAt ((wakeBegin_spec _ _).1 j)).trans ?_, (wakeBegin_spec _ _).2.1.trans ?_,
    fun a ha => ((wakeBegin_spec _ _).2.2 a ha).trans ?_⟩
  · rw [limitLater_vecSt, modVec_vecSt_same]
    rfl
  · rw [limitLater_kept]
    rfl
  · rw [limitLater_kept]
    rfl

theorem vecReadyNow_spec {j : Nat} (s : State) : let t := vecReadyNow j s
    vecPend t j = true ∧ (vecSt t j).readyAt = s.time + 1 ∧ t.mem = s.mem ∧
      (vecPend s j = true → rget t Reg.evmMergeCnt = satInc (rget s Reg.evmMergeCnt)) := by
  obtain ⟨hpend, hmem, htime, hmerge⟩ := readyNoted_spec (j := j) (if readyNew j s then (vecSt s j).prevLast else (vecSt s j).lastSrc) s
  obtain ⟨hready, hmem', hregs⟩ := readyRest_spec (j := j) (readyNew j s) (if readyNew j s then (vecSt s j).arrN else 0)
    (readyNoted j (if readyNew j s then (vecSt s j).prevLast else (vecSt s j).lastSrc) s)
  simp only [vecReadyNow_eq]
  refine ⟨?_, by rw [hready, htime], hmem'.trans hmem, fun h => ?_⟩
  · rw [vecPend, rb, hregs _ (by simp only [Reg.vecSts, Reg.pwrSts]; omega), ← rb, ← vecPend, hpend]
  · rw [hregs _ (by decide), hmerge h]

/-- A message handed over clears PEND, is counted, and leaves after the posted writes before it (R411, R417). -/
theorem msixSend_spec {j : Nat} (hj : j < 64) (s : State) : let t := msixSend j s
    vecPend t j = false ∧ rget t (Reg.vecDelivCnt j) = satInc (rget s (Reg.vecDelivCnt j)) ∧
      t.host.txFree = max s.host.txFree (psOf s.time) + 32 * psPerByte s ∧
      (vecSt t j).sent.head? = some (msixMsg s j t.host.txFree) ∧ t.mem = s.mem := by
  have hcnt : Reg.vecDelivCnt j ≠ Reg.vecSts j := by simp [Reg.vecDelivCnt, Reg.vecSts]
  generalize hu : count (Reg.vecDelivCnt j) (setb (Reg.vecSts j) 0 false s) = u
  have hhost : u.host = s.host := by rw [← hu]; simp
  have hps : psPerByte u = psPerByte s := by
    have hsts : rget u Reg.hostSts = rget s Reg.hostSts := by
      rw [← hu, rget_count_other (by simp only [Reg.hostSts, Reg.vecDelivCnt]; omega),
        rget_setb_other (by simp only [Reg.hostSts, Reg.vecSts]; omega)]
    simp only [psPerByte, rf, hsts]
  have ht : msixSend j s = modVec j (fun x => { x with
      sent := msixMsg (postWrite 4 u) j (postWrite 4 u).host.txFree :: x.sent.filter fun y => decide (psOf (postWrite 4 u).time < y.at_) })
      (postWrite 4 u) := by rw [← hu]; rfl
  have hfree : (postWrite 4 u).host.txFree = max s.host.txFree (psOf s.time) + 32 * psPerByte s := by
    have htime : u.time = s.time := by rw [← hu]; simp
    simp only [postWrite, hhost, htime, hps, psOf]
  simp only [ht, modVec_host, modVec_mem, modVec_rget, modVec_vecSt_same, hfree]
  refine ⟨?_, ?_, trivial, ?_, by rw [← hu]; simp [postWrite]⟩
  · rw [vecPend, rb, modVec_rget]
    change rb u (Reg.vecSts j) 0 = false
    rw [← hu, rb, rget_count_other hcnt.symm, ← rb, rb_setb_same (by decide)]
  · change rget u (Reg.vecDelivCnt j) = _
    rw [← hu, rget_count_same, rget_setb_other hcnt]
  · have hmsix : (postWrite 4 u).host.msix = s.host.msix := by
      change u.host.msix = _
      rw [hhost]
    rw [List.head?_cons, msixMsg, hmsix, msixMsg]

/-! ### The commands -/

theorem exec_raiseArrival (j : Fin 64) (s : State) : exec (.raiseArrival j) s = execRaiseArrival j s := rfl
theorem exec_coalesceTimeout (j : Fin 64) (s : State) : exec (.coalesceTimeout j) s = execCoalesceTimeout j s := rfl
theorem exec_msixHandover (j : Fin 64) (s : State) : exec (.msixHandover j) s = execMsixHandover j s := rfl
theorem exec_irqAssert (j : Fin 64) (s : State) : exec (.irqAssert j) s = execIrqAssert j s := rfl

/-- Whether a wire is a raise for vector `j` that arrives in cycle `n`. -/
def arrives (j n : Nat) (w : Wire) : Bool := w.dst == .vec j && w.at_ == n

/-- The state once the raises for vector `j` of cycle `n` have left the wires. -/
def afterArrival (j n : Nat) (s : State) : State :=
  { s with ev := { s.ev with wires := s.ev.wires.filter fun w => !arrives j n w } }

/-- The raises that are taken: some, all of the earliest cycle. -/
theorem raiseArrivalOp_takes {j n : Nat} {s : State} (hat : wireAt s (.vec j) = some n) :
    s.ev.wires.filter (arrives j n) ≠ [] ∧
      raiseArrivalOp j s = vecArrive j ((s.ev.wires.filter (arrives j n)).map fun w => w.src) (afterArrival j n s) := by
  refine ⟨fun hnone => ?_, by simp only [raiseArrivalOp, hat]; rfl⟩
  have hmem := List.min?_mem hat
  simp only [List.mem_map, List.mem_filter] at hmem
  obtain ⟨w, ⟨hw, hdst⟩, hn⟩ := hmem
  have hmine : w ∈ s.ev.wires.filter (arrives j n) := List.mem_filter.2 ⟨hw, by simp [arrives, hdst, hn]⟩
  rw [hnone] at hmine
  exact List.not_mem_nil hmine

/-- Settles O52: a raise notes its source and its wires, what reaches a vector is counted there, and a ready vector sets PEND and
is delivered. -/
theorem vectorsAndRaises : Obligations.VectorsAndRaises := by
  unfold Obligations.VectorsAndRaises
  refine ⟨fun src s hlive hrsv hfresh => ?raised, fun src s h => raise_none h, ?arrival, ?timeout, ?handover, ?assert, ?judge⟩
  case raised =>
    obtain ⟨hseen, hmem, hwire⟩ := raiseOne_raised hlive hrsv hfresh
    exact ⟨hseen, hmem, by rw [(raiseOne_frame src s).1], hwire, fun a ha => raise_rget ha, raise_mem, raise_time⟩
  case arrival =>
    intro j n s mine k t hlive hat hle hdue
    obtain ⟨hsome, ht⟩ := raiseArrivalOp_takes hat
    have hsrcs : (s.ev.wires.filter (arrives j n)).map (fun w => w.src) ≠ [] := fun h => hsome (List.map_eq_nil_iff.1 h)
    have hlen : ((s.ev.wires.filter (arrives j n)).map fun w => w.src).length = k := List.length_map _
    refine ⟨by rw [exec_raiseArrival, execRaiseArrival, atOpt_now hat hle (by simp [hlive, hdue])],
      List.length_pos_iff.2 hsome, ?_, fun hen => ?_, fun hen => ?_⟩
    · simp only [t, ht]
      cases hen : vecEn s j
      · rw [vecArrive_disabled (s := afterArrival j n s) hsrcs hen]
        rfl
      · rw [(vecArrive_enabled (s := afterArrival j n s) hsrcs hen).1]
        rfl
    · obtain ⟨-, hregs, hacc, hready⟩ := vecArrive_enabled (s := afterArrival j n s) hsrcs hen
      rw [hlen] at hacc
      simp only [t, ht]
      exact ⟨hacc, hregs, hready⟩
    · simp only [t, ht]
      rw [vecArrive_disabled (s := afterArrival j n s) hsrcs hen, hlen]
      refine ⟨rfl, ?_⟩
      rw [rn, countN, rget_rset_same]
      exact toNat_wd_of_lt (by omega)
  case timeout =>
    intro j n s t hlive hlimit hle hacc hnum
    refine ⟨?_, vecReadyNow_spec s⟩
    rw [exec_coalesceTimeout, execCoalesceTimeout, hlimit]
    exact atOpt_now rfl (Nat.max_le.2 ⟨hnum, hle⟩) (by simp [hlive, limitDue, hlimit, hle, hacc, hnum])
  case handover =>
    intro j s t hlive hready hsel hpend hirq hheld
    refine ⟨?_, msixSend_spec j.isLt s⟩
    rw [exec_msixHandover, execMsixHandover, atTime_now (Nat.max_le.2 ⟨hready, hsel⟩) (by simp [hlive, hpend, hirq, hheld])]
  case assert =>
    intro j s t hlive hready hbegun hlow
    refine ⟨by rw [exec_irqAssert, execIrqAssert, atTime_now hready (by simp [hlive, irqDue, hbegun, hlow])], ?_, ?_, rfl⟩
    · simp [t, irqAssertOp]
    · obtain ⟨x, hx⟩ := Option.isSome_iff_exists.1 hbegun
      simp [t, irqAssertOp, hx]
  case judge =>
    exact fun j s hsel hnew => irqJudge_begun hsel hnew

end Sys2Proof.Machine
end

section
/-!
PROOFS. The host port: requests of the PCIe link, configuration, resets of the port, SPI frames (O57).
-/

namespace Sys2Proof.Machine

/-! ### What leaves the host port as it is -/

/-- A relation that holds of each step of a `forEach` and composes holds of the whole. -/
theorem forEach_rel {α : Type} {R : State → State → Prop} {f : α → State → State} (hrefl : ∀ s, R s s)
    (htrans : ∀ {s t u}, R s t → R t u → R s u) : ∀ (l : List α) (s : State), (∀ x ∈ l, ∀ u, R u (f x u)) → R s (forEach l f s)
  | [], s, _ => hrefl s
  | x :: l, s, h => htrans (h x (List.mem_cons_self ..) s)
      (forEach_rel hrefl htrans l (f x s) fun y hy => h y (List.mem_cons_of_mem _ hy))

@[simp] theorem logCause_host {cls sev inst : Nat} {d0 d1 : Word} {s : State} : (logCause cls sev inst d0 d1 s).host = s.host := by
  rw [(logCause_frame ..).1]

@[simp] theorem logLimited_host {cls sev inst : Nat} {d0 d1 : Word} {s : State} :
    (logLimited cls sev inst d0 d1 s).host = s.host := by rw [(logLimited_frame ..).1]

@[simp] theorem portTake_host {bank who : Nat} {s : State} : (portTake bank who s).host = s.host :=
  when_of_eq (fun u : State => u.host) rfl

@[simp] theorem hostWake_host {p : Path} {cause : Nat} {s : State} : (hostWake p cause s).host = s.host := by
  unfold hostWake wakeBegin
  split
  · rfl
  · split <;> rfl

@[simp] theorem resSync_host {s : State} : (resSync s).host = s.host := by
  rw [(resSync_frame s).fields]

theorem checkRead_chain (r : Reader) (a n : Nat) (s : State) : ChainFrame s (checkRead r a n s).2 := by
  have hword : ∀ (l : List Nat) (p : Bool × State), ChainFrame p.2 (l.foldl (fun p w =>
      let m := eccMark p.2 w
      if m = 0 then p else if eccBad m then (true, uncorrectable r w p.2) else (p.1, correctable w p.2)) p).2 := by
    intro l
    induction l with
    | nil => exact fun p => .refl p.2
    | cons w l ih =>
      intro p
      refine ChainFrame.trans ?_ (ih _)
      dsimp only
      split
      · exact .refl p.2
      · split
        · exact uncorrectable_chain (.refl p.2)
        · exact correctable_chain (.refl p.2)
  have htouched : ChainFrame s (touchBank a s) := touchBank_chain (.refl s)
  unfold checkRead
  dsimp only
  split
  · exact htouched
  · exact htouched.trans (hword (wordsOf a n) (false, touchBank a s))

theorem checkRead_host (r : Reader) (a n : Nat) (s : State) : (checkRead r a n s).2.host = s.host := by
  rw [(checkRead_chain r a n s).fields]

@[simp] theorem hostWords_reads_length {id : Nat} {ws : List Word} {s : State} :
    (hostWords id ws s).host.reads.length = s.host.reads.length := List.length_map _

/-- A read that port B serves fills the words of a read under way. -/
theorem portAsk_read_reads {bank who id : Nat} {dws : List (Nat × Nat)} {s : State} :
    (portAsk ⟨bank, who, .read dws id⟩ s).host.reads.length = s.host.reads.length := by
  unfold portAsk
  split
  · simp only [portServe, storeDws]
    split
    · rw [hostWords_reads_length, portTake_host]
    · rw [hostWords_reads_length, checkRead_host, portTake_host]
  · dsimp only
    split <;> rfl

theorem rxRead_host (e : Nat) (s : State) : (rxRead e s).2.host = s.host := by
  unfold rxRead
  split
  · simp only [fifoFlag, hedAlarm, raise_host, logLimited_host]
    split
    · simp
    · split <;> simp
  · simp [fifoSts]

/-- Of two reads that leave the port alike, either leaves it so. -/
theorem read_ite_host {c : Prop} [Decidable c] {x y : Word × State} {p : HostSt} (hx : x.2.host = p) (hy : y.2.host = p) :
    (if c then x else y).2.host = p := ite_of_eq (fun r : Word × State => r.2.host) hx hy

theorem sideRead_host (a : Nat) (s : State) : (sideRead a s).2.host = s.host := by
  unfold sideRead
  exact read_ite_host rfl (read_ite_host rfl (read_ite_host rfl (read_ite_host rfl (read_ite_host rfl
    (read_ite_host (rxRead_host _ s) (read_ite_host rfl (read_ite_host resSync_host rfl)))))))

theorem readDw_host {p : Path} {a : Nat} {s : State} (h : inStore a = false) : (readDw p a s).2.host = s.host := by
  have hwoken : (if power s = 2 then hostWake p 3 s else s).host = s.host := by
    split
    · exact hostWake_host
    · rfl
  unfold readDw
  rw [h]
  dsimp only
  generalize (if power s = 2 then hostWake p 3 s else s) = u at *
  rw [if_neg (c := false = true) (by decide)]
  exact read_ite_host hwoken (read_ite_host hwoken (read_ite_host hwoken (read_ite_host hwoken ((sideRead_host a u).trans hwoken))))

theorem readBe_host {p : Path} {a be : Nat} {s : State} (h : inStore a = false) : (readBe p a be s).2.host = s.host := by
  unfold readBe
  split
  · exact readDw_host h
  · change (if be = 0 then (0#32, s) else readDw p a s).2.host = s.host
    split
    · rfl
    · exact readDw_host h

/-! ### Resets of the port -/

theorem mem_upto {i n k : Nat} : i ∈ upto k n ↔ k ≤ i ∧ i < k + n := by
  induction n generalizing k with
  | zero => simp [upto]
  | succ n ih => simp only [upto, List.mem_cons, ih]; omega

/-- The host port, the low registers and those of HOST stay. -/
structure HostKept (s t : State) : Prop where
  host : t.host = s.host
  regs : ∀ a, a < 0x10000 ∨ 0x1C2000 ≤ a ∧ a < 0x1C3000 → rget t a = rget s a

namespace HostKept

theorem refl (s : State) : HostKept s s := ⟨rfl, fun _ _ => rfl⟩

theorem trans {s t u : State} (h : HostKept s t) (k : HostKept t u) : HostKept s u :=
  ⟨k.host.trans h.host, fun a ha => (k.regs a ha).trans (h.regs a ha)⟩

theorem writeReg {s t : State} {a : Nat} {v : Word} (h : HostKept s t) (ha : 0x10000 ≤ a ∧ a < 0x1C2000) :
    HostKept s (rset a v t) := h.trans ⟨rfl, fun _ hb => rget_rset_other (by omega)⟩

theorem writeBit {s t : State} {a i : Nat} {b : Bool} (h : HostKept s t) (ha : 0x10000 ≤ a ∧ a < 0x1C2000) :
    HostKept s (setb a i b t) := h.trans ⟨setb_host, fun _ hb => rget_setb_other (by omega)⟩

theorem counted {s t : State} {a : Nat} (h : HostKept s t) (ha : 0x10000 ≤ a ∧ a < 0x1C2000) : HostKept s (count a t) :=
  h.trans ⟨rfl, fun _ hb => rget_count_other (by omega)⟩

theorem raised {s t : State} {src : Nat} (h : HostKept s t) : HostKept s (raise src t) :=
  h.trans ⟨raise_host, fun _ hb => raise_rget_of_range (by omega)⟩

theorem logged {s t : State} {cls sev inst : Nat} {d0 d1 : Word} (h : HostKept s t) : HostKept s (logCause cls sev inst d0 d1 t) :=
  h.trans ⟨logCause_host, fun _ hb => logCause_rget (by omega)⟩

theorem countedN {s t : State} {a k : Nat} (h : HostKept s t) (ha : 0x10000 ≤ a ∧ a < 0x1C2000) : HostKept s (countN a k t) :=
  h.trans ⟨rfl, fun _ hb => rget_rset_other (by omega)⟩

theorem bobbin {s t : State} {b : Nat} {f : BobSt → BobSt} (h : HostKept s t) : HostKept s (modBob b f t) := h.trans ⟨rfl, fun _ _ => rfl⟩

theorem vector {s t : State} {j : Nat} {f : VecSt → VecSt} (h : HostKept s t) : HostKept s (modVec j f t) := h.trans ⟨rfl, fun _ _ => rfl⟩

theorem scheduled {s t : State} {n : Nat} {x : Timed} (h : HostKept s t) : HostKept s (schedule n x t) := h.trans ⟨rfl, fun _ _ => rfl⟩

/-- A change of a field that is neither `regs` nor `host`. -/
theorem change {s t u : State} (h : HostKept s t) (hhost : u.host = t.host) (hregs : u.regs = t.regs) : HostKept s u :=
  h.trans ⟨hhost, fun a _ => by rw [rget, hregs, ← rget]⟩

end HostKept

theorem bobStop_kept {b : Nat} (hb : b < 32) (s : State) : HostKept s (bobStop b s) :=
  (((HostKept.refl s).writeBit (by simp only [Reg.bobCtl]; omega)).writeBit (by simp only [Reg.bobSts]; omega)).writeBit (by decide)

theorem bobFail_kept {b : Nat} (hb : b < 32) (code addr : Nat) (abort : Bool) (s : State) : HostKept s (bobFail b code addr abort s) := by
  have hreg : ∀ k, k < 0x40 → 0x10000 ≤ 0x180000 + k + 0x40 * b ∧ 0x180000 + k + 0x40 * b < 0x1C2000 := by omega
  unfold bobFail
  exact ((((((((bobStop_kept hb s).writeReg (hreg 0x1C (by decide))).writeBit (hreg 4 (by decide))).writeReg
    (hreg 0x34 (by decide))).writeReg (hreg 0x30 (by decide))).writeReg (hreg 0x2C (by decide))).bobbin.writeBit
    (by decide)).raised).logged

theorem bobComplete_kept {b : Nat} (hb : b < 32) (s : State) : HostKept s (bobComplete b s) := by
  have hsts : 0x10000 ≤ Reg.bobSts b ∧ Reg.bobSts b < 0x1C2000 := by simp only [Reg.bobSts]; omega
  have hxfer : 0x10000 ≤ Reg.bobXferCnt b ∧ Reg.bobXferCnt b < 0x1C2000 := by simp only [Reg.bobXferCnt]; omega
  have hwhen : ∀ c : Bool, HostKept s (when_ c (setb (Reg.bobSts b) 3 false) s) := fun c => by
    cases c
    · exact .refl s
    · exact (HostKept.refl s).writeBit hsts
  unfold bobComplete
  dsimp only
  generalize (bobOp s b == 2 && !(bobSt s b).mism) = c
  have hmain := ((((hwhen c).trans (bobStop_kept hb _)).writeBit (b := true) (i := 0) hsts).bobbin
    (b := b) (f := fun x => { hist := x.hist })).counted hxfer |>.raised (src := 2624 + 2 * b)
  split
  · exact hmain.scheduled
  · exact hmain

theorem bobSettle_kept {b : Nat} (hb : b < 32) (s : State) : HostKept s (bobSettle b s) := by
  unfold bobSettle
  split
  · split
    · exact bobFail_kept hb _ _ _ s
    · exact .refl s
  · split
    · exact bobComplete_kept hb s
    · exact .refl s

theorem bobEnd_kept {b : Nat} (hb : b < 32) (code addr : Nat) (abort : Bool) (s : State) : HostKept s (bobEnd b code addr abort s) := by
  unfold bobEnd
  split
  · exact .refl s
  · split
    · exact bobFail_kept hb _ _ _ s
    · exact (HostKept.refl s).change rfl rfl

theorem bobLinkDrop_kept (s : State) : HostKept s (bobLinkDrop s) := by
  refine forEach_rel HostKept.refl HostKept.trans _ s fun b hb u => ?_
  have hb : b < 32 := by rw [mem_upto] at hb; omega
  dsimp only
  split
  · exact .refl u
  · exact ((HostKept.refl u).countedN (by decide)).bobbin.trans ((bobEnd_kept hb _ _ _ _).trans (bobSettle_kept hb _))

theorem irqJudge_kept {j : Nat} (hj : j < 64) (s : State) : HostKept s (irqJudge j s) := by
  have hrelease : HostKept s (irqRelease j s) := by
    unfold irqRelease
    split
    · exact ⟨rfl, fun _ _ => rfl⟩
    · exact .refl s
  unfold irqJudge
  dsimp only
  split
  · exact .refl s
  · have hjudged := hrelease.vector (j := j) (f := fun v => { v with begun := irqWant s j })
    cases (irqWant s j).isSome
    · exact hjudged
    · exact hjudged.counted (by simp only [Reg.vecDelivCnt]; omega)

theorem redeliver_kept (j : Nat) (s : State) : HostKept s (redeliver j s) := by
  unfold redeliver
  cases vecPend s j
  · exact .refl s
  · exact (HostKept.refl s).scheduled

theorem msixRedo_kept (s : State) : HostKept s (msixRedo s) := by
  refine forEach_rel HostKept.refl HostKept.trans _ s fun j hj u => ?_
  have hj : j < 64 := by rw [mem_upto] at hj; omega
  have hvec : HostKept u (modVec j (fun x => { x with sent := [] }) u) := (HostKept.refl u).change rfl rfl
  dsimp only
  split
  · exact hvec
  · exact ((hvec.countedN (by decide)).writeBit (by simp only [Reg.vecSts]; omega)).trans
      ((irqJudge_kept hj _).trans (redeliver_kept j _))

/-- The reads under way and the table of vectors are dropped (R530). -/
def hostDropped (s : State) : State :=
  let s := countN Reg.hostDropCnt s.host.reads.length s
  let gone := fun x : Nat × Timed => match x.2 with | .busRead .pcie _ _ _ => false | _ => true
  let keep := fun r : PortReq => match r.item with | .read _ _ => false | _ => true
  let s := { s with timed := s.timed.filter gone, store := { s.store with reqs := s.store.reqs.filter keep } }
  modHost (fun h => { h with reads := [], msix := [], cfg := h.cfg.filter (fun x => x.1 == 0x0B), txFree := psOf s.time }) s

/-- The link trains anew but after a reset of the function level alone. -/
def hostTrained (q : HostResetKind) (s : State) : State := if q = .functionLevel then s else setf Reg.hostSts 1 5 0 s

theorem hostResetOp_eq (q : HostResetKind) (s : State) : hostResetOp q s =
    raise 2884 (count Reg.hostLinkrstCnt (portRun (hostTrained q (msixRedo (bobLinkDrop (hostDropped s)))))) := rfl

theorem portRun_kept (s : State) : (portRun s).host = s.host ∧ ∀ a, a ≠ Reg.hostSts → rget (portRun s) a = rget s a := by
  unfold portRun
  exact ⟨by simp, fun a ha => by rw [rget_setb_other ha, rget_setb_other ha]⟩

theorem redeliverFrom_kept (old s : State) : (redeliverFrom old s).host = s.host ∧ (redeliverFrom old s).regs = s.regs ∧
    (redeliverFrom old s).mem = s.mem := by
  refine ⟨forEach_of_eq (fun u => u.host) (fun j u => ?_) _ s, forEach_of_eq (fun u => u.regs) (fun j u => ?_) _ s,
    forEach_of_eq (fun u => u.mem) (fun j u => ?_) _ s⟩
  all_goals
    unfold redeliver
    exact when_of_eq _ (when_of_eq _ rfl)

/-- A reset of the port: its reads and its table are gone, the mode stays, and it is counted. -/
theorem hostResetOp_spec (q : HostResetKind) (s : State) : let t := hostResetOp q s
    t.host.reads = [] ∧ t.host.msix = [] ∧ rget t Reg.gctlMode = rget s Reg.gctlMode ∧
      rget t Reg.hostLinkrstCnt = satInc (rget s Reg.hostLinkrstCnt) := by
  have hlow : ∀ a, a ≠ Reg.hostDropCnt → rget (hostDropped s) a = rget s a := fun a ha => rget_rset_other ha
  have hkept := (bobLinkDrop_kept (hostDropped s)).trans (msixRedo_kept _)
  rw [hostResetOp_eq]
  generalize msixRedo (bobLinkDrop (hostDropped s)) = u at hkept ⊢
  have htrained : (hostTrained q u).host = u.host ∧ ∀ a, a ≠ Reg.hostSts → rget (hostTrained q u) a = rget u a := by
    unfold hostTrained
    split
    · exact ⟨rfl, fun _ _ => rfl⟩
    · exact ⟨rfl, fun _ ha => rget_setf_other ha⟩
  obtain ⟨hrun, hregs⟩ := portRun_kept (hostTrained q u)
  have hhost : (raise 2884 (count Reg.hostLinkrstCnt (portRun (hostTrained q u)))).host = (hostDropped s).host := by
    rw [raise_host, count_host, hrun, htrained.1, hkept.host]
  refine ⟨by rw [hhost]; rfl, by rw [hhost]; rfl, ?_, ?_⟩
  · rw [raise_rget_of_range (by decide), rget_count_other (by decide), hregs _ (by decide), htrained.2 _ (by decide),
      hkept.regs _ (by decide), hlow _ (by decide)]
  · rw [raise_rget_of_range (by decide), rget_count_same, hregs _ (by decide), htrained.2 _ (by decide),
      hkept.regs _ (by decide), hlow _ (by decide)]

/-- A link that has trained shows its rate and its width. -/
theorem linkTrainedOp_spec (rate : Fin 3) (width : Fin 2) (s : State) : let t := linkTrainedOp rate width s
    rb t Reg.hostSts 1 = true ∧ rf t Reg.hostSts 2 2 = rate + 1 ∧ rf t Reg.hostSts 4 2 = width + 1 ∧ t.mem = s.mem := by
  have hbit : ∀ (u : State) (i : Nat), i < 6 → rb (portRun u) Reg.hostSts i = rb u Reg.hostSts i := fun u i hi => by
    rw [portRun, rb_setb_other (by omega) (.inr (by omega)), rb_setb_other (by omega) (.inr (by omega))]
  have hfield : ∀ (u : State) (lo : Nat), lo ≤ 4 → rf (portRun u) Reg.hostSts lo 2 = rf u Reg.hostSts lo 2 := fun u lo hlo => by
    rw [portRun, rf_setb_other (by omega) (.inr (by omega)), rf_setb_other (by omega) (.inr (by omega))]
  unfold linkTrainedOp
  generalize hu : setf Reg.hostSts 4 2 (width + 1) (setf Reg.hostSts 2 2 (rate + 1) (setb Reg.hostSts 1 true s)) = u
  obtain ⟨-, hregs, hmem⟩ := redeliverFrom_kept s (portRun u)
  have hrb : ∀ i, rb (redeliverFrom s (portRun u)) Reg.hostSts i = rb (portRun u) Reg.hostSts i := fun i => by
    rw [rb, rget, hregs, ← rget, ← rb]
  have hrf : ∀ lo, rf (redeliverFrom s (portRun u)) Reg.hostSts lo 2 = rf (portRun u) Reg.hostSts lo 2 := fun lo => by
    rw [rf, rget, hregs, ← rget, ← rf]
  refine ⟨?_, ?_, ?_, ?_⟩
  · rw [hrb, hbit _ _ (by decide), ← hu, rb_setf_other (by decide) (by decide), rb_setf_other (by decide) (by decide),
      rb_setb_same (by decide)]
  · rw [hrf, hfield _ _ (by decide), ← hu, rf_setf_other (by decide) (by decide), rf_setf_same (by decide)]
    have := rate.isLt
    omega
  · rw [hrf, hfield _ _ (by decide), ← hu, rf_setf_same (by decide)]
    have := width.isLt
    omega
  · rw [hmem, ← hu]
    simp [portRun]

/-! ### The configuration space -/

theorem cfgOp_write {k v s} (h : 3 ≤ mode s) : let t := cfgOp true k v s
    cfgGet t k = ((cfgGet s k &&& ~~~ (cfgRow k).2.1) ||| (v &&& (cfgRow k).2.1)) &&& ~~~ (v &&& (cfgRow k).2.2) ∧
      ∀ j : Nat, j ≠ k → cfgGet t j = cfgGet s j := by
  have hhost : (cfgOp true k v s).host =
      (cfgSet k (((cfgGet s k &&& ~~~ (cfgRow k).2.1) ||| (v &&& (cfgRow k).2.1)) &&& ~~~ (v &&& (cfgRow k).2.2)) s).host := by
    have hretry : cfgRetry s = false := decide_eq_false (Nat.not_lt.2 h)
    rw [cfgOp, if_neg (by rw [hretry]; decide), if_pos rfl]
    exact (redeliverFrom_kept _ _).1.trans (portRun_kept _).1
  dsimp only
  simp only [cfgGet, hhost, cfgSet, modHost]
  exact ⟨tget_tset_same .., fun j hj => tget_tset_other _ _ _ hj⟩

/-! ### Requests that are refused -/

theorem protCount_kept (kind ctr aer : Nat) (s : State) :
    (protCount kind ctr aer s).mem = s.mem ∧ (protCount kind ctr aer s).host.reads = s.host.reads := by
  unfold protCount
  dsimp only
  split
  · simp
  · simp [cfgSet, modHost]

theorem pcieRefuse_kept {q : PcieReq} {n : Nat} {f : State → State} {s : State} (h : pcieRefuse q n s = some f) :
    (f s).mem = s.mem ∧ (f s).host.reads = s.host.reads := by
  have hur : (urOp s).mem = s.mem ∧ (urOp s).host.reads = s.host.reads := protCount_kept ..
  have hpoisoned : (poisonedOp s).mem = s.mem ∧ (poisonedOp s).host.reads = s.host.reads := protCount_kept ..
  unfold pcieRefuse at h
  dsimp only at h
  split at h
  · exact Option.some.inj h ▸ hur
  split at h
  · exact Option.some.inj h ▸ protCount_kept ..
  split at h
  · exact Option.some.inj h ▸ hpoisoned
  split at h
  · exact Option.some.inj h ▸ hur
  split at h
  · exact Option.some.inj h ▸ hur
  · contradiction

theorem exec_pcieWrite (q : PcieReq) (data : List (BitVec 32)) (s : State) : exec (.pcieWrite q data) s = execPcieWrite q data s := rfl
theorem exec_pcieRead (q : PcieReq) (n : Nat) (s : State) : exec (.pcieRead q n) s = execPcieRead q n s := rfl
theorem exec_configRequest (w : Bool) (k : Fin 1024) (v : BitVec 32) (s : State) :
    exec (.configRequest w k v) s = execConfigRequest w k v s := rfl
theorem exec_hostReset (q : HostResetKind) (s : State) : exec (.hostReset q) s = execHostReset q s := rfl

theorem pcieCmd_takes {f : State → State} {s : State} (hup : pcieUp s = true) (hfree : pathFree .pcie s ≤ s.time)
    (hturn : turnAt (pathRank .pcie) s ≤ s.time) : pcieCmd f s = .next (settle (f (inTurn .pcie s))) :=
  atTime_now (Nat.max_le.2 ⟨hfree, hturn⟩) hup

/-! ### Reads -/

theorem newRead_length {n : Nat} {ws : List Word} {s : State} : (newRead n ws s).host.reads.length = s.host.reads.length + 1 :=
  List.length_append

theorem storeRead_length (q : PcieReq) (n : Nat) (s : State) : (storeRead q n s).host.reads.length = s.host.reads.length + 1 := by
  have hwoken : (if power s = 2 then hostWake .pcie 3 s else s).host = s.host := by
    split
    · exact hostWake_host
    · rfl
  unfold storeRead
  dsimp only
  generalize (if power s = 2 then hostWake .pcie 3 s else s) = u at hwoken ⊢
  split
  · rw [newRead_length, hwoken]
  · exact (forEach_of_eq (fun u => u.host.reads.length) (fun x u => portAsk_read_reads) _ _).trans
      (newRead_length.trans (by rw [hwoken]))

theorem regsRead_length {q : PcieReq} (n : Nat) (s : State) (h : q.addr.toNat < 0x1000000) :
    (regsRead q n s).host.reads.length = s.host.reads.length + 1 := by
  have hstore : inStore (q.addr.toNat / 4 * 4) = false := by
    simp only [inStore, decide_eq_false_iff_not]
    omega
  unfold regsRead
  refine (forEach_of_eq (fun u => u.host.reads.length) (fun x u => ?_) _ _).trans (newRead_length.trans ?_)
  · rfl
  · rw [readBe_host hstore]

/-! ### SPI frames -/

theorem spiFault_mem {kind ctr : Nat} {s : State} : (spiFault kind ctr s).mem = s.mem := by simp [spiFault]

/-- What a frame that fails its checks leaves (R533, R534). -/
theorem spiFrameOp_fails {bytes : List (BitVec 8)} {u : State} (h : spiCheck u bytes ≠ .code 0) : let t := spiFrameOp bytes u
    t.mem = u.mem ∧ (∀ k, spiCheck u bytes = .silent k → t.rdata = []) ∧
      ∀ c, spiCheck u bytes = .code c → t.host.spi.code = c := by
  unfold spiFrameOp
  split
  · rename_i k hk
    exact ⟨spiFault_mem, fun _ _ => rfl, fun c hc => SpiCheck.noConfusion (hk.symm.trans hc)⟩
  · contradiction
  · rename_i c hc hcode
    have hmem : (if c = 3 then spiFault 2 Reg.hostSpiErrCnt u else if c = 4 then spiFault 3 Reg.hostSpiCrcCnt u else u).mem = u.mem := by
      split
      · exact spiFault_mem
      · split
        · exact spiFault_mem
        · rfl
    dsimp only
    have hsame : ∀ d, spiCheck u bytes = .code d → c = d := fun d hd => SpiCheck.code.inj (hcode.symm.trans hd)
    split
    · exact ⟨hmem, fun k hk => SpiCheck.noConfusion (hcode.symm.trans hk), fun d hd => hsame d hd⟩
    · exact ⟨hmem, fun k hk => SpiCheck.noConfusion (hcode.symm.trans hk), fun d hd => hsame d hd⟩

theorem spiFrameOp_write {bytes : List (BitVec 8)} {u : State} (h : spiCheck u bytes = .code 0) (hw : spiIsWrite bytes = true) :
    spiFrameOp bytes u = spiLand (frameN bytes 2 4) (leWords (spiN bytes) (bytes.drop 6)) (spiAnswer 0 0 [] u) := by
  simp only [spiFrameOp, h, hw, if_true]

theorem spiFrameOp_read {bytes : List (BitVec 8)} {u : State} (h : spiCheck u bytes = .code 0) (hw : spiIsWrite bytes = false) :
    spiFrameOp bytes u = spiSample (frameN bytes 2 4) (spiN bytes) (spiAnswer 0 (spiN bytes) [] u) := by
  simp only [spiFrameOp, h, hw, Bool.false_eq_true, if_false]

/-! ### The commands -/

theorem exec_readCompletion (s : State) : exec .readCompletion s = execReadCompletion s := rfl
theorem exec_pcieLinkTrained (rate : Fin 3) (width : Fin 2) (s : State) :
    exec (.pcieLinkTrained rate width) s = execPcieLinkTrained rate width s := rfl
/-- An accepted write lands as its target says. -/
theorem pcieWriteOp_accepted {q : PcieReq} {data : List (BitVec 32)} {u : State} (h : pcieRefuse q data.length u = none) :
    let t := pcieWriteOp q data u
    (q.bar = 1 → bar2Ok q data.length = true → t = redeliverFrom u (forEach ((upto 0 data.length).zip data)
      (fun x => bar2Put (q.addr.toNat / 4 * 4 + 4 * x.1) x.2) u)) ∧
    (q.bar = 1 → bar2Ok q data.length = false → t = bar2Bad u) ∧
    (q.bar ≠ 1 → 0x1000000 ≤ q.addr.toNat → t = storeWrite (q.addr.toNat / 4 * 4) (enableBytes q data) u) ∧
    (q.bar ≠ 1 → q.addr.toNat < 0x1000000 → t = regsWrite q data u) := by
  unfold pcieWriteOp
  simp only [h]
  refine ⟨fun hbar hok => ?_, fun hbar hok => ?_, fun hbar ha => ?_, fun hbar ha => ?_⟩
  · rw [if_pos hbar, if_pos hok]
  · rw [if_pos hbar, if_neg (by simp [hok])]
  · rw [if_neg hbar, if_pos (by omega)]
  · rw [if_neg hbar, if_neg (by omega)]

/-- An accepted read is on its way. -/
theorem pcieReadOp_accepted {q : PcieReq} {n : Nat} {u : State} (h : pcieRefuse q n u = none) : let t := pcieReadOp q n u
    t.host.reads.length = u.host.reads.length + 1 ∧
    (q.bar = 1 → bar2Ok q n = true → t = newRead n ((upto 0 n).map fun k => bar2Word u (q.addr.toNat / 4 * 4 + 4 * k)) u) ∧
    (q.bar ≠ 1 → 0x1000000 ≤ q.addr.toNat → t = storeRead q n u) ∧
    (q.bar ≠ 1 → q.addr.toNat < 0x1000000 → t = regsRead q n u) := by
  have hstores : q.bar ≠ 1 → 0x1000000 ≤ q.addr.toNat → pcieReadOp q n u = storeRead q n u := fun hbar ha => by
    simp only [pcieReadOp, h]
    rw [if_neg hbar, if_pos (by omega)]
  have hregs : q.bar ≠ 1 → q.addr.toNat < 0x1000000 → pcieReadOp q n u = regsRead q n u := fun hbar ha => by
    simp only [pcieReadOp, h]
    rw [if_neg hbar, if_neg (by omega)]
  have htable : q.bar = 1 → bar2Ok q n = true →
      pcieReadOp q n u = newRead n ((upto 0 n).map fun k => bar2Word u (q.addr.toNat / 4 * 4 + 4 * k)) u := fun hbar hok => by
    simp only [pcieReadOp, h]
    rw [if_pos hbar, if_pos hok]
  have hbad : q.bar = 1 → bar2Ok q n = false → pcieReadOp q n u = newRead n (List.replicate n 0) (bar2Bad u) := fun hbar hok => by
    simp only [pcieReadOp, h]
    rw [if_pos hbar, if_neg (by simp [hok])]
  refine ⟨?_, htable, hstores, hregs⟩
  by_cases hbar : q.bar = 1
  · cases hok : bar2Ok q n
    · rw [hbad hbar hok, newRead_length]
      exact congrArg (· + 1) (congrArg List.length (protCount_kept ..).2)
    · rw [htable hbar hok, newRead_length]
  · rcases Nat.lt_or_ge q.addr.toNat 0x1000000 with ha | ha
    · rw [hregs hbar ha, regsRead_length n u ha]
    · rw [hstores hbar ha, storeRead_length]

/-- Settles O57: a request, a frame and a reset of the port each come to the operation of the port that the rules name. -/
theorem hostPortEvents : Obligations.HostPortEvents := by
  unfold Obligations.HostPortEvents
  refine ⟨?write, ?writeRefused, ?read, ?readRefused, ?completion, ?cfgRead, ?cfgWrite, ?cfgRetry, ?reset, ?trained,
    fun b s h hok hw => ⟨accessCmd_takes h, spiFrameOp_write hok hw⟩, fun b s h hbad => ⟨accessCmd_takes h, spiFrameOp_fails hbad⟩,
    fun b s h hok hw => ⟨accessCmd_takes h, spiFrameOp_read hok hw⟩, fun b s h hbad => ⟨accessCmd_takes h, spiFrameOp_fails hbad⟩,
    fun b s h hok hw => ⟨accessCmd_takes h, spiFrameOp_write hok hw⟩, fun b s h hbad => ⟨accessCmd_takes h, spiFrameOp_fails hbad⟩,
    fun b s h hok hw => ⟨accessCmd_takes h, spiFrameOp_read hok hw⟩, fun b s h hbad => ⟨accessCmd_takes h, spiFrameOp_fails hbad⟩⟩
  case write =>
    intro q data s u t hup hfree hturn hok
    exact ⟨(exec_pcieWrite q data s).trans (pcieCmd_takes hup hfree hturn), pcieWriteOp_accepted hok⟩
  case writeRefused =>
    intro q data s u t hup hfree hturn hbad
    obtain ⟨f, hf⟩ := Option.isSome_iff_exists.1 hbad
    have ht : t = f u := by simp only [t, pcieWriteOp, hf]
    exact ⟨(exec_pcieWrite q data s).trans (pcieCmd_takes hup hfree hturn), by rw [ht]; exact (pcieRefuse_kept hf).1,
      fun g hg => by rw [ht, Option.some.inj (hf.symm.trans hg)]⟩
  case read =>
    intro q n s u t hup hfree hturn hok
    exact ⟨(exec_pcieRead q n s).trans (pcieCmd_takes hup hfree hturn), pcieReadOp_accepted hok⟩
  case readRefused =>
    intro q n s u t hup hfree hturn hbad
    obtain ⟨f, hf⟩ := Option.isSome_iff_exists.1 hbad
    have ht : t = { f u with rdata := [] } := by simp only [t, pcieReadOp, hf]
    exact ⟨(exec_pcieRead q n s).trans (pcieCmd_takes hup hfree hturn), by rw [ht], by rw [ht]; exact (pcieRefuse_kept hf).2,
      by rw [ht]; exact (pcieRefuse_kept hf).1, fun g hg => by rw [ht, Option.some.inj (hf.symm.trans hg)]⟩
  case completion =>
    intro r rest s t hreads hready hat hfree
    have hcompletes : completionAt s = r.at_ + 40 := by simp only [completionAt, hreads]
    have ht : t = { modHost (fun h => { h with reads := rest }) s with rdata := r.words } := by simp only [t, readCompleteOp, hreads]
    refine ⟨?_, by rw [ht], by rw [ht]; rfl, by rw [ht]; rfl⟩
    rw [exec_readCompletion, execReadCompletion]
    simp only [advanceTo_now hfree]
    exact atTime_now (hcompletes ▸ hat) (by simp [readReady, hreads, hready, hcompletes, hat])
  case cfgRead =>
    intro k v s t hup hmode
    refine ⟨?_, rfl, rfl⟩
    rw [exec_configRequest, execConfigRequest, nowIf_true hup, cfgOp, if_neg (by simpa [cfgRetry] using hmode)]
    rfl
  case cfgWrite =>
    intro k v s t hup hmode
    exact ⟨by rw [exec_configRequest, execConfigRequest, nowIf_true hup], cfgOp_write hmode⟩
  case cfgRetry =>
    intro w k v s t hup hmode
    rw [exec_configRequest, execConfigRequest, nowIf_true hup, cfgOp, if_pos (by simpa [cfgRetry] using hmode)]
  case reset =>
    intro q s t hmode hspi
    obtain ⟨hreads, hmsix, hgctl, hcnt⟩ := hostResetOp_spec q s
    exact ⟨by rw [exec_hostReset, execHostReset, nowIf_true (by simp [hmode, hspi])], hreads, hmsix, mode_congr hgctl, hcnt⟩
  case trained =>
    intro rate width s t hmode hspi
    exact ⟨by rw [exec_pcieLinkTrained, execPcieLinkTrained, nowIf_true (by simp [hmode, hspi])], linkTrainedOp_spec rate width s⟩

end Sys2Proof.Machine
end

section
/-!
PROOFS. Scrub and march tests of the stores, the gates and the transactions of the bobbins (O51).
-/

namespace Sys2Proof.Machine

/-! ### Scrub and march tests (R376 to R381) -/

theorem copyWaits_store (bank : Nat) (s : State) : (copyWaits bank s).store.scrubWord = s.store.scrubWord ∧
    (copyWaits bank s).store.scrubAt = s.store.scrubAt :=
  ⟨when_of_eq (fun u : State => u.store.scrubWord) rfl, when_of_eq (fun u : State => u.store.scrubAt) rfl⟩

/-- The words that a scrub read finds bad are noted; the read goes on to the next word. -/
theorem scrubOp_next (s : State) : (scrubOp s).store.scrubWord = (s.store.scrubWord + 1) % 32768 ∧
    (scrubOp s).store.scrubAt = s.time + 1 := by
  unfold scrubOp
  dsimp only
  generalize hu : forEach (s.store.marks.filter fun m => decide (m.1 % 32768 = s.store.scrubWord ∧ m.2 ≠ 0))
    (fun m s => (checkRead .scrub (0x1000000 + 8 * m.1) 8 s).2) s = u
  have htime : u.time = s.time := by
    have hread : ChainFrame s u := hu ▸ ChainFrame.forEach (fun m v => checkRead_chain .scrub (0x1000000 + 8 * m.1) 8 v) (.refl s)
    rw [hread.fields]
  refine ⟨(when_of_eq (fun v : State => v.store.scrubWord) rfl).trans ((copyWaits_store _ _).1.trans rfl),
    (when_of_eq (fun v : State => v.store.scrubAt) rfl).trans ((copyWaits_store _ _).2.trans ?_)⟩
  rw [htime]

theorem issueJob_time (k : Nat) (s : State) : (issueJob k s).time = s.time := by
  have hcut : ∀ st (u : State), (cutCommand st u).time = u.time := fun st u => by
    unfold cutCommand bgOut breakRegion
    split <;> rfl
  induction k generalizing s with
  | zero => rfl
  | succ k ih =>
    unfold issueJob
    split
    · rfl
    · split
      · rfl
      · split
        · rfl
        · split
          · rw [ih, hcut]
            rfl
          · rfl
          · rw [ih]
            rfl

theorem testFails_time (bank : Nat) (s : State) : (testFails bank s).time = s.time := by
  have hfailed : (bankFailed bank s).2.time = s.time := by
    unfold bankFailed
    dsimp only
    split
    · simp [flagRaise]
    · simp [flagRaise]
  unfold testFails
  dsimp only
  split
  · exact hfailed
  · refine Eq.trans ?_ hfailed
    unfold repairJob
    split
    · rfl
    · exact issueJob_time 8 _

theorem mtFinish_spec (r : Nat) (s : State) : let t := mtFinish r s
    mtPhase t = 0 ∧ rf t Reg.storeMtSts 8 3 = r % 8 ∧ rget t Reg.storeMtCnt = satInc (rget s Reg.storeMtCnt) ∧ t.mem = s.mem := by
  refine ⟨rf_setf_same (by decide), ?_, ?_, ?_⟩
  · rw [mtFinish, mtSet, rf_setf_other (by decide) (by decide), rf_setb_other (by decide) (by decide), rf_setf_same (by decide)] <;> rfl
  · rw [mtFinish, mtSet, rget_setf_other (by decide), rget_setb_other (by decide), rget_setf_other (by decide), rget_count_same]
  · simp [mtFinish, mtSet]

theorem testEndOp_preserving (pass : Bool) {s : State} (h : s.store.mtKind = 0) :
    testEndOp pass s = if pass then mtPhaseAt 4 s.time s else mtRelease 1 (testFails (mtBank s) s) := by
  rw [testEndOp, if_pos h]

theorem testEndOp_destructive (pass : Bool) {s : State} (h : s.store.mtKind ≠ 0) :
    testEndOp pass s = if pass then mtFinish 0 (clearBank (mtBank s) s) else mtFinish 1 (testFails (mtBank s) (clearBank (mtBank s) s)) := by
  rw [testEndOp, if_neg h]

/-! ### What the operations of a bobbin leave of it -/

@[simp] theorem logCause_bob {cls sev inst : Nat} {d0 d1 : Word} {s : State} : (logCause cls sev inst d0 d1 s).bob = s.bob := by
  rw [(logCause_frame ..).1]

@[simp] theorem logLimited_bob {cls sev inst : Nat} {d0 d1 : Word} {s : State} : (logLimited cls sev inst d0 d1 s).bob = s.bob := by
  rw [(logLimited_frame ..).1]

/-- Device time and the bobbins stay. -/
def BobKept (s t : State) : Prop := t.time = s.time ∧ t.bob = s.bob

theorem BobKept.trans {s t u : State} (h : BobKept s t) (k : BobKept t u) : BobKept s u := ⟨k.1.trans h.1, k.2.trans h.2⟩

theorem BobKept.bobSt {s t : State} (h : BobKept s t) (b : Nat) : bobSt t b = bobSt s b := by
  rw [Machine.bobSt, h.2, ← Machine.bobSt]

theorem BobKept.of_chain {s t : State} (h : ChainFrame s t) : BobKept s t := ⟨by rw [h.fields], by rw [h.fields]⟩

theorem bobStop_bob (b : Nat) (s : State) : BobKept s (bobStop b s) := ⟨by simp [bobStop], by simp [bobStop]⟩

theorem bobFail_bob (b code addr : Nat) (abort : Bool) (s : State) :
    (bobFail b code addr abort s).time = s.time ∧ (bobSt (bobFail b code addr abort s) b).txns = [] := by
  unfold bobFail
  dsimp only
  refine ⟨?_, ?_⟩
  · rw [logCause_time, raise_time, setb_time, modBob_time, rset_time, rset_time, rset_time, setb_time, rset_time,
      (bobStop_bob b s).1]
  · rw [bobSt, logCause_bob, raise_bob, setb_bob, ← bobSt, modBob_bobSt_same]

theorem bobComplete_bob (b : Nat) (s : State) : (bobComplete b s).time = s.time ∧ (bobSt (bobComplete b s) b).txns = [] := by
  have hwhen : ∀ c : Bool, (when_ c (setb (Reg.bobSts b) 3 false) s).time = s.time := fun c => when_of_eq (fun u : State => u.time) setb_time
  unfold bobComplete
  dsimp only
  generalize (bobOp s b == 2 && !(bobSt s b).mism) = c
  generalize hu : setb (Reg.bobSts b) 0 true (bobStop b (when_ c (setb (Reg.bobSts b) 3 false) s)) = u
  have htime : u.time = s.time := by rw [← hu, setb_time, (bobStop_bob b _).1, hwhen]
  have hraised : (raise (2624 + 2 * b) (count (Reg.bobXferCnt b) (modBob b (fun x => { hist := x.hist }) u))).time = s.time ∧
      (bobSt (raise (2624 + 2 * b) (count (Reg.bobXferCnt b) (modBob b (fun x => { hist := x.hist }) u))) b).txns = [] := by
    refine ⟨by rw [raise_time, count_time, modBob_time, htime], ?_⟩
    rw [bobSt, raise_bob, count_bob, ← bobSt, modBob_bobSt_same]
  split
  · exact hraised
  · exact hraised

/-- No transaction is outstanding any more, or those that were. -/
def TxnsKept (b : Nat) (s t : State) : Prop := (bobSt t b).txns = [] ∨ (bobSt t b).txns = (bobSt s b).txns

theorem TxnsKept.trans {b : Nat} {s t u : State} (h : TxnsKept b s t) (k : TxnsKept b t u) : TxnsKept b s u := by
  rcases k with k | k
  · exact .inl k
  · rcases h with h | h
    · exact .inl (k.trans h)
    · exact .inr (k.trans h)

theorem bobSettle_txns (b : Nat) (s : State) : TxnsKept b s (bobSettle b s) := by
  unfold bobSettle
  split
  · split
    · exact .inl (bobFail_bob ..).2
    · exact .inr rfl
  · split
    · exact .inl (bobComplete_bob b s).2
    · exact .inr rfl

theorem bobEnd_txns (b code addr : Nat) (abort : Bool) (s : State) :
    (bobEnd b code addr abort s).time = s.time ∧ TxnsKept b s (bobEnd b code addr abort s) := by
  unfold bobEnd
  split
  · exact ⟨rfl, .inr rfl⟩
  · split
    · exact ⟨(bobFail_bob ..).1, .inl (bobFail_bob ..).2⟩
    · exact ⟨rfl, .inr (by rw [modBob_bobSt_same])⟩

theorem bobError_txns (b code : Nat) (q : BobTxn) (s : State) : TxnsKept b s (bobError b code q s) := by
  unfold bobError
  split
  · exact bobSettle_txns b s
  · exact (bobEnd_txns b code q.addr false s).2.trans (bobSettle_txns b _)

theorem qAdvance_bob (q : Nat) (s : State) : BobKept s (qAdvance q s) := by
  unfold qAdvance
  dsimp only
  split
  · exact ⟨rfl, rfl⟩
  split
  · exact ⟨setb_time.trans rfl, setb_bob.trans rfl⟩
  repeat' split
  all_goals exact ⟨rfl, rfl⟩

theorem bobAccount_bob (b done : Nat) (s : State) : (bobAccount b done s).time = s.time ∧
    (bobSt (bobAccount b done s) b).txns = (bobSt s b).txns ∧ (bobSt (bobAccount b done s) b).issueAt = (bobSt s b).issueAt := by
  have hadvance : ∀ (l : List Nat) (u : State), BobKept u (l.foldl (fun s _ => qAdvance (bobQ s b) s) u) := by
    intro l
    induction l with
    | nil => exact fun u => ⟨rfl, rfl⟩
    | cons i l ih => exact fun u => (qAdvance_bob (bobQ u b) u).trans (ih _)
  have hkept := hadvance (upto 0 (done / qElem s (bobQ s b) - (bobSt s b).acct))
    (modBob b (fun x => { x with acct := x.acct + (done / qElem s (bobQ s b) - (bobSt s b).acct) }) s)
  refine ⟨hkept.1, ?_, ?_⟩
  · rw [bobAccount, hkept.bobSt, modBob_bobSt_same]
  · rw [bobAccount, hkept.bobSt, modBob_bobSt_same]

theorem bobCompare_txns (b : Nat) (s : State) : TxnsKept b s (bobCompare b s) := by
  refine .inr ?_
  unfold bobCompare
  dsimp only
  split
  · rw [modBob_bobSt_same]
  · rw [modBob_bobSt_same]
    simp [bobSt]

theorem bobTake_txns (b : Nat) (q : BobTxn) (s : State) : TxnsKept b s (bobTake b q s) := by
  have hwhen : ∀ (c : Bool) (f : State → State), (∀ v, TxnsKept b v (f v)) → ∀ u, TxnsKept b s u → TxnsKept b s (when_ c f u) :=
    fun c f hf u hu => by
      cases c
      · exact hu
      · exact hu.trans (hf u)
  have hmod : ∀ (f : BobSt → BobSt) (u : State), (∀ x, (f x).txns = x.txns) → TxnsKept b u (modBob b f u) := fun f u hf =>
    .inr (by rw [modBob_bobSt_same, hf])
  have hreg : ∀ a v u, TxnsKept b u (rset a v u) := fun a v u => .inr rfl
  have haccount : ∀ done u, TxnsKept b u (bobAccount b done u) := fun done u => .inr (bobAccount_bob b done u).2.1
  unfold bobTake
  dsimp only
  split
  · exact bobError_txns b 5 q s
  · refine TxnsKept.trans ?_ (bobSettle_txns b _)
    refine TxnsKept.trans ?_ (hreg _ _ _)
    split
    · exact hwhen _ _ (bobCompare_txns b) _ (hwhen _ _ (fun u => haccount _ u) _ (hmod _ s fun _ => rfl))
    · exact hwhen _ _ (bobCompare_txns b) _ (hmod _ s fun _ => rfl)
    · exact hwhen _ _ (fun u => haccount _ u) _ (hmod _ s fun _ => rfl)
    · exact hmod _ s fun _ => rfl

/-! ### Issue and return of a transaction (R386, R392) -/

/-- A bobbin keeps the number of its transactions and the cycle of its next issue. -/
structure IssueKept (b : Nat) (s t : State) : Prop where
  time : t.time = s.time
  count : (bobSt t b).txns.length = (bobSt s b).txns.length
  issueAt : (bobSt t b).issueAt = (bobSt s b).issueAt

theorem IssueKept.trans {b : Nat} {s t u : State} (h : IssueKept b s t) (k : IssueKept b t u) : IssueKept b s u :=
  ⟨k.time.trans h.time, k.count.trans h.count, k.issueAt.trans h.issueAt⟩

theorem IssueKept.of_bob {b : Nat} {s t : State} (h : BobKept s t) : IssueKept b s t := ⟨h.1, by rw [h.bobSt], by rw [h.bobSt]⟩

theorem IssueKept.when_ {b : Nat} {c : Bool} {f : State → State} {s t : State} (h : IssueKept b s t) (hf : IssueKept b t (f t)) :
    IssueKept b s (when_ c f t) := by
  cases c
  · exact h
  · exact h.trans hf

theorem bobServe_kept (b bank : Nat) (s : State) : IssueKept b s (bobServe b bank s) := by
  have hput : ∀ (f : BobTxn → BobTxn) (u : State), IssueKept b u (modBob b (fun x => { x with txns := x.txns.map f }) u) := fun f u =>
    ⟨rfl, by rw [modBob_bobSt_same, List.length_map], by rw [modBob_bobSt_same]⟩
  unfold bobServe
  split
  · exact ⟨rfl, rfl, rfl⟩
  · dsimp only
    split
    · exact (IssueKept.of_bob (.of_chain (writeBytes_chain (.refl s)))).trans (hput _ _)
    · exact (IssueKept.of_bob (.of_chain (checkRead_chain ..))).trans (hput _ _)

theorem portAsk_bob_kept (b bank : Nat) (s : State) : IssueKept b s (portAsk ⟨bank, 2 + b, .bob⟩ s) := by
  have htake : BobKept s (portTake bank (2 + b) s) :=
    ⟨when_of_eq (fun u : State => u.time) rfl, when_of_eq (fun u : State => u.bob) rfl⟩
  unfold portAsk
  split
  · have hserve := bobServe_kept b bank (portTake bank (2 + b) s)
    rw [portServe, Nat.add_sub_cancel_left]
    exact (IssueKept.of_bob htake).trans hserve
  · dsimp only
    split <;> exact ⟨rfl, rfl, rfl⟩

theorem fifoFlag_bob (e i : Nat) (s : State) : BobKept s (fifoFlag e i s) := by
  unfold fifoFlag hedAlarm
  dsimp only
  split
  · exact ⟨by simp, by simp⟩
  · split
    · exact ⟨by simp, by simp⟩
    · exact ⟨by simp, by simp⟩

theorem txWrite_bob (e : Nat) (w : Word) (s : State) : BobKept s (txWrite e w s) := by
  unfold txWrite
  split
  · exact fifoFlag_bob e 2 s
  · exact ⟨rfl, rfl⟩

theorem rxRead_bob (e : Nat) (s : State) : BobKept s (rxRead e s).2 := by
  unfold rxRead
  split
  · exact fifoFlag_bob e 3 s
  · exact ⟨rfl, rfl⟩

/-- The address at which a transaction of bobbin `b` issues. -/
def issueAddr (b : Nat) (k : BobKind) (src : Bool) (off : Nat) (s : State) : Nat :=
  if k = .flush then (bobSt s b).lastW / 4 * 4 else bobEa s b src off

theorem bobIssue_refused {b code off n : Nat} {k : BobKind} {src : Bool} {s : State}
    (h : bobRefuse s b src (k == .write) (issueAddr b k src off s) n = some code) :
    bobIssue b k src off n s = bobEnd b code (issueAddr b k src off s) false s := by
  cases k <;>
    · unfold bobIssue
      simp only [issueAddr, reduceCtorEq, if_true, if_false] at h ⊢
      simp only [h]

/-- A transaction that is added to those outstanding, asks for its port and, of a FIFO, moves its queue. -/
theorem issued_spec {b bank done : Nat} {asks moves : Bool} {f : BobSt → BobSt} {s r : State} (hr : BobKept s r)
    (hcount : (f (bobSt r b)).txns.length = (bobSt r b).txns.length + 1) (hissue : (f (bobSt r b)).issueAt = s.time + 1) :
    let t := when_ moves (bobAccount b done) (when_ asks (portAsk ⟨bank, 2 + b, .bob⟩) (modBob b f r))
    t.time = s.time ∧ (bobSt t b).txns.length = (bobSt s b).txns.length + 1 ∧ (bobSt t b).issueAt = s.time + 1 := by
  have haccount : ∀ u, IssueKept b u (bobAccount b done u) := fun u =>
    ⟨(bobAccount_bob b done u).1, congrArg List.length (bobAccount_bob b done u).2.1, (bobAccount_bob b done u).2.2⟩
  have hkept := ((IssueKept.when_ (c := asks) ⟨rfl, rfl, rfl⟩ (portAsk_bob_kept b bank (modBob b f r)))).when_ (c := moves)
    (haccount _)
  refine ⟨hkept.time.trans (by rw [modBob_time, hr.1]), hkept.count.trans ?_, hkept.issueAt.trans ?_⟩
  · rw [modBob_bobSt_same, hcount, hr.bobSt]
  · rw [modBob_bobSt_same, hissue]

theorem bobIssue_issued {b off n : Nat} {k : BobKind} {src : Bool} {s : State}
    (h : bobRefuse s b src (k == .write) (issueAddr b k src off s) n = none) : let t := bobIssue b k src off n s
    t.time = s.time ∧ (bobSt t b).txns.length = (bobSt s b).txns.length + 1 ∧ (bobSt t b).issueAt = s.time + 1 := by
  have hfifo : ∀ (c d : Bool) (e : Nat) (bytes back : List Byte) (w : Word), BobKept s
      (if c then (bytes, if k == .write then postWrite n s else s)
        else if d then (if k == .write then (bytes, txWrite e w s) else (back, (rxRead e s).2)) else (bytes, s)).2 := by
    intro c d e bytes back w
    split
    · dsimp only
      split <;> exact ⟨rfl, rfl⟩
    · split
      · split
        · exact txWrite_bob e w s
        · exact rxRead_bob e s
      · exact ⟨rfl, rfl⟩
  cases k <;>
    · unfold bobIssue
      simp only [issueAddr, reduceCtorEq, if_true, if_false] at h ⊢
      simp only [h]
      exact issued_spec (hfifo _ _ _ _ _ _) List.length_append rfl

theorem bobIssue_time (b off n : Nat) (k : BobKind) (src : Bool) (s : State) : (bobIssue b k src off n s).time = s.time := by
  cases h : bobRefuse s b src (k == .write) (issueAddr b k src off s) n with
  | none => exact (bobIssue_issued h).1
  | some code =>
    rw [bobIssue_refused h]
    exact (bobEnd_txns ..).1

theorem bobDrop_txns (b : Nat) (q : BobTxn) (s : State) : (bobSt (bobDrop b q s) b).txns = (bobSt s b).txns.erase q := by
  rw [bobDrop, modBob_bobSt_same]

/-- A transaction that has returned is no longer outstanding. -/
theorem transactionReturnOp_txns (b : Nat) (x : BobReturn) (q : BobTxn) (s : State) : let t := transactionReturnOp b x q s
    (bobSt t b).txns = [] ∨ (bobSt t b).txns = (bobSt s b).txns.erase q := by
  rw [← bobDrop_txns]
  unfold transactionReturnOp
  cases x with
  | ack => exact bobTake_txns b q _
  | data bs => exact bobTake_txns b _ _
  | hostError => exact bobError_txns b 4 q _

/-! ### The commands -/

theorem exec_scrubRead (s : State) : exec .scrubRead s = execScrubRead s := rfl
theorem exec_copyEnd (s : State) : exec .copyEnd s = copyPhase 1 copyEndOp s := rfl
theorem exec_testEnd (pass : Bool) (s : State) : exec (.testEnd pass) s = execTestEnd pass s := rfl
theorem exec_restoreEnd (s : State) : exec .restoreEnd s = copyPhase 4 (mtRelease 0) s := rfl
theorem exec_transactionIssue (b : Fin 32) (s : State) : exec (.transactionIssue b) s = execTransactionIssue b s := rfl
theorem exec_transactionReturn (b : Fin 32) (x : BobReturn) (s : State) :
    exec (.transactionReturn b x) s = execTransactionReturn b x s := rfl
theorem exec_hostCompletionTimeout (b : Fin 32) (s : State) :
    exec (.hostCompletionTimeout b) s = execHostCompletionTimeout b s := rfl

theorem copyPhase_now {k : Nat} {f : State → State} {s : State} (hlive : live s = true) (hphase : mtPhase s = k)
    (hdone : copyDone s ≤ s.time) (hfree : mtReleasing s = false) : copyPhase k f s = .next (settle (f s)) := by
  rw [copyPhase, advanceTo_now hdone]
  exact atTime_now hdone (by simp [hlive, hphase, hdone, hfree])

/-- A level that satisfies the condition now is the first that does. -/
theorem gateAt_now {s : State} {b : Nat} {c : Nat → Bool} (h : c (levelSeen s b) = true) : gateAt s b c = some s.time := by
  simp [gateAt, upto, h]

theorem bobMayIssue_at {s : State} {b : Nat} (h : bobMayIssue s b = true) : (bobSt s b).issueAt ≤ s.time := by
  simp only [bobMayIssue, Bool.and_eq_true, decide_eq_true_eq] at h
  exact h.1.1.1.2

/-- Settles O51: scrub and march tests go on phase by phase, and the transactions of a bobbin issue, return and end. -/
theorem storesAndBobbins : Obligations.StoresAndBobbins := by
  unfold Obligations.StoresAndBobbins
  refine ⟨?scrub, ?copy, ?test, ?restore, fun r s => mtFinish_spec r s, ?opens, ?closes, ?issue, ?fifo,
    fun b k kind src off n s => ⟨fun h => (bobIssue_issued h).2, bobIssue_refused⟩, ?return_, ?timeout⟩
  case scrub =>
    intro s t hrun hon hecc hnext
    exact ⟨by rw [exec_scrubRead, execScrubRead, atTime_now (Nat.le_of_eq hnext) (by simp [hrun, hon, hecc, hnext])], scrubOp_next s⟩
  case copy =>
    intro s t hlive hphase hdone hfree
    exact ⟨(exec_copyEnd s).trans (copyPhase_now hlive hphase hdone hfree), rf_setf_same (by decide), rfl, mem_schedule _ _ _, rfl⟩
  case test =>
    intro pass s t hlive hphase hdone
    refine ⟨by rw [exec_testEnd, execTestEnd, atTime_now hdone (by simp [hlive, hphase])], fun hpass hkind => ?_, fun hpass hkind => ?_, fun hpass hkind => ?_,
      fun hpass hkind => ?_⟩
    · simp only [t, testEndOp_preserving pass hkind, hpass, if_true]
      exact ⟨rf_setf_same (by decide), rfl⟩
    · simp only [t, testEndOp_destructive pass hkind, hpass, if_true]
      exact ⟨(mtFinish_spec 0 _).1, (mtFinish_spec 0 _).2.2.2⟩
    · simp only [t, testEndOp_destructive pass hkind, hpass, Bool.false_eq_true, if_false]
      exact (mtFinish_spec 1 _).1
    · simp only [t, testEndOp_preserving pass hkind, hpass, Bool.false_eq_true, if_false]
      rw [← testFails_time (mtBank s) s]
      exact mem_schedule _ _ _
  case restore =>
    intro s t hlive hphase hdone hfree
    exact ⟨(exec_restoreEnd s).trans (copyPhase_now hlive hphase hdone hfree), mem_schedule _ _ _,
      rget_setf_other (by decide), rfl⟩
  case opens =>
    intro b s t hmoves hhigh
    exact ⟨atOpt_now (gateAt_now hhigh) (Nat.le_refl _) (by simp [hmoves, hhigh]), rb_setb_same (by decide)⟩
  case closes =>
    intro b s t hmoves hlow
    exact ⟨atOpt_now (gateAt_now hlow) (Nat.le_refl _) (by simp [hmoves, hlow]), rb_setb_same (by decide)⟩
  case issue =>
    intro b k src off n s t hmay hnext hfifo
    refine ⟨?_, bobIssue_time b off n k src s⟩
    rw [exec_transactionIssue, execTransactionIssue]
    simp only [hfifo, Bool.false_eq_true, if_false, Nat.max_zero]
    rw [atTime_now (bobMayIssue_at hmay) hmay, transactionIssueOp, hnext]
  case fifo =>
    intro b s t hmay hfifo hturn
    rw [exec_transactionIssue, execTransactionIssue]
    simp only [hfifo, if_true]
    exact atTime_now (Nat.max_le.2 ⟨bobMayIssue_at hmay, hturn⟩) hmay
  case return_ =>
    intro b x q s ptr r t hlive hof hfits hwait hat hturn
    refine ⟨?_, transactionReturnOp_txns b x q r⟩
    rw [exec_transactionReturn, execTransactionReturn, hof]
    refine atTime_now (Nat.max_le.2 ⟨?_, ?_⟩) (by simp [hlive, hof, hfits, hwait])
    · split
      · exact Nat.le_refl _
      · rename_i hhost
        exact hat (by simpa using hhost)
    · split
      · rename_i hptr
        exact hturn hptr
      · exact Nat.zero_le _
  case timeout =>
    intro b q s t hlive hof hat
    refine ⟨?_, ?_⟩
    · rw [exec_hostCompletionTimeout, execHostCompletionTimeout, hof]
      exact atTime_now hat (by simp [hlive, hof])
    · rw [← bobDrop_txns]
      exact bobError_txns b 4 q _

end Sys2Proof.Machine
end

section
/-!
PROOFS. Verification of a draft, the switch, the application of channels, the end and the commit of a changeover (O55).
-/

namespace Sys2Proof.Machine

theorem stageState_setStage {n : Nat} (hn : n < 8) (s : State) : stageState (setStage n s) = n :=
  (rf_setf_same (by decide)).trans (Nat.mod_eq_of_lt hn)

/-! ### Verification (R468 to R470) -/

/-- No heddle engine has a program staged any more. -/
def unstageHeds (s : State) : State :=
  forEach (upto 0 64) (fun e s => if (hedSt s e).staged then modHed e (fun x => { x with staged := false }) s else s) s

/-- The flags of a staged draft are cleared. -/
def unstageFlags (s : State) : State :=
  setb Reg.gctlState 5 false (setb Reg.chgSts 4 false (setb Reg.chgSts 3 false (setf Reg.chgSts 12 4 0 (setStage 0 s))))

/-- No draft is staged any more. -/
def unstageDraft (s : State) : State := { s with chg := { s.chg with staged := none } }

theorem discardStaged_eq (s : State) :
    discardStaged s = unstageDraft (unstageHeds (unstageFlags (forEach (slotsWhere s fun _ x => x.staged) freeSlot s))) := by
  unfold discardStaged unstageDraft unstageHeds unstageFlags
  with_reducible rfl

theorem unstageDraft_host (s : State) : (unstageDraft s).host = s.host := rfl
theorem unstageDraft_regs (s : State) : (unstageDraft s).regs = s.regs := rfl

theorem unstageHeds_kept (s : State) : (unstageHeds s).regs = s.regs ∧ (unstageHeds s).host = s.host := by
  refine ⟨forEach_of_eq (fun v => v.regs) (fun e v => ?_) _ s, forEach_of_eq (fun v => v.host) (fun e v => ?_) _ s⟩
  · split <;> rfl
  · split <;> rfl

theorem stageState_unstageFlags (s : State) : stageState (unstageFlags s) = 0 := by
  rw [stageState, unstageFlags, rf_setb_other (by decide) (by decide), rf_setb_other (by decide) (by decide),
    rf_setb_other (by decide) (by decide), rf_setf_other (by decide) (by decide)]
  exact stageState_setStage (by decide) _

/-- The marks of what was staged go, and the state of the stage is 0. -/
theorem discardStaged_spec (s : State) : stageState (discardStaged s) = 0 ∧ (discardStaged s).host = s.host := by
  have hfreed : (forEach (slotsWhere s fun _ x => x.staged) freeSlot s).host = s.host := by
    rw [(ChainFrame.forEach (fun n u => freeSlot_chain (.refl u)) (.refl s)).fields]
  rw [discardStaged_eq]
  generalize forEach (slotsWhere s fun _ x => x.staged) freeSlot s = u at hfreed ⊢
  obtain ⟨hregs, hhost⟩ := unstageHeds_kept (unstageFlags u)
  constructor
  · rw [stageState, rf, rget, unstageDraft_regs, hregs, ← rget, ← rf, ← stageState, stageState_unstageFlags]
  · rw [unstageDraft_host, hhost, unstageFlags, setb_host, setb_host, setb_host, setf_host, setStage, setf_host, hfreed]

theorem noteRegion_host (i : Nat) (valid : Bool) (s : State) : (noteRegion i valid s).host = s.host := by
  unfold noteRegion
  dsimp only
  split <;> rfl

theorem stageDraft_stage (s : State) : stageState (stageDraft s) = 3 := stageState_setStage (by decide) _

theorem draftCheck_lt (s : State) (i : Nat) (readable : Bool) : draftCheck s i readable < 8 := by
  unfold draftCheck
  dsimp only
  repeat' split
  all_goals decide

/-! ### The switch and the application of channels (R474 to R483) -/

/-- Device time, the stores and the state of a changeover stay. -/
structure ChgFrame (s t : State) : Prop where
  time : t.time = s.time
  mem : t.mem = s.mem
  chg : t.chg = s.chg

namespace ChgFrame

theorem refl (s : State) : ChgFrame s s := ⟨rfl, rfl, rfl⟩

theorem trans {s t u : State} (h : ChgFrame s t) (k : ChgFrame t u) : ChgFrame s u :=
  ⟨k.time.trans h.time, k.mem.trans h.mem, k.chg.trans h.chg⟩

theorem ite {s t u : State} {c : Prop} [Decidable c] (ht : ChgFrame s t) (hu : ChgFrame s u) : ChgFrame s (if c then t else u) := by
  split
  · exact ht
  · exact hu

theorem forEach {α : Type} {l : List α} {f : α → State → State} {s t : State} (h : ChgFrame s t) (hf : ∀ x u, ChgFrame u (f x u)) :
    ChgFrame s (forEach l f t) := h.trans (forEach_rel refl trans l t fun x _ u => hf x u)

theorem bit {s t : State} {a i : Nat} {b : Bool} (h : ChgFrame s t) : ChgFrame s (setb a i b t) :=
  h.trans ⟨setb_time, setb_mem, setb_chg⟩

theorem whenever {s t : State} {c : Bool} {f : State → State} (h : ChgFrame s t) (hf : ChgFrame t (f t)) : ChgFrame s (when_ c f t) := by
  cases c
  · exact h
  · exact h.trans hf

end ChgFrame

theorem storeWord_chgFrame (a : Nat) (v : Word) (s : State) : ChgFrame s (storeWord a v s) := by
  unfold storeWord
  split
  · exact .refl s
  · exact ⟨rfl, rfl, rfl⟩

theorem tripOnset_chgFrame (h i chs : Nat) (s : State) : ChgFrame s (tripOnset h i chs s) := ⟨rfl, rfl, rfl⟩

theorem tripEnd_chgFrame (h i : Nat) (s : State) : ChgFrame s (tripEnd h i s) := by
  refine ChgFrame.forEach (t := modHarn h _ s) ⟨rfl, rfl, rfl⟩ fun k u => ?_
  have hended : ChgFrame u (setb (Reg.reedSts k) 2 true (setIgn k i false u)) := ChgFrame.bit ⟨rfl, rfl, rfl⟩
  exact .ite (hended.trans ⟨rfl, rfl, rfl⟩) (.refl u)

theorem refreshTrip_chgFrame (h i : Nat) (s : State) : ChgFrame s (refreshTrip h i s) := by
  unfold refreshTrip
  dsimp only
  have hlive : ∀ b c, ChgFrame s (setb (Reg.harnTripsts h) (12 + i) b (setb (Reg.harnTripsts h) (8 + i) c s)) :=
    fun b c => (ChgFrame.refl s).bit.bit
  exact .ite ((hlive _ _).trans (tripOnset_chgFrame ..)) (.ite ((hlive _ _).trans (tripEnd_chgFrame ..)) (hlive _ _))

theorem tripRewrite_chgFrame (h i mask : Nat) (was : Bool) (s : State) : ChgFrame s (tripRewrite h i mask was s) := by
  unfold tripRewrite
  exact .ite ((refreshTrip_chgFrame h i s).trans (tripOnset_chgFrame ..)) (refreshTrip_chgFrame h i s)

theorem refreshPair_chgFrame (k : Nat) (t : Inst) (s : State) : ChgFrame s (refreshPair k t s) := by
  have hframe := refreshPair_frame k t s
  exact ⟨by rw [hframe.fields], by rw [hframe.fields], by rw [hframe.fields]⟩

theorem writeHarn_trip {h i : Nat} (hi : i < 4) (v : Word) (s : State) : ChgFrame s (writeHarn (Reg.harnTrip h i) v s) := by
  have hoffs : offs (Reg.harnTrip h i) 0x120000 0x100 = 0x10 + 4 * i := by simp only [offs, Reg.harnTrip]; omega
  unfold writeHarn
  dsimp only
  rw [hoffs, if_neg (by omega), if_neg (by omega), if_neg (by omega), if_neg (by omega), if_pos (by omega)]
  exact (storeWord_chgFrame _ v s).trans (tripRewrite_chgFrame ..)

theorem applyWrite_trip {h i : Nat} (hh : h < 64) (hi : i < 4) (v : Word) (s : State) :
    ChgFrame s (applyWrite (Reg.harnTrip h i) v s) := by
  have hrange : 0x120000 ≤ Reg.harnTrip h i ∧ Reg.harnTrip h i < 0x128000 := by simp only [Reg.harnTrip]; omega
  unfold applyWrite
  refine .ite (.refl s) ?_
  rw [if_neg (by omega), if_neg (by omega), if_neg (by omega), if_neg (by omega), if_neg (by omega), if_pos (by omega)]
  exact writeHarn_trip hi v s

theorem writeReed_chgFrame (a : Nat) (v : Word) (s : State) : ChgFrame s (writeReed a v s) := by
  unfold writeReed
  refine .ite (.whenever ((storeWord_chgFrame a v s).trans (refreshPair_chgFrame ..)) ⟨rfl, rfl, rfl⟩) (storeWord_chgFrame a v s)

theorem applyWrite_reed {a : Nat} (ha : 0x128000 ≤ a ∧ a < 0x140000) (v : Word) (s : State) : ChgFrame s (applyWrite a v s) := by
  unfold applyWrite
  refine .ite (.refl s) ?_
  rw [if_neg (by omega), if_neg (by omega), if_neg (by omega), if_neg (by omega), if_neg (by omega), if_neg (by omega),
    if_pos (by omega)]
  exact writeReed_chgFrame a v s

theorem putReeds_chgFrame {h : Nat} (hh : h < 64) (ws : List Word) (s : State) : ChgFrame s (putReeds h ws s) := by
  have htrips : ChgFrame s (forEach (upto 0 4)
      (fun i => applyWrite (Reg.harnTrip h i) (ws.getD i 0 &&& rwBits (Reg.harnTrip h i))) s) :=
    forEach_rel ChgFrame.refl ChgFrame.trans _ s fun i hi u => applyWrite_trip hh (by rw [mem_upto] at hi; omega) _ u
  refine htrips.trans (forEach_rel ChgFrame.refl ChgFrame.trans _ _ fun j hj u => forEach_rel ChgFrame.refl ChgFrame.trans _ u
    fun k hk v => ?_)
  rw [mem_upto] at hj hk
  unfold putChanged
  exact .ite (applyWrite_reed (by simp only [Reg.reedCtl]; omega) _ v) (.refl v)

theorem loadReeds_chgFrame {h : Nat} (hh : h < 64) (d : Draft) (s : State) : ChgFrame s (loadReeds d h s) := by
  unfold loadReeds
  split
  · exact .refl s
  · exact putReeds_chgFrame hh _ s

theorem appliedOne_chans (d : Draft) {n : Nat} (hn : n < 512) (s : State) : n ∉ (appliedOne d n s).chg.chans := by
  have hgone : n ∉ s.chg.chans.filter fun c => c != n := by simp
  unfold appliedOne
  dsimp only
  split
  · rw [(loadReeds_chgFrame (by omega) d _).chg]
    exact hgone
  · exact hgone

/-! ### The slot table (R486) -/

/-- A copy of the slot table is programmed: the flash alone changes. -/
theorem commitOpSlots_spec (s : State) : let t := commitOpSlots s
    stageState t = 0 ∧ rb t Reg.chgSts 16 = false ∧ rb t Reg.gctlState 5 = false ∧ t.mem = s.mem ∧
    t.tack.slots.seq = s.tack.slots.seq + 1 ∧
    t.tack.slots.active = (if s.chg.commitRevert then s.tack.slots.previous else s.tack.slots.staged) ∧
    t.tack.slots.previous = s.tack.slots.active := by
  have htack : (commitOpSlots s).tack.slots = nextTable s := by simp [commitOpSlots, setStage, commitCopy, flashProgram, flashErase, modFlash, modTack]
  refine ⟨?_, ?_, rb_setb_same (by decide), by simp [commitOpSlots, setStage, commitCopy, flashProgram, flashErase, modFlash, modTack], ?_⟩
  · rw [stageState, commitOpSlots, rf_setb_other (by decide) (by decide), rf_setb_other (by decide) (by decide),
      rf_setb_other (by decide) (by decide), rf_setb_other (by decide) (by decide)]
    exact stageState_setStage (by decide) _
  · rw [commitOpSlots, rb_setb_other (by decide) (by decide), rb_setb_same (by decide)]
  · rw [htack, nextTable]
    cases s.chg.commitRevert <;> exact ⟨rfl, rfl, rfl⟩

/-! ### The commands -/

/-- A verification that a good image passes. -/
theorem verifyEnd_passes {r : Bool} {s : State}
    (h : draftCheck s s.chg.region (r && decide (s.chg.region < 4)) = 0) :
    let x := stageDraft (noteRegion s.chg.region true s)
    stageState x = 3 ∧ (s.host.bgRun = none → verifyEnd r s = x) ∧
      (∀ c, s.host.bgRun = some c → c.op ≠ 0x24 → verifyEnd r s = bgOut 0 0 (rget x Reg.chgNewVer) x) ∧
      ∀ c, s.host.bgRun = some c → c.op = 0x24 → verifyEnd r s = revertOp c x := by
  have hop : verifyOp (r && decide (s.chg.region < 4)) s = (0, stageDraft (noteRegion s.chg.region true s)) := by
    simp only [verifyOp, h, decide_true, if_true]
  refine ⟨stageDraft_stage _, fun hnone => ?_, fun c hc hop' => ?_, fun c hc hop' => ?_⟩
  · simp only [verifyEnd, hop, hnone]
  · simp only [verifyEnd, hop, hc, hop', if_false, ne_eq, not_true_eq_false]
  · simp only [verifyEnd, hop, hc, hop', if_true, if_false, ne_eq, not_true_eq_false]

/-- A verification that fails leaves its code, and its command is decided with it. -/
theorem verifyEnd_fails {r : Bool} {s : State} {code : Nat}
    (h : draftCheck s s.chg.region (r && decide (s.chg.region < 4)) = code) (hcode : code ≠ 0) : let t := verifyEnd r s
    (s.host.bgRun = none → stageState t = 0 ∧ rf t Reg.chgSts 8 4 = code) ∧
      ∀ c, s.host.bgRun = some c →
        ((laneRun t .background).bind fun y => y.out).map (fun o => (o.1, o.2.1)) = some (checkStatus code, code) := by
  have hlt : code < 8 := h ▸ draftCheck_lt ..
  have hop : verifyOp (r && decide (s.chg.region < 4)) s =
      (code, setf Reg.chgSts 8 4 code (discardStaged (noteRegion s.chg.region false s))) := by
    simp only [verifyOp, h, hcode, decide_false, if_false]
  refine ⟨fun hnone => ?_, fun c hc => ?_⟩
  · simp only [verifyEnd, hop, hnone]
    refine ⟨?_, (rf_setf_same (by decide)).trans (Nat.mod_eq_of_lt (by omega))⟩
    rw [stageState, rf_setf_other (by decide) (by decide)]
    exact (discardStaged_spec _).1
  · have hrun : (discardStaged (noteRegion s.chg.region false s)).host = s.host := by
      rw [(discardStaged_spec _).2, noteRegion_host]
    simp only [verifyEnd, hop, hc, hcode, ne_eq, not_false_eq_true, if_true]
    simp [laneRun, bgOut, hrun, hc]

@[simp] theorem logCause_sel {cls sev inst : Nat} {d0 d1 : Word} {s : State} : (logCause cls sev inst d0 d1 s).sel = s.sel := by
  rw [(logCause_frame ..).1]

theorem lineAbort_spec {s : State} (h : lcoState s = 1 ∨ lcoState s = 2) : let t := lineAbort 5 s
    lcoState t = 4 ∧ rf t Reg.selLco 4 4 = 5 ∧ t.sel.line = false := by
  unfold lineAbort
  rw [if_neg (by omega)]
  dsimp only
  generalize when_ (s.sel.line && chgPending s) (chgAbortBack 4) s = u
  generalize hv : setf Reg.selLco 4 4 5 (setLco 4 (modSel (fun x => { x with line := false }) u)) = v
  have hkept : ∀ d0, rget (logCause 0x0D02 2 0 d0 0 (raise 2845 (count Reg.selLcoAbortCnt v))) Reg.selLco = rget v Reg.selLco :=
    fun d0 => by
      have hlog : ¬ LogReg Reg.selLco := by simp [LogReg, RaiseReg, Reg.selLco, Reg.selLevOut, Reg.shedMergeCnt,
        Reg.shedExpMergeCnt, Reg.tackSts, Reg.tackLogSeq, Reg.tackLogLostCnt]
      rw [(logCause_frame ..).2 _ hlog, raise_rget fun h => hlog (.inl h), rget_count_other (by decide)]
  refine ⟨?_, ?_, ?_⟩
  · rw [lcoState, rf, hkept, ← rf, ← hv, rf_setf_other (by decide) (by decide), setLco, rf_setf_same (by decide)] <;> rfl
  · rw [rf, hkept, ← rf, ← hv, rf_setf_same (by decide)] <;> rfl
  · rw [logCause_sel, raise_sel, count_sel, ← hv]
    rfl

theorem chgEnd_stage (s : State) : stageState (commitBegin s) = 6 ∧ rb (commitBegin s) Reg.chgSts 16 = true ∧
    rget (commitBegin s) Reg.chgChgCnt = satInc (rget s Reg.chgChgCnt) := by
  refine ⟨?_, rb_setb_same (by decide), ?_⟩
  · rw [stageState, commitBegin, rf_setb_other (by decide) (by decide)]
    exact stageState_setStage (by decide) _
  · rw [commitBegin, rget_setb_other (by decide), setStage, rget_setf_other (by decide), rget_count_same]
    rfl

theorem mode_commitBegin (s : State) : mode (commitBegin s) = mode s := by
  refine mode_congr ?_
  rw [commitBegin, rget_setb_other (by decide), setStage, rget_setf_other (by decide), rget_count_other (by decide)]
  rfl

theorem switchTime_now {s : State} {n : Nat} (h : switchTime s = some n) (hn : n ≤ s.time) :
    (switchTime s).any (· ≤ s.time) = true := by
  rw [h]
  exact decide_eq_true hn

theorem exec_verifyComplete (r : Bool) (s : State) : exec (.verifyComplete r) s = execVerifyComplete r s := rfl
theorem exec_switchInstant (s : State) : exec .switchInstant s = execSwitchInstant s := rfl
theorem exec_channelApplication (n : Fin 512) (s : State) : exec (.channelApplication n) s = execChannelApplication n s := rfl
theorem exec_forcedApplication (n : Fin 512) (s : State) : exec (.forcedApplication n) s = execForcedApplication n s := rfl

/-- The switch instant of a changeover that is pending has come. -/
theorem exec_switchInstant_now {s : State} {n : Nat} (hpend : chgPending s = true) (h : switchTime s = some n) (hn : n ≤ s.time) :
    exec .switchInstant s = .next (settle (switchInstantOp s)) := by
  rw [exec_switchInstant, execSwitchInstant, if_pos hpend, atOpt_now h hn (by rw [hpend, switchTime_now h hn]; rfl)]

/-- Settles O55: each step of a changeover happens in a state that meets its condition, and leaves the stage that follows it. -/
theorem draftEvents : Obligations.DraftEvents := by
  unfold Obligations.DraftEvents
  refine ⟨?verify, ?switch, ?abort, ?apply, ?force, ?ends, ?cold, ?commit⟩
  case verify =>
    intro r s t code x hstage
    exact ⟨by rw [exec_verifyComplete, execVerifyComplete, nowIf_true (by simp [hstage])], verifyEnd_passes, verifyEnd_fails rfl⟩
  case switch =>
    intro n d s t u v hpend htime hle hgo hstaged
    have hop : switchInstantOp s = switchOp s := by
      rw [switchInstantOp, if_neg]
      rcases hgo with h | h
      · simp [h]
      · simp [h]
    refine ⟨by rw [exec_switchInstant_now hpend htime hle, hop], fun hhitless => ?_, fun hcold => ?_,
      ?_, rfl⟩
    · simp only [t, switchOp, hstaged]
      exact if_pos hhitless
    · simp only [t, switchOp, hstaged]
      exact if_neg (show ¬ rb v Reg.chgSts 3 = true by rw [hcold]; decide)
    · have hstage : rget v Reg.chgSts = rget (setStage 5 s) Reg.chgSts := by
        change rget (set64 Reg.chgSwTLo Reg.chgSwTHi s.time (setStage 5 s)) Reg.chgSts = _
        rw [set64, rget_rset_other (by decide), rget_rset_other (by decide)]
      rw [stageState, rf, hstage, ← rf]
      exact stageState_setStage (by decide) s
  case abort =>
    intro n s t hpend htime hle hline hlco
    refine ⟨?_, lineAbort_spec hlco⟩
    rw [exec_switchInstant_now hpend htime hle, switchInstantOp, if_pos]
    rw [hline]
    rcases hlco with h | h <;> simp [h]
  case apply =>
    intro n d s t hat hwaits hdue hact
    refine ⟨by rw [exec_channelApplication, execChannelApplication, atTime_now hat (by simp [hwaits, hdue])], ?_⟩
    simp only [t, channelApply, hact]
    exact appliedOne_chans d n.isLt _
  case force =>
    intro n d s t hat hwaits hact
    refine ⟨by rw [exec_forcedApplication, execForcedApplication, atTime_now hat hwaits], ?_⟩
    simp only [t, channelForce, hact]
    exact appliedOne_chans d n.isLt _
  case ends =>
    intro s t hmay
    obtain ⟨hstage, hbit, hcnt⟩ := chgEnd_stage s
    refine ⟨nowIf_true hmay, hstage, hbit, hcnt, fun h => ?_, fun h => ?_⟩
    · simp only [t, chgEnd, mode_commitBegin]
      exact if_neg h
    · simp only [t, chgEnd, mode_commitBegin]
      exact if_pos h
  case cold =>
    intro s t hstage hwait hrun
    exact ⟨nowIf_true (by simp [hstage, hwait, hrun]), (chgEnd_stage _).1, (chgEnd_stage _).2.1⟩
  case commit =>
    intro s t hbit hnvm hrun
    exact ⟨nowIf_true (by simp [hbit, hnvm, hrun]), commitOpSlots_spec s⟩

end Sys2Proof.Machine
end

section
/-!
PROOFS. What the operations of the card chain on a card that is armed, passed or completed leave (06_card_chain.md R207, R214 to R219,
R226 to R229).
-/

namespace Sys2Proof.Machine

/-! ### Cards that are armed, passed or completed -/

theorem nearLater_chain {n : Nat} {s t : State} (h : ChainFrame s t) : ChainFrame s (nearLater n t) := by
  unfold nearLater
  dsimp only
  split
  · split
    · exact nearAt_chain h
    · exact h
  · exact h

theorem holdCard_chain {n : Nat} {s t : State} (h : ChainFrame s t) : ChainFrame s (holdCard n t) := nearLater_chain (modSlot_chain h)

theorem catchUpFrom_chain {c n : Nat} {s t : State} (h : ChainFrame s t) : ChainFrame s (catchUpFrom c n t) :=
  dispatchAt_chain (modSlot_chain h)

theorem bumpCycle_chain {n : Nat} {s t : State} (h : ChainFrame s t) : ChainFrame s (bumpCycle n t) := setCardWord_chain h

theorem passedFlag_chain {a : Nat} (ha : 0x1A0030 ≤ a ∧ a ≤ 0x1A0048) {s t : State} (h : ChainFrame s t) :
    ChainFrame s (flagRaise Reg.cardSts 9 2747 (count a t)) :=
  .flagRaise (cardReg_chain (by decide) (by decide)) (h.count (cardCount_chain ha.1 ha.2))

theorem dropCard_chain {n outcome : Nat} {s t : State} (h : ChainFrame s t) : ChainFrame s (dropCard n outcome t) := by
  unfold dropCard
  refine cardRecord_chain (passedFlag_chain ?_ h)
  split <;> decide

theorem armCard_chain {fuel n : Nat} {first : Inst} {s t : State} (h : ChainFrame s t) : ChainFrame s (armCard fuel first n t) := by
  induction fuel generalizing t with
  | zero => exact holdCard_chain h
  | succ fuel ih =>
    unfold armCard
    split
    · exact holdCard_chain h
    · split
      · dsimp only
        generalize (if limpSkips t n then 5 else 4) = outcome
        split
        · exact ih (bumpCycle_chain (dropCard_chain h))
        · exact freeSlot_chain (dropCard_chain h)
      · exact catchUpFrom_chain h

theorem completeCard_chain {n outcome : Nat} {o : How} {s t : State} (h : ChainFrame s t) :
    ChainFrame s (completeCard n outcome o t) := by
  unfold completeCard
  dsimp only
  split
  · split
    · exact modSlot_chain (modSlot_chain (bumpCycle_chain (cardRecord_chain h)))
    · exact armCard_chain (modSlot_chain (bumpCycle_chain (cardRecord_chain h)))
  · exact freeSlot_chain (cardRecord_chain h)

theorem passCard_chain {forced : Bool} {n : Nat} {s t : State} (h : ChainFrame s t) : ChainFrame s (passCard forced n t) := by
  unfold passCard
  split
  · exact completeCard_chain (passedFlag_chain (by decide) h)
  · split
    · exact catchUpFrom_chain h
    · exact completeCard_chain (passedFlag_chain (by decide) h)

theorem nearAgain_chain {s t : State} (h : ChainFrame s t) : ChainFrame s (nearAgain t) := by
  unfold nearAgain
  split
  · exact h
  · exact nearAt_chain h

theorem armAngleRel_chain {ref : Int} {n : Nat} {s t : State} (h : ChainFrame s t) : ChainFrame s (armAngleRel ref n t) :=
  armCard_chain (modSlot_chain (setCardWord_chain h))

/-! ### All the cards of a tracker -/

theorem armWaiting_chain {k : Nat} {s t : State} (h : ChainFrame s t) : ChainFrame s (armWaiting k t) := by
  refine .forEach (fun n u => ?_) h
  split
  · exact armCard_chain (modSlot_chain (setCardWord_chain (.refl u)))
  · exact armAngleRel_chain (.refl u)

theorem resumeCatchUps_chain {k : Nat} {s t : State} (h : ChainFrame s t) : ChainFrame s (resumeCatchUps k t) := by
  unfold resumeCatchUps
  split
  · exact h
  · exact .forEach (fun _ u => catchUpFrom_chain (.refl u)) h

theorem slipReversed_chain {k : Nat} {pm : Int} {s t : State} (h : ChainFrame s t) : ChainFrame s (slipReversed k pm t) :=
  .forEach (fun _ u => catchUpFrom_chain (.refl u)) h

theorem endsPassed_chain {k : Nat} {a b : Int} {s t : State} (h : ChainFrame s t) : ChainFrame s (endsPassed k a b t) :=
  .forEach (fun _ u => modSlot_chain (.refl u)) h

theorem syncDisarm_chain {k : Nat} {s t : State} (h : ChainFrame s t) : ChainFrame s (syncDisarm k t) := by
  unfold syncDisarm
  dsimp only
  refine ChainFrame.when_ (.raised 2748 (.refl _)) (.forEach (fun n u => ?_) h)
  split
  · exact modSlot_chain (.refl u)
  · split
    · exact modSlot_chain (setCardWord_chain (setCardWord_chain (.refl u)))
    · exact freeSlot_chain (cardRecord_chain (.count (cardCount_chain (by decide) (by decide)) (.refl u)))

/-! ### What leaves the trackers and the position interfaces -/

/-- Device time, the trackers, the position interfaces and their registers stay. -/
structure TrdQuiet (s t : State) : Prop where
  time : t.time = s.time
  trd : t.trd = s.trd
  pos : t.pos = s.pos
  regs : ∀ a, 0x140000 ≤ a → a < 0x160000 → rget t a = rget s a

namespace TrdQuiet

theorem refl (s : State) : TrdQuiet s s := ⟨rfl, rfl, rfl, fun _ _ _ => rfl⟩

theorem trans {s t u : State} (h : TrdQuiet s t) (k : TrdQuiet t u) : TrdQuiet s u :=
  ⟨k.time.trans h.time, k.trd.trans h.trd, k.pos.trans h.pos, fun a ha hb => (k.regs a ha hb).trans (h.regs a ha hb)⟩

theorem of_chain {s t : State} (h : ChainFrame s t) : TrdQuiet s t := by
  refine ⟨by rw [h.fields], by rw [h.fields], by rw [h.fields], fun a ha hb => h.regs a ?_⟩
  simp only [ChainReg, RaiseReg, Reg.selLevOut, Reg.shedMergeCnt, Reg.shedExpMergeCnt, Reg.cardCrWr]
  omega

theorem raised (src : Nat) (s : State) : TrdQuiet s (raise src s) := of_chain (.raised src (.refl s))

theorem whenever {c : Bool} {f : State → State} {s : State} (h : TrdQuiet s (f s)) : TrdQuiet s (when_ c f s) := by
  cases c
  · exact refl s
  · exact h

theorem ite {s t u : State} {c : Prop} [Decidable c] (ht : TrdQuiet s t) (hu : TrdQuiet s u) : TrdQuiet s (if c then t else u) := by
  split
  · exact ht
  · exact hu

end TrdQuiet

theorem modeReport_quiet (m : Nat) (s : State) : TrdQuiet s (modeReport m s) := by
  have hset : TrdQuiet s (setf Reg.gctlMode 0 4 m s) :=
    ⟨rfl, rfl, rfl, fun a ha _ => rget_setf_other (by simp only [Reg.gctlMode]; omega)⟩
  unfold modeReport
  split
  · exact .refl s
  · exact (hset.trans (.whenever ⟨rfl, rfl, rfl, fun _ _ _ => rfl⟩)).trans (.raised 2885 _)

theorem modeAuto_quiet (s : State) : TrdQuiet s (modeAuto s) := by
  unfold modeAuto
  dsimp only
  split
  · split
    · exact modeReport_quiet _ s
    · exact .refl s
  · split
    · split
      · exact modeReport_quiet _ s
      · exact modeReport_quiet _ s
    · exact .refl s

theorem endAngles_quiet (t : Nat) (s : State) : TrdQuiet s (endAngles t s) := by
  refine forEach_rel TrdQuiet.refl TrdQuiet.trans _ s fun c _ u => ?_
  split
  · exact .refl u
  · exact .ite (.refl u) (.ite ⟨rfl, rfl, rfl, fun _ _ _ => rfl⟩ ⟨rfl, rfl, rfl, fun _ _ _ => rfl⟩)

end Sys2Proof.Machine
end

section
/-!
PROOFS. What the operations of the treadle trackers leave (07_treadle_trackers.md R250 to R270), and the events of a tracker (O44).
-/

namespace Sys2Proof.Machine

/-! ### The frame of the position interfaces -/

/-- Device time, the position interfaces and their registers stay. -/
structure PosQuiet (s t : State) : Prop where
  time : t.time = s.time
  pos : t.pos = s.pos
  regs : ∀ a, 0x150000 ≤ a → a < 0x160000 → rget t a = rget s a

namespace PosQuiet

theorem refl (s : State) : PosQuiet s s := ⟨rfl, rfl, fun _ _ _ => rfl⟩

theorem trans {s t u : State} (h : PosQuiet s t) (k : PosQuiet t u) : PosQuiet s u :=
  ⟨k.time.trans h.time, k.pos.trans h.pos, fun a ha hb => (k.regs a ha hb).trans (h.regs a ha hb)⟩

theorem of_quiet {s t : State} (h : TrdQuiet s t) : PosQuiet s t := ⟨h.time, h.pos, fun a ha hb => h.regs a (by omega) hb⟩

theorem mod {t : Nat} {f : TrdSt → TrdSt} (s : State) : PosQuiet s (modTrd t f s) := ⟨rfl, rfl, fun _ _ _ => rfl⟩

/-- A register of tracker `t` is written. -/
theorem writes {t a : Nat} {v : Word} (s : State) (ht : t < 4) (ha : a < 0x141000 + 0x1000 * t) : PosQuiet s (rset a v s) :=
  ⟨rfl, rfl, fun _ hb _ => rget_rset_other (by omega)⟩

theorem counts {t a : Nat} (s : State) (ht : t < 4) (ha : a < 0x141000 + 0x1000 * t) : PosQuiet s (count a s) :=
  ⟨rfl, rfl, fun _ hb _ => rget_count_other (by omega)⟩

theorem bit {t i : Nat} {b : Bool} (s : State) (ht : t < 4) : PosQuiet s (setb (Reg.trdSts t) i b s) :=
  ⟨setb_time, setb_pos, fun _ hb _ => rget_setb_other (by simp only [Reg.trdSts]; omega)⟩

theorem ite {s t u : State} {c : Prop} [Decidable c] (ht : PosQuiet s t) (hu : PosQuiet s u) : PosQuiet s (if c then t else u) := by
  split
  · exact ht
  · exact hu

theorem whenever {c : Bool} {f : State → State} {s : State} (h : PosQuiet s (f s)) : PosQuiet s (when_ c f s) := by
  cases c
  · exact refl s
  · exact h

end PosQuiet

/-! ### What a tooth that is accepted or recorded leaves of its tracker -/

/-- The registers of a tracker that no accepted tooth and no record writes: its control, its losses and the counts of its anomalies,
stalls and entries to LIMP. -/
def TrdKeptReg (t a : Nat) : Prop := a = Reg.trdCtl t ∨ a = Reg.trdLoss t ∨ Reg.trdLossCnt t ≤ a ∧ a ≤ Reg.trdLimpCnt t

/-- Tracker `t` keeps its state, its anchor, SEC_OK and those registers; and, where `still` says so, the bit of a stall. -/
structure TrackKept (t : Nat) (still : Bool) (s u : State) : Prop where
  quiet : PosQuiet s u
  anchor : (trdSt u t).a = (trdSt s t).a
  regs : ∀ a, TrdKeptReg t a → rget u a = rget s a
  state : trdState u t = trdState s t
  synced : rb u (Reg.trdSts t) 4 = rb s (Reg.trdSts t) 4
  forced : still = true → rb u (Reg.trdSts t) 5 = rb s (Reg.trdSts t) 5

theorem TrdKeptReg.range {t a : Nat} (ht : t < 4) (h : TrdKeptReg t a) : 0x140000 ≤ a ∧ a < 0x160000 ∧ a ≠ Reg.trdSts t := by
  simp only [TrdKeptReg, Reg.trdCtl, Reg.trdLoss, Reg.trdLossCnt, Reg.trdLimpCnt, Reg.trdSts] at h ⊢
  omega

namespace TrackKept

variable {t : Nat} {still : Bool} {s u v : State}

theorem refl (t : Nat) (still : Bool) (s : State) : TrackKept t still s s := ⟨.refl s, rfl, fun _ _ => rfl, rfl, rfl, fun _ => rfl⟩

theorem trans (h : TrackKept t still s u) (k : TrackKept t still u v) : TrackKept t still s v :=
  ⟨h.quiet.trans k.quiet, k.anchor.trans h.anchor, fun a ha => (k.regs a ha).trans (h.regs a ha), k.state.trans h.state,
    k.synced.trans h.synced, fun hs => (k.forced hs).trans (h.forced hs)⟩

/-- What leaves all trackers. -/
theorem of_quiet (ht : t < 4) (h : TrdQuiet s u) : TrackKept t still s u := by
  have hsts : rget u (Reg.trdSts t) = rget s (Reg.trdSts t) := by
    refine h.regs _ ?_ ?_
    · simp only [Reg.trdSts]; omega
    · simp only [Reg.trdSts]; omega
  refine ⟨.of_quiet h, by rw [trdSt, h.trd, ← trdSt], fun a ha => h.regs a (ha.range ht).1 (ha.range ht).2.1, ?_, ?_, fun _ => ?_⟩
  · rw [trdState, rf, hsts, ← rf, ← trdState]
  · rw [rb, hsts, ← rb]
  · rw [rb, hsts, ← rb]

/-- A change of what the tracker keeps beside its registers, its anchor apart. -/
theorem mod {f : TrdSt → TrdSt} (h : TrackKept t still s u) (hf : ∀ x, (f x).a = x.a) : TrackKept t still s (modTrd t f u) :=
  h.trans ⟨.mod u, by rw [modTrd_trdSt_same, hf], fun _ _ => rfl, rfl, rfl, fun _ => rfl⟩

/-- A register of the tracker is written that is neither STS nor one of those kept. -/
theorem writes {a : Nat} {v : Word} (h : TrackKept t still s u) (ht : t < 4) (ha : a < 0x141000 + 0x1000 * t)
    (hk : ¬ TrdKeptReg t a) (hs : a ≠ Reg.trdSts t) : TrackKept t still s (rset a v u) := by
  refine h.trans ⟨.writes u ht ha, rfl, fun b hb => rget_rset_other fun e => hk (e ▸ hb), ?_, ?_, fun _ => ?_⟩
  · rw [trdState, rf_rset_other hs.symm, ← trdState]
  · rw [rb_rset_other hs.symm]
  · rw [rb_rset_other hs.symm]

theorem counts {a : Nat} (h : TrackKept t still s u) (ht : t < 4) (ha : a < 0x141000 + 0x1000 * t) (hk : ¬ TrdKeptReg t a)
    (hs : a ≠ Reg.trdSts t) : TrackKept t still s (count a u) :=
  have hnoted : TrackKept t still u (noteCount a 1 u) := ⟨⟨rfl, rfl, fun _ _ _ => rfl⟩, rfl, fun _ _ => rfl, rfl, rfl, fun _ => rfl⟩
  (h.trans hnoted).writes ht ha hk hs

/-- A bit of STS is set that is neither of its state nor one of those kept. -/
theorem bit {i : Nat} {b : Bool} (h : TrackKept t still s u) (ht : t < 4) (hi : 5 ≤ i) (hstill : still = true → i ≠ 5) :
    TrackKept t still s (setb (Reg.trdSts t) i b u) := by
  refine h.trans ⟨.bit u ht, by rw [trdSt, setb_trd, ← trdSt], fun a ha => rget_setb_other (ha.range ht).2.2, ?_, ?_, fun hs => ?_⟩
  · rw [trdState, rf_setb_other (by decide) (.inr (by omega)), ← trdState]
  · rw [rb_setb_other (by decide) (.inr (by omega))]
  · exact rb_setb_other (by decide) (.inr (Ne.symm (hstill hs)))

/-- The anchor moves to `a` on the way. -/
theorem anchored {f : TrdSt → TrdSt} {a : Int} (h : TrackKept t still s u) (hf : ∀ x, (f x).a = a) :
    TrackKept t still (modTrd t (fun x => { x with a := a }) s) (modTrd t f u) :=
  ⟨⟨h.quiet.time, h.quiet.pos, h.quiet.regs⟩, by rw [modTrd_trdSt_same, modTrd_trdSt_same, hf], h.regs, h.state, h.synced, h.forced⟩

theorem ite {c : Prop} [Decidable c] (hu : TrackKept t still s u) (hv : TrackKept t still s v) :
    TrackKept t still s (if c then u else v) := by
  split
  · exact hu
  · exact hv

theorem whenever {c : Bool} {f : State → State} (h : TrackKept t still s u) (hf : TrackKept t still u (f u)) :
    TrackKept t still s (when_ c f u) := by
  cases c
  · exact h
  · exact h.trans hf

theorem raised (h : TrackKept t still s u) (ht : t < 4) (src : Nat) : TrackKept t still s (raise src u) :=
  h.trans (of_quiet ht (.raised src u))

theorem signalled (h : TrackKept t still s u) (ht : t < 4) (i : Nat) : TrackKept t still s (trdRaise t i u) := h.raised ht _

theorem chained (h : TrackKept t still s u) (ht : t < 4) (k : ChainFrame u v) : TrackKept t still s v :=
  h.trans (of_quiet ht (.of_chain k))

end TrackKept

/-! ### Records (R268, R269) -/

/-- The queue's registers are none of those kept. -/
theorem queueReg {t : Nat} {a : Nat} (ha : Reg.trdTrWr t = a ∨ Reg.trdTrLostCnt t = a) :
    a < 0x141000 + 0x1000 * t ∧ ¬ TrdKeptReg t a ∧ a ≠ Reg.trdSts t := by
  simp only [TrdKeptReg, Reg.trdTrLostCnt, Reg.trdTrWr, Reg.trdCtl, Reg.trdLoss, Reg.trdLossCnt, Reg.trdLimpCnt, Reg.trdSts] at ha ⊢
  omega

theorem toothRecord_kept {t : Nat} (ht : t < 4) (still : Bool) (kind pos rev : Nat) (sec : Bool) (i : Nat) (last : Option Nat)
    (s : State) : TrackKept t still s (toothRecord t kind pos rev sec i last s) := by
  obtain ⟨hlost, hlost', hlost''⟩ := queueReg (t := t) (.inr rfl)
  obtain ⟨hwr, hwr', hwr''⟩ := queueReg (t := t) (.inl rfl)
  unfold toothRecord
  refine .ite (.refl ..) ?_
  dsimp only
  refine .ite ?_ (.whenever (.writes ?_ ht hwr hwr' hwr'') (.raised (.refl ..) ht _))
  · exact .raised (.counts (.bit (.refl ..) ht (by decide) fun _ => by decide) ht hlost hlost' hlost'') ht _
  · exact .chained (.refl ..) ht (writeBytes_chain (writeBytes_chain (writeBytes_chain (writeBytes_chain (.refl s)))))

theorem primaryRecord_kept {t : Nat} (ht : t < 4) (still : Bool) (kind k i : Nat) (s : State) :
    TrackKept t still s (primaryRecord t kind k i s) := by
  unfold primaryRecord
  exact .mod (toothRecord_kept ht still _ _ _ _ _ _ s) fun _ => rfl

theorem secondaryRecord_kept {t : Nat} (ht : t < 4) (still : Bool) (kind i0 i : Nat) (s : State) :
    TrackKept t still s (secondaryRecord t kind i0 i s) := by
  unfold secondaryRecord
  exact .mod (toothRecord_kept ht still _ _ _ _ _ _ s) fun _ => rfl

/-! ### Accepted teeth (R257 to R259) -/

theorem pushSeg_kept (t : Nat) (still : Bool) (g : Seg) (s : State) : TrackKept t still s (pushSeg t g s) := by
  unfold pushSeg
  exact .mod (.refl ..) fun _ => rfl

theorem anchorAt_kept {t : Nat} (ht : t < 4) (still : Bool) (g : Seg) (forced : Bool) (s : State) :
    TrackKept t still s (anchorAt t g forced s) := by
  have hjump : Reg.trdJumpCnt t < 0x141000 + 0x1000 * t ∧ ¬ TrdKeptReg t (Reg.trdJumpCnt t) ∧ Reg.trdJumpCnt t ≠ Reg.trdSts t := by
    simp only [TrdKeptReg, Reg.trdJumpCnt, Reg.trdCtl, Reg.trdLoss, Reg.trdLossCnt, Reg.trdLimpCnt, Reg.trdSts]
    omega
  obtain ⟨hrange, hkept, hsts⟩ := hjump
  unfold anchorAt
  dsimp only
  generalize hv : endsPassed t _ _ _ = v
  have hends : TrackKept t still s v := by
    rw [← hv]
    exact (pushSeg_kept t still _ s).chained ht (endsPassed_chain (.refl _))
  have hjumped : TrackKept t still s (trdRaise t 11 (count (Reg.trdJumpCnt t) (setb (Reg.trdSts t) 19 true v))) :=
    .raised (.counts (.bit hends ht (by decide) fun _ => by decide) ht hrange hkept hsts) ht _
  have hpassed : ∀ ns u, ChainFrame u (forEach ns (passCard forced) u) := fun ns u =>
    .forEach (fun _ w => passCard_chain (.refl w)) (.refl u)
  generalize passedBy v t _ _ = ns
  clear hv
  split
  · exact hends
  · have hend : TrackKept t still s (forEach ns (passCard forced) (trdRaise t 11 (count (Reg.trdJumpCnt t) (setb (Reg.trdSts t) 19 true v)))) :=
      hjumped.chained ht (hpassed ns _)
    exact hend

theorem slumberCycle_kept {t : Nat} (ht : t < 4) (still : Bool) (s : State) : TrackKept t still s (slumberCycle t s) := by
  unfold slumberCycle
  dsimp only
  generalize phi s t (s.time + 1) / 2 ^ 40 = c
  split
  · have hseen : TrackKept t still s (modTrd t (fun x => { x with seen := c }) s) := .mod (.refl t still s) fun _ => rfl
    apply TrackKept.signalled hseen ht
  · exact .refl ..

/-- The registers that publish a tooth are none of those kept. -/
theorem toothReg {t a : Nat} (h : Reg.trdRate t ≤ a) (h' : a ≤ Reg.trdTtimeHi t) :
    a < 0x141000 + 0x1000 * t ∧ ¬ TrdKeptReg t a ∧ a ≠ Reg.trdSts t := by
  simp only [TrdKeptReg, Reg.trdRate, Reg.trdTtimeHi, Reg.trdCtl, Reg.trdLoss, Reg.trdLossCnt, Reg.trdLimpCnt, Reg.trdSts] at *
  omega

theorem setNum_kept {t a x : Nat} {still : Bool} {s u : State} (ht : t < 4) (hlo : Reg.trdRate t ≤ a) (hhi : a ≤ Reg.trdTtimeHi t)
    (h : TrackKept t still s u) : TrackKept t still s (setNum a x u) := by
  obtain ⟨hrange, hkept, hsts⟩ := toothReg hlo hhi
  unfold setNum
  refine .ite (h.writes ht hrange hkept hsts) (.writes (h.trans ?_) ht hrange hkept hsts)
  exact ⟨⟨rfl, rfl, fun _ _ _ => rfl⟩, rfl, fun _ _ => rfl, rfl, rfl, fun _ => rfl⟩

theorem publishRate_kept {t : Nat} {still : Bool} {s u : State} (ht : t < 4) (h : TrackKept t still s u) :
    TrackKept t still s (publishRate t u) :=
  setNum_kept ht (Nat.le_refl _) (by simp only [Reg.trdRate, Reg.trdTtimeHi]; omega) h

theorem publishTooth_kept {t : Nat} (ht : t < 4) (still : Bool) (k i n : Nat) (s : State) :
    TrackKept t still s (publishTooth t k i n s) := by
  have hreg : ∀ (a : Nat) (v : Word) (u : State), Reg.trdRate t ≤ a → a ≤ Reg.trdTtimeHi t → TrackKept t still s u →
      TrackKept t still s (rset a v u) := fun a v u hlo hhi h =>
    h.writes ht (toothReg hlo hhi).1 (toothReg hlo hhi).2.1 (toothReg hlo hhi).2.2
  unfold publishTooth
  refine .whenever (.raised (.chained (publishRate_kept ht ?_) ht (nearAgain_chain (.refl _))) ht _) (.raised (.refl ..) ht _)
  refine hreg _ _ _ ?_ ?_ (hreg _ _ _ ?_ ?_ (hreg _ _ _ ?_ ?_ (.refl ..)))
  all_goals simp only [Reg.trdRate, Reg.trdTtimeHi, Reg.trdTtimeLo, Reg.trdTpos]; omega

/-- An accepted tooth moves the anchor; a tooth without an interval leaves the bit of a stall. -/
theorem acceptTooth_kept {t : Nat} (ht : t < 4) (i k n span : Nat) (a next : Int) (T : Option Nat) (s : State) :
    TrackKept t T.isNone (modTrd t (fun x => { x with a := a }) s) (acceptTooth t i k n span a next T s) := by
  unfold acceptTooth
  dsimp only
  refine .trans ?_ ((publishTooth_kept ht _ k i n _).trans (slumberCycle_kept ht _ _))
  cases T with
  | none => exact .anchored (anchorAt_kept ht _ _ _ s) fun _ => rfl
  | some T =>
    refine .bit (setNum_kept ht ?_ ?_ (.anchored (anchorAt_kept ht _ _ _ s) fun _ => rfl)) ht (by decide) (fun h => absurd h Bool.false_ne_true)
    all_goals simp only [Reg.trdRate, Reg.trdTtimeHi, Reg.trdTper]; omega

/-! ### Changes of state (R253, R260, R261, R263) -/

/-- Tracker `t` is in state `st`, with SYNC by it; its other bits of STS, its registers and what it keeps beside them stay. -/
structure TrackMoved (t st : Nat) (s u : State) : Prop where
  quiet : PosQuiet s u
  trd : trdSt u t = trdSt s t
  regs : ∀ a, 0x140000 ≤ a → a < 0x160000 → a ≠ Reg.trdSts t → rget u a = rget s a
  state : trdState u t = st
  sync : rb u (Reg.trdSts t) 3 = decide (3 ≤ st)
  bits : ∀ i, 4 ≤ i → i < 32 → rb u (Reg.trdSts t) i = rb s (Reg.trdSts t) i

theorem setTrdState_moved {t st : Nat} (ht : t < 4) (hst : st < 8) (s : State) : TrackMoved t st s (setTrdState t st s) := by
  generalize hw : setb (Reg.trdSts t) 3 (decide (3 ≤ st)) (setf (Reg.trdSts t) 0 3 st s) = w
  have hquiet : TrdQuiet w (setTrdState t st s) := by
    rw [setTrdState, hw]
    exact .trans (.of_chain (resumeCatchUps_chain (.refl w))) (modeAuto_quiet _)
  have hsts : rget (setTrdState t st s) (Reg.trdSts t) = rget w (Reg.trdSts t) := by
    refine hquiet.regs _ ?_ ?_
    · simp only [Reg.trdSts]; omega
    · simp only [Reg.trdSts]; omega
  have hfield : trdState w t = st := by
    rw [← hw, trdState, rf_setb_other (by decide) (.inr (by decide)), rf_setf_same (by decide)]
    exact Nat.mod_eq_of_lt hst
  have hregs : ∀ a, a ≠ Reg.trdSts t → rget w a = rget s a := fun a ha => by
    rw [← hw, rget_setb_other ha, rget_setf_other ha]
  refine ⟨.trans ?_ (.of_quiet hquiet), ?_, fun a hlo hhi ha => (hquiet.regs a hlo hhi).trans (hregs a ha), ?_, ?_, fun i hi hi' => ?_⟩
  · refine ⟨by rw [← hw, setb_time, setf_time], by rw [← hw, setb_pos, setf_pos], fun a ha _ => hregs a ?_⟩
    simp only [Reg.trdSts]; omega
  · rw [trdSt, hquiet.trd, ← hw, setb_trd, setf_trd, ← trdSt]
  · rw [trdState, rf, hsts, ← rf, ← trdState, hfield]
  · rw [rb, hsts, ← rb, ← hw, rb_setb_same (by decide)]
  · rw [rb, hsts, ← rb, ← hw, rb_setb_other hi' (.inr (by omega)), rb_setf_other hi' (.inr (by omega))]

/-- A loss of sync (R260): LOST with the code and one count; the count of anomalies and SEC_OK stay. -/
structure TrackLost (t code : Nat) (s u : State) : Prop where
  quiet : PosQuiet s u
  state : trdState u t = 1
  code : rf u (Reg.trdLoss t) 0 4 = code
  counted : rget u (Reg.trdLossCnt t) = satInc (rget s (Reg.trdLossCnt t))
  anomalies : rget u (Reg.trdAnomCnt t) = rget s (Reg.trdAnomCnt t)
  synced : rb u (Reg.trdSts t) 4 = rb s (Reg.trdSts t) 4

theorem TrackLost.kept {t code : Nat} {still : Bool} {s u v : State} (h : TrackLost t code s u) (k : TrackKept t still u v) :
    TrackLost t code s v := by
  have hreg : ∀ a, TrdKeptReg t a → rget v a = rget u a := k.regs
  refine ⟨h.quiet.trans k.quiet, k.state.trans h.state, ?_, (hreg _ ?_).trans h.counted, (hreg _ ?_).trans h.anomalies,
    k.synced.trans h.synced⟩
  · rw [rf, hreg _ (.inr (.inl rfl)), ← rf, h.code]
  · simp [TrdKeptReg, Reg.trdLossCnt, Reg.trdLimpCnt]
  · simp [TrdKeptReg, Reg.trdLossCnt, Reg.trdLimpCnt, Reg.trdAnomCnt]

theorem lossReg {t a : Nat} (ha : a = Reg.trdLoss t ∨ a = Reg.trdLossCnt t) : a < 0x141000 + 0x1000 * t ∧ a ≠ Reg.trdSts t := by
  simp only [Reg.trdLoss, Reg.trdLossCnt, Reg.trdSts] at *
  omega

/-- The registers that a loss of sync writes first. -/
def lossNoted (t code pos : Nat) (s : State) : State :=
  count (Reg.trdLossCnt t) (setf (Reg.trdLoss t) 16 10 pos (setf (Reg.trdLoss t) 0 4 code s))

theorem lossNoted_spec {t code pos : Nat} (ht : t < 4) (hcode : code < 16) (s : State) :
    PosQuiet s (lossNoted t code pos s) ∧ rf (lossNoted t code pos s) (Reg.trdLoss t) 0 4 = code ∧
      rget (lossNoted t code pos s) (Reg.trdLossCnt t) = satInc (rget s (Reg.trdLossCnt t)) ∧
      ∀ a, a ≠ Reg.trdLoss t → a ≠ Reg.trdLossCnt t → rget (lossNoted t code pos s) a = rget s a := by
  have hne : Reg.trdLoss t ≠ Reg.trdLossCnt t := by simp [Reg.trdLoss, Reg.trdLossCnt]
  refine ⟨?_, ?_, ?_, fun a ha ha' => ?_⟩
  · exact .trans (.trans (.writes s ht (lossReg (.inl rfl)).1) (.writes _ ht (lossReg (.inl rfl)).1)) (.counts _ ht (lossReg (.inr rfl)).1)
  · rw [lossNoted, rf, rget_count_other hne, ← rf, rf_setf_other (by decide) (.inr (by decide)), rf_setf_same (by decide)]
    exact Nat.mod_eq_of_lt hcode
  · rw [lossNoted, rget_count_same, rget_setf_other hne.symm, rget_setf_other hne.symm]
  · rw [lossNoted, rget_count_other ha', rget_setf_other ha, rget_setf_other ha]

theorem holdAt_kept (t : Nat) (still : Bool) (p : Int) (s : State) : TrackKept t still s (holdAt t p s) := pushSeg_kept t still _ s

/-- The position rests at `p` and the rate is 0. -/
theorem rested_kept {t : Nat} (ht : t < 4) (still : Bool) (p : Int) (s : State) :
    TrackKept t still s (rset (Reg.trdRate t) 0 (holdAt t p s)) := by
  obtain ⟨hrange, hkept, hsts⟩ := toothReg (Nat.le_refl (Reg.trdRate t)) (by simp only [Reg.trdRate, Reg.trdTtimeHi]; omega)
  exact (holdAt_kept t still p s).writes ht hrange hkept hsts

/-- What a loss of sync writes before it changes the state. -/
def lossMarked (t : Nat) (limp : Bool) (f : TrdSt → TrdSt) (s : State) : State :=
  modTrd t f (setb (Reg.trdSts t) 6 false (setb (Reg.trdSts t) 8 false
    (when_ limp (trdRaise t 6) (trdRaise t 4 (setb (Reg.trdSts t) 16 true s)))))

theorem lossMarked_kept {t : Nat} (ht : t < 4) (limp : Bool) {f : TrdSt → TrdSt} (hf : ∀ x, (f x).a = x.a) (s : State) :
    TrackKept t true s (lossMarked t limp f s) := by
  have hmark : TrackKept t true s (trdRaise t 4 (setb (Reg.trdSts t) 16 true s)) :=
    .signalled (.bit (.refl ..) ht (by decide) fun _ => by decide) ht 4
  have hleft : TrackKept t true s (when_ limp (trdRaise t 6) (trdRaise t 4 (setb (Reg.trdSts t) 16 true s))) :=
    hmark.whenever (.signalled (.refl ..) ht 6)
  exact .mod (.bit (.bit hleft ht (by decide) fun _ => by decide) ht (by decide) fun _ => by decide) hf

/-- After a change of state what a loss noted stands. -/
theorem TrackMoved.lost {t code : Nat} {s b m u : State} (ht : t < 4) (hb : PosQuiet s b) (hloss : rf b (Reg.trdLoss t) 0 4 = code)
    (hcount : rget b (Reg.trdLossCnt t) = satInc (rget s (Reg.trdLossCnt t)))
    (hother : ∀ a, a ≠ Reg.trdLoss t → a ≠ Reg.trdLossCnt t → rget b a = rget s a) (hm : TrackKept t true b m)
    (hu : TrackMoved t 1 m u) : TrackLost t code s u := by
  have hreg : ∀ a, TrdKeptReg t a → rget u a = rget b a := fun a ha => by
    obtain ⟨hlo, hhi, hne⟩ := ha.range ht
    rw [hu.regs a hlo hhi hne, hm.regs a ha]
  refine ⟨(hb.trans hm.quiet).trans hu.quiet, hu.state, ?_, ?_, ?_, ?_⟩
  · rw [rf, hreg _ (.inr (.inl rfl)), ← rf, hloss]
  · rw [hreg _ (.inr (.inr (by simp [Reg.trdLossCnt, Reg.trdLimpCnt]))), hcount]
  · rw [hreg _ (.inr (.inr (by simp [Reg.trdLossCnt, Reg.trdLimpCnt, Reg.trdAnomCnt]))),
      hother _ (by simp [Reg.trdLoss, Reg.trdAnomCnt]) (by simp [Reg.trdLossCnt, Reg.trdAnomCnt])]
  · rw [hu.bits 4 (Nat.le_refl 4) (by decide), hm.synced, rb,
      hother _ (by simp [Reg.trdLoss, Reg.trdSts]) (by simp [Reg.trdLossCnt, Reg.trdSts]), ← rb]

/-- What a tracker that has lost sync keeps, its cycle held. -/
def lossCleared (held : Int) (x : TrdSt) : TrdSt := { x with held := held, scr := {}, pmax := none, prev := none, limpSec := none }

/-- A loss of sync: it is noted, the state changes, and the position rests. -/
theorem lose_form (t code : Nat) (s : State) : ∃ pos limp held p, lose t code s = syncDisarm t (endAngles t (rset (Reg.trdRate t) 0
    (holdAt t p (setTrdState t 1 (lossMarked t limp (lossCleared held) (lossNoted t code pos s)))))) :=
  ⟨_, _, _, _, rfl⟩

theorem lose_lost {t code : Nat} (ht : t < 4) (hcode : code < 16) (s : State) : TrackLost t code s (lose t code s) := by
  obtain ⟨pos, limp, held, p, hform⟩ := lose_form t code s
  obtain ⟨hquiet, hloss, hcount, hother⟩ := lossNoted_spec (pos := pos) ht hcode s
  have hmarked := lossMarked_kept (f := lossCleared held) ht limp (fun _ => rfl) (lossNoted t code pos s)
  have hmoved := setTrdState_moved (st := 1) ht (by decide) (lossMarked t limp (lossCleared held) (lossNoted t code pos s))
  have hlost := hmoved.lost ht hquiet hloss hcount hother hmarked
  rw [hform]
  refine hlost.kept (still := true) ((rested_kept ht true p _).trans (.of_quiet ht (.trans (endAngles_quiet t _) (.of_chain ?_))))
  exact syncDisarm_chain (.refl _)

/-- An anomaly (R252): one count and bit 17 of STS. -/
structure TrackOdd (t : Nat) (s u : State) : Prop where
  quiet : PosQuiet s u
  trd : trdSt u t = trdSt s t
  regs : ∀ a, 0x140000 ≤ a → a < 0x160000 → a ≠ Reg.trdSts t → a ≠ Reg.trdAnomCnt t → rget u a = rget s a
  state : trdState u t = trdState s t
  synced : rb u (Reg.trdSts t) 4 = rb s (Reg.trdSts t) 4
  counted : rget u (Reg.trdAnomCnt t) = satInc (rget s (Reg.trdAnomCnt t))

theorem anomaly_odd {t : Nat} (ht : t < 4) (s : State) : TrackOdd t s (anomaly t s) := by
  have hne : Reg.trdSts t ≠ Reg.trdAnomCnt t := by simp [Reg.trdSts, Reg.trdAnomCnt]
  have hraised : TrdQuiet (count (Reg.trdAnomCnt t) (setb (Reg.trdSts t) 17 true s)) (anomaly t s) := .raised _ _
  have hrange : 0x140000 ≤ Reg.trdSts t ∧ Reg.trdSts t < 0x160000 ∧ 0x140000 ≤ Reg.trdAnomCnt t ∧ Reg.trdAnomCnt t < 0x160000 ∧
      Reg.trdAnomCnt t < 0x141000 + 0x1000 * t := by
    simp only [Reg.trdSts, Reg.trdAnomCnt]; omega
  obtain ⟨hlo, hhi, hlo', hhi', hmine⟩ := hrange
  have hsts : rget (anomaly t s) (Reg.trdSts t) = rget (setb (Reg.trdSts t) 17 true s) (Reg.trdSts t) := by
    rw [hraised.regs _ hlo hhi, rget_count_other hne]
  refine ⟨((PosQuiet.bit s ht).trans (.counts _ ht hmine)).trans (.of_quiet hraised), ?_, fun a ha hb hs hc => ?_, ?_, ?_, ?_⟩
  · rw [trdSt, hraised.trd, count_trd, setb_trd, ← trdSt]
  · rw [hraised.regs a ha hb, rget_count_other hc, rget_setb_other hs]
  · rw [trdState, rf, hsts, ← rf, rf_setb_other (by decide) (.inr (by decide)), ← trdState]
  · rw [rb, hsts, ← rb, rb_setb_other (by decide) (.inr (by decide))]
  · rw [hraised.regs _ hlo' hhi', rget_count_same, rget_setb_other hne.symm]

/-- What the miss of a window that SEC_STRICT makes a loss of sync is read from (R251, R254). -/
theorem strictMiss_congr {t : Nat} {s u : State} (htime : u.time = s.time) (htrd : trdSt u t = trdSt s t)
    (hstate : trdState u t = trdState s t) (hctl : rget u (Reg.trdCtl t) = rget s (Reg.trdCtl t))
    (htol : rget u (Reg.trdSecTol t) = rget s (Reg.trdSecTol t)) : strictMiss u t = strictMiss s t := by
  have hphi : phi u t u.time = phi s t s.time := by rw [phi, hstate, htrd, htime, ← phi]
  have hpassed : ∀ i, windowPassed u t i = windowPassed s t i := fun i => by
    unfold windowPassed
    rw [htrd, hphi, secTol, rf, htol, ← rf, ← secTol]
  simp only [strictMiss, hstate, rb, hctl, funext hpassed]

/-- LIMP is entered with one count (R261). -/
theorem limpEntry_spec {t : Nat} (ht : t < 4) (s : State) : trdState (limpEntry t s) t = 4 ∧
    rget (limpEntry t s) (Reg.trdLimpCnt t) = satInc (rget s (Reg.trdLimpCnt t)) := by
  have hmoved := setTrdState_moved (st := 4) ht (by decide) s
  have hne : Reg.trdSts t ≠ Reg.trdLimpCnt t := by simp [Reg.trdSts, Reg.trdLimpCnt]
  have hraised : TrdQuiet (count (Reg.trdLimpCnt t) (setb (Reg.trdSts t) 20 true (setTrdState t 4 s))) (limpEntry t s) := .raised _ _
  have hrange : 0x140000 ≤ Reg.trdSts t ∧ Reg.trdSts t < 0x160000 ∧ 0x140000 ≤ Reg.trdLimpCnt t ∧ Reg.trdLimpCnt t < 0x160000 := by
    simp only [Reg.trdSts, Reg.trdLimpCnt]; omega
  obtain ⟨hlo, hhi, hlo', hhi'⟩ := hrange
  constructor
  · rw [trdState, rf, hraised.regs _ hlo hhi, rget_count_other hne, ← rf, rf_setb_other (by decide) (.inr (by decide)), ← trdState,
      hmoved.state]
  · rw [hraised.regs _ hlo' hhi', rget_count_same, rget_setb_other hne.symm, hmoved.regs _ hlo' hhi' hne.symm]

theorem enterLimp_kept {t : Nat} (s : State) : TrackKept t true (limpEntry t s) (enterLimp t s) := by
  unfold enterLimp
  dsimp only
  generalize hm : modTrd t _ (limpEntry t s) = m
  have hmod : TrackKept t true (limpEntry t s) m := by
    rw [← hm]
    exact .mod (.refl ..) fun _ => rfl
  split
  · split
    · exact hmod.trans (holdAt_kept t true _ m)
    · exact hmod.trans (pushSeg_kept t true _ m)
  · exact hmod.trans (holdAt_kept t true _ m)

/-- STALLED at rate 0, with one count (R263). -/
structure TrackStalled (t : Nat) (s u : State) : Prop where
  quiet : PosQuiet s u
  state : trdState u t = 5
  counted : rget u (Reg.trdStallCnt t) = satInc (rget s (Reg.trdStallCnt t))
  rate : rget u (Reg.trdRate t) = 0

theorem stallHere_stalled {t : Nat} (ht : t < 4) (s : State) : TrackStalled t s (stallHere t s) := by
  unfold stallHere
  dsimp only
  generalize decide (trdState s t = 4) = limp
  have hmoved := setTrdState_moved (st := 5) ht (by decide) s
  generalize setTrdState t 5 s = m at *
  generalize hn : modTrd t _ m = n
  have hnoted : TrackKept t true m n := by
    rw [← hn]
    exact .mod (.refl ..) fun _ => rfl
  have hleft : TrackKept t true m (when_ limp (trdRaise t 6) n) := hnoted.whenever (f := trdRaise t 6) (.signalled (.refl t true n) ht 6)
  generalize when_ limp (trdRaise t 6) n = w at hleft
  have hmarked : TrackKept t true m (setb (Reg.trdSts t) 18 true w) := hleft.bit ht (by decide) fun _ => by decide
  generalize setb (Reg.trdSts t) 18 true w = v at hmarked
  have hcount : rget v (Reg.trdStallCnt t) = rget s (Reg.trdStallCnt t) := by
    have hreg : TrdKeptReg t (Reg.trdStallCnt t) := .inr (.inr (by simp [Reg.trdLossCnt, Reg.trdStallCnt, Reg.trdLimpCnt]))
    obtain ⟨hlo, hhi, hne⟩ := hreg.range ht
    rw [hmarked.regs _ hreg, hmoved.regs _ hlo hhi hne]
  have hend : TrdQuiet (rset (Reg.trdRate t) 0 (trdRaise t 7 (count (Reg.trdStallCnt t) v)))
    (endAngles t (rset (Reg.trdRate t) 0 (trdRaise t 7 (count (Reg.trdStallCnt t) v)))) := endAngles_quiet t _
  generalize endAngles t _ = u at hend
  have hraised : TrdQuiet (count (Reg.trdStallCnt t) v) (trdRaise t 7 (count (Reg.trdStallCnt t) v)) := .raised _ _
  have hrange : 0x140000 ≤ Reg.trdSts t ∧ Reg.trdSts t < 0x160000 ∧ 0x140000 ≤ Reg.trdStallCnt t ∧ Reg.trdStallCnt t < 0x141000 + 0x1000 * t ∧
      0x140000 ≤ Reg.trdRate t ∧ Reg.trdRate t < 0x141000 + 0x1000 * t := by
    simp only [Reg.trdSts, Reg.trdStallCnt, Reg.trdRate]; omega
  have hapart : Reg.trdSts t ≠ Reg.trdRate t ∧ Reg.trdStallCnt t ≠ Reg.trdRate t ∧ Reg.trdSts t ≠ Reg.trdStallCnt t := by
    simp [Reg.trdSts, Reg.trdStallCnt, Reg.trdRate]
  obtain ⟨hlo, hhi, hlo', hhi', hlo'', hhi''⟩ := hrange
  obtain ⟨hrate, hstall, hsts⟩ := hapart
  refine ⟨?_, ?_, ?_, ?_⟩
  · have hcounted : PosQuiet v (count (Reg.trdStallCnt t) v) := .counts v ht hhi'
    exact (((hmoved.quiet.trans hmarked.quiet).trans hcounted).trans (.of_quiet hraised)).trans ((PosQuiet.writes _ ht hhi'').trans (.of_quiet hend))
  · rw [trdState, rf, hend.regs _ hlo hhi, rget_rset_other hrate, hraised.regs _ hlo hhi, rget_count_other hsts, ← rf, ← trdState,
      hmarked.state, hmoved.state]
  · rw [hend.regs _ hlo' (by omega), rget_rset_other hstall, hraised.regs _ hlo' (by omega), rget_count_same, hcount]
  · rw [hend.regs _ hlo'' (by omega), rget_rset_same]

theorem trdSts_range {t : Nat} (ht : t < 4) : 0x140000 ≤ Reg.trdSts t ∧ Reg.trdSts t < 0x160000 := by
  simp only [Reg.trdSts]; omega

/-- A missed window clears SEC_OK, and is a loss of sync with SEC_STRICT (R251). -/
theorem windowBad_spec {t : Nat} (ht : t < 4) (s : State) : PosQuiet s (windowBad t s) ∧
    rb (windowBad t s) (Reg.trdSts t) 4 = false ∧
    trdState (windowBad t s) t = if rb s (Reg.trdCtl t) 5 then 1 else trdState s t := by
  obtain ⟨hlo, hhi⟩ := trdSts_range ht
  have hraised : TrdQuiet (setb (Reg.trdSts t) 4 false s) (trdRaise t 13 (setb (Reg.trdSts t) 4 false s)) := .raised _ _
  have hquiet : PosQuiet s (trdRaise t 13 (setb (Reg.trdSts t) 4 false s)) := (PosQuiet.bit s ht).trans (.of_quiet hraised)
  have hctl : rb (trdRaise t 13 (setb (Reg.trdSts t) 4 false s)) (Reg.trdCtl t) 5 = rb s (Reg.trdCtl t) 5 := by
    rw [rb, hraised.regs _ (by simp only [Reg.trdCtl]; omega) (by simp only [Reg.trdCtl]; omega),
      rget_setb_other (by simp [Reg.trdCtl, Reg.trdSts]), ← rb]
  have hok : rb (trdRaise t 13 (setb (Reg.trdSts t) 4 false s)) (Reg.trdSts t) 4 = false := by
    rw [rb, hraised.regs _ hlo hhi, ← rb, rb_setb_same (by decide)]
  have hstate : trdState (trdRaise t 13 (setb (Reg.trdSts t) 4 false s)) t = trdState s t := by
    rw [trdState, rf, hraised.regs _ hlo hhi, ← rf, rf_setb_other (by decide) (.inr (by decide)), ← trdState]
  unfold windowBad
  generalize trdRaise t 13 (setb (Reg.trdSts t) 4 false s) = m at *
  dsimp only
  rw [hctl]
  split
  · have hlost := lose_lost (code := 5) ht (by decide) m
    exact ⟨hquiet.trans hlost.quiet, by rw [hlost.synced, hok], hlost.state⟩
  · exact ⟨hquiet, hok, hstate⟩

/-- An edge in its window sets SEC_OK (R251). -/
theorem windowHit_spec (t i : Nat) (c : Int) (s : State) : rb (windowHit t i c s) (Reg.trdSts t) 4 = true ∧
    trdState (windowHit t i c s) t = trdState s t := by
  unfold windowHit
  constructor
  · exact rb_setb_same (by decide)
  · rw [trdState, rf_setb_other (by decide) (.inr (by decide))]
    split
    · rfl
    · rfl

/-- A stall that no missed window precedes (R254, R263). -/
theorem declareStall_stalled {t : Nat} (ht : t < 4) {s : State} (hmiss : strictMiss s t = false) :
    TrackStalled t s (declareStall t s) := by
  have hstalled := stallHere_stalled ht (holdAt t (phi s t s.time) s)
  rw [declareStall, hmiss, if_neg (by decide)]
  exact ⟨(holdAt_kept t true _ s).quiet.trans hstalled.quiet, hstalled.state, hstalled.counted, hstalled.rate⟩

theorem declareStall_quiet {t : Nat} (ht : t < 4) (s : State) : PosQuiet s (declareStall t s) := by
  cases hmiss : strictMiss s t
  · exact (declareStall_stalled ht hmiss).quiet
  · rw [declareStall, hmiss, if_pos rfl]
    exact (windowBad_spec ht s).1

/-! ### Teeth of a wheel (R252, R254, R257, R264) -/

/-- The state in which an edge of tracker `t` is judged: it no longer waits, and it is counted since the last secondary edge. -/
def edgeTaken (t : Nat) (x : Timed) (s : State) : State :=
  modTrd t (fun y => { y with secN := y.secN + 1 }) { s with timed := s.timed.erase (s.time, x) }

theorem edgeTaken_trdSt {t : Nat} {x : Timed} {s : State} :
    trdSt (edgeTaken t x s) t = { trdSt s t with secN := (trdSt s t).secN + 1 } := modTrd_trdSt_same

/-- The wheel pattern is read from registers alone. -/
theorem toNext_congr {t : Nat} {s u : State} (h : ∀ k, present u t k = present s t k) (fuel k m : Nat) :
    toNext u t fuel k m = toNext s t fuel k m := by
  induction fuel generalizing m with
  | zero => rfl
  | succ fuel ih => rw [toNext, toNext, h, ih]

theorem spanN_edgeTaken {t k : Nat} {x : Timed} {s : State} : spanN (edgeTaken t x s) t k = spanN s t k :=
  toNext_congr (s := s) (u := edgeTaken t x s) (fun _ => rfl) _ _ _

theorem spanPu_edgeTaken {t k n : Nat} {x : Timed} {s : State} : spanPu (edgeTaken t x s) t k n = spanPu s t k n := rfl

/-- In SYNCED a tooth is judged by toothSynced. -/
theorem takeEdge_synced {t j : Nat} {s : State} (h : trdState s t = 3) :
    takeEdge (.tooth t j) s = toothSynced t (slumberInst s j) (edgeTaken t (.tooth t j) s) := by
  have htaken : trdState (edgeTaken t (.tooth t j) s) t = 3 := h
  change toothWheel t j { s with timed := s.timed.erase (s.time, .tooth t j) } = _
  unfold toothWheel
  dsimp only
  rw [← edgeTaken, htaken]
  rfl

/-- After a stall that was not one of LIMP it is judged by toothResume. -/
theorem takeEdge_stalled {t j : Nat} {s : State} (h : trdState s t = 5) (hlimp : (trdSt s t).limpStall = false) :
    takeEdge (.tooth t j) s = toothResume t (slumberInst s j) (edgeTaken t (.tooth t j) s) := by
  have htaken : trdState (edgeTaken t (.tooth t j) s) t = 5 := h
  have hwheel : (trdSt (edgeTaken t (.tooth t j) s) t).limpStall = false := by rw [edgeTaken_trdSt, hlimp]
  change toothWheel t j { s with timed := s.timed.erase (s.time, .tooth t j) } = _
  unfold toothWheel
  dsimp only
  rw [← edgeTaken, htaken, hwheel, if_neg (by decide)]
  rfl

/-- A tooth that passes its check moves the anchor on by the span of its interval. -/
theorem toothSynced_passes {t i : Nat} (ht : t < 4) {p : Tooth} {s : State} (hstate : trdState s t = 3)
    (hprev : (trdSt s t).prev = some p) (hcode : toothCode s t p i (spanN s t p.k) = 0) :
    trdState (toothSynced t i s) t = 3 ∧
      (trdSt (toothSynced t i s) t).a = (trdSt s t).a + (spanPu s t p.k (spanN s t p.k) : Nat) := by
  unfold toothSynced
  rw [hprev]
  dsimp only
  rw [hcode, if_neg (by decide)]
  generalize hacc : acceptTooth t i _ _ _ _ _ _ s = v
  have hkept : TrackKept t false
      (modTrd t (fun x => { x with a := (trdSt s t).a + (spanPu s t p.k (spanN s t p.k) : Nat) }) s) v := by
    rw [← hacc]
    exact acceptTooth_kept ht _ _ _ _ _ _ (some (i - p.t)) s
  have hend := hkept.trans (primaryRecord_kept ht false (if 1 < spanN s t p.k then 1 else 0) (nextK s t p.k) i v)
  constructor
  · rw [hend.state]
    exact hstate
  · rw [hend.anchor, modTrd_trdSt_same]

/-- What an anomaly in SYNCED goes on to keep: the tooth is screened and recorded. -/
theorem screenedRecord_kept {t : Nat} (ht : t < 4) (c : Screen) (k i : Nat) (s : State) :
    TrackKept t true s (primaryRecord t 3 k i (modTrd t (fun x => { x with scr := c }) s)) := by
  have hmod : TrackKept t true s (modTrd t (fun x => { x with scr := c }) s) := .mod (.refl ..) fun _ => rfl
  exact hmod.trans (primaryRecord_kept ht true 3 k i _)

/-- A tooth that fails its check in SYNCED. -/
theorem toothSynced_fails {t i : Nat} {p : Tooth} {s : State} (hprev : (trdSt s t).prev = some p)
    (hcode : toothCode s t p i (spanN s t p.k) ≠ 0) : ∃ c, toothSynced t i s =
      primaryRecord t 3 p.k i (modTrd t (fun x => { x with scr := c })
        (if rb (anomaly t s) (Reg.trdCtl t) 4 && rb (anomaly t s) (Reg.trdSts t) 4 then
          (if strictMiss (anomaly t s) t then windowBad t (anomaly t s) else enterLimp t (anomaly t s))
         else lose t (toothCode s t p i (spanN s t p.k)) (anomaly t s))) := by
  refine ⟨{ prev := some { t := i, T := some (i - p.t) } }, ?_⟩
  unfold toothSynced
  rw [hprev]
  dsimp only
  rw [if_pos hcode]

theorem toothCode_lt {t i n : Nat} {p : Tooth} {s : State} : toothCode s t p i n < 16 := by
  unfold toothCode ratioCode
  grind

/-- The checks of an anomaly in SYNCED read what it leaves. -/
theorem TrackOdd.checks {t : Nat} {s u : State} (ht : t < 4) (h : TrackOdd t s u) :
    rb u (Reg.trdCtl t) 4 = rb s (Reg.trdCtl t) 4 ∧ strictMiss u t = strictMiss s t := by
  have hreg : ∀ a, a = Reg.trdCtl t ∨ a = Reg.trdSecTol t → rget u a = rget s a := fun a ha => by
    refine h.regs a ?_ ?_ ?_ ?_
    all_goals simp only [Reg.trdCtl, Reg.trdSecTol, Reg.trdSts, Reg.trdAnomCnt] at *; omega
  exact ⟨by rw [rb, hreg _ (.inl rfl), ← rb], strictMiss_congr h.quiet.time h.trd h.state (hreg _ (.inl rfl)) (hreg _ (.inr rfl))⟩

/-- One that fails it is an anomaly, and without LIMP a loss of sync. -/
theorem toothSynced_loses {t i : Nat} (ht : t < 4) {p : Tooth} {s : State} (hprev : (trdSt s t).prev = some p)
    (hcode : toothCode s t p i (spanN s t p.k) ≠ 0) (hlimp : (rb s (Reg.trdCtl t) 4 && rb s (Reg.trdSts t) 4) = false) :
    trdState (toothSynced t i s) t = 1 ∧ rf (toothSynced t i s) (Reg.trdLoss t) 0 4 = toothCode s t p i (spanN s t p.k) ∧
      rget (toothSynced t i s) (Reg.trdAnomCnt t) = satInc (rget s (Reg.trdAnomCnt t)) := by
  have hodd := anomaly_odd ht s
  obtain ⟨c, hform⟩ := toothSynced_fails hprev hcode
  have hlost := (lose_lost ht (toothCode_lt (t := t) (i := i) (n := spanN s t p.k) (p := p) (s := s)) (anomaly t s)).kept (screenedRecord_kept ht c p.k i _)
  rw [hform, (hodd.checks ht).1, hodd.synced, hlimp, if_neg (by decide)]
  exact ⟨hlost.state, hlost.code, hlost.anomalies.trans hodd.counted⟩

/-- With LIMP and SEC_OK, and no missed window that SEC_STRICT makes a loss of sync, it enters LIMP. -/
theorem toothSynced_limps {t i : Nat} (ht : t < 4) {p : Tooth} {s : State} (hprev : (trdSt s t).prev = some p)
    (hcode : toothCode s t p i (spanN s t p.k) ≠ 0) (hlimp : rb s (Reg.trdCtl t) 4 = true) (hok : rb s (Reg.trdSts t) 4 = true)
    (hmiss : strictMiss s t = false) :
    trdState (toothSynced t i s) t = 4 ∧ rget (toothSynced t i s) (Reg.trdLimpCnt t) = satInc (rget s (Reg.trdLimpCnt t)) := by
  have hodd := anomaly_odd ht s
  obtain ⟨c, hform⟩ := toothSynced_fails hprev hcode
  obtain ⟨hctl, hstrict⟩ := hodd.checks ht
  obtain ⟨hstate, hcount⟩ := limpEntry_spec ht (anomaly t s)
  have hkept := (enterLimp_kept (t := t) (anomaly t s)).trans (screenedRecord_kept ht c p.k i _)
  have hreg : TrdKeptReg t (Reg.trdLimpCnt t) := .inr (.inr (by simp [Reg.trdLossCnt, Reg.trdLimpCnt]))
  obtain ⟨hlo, hhi, hne⟩ := hreg.range ht
  rw [hform, hctl, hodd.synced, hlimp, hok, hstrict, hmiss, if_pos (by decide), if_neg (by decide)]
  refine ⟨hkept.state.trans hstate, ?_⟩
  rw [hkept.regs _ hreg, hcount, hodd.regs _ hlo hhi hne (by simp [Reg.trdLimpCnt, Reg.trdAnomCnt])]

/-- The first tooth after a stall makes the tracker SYNCED without a rate. -/
theorem toothResume_syncs {t i : Nat} (ht : t < 4) {s : State} (hprev : (trdSt s t).prev ≠ none) :
    trdState (toothResume t i s) t = 3 ∧ rb (toothResume t i s) (Reg.trdSts t) 5 = true := by
  obtain ⟨p, hp⟩ := Option.ne_none_iff_exists'.mp hprev
  have hmoved := setTrdState_moved (st := 3) ht (by decide) s
  unfold toothResume
  rw [hp]
  dsimp only
  generalize setTrdState t 3 s = m at *
  have hstate : trdState (setb (Reg.trdSts t) 5 true m) t = 3 := by
    rw [trdState, rf_setb_other (by decide) (.inr (by decide)), ← trdState, hmoved.state]
  have hforced : rb (setb (Reg.trdSts t) 5 true m) (Reg.trdSts t) 5 = true := rb_setb_same (by decide)
  generalize setb (Reg.trdSts t) 5 true m = w at hstate hforced
  generalize hacc : acceptTooth t i (nextK s t p.k) _ _ _ _ none w = v
  obtain ⟨a, hkept⟩ : ∃ a : Int, TrackKept t true (modTrd t (fun x => { x with a := a }) w) v :=
    ⟨_, hacc ▸ acceptTooth_kept ht i (nextK s t p.k) _ _ _ _ none w⟩
  have hend := (hkept.signalled ht 8).trans (primaryRecord_kept ht true 4 (nextK s t p.k) i _)
  exact ⟨hend.state.trans hstate, (hend.forced rfl).trans hforced⟩

/-! ### Secondary edges (R251, R254) -/

theorem takeEdge_second {t j st : Nat} {s : State} (hstate : trdState s t = st) (hst : 3 ≤ st) : takeEdge (.second t j) s =
    modTrd t (fun x => { x with secSeen := true, secN := 0 })
      (secondaryKnown t (slumberInst s j) { s with timed := s.timed.erase (s.time, .second t j) }) := by
  have htaken : trdState { s with timed := s.timed.erase (s.time, .second t j) } t = st := hstate
  change secondaryOp t j _ = _
  unfold secondaryOp
  rw [htaken]
  obtain ⟨n, rfl⟩ := Nat.exists_eq_add_of_le' hst
  rfl

/-- In SYNCED an edge in its window sets SEC_OK. -/
theorem secondaryKnown_hits {t i : Nat} (ht : t < 4) {x : Nat × Int} {s : State} (hstate : trdState s t = 3)
    (hhit : secondaryHit s t i = some x) :
    trdState (secondaryKnown t i s) t = 3 ∧ rb (secondaryKnown t i s) (Reg.trdSts t) 4 = true := by
  obtain ⟨j, c⟩ := x
  obtain ⟨hok, hkept⟩ := windowHit_spec t j c s
  unfold secondaryKnown
  rw [hhit, hstate]
  dsimp only
  rw [if_neg (by decide), if_neg (by decide)]
  have hrecord := secondaryRecord_kept ht false 5 j i (windowHit t j c s)
  exact ⟨(hrecord.state.trans hkept).trans hstate, hrecord.synced.trans hok⟩

/-- In LIMP one out of window is a loss of sync. -/
theorem secondaryKnown_misses {t i : Nat} (ht : t < 4) {s : State} (hstate : trdState s t = 4) (hhit : secondaryHit s t i = none) :
    trdState (secondaryKnown t i s) t = 1 ∧ rf (secondaryKnown t i s) (Reg.trdLoss t) 0 4 = 9 := by
  unfold secondaryKnown
  rw [hhit, hstate]
  dsimp only
  rw [if_pos rfl]
  have hlost := lose_lost (code := 9) ht (by decide) (trdRaise t 13 (setb (Reg.trdSts t) 4 false s))
  have hend := hlost.kept (secondaryRecord_kept ht true 6 0 i _)
  exact ⟨hend.state, hend.code⟩

/-! ### The events of a tracker (O44) -/

theorem exec_tooth (t : Fin 4) (i : Nat) (s : State) : exec (.tooth t i) s = execTooth t i s := rfl
theorem exec_secondaryEdge (t : Fin 4) (i : Nat) (s : State) : exec (.secondaryEdge t i) s = execSecondaryEdge t i s := rfl
theorem exec_cycleStart (t : Fin 4) (s : State) : exec (.cycleStart t) s = execCycleStart t s := rfl
theorem exec_secondaryWindowMiss (t : Fin 4) (i : Fin 8) (s : State) :
    exec (.secondaryWindowMiss t i) s = execSecondaryWindowMiss t i s := rfl
theorem exec_stall (t : Fin 4) (s : State) : exec (.stall t) s = execStall t s := rfl
theorem exec_beaconMiss (t : Fin 4) (s : State) : exec (.beaconMiss t) s = execBeaconMiss t s := rfl

theorem tooth_judged {t : Fin 4} {j : Nat} {s : State} (h : landed s (.tooth t j) = true) :
    exec (.tooth t j) s = .next (settle (takeEdge (.tooth t j) s)) := by
  rw [exec_tooth, execTooth, nowIf_true h]

theorem second_judged {t : Fin 4} {j : Nat} {s : State} (h : landed s (.second t j) = true) :
    exec (.secondaryEdge t j) s = .next (settle (takeEdge (.second t j) s)) := by
  rw [exec_secondaryEdge, execSecondaryEdge, nowIf_true h]

theorem edgeTaken_prev {t : Nat} {x : Timed} {s : State} : (trdSt (edgeTaken t x s) t).prev = (trdSt s t).prev := by
  rw [edgeTaken_trdSt]

theorem strictMiss_edgeTaken {t : Nat} {x : Timed} {s : State} : strictMiss (edgeTaken t x s) t = strictMiss s t := by
  have hwins : (trdSt (edgeTaken t x s) t).wins = (trdSt s t).wins := by rw [edgeTaken_trdSt]
  have hsegs : (trdSt (edgeTaken t x s) t).segs = (trdSt s t).segs := by rw [edgeTaken_trdSt]
  have hphi : phi (edgeTaken t x s) t (edgeTaken t x s).time = phi s t s.time := by
    unfold phi
    rw [hsegs]
    rfl
  have hpassed : ∀ i, windowPassed (edgeTaken t x s) t i = windowPassed s t i := fun i => by
    unfold windowPassed
    rw [hwins, hphi]
    rfl
  unfold strictMiss
  rw [funext hpassed]
  rfl

theorem cycleStart_counts {t : Fin 4} {s : State} (hstate : 3 ≤ trdState s t) (hrun : running s = true)
    (hphi : nextCycleStart s t ≤ phi s t s.time) :
    ∃ u, exec (.cycleStart t) s = .next (settle u) ∧ (trdSt u t).seen = (trdSt s t).seen + 1 ∧
      trdState u t = trdState s t ∧ u.mem = s.mem := by
  have hdue : reachCycle s t (nextCycleStart s t) = some s.time := if_pos hphi
  have hraised := (TrdQuiet.raised (2304 + 16 * t.val + 0) (modTrd t (fun x => { x with seen := x.seen + 1 }) s))
  obtain ⟨hlo, hhi⟩ := trdSts_range t.isLt
  refine ⟨trdRaise t 0 (modTrd t (fun x => { x with seen := x.seen + 1 }) s), ?_, ?_, ?_, raise_mem⟩
  · rw [exec_cycleStart, execCycleStart, if_neg (by omega), atOpt_now hdue (Nat.le_refl _)]
    rw [hrun, decide_eq_true hstate, decide_eq_true hphi]
    rfl
  · rw [trdRaise, trdSt, hraised.trd, ← trdSt, modTrd_trdSt_same]
  · rw [trdRaise, trdState, rf, hraised.regs _ hlo hhi]
    rfl

theorem beaconMiss_loses {t : Fin 4} {s : State} (hlive : live s = true) (hmiss : beaconMissed s t = true) :
    ∃ u, exec (.beaconMiss t) s = .next (settle u) ∧ trdState u t = 1 ∧
      (3 ≤ trdState s t → rf u (Reg.trdLoss t) 0 4 = 7 ∧ rget u (Reg.trdLossCnt t) = satInc (rget s (Reg.trdLossCnt t))) := by
  have hstate : ∀ f, trdState (modTrd t f s) t = trdState s t := fun f => rfl
  refine ⟨beaconMissOp t s, ?_, ?_⟩
  · rw [exec_beaconMiss, execBeaconMiss, nowIf_true]
    rw [hlive, hmiss]
    rfl
  · unfold beaconMissOp
    dsimp only
    rw [hstate]
    split
    · have hlost := lose_lost (code := 7) t.isLt (by decide) (modTrd t (fun x => { x with bcnMiss := 0 }) s)
      exact ⟨hlost.state, fun _ => ⟨hlost.code, hlost.counted⟩⟩
    · next hlow => exact ⟨(setTrdState_moved t.isLt (by decide) _).state, fun h => absurd h hlow⟩

theorem stall_declared {t : Fin 4} {c : Nat} {s : State} (hcycle : stallCycle s t = some c) (hc : c ≤ s.time) (hlive : live s = true)
    (hdue : stallDue (judgeEdges t s) t = true) : exec (.stall t) s = .next (settle
      (if trdSrc s t = 0 then declareStall t (judgeEdges t s) else schedule s.time (.stall t) s)) := by
  rw [exec_stall, execStall, atOpt_now hcycle hc]
  rw [hlive, hdue]
  rfl

theorem windowMiss_judged {t : Fin 4} {i : Fin 8} {s : State} (hlive : live s = true) (hstate : trdState s t = 3)
    (hpassed : windowPassed s t i = true) :
    ∃ u, exec (.secondaryWindowMiss t i) s = .next (settle u) ∧ rb u (Reg.trdSts t) 4 = false ∧
      trdState u t = if rb s (Reg.trdCtl t) 5 then 1 else 3 := by
  have hbad := windowBad_spec t.isLt (modTrd t (fun x => { x with wins := tset x.wins i (tget 0 x.wins i + 2 ^ 24) }) s)
  refine ⟨_, ?_, hbad.2.1, hbad.2.2.trans ?_⟩
  · rw [exec_secondaryWindowMiss, execSecondaryWindowMiss, nowIf_true]
    rw [hlive, hstate, hpassed]
    rfl
  · rw [← hstate]
    rfl

/-- Settles O44: what each event of a tracker leaves, through the frames of an accepted tooth, of a change of state, of a loss of sync
and of a stall. -/
theorem trackerEvents : Obligations.TrackerEvents := by
  refine ⟨fun t i s => tooth_judged, ?_, ?_, ?_, fun t j s hland hstate hlimp hprev => ?_, fun t st s hst => ?_, fun t i s => second_judged,
    fun t j x s hland hstate hhit => ?_, fun t j s hland hstate hhit => ?_, fun t s => cycleStart_counts,
    fun t i s => windowMiss_judged, ?_, fun t c s hcycle hc hlive hdue hsrc => ?_, ?_, fun t s => beaconMiss_loses⟩
  · intro t j p s i n hland hstate hprev hcode
    have hpass := toothSynced_passes (i := i) t.isLt (p := p) (s := edgeTaken t (.tooth t j) s) hstate (edgeTaken_prev.trans hprev)
      (by rw [spanN_edgeTaken]; exact hcode)
    refine ⟨_, tooth_judged hland, ?_, ?_⟩
    · rw [takeEdge_synced hstate]
      exact hpass.1
    · rw [takeEdge_synced hstate, hpass.2, edgeTaken_trdSt, spanN_edgeTaken, spanPu_edgeTaken]
  · intro t j p s i c hland hstate hprev hcode hlimp
    have hloss := toothSynced_loses (i := i) t.isLt (p := p) (s := edgeTaken t (.tooth t j) s) (edgeTaken_prev.trans hprev)
      (by rw [spanN_edgeTaken]; exact hcode) hlimp
    rw [spanN_edgeTaken] at hloss
    refine ⟨_, tooth_judged hland, ?_⟩
    rw [takeEdge_synced hstate]
    exact hloss
  · intro t j p s i hland hstate hprev hcode hlimp hok hmiss
    have hlimps := toothSynced_limps (i := i) t.isLt (p := p) (s := edgeTaken t (.tooth t j) s) (edgeTaken_prev.trans hprev)
      (by rw [spanN_edgeTaken]; exact hcode) hlimp hok
      (strictMiss_edgeTaken.trans hmiss)
    refine ⟨_, tooth_judged hland, ?_⟩
    rw [takeEdge_synced hstate]
    exact hlimps
  · refine ⟨_, tooth_judged hland, ?_⟩
    rw [takeEdge_stalled hstate hlimp]
    exact toothResume_syncs t.isLt (mt edgeTaken_prev.symm.trans hprev)
  · have hmoved := setTrdState_moved t.isLt hst s
    exact ⟨hmoved.state, hmoved.sync⟩
  · refine ⟨_, second_judged hland, ?_⟩
    rw [takeEdge_second hstate (Nat.le_refl 3)]
    exact secondaryKnown_hits t.isLt (i := slumberInst s j) (s := { s with timed := s.timed.erase (s.time, .second t j) }) hstate hhit
  · refine ⟨_, second_judged hland, ?_⟩
    rw [takeEdge_second hstate (by decide)]
    exact secondaryKnown_misses t.isLt (i := slumberInst s j) (s := { s with timed := s.timed.erase (s.time, .second t j) }) hstate hhit
  · intro t c s q hcycle hc hlive hdue hsrc hmiss
    have hstalled := declareStall_stalled t.isLt hmiss
    exact ⟨_, (stall_declared hcycle hc hlive hdue).trans (by rw [if_pos hsrc]), hstalled.state, hstalled.counted, hstalled.rate⟩
  · rw [stall_declared hcycle hc hlive hdue, if_neg hsrc]
  · intro t s u
    have hu : u = when_ (stallDue s t) (declareStall t) s := rfl
    refine ⟨fun hdue => ?_, fun hdue hmiss => ?_⟩
    · rw [hu, hdue]
      rfl
    · have hstalled := declareStall_stalled t.isLt hmiss
      rw [hdue] at hu
      rw [hu]
      exact ⟨hstalled.state, hstalled.counted, hstalled.rate⟩

end Sys2Proof.Machine
end

section
/-!
PROOFS. What the trackers leave of the position interfaces that they follow (R266, R282), what the operations of an interface leave
(08_position_interfaces.md R288 to R299), and its events (O45).
-/

namespace Sys2Proof.Machine

/-! ### What a tracker leaves of the position interfaces -/

theorem PosQuiet.signalled {s u : State} (h : PosQuiet s u) (t i : Nat) : PosQuiet s (trdRaise t i u) :=
  h.trans (.of_quiet (.raised _ u))

theorem PosQuiet.modded {t : Nat} {f : TrdSt → TrdSt} {s u : State} (h : PosQuiet s u) : PosQuiet s (modTrd t f u) := h.trans (.mod u)

theorem PosQuiet.chained {s u v : State} (h : PosQuiet s u) (k : ChainFrame u v) : PosQuiet s v := h.trans (.of_quiet (.of_chain k))

theorem PosQuiet.moved {t st : Nat} {s u : State} (ht : t < 4) (hst : st < 8) (h : PosQuiet s u) : PosQuiet s (setTrdState t st u) :=
  h.trans (setTrdState_moved ht hst u).quiet

theorem PosQuiet.flagged {t i : Nat} {b : Bool} {s u : State} (ht : t < 4) (h : PosQuiet s u) : PosQuiet s (setb (Reg.trdSts t) i b u) :=
  h.trans (.bit u ht)

theorem PosQuiet.recorded {t kind k i : Nat} {s u : State} (ht : t < 4) (h : PosQuiet s u) : PosQuiet s (primaryRecord t kind k i u) :=
  h.trans (primaryRecord_kept ht false kind k i u).quiet

theorem PosQuiet.lost {t code : Nat} {s u : State} (ht : t < 4) (hcode : code < 16) (h : PosQuiet s u) : PosQuiet s (lose t code u) :=
  h.trans (lose_lost ht hcode u).quiet

theorem PosQuiet.odd {t : Nat} {s u : State} (ht : t < 4) (h : PosQuiet s u) : PosQuiet s (anomaly t u) := h.trans (anomaly_odd ht u).quiet

theorem PosQuiet.accepted {t i k n span : Nat} {a next : Int} {T : Option Nat} {s u : State} (ht : t < 4) (h : PosQuiet s u) :
    PosQuiet s (acceptTooth t i k n span a next T u) :=
  h.trans ((PosQuiet.mod u).trans (acceptTooth_kept ht i k n span a next T u).quiet)

theorem trackFault_quiet (i : Nat) (s : State) : PosQuiet s (trackFault i s) := by
  refine forEach_rel PosQuiet.refl PosQuiet.trans _ s fun t ht u => ?_
  have ht : t < 4 := by simpa using (mem_upto.1 ht).2
  refine .ite (.refl u) (.recorded ht (.ite (.lost ht (by decide) (.odd ht (.refl u))) (.ite ?_ (.odd ht (.refl u)))))
  exact .moved ht (by decide) (.modded (.odd ht (.refl u)))

theorem trackStandstill_quiet (i : Nat) (s : State) : PosQuiet s (trackStandstill i s) := by
  refine forEach_rel PosQuiet.refl PosQuiet.trans _ s fun t ht u => ?_
  have ht : t < 4 := by simpa using (mem_upto.1 ht).2
  exact .ite (declareStall_quiet ht u) (.refl u)

theorem dropPmax_quiet (t : Nat) (s : State) : PosQuiet s (dropPmax t s) := by
  unfold dropPmax
  split
  · exact .ite (.modded (.chained (.refl s) (slipReversed_chain (.refl s)))) (.refl s)
  · exact .refl s

theorem initWindows_quiet (t : Nat) (a : Int) (s : State) : PosQuiet s (initWindows t a s) := by
  unfold initWindows
  exact .ite (.mod s) (.mod s)

theorem gainSync_quiet {t : Nat} (ht : t < 4) (i k n span phase next : Nat) (T Tp : Option Nat) (r : Nat) (s : State) :
    PosQuiet s (gainSync t i k n span phase next T Tp r s) := by
  have hrange : Reg.trdTpos t < 0x141000 + 0x1000 * t := by simp only [Reg.trdTpos]; omega
  unfold gainSync
  dsimp only
  generalize hm : modTrd t _ s = m
  have hmod : PosQuiet s m := by
    rw [← hm]
    exact .mod s
  have hmoved : PosQuiet s (setTrdState t 3 (setb (Reg.trdSts t) 5 false m)) := .moved ht (by decide) (.flagged ht hmod)
  have hset : PosQuiet s (setf (Reg.trdTpos t) 16 16 0 (setTrdState t 3 (setb (Reg.trdSts t) 5 false m))) :=
    hmoved.trans (.writes _ ht hrange)
  have hgained := hset.signalled t 3
  generalize trdRaise t 3 (setf (Reg.trdTpos t) 16 16 0 (setTrdState t 3 (setb (Reg.trdSts t) 5 false m))) = v at hgained
  exact .chained (.accepted ht (hgained.trans (initWindows_quiet t _ v))) (armWaiting_chain (.refl _))

theorem beginReverse_quiet {t : Nat} (ht : t < 4) (s : State) : PosQuiet s (beginReverse t s) := by
  have hrange : Reg.trdRevCnt t < 0x141000 + 0x1000 * t ∧ Reg.trdRate t < 0x141000 + 0x1000 * t := by
    simp only [Reg.trdRevCnt, Reg.trdRate]; omega
  unfold beginReverse
  refine .ite (.refl s) (.ite (declareStall_quiet ht s) ?_)
  dsimp only
  generalize decide (trdState s t = 4) = limp
  generalize phi s t s.time = p
  have hmoved : PosQuiet s (modTrd t (fun x => { x with limpSec := none }) (setb (Reg.trdSts t) 6 true (setTrdState t 6 s))) :=
    .modded (.flagged ht (.moved ht (by decide) (.refl s)))
  generalize modTrd t _ (setb (Reg.trdSts t) 6 true (setTrdState t 6 s)) = m at hmoved
  have hleft : PosQuiet s (when_ limp (fun s => trdRaise t 6 (setb (Reg.trdSts t) 8 false s)) m) :=
    hmoved.trans (.whenever (.signalled (.flagged ht (.refl m)) t 6))
  generalize when_ limp _ m = w at hleft
  have hcount : PosQuiet s (trdRaise t 9 (count (Reg.trdRevCnt t) (setb (Reg.trdSts t) 21 true w))) :=
    .signalled ((PosQuiet.flagged ht hleft).trans (.counts _ ht hrange.1)) t 9
  generalize trdRaise t 9 (count (Reg.trdRevCnt t) (setb (Reg.trdSts t) 21 true w)) = v at hcount
  generalize hk : modTrd t _ v = k
  have hkept : PosQuiet s k := by
    rw [← hk]
    exact hcount.modded
  exact (hkept.trans (rested_kept ht true p k).quiet).trans (.of_quiet (endAngles_quiet t _))

theorem followDown_quiet (t i k : Nat) (a : Int) (s : State) : PosQuiet s (followDown t i k a s) := by
  unfold followDown
  exact .modded (holdAt_kept t true _ s).quiet

theorem forwardAgain_quiet {t : Nat} (ht : t < 4) (s : State) : PosQuiet s (forwardAgain t s) := by
  unfold forwardAgain
  exact .signalled (.flagged ht (.moved ht (by decide) (.refl s))) t 10

theorem toothEncoder_quiet {t : Nat} (ht : t < 4) (i : Nat) (d : Int) (s : State) : PosQuiet s (toothEncoder t i d s) := by
  unfold toothEncoder
  dsimp only
  split
  · exact .refl s
  generalize slumberInst s i = i
  generalize hm : modTrd t _ (dropPmax t s) = m
  have hdropped : PosQuiet s m := by
    rw [← hm]
    exact (dropPmax_quiet t s).modded
  clear hm
  split
  · split
    · exact .modded hdropped.modded
    · exact .moved ht (by decide) (.modded hdropped.modded)
  split
  · cases (trdSt s t).prev
    · exact .modded hdropped.modded
    · dsimp only
      split
      · exact .recorded ht (.odd ht (.moved ht (by decide) hdropped.modded))
      · split
        · exact .modded hdropped.modded
        · exact .recorded ht (hdropped.modded.trans (gainSync_quiet ht _ _ _ _ _ _ _ _ _ _))
  split
  · have hreversed : PosQuiet s (if trdState s t = 6 then m else beginReverse t m) :=
      .ite hdropped (hdropped.trans (beginReverse_quiet ht m))
    generalize (if trdState s t = 6 then m else beginReverse t m) = v at hreversed
    split
    · exact .recorded ht (hreversed.trans (followDown_quiet t _ _ _ v))
    · exact hreversed.modded
  split
  · exact .recorded ht (.accepted ht (hdropped.trans (forwardAgain_quiet ht m)))
  split
  · exact .recorded ht (.signalled (.accepted ht (.flagged ht (.moved ht (by decide) hdropped))) t 8)
  split
  · exact hdropped
  · split
    · exact .recorded ht (.lost ht toothCode_lt (.odd ht hdropped))
    · exact .recorded ht (.accepted ht hdropped)

theorem trackCount_quiet (i0 i : Nat) (d : Int) (s : State) : PosQuiet s (trackCount i0 i d s) := by
  refine forEach_rel PosQuiet.refl PosQuiet.trans _ s fun t ht u => ?_
  have ht : t < 4 := by simpa using (mem_upto.1 ht).2
  exact .ite (toothEncoder_quiet ht i d u) (.refl u)

/-! ### Positions, changes and faults (R288 to R293, R298) -/

/-- Device time, the frames whose words have not landed, the return of the data line, the last word, the count of serial errors and
their code stay. -/
structure PosLeft (i : Nat) (s u : State) : Prop where
  time : u.time = s.time
  words : (posSt u i).words = (posSt s i).words
  waits : (posSt u i).retWait = (posSt s i).retWait
  lastword : rget u (Reg.posLastword i) = rget s (Reg.posLastword i)
  errors : rget u (Reg.posSerErrCnt i) = rget s (Reg.posSerErrCnt i)
  code : rf u (Reg.posSts i) 10 3 = rf s (Reg.posSts i) 10 3

namespace PosLeft

variable {i : Nat} {s u v : State}

theorem refl (i : Nat) (s : State) : PosLeft i s s := ⟨rfl, rfl, rfl, rfl, rfl, rfl⟩

theorem trans (h : PosLeft i s u) (k : PosLeft i u v) : PosLeft i s v :=
  ⟨k.time.trans h.time, k.words.trans h.words, k.waits.trans h.waits, k.lastword.trans h.lastword, k.errors.trans h.errors,
    k.code.trans h.code⟩

/-- What leaves all interfaces. -/
theorem of_quiet (hi : i < 16) (h : PosQuiet s u) : PosLeft i s u := by
  have hreg : ∀ a, a = Reg.posLastword i ∨ a = Reg.posSerErrCnt i ∨ a = Reg.posSts i → rget u a = rget s a := fun a ha => by
    refine h.regs a ?_ ?_
    all_goals simp only [Reg.posLastword, Reg.posSerErrCnt, Reg.posSts] at ha; omega
  have hpos : posSt u i = posSt s i := by rw [posSt, h.pos, ← posSt]
  refine ⟨h.time, by rw [hpos], by rw [hpos], hreg _ (.inl rfl), hreg _ (.inr (.inl rfl)), ?_⟩
  rw [rf, hreg _ (.inr (.inr rfl)), ← rf]

theorem quiet (h : PosLeft i s u) (hi : i < 16) (k : PosQuiet u v) : PosLeft i s v := h.trans (of_quiet hi k)

theorem raised (h : PosLeft i s u) (hi : i < 16) (k : Nat) : PosLeft i s (posRaise i k u) := h.quiet hi (.of_quiet (.raised _ u))

theorem modded {f : PosSt → PosSt} (h : PosLeft i s u) (hf : ∀ x, (f x).words = x.words ∧ (f x).retWait = x.retWait) :
    PosLeft i s (modPos i f u) :=
  h.trans ⟨rfl, by rw [modPos_posSt_same, (hf _).1], by rw [modPos_posSt_same, (hf _).2], rfl, rfl, rfl⟩

/-- A bit of STS outside the code of the last error is set. -/
theorem flagged {j : Nat} {b : Bool} (h : PosLeft i s u) (hj : j < 10 ∨ 13 ≤ j) : PosLeft i s (setb (Reg.posSts i) j b u) := by
  refine h.trans ⟨setb_time, by rw [posSt, setb_pos, ← posSt], by rw [posSt, setb_pos, ← posSt], rget_setb_other ?_, rget_setb_other ?_,
    rf_setb_other (by decide) (.inr (by omega))⟩
  · simp [Reg.posLastword, Reg.posSts]
  · simp [Reg.posSerErrCnt, Reg.posSts]

/-- A register is written that none of these is. -/
theorem writes {a : Nat} {w : Word} (h : PosLeft i s u) (ha : a ≠ Reg.posLastword i ∧ a ≠ Reg.posSerErrCnt i ∧ a ≠ Reg.posSts i) :
    PosLeft i s (rset a w u) :=
  h.trans ⟨rfl, rfl, rfl, rget_rset_other ha.1.symm, rget_rset_other ha.2.1.symm, rf_rset_other ha.2.2.symm⟩

theorem counts {a : Nat} (h : PosLeft i s u) (ha : a ≠ Reg.posLastword i ∧ a ≠ Reg.posSerErrCnt i ∧ a ≠ Reg.posSts i) :
    PosLeft i s (count a u) :=
  (h.trans ⟨rfl, rfl, rfl, rfl, rfl, rfl⟩ : PosLeft i s (noteCount a 1 u)).writes ha

theorem ite {c : Prop} [Decidable c] (hu : PosLeft i s u) (hv : PosLeft i s v) : PosLeft i s (if c then u else v) := by
  split
  · exact hu
  · exact hv

theorem whenever {c : Bool} {f : State → State} (h : PosLeft i s u) (hf : PosLeft i u (f u)) : PosLeft i s (when_ c f u) := by
  cases c
  · exact h
  · exact h.trans hf

end PosLeft

theorem limitSts_left {i : Nat} (hi : i < 16) (x0 : Int) (s : State) : PosLeft i s (limitSts i x0 s) := by
  unfold limitSts
  dsimp only
  refine .ite (.raised (.counts (.flagged (.flagged (.refl i s) (by decide)) (by decide)) ?_) hi 3) (.flagged (.refl i s) (by decide))
  simp [Reg.posLimCnt, Reg.posLastword, Reg.posSerErrCnt, Reg.posSts]

theorem setPosition_left {i : Nat} (hi : i < 16) (x : Int) (s : State) : PosLeft i s (setPosition i x s) := by
  unfold setPosition
  dsimp only
  refine .trans (.writes (.whenever (.refl i s) (.flagged (.refl i s) (by decide))) ?_) (limitSts_left hi _ _)
  simp [Reg.posPosn, Reg.posLastword, Reg.posSerErrCnt, Reg.posSts]

theorem recordChange_left (i t : Nat) (back : Bool) (s : State) : PosLeft i s (recordChange i t back s) := by
  unfold recordChange
  exact .flagged (.modded (.refl i s) fun _ => ⟨rfl, rfl⟩) (by decide)

theorem directionStep_left {i : Nat} (hi : i < 16) (back : Bool) (s : State) : PosLeft i s (directionStep i back s) := by
  have hcleared : PosLeft i s (modPos i (fun x => { x with dirRun := 0 }) s) := .modded (.refl i s) fun _ => ⟨rfl, rfl⟩
  unfold directionStep
  refine .ite hcleared ?_
  dsimp only
  exact .ite (.modded (.refl i s) fun _ => ⟨rfl, rfl⟩) (.raised (.flagged (.flagged hcleared (by decide)) (by decide)) hi 1)

theorem logLimited_left {i : Nat} (hi : i < 16) (cls sev inst : Nat) (d0 d1 : Word) (s : State) :
    PosLeft i s (logLimited cls sev inst d0 d1 s) :=
  .of_quiet hi ⟨logLimited_time, by rw [(logLimited_frame ..).1], fun _ ha hb => logLimited_rget (by omega)⟩

theorem posFault_left {i : Nat} (hi : i < 16) (s : State) : PosLeft i s (posFault i s) := by
  have hrestarted : PosLeft i s (restartHist i s) := .modded (.refl i s) fun _ => ⟨rfl, rfl⟩
  exact hrestarted.quiet hi (trackFault_quiet i _)

/-- The registers that a faulty word writes first. -/
def faultNoted (i code : Nat) (s : State) : State :=
  count (Reg.posSerErrCnt i) (setf (Reg.posSts i) 10 3 code (setb (Reg.posSts i) 3 true s))

theorem faultyWord_left {i : Nat} (hi : i < 16) (code : Nat) (s : State) : PosLeft i (faultNoted i code s) (faultyWord i code s) := by
  unfold faultyWord
  dsimp only
  rw [← faultNoted]
  generalize faultNoted i code s = b
  have hfault : PosLeft i b (posFault i (posAlarm i b)) := .trans (.raised (.refl i b) hi 3) (posFault_left hi _)
  generalize posFault i (posAlarm i b) = c at hfault
  have hlogged := hfault.trans (logLimited_left hi 0x0703 2 i (wd code) (rget c (Reg.posLastword i)) c)
  generalize logLimited _ _ _ _ _ c = v at hlogged
  generalize hm : modPos i _ v = m
  have hfailed : PosLeft i b m := by
    rw [← hm]
    exact hlogged.modded fun _ => ⟨rfl, rfl⟩
  split
  · have hmarked : PosLeft i b (setb (Reg.posSts i) 19 true (setb (Reg.posSts i) 16 false m)) :=
      .flagged (.flagged hfailed (by decide)) (by decide)
    generalize setb (Reg.posSts i) 19 true (setb (Reg.posSts i) 16 false m) = w at hmarked
    have hdropped : PosLeft i b (modPos i (fun x => { x with word := none }) w) := hmarked.modded fun _ => ⟨rfl, rfl⟩
    generalize modPos i _ w = r at hdropped
    have halarm : PosLeft i b (posAlarm i r) := hdropped.raised hi 3
    exact halarm.trans (logLimited_left hi _ _ _ _ _ _)
  · exact hfailed

/-- A faulty word is a serial error with its code (R298). -/
theorem faultyWord_spec {i code : Nat} (hi : i < 16) (hcode : code < 8) (s : State) :
    (posSt (faultyWord i code s) i).words = (posSt s i).words ∧ (posSt (faultyWord i code s) i).retWait = (posSt s i).retWait ∧
    rget (faultyWord i code s) (Reg.posLastword i) = rget s (Reg.posLastword i) ∧
    rf (faultyWord i code s) (Reg.posSts i) 10 3 = code ∧
    rget (faultyWord i code s) (Reg.posSerErrCnt i) = satInc (rget s (Reg.posSerErrCnt i)) := by
  have hleft := faultyWord_left hi code s
  have hne : Reg.posSts i ≠ Reg.posSerErrCnt i ∧ Reg.posLastword i ≠ Reg.posSerErrCnt i ∧ Reg.posLastword i ≠ Reg.posSts i := by
    simp [Reg.posSts, Reg.posSerErrCnt, Reg.posLastword]
  obtain ⟨hse, hle, hls⟩ := hne
  have hpos : posSt (faultNoted i code s) i = posSt s i := by rw [faultNoted, posSt, count_pos, setf_pos, setb_pos, ← posSt]
  refine ⟨by rw [hleft.words, hpos], by rw [hleft.waits, hpos], ?_, ?_, ?_⟩
  · rw [hleft.lastword, faultNoted, rget_count_other hle, rget_setf_other hls, rget_setb_other hls]
  · rw [hleft.code, faultNoted, rf, rget_count_other hse, ← rf, rf_setf_same (by decide)]
    exact Nat.mod_eq_of_lt hcode
  · rw [hleft.errors, faultNoted, rget_count_same, rget_setf_other hse.symm, rget_setb_other hse.symm]

/-! ### The word of a frame (R297 to R299) -/

theorem wordCheck_lt {s : State} {i : Nat} {bits : BitVec 64} : (wordCheck s i bits).1 < 8 := by
  unfold wordCheck
  dsimp only
  grind

/-- The data line's return is set on the way. -/
theorem PosLeft.waiting {i : Nat} {r : Option Nat} {f : PosSt → PosSt} {s u : State} (h : PosLeft i s u)
    (hf : ∀ x, (f x).words = x.words ∧ (f x).retWait = r) :
    PosLeft i (modPos i (fun x => { x with retWait := r }) s) (modPos i f u) :=
  ⟨h.time, by rw [modPos_posSt_same, modPos_posSt_same, (hf _).1, h.words], by rw [modPos_posSt_same, modPos_posSt_same, (hf _).2],
    h.lastword, h.errors, h.code⟩

/-- A word that passes its checks: its position, its direction and its trackers. -/
def wordTaken (i t : Nat) (x1 : Int) (w : Nat) (ret : Option Nat) (s : State) : State :=
  let x0 := posX s i
  let s := setPosition i x1 s
  let way := posWay s i x0 (posX s i)
  let back := decide (way < 0)
  let s := when_ (decide (way ≠ 0)) (fun s => directionStep i back (recordChange i t back s)) s
  let s := modPos i (fun x => { x with word := some w, fails := 0, retWait := ret, retFails := x.fails }) s
  let s := setb (Reg.posSts i) 19 false (setb (Reg.posSts i) 16 true s)
  trackCount i t way (posRaise i 0 (count (Reg.posWordCnt i) s))

theorem wordTaken_spec {i : Nat} (hi : i < 16) (t : Nat) (x1 : Int) (w : Nat) (ret : Option Nat) (s : State) :
    (posSt (wordTaken i t x1 w ret s) i).words = (posSt s i).words ∧
    rget (wordTaken i t x1 w ret s) (Reg.posLastword i) = rget s (Reg.posLastword i) ∧
    rb (wordTaken i t x1 w ret s) (Reg.posSts i) 16 = true ∧ rb (wordTaken i t x1 w ret s) (Reg.posSts i) 19 = false := by
  unfold wordTaken
  dsimp only
  generalize posWay (setPosition i x1 s) i _ _ = way
  have hset := setPosition_left hi x1 s
  generalize setPosition i x1 s = p at hset
  generalize hd : when_ (decide (way ≠ 0)) _ p = d
  have hdone : PosLeft i s d := by
    rw [← hd]
    exact hset.whenever ((recordChange_left i t _ p).trans (directionStep_left hi _ _))
  clear hd
  generalize hm : modPos i _ d = m
  have hnoted : PosLeft i (modPos i (fun x => { x with retWait := ret }) s) m := by
    rw [← hm]
    exact hdone.waiting fun _ => ⟨rfl, rfl⟩
  clear hm
  have hmarked : PosLeft i (modPos i (fun x => { x with retWait := ret }) s) (setb (Reg.posSts i) 19 false (setb (Reg.posSts i) 16 true m)) :=
    (hnoted.flagged (by decide)).flagged (by decide)
  have hok : rb (setb (Reg.posSts i) 19 false (setb (Reg.posSts i) 16 true m)) (Reg.posSts i) 16 = true := by
    rw [rb_setb_other (by decide) (.inr (by decide)), rb_setb_same (by decide)]
  have herr : rb (setb (Reg.posSts i) 19 false (setb (Reg.posSts i) 16 true m)) (Reg.posSts i) 19 = false := rb_setb_same (by decide)
  generalize setb (Reg.posSts i) 19 false (setb (Reg.posSts i) 16 true m) = b at hmarked hok herr
  have hcnt : Reg.posWordCnt i ≠ Reg.posLastword i ∧ Reg.posWordCnt i ≠ Reg.posSerErrCnt i ∧ Reg.posWordCnt i ≠ Reg.posSts i := by
    simp [Reg.posWordCnt, Reg.posLastword, Reg.posSerErrCnt, Reg.posSts]
  have hquiet : PosQuiet (count (Reg.posWordCnt i) b) (trackCount i t way (posRaise i 0 (count (Reg.posWordCnt i) b))) :=
    (PosQuiet.of_quiet (.raised _ _)).trans (trackCount_quiet i t way _)
  have hend := (hmarked.counts hcnt).quiet hi hquiet
  have hsts : rget (trackCount i t way (posRaise i 0 (count (Reg.posWordCnt i) b))) (Reg.posSts i) = rget b (Reg.posSts i) := by
    rw [hquiet.regs _ (by simp only [Reg.posSts]; omega) (by simp only [Reg.posSts]; omega), rget_count_other hcnt.2.2.symm]
  refine ⟨?_, hend.lastword, by rw [rb, hsts, ← rb, hok], by rw [rb, hsts, ← rb, herr]⟩
  rw [hend.words, modPos_posSt_same]

/-- The oldest frame's word has landed: it no longer waits, and LASTWORD is its data. -/
def wordLanded (i : Nat) (rest : List Nat) (w : Word) (s : State) : State :=
  rset (Reg.posLastword i) w (modPos i (fun x => { x with words := rest, dat := if rest.isEmpty then [] else x.dat }) s)

/-- What a word does when it lands: a fault with the code of its check or of its jump, or it is taken. -/
theorem wordLand_form {i t0 : Nat} {rest : List Nat} {s : State} (h : (posSt s i).words = t0 :: rest) :
    ∃ (jump : Prop) (_ : Decidable jump) (t : Nat) (x1 : Int) (w : Nat) (ret : Option Nat), (rn s (Reg.posJumpMax i) = 0 → ¬ jump) ∧
      wordLand i s =
        let c := wordCheck s i (frameSample s i t0)
        let b := wordLanded i rest (wd c.2) s
        if c.1 ≠ 0 then faultyWord i c.1 b else if jump then faultyWord i 5 b else wordTaken i t x1 w ret b := by
  have hmax : rn (wordLanded i rest (wd (wordCheck s i (frameSample s i t0)).2) s) (Reg.posJumpMax i) = rn s (Reg.posJumpMax i) := by
    rw [rn, wordLanded, rget_rset_other (by simp [Reg.posJumpMax, Reg.posLastword])]
    rfl
  unfold wordLand
  rw [h]
  refine ⟨_, _, _, _, _, _, fun hzero hjump => ?_, rfl⟩
  exact absurd (hmax.trans hzero) hjump.1

theorem wordLand_spec {i t0 : Nat} (hi : i < 16) {rest : List Nat} {s : State} (h : (posSt s i).words = t0 :: rest) :
    let c := wordCheck s i (frameSample s i t0)
    (posSt (wordLand i s) i).words = rest ∧ rget (wordLand i s) (Reg.posLastword i) = wd c.2 ∧
    (c.1 ≠ 0 → rf (wordLand i s) (Reg.posSts i) 10 3 = c.1 ∧
      rget (wordLand i s) (Reg.posSerErrCnt i) = satInc (rget s (Reg.posSerErrCnt i))) ∧
    (c.1 = 0 → rn s (Reg.posJumpMax i) = 0 → rb (wordLand i s) (Reg.posSts i) 16 = true ∧ rb (wordLand i s) (Reg.posSts i) 19 = false) := by
  obtain ⟨jump, _, t, x1, w, ret, hzero, hform⟩ := wordLand_form h
  have hlt : (wordCheck s i (frameSample s i t0)).1 < 8 := wordCheck_lt
  generalize wordCheck s i (frameSample s i t0) = c at hform hlt
  intro c'
  change (posSt (wordLand i s) i).words = rest ∧ rget (wordLand i s) (Reg.posLastword i) = wd c.2 ∧
    (c.1 ≠ 0 → rf (wordLand i s) (Reg.posSts i) 10 3 = c.1 ∧
      rget (wordLand i s) (Reg.posSerErrCnt i) = satInc (rget s (Reg.posSerErrCnt i))) ∧
    (c.1 = 0 → rn s (Reg.posJumpMax i) = 0 → rb (wordLand i s) (Reg.posSts i) 16 = true ∧ rb (wordLand i s) (Reg.posSts i) 19 = false)
  have hwords : (posSt (wordLanded i rest (wd c.2) s) i).words = rest := by
    rw [wordLanded, posSt, rset_pos, ← posSt, modPos_posSt_same]
  have hlast : rget (wordLanded i rest (wd c.2) s) (Reg.posLastword i) = wd c.2 := rget_rset_same
  have herr : rget (wordLanded i rest (wd c.2) s) (Reg.posSerErrCnt i) = rget s (Reg.posSerErrCnt i) :=
    rget_rset_other (by simp [Reg.posSerErrCnt, Reg.posLastword])
  dsimp only at hform
  generalize wordLanded i rest (wd c.2) s = b at *
  rw [hform]
  split
  · next hc =>
    obtain ⟨hw, -, hl, hcode, he⟩ := faultyWord_spec hi hlt b
    exact ⟨hw.trans hwords, hl.trans hlast, fun _ => ⟨hcode, he.trans (congrArg satInc herr)⟩, fun h => absurd h hc⟩
  · next hc =>
    split
    · next hjump =>
      obtain ⟨hw, -, hl, -, -⟩ := faultyWord_spec (code := 5) hi (by decide) b
      exact ⟨hw.trans hwords, hl.trans hlast, fun h => absurd h hc, fun _ hmax => absurd hjump (hzero hmax)⟩
    · obtain ⟨hw, hl, hok, hfault⟩ := wordTaken_spec hi t x1 w ret b
      exact ⟨hw.trans hwords, hl.trans hlast, fun h => absurd h hc, fun _ _ => ⟨hok, hfault⟩⟩

/-! ### Setting a position (R288, R289) -/

theorem toSigned_ofSigned_of_range {x : Int} (hlo : -2 ^ 31 ≤ x) (hhi : x < 2 ^ 31) : toSigned 32 (ofSigned 32 x) = x := by
  unfold toSigned ofSigned
  omega

theorem toSigned_range (x : Nat) : -2 ^ 31 ≤ toSigned 32 x ∧ toSigned 32 x < 2 ^ 31 := by
  unfold toSigned
  omega

/-- STS.AT_LIM follows the position; no register but STS and the counter of limits changes. -/
theorem limitSts_spec {i : Nat} (hi : i < 16) (x0 : Int) (s : State) :
    (∀ a, 0x150000 ≤ a → a < 0x160000 → a ≠ Reg.posSts i → a ≠ Reg.posLimCnt i → rget (limitSts i x0 s) a = rget s a) ∧
    rb (limitSts i x0 s) (Reg.posSts i) 20 = (limEn s i && (limSide s i (posX s i)).isSome) ∧
    posSt (limitSts i x0 s) i = posSt s i := by
  have hne : Reg.posSts i ≠ Reg.posLimCnt i := by simp [Reg.posSts, Reg.posLimCnt]
  have hrange : 0x150000 ≤ Reg.posSts i ∧ Reg.posSts i < 0x160000 := by simp only [Reg.posSts]; omega
  unfold limitSts
  dsimp only
  generalize (limEn s i && (limSide s i (posX s i)).isSome) = b
  split
  · have hquiet : PosQuiet (count (Reg.posLimCnt i) (setb (Reg.posSts i) 5 true (setb (Reg.posSts i) 20 b s)))
        (posAlarm i (count (Reg.posLimCnt i) (setb (Reg.posSts i) 5 true (setb (Reg.posSts i) 20 b s)))) :=
      .of_quiet (.raised _ _)
    refine ⟨fun a hlo hhi hs hc => ?_, ?_, ?_⟩
    · rw [hquiet.regs a hlo hhi, rget_count_other hc, rget_setb_other hs, rget_setb_other hs]
    · rw [rb, hquiet.regs _ hrange.1 hrange.2, rget_count_other hne, ← rb, rb_setb_other (by decide) (.inr (by decide)),
        rb_setb_same (by decide)]
    · rw [posSt, hquiet.pos, count_pos, setb_pos, setb_pos, ← posSt]
  · exact ⟨fun a _ _ hs _ => rget_setb_other hs, rb_setb_same (by decide), by rw [posSt, setb_pos, ← posSt]⟩

/-- The position that a setting leaves: clamped with LIM_EN = 1 (R288). -/
def clamped (s : State) (i : Nat) (x : Int) : Int := if limEn s i then max (limLo s i) (min (limHi s i) x) else x

/-- The state in which a setting judges the limits. -/
def positionPut (i : Nat) (x : Int) (s : State) : State :=
  rset (Reg.posPosn i) (wd (ofSigned 32 (clamped s i x))) (when_ (decide (clamped s i x ≠ x)) (setb (Reg.posSts i) 5 true) s)

theorem setPosition_form (i : Nat) (x : Int) (s : State) : setPosition i x s = limitSts i (posX s i) (positionPut i x s) := rfl

theorem positionPut_rget {i : Nat} {x : Int} {s : State} {a : Nat} (h : a ≠ Reg.posPosn i) (hs : a ≠ Reg.posSts i) :
    rget (positionPut i x s) a = rget s a := by
  rw [positionPut, rget_rset_other h, rget_when_of_eq (rget_setb_other hs)]

theorem positionPut_posSt {i : Nat} {x : Int} {s : State} : posSt (positionPut i x s) i = posSt s i := by
  rw [posSt, positionPut, rset_pos, when_of_eq State.pos setb_pos, ← posSt]

theorem setPosition_posn {i : Nat} (hi : i < 16) (x : Int) (s : State) :
    rget (setPosition i x s) (Reg.posPosn i) = wd (ofSigned 32 (clamped s i x)) := by
  obtain ⟨hregs, -, -⟩ := limitSts_spec hi (posX s i) (positionPut i x s)
  rw [setPosition_form, hregs _ (by simp only [Reg.posPosn]; omega) (by simp only [Reg.posPosn]; omega)
    (by simp [Reg.posPosn, Reg.posSts]) (by simp [Reg.posPosn, Reg.posLimCnt]), positionPut, rget_rset_same]

theorem setPosition_posSt {i : Nat} (hi : i < 16) (x : Int) (s : State) : posSt (setPosition i x s) i = posSt s i := by
  rw [setPosition_form, (limitSts_spec hi _ _).2.2, positionPut_posSt]

theorem wd_ofSigned (x : Int) : wd (ofSigned 32 x) = BitVec.ofInt 32 x := by
  apply BitVec.eq_of_toNat_eq
  rw [BitVec.toNat_ofInt, wd, BitVec.toNat_ofNat, ofSigned]
  omega

theorem posX_setPosition {i : Nat} (hi : i < 16) {x : Int} {s : State} (hlo : -2 ^ 31 ≤ clamped s i x) (hhi : clamped s i x < 2 ^ 31) :
    posX (setPosition i x s) i = clamped s i x := by
  have hlt : ofSigned 32 (clamped s i x) < 2 ^ 32 := by
    unfold ofSigned
    omega
  rw [posX, rn, setPosition_posn hi, toNat_wd_of_lt hlt, toSigned_ofSigned_of_range hlo hhi]

/-- With LIM_EN = 1 the position lies between the limits, and AT_LIM shows that it lies at one. -/
theorem setPosition_clamps {i : Nat} (hi : i < 16) (x : Int) {s : State} (hen : limEn s i = true) :
    posX (setPosition i x s) i = max (limLo s i) (min (limHi s i) x) ∧
    (posX (setPosition i x s) i = limLo s i ∨ posX (setPosition i x s) i = limHi s i →
      rb (setPosition i x s) (Reg.posSts i) 20 = true) := by
  have hclamped : clamped s i x = max (limLo s i) (min (limHi s i) x) := if_pos hen
  have hlo : -2 ^ 31 ≤ limLo s i ∧ limLo s i < 2 ^ 31 := toSigned_range _
  have hhi : -2 ^ 31 ≤ limHi s i ∧ limHi s i < 2 ^ 31 := toSigned_range _
  have hx : posX (setPosition i x s) i = clamped s i x := by
    refine posX_setPosition hi ?_ ?_
    all_goals rw [hclamped]; omega
  refine ⟨hx.trans hclamped, fun hside => ?_⟩
  obtain ⟨hregs, hat, -⟩ := limitSts_spec hi (posX s i) (positionPut i x s)
  have hput : posX (positionPut i x s) i = posX (setPosition i x s) i := by
    rw [posX, rn, setPosition_form, posX, rn, hregs _ (by simp only [Reg.posPosn]; omega) (by simp only [Reg.posPosn]; omega)
      (by simp [Reg.posPosn, Reg.posSts]) (by simp [Reg.posPosn, Reg.posLimCnt])]
  have hmon : limEn (positionPut i x s) i = true := by
    rw [limEn, rb, positionPut_rget (by simp [Reg.posMon, Reg.posPosn]) (by simp [Reg.posMon, Reg.posSts]), ← rb, ← limEn, hen]
  have hlow : limLo (positionPut i x s) i = limLo s i := by
    rw [limLo, rn, positionPut_rget (by simp [Reg.posLimLo, Reg.posPosn]) (by simp [Reg.posLimLo, Reg.posSts]), ← rn, ← limLo]
  have hhigh : limHi (positionPut i x s) i = limHi s i := by
    rw [limHi, rn, positionPut_rget (by simp [Reg.posLimHi, Reg.posPosn]) (by simp [Reg.posLimHi, Reg.posSts]), ← rn, ← limHi]
  rw [setPosition_form, hat, hmon, limSide, hlow, hhigh, hput]
  rcases hside with h | h
  · rw [h, if_pos (Int.le_refl _)]
    rfl
  · rw [h]
    split
    · rfl
    · rw [if_pos (Int.le_refl _)]
      rfl

/-- LOAD sets the position to SETPOS and restarts the speed history (R289, R291). -/
theorem posLoad_spec {i : Nat} (hi : i < 16) {s : State} (hen : limEn s i = false) :
    rget (posLoadOp i s) (Reg.posPosn i) = rget s (Reg.posSetpos i) ∧ (posSt (posLoadOp i s) i).hist = [] ∧
      (posSt (posLoadOp i s) i).meas = (posSt s i).meas := by
  have hnoted : (noteLoad i s).regs = s.regs ∧ (posSt (noteLoad i s) i).meas = (posSt s i).meas := by
    unfold noteLoad
    split
    · exact ⟨rfl, rfl⟩
    · exact ⟨rfl, by rw [modPos_posSt_same]⟩
  have hlim : limEn (restartHist i (noteLoad i s)) i = false := by
    rw [limEn, rb, rget, restartHist, modPos_regs, hnoted.1, ← rget, ← rb, ← limEn, hen]
  have hpos : posSt (restartHist i (noteLoad i s)) i = { posSt (noteLoad i s) i with hist := [] } := modPos_posSt_same
  have hclamped : clamped (restartHist i (noteLoad i s)) i (toSigned 32 (rn s (Reg.posSetpos i))) = toSigned 32 (rn s (Reg.posSetpos i)) :=
    if_neg (by rw [hlim]; decide)
  unfold posLoadOp loadPosition
  refine ⟨?_, by rw [setPosition_posSt hi, hpos], by rw [setPosition_posSt hi, hpos]; exact hnoted.2⟩
  rw [setPosition_posn hi, hclamped]
  apply BitVec.eq_of_toNat_eq
  have hlt : (rget s (Reg.posSetpos i)).toNat < 2 ^ 32 := (rget s (Reg.posSetpos i)).isLt
  rw [wd, BitVec.toNat_ofNat, ofSigned, toSigned, rn]
  omega

/-! ### Samples, latches, standstill and frames (R281, R292, R294 to R298) -/

/-- The sample of one input. -/
def sampleInput (i : Nat) (p : State × List (Nat × Bool × Nat)) (kn : Nat × Nat) : State × List (Nat × Bool × Nat) :=
  let y := posSampleIn p.1 i kn.1 kn.2
  let s := modPos i (fun x => { x with ins := tset x.ins kn.1 y.1 }) p.1
  let s := when_ y.2.2 (fun s => count (Reg.posGlitchCnt i) (setb (Reg.posSts i) 6 true s)) s
  (s, match y.2.1 with | some e => p.2 ++ [e] | none => p.2)

theorem sampleInput_sampled (i : Nat) (p : State × List (Nat × Bool × Nat)) (kn : Nat × Nat) :
    (posSt (sampleInput i p kn).1 i).sampled = (posSt p.1 i).sampled := by
  unfold sampleInput
  dsimp only
  generalize hm : modPos i _ p.1 = m
  have hmod : (posSt m i).sampled = (posSt p.1 i).sampled := by rw [← hm, modPos_posSt_same]
  rw [← hmod]
  refine when_of_eq (fun u => (posSt u i).sampled) ?_
  rw [posSt, count_pos, setb_pos, ← posSt]

theorem foldl_sampleInput_sampled (i : Nat) (l : List (Nat × Nat)) (p : State × List (Nat × Bool × Nat)) :
    (posSt (l.foldl (sampleInput i) p).1 i).sampled = (posSt p.1 i).sampled := by
  induction l generalizing p with
  | nil => rfl
  | cons kn l ih => rw [List.foldl_cons, ih, sampleInput_sampled]

theorem posSampleOp_sampled (i : Nat) (s : State) : (posSt (posSampleOp i s) i).sampled = s.time + 1 := by
  have hfold := foldl_sampleInput_sampled i (posInputs (modPos i (fun x => { x with sampled := s.time + 1 }) s) i)
    (modPos i (fun x => { x with sampled := s.time + 1 }) s, [])
  rw [modPos_posSt_same] at hfold
  unfold posSampleOp
  dsimp only
  split
  · exact hfold
  · exact hfold

theorem takeLatch_form (i t : Nat) (s : State) : ∃ l : Latch, takeLatch i t s = schedule s.time (.latDue i l) s ∧
    l.pos = countedPos s i ∧ l.t = t ∧ l.spd = posSpeed s i := ⟨_, rfl, rfl, rfl, rfl⟩

theorem wireDue_latchRaises (i : Nat) (s : State) : wireDue (.posLatch i) (latchRaises i s) = false := by
  rw [wireDue, List.any_eq_false]
  intro w hw hwdue
  have hnow : w.dst = Dest.posLatch i ∧ w.at_ ≤ (latchRaises i s).time := by simpa using hwdue
  have hkept : ¬ w.dst = Dest.posLatch i ∨ s.time + 1 < w.at_ := by simpa [Decidable.imp_iff_not_or] using (List.mem_filter.1 hw).2
  rcases hkept with hdst | hat
  · exact hdst hnow.1
  · exact absurd (Nat.le_trans hnow.2 (Nat.le_refl s.time)) (by omega)

/-- The raises that are due latch together. -/
theorem latchArrive_spec {i : Nat} {s : State} (hdue : wireDue (.posLatch i) s = true) (hon : posOn s i = true) :
    ∃ l, wireDue (.posLatch i) (latchArrive i s) = false ∧ (s.time, Timed.latDue i l) ∈ (latchArrive i s).timed ∧
      l.pos = countedPos s i ∧ l.t = 32 * s.time ∧ l.spd = posSpeed s i := by
  obtain ⟨l, hform, hpos, ht, hspd⟩ := takeLatch_form i (32 * s.time) (latchRaises i s)
  have harrive : latchArrive i s = schedule s.time (.latDue i l) (latchRaises i s) := by
    rw [← show (latchRaises i s).time = s.time from rfl, ← hform]
    unfold latchArrive
    rw [hdue, hon]
    rfl
  rw [harrive]
  exact ⟨l, wireDue_latchRaises i s, mem_schedule .., hpos, ht, hspd⟩

theorem storeLatch_spec {i : Nat} (hi : i < 16) (l : Latch) (s : State) : let t := storeLatch i l s
    rget t (Reg.posLatPos i) = l.pos ∧ rb t (Reg.posSts i) 0 = true ∧ (posSt t i).lat = l ∧
    rget t (Reg.posLatOvrCnt i) = if rb s (Reg.posSts i) 0 then satInc (rget s (Reg.posLatOvrCnt i)) else rget s (Reg.posLatOvrCnt i) := by
  have hne : Reg.posLatPos i ≠ Reg.posSts i ∧ Reg.posLatOvrCnt i ≠ Reg.posSts i ∧ Reg.posLatOvrCnt i ≠ Reg.posLatPos i := by
    simp [Reg.posLatPos, Reg.posSts, Reg.posLatOvrCnt]
  obtain ⟨hps, hos, hop⟩ := hne
  unfold storeLatch
  dsimp only
  generalize hw : when_ (rb s (Reg.posSts i) 0) _ s = w
  have hcount : rget w (Reg.posLatOvrCnt i) =
      if rb s (Reg.posSts i) 0 then satInc (rget s (Reg.posLatOvrCnt i)) else rget s (Reg.posLatOvrCnt i) := by
    rw [← hw, when_]
    split
    · rw [rget_count_same, rget_setb_other hos]
    · rfl
  have hquiet : ∀ u, PosQuiet u (posRaise i 2 u) := fun u => .of_quiet (.raised _ u)
  have hrange : ∀ a, a = Reg.posLatPos i ∨ a = Reg.posSts i ∨ a = Reg.posLatOvrCnt i → 0x150000 ≤ a ∧ a < 0x160000 := fun a ha => by
    simp only [Reg.posLatPos, Reg.posSts, Reg.posLatOvrCnt] at ha
    omega
  have hreg : ∀ (u : State) a, a = Reg.posLatPos i ∨ a = Reg.posSts i ∨ a = Reg.posLatOvrCnt i →
      rget (posRaise i 2 u) a = rget u a := fun u a ha => (hquiet u).regs a (hrange a ha).1 (hrange a ha).2
  refine ⟨?_, ?_, ?_, ?_⟩
  · rw [hreg _ _ (.inl rfl), rget_setb_other hps]
    exact rget_rset_same
  · rw [rb, hreg _ _ (.inr (.inl rfl)), ← rb, rb_setb_same (by decide)]
  · rw [posSt, (hquiet _).pos, setb_pos, ← posSt, modPos_posSt_same]
  · rw [hreg _ _ (.inr (.inr rfl)), rget_setb_other hos]
    exact (rget_rset_other hop).trans hcount

theorem posStandstill_still {i : Nat} (hi : i < 16) (s : State) : rb (posStandstill i s) (Reg.posSts i) 18 = true := by
  have hquiet : PosQuiet (setb (Reg.posSts i) 18 true s) (posStandstill i s) :=
    (PosQuiet.of_quiet (.raised _ _)).trans (trackStandstill_quiet i _)
  rw [rb, hquiet.regs _ (by simp only [Reg.posSts]; omega) (by simp only [Reg.posSts]; omega), ← rb, rb_setb_same (by decide)]

/-! ### Frames (R296, R300) -/

/-- Whether a pin shows its SAFE level is not read from the request of a frame. -/
theorem showsSafe_request {i : Nat} (hi : i < 16) {s : State} (n : Nat) : showsSafe (setb (Reg.posCtl i) 8 false s) n = showsSafe s n := by
  have hrb : ∀ a j, j < 32 → j ≠ 8 → rb (setb (Reg.posCtl i) 8 false s) a j = rb s a j := fun a j hj h => rb_setb_other hj (.inr h)
  have hrf : ∀ a lo k, lo + k ≤ 32 → 8 < lo ∨ lo + k ≤ 8 → rf (setb (Reg.posCtl i) 8 false s) a lo k = rf s a lo k := fun a lo k hk h =>
    rf_setb_other hk (.inr h)
  have hne : ∀ a, a < 0x150000 ∨ 0x160000 ≤ a → rget (setb (Reg.posCtl i) 8 false s) a = rget s a := fun a ha =>
    rget_setb_other (by simp only [Reg.posCtl]; omega)
  have hmode : mode (setb (Reg.posCtl i) 8 false s) = mode s := hrf _ _ _ (by decide) (.inr (by decide))
  have hpower : power (setb (Reg.posCtl i) 8 false s) = power s := hrf _ _ _ (by decide) (.inr (by decide))
  have hchMode : ∀ m, chMode (setb (Reg.posCtl i) 8 false s) m = chMode s m := fun m => hrf _ _ _ (by decide) (.inr (by decide))
  have howner : ∀ m, ownerOf (setb (Reg.posCtl i) 8 false s) m = ownerOf s m := fun m => by rw [ownerOf, setb_owner, ← ownerOf]
  have hch : chSt (setb (Reg.posCtl i) 8 false s) n = chSt s n := by rw [chSt, setb_ch, ← chSt]
  have howned : ∀ m, chOwned (setb (Reg.posCtl i) 8 false s) m = chOwned s m := fun m => by rw [chOwned, howner, ← chOwned]
  have hcyc : cycNow (setb (Reg.posCtl i) 8 false s) = cycNow s := by rw [cycNow, show (setb (Reg.posCtl i) 8 false s).cyc = s.cyc from rfl, setb_time, ← cycNow]
  have hscan : bscanActs (setb (Reg.posCtl i) 8 false s) = bscanActs s := by
    rw [bscanActs, setb_tap, hrb _ _ (by decide) (by decide), hmode, ← bscanActs]
  have hheld : ∀ h, harnHeld (setb (Reg.posCtl i) 8 false s) h = harnHeld s h := fun h => by
    rw [harnHeld, rb, rb, hne _ (by decide), hne _ (by decide), ← rb, ← rb, ← harnHeld]
  have hreleased : unreleased (setb (Reg.posCtl i) 8 false s) n = unreleased s n := by
    rw [unreleased, howned, switchedNow, hch, hcyc, setb_time, ← switchedNow, ← unreleased]
  have hdrives : ownerDrives (setb (Reg.posCtl i) 8 false s) n = ownerDrives s n := by
    unfold ownerDrives
    rw [howner]
    cases ownerOf s n with
    | channel => simp only [hchMode, isPair, howned]
    | heddle e r =>
      have hpins : hedPins (setb (Reg.posCtl i) 8 false s) e = hedPins s e := by unfold hedPins; rw [setb_hed, setb_time]
      simp only [hpins]
    | position k r => simp only [hrb (Reg.posCtl k) 0 (by decide) (by decide), hrf (Reg.posCtl k) 1 1 (by decide) (.inr (by decide))]
  rw [showsSafe, hmode, hscan, hch, hdrives, safeCond, hmode, hpower, hheld, hreleased, ← safeCond, ← showsSafe]

/-- What asked for a frame is taken; what a frame is judged by stays (R300). -/
structure FrameAsked (i : Nat) (s u : State) : Prop where
  time : u.time = s.time
  frame : (posSt u i).frame = (posSt s i).frame
  free : frameFree u i = frameFree s i
  skips : rget u (Reg.posSkipCnt i) = rget s (Reg.posSkipCnt i)

theorem FrameAsked.trans {i : Nat} {s u v : State} (h : FrameAsked i s u) (k : FrameAsked i u v) : FrameAsked i s v :=
  ⟨k.time.trans h.time, k.frame.trans h.frame, k.free.trans h.free, k.skips.trans h.skips⟩

theorem FrameAsked.whenever {i : Nat} {c : Bool} {f : State → State} {s : State} (h : FrameAsked i s (f s)) :
    FrameAsked i s (when_ c f s) := by
  cases c
  · exact ⟨rfl, rfl, rfl, rfl⟩
  · exact h

theorem clearRequest_asked {i : Nat} (hi : i < 16) (s : State) : FrameAsked i s (setb (Reg.posCtl i) 8 false s) := by
  have hpos : posSt (setb (Reg.posCtl i) 8 false s) i = posSt s i := by rw [posSt, setb_pos, ← posSt]
  have hpin : posPin (setb (Reg.posCtl i) 8 false s) i 1 = posPin s i 1 := by rw [posPin, setb_owner, ← posPin]
  have hidle : rf (setb (Reg.posCtl i) 8 false s) (Reg.posMinIdle i) 0 16 = rf s (Reg.posMinIdle i) 0 16 :=
    rf_setb_other (by decide) (.inl (by simp [Reg.posMinIdle, Reg.posCtl]))
  refine ⟨setb_time, by rw [hpos], ?_, rget_setb_other (by simp [Reg.posSkipCnt, Reg.posCtl])⟩
  unfold frameFree
  rw [hpin, posIn, hpos, ← posIn, hidle, setb_time]
  cases posPin s i 1 with
  | none => rfl
  | some n => simp only [showsSafe_request hi]

theorem modPos_asked {i : Nat} {f : PosSt → PosSt} (hf : ∀ x, (f x).frame = x.frame ∧ (f x).ins = x.ins) (s : State) :
    FrameAsked i s (modPos i f s) := by
  have hin : posIn (modPos i f s) i 0 = posIn s i 0 := by rw [posIn, modPos_posSt_same, (hf _).2, ← posIn]
  have hframe : (posSt (modPos i f s) i).frame = (posSt s i).frame := by rw [modPos_posSt_same, (hf _).1]
  refine ⟨rfl, hframe, ?_, rfl⟩
  unfold frameFree
  rw [hin, hframe]
  rfl

theorem takeFrame_asked {i : Nat} (hi : i < 16) (s : State) : FrameAsked i s (takeFrame i s) := by
  have htaken : FrameAsked i s (takeWires (.posFrame i) s).2 := ⟨rfl, rfl, rfl, rfl⟩
  unfold takeFrame
  dsimp only
  generalize (takeWires (.posFrame i) s).2 = w at htaken
  generalize hm : when_ _ (setb (Reg.posCtl i) 8 false) w = m
  have hcleared : FrameAsked i w m := by
    rw [← hm]
    exact .whenever (clearRequest_asked hi w)
  refine (htaken.trans hcleared).trans (modPos_asked ?_ m)
  exact fun x => ⟨rfl, rfl⟩

/-- A frame that is free to start does so. -/
theorem frameBegin_starts {i : Nat} {s : State} (hfree : frameFree s i = true) : (posSt (frameBegin i s) i).frame = some s.time ∧
    rb (frameBegin i s) (Reg.posSts i) 21 = true ∧ rget (frameBegin i s) (Reg.posSkipCnt i) = rget s (Reg.posSkipCnt i) := by
  unfold frameBegin
  rw [hfree]
  dsimp only
  rw [if_neg (by decide)]
  generalize hm : modPos i _ s = m
  have hframe : (posSt m i).frame = some s.time := by rw [← hm, modPos_posSt_same]
  have hskip : rget m (Reg.posSkipCnt i) = rget s (Reg.posSkipCnt i) := by
    rw [← hm]
    rfl
  refine ⟨?_, rb_setb_same (by decide), (rget_setb_other (by simp [Reg.posSkipCnt, Reg.posSts])).trans hskip⟩
  rw [posSt, setb_pos]
  exact hframe

/-- One that is not is skipped and counted. -/
theorem frameBegin_skips {i : Nat} {s : State} (hfree : frameFree s i = false) :
    (posSt (frameBegin i s) i).frame = (posSt s i).frame ∧
      rget (frameBegin i s) (Reg.posSkipCnt i) = satInc (rget s (Reg.posSkipCnt i)) := by
  unfold frameBegin posSkip
  rw [hfree, if_pos (by decide)]
  refine ⟨by rw [posSt, count_pos, setb_pos, ← posSt], ?_⟩
  rw [rget_count_same, rget_setb_other (by simp [Reg.posSkipCnt, Reg.posSts])]

/-! ### The events of an interface (O45) -/

theorem exec_posFilterSample (i : Fin 16) (s : State) : exec (.posFilterSample i) s = execPosFilterSample i s := rfl
theorem exec_eventLatch (i : Fin 16) (s : State) : exec (.eventLatch i) s = execEventLatch i s := rfl
theorem exec_standstill (i : Fin 16) (s : State) : exec (.standstill i) s = execStandstill i s := rfl
theorem exec_frameStart (i : Fin 16) (s : State) : exec (.frameStart i) s = execFrameStart i s := rfl
theorem exec_wordLanding (i : Fin 16) (bits : BitVec 64) (s : State) : exec (.wordLanding i bits) s = execWordLanding i bits s := rfl
theorem exec_dataTimeout (i : Fin 16) (s : State) : exec (.dataTimeout i) s = execDataTimeout i s := rfl

theorem posFilterSample_taken {i : Fin 16} {s : State} (hat : posSampleAt s i = s.time) (hlive : live s = true) (hon : posOn s i = true) :
    exec (.posFilterSample i) s = .next (settle (posSampleOp i s)) ∧ (posSt (posSampleOp i s) i).sampled = s.time + 1 := by
  refine ⟨?_, posSampleOp_sampled i s⟩
  rw [exec_posFilterSample, execPosFilterSample, atTime_now (Nat.le_of_eq hat)]
  rw [hlive, hon, hat]
  simp

theorem eventLatch_taken {i : Fin 16} {s : State} (hlive : live s = true) (hon : posOn s i = true)
    (hdue : wireDue (.posLatch i) s = true) : exec (.eventLatch i) s = .next (settle (latchArrive i s)) := by
  obtain ⟨n, hn, hle⟩ := wireAt_of_due hdue
  rw [exec_eventLatch, execEventLatch, atOpt_now hn hle]
  rw [hlive, hon, hdue]
  rfl

theorem standstill_declared {i : Fin 16} {c : Nat} {s : State} (hlive : live s = true) (hon : posOn s i = true)
    (hmoving : rb s (Reg.posSts i) 18 = false) (hcycle : stillCycle s i = some c) (hc : c ≤ s.time) :
    exec (.standstill i) s = .next (settle (posStandstill i s)) := by
  rw [exec_standstill, execStandstill, atOpt_now hcycle hc]
  rw [hlive, hon, hmoving, hcycle]
  simpa using hc

theorem live_of_running {s : State} (h : running s = true) : live s = true := (Bool.and_eq_true _ _ ▸ h : _ ∧ _).1

theorem frameStart_begun {i : Fin 16} {c : Nat} {s : State} (hdue : frameDue s i = some c) (hc : c ≤ s.time) (hrun : running s = true)
    (hon : posOn s i = true) (hserial : posSerial s i = true) :
    exec (.frameStart i) s = .next (settle (frameBegin i (takeFrame i s))) := by
  rw [exec_frameStart, execFrameStart, atOpt_now hdue hc]
  rw [live_of_running hrun, hon, hserial, hdue]
  simpa using hc

theorem wordLanding_landed {i : Fin 16} {bits : BitVec 64} {t0 : Nat} {rest : List Nat} {s : State}
    (hwords : (posSt s i).words = t0 :: rest) (hlast : lastSample s i t0 < s.time) (hrun : running s = true)
    (hbits : bits = frameSample s i t0) : exec (.wordLanding i bits) s = .next (settle (wordLand i s)) := by
  have hready : wordReady s i = true := by
    unfold wordReady
    rw [hwords]
    exact decide_eq_true hlast
  have hat : ((posSt s i).words.head?.map fun t => max s.time (lastSample s i t + 1)) = some s.time := by
    rw [hwords, List.head?_cons, Option.map_some, Nat.max_eq_left (by omega)]
  rw [exec_wordLanding, execWordLanding, atOpt_now hat (Nat.le_refl _)]
  rw [hrun, hready, hwords, hbits]
  simp

theorem dataTimeout_counted {i : Fin 16} {c : Nat} {s : State} (hlimit : returnLimit s i = some c) (hc : c ≤ s.time)
    (hrun : running s = true) (hon : posOn s i = true) : exec (.dataTimeout i) s = .next (settle (dataTimeoutOp i s)) := by
  have hwaits : (posSt s i).retWait.isSome = true := by
    rw [returnLimit] at hlimit
    rw [Option.isSome_iff_exists]
    obtain ⟨l, hl, -⟩ := Option.map_eq_some_iff.1 hlimit
    exact ⟨l, hl⟩
  rw [exec_dataTimeout, execDataTimeout, atOpt_now hlimit hc]
  rw [hrun, hon, hwaits]
  rfl

/-- Settles O45: each event is its operation at its cycle, and each operation is followed through the frames of a setting, of a change,
of a fault and of the trackers that follow the interface. -/
theorem positionEvents : Obligations.PositionEvents := by
  refine ⟨fun i s => posFilterSample_taken, fun i s hlive hon hdue => ?_, fun i => storeLatch_spec i.isLt,
    fun i c s hlive hon hmoving hcycle hc => ⟨_, standstill_declared hlive hon hmoving hcycle hc, posStandstill_still i.isLt s⟩,
    fun i c s hdue hc hrun hon hserial hfree => ?_, fun i c s hdue hc hrun hon hserial hfree => ?_,
    fun i bits t0 rest s hwords hlast hrun hbits => ?_, fun i c s hlimit hc hrun hon => ?_, fun i x s hen => ?_,
    fun i x s hen _ => setPosition_clamps i.isLt x hen, fun i s => posLoad_spec i.isLt⟩
  · obtain ⟨l, hspec⟩ := latchArrive_spec hdue hon
    exact ⟨_, l, eventLatch_taken hlive hon hdue, hspec⟩
  · have hasked := takeFrame_asked i.isLt s
    obtain ⟨hframe, hsts, hskip⟩ := frameBegin_starts (hasked.free.trans hfree)
    exact ⟨_, frameStart_begun hdue hc hrun hon hserial, by rw [hframe, hasked.time], hsts, hskip.trans hasked.skips⟩
  · have hasked := takeFrame_asked i.isLt s
    obtain ⟨hframe, hskip⟩ := frameBegin_skips (hasked.free.trans hfree)
    exact ⟨_, frameStart_begun hdue hc hrun hon hserial, hframe.trans hasked.frame, hskip.trans (congrArg satInc hasked.skips)⟩
  · refine ⟨_, wordLanding_landed hwords hlast hrun hbits, ?_⟩
    rw [hbits]
    exact wordLand_spec i.isLt hwords
  · obtain ⟨-, hwait, -, hcode, herr⟩ := faultyWord_spec (code := 4) i.isLt (by decide)
      (modPos i (fun x => { x with retWait := none, word := none, fails := x.retFails }) s)
    refine ⟨_, dataTimeout_counted hlimit hc hrun hon, hwait.trans ?_, hcode, herr⟩
    rw [modPos_posSt_same]
  · rw [setPosition_posn i.isLt, clamped, hen, if_neg (by decide), wd_ofSigned]

end Sys2Proof.Machine
end

section
/-!
PROOFS. The events of the shed and of the express context (O39): DBG.EXP is not tied to the return of the normal context.
-/

namespace Sys2Proof.Machine

/-- The return of the normal context leaves the bit of DBG that says which context is active. -/
theorem active_resumeNormal (e : Nat) (s : State) : active (resumeNormal e s) e = active s e := by
  have hdbg : rb (resumeNormal e s) (Reg.shuDbg e) 9 = rb s (Reg.shuDbg e) 9 := by
    unfold resumeNormal setEsts
    rw [rb_setf_other (by decide) (.inr (.inr (by decide)))]
    rfl
  rw [active, hdbg, ← active]

theorem resumeNormal_quiet {e : Fin 34} {s : State} (q : Quiet s) : Quiet (resumeNormal e s) :=
  q.of_eq rfl (rget_setf_other (by simp only [Reg.chgSts, Reg.engEsts]; omega))

/-- At reset, with the return of the normal context of engine 0 under way while DBG.EXP of the engine still stands at 1. -/
def staleExpress : State := modShu 0 (fun u => { u with back := some 0 }) (setb (Reg.shuDbg 0) 9 true State.reset)

theorem staleExpress_back : (shuSt staleExpress 0).back = some 0 := by
  rw [staleExpress, modShu_shuSt_same]

theorem staleExpress_active : active staleExpress 0 = .express := by
  have hdbg : rb staleExpress (Reg.shuDbg 0) 9 = true := rb_setb_same (by decide)
  rw [active, hdbg, if_pos rfl]

theorem staleExpress_quiet : Quiet staleExpress := by
  refine ⟨rfl, ?_⟩
  have hsts : rget staleExpress Reg.chgSts = rget State.reset Reg.chgSts := rget_setb_other (by decide)
  rw [chgPending, stageState, rf, hsts]
  rfl

theorem exec_contextResume (e : Fin 34) (s : State) : exec (.contextResume e) s = execContextResume e s := rfl

/-- Refutes O39: CONTEXT_RESUME leaves DBG.EXP, which the statement does not tie to the return that is under way; where it still
stands at 1, the express context is the active one after the return too. -/
theorem not_shedEvents : ¬ Obligations.ShedEvents := by
  rintro ⟨-, -, -, -, -, hresume⟩
  obtain ⟨t, hexec, hactive, -⟩ := hresume 0 0 staleExpress staleExpress_back (Nat.zero_le _) staleExpress_quiet
  have hback : (shuSt staleExpress (0 : Fin 34)).back = some 0 := staleExpress_back
  have hrun : exec (.contextResume 0) staleExpress = .next (resumeNormal (0 : Fin 34) staleExpress) := by
    rw [exec_contextResume, execContextResume, atOpt_now hback (Nat.zero_le _), settle_quiet (resumeNormal_quiet staleExpress_quiet)]
    rw [hback]
    rfl
  rw [hrun] at hexec
  injection hexec with ht
  rw [← ht, active_resumeNormal] at hactive
  exact absurd (staleExpress_active.symm.trans hactive) (by decide)

end Sys2Proof.Machine
end

section
/-!
PROOFS. Cuts, blanking, dead times and calibration steps of the reed (05_pulse_trains_and_reed.md R173, R181, R184 to R188; O41).
-/

namespace Sys2Proof.Machine

/-! ### What a cut leaves -/

/-- A register that a cut may write: the flags of a harness, the flags and the count of a reed, and those of raises. -/
def CutReg (a : Nat) : Prop := (∃ h, a = Reg.harnTripsts h) ∨ (∃ k, a = Reg.reedSts k ∨ a = Reg.reedCutCnt k) ∨ RaiseReg a

/-- What the cuts of harness `h` leave; a cut of its channels stands. -/
structure CutKept (h : Nat) (s t : State) : Prop where
  mem : t.mem = s.mem
  owner : t.owner = s.owner
  harn : t.harn = s.harn
  reed : t.reed = s.reed
  regs : ∀ a, ¬ CutReg a → rget t a = rget s a
  bits : ∀ j, 8 ≤ j → j < 16 → rb t (Reg.harnTripsts h) j = rb s (Reg.harnTripsts h) j
  cut : ∀ c, c / 8 = h → isCut s c = true → isCut t c = true

theorem CutKept.refl (h : Nat) (s : State) : CutKept h s s := ⟨rfl, rfl, rfl, rfl, fun _ _ => rfl, fun _ _ _ => rfl, fun _ _ hc => hc⟩

theorem CutKept.trans {h : Nat} {s t u : State} (x : CutKept h s t) (y : CutKept h t u) : CutKept h s u :=
  ⟨y.mem.trans x.mem, y.owner.trans x.owner, y.harn.trans x.harn, y.reed.trans x.reed,
    fun a ha => (y.regs a ha).trans (x.regs a ha), fun j hj hj' => (y.bits j hj hj').trans (x.bits j hj hj'),
    fun c hc hcut => y.cut c hc (x.cut c hc hcut)⟩

/-- A flag of the harness is set outside the bits that show its inputs. -/
theorem CutKept.flagged {h j : Nat} (s : State) (hj : j < 8 ∨ 16 ≤ j) : CutKept h s (setb (Reg.harnTripsts h) j true s) := by
  refine ⟨setb_mem, setb_owner, setb_harn, setb_reed, fun a ha => rget_setb_other fun e => ha (.inl ⟨h, e⟩),
    fun i hi hi' => rb_setb_other (by omega) (.inr (by omega)), fun c hc hcut => ?_⟩
  subst hc
  by_cases hbit : 16 + c % 8 = j
  · rw [isCut, hbit, rb_setb_same (by omega)]
  · rw [isCut, rb_setb_other (by omega) (.inr hbit), ← isCut, hcut]

/-- The flags of the harness stay with their register. -/
theorem CutKept.of_same {h : Nat} {s t : State} (hmem : t.mem = s.mem) (howner : t.owner = s.owner) (hharn : t.harn = s.harn)
    (hreed : t.reed = s.reed) (hregs : ∀ a, ¬ CutReg a → rget t a = rget s a)
    (hsts : rget t (Reg.harnTripsts h) = rget s (Reg.harnTripsts h)) : CutKept h s t :=
  ⟨hmem, howner, hharn, hreed, hregs, fun j _ _ => by rw [rb, hsts, ← rb], fun c hc hcut => by rw [isCut, rb, hc, hsts, ← hc, ← rb, ← isCut, hcut]⟩

theorem CutKept.raised {h : Nat} (hh : h < 64) (src : Nat) (s : State) : CutKept h s (raise src s) :=
  .of_same raise_mem raise_owner raise_harn raise_reed (fun a ha => raise_rget fun hr => ha (.inr (.inr hr)))
    (raise_rget_of_range (by simp only [Reg.harnTripsts]; omega))

theorem rget_noteSwitch {n a : Nat} {s : State} : rget (noteSwitch n s) a = rget s a := rfl

/-- Channel `c` is cut. -/
def cutOne (h c : Nat) (s : State) : State :=
  if isCut s c then s
  else count (Reg.reedCutCnt (c / 2)) (setb (Reg.reedSts (c / 2)) 0 true
    (setb (Reg.harnTripsts h) (16 + c % 8) true (forEach (feeds s c) noteSwitch s)))

theorem harnTripsts_ne {h k : Nat} : Reg.harnTripsts h ≠ Reg.reedCutCnt k ∧ Reg.harnTripsts h ≠ Reg.reedSts k := by
  simp only [Reg.harnTripsts, Reg.reedCutCnt, Reg.reedSts]
  omega

theorem cutOne_spec {h c : Nat} (hc : c / 8 = h) (s : State) : CutKept h s (cutOne h c s) ∧ isCut (cutOne h c s) c = true := by
  obtain ⟨hcnt, hsts⟩ := harnTripsts_ne (h := h) (k := c / 2)
  unfold cutOne
  split
  · next hcut => exact ⟨.refl h s, hcut⟩
  · have hswitch : CutKept h s (forEach (feeds s c) noteSwitch s) := by
      refine forEach_rel (CutKept.refl h) CutKept.trans _ s fun n _ u => ?_
      exact .of_same rfl rfl rfl rfl (fun _ _ => rget_noteSwitch) rget_noteSwitch
    generalize forEach (feeds s c) noteSwitch s = w at hswitch
    have hflag := hswitch.trans (CutKept.flagged w (j := 16 + c % 8) (.inr (by omega)))
    have hset : isCut (setb (Reg.harnTripsts h) (16 + c % 8) true w) c = true := by
      rw [isCut, hc, rb_setb_same (by omega)]
    generalize setb (Reg.harnTripsts h) (16 + c % 8) true w = v at hflag hset
    have hreed : CutKept h v (setb (Reg.reedSts (c / 2)) 0 true v) :=
      .of_same setb_mem setb_owner setb_harn setb_reed (fun a ha => rget_setb_other fun e => ha (.inr (.inl ⟨_, .inl e⟩)))
        (rget_setb_other hsts)
    have hcount : CutKept h (setb (Reg.reedSts (c / 2)) 0 true v) (count (Reg.reedCutCnt (c / 2)) (setb (Reg.reedSts (c / 2)) 0 true v)) :=
      .of_same count_mem count_owner count_harn count_reed (fun a ha => rget_count_other fun e => ha (.inr (.inl ⟨_, .inr e⟩)))
        (rget_count_other hcnt)
    have hend := hreed.trans hcount
    exact ⟨hflag.trans hend, hend.cut c hc hset⟩

theorem forEach_cutOne {h : Nat} {cs : List Nat} (hcs : ∀ c ∈ cs, c / 8 = h) (s : State) :
    CutKept h s (forEach cs (cutOne h) s) ∧ ∀ c ∈ cs, isCut (forEach cs (cutOne h) s) c = true := by
  induction cs generalizing s with
  | nil => exact ⟨.refl h s, fun _ hc => absurd hc List.not_mem_nil⟩
  | cons c cs ih =>
    obtain ⟨hkept, hcut⟩ := cutOne_spec (hcs c List.mem_cons_self) s
    obtain ⟨hrest, hall⟩ := ih (fun d hd => hcs d (List.mem_cons_of_mem c hd)) (cutOne h c s)
    refine ⟨hkept.trans hrest, fun d hd => ?_⟩
    rcases List.mem_cons.1 hd with rfl | hd
    · exact hrest.cut d (hcs d List.mem_cons_self) hcut
    · exact hall d hd

/-- An input that acts cuts its channels (R184). -/
theorem tripAct_spec {h i : Nat} (hh : h < 64) (hi : i < 4) {cs : List Nat} (hcs : ∀ c ∈ cs, c / 8 = h) (s : State) :
    CutKept h s (tripAct h i cs s) ∧ ∀ c ∈ cs, isCut (tripAct h i cs s) c = true := by
  obtain ⟨hkept, hall⟩ := forEach_cutOne hcs s
  unfold tripAct
  split
  · next hempty =>
    rw [List.isEmpty_iff] at hempty
    exact ⟨.refl h s, fun c hc => absurd (hempty ▸ hc) List.not_mem_nil⟩
  · change CutKept h s (flagRaise (Reg.harnTripsts h) i (2048 + 4 * h + i) (forEach cs (cutOne h) s)) ∧
      ∀ c ∈ cs, isCut (flagRaise (Reg.harnTripsts h) i (2048 + 4 * h + i) (forEach cs (cutOne h) s)) c = true
    have hraise : CutKept h (forEach cs (cutOne h) s) (flagRaise (Reg.harnTripsts h) i (2048 + 4 * h + i) (forEach cs (cutOne h) s)) :=
      (CutKept.flagged _ (.inl (by omega))).trans (.raised hh _ _)
    exact ⟨hkept.trans hraise, fun c hc => hraise.cut c (hcs c hc) (hall c hc)⟩

/-! ### Onsets are judged (R184, R186) -/

/-- Memory and the registers of the channels stay. -/
structure JudgeKept (s t : State) : Prop where
  mem : t.mem = s.mem
  regs : ∀ a, 0x100000 ≤ a → a < 0x120000 → rget t a = rget s a

theorem JudgeKept.trans {s t u : State} (h : JudgeKept s t) (k : JudgeKept t u) : JudgeKept s u :=
  ⟨k.mem.trans h.mem, fun a ha hb => (k.regs a ha hb).trans (h.regs a ha hb)⟩

theorem JudgeKept.of_rfl {s t : State} (hmem : t.mem = s.mem) (hregs : t.regs = s.regs) : JudgeKept s t :=
  ⟨hmem, fun a _ _ => by rw [rget, hregs, ← rget]⟩

theorem JudgeKept.refl (s : State) : JudgeKept s s := .of_rfl rfl rfl

theorem onsetJudge_kept (h : Nat) (o : Onset) (s : State) : JudgeKept s (onsetJudge h o s) := by
  unfold onsetJudge
  dsimp only
  generalize hf : forEach ((List.filter _ _).filter fun j => !onsetActs s h j o) _ s = f
  have hignored : JudgeKept s f := by
    rw [← hf]
    refine forEach_rel JudgeKept.refl JudgeKept.trans _ s fun j _ u => ?_
    split
    · refine ⟨by rw [count_mem, setb_mem], fun a ha hb => ?_⟩
      rw [rget_count_other (by simp only [Reg.reedBlnkCnt]; omega), rget_setb_other (by simp only [Reg.reedSts]; omega)]
    · exact .of_rfl rfl rfl
  split
  · exact hignored
  · exact hignored.trans (.of_rfl rfl rfl)

theorem tripJudgeOp_kept (h : Nat) (s : State) : JudgeKept s (tripJudgeOp h s) := by
  unfold tripJudgeOp
  dsimp only
  generalize hm : modHarn h _ s = m
  have hmod : JudgeKept s m := by
    rw [← hm]
    exact .of_rfl rfl rfl
  exact hmod.trans (forEach_rel JudgeKept.refl JudgeKept.trans _ m fun o _ u => onsetJudge_kept h o u)

theorem exec_tripCut (h : Fin 64) (i : Fin 4) (s : State) : exec (.tripCut h i) s = execTripCut h i s := rfl

/-- A cut whose onset has been judged cuts the channels that await it. -/
theorem tripCut_cuts {h : Fin 64} {i : Fin 4} {s : State} (hrun : running s = true)
    (hdue : tget 0 (harnSt (tripJudgeOp h s) h).cutDue i.val ≠ 0) : let u := tripJudgeOp h s; let m := tget 0 (harnSt u h).cutDue i.val
    ∃ t, exec (.tripCut h i) s = .next (settle t) ∧ tget 0 (harnSt t h).cutDue i.val = 0 ∧
      (∀ j, j < 8 → m.testBit j = true → tripEligible u (8 * h + j) = true → isCut t (8 * h + j) = true) ∧ t.mem = s.mem ∧
      (∀ n : Fin 512, rget t (Reg.chCnt n) = rget s (Reg.chCnt n)) := by
  intro u m
  have hjudge := tripJudgeOp_kept h s
  let cs := ((upto 0 8).filter fun j => m.testBit j && tripEligible u (8 * h + j)).map fun j => 8 * h.val + j
  have hmine : ∀ c ∈ cs, c / 8 = h.val := fun c hc => by
    obtain ⟨j, hj, rfl⟩ := List.mem_map.1 hc
    have hlt := (mem_upto.1 (List.mem_filter.1 hj).1).2
    omega
  obtain ⟨hkept, hall⟩ := tripAct_spec h.isLt i.isLt hmine (modHarn h (fun x => { x with cutDue := tset x.cutDue i 0 }) u)
  have hop : tripCutOp h i u = tripAct h i cs (modHarn h (fun x => { x with cutDue := tset x.cutDue i 0 }) u) := if_neg hdue
  refine ⟨tripCutOp h i u, ?_, ?_, fun j hj hbit hel => ?_, ?_, fun n => ?_⟩
  · rw [exec_tripCut, execTripCut, nowIf_true]
    rw [hrun, decide_eq_true hdue]
    rfl
  · rw [hop, harnSt, hkept.harn, ← harnSt, modHarn_harnSt_same]
    exact tget_tset_same _ _ _ _
  · rw [hop]
    refine hall _ (List.mem_map.2 ⟨j, List.mem_filter.2 ⟨mem_upto.2 ⟨Nat.zero_le j, by omega⟩, ?_⟩, rfl⟩)
    rw [hbit, hel]
    rfl
  · rw [hop, hkept.mem]
    exact hjudge.mem
  · have hrange : 0x100000 ≤ Reg.chCnt n ∧ Reg.chCnt n < 0x120000 := by
      simp only [Reg.chCnt]
      omega
    have hcnt : ¬ CutReg (Reg.chCnt n) := by
      simp only [CutReg, RaiseReg, Reg.harnTripsts, Reg.reedSts, Reg.reedCutCnt, Reg.selLevOut, Reg.shedMergeCnt, Reg.shedExpMergeCnt]
      rintro (⟨k, hk⟩ | ⟨k, hk⟩ | hr)
      all_goals omega
    rw [hop, hkept.regs _ hcnt]
    exact hjudge.regs _ hrange.1 hrange.2

/-! ### The end of blanking (R186) -/

/-- What the channels of a harness are, and which of them are cut, stays or grows. -/
structure BlankKept (h : Nat) (s t : State) : Prop where
  owner : t.owner = s.owner
  regs : ∀ a, ¬ CutReg a → rget t a = rget s a
  bits : ∀ j, 8 ≤ j → j < 16 → rb t (Reg.harnTripsts h) j = rb s (Reg.harnTripsts h) j
  cut : ∀ c, c / 8 = h → isCut s c = true → isCut t c = true

theorem CutKept.blank {h : Nat} {s t : State} (x : CutKept h s t) : BlankKept h s t := ⟨x.owner, x.regs, x.bits, x.cut⟩

theorem BlankKept.refl (h : Nat) (s : State) : BlankKept h s s := (CutKept.refl h s).blank

theorem BlankKept.trans {h : Nat} {s t u : State} (x : BlankKept h s t) (y : BlankKept h t u) : BlankKept h s u :=
  ⟨y.owner.trans x.owner, fun a ha => (y.regs a ha).trans (x.regs a ha), fun j hj hj' => (y.bits j hj hj').trans (x.bits j hj hj'),
    fun c hc hcut => y.cut c hc (x.cut c hc hcut)⟩

theorem not_cutReg {a : Nat} (h : (∃ c, c < 512 ∧ a = Reg.chCtl c) ∨ (∃ k, k < 256 ∧ a = Reg.reedCtl k) ∨
    ∃ h i, h < 64 ∧ i < 4 ∧ a = Reg.harnTrip h i) : ¬ CutReg a := by
  simp only [CutReg, RaiseReg, Reg.harnTripsts, Reg.reedSts, Reg.reedCutCnt, Reg.selLevOut, Reg.shedMergeCnt, Reg.shedExpMergeCnt,
    Reg.chCtl, Reg.reedCtl, Reg.harnTrip] at *
  rintro (⟨x, hx⟩ | ⟨x, hx⟩ | hr)
  all_goals rcases h with ⟨c, hc, rfl⟩ | ⟨k, hk, rfl⟩ | ⟨h, i, hh, hi, rfl⟩
  all_goals omega

namespace BlankKept

variable {h : Nat} {s t : State}

theorem chMode (x : BlankKept h s t) {c : Nat} (hc : c < 512) : chMode t c = chMode s c := by
  rw [Machine.chMode, rf, x.regs _ (not_cutReg (.inl ⟨c, hc, rfl⟩)), ← rf, ← Machine.chMode]

theorem chOwned (x : BlankKept h s t) (n : Nat) : chOwned t n = chOwned s n := by
  rw [Machine.chOwned, ownerOf, x.owner, ← ownerOf, ← Machine.chOwned]

theorem bothOwned (x : BlankKept h s t) (k : Nat) : bothOwned t k = bothOwned s k := by
  rw [Machine.bothOwned, x.chOwned, x.chOwned, ← Machine.bothOwned]

theorem carrier (x : BlankKept h s t) {n : Nat} (hn : n < 512) : carrier t n = carrier s n := by
  have hswap : swapped t (n / 2) = swapped s (n / 2) := by
    rw [swapped, x.bothOwned, rb, x.regs _ (not_cutReg (.inr (.inl ⟨n / 2, by omega, rfl⟩))), ← rb, ← swapped]
  have hpair : isPair t (n / 2) = isPair s (n / 2) := by rw [isPair, x.chMode (by omega), ← isPair]
  unfold Machine.carrier
  dsimp only
  rw [hswap, hpair, x.bothOwned]

theorem tripEligible (x : BlankKept h s t) {c : Nat} (hc : c < 512) : tripEligible t c = tripEligible s c := by
  have hfeeds : feeds t c = feeds s c := by
    refine List.filter_congr fun n hn => ?_
    have hlt : n < 512 := by
      simp only [List.mem_cons, List.not_mem_nil, or_false] at hn
      omega
    rw [x.chOwned, x.carrier hlt]
  rw [Machine.tripEligible, x.chMode hc, hfeeds, ← Machine.tripEligible]

theorem tripChannels (x : BlankKept h s t) (hh : h < 64) {i : Nat} (hi : i < 4) : tripChannels t h i = tripChannels s h i := by
  unfold Machine.tripChannels
  refine congrArg _ (List.filter_congr fun j hj => ?_)
  have hj := (mem_upto.1 hj).2
  rw [x.tripEligible (by omega), rb, x.regs _ (not_cutReg (.inr (.inr ⟨h, i, hh, hi, rfl⟩))), ← rb]

end BlankKept

/-- Input `i` of the harness is no longer ignored for reed `k`: it acts where it is still active. -/
def unignore (k i : Nat) (s : State) : State :=
  let s := setIgn k i false s
  when_ (rb s (Reg.harnTripsts (k / 4)) (8 + i)) (tripAct (k / 4) i ((tripChannels s (k / 4) i).filter fun c => c / 2 == k)) s

theorem tripChannels_harness {s : State} {h i c : Nat} (hc : c ∈ tripChannels s h i) : c / 8 = h := by
  obtain ⟨j, hj, rfl⟩ := List.mem_map.1 hc
  have hlt := (mem_upto.1 (List.mem_filter.1 hj).1).2
  omega

theorem unignore_spec {k i : Nat} (hk : k < 256) (hi : i < 4) (s : State) : BlankKept (k / 4) s (unignore k i s) ∧
    (reedSt (unignore k i s) k).ign = (reedSt s k).ign &&& ~~~(1#4 <<< i) ∧
    (rb s (Reg.harnTripsts (k / 4)) (8 + i) = true → ∀ c ∈ tripChannels s (k / 4) i, c / 2 = k → isCut (unignore k i s) c = true) := by
  have hset : BlankKept (k / 4) s (setIgn k i false s) := ⟨rfl, fun _ _ => rfl, fun _ _ _ => rfl, fun _ _ hc => hc⟩
  have hign : (reedSt (setIgn k i false s) k).ign = (reedSt s k).ign &&& ~~~(1#4 <<< i) := by
    rw [setIgn, modReed_reedSt_same]
    rfl
  have hmine : ∀ c ∈ (tripChannels (setIgn k i false s) (k / 4) i).filter fun c => c / 2 == k, c / 8 = k / 4 := fun c hc =>
    tripChannels_harness (List.mem_filter.1 hc).1
  obtain ⟨hkept, hall⟩ := tripAct_spec (by omega) hi hmine (setIgn k i false s)
  have hbit : rb (setIgn k i false s) (Reg.harnTripsts (k / 4)) (8 + i) = rb s (Reg.harnTripsts (k / 4)) (8 + i) := rfl
  unfold unignore
  dsimp only
  rw [hbit]
  cases rb s (Reg.harnTripsts (k / 4)) (8 + i) with
  | false => exact ⟨hset, hign, fun h => absurd h Bool.false_ne_true⟩
  | true =>
    refine ⟨hset.trans hkept.blank, ?_, fun _ c hc hck => hall c (List.mem_filter.2 ⟨hc, beq_iff_eq.2 hck⟩)⟩
    rw [← hign, reedSt, reedSt]
    exact congrArg (fun r => (tget {} r k).ign) hkept.reed

/-- The inputs that a reed ignored act in turn. -/
theorem forEach_unignore {k : Nat} (hk : k < 256) {l : List Nat} (hl : ∀ i ∈ l, i < 4) (s : State) :
    BlankKept (k / 4) s (forEach l (unignore k) s) ∧
    (∀ j, (reedSt (forEach l (unignore k) s) k).ign.getLsbD j = true → (reedSt s k).ign.getLsbD j = true ∧ j ∉ l) ∧
    (∀ i ∈ l, rb s (Reg.harnTripsts (k / 4)) (8 + i) = true → ∀ c ∈ tripChannels s (k / 4) i, c / 2 = k →
      isCut (forEach l (unignore k) s) c = true) := by
  induction l generalizing s with
  | nil => exact ⟨.refl _ s, fun j hj => ⟨hj, List.not_mem_nil⟩, fun _ hi => absurd hi List.not_mem_nil⟩
  | cons i l ih =>
    have hi := hl i List.mem_cons_self
    obtain ⟨hkept, hign, hcut⟩ := unignore_spec hk hi s
    obtain ⟨hrest, hclear, hall⟩ := ih (fun x hx => hl x (List.mem_cons_of_mem i hx)) (unignore k i s)
    refine ⟨hkept.trans hrest, fun j hj => ?_, fun x hx hactive c hc hck => ?_⟩
    · obtain ⟨hbit, hnot⟩ := hclear j hj
      rw [hign, BitVec.getLsbD_and, Bool.and_eq_true] at hbit
      refine ⟨hbit.1, fun hmem => ?_⟩
      rcases List.mem_cons.1 hmem with rfl | hmem
      · simp [hi] at hbit
      · exact hnot hmem
    · rcases List.mem_cons.1 hx with rfl | hmem
      · exact hrest.cut c (tripChannels_harness hc) (hcut hactive c hc hck)
      · have hlt := hl x hx
        refine hall x hmem ?_ c ?_ hck
        · rw [hkept.bits _ (by omega) (by omega), hactive]
        · rw [hkept.tripChannels (by omega) hlt]
          exact hc

theorem exec_blankingEnd (k : Fin 256) (s : State) : exec (.blankingEnd k) s = execBlankingEnd k s := rfl

theorem blankingEnd_acts {k : Fin 256} {s : State} (hrun : running s = true) (hign : (reedSt s k).ign ≠ 0) (hend : blankEnd s k ≤ s.time)
    (hclosed : blankOpen s k s.time = false) : ∃ t, exec (.blankingEnd k) s = .next (settle t) ∧ (reedSt t k).ign = 0 ∧
      (∀ i c, i < 4 → ignored s k i = true → rb s (Reg.harnTripsts (k / 4)) (8 + i) = true →
        c ∈ tripChannels s (k / 4) i → c / 2 = k.val → isCut t c = true) := by
  have hinputs : ∀ i ∈ (upto 0 4).filter fun i => ignored s k i, i < 4 := fun i hi => by
    simpa using (mem_upto.1 (List.mem_filter.1 hi).1).2
  obtain ⟨-, hclear, hall⟩ := forEach_unignore k.isLt hinputs s
  have hmem : ∀ i, i < 4 → ignored s k i = true → i ∈ (upto 0 4).filter fun i => ignored s k i := fun i hi hig =>
    List.mem_filter.2 ⟨mem_upto.2 ⟨Nat.zero_le i, by omega⟩, hig⟩
  refine ⟨blankingEndOp k s, ?_, ?_, fun i c hi hig hactive hc hck => hall i (hmem i hi hig) hactive c hc hck⟩
  · rw [exec_blankingEnd, execBlankingEnd, atTime_now hend]
    rw [hrun, decide_eq_true hign, hclosed]
    rfl
  · apply BitVec.eq_of_getLsbD_eq
    intro j hj
    refine (Bool.eq_false_iff.2 fun hbit => ?_).trans (BitVec.getLsbD_zero (w := 4)).symm
    obtain ⟨hold, hnot⟩ := hclear j hbit
    exact hnot (hmem j hj hold)

/-! ### Dead times and calibration (R173, R181) -/

theorem side_modSide (n : Nat) (f : SideSt → SideSt) (s : State) : side (modSide n f s) n = f (side s n) := by
  unfold side modSide
  rw [modReed_reedSt_same]
  split
  · rfl
  · rfl

theorem exec_deadTimeEnd (k : Fin 256) (q : Side) (s : State) : exec (.deadTimeEnd k q) s = execDeadTimeEnd k q s := rfl
theorem exec_calibrationStep (n : Fin 512) (mv : CalStep) (s : State) :
    exec (.calibrationStep n mv) s = execCalibrationStep n mv s := rfl

theorem deadTimeEnd_edges {k : Fin 256} {q : Side} {i : Inst} {s : State} (hdue : (side s (sidePin k q)).due = some i)
    (hi : i.lc ≤ s.time) (hrun : running s = true) (hedge : (side s (sidePin k q)).edge = none)
    (hlevel : (side s (sidePin k q)).level = false) : ∃ t, exec (.deadTimeEnd k q) s = .next (settle t) ∧
      (side t (sidePin k q)).due = none ∧ (side t (sidePin k q)).edge = some (i, true) ∧ t.regs = s.regs := by
  have hat : ((side s (sidePin k q)).due.map fun t => t.lc) = some i.lc := by rw [hdue, Option.map_some]
  have hcleared := side_modSide (sidePin k q) (fun d => { d with due := none }) s
  have hop : deadTimeEndOp (sidePin k q) s = modSide (sidePin k q) (fun d => { d with edge := some (i, true) })
      (modSide (sidePin k q) (fun d => { d with due := none }) s) := by
    unfold deadTimeEndOp
    rw [hdue]
    dsimp only
    unfold stageEdge
    rw [hcleared, hedge, hlevel]
    rfl
  refine ⟨deadTimeEndOp (sidePin k q) s, ?_, ?_, ?_, by rw [hop]; rfl⟩
  · rw [exec_deadTimeEnd, execDeadTimeEnd, atOpt_now hat hi]
    rw [hrun, hdue]
    rfl
  · rw [hop, side_modSide, hcleared]
  · rw [hop, side_modSide]

theorem calSet_modCal_same (n : Nat) (l : CalLine) (c : CalSet) (s : State) : calSet (modCal n l c s) n l = c := by
  unfold modCal
  cases l with
  | out =>
    rw [calSet, modReed_reedSt_same]
    by_cases h : n % 2 = 0
    · simp only [if_pos h]
    · simp only [if_neg h]
  | tdc =>
    rw [calSet, modReed_reedSt_same]
    by_cases h : n % 2 = 0
    · simp only [if_pos h]
    · simp only [if_neg h]

theorem calSet_modCal_other {n : Nat} {l k : CalLine} {c : CalSet} {s : State} (h : k ≠ l) :
    calSet (modCal n l c s) n k = calSet s n k := by
  unfold modCal
  cases l with
  | out =>
    cases k with
    | out => exact absurd rfl h
    | tdc =>
      rw [calSet, modReed_reedSt_same, calSet]
      by_cases hn : n % 2 = 0
      · simp only [if_pos hn]
      · simp only [if_neg hn]
  | tdc =>
    cases k with
    | tdc => exact absurd rfl h
    | out =>
      rw [calSet, modReed_reedSt_same, calSet]
      by_cases hn : n % 2 = 0
      · simp only [if_pos hn]
      · simp only [if_neg hn]

/-- The step of a line, with what it notes where the line leaves its range. -/
theorem calStepOp_form {n : Nat} {l : CalLine} {mv : CalMove} {s : State} (hnext : (calSet s n l).next ≤ s.time)
    (hedge : noEdgeNow s n = true) : calStepOp n ⟨l, mv⟩ s = calibrate n l mv s := by
  unfold calStepOp
  rw [hedge, decide_eq_true hnext]
  rfl

/-- The step of a calibration move, none once the line has left its range. -/
def calMoved (c : CalSet) (mv : CalMove) : Int := if c.lost then 0 else match mv with | .up => 1 | .down => -1 | _ => 0

/-- The setting that a calibration move leaves. -/
def calNext (c : CalSet) (mv : CalMove) (now : Nat) : CalSet :=
  { pos := c.pos + calMoved c mv, next := now + 4096, lost := c.lost || mv == .lost }

theorem calibrate_form (n : Nat) (l : CalLine) (mv : CalMove) (s : State) : calibrate n l mv s =
    if mv == .lost && !(calSet s n l).lost then
      detect 13 n [n / 8] false (setb (Reg.reedSts (n / 2)) 16 false (modCal n l (calNext (calSet s n l) mv s.time) s))
    else modCal n l (calNext (calSet s n l) mv s.time) s := rfl

theorem calibrate_reed (n : Nat) (l : CalLine) (mv : CalMove) (s : State) :
    (calibrate n l mv s).reed = (modCal n l (calNext (calSet s n l) mv s.time) s).reed := by
  rw [calibrate_form]
  split
  · exact setb_reed
  · rfl

theorem calSet_of_reed {n : Nat} {k : CalLine} {s t : State} (h : t.reed = s.reed) : calSet t n k = calSet s n k := by
  have hreed : reedSt t (n / 2) = reedSt s (n / 2) := by rw [reedSt, h, ← reedSt]
  cases k with
  | out => rw [calSet, hreed, ← calSet]
  | tdc => rw [calSet, hreed, ← calSet]

theorem calibrate_spec (n : Nat) (l : CalLine) (mv : CalMove) (s : State) : let t := calibrate n l mv s
    (calSet t n l) = calNext (calSet s n l) mv s.time ∧ (∀ k, k ≠ l → calSet t n k = calSet s n k) ∧
    (∀ k, k ≠ n / 2 → reedSt t k = reedSt s k) ∧
    (if mv = .lost ∧ (calSet s n l).lost = false then
      rb t (Reg.reedSts (n / 2)) 16 = false ∧ t.flt.det.length = s.flt.det.length + 1 else t.regs = s.regs) := by
  intro t
  have hreed : t.reed = (modCal n l (calNext (calSet s n l) mv s.time) s).reed := calibrate_reed n l mv s
  refine ⟨(calSet_of_reed hreed).trans (calSet_modCal_same ..), fun k hk => (calSet_of_reed hreed).trans (calSet_modCal_other hk),
    fun k hk => ?_, ?_⟩
  · rw [reedSt, hreed, ← reedSt]
    exact modReed_reedSt_other hk
  · have ht : t = calibrate n l mv s := rfl
    rw [ht, calibrate_form]
    by_cases hlost : mv = .lost ∧ (calSet s n l).lost = false
    · have hcond : (mv == CalMove.lost && !(calSet s n l).lost) = true := by rw [hlost.1, hlost.2]; rfl
      rw [if_pos hlost, if_pos hcond]
      refine ⟨rb_setb_same (by decide), ?_⟩
      exact List.length_append
    · have hcond : ¬ (mv == CalMove.lost && !(calSet s n l).lost) = true := fun h => hlost (by simpa using h)
      rw [if_neg hlost, if_neg hcond]
      rfl

/-- Settles O41: a cut and the end of blanking through what an acting input leaves of its harness, a dead time through the stage's edge,
and a calibration step through the setting of its line. -/
theorem reedEvents : Obligations.ReedEvents := by
  refine ⟨?_, fun k s hrun hign hend hclosed => blankingEnd_acts hrun hign hend hclosed, ?_, fun n mv s hrun hnext hedge => ?_, ?_,
    fun n mv s hedge => ?_⟩
  · intro h i s u m hrun hdue
    exact tripCut_cuts hrun hdue
  · intro k q i s n hdue hi hrun hedge hlevel
    exact deadTimeEnd_edges hdue hi hrun hedge hlevel
  · rw [exec_calibrationStep, execCalibrationStep, nowIf_true]
    rw [hrun, decide_eq_true hnext, hedge]
    rfl
  · intro n l mv s t by_ hnext hedge
    have ht : t = calibrate n l mv s := calStepOp_form hnext hedge
    obtain ⟨hset, hother, hreed, hnoted⟩ := calibrate_spec n l mv s
    rw [ht]
    refine ⟨?_, by rw [hset]; rfl, by rw [hset]; rfl, hother, hreed, hnoted⟩
    rw [hset]
    have hby : calMoved (calSet s n l) mv = if (calSet s n l).lost then 0 else by_ := rfl
    rw [← hby]
    rfl
  · unfold calStepOp
    rw [hedge]
    rfl

end Sys2Proof.Machine
end

section
/-!
PROOFS. What the operations of the card chain leave of the chain itself: its slots, the fine steps of its outputs, and the words of its
cards (06_card_chain.md R204, R210, R219, R223, R233 to R236).
-/

namespace Sys2Proof.Machine

/-! ### Writes to the stores leave the chain -/

theorem logCause_keeps_chain {cls sev inst : Nat} {d0 d1 : Word} {s : State} : (logCause cls sev inst d0 d1 s).chain = s.chain := by
  rw [(logCause_frame cls sev inst d0 d1 s).1]

theorem uncorrectable_keeps_chain {r : Reader} {w : Nat} {s : State} : (uncorrectable r w s).chain = s.chain := by
  unfold uncorrectable
  dsimp only
  exact logCause_keeps_chain.trans (raise_chain.trans setb_chain)

theorem notePort_keeps_chain {r : Reader} {a n : Nat} {s : State} : (notePort r a n s).chain = s.chain := by
  unfold notePort
  split
  · rfl
  · dsimp only
    split <;> rfl

theorem rewritten_keeps_chain {w : Nat} {s : State} : (rewritten w s).chain = s.chain := by
  unfold rewritten
  split
  · rfl
  · dsimp only
    split <;> rfl

theorem writeWord_keeps_chain {r : Reader} {a : Nat} {bs : List Byte} {s : State} : (writeWord r a bs s).chain = s.chain := by
  unfold writeWord
  dsimp only
  split
  · exact uncorrectable_keeps_chain
  · exact notePort_keeps_chain.trans (rewritten_keeps_chain.trans (when_of_eq (fun u : State => u.chain) rfl))

theorem writeBytes_keeps_chain {r : Reader} {a : Nat} {bs : List Byte} {s : State} : (writeBytes r a bs s).chain = s.chain :=
  forEach_of_eq (fun u => u.chain) (fun _ _ => writeWord_keeps_chain) _ _

theorem cardRecord_keeps_chain {n outcome : Nat} {h : How} {s : State} : (cardRecord n outcome h s).chain = s.chain := by
  unfold cardRecord
  split
  · rfl
  · dsimp only
    split
    · exact raise_chain.trans (setb_chain.trans rfl)
    · exact (when_of_eq (fun u : State => u.chain) raise_chain).trans (setb_chain.trans writeBytes_keeps_chain)

/-! ### Slots -/

theorem nearAt_keeps_chain {c : Nat} {s : State} : (nearAt c s).chain = s.chain := by
  unfold nearAt
  split <;> rfl

theorem dispatchAt_keeps_chain {c : Nat} {s : State} : (dispatchAt c s).chain = s.chain := by
  unfold dispatchAt
  split <;> rfl

theorem nearTo_keeps_chain {k : Nat} {s : State} : (nearTo k s).chain = s.chain := by
  unfold nearTo
  dsimp only
  refine (when_of_eq (fun u : State => u.chain) raise_chain).trans (setb_chain.trans ?_)
  split
  · exact nearAt_keeps_chain
  · rfl

theorem nearLater_keeps_chain {n : Nat} {s : State} : (nearLater n s).chain = s.chain := by
  unfold nearLater
  dsimp only
  split
  · split
    · exact nearAt_keeps_chain
    · rfl
  · rfl

/-- A change of a slot leaves the rest of the chain. -/
theorem setSlot_chainSt {n : Nat} {x : SlotSt} {s : State} :
    (setSlot n x s).chain = { s.chain with slots := tset s.chain.slots n x } := by
  unfold setSlot
  exact ite_of_eq (fun u : State => u.chain) rfl nearTo_keeps_chain

@[simp] theorem setSlot_slotSt_same {n : Nat} {x : SlotSt} {s : State} : slotSt (setSlot n x s) n = x := by
  rw [slotSt, setSlot_chainSt]
  exact tget_tset_same _ _ _ _

@[simp] theorem modSlot_slotSt_same {n : Nat} {f : SlotSt → SlotSt} {s : State} : slotSt (modSlot n f s) n = f (slotSt s n) :=
  setSlot_slotSt_same

theorem slotSt_of_chain {n : Nat} {s t : State} (h : t.chain = s.chain) : slotSt t n = slotSt s n := by rw [slotSt, h]; rfl

/-! ### The fine steps of the outputs (R223) -/

theorem setSlot_fine {n : Nat} {x : SlotSt} {s : State} : (setSlot n x s).chain.fine = s.chain.fine := by rw [setSlot_chainSt]

theorem modSlot_fine {n : Nat} {f : SlotSt → SlotSt} {s : State} : (modSlot n f s).chain.fine = s.chain.fine := setSlot_fine

theorem fine_of_chain {s t : State} (h : t.chain = s.chain) : t.chain.fine = s.chain.fine := by rw [h]

theorem holdCard_fine {n : Nat} {s : State} : (holdCard n s).chain.fine = s.chain.fine :=
  (fine_of_chain nearLater_keeps_chain).trans modSlot_fine

theorem catchUpFrom_fine {c n : Nat} {s : State} : (catchUpFrom c n s).chain.fine = s.chain.fine :=
  (fine_of_chain dispatchAt_keeps_chain).trans modSlot_fine

theorem bumpCycle_keeps_chain {n : Nat} {s : State} : (bumpCycle n s).chain = s.chain := writeBytes_keeps_chain

theorem dropCard_keeps_chain {n outcome : Nat} {s : State} : (dropCard n outcome s).chain = s.chain :=
  cardRecord_keeps_chain.trans (raise_chain.trans (setb_chain.trans rfl))

theorem armCard_fine {fuel n : Nat} {first : Inst} {s : State} : (armCard fuel first n s).chain.fine = s.chain.fine := by
  induction fuel generalizing s with
  | zero => exact holdCard_fine
  | succ fuel ih =>
    unfold armCard
    split
    · exact holdCard_fine
    · split
      · dsimp only
        generalize (if limpSkips s n then 5 else 4) = outcome
        split
        · exact ih.trans (fine_of_chain (bumpCycle_keeps_chain.trans dropCard_keeps_chain))
        · exact modSlot_fine.trans (fine_of_chain dropCard_keeps_chain)
      · exact catchUpFrom_fine

theorem completeCard_fine {n outcome : Nat} {h : How} {s : State} : (completeCard n outcome h s).chain.fine = s.chain.fine := by
  unfold completeCard
  dsimp only
  have hrec : (cardRecord n outcome h s).chain.fine = s.chain.fine := fine_of_chain cardRecord_keeps_chain
  generalize cardRecord n outcome h s = r at hrec ⊢
  have hbump : (bumpCycle n r).chain.fine = s.chain.fine := (fine_of_chain bumpCycle_keeps_chain).trans hrec
  split
  · split
    · exact modSlot_fine.trans (modSlot_fine.trans hbump)
    · exact armCard_fine.trans (modSlot_fine.trans hbump)
  · exact modSlot_fine.trans hrec

/-! ### Outputs (R223, R224) -/

/-- What a change of the output of channel n leaves: all but the reeds, the registers of the channel's status and of its reed, what is
scheduled, and the last outputs that the chain notes. -/
structure OutFrame (n : Nat) (s t : State) : Prop where
  fields : t = { s with reed := t.reed, regs := t.regs, cyc := t.cyc, timed := t.timed,
                        chain := { s.chain with last := t.chain.last } }
  regs : ∀ a, a ≠ Reg.chSts n → a ≠ Reg.reedSts (n / 2) → a ≠ Reg.reedSwlCnt (n / 2) → rget t a = rget s a

namespace OutFrame

theorem refl (n : Nat) (s : State) : OutFrame n s s := ⟨rfl, fun _ _ _ _ => rfl⟩

theorem trans {n : Nat} {s t u : State} (h : OutFrame n s t) (k : OutFrame n t u) : OutFrame n s u :=
  ⟨by rw [k.fields, h.fields], fun a h0 h1 h2 => (k.regs a h0 h1 h2).trans (h.regs a h0 h1 h2)⟩

theorem ite {n : Nat} {s t u : State} {c : Prop} [Decidable c] (ht : OutFrame n s t) (hu : OutFrame n s u) :
    OutFrame n s (if c then t else u) := by
  split
  · exact ht
  · exact hu

theorem output {n : Nat} {lv : Bool} {s t : State} (h : OutFrame n s t) : OutFrame n s (setb (Reg.chSts n) 17 lv t) :=
  h.trans ⟨by cases lv <;> rfl, fun _ h0 _ _ => rget_setb_other h0⟩

theorem refreshed {n : Nat} {i : Inst} {s t : State} (h : OutFrame n s t) : OutFrame n s (refreshPair (n / 2) i t) :=
  h.trans ⟨by rw [(refreshPair_frame (n / 2) i t).fields], fun a _ h1 h2 => (refreshPair_frame (n / 2) i t).regs a h1 h2⟩

theorem writes {n a : Nat} {v : Word} {s t : State} (ha : a = Reg.reedSts (n / 2) ∨ a = Reg.reedSwlCnt (n / 2)) (h : OutFrame n s t) :
    OutFrame n s (rset a v t) :=
  h.trans ⟨rfl, fun _ _ h1 h2 => rget_rset_other (by rcases ha with rfl | rfl <;> assumption)⟩

theorem period {n : Nat} {s t : State} (h : OutFrame n s t) : OutFrame n s (periodStart n t) := h.trans ⟨rfl, fun _ _ _ _ => rfl⟩

end OutFrame

theorem setOut_outFrame (n : Nat) (lv : Bool) (t : Inst) (s : State) : OutFrame n s (setOut n lv t s) := by
  unfold setOut
  have hset : OutFrame n s (refreshPair (n / 2) t (setb (Reg.chSts n) 17 lv s)) := (OutFrame.refl n s).output.refreshed
  exact .ite (.refl n s) (.ite hset.period hset)

/-- The output of a channel is a bit of its STS. -/
theorem chOut_of_rget {n : Nat} {s t : State} (h : rget t (Reg.chSts n) = rget s (Reg.chSts n)) : chOut t n = chOut s n := by
  rw [chOut, chOut, rb, rb, h]

theorem chOut_refreshPair {n k : Nat} {t : Inst} {s : State} : chOut (refreshPair k t s) n = chOut s n :=
  chOut_of_rget ((refreshPair_frame k t s).regs _ chSts_ne_reed.1 chSts_ne_reed.2)

theorem chOut_periodStart {n c : Nat} {s : State} : chOut (periodStart c s) n = chOut s n := rfl

theorem chOut_setOut {n : Nat} {lv : Bool} {t : Inst} {s : State} : chOut (setOut n lv t s) n = lv := by
  obtain ⟨hsts, -⟩ := setOut_frame (n := n) (lv := lv) (t := t) (s := s)
  rw [chOut, rb, hsts, bit_setBit (by decide), if_pos rfl]

/-- The state of the reed that `cardOut` takes back to what stood before the fine step. -/
def takenBack (n : Nat) (lv : Bool) (l : LastOut) (s : State) : State :=
  rset (Reg.reedSwlCnt (n / 2)) l.swl (setf (Reg.reedSts (n / 2)) 3 2 l.sts
    (modReed (n / 2) (fun r => { r with a := l.a, b := l.b }) (setb (Reg.chSts n) 17 lv s)))

theorem takenBack_outFrame (n : Nat) (lv : Bool) (l : LastOut) (s : State) : OutFrame n s (takenBack n lv l s) := by
  have hset : OutFrame n s (setb (Reg.chSts n) 17 lv s) := (OutFrame.refl n s).output
  have hreed : OutFrame n s (modReed (n / 2) (fun r => { r with a := l.a, b := l.b }) (setb (Reg.chSts n) 17 lv s)) :=
    hset.trans ⟨rfl, fun _ _ _ _ => rfl⟩
  exact .writes (.inr rfl) (.writes (.inl rfl) hreed)

theorem chOut_takenBack {n : Nat} {lv : Bool} {l : LastOut} {s : State} : chOut (takenBack n lv l s) n = lv := by
  have hrest : rget (takenBack n lv l s) (Reg.chSts n) = rget (setb (Reg.chSts n) 17 lv s) (Reg.chSts n) := by
    rw [takenBack, rget_rset_other chSts_ne_reed.2, rget_setf_other chSts_ne_reed.1]
    rfl
  rw [chOut_of_rget hrest, chOut, rb_setb_same (by decide)]

/-- The note of a pair's levels before its first change at an instant. -/
def notedLast (k : Nat) (t : Inst) (s : State) : State :=
  { s with chain := { s.chain with last := tset s.chain.last k ⟨t, (reedSt s k).a, (reedSt s k).b, rf s (Reg.reedSts k) 3 2,
      rget s (Reg.reedSwlCnt k), (chOut s (2 * k), chOut s (2 * k + 1))⟩ } }

/-- A card's change of an output: nothing where it stands, or a first change at its instant, or one that takes an earlier one back. -/
theorem cardOut_cases (n : Nat) (lv : Bool) (t : Inst) (s : State) :
    (chOut s n = lv ∧ cardOut n lv t s = s) ∨ cardOut n lv t s = setOut n lv t (notedLast (n / 2) t s) ∨
    ∃ l c, cardOut n lv t s =
      refreshPair (n / 2) t (if c = true then periodStart n (takenBack n lv l s) else takenBack n lv l s) := by
  unfold cardOut
  by_cases hsame : chOut s n = lv
  · exact .inl ⟨hsame, if_pos hsame⟩
  · dsimp only
    rw [if_neg hsame]
    split
    · next k l hfind =>
      split
      · exact .inr (.inr ⟨l, _, rfl⟩)
      · exact .inr (.inl rfl)
    · exact .inr (.inl rfl)

theorem cardOut_outFrame (n : Nat) (lv : Bool) (t : Inst) (s : State) : OutFrame n s (cardOut n lv t s) := by
  obtain ⟨-, h⟩ | h | ⟨l, c, h⟩ := cardOut_cases n lv t s
  · rw [h]
    exact .refl n s
  · rw [h]
    have hnoted : OutFrame n s (notedLast (n / 2) t s) := ⟨rfl, fun _ _ _ _ => rfl⟩
    exact hnoted.trans (setOut_outFrame n lv t _)
  · rw [h]
    have hback := takenBack_outFrame n lv l s
    exact (OutFrame.ite hback.period hback).refreshed

theorem chOut_cardOut {n : Nat} {lv : Bool} {t : Inst} {s : State} : chOut (cardOut n lv t s) n = lv := by
  obtain ⟨hsame, h⟩ | h | ⟨l, c, h⟩ := cardOut_cases n lv t s
  · rw [h, hsame]
  · rw [h, chOut_setOut]
  · rw [h, chOut_refreshPair]
    split
    · rw [chOut_periodStart, chOut_takenBack]
    · exact chOut_takenBack

/-- A first action of its fine step on channel c, before it acts. -/
def freshStep (c : Nat) (t : Inst) (s : State) : FineStep := { t := t, was := chOut s c, mark := (chSt s c).pulse }

/-- An action on an output leaves the slots. -/
theorem outStep_slots (c : Nat) (t : Inst) (f : FineStep → FineStep) (s : State) :
    (outStep c t f s).chain.slots = s.chain.slots := by
  unfold outStep
  dsimp only
  rw [(cardOut_outFrame _ _ _ _).fields]
  rfl

/-- The fine step of channel c and its angle pulse are noted. -/
def noteStep (c : Nat) (x : FineStep) (s : State) : State :=
  modCh c (fun y => { y with pulse := x.net.2 }) { s with chain := { s.chain with fine := tset s.chain.fine c x } }

theorem outStep_of_first {c : Nat} {t : Inst} {s : State} (hfirst : firstOfStep c t s = true) (f : FineStep → FineStep) :
    outStep c t f s = cardOut c (f (freshStep c t s)).net.1 t (noteStep c (f (freshStep c t s)) s) := by
  unfold firstOfStep at hfirst
  unfold outStep
  split
  · next k x hfind =>
    have hne : x.t ≠ t := by simpa [hfind] using hfirst
    dsimp only
    rw [if_neg hne]
    rfl
  · rfl

/-- A first action of its fine step makes the output of its channel, and its angle pulse, what is left of that action alone (R223). -/
theorem outStep_fresh {c : Nat} {t : Inst} {s : State} (hfirst : firstOfStep c t s = true) (f : FineStep → FineStep) :
    chOut (outStep c t f s) c = (f (freshStep c t s)).net.1 ∧
      (chSt (outStep c t f s) c).pulse = (f (freshStep c t s)).net.2 := by
  rw [outStep_of_first hfirst]
  generalize f (freshStep c t s) = x
  have hch : chSt (cardOut c x.net.1 t (noteStep c x s)) c = chSt (noteStep c x s) c := by
    rw [chSt, (cardOut_outFrame c x.net.1 t (noteStep c x s)).fields]
    rfl
  exact ⟨chOut_cardOut, by rw [hch, noteStep, modCh_chSt_same]⟩

end Sys2Proof.Machine
end

section
/-!
PROOFS. Cards placed, promoted, recorded and ended (O43): a completion record can change the card of a slot number that the card store
does not have, and with it what still runs on a channel.
-/

namespace Sys2Proof.Machine

/-! ### The fault policy takes a free value for each detection; holds and aborts take none -/

theorem discardStaged_freeN (s : State) : (discardStaged s).freeN = s.freeN := by
  have hfreed : (forEach (slotsWhere s fun _ x => x.staged) freeSlot s).freeN = s.freeN :=
    forEach_of_eq (fun u => u.freeN) (fun _ u => by rw [(freeSlot_chain (ChainFrame.refl u)).fields]) _ s
  rw [discardStaged_eq]
  generalize forEach (slotsWhere s fun _ x => x.staged) freeSlot s = v at hfreed
  have hflags : (unstageFlags v).freeN = v.freeN := rfl
  generalize unstageFlags v = w at hflags
  have hheds : (unstageHeds w).freeN = w.freeN := by
    unfold unstageHeds
    refine forEach_of_eq (fun u => u.freeN) ?_ _ w
    intro e u
    split
    · rfl
    · rfl
  have hdraft : ∀ u, (unstageDraft u).freeN = u.freeN := fun _ => rfl
  rw [hdraft, hheds, hflags, hfreed]

theorem logCause_freeN {cls sev inst : Nat} {d0 d1 : Word} {s : State} : (logCause cls sev inst d0 d1 s).freeN = s.freeN := by
  rw [(logCause_frame cls sev inst d0 d1 s).1]

theorem chgAbort_freeN (code : Nat) (s : State) : (chgAbort code s).freeN = s.freeN := by
  unfold chgAbort
  exact ite_of_eq (fun u : State => u.freeN) ((discardStaged_freeN _).trans logCause_freeN) logCause_freeN

theorem endOutput_freeN (c : Nat) (t : Inst) (s : State) : (endOutput c t s).freeN = s.freeN := by
  unfold endOutput outStep
  dsimp only
  rw [(cardOut_outFrame _ _ _ _).fields]
  rfl

theorem holdDisarm_freeN (ns : List Nat) (s : State) : (holdDisarm ns s).freeN = s.freeN := by
  have hfreed : (forEach ns (fun n s => freeSlot n (cardRecord n 9 (decidedNow s) s)) s).freeN = s.freeN :=
    forEach_of_eq (fun u => u.freeN) (fun _ u => by rw [(freeSlot_chain (cardRecord_chain (ChainFrame.refl u))).fields]) _ s
  unfold holdDisarm
  refine (when_of_eq (fun u : State => u.freeN) (by rw [(raise_frame _ _).1])).trans ?_
  exact (forEach_of_eq (fun u => u.freeN) (fun _ u => ite_of_eq (fun w : State => w.freeN) (endOutput_freeN ..) rfl) _ _).trans hfreed

theorem setMode_freeN (m : Nat) (s : State) : (setMode m s).freeN = s.freeN := by rw [(setMode_frame m s).fields]

theorem abandonFrames_freeN (s : State) : (abandonFrames s).freeN = s.freeN := by rw [(abandonFrames_frame s).fields]

theorem engHolds_freeN (s : State) : (engHolds s).freeN = s.freeN := by
  refine forEach_of_eq (fun u => u.freeN) (fun e u => ?_) _ s
  dsimp only
  refine ite_of_eq (fun w : State => w.freeN) rfl ?_
  generalize hm : modEng e _ u = m
  have hmod : m.freeN = u.freeN := by
    rw [← hm]
    rfl
  clear hm
  exact ite_of_eq (fun w : State => w.freeN) ((when_of_eq (fun w : State => w.freeN) rfl).trans hmod)
    ((when_of_eq (fun w : State => w.freeN) rfl).trans hmod)

theorem unreleaseHarness_freeN (h : Nat) (s : State) : (unreleaseHarness h s).freeN = s.freeN := by
  have hchans : (forEach (upto (8 * h) 8) (fun n => modCh n fun x => { x with released := false }) s).freeN = s.freeN := by
    refine forEach_of_eq (fun u => u.freeN) ?_ _ s
    exact fun _ _ => rfl
  exact hchans

theorem addHold_freeN (hs : List Nat) (whole : Bool) (cause : Nat) (s : State) : (addHold hs whole cause s).freeN = s.freeN := by
  unfold addHold
  dsimp only
  generalize hm : forEach (hs.filter _) _ (holdRegs _) = m
  have hheld : m.freeN = s.freeN := by
    rw [← hm]
    refine (forEach_of_eq (fun u => u.freeN) (fun h u => ?_) _ _).trans ?_
    · exact (unreleaseHarness_freeN h _).trans (ite_of_eq (fun w : State => w.freeN) rfl (holdDisarm_freeN _ u))
    · unfold holdRegs
      exact setb_freeN
  clear hm
  refine (engHolds_freeN _).trans ((abandonFrames_freeN _).trans ?_)
  refine ite_of_eq (fun w : State => w.freeN) hheld ?_
  generalize hd : (if mode m = 9 then m else holdDisarm _ m) = d
  have hdone : d.freeN = s.freeN := by
    rw [← hd]
    exact (ite_of_eq (fun w : State => w.freeN) rfl (holdDisarm_freeN _ m)).trans hheld
  clear hd
  refine (when_of_eq (fun w : State => w.freeN) (setMode_freeN 8 _)).trans ?_
  exact (ite_of_eq (fun w : State => w.freeN) (chgAbort_freeN 3 d) rfl).trans hdone

theorem policyOne_freeN (d : Detection) (s : State) : (policyOne d s).freeN = s.freeN + 1 := by
  unfold policyOne
  dsimp only
  generalize hr : logCause (0x1100 + d.cls) (faultSev d.cls) d.inst _ _ (freshWord (setf Reg.gctlSts 8 4 d.cls s)).2 = r
  have hlogged : r.freeN = s.freeN + 1 := by
    rw [← hr, logCause_freeN]
    rfl
  clear hr
  split
  · exact hlogged
  · exact (ite_of_eq (fun w : State => w.freeN) rfl (addHold_freeN ..)).trans hlogged
  · exact (addHold_freeN ..).trans hlogged
  · exact hlogged

theorem policyDrain_freeN (k : Nat) (s : State) : s.freeN ≤ (policyDrain k s).freeN := by
  induction k generalizing s with
  | zero => exact Nat.le_refl _
  | succ k ih =>
    unfold policyDrain
    split
    · exact Nat.le_refl _
    · refine Nat.le_trans ?_ (ih _)
      rw [policyOne_freeN]
      exact Nat.le_succ _

/-- The policy leaves a state as it is, or takes a free value. -/
theorem policyDrain_cases (k : Nat) (s : State) : policyDrain (k + 1) s = s ∨ s.freeN < (policyDrain (k + 1) s).freeN := by
  unfold policyDrain
  split
  · exact .inl rfl
  · refine .inr (Nat.lt_of_lt_of_le ?_ (policyDrain_freeN k _))
    rw [policyOne_freeN]
    exact Nat.lt_succ_self _

/-! ### The abort of a changeover leaves the channels and the reeds -/

theorem modeAuto_frame (s : State) : ModeFrame s (modeAuto s) := by
  unfold modeAuto
  dsimp only
  split
  · split
    · exact modeReport_frame _ s
    · exact .refl s
  · split
    · split
      · exact modeReport_frame _ s
      · exact modeReport_frame _ s
    · exact .refl s

section
variable {a : Nat} (hlow : 0x100000 ≤ a) (hhigh : a < 0x140000)
include hlow hhigh

theorem modeFrame_rget_loom {s t : State} (h : ModeFrame s t) : rget t a = rget s a :=
  h.regs a (fun hraise => not_logReg (.inr (.inl ⟨by omega, by omega⟩)) (.inl hraise)) (by simp only [Reg.gctlMode]; omega)
    (.inl (by omega))

theorem chgAbort_rget_loom (s : State) : rget (chgAbort 2 s) a = rget s a := by
  have hne : a ≠ Reg.chgSts ∧ a ≠ Reg.chgAbortCnt := by
    simp only [Reg.chgSts, Reg.chgAbortCnt]
    omega
  have hstage : ∀ u, rget (setStage 3 u) a = rget u a := fun u => rget_setf_other hne.1
  rw [chgAbort, if_neg (by decide), hstage, logCause_rget (.inr (.inl ⟨by omega, by omega⟩)), rget_setf_other hne.1,
    rget_setb_other hne.1, rget_count_other hne.2]

theorem lossAbort_rget_loom (s : State) : rget (lossAbort s) a = rget s a := by
  unfold lossAbort
  split
  · exact (modeFrame_rget_loom hlow hhigh ((setMode_frame _ _).trans (modeAuto_frame _))).trans (chgAbort_rget_loom hlow hhigh s)
  · rfl

/-- Where the end of a cycle took no free value, it has left the channels and the reeds. -/
theorem rget_of_settle {s : State} (h : (settle s).freeN = 0) : rget (settle s) a = rget s a := by
  obtain hsame | hmore := policyDrain_cases ((lossAbort s).flt.det.length + 255) (lossAbort s)
  · have hsettle : settle s = lossAbort s := hsame
    rw [hsettle, lossAbort_rget_loom hlow hhigh]
  · exact absurd (show (lossAbort s).freeN < (settle s).freeN from hmore) (by omega)

end

/-! ### A slot number that the card store does not have -/

/-- A pulse of slot 0 on channel 0 that ends now, and beside it a slot beyond the card store, whose words stand where the completion
records go: before the record of slot 0 they name channel 1, after it channel 0. -/
def strayCard : State :=
  { regs := [(Reg.gctlMode, 4), (Reg.chSts 0, 0x20000), (Reg.cardCtl, 1), (Reg.cardCrBase, 0x1A00000), (Reg.cardCrSize, 4)]
    mem := [(0x1A00000, 1)]
    chain := { slots := [(0, { st := 4, endT := some ⟨0, 0⟩ }), (131072, { st := 4 })] } }

def strayEnd : State := endPulse 0 2 { t := ⟨0, 0⟩ } (dispatchOne strayCard)

theorem strayEnd_chOut : chOut strayEnd 0 = true := by decide

theorem strayEnd_quiet : Quiet strayEnd := ⟨by decide, by decide⟩

/-- Refutes O43: the record of the pulse that ends makes the words of a slot beyond the card store name its channel, so that another
pulse seems to run there and the output stays active. -/
theorem not_cardsPlacedAndEnded : ¬ Obligations.CardsPlacedAndEnded := by
  rintro ⟨-, -, -, -, -, -, hend, hlast, -, -⟩
  have hdue : pulseDue strayCard (0 : Fin 131072) = .at_ { t := ⟨0, 0⟩ } := by decide
  have hnext : ActsNext (.pulseEnd (0 : Fin 131072)) { t := ⟨0, 0⟩ } strayCard := by unfold ActsNext; decide
  have hrecords : RecordsApart strayCard := by unfold RecordsApart; decide
  obtain ⟨t, hexec, hout, -⟩ := hlast 0 { t := ⟨0, 0⟩ } strayCard hdue hnext (by decide) (by decide) (by decide) rfl hrecords (by decide)
  have hrun : exec (.pulseEnd 0) strayCard = .next (settle strayEnd) := hend 0 { t := ⟨0, 0⟩ } strayCard hdue hnext
  rw [hrun] at hexec
  injection hexec with hsettled
  have hfree : (settle t).freeN = 0 := by rw [← hsettled, settle_quiet strayEnd_quiet]; decide
  have hkept : chOut (settle t) 0 = chOut t 0 := chOut_of_rget (rget_of_settle (by decide) (by decide) hfree)
  rw [← hsettled, settle_quiet strayEnd_quiet, strayEnd_chOut] at hkept
  exact absurd (hkept.trans hout) (by decide)

end Sys2Proof.Machine
end

section
/-!
PROOFS. A due card fires (O42): the chain comes to its action next (06_card_chain.md R222), and the action has its effect (R205, R206,
R223, R224, R225).
-/

namespace Sys2Proof.Machine

/-! ### The action that the chain comes to next (R222) -/

/-- The choice of the first of two actions. -/
def earlier (b : Option Action) (x : Action) : Option Action :=
  match b with | some y => if x.before y then some x else b | none => some x

theorem earlier_eq (b : Option Action) (x : Action) : earlier b x = some x ∨ earlier b x = b := by
  unfold earlier
  split
  · split
    · exact .inl rfl
    · exact .inr rfl
  · exact .inl rfl

theorem mem_of_earliest {l : List Action} {b : Option Action} {x : Action} (h : l.foldl earlier b = some x) : b = some x ∨ x ∈ l := by
  induction l generalizing b with
  | nil => exact .inl h
  | cons y l ih =>
    obtain hb | hl := ih h
    · obtain hy | hy := earlier_eq b y
      · rw [hy] at hb
        injection hb with hxy
        exact .inr (hxy ▸ List.mem_cons_self ..)
      · exact .inl (hy ▸ hb)
    · exact .inr (List.mem_cons_of_mem _ hl)

theorem firstAction_mem {s : State} {x : Action} (h : firstAction s = some x) : x ∈ dueActions s := by
  have hfold : (dueActions s).foldl earlier none = some x := h
  obtain hnone | hmem := mem_of_earliest hfold
  · exact absurd hnone (by simp)
  · exact hmem

/-- The chain dispatches the action that it comes to next, where the cycle has room for it. -/
theorem actAt_first {a : Act} {h : How} {s : State} (hnext : ActsNext a h s) :
    ∃ x, x.act = a ∧ x.how = h ∧ actAt a h s = .next (settle (dispatch x s)) := by
  obtain ⟨hfirst, hnow, hroom⟩ := hnext
  obtain ⟨x, hx, hact⟩ := Option.map_eq_some_iff.1 hfirst
  injection hact with hact hhow
  refine ⟨x, hact, hhow, ?_⟩
  have hany : ((dueActions s).any fun x => x.act == a) = true :=
    List.any_eq_true.2 ⟨x, firstAction_mem hx, by simp [hact]⟩
  have hrun : dispatchUpTo (some a) 17 s = dispatch x s := by
    unfold dispatchUpTo
    simp only [hx]
    rw [if_neg (by omega), if_pos (by rw [hact])]
  unfold actAt
  rw [advanceTo_now hnow]
  simp only [hany, if_true]
  rw [hrun]

theorem actAt_card {n : Nat} {h : How} {s : State} (hnext : ActsNext (.card n) h s) :
    actAt (.card n) h s = .next (settle (dispatchCard n h s)) := by
  obtain ⟨x, hact, hhow, hrun⟩ := actAt_first hnext
  rw [hrun, dispatch, hact, ← hhow]

theorem fireAt_fires {k n : Nat} {h : How} {s : State} (hfires : Fires k n h s) :
    fireAt k n s = .next (settle (dispatchCard n h s)) := by
  obtain ⟨hact, hdue, hnext⟩ := hfires
  rw [← actAt_card hnext, fireAt, if_neg (by simp [hact]), hdue]

theorem fireAt_passed {k n : Nat} {s : State} (hact : cAct (cw0 s n) = k) (hdue : cardDue s n = .passed) :
    fireAt k n s = .next (settle (passCard false n s)) := by
  rw [fireAt, if_neg (by simp [hact]), hdue]

/-! ### Bytes of a record (R373) -/

theorem notePort_store {r : Reader} {a n : Nat} {s : State} : (notePort r a n s).store = s.store := by
  unfold notePort
  split
  · rfl
  · dsimp only
    split
    · rfl
    · rfl

theorem putBytes_append (a : Nat) (l m : List Byte) (cells : List Host.Cell) :
    putBytes a (l ++ m) cells = putBytes (a + l.length) m (putBytes a l cells) := by
  induction l generalizing a cells with
  | nil => rfl
  | cons b l ih =>
    have hlen : a + (b :: l).length = a + 1 + l.length := by simp only [List.length_cons]; omega
    rw [List.cons_append, putBytes, ih, hlen, putBytes]

theorem putBytes_take_drop (a n : Nat) (bs : List Byte) (cells : List Host.Cell) :
    putBytes (a + n) (bs.drop n) (putBytes a (bs.take n) cells) = putBytes a bs cells := by
  by_cases hn : n ≤ bs.length
  · have h := putBytes_append a (bs.take n) (bs.drop n) cells
    rw [List.take_append_drop, List.length_take_of_le hn] at h
    exact h.symm
  · rw [List.drop_eq_nil_of_le (by omega), List.take_of_length_le (by omega), putBytes]

/-- A write through port A to stores without error marks puts its bytes, word by word. -/
theorem writeParts_clean {r : Reader} (hr : r.portA = true) {fuel a : Nat} {bs : List Byte} {s : State} (hlen : bs.length ≤ fuel)
    (hmarks : s.store.marks = []) :
    (forEach (wordParts fuel a bs) (fun p => writeWord r p.1 p.2) s).mem = putBytes a bs s.mem ∧
      (forEach (wordParts fuel a bs) (fun p => writeWord r p.1 p.2) s).store = s.store := by
  induction fuel generalizing a bs s with
  | zero =>
    rw [List.length_eq_zero_iff.1 (by omega : bs.length = 0)]
    exact ⟨rfl, rfl⟩
  | succ fuel ih =>
    cases bs with
    | nil => exact ⟨rfl, rfl⟩
    | cons b bs =>
      have hstore : (writeWord r a ((b :: bs).take (8 - a % 8)) s).store = s.store := by
        rw [writeWord_clean hmarks (.inl hr)]
        exact notePort_store
      have hmem : (writeWord r a ((b :: bs).take (8 - a % 8)) s).mem = putBytes a ((b :: bs).take (8 - a % 8)) s.mem := by
        rw [writeWord_clean hmarks (.inl hr)]
      have hrest := ih (a := a + (8 - a % 8)) (bs := (b :: bs).drop (8 - a % 8))
        (s := writeWord r a ((b :: bs).take (8 - a % 8)) s)
        (by rw [List.length_drop]; simp only [List.length_cons] at hlen ⊢; omega) (by rw [hstore]; exact hmarks)
      rw [hstore, hmem, putBytes_take_drop] at hrest
      exact hrest

theorem writeBytes_clean {r : Reader} (hr : r.portA = true) {a : Nat} {bs : List Byte} {s : State} (hmarks : s.store.marks = []) :
    (writeBytes r a bs s).mem = putBytes a bs s.mem ∧ (writeBytes r a bs s).store = s.store :=
  writeParts_clean hr (Nat.le_refl _) hmarks

/-- A completion record changes no bytes, or those from its place in the ring on. -/
theorem cardRecord_mem {n outcome : Nat} {h : How} {s : State} (hmarks : s.store.marks = []) :
    (cardRecord n outcome h s).store = s.store ∧ ((cardRecord n outcome h s).mem = s.mem ∨ rb s Reg.cardCtl 0 = true ∧
      ∃ bs, (cardRecord n outcome h s).mem = putBytes (rn s Reg.cardCrBase + 16 * rn s Reg.cardCrWr) bs s.mem) := by
  by_cases hoff : (!rb s Reg.cardCtl 0 || (cQuiet (cw0 s n) && decide (outcome ≤ 2))) = true
  · rw [cardRecord, if_pos hoff]
    exact ⟨rfl, .inl rfl⟩
  · have hon : rb s Reg.cardCtl 0 = true := by
      cases hctl : rb s Reg.cardCtl 0 with
      | true => rfl
      | false => simp [hctl] at hoff
    rw [cardRecord, if_neg hoff]
    dsimp only
    split
    · exact ⟨by simp [flagRaise], .inl (by simp [flagRaise])⟩
    · obtain ⟨hmem, hstore⟩ := writeBytes_clean (r := .card) rfl (a := rn s Reg.cardCrBase + 16 * rn s Reg.cardCrWr)
        (bs := (recordWords s n outcome h).flatMap fun w => leBytes 4 w.toNat) hmarks
      refine ⟨?_, .inr ⟨hon, (recordWords s n outcome h).flatMap fun w => leBytes 4 w.toNat, ?_⟩⟩
      · rw [when_of_eq (fun u : State => u.store) raise_store, ringSts, setb_store]
        exact hstore
      · rw [when_of_eq (fun u : State => u.mem) raise_mem, ringSts, setb_mem]
        exact hmem

/-! ### Cards whose records lie apart (R242) -/

/-- The words of the cards of the card store stand in `t` as in `s`. -/
structure CardsKept (s t : State) : Prop where
  store : t.store = s.store
  bytes : ∀ c, c < 0x1A00000 → mget t.mem c = mget s.mem c

namespace CardsKept

theorem of_eq {s t : State} (hstore : t.store = s.store) (hmem : t.mem = s.mem) : CardsKept s t := ⟨hstore, fun _ _ => by rw [hmem]⟩

theorem trans {s t u : State} (h : CardsKept s t) (k : CardsKept t u) : CardsKept s u :=
  ⟨k.store.trans h.store, fun c hc => (k.bytes c hc).trans (h.bytes c hc)⟩

theorem cardWord {s t : State} (k : CardsKept s t) (hmarks : s.store.marks = []) {n i : Nat} (hn : n < 131072) (hi : i < 4) :
    cardWord t n i = cardWord s n i := by
  have hbytes : loaded t (cardAddr n + 4 * i) 4 = loaded s (cardAddr n + 4 * i) 4 := by
    unfold loaded
    congr 1
    refine List.map_congr_left fun c hc => k.bytes c ?_
    rw [mem_upto] at hc
    simp only [cardAddr] at hc
    omega
  rw [Machine.cardWord, Machine.cardWord, readN_clean hmarks, readN_clean (by rw [k.store]; exact hmarks), hbytes]

end CardsKept

theorem cardRecord_kept {n outcome : Nat} {h : How} {s : State} (hmarks : s.store.marks = []) (hapart : RecordsApart s) :
    CardsKept s (cardRecord n outcome h s) := by
  obtain ⟨hstore, hsame | ⟨hon, bs, hmem⟩⟩ := cardRecord_mem (n := n) (outcome := outcome) (h := h) hmarks
  · exact .of_eq hstore hsame
  · refine ⟨hstore, fun c hc => ?_⟩
    have hbase := hapart.2 hon
    rw [hmem, mget_putBytes_other bs (.inl (by omega)) ((memory_wf_iff _).1 hapart.1)]

theorem nearAt_kept {c : Nat} {s : State} : CardsKept s (nearAt c s) := by
  unfold nearAt
  split
  · exact .of_eq rfl rfl
  · exact .of_eq rfl rfl

theorem nearTo_kept {k : Nat} {s : State} : CardsKept s (nearTo k s) := by
  unfold nearTo
  dsimp only
  refine .of_eq ((when_of_eq (fun u : State => u.store) raise_store).trans (setb_store.trans ?_))
    ((when_of_eq (fun u : State => u.mem) raise_mem).trans (setb_mem.trans ?_))
  · exact ite_of_eq (fun u : State => u.store) nearAt_kept.store rfl
  · exact ite_of_eq (fun u : State => u.mem) (ite_of_eq (fun u : State => u.mem) rfl rfl) rfl

theorem setSlot_kept {n : Nat} {x : SlotSt} {s : State} : CardsKept s (setSlot n x s) := by
  unfold setSlot
  dsimp only
  generalize hr : rset Reg.cardPeak _ _ = r
  have hregs : CardsKept s r := by
    rw [← hr]
    exact .of_eq rfl rfl
  clear hr
  split
  · exact hregs
  · exact hregs.trans nearTo_kept

theorem modSlot_kept {n : Nat} {f : SlotSt → SlotSt} {s : State} : CardsKept s (modSlot n f s) := setSlot_kept

theorem nearLater_kept {n : Nat} {s : State} : CardsKept s (nearLater n s) := by
  unfold nearLater
  dsimp only
  split
  · split
    · exact nearAt_kept
    · exact .of_eq rfl rfl
  · exact .of_eq rfl rfl

/-! ### The state in which a card acts (R222, R234, R237) -/

theorem readCard_clean {n : Nat} {s : State} (hmarks : s.store.marks = []) : readCard n s = (true, touchBank (cardAddr n) s) := by
  have hfold : ∀ l : List Nat, l.foldl (fun (p : Bool × State) w => let m := eccMark p.2 w
      if m = 0 then p else if eccBad m then (true, uncorrectable .card w p.2) else (p.1, correctable w p.2))
      (false, touchBank (cardAddr n) s) = (false, touchBank (cardAddr n) s) := by
    intro l
    induction l with
    | nil => rfl
    | cons w l ih =>
      have hword : eccMark (touchBank (cardAddr n) s) w = 0 := eccMark_clean (s := touchBank (cardAddr n) s) hmarks w
      rw [List.foldl_cons]
      dsimp only
      rw [if_pos hword]
      exact ih
  have hread : checkRead .card (cardAddr n) 16 s = (false, touchBank (cardAddr n) s) := by
    unfold checkRead
    dsimp only
    split
    · rfl
    · exact hfold _
  rw [readCard, hread]
  rfl

theorem noteLate_chain {h : How} {s t : State} (hs : ChainFrame s t) : ChainFrame s (noteLate h t) :=
  .when_ (.flagRaise (cardReg_chain (by decide) (by decide)) ((ChainFrame.refl t).count (cardCount_chain (by decide) (by decide)))) hs

theorem noteLate_keeps_chain {h : How} {s : State} : (noteLate h s).chain = s.chain :=
  when_of_eq (fun u : State => u.chain) (raise_chain.trans setb_chain)

theorem noteLate_mem {h : How} {s : State} : (noteLate h s).mem = s.mem :=
  when_of_eq (fun u : State => u.mem) (raise_mem.trans setb_mem)

theorem noteLate_kept {h : How} {s : State} : CardsKept s (noteLate h s) :=
  .of_eq (when_of_eq (fun u : State => u.store) (raise_store.trans setb_store)) noteLate_mem

section
variable {n : Nat} {h : How} {s : State} (hmarks : s.store.marks = [])
include hmarks

theorem acting_eq : acting n h s = noteLate h (touchBank (cardAddr n) (dispatchOne s)) := by
  have hread : readCard n (dispatchOne s) = (true, touchBank (cardAddr n) (dispatchOne s)) := readCard_clean hmarks
  rw [acting, hread]

theorem acting_chain : ChainFrame s (acting n h s) := by
  rw [acting_eq hmarks]
  exact noteLate_chain (touchBank_chain ⟨rfl, fun _ _ => rfl⟩)

theorem acting_fine : (acting n h s).chain.fine = s.chain.fine := by
  have hone : (dispatchOne s).chain.fine = s.chain.fine := by
    unfold dispatchOne
    dsimp only
    split
    · rfl
    · rfl
  rw [acting_eq hmarks, noteLate_keeps_chain]
  exact hone

theorem acting_kept : CardsKept s (acting n h s) := by
  rw [acting_eq hmarks]
  have hread : CardsKept s (touchBank (cardAddr n) (dispatchOne s)) := .of_eq rfl rfl
  exact hread.trans noteLate_kept

end

/-! ### What a card that acts does (R205) -/

/-- The registers of channel c are none of the chain's. -/
theorem not_chainReg_ch {a : Nat} (ha : 0x100000 ≤ a ∧ a < 0x120000) : ¬ ChainReg a := by
  simp only [ChainReg, RaiseReg, Reg.selLevOut, Reg.shedMergeCnt, Reg.shedExpMergeCnt, Reg.cardCrWr]
  omega

theorem cChan_lt (w : Word) : cChan w < 512 := by
  exact fld_lt w 0 9

/-- A plain card that is dispatched is read and fires, and copies no card of a chain. -/
theorem dispatchCard_plain {k n : Nat} {h : How} {s : State} (hplain : FiresPlain k n h s) : ∃ r,
    dispatchCard n h s = fireCard n h r ∧ chainCopy n h.t r = r ∧ noteLate h r = acting n h s ∧ cw0 r n = cw0 s n := by
  obtain ⟨-, hmarks, hchain, hlimp⟩ := hplain
  have hread : readCard n (dispatchOne s) = (true, touchBank (cardAddr n) (dispatchOne s)) := readCard_clean hmarks
  have hskip : limpSkips (touchBank (cardAddr n) (dispatchOne s)) n = false := hlimp
  have hw : cw0 (touchBank (cardAddr n) (dispatchOne s)) n = cw0 s n := rfl
  refine ⟨touchBank (cardAddr n) (dispatchOne s), ?_, ?_, (acting_eq hmarks).symm, hw⟩
  · rw [dispatchCard, hread]
    dsimp only
    rw [hskip]
    rfl
  · rw [chainCopy, hw, hchain]
    rfl

section
variable {n : Nat} {h : How} {s : State}

theorem acting_cw0 (hmarks : s.store.marks = []) (hn : n < 131072) : cw0 (acting n h s) n = cw0 s n :=
  (acting_kept hmarks).cardWord hmarks hn (by decide)

theorem acting_chMode (hmarks : s.store.marks = []) {c : Nat} (hc : c < 512) : chMode (acting n h s) c = chMode s c := by
  rw [chMode, chMode, rf, rf, (acting_chain hmarks).regs _ (not_chainReg_ch (by simp only [Reg.chCtl]; omega))]

theorem acting_chOut (hmarks : s.store.marks = []) {c : Nat} (hc : c < 512) : chOut (acting n h s) c = chOut s c :=
  chOut_of_rget ((acting_chain hmarks).regs _ (not_chainReg_ch (by simp only [Reg.chSts]; omega)))

theorem acting_first (hmarks : s.store.marks = []) {c : Nat} {t : Inst} : firstOfStep c t (acting n h s) = firstOfStep c t s := by
  rw [firstOfStep, firstOfStep, acting_fine hmarks]

theorem acting_apart (hmarks : s.store.marks = []) (hapart : RecordsApart s) : RecordsApart (acting n h s) := by
  have hrn : rn (acting n h s) Reg.cardCrBase = rn s Reg.cardCrBase := by
    rw [rn, rn, (acting_chain hmarks).regs _ (by unfold ChainReg RaiseReg; decide)]
  have hctl : rb (acting n h s) Reg.cardCtl 0 = rb s Reg.cardCtl 0 := by
    rw [rb, rb, (acting_chain hmarks).regs _ (by unfold ChainReg RaiseReg; decide)]
  have hmem : (acting n h s).mem = s.mem := by
    rw [acting_eq hmarks, noteLate_mem]
    rfl
  unfold RecordsApart
  rw [hrn, hctl, hmem]
  exact hapart

theorem acting_xfer (hmarks : s.store.marks = []) {c : Nat} (hx : (chSt s c).xferAt ≠ s.time + 1) :
    (chSt (acting n h s) c).xferAt ≠ (acting n h s).time + 1 := by
  rw [chSt, (acting_chain hmarks).fields]
  exact hx

theorem dispatchCard_set (hplain : FiresPlain 0 n h s) (hmode : chMode (acting n h s) (cChan (cw0 s n)) = 9) :
    ∃ cap, dispatchCard n h s = completeCard n 0 h (setOutput n cap h.t (acting n h s)) := by
  obtain ⟨r, hfire, hcopy, hacting, hw⟩ := dispatchCard_plain hplain
  rw [hfire, fireCard, hw, hcopy, hacting]
  simp only [hplain.1.1, hmode, ne_eq, not_true_eq_false, if_false]
  exact ⟨_, rfl⟩

theorem dispatchCard_clear (hplain : FiresPlain 1 n h s) (hmode : chMode (acting n h s) (cChan (cw0 s n)) = 9) :
    ∃ ms, dispatchCard n h s = completeCard n 0 h (endOutput (cChan (cw0 s n)) h.t
      (forEach ms (fun m => completeCard m 2 { t := h.t }) (acting n h s))) := by
  obtain ⟨r, hfire, hcopy, hacting, hw⟩ := dispatchCard_plain hplain
  rw [hfire, fireCard, hw, hcopy, hacting]
  simp only [hplain.1.1, hmode, ne_eq, not_true_eq_false, if_false]
  exact ⟨_, rfl⟩

theorem dispatchCard_toggle (hplain : FiresPlain 2 n h s) (hmode : chMode (acting n h s) (cChan (cw0 s n)) = 9) :
    ∃ cap, dispatchCard n h s = completeCard n 0 h (toggleOutput n cap h.t (acting n h s)) := by
  obtain ⟨r, hfire, hcopy, hacting, hw⟩ := dispatchCard_plain hplain
  rw [hfire, fireCard, hw, hcopy, hacting]
  simp only [hplain.1.1, hmode, ne_eq, not_true_eq_false, if_false]
  exact ⟨_, rfl⟩

theorem dispatchCard_pulse (hplain : FiresPlain 3 n h s) (hmode : chMode (acting n h s) (cChan (cw0 s n)) = 9) :
    dispatchCard n h s = startPulse n h (acting n h s) := by
  obtain ⟨r, hfire, hcopy, hacting, hw⟩ := dispatchCard_plain hplain
  rw [hfire, fireCard, hw, hcopy, hacting]
  simp only [hplain.1.1, hmode, ne_eq, not_true_eq_false, if_false]

theorem dispatchCard_loadA (hplain : FiresPlain 4 n h s) (hmode : chMode (acting n h s) (cChan (cw0 s n)) ≠ 0) :
    dispatchCard n h s = completeCard n 0 h (writeCompare (cChan (cw0 s n)) (Reg.chCmpa (cChan (cw0 s n)))
      (cardWord (acting n h s) n 3) (acting n h s)) := by
  obtain ⟨r, hfire, hcopy, hacting, hw⟩ := dispatchCard_plain hplain
  rw [hfire, fireCard, hw, hcopy, hacting]
  simp only [hplain.1.1, hmode, if_false]

theorem dispatchCard_loadB (hplain : FiresPlain 5 n h s) (hmode : chMode (acting n h s) (cChan (cw0 s n)) ≠ 0) :
    dispatchCard n h s = completeCard n 0 h (writeCompare (cChan (cw0 s n)) (Reg.chCmpb (cChan (cw0 s n)))
      (cardWord (acting n h s) n 3) (acting n h s)) := by
  obtain ⟨r, hfire, hcopy, hacting, hw⟩ := dispatchCard_plain hplain
  rw [hfire, fireCard, hw, hcopy, hacting]
  simp only [hplain.1.1, hmode, if_false]

theorem dispatchCard_userEvent (hplain : FiresPlain 6 n h s) :
    dispatchCard n h s = completeCard n 0 h (raise (2688 + cChan (cw0 s n)) (acting n h s)) := by
  obtain ⟨r, hfire, hcopy, hacting, hw⟩ := dispatchCard_plain hplain
  rw [hfire, fireCard, hw, hcopy, hacting]
  simp only [hplain.1.1]

theorem dispatchCard_express (hplain : FiresPlain 7 n h s) {d : Nat}
    (hd : d = 4096 * exHalfNow (acting n h s) + fld (cardWord (acting n h s) n 3) 0 12)
    (hvalid : bit (tget 0 (acting n h s).shed.table (4 * d)) 31 = true)
    (hkind : fld (tget 0 (acting n h s).shed.table (4 * d)) 6 2 = 3)
    (heng : fld (tget 0 (acting n h s).shed.table (4 * d)) 0 6 ≤ 31) :
    dispatchCard n h s = completeCard n 0 h (forEach (expressRequest d (0x80000000#32 + wd n) (acting n h s, [])).2 raise
      (expressRequest d (0x80000000#32 + wd n) (acting n h s, [])).1) := by
  obtain ⟨r, hfire, hcopy, hacting, hw⟩ := dispatchCard_plain hplain
  rw [hfire, fireCard, hw, hcopy, hacting]
  simp only [hplain.1.1, ← hd, hvalid, hkind]
  rw [if_neg (by simp; omega)]

end

/-! ### The outputs, the running pulse and the compare values (R205, R206, R223) -/

theorem completeCard_chOut {n outcome c : Nat} {h : How} {s : State} (hc : c < 512) :
    chOut (completeCard n outcome h s) c = chOut s c :=
  chOut_of_rget ((completeCard_chain (ChainFrame.refl s)).regs _ (not_chainReg_ch (by simp only [Reg.chSts]; omega)))

theorem setOutput_out {n : Nat} {cap : Option Inst} {t : Inst} {s : State} (hfirst : firstOfStep (cChan (cw0 s n)) t s = true) :
    chOut (setOutput n cap t s) (cChan (cw0 s n)) = true := by
  have hout := (outStep_fresh hfirst fun x => { x with set := some (angleMark s n cap) }).1
  rw [setOutput, hout]
  simp [FineStep.net, freshStep]

theorem endOutput_out {c : Nat} {t : Inst} {s : State} (hfirst : firstOfStep c t s = true) : chOut (endOutput c t s) c = false := by
  have hout := (outStep_fresh hfirst fun x => { x with clr := true }).1
  rw [endOutput, hout]
  simp [FineStep.net, freshStep]

theorem toggleOutput_out {n : Nat} {cap : Option Inst} {t : Inst} {s : State} (hfirst : firstOfStep (cChan (cw0 s n)) t s = true) :
    chOut (toggleOutput n cap t s) (cChan (cw0 s n)) = !chOut s (cChan (cw0 s n)) := by
  have hout := (outStep_fresh hfirst fun x => { x with tog := x.tog ++ [(n, angleMark s n cap)] }).1
  rw [toggleOutput, hout]
  unfold FineStep.net
  simp only [freshStep, List.nil_append, List.mergeSort_singleton, List.foldl_cons, List.foldl_nil]
  cases chOut s (cChan (cw0 s n))
  · rfl
  · rfl

theorem startPulse_form (n : Nat) (h : How) (s : State) : ∃ cap f g, (∀ x : SlotSt, (f x).st = 4 ∧ (g x).st = x.st) ∧
    startPulse n h s = setOutput n cap h.t (nearLater n (modSlot n g (modSlot n f (cardRecord n 1 h s)))) := by
  unfold startPulse
  dsimp only
  split
  · refine ⟨_, _, _, ?_, rfl⟩
    exact fun x => ⟨rfl, rfl⟩
  · refine ⟨_, _, _, ?_, rfl⟩
    exact fun x => ⟨rfl, rfl⟩

theorem startPulse_out {n : Nat} {h : How} {s : State} (hn : n < 131072) (hmarks : s.store.marks = []) (hapart : RecordsApart s)
    (hfirst : firstOfStep (cChan (cw0 s n)) h.t s = true) :
    chOut (startPulse n h s) (cChan (cw0 s n)) = true ∧ (slotSt (startPulse n h s) n).st = 4 := by
  obtain ⟨cap, f, g, hfg, hform⟩ := startPulse_form n h s
  have hkept : CardsKept s (nearLater n (modSlot n g (modSlot n f (cardRecord n 1 h s)))) :=
    (((cardRecord_kept hmarks hapart).trans modSlot_kept).trans modSlot_kept).trans nearLater_kept
  have hfine : (nearLater n (modSlot n g (modSlot n f (cardRecord n 1 h s)))).chain.fine = s.chain.fine :=
    (fine_of_chain nearLater_keeps_chain).trans (modSlot_fine.trans (modSlot_fine.trans (fine_of_chain cardRecord_keeps_chain)))
  have hslot : (slotSt (nearLater n (modSlot n g (modSlot n f (cardRecord n 1 h s)))) n).st = 4 := by
    rw [slotSt_of_chain nearLater_keeps_chain, modSlot_slotSt_same, modSlot_slotSt_same, (hfg _).2, (hfg _).1]
  rw [hform]
  generalize nearLater n (modSlot n g (modSlot n f (cardRecord n 1 h s))) = u at hkept hfine hslot
  have hw : cw0 u n = cw0 s n := hkept.cardWord hmarks hn (by decide)
  refine ⟨?_, ?_⟩
  · rw [← hw]
    refine setOutput_out ?_
    rw [hw, firstOfStep, hfine]
    exact hfirst
  · rw [slotSt, setOutput, outStep_slots]
    exact hslot

theorem completeCard_rget_ch {n outcome a : Nat} {h : How} {s : State} (ha : 0x100000 ≤ a ∧ a < 0x120000) :
    rget (completeCard n outcome h s) a = rget s a := (completeCard_chain (ChainFrame.refl s)).regs _ (not_chainReg_ch ha)

/-- A live write of a compare value stands, where no transfer of its cycle has set it. -/
theorem writeCompare_rget {c a : Nat} {v : Word} {s : State} (hx : (chSt s c).xferAt ≠ s.time + 1) :
    rget (writeCompare c a v s) a = v := by
  have hch : ∀ b, (chSt (when_ b (setb (Reg.chSts c) 6 true) s) c).xferAt = (chSt s c).xferAt := fun b => by
    rw [chSt, when_of_eq (fun u : State => u.ch) setb_ch]
    rfl
  have htime : ∀ b, (when_ b (setb (Reg.chSts c) 6 true) s).time = s.time := fun b => when_of_eq (fun u : State => u.time) setb_time
  rw [writeCompare, liveWrite, if_neg (by rw [hch, htime]; exact fun h => hx h.1), rget_rset_same]

/-- An express request that is neither skipped nor merged waits (R62). -/
theorem expressRequest_taken {d : Nat} {g1 : Word} {s : State}
    (hheld : (engSt s (fld (tget 0 s.shed.table (4 * d)) 0 6)).held = false) (hcopying : s.flt.copying = false)
    (hnone : ∀ x ∈ s.shed.exPend, x.desc ≠ d) :
    (expressRequest d g1 (s, [])).1.shed.exPend = s.shed.exPend ++ [⟨d, g1, wd s.time⟩] ∧ (expressRequest d g1 (s, [])).2 = [] := by
  have hany : (s.shed.exPend.any fun x => x.desc == d) = false := by
    rw [List.any_eq_false]
    exact fun x hx => by simpa using hnone x hx
  rw [expressRequest]
  dsimp only
  rw [hheld, hcopying, hany, Bool.and_false, Bool.or_false, if_neg (by decide), if_neg (by decide), setb_shed]
  exact ⟨rfl, rfl⟩

/-- Settles O42: the chain comes to the action of the card, which is its next, and a plain card fires. -/
theorem cardsFire : Obligations.CardsFire := by
  unfold Obligations.CardsFire
  have hset : ∀ n s, exec (.cardSet n) s = fireAt 0 n s := fun _ _ => rfl
  have hclear : ∀ n s, exec (.cardClear n) s = fireAt 1 n s := fun _ _ => rfl
  have htoggle : ∀ n s, exec (.cardToggle n) s = fireAt 2 n s := fun _ _ => rfl
  have hpulse : ∀ n s, exec (.cardPulse n) s = fireAt 3 n s := fun _ _ => rfl
  have hloada : ∀ n s, exec (.loadCmpa n) s = fireAt 4 n s := fun _ _ => rfl
  have hloadb : ∀ n s, exec (.loadCmpb n) s = fireAt 5 n s := fun _ _ => rfl
  have huser : ∀ n s, exec (.userEvent n) s = fireAt 6 n s := fun _ _ => rfl
  have hexpress : ∀ n s, exec (.express n) s = fireAt 7 n s := fun _ _ => rfl
  simp only [hset, hclear, htoggle, hpulse, hloada, hloadb, huser, hexpress]
  refine ⟨fun n h s => fireAt_fires, fun n h s => fireAt_fires, fun n h s => fireAt_fires, fun n h s => fireAt_fires,
    fun n h s => fireAt_fires, fun n h s => fireAt_fires, fun n h s => fireAt_fires, fun n h s => fireAt_fires,
    fun n s => fireAt_passed, fun n s => fireAt_passed, fun n s => fireAt_passed, fun n s => fireAt_passed,
    fun n s => fireAt_passed, fun n s => fireAt_passed, fun n s => fireAt_passed, fun n s => fireAt_passed,
    ?_, ?_, ?_, ?_, ?_, ?_, ?_, ?_, ?_⟩
  · intro n h s hplain hmode hfirst
    have hmarks := hplain.2.1
    have hc : cChan (cw0 s n) < 512 := cChan_lt (cw0 s n)
    obtain ⟨cap, hrun⟩ := dispatchCard_set hplain ((acting_chMode hmarks hc).trans hmode)
    refine ⟨_, fireAt_fires hplain.1, ?_⟩
    have hw : cw0 (acting n h s) n = cw0 s n := acting_cw0 hmarks n.isLt
    have hout := setOutput_out (n := n) (cap := cap) (t := h.t) (s := acting n h s) (by rw [hw, acting_first hmarks]; exact hfirst)
    rw [hw] at hout
    rw [hrun, completeCard_chOut hc, hout]
  · intro n h s hplain hmode hfirst
    have hmarks := hplain.2.1
    have hc : cChan (cw0 s n) < 512 := cChan_lt (cw0 s n)
    obtain ⟨ms, hrun⟩ := dispatchCard_clear hplain ((acting_chMode hmarks hc).trans hmode)
    refine ⟨_, fireAt_fires hplain.1, ?_⟩
    have hends : (forEach ms (fun m => completeCard m 2 { t := h.t }) (acting n h s)).chain.fine = s.chain.fine :=
      (forEach_of_eq (fun u => u.chain.fine) (fun _ _ => completeCard_fine) _ _).trans (acting_fine hmarks)
    rw [hrun, completeCard_chOut hc, endOutput_out]
    rw [firstOfStep, hends]
    exact hfirst
  · intro n h s hplain hmode hfirst
    have hmarks := hplain.2.1
    have hc : cChan (cw0 s n) < 512 := cChan_lt (cw0 s n)
    obtain ⟨cap, hrun⟩ := dispatchCard_toggle hplain ((acting_chMode hmarks hc).trans hmode)
    refine ⟨_, fireAt_fires hplain.1, ?_⟩
    have hw : cw0 (acting n h s) n = cw0 s n := acting_cw0 hmarks n.isLt
    have hout := toggleOutput_out (n := n) (cap := cap) (t := h.t) (s := acting n h s)
      (by rw [hw, acting_first hmarks]; exact hfirst)
    rw [hw] at hout
    rw [hrun, completeCard_chOut hc, hout, acting_chOut hmarks hc]
  · intro n h s hplain hmode hfirst hapart
    have hmarks := hplain.2.1
    have hc : cChan (cw0 s n) < 512 := cChan_lt (cw0 s n)
    have hrun := dispatchCard_pulse hplain ((acting_chMode hmarks hc).trans hmode)
    refine ⟨_, fireAt_fires hplain.1, ?_⟩
    have hw : cw0 (acting n h s) n = cw0 s n := acting_cw0 hmarks n.isLt
    have hout := startPulse_out (n := n) (h := h) (s := acting n h s) n.isLt (by rw [(acting_kept hmarks).store]; exact hmarks)
      (acting_apart hmarks hapart) (by rw [hw, acting_first hmarks]; exact hfirst)
    rw [hw] at hout
    rw [hrun]
    exact hout
  · intro n h s hplain hmode hxfer
    have hmarks := hplain.2.1
    have hc : cChan (cw0 s n) < 512 := cChan_lt (cw0 s n)
    refine ⟨_, fireAt_fires hplain.1, ?_⟩
    rw [dispatchCard_loadA hplain (mt (acting_chMode hmarks hc).symm.trans hmode),
      completeCard_rget_ch (by simp only [Reg.chCmpa]; omega), writeCompare_rget (acting_xfer hmarks hxfer),
      (acting_kept hmarks).cardWord hmarks n.isLt (by decide)]
  · intro n h s hplain hmode hxfer
    have hmarks := hplain.2.1
    have hc : cChan (cw0 s n) < 512 := cChan_lt (cw0 s n)
    refine ⟨_, fireAt_fires hplain.1, ?_⟩
    rw [dispatchCard_loadB hplain (mt (acting_chMode hmarks hc).symm.trans hmode),
      completeCard_rget_ch (by simp only [Reg.chCmpb]; omega), writeCompare_rget (acting_xfer hmarks hxfer),
      (acting_kept hmarks).cardWord hmarks n.isLt (by decide)]
  · intro n h s hplain
    exact ⟨_, fireAt_fires hplain.1, dispatchCard_userEvent hplain⟩
  · intro n h s hplain hvalid hkind heng
    have hword : cardWord (acting n h s) n 3 = cardWord s n 3 := (acting_kept hplain.2.1).cardWord hplain.2.1 n.isLt (by decide)
    exact ⟨_, fireAt_fires hplain.1, dispatchCard_express hplain (by rw [hword]) hvalid hkind heng⟩
  · intro d g1 s hheld hcopying hnone
    exact expressRequest_taken hheld hcopying hnone

end Sys2Proof.Machine
end

section
/-!
PROOFS. Counter clears of the loom blocks (O14): a write of REED.CTL takes the requests of its pair anew before it clears.
-/

namespace Sys2Proof.Machine

/-- IDLE, with an active edge of pin 0 that still waits for its dead time though the output of its channel is inactive. -/
def staleRequest : State :=
  { regs := [(Reg.gctlMode, 3)], reed := [(0, { a := { req := true, due := some ⟨0, 0⟩ } })] }

/-- The word that REED_CNT_CLR writes to CTL of reed 0. -/
def staleWord : Word := setBit (keepWord staleRequest (Reg.reedCtl 0)) 8 true

def staleCleared : State := applyWrite (Reg.reedCtl 0) staleWord (inTurn .pcie staleRequest)

theorem staleRequest_accepts : Accepts .pcie (Reg.reedCtl 0) staleWord staleRequest := by
  unfold Accepts Takes TakesNow
  decide

theorem staleCleared_quiet : Quiet staleCleared := ⟨by decide, by decide⟩

/-- Refutes O14: the write of CTL ends the request that waited, a narrow pulse that SWL_CNT counts before it is cleared and so keeps,
while nothing was counted before the write. -/
theorem not_counterClearsOfTheLoom : ¬ Obligations.CounterClearsOfTheLoom := by
  rintro ⟨-, -, -, -, -, -, hreed, -⟩
  obtain ⟨u, hexec, hclear⟩ := hreed .pcie 0 staleRequest staleRequest_accepts
  have hrun : exec (.reedCntClr .pcie 0) staleRequest = .next (settle staleCleared) := setBitCmd_accepts staleRequest_accepts
  rw [hrun, settle_quiet staleCleared_quiet] at hexec
  injection hexec with hsettled
  have hcount : rget u (Reg.reedSwlCnt 0) = wd (min 0xFFFFFFFF (countNow (inTurn .pcie staleRequest) (Reg.reedSwlCnt 0))) :=
    hclear _ (by simp)
  have hkept : rget (settle u) (Reg.reedSwlCnt 0) = rget u (Reg.reedSwlCnt 0) :=
    rget_of_settle (by decide) (by decide) (by rw [← hsettled]; decide)
  have hone : rget staleCleared (Reg.reedSwlCnt 0) = 1 := by decide
  have hzero : countNow (inTurn .pcie staleRequest) (Reg.reedSwlCnt 0) = 0 := by decide
  rw [← hsettled, hone, hcount, hzero] at hkept
  exact absurd hkept (by decide)

end Sys2Proof.Machine
end

section
/-!
PROOFS. Counter clears of the outer blocks (O15): a write that sets CNT_CLR leaves in each counter of its block what it has counted in
the cycle (01_architecture.md R42).
-/

namespace Sys2Proof.Machine

/-! ### The write of a counter clear -/

theorem descAt_of_accepts {p : Path} {a : Nat} {v : Word} {s : State} (h : Accepts p a v s) : (descAt a).isNone = false := by
  have hplain := h.2.1
  simp only [plainReg, Bool.and_eq_true] at hplain
  simpa [Option.isNone_eq_false_iff] using hplain.1.1.1.1.1.1

/-- A command that sets the bit CNT_CLR of a register clears what the write of that register clears. -/
theorem cntClr_lands {p : Path} {a i : Nat} {bs : List Nat} {s : State}
    (h : Accepts p a (setBit (keepWord s a) i true) s)
    (hclr : (descAt a).isNone = false → ∀ t, ∀ b ∈ bs,
      rget (applyWrite a (setBit (keepWord s a) i true) t) b = wd (min 0xFFFFFFFF (countNow t b))) :
    ∃ u, setBitCmd p a i s = .next (settle u) ∧ ∀ b ∈ bs, rget u b = wd (min 0xFFFFFFFF (countNow (inTurn p s) b)) :=
  ⟨_, setBitCmd_accepts h, hclr (descAt_of_accepts h) _⟩

@[simp] theorem countNow_storeWord {a b : Nat} {v : Word} {s : State} : countNow (storeWord a v s) b = countNow s b := by
  unfold storeWord
  cases descAt a <;> rfl

@[simp] theorem bit_setBit_same {w : Word} {i : Nat} {b : Bool} (hi : i < 32) : bit (setBit w i b) i = b := by
  simp [bit_setBit hi]

/-! ### Beside the clear -/

/-- Registers above those of the window monitors stay when the comparators take their modes. -/
theorem cmpModesSet_rget_above {a : Nat} {s : State} (h : 0x171000 ≤ a) : rget (cmpModesSet s) a = rget s a := by
  refine forEach_rel (R := fun t u => rget u a = rget t a) (fun _ => rfl) (fun ht hu => hu.trans ht) _ s fun c hc u => ?_
  rw [mem_upto] at hc
  have hcmp : a ≠ cmpReg c := by
    unfold cmpReg
    split
    · simp only [Reg.winCmpl]; omega
    · simp only [Reg.winCmph]; omega
  have hsts : a ≠ Reg.winSts (c / 2) := by simp only [Reg.winSts]; omega
  unfold cmpModeSet
  dsimp only
  split
  · rfl
  · refine (rget_when_of_eq ?_).trans (rget_setf_other hcmp)
    simp only [cmpHold, winLevels]
    rw [rget_setb_other hsts, rget_setb_other hsts, rget_setb_other hsts]
    rfl

/-- What has been counted in the cycle, with the residency at the present level. -/
theorem cycNow_congr {s t : State} (htime : t.time = s.time) (hcyc : t.cyc = s.cyc) : cycNow t = cycNow s := by
  rw [cycNow, cycNow, htime, hcyc]

theorem countNow_congr {b : Nat} {s t : State} (htime : t.time = s.time) (hcyc : t.cyc = s.cyc) : countNow t b = countNow s b := by
  rw [countNow, countNow, cycNow_congr htime hcyc]

theorem countNow_resCount {a b k r : Nat} {s t : State} (htime : t.time = s.time) (hcyc : t.cyc = s.cyc) :
    countNow (resCount a k r t) b = countNow (resCount a k r s) b := by
  have hnote : ∀ v w, (noteCount a 1 (rset a v t)).cyc = (noteCount a 1 (rset a w s)).cyc := fun v w => by
    rw [noteCount, modCyc, modCyc, cycNow_congr (s := rset a w s) (t := rset a v t) htime hcyc]
  unfold resCount
  cases decide (0 < k ∧ r = 0)
  · exact countNow_congr htime hcyc
  · exact countNow_congr htime (hnote _ _)

theorem storeWord_form (a : Nat) (v : Word) (s : State) : ∃ regs, storeWord a v s = { s with regs := regs } ∧
    ∀ b, b ≠ a → rget (storeWord a v s) b = rget s b := by
  unfold storeWord
  split
  · exact ⟨s.regs, rfl, fun _ _ => rfl⟩
  · refine ⟨_, rfl, fun b hb => ?_⟩
    rw [clearBits, rget_rset_other hb, rget_rset_other hb]

theorem countNow_resSync {a b : Nat} {v : Word} {s : State} (h : a ≠ Reg.gctlMode) :
    countNow (resSync (storeWord a v s)) b = countNow (resSync s) b := by
  obtain ⟨regs, hstore, hother⟩ := storeWord_form a v s
  have hpower : power { storeWord a v s with pwr := { (storeWord a v s).pwr with since := (storeWord a v s).time } } =
      power { s with pwr := { s.pwr with since := s.time } } := power_congr (hother _ h.symm)
  unfold resSync
  dsimp only
  rw [hpower, hstore]
  dsimp only
  split
  · apply countNow_resCount
    · rfl
    · rfl
  · apply countNow_resCount
    · rfl
    · rfl
  · exact countNow_congr rfl rfl

section

variable {b : Nat} (hsts : b ≠ Reg.selSts) (hraise : ¬ RaiseReg b)
include hsts hraise

theorem setRing_rget {x : Nat} {s : State} : rget (setRing x s) b = rget s b := by
  unfold setRing
  dsimp only
  split
  · rw [raise_rget hraise, rget_setf_other hsts]
  · split
    · rw [raise_rget hraise, rget_setf_other hsts]
    · rw [rget_setf_other hsts]

theorem setAligned_rget {c : Bool} {s : State} : rget (setAligned c s) b = rget s b := by
  unfold setAligned
  split
  · rfl
  · split
    · rw [raise_rget hraise, rget_setb_other hsts]
    · rw [raise_rget hraise, rget_setb_other hsts, rget_setb_other hsts]

/-- The link starts and ends without a change of its counters. -/
theorem selEnable_rget {s : State} : rget (selEnable s) b = rget s b := by
  have hports : rget (setRing 1 (setPort .up 1 (setPort .dn 1 s))) b = rget s b := by
    rw [setRing_rget hsts hraise, setPort, setPort, rget_setf_other hsts, rget_setf_other hsts]
  exact hports

theorem selDisable_rget {s : State} : rget (selDisable s) b = rget s b := by
  have hports : rget (setAligned false (setRing 0 (setPort .up 0 (setPort .dn 0 s)))) b = rget s b := by
    rw [setAligned_rget hsts hraise, setRing_rget hsts hraise, setPort, setPort, rget_setf_other hsts, rget_setf_other hsts]
  exact hports

end

section

variable {a b : Nat} {v : Word} {s : State}

/-! ### The block of a register that is written -/

theorem applyWrite_writeGctl (hdesc : (descAt a).isNone = false) (hhigh : a < 0x10000) :
    applyWrite a v s = writeGctl a v s := by
  grind [applyWrite]

theorem applyWrite_writeEvm (hdesc : (descAt a).isNone = false) (hlow : 0x10000 ≤ a) (hhigh : a < 0x14000) :
    applyWrite a v s = writeEvm a v s := by
  grind [applyWrite]

theorem applyWrite_writeBob (hdesc : (descAt a).isNone = false) (hlow : 0x180000 ≤ a) (hhigh : a < 0x181000) :
    applyWrite a v s = writeBob a v s := by
  grind [applyWrite]

theorem applyWrite_writeBobc (hdesc : (descAt a).isNone = false) (hlow : 0x181000 ≤ a) (hhigh : a < 0x188000) :
    applyWrite a v s = writeBobc a v s := by
  grind [applyWrite]

theorem applyWrite_writeStore (hdesc : (descAt a).isNone = false) (hlow : 0x188000 ≤ a) (hhigh : a < 0x190000) :
    applyWrite a v s = writeStore a v s := by
  grind [applyWrite]

theorem applyWrite_writeSel (hdesc : (descAt a).isNone = false) (hlow : 0x1B0000 ≤ a) (hhigh : a < 0x1C0000) :
    applyWrite a v s = writeSel a v s := by
  grind [applyWrite]

theorem applyWrite_writeTop (hdesc : (descAt a).isNone = false) (hlow : 0x1C0000 ≤ a) :
    applyWrite a v s = writeTop a v s := by
  grind [applyWrite]

/-! ### Each block -/

theorem storeCtl_clears (hdesc : (descAt Reg.storeCtl).isNone = false) (hv : bit v 8 = true)
    (hb : b ∈ [Reg.storeCeCnt, Reg.storeUeCnt, Reg.storeScrubPass, Reg.storeMtCnt]) :
    rget (applyWrite Reg.storeCtl v s) b = wd (min 0xFFFFFFFF (countNow s b)) := by
  rw [applyWrite_writeStore hdesc (by decide) (by decide), writeStore, if_pos rfl]
  simp only [when_, hv, if_true, storeCntClrOp, rget_clrAll, hb, countNow_storeWord]

theorem bobSts_clears {n : Nat} (hn : n < 32) (hdesc : (descAt (Reg.bobSts n)).isNone = false) (hv : bit v 31 = true)
    (hb : b ∈ [Reg.bobXferCnt n]) : rget (applyWrite (Reg.bobSts n) v s) b = wd (min 0xFFFFFFFF (countNow s b)) := by
  have hinst : inst (Reg.bobSts n) 0x180000 0x40 = n := by unfold inst Reg.bobSts; omega
  have hoffs : offs (Reg.bobSts n) 0x180000 0x40 = 4 := by unfold offs Reg.bobSts; omega
  obtain rfl := List.mem_singleton.1 hb
  rw [applyWrite_writeBob hdesc (by unfold Reg.bobSts; omega) (by unfold Reg.bobSts; omega)]
  have hwrite : writeBob (Reg.bobSts n) v s = when_ (bit v 31) (bobCntClrOp n) (storeWord (Reg.bobSts n) v s) := by
    unfold writeBob
    rw [hinst, hoffs]
    rfl
  rw [hwrite, hv]
  exact rget_clr_same.trans (by rw [countNow_storeWord])

theorem bobcCtl_clears (hdesc : (descAt Reg.bobcCtl).isNone = false) (hv : bit v 8 = true) (hb : b ∈ [Reg.bobcLinkdropCnt]) :
    rget (applyWrite Reg.bobcCtl v s) b = wd (min 0xFFFFFFFF (countNow s b)) := by
  rw [applyWrite_writeBobc hdesc (by decide) (by decide), writeBobc, if_pos rfl, List.mem_singleton.1 hb]
  simp only [when_, hv, if_true, rget_clr_same]

theorem evmCtl_clears (hdesc : (descAt Reg.evmCtl).isNone = false) (hv : bit v 8 = true)
    (hb : b ∈ [Reg.evmMergeCnt, Reg.evmRedoCnt, Reg.evmDiscCnt]) :
    rget (applyWrite Reg.evmCtl v s) b = wd (min 0xFFFFFFFF (countNow s b)) := by
  rw [applyWrite_writeEvm hdesc (by decide) (by decide), writeEvm, if_pos rfl]
  simp only [when_, hv, if_true, evmCntClrOp, rget_clrAll, hb]

theorem vecSts_clears {j : Nat} (hj : j < 64) (hdesc : (descAt (Reg.vecSts j)).isNone = false) (hidle : bit v 0 = false)
    (hv : bit v 31 = true) (hb : b ∈ [Reg.vecDelivCnt j]) :
    rget (applyWrite (Reg.vecSts j) v s) b = wd (min 0xFFFFFFFF (countNow s b)) := by
  have hinst : inst (Reg.vecSts j) 0x10100 0x10 = j := by unfold inst Reg.vecSts; omega
  have hoffs : offs (Reg.vecSts j) 0x10100 0x10 = 4 := by unfold offs Reg.vecSts; omega
  have hlow : 0x10100 ≤ Reg.vecSts j ∧ Reg.vecSts j < 0x10500 := by unfold Reg.vecSts; omega
  have hne : Reg.vecSts j ≠ Reg.evmCtl ∧ Reg.vecSts j ≠ Reg.evmPendLo ∧ Reg.vecSts j ≠ Reg.evmPendHi ∧
      Reg.vecSts j ≠ Reg.evmMaskLo ∧ Reg.vecSts j ≠ Reg.evmMaskHi := by
    simp only [Reg.vecSts, Reg.evmCtl, Reg.evmPendLo, Reg.evmPendHi, Reg.evmMaskLo, Reg.evmMaskHi]
    omega
  obtain ⟨h0, h1, h2, h3, h4⟩ := hne
  rw [applyWrite_writeEvm hdesc (by omega) (by omega), writeEvm, if_neg h0, if_neg h1, if_neg h2, if_neg h3, if_neg h4,
    if_pos hlow, List.mem_singleton.1 hb]
  simp only [hinst, hoffs, writeVecSts, when_, hidle, hv, if_true, Bool.false_eq_true, if_false, rget_clr_same]
  rfl

theorem pwrCtl_clears (hdesc : (descAt Reg.pwrCtl).isNone = false) (hv : bit v 31 = true)
    (hb : b ∈ [Reg.pwrDozeRes, Reg.pwrSlumberRes]) :
    rget (applyWrite Reg.pwrCtl v s) b = wd (min 0xFFFFFFFF (countNow (resSync s) b)) := by
  have habove : 0x171000 ≤ b := by
    simp only [List.mem_cons, List.not_mem_nil, or_false, Reg.pwrDozeRes, Reg.pwrSlumberRes] at hb
    omega
  rw [applyWrite_writeTop hdesc (by decide), writeTop, if_neg (by decide), if_neg (by decide), if_pos (by decide), writePwr,
    if_pos rfl]
  dsimp only
  rw [cmpModesSet_rget_above habove]
  simp only [when_, hv, if_true, rget_clrAll, hb]
  rw [countNow_resSync (by decide)]

theorem chgCtl_clears (hdesc : (descAt Reg.chgCtl).isNone = false) (hv : bit v 8 = true)
    (hb : b ∈ [Reg.chgForcedCnt, Reg.chgChgCnt, Reg.chgAbortCnt]) :
    rget (applyWrite Reg.chgCtl v s) b = wd (min 0xFFFFFFFF (countNow s b)) := by
  rw [applyWrite_writeTop hdesc (by decide), writeTop, if_neg (by decide), if_pos (by decide), if_pos rfl]
  simp only [when_, hv, if_true, rget_clrAll, hb]

theorem selCtl_clears (hdesc : (descAt Reg.selCtl).isNone = false) (hv : bit v 31 = true)
    (hb : b ∈ [Reg.selCvCnt, Reg.selCrcCnt, Reg.selPoisonCnt, Reg.selLostCnt, Reg.selProtCnt, Reg.selLinkdnCnt, Reg.selStepCnt,
      Reg.selLcoAbortCnt]) : rget (applyWrite Reg.selCtl v s) b = wd (min 0xFFFFFFFF (countNow s b)) := by
  have hrange : 0x1B0080 ≤ b ∧ b ≤ 0x1B009C := by
    simp only [List.mem_cons, List.not_mem_nil, or_false, Reg.selCvCnt, Reg.selCrcCnt, Reg.selPoisonCnt, Reg.selLostCnt,
      Reg.selProtCnt, Reg.selLinkdnCnt, Reg.selStepCnt, Reg.selLcoAbortCnt] at hb
    omega
  have hsts : b ≠ Reg.selSts := by simp only [Reg.selSts]; omega
  have hraise : ¬ RaiseReg b := by
    simp only [RaiseReg, Reg.selLevOut, Reg.shedMergeCnt, Reg.shedExpMergeCnt]
    omega
  have hcleared : rget (when_ (bit v 31) selCntClrOp (storeWord Reg.selCtl v s)) b = wd (min 0xFFFFFFFF (countNow s b)) := by
    simp only [when_, hv, if_true, selCntClrOp, rget_clrAll, hb, countNow_storeWord]
  rw [applyWrite_writeSel hdesc (by decide) (by decide), writeSel, if_pos rfl]
  dsimp only
  split
  · rw [selEnable_rget hsts hraise, hcleared]
  · split
    · rw [selDisable_rget hsts hraise, hcleared]
    · exact hcleared

theorem mbxCtl_clears (hdesc : (descAt Reg.mbxCtl).isNone = false) (hv : bit v 8 = true)
    (hb : b ∈ [Reg.mbxCmdCnt, Reg.mbxRejCnt, Reg.mbxErrCnt]) :
    rget (applyWrite Reg.mbxCtl v s) b = wd (min 0xFFFFFFFF (countNow s b)) := by
  rw [applyWrite_writeTop hdesc (by decide), writeTop, if_pos (by decide), if_neg (by decide), if_pos rfl]
  simp only [when_, hv, if_true, rget_clrAll, hb]

theorem hostCtl_clears (hdesc : (descAt Reg.hostCtl).isNone = false) (hv : bit v 8 = true)
    (hb : b ∈ [Reg.hostLockCnt, Reg.hostLinkrstCnt, Reg.hostDropCnt, Reg.hostUrCnt, Reg.hostMalfCnt, Reg.hostSpiCrcCnt,
      Reg.hostSpiErrCnt]) : rget (applyWrite Reg.hostCtl v s) b = wd (min 0xFFFFFFFF (countNow s b)) := by
  rw [applyWrite_writeTop hdesc (by decide), writeTop, if_neg (by decide), if_neg (by decide), if_neg (by decide),
    if_pos (by decide), writeHost, if_pos rfl]
  simp only [when_, hv, if_true, rget_clrAll, hb]

theorem tackCtl_clears (hdesc : (descAt Reg.tackCtl).isNone = false) (hidle : bit v 0 = false) (hv : bit v 8 = true)
    (hb : b ∈ [Reg.tackRestartCnt, Reg.tackLogLostCnt, Reg.tackFlashErrCnt]) :
    rget (applyWrite Reg.tackCtl v s) b = wd (min 0xFFFFFFFF (countNow s b)) := by
  rw [applyWrite_writeTop hdesc (by decide), writeTop, if_neg (by decide), if_neg (by decide), if_neg (by decide),
    if_neg (by decide), writeTack, if_pos rfl]
  simp only [when_, hidle, hv, if_true, Bool.false_and, Bool.false_eq_true, if_false, tackCntClrOp, rget_clrAll, hb]

theorem gctlSts_clears (hdesc : (descAt Reg.gctlSts).isNone = false) (hv : bit v 31 = true)
    (hb : b ∈ [Reg.gctlLsCnt, Reg.gctlChkCnt, Reg.gctlMismCnt, Reg.gctlEmptyCnt, Reg.gctlSubstCnt, Reg.gctlRbCnt]) :
    rget (applyWrite Reg.gctlSts v s) b = wd (min 0xFFFFFFFF (countNow s b)) := by
  rw [applyWrite_writeGctl hdesc (by decide), writeGctl, if_neg (by decide), if_neg (by decide), if_neg (by decide), if_pos rfl]
  simp only [when_, hv, if_true, fltCntClrOp, rget_clrAll, hb, countNow_storeWord]

end

/-! ### The words that the commands write -/

/-- VEC[j].STS and TACK.CTL have no bits that a write keeps. -/
theorem vecSts_rw (j : Fin 64) : (descAt (Reg.vecSts j)).map (fun d => d.rw) = some 0 := by
  revert j
  decide

theorem tackCtl_rw : (descAt Reg.tackCtl).map (fun d => d.rw) = some 0 := by decide

theorem keepWord_of_rw {a : Nat} (h : (descAt a).map (fun d => d.rw) = some 0) (s : State) : keepWord s a = 0 := by
  obtain ⟨d, hd, hrw⟩ := Option.map_eq_some_iff.1 h
  rw [keepWord, hd]
  dsimp only
  rw [hrw]
  exact BitVec.and_zero

/-- Settles O15: the write of each command clears the counters of its block, and what else the write does leaves them. -/
theorem counterClearsOfTheOuterBlocks : Obligations.CounterClearsOfTheOuterBlocks := by
  unfold Obligations.CounterClearsOfTheOuterBlocks
  have hset : ∀ {w : Word} {i : Nat}, i < 32 → bit (setBit w i true) i = true := fun hi => bit_setBit_same hi
  refine ⟨fun p s h => cntClr_lands h fun hd t b hb => storeCtl_clears hd (hset (by decide)) hb,
    fun p n s h => cntClr_lands h fun hd t b hb => bobSts_clears n.isLt hd (hset (by decide)) hb,
    fun p s h => cntClr_lands h fun hd t b hb => bobcCtl_clears hd (hset (by decide)) hb,
    fun p s h => cntClr_lands h fun hd t b hb => evmCtl_clears hd (hset (by decide)) hb,
    fun p j s h => cntClr_lands h fun hd t b hb => vecSts_clears j.isLt hd ?_ (hset (by decide)) hb,
    fun p s h => ⟨_, setBitCmd_accepts h, fun b hb => pwrCtl_clears (descAt_of_accepts h) (hset (by decide)) hb⟩,
    fun p s h => cntClr_lands h fun hd t b hb => chgCtl_clears hd (hset (by decide)) hb,
    fun p s h => cntClr_lands h fun hd t b hb => selCtl_clears hd (hset (by decide)) hb,
    fun p s h => cntClr_lands h fun hd t b hb => mbxCtl_clears hd (hset (by decide)) hb,
    fun p s h => cntClr_lands h fun hd t b hb => hostCtl_clears hd (hset (by decide)) hb,
    fun p s h => cntClr_lands h fun hd t b hb => tackCtl_clears hd ?_ (hset (by decide)) hb,
    fun p s h => cntClr_lands h fun hd t b hb => gctlSts_clears hd (hset (by decide)) hb⟩
  · rw [keepWord_of_rw (vecSts_rw j)]
    decide
  · rw [keepWord_of_rw tackCtl_rw]
    decide

end Sys2Proof.Machine
end

section
/-!
PROOFS. The empty queue (O2): what a pending changeover brings at the end of a cycle can write to the stores.
-/

namespace Sys2Proof.Machine

/-- RUN in a changeover whose last channel and harness are numbers that the device does not have. The reeds of harness 384 stand where
the registers of tracker 0 are: with them EN of the tracker is written 0, and the loss of sync disarms the card of slot 0. -/
def strayHarness : State :=
  { regs := [(Reg.gctlMode, 5), (Reg.trdCtl 0, 1), (Reg.trdSts 0, 3), (Reg.cardCtl, 1), (Reg.cardCrBase, 0x1A00000),
      (Reg.cardCrSize, 4), (Reg.chgSts, 5)]
    mem := [(0x1800001, 0x10)]
    chg := { act := some { ver := 0, epoch := 0, cclass := 0, link := 0, key := 0, ssid := 0, reeds := [(384, [])] }
             chans := [3072], harns := [384] }
    chain := { slots := [(0, { st := 2 })] } }

theorem strayHarness_quiet : Quiet strayHarness := ⟨by decide, by decide⟩

/-- The last byte of word 0 of the record holds the outcome SYNC_DISARM. -/
theorem strayHarness_mem : mget (idleCycle strayHarness).mem 0x1A00003 = 0x60#8 := by decide +kernel

theorem strayHarness_idle_quiet : Quiet (idleCycle strayHarness) := ⟨by decide +kernel, by decide +kernel⟩

/-- Refutes O2: the disarmed card writes its completion record. -/
theorem not_emptyQueuePassesOneCycle : ¬ Obligations.EmptyQueuePassesOneCycle := by
  intro h
  obtain ⟨t, hstep, -, hmem, -⟩ := h strayHarness rfl (by decide) rfl rfl rfl rfl strayHarness_quiet
  have hrun : step strayHarness = .next (settle (idleCycle strayHarness)) := rfl
  rw [hrun, settle_quiet strayHarness_idle_quiet] at hstep
  injection hstep with ht
  have hrecord := strayHarness_mem
  rw [ht, hmem] at hrecord
  exact absurd hrecord (by decide)

end Sys2Proof.Machine
end
